-- ==== Sys2Proof/Word.lean ====
section
/-! DEFINITION. The words of the tile: bytes, the 8-, 16- and 24-bit registers of a trader, the 32-bit registers of the
host window and the 64-bit register values. -/

namespace Sys2Proof

abbrev Byte := BitVec 8
abbrev Half := BitVec 16
abbrev Acc24 := BitVec 24
abbrev Word := BitVec 32
abbrev Dword := BitVec 64

end Sys2Proof
end

