-- ==== Sys2Proof/Syntax.lean ====
section
/-! DEFINITION. The commands of the tile: one constructor for each row of spec/opcode_table.json, with the operands the
command carries from outside. A trader instruction names only its trader: the word it runs stands in that trader's
instruction memory (R97, R122). A command on behalf of the surroundings (a response, a frame, a sample) carries what the
surroundings answer. -/

namespace Sys2Proof

/-- A trader by its hall, its physical stall and its number in that stall (H6.S2.T3). -/
structure TraderId where
  h : Nat
  s : Nat
  t : Nat
  deriving DecidableEq, Repr

/-- A crier by its hall, its barrow and its number in that barrow (H0.B7.C2). -/
structure CrierId where
  h : Nat
  b : Nat
  c : Nat
  deriving DecidableEq, Repr

/-- Who makes a register access: a host port of R315, or a trader through its I/O page. -/
inductive Accessor where
  | host (port : Nat)
  | trader (t : TraderId)
  deriving DecidableEq, Repr

/-- Who calls an operation on a token or on a queue: a trader, a host agent of the hall (R289, R290), a porter thread
(R250), or an endpoint of a cart channel (R301; `dst` tells the destination end from the source end). -/
inductive Caller where
  | trader (t : TraderId)
  | host (h a : Nat)
  | porter (h k th : Nat)
  | cart (h c : Nat) (dst : Bool)
  deriving DecidableEq, Repr

/-- What the integrator's unit answers on the CPX port to one operation (R426): the operation is not defined; the unit is
not ready; the unit takes it. -/
inductive CpxAnswer where
  | illegal
  | notReady
  | taken
  deriving DecidableEq, Repr

/-- What a memory answers to one access: it is done; it met the bank collision of R268 on port B, with HM_BUSY, or on port A,
without a warning, and what a read returns of the words that collided is undefined, bit k of `words` standing for the k-th 64-bit
word that the access touches; an error response of the hall, of a host port, or a translation fault. -/
inductive MemOutcome where
  | ok
  | collide (words : Nat)
  | collideA (words : Nat)
  | hallError
  | hostError
  | transFault
  deriving DecidableEq, Repr

/-- What releases an AWAIT of a crier (R193). -/
inductive DeliverySrc where
  | bell (n : Nat)
  | devBell (n : Nat)
  | mark (m : Nat)
  | kick
  deriving DecidableEq, Repr

/-- What a receiver has lost (R247). -/
inductive LaneLoss where
  | lossOfSignal
  | lossOfLock
  deriving DecidableEq, Repr

/-- What the FEC decoder finds in a codeword: corrected symbols, or an uncorrectable codeword. -/
inductive FecResult where
  | corrected (n : Nat)
  | uncorrectable
  deriving DecidableEq, Repr

/-- The kinds of an error response of R319. -/
inductive HostErrKind where
  | translation
  | fabric
  | poisoned
  deriving DecidableEq, Repr

/-- What asks for a device reset (R374). -/
inductive ResetSrc where
  | pin
  | register
  | debug
  deriving DecidableEq, Repr

/-- The header of an order (R324) and where it came from: the ring, the slot, FLAGS, JOB and HTAG. -/
structure OrderHdr where
  ring : Nat
  slot : Nat
  flags : Nat
  job : Nat
  htag : Word
  deriving DecidableEq, Repr

/-- The commands, in the order of spec/opcode_table.json, but for the accesses of a port, which stand together before the trader instructions. -/
inductive Instr where
  /-- REGISTER_WRITE (R8): A host or trader write to a register that has no step of its own sets its fields according to their access codes. -/
  | registerWrite (by_ : Accessor) (addr : Nat) (data : List Byte)
  /-- READ_CLEAR (R8): A read of an RC register returns its value and then clears it, without losing a count added in the same cycle. -/
  | readClear (by_ : Accessor) (addr : Nat) (n : Nat) (added : Nat) (o : MemOutcome)
  /-- TILL_PLL_LOCK (R378): The till PLL locks to the reference clock, the till moves onto it, the crier clocks start and the axes begin to interpolate. -/
  | tillPllLock
  /-- LFO_TRIM_MEASURE (R28): When a window of 256 LFO cycles ends uninterrupted, the measured ticks per LFO cycle are written into TILL_LFO_INC. -/
  | lfoTrimMeasure (ticks256 : Nat)
  /-- TILL_ALARM_FIRE (R31): When a step of TILL_NOW reaches TILL_ALARM while ALARM_EN is 1, ALARM_HIT is set, ALARM_EN is cleared, a TILL_ALARM chit is raised and a wake may begin. -/
  | tillAlarmFire
  /-- REF_LOST (R30): The reference monitor declares REFCLK lost; the PLLs enter holdover, the lanes go down, REF_LOST is set and a REF_CLOCK chit is raised. -/
  | refLost
  /-- REF_BACK (R30): The reference monitor declares REFCLK back after 100 µs in tolerance, and the PLLs begin to pull toward lock. -/
  | refBack
  /-- HOLDOVER_EXIT (R30): The till PLL has locked again: HOLDOVER clears and a second REF_CLOCK chit reports the return. -/
  | holdoverExit
  /-- QUADRATURE_EDGE (R33): A filtered quadrature edge is timestamped and counted into z, or it sets OVERSPEED or QUAD_ERR and makes the axis lost. -/
  | quadratureEdge (n : Nat) (a b : Bool) (tm : Nat)
  /-- ESTIMATOR_UPDATE (R34): At tu = t + 2^K the axis estimator updates p and v from the latest measurement, or from TAX_VCMD, and the new state applies from tu + 32. -/
  | estimatorUpdate (n : Nat)
  /-- TAX_CTRL_WRITE (R36): A TAX_CTRL write enables the axis, setting t to the write tick, or changes K with effect from the next update. -/
  | taxCtrlWrite (by_ : Accessor) (n : Nat) (v : Word)
  /-- PRESET (R39): A write of TAX_CMD.PRESET requests p := TAX_PRESET at the next update, clearing LOST. -/
  | preset (by_ : Accessor) (n : Nat)
  /-- CLEAR_LOST (R39): A write of TAX_CMD.CLEAR_LOST requests v := 0 and LOST := 0 at the next update. -/
  | clearLost (by_ : Accessor) (n : Nat)
  /-- ARM (R43): A write of TM_CTRL.ARM takes the collected target, step and fields and projects the mark, or is refused with CFG_ERR. -/
  | arm (by_ : Accessor) (h m : Nat) (v : Word)
  /-- DISARM (R49): A write of TM_CTRL.DISARM withdraws an arming, provided it completes at least 64 ticks before a committed instant. -/
  | disarm (by_ : Accessor) (h m : Nat) (v : Word)
  /-- MARK_ACTION (R47): At its committed instant a mark drives its pin edge, rings its bell, starts its cart channel, raises its event, counts and records the instant. -/
  | markAction (h m : Nat)
  /-- PULSE_END (R47): PULSE_TICKS after a pulse action, the mark's output level returns. -/
  | pulseEnd (h m : Nat)
  /-- COUNTER_PIN_EDGE (R59): A filtered edge of a counter's capture pin clocks the counter and advances the prescale count. -/
  | counterPinEdge (h c : Nat) (level : Bool) (tm : Nat)
  /-- COUNTER_MATCH (R56): The count arrives at CT_COMPARE; MATCH is set, CMP_OUT drives the output, and an event and a bell ring may follow. -/
  | counterMatch (h c : Nat)
  /-- COUNTER_WRAP (R54): The count wraps from CT_PERIOD or 0xFFFF_FFFF to 0, sets WRAP, applies WRAP_OUT and clocks any neighbour counter. -/
  | counterWrap (h c : Nat)
  /-- CT_CTRL_WRITE (R53): A CT_CTRL write may set the axis record, or refuse a CLK_SRC that would form a chain of four. -/
  | ctCtrlWrite (by_ : Accessor) (h c : Nat) (v : Word)
  /-- CT_PERIOD_WRITE (R55): A CT_PERIOD write takes effect against the present count, setting PERIOD_PASSED when the new period lies below it. -/
  | ctPeriodWrite (by_ : Accessor) (h c : Nat) (v : Word)
  /-- CT_COUNT_WRITE (R57): A CT_COUNT write sets the count and wins over a clock event in the same tick. -/
  | ctCountWrite (by_ : Accessor) (h c : Nat) (v : Word)
  /-- CT_INPUT_WRITE (R59): A CT_INPUT write restarts the prescale count without causing an edge. -/
  | ctInputWrite (by_ : Accessor) (h c : Nat) (v : Word)
  /-- CHAIN_READ (R58): A read of CT_COUNT of a chain's lowest member loads CT_COUNT_LATCH of each higher member. -/
  | chainRead (by_ : Accessor) (h c : Nat)
  -- The other accesses of a port, which the tile can hold (R321, R377, R404).
  /-- INVAL (R78): A write of STL_ICACHE.INVAL begins invalidation of every line of the instruction cache. -/
  | inval (by_ : Accessor) (h f : Nat)
  /-- PAGE_SEL (R71): A write of STL_CTRL.PAGE_SEL exchanges the IMEM pages when every trader is stopped, and is otherwise refused with PAGE_REFUSED. -/
  | pageSel (by_ : Accessor) (h f : Nat) (page : Bool)
  /-- IMEM_WRITE (R72): A host-window write to IMEM, which must be 32 bits and aligned, takes effect for later fetches. -/
  | imemWrite (port : Nat) (h f page : Nat) (off : Nat) (data : List Byte)
  /-- EV_KICK (R170): A write of EV_KICK makes KICK pending in the named traders of the stall. -/
  | evKick (by_ : Accessor) (h f : Nat) (mask : Half)
  /-- EV_PEND_SET (R170): A write of EV_PEND_SET makes the named sources pending. -/
  | evPendSet (by_ : Accessor) (t : TraderId) (mask : Nat)
  /-- ER_RECORD_WRITE (R163): A write of an event record is limited for S and PLVL and loses to an entry or exit in the same cycle. -/
  | erRecordWrite (by_ : Accessor) (t : TraderId) (lvl : Nat) (word : Nat) (v : Word)
  /-- CR_TXF_PUSH (R191): A write of CR_TXF pushes one entry into the TX FIFO, or is discarded with TX_OVER. -/
  | crTxfPush (by_ : Accessor) (c : CrierId) (v : Word)
  /-- CR_RXF_POP (R191): A read of CR_RXF pops one entry, or returns 0 with RX_UNDER. -/
  | crRxfPop (by_ : Accessor) (c : CrierId)
  /-- CRIER_START (R198): A write of BR_RUN_SET starts the named criers at their PC. -/
  | crierStart (by_ : Accessor) (h b : Nat) (mask : Nat)
  /-- CRIER_STOP (R198): A write of BR_RUN_CLR stops the named criers at the next cycle boundary. -/
  | crierStop (by_ : Accessor) (h b : Nat) (mask : Nat)
  /-- RESTART (R198): CR_CTRL.RESTART sets PC := START_PC and clears the shifters and the watch. -/
  | restart (by_ : Accessor) (c : CrierId)
  /-- FLUSH (R198): CR_CTRL.FLUSH empties both FIFOs of the crier. -/
  | flush (by_ : Accessor) (c : CrierId)
  /-- KICK (R194): A write of BR_KICK kicks the named criers. -/
  | kick (by_ : Accessor) (h b : Nat) (mask : Nat)
  /-- CR_FIFO_WRITE (R189): A CR_FIFO write changes JOIN only while the crier is stopped, and is otherwise refused with CFG_ERR. -/
  | crFifoWrite (by_ : Accessor) (c : CrierId) (v : Word)
  /-- BR_CLK_WRITE (R173): A BR_CLK write sets the crier clock divisor from the next cycle boundary and clears the accumulator. -/
  | brClkWrite (by_ : Accessor) (h b : Nat) (v : Word)
  /-- BR_IDATA_WRITE (R201): A BR_IDATA write stores a crier instruction word at BR_IADDR and may advance the address. -/
  | brIdataWrite (by_ : Accessor) (h b : Nat) (v : Word)
  /-- INSTRUCTION_PAGE_WRITE (R195): A host write of a crier page word takes effect at the end of the crier cycle in which it arrives. -/
  | instructionPageWrite (port : Nat) (h b page w : Nat) (v : Word)
  /-- BARROW_PAGE_SEL (R197): A write of BR_CTRL.PAGE_SEL requests, or withdraws, a change of the barrow's active page. -/
  | barrowPageSel (by_ : Accessor) (h b : Nat) (page : Bool)
  /-- PIN_CFG_WRITE (R205): A PIN_CFG write is checked, refused with CFG_ERR, or accepted for a switch-over. -/
  | pinCfgWrite (port : Nat) (h p : Nat) (v : Word)
  /-- PIN_CFG_SH_WRITE (R205): A PIN_CFG_SH write is checked like PIN_CFG and stored for a swap. -/
  | pinCfgShWrite (port : Nat) (h p : Nat) (v : Word)
  /-- PIN_OUT_SET (R224): A PIN_OUT_SETk write sets the named GPIO latches in one hall-clock edge. -/
  | pinOutSet (port : Nat) (h k : Nat) (v : Word)
  /-- PIN_OUT_CLR (R224): A PIN_OUT_CLRk write clears the named GPIO latches in one hall-clock edge. -/
  | pinOutClr (port : Nat) (h k : Nat) (v : Word)
  /-- PIN_HOLD_SET (R214): A PIN_HOLD_SETk write sets the HOST hold source of the named pins. -/
  | pinHoldSet (port : Nat) (h k : Nat) (v : Word)
  /-- PIN_HOLD_CLR (R214): A PIN_HOLD_CLRk write clears the HOST hold source of the named pins. -/
  | pinHoldClr (port : Nat) (h k : Nat) (v : Word)
  /-- PIN_EVT_WRITE (R212): A PIN_EVT write restarts the pin filter without an event. -/
  | pinEvtWrite (port : Nat) (h p : Nat) (v : Word)
  /-- PSW_MAP_WRITE (R221): A PSW_MAP write reassigns barrows to stalls entry by entry, refusing entries whose traders run. -/
  | pswMapWrite (port : Nat) (h k : Nat) (v : Word)
  /-- LN_CTRL_WRITE (R226): An LN_CTRL write changes MODE only while the lane is off or down, and is otherwise refused with CFG_ERR. -/
  | lnCtrlWrite (port : Nat) (h k : Nat) (v : Word)
  /-- LN_GROUP_WRITE (R242): A MEMBERS write takes effect only while the lane is off or down. -/
  | lnGroupWrite (port : Nat) (h k : Nat) (v : Word)
  /-- PT_MBOX_WRITE (R256): A host write of PT_MBOX raises the MBOX micro-trap in the named thread. -/
  | ptMboxWrite (port : Nat) (h k : Nat) (v : Word)
  /-- TX_RUN (R259): A PT_CTRL.TX_RUN write starts thread 1 at TX_ENTRY or stops it, and a start is refused while CS_VERSION is 0. -/
  | txRun (port : Nat) (h k : Nat) (run : Bool)
  /-- RX_RUN (R259): A PT_CTRL.RX_RUN write starts or stops thread 0 in the same way. -/
  | rxRun (port : Nat) (h k : Nat) (run : Bool)
  /-- CONTROL_STORE_WRITE (R259): A control-store word takes effect at its +0x10 write while both threads are stopped, and is otherwise discarded with CS_REFUSED. -/
  | controlStoreWrite (port : Nat) (h k : Nat) (off : Nat) (v : Word)
  /-- TOKEN_ACQUIRE (R275): An alias read of TK_ACQ or TK_HACQ acquires a token word through the atomic unit and the live-token table. -/
  | tokenAcquire (by_ : Caller)
  /-- TOKEN_RELEASE (R277): An alias write of TK_REL or TK_HREL releases, force-releases or refuses a token. -/
  | tokenRelease (by_ : Caller) (force : Bool)
  /-- HL_ABANDON (R279): A write of HL_ABANDON resets host agents, marking their tokens ABANDONED and withdrawing their queue holdings. -/
  | hlAbandon (by_ : Accessor) (h : Nat) (mask : Half)
  /-- QUEUE_RESERVE (R285): A reserve claims the next free slot of a queue for the caller. -/
  | queueReserve (by_ : Caller)
  /-- QUEUE_COMMIT (R285): A commit publishes the caller's reserved elements by advancing TAIL. -/
  | queueCommit (by_ : Caller)
  /-- QUEUE_ABORT (R285): An abort withdraws the caller's reservations. -/
  | queueAbort (by_ : Caller)
  /-- QUEUE_TAKE (R285): A take claims the next takeable element for the caller. -/
  | queueTake (by_ : Caller)
  /-- QUEUE_DONE (R285): A done retires the caller's taken elements by advancing HEAD. -/
  | queueDone (by_ : Caller)
  /-- QUEUE_RETURN (R285): A return gives back the caller's taken elements. -/
  | queueReturn (by_ : Caller)
  /-- QUEUE_DESCRIPTOR_WRITE (R284): A queue descriptor write sets VALID after checks, clears it with abort and return, or is discarded with QDESC_REFUSED. -/
  | queueDescriptorWrite (port : Nat) (h q : Nat) (off : Nat) (v : Word)
  /-- BL_RING (R143): A write of BL_RING or HL_BELL_RING rings the named hall bells. -/
  | blRing (by_ : Accessor) (h : Nat) (mask : Word)
  /-- DB_RING (R143): A write of DB_RING rings the named device bells. -/
  | dbRing (by_ : Accessor) (mask : Half)
  /-- CART_START (R310): A start of a cart channel is accepted when the channel is IDLE and the engine is not halted, and is otherwise refused with START_BUSY. -/
  | cartStart (port : Nat) (h c : Nat)
  /-- CART_ABORT (R307): CH_CTRL.ABORT ends a channel, finishing bursts in flight and withdrawing its queue holdings. -/
  | cartAbort (port : Nat) (h c : Nat)
  /-- CART_PAUSE (R308): CH_CTRL.PAUSE = 1 stops the channel at its next burst boundary. -/
  | cartPause (port : Nat) (h c : Nat)
  /-- CART_RESUME (R308): CH_CTRL.PAUSE = 0 resumes a paused channel. -/
  | cartResume (port : Nat) (h c : Nat)
  /-- RESUME (R309): CE_CTRL.RESUME clears HALT and CE_ERR_INFO.VALID. -/
  | cartEngineResume (port : Nat) (h : Nat)
  /-- ORDER_DOORBELL (R322): A write of OR_TAIL announces orders in an order ring. -/
  | orderDoorbell (port : Nat) (n : Nat) (v : Word)
  /-- OR_CTRL_WRITE (R345): An OR_CTRL write enables a ring, or disables it and clears HEAD and TAIL. -/
  | orCtrlWrite (port : Nat) (n : Nat) (v : Word)
  /-- CHIT_ACKNOWLEDGE (R343): A write of CR_READ acknowledges chits, takes their identities out of service and releases pending chits. -/
  | chitAcknowledge (port : Nat) (n : Nat) (v : Word)
  /-- CR_CTRL_WRITE (R342): A CR_CTRL write enables a chit ring, or disables it with its chits handled as acknowledged or pending. -/
  | crCtrlWrite (port : Nat) (n : Nat) (v : Word)
  /-- CHIT_MASK_SET (R344): A CHIT_MASK_SETk write masks ring interrupts. -/
  | chitMaskSet (port : Nat) (k : Nat) (v : Word)
  /-- CHIT_MASK_CLR (R344): A CHIT_MASK_CLRk write unmasks ring interrupts. -/
  | chitMaskClr (port : Nat) (k : Nat) (v : Word)
  /-- CHIT_PEND_SET (R344): A CHIT_PEND_SETk write sets software-pending bits. -/
  | chitPendSet (port : Nat) (k : Nat) (v : Word)
  /-- CHIT_PEND_CLR (R344): A CHIT_PEND_CLRk write clears software-pending bits. -/
  | chitPendClr (port : Nat) (k : Nat) (v : Word)
  /-- WIND_RELEASE (R373): HS_CTRL.WIND_RELEASE clears the WIND hold of every pin of the hall. -/
  | windRelease (port : Nat) (h : Nat)
  /-- SWITCH (R379): A write of PWR_CLK.SWITCH moves every stall onto core PLL A and enters full service. -/
  | clockSwitch (by_ : Accessor)
  /-- FT_LOCKSTEP_WRITE (R401): A FT_LOCKSTEP write pairs or unpairs stalls only while both are stopped, and is otherwise refused with LS_REFUSED. -/
  | ftLockstepWrite (port : Nat) (h : Nat) (v : Word)
  /-- FAIL (R403): A write of FT_HCTRL.FAIL requests a fail-over of role FAIL_ROLE with cause HOST. -/
  | failRequest (port : Nat) (h role : Nat)
  /-- FAIL_RELEASE (R406): FT_HCTRL.FAIL_RELEASE clears every FAIL hold of the hall. -/
  | failRelease (port : Nat) (h : Nat)
  /-- WINDOW_MEMORY_WRITE (R321): A host-window write of 1 to 64 bytes to hall memory or stall RAM is merged into its words, meeting other masters under R268, R69 and R280. -/
  | windowMemoryWrite (port : Nat) (addr : Nat) (data : List Byte)
  -- The trader instructions.
  /-- NOP (R129): The trader instruction NOP does nothing. -/
  | nop (t : TraderId)
  /-- ADD (R129): Data ALU ADD: d[dst] := d[s1] + d[s2], with flags. -/
  | add (t : TraderId)
  /-- ADDC (R129): Data ALU ADDC: adds two D registers and the carry. -/
  | addc (t : TraderId)
  /-- SUB (R129): Data ALU SUB: d[dst] := d[s1] − d[s2]. -/
  | sub (t : TraderId)
  /-- SUBB (R129): Data ALU SUBB: subtracts with borrow. -/
  | subb (t : TraderId)
  /-- AND (R129): Data ALU bitwise AND of two D registers. -/
  | andD (t : TraderId)
  /-- OR (R129): Data ALU bitwise OR of two D registers. -/
  | orD (t : TraderId)
  /-- XOR (R129): Data ALU bitwise XOR of two D registers. -/
  | xorD (t : TraderId)
  /-- NOT (R129): Data ALU NOT: d[dst] := not d[s1]. -/
  | notD (t : TraderId)
  /-- NEG (R129): Data ALU NEG: d[dst] := 0 − d[s1]. -/
  | neg (t : TraderId)
  /-- MOV (R129): Data ALU MOV between D registers. -/
  | mov (t : TraderId)
  /-- SHL (R129): Data ALU shift left by a register amount. -/
  | shl (t : TraderId)
  /-- SHR (R129): Data ALU logical shift right by a register amount. -/
  | shr (t : TraderId)
  /-- SAR (R129): Data ALU arithmetic shift right by a register amount. -/
  | sar (t : TraderId)
  /-- ROL (R129): Data ALU rotate left by a register amount. -/
  | rol (t : TraderId)
  /-- ROR (R129): Data ALU rotate right by a register amount. -/
  | ror (t : TraderId)
  /-- MINU (R129): Data ALU unsigned minimum of two D registers. -/
  | minu (t : TraderId)
  /-- MAXU (R129): Data ALU unsigned maximum of two D registers. -/
  | maxu (t : TraderId)
  /-- REV (R129): Data ALU reversal of the bit order of a byte. -/
  | rev (t : TraderId)
  /-- POPC (R129): Data ALU count of the one bits of a byte. -/
  | popc (t : TraderId)
  /-- ADDI (R129): Adds an 8-bit immediate to a D register. -/
  | addi (t : TraderId)
  /-- ANDI (R129): ANDs a D register with an immediate. -/
  | andi (t : TraderId)
  /-- ORI (R129): ORs a D register with an immediate. -/
  | ori (t : TraderId)
  /-- XORI (R129): XORs a D register with an immediate. -/
  | xori (t : TraderId)
  /-- MOVI (R129): Loads an 8-bit immediate into a D register. -/
  | movi (t : TraderId)
  /-- SHI (R129): Shifts or rotates a D register by an immediate amount, of the kind IMM[10:8] selects. -/
  | shi (t : TraderId)
  /-- CMP (R130): Compares two D registers under COND and writes a predicate. -/
  | cmp (t : TraderId)
  /-- CMPI (R130): Compares a D register with an immediate and writes a predicate. -/
  | cmpi (t : TraderId)
  /-- CMPAC (R130): Compares two accumulators and writes a predicate. -/
  | cmpac (t : TraderId)
  /-- CMPA (R130): Compares two A registers and writes a predicate. -/
  | cmpa (t : TraderId)
  /-- CMPAI (R130): Compares an A register with a 12-bit immediate and writes a predicate. -/
  | cmpai (t : TraderId)
  /-- PAND (R130): Predicate AND. -/
  | pand (t : TraderId)
  /-- POR (R130): Predicate OR. -/
  | por (t : TraderId)
  /-- PXOR (R130): Predicate XOR. -/
  | pxor (t : TraderId)
  /-- PANDN (R130): Predicate AND NOT. -/
  | pandn (t : TraderId)
  /-- PNOT (R130): Predicate NOT. -/
  | pnot (t : TraderId)
  /-- PMOV (R130): Predicate move. -/
  | pmov (t : TraderId)
  /-- PSET (R130): Sets a predicate to 1. -/
  | pset (t : TraderId)
  /-- PCLR (R130): Clears a predicate to 0. -/
  | pclr (t : TraderId)
  /-- PCND (R130): Writes a predicate from a condition read from FL. -/
  | pcnd (t : TraderId)
  /-- BTST (R130): Tests a bit of a D register into a predicate. -/
  | btst (t : TraderId)
  /-- BSET (R130): Sets a bit of a D register. -/
  | bset (t : TraderId)
  /-- BCLR (R130): Clears a bit of a D register. -/
  | bclr (t : TraderId)
  /-- BINV (R130): Inverts a bit of a D register. -/
  | binv (t : TraderId)
  /-- ACC_ADD (R131): Accumulator ADD of two accumulators. -/
  | accAdd (t : TraderId)
  /-- ACC_ADDC (R131): Accumulator add with carry. -/
  | accAddc (t : TraderId)
  /-- ACC_SUB (R131): Accumulator subtract. -/
  | accSub (t : TraderId)
  /-- ACC_SUBB (R131): Accumulator subtract with borrow. -/
  | accSubb (t : TraderId)
  /-- ACC_ADDD (R131): Adds a zero-extended D register to an accumulator. -/
  | accAddd (t : TraderId)
  /-- ADDA (R131): Adds a zero-extended A register to an accumulator. -/
  | adda (t : TraderId)
  /-- ADDAS (R131): Adds a sign-extended A register to an accumulator. -/
  | addas (t : TraderId)
  /-- FOLD (R131): Forms the ones'-complement sum of the two halves of an accumulator. -/
  | fold (t : TraderId)
  /-- ACC_AND (R131): Accumulator bitwise AND. -/
  | accAnd (t : TraderId)
  /-- ACC_OR (R131): Accumulator bitwise OR. -/
  | accOr (t : TraderId)
  /-- ACC_XOR (R131): Accumulator bitwise XOR. -/
  | accXor (t : TraderId)
  /-- ACC_MOV (R131): Moves an accumulator. -/
  | accMov (t : TraderId)
  /-- ACC_SHL (R131): Shifts an accumulator left by a register amount. -/
  | accShl (t : TraderId)
  /-- ACC_SHR (R131): Shifts an accumulator right logically by a register amount. -/
  | accShr (t : TraderId)
  /-- ACC_SAR (R131): Shifts an accumulator right arithmetically by a register amount. -/
  | accSar (t : TraderId)
  /-- INSD (R131): Shifts an accumulator left by 8 and inserts a D register. -/
  | insd (t : TraderId)
  /-- INSA (R131): Shifts an accumulator left by 16 and inserts an A register. -/
  | insa (t : TraderId)
  /-- EXTD (R131): Extracts the low byte of an accumulator into a D register. -/
  | extd (t : TraderId)
  /-- EXTA (R131): Extracts the low 16 bits of an accumulator into an A register. -/
  | exta (t : TraderId)
  /-- EXTAH (R131): Extracts the high byte of an accumulator into an A register. -/
  | extah (t : TraderId)
  /-- ACI (R131): Adds a sign-extended immediate to an accumulator. -/
  | aci (t : TraderId)
  /-- ACSH (R131): Shifts an accumulator by an immediate amount. -/
  | acsh (t : TraderId)
  /-- ACLI (R131): Loads a zero-extended immediate into an accumulator. -/
  | acli (t : TraderId)
  /-- ACHI (R131): Loads the high byte of an accumulator from an immediate. -/
  | achi (t : TraderId)
  /-- ADR_ADD (R132): Address ADD of two A registers. -/
  | adrAdd (t : TraderId)
  /-- ADR_SUB (R132): Address SUB of two A registers. -/
  | adrSub (t : TraderId)
  /-- ADR_ADDC (R132): Address add with carry. -/
  | adrAddc (t : TraderId)
  /-- ADR_SUBB (R132): Address subtract with borrow. -/
  | adrSubb (t : TraderId)
  /-- ADR_AND (R132): Address bitwise AND. -/
  | adrAnd (t : TraderId)
  /-- ADR_OR (R132): Address bitwise OR. -/
  | adrOr (t : TraderId)
  /-- ADR_XOR (R132): Address bitwise XOR. -/
  | adrXor (t : TraderId)
  /-- ADR_MOV (R132): Moves an A register. -/
  | adrMov (t : TraderId)
  /-- ADR_SHL (R132): Shifts an A register left by a D register amount. -/
  | adrShl (t : TraderId)
  /-- ADR_SHR (R132): Shifts an A register right logically by a D register amount. -/
  | adrShr (t : TraderId)
  /-- ADR_SAR (R132): Shifts an A register right arithmetically by a D register amount. -/
  | adrSar (t : TraderId)
  /-- ADR_ADDD (R132): Adds a zero-extended D register to an A register. -/
  | adrAddd (t : TraderId)
  /-- MOVDL (R132): Moves a D register into the low byte of an A register. -/
  | movdl (t : TraderId)
  /-- MOVDH (R132): Moves a D register into the high byte of an A register. -/
  | movdh (t : TraderId)
  /-- MOVLD (R132): Moves the low byte of an A register into a D register. -/
  | movld (t : TraderId)
  /-- MOVHD (R132): Moves the high byte of an A register into a D register. -/
  | movhd (t : TraderId)
  /-- ADDAI (R132): Adds an immediate to an A register. -/
  | addai (t : TraderId)
  /-- MOVAI (R132): Loads an immediate into an A register. -/
  | movai (t : TraderId)
  /-- SHAI (R132): Shifts an A register by an immediate amount. -/
  | shai (t : TraderId)
  /-- MULU (R133): Unsigned multiply of two D registers into MRL, with the product landing two issue slots later. -/
  | mulu (t : TraderId)
  /-- MULS (R133): Signed multiply of two D registers into MRH:MRL. -/
  | muls (t : TraderId)
  /-- MULUA (R133): Unsigned multiply of two A registers into MRH:MRL. -/
  | mulua (t : TraderId)
  /-- MULSA (R133): Signed multiply of two A registers into MRH:MRL. -/
  | mulsa (t : TraderId)
  /-- MUL_PRODUCT_LAND (R91): A MUL product is written into MRH and MRL at the start of the trader's second following issue slot. -/
  | mulProductLand (t : TraderId)
  /-- LDB (R134): Loads a byte into a D register from the effective address. -/
  | ldb (t : TraderId)
  /-- STB (R134): Stores a D register as a byte. -/
  | stb (t : TraderId)
  /-- LDH (R134): Loads 16 bits into an A register, split at an odd address. -/
  | ldh (t : TraderId)
  /-- STH (R134): Stores an A register as 16 bits. -/
  | sth (t : TraderId)
  /-- LDT (R134): Loads 24 bits into an accumulator in two accesses. -/
  | ldt (t : TraderId)
  /-- STT (R134): Stores an accumulator as 24 bits in two accesses. -/
  | stt (t : TraderId)
  /-- LDBA (R134): Loads a zero-extended byte into an A register. -/
  | ldba (t : TraderId)
  /-- BCPY (R135): Copies 1 to 16 bytes between stall RAM regions, writing in the final slot. -/
  | bcpy (t : TraderId)
  /-- BFILL (R135): Fills 1 to 16 bytes with a D register. -/
  | bfill (t : TraderId)
  /-- JMP (R136): Jumps to an absolute target. -/
  | jmp (t : TraderId)
  /-- BRA (R136): Branches to a relative target. -/
  | bra (t : TraderId)
  /-- CALL (R136): Pushes the return address and jumps to an absolute target. -/
  | call (t : TraderId)
  /-- BSR (R136): Pushes the return address and branches to a relative target. -/
  | bsr (t : TraderId)
  /-- JMPI (R136): Jumps to the address held in an A register. -/
  | jmpi (t : TraderId)
  /-- CALLI (R136): Calls the address held in an A register. -/
  | calli (t : TraderId)
  /-- RET (R136): Pops the return address into PC. -/
  | ret (t : TraderId)
  /-- RETE (R164): Event return: the exit slots restore CUR, TSR and the banks, then PC from the record, or at the base level STRAY_RETE is set. -/
  | rete (t : TraderId)
  /-- LOOP (R106): Starts a hardware loop level with an immediate count. -/
  | loop (t : TraderId)
  /-- LOOPR (R106): Starts a hardware loop level with a count taken from an A register. -/
  | loopr (t : TraderId)
  /-- WFE (R140): The trader begins to wait for any pending event. -/
  | wfe (t : TraderId)
  /-- WFB (R141): The trader arms its bell watch and waits for the bell to ring. -/
  | wfb (t : TraderId)
  /-- WTU (R138): The trader waits until TILL_NOW reaches an absolute instant. -/
  | wtu (t : TraderId)
  /-- WTUR (R138): The trader waits until TILL_NOW reaches a delay after its issue slot. -/
  | wtur (t : TraderId)
  /-- WPU (R139): The trader waits until an axis position passes a target in a direction. -/
  | wpu (t : TraderId)
  /-- WFE_END (R140): A pending event ends WFE: it is taken if deliverable, otherwise the next instruction issues. -/
  | wfeEnd (t : TraderId)
  /-- WFB_END (R141): A ring of the watched bell sets the watch and ends WFB, and the watch is disarmed. -/
  | wfbEnd (t : TraderId)
  /-- WTU_END (R138): A step of TILL_NOW reaching the wait value ends WTU or WTUR. -/
  | wtuEnd (t : TraderId)
  /-- WPU_END (R139): The axis position passing the target ends WPU. -/
  | wpuEnd (t : TraderId)
  /-- SEV (R143): Rings a hall bell or a device bell. -/
  | sev (t : TraderId)
  /-- MOVS (R144): Moves a value between a general register and a special register. -/
  | movs (t : TraderId)
  /-- DRAIN (R145): Waits until the trader's store buffer is empty. -/
  | drain (t : TraderId)
  /-- SETBNK (R145): Sets BNK from an immediate. -/
  | setbnk (t : TraderId)
  /-- SETBNKR (R145): Sets BNK from a D register. -/
  | setbnkr (t : TraderId)
  /-- SETHBK (R145): Sets HBK from an immediate. -/
  | sethbk (t : TraderId)
  /-- SETHBKR (R145): Sets HBK from a D register. -/
  | sethbkr (t : TraderId)
  /-- SETHOST (R145): Sets HOST from an immediate. -/
  | sethost (t : TraderId)
  /-- TRAP (R145): Takes the TRAP event with an 8-bit code. -/
  | trap (t : TraderId)
  /-- STOP (R145): The trader stops at the end of its issue slot. -/
  | stop (t : TraderId)
  /-- BRK (R121): A debug breakpoint that halts the trader when breakpoints are enabled. -/
  | brk (t : TraderId)
  /-- SYNC (R359): A sync marker that resets the budget count and loads its limit from the table. -/
  | sync (t : TraderId)
  /-- SNOP (R149): Scale no-operation. -/
  | snop (t : TraderId)
  /-- FADD (R149): Scale binary32 addition. -/
  | fadd (t : TraderId)
  /-- FSUB (R149): Scale binary32 subtraction. -/
  | fsub (t : TraderId)
  /-- FMUL (R149): Scale binary32 multiplication. -/
  | fmul (t : TraderId)
  /-- FMAC (R149): Scale binary32 fused multiply-accumulate. -/
  | fmac (t : TraderId)
  /-- FDIV (R149): Scale binary32 division. -/
  | fdiv (t : TraderId)
  /-- FSQRT (R149): Scale binary32 square root. -/
  | fsqrt (t : TraderId)
  /-- FCMP (R149): Scale binary32 compare into a predicate. -/
  | fcmp (t : TraderId)
  /-- XADD (R149): Scale fixed-point addition, saturating or wrapping. -/
  | xadd (t : TraderId)
  /-- XSUB (R149): Scale fixed-point subtraction. -/
  | xsub (t : TraderId)
  /-- XMUL (R149): Scale fixed-point multiply with a shift. -/
  | xmul (t : TraderId)
  /-- XMAC (R149): Scale fixed-point multiply-accumulate. -/
  | xmac (t : TraderId)
  /-- XDIV (R149): Scale fixed-point division. -/
  | xdiv (t : TraderId)
  /-- XSHL (R149): Scale fixed-point shift left. -/
  | xshl (t : TraderId)
  /-- XSAR (R149): Scale fixed-point arithmetic shift right. -/
  | xsar (t : TraderId)
  /-- XCMP (R149): Scale signed fixed-point compare into a predicate. -/
  | xcmp (t : TraderId)
  /-- FTOX (R149): Scale conversion from binary32 to fixed point. -/
  | ftox (t : TraderId)
  /-- XTOF (R149): Scale conversion from fixed point to binary32. -/
  | xtof (t : TraderId)
  /-- SMOV (R149): Scale register move. -/
  | smov (t : TraderId)
  /-- XABS (R149): Scale fixed-point absolute value. -/
  | xabs (t : TraderId)
  /-- XNEG (R149): Scale fixed-point negation. -/
  | xneg (t : TraderId)
  /-- FABS (R149): Scale binary32 absolute value. -/
  | fabs (t : TraderId)
  /-- FNEG (R149): Scale binary32 negation. -/
  | fneg (t : TraderId)
  /-- XCLIP (R149): Scale signed fixed-point clamp. -/
  | xclip (t : TraderId)
  /-- FCLIP (R149): Scale binary32 clamp. -/
  | fclip (t : TraderId)
  /-- SCALE_RESULT_LAND (R146): A Scale result lands in its destination L issue slots after issue and sets SC_STATUS flags. -/
  | scaleResultLand (t : TraderId)
  /-- CPX_OPERATION (R426): An operation for an integrator coprocessor CP1–CP7 is issued on the CPX port, or takes ILLEGAL with BAD_CP_OP. -/
  | cpxOperation (t : TraderId) (ans : CpxAnswer)
  /-- CPX_RESULT_RETURN (R84): An integrator coprocessor returns its result, or becomes ready, after its declared latency. -/
  | cpxResultReturn (t : TraderId) (pred : Option (Nat × Bool))
  /-- LOAD_DATA_ARRIVAL (R86): Data of a hall-memory or host-memory load arrive, or an error response writes 0, into the destination register, ending any wait on it. -/
  | loadDataArrival (t : TraderId) (o : MemOutcome)
  /-- STORE_BUFFER_DRAIN (R88): A store-buffer entry is written by hall memory or accepted by a host port and leaves the buffer, releasing any store, load or DRAIN that waited. -/
  | storeBufferDrain (t : TraderId) (o : MemOutcome)
  /-- ICACHE_LINE_FILL (R77): A line fill of the instruction cache completes; waiting fetches issue and the line is allocated unless it met a double-bit error. -/
  | icacheLineFill (h f : Nat) (o : MemOutcome)
  /-- ICACHE_INVAL_END (R78): The invalidation ends within 64 slots, INVAL_BUSY falls and waiting fetches proceed. -/
  | icacheInvalEnd (h f : Nat)
  /-- EVENT_ENTRY (R158): At a sampling a deliverable event or a trap is taken: E1 abandons and records, E2 loads the vector. -/
  | eventEntry (t : TraderId)
  /-- BUDGET_OVERRUN (R360): A budget count passing its limit makes BUDGET pending and sets BW_STATUS.OVER. -/
  | budgetOverrun (t : TraderId)
  /-- CRIER_NOP (R182): The crier instruction NOP, with its delay and cue. -/
  | crierNop (c : CrierId) (pads : Byte)
  /-- SHOUT (R183): Shifts bits out of OSH to pins, OE, X, Y or null, refilling from the TX FIFO when set to. -/
  | shout (c : CrierId) (pads : Byte)
  /-- HEAR (R183): Shifts bits into ISH from pins, X, Y or null, spilling to the RX FIFO when set to. -/
  | hear (c : CrierId) (pads : Byte)
  /-- SET (R184): Writes an immediate VALUE to pins, OE, X or Y. -/
  | setPins (c : CrierId) (pads : Byte)
  /-- AWAIT (R193): Waits for a pin level, a bell, a mark, a pace tick or a kick. -/
  | await (c : CrierId) (pads : Byte)
  /-- GOTO (R185): Jumps on a condition, decrementing X or Y when taken. -/
  | crierGoto (c : CrierId) (pads : Byte)
  /-- MOVE (R184): Moves a transformed 32-bit value between crier sources and destinations, PC included. -/
  | crierMove (c : CrierId) (pads : Byte)
  /-- PUSH (R188): Moves ISH into the RX FIFO, or to a tally axis under RX_ROUTE. -/
  | crierPush (c : CrierId) (pads : Byte)
  /-- PULL (R188): Loads OSH from the TX FIFO. -/
  | crierPull (c : CrierId) (pads : Byte)
  /-- PACE (R186): Sets PERIOD and the bit-time counter BT. -/
  | crierPace (c : CrierId) (pads : Byte)
  /-- INIT (R187): CRC kind INIT: loads the CRC register from CR_CRC_INIT. -/
  | crcInit (c : CrierId) (pads : Byte)
  /-- FEED_OUT (R187): CRC kind FEED_OUT: feeds the bits that SHOUT writes to pins. -/
  | crcFeedOut (c : CrierId) (pads : Byte)
  /-- FEED_IN (R187): CRC kind FEED_IN: feeds the bits that HEAR takes from pins. -/
  | crcFeedIn (c : CrierId) (pads : Byte)
  /-- CRC_OFF (R187): CRC kind OFF: ends feeding. -/
  | crcOff (c : CrierId) (pads : Byte)
  /-- INSERT (R187): CRC kind INSERT: loads OSH with the CRC for sending. -/
  | crcInsert (c : CrierId) (pads : Byte)
  /-- FEED_X (R187): CRC kind FEED_X: feeds bits of X into the CRC. -/
  | crcFeedX (c : CrierId) (pads : Byte)
  /-- PACE_TICK (R186): BT reaches 0 and a pace tick occurs, releasing an AWAIT PACE. -/
  | paceTick (c : CrierId)
  /-- CRIER_DELIVERY (R194): A bell ring, a mark action or a kick is delivered in the first crier cycle at or after t + 32 ticks, completing waiting AWAITs. -/
  | crierDelivery (h b : Nat) (src : DeliverySrc)
  /-- BARROW_SWAP_CYCLE (R197): In the swap cycle every crier changes page, jumps to SWAP_ENTRY when set, and the barrow's pins and registers switch. -/
  | barrowSwapCycle (h b : Nat)
  /-- PIN_SWITCH_OVER (R206): In switch cycle k the pad holds its old output, and the new function drives from k + 1. -/
  | pinSwitchOver (h p : Nat)
  /-- PIN_EVENT (R211): A change of a pin's filtered level in a selected direction sets EVENT and raises hall event 0x100 + i. -/
  | pinEvent (h p : Nat) (level : Bool)
  /-- LINK_BLOCK_RX (R243): A received LINK block updates the peer's mask and member checks, and the group may be recomputed when the masks agree. -/
  | linkBlockRx (h k : Nat) (blk : List Byte)
  /-- LINK_BLOCK_DUE (R232): 4,096 blocks pass without a LINK block, so one is sent. -/
  | linkBlockDue (h k : Nat)
  /-- ALIGN_BLOCK_DUE (R231): The first block of every 1,024th codeword is sent as ALIGN. -/
  | alignBlockDue (h k : Nat)
  /-- AXIS_SYNC_DUE (R238): Every 2^PERIOD ticks the lane sends an axis-sync frame for each axis of AXMASK. -/
  | axisSyncDue (h k : Nat)
  /-- EPLAS_FRAME_RX (R235): An Eplas data frame is received: the header is checked, it is dropped or passed by stream, and overflow drops are counted. -/
  | eplasFrameRx (h k : Nat) (bytes : List Byte) (arr : Nat) (damaged : Bool)
  /-- ETHERNET_FRAME_RX (R228): An Ethernet frame is received, stamped and passed to the porter. -/
  | ethernetFrameRx (h k : Nat) (bytes : List Byte) (arr : Nat) (damaged : Bool)
  /-- AXIS_SYNC_FRAME_RX (R239): A received axis-sync frame updates the delay and the offset, and may offer a measurement to remote axes. -/
  | axisSyncFrameRx (h k : Nat) (bytes : List Byte) (arr : Nat)
  /-- LANE_UP (R247): A lane completes training and enters up, raising the hall event, LINK_UP micro-traps and a LANE_UP chit. -/
  | laneUp (h k : Nat)
  /-- LANE_TRAIN_TIMEOUT (R245): A lane that is not up 200 ms after training started goes down with its RESULT, and its job fails. -/
  | laneTrainTimeout (h k : Nat) (result : Nat)
  /-- LANE_DOWN (R247): Loss of signal or lock takes an up lane down, with micro-traps, a hall event, a LANE_DOWN chit and optional retraining. -/
  | laneDown (h k : Nat) (cause : LaneLoss)
  /-- FEC_LIMIT_EXCEEDED (R247): FEC_LIMIT uncorrectable codewords within 8,192 take the lane down. -/
  | fecLimitExceeded (h k : Nat)
  /-- LINK_BLOCK_TIMEOUT (R247): 65,536 blocks without a LINK block take an Eplas lane down. -/
  | linkBlockTimeout (h k : Nat)
  /-- MICROWORD (R249): A porter thread issues one microword, whose fields act in six phases, or stalls. -/
  | microword (h k th : Nat)
  /-- MICRO_TRAP_ENTRY (R257): A micro-trap is taken, the shadow set is saved, and the routine starts 2 porter cycles later. -/
  | microTrapEntry (h k th : Nat)
  /-- ATOMIC_ANSWER_ARRIVAL (R281): The atomic unit's answer to a trader's token or queue operation arrives and the trader's next instruction can issue. -/
  | atomicAnswerArrival (t : TraderId)
  /-- QUEUE_PUSH (R285): A push writes one element at TAIL and advances it. -/
  | queuePush (t : TraderId)
  /-- QUEUE_POP (R285): A pop reads the element at HEAD and advances it. -/
  | queuePop (t : TraderId)
  /-- HOST_QUEUE_POP_RETURN (R285): The read data of a pop from a host-memory queue return, and HEAD advances or the pop fails. -/
  | hostQueuePopReturn (h q : Nat)
  /-- CART_DESCRIPTOR_LOAD (R299): A fetched descriptor is loaded and checked before data moves, or ends the chain with an error status. -/
  | cartDescriptorLoad (h c : Nat) (o : MemOutcome)
  /-- CART_BURST_READ (R292): The read engine reads a ready burst of a channel into a slot, within the rate limit. -/
  | cartBurstRead (h c : Nat) (o : MemOutcome)
  /-- CART_BURST_WRITE (R292): The write engine writes a filled slot to its destination. -/
  | cartBurstWrite (h c : Nat) (o : MemOutcome)
  /-- CART_WRITE_ACK (R302): A burst write is acknowledged; descriptors complete, queues are committed or done, and the chain continues. -/
  | cartWriteAck (h c : Nat)
  /-- CART_QUEUE_RETRY (R301): A waiting channel retries its queue take or reserve. -/
  | cartQueueRetry (h c : Nat)
  /-- CART_STATUS_WRITE_ACK (R305): The status record write is acknowledged; the hall event and the CART_DONE or CART_ERR chit are raised. -/
  | cartStatusWriteAck (h c : Nat) (o : MemOutcome)
  /-- CART_HALT (R309): An error response to an engine access ends every channel HALTED and raises a CART_HALT chit. -/
  | cartHalt (h : Nat) (write : Bool) (kind : Nat) (addr : Nat)
  /-- HOST_READ_DATA (R315): Read data of a tile request return on a host port and its tag is released. -/
  | hostReadData (id : Nat) (data : List Byte)
  /-- HOST_WRITE_RESPONSE (R315): The write response of a tile request returns and its tag is released. -/
  | hostWriteResponse (id : Nat)
  /-- HOST_ERROR_RESPONSE (R319): An error response is handled by its requester and recorded in HP_ERR_ADDR and HP_ERR_STREAM. -/
  | hostErrorResponse (id : Nat) (kind : HostErrKind)
  /-- ORDER_FETCH_COMPLETE (R323): A fetched order is checked, HEAD advances, and the order is executed, made a job, or refused. -/
  | orderFetchComplete (n : Nat)
  /-- LOAD_IMAGE (R355): The LOAD_IMAGE order creates a job that checks and loads a Fallyn image, direct or shadow. -/
  | loadImage (o : OrderHdr) (image len flags : Nat)
  /-- SWAP_AT (R362): The SWAP_AT order creates a job that arms the swap marks for a hitless swap. -/
  | swapAt (o : OrderHdr) (loaded trigger axis dir value : Nat)
  /-- START_TRADERS (R328): The START_TRADERS order starts the named stopped traders in one rotation. -/
  | startTraders (o : OrderHdr) (hall stall mask flags entry : Nat)
  /-- STOP_TRADERS (R329): The STOP_TRADERS order stops the named traders at their next owned slot. -/
  | stopTraders (o : OrderHdr) (hall stall mask : Nat)
  /-- CLAIM (R330): The CLAIM order with OP 0 claims pins, counters and marks together for the job. -/
  | claim (o : OrderHdr) (entries : List Word)
  /-- CLAIM_RELEASE (R330): The CLAIM order with OP 1 releases every claim of a job. -/
  | claimRelease (o : OrderHdr) (owner : Nat) (entries : List Word)
  /-- CLEAR (R331): The CLEAR order creates a job that zeroes a memory area in 4 KiB blocks. -/
  | clear (o : OrderHdr) (area hall stall off len : Nat)
  /-- CLEAR_BLOCK_DONE (R331): A 4 KiB block of a CLEAR job is written, a suspend or cancel point is reached, or the job ends. -/
  | clearBlockDone (job : Nat)
  /-- TRAIN_LANE (R245): The TRAIN_LANE order creates a job that trains a lane, or is refused with RESULT 6. -/
  | trainLane (o : OrderHdr) (lane : Nat)
  /-- LOAD_MICROCODE (R261): The LOAD_MICROCODE order creates a job that checks and writes a microcode patch. -/
  | loadMicrocode (o : OrderHdr) (lane patch : Nat)
  /-- MICROCODE_FETCH_COMPLETE (R261): The patch words are fetched and checked, and QREQ is set for the threads to stop. -/
  | microcodeFetchComplete (job : Nat) (bytes : List Byte)
  /-- MICROCODE_QREQ_TIMEOUT (R261): A thread not stopped 1 ms after QREQ is stopped at its next word boundary. -/
  | microcodeQreqTimeout (job : Nat)
  /-- MICROCODE_WRITE_COMPLETE (R261): The patch has been written; CS_VERSION is set, QREQ clears, and the stopped threads restart. -/
  | microcodeWriteComplete (job : Nat)
  /-- CALIBRATE_AXIS (R332): The CALIBRATE_AXIS order creates a job that observes an axis and may preset it at a reference pin event. -/
  | calibrateAxis (o : OrderHdr) (axis flags ref dur preset result : Nat)
  /-- CALIBRATE_END (R332): After DURATION × 1,024 ticks the calibration record is written and the job ends. -/
  | calibrateEnd (job : Nat)
  /-- CART_JOB (R333): The CART_JOB order creates a job that links a descriptor chain to a channel and starts it. -/
  | cartJob (o : OrderHdr) (hall chan flags head : Nat)
  /-- POWER_LEVEL (R382): A POWER order to PL0–PL3 changes the performance level through the supply and the alternate core PLL. -/
  | powerLevel (o : OrderHdr) (pl : Nat)
  /-- POWER_IDLE (R383): A POWER order to IDLE pauses every stall rotation. -/
  | powerIdle (o : OrderHdr)
  /-- POWER_NAP (R384): A POWER order to NAP runs sleep entry into retention. -/
  | powerNap (o : OrderHdr) (resumePl flags : Nat)
  /-- POWER_OFF (R384): A POWER order to OFF runs sleep entry with power removed from all but the always-on domain. -/
  | powerOff (o : OrderHdr) (resumePl flags : Nat)
  /-- WIND_DOWN (R373): The WIND_DOWN order stops everything outside the keep-running set and ramps the ramp axis down. -/
  | windDown (o : OrderHdr) (axis profile flags timeout : Nat)
  /-- JOB_SUSPEND (R336): The JOB_SUSPEND order suspends a job at once or at its next suspend point. -/
  | jobSuspend (o : OrderHdr) (target : Nat)
  /-- JOB_RESUME (R336): The JOB_RESUME order resumes a suspended job or withdraws a pending suspend. -/
  | jobResume (o : OrderHdr) (target : Nat)
  /-- JOB_CANCEL (R336): The JOB_CANCEL order cancels a job at once, or at a point, or reports TOO_LATE. -/
  | jobCancel (o : OrderHdr) (target : Nat)
  /-- JOB_START (R334): A queued job whose wait condition now holds becomes RUNNING and raises a JOB chit. -/
  | jobStart (job : Nat)
  /-- CHIT_WRITE (R342): A raised or pending chit is written to its ring when the ring has room. -/
  | chitWrite (n : Nat)
  /-- CHIT_WRITE_COMPLETE (R342): A chit's write response returns and CR_WRITE advances, raising the interrupt. -/
  | chitWriteComplete (n : Nat)
  /-- IMAGE_SECTION_FETCHED (R355): A section of an image being loaded has been fetched, is checked and written, and after the last one the claim commit ends the load. -/
  | imageSectionFetched (job : Nat) (bytes : List Byte)
  /-- SWAP_COMMIT (R363): The swap marks commit to instant I, after which a cancel is TOO_LATE. -/
  | swapCommit
  /-- STALL_SWAP_ROTATION (R365): In its swap rotation a stall exchanges IMEM pages, reloads its registers and applies each trader's ACTION. -/
  | stallSwapRotation (h f : Nat)
  /-- WIND_DOWN_TIMEOUT (R373): The wind-down TIMEOUT passes before standstill and the job fails. -/
  | windDownTimeout
  /-- POWER_ON_RESET (R374): PORST_N or power-up resets the whole tile and starts the memory clear. -/
  | powerOnReset
  /-- DEVICE_RESET (R374): RESET_N, PWR_RESET.DEVICE or the debug port resets the tile except the power block, abandoning every token. -/
  | deviceReset (src : ResetSrc)
  /-- HALL_RESET (R374): PWR_RESET.HALL resets every unit of a hall. -/
  | hallReset (h : Nat)
  /-- STALL_RESET (R374): PWR_RESET.STALL resets a stall's trader, event, budget and stall registers. -/
  | stallReset (h f : Nat)
  /-- PORTER_RESET (R374): PWR_RESET.PORTER resets one porter's lane and porter registers. -/
  | porterReset (h k : Nat)
  /-- MEMORY_CLEAR_DONE (R377): The SRAM clear finishes and MEM_CLEAR reads 1. -/
  | memoryClearDone
  /-- BOOT_ROM_START (R378): H0.S0.T0–T3 begin issuing from the boot ROM on the FIO. -/
  | bootRomStart
  /-- CORE_PLL_LOCK (R382): The idle core PLL locks to the new clock during a change of level. -/
  | corePllLock
  /-- SUPPLY_SETTLED (R382): PWR_VSETTLE passes after a supply request. -/
  | supplySettled
  /-- SLEEP_ENTRY_COMPLETE (R384): Once buffers drain and the JOB chit's response returns, the halls enter retention or power off and the till moves to the LFO. -/
  | sleepEntryComplete
  /-- WAKE_PIN (R387): A wake-pin slot's edge or level condition fires and begins a wake. -/
  | wakePin (slot : Nat) (level : Bool)
  /-- I2C_ADDRESS_MATCH (R388): The clockless matcher matches the address, optionally acknowledges it, and begins a wake. -/
  | i2cAddressMatch (byte_ : Byte)
  /-- SLEEP_AGENT_ACCESS (R389): In NAP or OFF the sleep agent completes host accesses, keeping doorbells that wake the tile. -/
  | sleepAgentAccess (port : Nat) (addr : Nat) (write : Option Word)
  /-- TEMPERATURE_SAMPLE (R410): Every 100 µs the sensors are read, the thermal level may change with a THERMAL chit, and throttling may begin or end. -/
  | temperatureSample (temps : List Nat)
  /-- SCRUB_READ (R398): The scrubber reads a word in a free cycle and writes back a single-bit correction. -/
  | scrubRead (h : Nat) (addr : Nat)
  /-- CFG_PARITY (R400): A register parity error raises a CFG_PARITY chit and acts on its unit. -/
  | cfgParity (t : Option TraderId) (addr n : Nat)
  /-- LOCKSTEP_MISMATCH (R402): The checker detects a difference, both stalls stop, and a LOCKSTEP fail-over begins. -/
  | lockstepMismatch (h j : Nat)
  /-- FAILOVER_SWITCH (R404): At one hall-clock edge the map moves to S8, roles and queue owners are rewritten, and a STALL_FAILOVER chit is raised. -/
  | failoverSwitch (h : Nat)
  /-- FAILOVER_RELEASE (R404): From D + 1 µs the FAIL hold is released and the traders restart in S8. -/
  | failoverRelease (h : Nat)
  /-- DEBUG_HALT (R428): A debug request halts a trader after any entry or exit completes. -/
  | debugHalt (t : TraderId)
  /-- DEBUG_RELEASE (R428): A debug release resumes a halted trader, whose wait ends if its condition holds. -/
  | debugRelease (t : TraderId)
  /-- DBG_EN_FALL (R428): A fall of DBG_EN releases every debug halt and leaves test mode. -/
  | dbgEnFall
  /-- RESET_RELEASE (R418): The rising PORST_N or RESET_N input is synchronised at an FIO edge, and the early market of R378 begins from that reset release. -/
  | resetRelease (porst : Bool)
  /-- FEC_CODEWORD_DECODED (R256): A received RS(544,514) codeword is decoded, counting in LN_FEC_CORR or LN_FEC_UNCORR, setting LN_FAULT.FEC_UNCORR and raising the FEC_UNCORR micro-trap when it lies inside a frame. -/
  | fecCodewordDecoded (h k : Nat) (res : FecResult) (inFrame : Bool)
  /-- PAD_LEVEL_SAMPLE (R209): The hall's 16-tick sample of a pad updates PIN_STATUS.LEVEL, and the pin filter may change FLT_LEVEL without raising an event. -/
  | padLevelSample (h p : Nat) (level : Bool)
  /-- SWAP_TILL_INSTANT (R364): For a SWAP_AT with a till trigger, the till reaches instant I and each hall switches its map, writes TALLY entries, hands over claims and applies the KEEP plan. -/
  | swapTillInstant
  /-- DBG_EN_RISE (R428): A rise of the DBG_EN input makes the debug port offer trader halt, breakpoints, device reset and test mode. -/
  | dbgEnRise
  /-- TEST_MODE (R210): A debug-port command places the tile in test mode, or takes it out, so that PIN_GPIO.DATA reads the pad. -/
  | testMode (on : Bool)
  /-- DEBUG_BREAKPOINTS (R121): A debug-port command enables or disables breakpoints, which decides whether BRK halts a trader. -/
  | debugBreakpoints (on : Bool)
  /-- ACTIVITY_SIGNAL_END (R264): Sideband activity signal 7 falls 2^24 ticks after the last frame sent or received. -/
  | activitySignalEnd (h k : Nat)
  /-- IMAGE_HEADER_FETCHED (R355): The header, section table and CERT section of a LOAD_IMAGE have been fetched and are checked up to MICROCODE, ending the job FAILED or recording pending occupancy. -/
  | imageHeaderFetched (job : Nat) (bytes : List Byte)
  deriving DecidableEq, Repr

end Sys2Proof
end

