-- ==== Sys2Proof/Decode.lean ====
section
/-! DEFINITION. The rows of spec/opcode_table.json give no row any bits: the commands of the tile come as register
accesses, events and orders, and a trader instruction's row names its mnemonic alone. So no word spells a command. (The
32-bit words of trader instructions and the 24-bit words of crier instructions are decoded where they are run:
Sys2Proof/Machine/Operands.lean and Sys2Proof/Machine/CrierOps.lean.) -/

namespace Sys2Proof

/-- The command that a word spells by the table's bits: none. -/
def decodeTableWord (_nbits _w : Nat) : Option Instr := none

end Sys2Proof
end

