-- ==== Sys2Proof/Machine/Bits.lean ====
section
/-! DEFINITION. Bit fields, two's complement, byte order and the roundings of the spec, on plain numbers. -/

namespace Sys2Proof.Machine

/-- The bits `hi` to `lo` of `x`. -/
def bits (x hi lo : Nat) : Nat := (x >>> lo) % 2 ^ (hi + 1 - lo)

/-- Bit `n` of `x`. -/
def bit (x n : Nat) : Bool := (x >>> n) % 2 == 1

/-- `x` with the bits `hi` to `lo` taken from `v`, truncated to the field. -/
def setBits (x hi lo v : Nat) : Nat :=
  (x >>> (hi + 1)) <<< (hi + 1) + ((v % 2 ^ (hi + 1 - lo)) <<< lo) + x % 2 ^ lo

/-- The bits of `m` that are no bits of `k`. -/
def bitsOff (m k : Nat) : Nat := m ^^^ (m &&& k)

/-- `b` as a number of one bit. -/
def b2n (b : Bool) : Nat := if b then 1 else 0

/-- The two's complement value of the `w` low bits of `x`. -/
def sgn (w x : Nat) : Int :=
  if x % 2 ^ w < 2 ^ (w - 1) then (x % 2 ^ w : Int) else (x % 2 ^ w : Int) - 2 ^ w

/-- The `w` low bits of `i` in two's complement. -/
def unsg (w : Nat) (i : Int) : Nat := (i % (2 ^ w : Int)).toNat

/-- `i` wrapped to a signed number of `w` bits. -/
def wrapS (w : Nat) (i : Int) : Int := sgn w (unsg w i)

/-- `i` saturated to a signed number of `w` bits. -/
def satS (w : Nat) (i : Int) : Int :=
  if i < -(2 ^ (w - 1) : Int) then -(2 ^ (w - 1) : Int) else if (2 ^ (w - 1) : Int) ≤ i then 2 ^ (w - 1) - 1 else i

/-- `a + b`, saturated at `2 ^ w - 1`. -/
def satAdd (w a b : Nat) : Nat := min (a + b) (2 ^ w - 1)

/-- `n / d` to the nearest integer, halves away from zero (R34); `d` is positive. -/
def roundAway (n : Int) (d : Nat) : Int :=
  if n < 0 then -(((2 * (-n) + d) / (2 * d : Int))) else (2 * n + d) / (2 * d : Int)

/-- `n / d` to the nearest integer, halves to the later tick (R44), for `d` of either sign. -/
def roundLater (n d : Int) : Int :=
  if d < 0 then (2 * (-n) + (-d)) / (2 * (-d)) else (2 * n + d) / (2 * d)

/-- The bytes of `x`, `n` of them, least significant first. -/
def toBytes : Nat → Nat → List Byte
  | 0, _ => []
  | n + 1, x => BitVec.ofNat 8 x :: toBytes n (x / 256)

/-- The number that bytes spell, least significant first. -/
def ofBytes : List Byte → Nat
  | [] => 0
  | b :: bs => b.toNat + 256 * ofBytes bs

/-- The number that `n` bytes at offset `o` of `bs` spell, least significant first. -/
def field (bs : List Byte) (o n : Nat) : Nat := ofBytes ((bs.drop o).take n)

/-- Every byte of `n` bytes at offset `o` is 0. -/
def zeros (bs : List Byte) (o n : Nat) : Bool := ((bs.drop o).take n).all (· == 0)

/-- The bit positions at which `x` has a 1 below `n`. -/
def ones (n x : Nat) : List Nat := (List.range n).filter (bit x ·)

/-- `f` applied along a list, with the state carried through. -/
def forAll {α σ : Type} (xs : List α) (f : α → σ → σ) (s : σ) : σ := xs.foldl (fun s x => f x s) s

/-- `f` applied `n` times. -/
def iter {σ : Type} : Nat → (σ → σ) → σ → σ
  | 0, _, s => s
  | n + 1, f, s => iter n f (f s)

/-- One bit through a reflected CRC register of polynomial `poly` (reversed). -/
def crcBitR (poly crc : Nat) (b : Bool) : Nat :=
  if (crc % 2 == 1) != b then (crc / 2) ^^^ poly else crc / 2

/-- One byte through a reflected CRC register, least significant bit first. -/
def crcByteR (poly crc : Nat) (b : Byte) : Nat :=
  (List.range 8).foldl (fun c i => crcBitR poly c (bit b.toNat i)) crc

/-- CRC-32C (Castagnoli, reflected) over bytes, from the register value `init`, before the final complement (R306). -/
def crc32cRaw (init : Nat) (bs : List Byte) : Nat := bs.foldl (crcByteR 0x82F63B78) init

/-- CRC-32C of bytes in the complemented form (R306, R346). -/
def crc32c (bs : List Byte) : Nat := crc32cRaw 0xFFFFFFFF bs ^^^ 0xFFFFFFFF

end Sys2Proof.Machine
end

