-- ==== Sys2Proof/Machine/Flags.lean ====
section
/-! DEFINITION. The arithmetic of the trader with its flags (R105, R117, R128), in a width `w`. -/

namespace Sys2Proof.Machine

/-- A result and the flags C and V that come with it; `none` keeps the flag. -/
structure Alu where
  r : Nat
  c : Option Bool := none
  v : Option Bool := none
  deriving DecidableEq, Repr

/-- The top bit of a value of `w` bits. -/
def msb (w x : Nat) : Bool := bit x (w - 1)

/-- a + b + cin. -/
def addW (w a b cin : Nat) : Alu :=
  let r := a + b + cin
  ⟨r % 2 ^ w, some (bit r w), some (msb w a == msb w b && msb w r != msb w a)⟩

/-- a − b − bin. -/
def subW (w a b bin : Nat) : Alu :=
  let r := unsg w ((a : Int) - b - bin)
  ⟨r, some (decide (a < b + bin)), some (msb w a != msb w b && msb w r != msb w a)⟩

/-- A logical result, which keeps C and V. -/
def logicW (w r : Nat) : Alu := ⟨r % 2 ^ w, none, none⟩

/-- The kinds of shift and rotate. -/
inductive ShKind where
  | shl | shr | sar | rol | ror
  deriving DecidableEq, Repr

/-- The kind that a KIND field names; a value beyond the table never reaches it. -/
def ShKind.of : Nat → ShKind
  | 0 => .shl | 1 => .shr | 2 => .sar | 3 => .rol | _ => .ror

/-- A shift or rotate of `v` by `n` (R128). An amount of 0 leaves the value and keeps C. -/
def shiftW (k : ShKind) (w v n : Nat) : Alu :=
  if n = 0 then ⟨v % 2 ^ w, none, none⟩
  else match k with
    | .shl => ⟨(v <<< n) % 2 ^ w, some (decide (n ≤ w) && bit v (w - n)), none⟩
    | .shr => ⟨v >>> n, some (bit v (n - 1)), none⟩
    | .sar => ⟨unsg w (sgn w v >>> n), some (bit (unsg 64 (sgn w v)) (n - 1)), none⟩
    | .rol => let r := ((v <<< n) ||| (v >>> (w - n))) % 2 ^ w; ⟨r, some (bit r 0), none⟩
    | .ror => let r := ((v >>> n) ||| (v <<< (w - n))) % 2 ^ w; ⟨r, some (msb w r), none⟩

/-- The condition COND of R117 on two values of `w` bits. -/
def condW (w c a b : Nat) : Bool :=
  match c with
  | 0 => a == b | 1 => a != b
  | 2 => decide (a < b) | 3 => decide (b ≤ a) | 4 => decide (a ≤ b) | 5 => decide (b < a)
  | 6 => decide (sgn w a < sgn w b) | 7 => decide (sgn w b ≤ sgn w a)
  | 8 => decide (sgn w a ≤ sgn w b) | 9 => decide (sgn w b < sgn w a)
  | _ => false

/-- The condition COND of R117 read from the flags. -/
def condFl (c : Nat) (z n cy v : Bool) : Bool :=
  match c with
  | 0 => z | 1 => !z | 2 => cy | 3 => !cy | 4 => cy || z | 5 => !cy && !z
  | 6 => n != v | 7 => n == v | 8 => z || (n != v) | 9 => !z && (n == v)
  | _ => false

/-- The bits of a byte in reverse order. -/
def revByte (v : Nat) : Nat := (List.range 8).foldl (fun r i => r + b2n (bit v i) * 2 ^ (7 - i)) 0

/-- The number of ones in a byte. -/
def popByte (v : Nat) : Nat := (ones 8 v).length

/-- The ones' complement sum of the two halves of an accumulator (R131). -/
def foldAcc (v : Nat) : Nat := let s := bits v 15 0 + bits v 23 16; bits s 15 0 + bits s 16 16

end Sys2Proof.Machine
end

