-- ==== Sys2Proof/Machine/Operands.lean ====
section
/-! DEFINITION. The fields of an instruction word (R97, R100), the opcode maps (R114 to R122) as one key for each
instruction, and the illegal encodings (R124). -/

namespace Sys2Proof.Machine

/-! ## Fields -/

def fPinv (w : Nat) : Bool := bit w 31
def fPg (w : Nat) : Nat := bits w 30 28
def fMajor (w : Nat) : Nat := bits w 27 22
/-- DST of formats R and I, REG of format M, AREG of formats J and W. -/
def fDst (w : Nat) : Nat := bits w 21 19
/-- SRC1 of formats R and I, BASE of format M, KIND of format J. -/
def fS1 (w : Nat) : Nat := bits w 18 16
def fS2 (w : Nat) : Nat := bits w 15 13
def fMinor (w : Nat) : Nat := bits w 12 8
def fImm (w : Nat) : Nat := bits w 15 0
def fMode (w : Nat) : Nat := bits w 15 14
def fOff (w : Nat) : Nat := bits w 13 0
def fTarget (w : Nat) : Nat := bits w 15 0
def fSel (w : Nat) : Nat := bits w 18 13
def fShift (w : Nat) : Nat := bits w 12 8
def fLvl (w : Nat) : Nat := bits w 21 20
def fBody (w : Nat) : Nat := bits w 19 12
def fCount (w : Nat) : Nat := bits w 11 0
/-- AREG of LOOPR. -/
def fLoopAreg (w : Nat) : Nat := bits w 11 9
def fOp (w : Nat) : Nat := bits w 21 17
def fCd (w : Nat) : Nat := bits w 16 13
def fCa (w : Nat) : Nat := bits w 12 9
def fCb (w : Nat) : Nat := bits w 8 5
def fXf (w : Nat) : Nat := bits w 4 0
def fSpec (w : Nat) : Nat := bits w 21 16
def fMovsW (w : Nat) : Bool := bit w 15
def fGspec (w : Nat) : Nat := bits w 14 10

/-! ## Keys: the major opcode, and the minor opcode where the major has a map of its own -/

/-- The key of major `mj` and minor `mn`. -/
def key (mj mn : Nat := 0) : Nat := mj * 32 + mn

/-- The key of an instruction word. The conditions of PCND share one key, and every operation of one of the
coprocessors CP1 to CP7 has the key of major 0x39. -/
def keyOf (w : Nat) : Nat :=
  let mj := fMajor w
  if mj = 0x00 ∨ mj = 0x09 ∨ mj = 0x10 ∨ mj = 0x18 then key mj (fMinor w)
  else if mj = 0x0A then key mj (if 0x10 ≤ fMinor w then 0x10 else fMinor w)
  else if mj = 0x0B then key mj (bits w 10 8)
  else if mj = 0x27 then key mj (fDst w)
  else if mj = 0x2C ∨ mj = 0x2D then key mj (fS1 w)
  else if mj = 0x37 then key mj (bits w 15 12)
  else if mj = 0x38 then key mj (fOp w)
  else if 0x39 ≤ mj then key 0x39 0
  else key mj 0

/-! ## Illegal encodings (R101, R115 to R124) -/

/-- The class of register a field names: data, address, accumulator, predicate; or no register, and the field must be
zero. -/
inductive FieldClass where
  | D | A | C | P | Z
  deriving DecidableEq, Repr

/-- The causes a register field gives: a field that must be zero, or an accumulator beyond AC3. -/
def classCause (c : FieldClass) (v : Nat) : List Nat :=
  match c with
  | .Z => if v = 0 then [] else [4]
  | .C => if v < 4 then [] else [5]
  | _ => []

/-- The causes of bits that must be zero. -/
def zeroCause (v : Nat) : List Nat := if v = 0 then [] else [4]

/-- The register classes of DST, SRC1 and SRC2 for each minor of the majors with a minor map (R118 to R120). -/
def minorClasses (mj mn : Nat) : Option (FieldClass × FieldClass × FieldClass) :=
  match mj with
  | 0x00 =>
    if mn = 0 then some (.Z, .Z, .Z)
    else if mn = 8 ∨ mn = 9 ∨ mn = 0xA ∨ mn = 0x12 ∨ mn = 0x13 then some (.D, .D, .Z)
    else if mn ≤ 0x13 then some (.D, .D, .D) else none
  | 0x09 =>
    if mn ≤ 1 then some (.Z, .D, .D) else if mn ≤ 3 then some (.Z, .A, .A) else none
  | 0x0A =>
    if mn ≤ 3 then some (.P, .P, .P) else if mn ≤ 5 then some (.P, .P, .Z)
    else if mn ≤ 7 then some (.P, .Z, .Z)
    else if 0x10 ≤ mn ∧ mn ≤ 0x19 then some (.P, .Z, .Z) else none
  | 0x10 =>
    if mn ≤ 3 ∨ (8 ≤ mn ∧ mn ≤ 0xA) then some (.C, .C, .C)
    else if mn = 4 ∨ (0xC ≤ mn ∧ mn ≤ 0xF) then some (.C, .C, .D)
    else if mn = 5 ∨ mn = 6 ∨ mn = 0x10 then some (.C, .C, .A)
    else if mn = 7 ∨ mn = 0xB then some (.C, .C, .Z)
    else if mn = 0x11 then some (.D, .C, .Z)
    else if mn = 0x12 ∨ mn = 0x13 then some (.A, .C, .Z) else none
  | 0x18 =>
    if mn ≤ 6 then some (.A, .A, .A)
    else if mn = 7 then some (.A, .A, .Z)
    else if mn ≤ 0xB then some (.A, .A, .D)
    else if mn ≤ 0xD then some (.A, .D, .Z)
    else if mn ≤ 0xF then some (.D, .A, .Z) else none
  | _ => none

/-- The fields a CP0 operation leaves unused, as bits that must be zero (R122). -/
def scaleZero (w : Nat) : Nat :=
  let op := fOp w
  if op = 0 then bits w 16 0
  else if op ≤ 5 ∨ op = 0x17 ∨ op = 0x18 then fXf w
  else if op = 6 ∨ (0x12 ≤ op ∧ op ≤ 0x16) then bits w 8 0
  else if op = 7 ∨ op = 0xF then bits w 4 3 + bits w 16 16
  else if op = 8 ∨ op = 9 then bits w 4 1
  else if op = 0xD ∨ op = 0xE ∨ op = 0x10 ∨ op = 0x11 then fCb w
  else 0

/-- The cause of a condition code beyond the table of R117. -/
def condCause (c : Nat) : List Nat := if 0xA ≤ c then [6] else []

/-- The special registers that exist (R109). -/
def specOk (sp : Nat) : Bool := decide (sp ≤ 0x12) && sp != 0x0B && sp != 0x0F

/-- Every cause of R124 that a word has, for its major opcode. -/
def majorCauses (w : Nat) : List Nat :=
  let mj := fMajor w
  if mj = 0x00 ∨ mj = 0x09 ∨ mj = 0x0A ∨ mj = 0x10 ∨ mj = 0x18 then
    match minorClasses mj (fMinor w) with
    | none => 3 :: zeroCause (bits w 7 0)
    | some (d, a, b) => classCause d (fDst w) ++ classCause a (fS1 w) ++ classCause b (fS2 w) ++ zeroCause (bits w 7 0)
  else if mj ≤ 0x04 then zeroCause (bits w 15 8)
  else if mj = 0x05 then zeroCause (bits w 15 8 + fS1 w)
  else if mj = 0x06 then (if 4 < bits w 10 8 then [3] else []) ++ zeroCause (bits w 15 11 + bits w 7 3)
  else if mj = 0x07 ∨ mj = 0x1C then condCause (bits w 11 8) ++ zeroCause (bits w 12 12 + bits w 7 0)
  else if mj = 0x08 then condCause (bits w 15 12) ++ zeroCause (bits w 11 8)
  else if mj = 0x0B then (if 3 < bits w 10 8 then [3] else []) ++ zeroCause (bits w 15 11 + bits w 7 3)
  else if mj ≤ 0x0F then [2]
  else if mj = 0x11 then classCause .C (fDst w) ++ classCause .C (fS1 w)
  else if mj = 0x12 then
    (if 2 < bits w 10 8 then [3] else []) ++ zeroCause (bits w 15 11 + bits w 7 5) ++ classCause .C (fDst w) ++
      classCause .C (fS1 w) ++ (if 23 < bits w 4 0 then [9] else [])
  else if mj = 0x13 then classCause .C (fDst w) ++ zeroCause (fS1 w)
  else if mj = 0x14 then classCause .C (fDst w) ++ zeroCause (fS1 w + bits w 15 8)
  else if mj = 0x15 then
    classCause .C (fS1 w) ++ classCause .C (fS2 w) ++ condCause (bits w 11 8) ++ zeroCause (bits w 12 12 + bits w 7 0)
  else if mj ≤ 0x17 then [2]
  else if mj = 0x19 then []
  else if mj = 0x1A then zeroCause (fS1 w)
  else if mj = 0x1B then (if 2 < bits w 10 8 then [3] else []) ++ zeroCause (bits w 15 11 + bits w 7 4)
  else if mj = 0x1D then condCause (bits w 15 12)
  else if mj ≤ 0x1F then [2]
  else if mj ≤ 0x26 then
    (if mj = 0x24 ∨ mj = 0x25 then classCause .C (fDst w) else []) ++
    (if fMode w = 3 then zeroCause (fS1 w) else []) ++
    (if (mj = 0x22 ∨ mj = 0x23 ∨ mj = 0x26) ∧ (fMode w = 1 ∨ fMode w = 2) ∧ fDst w = fS1 w then [8] else [])
  else if mj = 0x27 then (if 1 < fDst w then [3] else []) ++ zeroCause (bits w 15 14 + bits w 10 4)
  else if mj ≤ 0x2B then zeroCause (bits w 21 16)
  else if mj = 0x2C then (if 1 < fS1 w then [3] else []) ++ zeroCause (fTarget w)
  else if mj = 0x2D then (if 1 < fS1 w then [3] else []) ++ zeroCause (fDst w + fTarget w)
  else if mj = 0x2E then (if fLvl w = 3 then [7] else [])
  else if mj = 0x2F then (if fLvl w = 3 then [7] else []) ++ zeroCause (bits w 8 0)
  else if mj = 0x30 then zeroCause (bits w 21 0)
  else if mj = 0x31 ∨ mj = 0x35 then
    zeroCause (fDst w + fShift w + bits w 7 0) ++ (if 48 ≤ fSel w then [9] else [])
  else if mj = 0x32 then zeroCause (fSel w + fShift w + bits w 7 0)
  else if mj = 0x33 then zeroCause (fSel w + bits w 7 0)
  else if mj = 0x34 then zeroCause (fShift w + bits w 7 0) ++ (if bits (fSel w) 5 4 = 3 then [9] else [])
  else if mj = 0x36 then
    zeroCause (bits w 9 0) ++ (if 28 ≤ fGspec w ∨ !specOk (fSpec w) then [5] else []) ++
      (if fMovsW w ∧ (fSpec w = 0 ∨ fSpec w = 5 ∨ fSpec w = 6 ∨ fSpec w = 7) then [0xA] else [])
  else if mj = 0x37 then
    let sop := bits w 15 12
    (if 0xA ≤ sop then [3] else []) ++ zeroCause (fDst w) ++
    (if sop = 2 ∨ sop = 4 then zeroCause (bits w 11 0)
     else zeroCause (fS1 w) ++
      (if sop = 1 then zeroCause (bits w 11 2)
       else if sop = 5 then zeroCause (bits w 11 1)
       else if sop = 3 ∨ sop = 6 ∨ sop = 9 then zeroCause (bits w 11 8)
       else zeroCause (bits w 11 0)))
  else if mj = 0x38 then
    (if 0x18 < fOp w then [3] else zeroCause (scaleZero w)) ++
    (if fOp w = 7 ∧ bits w 2 0 = 7 then [6] else []) ++ (if fOp w = 0xF ∧ 6 ≤ bits w 2 0 then [6] else [])
  else []

/-- The cause that an illegal word records: the lowest that applies; 0 for a word that is not illegal. -/
def illegalCause (w : Nat) : Nat :=
  if fPinv w ∧ fPg w = 0 then 1
  else match majorCauses w with
    | [] => 0
    | c :: cs => cs.foldl min c

end Sys2Proof.Machine
end

