-- ==== Sys2Proof/Config.lean ====
section
/-! DEFINITION. The values the spec leaves open: opaque constants without a body. `State.freeIx` counts the free values
taken so far, and each use applies one of these to it (assumption log 4). -/

namespace Sys2Proof.Config

/-- A free word, used where the spec states no result of 32 bits or fewer for the operands at hand. -/
opaque freeWord : Nat → Word

/-- A free double word. -/
opaque freeDword : Nat → Dword

/-- A free byte: data of a read that meets the bank collision of R268. -/
opaque freeByte : Nat → Byte

/-- A free condition: an order between two happenings of one instant that the spec does not give. -/
opaque freeBool : Nat → Bool

/-- FN_OUT of an integrator function on a device pin, as the barrow's crier clock samples it in a crier cycle (R425). -/
opaque fnOut : Nat → Nat → Bool

/-- FN_OE of an integrator function on a device pin in a crier cycle (R425). -/
opaque fnOe : Nat → Nat → Bool

/-- LN_LAT of a lane by LN_CTRL.MODE: the fixed latencies that the part's variant gives (R265). -/
opaque lnLat : Nat → Word

end Sys2Proof.Config
end

