-- ==== Sys2Proof/Machine/Tab.lean ====
section
/-! DEFINITION. Tables by key: a list of key and value, at most one entry a key; a key without an entry has the table's
default value. -/

namespace Sys2Proof.Machine

/-- A table. -/
abbrev Tab (κ α : Type) := List (κ × α)

variable {κ α : Type} [DecidableEq κ]

/-- The entry of `k`, if it has one. -/
def Tab.find : Tab κ α → κ → Option α
  | [], _ => none
  | (k', v) :: t, k => if k' = k then some v else Tab.find t k

/-- The value of `k`, or `d` where it has no entry. -/
def Tab.get (t : Tab κ α) (k : κ) (d : α) : α := (Tab.find t k).getD d

/-- The table without an entry of `k`. -/
def Tab.del (t : Tab κ α) (k : κ) : Tab κ α := t.filter (fun e => !(decide (e.1 = k)))

/-- The table with `v` at `k`. -/
def Tab.set (t : Tab κ α) (k : κ) (v : α) : Tab κ α := (k, v) :: Tab.del t k

/-- The keys that have an entry. -/
def Tab.keys (t : Tab κ α) : List κ := t.map Prod.fst

/-- The table without the entries whose key `p` names. -/
def Tab.delIf (t : Tab κ α) (p : κ → Bool) : Tab κ α := t.filter (fun e => !p e.1)

end Sys2Proof.Machine
end

