-- ==== Sys2Proof/Machine/Mem.lean ====
section
/-! DEFINITION. The SRAM arrays of the tile as one sparse byte memory in canonical form: addresses strictly rising, no
byte equal to 0, which is what an unlisted address reads as (R377 clears every array). Each array has a base address of
its own in the model's flat numbering; the numbering is the model's, the sizes are the spec's (R65, R70, R195, R259,
R266). -/

namespace Sys2Proof.Machine

/-- The bytes that the arrays hold. -/
abbrev Memory := List Host.Cell

/-- What an unlisted address reads as. -/
def Memory.unlisted : Byte := 0

/-- The canonical form from the address `lo` on: addresses rise from `lo`, and no entry equals what an unlisted address
reads as. -/
def Memory.wfFrom : Nat → Memory → Bool
  | _, [] => true
  | lo, (a, b) :: m => decide (lo ≤ a) && decide (b ≠ Memory.unlisted) && Memory.wfFrom (a + 1) m

/-- The canonical form. -/
def Memory.wf (m : Memory) : Bool := Memory.wfFrom 0 m

/-- The byte at `a`. -/
def Memory.read : Memory → Nat → Byte
  | [], _ => Memory.unlisted
  | (a', b) :: m, a => if a' = a then b else if a < a' then Memory.unlisted else Memory.read m a

/-- One cell put in front, unless its byte is what an unlisted address reads as. -/
def Memory.consCell (a : Nat) (b : Byte) (m : Memory) : Memory := if b = Memory.unlisted then m else (a, b) :: m

/-- The memory with `b` at `a`. -/
def Memory.write : Memory → Nat → Byte → Memory
  | [], a, b => Memory.consCell a b []
  | (a', b') :: m, a, b =>
    if a < a' then Memory.consCell a b ((a', b') :: m)
    else if a = a' then Memory.consCell a b m
    else (a', b') :: Memory.write m a b

/-- The memory with the bytes `bs` from `a` on. -/
def Memory.writeBytes : Memory → Nat → List Byte → Memory
  | m, _, [] => m
  | m, a, b :: bs => Memory.writeBytes (Memory.write m a b) (a + 1) bs

/-- `n` bytes from `a` on. -/
def Memory.readBytes (m : Memory) (a n : Nat) : List Byte := (List.range n).map (fun i => Memory.read m (a + i))

/-- The little-endian number of `n` bytes at `a`. -/
def Memory.readNat (m : Memory) (a n : Nat) : Nat := ofBytes (Memory.readBytes m a n)

/-- The memory with the addresses from `a` to `a + n - 1` cleared. -/
def Memory.clear (m : Memory) (a n : Nat) : Memory := m.filter (fun c => !(decide (a ≤ c.1) && decide (c.1 < a + n)))

/-- The memory arrays that have bytes of their own: hall memory, shared stall RAM, a trader's private slice, an IMEM
page, an instruction page of a barrow (a word of 24 bits in four bytes), a porter's control store, and an instruction
cache. -/
inductive Arr where
  | hallMem (h : Nat)
  | shared (h s : Nat)
  | slice (h s t : Nat)
  | imem (h s page : Nat)
  | crierPage (h b page : Nat)
  | cstore (h k : Nat)
  deriving DecidableEq, Repr

/-- The base address of an array in the flat numbering. Hall memory has 4 MiB a hall; shared stall RAM 128 KiB, the
slices 16 × 8 KiB and the two IMEM pages 2 × 32 KiB a stall, in a block of 512 KiB; crier pages 2 × 256 bytes; a control
store 64 KiB. -/
def Arr.base : Arr → Nat
  | .hallMem h => 0x100000000 + h * 0x400000
  | .shared h s => 0x200000000 + (h * 16 + s) * 0x80000
  | .slice h s t => 0x200000000 + (h * 16 + s) * 0x80000 + 0x20000 + t * 0x2000
  | .imem h s page => 0x200000000 + (h * 16 + s) * 0x80000 + 0x40000 + page * 0x8000
  | .crierPage h b page => 0x300000000 + ((h * 16 + b) * 2 + page) * 0x100
  | .cstore h k => 0x400000000 + (h * 4 + k) * 0x10000

/-- The number of bytes of an array. -/
def Arr.size : Arr → Nat
  | .hallMem _ => 0x400000
  | .shared _ _ => 0x20000
  | .slice _ _ _ => 0x2000
  | .imem _ _ _ => 0x8000
  | .crierPage _ _ _ => 0x100
  | .cstore _ _ => 0x10000

end Sys2Proof.Machine
end

