-- ==== Sys2Proof/Machine/Reg.lean ====
section
/-! DEFINITION. The registers of the tile by the names the spec gives them, and every field of every register
table of spec/ (bits, access code of R8, value at reset), as `REGISTER.FIELD`.
The crier registers CR_CTRL and CR_STATUS of R202 are named `CR_CTRL_C` and `CR_STATUS_C` here, because the chit rings
of R345 have registers of the same names. The words of a queue descriptor (R283) are `Q_BASE` (0x00), `Q_CFG` (0x08),
`Q_PROD` (0x0C), `Q_CONS` (0x10), `Q_HEAD`, `Q_TAIL` and `Q_NUM` (0x1C). A field whose reset the spec marks U, or gives
by variant, stands here with 0; `Reg.resetValue` gives what it takes (assumption log 3). -/

namespace Sys2Proof.Machine

/-- The access codes of R8. -/
inductive Acc where
  | RW | RO | WO | W1C | W1S | RC | RA
  deriving DecidableEq, Repr

/-- The register names of the spec's register tables. -/
inductive RegName where
  | DEV_STOCK_ID | DEV_STOCK_UNITS | DEV_STOCK_LANES | DEV_STOCK_PINS | TILL_NOW | TILL_STATUS
  | TILL_CTRL | TILL_LFO_INC | TILL_ALARM | HP_CFG | JOB_QUERY | JOB_INFO
  | JOB_COUNT | PWR_STATUS | PWR_CTRL | PWR_CLK | PWR_VSETTLE | PWR_RESET
  | PWR_RESET_CAUSE | WK_CTRL | WK_CAUSE | WK_I2C | FT_DSTATUS | FT_THERM_CTRL
  | FT_CORR_DEV | TAX_CTRL | TAX_STATUS | TAX_SRC | TAX_GAIN | TAX_LIMITS
  | TAX_VMIN | TAX_POS | TAX_VEL | TAX_VCMD | TAX_PRESET | TAX_CMD
  | TAX_LATENCY | TAX_RESID | TAX_UPD_TILL | TAX_MEAS_TILL | HP_STATUS | HP_INFLIGHT
  | HP_ERRCNT | HP_HMBUSY | HP_ERR_ADDR | HP_ERR_STREAM | OR_BASE | OR_CTRL
  | OR_STATUS | OR_HEAD | OR_TAIL | CR_BASE | CR_CTRL | CR_STATUS
  | CR_WRITE | CR_READ | CR_LOST | CHIT_MASK_SET | CHIT_MASK_CLR | CHIT_PEND_SET
  | CHIT_PEND_CLR | CHIT_LINE | CHIT_ROUTE | WK_PIN | FT_TEMP | TM_CTRL
  | TM_STATUS | TM_TARGET | TM_STEP | TM_INSTANT | TM_ACTED_AT | TM_ACTION
  | TM_PULSE | TM_COUNT | TM_FIRED_SUM | TM_LATE_SUM | CT_CTRL | CT_INPUT
  | CT_STATUS | CT_COUNT | CT_PERIOD | CT_COMPARE | CT_CAPTURE | CT_COUNT_LATCH
  | CT_CAP_TILL | STL_SELF | STL_CTRL | STL_STATUS | STL_CODE_BASE | STL_ICACHE
  | STL_HWIN | STL_RUN | EV_HSEL | EV_KICK | BW_CTRL | BW_STATUS
  | BW_SEL | BW_VIEW | BW_HLIMIT01 | BW_HLIMIT23 | BW_TABLE | TR_BANK
  | TR_UNSCHED | TR_IMISS | TR_HOSTPG | EV_CTRL | EV_PEND | EV_PEND_SET
  | EV_EN_SET | EV_EN_CLR | EV_OVR | EV_ROUTE | EV_TRAPLVL | EV_HSEL01
  | EV_HSEL23 | EV_HSEL45 | EV_HSEL67 | EV_STATUS | EV_VEC01 | EV_VEC23
  | ER_CTX | ER_BANK | ER_CAUSE | ER_WORD | BR_CTRL | BR_STATUS
  | BR_CLK | BR_RUN_SET | BR_RUN_CLR | BR_KICK | BR_OWN | BR_PINS
  | BR_IADDR | BR_IDATA | CR_CTRL_C | CR_STATUS_C | CR_EXEC | CR_SHIFT
  | CR_PINS | CR_FIFO | CR_TXF | CR_RXF | CR_X | CR_Y
  | CR_PACE | CR_CRC_CFG | CR_CRC_POLY | CR_CRC_INIT | CR_CRC_VAL | CR_SCNT
  | CR_ISH | CR_OSH | PIN_CFG | PIN_CFG_SH | PIN_GPIO | PIN_EVT
  | PIN_STATUS | PIN_CLAIM | PSW_MAP0 | PSW_MAP1 | PSW_MAP0_SH | PSW_MAP1_SH
  | PSW_STATUS | PIN_LEVEL | PIN_OUT_SET | PIN_OUT_CLR | PIN_HOLD_SET | PIN_HOLD_CLR
  | CLM_TM | CLM_CT | LN_CTRL | LN_STATUS | LN_TRAIN | LN_GROUP
  | LN_FAULT | LN_LAT | LN_SB | LN_FEC_CORR | LN_FEC_UNCORR | LN_RX_DROP
  | LN_SYNC_CTRL | LN_SYNC_STATUS | LN_SYNC_OFS | LN_SYNC_DLY | LN_SYNC_ASYM | LN_AXS_TX
  | CS_VERSION | PT_CTRL | PT_STATUS | PT_ENTRY | PT_MBOX | PT_PARAM
  | PT_STAT | PT_MAC | STREAM | TH_STATE | TH_TRAP | TH_AUX
  | SH_MPC | MR | SH_MR | HL_STATUS | HL_BELL_RING | HL_LEVY0
  | HL_LEVY1 | HL_HOSTLEVY | HL_ABANDON | TK_LIVE | TK_STRICT | HL_GRANT
  | HL_CONFLICT | TK_HWORD | TK_HREL | TK_HACQ | TK_ENTRY | QH_SEL
  | QH_RSV | QH_CMT | QH_TAKE | QH_DONE | QH_STAT | Q_BASE
  | Q_CFG | Q_PROD | Q_CONS | Q_HEAD | Q_TAIL | Q_NUM
  | CE_CTRL | CE_STATUS | CE_ERR_INFO | CE_ERR_ADDR | CE_HMBUSY | CE_ACTIVE
  | CE_WIN_BASE | CE_WIN_LAST | CH_SRC | CH_DST | CH_CNT | CH_FLAGS
  | CH_NEXT | CH_CTRL | CH_STATUS | CH_RESIDUE | CH_CRC | CH_CUR
  | CH_SADDR | CH_DCOUNT | HS_CTRL | HS_STATUS | HS_HOSTCAP | HS_SWAP_AT
  | HS_IMAGE_ID | HS_KEEP_UNITS | HS_STALL | HS_BARROW | HS_KEEP_PIN | HS_PROF_AXIS
  | HS_PROF_DECEL1 | HS_PROF_KNEE | HS_PROF_DECEL2 | FT_HCTRL | FT_HSTATUS | FT_LOCKSTEP
  | FT_WIND | FT_CORR_LIMIT | FT_BFLAG | FT_CORR_HM | FT_CORR_BR | FT_CORR_PT
  | FT_CORR_CE | FT_UNC_ADDR | FT_ROLE | FT_STALL | FT_CORR | TK_WORD
  | TK_STAT | TK_REL | TK_ACQ | BL_RING | DB_RING | QP_SEL
  | QP_STAT | QP_PUSH | QP_POP | QP_RSV | QP_CMT | QP_TAKE
  | QP_DONE | AX_SEL | TM_SEL | CT_SEL | SC_STATUS
  deriving DecidableEq, Repr

/-- One register: its name and the numbers of its instance (hall, unit, sub-unit, index), as far as it has them. -/
structure Reg where
  name : RegName
  a : Nat := 0
  b : Nat := 0
  c : Nat := 0
  d : Nat := 0
  deriving DecidableEq, Repr

/-- The numbers that name one instance of a register: hall, unit, sub-unit, index. -/
structure Ix where
  a : Nat := 0
  b : Nat := 0
  c : Nat := 0
  d : Nat := 0
  deriving DecidableEq, Repr

/-- An instance by its numbers. -/
def ix (a : Nat := 0) (b : Nat := 0) (c : Nat := 0) (d : Nat := 0) : Ix := ⟨a, b, c, d⟩

/-- The register `n` of instance `i`. -/
def Ix.reg (i : Ix) (n : RegName) : Reg := ⟨n, i.a, i.b, i.c, i.d⟩

/-- A field of a register: the bits `hi` to `lo`, its access code (R8) and its value at reset. -/
structure Field where
  reg : RegName
  hi : Nat
  lo : Nat
  acc : Acc
  rst : Nat
  deriving DecidableEq, Repr

-- DEV_STOCK_ID: chapter 00, R1
def DEV_STOCK_ID.FAMILY : Field := ⟨.DEV_STOCK_ID, 31, 24, .RO, 0x48⟩
def DEV_STOCK_ID.VARIANT : Field := ⟨.DEV_STOCK_ID, 23, 16, .RO, 0⟩
def DEV_STOCK_ID.STEPPING : Field := ⟨.DEV_STOCK_ID, 15, 8, .RO, 0⟩
def DEV_STOCK_ID.STOCK_LAYOUT : Field := ⟨.DEV_STOCK_ID, 7, 4, .RO, 1⟩
-- DEV_STOCK_UNITS: chapter 00, R1
def DEV_STOCK_UNITS.SPARE_STALLS : Field := ⟨.DEV_STOCK_UNITS, 16, 16, .RO, 0⟩
def DEV_STOCK_UNITS.CP_MAP : Field := ⟨.DEV_STOCK_UNITS, 15, 8, .RO, 0⟩
def DEV_STOCK_UNITS.HALL_MAP : Field := ⟨.DEV_STOCK_UNITS, 7, 0, .RO, 0⟩
-- DEV_STOCK_LANES: chapter 00, R1
def DEV_STOCK_LANES.LANE_MAP : Field := ⟨.DEV_STOCK_LANES, 31, 0, .RO, 0⟩
-- DEV_STOCK_PINS: chapter 00, R1
def DEV_STOCK_PINS.BANK_MAP : Field := ⟨.DEV_STOCK_PINS, 15, 0, .RO, 0⟩
-- TILL_NOW: chapter 02, R31
def TILL_NOW.VAL : Field := ⟨.TILL_NOW, 63, 0, .RO, 0⟩
-- TILL_STATUS: chapter 02, R31
def TILL_STATUS.LOCKED : Field := ⟨.TILL_STATUS, 31, 31, .RO, 0⟩
def TILL_STATUS.COARSE : Field := ⟨.TILL_STATUS, 30, 30, .RO, 1⟩
def TILL_STATUS.ON_LFO : Field := ⟨.TILL_STATUS, 29, 29, .RO, 0⟩
def TILL_STATUS.HOLDOVER : Field := ⟨.TILL_STATUS, 28, 28, .RO, 0⟩
def TILL_STATUS.REF_LOST : Field := ⟨.TILL_STATUS, 2, 2, .W1C, 0⟩
def TILL_STATUS.SLEEP_SPAN : Field := ⟨.TILL_STATUS, 1, 1, .W1C, 0⟩
def TILL_STATUS.ALARM_HIT : Field := ⟨.TILL_STATUS, 0, 0, .W1C, 0⟩
-- TILL_CTRL: chapter 02, R31
def TILL_CTRL.TRIM_AUTO : Field := ⟨.TILL_CTRL, 31, 31, .RW, 1⟩
def TILL_CTRL.ALARM_EN : Field := ⟨.TILL_CTRL, 30, 30, .RW, 0⟩
def TILL_CTRL.ALARM_WAKE : Field := ⟨.TILL_CTRL, 29, 29, .RW, 0⟩
-- TILL_LFO_INC: chapter 02, R31
def TILL_LFO_INC.INC_INT : Field := ⟨.TILL_LFO_INC, 31, 8, .RW, 0x77359⟩
def TILL_LFO_INC.INC_FRAC : Field := ⟨.TILL_LFO_INC, 7, 0, .RW, 0x40⟩
-- TILL_ALARM: chapter 02, R31
def TILL_ALARM.VAL : Field := ⟨.TILL_ALARM, 63, 0, .RW, 0xffffffffffffffff⟩
-- HP_CFG: chapter 12, R345
def HP_CFG.PORT_SEL : Field := ⟨.HP_CFG, 31, 31, .RW, 0⟩
def HP_CFG.HALL_TAGS : Field := ⟨.HP_CFG, 10, 0, .RW, 0x100⟩
-- JOB_QUERY: chapter 12, R345
def JOB_QUERY.JOB : Field := ⟨.JOB_QUERY, 15, 0, .RW, 0⟩
-- JOB_INFO: chapter 12, R345
def JOB_INFO.VALID : Field := ⟨.JOB_INFO, 31, 31, .RO, 0⟩
def JOB_INFO.STATE : Field := ⟨.JOB_INFO, 30, 28, .RO, 0⟩
def JOB_INFO.SUSP_PEND : Field := ⟨.JOB_INFO, 27, 27, .RO, 0⟩
def JOB_INFO.CANCEL_PEND : Field := ⟨.JOB_INFO, 26, 26, .RO, 0⟩
def JOB_INFO.CLAIMS : Field := ⟨.JOB_INFO, 25, 25, .RO, 0⟩
def JOB_INFO.RING : Field := ⟨.JOB_INFO, 24, 21, .RO, 0⟩
def JOB_INFO.CODE : Field := ⟨.JOB_INFO, 15, 8, .RO, 0⟩
def JOB_INFO.REASON : Field := ⟨.JOB_INFO, 7, 0, .RO, 0⟩
-- JOB_COUNT: chapter 12, R345
def JOB_COUNT.COUNT : Field := ⟨.JOB_COUNT, 9, 0, .RO, 0⟩
-- PWR_STATUS: chapter 14, R395
def PWR_STATUS.FULL : Field := ⟨.PWR_STATUS, 31, 31, .RO, 0⟩
def PWR_STATUS.MEM_CLEAR : Field := ⟨.PWR_STATUS, 30, 30, .RO, 0⟩
def PWR_STATUS.CORE_LOCK : Field := ⟨.PWR_STATUS, 29, 29, .RO, 0⟩
def PWR_STATUS.STATE : Field := ⟨.PWR_STATUS, 28, 26, .RO, 0⟩
def PWR_STATUS.PL : Field := ⟨.PWR_STATUS, 25, 24, .RO, 0⟩
-- PWR_CTRL: chapter 14, R395
def PWR_CTRL.BOOT_PL : Field := ⟨.PWR_CTRL, 31, 30, .RW, 3⟩
def PWR_CTRL.USER_BOOT : Field := ⟨.PWR_CTRL, 29, 29, .RW, 0⟩
-- PWR_CLK: chapter 14, R395
def PWR_CLK.SWITCH : Field := ⟨.PWR_CLK, 31, 31, .WO, 0⟩
def PWR_CLK.PLL_SEL : Field := ⟨.PWR_CLK, 30, 30, .RO, 0⟩
def PWR_CLK.ON_FIO : Field := ⟨.PWR_CLK, 29, 29, .RO, 1⟩
-- PWR_VSETTLE: chapter 14, R395
def PWR_VSETTLE.US : Field := ⟨.PWR_VSETTLE, 15, 0, .RW, 0x14⟩
-- PWR_RESET: chapter 14, R395
def PWR_RESET.DEVICE : Field := ⟨.PWR_RESET, 31, 31, .WO, 0⟩
def PWR_RESET.HALL : Field := ⟨.PWR_RESET, 30, 30, .WO, 0⟩
def PWR_RESET.STALL : Field := ⟨.PWR_RESET, 29, 29, .WO, 0⟩
def PWR_RESET.PORTER : Field := ⟨.PWR_RESET, 28, 28, .WO, 0⟩
def PWR_RESET.HALL_NUM : Field := ⟨.PWR_RESET, 10, 8, .WO, 0⟩
def PWR_RESET.STALL_NUM : Field := ⟨.PWR_RESET, 7, 4, .WO, 0⟩
def PWR_RESET.PORTER_NUM : Field := ⟨.PWR_RESET, 1, 0, .WO, 0⟩
-- PWR_RESET_CAUSE: chapter 14, R395
def PWR_RESET_CAUSE.CAUSE : Field := ⟨.PWR_RESET_CAUSE, 7, 0, .RO, 1⟩
-- WK_CTRL: chapter 14, R395
def WK_CTRL.DB_EN : Field := ⟨.WK_CTRL, 31, 31, .RW, 1⟩
-- WK_CAUSE: chapter 14, R395
def WK_CAUSE.PIN : Field := ⟨.WK_CAUSE, 31, 0, .W1C, 0⟩
-- WK_I2C: chapter 14, R395
def WK_I2C.EN : Field := ⟨.WK_I2C, 31, 31, .RW, 0⟩
def WK_I2C.ACK_EN : Field := ⟨.WK_I2C, 30, 30, .RW, 0⟩
def WK_I2C.HIT : Field := ⟨.WK_I2C, 29, 29, .W1C, 0⟩
def WK_I2C.DB_HIT : Field := ⟨.WK_I2C, 28, 28, .W1C, 0⟩
def WK_I2C.ALARM_HIT : Field := ⟨.WK_I2C, 27, 27, .W1C, 0⟩
def WK_I2C.SCL_PIN : Field := ⟨.WK_I2C, 19, 14, .RW, 0⟩
def WK_I2C.SDA_PIN : Field := ⟨.WK_I2C, 13, 8, .RW, 1⟩
def WK_I2C.ADDR : Field := ⟨.WK_I2C, 6, 0, .RW, 0x50⟩
-- FT_DSTATUS: chapter 15, R414
def FT_DSTATUS.THROTTLED : Field := ⟨.FT_DSTATUS, 31, 31, .RO, 0⟩
def FT_DSTATUS.WIND_FAULT : Field := ⟨.FT_DSTATUS, 30, 30, .W1C, 0⟩
def FT_DSTATUS.PARITY : Field := ⟨.FT_DSTATUS, 29, 29, .W1C, 0⟩
def FT_DSTATUS.HALLS : Field := ⟨.FT_DSTATUS, 7, 0, .RO, 0⟩
-- FT_THERM_CTRL: chapter 15, R414
def FT_THERM_CTRL.THROTTLE_EN : Field := ⟨.FT_THERM_CTRL, 24, 24, .RW, 1⟩
def FT_THERM_CTRL.CRIT : Field := ⟨.FT_THERM_CTRL, 23, 16, .RW, 0xbd⟩
def FT_THERM_CTRL.THROTTLE : Field := ⟨.FT_THERM_CTRL, 15, 8, .RW, 0xb8⟩
def FT_THERM_CTRL.WARN : Field := ⟨.FT_THERM_CTRL, 7, 0, .RW, 0xae⟩
-- FT_CORR_DEV: chapter 15, R414
def FT_CORR_DEV.COUNT : Field := ⟨.FT_CORR_DEV, 31, 0, .RC, 0⟩
-- TAX_CTRL: chapter 02, R42
def TAX_CTRL.ENABLE : Field := ⟨.TAX_CTRL, 31, 31, .RW, 0⟩
def TAX_CTRL.SRC : Field := ⟨.TAX_CTRL, 30, 28, .RW, 0⟩
def TAX_CTRL.K : Field := ⟨.TAX_CTRL, 27, 23, .RW, 0xa⟩
def TAX_CTRL.AUTO_RESUME : Field := ⟨.TAX_CTRL, 22, 22, .RW, 1⟩
def TAX_CTRL.INVERT : Field := ⟨.TAX_CTRL, 21, 21, .RW, 0⟩
def TAX_CTRL.COAST : Field := ⟨.TAX_CTRL, 20, 15, .RW, 0⟩
-- TAX_STATUS: chapter 02, R42
def TAX_STATUS.LOST : Field := ⟨.TAX_STATUS, 31, 31, .RO, 0⟩
def TAX_STATUS.STANDSTILL : Field := ⟨.TAX_STATUS, 30, 30, .RO, 1⟩
def TAX_STATUS.COASTING : Field := ⟨.TAX_STATUS, 29, 29, .RO, 0⟩
def TAX_STATUS.EARLY : Field := ⟨.TAX_STATUS, 28, 28, .RO, 1⟩
def TAX_STATUS.OVERSPEED : Field := ⟨.TAX_STATUS, 4, 4, .W1C, 0⟩
def TAX_STATUS.QUAD_ERR : Field := ⟨.TAX_STATUS, 3, 3, .W1C, 0⟩
def TAX_STATUS.STEP : Field := ⟨.TAX_STATUS, 2, 2, .W1C, 0⟩
def TAX_STATUS.SRC_TIMEOUT : Field := ⟨.TAX_STATUS, 1, 1, .W1C, 0⟩
-- TAX_SRC: chapter 02, R42
def TAX_SRC.HALL : Field := ⟨.TAX_SRC, 31, 29, .RW, 0⟩
def TAX_SRC.BARROW : Field := ⟨.TAX_SRC, 28, 25, .RW, 0⟩
def TAX_SRC.POS_A : Field := ⟨.TAX_SRC, 24, 22, .RW, 0⟩
def TAX_SRC.POS_B : Field := ⟨.TAX_SRC, 21, 19, .RW, 1⟩
def TAX_SRC.CRIER : Field := ⟨.TAX_SRC, 18, 17, .RW, 0⟩
def TAX_SRC.WORD_BITS : Field := ⟨.TAX_SRC, 16, 12, .RW, 0xc⟩
def TAX_SRC.LANE : Field := ⟨.TAX_SRC, 11, 7, .RW, 0⟩
def TAX_SRC.QFILT : Field := ⟨.TAX_SRC, 6, 4, .RW, 0⟩
def TAX_SRC.REMOTE_AXIS : Field := ⟨.TAX_SRC, 3, 0, .RW, 0⟩
-- TAX_GAIN: chapter 02, R42
def TAX_GAIN.ALPHA : Field := ⟨.TAX_GAIN, 31, 16, .RW, 0x4000⟩
def TAX_GAIN.BETA : Field := ⟨.TAX_GAIN, 15, 0, .RW, 0x400⟩
-- TAX_LIMITS: chapter 02, R42
def TAX_LIMITS.STANDSTILL : Field := ⟨.TAX_LIMITS, 31, 16, .RW, 0x4000⟩
def TAX_LIMITS.LOST : Field := ⟨.TAX_LIMITS, 15, 0, .RW, 0x100⟩
-- TAX_VMIN: chapter 02, R42
def TAX_VMIN.VAL : Field := ⟨.TAX_VMIN, 31, 0, .RW, 0⟩
-- TAX_POS: chapter 02, R42
def TAX_POS.VAL : Field := ⟨.TAX_POS, 63, 0, .RO, 0⟩
-- TAX_VEL: chapter 02, R42
def TAX_VEL.VAL : Field := ⟨.TAX_VEL, 63, 0, .RO, 0⟩
-- TAX_VCMD: chapter 02, R42
def TAX_VCMD.VAL : Field := ⟨.TAX_VCMD, 63, 0, .RW, 0⟩
-- TAX_PRESET: chapter 02, R42
def TAX_PRESET.VAL : Field := ⟨.TAX_PRESET, 63, 0, .RW, 0⟩
-- TAX_CMD: chapter 02, R42
def TAX_CMD.CLEAR_LOST : Field := ⟨.TAX_CMD, 1, 1, .WO, 0⟩
def TAX_CMD.PRESET : Field := ⟨.TAX_CMD, 0, 0, .WO, 0⟩
-- TAX_LATENCY: chapter 02, R42
def TAX_LATENCY.VAL : Field := ⟨.TAX_LATENCY, 31, 0, .RW, 0⟩
-- TAX_RESID: chapter 02, R42
def TAX_RESID.VAL : Field := ⟨.TAX_RESID, 31, 0, .RO, 0⟩
-- TAX_UPD_TILL: chapter 02, R42
def TAX_UPD_TILL.VAL : Field := ⟨.TAX_UPD_TILL, 63, 0, .RO, 0⟩
-- TAX_MEAS_TILL: chapter 02, R42
def TAX_MEAS_TILL.VAL : Field := ⟨.TAX_MEAS_TILL, 63, 0, .RO, 0⟩
-- HP_STATUS: chapter 12, R345
def HP_STATUS.HM_BUSY : Field := ⟨.HP_STATUS, 0, 0, .W1C, 0⟩
-- HP_INFLIGHT: chapter 12, R345
def HP_INFLIGHT.TAGS : Field := ⟨.HP_INFLIGHT, 10, 0, .RO, 0⟩
-- HP_ERRCNT: chapter 12, R345
def HP_ERRCNT.COUNT : Field := ⟨.HP_ERRCNT, 31, 0, .RC, 0⟩
-- HP_HMBUSY: chapter 12, R345
def HP_HMBUSY.COUNT : Field := ⟨.HP_HMBUSY, 31, 0, .RC, 0⟩
-- HP_ERR_ADDR: chapter 12, R345
def HP_ERR_ADDR.ADDR : Field := ⟨.HP_ERR_ADDR, 51, 0, .RO, 0⟩
-- HP_ERR_STREAM: chapter 12, R345
def HP_ERR_STREAM.STREAM : Field := ⟨.HP_ERR_STREAM, 15, 0, .RO, 0⟩
-- OR_BASE: chapter 12, R345
def OR_BASE.BASE : Field := ⟨.OR_BASE, 51, 0, .RW, 0⟩
-- OR_CTRL: chapter 12, R345
def OR_CTRL.EN : Field := ⟨.OR_CTRL, 31, 31, .RW, 0⟩
def OR_CTRL.SIZE_LOG2 : Field := ⟨.OR_CTRL, 11, 8, .RW, 4⟩
def OR_CTRL.CHIT_RING : Field := ⟨.OR_CTRL, 5, 0, .RW, 0⟩
-- OR_STATUS: chapter 12, R345
def OR_STATUS.STOPPED : Field := ⟨.OR_STATUS, 31, 31, .RO, 0⟩
def OR_STATUS.FETCH_ERR : Field := ⟨.OR_STATUS, 0, 0, .W1C, 0⟩
-- OR_HEAD: chapter 12, R345
def OR_HEAD.HEAD : Field := ⟨.OR_HEAD, 11, 0, .RO, 0⟩
-- OR_TAIL: chapter 12, R345
def OR_TAIL.TAIL : Field := ⟨.OR_TAIL, 11, 0, .RW, 0⟩
-- CR_BASE: chapter 12, R345
def CR_BASE.BASE : Field := ⟨.CR_BASE, 51, 0, .RW, 0⟩
-- CR_CTRL: chapter 12, R345
def CR_CTRL.EN : Field := ⟨.CR_CTRL, 31, 31, .RW, 0⟩
def CR_CTRL.AX_EN : Field := ⟨.CR_CTRL, 30, 30, .RW, 0⟩
def CR_CTRL.AXIS : Field := ⟨.CR_CTRL, 29, 26, .RW, 0⟩
def CR_CTRL.SIZE_LOG2 : Field := ⟨.CR_CTRL, 4, 0, .RW, 4⟩
-- CR_STATUS: chapter 12, R345
def CR_STATUS.STOPPED : Field := ⟨.CR_STATUS, 31, 31, .RO, 0⟩
def CR_STATUS.WRITE_ERR : Field := ⟨.CR_STATUS, 1, 1, .W1C, 0⟩
def CR_STATUS.FULL : Field := ⟨.CR_STATUS, 0, 0, .RO, 0⟩
-- CR_WRITE: chapter 12, R345
def CR_WRITE.WRITE : Field := ⟨.CR_WRITE, 15, 0, .RO, 0⟩
-- CR_READ: chapter 12, R345
def CR_READ.READ : Field := ⟨.CR_READ, 15, 0, .RW, 0⟩
-- CR_LOST: chapter 12, R345
def CR_LOST.COUNT : Field := ⟨.CR_LOST, 31, 0, .RC, 0⟩
-- CHIT_MASK_SET: chapter 12, R345
def CHIT_MASK_SET.MASK : Field := ⟨.CHIT_MASK_SET, 31, 0, .W1S, 0xffffffff⟩
-- CHIT_MASK_CLR: chapter 12, R345
def CHIT_MASK_CLR.MASK : Field := ⟨.CHIT_MASK_CLR, 31, 0, .W1C, 0xffffffff⟩
-- CHIT_PEND_SET: chapter 12, R345
def CHIT_PEND_SET.PEND : Field := ⟨.CHIT_PEND_SET, 31, 0, .W1S, 0⟩
-- CHIT_PEND_CLR: chapter 12, R345
def CHIT_PEND_CLR.PEND : Field := ⟨.CHIT_PEND_CLR, 31, 0, .W1C, 0⟩
-- CHIT_LINE: chapter 12, R345
def CHIT_LINE.LINE : Field := ⟨.CHIT_LINE, 31, 0, .RO, 0⟩
-- CHIT_ROUTE: chapter 12, R345
def CHIT_ROUTE.ALT : Field := ⟨.CHIT_ROUTE, 13, 8, .RW, 0⟩
def CHIT_ROUTE.RING : Field := ⟨.CHIT_ROUTE, 5, 0, .RW, 0⟩
-- WK_PIN: chapter 14, R395
def WK_PIN.EN : Field := ⟨.WK_PIN, 31, 31, .RW, 0⟩
def WK_PIN.COND : Field := ⟨.WK_PIN, 30, 29, .RW, 0⟩
def WK_PIN.PIN : Field := ⟨.WK_PIN, 5, 0, .RW, 0⟩
-- FT_TEMP: chapter 15, R414
def FT_TEMP.TEMP : Field := ⟨.FT_TEMP, 7, 0, .RO, 0⟩
-- TM_CTRL: chapter 02, R51
def TM_CTRL.ARM : Field := ⟨.TM_CTRL, 31, 31, .WO, 0⟩
def TM_CTRL.DISARM : Field := ⟨.TM_CTRL, 30, 30, .WO, 0⟩
def TM_CTRL.AXIS : Field := ⟨.TM_CTRL, 29, 26, .RW, 0⟩
def TM_CTRL.DIR : Field := ⟨.TM_CTRL, 25, 24, .RW, 0⟩
def TM_CTRL.LATE_MODE : Field := ⟨.TM_CTRL, 23, 23, .RW, 0⟩
def TM_CTRL.REPEAT : Field := ⟨.TM_CTRL, 22, 22, .RW, 0⟩
-- TM_STATUS: chapter 02, R51
def TM_STATUS.ARMED : Field := ⟨.TM_STATUS, 31, 31, .RO, 0⟩
def TM_STATUS.COMMITTED : Field := ⟨.TM_STATUS, 30, 30, .RO, 0⟩
def TM_STATUS.WAITING : Field := ⟨.TM_STATUS, 29, 29, .RO, 0⟩
def TM_STATUS.LOST : Field := ⟨.TM_STATUS, 28, 28, .RO, 0⟩
def TM_STATUS.FIRED : Field := ⟨.TM_STATUS, 7, 7, .W1C, 0⟩
def TM_STATUS.LATE : Field := ⟨.TM_STATUS, 6, 6, .W1C, 0⟩
def TM_STATUS.SLIP : Field := ⟨.TM_STATUS, 5, 5, .W1C, 0⟩
def TM_STATUS.DROPPED : Field := ⟨.TM_STATUS, 4, 4, .W1C, 0⟩
def TM_STATUS.CART_BUSY : Field := ⟨.TM_STATUS, 3, 3, .W1C, 0⟩
def TM_STATUS.CFG_ERR : Field := ⟨.TM_STATUS, 2, 2, .W1C, 0⟩
def TM_STATUS.SLEEP_DISARM : Field := ⟨.TM_STATUS, 1, 1, .W1C, 0⟩
-- TM_TARGET: chapter 02, R51
def TM_TARGET.VAL : Field := ⟨.TM_TARGET, 63, 0, .RW, 0⟩
-- TM_STEP: chapter 02, R51
def TM_STEP.VAL : Field := ⟨.TM_STEP, 63, 0, .RW, 0⟩
-- TM_INSTANT: chapter 02, R51
def TM_INSTANT.VAL : Field := ⟨.TM_INSTANT, 63, 0, .RO, 0xffffffffffffffff⟩
-- TM_ACTED_AT: chapter 02, R51
def TM_ACTED_AT.VAL : Field := ⟨.TM_ACTED_AT, 63, 0, .RO, 0⟩
-- TM_ACTION: chapter 02, R51
def TM_ACTION.EDGE_MODE : Field := ⟨.TM_ACTION, 31, 29, .RW, 0⟩
def TM_ACTION.BELL_EN : Field := ⟨.TM_ACTION, 28, 28, .RW, 0⟩
def TM_ACTION.BELL_DEV : Field := ⟨.TM_ACTION, 27, 27, .RW, 0⟩
def TM_ACTION.BELL_NUM : Field := ⟨.TM_ACTION, 26, 22, .RW, 0⟩
def TM_ACTION.CART_EN : Field := ⟨.TM_ACTION, 21, 21, .RW, 0⟩
def TM_ACTION.CART_CH : Field := ⟨.TM_ACTION, 20, 16, .RW, 0⟩
def TM_ACTION.EVENT_EN : Field := ⟨.TM_ACTION, 15, 15, .RW, 0⟩
def TM_ACTION.SWAP : Field := ⟨.TM_ACTION, 14, 14, .RO, 0⟩
-- TM_PULSE: chapter 02, R51
def TM_PULSE.PULSE_TICKS : Field := ⟨.TM_PULSE, 15, 0, .RW, 0x10⟩
-- TM_COUNT: chapter 02, R51
def TM_COUNT.VAL : Field := ⟨.TM_COUNT, 31, 0, .RO, 0⟩
-- TM_FIRED_SUM: chapter 02, R51
def TM_FIRED_SUM.VAL : Field := ⟨.TM_FIRED_SUM, 31, 0, .W1C, 0⟩
-- TM_LATE_SUM: chapter 02, R51
def TM_LATE_SUM.VAL : Field := ⟨.TM_LATE_SUM, 31, 0, .W1C, 0⟩
-- CT_CTRL: chapter 02, R61
def CT_CTRL.ENABLE : Field := ⟨.CT_CTRL, 31, 31, .RW, 0⟩
def CT_CTRL.CLK_SRC : Field := ⟨.CT_CTRL, 30, 28, .RW, 0⟩
def CT_CTRL.AXIS : Field := ⟨.CT_CTRL, 27, 24, .RW, 0⟩
def CT_CTRL.CMP_OUT : Field := ⟨.CT_CTRL, 23, 21, .RW, 0⟩
def CT_CTRL.WRAP_OUT : Field := ⟨.CT_CTRL, 20, 18, .RW, 0⟩
def CT_CTRL.OUT_LEVEL : Field := ⟨.CT_CTRL, 17, 17, .RW, 0⟩
def CT_CTRL.MATCH_EV : Field := ⟨.CT_CTRL, 16, 16, .RW, 0⟩
def CT_CTRL.WRAP_EV : Field := ⟨.CT_CTRL, 15, 15, .RW, 0⟩
def CT_CTRL.CAP_EV : Field := ⟨.CT_CTRL, 14, 14, .RW, 0⟩
def CT_CTRL.BELL_EN : Field := ⟨.CT_CTRL, 13, 13, .RW, 0⟩
def CT_CTRL.BELL_NUM : Field := ⟨.CT_CTRL, 12, 8, .RW, 0⟩
def CT_CTRL.AX_REV : Field := ⟨.CT_CTRL, 7, 7, .RW, 0⟩
-- CT_INPUT: chapter 02, R61
def CT_INPUT.BARROW : Field := ⟨.CT_INPUT, 31, 28, .RW, 0⟩
def CT_INPUT.POS : Field := ⟨.CT_INPUT, 27, 25, .RW, 0⟩
def CT_INPUT.EDGE : Field := ⟨.CT_INPUT, 24, 23, .RW, 1⟩
def CT_INPUT.FILT_LEN : Field := ⟨.CT_INPUT, 22, 15, .RW, 0⟩
def CT_INPUT.PRESCALE : Field := ⟨.CT_INPUT, 14, 7, .RW, 0⟩
-- CT_STATUS: chapter 02, R61
def CT_STATUS.RUNNING : Field := ⟨.CT_STATUS, 31, 31, .RO, 0⟩
def CT_STATUS.MATCH : Field := ⟨.CT_STATUS, 6, 6, .W1C, 0⟩
def CT_STATUS.WRAP : Field := ⟨.CT_STATUS, 5, 5, .W1C, 0⟩
def CT_STATUS.CAPTURED : Field := ⟨.CT_STATUS, 4, 4, .W1C, 0⟩
def CT_STATUS.CAP_OVR : Field := ⟨.CT_STATUS, 3, 3, .W1C, 0⟩
def CT_STATUS.PERIOD_PASSED : Field := ⟨.CT_STATUS, 2, 2, .W1C, 0⟩
def CT_STATUS.CFG_REFUSED : Field := ⟨.CT_STATUS, 1, 1, .W1C, 0⟩
-- CT_COUNT: chapter 02, R61
def CT_COUNT.VAL : Field := ⟨.CT_COUNT, 31, 0, .RW, 0⟩
-- CT_PERIOD: chapter 02, R61
def CT_PERIOD.VAL : Field := ⟨.CT_PERIOD, 31, 0, .RW, 0xffffffff⟩
-- CT_COMPARE: chapter 02, R61
def CT_COMPARE.VAL : Field := ⟨.CT_COMPARE, 31, 0, .RW, 0xffffffff⟩
-- CT_CAPTURE: chapter 02, R61
def CT_CAPTURE.VAL : Field := ⟨.CT_CAPTURE, 31, 0, .RO, 0⟩
-- CT_COUNT_LATCH: chapter 02, R61
def CT_COUNT_LATCH.VAL : Field := ⟨.CT_COUNT_LATCH, 31, 0, .RO, 0⟩
-- CT_CAP_TILL: chapter 02, R61
def CT_CAP_TILL.VAL : Field := ⟨.CT_CAP_TILL, 63, 0, .RO, 0⟩
-- STL_SELF: chapter 03, R96
def STL_SELF.HALL : Field := ⟨.STL_SELF, 31, 29, .RO, 0⟩
def STL_SELF.STALL : Field := ⟨.STL_SELF, 28, 25, .RO, 0⟩
def STL_SELF.ROLE : Field := ⟨.STL_SELF, 24, 21, .RO, 0⟩
def STL_SELF.HOST_READ : Field := ⟨.STL_SELF, 4, 4, .RO, 0⟩
def STL_SELF.TRADER : Field := ⟨.STL_SELF, 3, 0, .RO, 0⟩
-- STL_CTRL: chapter 03, R96
def STL_CTRL.PAGE_SEL : Field := ⟨.STL_CTRL, 31, 31, .RW, 0⟩
def STL_CTRL.LBUF_EN : Field := ⟨.STL_CTRL, 30, 30, .RW, 1⟩
-- STL_STATUS: chapter 03, R96
def STL_STATUS.BSY : Field := ⟨.STL_STATUS, 31, 16, .W1C, 0⟩
def STL_STATUS.PAGE : Field := ⟨.STL_STATUS, 15, 15, .RO, 0⟩
def STL_STATUS.PAGE_REFUSED : Field := ⟨.STL_STATUS, 14, 14, .W1C, 0⟩
def STL_STATUS.FILL : Field := ⟨.STL_STATUS, 13, 13, .RO, 0⟩
-- STL_CODE_BASE: chapter 03, R96
def STL_CODE_BASE.BASE : Field := ⟨.STL_CODE_BASE, 21, 12, .RW, 0⟩
-- STL_ICACHE: chapter 03, R96
def STL_ICACHE.INVAL : Field := ⟨.STL_ICACHE, 31, 31, .WO, 0⟩
def STL_ICACHE.INVAL_BUSY : Field := ⟨.STL_ICACHE, 30, 30, .RO, 0⟩
def STL_ICACHE.EN : Field := ⟨.STL_ICACHE, 29, 29, .RW, 1⟩
-- STL_HWIN: chapter 03, R96
def STL_HWIN.WIN : Field := ⟨.STL_HWIN, 2, 0, .RW, 0⟩
-- STL_RUN: chapter 03, R96
def STL_RUN.WAITING : Field := ⟨.STL_RUN, 31, 16, .RO, 0⟩
def STL_RUN.RUNNING : Field := ⟨.STL_RUN, 15, 0, .RO, 0⟩
-- EV_HSEL: chapter 06, R170
def EV_HSEL.TRADER : Field := ⟨.EV_HSEL, 3, 0, .RW, 0⟩
-- EV_KICK: chapter 06, R170
def EV_KICK.KICK : Field := ⟨.EV_KICK, 15, 0, .WO, 0⟩
-- BW_CTRL: chapter 13, R361
def BW_CTRL.EN : Field := ⟨.BW_CTRL, 31, 31, .RW, 0⟩
-- BW_STATUS: chapter 13, R361
def BW_STATUS.OVER : Field := ⟨.BW_STATUS, 15, 0, .W1C, 0⟩
-- BW_SEL: chapter 13, R361
def BW_SEL.TRADER : Field := ⟨.BW_SEL, 3, 0, .RW, 0⟩
-- BW_VIEW: chapter 13, R361
def BW_VIEW.LIMIT : Field := ⟨.BW_VIEW, 31, 16, .RO, 0⟩
def BW_VIEW.COUNT : Field := ⟨.BW_VIEW, 15, 0, .RO, 0⟩
-- BW_HLIMIT01: chapter 13, R361
def BW_HLIMIT01.HI : Field := ⟨.BW_HLIMIT01, 31, 16, .RW, 0⟩
def BW_HLIMIT01.LO : Field := ⟨.BW_HLIMIT01, 15, 0, .RW, 0⟩
-- BW_HLIMIT23: chapter 13, R361
def BW_HLIMIT23.HI : Field := ⟨.BW_HLIMIT23, 31, 16, .RW, 0⟩
def BW_HLIMIT23.LO : Field := ⟨.BW_HLIMIT23, 15, 0, .RW, 0⟩
-- BW_TABLE: chapter 13, R361
def BW_TABLE.HI : Field := ⟨.BW_TABLE, 31, 16, .RW, 0⟩
def BW_TABLE.LO : Field := ⟨.BW_TABLE, 15, 0, .RW, 0⟩
-- TR_BANK: chapter 03, R96
def TR_BANK.HOST : Field := ⟨.TR_BANK, 10, 10, .RO, 0⟩
def TR_BANK.HBK : Field := ⟨.TR_BANK, 9, 2, .RO, 0⟩
def TR_BANK.BNK : Field := ⟨.TR_BANK, 1, 0, .RO, 0⟩
-- TR_UNSCHED: chapter 03, R96
def TR_UNSCHED.COUNT : Field := ⟨.TR_UNSCHED, 31, 0, .RW, 0⟩
-- TR_IMISS: chapter 03, R96
def TR_IMISS.COUNT : Field := ⟨.TR_IMISS, 31, 0, .RW, 0⟩
-- TR_HOSTPG: chapter 03, R96
def TR_HOSTPG.PAGE : Field := ⟨.TR_HOSTPG, 37, 0, .RW, 0⟩
-- EV_CTRL: chapter 06, R170
def EV_CTRL.CUR : Field := ⟨.EV_CTRL, 2, 0, .RO, 0⟩
-- EV_PEND: chapter 06, R170
def EV_PEND.PEND : Field := ⟨.EV_PEND, 10, 0, .W1C, 0⟩
-- EV_PEND_SET: chapter 06, R170
def EV_PEND_SET.PEND : Field := ⟨.EV_PEND_SET, 10, 0, .W1S, 0⟩
-- EV_EN_SET: chapter 06, R170
def EV_EN_SET.FIXED : Field := ⟨.EV_EN_SET, 10, 9, .RO, 3⟩
def EV_EN_SET.EN : Field := ⟨.EV_EN_SET, 8, 0, .W1S, 0⟩
-- EV_EN_CLR: chapter 06, R170
def EV_EN_CLR.FIXED : Field := ⟨.EV_EN_CLR, 10, 9, .RO, 3⟩
def EV_EN_CLR.EN : Field := ⟨.EV_EN_CLR, 8, 0, .W1C, 0⟩
-- EV_OVR: chapter 06, R170
def EV_OVR.OVR : Field := ⟨.EV_OVR, 10, 0, .W1C, 0⟩
-- EV_ROUTE: chapter 06, R170
def EV_ROUTE.LVL : Field := ⟨.EV_ROUTE, 21, 0, .RW, 0x2c0000⟩
-- EV_TRAPLVL: chapter 06, R170
def EV_TRAPLVL.LVL : Field := ⟨.EV_TRAPLVL, 9, 0, .RW, 0x1bf⟩
-- EV_HSEL01: chapter 06, R170
def EV_HSEL01.NUM_HI : Field := ⟨.EV_HSEL01, 24, 16, .RW, 0x1ff⟩
def EV_HSEL01.NUM_LO : Field := ⟨.EV_HSEL01, 8, 0, .RW, 0x1ff⟩
-- EV_HSEL23: chapter 06, R170
def EV_HSEL23.NUM_HI : Field := ⟨.EV_HSEL23, 24, 16, .RW, 0x1ff⟩
def EV_HSEL23.NUM_LO : Field := ⟨.EV_HSEL23, 8, 0, .RW, 0x1ff⟩
-- EV_HSEL45: chapter 06, R170
def EV_HSEL45.NUM_HI : Field := ⟨.EV_HSEL45, 24, 16, .RW, 0x1ff⟩
def EV_HSEL45.NUM_LO : Field := ⟨.EV_HSEL45, 8, 0, .RW, 0x1ff⟩
-- EV_HSEL67: chapter 06, R170
def EV_HSEL67.NUM_HI : Field := ⟨.EV_HSEL67, 24, 16, .RW, 0x1ff⟩
def EV_HSEL67.NUM_LO : Field := ⟨.EV_HSEL67, 8, 0, .RW, 0x1ff⟩
-- EV_STATUS: chapter 06, R170
def EV_STATUS.DOUBLE : Field := ⟨.EV_STATUS, 31, 31, .W1C, 0⟩
def EV_STATUS.DOUBLE_SRC : Field := ⟨.EV_STATUS, 30, 27, .RO, 0⟩
def EV_STATUS.STRAY_RETE : Field := ⟨.EV_STATUS, 26, 26, .W1C, 0⟩
-- EV_VEC01: chapter 06, R170
def EV_VEC01.VEC1 : Field := ⟨.EV_VEC01, 31, 16, .RW, 0⟩
def EV_VEC01.VEC0 : Field := ⟨.EV_VEC01, 15, 0, .RW, 0⟩
-- EV_VEC23: chapter 06, R170
def EV_VEC23.VEC3 : Field := ⟨.EV_VEC23, 31, 16, .RW, 0⟩
def EV_VEC23.VEC2 : Field := ⟨.EV_VEC23, 15, 0, .RW, 0⟩
-- ER_CTX: chapter 06, R170
def ER_CTX.PLVL : Field := ⟨.ER_CTX, 26, 24, .RW, 0⟩
def ER_CTX.TSR : Field := ⟨.ER_CTX, 23, 16, .RW, 0⟩
def ER_CTX.PC : Field := ⟨.ER_CTX, 15, 0, .RW, 0⟩
-- ER_BANK: chapter 06, R170
def ER_BANK.HOST : Field := ⟨.ER_BANK, 10, 10, .RW, 0⟩
def ER_BANK.HBK : Field := ⟨.ER_BANK, 9, 2, .RW, 0⟩
def ER_BANK.BNK : Field := ⟨.ER_BANK, 1, 0, .RW, 0⟩
-- ER_CAUSE: chapter 06, R170
def ER_CAUSE.ADDR : Field := ⟨.ER_CAUSE, 31, 16, .RO, 0⟩
def ER_CAUSE.SRC : Field := ⟨.ER_CAUSE, 11, 8, .RO, 0⟩
def ER_CAUSE.DETAIL : Field := ⟨.ER_CAUSE, 7, 0, .RO, 0⟩
-- ER_WORD: chapter 06, R170
def ER_WORD.WORD : Field := ⟨.ER_WORD, 31, 0, .RO, 0⟩
-- BR_CTRL: chapter 07, R202
def BR_CTRL.PAGE_SEL : Field := ⟨.BR_CTRL, 31, 31, .RW, 0⟩
-- BR_STATUS: chapter 07, R202
def BR_STATUS.PAGE : Field := ⟨.BR_STATUS, 31, 31, .RO, 0⟩
def BR_STATUS.CLK_RUN : Field := ⟨.BR_STATUS, 30, 30, .RO, 0⟩
def BR_STATUS.PAGE_PEND : Field := ⟨.BR_STATUS, 29, 29, .RO, 0⟩
def BR_STATUS.FLAGGED : Field := ⟨.BR_STATUS, 3, 0, .RO, 0⟩
-- BR_CLK: chapter 07, R202
def BR_CLK.DIV_INT : Field := ⟨.BR_CLK, 31, 16, .RW, 2⟩
def BR_CLK.DIV_FRAC : Field := ⟨.BR_CLK, 15, 0, .RW, 0⟩
-- BR_RUN_SET: chapter 07, R202
def BR_RUN_SET.RUN : Field := ⟨.BR_RUN_SET, 3, 0, .W1S, 0⟩
-- BR_RUN_CLR: chapter 07, R202
def BR_RUN_CLR.RUN : Field := ⟨.BR_RUN_CLR, 3, 0, .W1C, 0⟩
-- BR_KICK: chapter 07, R202
def BR_KICK.KICK : Field := ⟨.BR_KICK, 3, 0, .WO, 0⟩
-- BR_OWN: chapter 07, R202
def BR_OWN.OWN : Field := ⟨.BR_OWN, 31, 0, .RW, 0⟩
-- BR_PINS: chapter 07, R202
def BR_PINS.LEVEL : Field := ⟨.BR_PINS, 23, 16, .RO, 0⟩
def BR_PINS.DRIVE : Field := ⟨.BR_PINS, 15, 8, .RO, 0⟩
def BR_PINS.ENABLE : Field := ⟨.BR_PINS, 7, 0, .RO, 0⟩
-- BR_IADDR: chapter 07, R202
def BR_IADDR.AUTO_INC : Field := ⟨.BR_IADDR, 31, 31, .RW, 0⟩
def BR_IADDR.PAGE : Field := ⟨.BR_IADDR, 6, 6, .RW, 0⟩
def BR_IADDR.WORD : Field := ⟨.BR_IADDR, 5, 0, .RW, 0⟩
-- BR_IDATA: chapter 07, R202
def BR_IDATA.WORD : Field := ⟨.BR_IDATA, 23, 0, .RW, 0⟩
-- CR_CTRL_C: chapter 07, R202
def CR_CTRL_C.RESTART : Field := ⟨.CR_CTRL_C, 31, 31, .WO, 0⟩
def CR_CTRL_C.FLUSH : Field := ⟨.CR_CTRL_C, 30, 30, .WO, 0⟩
-- CR_STATUS_C: chapter 07, R202
def CR_STATUS_C.PC : Field := ⟨.CR_STATUS_C, 31, 26, .RO, 0⟩
def CR_STATUS_C.STATE : Field := ⟨.CR_STATUS_C, 25, 23, .RO, 0⟩
def CR_STATUS_C.ECC_ERR : Field := ⟨.CR_STATUS_C, 7, 7, .W1C, 0⟩
def CR_STATUS_C.ILLEGAL : Field := ⟨.CR_STATUS_C, 6, 6, .W1C, 0⟩
def CR_STATUS_C.TX_UNDER : Field := ⟨.CR_STATUS_C, 5, 5, .W1C, 0⟩
def CR_STATUS_C.TX_OVER : Field := ⟨.CR_STATUS_C, 4, 4, .W1C, 0⟩
def CR_STATUS_C.RX_OVER : Field := ⟨.CR_STATUS_C, 3, 3, .W1C, 0⟩
def CR_STATUS_C.RX_UNDER : Field := ⟨.CR_STATUS_C, 2, 2, .W1C, 0⟩
def CR_STATUS_C.CFG_ERR : Field := ⟨.CR_STATUS_C, 1, 1, .W1C, 0⟩
-- CR_EXEC: chapter 07, R202
def CR_EXEC.WRAP_TOP : Field := ⟨.CR_EXEC, 29, 24, .RW, 0x3f⟩
def CR_EXEC.WRAP_BASE : Field := ⟨.CR_EXEC, 21, 16, .RW, 0⟩
def CR_EXEC.SWAP_JUMP : Field := ⟨.CR_EXEC, 15, 15, .RW, 0⟩
def CR_EXEC.SWAP_ENTRY : Field := ⟨.CR_EXEC, 13, 8, .RW, 0⟩
def CR_EXEC.START_PC : Field := ⟨.CR_EXEC, 5, 0, .RW, 0⟩
-- CR_SHIFT: chapter 07, R202
def CR_SHIFT.OUT_DIR : Field := ⟨.CR_SHIFT, 31, 31, .RW, 0⟩
def CR_SHIFT.IN_DIR : Field := ⟨.CR_SHIFT, 30, 30, .RW, 0⟩
def CR_SHIFT.REFILL : Field := ⟨.CR_SHIFT, 29, 29, .RW, 0⟩
def CR_SHIFT.SPILL : Field := ⟨.CR_SHIFT, 28, 28, .RW, 0⟩
def CR_SHIFT.REFILL_WIDE : Field := ⟨.CR_SHIFT, 27, 27, .RW, 0⟩
def CR_SHIFT.SPILL_NOWAIT : Field := ⟨.CR_SHIFT, 26, 26, .RW, 0⟩
def CR_SHIFT.SPILL_AT : Field := ⟨.CR_SHIFT, 21, 16, .RW, 0⟩
-- CR_PINS: chapter 07, R202
def CR_PINS.OUT_BASE : Field := ⟨.CR_PINS, 30, 28, .RW, 0⟩
def CR_PINS.OUT_COUNT : Field := ⟨.CR_PINS, 27, 24, .RW, 0⟩
def CR_PINS.SET_BASE : Field := ⟨.CR_PINS, 22, 20, .RW, 0⟩
def CR_PINS.SET_COUNT : Field := ⟨.CR_PINS, 19, 16, .RW, 0⟩
def CR_PINS.CUE_MODE : Field := ⟨.CR_PINS, 15, 15, .RW, 0⟩
def CR_PINS.CUE_EN : Field := ⟨.CR_PINS, 14, 12, .RW, 0⟩
def CR_PINS.CUE2_POS : Field := ⟨.CR_PINS, 11, 9, .RW, 0⟩
def CR_PINS.CUE1_POS : Field := ⟨.CR_PINS, 8, 6, .RW, 0⟩
def CR_PINS.CUE0_POS : Field := ⟨.CR_PINS, 5, 3, .RW, 0⟩
def CR_PINS.IN_BASE : Field := ⟨.CR_PINS, 2, 0, .RW, 0⟩
-- CR_FIFO: chapter 07, R202
def CR_FIFO.JOIN : Field := ⟨.CR_FIFO, 31, 30, .RW, 0⟩
def CR_FIFO.RX_ROUTE : Field := ⟨.CR_FIFO, 29, 29, .RW, 0⟩
def CR_FIFO.RX_LVL : Field := ⟨.CR_FIFO, 12, 8, .RO, 0⟩
def CR_FIFO.TX_LVL : Field := ⟨.CR_FIFO, 4, 0, .RO, 0⟩
-- CR_TXF: chapter 07, R202
def CR_TXF.DATA : Field := ⟨.CR_TXF, 31, 0, .WO, 0⟩
-- CR_RXF: chapter 07, R202
def CR_RXF.DATA : Field := ⟨.CR_RXF, 31, 0, .RA, 0⟩
-- CR_X: chapter 07, R202
def CR_X.X : Field := ⟨.CR_X, 31, 0, .RW, 0⟩
-- CR_Y: chapter 07, R202
def CR_Y.Y : Field := ⟨.CR_Y, 31, 0, .RW, 0⟩
-- CR_PACE: chapter 07, R202
def CR_PACE.PERIOD : Field := ⟨.CR_PACE, 31, 16, .RW, 0⟩
def CR_PACE.BT : Field := ⟨.CR_PACE, 15, 0, .RW, 0⟩
-- CR_CRC_CFG: chapter 07, R202
def CR_CRC_CFG.MODE : Field := ⟨.CR_CRC_CFG, 9, 8, .RO, 0⟩
def CR_CRC_CFG.WIDTH : Field := ⟨.CR_CRC_CFG, 4, 0, .RW, 0x1f⟩
-- CR_CRC_POLY: chapter 07, R202
def CR_CRC_POLY.POLY : Field := ⟨.CR_CRC_POLY, 31, 0, .RW, 0x4c11db7⟩
-- CR_CRC_INIT: chapter 07, R202
def CR_CRC_INIT.INIT : Field := ⟨.CR_CRC_INIT, 31, 0, .RW, 0xffffffff⟩
-- CR_CRC_VAL: chapter 07, R202
def CR_CRC_VAL.VAL : Field := ⟨.CR_CRC_VAL, 31, 0, .RW, 0⟩
-- CR_SCNT: chapter 07, R202
def CR_SCNT.OSH_LEFT : Field := ⟨.CR_SCNT, 30, 24, .RO, 0⟩
def CR_SCNT.ISH_FILL : Field := ⟨.CR_SCNT, 6, 0, .RO, 0⟩
-- CR_ISH: chapter 07, R202
def CR_ISH.ISH : Field := ⟨.CR_ISH, 63, 0, .RO, 0⟩
-- CR_OSH: chapter 07, R202
def CR_OSH.OSH : Field := ⟨.CR_OSH, 63, 0, .RO, 0⟩
-- PIN_CFG: chapter 08, R223
def PIN_CFG.FUNC : Field := ⟨.PIN_CFG, 31, 28, .RW, 0⟩
def PIN_CFG.SEL : Field := ⟨.PIN_CFG, 27, 22, .RW, 0⟩
def PIN_CFG.THRESH : Field := ⟨.PIN_CFG, 21, 20, .RW, 0⟩
def PIN_CFG.HYST : Field := ⟨.PIN_CFG, 19, 19, .RW, 1⟩
def PIN_CFG.DRIVE : Field := ⟨.PIN_CFG, 18, 17, .RW, 1⟩
def PIN_CFG.PULL : Field := ⟨.PIN_CFG, 16, 15, .RW, 0⟩
def PIN_CFG.IN_EN : Field := ⟨.PIN_CFG, 14, 14, .RW, 0⟩
-- PIN_CFG_SH: chapter 08, R223
def PIN_CFG_SH.FUNC : Field := ⟨.PIN_CFG_SH, 31, 28, .RW, 0⟩
def PIN_CFG_SH.SEL : Field := ⟨.PIN_CFG_SH, 27, 22, .RW, 0⟩
def PIN_CFG_SH.THRESH : Field := ⟨.PIN_CFG_SH, 21, 20, .RW, 0⟩
def PIN_CFG_SH.HYST : Field := ⟨.PIN_CFG_SH, 19, 19, .RW, 1⟩
def PIN_CFG_SH.DRIVE : Field := ⟨.PIN_CFG_SH, 18, 17, .RW, 1⟩
def PIN_CFG_SH.PULL : Field := ⟨.PIN_CFG_SH, 16, 15, .RW, 0⟩
def PIN_CFG_SH.IN_EN : Field := ⟨.PIN_CFG_SH, 14, 14, .RW, 0⟩
-- PIN_GPIO: chapter 08, R223
def PIN_GPIO.OE : Field := ⟨.PIN_GPIO, 1, 1, .RW, 0⟩
def PIN_GPIO.DATA : Field := ⟨.PIN_GPIO, 0, 0, .RW, 0⟩
-- PIN_EVT: chapter 08, R223
def PIN_EVT.MODE : Field := ⟨.PIN_EVT, 31, 30, .RW, 0⟩
def PIN_EVT.EDGE : Field := ⟨.PIN_EVT, 29, 28, .RW, 0⟩
def PIN_EVT.LEN : Field := ⟨.PIN_EVT, 27, 16, .RW, 0⟩
def PIN_EVT.PRESC : Field := ⟨.PIN_EVT, 3, 0, .RW, 0⟩
-- PIN_STATUS: chapter 08, R223
def PIN_STATUS.HELD : Field := ⟨.PIN_STATUS, 31, 31, .RO, 0⟩
def PIN_STATUS.HOLD_HOST : Field := ⟨.PIN_STATUS, 30, 30, .RO, 0⟩
def PIN_STATUS.HOLD_SLEEP : Field := ⟨.PIN_STATUS, 29, 29, .RO, 0⟩
def PIN_STATUS.HOLD_WIND : Field := ⟨.PIN_STATUS, 28, 28, .RO, 0⟩
def PIN_STATUS.HOLD_FAIL : Field := ⟨.PIN_STATUS, 27, 27, .RO, 0⟩
def PIN_STATUS.RD_PAD : Field := ⟨.PIN_STATUS, 26, 26, .RO, 1⟩
def PIN_STATUS.LEVEL : Field := ⟨.PIN_STATUS, 25, 25, .RO, 0⟩
def PIN_STATUS.FLT_LEVEL : Field := ⟨.PIN_STATUS, 24, 24, .RO, 0⟩
def PIN_STATUS.CFG_ERR : Field := ⟨.PIN_STATUS, 1, 1, .W1C, 0⟩
def PIN_STATUS.EVENT : Field := ⟨.PIN_STATUS, 0, 0, .W1C, 0⟩
-- PIN_CLAIM: chapter 08, R223
def PIN_CLAIM.VALID : Field := ⟨.PIN_CLAIM, 31, 31, .RO, 0⟩
def PIN_CLAIM.HOLDER : Field := ⟨.PIN_CLAIM, 15, 0, .RO, 0⟩
-- PSW_MAP0: chapter 08, R223
def PSW_MAP0.MAP : Field := ⟨.PSW_MAP0, 31, 0, .RW, 0x33221100⟩
-- PSW_MAP1: chapter 08, R223
def PSW_MAP1.MAP : Field := ⟨.PSW_MAP1, 31, 0, .RW, 0x77665544⟩
-- PSW_MAP0_SH: chapter 08, R223
def PSW_MAP0_SH.MAP : Field := ⟨.PSW_MAP0_SH, 31, 0, .RW, 0x33221100⟩
-- PSW_MAP1_SH: chapter 08, R223
def PSW_MAP1_SH.MAP : Field := ⟨.PSW_MAP1_SH, 31, 0, .RW, 0x77665544⟩
-- PSW_STATUS: chapter 08, R223
def PSW_STATUS.REFUSED : Field := ⟨.PSW_STATUS, 0, 0, .W1C, 0⟩
-- PIN_LEVEL: chapter 08, R223
def PIN_LEVEL.LEVEL : Field := ⟨.PIN_LEVEL, 31, 0, .RO, 0⟩
-- PIN_OUT_SET: chapter 08, R223
def PIN_OUT_SET.DATA : Field := ⟨.PIN_OUT_SET, 31, 0, .W1S, 0⟩
-- PIN_OUT_CLR: chapter 08, R223
def PIN_OUT_CLR.DATA : Field := ⟨.PIN_OUT_CLR, 31, 0, .W1C, 0⟩
-- PIN_HOLD_SET: chapter 08, R223
def PIN_HOLD_SET.HOST : Field := ⟨.PIN_HOLD_SET, 31, 0, .W1S, 0⟩
-- PIN_HOLD_CLR: chapter 08, R223
def PIN_HOLD_CLR.HOST : Field := ⟨.PIN_HOLD_CLR, 31, 0, .W1C, 0⟩
-- CLM_TM: chapter 08, R223
def CLM_TM.VALID : Field := ⟨.CLM_TM, 31, 31, .RO, 0⟩
def CLM_TM.HOLDER : Field := ⟨.CLM_TM, 15, 0, .RO, 0⟩
-- CLM_CT: chapter 08, R223
def CLM_CT.VALID : Field := ⟨.CLM_CT, 31, 31, .RO, 0⟩
def CLM_CT.HOLDER : Field := ⟨.CLM_CT, 15, 0, .RO, 0⟩
-- LN_CTRL: chapter 09, R265
def LN_CTRL.MODE : Field := ⟨.LN_CTRL, 31, 28, .RW, 0⟩
def LN_CTRL.AUTO_RETRAIN : Field := ⟨.LN_CTRL, 27, 27, .RW, 0⟩
def LN_CTRL.LOOPBACK : Field := ⟨.LN_CTRL, 26, 26, .RW, 0⟩
def LN_CTRL.FEC_LIMIT : Field := ⟨.LN_CTRL, 15, 8, .RW, 0x10⟩
-- LN_STATUS: chapter 09, R265
def LN_STATUS.STATE : Field := ⟨.LN_STATUS, 31, 29, .RO, 0⟩
def LN_STATUS.LOCK : Field := ⟨.LN_STATUS, 28, 28, .RO, 0⟩
def LN_STATUS.SIGNAL : Field := ⟨.LN_STATUS, 27, 27, .RO, 0⟩
def LN_STATUS.IN_SERVICE : Field := ⟨.LN_STATUS, 26, 26, .RO, 0⟩
def LN_STATUS.SB_IN : Field := ⟨.LN_STATUS, 22, 20, .RO, 0⟩
def LN_STATUS.PEER : Field := ⟨.LN_STATUS, 15, 0, .RO, 0⟩
-- LN_TRAIN: chapter 09, R265
def LN_TRAIN.RESULT : Field := ⟨.LN_TRAIN, 31, 28, .RO, 0⟩
def LN_TRAIN.ELAPSED : Field := ⟨.LN_TRAIN, 19, 0, .RO, 0⟩
-- LN_GROUP: chapter 09, R265
def LN_GROUP.MEMBERS : Field := ⟨.LN_GROUP, 27, 24, .RW, 0⟩
def LN_GROUP.SERVICE : Field := ⟨.LN_GROUP, 23, 20, .RO, 0⟩
def LN_GROUP.PEER_SERVICE : Field := ⟨.LN_GROUP, 19, 16, .RO, 0⟩
-- LN_FAULT: chapter 09, R265
def LN_FAULT.CFG_ERR : Field := ⟨.LN_FAULT, 6, 6, .W1C, 0⟩
def LN_FAULT.GROUP_ERR : Field := ⟨.LN_FAULT, 5, 5, .W1C, 0⟩
def LN_FAULT.RX_OVF : Field := ⟨.LN_FAULT, 4, 4, .W1C, 0⟩
def LN_FAULT.HDR_ERR : Field := ⟨.LN_FAULT, 3, 3, .W1C, 0⟩
def LN_FAULT.FEC_UNCORR : Field := ⟨.LN_FAULT, 2, 2, .W1C, 0⟩
def LN_FAULT.LINK_LOST : Field := ⟨.LN_FAULT, 1, 1, .W1C, 0⟩
def LN_FAULT.TRAIN_FAIL : Field := ⟨.LN_FAULT, 0, 0, .W1C, 0⟩
-- LN_LAT: chapter 09, R265
def LN_LAT.TX_LAT : Field := ⟨.LN_LAT, 31, 16, .RO, 0⟩
def LN_LAT.RX_LAT : Field := ⟨.LN_LAT, 15, 0, .RO, 0⟩
-- LN_SB: chapter 09, R265
def LN_SB.TX_DISABLE : Field := ⟨.LN_SB, 2, 2, .RW, 1⟩
def LN_SB.RESET_L : Field := ⟨.LN_SB, 1, 1, .RW, 0⟩
def LN_SB.LPMODE : Field := ⟨.LN_SB, 0, 0, .RW, 1⟩
-- LN_FEC_CORR: chapter 09, R265
def LN_FEC_CORR.COUNT : Field := ⟨.LN_FEC_CORR, 31, 0, .RC, 0⟩
-- LN_FEC_UNCORR: chapter 09, R265
def LN_FEC_UNCORR.COUNT : Field := ⟨.LN_FEC_UNCORR, 31, 0, .RC, 0⟩
-- LN_RX_DROP: chapter 09, R265
def LN_RX_DROP.COUNT : Field := ⟨.LN_RX_DROP, 31, 0, .RC, 0⟩
-- LN_SYNC_CTRL: chapter 09, R265
def LN_SYNC_CTRL.EN : Field := ⟨.LN_SYNC_CTRL, 31, 31, .RW, 0⟩
def LN_SYNC_CTRL.PERIOD : Field := ⟨.LN_SYNC_CTRL, 30, 26, .RW, 0xf⟩
def LN_SYNC_CTRL.DLY_W : Field := ⟨.LN_SYNC_CTRL, 25, 22, .RW, 4⟩
-- LN_SYNC_STATUS: chapter 09, R265
def LN_SYNC_STATUS.SETTLED : Field := ⟨.LN_SYNC_STATUS, 31, 31, .RO, 0⟩
def LN_SYNC_STATUS.EXCH : Field := ⟨.LN_SYNC_STATUS, 15, 0, .RO, 0⟩
-- LN_SYNC_OFS: chapter 09, R265
def LN_SYNC_OFS.OFS : Field := ⟨.LN_SYNC_OFS, 63, 0, .RO, 0⟩
-- LN_SYNC_DLY: chapter 09, R265
def LN_SYNC_DLY.DLY : Field := ⟨.LN_SYNC_DLY, 31, 0, .RO, 0⟩
-- LN_SYNC_ASYM: chapter 09, R265
def LN_SYNC_ASYM.ASYM : Field := ⟨.LN_SYNC_ASYM, 31, 0, .RW, 0⟩
-- LN_AXS_TX: chapter 09, R265
def LN_AXS_TX.AXMASK : Field := ⟨.LN_AXS_TX, 31, 16, .RW, 0⟩
-- CS_VERSION: chapter 09, R265
def CS_VERSION.BASE : Field := ⟨.CS_VERSION, 31, 16, .RO, 0⟩
def CS_VERSION.PATCH : Field := ⟨.CS_VERSION, 15, 0, .RO, 0⟩
-- PT_CTRL: chapter 09, R265
def PT_CTRL.TX_RUN : Field := ⟨.PT_CTRL, 31, 31, .RW, 0⟩
def PT_CTRL.RX_RUN : Field := ⟨.PT_CTRL, 30, 30, .RW, 0⟩
-- PT_STATUS: chapter 09, R265
def PT_STATUS.START_REFUSED : Field := ⟨.PT_STATUS, 1, 1, .W1C, 0⟩
def PT_STATUS.CS_REFUSED : Field := ⟨.PT_STATUS, 0, 0, .W1C, 0⟩
-- PT_ENTRY: chapter 09, R265
def PT_ENTRY.TX_ENTRY : Field := ⟨.PT_ENTRY, 25, 16, .RW, 0⟩
def PT_ENTRY.RX_ENTRY : Field := ⟨.PT_ENTRY, 9, 0, .RW, 0⟩
-- PT_MBOX: chapter 09, R265
def PT_MBOX.THR : Field := ⟨.PT_MBOX, 31, 31, .WO, 0⟩
def PT_MBOX.DATA : Field := ⟨.PT_MBOX, 30, 0, .WO, 0⟩
-- PT_PARAM: chapter 09, R265
def PT_PARAM.PARAM : Field := ⟨.PT_PARAM, 31, 0, .RW, 0⟩
-- PT_STAT: chapter 09, R265
def PT_STAT.COUNT : Field := ⟨.PT_STAT, 31, 0, .RC, 0⟩
-- PT_MAC: chapter 09, R265
def PT_MAC.VALID : Field := ⟨.PT_MAC, 63, 63, .RW, 0⟩
def PT_MAC.ADDR : Field := ⟨.PT_MAC, 47, 0, .RW, 0⟩
-- STREAM: chapter 09, R265
def STREAM.VALID : Field := ⟨.STREAM, 31, 31, .RW, 0⟩
def STREAM.AXEN : Field := ⟨.STREAM, 30, 30, .RW, 0⟩
def STREAM.AXIS : Field := ⟨.STREAM, 29, 26, .RW, 0⟩
def STREAM.CLASS : Field := ⟨.STREAM, 13, 10, .RW, 0⟩
def STREAM.QUEUE : Field := ⟨.STREAM, 9, 0, .RW, 0⟩
-- TH_STATE: chapter 09, R265
def TH_STATE.STATE : Field := ⟨.TH_STATE, 31, 29, .RO, 0⟩
def TH_STATE.HALT : Field := ⟨.TH_STATE, 28, 25, .RO, 0⟩
def TH_STATE.MPC : Field := ⟨.TH_STATE, 9, 0, .RO, 0⟩
-- TH_TRAP: chapter 09, R265
def TH_TRAP.PEND : Field := ⟨.TH_TRAP, 15, 8, .RO, 0⟩
def TH_TRAP.ACTIVE : Field := ⟨.TH_TRAP, 7, 7, .RO, 0⟩
def TH_TRAP.CAUSE : Field := ⟨.TH_TRAP, 2, 0, .RO, 0⟩
-- TH_AUX: chapter 09, R265
def TH_AUX.LCNT : Field := ⟨.TH_AUX, 31, 16, .RO, 0⟩
def TH_AUX.ZCN : Field := ⟨.TH_AUX, 2, 0, .RO, 0⟩
-- SH_MPC: chapter 09, R265
def SH_MPC.MPC : Field := ⟨.SH_MPC, 9, 0, .RO, 0⟩
-- MR: chapter 09, R265
def MR.VAL : Field := ⟨.MR, 31, 0, .RW, 0⟩
-- SH_MR: chapter 09, R265
def SH_MR.MR : Field := ⟨.SH_MR, 31, 0, .RO, 0⟩
-- HL_STATUS: chapter 10, R290
def HL_STATUS.TOKEN_FULL : Field := ⟨.HL_STATUS, 2, 2, .W1C, 0⟩
def HL_STATUS.TOKEN_REFUSED : Field := ⟨.HL_STATUS, 1, 1, .W1C, 0⟩
def HL_STATUS.QDESC_REFUSED : Field := ⟨.HL_STATUS, 0, 0, .W1C, 0⟩
-- HL_BELL_RING: chapter 10, R290
def HL_BELL_RING.RING : Field := ⟨.HL_BELL_RING, 31, 0, .WO, 0⟩
-- HL_LEVY0: chapter 10, R290
def HL_LEVY0.LEVY : Field := ⟨.HL_LEVY0, 31, 0, .RW, 0x22222222⟩
-- HL_LEVY1: chapter 10, R290
def HL_LEVY1.LEVY : Field := ⟨.HL_LEVY1, 31, 0, .RW, 0x48844442⟩
-- HL_HOSTLEVY: chapter 10, R290
def HL_HOSTLEVY.WEIGHT : Field := ⟨.HL_HOSTLEVY, 3, 0, .RW, 4⟩
-- HL_ABANDON: chapter 10, R290
def HL_ABANDON.AGENT : Field := ⟨.HL_ABANDON, 15, 0, .WO, 0⟩
-- TK_LIVE: chapter 10, R290
def TK_LIVE.COUNT : Field := ⟨.TK_LIVE, 8, 0, .RO, 0⟩
-- TK_STRICT: chapter 10, R290
def TK_STRICT.EN : Field := ⟨.TK_STRICT, 63, 63, .RW, 0⟩
def TK_STRICT.LAST : Field := ⟨.TK_STRICT, 50, 32, .RW, 0⟩
def TK_STRICT.FIRST : Field := ⟨.TK_STRICT, 18, 0, .RW, 0⟩
-- HL_GRANT: chapter 10, R290
def HL_GRANT.COUNT : Field := ⟨.HL_GRANT, 31, 0, .RC, 0⟩
-- HL_CONFLICT: chapter 10, R290
def HL_CONFLICT.COUNT : Field := ⟨.HL_CONFLICT, 31, 0, .RC, 0⟩
-- TK_HWORD: chapter 10, R290
def TK_HWORD.RESULT : Field := ⟨.TK_HWORD, 31, 29, .RO, 0⟩
def TK_HWORD.WORD : Field := ⟨.TK_HWORD, 18, 0, .RW, 0⟩
-- TK_HREL: chapter 10, R290
def TK_HREL.FORCE : Field := ⟨.TK_HREL, 0, 0, .WO, 0⟩
-- TK_HACQ: chapter 10, R290
def TK_HACQ.WORD : Field := ⟨.TK_HACQ, 63, 0, .RA, 0⟩
-- TK_ENTRY: chapter 10, R290
def TK_ENTRY.VALID : Field := ⟨.TK_ENTRY, 63, 63, .RO, 0⟩
def TK_ENTRY.STRICT : Field := ⟨.TK_ENTRY, 62, 62, .RO, 0⟩
def TK_ENTRY.WORD : Field := ⟨.TK_ENTRY, 34, 16, .RO, 0⟩
def TK_ENTRY.OWNER : Field := ⟨.TK_ENTRY, 15, 0, .RO, 0⟩
-- QH_SEL: chapter 10, R290
def QH_SEL.QUEUE : Field := ⟨.QH_SEL, 9, 0, .RW, 0⟩
-- QH_RSV: chapter 10, R290
def QH_RSV.FAIL : Field := ⟨.QH_RSV, 31, 31, .RA, 0⟩
def QH_RSV.SLOT : Field := ⟨.QH_RSV, 23, 0, .RA, 0⟩
-- QH_CMT: chapter 10, R290
def QH_CMT.ABORT : Field := ⟨.QH_CMT, 0, 0, .WO, 0⟩
-- QH_TAKE: chapter 10, R290
def QH_TAKE.FAIL : Field := ⟨.QH_TAKE, 31, 31, .RA, 0⟩
def QH_TAKE.SLOT : Field := ⟨.QH_TAKE, 23, 0, .RA, 0⟩
-- QH_DONE: chapter 10, R290
def QH_DONE.RETURN : Field := ⟨.QH_DONE, 0, 0, .WO, 0⟩
-- QH_STAT: chapter 10, R290
def QH_STAT.REASON : Field := ⟨.QH_STAT, 31, 29, .RO, 0⟩
def QH_STAT.FILLED : Field := ⟨.QH_STAT, 23, 0, .RO, 0⟩
-- Q_BASE: chapter 10, R283
def Q_BASE.BASE : Field := ⟨.Q_BASE, 51, 0, .RW, 0⟩
-- Q_CFG: chapter 10, R283
def Q_CFG.VALID : Field := ⟨.Q_CFG, 31, 31, .RW, 0⟩
def Q_CFG.LOC : Field := ⟨.Q_CFG, 30, 30, .RW, 0⟩
def Q_CFG.SIZE_LOG2 : Field := ⟨.Q_CFG, 28, 24, .RW, 4⟩
def Q_CFG.ELEM_LOG2 : Field := ⟨.Q_CFG, 23, 20, .RW, 2⟩
def Q_CFG.RING_EN : Field := ⟨.Q_CFG, 19, 19, .RW, 0⟩
def Q_CFG.BELL : Field := ⟨.Q_CFG, 18, 14, .RW, 0⟩
def Q_CFG.CHIT_EN : Field := ⟨.Q_CFG, 13, 13, .RW, 0⟩
-- Q_PROD: chapter 10, R283
def Q_PROD.P_HOLD : Field := ⟨.Q_PROD, 31, 16, .RO, 0⟩
def Q_PROD.P_OWNER : Field := ⟨.Q_PROD, 15, 0, .RW, 0⟩
-- Q_CONS: chapter 10, R283
def Q_CONS.C_HOLD : Field := ⟨.Q_CONS, 31, 16, .RO, 0⟩
def Q_CONS.C_OWNER : Field := ⟨.Q_CONS, 15, 0, .RW, 0⟩
-- Q_HEAD: chapter 10, R283
def Q_HEAD.HEAD : Field := ⟨.Q_HEAD, 31, 0, .RW, 0⟩
-- Q_TAIL: chapter 10, R283
def Q_TAIL.TAIL : Field := ⟨.Q_TAIL, 31, 0, .RW, 0⟩
-- Q_NUM: chapter 10, R283
def Q_NUM.RSV_N : Field := ⟨.Q_NUM, 31, 16, .RO, 0⟩
def Q_NUM.TAKE_N : Field := ⟨.Q_NUM, 15, 0, .RO, 0⟩
-- CE_CTRL: chapter 11, R314
def CE_CTRL.RESUME : Field := ⟨.CE_CTRL, 31, 31, .WO, 0⟩
def CE_CTRL.HALT_RING : Field := ⟨.CE_CTRL, 5, 0, .RW, 0⟩
-- CE_STATUS: chapter 11, R314
def CE_STATUS.HALT : Field := ⟨.CE_STATUS, 31, 31, .RO, 0⟩
def CE_STATUS.SLOTS : Field := ⟨.CE_STATUS, 8, 0, .RO, 0⟩
-- CE_ERR_INFO: chapter 11, R314
def CE_ERR_INFO.VALID : Field := ⟨.CE_ERR_INFO, 31, 31, .RO, 0⟩
def CE_ERR_INFO.WRITE : Field := ⟨.CE_ERR_INFO, 30, 30, .RO, 0⟩
def CE_ERR_INFO.KIND : Field := ⟨.CE_ERR_INFO, 29, 28, .RO, 0⟩
-- CE_ERR_ADDR: chapter 11, R314
def CE_ERR_ADDR.ADDR : Field := ⟨.CE_ERR_ADDR, 51, 0, .RO, 0⟩
-- CE_HMBUSY: chapter 11, R314
def CE_HMBUSY.COUNT : Field := ⟨.CE_HMBUSY, 31, 0, .RC, 0⟩
-- CE_ACTIVE: chapter 11, R314
def CE_ACTIVE.ACTIVE : Field := ⟨.CE_ACTIVE, 31, 0, .RO, 0⟩
-- CE_WIN_BASE: chapter 11, R314
def CE_WIN_BASE.EN : Field := ⟨.CE_WIN_BASE, 63, 63, .RW, 0⟩
def CE_WIN_BASE.LOC : Field := ⟨.CE_WIN_BASE, 62, 62, .RW, 0⟩
def CE_WIN_BASE.BASE : Field := ⟨.CE_WIN_BASE, 51, 0, .RW, 0⟩
-- CE_WIN_LAST: chapter 11, R314
def CE_WIN_LAST.LAST : Field := ⟨.CE_WIN_LAST, 51, 0, .RW, 0⟩
-- CH_SRC: chapter 11, R314
def CH_SRC.SRC : Field := ⟨.CH_SRC, 51, 0, .RW, 0⟩
-- CH_DST: chapter 11, R314
def CH_DST.DST : Field := ⟨.CH_DST, 51, 0, .RW, 0⟩
-- CH_CNT: chapter 11, R314
def CH_CNT.CNT : Field := ⟨.CH_CNT, 23, 0, .RW, 0⟩
-- CH_FLAGS: chapter 11, R314
def CH_FLAGS.DFLAGS : Field := ⟨.CH_FLAGS, 31, 0, .RW, 0⟩
-- CH_NEXT: chapter 11, R314
def CH_NEXT.NEXT : Field := ⟨.CH_NEXT, 51, 0, .RW, 0⟩
-- CH_CTRL: chapter 11, R314
def CH_CTRL.START : Field := ⟨.CH_CTRL, 31, 31, .WO, 0⟩
def CH_CTRL.ABORT : Field := ⟨.CH_CTRL, 30, 30, .WO, 0⟩
def CH_CTRL.PAUSE : Field := ⟨.CH_CTRL, 29, 29, .RW, 0⟩
def CH_CTRL.DQ_EN : Field := ⟨.CH_CTRL, 28, 28, .RW, 0⟩
def CH_CTRL.DQ : Field := ⟨.CH_CTRL, 27, 18, .RW, 0⟩
def CH_CTRL.RATE : Field := ⟨.CH_CTRL, 17, 12, .RW, 0⟩
def CH_CTRL.DEPTH : Field := ⟨.CH_CTRL, 11, 8, .RW, 0⟩
def CH_CTRL.CHIT_EN : Field := ⟨.CH_CTRL, 7, 7, .RW, 0⟩
def CH_CTRL.SWB_EN : Field := ⟨.CH_CTRL, 6, 6, .RW, 0⟩
def CH_CTRL.CHIT_RING : Field := ⟨.CH_CTRL, 5, 0, .RW, 0⟩
-- CH_STATUS: chapter 11, R314
def CH_STATUS.STATE : Field := ⟨.CH_STATUS, 31, 29, .RO, 0⟩
def CH_STATUS.STATUS : Field := ⟨.CH_STATUS, 23, 16, .RO, 0⟩
def CH_STATUS.CFG_ERR : Field := ⟨.CH_STATUS, 1, 1, .W1C, 0⟩
def CH_STATUS.START_BUSY : Field := ⟨.CH_STATUS, 0, 0, .W1C, 0⟩
-- CH_RESIDUE: chapter 11, R314
def CH_RESIDUE.RESIDUE : Field := ⟨.CH_RESIDUE, 23, 0, .RO, 0⟩
-- CH_CRC: chapter 11, R314
def CH_CRC.CRC : Field := ⟨.CH_CRC, 31, 0, .RW, 0⟩
-- CH_CUR: chapter 11, R314
def CH_CUR.ADDR : Field := ⟨.CH_CUR, 51, 0, .RO, 0xfffffffffffff⟩
-- CH_SADDR: chapter 11, R314
def CH_SADDR.ADDR : Field := ⟨.CH_SADDR, 21, 5, .RW, 0⟩
-- CH_DCOUNT: chapter 11, R314
def CH_DCOUNT.COUNT : Field := ⟨.CH_DCOUNT, 31, 0, .RC, 0⟩
-- HS_CTRL: chapter 13, R368
def HS_CTRL.WIND_RELEASE : Field := ⟨.HS_CTRL, 31, 31, .WO, 0⟩
def HS_CTRL.SWAP_MARK : Field := ⟨.HS_CTRL, 4, 0, .RW, 0x1f⟩
-- HS_STATUS: chapter 13, R368
def HS_STATUS.STATE : Field := ⟨.HS_STATUS, 31, 29, .RO, 0⟩
def HS_STATUS.WINDING : Field := ⟨.HS_STATUS, 28, 28, .RO, 0⟩
def HS_STATUS.JOB : Field := ⟨.HS_STATUS, 15, 0, .RO, 0⟩
-- HS_HOSTCAP: chapter 13, R368
def HS_HOSTCAP.CAP : Field := ⟨.HS_HOSTCAP, 15, 0, .RW, 0x1f4⟩
-- HS_SWAP_AT: chapter 13, R368
def HS_SWAP_AT.I : Field := ⟨.HS_SWAP_AT, 63, 0, .RO, 0⟩
-- HS_IMAGE_ID: chapter 13, R368
def HS_IMAGE_ID.ID : Field := ⟨.HS_IMAGE_ID, 63, 0, .RO, 0⟩
-- HS_KEEP_UNITS: chapter 13, R368
def HS_KEEP_UNITS.BARROWS : Field := ⟨.HS_KEEP_UNITS, 31, 16, .RO, 0⟩
-- HS_STALL: chapter 13, R368
def HS_STALL.SHADOW : Field := ⟨.HS_STALL, 31, 16, .RO, 0⟩
def HS_STALL.ACTIVE : Field := ⟨.HS_STALL, 15, 0, .RO, 0⟩
-- HS_BARROW: chapter 13, R368
def HS_BARROW.SHADOW : Field := ⟨.HS_BARROW, 31, 16, .RO, 0⟩
def HS_BARROW.ACTIVE : Field := ⟨.HS_BARROW, 15, 0, .RO, 0⟩
-- HS_KEEP_PIN: chapter 13, R368
def HS_KEEP_PIN.KEEP : Field := ⟨.HS_KEEP_PIN, 31, 0, .RO, 0⟩
-- HS_PROF_AXIS: chapter 13, R368
def HS_PROF_AXIS.RAMP_AXIS : Field := ⟨.HS_PROF_AXIS, 7, 0, .RO, 0⟩
-- HS_PROF_DECEL1: chapter 13, R368
def HS_PROF_DECEL1.DECEL1 : Field := ⟨.HS_PROF_DECEL1, 63, 0, .RO, 0⟩
-- HS_PROF_KNEE: chapter 13, R368
def HS_PROF_KNEE.V_KNEE : Field := ⟨.HS_PROF_KNEE, 63, 0, .RO, 0⟩
-- HS_PROF_DECEL2: chapter 13, R368
def HS_PROF_DECEL2.DECEL2 : Field := ⟨.HS_PROF_DECEL2, 63, 0, .RO, 0⟩
-- FT_HCTRL: chapter 15, R413
def FT_HCTRL.FAIL : Field := ⟨.FT_HCTRL, 31, 31, .WO, 0⟩
def FT_HCTRL.FAIL_RELEASE : Field := ⟨.FT_HCTRL, 30, 30, .WO, 0⟩
def FT_HCTRL.HOLD_KEEP : Field := ⟨.FT_HCTRL, 29, 29, .RW, 0⟩
def FT_HCTRL.SCRUB_EN : Field := ⟨.FT_HCTRL, 28, 28, .RW, 1⟩
def FT_HCTRL.FAIL_ROLE : Field := ⟨.FT_HCTRL, 3, 0, .WO, 0⟩
-- FT_HSTATUS: chapter 15, R413
def FT_HSTATUS.LS_REFUSED : Field := ⟨.FT_HSTATUS, 2, 2, .W1C, 0⟩
def FT_HSTATUS.SPARE_USED : Field := ⟨.FT_HSTATUS, 1, 1, .RO, 0⟩
def FT_HSTATUS.PARITY : Field := ⟨.FT_HSTATUS, 0, 0, .W1C, 0⟩
-- FT_LOCKSTEP: chapter 15, R413
def FT_LOCKSTEP.PAIR : Field := ⟨.FT_LOCKSTEP, 3, 0, .RW, 0⟩
-- FT_WIND: chapter 15, R413
def FT_WIND.LANE_EMPTY : Field := ⟨.FT_WIND, 19, 19, .RW, 0⟩
def FT_WIND.STALL_LOST : Field := ⟨.FT_WIND, 18, 18, .RW, 0⟩
def FT_WIND.THERMAL : Field := ⟨.FT_WIND, 17, 17, .RW, 0⟩
def FT_WIND.REFCLK : Field := ⟨.FT_WIND, 16, 16, .RW, 0⟩
def FT_WIND.AXES : Field := ⟨.FT_WIND, 15, 0, .RW, 0⟩
-- FT_CORR_LIMIT: chapter 15, R413
def FT_CORR_LIMIT.LIMIT : Field := ⟨.FT_CORR_LIMIT, 15, 0, .RW, 0x100⟩
-- FT_BFLAG: chapter 15, R413
def FT_BFLAG.FLAGGED : Field := ⟨.FT_BFLAG, 15, 0, .RO, 0⟩
-- FT_CORR_HM: chapter 15, R413
def FT_CORR_HM.COUNT : Field := ⟨.FT_CORR_HM, 31, 0, .RC, 0⟩
-- FT_CORR_BR: chapter 15, R413
def FT_CORR_BR.COUNT : Field := ⟨.FT_CORR_BR, 31, 0, .RC, 0⟩
-- FT_CORR_PT: chapter 15, R413
def FT_CORR_PT.COUNT : Field := ⟨.FT_CORR_PT, 31, 0, .RC, 0⟩
-- FT_CORR_CE: chapter 15, R413
def FT_CORR_CE.COUNT : Field := ⟨.FT_CORR_CE, 31, 0, .RC, 0⟩
-- FT_UNC_ADDR: chapter 15, R413
def FT_UNC_ADDR.ARRAY : Field := ⟨.FT_UNC_ADDR, 63, 56, .RO, 0⟩
def FT_UNC_ADDR.ADDR : Field := ⟨.FT_UNC_ADDR, 51, 0, .RO, 0⟩
-- FT_ROLE: chapter 15, R413
def FT_ROLE.FO_EN : Field := ⟨.FT_ROLE, 31, 31, .RW, 1⟩
def FT_ROLE.ON_UNCORR : Field := ⟨.FT_ROLE, 30, 30, .RW, 0⟩
def FT_ROLE.ON_DOUBLE : Field := ⟨.FT_ROLE, 29, 29, .RW, 0⟩
def FT_ROLE.ON_PREDICT : Field := ⟨.FT_ROLE, 28, 28, .RW, 0⟩
def FT_ROLE.RESTART : Field := ⟨.FT_ROLE, 27, 27, .RW, 0⟩
def FT_ROLE.CKPT_EN : Field := ⟨.FT_ROLE, 26, 26, .RW, 0⟩
def FT_ROLE.CKPT_Q : Field := ⟨.FT_ROLE, 25, 16, .RW, 0⟩
def FT_ROLE.RESTART_PC : Field := ⟨.FT_ROLE, 15, 0, .RW, 0⟩
-- FT_STALL: chapter 15, R413
def FT_STALL.STATE : Field := ⟨.FT_STALL, 31, 29, .RO, 0⟩
def FT_STALL.CAUSE : Field := ⟨.FT_STALL, 27, 24, .RO, 0⟩
def FT_STALL.BAD : Field := ⟨.FT_STALL, 23, 16, .RO, 0⟩
-- FT_CORR: chapter 15, R413
def FT_CORR.COUNT : Field := ⟨.FT_CORR, 31, 0, .RC, 0⟩
-- TK_WORD: chapter 10, R289
def TK_WORD.WORD : Field := ⟨.TK_WORD, 18, 0, .RW, 0⟩
-- TK_STAT: chapter 10, R289
def TK_STAT.RESULT : Field := ⟨.TK_STAT, 2, 0, .RO, 0⟩
-- TK_REL: chapter 10, R289
def TK_REL.FORCE : Field := ⟨.TK_REL, 0, 0, .WO, 0⟩
-- TK_ACQ: chapter 10, R289
def TK_ACQ.WORD : Field := ⟨.TK_ACQ, 63, 0, .RA, 0⟩
-- BL_RING: chapter 10, R289
def BL_RING.RING : Field := ⟨.BL_RING, 31, 0, .WO, 0⟩
-- DB_RING: chapter 10, R289
def DB_RING.RING : Field := ⟨.DB_RING, 15, 0, .WO, 0⟩
-- QP_SEL: chapter 10, R289
def QP_SEL.QUEUE : Field := ⟨.QP_SEL, 9, 0, .RW, 0⟩
-- QP_STAT: chapter 10, R289
def QP_STAT.REASON : Field := ⟨.QP_STAT, 31, 29, .RO, 0⟩
def QP_STAT.FILLED : Field := ⟨.QP_STAT, 23, 0, .RO, 0⟩
-- QP_PUSH: chapter 10, R289
def QP_PUSH.DATA : Field := ⟨.QP_PUSH, 63, 0, .WO, 0⟩
-- QP_POP: chapter 10, R289
def QP_POP.DATA : Field := ⟨.QP_POP, 63, 0, .RA, 0⟩
-- QP_RSV: chapter 10, R289
def QP_RSV.FAIL : Field := ⟨.QP_RSV, 31, 31, .RA, 0⟩
def QP_RSV.SLOT : Field := ⟨.QP_RSV, 23, 0, .RA, 0⟩
-- QP_CMT: chapter 10, R289
def QP_CMT.ABORT : Field := ⟨.QP_CMT, 0, 0, .WO, 0⟩
-- QP_TAKE: chapter 10, R289
def QP_TAKE.FAIL : Field := ⟨.QP_TAKE, 31, 31, .RA, 0⟩
def QP_TAKE.SLOT : Field := ⟨.QP_TAKE, 23, 0, .RA, 0⟩
-- QP_DONE: chapter 10, R289
def QP_DONE.RETURN : Field := ⟨.QP_DONE, 0, 0, .WO, 0⟩
-- AX_SEL: chapter 02, R22
def AX_SEL.AXIS : Field := ⟨.AX_SEL, 3, 0, .RW, 0⟩
-- TM_SEL: chapter 02, R22
def TM_SEL.MARK : Field := ⟨.TM_SEL, 4, 0, .RW, 0⟩
-- CT_SEL: chapter 02, R22
def CT_SEL.COUNTER : Field := ⟨.CT_SEL, 5, 0, .RW, 0⟩
-- SC_STATUS: chapter 04, R110
def SC_STATUS.INV : Field := ⟨.SC_STATUS, 3, 3, .W1C, 0⟩
def SC_STATUS.DZ : Field := ⟨.SC_STATUS, 2, 2, .W1C, 0⟩
def SC_STATUS.OVF : Field := ⟨.SC_STATUS, 1, 1, .W1C, 0⟩
def SC_STATUS.INX : Field := ⟨.SC_STATUS, 0, 0, .W1C, 0⟩

/-- The fields of a register, as its table in the spec lists them. -/
def RegName.fields : RegName → List Field
  | .DEV_STOCK_ID => [DEV_STOCK_ID.FAMILY, DEV_STOCK_ID.VARIANT, DEV_STOCK_ID.STEPPING, DEV_STOCK_ID.STOCK_LAYOUT]
  | .DEV_STOCK_UNITS => [DEV_STOCK_UNITS.SPARE_STALLS, DEV_STOCK_UNITS.CP_MAP, DEV_STOCK_UNITS.HALL_MAP]
  | .DEV_STOCK_LANES => [DEV_STOCK_LANES.LANE_MAP]
  | .DEV_STOCK_PINS => [DEV_STOCK_PINS.BANK_MAP]
  | .TILL_NOW => [TILL_NOW.VAL]
  | .TILL_STATUS => [TILL_STATUS.LOCKED, TILL_STATUS.COARSE, TILL_STATUS.ON_LFO, TILL_STATUS.HOLDOVER, TILL_STATUS.REF_LOST, TILL_STATUS.SLEEP_SPAN, TILL_STATUS.ALARM_HIT]
  | .TILL_CTRL => [TILL_CTRL.TRIM_AUTO, TILL_CTRL.ALARM_EN, TILL_CTRL.ALARM_WAKE]
  | .TILL_LFO_INC => [TILL_LFO_INC.INC_INT, TILL_LFO_INC.INC_FRAC]
  | .TILL_ALARM => [TILL_ALARM.VAL]
  | .HP_CFG => [HP_CFG.PORT_SEL, HP_CFG.HALL_TAGS]
  | .JOB_QUERY => [JOB_QUERY.JOB]
  | .JOB_INFO => [JOB_INFO.VALID, JOB_INFO.STATE, JOB_INFO.SUSP_PEND, JOB_INFO.CANCEL_PEND, JOB_INFO.CLAIMS, JOB_INFO.RING, JOB_INFO.CODE, JOB_INFO.REASON]
  | .JOB_COUNT => [JOB_COUNT.COUNT]
  | .PWR_STATUS => [PWR_STATUS.FULL, PWR_STATUS.MEM_CLEAR, PWR_STATUS.CORE_LOCK, PWR_STATUS.STATE, PWR_STATUS.PL]
  | .PWR_CTRL => [PWR_CTRL.BOOT_PL, PWR_CTRL.USER_BOOT]
  | .PWR_CLK => [PWR_CLK.SWITCH, PWR_CLK.PLL_SEL, PWR_CLK.ON_FIO]
  | .PWR_VSETTLE => [PWR_VSETTLE.US]
  | .PWR_RESET => [PWR_RESET.DEVICE, PWR_RESET.HALL, PWR_RESET.STALL, PWR_RESET.PORTER, PWR_RESET.HALL_NUM, PWR_RESET.STALL_NUM, PWR_RESET.PORTER_NUM]
  | .PWR_RESET_CAUSE => [PWR_RESET_CAUSE.CAUSE]
  | .WK_CTRL => [WK_CTRL.DB_EN]
  | .WK_CAUSE => [WK_CAUSE.PIN]
  | .WK_I2C => [WK_I2C.EN, WK_I2C.ACK_EN, WK_I2C.HIT, WK_I2C.DB_HIT, WK_I2C.ALARM_HIT, WK_I2C.SCL_PIN, WK_I2C.SDA_PIN, WK_I2C.ADDR]
  | .FT_DSTATUS => [FT_DSTATUS.THROTTLED, FT_DSTATUS.WIND_FAULT, FT_DSTATUS.PARITY, FT_DSTATUS.HALLS]
  | .FT_THERM_CTRL => [FT_THERM_CTRL.THROTTLE_EN, FT_THERM_CTRL.CRIT, FT_THERM_CTRL.THROTTLE, FT_THERM_CTRL.WARN]
  | .FT_CORR_DEV => [FT_CORR_DEV.COUNT]
  | .TAX_CTRL => [TAX_CTRL.ENABLE, TAX_CTRL.SRC, TAX_CTRL.K, TAX_CTRL.AUTO_RESUME, TAX_CTRL.INVERT, TAX_CTRL.COAST]
  | .TAX_STATUS => [TAX_STATUS.LOST, TAX_STATUS.STANDSTILL, TAX_STATUS.COASTING, TAX_STATUS.EARLY, TAX_STATUS.OVERSPEED, TAX_STATUS.QUAD_ERR, TAX_STATUS.STEP, TAX_STATUS.SRC_TIMEOUT]
  | .TAX_SRC => [TAX_SRC.HALL, TAX_SRC.BARROW, TAX_SRC.POS_A, TAX_SRC.POS_B, TAX_SRC.CRIER, TAX_SRC.WORD_BITS, TAX_SRC.LANE, TAX_SRC.QFILT, TAX_SRC.REMOTE_AXIS]
  | .TAX_GAIN => [TAX_GAIN.ALPHA, TAX_GAIN.BETA]
  | .TAX_LIMITS => [TAX_LIMITS.STANDSTILL, TAX_LIMITS.LOST]
  | .TAX_VMIN => [TAX_VMIN.VAL]
  | .TAX_POS => [TAX_POS.VAL]
  | .TAX_VEL => [TAX_VEL.VAL]
  | .TAX_VCMD => [TAX_VCMD.VAL]
  | .TAX_PRESET => [TAX_PRESET.VAL]
  | .TAX_CMD => [TAX_CMD.CLEAR_LOST, TAX_CMD.PRESET]
  | .TAX_LATENCY => [TAX_LATENCY.VAL]
  | .TAX_RESID => [TAX_RESID.VAL]
  | .TAX_UPD_TILL => [TAX_UPD_TILL.VAL]
  | .TAX_MEAS_TILL => [TAX_MEAS_TILL.VAL]
  | .HP_STATUS => [HP_STATUS.HM_BUSY]
  | .HP_INFLIGHT => [HP_INFLIGHT.TAGS]
  | .HP_ERRCNT => [HP_ERRCNT.COUNT]
  | .HP_HMBUSY => [HP_HMBUSY.COUNT]
  | .HP_ERR_ADDR => [HP_ERR_ADDR.ADDR]
  | .HP_ERR_STREAM => [HP_ERR_STREAM.STREAM]
  | .OR_BASE => [OR_BASE.BASE]
  | .OR_CTRL => [OR_CTRL.EN, OR_CTRL.SIZE_LOG2, OR_CTRL.CHIT_RING]
  | .OR_STATUS => [OR_STATUS.STOPPED, OR_STATUS.FETCH_ERR]
  | .OR_HEAD => [OR_HEAD.HEAD]
  | .OR_TAIL => [OR_TAIL.TAIL]
  | .CR_BASE => [CR_BASE.BASE]
  | .CR_CTRL => [CR_CTRL.EN, CR_CTRL.AX_EN, CR_CTRL.AXIS, CR_CTRL.SIZE_LOG2]
  | .CR_STATUS => [CR_STATUS.STOPPED, CR_STATUS.WRITE_ERR, CR_STATUS.FULL]
  | .CR_WRITE => [CR_WRITE.WRITE]
  | .CR_READ => [CR_READ.READ]
  | .CR_LOST => [CR_LOST.COUNT]
  | .CHIT_MASK_SET => [CHIT_MASK_SET.MASK]
  | .CHIT_MASK_CLR => [CHIT_MASK_CLR.MASK]
  | .CHIT_PEND_SET => [CHIT_PEND_SET.PEND]
  | .CHIT_PEND_CLR => [CHIT_PEND_CLR.PEND]
  | .CHIT_LINE => [CHIT_LINE.LINE]
  | .CHIT_ROUTE => [CHIT_ROUTE.ALT, CHIT_ROUTE.RING]
  | .WK_PIN => [WK_PIN.EN, WK_PIN.COND, WK_PIN.PIN]
  | .FT_TEMP => [FT_TEMP.TEMP]
  | .TM_CTRL => [TM_CTRL.ARM, TM_CTRL.DISARM, TM_CTRL.AXIS, TM_CTRL.DIR, TM_CTRL.LATE_MODE, TM_CTRL.REPEAT]
  | .TM_STATUS => [TM_STATUS.ARMED, TM_STATUS.COMMITTED, TM_STATUS.WAITING, TM_STATUS.LOST, TM_STATUS.FIRED, TM_STATUS.LATE, TM_STATUS.SLIP, TM_STATUS.DROPPED, TM_STATUS.CART_BUSY, TM_STATUS.CFG_ERR, TM_STATUS.SLEEP_DISARM]
  | .TM_TARGET => [TM_TARGET.VAL]
  | .TM_STEP => [TM_STEP.VAL]
  | .TM_INSTANT => [TM_INSTANT.VAL]
  | .TM_ACTED_AT => [TM_ACTED_AT.VAL]
  | .TM_ACTION => [TM_ACTION.EDGE_MODE, TM_ACTION.BELL_EN, TM_ACTION.BELL_DEV, TM_ACTION.BELL_NUM, TM_ACTION.CART_EN, TM_ACTION.CART_CH, TM_ACTION.EVENT_EN, TM_ACTION.SWAP]
  | .TM_PULSE => [TM_PULSE.PULSE_TICKS]
  | .TM_COUNT => [TM_COUNT.VAL]
  | .TM_FIRED_SUM => [TM_FIRED_SUM.VAL]
  | .TM_LATE_SUM => [TM_LATE_SUM.VAL]
  | .CT_CTRL => [CT_CTRL.ENABLE, CT_CTRL.CLK_SRC, CT_CTRL.AXIS, CT_CTRL.CMP_OUT, CT_CTRL.WRAP_OUT, CT_CTRL.OUT_LEVEL, CT_CTRL.MATCH_EV, CT_CTRL.WRAP_EV, CT_CTRL.CAP_EV, CT_CTRL.BELL_EN, CT_CTRL.BELL_NUM, CT_CTRL.AX_REV]
  | .CT_INPUT => [CT_INPUT.BARROW, CT_INPUT.POS, CT_INPUT.EDGE, CT_INPUT.FILT_LEN, CT_INPUT.PRESCALE]
  | .CT_STATUS => [CT_STATUS.RUNNING, CT_STATUS.MATCH, CT_STATUS.WRAP, CT_STATUS.CAPTURED, CT_STATUS.CAP_OVR, CT_STATUS.PERIOD_PASSED, CT_STATUS.CFG_REFUSED]
  | .CT_COUNT => [CT_COUNT.VAL]
  | .CT_PERIOD => [CT_PERIOD.VAL]
  | .CT_COMPARE => [CT_COMPARE.VAL]
  | .CT_CAPTURE => [CT_CAPTURE.VAL]
  | .CT_COUNT_LATCH => [CT_COUNT_LATCH.VAL]
  | .CT_CAP_TILL => [CT_CAP_TILL.VAL]
  | .STL_SELF => [STL_SELF.HALL, STL_SELF.STALL, STL_SELF.ROLE, STL_SELF.HOST_READ, STL_SELF.TRADER]
  | .STL_CTRL => [STL_CTRL.PAGE_SEL, STL_CTRL.LBUF_EN]
  | .STL_STATUS => [STL_STATUS.BSY, STL_STATUS.PAGE, STL_STATUS.PAGE_REFUSED, STL_STATUS.FILL]
  | .STL_CODE_BASE => [STL_CODE_BASE.BASE]
  | .STL_ICACHE => [STL_ICACHE.INVAL, STL_ICACHE.INVAL_BUSY, STL_ICACHE.EN]
  | .STL_HWIN => [STL_HWIN.WIN]
  | .STL_RUN => [STL_RUN.WAITING, STL_RUN.RUNNING]
  | .EV_HSEL => [EV_HSEL.TRADER]
  | .EV_KICK => [EV_KICK.KICK]
  | .BW_CTRL => [BW_CTRL.EN]
  | .BW_STATUS => [BW_STATUS.OVER]
  | .BW_SEL => [BW_SEL.TRADER]
  | .BW_VIEW => [BW_VIEW.LIMIT, BW_VIEW.COUNT]
  | .BW_HLIMIT01 => [BW_HLIMIT01.HI, BW_HLIMIT01.LO]
  | .BW_HLIMIT23 => [BW_HLIMIT23.HI, BW_HLIMIT23.LO]
  | .BW_TABLE => [BW_TABLE.HI, BW_TABLE.LO]
  | .TR_BANK => [TR_BANK.HOST, TR_BANK.HBK, TR_BANK.BNK]
  | .TR_UNSCHED => [TR_UNSCHED.COUNT]
  | .TR_IMISS => [TR_IMISS.COUNT]
  | .TR_HOSTPG => [TR_HOSTPG.PAGE]
  | .EV_CTRL => [EV_CTRL.CUR]
  | .EV_PEND => [EV_PEND.PEND]
  | .EV_PEND_SET => [EV_PEND_SET.PEND]
  | .EV_EN_SET => [EV_EN_SET.FIXED, EV_EN_SET.EN]
  | .EV_EN_CLR => [EV_EN_CLR.FIXED, EV_EN_CLR.EN]
  | .EV_OVR => [EV_OVR.OVR]
  | .EV_ROUTE => [EV_ROUTE.LVL]
  | .EV_TRAPLVL => [EV_TRAPLVL.LVL]
  | .EV_HSEL01 => [EV_HSEL01.NUM_HI, EV_HSEL01.NUM_LO]
  | .EV_HSEL23 => [EV_HSEL23.NUM_HI, EV_HSEL23.NUM_LO]
  | .EV_HSEL45 => [EV_HSEL45.NUM_HI, EV_HSEL45.NUM_LO]
  | .EV_HSEL67 => [EV_HSEL67.NUM_HI, EV_HSEL67.NUM_LO]
  | .EV_STATUS => [EV_STATUS.DOUBLE, EV_STATUS.DOUBLE_SRC, EV_STATUS.STRAY_RETE]
  | .EV_VEC01 => [EV_VEC01.VEC1, EV_VEC01.VEC0]
  | .EV_VEC23 => [EV_VEC23.VEC3, EV_VEC23.VEC2]
  | .ER_CTX => [ER_CTX.PLVL, ER_CTX.TSR, ER_CTX.PC]
  | .ER_BANK => [ER_BANK.HOST, ER_BANK.HBK, ER_BANK.BNK]
  | .ER_CAUSE => [ER_CAUSE.ADDR, ER_CAUSE.SRC, ER_CAUSE.DETAIL]
  | .ER_WORD => [ER_WORD.WORD]
  | .BR_CTRL => [BR_CTRL.PAGE_SEL]
  | .BR_STATUS => [BR_STATUS.PAGE, BR_STATUS.CLK_RUN, BR_STATUS.PAGE_PEND, BR_STATUS.FLAGGED]
  | .BR_CLK => [BR_CLK.DIV_INT, BR_CLK.DIV_FRAC]
  | .BR_RUN_SET => [BR_RUN_SET.RUN]
  | .BR_RUN_CLR => [BR_RUN_CLR.RUN]
  | .BR_KICK => [BR_KICK.KICK]
  | .BR_OWN => [BR_OWN.OWN]
  | .BR_PINS => [BR_PINS.LEVEL, BR_PINS.DRIVE, BR_PINS.ENABLE]
  | .BR_IADDR => [BR_IADDR.AUTO_INC, BR_IADDR.PAGE, BR_IADDR.WORD]
  | .BR_IDATA => [BR_IDATA.WORD]
  | .CR_CTRL_C => [CR_CTRL_C.RESTART, CR_CTRL_C.FLUSH]
  | .CR_STATUS_C => [CR_STATUS_C.PC, CR_STATUS_C.STATE, CR_STATUS_C.ECC_ERR, CR_STATUS_C.ILLEGAL, CR_STATUS_C.TX_UNDER, CR_STATUS_C.TX_OVER, CR_STATUS_C.RX_OVER, CR_STATUS_C.RX_UNDER, CR_STATUS_C.CFG_ERR]
  | .CR_EXEC => [CR_EXEC.WRAP_TOP, CR_EXEC.WRAP_BASE, CR_EXEC.SWAP_JUMP, CR_EXEC.SWAP_ENTRY, CR_EXEC.START_PC]
  | .CR_SHIFT => [CR_SHIFT.OUT_DIR, CR_SHIFT.IN_DIR, CR_SHIFT.REFILL, CR_SHIFT.SPILL, CR_SHIFT.REFILL_WIDE, CR_SHIFT.SPILL_NOWAIT, CR_SHIFT.SPILL_AT]
  | .CR_PINS => [CR_PINS.OUT_BASE, CR_PINS.OUT_COUNT, CR_PINS.SET_BASE, CR_PINS.SET_COUNT, CR_PINS.CUE_MODE, CR_PINS.CUE_EN, CR_PINS.CUE2_POS, CR_PINS.CUE1_POS, CR_PINS.CUE0_POS, CR_PINS.IN_BASE]
  | .CR_FIFO => [CR_FIFO.JOIN, CR_FIFO.RX_ROUTE, CR_FIFO.RX_LVL, CR_FIFO.TX_LVL]
  | .CR_TXF => [CR_TXF.DATA]
  | .CR_RXF => [CR_RXF.DATA]
  | .CR_X => [CR_X.X]
  | .CR_Y => [CR_Y.Y]
  | .CR_PACE => [CR_PACE.PERIOD, CR_PACE.BT]
  | .CR_CRC_CFG => [CR_CRC_CFG.MODE, CR_CRC_CFG.WIDTH]
  | .CR_CRC_POLY => [CR_CRC_POLY.POLY]
  | .CR_CRC_INIT => [CR_CRC_INIT.INIT]
  | .CR_CRC_VAL => [CR_CRC_VAL.VAL]
  | .CR_SCNT => [CR_SCNT.OSH_LEFT, CR_SCNT.ISH_FILL]
  | .CR_ISH => [CR_ISH.ISH]
  | .CR_OSH => [CR_OSH.OSH]
  | .PIN_CFG => [PIN_CFG.FUNC, PIN_CFG.SEL, PIN_CFG.THRESH, PIN_CFG.HYST, PIN_CFG.DRIVE, PIN_CFG.PULL, PIN_CFG.IN_EN]
  | .PIN_CFG_SH => [PIN_CFG_SH.FUNC, PIN_CFG_SH.SEL, PIN_CFG_SH.THRESH, PIN_CFG_SH.HYST, PIN_CFG_SH.DRIVE, PIN_CFG_SH.PULL, PIN_CFG_SH.IN_EN]
  | .PIN_GPIO => [PIN_GPIO.OE, PIN_GPIO.DATA]
  | .PIN_EVT => [PIN_EVT.MODE, PIN_EVT.EDGE, PIN_EVT.LEN, PIN_EVT.PRESC]
  | .PIN_STATUS => [PIN_STATUS.HELD, PIN_STATUS.HOLD_HOST, PIN_STATUS.HOLD_SLEEP, PIN_STATUS.HOLD_WIND, PIN_STATUS.HOLD_FAIL, PIN_STATUS.RD_PAD, PIN_STATUS.LEVEL, PIN_STATUS.FLT_LEVEL, PIN_STATUS.CFG_ERR, PIN_STATUS.EVENT]
  | .PIN_CLAIM => [PIN_CLAIM.VALID, PIN_CLAIM.HOLDER]
  | .PSW_MAP0 => [PSW_MAP0.MAP]
  | .PSW_MAP1 => [PSW_MAP1.MAP]
  | .PSW_MAP0_SH => [PSW_MAP0_SH.MAP]
  | .PSW_MAP1_SH => [PSW_MAP1_SH.MAP]
  | .PSW_STATUS => [PSW_STATUS.REFUSED]
  | .PIN_LEVEL => [PIN_LEVEL.LEVEL]
  | .PIN_OUT_SET => [PIN_OUT_SET.DATA]
  | .PIN_OUT_CLR => [PIN_OUT_CLR.DATA]
  | .PIN_HOLD_SET => [PIN_HOLD_SET.HOST]
  | .PIN_HOLD_CLR => [PIN_HOLD_CLR.HOST]
  | .CLM_TM => [CLM_TM.VALID, CLM_TM.HOLDER]
  | .CLM_CT => [CLM_CT.VALID, CLM_CT.HOLDER]
  | .LN_CTRL => [LN_CTRL.MODE, LN_CTRL.AUTO_RETRAIN, LN_CTRL.LOOPBACK, LN_CTRL.FEC_LIMIT]
  | .LN_STATUS => [LN_STATUS.STATE, LN_STATUS.LOCK, LN_STATUS.SIGNAL, LN_STATUS.IN_SERVICE, LN_STATUS.SB_IN, LN_STATUS.PEER]
  | .LN_TRAIN => [LN_TRAIN.RESULT, LN_TRAIN.ELAPSED]
  | .LN_GROUP => [LN_GROUP.MEMBERS, LN_GROUP.SERVICE, LN_GROUP.PEER_SERVICE]
  | .LN_FAULT => [LN_FAULT.CFG_ERR, LN_FAULT.GROUP_ERR, LN_FAULT.RX_OVF, LN_FAULT.HDR_ERR, LN_FAULT.FEC_UNCORR, LN_FAULT.LINK_LOST, LN_FAULT.TRAIN_FAIL]
  | .LN_LAT => [LN_LAT.TX_LAT, LN_LAT.RX_LAT]
  | .LN_SB => [LN_SB.TX_DISABLE, LN_SB.RESET_L, LN_SB.LPMODE]
  | .LN_FEC_CORR => [LN_FEC_CORR.COUNT]
  | .LN_FEC_UNCORR => [LN_FEC_UNCORR.COUNT]
  | .LN_RX_DROP => [LN_RX_DROP.COUNT]
  | .LN_SYNC_CTRL => [LN_SYNC_CTRL.EN, LN_SYNC_CTRL.PERIOD, LN_SYNC_CTRL.DLY_W]
  | .LN_SYNC_STATUS => [LN_SYNC_STATUS.SETTLED, LN_SYNC_STATUS.EXCH]
  | .LN_SYNC_OFS => [LN_SYNC_OFS.OFS]
  | .LN_SYNC_DLY => [LN_SYNC_DLY.DLY]
  | .LN_SYNC_ASYM => [LN_SYNC_ASYM.ASYM]
  | .LN_AXS_TX => [LN_AXS_TX.AXMASK]
  | .CS_VERSION => [CS_VERSION.BASE, CS_VERSION.PATCH]
  | .PT_CTRL => [PT_CTRL.TX_RUN, PT_CTRL.RX_RUN]
  | .PT_STATUS => [PT_STATUS.START_REFUSED, PT_STATUS.CS_REFUSED]
  | .PT_ENTRY => [PT_ENTRY.TX_ENTRY, PT_ENTRY.RX_ENTRY]
  | .PT_MBOX => [PT_MBOX.THR, PT_MBOX.DATA]
  | .PT_PARAM => [PT_PARAM.PARAM]
  | .PT_STAT => [PT_STAT.COUNT]
  | .PT_MAC => [PT_MAC.VALID, PT_MAC.ADDR]
  | .STREAM => [STREAM.VALID, STREAM.AXEN, STREAM.AXIS, STREAM.CLASS, STREAM.QUEUE]
  | .TH_STATE => [TH_STATE.STATE, TH_STATE.HALT, TH_STATE.MPC]
  | .TH_TRAP => [TH_TRAP.PEND, TH_TRAP.ACTIVE, TH_TRAP.CAUSE]
  | .TH_AUX => [TH_AUX.LCNT, TH_AUX.ZCN]
  | .SH_MPC => [SH_MPC.MPC]
  | .MR => [MR.VAL]
  | .SH_MR => [SH_MR.MR]
  | .HL_STATUS => [HL_STATUS.TOKEN_FULL, HL_STATUS.TOKEN_REFUSED, HL_STATUS.QDESC_REFUSED]
  | .HL_BELL_RING => [HL_BELL_RING.RING]
  | .HL_LEVY0 => [HL_LEVY0.LEVY]
  | .HL_LEVY1 => [HL_LEVY1.LEVY]
  | .HL_HOSTLEVY => [HL_HOSTLEVY.WEIGHT]
  | .HL_ABANDON => [HL_ABANDON.AGENT]
  | .TK_LIVE => [TK_LIVE.COUNT]
  | .TK_STRICT => [TK_STRICT.EN, TK_STRICT.LAST, TK_STRICT.FIRST]
  | .HL_GRANT => [HL_GRANT.COUNT]
  | .HL_CONFLICT => [HL_CONFLICT.COUNT]
  | .TK_HWORD => [TK_HWORD.RESULT, TK_HWORD.WORD]
  | .TK_HREL => [TK_HREL.FORCE]
  | .TK_HACQ => [TK_HACQ.WORD]
  | .TK_ENTRY => [TK_ENTRY.VALID, TK_ENTRY.STRICT, TK_ENTRY.WORD, TK_ENTRY.OWNER]
  | .QH_SEL => [QH_SEL.QUEUE]
  | .QH_RSV => [QH_RSV.FAIL, QH_RSV.SLOT]
  | .QH_CMT => [QH_CMT.ABORT]
  | .QH_TAKE => [QH_TAKE.FAIL, QH_TAKE.SLOT]
  | .QH_DONE => [QH_DONE.RETURN]
  | .QH_STAT => [QH_STAT.REASON, QH_STAT.FILLED]
  | .Q_BASE => [Q_BASE.BASE]
  | .Q_CFG => [Q_CFG.VALID, Q_CFG.LOC, Q_CFG.SIZE_LOG2, Q_CFG.ELEM_LOG2, Q_CFG.RING_EN, Q_CFG.BELL, Q_CFG.CHIT_EN]
  | .Q_PROD => [Q_PROD.P_HOLD, Q_PROD.P_OWNER]
  | .Q_CONS => [Q_CONS.C_HOLD, Q_CONS.C_OWNER]
  | .Q_HEAD => [Q_HEAD.HEAD]
  | .Q_TAIL => [Q_TAIL.TAIL]
  | .Q_NUM => [Q_NUM.RSV_N, Q_NUM.TAKE_N]
  | .CE_CTRL => [CE_CTRL.RESUME, CE_CTRL.HALT_RING]
  | .CE_STATUS => [CE_STATUS.HALT, CE_STATUS.SLOTS]
  | .CE_ERR_INFO => [CE_ERR_INFO.VALID, CE_ERR_INFO.WRITE, CE_ERR_INFO.KIND]
  | .CE_ERR_ADDR => [CE_ERR_ADDR.ADDR]
  | .CE_HMBUSY => [CE_HMBUSY.COUNT]
  | .CE_ACTIVE => [CE_ACTIVE.ACTIVE]
  | .CE_WIN_BASE => [CE_WIN_BASE.EN, CE_WIN_BASE.LOC, CE_WIN_BASE.BASE]
  | .CE_WIN_LAST => [CE_WIN_LAST.LAST]
  | .CH_SRC => [CH_SRC.SRC]
  | .CH_DST => [CH_DST.DST]
  | .CH_CNT => [CH_CNT.CNT]
  | .CH_FLAGS => [CH_FLAGS.DFLAGS]
  | .CH_NEXT => [CH_NEXT.NEXT]
  | .CH_CTRL => [CH_CTRL.START, CH_CTRL.ABORT, CH_CTRL.PAUSE, CH_CTRL.DQ_EN, CH_CTRL.DQ, CH_CTRL.RATE, CH_CTRL.DEPTH, CH_CTRL.CHIT_EN, CH_CTRL.SWB_EN, CH_CTRL.CHIT_RING]
  | .CH_STATUS => [CH_STATUS.STATE, CH_STATUS.STATUS, CH_STATUS.CFG_ERR, CH_STATUS.START_BUSY]
  | .CH_RESIDUE => [CH_RESIDUE.RESIDUE]
  | .CH_CRC => [CH_CRC.CRC]
  | .CH_CUR => [CH_CUR.ADDR]
  | .CH_SADDR => [CH_SADDR.ADDR]
  | .CH_DCOUNT => [CH_DCOUNT.COUNT]
  | .HS_CTRL => [HS_CTRL.WIND_RELEASE, HS_CTRL.SWAP_MARK]
  | .HS_STATUS => [HS_STATUS.STATE, HS_STATUS.WINDING, HS_STATUS.JOB]
  | .HS_HOSTCAP => [HS_HOSTCAP.CAP]
  | .HS_SWAP_AT => [HS_SWAP_AT.I]
  | .HS_IMAGE_ID => [HS_IMAGE_ID.ID]
  | .HS_KEEP_UNITS => [HS_KEEP_UNITS.BARROWS]
  | .HS_STALL => [HS_STALL.SHADOW, HS_STALL.ACTIVE]
  | .HS_BARROW => [HS_BARROW.SHADOW, HS_BARROW.ACTIVE]
  | .HS_KEEP_PIN => [HS_KEEP_PIN.KEEP]
  | .HS_PROF_AXIS => [HS_PROF_AXIS.RAMP_AXIS]
  | .HS_PROF_DECEL1 => [HS_PROF_DECEL1.DECEL1]
  | .HS_PROF_KNEE => [HS_PROF_KNEE.V_KNEE]
  | .HS_PROF_DECEL2 => [HS_PROF_DECEL2.DECEL2]
  | .FT_HCTRL => [FT_HCTRL.FAIL, FT_HCTRL.FAIL_RELEASE, FT_HCTRL.HOLD_KEEP, FT_HCTRL.SCRUB_EN, FT_HCTRL.FAIL_ROLE]
  | .FT_HSTATUS => [FT_HSTATUS.LS_REFUSED, FT_HSTATUS.SPARE_USED, FT_HSTATUS.PARITY]
  | .FT_LOCKSTEP => [FT_LOCKSTEP.PAIR]
  | .FT_WIND => [FT_WIND.LANE_EMPTY, FT_WIND.STALL_LOST, FT_WIND.THERMAL, FT_WIND.REFCLK, FT_WIND.AXES]
  | .FT_CORR_LIMIT => [FT_CORR_LIMIT.LIMIT]
  | .FT_BFLAG => [FT_BFLAG.FLAGGED]
  | .FT_CORR_HM => [FT_CORR_HM.COUNT]
  | .FT_CORR_BR => [FT_CORR_BR.COUNT]
  | .FT_CORR_PT => [FT_CORR_PT.COUNT]
  | .FT_CORR_CE => [FT_CORR_CE.COUNT]
  | .FT_UNC_ADDR => [FT_UNC_ADDR.ARRAY, FT_UNC_ADDR.ADDR]
  | .FT_ROLE => [FT_ROLE.FO_EN, FT_ROLE.ON_UNCORR, FT_ROLE.ON_DOUBLE, FT_ROLE.ON_PREDICT, FT_ROLE.RESTART, FT_ROLE.CKPT_EN, FT_ROLE.CKPT_Q, FT_ROLE.RESTART_PC]
  | .FT_STALL => [FT_STALL.STATE, FT_STALL.CAUSE, FT_STALL.BAD]
  | .FT_CORR => [FT_CORR.COUNT]
  | .TK_WORD => [TK_WORD.WORD]
  | .TK_STAT => [TK_STAT.RESULT]
  | .TK_REL => [TK_REL.FORCE]
  | .TK_ACQ => [TK_ACQ.WORD]
  | .BL_RING => [BL_RING.RING]
  | .DB_RING => [DB_RING.RING]
  | .QP_SEL => [QP_SEL.QUEUE]
  | .QP_STAT => [QP_STAT.REASON, QP_STAT.FILLED]
  | .QP_PUSH => [QP_PUSH.DATA]
  | .QP_POP => [QP_POP.DATA]
  | .QP_RSV => [QP_RSV.FAIL, QP_RSV.SLOT]
  | .QP_CMT => [QP_CMT.ABORT]
  | .QP_TAKE => [QP_TAKE.FAIL, QP_TAKE.SLOT]
  | .QP_DONE => [QP_DONE.RETURN]
  | .AX_SEL => [AX_SEL.AXIS]
  | .TM_SEL => [TM_SEL.MARK]
  | .CT_SEL => [CT_SEL.COUNTER]
  | .SC_STATUS => [SC_STATUS.INV, SC_STATUS.DZ, SC_STATUS.OVF, SC_STATUS.INX]

/-- The registers of 64 bits (R23). -/
def RegName.is64 : RegName → Bool
  | .TILL_NOW | .TILL_ALARM | .TAX_POS | .TAX_VEL | .TAX_VCMD | .TAX_PRESET
  | .TAX_UPD_TILL | .TAX_MEAS_TILL | .HP_ERR_ADDR | .OR_BASE | .CR_BASE | .TM_TARGET
  | .TM_STEP | .TM_INSTANT | .TM_ACTED_AT | .CT_CAP_TILL | .TR_HOSTPG | .CR_ISH
  | .CR_OSH | .LN_SYNC_OFS | .PT_MAC | .TK_STRICT | .TK_HACQ | .TK_ENTRY
  | .Q_BASE | .CE_ERR_ADDR | .CE_WIN_BASE | .CE_WIN_LAST | .CH_SRC | .CH_DST
  | .CH_NEXT | .CH_CUR | .HS_SWAP_AT | .HS_IMAGE_ID | .HS_PROF_AXIS | .HS_PROF_DECEL1
  | .HS_PROF_KNEE | .HS_PROF_DECEL2 | .FT_UNC_ADDR | .TK_ACQ | .QP_PUSH | .QP_POP => true
  | _ => false

/-- The value at reset of a register, from its fields; a field marked U or variant counts 0 here. -/
def RegName.rst : RegName → Nat
  | .DEV_STOCK_ID => 0x48000010
  | .TILL_STATUS => 0x40000000
  | .TILL_CTRL => 0x80000000
  | .TILL_LFO_INC => 0x7735940
  | .TILL_ALARM => 0xffffffffffffffff
  | .HP_CFG => 0x100
  | .PWR_CTRL => 0xc0000000
  | .PWR_CLK => 0x20000000
  | .PWR_VSETTLE => 0x14
  | .PWR_RESET_CAUSE => 0x1
  | .WK_CTRL => 0x80000000
  | .WK_I2C => 0x150
  | .FT_THERM_CTRL => 0x1bdb8ae
  | .TAX_CTRL => 0x5400000
  | .TAX_STATUS => 0x50000000
  | .TAX_SRC => 0x8c000
  | .TAX_GAIN => 0x40000400
  | .TAX_LIMITS => 0x40000100
  | .OR_CTRL => 0x400
  | .CR_CTRL => 0x4
  | .CHIT_MASK_SET => 0xffffffff
  | .CHIT_MASK_CLR => 0xffffffff
  | .TM_INSTANT => 0xffffffffffffffff
  | .TM_PULSE => 0x10
  | .CT_INPUT => 0x800000
  | .CT_PERIOD => 0xffffffff
  | .CT_COMPARE => 0xffffffff
  | .STL_CTRL => 0x40000000
  | .STL_ICACHE => 0x20000000
  | .EV_EN_SET => 0x600
  | .EV_EN_CLR => 0x600
  | .EV_ROUTE => 0x2c0000
  | .EV_TRAPLVL => 0x1bf
  | .EV_HSEL01 => 0x1ff01ff
  | .EV_HSEL23 => 0x1ff01ff
  | .EV_HSEL45 => 0x1ff01ff
  | .EV_HSEL67 => 0x1ff01ff
  | .BR_CLK => 0x20000
  | .CR_EXEC => 0x3f000000
  | .CR_CRC_CFG => 0x1f
  | .CR_CRC_POLY => 0x4c11db7
  | .CR_CRC_INIT => 0xffffffff
  | .PIN_CFG => 0xa0000
  | .PIN_CFG_SH => 0xa0000
  | .PIN_STATUS => 0x4000000
  | .PSW_MAP0 => 0x33221100
  | .PSW_MAP1 => 0x77665544
  | .PSW_MAP0_SH => 0x33221100
  | .PSW_MAP1_SH => 0x77665544
  | .LN_CTRL => 0x1000
  | .LN_SB => 0x5
  | .LN_SYNC_CTRL => 0x3d000000
  | .HL_LEVY0 => 0x22222222
  | .HL_LEVY1 => 0x48844442
  | .HL_HOSTLEVY => 0x4
  | .Q_CFG => 0x4200000
  | .CH_CUR => 0xfffffffffffff
  | .HS_CTRL => 0x1f
  | .HS_HOSTCAP => 0x1f4
  | .FT_HCTRL => 0x10000000
  | .FT_CORR_LIMIT => 0x100
  | .FT_ROLE => 0x80000000
  | _ => 0

end Sys2Proof.Machine
end

