-- ==== Sys2Proof/Machine/Types.lean ====
section
/-! DEFINITION. The parts of the state that are no register of a register table: what the units of the tile hold inside.
Every register of the spec stands in `State.regs` under its own name instead. -/

namespace Sys2Proof.Machine

/-- The variants of R1. -/
inductive Variant where
  | HK1024 | HK1024E | HK512
  deriving DecidableEq, Repr

/-- What the integrator and the part fix: the variant and the stepping of R1, the coprocessor ties CP_PRESENT (R416) and
the supply of each I/O bank (IO_V33, R419). -/
structure Part where
  variant : Variant
  stepping : Nat
  cpTies : Nat
  ioV33 : Nat
  deriving DecidableEq, Repr

/-- The clock the till counts on (R25). -/
inductive TillClk where
  | fio | pll | lfo
  deriving DecidableEq, Repr

/-- The till: its clock, its value at the last change of clock (R26), the collected fraction of LFO steps, and the latest
span on the LFO: its first tick, the increment a cycle in 1/256 tick, and the LFO cycles counted in it (R25). -/
structure Till where
  clk : TillClk := .fio
  base : Nat := 0
  frac : Nat := 0
  lfoFrom : Nat := 0
  lfoInc : Nat := 0
  lfoSteps : Nat := 0
  /-- The tick at or after which the present LFO trim window begins: TRIM_AUTO set, the move onto the till PLL, or the end of
  the window before (R28). -/
  trimFrom : Nat := 0
  /-- The tick at which the till last left its PLL: the crier clocks stand from there until it locks again (R173). -/
  pllEnd : Nat := 0
  /-- TILL_NOW at the latest write of TILL_ALARM: the alarm fires at a later advance (R31). -/
  alarmAt : Option Nat := none
  /-- The reference monitor finds REFCLK in tolerance (R30). -/
  refUp : Bool := true
  deriving DecidableEq, Repr

/-- A tally axis (R34). `p` is in 2^-24 counts, `v` in 2^-48 counts a tick. The state of an update is in force from
`eff` on (R35); until then `p0`, `v0`, `t0` are. -/
structure Axis where
  p : Int := 0
  v : Int := 0
  t : Nat := 0
  p0 : Int := 0
  v0 : Int := 0
  t0 : Nat := 0
  eff : Nat := 0
  /-- The running count of a quadrature source (R32), in 2^-24 counts. -/
  z : Int := 0
  /-- The latest measurement since `t`: z in 2^-24 counts and tm. -/
  meas : Option (Int × Int) := none
  /-- The instant of the last measurement taken (R33). -/
  lastTm : Option Int := none
  /-- The instant of the last accepted quadrature edge (R33). -/
  lastEdge : Option Nat := none
  lineA : Bool := false
  lineB : Bool := false
  /-- Updates in a row without a measurement (R37, R38). -/
  missed : Nat := 0
  /-- Updates of coasting still to come (R38). -/
  coast : Nat := 0
  presetPend : Bool := false
  clearPend : Bool := false
  /-- A preset that CALIBRATE_AXIS asks for at the next update: the job, te, and PRESET (R332). -/
  calPreset : Option (Nat × Nat × Int) := none
  /-- The earliest instant of the next update after a change of K (R36). -/
  notBefore : Nat := 0
  /-- The instant of the last update, and what TAX_UPD_TILL reads until `eff` (R35). -/
  upd : Nat := 0
  upd0 : Nat := 0
  /-- The residual and the instant of the last measurement used, and their values until `eff` (R34). -/
  resid : Int := 0
  measTill : Nat := 0
  resid0 : Int := 0
  measTill0 : Nat := 0
  /-- Standstill came from missing measurements (R37). -/
  stillMissing : Bool := false
  /-- Woken from NAP or OFF and waiting for the first measurement, taken as a recovery (R42). -/
  wakeRecover : Bool := false
  /-- The first falling edge a crier drove on POS_A since the last SSI word (R32). -/
  ssiFall : Option Nat := none
  /-- Steps so far (R238). -/
  steps : Nat := 0
  deriving DecidableEq, Repr

/-- A tally mark (R43 to R49): the target and step in force, the projected or committed instant, in force for reads from
`eff` on, the sign history of DIR either, and its output level and running pulse. -/
structure Mark where
  target : Int := 0
  step : Int := 0
  /-- The projected or committed instant; none while waiting. -/
  inst : Option Nat := none
  committed : Bool := false
  /-- The instant and the commitment that reads show until `eff`. -/
  inst0 : Option Nat := none
  committed0 : Bool := false
  eff : Nat := 0
  /-- Sign of target minus position at the previous projection of this arming (R44). -/
  sign : Option Int := none
  slip : Bool := false
  late : Bool := false
  level : Bool := false
  pulseEnd : Option Nat := none
  /-- TM_ACTION as it stood at the arming (R43). -/
  action : Nat := 0
  /-- TM_CTRL as written by the arming: AXIS, DIR, LATE_MODE and REPEAT in force (R43). -/
  cfg : Nat := 0
  /-- An arming that waits for the action of a committed instant less than 64 ticks away (R49): TM_CTRL, target, step and
  action. -/
  nextArm : Option (Nat × Int × Int × Nat) := none
  deriving DecidableEq, Repr

/-- A counter (R52 to R61): the tick up to which a tick-clocked count stands, the record of an axis-clocked one (whole
counts), arrivals still to be worked off, and the input filter and the prescale count of R59. -/
structure Counter where
  asOf : Nat := 0
  record : Int := 0
  /-- Clock events received and not yet counted, with their instant (axis steps, neighbour wraps, pin edges). -/
  todo : List (Nat × Nat) := []
  /-- The match of the next clock event, which is also a wrap, has been taken (R60). -/
  matched : Bool := false
  prescale : Nat := 0
  /-- The settled input level; none until the first sample after a selection (R203). -/
  level : Option Bool := none
  /-- The tick at which that level was taken. -/
  levelAt : Nat := 0
  /-- The tick in which flags, events and bells of this counter were last raised: match, wrap (R52). -/
  lastMatch : Option Nat := none
  lastWrap : Option Nat := none
  deriving DecidableEq, Repr

/-- What a CALIBRATE_AXIS job has observed (R332). -/
structure Calib where
  used : Nat := 0
  maxR : Nat := 0
  sumR : Nat := 0
  maxGap : Nat := 0
  lastTm : Option Nat := none
  te : Nat := 0
  armed : Bool := true
  deriving DecidableEq, Repr

/-- A wind-down in progress (R373): its job, the observed axis, the ramp axis and the decelerations of its profile, and the
tick of its timeout. -/
structure Wind where
  job : Nat
  axis : Nat
  ramp : Option Nat
  decel1 : Int
  knee : Int
  decel2 : Int
  start : Nat
  timeout : Option Nat
  deriving DecidableEq, Repr

/-- What a held pad keeps: the value, the output enable, and the drive and pull fields (R213). -/
structure PadKeep where
  v : Bool
  oe : Bool
  drive : Nat
  pull : Nat
  deriving DecidableEq, Repr

/-- A pin (R203 to R215): what the pad carries while held or during a switch-over, and a switch-over under way. -/
structure PinState where
  /-- The output kept by a hold or a switch-over, once its cycle k has begun and a source of the pad has changed. -/
  keep : Option PadKeep := none
  /-- The start of cycle k of a hold or a switch-over: from there on the pad carries what it carried in cycle k - 1. -/
  capture : Option Nat := none
  /-- The start of cycle k of the latest change of FUNC or SEL: a counter input settles anew after it (R203). -/
  selAt : Nat := 0
  /-- The tick at which a switch-over or a release of a hold ends: the start of cycle k + 1 (R206, R213). -/
  switching : Option Nat := none
  /-- Consecutive samples at the level other than FLT_LEVEL, and the lockout that remains (R211). -/
  run : Nat := 0
  lockout : Nat := 0
  /-- The filter takes the next sample without an event (R212). -/
  fresh : Bool := true
  /-- The instant of the latest sample. -/
  lastSample : Nat := 0
  /-- The input as it stood when the hold began. -/
  inKept : Bool := false
  /-- The tick at which cycle k of the latest PIN_CFG write begins, and PIN_CFG before it, which is in force until then
  (R206). -/
  elec : Option (Nat × Nat) := none
  /-- The hall-clock edge and the value of the latest write of the GPIO latch by PIN_GPIO, and by a word write (R224). -/
  latchPin : Option (Nat × Bool) := none
  latchWord : Option (Nat × Bool) := none
  /-- What the pad carried until each of its latest changes but those by its criers, latest first (R177). -/
  hist : List (Nat × PadKeep) := []
  /-- The start of cycle k of the latest switch-over or hold. -/
  heldFrom : Nat := 0
  /-- PIN_CFG with which the pad was connected before the switch-over or the hold in progress (R424). -/
  connWas : Nat := 0
  deriving DecidableEq, Repr

/-- A crier (R178), but for what its registers show. DESIGN CHOICE (assumption log 140): OUT and OE, for which the spec gives no value
at reset, start at 0. -/
structure Crier where
  /-- The crier cycle of its next issue, and the cycle in which its latest instruction completed. -/
  next : Nat := 0
  done : Nat := 0
  /-- The cycle in which the instruction that stalls first issued. -/
  stalled : Option Nat := none
  /-- The word whose toggle cues have been applied at this PC (R180). -/
  cued : Option Nat := none
  out : Nat := 0
  oe : Nat := 0
  /-- The cycle in which OUT and OE were written last, and what they were before, with the cycles of those writes, latest
  first: a write reaches the pads with the next cycle, and criers read pads of two cycles ago (R177). -/
  outAt : Nat := 0
  hist : List (Nat × Nat × Nat) := []
  /-- DELAY of the instruction that completed last: the cycles before `next` that are its delay (R180). -/
  delay : Nat := 0
  tx : List Word := []
  rx : List Word := []
  /-- The cycle at whose start BT had the value of CR_PACE, and the cycle of the last pace tick (R186). -/
  btAt : Nat := 0
  lastTick : Option Nat := none
  deriving DecidableEq, Repr

/-- A port access to a crier (R192): a write of one of its registers, a push, a pop that has given an entry or found none, a
start, a stop, a restart or a flush. -/
inductive CrierOp where
  | reg (r : Reg) (v : Nat)
  | push (v : Word)
  | pop (got : Bool)
  | start
  | stop
  | restart
  | flush
  deriving DecidableEq, Repr

/-- A crier before the port accesses of cycles that it has not passed yet (R192): its registers, its RUN bit and its inside, and
those accesses with their cycles, oldest first. -/
structure CrierWas where
  regs : Tab Reg Dword
  runs : Bool
  crier : Crier
  ops : List (Nat × CrierOp)
  deriving DecidableEq, Repr

/-- The crier cycle in which a crier last issued, and the bits of its registers that it wrote in it (R192). -/
structure CrierDid where
  cycle : Nat := 0
  bits : Tab Reg Nat := []
  deriving DecidableEq, Repr

/-- A barrow (R172, R173): crier cycle `cycle0` begins at tick `base`; page changes that wait; kicks under way (R194); and
the pin levels that criers read last. -/
structure Barrow where
  base : Nat := 0
  cycle0 : Nat := 0
  /-- The grids before it, latest first: the tick and the number of their first cycle, and their divisor in 1/65,536. -/
  grids : List (Nat × Nat × Nat) := []
  /-- The tick from which a change of page by PAGE_SEL, and one by a swap, waits for its swap cycle (R197). -/
  selAt : Option Nat := none
  swapAt : Option Nat := none
  /-- The swap that waits for its swap cycle changes the page (R197). -/
  swapPg : Bool := false
  kicks : List (Nat × Nat) := []
  level : Nat := 0
  /-- The tick at whose start those levels were sampled. -/
  levelAt : Nat := 0
  /-- The cycles of the latest writes of page words, by page and word, and what the word was before, which a fetch of such a
  cycle or an earlier one still receives (R195), latest first. -/
  words : List (Nat × Nat × Nat × Nat) := []
  /-- The cycles in which BR_OWN was written, and its value before each, which decides until the next cycle (R175), latest
  first. -/
  ownWas : List (Nat × Nat) := []
  deriving DecidableEq, Repr

/-- A beat of a received frame on its way to a receive thread (R251): its 32 bytes, first and last of its frame, the
valid bytes (0 for 32), an uncorrectable codeword or code error of its frame, and the arrival stamp and header TILL of its
frame. -/
structure RxBeat where
  bytes : List Byte
  first : Bool
  last : Bool
  n : Nat
  bad : Bool
  arr : Nat
  till : Nat
  /-- An ECC error of its word in the lane buffer (R397): true for an uncorrectable one. -/
  err : Option Bool := none
  deriving DecidableEq, Repr

/-- A beat handed to the lane by a transmit thread: its bytes, first and last of its frame, and the valid bytes. -/
structure TxBeat where
  bytes : List Byte
  first : Bool
  last : Bool
  n : Nat
  deriving DecidableEq, Repr

/-- A porter thread (R248), but for what its registers show. Thread 0 has RXB as its own beat and thread 1 TXB. DESIGN CHOICE
(assumption log 92): what the spec states no reset value for starts at 0. -/
structure Thread where
  beat : List Byte := List.replicate 32 0
  /-- The frame beat that RXB holds, but for its bytes. -/
  rx : Option RxBeat := none
  qb : List Byte := List.replicate 32 0
  carry : List Byte := List.replicate 32 0
  crc : Nat := 0
  crcOk : Bool := false
  qsel : Nat := 0
  axsel : Nat := 0
  txbytes : Nat := 0
  evdata : Nat := 0
  mbox : Nat := 0
  hit : Bool := false
  sent : Nat := 0
  mres : Nat := 0
  /-- The element that a pop from host memory has brought for the word that stalls on it (R285). -/
  popped : Option (List Byte) := none
  /-- Z, C, N and LCNT of the shadow set. -/
  shZcn : Nat := 0
  shLcnt : Nat := 0
  /-- Stopped by LOAD_MICROCODE, to be restarted (R261). -/
  byLoad : Bool := false
  /-- The porter cycle from which on it issues again (R249, R257, R258). -/
  next : Nat := 0
  /-- The porter cycle of its latest write of a shared register, and what the registers it wrote in it held before (R250). -/
  wroteAt : Nat := 0
  wrote : Tab Nat Nat := []
  deriving DecidableEq, Repr

/-- A lane and its porter (R225 to R264), but for what its registers show. -/
structure Lane where
  rx : List RxBeat := []
  tx : List TxBeat := []
  /-- What the pads send at the latest block position: the type bit T and the 32 bytes of a block (R230), or a beat of an
  Ethernet frame. -/
  out : Option (Bool × List Byte) := none
  /-- The tick at which block position 0 began, the positions sent since, and their number after the latest LINK block
  (R231, R232). -/
  txFrom : Nat := 0
  sent : Nat := 0
  linkAt : Nat := 0
  /-- The rest of an axis-sync frame in progress, the axis-sync frames that are due, by axis, and the porter of the group whose
  data frame is in progress (R232, R243). -/
  rest : List (List Byte) := []
  syncQ : List (Option Nat) := []
  cur : Option Nat := none
  /-- The departure stamp of the frame started last by TXSTART, once it is known (R250, R254). -/
  depart : Option Nat := none
  /-- The MODE of the latest LINK block of the present training or link, and the tick of that block (R245, R247). -/
  peerMode : Option Nat := none
  linkRxAt : Nat := 0
  /-- What the near-end loopback is bringing back (R265): the frame so far, the stamp of its start block, and the axis-sync frames
  that have come back, with their stamps. -/
  loop : List Byte := []
  loopAt : Nat := 0
  loopSync : List (List Byte × Nat) := []
  /-- The scrambler, the message bits of the codeword in progress and those of the one completed last (R230). -/
  scr : Nat := 0
  msg : List Bool := []
  sentMsg : List Bool := []
  /-- The tick of the last frame sent or received, while the activity signal is high. -/
  active : Option Nat := none
  /-- SEQ of the axis-sync frame sent last, and the frame received last: TILL, arrival stamp and SEQ (R238). -/
  syncSeq : Option Nat := none
  /-- The latest axis-sync frames sent, latest first: departure stamp and SEQ (R239). -/
  syncSent : List (Nat × Nat) := []
  echo : Option (Nat × Nat × Nat) := none
  /-- The tick of the last axis-sync period, and the step counts of the axes at their last frames. -/
  syncAt : Nat := 0
  steps : Tab Nat Nat := []
  /-- The filtered delay in half ticks (R239). -/
  df2 : Int := 0
  /-- The members in service, G, and a disagreement or a mismatch of members (R242, R243). -/
  inG : List Nat := []
  misfit : Bool := false
  /-- Training under way: since which tick, and for which job, or 0xFFFF for none (R245, R247). -/
  training : Option (Nat × Nat) := none
  /-- The accesses of a control-store word collected so far (R259). -/
  csWord : List (Nat × Nat) := []
  qreq : Bool := false
  /-- Codewords decoded so far, and the numbers of the uncorrectable ones among the last 8,192 (R247). -/
  cw : Nat := 0
  unc : List Nat := []
  deriving DecidableEq, Repr

/-- What identifies a chit (R340). `key` holds the other identity of TOKEN_FORCED and TOKEN_ABANDONED. -/
structure ChitId where
  ty : Nat
  src : Nat
  job : Nat
  key : Nat := 0
  deriving DecidableEq, Repr

/-- What a chit carries of its latest occurrence (R339). -/
structure ChitBody where
  count : Nat
  till : Nat
  tally : Option (Nat × Nat)
  data : Nat
  /-- It reports the end of its job (R338). -/
  ends : Bool := false
  /-- The ring that it goes to, once it is in service (R341). -/
  ring : Nat := 0
  deriving DecidableEq, Repr

/-- Where a chit in service stands: waiting to be written, written without the response yet, or in a slot of its ring. -/
inductive ChitStage where
  | waiting
  | inFlight (req : Nat)
  | written (slot : Nat)
  deriving DecidableEq, Repr

/-- A chit in service and the pending chit of its identity (R343). -/
structure Chit where
  id : ChitId
  ring : Nat
  body : ChitBody
  stage : ChitStage := .waiting
  pend : Option ChitBody := none
  /-- An ECC error of its table entry (R397): true for an uncorrectable one. -/
  err : Option Bool := none
  deriving DecidableEq, Repr

/-- Who waits for the response of a host request (R317, R319). -/
inductive HostOwner where
  | order (ring : Nat)
  | chit (ring : Nat)
  | job (num : Nat)
  | trader (t : TraderId)
  | cart (h c : Nat)
  | porter (h k th : Nat)
  | queue (h q : Nat)
  deriving DecidableEq, Repr

/-- A weighted round robin (R271): the credit that each master has left in the present round, its levy where it is not listed,
and the master granted last. -/
structure Arb where
  credit : Tab Nat Nat := []
  last : Nat := 0
  deriving DecidableEq, Repr

/-- A request on a host port (R315): a read of `len` bytes, or a write of `data`. `issued` once it holds a tag. -/
structure HostReq where
  id : Nat
  owner : HostOwner
  hall : Option Nat
  stream : Nat
  port : Nat
  addr : Nat
  len : Nat
  data : List Byte := []
  write : Bool := false
  issued : Bool := false
  /-- The trader address of a store of a trader, for the record of R169. -/
  taddr : Nat := 0
  /-- The master and the queue of the push that is made when a host port accepts this element (R285). -/
  post : Option (Caller × Nat) := none
  deriving DecidableEq, Repr

/-- What has come back for a request: the data of a read, the response of a write, or an error response. -/
inductive HostResp where
  | data (bs : List Byte)
  | ack
  | error (kind : HostErrKind)
  deriving DecidableEq, Repr

/-- A request that is answered and not yet taken by its requester. -/
structure Arrived where
  req : HostReq
  resp : HostResp
  deriving DecidableEq, Repr

/-- The states of a job (R334). -/
inductive JobState where
  | queued | running | suspended | done | cancelled | failed
  deriving DecidableEq, Repr

/-- The code of a job state (R334). -/
def JobState.code : JobState → Nat
  | .queued => 1 | .running => 2 | .suspended => 3 | .done => 4 | .cancelled => 5 | .failed => 6

/-- The payload of a job order (R327). -/
inductive JobBody where
  | loadImage (image len flags : Nat)
  | swapAt (loaded trigger axis dir value : Nat)
  | claim (entries : List Word)
  | release (owner : Nat) (entries : List Word)
  | clear (area hall stall off len : Nat)
  | trainLane (lane : Nat)
  | loadMicrocode (lane patch : Nat)
  | calibrate (axis flags ref dur preset result : Nat)
  | cartJob (hall chan flags head : Nat)
  | power (target resumePl flags : Nat)
  | windDown (axis profile flags timeout : Nat)
  deriving DecidableEq, Repr

/-- A job record (R334 to R338). -/
structure Job where
  num : Nat
  ring : Nat
  htag : Nat
  fence : Bool
  body : JobBody
  state : JobState := .queued
  /-- SUSPENDED from QUEUED (R336). -/
  fromQueued : Bool := false
  suspPend : Bool := false
  cancelPend : Bool := false
  reason : Nat := 0
  acked : Bool := false
  /-- Order of acceptance. -/
  seq : Nat := 0
  /-- The step the job has reached and its progress in it. -/
  stage : Nat := 0
  prog : Nat := 0
  /-- The tick at which it became RUNNING. -/
  began : Nat := 0
  /-- It holds an occupancy of R354, active or shadow. -/
  occupies : Bool := false
  /-- A fetch from host memory (R20): the address of its next byte, the bytes it still lacks, and those that have come. -/
  fetchAt : Nat := 0
  left : Nat := 0
  got : List Byte := []
  deriving DecidableEq, Repr

/-- A general register of a trader, as a destination of a load or a name in a hazard check. -/
inductive GReg where
  | d (i : Nat)
  | a (i : Nat)
  | ac (i : Nat)
  | pc
  | sc (i : Nat)
  | p (i : Nat)
  deriving DecidableEq, Repr

/-- A trap raised and not yet taken (R168): source, detail, address, word and resume point. -/
structure Trap where
  src : Nat
  detail : Nat
  addr : Nat
  word : Nat
  resume : Nat
  deriving DecidableEq, Repr

/-- What a trader waits for (R137 to R142, R145), with the operand read at issue. -/
inductive Wait where
  | none
  | wfe
  | wfb
  | wtu (target : Nat)
  | wpu (axis dir : Nat) (target : Int) (sign : Int)
  | drain
  deriving DecidableEq, Repr

/-- One access of a trader to hall or host memory: the trader address, whether it reaches host memory, the hall offset or
I/O virtual address, and the bytes of a store. -/
structure MemAcc where
  taddr : Nat
  host : Bool
  addr : Nat
  len : Nat
  data : List Byte := []
  /-- The request on the host port, once made. -/
  req : Option Nat := none
  deriving DecidableEq, Repr

/-- An access of an outstanding load (R86, R89): its value once read, forwarded or answered, the BUS_ERR detail of an error
response (0: none), and whether the response has come. -/
structure LoadAcc where
  acc : MemAcc
  got : List Byte := []
  err : Nat := 0
  fin : Bool := false
  deriving DecidableEq, Repr

/-- An outstanding load: its destination, its accesses in ascending order of address, the owned slot before which it does not
land (R81, R89), and whether its second access is still to be made (R68). -/
structure Load where
  dst : GReg
  accs : List LoadAcc
  due : Nat := 0
  part : Bool := false
  deriving DecidableEq, Repr

/-- An instruction in progress (R63, R68, R127): its word, the slots still to come, whether its guard is false, the bytes that its
accesses have read, and whether it still waits in its first slot. -/
structure Prog where
  word : Nat
  left : Nat
  nul : Bool := false
  got : List Byte := []
  first : Bool := false
  deriving DecidableEq, Repr

/-- An operation passed to an integrator's coprocessor (R123, R426): unit, fields, guard outcome and trader number, and the owned
slot of its declared latency, where an image in force declares one (R351). -/
structure CpxOp where
  unit : Nat
  op : Nat
  cd : Nat
  ca : Nat
  cb : Nat
  xf : Nat
  guard : Bool
  trader : Nat
  due : Option Nat := none
  deriving DecidableEq, Repr

/-- The operations of the token facility and of the queues (R275, R285). -/
inductive AtomOp where
  | acquire (word : Nat)
  | release (word : Nat) (force : Bool)
  | reserve (q : Nat)
  | commit (q slot : Nat)
  | abort (q : Nat)
  | push (q : Nat) (bytes : List Byte)
  | take (q : Nat)
  | done (q slot : Nat)
  | ret (q : Nat)
  | pop (q : Nat)
  deriving DecidableEq, Repr

/-- The kinds of queue operation (R285). -/
inductive QOp where
  | reserve | commit | abort | push | take | done | ret | pop
  deriving DecidableEq, Repr

/-- An operation of a host agent that waits until a pop gives the queue free (R285): hall, agent, queue, operation. -/
structure AgentOp where
  h : Nat
  a : Nat
  q : Nat
  op : QOp
  deriving DecidableEq, Repr

/-- An operation access of a trader (R281, R282): its address and direction, the instruction word, whether the hall has made
it, the bytes of its answer, and whether the answer has arrived at the trader. `pre` holds the bytes of the load below the
operation register, `n` the number of bytes of the load. -/
structure AtomReq where
  op : AtomOp
  addr : Nat
  write : Bool
  word : Nat
  pre : List Byte := []
  n : Nat := 0
  done : Bool := false
  answer : List Byte := []
  arrived : Bool := false
  deriving DecidableEq, Repr

/-- The debug port (R428): DBG_EN, breakpoints, and test mode (R210). -/
structure Debug where
  en : Bool := false
  breakpoints : Bool := false
  test : Bool := false
  deriving DecidableEq, Repr

/-- The bell watch of a trader (R141). -/
structure BellWatch where
  dev : Bool
  bell : Nat
  isSet : Bool
  deriving DecidableEq, Repr

/-- The loop buffer of a trader (R73): the body it holds and the instructions taken into it. -/
structure LoopBuf where
  ls : Nat
  le : Nat
  words : List (Nat × Nat)
  deriving DecidableEq, Repr

/-- A Scale result that has not landed (R146): the slot, the destination, the value, the SC_STATUS bits. -/
structure ScPend where
  due : Nat
  dst : Nat
  value : Nat
  flags : Nat
  deriving DecidableEq, Repr

/-- The budget of one level of a trader (R358): count, limit (none: no limit), marker, and whether BUDGET was raised. -/
structure Budget where
  count : Nat := 0
  limit : Option Nat := none
  marker : Nat := 0
  fired : Bool := false
  deriving DecidableEq, Repr

/-- An entry of a live-token table (R276). -/
structure TokEntry where
  word : Nat
  owner : Nat
  strict : Bool
  deriving DecidableEq, Repr

/-- A pop from a host-memory queue whose element has not come back (R285): who popped, and the request on the host
port. -/
structure HostPop where
  h : Nat
  q : Nat
  by_ : Caller
  req : Nat
  deriving DecidableEq, Repr

/-- A trader (R102, R109): the registers no address reaches, and the work in flight. -/
structure Trader where
  running : Bool := false
  halted : Bool := false
  pc : Nat := 0
  d : Vector Byte 8 := Vector.replicate 8 0
  a : Vector Half 8 := Vector.replicate 8 0
  ac : Vector Acc24 4 := Vector.replicate 4 0
  p : Vector Bool 8 := Vector.replicate 8 false
  mrh : Half := 0
  mrl : Half := 0
  ls : Vector Half 3 := Vector.replicate 3 0
  le : Vector Half 3 := Vector.replicate 3 0
  lc : Vector Half 3 := Vector.replicate 3 0
  z : Bool := false
  n : Bool := false
  c : Bool := false
  v : Bool := false
  sup : Bool := false
  bnk : Nat := 0
  hbk : Nat := 0
  host : Bool := false
  sc : Vector Word 16 := Vector.replicate 16 0
  /-- The rotation of its stall in which its latest owned slot fell (R62). -/
  slot : Nat := 0
  /-- The first rotation in which it owns slots since its start (R328). -/
  startRot : Nat := 0
  /-- An instruction in progress. -/
  prog : Option Prog := none
  /-- The level whose entry slot E2 is to come (R158), and the level whose exit slots are to come, true once X1 has been made
  (R164). -/
  entering : Option Nat := none
  exiting : Option (Nat × Bool) := none
  /-- Products under way (R91): the slot at whose start one lands, MRH, MRL. -/
  mul : List (Nat × Half × Half) := []
  scq : List ScPend := []
  /-- The latest owned slot at which flags of SC_STATUS were set, and those flags (R9, R110). -/
  scSet : Nat × Nat := (0, 0)
  loads : List Load := []
  stores : List MemAcc := []
  wait : Wait := .none
  watch : Option BellWatch := none
  trap : Option Trap := none
  /-- The record of a BUS_ERR that is pending: detail and trader address (R169). -/
  busErr : Nat × Nat := (0, 0)
  lbuf : Option LoopBuf := none
  /-- A word fetched through the line buffer that has not issued yet (R77): its PC. -/
  fetched : Option (Nat × Nat) := none
  /-- The fill of that word met a double-bit error (R77, R168). -/
  badFill : Bool := false
  missing : Bool := false
  /-- The 64-bit read latch (R23) and the write latch (R24): the register, and the bytes by number. -/
  rlatch : Option (Reg × Nat) := none
  wlatch : Option (Reg × List (Nat × Byte)) := none
  budget : Vector Budget 5 := Vector.replicate 5 {}
  /-- The marker recorded when BUDGET was raised last (R360). -/
  overMarker : Nat := 0
  /-- Operations passed to integrator's coprocessors that have not come back, oldest first (R84, R426). -/
  cpOut : List CpxOp := []
  /-- The bytes of its latest store into the window of a coprocessor CP1 to CP7, by trader address (R426). -/
  cpWin : List (Nat × Byte) := []
  /-- The operation access in progress (R281). -/
  atom : Option AtomReq := none
  /-- The replay record of each level, and operations on their way to the hall whose record was cleared (R282). -/
  replay : Vector (Option AtomReq) 5 := Vector.replicate 5 none
  orphans : List AtomOp := []
  /-- Started by the boot ROM and still in it (R379). -/
  inRom : Bool := false
  /-- The tick of the latest writes of its selectors, with what the registers EV_HSELk held before it, by first selector; the level
  entered or exited last, with the tick; and the tick of the latest write of a record, with the ER_CTX and the ER_BANK it held before,
  by record (R170). -/
  hselWas : Nat × Tab Nat Nat := (0, [])
  moved : Nat × Nat := (0, 0)
  recWas : Tab Nat (Nat × Nat × Nat) := []
  deriving DecidableEq, Repr

/-- A cause that a hall or the device has registered and not yet acted on: a cause of a stall fail-over (R403: hall,
physical stall, code), or a fault of the wind-down class (R411: cause code, axis or hall). -/
inductive FaultCause where
  | failover (h f code : Nat)
  | wind (cause n : Nat)
  deriving DecidableEq, Repr

/-- The latches of a host port for registers of 64 bits (R23): the register read last with its value, and the low word
written last. -/
structure PortLatch where
  r : Option (Reg × Nat) := none
  w : Option (Reg × Nat) := none
  deriving DecidableEq, Repr

/-- An entry of a section table (R347). -/
structure Sect where
  ty : Nat
  hall : Nat
  unit : Nat
  off : Nat
  len : Nat
  crc : Nat
  deriving DecidableEq, Repr

/-- An image that a LOAD_IMAGE job loads or has loaded (R346 to R356): its bytes as fetched so far, the sections taken, the
claim commit, and whether its content is in force (a direct load, or after its swap). -/
structure Image where
  job : Nat
  shadow : Bool
  buf : List Byte
  taken : Nat := 0
  committed : Bool := false
  live : Bool := false
  /-- A shadow load whose content has been swapped in. -/
  swapped : Bool := false
  deriving DecidableEq, Repr

/-- A SWAP_AT that has reserved its marks (R362 to R367): its job, the image's job, the marks by hall, the committed
instant, whether the halls have switched, and the role stalls and barrows that have not switched yet. -/
structure Swap where
  job : Nat
  loaded : Nat
  marks : List (Nat × Nat)
  till : Option Nat := none
  inst : Option Nat := none
  switched : Bool := false
  stalls : List (Nat × Nat) := []
  barrows : List (Nat × Nat) := []
  deriving DecidableEq, Repr

/-- A place of the host window that is memory (R321). -/
inductive WinMem where
  | hall (h o : Nat)
  | ram (h f o : Nat)
  | imem (h f page o : Nat)
  | crier (h b page w : Nat)
  | store (h k o : Nat)
  deriving DecidableEq, Repr

/-- A stall fail-over under way in a hall (R404): the role, the failed stall, the cause, the tick of D, the traders that ran
at D, whether step 4 has been made, and the cause that has arisen in S8 meanwhile. -/
structure Failover where
  role : Nat
  f : Nat
  cause : Nat
  at_ : Nat
  ran : Nat
  switched : Bool := false
  spareCause : Option Nat := none
  deriving DecidableEq, Repr

/-- The steps of a transition of power that wait for a happening of their own (R379, R382, R384, R390). -/
inductive PowerStep where
  | none
  /-- The supply settles, then the idle core PLL locks (a raise). -/
  | raiseSupply (target : Nat)
  | raiseLock (target : Nat)
  /-- The idle core PLL locks, then the supply settles (a lower). -/
  | lowerLock (target : Nat)
  | lowerSupply (target : Nat)
  /-- Entry to NAP (5) or OFF (6). -/
  | entering (target : Nat)
  | asleep (target : Nat)
  deriving DecidableEq, Repr

/-- The power sequencer, but for what its registers show. -/
structure Power where
  step : PowerStep := .none
  /-- The POWER job in transition; none for a throttle or a boot. -/
  job : Option Nat := none
  /-- The state left by the wake under way: 5 NAP or 6 OFF. -/
  left : Option Nat := none
  /-- RESUME_PL of the latest NAP. -/
  resume : Nat := 0
  /-- The sequence of the boot ROM has locked the core PLL. -/
  romRuns : Bool := false
  /-- A wake source fired during the entry (R391). -/
  woken : Bool := false
  /-- Doorbells kept by the sleep agent, by ring (R389). -/
  doors : Tab Nat Nat := []
  /-- The thermal level, and the performance level before a throttle (R410). -/
  thermal : Nat := 0
  before : Option Nat := none
  /-- A throttle that waits for the end of a transition: to begin (true) or to end. -/
  throttle : Option Bool := none
  /-- The voltage-request outputs VREQ[2:0] (R420), and PORST_N and RESET_N held low (R418). -/
  vreq : Nat := 0
  porst : Bool := false
  rst : Bool := false
  /-- Levels of the wake pins at their latest change, by slot and pin. -/
  levels : Tab (Nat × Nat) Bool := []
  /-- The I²C matcher drives this pin low: an acknowledge (R388). -/
  ack : Option Nat := none
  /-- The tick of the latest supply request (R381). -/
  since : Nat := 0
  deriving DecidableEq, Repr

/-- A descriptor of a cart channel (R294). -/
structure Desc where
  src : Nat
  dst : Nat
  cnt : Nat
  flags : Nat
  next : Nat
  deriving DecidableEq, Repr

/-- Where the descriptor that a channel loads next comes from: the register descriptor, hall or host memory, or the
descriptor queue (R296, R297). -/
inductive CartLoad where
  | reg
  | mem (host : Bool) (addr : Nat) (req : Option Nat)
  | dq
  deriving DecidableEq, Repr

/-- A filled slot of the cart buffer (R291): its channel, the offset of its first byte in the descriptor, its bytes, and a bit
error of its words: true for a double-bit one. -/
structure Slot where
  c : Nat
  off : Nat
  data : List Byte
  err : Option Bool := none
  deriving DecidableEq, Repr

/-- What a report of R305 tells: the status, the residue, the CRC, CH_DCOUNT and CH_CUR at the end, the job, and whether the
channel ends with it. -/
structure CartReport where
  status : Nat
  residue : Nat
  crc : Nat
  dcount : Nat
  cur : Nat
  job : Nat
  ends : Bool
  deriving DecidableEq, Repr

/-- A descriptor whose last write has been issued and that waits for acknowledgements (R303, R304): its number in the run,
whether the chain waits for it, the number of the chain's first descriptor, its queue endpoints, its report; and whether that
report's status record is on its way. -/
structure Fin where
  seq : Nat
  gate : Bool
  chain : Nat
  src : Option Nat
  dst : Option Nat
  report : Option CartReport
  wrote : Bool := false
  deriving DecidableEq, Repr

/-- A cart channel (R296 to R311), but for what its registers show. -/
structure Chan where
  act : Bool := false
  job : Nat := 0
  load : Option CartLoad := none
  desc : Option Desc := none
  /-- The number of the descriptor at hand, and that of the first one of its chain. -/
  seq : Nat := 0
  chain : Nat := 0
  /-- Bytes read into slots, and bytes whose write has been issued. -/
  rd : Nat := 0
  wr : Nat := 0
  crc : Nat := 0
  /-- Slots of elements taken from a source queue and reserved in a destination queue. -/
  taken : List Nat := []
  rsvd : List Nat := []
  /-- The element of the descriptor queue that is held. -/
  dqHeld : Bool := false
  /-- A take found the source queue, or the descriptor queue, empty; a reserve found the destination queue full. -/
  waitsSrc : Bool := false
  waitsDst : Bool := false
  /-- The burst being read from host memory: its length and its requests. -/
  reading : Option (Nat × List Nat) := none
  /-- The requests of the burst being written to the host that wait for their tags (R318). -/
  writing : Option (List Nat) := none
  /-- Burst writes without an acknowledgement: descriptor and requests (none for a write to hall memory). -/
  out : List (Nat × List Nat) := []
  fins : List Fin := []
  /-- The chain has run out: its last descriptor has been issued. -/
  ended : Bool := false
  aborting : Bool := false
  credit : Nat := 256
  creditAt : Nat := 0
  /-- The hall cycle in which the start of this run was accepted (R310, R311). -/
  begun : Option Nat := none
  deriving DecidableEq, Repr

/-- A line of the instruction cache (R76): set, way, the hall offset of its first byte and its bytes. -/
structure ILine where
  set : Nat
  way : Nat
  base : Nat
  bytes : List Byte
  deriving DecidableEq, Repr

/-- A stall (R76 to R78): its cache, the line being filled, the state of the pseudo-least-recently-used replacement by set, and
an invalidation under way. -/
structure Stall where
  lines : List ILine := []
  plru : Tab Nat Nat := []
  fill : Option Nat := none
  inval : Bool := false
  /-- The tick at which its latest swap rotation ends (R365, R367). -/
  swapEnd : Nat := 0
  deriving DecidableEq, Repr

/-- What a hall does at a clock edge of its own after an instant (R47, R211): a ring of a hall bell or of a device bell, a hall
event, the start of a cart channel by a mark, or the abort of a channel in a hall cycle in which its descriptor may still complete. -/
inductive EdgeDo where
  | bell (n : Nat)
  | devBell (n : Nat)
  | event (num : Nat)
  | cart (m ch : Nat)
  | abort (ch seq : Nat)
  deriving DecidableEq, Repr

/-- Such an act: its hall, and the tick of the edge. -/
structure EdgeAct where
  h : Nat
  due : Nat
  act : EdgeDo
  deriving DecidableEq, Repr

/-- A bell ring, a mark action or a kick on its way to the barrows that have not had it yet (R194). -/
structure Delivery where
  h : Nat
  src : DeliverySrc
  due : Nat
  todo : List Nat
  deriving DecidableEq, Repr

end Sys2Proof.Machine
end

