-- ==== Sys2Proof/Machine/State.lean ====
section
/-! DEFINITION. The state of the tile, the ways a command can stop, and the machine at power-on. -/

namespace Sys2Proof.Machine

/-- Why the machine stops with a fault. No command of the tile stops it: an error the spec describes is an effect on the
state. -/
inductive Fault where
  /-- Raised by nothing: kept so that the type is not empty. Safe. -/
  | none
  deriving DecidableEq, Repr

/-- Why a command has no meaning. -/
inductive Refusal where
  /-- An arm of `exec` whose command has no meaning yet. Safe: nothing follows from a refused command. -/
  | notModelled (mnemonic : String)
  deriving DecidableEq, Repr

/-- The tile. -/
structure State where
  /-- What the part and the integrator fix. -/
  part : Part
  /-- The present single tick (R25). -/
  tick : Nat
  till : Till
  /-- Every register of a register table; one that is not listed has its value at reset. -/
  regs : Tab Reg Dword
  /-- Bits of W1C fields that the hardware set last, with the tick in which it did, and bits that a W1S write set last, with
  its tick: R9 compares accesses of one cycle. -/
  hwSet : Tab Reg (Nat × Nat)
  swSet : Tab Reg (Nat × Nat)
  /-- The SRAM arrays. -/
  mem : Memory
  /-- Words of SRAM that carry a bit error, by array code of R397 and word: true for an uncorrectable one. No command
  makes an error; a fail-over copies them (R404). -/
  ecc : Tab (Nat × Nat) Bool
  axes : Tab Nat Axis
  marks : Tab (Nat × Nat) Mark
  counters : Tab (Nat × Nat) Counter
  pins : Tab (Nat × Nat) PinState
  criers : Tab CrierId Crier
  /-- Criers before the port accesses of the crier cycles that they have not passed, and what each wrote in its latest cycle
  (R192). -/
  crWas : Tab CrierId CrierWas
  crDid : Tab CrierId CrierDid
  barrows : Tab (Nat × Nat) Barrow
  lanes : Tab (Nat × Nat) Lane
  threads : Tab (Nat × Nat × Nat) Thread
  /-- Cart channels, and the filled slots of each hall's cart buffer, oldest first. -/
  chans : Tab (Nat × Nat) Chan
  slots : Tab Nat (List Slot)
  /-- The channel that each hall's read engine served last (R292). -/
  cartTurn : Tab Nat Nat
  /-- The observations of CALIBRATE_AXIS jobs, by job number. -/
  calibs : Tab Nat Calib
  wind : Option Wind
  traders : Tab TraderId Trader
  stalls : Tab (Nat × Nat) Stall
  /-- The number of the next slot of each stall, counted from the release of its reset (R62). -/
  stallSlot : Tab (Nat × Nat) Nat
  deliveries : List Delivery
  /-- What halls do at their next clock edges, oldest first (R47, R211). -/
  edgeActs : List EdgeAct
  /-- The live-token table of each hall (R276). -/
  tokens : Tab Nat (List TokEntry)
  hostPops : List HostPop
  /-- Bells and hall events of counters that NAP or OFF holds back until the wake (R61): hall, and a bell or an event
  number. -/
  deferred : List (Nat × Bool × Nat)
  /-- Chits in service, in the order in which they were raised (R343). -/
  chits : List Chit
  /-- Requests on the host ports without an answer, in program order, and answers not yet taken. -/
  reqs : List HostReq
  arrived : List Arrived
  nextReq : Nat
  /-- The round robins of the halls' paths to the host ports, and of the host ports among the halls (R271). -/
  pathArb : Tab Nat Arb
  portArb : Tab Nat Arb
  /-- The round robins of the halls' atomic units (R271, R280). -/
  atomArb : Tab Nat Arb
  /-- Operations of host agents that wait for the end of a pop, oldest first (R285). -/
  agentWait : List AgentOp
  /-- The order ring that the order engine served last (R323). -/
  orderTurn : Nat
  jobs : List Job
  jobSeq : Nat
  /-- Images loaded or being loaded, by job; swaps and fail-overs under way; the axis and the profile of the last image
  with profiles (R369); patches fetched by LOAD_MICROCODE jobs (R261); the power sequencer. -/
  images : List Image
  swaps : List Swap
  failovers : Tab Nat Failover
  /-- Accesses that a fail-over (R404) or the clear of the memories (R377) holds, and those of the same port behind them (R321), oldest
  first: the port, the hall whose unit holds the port, and the command. -/
  held : List (Nat × Nat × Instr)
  windDefault : Nat × Nat
  patches : Tab Nat (List Byte)
  power : Power
  dbg : Debug
  /-- Causes of fail-over and of wind-down that are registered in this step (R403, R411). -/
  faults : List FaultCause
  /-- The counters of corrected errors, by hall, whose chit has been raised since they were read (R399). -/
  corrTold : List (Nat × Nat)
  /-- The latches of the host ports (R23). -/
  ports : Tab Nat PortLatch
  /-- What the latest read through a host port returned: its word, or the low word of it, and all its bytes. -/
  readOut : Word
  readData : List Byte
  /-- That read met uncorrectable data and received an error response (R321). -/
  readErr : Bool
  /-- Free values taken so far (the model's own). -/
  freeIx : Nat
  /-- The commands that wait, first in, first out. -/
  pending : List Instr
  deriving DecidableEq, Repr

/-- The tile right after power-on: every register at its value at reset, nothing in memory, no command waiting. -/
def State.reset : State where
  part := ⟨.HK1024, 0, 0, 0⟩
  tick := 0
  till := {}
  regs := []
  hwSet := []
  swSet := []
  mem := []
  ecc := []
  axes := []
  marks := []
  counters := []
  pins := []
  criers := []
  crWas := []
  crDid := []
  barrows := []
  lanes := []
  threads := []
  chans := []
  slots := []
  cartTurn := []
  calibs := []
  wind := none
  traders := []
  stalls := []
  stallSlot := []
  deliveries := []
  edgeActs := []
  tokens := []
  hostPops := []
  deferred := []
  chits := []
  reqs := []
  arrived := []
  nextReq := 0
  pathArb := []
  portArb := []
  atomArb := []
  agentWait := []
  orderTurn := 15
  jobs := []
  jobSeq := 0
  images := []
  swaps := []
  failovers := []
  held := []
  windDefault := (0, 0)
  patches := []
  power := {}
  dbg := {}
  faults := []
  corrTold := []
  ports := []
  readOut := 0
  readData := []
  readErr := false
  freeIx := 0
  pending := []

end Sys2Proof.Machine
end

