-- ==== Sys2Proof/Machine/Ops.lean ====
section
/-! DEFINITION. The named operations over the state: registers and their fields, the till, the position of an axis,
chits, requests on the host ports, jobs, hall events and bells. -/

namespace Sys2Proof

open Machine

/-- The instance of a per-trader register. -/
def TraderId.ix (t : TraderId) : Machine.Ix := ⟨t.h, t.s, t.t, 0⟩

/-- The instance of a register of a trader's event level. -/
def TraderId.lvl (t : TraderId) (n : Nat) : Machine.Ix := ⟨t.h, t.s, t.t, n⟩

/-- The instance of a register of a trader's stall. -/
def TraderId.st (t : TraderId) : Machine.Ix := ⟨t.h, t.s, 0, 0⟩

/-- The instance of a register of a crier. -/
def CrierId.ix (c : CrierId) : Machine.Ix := ⟨c.h, c.b, c.c, 0⟩

/-- The instance of a register of a crier's barrow. -/
def CrierId.br (c : CrierId) : Machine.Ix := ⟨c.h, c.b, 0, 0⟩

/-- The words of 64 bits of an access that collided, the first one being bit 0 (R268). -/
def MemOutcome.words : MemOutcome → Nat
  | .collide m | .collideA m => m
  | _ => 0

/-- The access collided, and its master was granted port B: it receives HM_BUSY (R268). -/
def MemOutcome.busy : MemOutcome → Bool
  | .collide _ => true
  | _ => false

end Sys2Proof

namespace Sys2Proof.Machine

/-- What a command answers. -/
abbrev Out := Host.Outcome State Fault Refusal

/-! ## The part (R1) -/

/-- The number of halls. -/
def Part.halls (p : Part) : Nat := match p.variant with | .HK512 => 4 | _ => 8

/-- The number of stalls of a hall, the spare included. -/
def Part.stalls (p : Part) : Nat := match p.variant with | .HK1024E => 8 | _ => 9

/-- The number of lanes. -/
def Part.lanes (p : Part) : Nat := match p.variant with | .HK1024 => 32 | .HK1024E => 0 | .HK512 => 16

/-- Whether the Scale coprocessor is present. -/
def Part.scale (p : Part) : Bool := match p.variant with | .HK1024E => false | _ => true

/-- DEV_STOCK_ID.VARIANT. -/
def Part.code (p : Part) : Nat := match p.variant with | .HK1024 => 1 | .HK1024E => 2 | .HK512 => 3

/-- DEV_STOCK_UNITS.CP_MAP: bit n tells whether CPn is present. -/
def Part.cpMap (p : Part) : Nat := b2n p.scale + 2 * (bits p.cpTies 7 1)

/-- The value of a register at reset, with the values that the tables give by variant or by instance. -/
def Reg.resetValue (p : Part) (r : Reg) : Nat :=
  match r.name with
  | .DEV_STOCK_ID => 0x48000010 + p.code * 0x10000 + (p.stepping % 256) * 0x100
  | .DEV_STOCK_UNITS => (2 ^ p.halls - 1) + p.cpMap * 0x100 + b2n (p.stalls == 9) * 0x10000
  | .DEV_STOCK_LANES => 2 ^ p.lanes - 1
  | .DEV_STOCK_PINS => 2 ^ (2 * p.halls) - 1
  | .WK_PIN => r.a
  | .PIN_CFG | .PIN_CFG_SH => r.name.rst + (if 128 * r.a + r.b < 64 then 0x4000 else 0)
  | .LN_GROUP => 2 ^ (24 + r.b)
  | .LN_LAT => (Config.lnLat 0).toNat
  | .CE_WIN_BASE => if r.b = 0 then 2 ^ 63 else 0
  | .CE_WIN_LAST => if r.b = 0 then 0x3FFFFF else 0
  | .STL_SELF => (r.a % 8) <<< 29 + (r.b % 16) <<< 25 + (r.b % 16) <<< 21
  | .FT_STALL => (if p.stalls ≤ r.b then 5 else if r.b = 8 then 1 else 0) <<< 29
  | n => n.rst

/-- The hall is present (R1, R4). -/
def State.inHall (s : State) (h : Nat) : Bool := decide (h < s.part.halls)

/-- The stall is present. -/
def State.inStall (s : State) (h f : Nat) : Bool := s.inHall h && decide (f < s.part.stalls)

/-- The lane and its porter are present. -/
def State.inLane (s : State) (h k : Nat) : Bool := s.inHall h && decide (k < 4) && decide (4 * h + k < s.part.lanes)

/-- Whoever makes the access reaches the units of a hall: a host port those of every present hall, a trader those of its own
(R4, R13). -/
def State.reachesHall (s : State) (by_ : Accessor) (h : Nat) : Bool :=
  s.inHall h && (match by_ with | .host _ => true | .trader t => t.h == h)

/-- Whoever makes the access reaches the registers of a stall: a trader those of its own stall (R13, R96). -/
def State.reachesStall (s : State) (by_ : Accessor) (h f : Nat) : Bool :=
  s.inStall h f && (match by_ with | .host _ => true | .trader t => t.h == h && t.s == f)

/-- The fail-over under way in a hall. -/
def State.failover (s : State) (h : Nat) : Option Failover := Tab.find s.failovers h

/-- The blocks of the failed stall and of S8 are held until step 4 of a fail-over (R404). -/
def State.stallBusy (s : State) (h f : Nat) : Bool :=
  match s.failover h with
  | some o => !o.switched && (f == o.f || f == 8)
  | none => false

/-- The ticks of a hall cycle: 1.6 GHz, or the FIO's 400 MHz before the till PLL locks (R6, R378). -/
def State.hallCycle (s : State) : Nat := if s.till.clk = .pll then 10 else 40

/-- The first hall-clock edge at or after a tick. -/
def State.hallEdge (s : State) (t : Nat) : Nat := (t + s.hallCycle - 1) / s.hallCycle

/-- The hall-clock edges after tick `a` up to tick `b`, of which those before the latest change of the till's clock are FIO edges. -/
def State.edgesIn (s : State) (a b : Nat) : Nat :=
  if s.till.clk == .pll && decide (a < s.till.base) then s.till.base / 40 - a / 40 + (b / 10 - s.till.base / 10)
  else b / s.hallCycle - a / s.hallCycle

/-- Something that a hall does at its first clock edge at or after a tick: DESIGN CHOICE (assumption log 125): the edges lie at
the multiples of the hall cycle. -/
def State.atEdge (s : State) (h at_ : Nat) (d : EdgeDo) : State :=
  { s with edgeActs := s.edgeActs ++ [⟨h, s.hallEdge at_ * s.hallCycle, d⟩] }

/-- A write of a whole register of a stall's block by the host is held (R404). -/
def State.holdsWord (s : State) (by_ : Accessor) (h f : Nat) : Option Nat :=
  match by_ with
  | .host p => if s.stallBusy h f then some p else none
  | .trader _ => none

/-! ## Registers -/

/-- An external reset input is low (R418). -/
def Power.held (p : Power) : Bool := p.porst || p.rst

/-- The value of a register as it is held. -/
def State.rd (s : State) (r : Reg) : Nat :=
  match Tab.find s.regs r with
  | some v => v.toNat
  | none => r.resetValue s.part

/-- The register `r` set to `v`. -/
def State.wr (s : State) (r : Reg) (v : Nat) : State := { s with regs := Tab.set s.regs r (BitVec.ofNat 64 v) }

/-- A field of an instance of a register. -/
def State.get (s : State) (f : Field) (i : Ix := {}) : Nat := bits (s.rd (i.reg f.reg)) f.hi f.lo

/-- A field of an instance of a register set to `v`. -/
def State.put (s : State) (f : Field) (i : Ix) (v : Nat) : State :=
  s.wr (i.reg f.reg) (setBits (s.rd (i.reg f.reg)) f.hi f.lo v)

/-- A field of one bit, as a truth value. -/
def State.is (s : State) (f : Field) (i : Ix := {}) : Bool := s.get f i == 1

/-- The arrays are still being cleared (R377). -/
def State.clearing (s : State) : Bool := !s.is PWR_STATUS.MEM_CLEAR

/-- The bits noted for a register at the present tick. -/
def notedAt (t : Tab Reg (Nat × Nat)) (r : Reg) (tick : Nat) : Nat :=
  match Tab.find t r with
  | some (k, m) => if k = tick then m else 0
  | none => 0

/-- Bits `m` of a register noted at the present tick. -/
def noteAt (t : Tab Reg (Nat × Nat)) (r : Reg) (tick m : Nat) : Tab Reg (Nat × Nat) :=
  Tab.set t r (tick, notedAt t r tick ||| m)

/-- The bits `m` of a W1C field noted as set by the hardware in this tick (R9). -/
def State.noteHw (s : State) (f : Field) (i : Ix) (m : Nat) : State :=
  { s with hwSet := if f.acc == .W1C && m != 0 then noteAt s.hwSet (i.reg f.reg) s.tick (m <<< f.lo) else s.hwSet }

/-- The bits `m` of a field noted as set by a W1S write in this tick (R9). -/
def State.noteSw (s : State) (f : Field) (i : Ix) (m : Nat) : State :=
  { s with swSet := noteAt s.swSet (i.reg f.reg) s.tick (m <<< f.lo) }

/-- A field of one bit set to a truth value. -/
def State.set (s : State) (f : Field) (i : Ix) (b : Bool) : State := (s.put f i (b2n b)).noteHw f i (b2n b)

/-- A field of one bit that the hardware sets at instant `at_`, which the command may tell later: R9 compares that instant. -/
def State.setAt (s : State) (f : Field) (i : Ix) (at_ : Nat) : State := if at_ = s.tick then s.set f i true else s.put f i 1

/-- The bits `m` of a field set. -/
def State.orIn (s : State) (f : Field) (i : Ix) (m : Nat) : State := (s.put f i (s.get f i ||| m)).noteHw f i m

/-- The bits `m` of a field of `w` bits cleared. -/
def State.clrIn (s : State) (f : Field) (i : Ix) (m : Nat) : State :=
  s.put f i (s.get f i &&& ((2 ^ (f.hi + 1 - f.lo) - 1) ^^^ (m % 2 ^ (f.hi + 1 - f.lo))))

/-- A W1C write of `m` to a field: a bit that the hardware sets in this tick stays set (R9). -/
def State.w1c (s : State) (f : Field) (i : Ix) (m : Nat) : State :=
  s.clrIn f i (bitsOff m (notedAt s.hwSet (i.reg f.reg) s.tick >>> f.lo))

/-- The hardware clears the bits `m` of a field: a bit that a W1S write sets in this tick stays set (R9). -/
def State.hwClr (s : State) (f : Field) (i : Ix) (m : Nat) : State :=
  s.clrIn f i (bitsOff m (notedAt s.swSet (i.reg f.reg) s.tick >>> f.lo))

/-- A W1S write of `m` to a field (R8, R9). -/
def State.w1s (s : State) (f : Field) (i : Ix) (m : Nat) : State := (s.put f i (s.get f i ||| m)).noteSw f i m

/-- A write by the access codes of the fields (R8, R9). -/
def State.fieldWrite (s : State) (r : Reg) (v : Nat) : State :=
  let i : Ix := ⟨r.a, r.b, r.c, r.d⟩
  forAll r.name.fields (fun f s =>
    let x := bits v f.hi f.lo
    match f.acc with
    | .RW => s.put f i x
    | .W1C => s.w1c f i x
    | .W1S => s.w1s f i x
    | _ => s) s

/-- Every register that `p` names at its value at reset. -/
def State.resetRegs (s : State) (p : Reg → Bool) : State :=
  { s with regs := Tab.delIf s.regs p, hwSet := Tab.delIf s.hwSet p, swSet := Tab.delIf s.swSet p }

/-- A counting register of 32 bits (RC), one higher, saturating. -/
def State.count (s : State) (f : Field) (i : Ix) (n : Nat := 1) : State := s.put f i (satAdd (f.hi + 1 - f.lo) (s.get f i) n)

/-! ## Typed state -/

/-- A tally axis. -/
def State.axis (s : State) (n : Nat) : Axis := Tab.get s.axes n {}
def State.setAxis (s : State) (n : Nat) (a : Axis) : State := { s with axes := Tab.set s.axes n a }

/-- A tally mark of a hall. -/
def State.mark (s : State) (h m : Nat) : Mark := Tab.get s.marks (h, m) {}
def State.setMark (s : State) (h m : Nat) (a : Mark) : State := { s with marks := Tab.set s.marks (h, m) a }

/-- A counter of a hall. -/
def State.counter (s : State) (h c : Nat) : Counter := Tab.get s.counters (h, c) {}
def State.setCounter (s : State) (h c : Nat) (a : Counter) : State := { s with counters := Tab.set s.counters (h, c) a }

/-- A pin of a hall. -/
def State.pin (s : State) (h i : Nat) : PinState := Tab.get s.pins (h, i) {}
def State.setPin (s : State) (h i : Nat) (a : PinState) : State := { s with pins := Tab.set s.pins (h, i) a }

/-- A trader. -/
def State.trader (s : State) (t : TraderId) : Trader := Tab.get s.traders t {}
def State.setTrader (s : State) (t : TraderId) (a : Trader) : State := { s with traders := Tab.set s.traders t a }

/-- A stall. -/
def State.stall (s : State) (h n : Nat) : Stall := Tab.get s.stalls (h, n) {}
def State.setStall (s : State) (h n : Nat) (a : Stall) : State := { s with stalls := Tab.set s.stalls (h, n) a }

/-- The traders of a hall's stall. -/
def tradersOf (h s : Nat) : List TraderId := (List.range 16).map (fun t => ⟨h, s, t⟩)

/-- A crier. -/
def State.crier (s : State) (c : CrierId) : Crier := Tab.get s.criers c {}
def State.setCrier (s : State) (c : CrierId) (a : Crier) : State := { s with criers := Tab.set s.criers c a }

/-- A barrow. -/
def State.barrow (s : State) (h b : Nat) : Barrow := Tab.get s.barrows (h, b) {}
def State.setBarrow (s : State) (h b : Nat) (a : Barrow) : State := { s with barrows := Tab.set s.barrows (h, b) a }

/-- A lane with its porter, and a porter thread. -/
def State.lane (s : State) (h k : Nat) : Lane := Tab.get s.lanes (h, k) {}
def State.setLane (s : State) (h k : Nat) (a : Lane) : State := { s with lanes := Tab.set s.lanes (h, k) a }
def State.thread (s : State) (h k th : Nat) : Thread := Tab.get s.threads (h, k, th) {}
def State.setThread (s : State) (h k th : Nat) (a : Thread) : State := { s with threads := Tab.set s.threads (h, k, th) a }

/-! ## Memory and its errors (R397) -/

/-- The code of a memory array in R397. -/
def Arr.code : Arr → Nat
  | .imem _ _ _ => 1
  | .shared _ _ => 5
  | .slice _ _ _ => 6
  | .crierPage _ _ _ => 8
  | .hallMem _ => 9
  | .cstore _ _ => 0xD

/-- The first byte and the number of bytes of the word that a mark of an array of code `k` stands for: hall memory has words of
64 bits (R266), the other arrays words of 32. -/
def eccSpan (k w : Nat) : Nat × Nat := if k = 9 then (w / 2 * 8, 8) else (4 * w, 4)

/-- The marks left by a write of `n` bytes from flat address `a` on of an array of code `k`: a word written whole is good;
a word written in part loses a single-bit error, which the write corrects, and keeps an uncorrectable one, but for hall memory,
whose bank forms the code of the merged word again (R266). -/
def writeMarks (ecc : Tab (Nat × Nat) Bool) (k a n : Nat) : Tab (Nat × Nat) Bool :=
  ecc.filter (fun e =>
    let (w, m) := eccSpan k e.1.2
    !(e.1.1 == k && ((decide (a ≤ w) && decide (w + 4 ≤ a + n)) ||
      ((!e.2 || k == 9) && decide (w < a + n) && decide (a < w + m)))))

/-- The worst error in the words of an array that hold `n` bytes from offset `o` on: some true for an uncorrectable
one. -/
def State.errorIn (s : State) (a : Arr) (o n : Nat) : Option Bool :=
  let es := s.ecc.filter (fun e => e.1.1 == a.code && decide ((eccSpan a.code e.1.2).1 < a.base + o + n) &&
    decide (a.base + o < (eccSpan a.code e.1.2).1 + (eccSpan a.code e.1.2).2))
  if es.isEmpty then none else some (es.any (fun e => e.2))

/-- The byte of an array at an offset. -/
def State.byte (s : State) (a : Arr) (o : Nat) : Byte := Memory.read s.mem (a.base + o)
/-- `n` bytes of an array from an offset on. -/
def State.bytesAt (s : State) (a : Arr) (o n : Nat) : List Byte := Memory.readBytes s.mem (a.base + o) n
/-- The little-endian number of `n` bytes of an array. -/
def State.natAt (s : State) (a : Arr) (o n : Nat) : Nat := Memory.readNat s.mem (a.base + o) n
/-- Bytes written into an array. -/
def State.store (s : State) (a : Arr) (o : Nat) (bs : List Byte) : State :=
  { s with mem := Memory.writeBytes s.mem (a.base + o) bs, ecc := writeMarks s.ecc a.code (a.base + o) bs.length }
/-- A little-endian number of `n` bytes written into an array. -/
def State.storeNat (s : State) (a : Arr) (o n v : Nat) : State := s.store a o (toBytes n v)

/-- HL_GRANT: an access of a master port to `n` bytes of hall memory is one grant for each 64-bit word that it touches
(R271). -/
def State.granted (s : State) (h m a n : Nat) : State :=
  if n = 0 then s else s.count HL_GRANT.COUNT (ix h m) ((a + n - 1) / 8 - a / 8 + 1)

/-! ## Free values -/

/-- The next free word, and the state that has taken it. -/
def State.freeWord (s : State) : Word × State := (Config.freeWord s.freeIx, { s with freeIx := s.freeIx + 1 })
/-- `n` free bytes, and the state that has taken them. -/
def State.freeBytes (s : State) (n : Nat) : List Byte × State :=
  ((List.range n).map (fun i => Config.freeByte (s.freeIx + i)), { s with freeIx := s.freeIx + n })

/-- What a read of bytes `bs` at hall offset `a` returns where the words of `mask` collided: their bytes are free (R268). -/
def State.collided (s : State) (mask a : Nat) (bs : List Byte) : List Byte × State :=
  let f := s.freeBytes bs.length
  if mask = 0 then (bs, s)
  else ((bs.zip f.1).zipIdx.map (fun x => if bit mask ((a + x.2) / 8 - a / 8) then x.1.2 else x.1.1), f.2)

/-! ## The till (R25, R26) -/

/-- The ticks one cycle of the till's clock adds. -/
def State.tillInc (s : State) : Nat :=
  match s.till.clk with
  | .fio => 40
  | .pll => 10
  | .lfo => s.get TILL_LFO_INC.INC_INT

/-- TILL_NOW as read: it advances in the steps of the clock. -/
def State.tillNow (s : State) : Nat :=
  match s.till.clk with
  | .lfo => s.tick
  | _ => s.till.base + s.tillInc * ((s.tick - s.till.base) / s.tillInc)

/-- NAP or OFF: the till counts on the LFO (R25, R384). -/
def State.asleep (s : State) : Bool := s.till.clk == .lfo

/-- The port of an access: a host port, or a trader's own by its master number. -/
def accPort : Accessor → Nat
  | .host p => p
  | .trader t => 0x8000 + 0x100 * t.h + 0x10 * t.s + t.t

/-- The accesses of a port take effect: the tile does not sleep, and none of its earlier accesses is held (R321, R389). -/
def State.portOpen (s : State) (p : Nat) : Bool := !s.asleep && !s.held.any (fun e => e.1 == p)

/-- An access of a port that command `c` makes to hall `h`. In NAP and OFF it follows R4 (R389). While its unit is `busy` it is held,
as is every later access of the port (R321, R377, R404); otherwise it has the effect `f`. -/
def State.byPort (s : State) (p h : Nat) (c : Instr) (busy : Bool) (f : State → State) : State :=
  if s.asleep then s
  else match s.held.find? (fun e => e.1 == p) with
    | some e => { s with held := s.held ++ [(p, e.2.1, c)] }
    | none => if busy then { s with held := s.held ++ [(p, h, c)] } else f s

/-- The tick of LFO edge `n` of the latest span on the LFO (R25). -/
def Till.lfoEdge (t : Till) (n : Nat) : Nat := t.lfoFrom + n * t.lfoInc / 256

/-- One cycle of the LFO adds TILL_LFO_INC, in 24.8 fixed point, to the till, and SLEEP_SPAN is set (R25, R29). -/
def State.lfoStep (s : State) : State :=
  let f := s.till.frac + s.get TILL_LFO_INC.INC_FRAC
  let s := { s with tick := s.tick + s.get TILL_LFO_INC.INC_INT + f / 256,
                    till := { s.till with frac := f % 256, lfoSteps := s.till.lfoSteps + 1 } }
  s.set TILL_STATUS.SLEEP_SPAN {} true

/-- The tick in which tick `x` is counted: within the latest span on the LFO the ticks of a step count together, in the tick
of its edge (R25, R52). -/
def Till.counted (t : Till) (x : Nat) : Nat :=
  if t.lfoFrom < x ∧ x ≤ t.lfoEdge t.lfoSteps then t.lfoEdge (((x - t.lfoFrom) * 256 + t.lfoInc - 1) / t.lfoInc) else x

/-- The till moves to another clock: it adds the increment of the clock it leaves for the last cycle begun there, and
counts on the new one from the next cycle (R26). -/
def State.tillTo (s : State) (c : TillClk) : State :=
  let s : State := match s.till.clk with | .lfo => s.lfoStep | _ => { s with tick := s.tillNow + s.tillInc }
  let s : State := { s with till := { s.till with pllEnd := if s.till.clk == .pll then s.tick else s.till.pllEnd } }
  let s : State := { s with till := { s.till with clk := c, base := s.tick, frac := 0, trimFrom := s.tick } }
  let s : State :=
    if c == .lfo then
      { s with till := { s.till with lfoFrom := s.tick, lfoSteps := 0, lfoInc := s.rd (({} : Ix).reg .TILL_LFO_INC) } }
    else s
  let s := s.set TILL_STATUS.LOCKED {} (c == .pll)
  let s := s.set TILL_STATUS.COARSE {} (c == .fio)
  s.set TILL_STATUS.ON_LFO {} (c == .lfo)

/-- What a step does when no command waits: one tick passes, or one cycle of the LFO while the till counts on it. -/
def State.idle (s : State) : State :=
  match s.till.clk with
  | .lfo => s.lfoStep
  | _ => { s with tick := s.tick + 1 }

/-! ## Axes (R35, R36) -/

/-- The state of an axis in force at tick `now`: p, v and t. -/
def Axis.inForce (a : Axis) (now : Nat) : Int × Int × Nat := if a.eff ≤ now then (a.p, a.v, a.t) else (a.p0, a.v0, a.t0)

/-- The projection of p and v from `t` to `now`, rounded to the nearest 2^-24 count, halves away from zero (R34). -/
def project (p v : Int) (t now : Int) : Int := wrapS 64 (roundAway (p * 2 ^ 24 + v * (now - t)) (2 ^ 24))

/-- TAX_POS at tick `now` (R36). -/
def State.axisPos (s : State) (n now : Nat) : Int :=
  let (p, v, t) := (s.axis n).inForce now
  if s.is TAX_CTRL.ENABLE (ix n) && !s.is TILL_STATUS.COARSE then project p v t now else p

/-! ## Chits (R339 to R343) -/

/-- The ring that takes chits of a type by CHIT_ROUTE (R341). -/
def State.routeOf (s : State) (ty : Nat) : Nat := s.get CHIT_ROUTE.RING (ix (if 0x40 ≤ ty then ty - 0x40 else ty))

/-- TALLY of a chit on a ring at an instant: the axis and its position, when the ring carries it. -/
def State.tallyOf (s : State) (ring till : Nat) : Option (Nat × Nat) :=
  if s.is CR_CTRL.AX_EN (ix ring) then
    some (s.get CR_CTRL.AXIS (ix ring), unsg 64 (s.axisPos (s.get CR_CTRL.AXIS (ix ring)) till))
  else none

/-- The entries that chits other than JOB chits take in the table of R343. -/
def State.chitLoad (s : State) : Nat :=
  (s.chits.map (fun c => if c.id.ty = 3 then 0 else b2n (c.stage == .waiting) + b2n c.pend.isSome)).sum

/-- A chit of identity `id` fires, with what its latest occurrence carries (R343): it enters service, becomes pending
behind the chit in service, or updates the pending chit; with the table full a chit other than JOB is lost. -/
def State.raiseOn (s : State) (ring : Nat) (id : ChitId) (data till : Nat) (ends : Bool := false) : State :=
  let tally := s.tallyOf ring till
  let full := id.ty != 3 && decide (4096 - 512 ≤ s.chitLoad)
  match s.chits.find? (fun c => c.id = id) with
  | none =>
    if full then s.count CR_LOST.COUNT (ix ring)
    else { s with chits := s.chits ++ [{ id := id, ring := ring, body := ⟨1, till, tally, data, ends, ring⟩ }] }
  | some c =>
    match c.pend with
    | none =>
      if full then s.count CR_LOST.COUNT (ix ring)
      else { s with chits := s.chits.map (fun c => if c.id = id then { c with pend := some ⟨1, till, tally, data, ends, ring⟩ } else c) }
    | some b =>
      let body : ChitBody := ⟨satAdd 16 b.count 1, till, tally, data, ends || b.ends, ring⟩
      { s with chits := s.chits.map (fun c => if c.id = id then { c with pend := some body } else c) }

/-- A device chit or a hall chit of a type routed by CHIT_ROUTE. -/
def State.chit (s : State) (ty src data till : Nat) (job : Nat := 0) (key : Nat := 0) : State :=
  s.raiseOn (s.routeOf ty) ⟨ty, src, job, key⟩ data till

/-- A hall chit: the hall stands in SOURCE [15:13] (R340). -/
def State.hallChit (s : State) (h ty low data till : Nat) (job : Nat := 0) (key : Nat := 0) : State :=
  s.chit ty (h <<< 13 + low) data till job key

/-! ## Reports of ECC (R397, R399) -/

/-- A counter of corrected errors: 0 to 8 FT_CORRs, 9 HM, 10 BR, 11 PT and 12 CE of a hall, 13 DEV (R412). -/
def corrField (k : Nat) : Field :=
  match k with
  | 9 => FT_CORR_HM.COUNT | 10 => FT_CORR_BR.COUNT | 11 => FT_CORR_PT.COUNT | 12 => FT_CORR_CE.COUNT | 13 => FT_CORR_DEV.COUNT
  | _ => FT_CORR.COUNT

/-- A corrected error counts; the counter that reaches LIMIT raises ECC_CORR, and in a stall it is the cause PREDICT
(R399, R403). DESIGN CHOICE (assumption log 134): the device counter is named with hall 0, and its limit is that of H0. -/
def State.corrected (s : State) (h k : Nat) : State :=
  let i := if k < 9 then ix h k else if k = 13 then {} else ix h
  let s := s.count (corrField k) i
  let lim := s.get FT_CORR_LIMIT.LIMIT (ix h)
  if lim ≠ 0 ∧ lim ≤ s.get (corrField k) i ∧ !s.corrTold.contains (h, k) then
    let s := { s with corrTold := (h, k) :: s.corrTold }.hallChit h 0x20 k (s.get (corrField k) i) s.tick
    if k < 9 then { s with faults := s.faults ++ [.failover h k 5] } else s
  else s

/-- An uncorrectable error is recorded, and reported where `chit` says so (R397). -/
def State.uncorrectable (s : State) (h array addr : Nat) (chit : Bool) : State :=
  let s := s.wr ((ix h).reg .FT_UNC_ADDR) (array <<< 56 + addr % 2 ^ 52)
  if chit then s.hallChit h 0x21 array (addr % 2 ^ 52) s.tick else s

/-! ## Hall events and bells (R143, R153, R154) -/

/-- The instance of a trader that a per-trader register names. -/
def Reg.trader (r : Reg) : TraderId := ⟨r.a, r.b, r.c⟩

/-- An occurrence of an asynchronous source of a trader: its pending bit, or its overrun bit when it was pending. -/
def State.occur (s : State) (t : TraderId) (src : Nat) : State :=
  if bit (s.get EV_PEND.PEND t.ix) src then s.orIn EV_OVR.OVR t.ix (2 ^ src) else s.orIn EV_PEND.PEND t.ix (2 ^ src)

/-- The first of the two selectors that an EV_HSELk register holds. -/
def RegName.hsel : RegName → Option Nat
  | .EV_HSEL01 => some 0
  | .EV_HSEL23 => some 2
  | .EV_HSEL45 => some 4
  | .EV_HSEL67 => some 6
  | _ => none

/-- A register EV_HSELk as an occurrence of this tick finds it: a selector written in the tick uses its old number (R170). -/
def State.hselSeen (s : State) (r : Reg) (k v : Nat) : Nat :=
  let w := (s.trader r.trader).hselWas
  if w.1 = s.tick then Tab.get w.2 k v else v

/-- EV_HSELk is about to be written: what it holds is kept for the occurrences of this tick (R170). -/
def State.hselNote (s : State) (r : Reg) : State :=
  let tr := s.trader r.trader
  let k := r.name.hsel.getD 0
  let was := if tr.hselWas.1 = s.tick then tr.hselWas.2 else []
  s.setTrader r.trader { tr with hselWas := (s.tick, Tab.set was k (Tab.get was k (s.rd r))) }

/-- An occurrence of hall event `num` of hall `h`: every selector of the hall that names it becomes pending. A selector
that no write has reached names no event. -/
def State.hallEvent (s : State) (h num : Nat) : State :=
  forAll s.regs (fun e s =>
    match e.1.name.hsel with
    | none => s
    | some k =>
      if e.1.a ≠ h then s
      else
        let v := s.hselSeen e.1 k e.2.toNat
        let s := if bits v 8 0 = num then s.occur e.1.trader k else s
        if bits v 24 16 = num then s.occur e.1.trader (k + 1) else s) s

/-- A delivery to every barrow of the hall, in the first crier cycle at or after 32 ticks (R194). -/
def State.deliver (s : State) (h : Nat) (src : DeliverySrc) (at_ : Nat) : State :=
  if s.deliveries.any (fun d => d.h == h && d.src == src && d.due == at_ + 32) then s
  else { s with deliveries := s.deliveries ++ [⟨h, src, at_ + 32, List.range 16⟩] }

/-- The bell watches of a hall's traders that a ring sets (R141). -/
def State.setWatches (s : State) (h : Nat) (dev : Bool) (n : Nat) : State :=
  { s with traders := s.traders.map (fun e =>
      match e.2.watch with
      | some w => if e.1.h = h ∧ w.dev = dev ∧ w.bell = n then (e.1, { e.2 with watch := some { w with isSet := true } }) else e
      | none => e) }

/-- A ring of hall bell `n` of hall `h` that takes effect at tick `at_` (R143). -/
def State.ringHall (s : State) (h n at_ : Nat) : State := (s.setWatches h false n).deliver h (.bell n) at_

/-- A ring of device bell `n`, which takes effect in every hall (R143). -/
def State.ringDev (s : State) (n at_ : Nat) : State :=
  forAll (List.range s.part.halls) (fun h s => (s.setWatches h true n).deliver h (.devBell n) at_) s

/-- An unordered set of bells rung together. -/
def State.ringMask (s : State) (dev : Bool) (h w mask : Nat) : State :=
  forAll (ones w mask) (fun n s => if dev then s.ringDev n s.tick else s.ringHall h n s.tick) s

/-! ## Queues (R283 to R288) -/

/-- The master number of a caller (R270). -/
def callerNum : Caller → Nat
  | .trader t => 0x8000 + 0x100 * t.h + 0x10 * t.s + t.t
  | .host _ a => 0x2000 + a
  | .porter h k th => 0x4000 + 0x100 * h + 0x10 * k + th
  | .cart h _ dst => 0x4800 + 0x100 * h + b2n dst

/-- The hall of a caller. -/
def callerHall : Caller → Nat
  | .trader t => t.h
  | .host h _ => h
  | .porter h _ _ => h
  | .cart h _ _ => h

/-- The number of elements, the element size and the address of a slot. -/
def State.qCap (s : State) (h q : Nat) : Nat := 2 ^ (s.get Q_CFG.SIZE_LOG2 (ix h q) - s.get Q_CFG.ELEM_LOG2 (ix h q))
def State.qElem (s : State) (h q : Nat) : Nat := 2 ^ s.get Q_CFG.ELEM_LOG2 (ix h q)
def State.qSlot (s : State) (h q i : Nat) : Nat := s.get Q_BASE.BASE (ix h q) + i % s.qCap h q * s.qElem h q

/-- F = TAIL - HEAD, takeable and free (R283). -/
def State.qFilled (s : State) (h q : Nat) : Nat :=
  (s.get Q_TAIL.TAIL (ix h q) + 2 ^ 32 - s.get Q_HEAD.HEAD (ix h q)) % 2 ^ 32
def State.qTakeable (s : State) (h q : Nat) : Nat := s.qFilled h q - s.get Q_NUM.TAKE_N (ix h q)
def State.qFree (s : State) (h q : Nat) : Nat := s.qCap h q - s.qFilled h q - s.get Q_NUM.RSV_N (ix h q)

/-- VALID as operations see it: a descriptor that reads uncorrectable is not valid (R397). -/
def State.qValid (s : State) (h q : Nat) : Bool :=
  s.is Q_CFG.VALID (ix h q) && Tab.find s.ecc (0xA, h * 1024 + q) != some true

/-- Reservations aborted, and takes returned. -/
def State.qAbort (s : State) (h q : Nat) : State := (s.put Q_NUM.RSV_N (ix h q) 0).put Q_PROD.P_HOLD (ix h q) 0
def State.qReturn (s : State) (h q : Nat) : State := (s.put Q_NUM.TAKE_N (ix h q) 0).put Q_CONS.C_HOLD (ix h q) 0

/-- The events of a commit or a push (R288). -/
def State.qEvents (s : State) (h q : Nat) : State :=
  let s := if s.is Q_CFG.RING_EN (ix h q) then s.ringHall h (s.get Q_CFG.BELL (ix h q)) s.tick else s
  if s.is Q_CFG.CHIT_EN (ix h q) then s.hallChit h 0x11 q (s.get Q_TAIL.TAIL (ix h q)) s.tick else s

/-- An operation of the producer side. -/
def QOp.produces : QOp → Bool
  | .reserve | .commit | .abort | .push => true
  | _ => false

/-- The reason code of an operation by master `n` whose limit of ES is `es`: 0 when its conditions hold. -/
def State.qReason (s : State) (h q n : Nat) (op : QOp) (es : List Nat) : Nat :=
  let i := ix h q
  let owner := if op.produces then s.get Q_PROD.P_OWNER i else s.get Q_CONS.C_OWNER i
  let ph := s.get Q_PROD.P_HOLD i
  let ch := s.get Q_CONS.C_HOLD i
  if !s.qValid h q then 1
  else if owner ≠ 0 ∧ owner ≠ n then 2
  else match op with
  | .reserve => if s.qFree h q = 0 ∨ s.get Q_NUM.RSV_N i = 65535 ∨ (ph ≠ 0 ∧ ph ≠ n) then 6 else 0
  | .commit | .abort => if ph = n then 0 else 5
  | .push =>
    if !es.contains (s.qElem h q) then 3
    else if s.get Q_NUM.RSV_N i ≠ 0 then 4
    else if s.qFree h q = 0 then 6 else 0
  | .take => if s.qTakeable h q = 0 ∨ (ch ≠ 0 ∧ ch ≠ n) ∨ s.get Q_NUM.TAKE_N i = 65535 then 7 else 0
  | .done | .ret => if ch = n then 0 else 5
  | .pop =>
    if !es.contains (s.qElem h q) then 3
    else if s.get Q_NUM.TAKE_N i ≠ 0 then 4
    else if s.qTakeable h q = 0 then 7 else 0

/-- The slot that a reserve or a take gives. -/
def State.qRsvSlot (s : State) (h q : Nat) : Nat :=
  (s.get Q_TAIL.TAIL (ix h q) + s.get Q_NUM.RSV_N (ix h q)) % s.qCap h q
def State.qTakeSlot (s : State) (h q : Nat) : Nat :=
  (s.get Q_HEAD.HEAD (ix h q) + s.get Q_NUM.TAKE_N (ix h q)) % s.qCap h q

/-- The effect of an operation whose conditions hold, but for the element data of a push or a pop (R285). -/
def State.qDo (s : State) (h q n : Nat) (op : QOp) : State :=
  let i := ix h q
  match op with
  | .reserve => (s.put Q_PROD.P_HOLD i n).put Q_NUM.RSV_N i (s.get Q_NUM.RSV_N i + 1)
  | .commit => ((s.put Q_TAIL.TAIL i (s.get Q_TAIL.TAIL i + s.get Q_NUM.RSV_N i)).qAbort h q).qEvents h q
  | .abort => s.qAbort h q
  | .push => (s.put Q_TAIL.TAIL i (s.get Q_TAIL.TAIL i + 1)).qEvents h q
  | .take => (s.put Q_CONS.C_HOLD i n).put Q_NUM.TAKE_N i (s.get Q_NUM.TAKE_N i + 1)
  | .done => (s.put Q_HEAD.HEAD i (s.get Q_HEAD.HEAD i + s.get Q_NUM.TAKE_N i)).qReturn h q
  | .ret => s.qReturn h q
  | .pop => s.put Q_HEAD.HEAD i (s.get Q_HEAD.HEAD i + 1)

/-- The master port of a caller (R269). -/
def callerPort : Caller → Nat
  | .trader t => t.s
  | .host _ _ => 15
  | .porter _ k _ => 9 + k
  | .cart _ _ dst => 13 + b2n dst

/-- One operation other than push and pop: its reason code and the state after it. An operation that fails changes
nothing. -/
def State.qOp (s : State) (h q n : Nat) (op : QOp) : Nat × State :=
  let r := s.qReason h q n op []
  (r, if r = 0 then s.qDo h q n op else s)

/-- Where an operation of a trader that the hall has not made stands. -/
inductive ReqAt where
  | orphan
  | replay (l : Nat)
  | live
  deriving DecidableEq, Repr

/-- The oldest operation of a trader that the hall has not made yet. -/
def Trader.nextOp (tr : Trader) : Option (ReqAt × AtomOp) :=
  match tr.orphans with
  | op :: _ => some (.orphan, op)
  | [] =>
    match (List.range 5).find? (fun l => ((tr.replay[l]?).getD none).any (fun r => !r.done)) with
    | some l => ((tr.replay[l]?).getD none).map (fun r => (.replay l, r.op))
    | none =>
      match tr.atom with
      | some r => if r.done then none else some (.live, r.op)
      | none => none

/-- The answer of the hall to an operation of a trader. -/
def Trader.answered (tr : Trader) (at_ : ReqAt) (bs : List Byte) : Trader :=
  match at_ with
  | .orphan => { tr with orphans := tr.orphans.drop 1 }
  | .replay l => { tr with replay := tr.replay.setIfInBounds l (((tr.replay[l]?).getD none).map (fun r => { r with done := true, answer := bs })) }
  | .live => { tr with atom := tr.atom.map (fun r => { r with done := true, answer := bs }) }

/-- The result of a queue operation in QP_STAT of a trader or QH_STAT of a host agent. -/
def State.qStat (s : State) (by_ : Caller) (q reason : Nat) : State :=
  let f := min (s.qFilled (callerHall by_) q) 0xFFFFFF
  match by_ with
  | .trader t => (s.put QP_STAT.REASON t.ix reason).put QP_STAT.FILLED t.ix f
  | .host h a => (s.put QH_STAT.REASON (ix h a) reason).put QH_STAT.FILLED (ix h a) f
  | _ => s

/-! ## Requests on the host ports (R315 to R318) -/

/-- An order fetch or a chit write, which has tags of its own. -/
def HostOwner.reserved : HostOwner → Bool
  | .order _ | .chit _ => true
  | _ => false

/-- Whether a request may be issued beside the requests issued so far (R315, R318). -/
def tagFree (s : State) (issued : List HostReq) (r : HostReq) : Bool :=
  let onPort := issued.filter (fun q => q.issued && q.port == r.port)
  let tags := let n := s.get HP_CFG.HALL_TAGS; if n = 0 ∨ 1008 < n then 1008 else n
  if r.owner.reserved then decide (onPort.length < 1024)
  else decide ((onPort.filter (fun q => !q.owner.reserved)).length < 1008) &&
    (r.hall.isNone || decide ((onPort.filter (fun q => q.hall == r.hall)).length < tags))

/-- The physical stall that has a role, unless it is failed. -/
def State.roleStall (s : State) (h r : Nat) : Option Nat :=
  (List.range s.part.stalls).find? (fun f => s.get STL_SELF.ROLE (ix h f) == r && s.get FT_STALL.STATE (ix h f) != 3)

/-- One grant of a weighted round robin among the masters below `n`, of which `waiting` wait (R271): a master with credit, in
round-robin order; with no credit left among them a new round begins; masters with levy 0 come only when no other waits. -/
def Arb.pick (a : Arb) (levy : Nat → Nat) (n : Nat) (waiting : List Nat) : Option (Nat × Arb) :=
  let order := (List.range n).map (fun i => (a.last + 1 + i) % n)
  let able := waiting.filter (fun m => levy m != 0)
  if able.isEmpty then (order.find? waiting.contains).map (fun m => (m, { a with last := m }))
  else
    let left (c : Tab Nat Nat) (m : Nat) : Nat := Tab.get c m (levy m)
    let c := if able.any (fun m => left a.credit m != 0) then a.credit else []
    (order.find? (fun m => able.contains m && left c m != 0)).map (fun m => (m, { credit := Tab.set c m (left c m - 1), last := m }))

/-- HL_LEVY of a master port of a hall (R269). -/
def State.levy (s : State) (h m : Nat) : Nat :=
  bits (s.rd ((ix h).reg (if m < 8 then .HL_LEVY0 else .HL_LEVY1))) (4 * (m % 8) + 3) (4 * (m % 8))

/-- The master port of a hall's request on a host port, by its stream (R269, R317). -/
def State.reqMaster (s : State) (h : Nat) (r : HostReq) : Nat :=
  let x := r.stream % 0x1000
  if x < 0x40 then 13 + b2n r.write
  else if x < 0x100 then 9 + (x - 0x40) / 2
  else (s.roleStall h ((x - 0x100) / 0x10)).getD ((x - 0x100) / 0x10)

/-- A waiting request that can have a tag; the requests of one stream on one port are issued in program order (R316). -/
def State.grantable (s : State) (r : HostReq) : Bool :=
  !r.issued && tagFree s s.reqs r &&
    !s.reqs.any (fun q => !q.issued && decide (q.id < r.id) && q.stream == r.stream && q.port == r.port)

/-- The host port of a request: the hall's own, or the one of the address (R13, R315). -/
def State.hostPort (s : State) (hall : Option Nat) (addr : Nat) : Nat :=
  match hall with
  | some h => if s.is HP_CFG.PORT_SEL then h % 4 else bits addr 13 12
  | none => bits addr 13 12

/-- The reason of a push to a host-memory queue: of a trader's own, or of a porter's, a reserve with an element of 32 bytes. -/
def State.postReason (s : State) (by_ : Caller) (q : Nat) : Nat :=
  let h := callerHall by_
  match by_ with
  | .trader _ => s.qReason h q (callerNum by_) .push [4, 8]
  | _ =>
    let r := s.qReason h q (callerNum by_) .reserve []
    if r = 1 ∨ r = 2 then r else if s.qElem h q ≠ 32 then 3 else r

/-- The address of the slot that such a push takes. -/
def State.postSlot (s : State) (by_ : Caller) (q : Nat) : Nat :=
  let h := callerHall by_
  match by_ with
  | .trader _ => s.qSlot h q (s.get Q_TAIL.TAIL (ix h q))
  | _ => s.qSlot h q (s.qRsvSlot h q)

/-- The trader whose push waits for a host port has its answer; a porter has none. -/
def State.postAnswer (s : State) (by_ : Caller) (q reason : Nat) : State :=
  match by_ with
  | .trader t =>
    match (s.trader t).nextOp with
    | some (at_, .push _ _) => let s := s.qStat by_ q reason; s.setTrader t ((s.trader t).answered at_ [])
    | _ => s
  | _ => s

/-- The push still has its master: a trader's has not been reset since. -/
def State.postLive (s : State) (by_ : Caller) : Bool :=
  match by_ with
  | .trader t => match (s.trader t).nextOp with | some (_, .push _ _) => true | _ => false
  | _ => true

/-- A request is issued. With the element of a push a host port accepts it, and the push or the reserve is made in the slot of that
instant (R285): DESIGN CHOICE (assumption log 130): an element posted for another slot is written to the present one, and where the
conditions of the operation do not hold any more nothing is written. -/
def State.issueReq (s : State) (r : HostReq) : State :=
  let mark (s : State) (f : HostReq → HostReq) : State := { s with reqs := s.reqs.map (fun q => if q.id = r.id then f q else q) }
  match r.post with
  | none => mark s (fun q => { q with issued := true })
  | some (by_, q) =>
    let a := s.postSlot by_ q
    let reason := s.postReason by_ q
    if reason ≠ 0 ∨ s.postLive by_ = false then
      ({ s with reqs := s.reqs.filter (fun x => x.id != r.id) } : State).postAnswer by_ q reason
    else if a ≠ r.addr then mark s (fun q => { q with addr := a, port := s.hostPort q.hall a })
    else
      let op := match by_ with | .trader _ => QOp.push | _ => QOp.reserve
      ((mark s (fun q => { q with issued := true })).qDo (callerHall by_) q (callerNum by_) op).postAnswer by_ q 0

/-- One grant on the host ports: a device-level request first; on a port the halls share by HL_HOSTLEVY, and within a hall its
masters by their levies (R271, R318). -/
def State.grantOne (s : State) : Option State :=
  let able := s.reqs.filter s.grantable
  match able.find? (fun r => r.hall.isNone), able with
  | some r, _ => some (s.issueReq r)
  | none, [] => none
  | none, r0 :: _ =>
    let onPort := able.filter (fun r => r.port == r0.port)
    match (Tab.get s.portArb r0.port {}).pick (fun h => s.get HL_HOSTLEVY.WEIGHT (ix h)) 8 (onPort.filterMap HostReq.hall) with
    | none => none
    | some (h, pa) =>
      let mine := onPort.filter (fun r => r.hall == some h)
      match (Tab.get s.pathArb h {}).pick (s.levy h) 16 (mine.map (s.reqMaster h)) with
      | none => none
      | some (m, ha) =>
        (mine.find? (fun r => s.reqMaster h r == m)).map (fun r =>
          ({ s with portArb := Tab.set s.portArb r0.port pa, pathArb := Tab.set s.pathArb h ha } : State).issueReq r)

/-- At most `n` grants. -/
def State.grants (s : State) : Nat → State
  | 0 => s
  | n + 1 => match s.grantOne with | some s' => State.grants s' n | none => s

/-- Every waiting request that can have a tag is issued. -/
def State.grantTags (s : State) : State := s.grants (2 * (s.reqs.filter (fun r => !r.issued)).length)

/-- A new request on the host ports, and its number. Device-level requests take the port of the address. -/
def State.hostReq (s : State) (owner : HostOwner) (hall : Option Nat) (stream addr len : Nat) (data : List Byte := [])
    (write : Bool := false) (taddr : Nat := 0) (post : Option (Caller × Nat) := none) : State × Nat :=
  let r : HostReq := { id := s.nextReq, owner, hall, stream, port := s.hostPort hall addr, addr, len, data, write, taddr, post }
  ({ s with reqs := s.reqs ++ [r], nextReq := s.nextReq + 1 }.grantTags, s.nextReq)

/-- The answer to request `id`, if it has come. -/
def State.answerOf (s : State) (id : Nat) : Option HostResp := (s.arrived.find? (fun a => a.req.id == id)).map Arrived.resp

/-- The answer to request `id` taken. -/
def State.takeAnswer (s : State) (id : Nat) : State := { s with arrived := s.arrived.filter (fun a => a.req.id != id) }

/-! ## Jobs (R334 to R338) -/

/-- The record of a job number that is not retired. -/
def State.job (s : State) (n : Nat) : Option Job := s.jobs.find? (fun j => j.num == n)

/-- A job record changed. -/
def State.updJob (s : State) (n : Nat) (f : Job → Job) : State :=
  { s with jobs := s.jobs.map (fun j => if j.num == n then f j else j) }

/-- The job has ended. -/
def JobState.ended : JobState → Bool
  | .done | .cancelled | .failed => true
  | _ => false

/-- A job that has not ended goes to another state: every transition but one into QUEUED raises a JOB chit with the old state, the new state
and the reason, on the chit ring of the job's order ring (R334, R341). -/
def State.jobTo (s : State) (n : Nat) (st : JobState) (reason : Nat := 0) : State :=
  match s.job n with
  | none => s
  | some j =>
    if j.state.ended then s else
    let susp := j.suspPend && !(st.ended || st == .suspended)
    let canc := j.cancelPend && !st.ended
    let began := if st = .running ∧ j.state = .queued then s.tick else j.began
    let s := s.updJob n (fun j =>
      { j with state := st, reason := reason, suspPend := susp, cancelPend := canc, began := began })
    if st = .queued then s
    else s.raiseOn (s.get OR_CTRL.CHIT_RING (ix j.ring)) ⟨0x03, 0, n, 0⟩
      (j.htag + j.state.code <<< 32 + st.code <<< 36 + reason <<< 40) s.tick st.ended

/-- The next read of a job's fetch: a request lies within one 64-byte block, and the next one is issued when the data of the
one before has come (R315, R317). -/
def State.fetchMore (s : State) (n : Nat) : State :=
  match s.job n with
  | some j => if j.left = 0 then s else (s.hostReq (.job n) none 0x8002 j.fetchAt (min j.left (64 - j.fetchAt % 64))).1
  | none => s

/-- A job fetches `len` bytes of host memory. -/
def State.fetchHost (s : State) (n addr len : Nat) : State :=
  (s.updJob n (fun j => { j with fetchAt := addr, left := len, got := [] })).fetchMore n

/-- A resource that is claimed by a job in one of the claim registers (R217). -/
def Reg.isClaim (r : Reg) : Bool :=
  match r.name with | .PIN_CLAIM | .CLM_TM | .CLM_CT => true | _ => false

/-- A register that names a job as an occupant of a stall or a barrow (R354). -/
def Reg.isOccupant (r : Reg) : Bool :=
  match r.name with | .HS_STALL | .HS_BARROW => true | _ => false

/-- The job holds a claim or an occupancy (R338, R354). -/
def State.holds (s : State) (n : Nat) : Bool :=
  s.regs.any (fun e => (e.1.isClaim && bit e.2.toNat 31 && bits e.2.toNat 15 0 == n) ||
    (e.1.isOccupant && (bits e.2.toNat 15 0 == n || bits e.2.toNat 31 16 == n)))

/-- Every job that has ended, whose ending chit is acknowledged and that holds no claim retires (R338). -/
def State.retire (s : State) : State :=
  { s with jobs := s.jobs.filter (fun j => !(j.state.ended && j.acked && !s.holds j.num)) }

end Sys2Proof.Machine
end

