-- ==== Sys2Proof/Machine/TraderOps.lean ====
section
/-! DEFINITION. What every trader instruction shares: the registers of a trader, fetching a word (R70 to R78), the
order of the checks (R99; the attempt itself stands in Issue.lean), owned slots and what lands in them (R62, R91, R146), the end
check (R107), traps (R168), event entry and exit (R156 to R165) and stopping (R329). -/

namespace Sys2Proof.Machine

/-! ## Registers of a trader (R102 to R105) -/

/-- A D register. -/
def Trader.dr (t : Trader) (i : Nat) : Nat := (t.d[i]?.getD 0).toNat
/-- An A register. -/
def Trader.ar (t : Trader) (i : Nat) : Nat := (t.a[i]?.getD 0).toNat
/-- An accumulator. -/
def Trader.acr (t : Trader) (i : Nat) : Nat := (t.ac[i]?.getD 0).toNat
/-- A predicate; P0 reads 1 (R102). -/
def Trader.pr (t : Trader) (i : Nat) : Bool := if i = 0 then true else t.p[i]?.getD false
/-- A Scale register. -/
def Trader.scr (t : Trader) (i : Nat) : Nat := (t.sc[i]?.getD 0).toNat
/-- The start, the end and the count of a loop level. -/
def Trader.lsr (t : Trader) (i : Nat) : Nat := (t.ls[i]?.getD 0).toNat
def Trader.ler (t : Trader) (i : Nat) : Nat := (t.le[i]?.getD 0).toNat
def Trader.lcr (t : Trader) (i : Nat) : Nat := (t.lc[i]?.getD 0).toNat
/-- The budget of a level. -/
def Trader.bud (t : Trader) (l : Nat) : Budget := t.budget[l]?.getD {}

def Trader.setD (t : Trader) (i v : Nat) : Trader := { t with d := t.d.setIfInBounds i (BitVec.ofNat 8 v) }
def Trader.setA (t : Trader) (i v : Nat) : Trader := { t with a := t.a.setIfInBounds i (BitVec.ofNat 16 v) }
def Trader.setAc (t : Trader) (i v : Nat) : Trader := { t with ac := t.ac.setIfInBounds i (BitVec.ofNat 24 v) }
/-- A write of P0 has no effect (R104). -/
def Trader.setP (t : Trader) (i : Nat) (b : Bool) : Trader := if i = 0 then t else { t with p := t.p.setIfInBounds i b }
def Trader.setSc (t : Trader) (i v : Nat) : Trader := { t with sc := t.sc.setIfInBounds i (BitVec.ofNat 32 v) }
def Trader.setLs (t : Trader) (i v : Nat) : Trader := { t with ls := t.ls.setIfInBounds i (BitVec.ofNat 16 v) }
def Trader.setLe (t : Trader) (i v : Nat) : Trader := { t with le := t.le.setIfInBounds i (BitVec.ofNat 16 v) }
def Trader.setLc (t : Trader) (i v : Nat) : Trader := { t with lc := t.lc.setIfInBounds i (BitVec.ofNat 16 v) }
def Trader.setBud (t : Trader) (l : Nat) (b : Budget) : Trader := { t with budget := t.budget.setIfInBounds l b }

/-- A general register read. -/
def Trader.getG (tr : Trader) : GReg → Nat
  | .d i => tr.dr i | .a i => tr.ar i | .ac i => tr.acr i | .p i => b2n (tr.pr i) | .sc i => tr.scr i | .pc => tr.pc

/-- A general register written: the value is truncated to its width. -/
def Trader.setG (tr : Trader) (r : GReg) (v : Nat) : Trader :=
  match r with
  | .d i => tr.setD i v | .a i => tr.setA i v | .ac i => tr.setAc i v | .p i => tr.setP i (bit v 0)
  | .sc i => tr.setSc i v | .pc => { tr with pc := v % 65536 }

/-- FL as the four low bits of TSR. -/
def Trader.fl (t : Trader) : Nat := b2n t.z * 8 + b2n t.n * 4 + b2n t.c * 2 + b2n t.v
/-- TSR as it reads (R109). -/
def Trader.tsr (t : Trader) : Nat :=
  b2n t.sup * 128 + b2n (t.lcr 2 != 0) * 64 + b2n (t.lcr 1 != 0) * 32 + b2n (t.lcr 0 != 0) * 16 + t.fl
/-- FL written. -/
def Trader.setFl (t : Trader) (v : Nat) : Trader := { t with z := bit v 3, n := bit v 2, c := bit v 1, v := bit v 0 }
/-- TSR written with S as given: LACT has no storage of its own. -/
def Trader.setTsr (t : Trader) (v : Nat) : Trader := { t.setFl v with sup := bit v 7 }

/-- The flags of a result in width `w`: Z and N from it, C and V where the operation gives them. -/
def Trader.flags (t : Trader) (w : Nat) (r : Alu) : Trader :=
  { t with z := r.r == 0, n := msb w r.r, c := r.c.getD t.c, v := r.v.getD t.v }

/-- ER_BANK of the present banks. -/
def Trader.bank (t : Trader) : Nat := b2n t.host * 1024 + t.hbk * 4 + t.bnk

/-- A trader changed. -/
def State.upd (s : State) (t : TraderId) (f : Trader → Trader) : State := s.setTrader t (f (s.trader t))

/-! ## Events (R152 to R157) -/

/-- CUR: 0 base, n + 1 for EVLn. -/
def State.cur (s : State) (t : TraderId) : Nat := s.get EV_CTRL.CUR t.ix

/-- The level of a source, encoded as CUR. -/
def State.level (s : State) (t : TraderId) (src : Nat) : Nat :=
  if src < 11 then bits (s.get EV_ROUTE.LVL t.ix) (2 * src + 1) (2 * src) + 1
  else bits (s.get EV_TRAPLVL.LVL t.ix) (2 * (src - 11) + 1) (2 * (src - 11)) + 1

/-- A source is enabled: BUS_ERR and BUDGET always are (R155). -/
def State.enabled (s : State) (t : TraderId) (src : Nat) : Bool := decide (9 ≤ src) || bit (s.get EV_EN_SET.EN t.ix) src

/-- The deliverable asynchronous event of the highest level above the level it is judged against, within a level the lowest
source (R157). -/
def State.deliverableAt (s : State) (t : TraderId) (lvl : Nat) : Option Nat :=
  let cands := (List.range 11).filter (fun src => bit (s.get EV_PEND.PEND t.ix) src && s.enabled t src &&
    decide (lvl < s.level t src))
  cands.foldl (fun best src =>
    match best with
    | none => some src
    | some b => if s.level t b < s.level t src then some src else best) none

/-- The deliverable event, judged against CUR. -/
def State.deliverable (s : State) (t : TraderId) : Option Nat := s.deliverableAt t (s.cur t)

/-! ## Owned slots (R91, R94, R146, R358) -/

/-- A load lands once all its accesses have their response, and not before the slot of a forwarded value. -/
def Load.ready (l : Load) (slot : Nat) : Bool := !l.part && l.accs.all (fun a => a.fin) && decide (l.due ≤ slot)

/-- No register: where a load that an event has abandoned lands (R160). -/
def GReg.nowhere : GReg := .p 8

/-- The value of a load: 0 when an access had an error response (R169). -/
def Load.value (l : Load) : Nat := if l.accs.any (fun a => a.err != 0) then 0 else ofBytes (l.accs.flatMap (fun a => a.got))

/-- A value lands in its destination; the address that RET has popped goes to PC, and A7 moves past it (R136). -/
def Trader.landIn (tr : Trader) (dst : GReg) (v : Nat) : Trader :=
  match dst with
  | .pc => { tr.setA 7 (tr.ar 7 + 2) with pc := v % 65536 }
  | r => tr.setG r v

/-- The loads that may land at owned slot `slot` do. -/
def Trader.landLoads (tr : Trader) (slot : Nat) : Trader :=
  { (tr.loads.filter (fun l => l.ready slot)).foldl (fun (x : Trader) l => x.landIn l.dst l.value) tr with
    loads := tr.loads.filter (fun l => !l.ready slot) }

/-- The word of the Scale register file (array 0x07 of R397) that holds a register of a trader. -/
def scWord (t : TraderId) (i : Nat) : Nat × Nat := (7, (t.h * 144 + t.s * 16 + t.t) * 16 + i)

/-- A word of an array of R397 is written whole: its error mark goes. -/
def State.wordClean (s : State) (w : Nat × Nat) : State := { s with ecc := Tab.del s.ecc w }

/-- A Scale register is written whole; a result with no destination register, of a comparison, writes none. -/
def State.scClean (s : State) (t : TraderId) (i : Nat) : State := if i < 16 then s.wordClean (scWord t i) else s

/-- Flags of SC_STATUS set at owned slot `slot` (R110). -/
def Trader.scFlag (tr : Trader) (slot m : Nat) : Trader :=
  { tr with scSet := (slot, (if tr.scSet.1 = slot then tr.scSet.2 else 0) ||| m) }

/-- The products, the Scale results and the loads due at the slot at hand land. -/
def State.land (s : State) (t : TraderId) : State :=
  let tr := s.trader t
  let tr1 := (tr.mul.filter (fun e => decide (e.1 ≤ tr.slot))).foldl (fun (x : Trader) e => { x with mrh := e.2.1, mrl := e.2.2 }) tr
  let due := tr.scq.filter (fun e => decide (e.due ≤ tr.slot))
  let tr2 := due.foldl (fun (x : Trader) e => x.setSc e.dst e.value) tr1
  let tr3 := { tr2 with mul := tr.mul.filter (fun e => decide (tr.slot < e.1)),
                        scq := tr.scq.filter (fun e => decide (tr.slot < e.due)) }
  let s1 := s.setTrader t (tr3.landLoads tr.slot)
  if due.isEmpty then s1
  else
    let s1 := due.foldl (fun (s : State) e => s.scClean t e.dst) s1
    let m := due.foldl (fun a e => a ||| e.flags) 0
    (s1.upd t (fun tr => tr.scFlag tr.slot m)).wr (t.ix.reg .SC_STATUS) (s1.rd (t.ix.reg .SC_STATUS) ||| m)

/-- The budget watch counts one owned slot at a level (R358). -/
def State.countSlot (s : State) (t : TraderId) (lvl : Nat) : State :=
  if s.is BW_CTRL.EN t.st then
    s.upd t (fun tr => tr.setBud lvl { tr.bud lvl with count := (tr.bud lvl).count + 1 })
  else s

/-- The number of the next slot of its stall that a trader owns: Tn owns the slots n modulo 16 (R62), from the rotation of its
start on (R328). -/
def State.nextSlot (s : State) (t : TraderId) : Nat :=
  let n := max (Tab.get s.stallSlot (t.h, t.s) 0) (16 * (s.trader t).startRot)
  n + (t.t % 16 + 16 - n % 16) % 16

/-- The slots of the stall pass up to the next one that the trader owns, which it uses: `slot` is its rotation. -/
def State.takeSlot (s : State) (t : TraderId) : State :=
  { s with stallSlot := Tab.set s.stallSlot (t.h, t.s) (s.nextSlot t + 1) }.upd t (fun tr => { tr with slot := s.nextSlot t / 16 })

/-- One owned slot of a trader: the stall's slots advance, what is due lands, the budget counts. -/
def State.ownSlot (s : State) (t : TraderId) (lvl : Nat) : State := ((s.takeSlot t).land t).countSlot t lvl

/-- A slot spent on an unscheduled wait is counted in TR_UNSCHED. -/
def State.unsched (s : State) (t : TraderId) : State :=
  s.put TR_UNSCHED.COUNT (ix t.h t.s t.t) (s.get TR_UNSCHED.COUNT (ix t.h t.s t.t) + 1)

/-! ## The end check (R107) -/

/-- An active loop level whose body, from LS to LE modulo 2^16, has 8 instructions or fewer (R73). -/
def Trader.fits (tr : Trader) (n : Nat) : Bool := tr.lcr n != 0 && decide ((tr.ler n + 65536 - tr.lsr n) % 65536 < 8)

/-- The innermost active loop that fits, level 2 being the innermost (R73, R106). -/
def Trader.innerFit (tr : Trader) : Option Nat := [2, 1, 0].find? (fun n => tr.fits n)

/-- The loop buffer holds the body of that loop: it starts empty for a body that it does not hold yet. -/
def Trader.holdBody (tr : Trader) : Trader :=
  match tr.innerFit with
  | none => { tr with lbuf := none }
  | some n =>
    match tr.lbuf with
    | some b => if b.ls = tr.lsr n ∧ b.le = tr.ler n then tr else { tr with lbuf := some ⟨tr.lsr n, tr.ler n, []⟩ }
    | none => { tr with lbuf := some ⟨tr.lsr n, tr.ler n, []⟩ }

/-- The contents of the loop buffer are discarded at the end of level `n` where they are its body, and the buffer turns to the
innermost loop that is left (R73, R74). -/
def Trader.levelEnds (tr : Trader) (n : Nat) : Trader :=
  match tr.lbuf with
  | some b => if b.ls = tr.lsr n ∧ b.le = tr.ler n then { tr with lbuf := none }.holdBody else tr
  | none => tr

/-- The address lies in the body that the loop buffer holds. -/
def LoopBuf.holds (b : LoopBuf) (pc : Nat) : Bool :=
  decide ((pc + 65536 - b.ls) % 65536 ≤ (b.le + 65536 - b.ls) % 65536)

/-- The check of one loop level against the address `x`: the next address when it steps back, and the trader. -/
def Trader.endLevel (tr : Trader) (x n : Nat) (next : Nat) (done : Bool) : Trader × Nat × Bool :=
  if done || tr.lcr n == 0 || tr.ler n != x then (tr, next, done)
  else if 1 < tr.lcr n then (tr.setLc n (tr.lcr n - 1), tr.lsr n, true)
  else ((tr.setLc n 0).levelEnds n, next, false)

/-- The end check after the instruction at `x`: the trader with PC at what follows. -/
def Trader.endCheck (tr : Trader) (x : Nat) : Trader :=
  let (tr, nx, d) := tr.endLevel x 2 ((x + 1) % 65536) false
  let (tr, nx, d) := tr.endLevel x 1 nx d
  let (tr, nx, _) := tr.endLevel x 0 nx d
  { tr with pc := nx }

/-- The end check of a trader at its PC. -/
def State.endCheck (s : State) (t : TraderId) : State := s.upd t (fun tr => tr.endCheck tr.pc)

/-! ## Fetching (R70 to R78, R379) -/

/-- What a fetch finds: a word; a miss of the instruction cache; nothing that the spec states (the boot ROM). -/
inductive Fetch where
  | word (w : Nat)
  | miss (line : Nat)
  | rom
  deriving DecidableEq, Repr

/-- The hall offset of hall code (R70). -/
def State.codeAddr (s : State) (t : TraderId) (pc : Nat) : Nat :=
  (s.get STL_CODE_BASE.BASE t.st * 0x1000 + (pc - 0x2000) * 4) % 0x400000

/-- The active IMEM page of a stall. -/
def State.page (s : State) (h n : Nat) : Nat := s.get STL_STATUS.PAGE (ix h n)

/-- The word at `pc` that the loop buffer holds. -/
def Trader.buffered (tr : Trader) (pc : Nat) : Option Nat :=
  match tr.lbuf with
  | some b => Tab.find b.words pc
  | none => none

/-- The boot ROM stands in place of the page for H0.S0 until full service (R379). -/
def State.romAt (s : State) (t : TraderId) (pc : Nat) : Bool :=
  t.h == 0 && t.s == 0 && decide (pc < 0x400) && !s.is PWR_STATUS.FULL

/-- The line of the instruction cache that holds a hall offset (R76, R78). -/
def State.cached (s : State) (h f line : Nat) : Option ILine :=
  if s.is STL_ICACHE.EN (ix h f) && !(s.stall h f).inval then (s.stall h f).lines.find? (fun l => l.base == line) else none

/-- The ways of a set in the order of a binary tree of three bits: bit 0 tells which pair was used less recently, bits 1 and 2
which way of pair 0 and of pair 1. A use of way `w` points all of them away from it. -/
def plruUse (b w : Nat) : Nat :=
  let b := setBits b 0 0 (1 - w / 2 % 2)
  setBits b (1 + w / 2 % 2) (1 + w / 2 % 2) (1 - w % 2)

/-- The way that the tree names: the less recently used pair, and of it the less recently used way. -/
def plruVictim (b : Nat) : Nat := 2 * (b % 2) + bits b (1 + b % 2) (1 + b % 2)

/-- A way of a set of the instruction cache is used. -/
def State.usedWay (s : State) (h f set way : Nat) : State :=
  let st := s.stall h f
  s.setStall h f { st with plru := Tab.set st.plru set (plruUse (Tab.get st.plru set 0) way) }

/-- A word of a trader at its PC is taken from its source: a hit of the instruction cache counts for the replacement (R76). -/
def State.usedLine (s : State) (t : TraderId) : State :=
  let tr := s.trader t
  let line := s.codeAddr t tr.pc / 64 * 64
  if tr.pc < 0x2000 || (tr.buffered tr.pc).isSome || tr.fetched.any (fun e => e.1 == tr.pc) then s
  else match s.cached t.h t.s line with
  | some l => s.usedWay t.h t.s l.set l.way
  | none => s

/-- The fetch of a trader at its PC. -/
def State.fetch (s : State) (t : TraderId) : Fetch :=
  let tr := s.trader t
  if s.romAt t tr.pc then .rom
  else match (if s.is STL_CTRL.LBUF_EN t.st then tr.buffered tr.pc else none) with
  | some w => .word w
  | none =>
    if tr.pc < 0x2000 then .word (s.natAt (.imem t.h t.s (s.page t.h t.s)) (tr.pc * 4) 4)
    else
      let a := s.codeAddr t tr.pc
      match tr.fetched.filter (fun e => e.1 == tr.pc) with
      | some (_, w) => .word w
      | none =>
        match s.cached t.h t.s (a / 64 * 64) with
        | some l => .word (field l.bytes (a % 64) 4)
        | none => .miss (a / 64 * 64)

/-- The word of the loop buffer (array 0x02 of R397) that holds the instruction at `pc`. -/
def lbufWord (t : TraderId) (pc : Nat) : Nat × Nat := (2, (t.h * 144 + t.s * 16 + t.t) * 65536 + pc)

/-- The word of the instruction cache of a stall (array 0x03 of R397) that holds hall offset `a`. -/
def icacheWord (h f a : Nat) : Nat × Nat := (3, (h * 16 + f) * 0x100000 + a / 4)

/-- The error mark of the word that the fetch reads, with the ECC detail code of its array (R167): the loop buffer, the
active page, the fill of the line buffer, or the cache. -/
def State.fetchMark (s : State) (t : TraderId) : Option (Nat × Bool) :=
  let tr := s.trader t
  if s.is STL_CTRL.LBUF_EN t.st && (tr.buffered tr.pc).isSome then
    (Tab.find s.ecc (lbufWord t tr.pc)).map (fun d => (2, d))
  else if tr.pc < 0x2000 then (s.errorIn (.imem t.h t.s (s.page t.h t.s)) (tr.pc * 4) 4).map (fun d => (1, d))
  else if tr.fetched.any (fun e => e.1 == tr.pc) then (if tr.badFill then some (4, true) else none)
  else (Tab.find s.ecc (icacheWord t.h t.s (s.codeAddr t tr.pc))).map (fun d => (3, d))

/-- An uncorrectable word met by a fetch or an access of a trader: the ECC trap, or the cause UNCORR for the arrays 0x01
and 0x05 where ON_UNCORR is 1 and the role may fail over (R397, R403). -/
def State.eccTrap (s : State) (t : TraderId) (detail addr word : Nat) : State :=
  let role := s.get STL_SELF.ROLE t.st
  let s := s.uncorrectable t.h detail addr false
  if (detail = 1 ∨ detail = 5) ∧ t.s ≠ 8 ∧ role < 8 ∧ s.is FT_ROLE.ON_UNCORR (ix t.h role) ∧
      s.is FT_ROLE.FO_EN (ix t.h role) then
    { s with faults := s.faults ++ [.failover t.h t.s 2] }
  else s.upd t (fun tr => { tr with trap := some ⟨11, detail, addr, word, tr.pc⟩ })

/-- The array and offset of a trader address in stall RAM or the private slice (R65). -/
def State.ramAt (s : State) (t : TraderId) (ea : Nat) : Option (Arr × Nat) :=
  if ea < 0x8000 then some (.shared t.h t.s, (s.trader t).bnk * 0x8000 + ea)
  else if 0xC000 ≤ ea ∧ ea < 0xE000 then some (.slice t.h t.s t.t, ea - 0xC000)
  else none

/-- A read of `n` bytes of stall RAM or the slice by the instruction `w`, the first at trader address `ea`: a single-bit
error is corrected and counts; uncorrectable data take the ECC event (R85, R167, R397). -/
def State.ramRead (s : State) (t : TraderId) (a : Arr) (o n ea w : Nat) (f : Nat → State → State) : State :=
  match s.errorIn a o n with
  | some true => s.eccTrap t a.code ea w
  | some false => f (s.natAt a o n) (s.corrected t.h t.s)
  | none => f (s.natAt a o n) s

/-- The loop buffer takes the word fetched at the PC. -/
def Trader.takes (tr : Trader) (on : Bool) : Bool :=
  match tr.lbuf with
  | some b => on && b.holds tr.pc && Tab.find b.words tr.pc == none
  | none => false

/-- The word fetched is taken into the loop buffer when the buffer is on and its body holds its address, and a word that came
through the line buffer is used up (R73, R74). -/
def Trader.took (tr : Trader) (w : Nat) (on : Bool) : Trader :=
  let x := { tr with fetched := none, badFill := false, missing := false }
  if tr.takes on then { x with lbuf := tr.lbuf.map (fun b => { b with words := (tr.pc, w) :: b.words }) } else x

/-- The word `w` at the PC is fetched for issue; a word that the loop buffer takes is written into it whole. -/
def State.took (s : State) (t : TraderId) (w : Nat) : State :=
  let on := s.is STL_CTRL.LBUF_EN t.st
  let tr := s.trader t
  let s := (s.usedLine t).upd t (fun tr => tr.took w on)
  if tr.takes on then s.wordClean (lbufWord t tr.pc) else s

/-- A miss: the line buffer starts to fill unless it is busy or the cache is being invalidated; the trader waits. -/
def State.startMiss (s : State) (t : TraderId) (line : Nat) : State :=
  let st := s.stall t.h t.s
  let s := if (s.trader t).missing then s
    else s.put TR_IMISS.COUNT (ix t.h t.s t.t) (s.get TR_IMISS.COUNT (ix t.h t.s t.t) + 1)
  let s := s.upd t (fun tr => { tr with missing := true })
  let s := (s.ownSlot t (s.cur t)).unsched t
  if st.fill.isSome ∨ st.inval then s
  else (s.setStall t.h t.s { s.stall t.h t.s with fill := some line }).set STL_STATUS.FILL t.st true

/-! ## Issuing (R98, R99, R127) -/

/-- A trap raised by the instruction at hand (R168); it is taken at the next sampling. -/
def State.raiseTrap (s : State) (t : TraderId) (src detail addr word resume : Nat) : State :=
  s.upd t (fun tr => { tr with trap := some ⟨src, detail, addr, word, resume⟩ })

/-- The stall's rotation runs for the trader: its stall clock runs and the tile is not in IDLE (R378, R383). -/
def State.clocked (s : State) (t : TraderId) : Bool :=
  (s.is PWR_STATUS.FULL || (t.h == 0 && t.s == 0)) && s.get PWR_STATUS.STATE != 1

/-- The load of the address that RET pops, and the trader's next owned slot is not yet one at which it lands (R86, R136). -/
def State.popWaits (s : State) (t : TraderId) : Bool :=
  (s.trader t).loads.any (fun l => l.dst == GReg.pc && !l.part && !l.ready (s.nextSlot t / 16))

/-- The trader waits for the answer to an operation access, or for the address that RET pops (R281, R136). -/
def State.awaitsAnswer (s : State) (t : TraderId) : Bool :=
  (s.trader t).atom.any (fun r => !r.arrived) || s.popWaits t

/-- DRAIN waits no longer: the store buffer is empty (R145). -/
def Trader.drained (tr : Trader) : Bool := tr.wait == .drain && tr.stores.isEmpty

/-- The trader passes through an entry or exit slot (R158, R164). -/
def Trader.passing (tr : Trader) : Bool := tr.entering.isSome || tr.exiting.isSome

/-- The trader runs in its owned slot, passes through no entry or exit, and has no event or trap to take. -/
def State.runsSlot (s : State) (t : TraderId) : Bool :=
  let tr := s.trader t
  tr.running && !tr.halted && s.clocked t && !tr.passing && tr.trap.isNone && (s.deliverable t).isNone

/-- The trader runs in its owned slot and waits for no end condition. -/
def State.ownsSlot (s : State) (t : TraderId) : Bool :=
  s.runsSlot t && ((s.trader t).wait == .none || (s.trader t).drained)

/-- The trader owns a slot in which it may issue: it runs, waits for nothing, and has no event or trap to take. -/
def State.canIssue (s : State) (t : TraderId) : Bool := s.ownsSlot t && !s.awaitsAnswer t

/-- The guard of a word (R98). -/
def Trader.guard (tr : Trader) (w : Nat) : Bool := tr.pr (fPg w) != fPinv w

/-- A register of the list is the destination of a load that has not come back (R86). -/
def Trader.awaits (tr : Trader) (rs : List GReg) : Bool := tr.loads.any (fun l => rs.contains l.dst)

/-- A Scale register of the list has a result that has not landed (R146). -/
def Trader.scAwaits (tr : Trader) (rs : List GReg) : Bool := tr.scq.any (fun e => rs.contains (.sc e.dst))

/-! ## Entry (R158 to R161, R167) -/

/-- What an entry to a level does to the budget of that level (R359): the count starts afresh, the limit is HLIMIT, the
marker 0xFE. -/
def State.entryBudget (s : State) (t : TraderId) (lvl : Nat) : State :=
  let f := match lvl with
    | 1 => BW_HLIMIT01.LO | 2 => BW_HLIMIT01.HI | 3 => BW_HLIMIT23.LO | _ => BW_HLIMIT23.HI
  let lim := s.get f t.st
  s.upd t (fun tr => tr.setBud lvl { count := 0, limit := if lim = 0 then none else some lim, marker := 0xFE, fired := false })

/-- The vector of a level. -/
def State.vector (s : State) (t : TraderId) (lvl : Nat) : Nat :=
  match lvl with
  | 1 => s.get EV_VEC01.VEC0 t.ix
  | 2 => s.get EV_VEC01.VEC1 t.ix
  | 3 => s.get EV_VEC23.VEC2 t.ix
  | _ => s.get EV_VEC23.VEC3 t.ix

/-- The instruction in progress is abandoned (R127): its slots so far, or a wait; an access of a load that it has made is not
undone, but lands nowhere; an operation access goes to the replay record of the level at which it was made; it has reached the
hall, with or without its answer (R282). -/
def Trader.abandon (tr : Trader) (lvl : Nat) : Trader :=
  let tr := { tr with prog := none, wait := .none, missing := false,
                      loads := tr.loads.map (fun (l : Load) =>
                        if l.part || l.dst == GReg.pc then { l with dst := GReg.nowhere, part := false } else l) }
  match tr.atom with
  | some r => { tr with atom := none, replay := tr.replay.setIfInBounds lvl (some { r with arrived := false }) }
  | none => tr

/-- What an entry saves: the resume point, the level returned to, TSR, and the banks in the layout of ER_BANK (R158). -/
structure EntryCtx where
  pc : Nat
  lvl : Nat
  tsr : Nat
  bank : Nat
  deriving DecidableEq, Repr

/-- The context of the code that a trader runs, with a resume point. -/
def State.ctxAt (s : State) (t : TraderId) (resume : Nat) : EntryCtx :=
  ⟨resume, s.cur t, (s.trader t).tsr, (s.trader t).bank⟩

/-- The context that the record of level `lvl` holds: what an entry during the exit from it saves (R165). -/
def State.ctxOf (s : State) (t : TraderId) (lvl : Nat) : EntryCtx :=
  let n := t.lvl (lvl - 1)
  ⟨s.get ER_CTX.PC n, s.get ER_CTX.PLVL n, s.get ER_CTX.TSR n, s.rd (n.reg .ER_BANK)⟩

/-- Level `lvl` is entered or exited in this tick: a write of its record in the same tick loses (R170). -/
def State.moveLevel (s : State) (t : TraderId) (lvl : Nat) : State :=
  let n := t.lvl (lvl - 1)
  let s := match Tab.find (s.trader t).recWas (lvl - 1) with
    | some (k, c, b) => if k = s.tick then (s.wr (n.reg .ER_CTX) c).wr (n.reg .ER_BANK) b else s
    | none => s
  s.upd t (fun tr => { tr with moved := (lvl, s.tick) })

/-- Entry slot E1 to level `lvl`: the record of the level is written, and CUR moves. The slot counts to the level entered. -/
def State.enterE1 (s : State) (t : TraderId) (lvl src detail addr word : Nat) (c : EntryCtx) : State :=
  let n := t.lvl (lvl - 1)
  let old := s.cur t
  let s := s.moveLevel t lvl
  let s := s.wr (n.reg .ER_CTX) (c.lvl <<< 24 + c.tsr <<< 16 + c.pc)
  let s := s.wr (n.reg .ER_BANK) c.bank
  let s := s.wr (n.reg .ER_CAUSE) (addr <<< 16 + src <<< 8 + detail)
  let s := s.wr (n.reg .ER_WORD) word
  let s := if src < 11 then s.hwClr EV_PEND.PEND t.ix (2 ^ src) else s
  let s := s.put EV_CTRL.CUR t.ix lvl
  let s := s.upd t (fun tr => { tr.abandon old with trap := none, entering := some lvl, exiting := none })
  (s.entryBudget t lvl).ownSlot t lvl

/-- Entry slot E2: the vector of the level is loaded. -/
def State.enterE2 (s : State) (t : TraderId) (lvl : Nat) : State :=
  ((s.ownSlot t lvl).moveLevel t lvl).upd t (fun tr => { tr with pc := s.vector t lvl, entering := none })

/-- Exit slot X1 from level `lvl`: CUR, TSR and the banks come from its record; the slot counts to the level left (R164, R358). -/
def State.exitX1 (s : State) (t : TraderId) (lvl : Nat) : State :=
  let s := s.moveLevel t lvl
  let c := s.ctxOf t lvl
  let s := (s.ownSlot t lvl).put EV_CTRL.CUR t.ix c.lvl
  s.upd t (fun tr =>
    { (tr.setTsr c.tsr) with bnk := bits c.bank 1 0, hbk := bits c.bank 9 2, host := bit c.bank 10, exiting := some (lvl, true) })

/-- A sync point of a level: its count starts afresh and its limit stays (R359). -/
def State.syncPoint (s : State) (t : TraderId) (lvl : Nat) : State :=
  s.upd t (fun tr => tr.setBud lvl { tr.bud lvl with count := 0, fired := false })

/-- Exit slot X2: PC comes from the record, and the return is a sync point of the level returned to (R359). -/
def State.exitX2 (s : State) (t : TraderId) (lvl : Nat) : State :=
  let s := s.moveLevel t lvl
  ((s.ownSlot t lvl).upd t (fun tr => { tr with pc := (s.ctxOf t lvl).pc, exiting := none })).syncPoint t (s.cur t)

/-- An entry or exit in progress completes (R157, R329). -/
def State.passOn (s : State) (t : TraderId) : State :=
  match (s.trader t).entering, (s.trader t).exiting with
  | some lvl, _ => s.enterE2 t lvl
  | none, some (lvl, x1) => (if x1 then s else s.exitX1 t lvl).exitX2 t lvl
  | none, none => s

/-- The cause of an asynchronous source (R167); of one that EV_PEND_SET made pending it is what the trader holds from the
latest error response or overrun (log 86). -/
def State.cause (s : State) (t : TraderId) (src : Nat) : Nat × Nat :=
  if src = 9 then (s.trader t).busErr
  else if src = 10 then ((s.trader t).overMarker, 0)
  else (0, 0)

/-- The trader stops at the start of its next owned slot: waits and an instruction in progress are abandoned, and PC holds
its address (R329). -/
def State.stopPlain (s : State) (t : TraderId) : State :=
  s.upd t (fun tr => { tr.abandon (s.cur t) with running := false })

/-- A trap at or below CUR is a double fault: the trader stops, DOUBLE and its source are set, and the chit of R412 is
raised; the record is not written (R157). -/
def State.doubleFault (s : State) (t : TraderId) (src : Nat) : State :=
  let s := (s.stopPlain t).upd t (fun tr => { tr with trap := none })
  let s := s.set EV_STATUS.DOUBLE t.ix true
  let s := s.put EV_STATUS.DOUBLE_SRC t.ix src
  let s := s.hallChit t.h 0x22 (t.s <<< 4 + t.t) (s.rd (t.ix.reg .EV_STATUS)) s.tick
  { s with faults := s.faults ++ [.failover t.h t.s 3] }

/-- The trap that waits is taken (R157): slot E1 of the entry at its level, or a double fault. -/
def State.takeTrap (s : State) (t : TraderId) (tp : Trap) : State :=
  if s.cur t < s.level t tp.src then
    s.enterE1 t (s.level t tp.src) tp.src tp.detail tp.addr tp.word (s.ctxAt t tp.resume)
  else s.doubleFault t tp.src

/-- A trader stops under R329: a trap raised in the slot before is taken first, and an entry or exit completes. -/
def State.stopTrader (s : State) (t : TraderId) : State :=
  let tr := s.trader t
  if !tr.running then s
  else match tr.trap with
    | some tp => ((s.takeTrap t tp).passOn t).stopPlain t
    | none => (s.passOn t).stopPlain t

end Sys2Proof.Machine
end

