-- ==== Sys2Proof/Machine/Pads.lean ====
section
/-! DEFINITION. The crier clocks (R173), what drives each pad (R175, R176, R203), switch-overs and holds (R206, R213), and
the falling edges that an SSI axis times (R32). -/

namespace Sys2Proof.Machine

/-! ## Crier cycles (R173) -/

/-- The crier clocks run: the till runs on the till PLL. -/
def State.clkRun (s : State) : Bool := s.till.clk == .pll

/-- The tick up to which the crier clocks have run: they stand while the till is on another clock (R173). -/
def State.clkTick (s : State) (t : Nat) : Nat := if s.clkRun then t else min t s.till.pllEnd

/-- The divisor of a barrow's crier clock, in 1/65,536. -/
def State.brDiv (s : State) (h b : Nat) : Nat :=
  max 2 (s.get BR_CLK.DIV_INT (ix h b)) * 65536 + s.get BR_CLK.DIV_FRAC (ix h b)

/-- The grids of a barrow's crier cycles, latest first: the present one and those before it (R173). -/
def State.grids (s : State) (h b : Nat) : List (Nat × Nat × Nat) :=
  ((s.barrow h b).base, (s.barrow h b).cycle0, s.brDiv h b) :: (s.barrow h b).grids

/-- The tick at which cycle `n` of a grid begins: that of its first cycle for an earlier one. -/
def gridStart (g : Nat × Nat × Nat) (n : Nat) : Nat := g.1 + 10 * ((n - g.2.1) * g.2.2 / 65536)

/-- The tick at which crier cycle `n` begins: by the latest grid that has it, or the start of the first grid. -/
def State.cycleStart (s : State) (h b n : Nat) : Nat :=
  match (s.grids h b).find? (fun g => decide (g.2.1 ≤ n)) with
  | some g => gridStart g n
  | none => (((s.grids h b).getLast?).map Prod.fst).getD 0

/-- The crier cycle in progress at a tick of a running crier clock. -/
def State.cycleAt (s : State) (h b t : Nat) : Nat :=
  match (s.grids h b).find? (fun g => decide (g.1 ≤ t)) with
  | some g => g.2.1 + (((t - g.1) / 10 + 1) * 65536 - 1) / g.2.2
  | none => ((((s.grids h b).getLast?).map (fun g => g.2.1)).getD 0) - 1

/-- The first crier cycle that begins at or after a tick. -/
def State.cycleFrom (s : State) (h b t : Nat) : Nat :=
  if s.cycleStart h b (s.cycleAt h b t) = t then s.cycleAt h b t else s.cycleAt h b t + 1

/-- A grid of crier cycles that begins at tick `t` with cycle `n` (R173). -/
def State.newGrid (s : State) (h b t n : Nat) : State :=
  let w := s.barrow h b
  s.setBarrow h b { w with base := t, cycle0 := n,
                           grids := if w.base < t then ((w.base, w.cycle0, s.brDiv h b) :: w.grids).take 4 else w.grids }

/-- The crier cycle of the present tick; a crier clock that stands keeps its count. -/
def State.cycle (s : State) (h b : Nat) : Nat := s.cycleAt h b (s.clkTick s.tick)

/-- The first edge of the 1.6 GHz reference at or after the present tick (R173). -/
def State.refEdge (s : State) : Nat := s.till.base + 10 * ((s.tick - s.till.base + 9) / 10)

/-- The crier clock of a barrow starts at a reference edge, `n` the cycle before its first one: its cycles count on. -/
def State.startClock (s : State) (h b n : Nat) : State :=
  s.newGrid h b s.refEdge (n + 1)

/-- The tick at which cycle k of a write now begins: the first crier cycle after the write, or, while the crier clock
stands, the next edge of the fast internal oscillator (R206). -/
def State.switchStart (s : State) (h b : Nat) : Nat :=
  if s.clkRun then s.cycleStart h b (s.cycleFrom h b (s.tick + 1)) else (s.tick / 40 + 1) * 40

/-- The tick at which a switch-over ends that begins with a write now: the start of cycle k + 1 (R206). -/
def State.switchEnd (s : State) (h b : Nat) : Nat :=
  if s.clkRun then s.cycleStart h b (s.cycleFrom h b (s.tick + 1) + 1) else (s.tick / 40 + 2) * 40

/-! ## What drives a pad -/

/-- PIN_CFG as it is in force at a tick: a write acts from cycle k on (R206). -/
def State.cfgAt (s : State) (h i t : Nat) : Nat :=
  match (s.pin h i).elec with
  | some (k, old) => if t < k then old else s.rd ((ix h i).reg .PIN_CFG)
  | none => s.rd ((ix h i).reg .PIN_CFG)

/-- The function and its qualifier that read a pad now (R203, R206). -/
def State.funcNow (s : State) (h i : Nat) : Nat := bits (s.cfgAt h i s.tick) 31 28
def State.selNow (s : State) (h i : Nat) : Nat := bits (s.cfgAt h i s.tick) 27 22

/-- BR_OWN as it decides in crier cycle `m`: a write counts from the next cycle on (R175, R192). -/
def State.ownAt (s : State) (h b m : Nat) : Nat :=
  match ((s.barrow h b).ownWas.filter (fun e => decide (m ≤ e.1))).getLast? with
  | some e => e.2
  | none => s.get BR_OWN.OWN (ix h b)

/-- BR_OWN set to `v`, to decide from the cycle after `m` on. -/
def State.ownFrom (s : State) (h b m v : Nat) : State :=
  let w := s.barrow h b
  let olds := if w.ownWas.any (fun e => e.1 == m) then w.ownWas else ((m, s.ownAt h b m) :: w.ownWas).take 6
  (s.setBarrow h b { w with ownWas := olds }).wr ((ix h b).reg .BR_OWN) v

/-- Crier `c` may drive pin position `p` of its barrow in cycle `m`, the pin being in function `f` (R175). -/
def State.mayDrive (s : State) (h b c p m f : Nat) : Bool :=
  decide (1 ≤ f) && decide (f ≤ 4) && (f == 1 + c || bit (s.ownAt h b m) (8 * c + p))

/-- OUT and OE of a crier as they reach the pads in cycle `m`: what it wrote last in an earlier cycle (R177). -/
def Crier.shown (r : Crier) (m : Nat) : Nat × Nat :=
  match ((r.outAt, r.out, r.oe) :: r.hist).find? (fun e => decide (e.1 < m)) with
  | some e => e.2
  | none => ((r.hist.getLast?).map Prod.snd).getD (r.out, r.oe)

/-- What the criers of a barrow drive on a pin position in cycle `m`, the pin being in function `f`: the value and the enable
of the winning crier (R176). -/
def State.crierDrive (s : State) (h b p m f : Nat) : Bool × Bool :=
  match (List.range 4).find? (fun c => s.mayDrive h b c p m f && bit ((s.crier ⟨h, b, c⟩).shown m).2 p) with
  | some c => (bit ((s.crier ⟨h, b, c⟩).shown m).1 p, true)
  | none => (false, false)

/-- An output signal of a lane's sideband (R264): none where the signal drives nothing. -/
def State.sideband (s : State) (h k n : Nat) : Option Bool :=
  match n with
  | 0 => some (s.get LN_STATUS.STATE (ix h k) == 2)
  | 1 => some (s.is LN_SB.TX_DISABLE (ix h k))
  | 4 => some (s.is LN_SB.RESET_L (ix h k))
  | 6 => some (s.is LN_SB.LPMODE (ix h k))
  | 7 => some (s.lane h k).active.isSome
  | _ => none

/-- What the function of a configuration drives on a pin in crier cycle `m`: the value and the output enable (R203). Functions
10 to 15 carry FN_OUT and FN_OE of the integrator as sampled in that cycle (R425): free values. -/
def State.funcOut (s : State) (h i m cfg : Nat) : Bool × Bool :=
  let sel := bits cfg 27 22
  match bits cfg 31 28 with
  | 0 => (s.is PIN_GPIO.DATA (ix h i), s.is PIN_GPIO.OE (ix h i))
  | 1 | 2 | 3 | 4 => s.crierDrive h (i / 8) (i % 8) m (bits cfg 31 28)
  | 5 => ((s.mark h (sel % 32)).level, true)
  | 6 => (false, false)
  | 7 => (s.is CT_CTRL.OUT_LEVEL (ix h sel), true)
  | 8 => match s.sideband h (sel / 16) (sel % 16) with
    | some v => (v, true)
    | none => (false, false)
  | 9 => (false, false)
  | _ => (Config.fnOut (128 * h + i) m, Config.fnOe (128 * h + i) m)

/-- The pad follows its registers: those of pins 64 to 1023 only from full service on (R378, R380). -/
def State.padLive (s : State) (h i : Nat) : Bool := decide (128 * h + i < 64) || s.is PWR_STATUS.FULL

/-- What a configuration puts on a pad in crier cycle `m`: an analogue pad has neither a driver nor a pull (R204, R208), nor
has one that does not follow its registers yet. -/
def State.padUnder (s : State) (h i m cfg : Nat) : PadKeep :=
  let o := s.funcOut h i m cfg
  if bits cfg 31 28 = 9 || !s.padLive h i then ⟨false, false, 0, 0⟩ else ⟨o.1, o.2, bits cfg 18 17, bits cfg 16 15⟩

/-- What a pad carries at tick `t`, by its present sources: what it keeps; from the start of cycle k of a switch-over or a hold on, what it carried in
cycle k - 1; and otherwise what its configuration in force puts on it. DESIGN CHOICE (assumption log 87): DRIVE and PULL of a
write that also changes FUNC or SEL act with the new function, from cycle k + 1. -/
def State.padAt (s : State) (h i t : Nat) : PadKeep :=
  let m (t : Nat) : Nat := s.cycleAt h (i / 8) (s.clkTick t)
  match (s.pin h i).keep with
  | some k => k
  | none =>
    match (s.pin h i).capture with
    | some k => if k ≤ t then s.padUnder h i (m (k - 1)) (s.cfgAt h i (k - 1)) else s.padUnder h i (m t) (s.cfgAt h i t)
    | none => s.padUnder h i (m t) (s.cfgAt h i t)

/-- What a pad keeps at tick `t`: nothing before the start of cycle k of its switch-over or its hold. -/
def State.padKept (s : State) (h i t : Nat) : Option PadKeep :=
  match (s.pin h i).capture with
  | some k => if k ≤ t then some (s.padAt h i t) else none
  | none => (s.pin h i).keep

/-- What a pad carries now: an acknowledge of the I²C matcher overrides the hold (R388), with the DRIVE class that it keeps (R427). -/
def State.padOut (s : State) (h i : Nat) : PadKeep :=
  let k := s.padAt h i s.tick
  if s.power.ack = some (128 * h + i) then { k with v := false, oe := true } else k

/-- What a pad carried at a tick not long past, before the changes of its sources since. -/
def State.padThen (s : State) (h i t : Nat) : PadKeep :=
  match ((s.pin h i).hist.filter (fun e => decide (t < e.1))).getLast? with
  | some e => e.2
  | none => s.padAt h i t

/-- The longest way from a source of a pad to the sampling register of its input, and the shortest one to the pad: output delays
of 1.2 to 3.2 ns and input delays of at most 1.4 ns, in ticks (R177, R423). -/
def padSlow : Nat := 74
def padFast : Nat := 19

/-- The level that the tile's own drive puts on a pad as seen at tick `t`, where that drive has been the same for as long as the
pad delays may take; none where it has changed meanwhile, or nothing drives the pad. -/
def State.padDriven (s : State) (h i t : Nat) : Option Bool :=
  let t0 := t - padSlow
  let t1 := t - padFast
  let b := i / 8
  let n := s.cycleAt h b (s.clkTick t0)
  let starts := (List.range (s.cycleAt h b (s.clkTick t1) - n)).map (fun k => s.cycleStart h b (n + 1 + k))
  let turns := ((s.pin h i).hist.map Prod.fst).filter (fun x => decide (t0 < x) && decide (x ≤ t1))
  let o := s.padThen h i t0
  if t0 < (s.pin h i).heldFrom ∧ (s.pin h i).heldFrom ≤ t1 then none
  else if o.oe && (t1 :: starts ++ turns).all (fun x => (s.padThen h i x).oe && (s.padThen h i x).v == o.v) then some o.v
  else none

/-- The pin has a hold source (R213). -/
def State.heldPin (s : State) (h i : Nat) : Bool := bits (s.rd ((ix h i).reg .PIN_STATUS)) 30 27 != 0

/-- The input buffer of a pin is on at tick `t`: a held pin keeps it as it stood when the hold began, and an analogue pin has
none (R204, R213). -/
def State.inputAt (s : State) (h i t : Nat) : Bool :=
  if s.heldPin h i then (s.pin h i).inKept
  else s.padLive h i && bits (s.cfgAt h i t) 31 28 != 9 && bit (s.cfgAt h i t) 14

/-- The input buffer of a pin is on now. -/
def State.inputOn (s : State) (h i : Nat) : Bool := s.inputAt h i s.tick

/-! ## Switch-overs and holds (R206, R213) -/

/-- A pad whose cycle k has begun keeps from now on what it carried in cycle k - 1, whatever its sources do next. -/
def State.freezePin (s : State) (h i t : Nat) : State :=
  match (s.pin h i).keep, (s.pin h i).capture with
  | none, some k => if k ≤ t then s.setPin h i { s.pin h i with keep := some (s.padAt h i k) } else s
  | _, _ => s

/-- Every pad of a hall whose cycle k has begun by tick `t`: called as time passes, and before a source of pads changes. -/
def State.freeze (s : State) (h t : Nat) : State :=
  forAll ((Tab.keys s.pins).filter (fun k => k.1 == h)) (fun k s => s.freezePin k.1 k.2 t) s

/-- Every pad of the tile whose cycle k has begun keeps what it carried in cycle k - 1 (R206, R213). -/
def State.freezeAll (s : State) : State := forAll (Tab.keys s.pins) (fun k s => s.freezePin k.1 k.2 s.tick) s

/-- The pad latches take every output that a hold is about to keep (R215). -/
def State.latchPads (s : State) : State :=
  forAll (Tab.keys s.pins) (fun k s =>
    match (s.pin k.1 k.2).capture with
    | some c => s.freezePin k.1 k.2 (max c s.tick)
    | none => s) s

/-- PIN_CFG as it connects the pad at tick `t`: through cycle k of a switch-over, and through a hold, as before (R206, R424). -/
def State.connCfg (s : State) (h i t : Nat) : Nat :=
  if s.heldPin h i || (s.pin h i).switching.any (fun e => decide (t < e)) then (s.pin h i).connWas else s.cfgAt h i t

/-- A switch-over with cycle k beginning at tick `t` and k + 1 at tick `e`. -/
def State.switchOver (s : State) (h i t e : Nat) : State :=
  let s := s.freezePin h i s.tick
  s.setPin h i { s.pin h i with capture := if (s.pin h i).keep.isSome then (s.pin h i).capture else some t, switching := some e,
                                     connWas := s.connCfg h i s.tick,
                                     heldFrom := if (s.pin h i).keep.isSome then (s.pin h i).heldFrom else t }

/-- A hold source set: from cycle k on the pad keeps what it carries, and its input works on as it stands. -/
def State.hold (s : State) (h i : Nat) (src : Field) : State :=
  let s := if s.heldPin h i then s
    else
      let s := s.switchOver h i (s.switchStart h (i / 8)) (s.switchEnd h (i / 8))
      let cfg := s.rd ((ix h i).reg .PIN_CFG)
      s.setPin h i { s.pin h i with switching := none, inKept := s.padLive h i && bits cfg 31 28 != 9 && bit cfg 14 }
  s.set src (ix h i) true

/-- A hold source cleared: with the last one the pad is released at the end of cycle k'. -/
def State.release (s : State) (h i : Nat) (src : Field) : State :=
  if !s.is src (ix h i) then s
  else
    let s := (s.freezePin h i s.tick).set src (ix h i) false
    if s.heldPin h i then s
    else s.setPin h i { s.pin h i with switching := some (s.switchEnd h (i / 8)) }

/-! ## The clock line of an SSI axis (R32) -/

/-- The falling edges that a change from `old` to `s` drives on the clock pins of SSI axes of a hall, at tick `t`: the first
one since the previous word is kept. -/
def State.ssiFalls (s old : State) (h t : Nat) : State :=
  forAll (List.range 16) (fun k s' =>
    let i := ix k
    if s.get TAX_CTRL.SRC i = 2 ∧ s.get TAX_SRC.HALL i = h ∧ (s.axis k).ssiFall.isNone then
      let p := 8 * s.get TAX_SRC.BARROW i + s.get TAX_SRC.POS_A i
      let o := old.padAt h p t
      let o' := s.padAt h p t
      if o.v && o.oe && o'.oe && !o'.v then s'.setAxis k { s'.axis k with ssiFall := some t } else s'
    else s') s

/-- The pads of a hall that a change from `old` to `s` moves at tick `t`: what they carried until then is kept (R177). -/
def State.padTurns (s old : State) (h t : Nat) : State :=
  forAll ((Tab.keys s.pins).filter (fun k => k.1 == h)) (fun k s' =>
    if old.padAt k.1 k.2 t = s.padAt k.1 k.2 t then s'
    else s'.setPin k.1 k.2 { s'.pin k.1 k.2 with hist := (t, old.padAt k.1 k.2 t) :: (s'.pin k.1 k.2).hist.take 7 }) s

/-- A change of what drives the pads of a hall, at tick `t`: pads in their held cycle keep what they carry, falling edges
on SSI clock pins are timed, and what the pads carried until then is kept. -/
def State.drives (s : State) (h t : Nat) (f : State → State) : State :=
  ((f (s.freeze h t)).ssiFalls (s.freeze h t) h t).padTurns (s.freeze h t) h t

/-- The first falling edge that what cycle `n` has written drives on the clock pins of SSI axes of a barrow, at tick `at_`, the
start of the next cycle (R32, R177). -/
def State.ssiEdges (s : State) (h b n at_ : Nat) : State :=
  forAll (List.range 16) (fun k s =>
    let i := ix k
    if s.get TAX_CTRL.SRC i = 2 ∧ s.get TAX_SRC.HALL i = h ∧ s.get TAX_SRC.BARROW i = b then
      let p := 8 * b + s.get TAX_SRC.POS_A i
      let o := s.padAt h p (s.cycleStart h b n)
      let o' := s.padAt h p at_
      if o.v && o.oe && o'.oe && !o'.v && (s.axis k).ssiFall.isNone then s.setAxis k { s.axis k with ssiFall := some at_ }
      else s
    else s) s

/-- A write of BR_OWN: the new owners drive from the next crier cycle on (R175). -/
def State.brOwnWrite (s : State) (h b v : Nat) : State :=
  let m := s.cycle h b
  (s.ownFrom h b m v).ssiEdges h b m (s.cycleStart h b (m + 1))

/-! ## Signals of the integrator (R416, R424, R425) -/

/-- FN_CODE of a pin, in functions 10 to 15 (R425). -/
def State.fnCode (s : State) (h i : Nat) : Option Nat :=
  let f := bits (s.connCfg h i s.tick) 31 28
  if 10 ≤ f then some (f - 10) else none

/-- FN_SEL of a pin, in functions 10 to 15 (R425). -/
def State.fnSel (s : State) (h i : Nat) : Option Nat :=
  let c := s.connCfg h i s.tick
  if 10 ≤ bits c 31 28 then some (bits c 27 22) else none

/-- FN_IN of a pin whose pad stands at a level: 0 where the input is off (R425). -/
def State.fnIn (s : State) (h i : Nat) (pad : Bool) : Bool := pad && s.inputOn h i

/-- An edge of BR_CLK_OUT of a barrow falls in the present tick: a crier cycle begins (R173, R425). -/
def State.brClkEdge (s : State) (h b : Nat) : Bool := s.clkRun && s.cycleStart h b (s.cycle h b) == s.tick

/-- The line of ANA_BUS to which the switch of a pad connects it, in function 9 from cycle k + 1 of the switch-over to it until
cycle k + 1 of the one that leaves it (R424). -/
def State.anaLine (s : State) (h i : Nat) : Option Nat :=
  let c := s.connCfg h i s.tick
  if s.padLive h i && bits c 31 28 == 9 then some (bits c 27 22) else none

/-- The hysteresis of a pad is on: by HYST, or in sleep for the two pads of the I²C matcher (R427). -/
def State.hystOn (s : State) (h i : Nat) : Bool :=
  bit (s.cfgAt h i s.tick) 19 ||
    (s.asleep && s.is WK_I2C.EN && (128 * h + i == s.get WK_I2C.SCL_PIN || 128 * h + i == s.get WK_I2C.SDA_PIN))

end Sys2Proof.Machine
end

