-- ==== Sys2Proof/Machine/Axes.lean ====
section
/-! DEFINITION. The tally axes (R32 to R42) and the tally marks (R43 to R51). -/

namespace Sys2Proof.Machine

/-! ## Marks: projection and commitment (R44 to R46) -/

/-- What a projection gives. -/
inductive Proj where
  | ahead (instant : Int)
  | behind
  | waiting
  deriving DecidableEq, Repr

/-- The sign of target minus the present position at `tr`, exactly. -/
def sideOf (target p v : Int) (t tr : Int) : Int := (target * 2 ^ 24 - (p * 2 ^ 24 + v * (tr - t))).sign

/-- The projected instant of a target ahead, unless it lies more than 2^40 ticks after `tr` (R44). -/
def projAhead (target p v t tr : Int) : Proj :=
  let i := t + roundLater ((target - p) * 2 ^ 24) v
  if tr + 2 ^ 40 < i then .waiting else .ahead i

/-- A projection at `tr` from the state (p, v, t), for a direction, a standstill velocity and the sign history (R44). -/
def projectMark (dir : Nat) (vmin target : Int) (sign : Option Int) (p v t tr : Int) : Proj :=
  let side := sideOf target p v t tr
  match dir with
  | 0 => if side ≤ 0 then .behind else if vmin < v then projAhead target p v t tr else .waiting
  | 1 => if 0 ≤ side then .behind else if v < -vmin then projAhead target p v t tr else .waiting
  | _ =>
    let crossed := match sign with
      | some g => side != g
      | none => false
    if side = 0 ∨ crossed = true then .behind
    else if (0 < side ∧ vmin < v) ∨ (side < 0 ∧ v < -vmin) then projAhead target p v t tr
    else .waiting

/-- The target of a repeating mark advanced by its step until it is no longer behind, at most `fuel` times; the number of
advances used up (R46). The sign history starts afresh with each advance. DESIGN CHOICE (assumption log 121): a target that is
no longer behind after exactly the last advance allowed stays armed. -/
def advanceTarget (dir : Nat) (vmin step p v t tr : Int) : Nat → Int → Int × Bool
  | 0, target => (target, false)
  | fuel + 1, target =>
    let target := target + step
    match projectMark dir vmin target none p v t tr with
    | .behind => advanceTarget dir vmin step p v t tr fuel target
    | _ => (target, true)

/-- AXIS and DIR in force: those of the ARM write (R43). -/
def Mark.axis (m : Mark) : Nat := bits m.cfg 29 26
def Mark.dir (m : Mark) : Nat := bits m.cfg 25 24

/-- The mark reads as before until tr + 32 (R45). -/
def Mark.publish (m : Mark) (now tr : Nat) : Mark :=
  { m with inst0 := if m.eff ≤ now then m.inst else m.inst0, committed0 := if m.eff ≤ now then m.committed else m.committed0,
           eff := tr + 32 }

/-- The outcome of a projection applied to a mark whose target is not behind, with the next update at `tn` (R45). -/
def Mark.settle (m : Mark) (pr : Proj) (tr tn : Nat) : Mark :=
  match pr with
  | .ahead i =>
    if (tn : Int) + 96 ≤ i then { m with inst := some i.toNat, committed := false }
    else if (tr : Int) + 64 ≤ i then { m with inst := some i.toNat, committed := true }
    else { m with inst := some (tr + 64), committed := true, slip := true }
  | _ => { m with inst := none, committed := false }

/-- The next update instant of an axis after its last one. -/
def State.nextUpdate (s : State) (n : Nat) : Nat :=
  let k := min (max (s.get TAX_CTRL.K (ix n)) 6) 20
  max ((s.axis n).t + 2 ^ k) (s.axis n).notBefore

/-- A mark projects at `tr` from the state (p, v, t) of its axis, and commits, waits, fires late, is dropped or is
advanced (R44 to R46). -/
def State.project (s : State) (h m : Nat) (p v : Int) (t tr : Nat) : State :=
  let i := ix h m
  let mk := (s.mark h m).publish s.tick tr
  let n := mk.axis
  let dir := mk.dir
  let vmin : Int := s.get TAX_VMIN.VAL (ix n)
  if s.is TAX_STATUS.LOST (ix n) || !s.is TAX_CTRL.ENABLE (ix n) then
    s.setMark h m { mk with inst := none, committed := false }
  else
    let tn := s.nextUpdate n
    let pr := projectMark dir vmin mk.target mk.sign p v t tr
    let side := sideOf mk.target p v t tr
    match pr with
    | .behind =>
      if !bit mk.cfg 23 then
        s.setMark h m { mk with inst := some (tr + 64), committed := true, late := true, sign := some side }
      else if !bit mk.cfg 22 then
        ((s.setMark h m { mk with inst := none, committed := false }).set TM_STATUS.ARMED i false).set TM_STATUS.DROPPED i true
      else
        let (target, ok) := advanceTarget dir vmin mk.step p v t tr 65536 mk.target
        let s := s.set TM_STATUS.DROPPED i true
        if ok then
          let mk := { mk with target := target, sign := some (sideOf target p v t tr) }
          s.setMark h m (mk.settle (projectMark dir vmin target none p v t tr) tr tn)
        else (s.setMark h m { mk with target := target, inst := none, committed := false }).set TM_STATUS.ARMED i false
    | pr => s.setMark h m ({ mk with sign := some side }.settle pr tr tn)

/-- A projection at an ARM write or at an action: from the state of the axis in force at `tr` (R44). -/
def State.projectAt (s : State) (h m tr : Nat) : State :=
  let (p, v, t) := (s.axis (s.mark h m).axis).inForce tr
  s.project h m p v t tr

/-! ## Arming (R43, R49) -/

/-- The arming with TM_CTRL as written takes effect at `tr`. -/
def State.arm (s : State) (h m v : Nat) (target step : Int) (action tr : Nat) : State :=
  let i := ix h m
  let s := s.wr (i.reg .TM_CTRL) (bits v 29 22 <<< 22)
  let s := s.set TM_STATUS.ARMED i true
  let mk := s.mark h m
  let mk := { mk with target := target, step := step, action := action, cfg := v, sign := none, slip := false, late := false,
                      committed := false, inst := none, nextArm := none }
  (s.setMark h m mk).projectAt h m tr

/-- The committed instant lies less than 64 ticks ahead, so nothing prevents the action any more (R49). -/
def Mark.imminent (mk : Mark) (now : Nat) : Bool :=
  match mk.inst with
  | some i => mk.committed && decide (i < now + 64)
  | none => false

/-- DISARM: an arming that is not about to act is withdrawn (R49). DESIGN CHOICE (assumption log 83): one that comes after a
late ARM leaves the arming that waits for the action in place. -/
def State.disarm (s : State) (h m : Nat) : State :=
  let mk := s.mark h m
  if s.is TM_STATUS.ARMED (ix h m) && mk.imminent s.tick then s
  else (s.setMark h m { (mk.publish s.tick s.tick) with inst := none, committed := false, nextArm := none, eff := s.tick }).set
    TM_STATUS.ARMED (ix h m) false

/-- A write of TM_CTRL (R43). DESIGN CHOICE (assumption log 82): a write with DISARM stores none of its RW fields. -/
def State.tmCtrlWrite (s : State) (h m v : Nat) : State :=
  let i := ix h m
  let mk := s.mark h m
  let target := sgn 64 (s.rd (i.reg .TM_TARGET))
  let step := sgn 64 (s.rd (i.reg .TM_STEP))
  let dir := bits v 25 24
  if bit v 30 then
    let s := s.disarm h m
    if bit v 31 then s.set TM_STATUS.CFG_ERR i true else s
  else if !bit v 31 then s.wr (i.reg .TM_CTRL) (bits v 29 22 <<< 22)
  else if dir = 3 ∨ (bit v 22 ∧ (step = 0 ∨ (step < 0 ∧ dir = 0) ∨ (0 < step ∧ dir = 1))) then
    s.set TM_STATUS.CFG_ERR i true
  else
    let action := s.rd (i.reg .TM_ACTION)
    if s.is TM_STATUS.ARMED i && mk.imminent s.tick then
      s.setMark h m { mk with nextArm := some (v, target, step, action) }
    else s.arm h m v target step action s.tick

/-- The uncommitted marks of an axis that is lost or disabled wait from now on (R44). -/
def State.marksWait (s : State) (n : Nat) : State :=
  forAll (Tab.keys s.marks) (fun k s =>
    let mk := s.mark k.1 k.2
    if s.is TM_STATUS.ARMED (ix k.1 k.2) && mk.axis == n && !mk.committed then
      s.setMark k.1 k.2 { mk with inst := none, eff := s.tick }
    else s) s

/-! ## Loss, steps, measurements (R32, R33, R37 to R42) -/

/-- TAX_STATUS as read: COARSE shows as EARLY (R36). -/
def State.taxStatus (s : State) (n : Nat) : Nat := setBits (s.rd ((ix n).reg .TAX_STATUS)) 28 28 (s.get TILL_STATUS.COARSE)

/-- The axis is lost: v := 0, LOST := 1, a TA_LOST chit, and a fault of the wind-down class where a hall names the axis
(R38, R411). A loss by an update is in force with that update (R35); a loss at an edge or at a wake, `now`, is so at once. -/
def State.goLost (s : State) (n at_ : Nat) (now : Bool) : State :=
  let a := s.axis n
  let s := s.setAxis n { a with v := 0, v0 := if now then 0 else a.v0, coast := 0, meas := none }
  let s := s.set TAX_STATUS.LOST (ix n) true
  let s := s.set TAX_STATUS.COASTING (ix n) false
  let s := s.set TAX_STATUS.STANDSTILL (ix n) true
  let s := if now then s.marksWait n else s
  let s := s.chit 0x07 n (s.taxStatus n) at_
  if (List.range s.part.halls).any (fun h => bit (s.get FT_WIND.AXES (ix h)) n) then
    { s with faults := s.faults ++ [.wind 1 n] }
  else s

/-- A loss at tick `at_`, by an update or `now`: the axis coasts, or is lost at once when COAST is 0 (R38). -/
def State.axisLoss (s : State) (n at_ : Nat) (now : Bool) : State :=
  if s.is TAX_STATUS.LOST (ix n) || s.is TAX_STATUS.COASTING (ix n) || s.get TAX_CTRL.SRC (ix n) == 4 then s
  else if s.get TAX_CTRL.COAST (ix n) = 0 then s.goLost n at_ now
  else
    let s := s.setAxis n { s.axis n with coast := s.get TAX_CTRL.COAST (ix n) }
    s.set TAX_STATUS.COASTING (ix n) true

/-- A measurement (z in 2^-24 counts, tm): one earlier than the previous one is discarded (R33). -/
def Axis.measure (a : Axis) (z tm : Int) : Axis :=
  match a.lastTm with
  | some l => if tm < l then a else { a with meas := some (z, tm), lastTm := some tm }
  | none => { a with meas := some (z, tm), lastTm := some tm }

/-- The pin that carries a line of a quadrature axis has its input on (R32). -/
def State.quadInput (s : State) (n : Nat) (line : Field) : Bool :=
  s.inputOn (s.get TAX_SRC.HALL (ix n)) (8 * s.get TAX_SRC.BARROW (ix n) + s.get line (ix n))

/-- The new level, first sampled at `tm`, has held for QFILT + 1 samples of the grid of 16 ticks (R32). -/
def State.quadFiltered (s : State) (n tm : Nat) : Bool :=
  tm % 16 == 0 && decide (tm + 16 * s.get TAX_SRC.QFILT (ix n) ≤ s.tick)

/-- An accepted quadrature edge of an axis, enabled or not: the levels of lines A and B after it, and the till of its first filter sample
(R32, R33). -/
def State.quadEdge (s : State) (n : Nat) (la lb : Bool) (tm : Nat) : State :=
  let a := s.axis n
  if s.get TAX_CTRL.SRC (ix n) ≠ 1 ∨ (la = a.lineA ∧ lb = a.lineB) then s
  else
    let a' := { a with lineA := la, lineB := lb }
    let s := s.setAxis n a'
    if la ≠ a.lineA ∧ lb ≠ a.lineB then (s.set TAX_STATUS.QUAD_ERR (ix n) true).axisLoss n tm true
    else if (match a.lastEdge with | some l => decide (tm < l + 320) | none => false) then
      (s.set TAX_STATUS.OVERSPEED (ix n) true).axisLoss n tm true
    else
      let up := (la != a.lineA && la != lb) || (lb != a.lineB && la == lb)
      let up := up != s.is TAX_CTRL.INVERT (ix n)
      let z := wrapS 64 (a.z + (if up then 2 ^ 24 else -(2 ^ 24)))
      s.setAxis n { (a'.measure z tm) with z := z, lastEdge := some tm }

/-- An SSI word unwrapped to the value nearest to the predicted position; of two equally near the higher (R40). -/
def unwrapSsi (w : Nat) (word : Nat) (p v : Int) (t tm : Int) : Int :=
  let pred := p * 2 ^ 24 + v * (tm - t)
  let m : Int := 2 ^ w
  let k := (pred - (word % 2 ^ w : Nat) * 2 ^ 48 + m * 2 ^ 47) / (m * 2 ^ 48)
  ((word % 2 ^ w : Nat) + m * k) * 2 ^ 24

/-- An SSI word delivered to an axis at tick `at_` (R32). -/
def State.ssiWord (s : State) (n word at_ : Nat) : State :=
  let a := s.axis n
  let lat := sgn 32 (s.rd ((ix n).reg .TAX_LATENCY))
  let tm : Int := (match a.ssiFall with | some f => (f : Int) | none => (at_ : Int)) + lat
  let z := unwrapSsi (s.get TAX_SRC.WORD_BITS (ix n) + 1) word a.p a.v a.t tm
  s.setAxis n { (a.measure z tm) with ssiFall := none }

/-! ## The estimator (R34) -/

/-- What an update has to work on: the axis as it was, the instant, and what the update gives. -/
structure Upd where
  p : Int
  v : Int
  /-- The residual in 2^-48 counts and the instant of the measurement used. -/
  r48 : Int := 0
  used : Option Int := none
  step : Bool := false
  deriving DecidableEq, Repr

/-- The update of R34 from a measurement, before any step: alpha and beta in 1/65,536, K as the period's power. -/
def estimate (p v : Int) (t tu : Int) (alpha beta k : Nat) (m : Option (Int × Int)) : Upd :=
  let r48 := match m with
    | some (z, tm) => z * 2 ^ 24 - (p * 2 ^ 24 + v * (min tm tu - t))
    | none => 0
  { p := roundAway ((p * 2 ^ 24 + v * (tu - t)) * 65536 + alpha * r48) (2 ^ 40)
    v := roundAway (v * (65536 * 2 ^ k) + beta * r48) (65536 * 2 ^ k)
    r48 := r48
    used := m.map (fun q => min q.2 tu) }

/-- The commanded velocity of the ramp axis of a wind-down in its update (R373). -/
def rampVel (w : Wind) (v : Int) : Int :=
  let d := if w.knee < v.natAbs then w.decel1 else w.decel2
  v.sign * max (v.natAbs - d) 0

/-- The axis counters of every hall that an update of axis `n` advances, to whole position `p` (R53). -/
def State.axisCounts (s : State) (n : Nat) (p : Int) (at_ : Nat) : State :=
  forAll (Tab.keys s.counters) (fun k s =>
    let i := ix k.1 k.2
    if s.is CT_CTRL.ENABLE i && s.get CT_CTRL.CLK_SRC i == 1 && s.get CT_CTRL.AXIS i == n then
      let c := s.counter k.1 k.2
      let rev := s.is CT_CTRL.AX_REV i
      let w : Int := if rev then -((-p) / 2 ^ 24) else p / 2 ^ 24
      let gain : Int := if rev then c.record - w else w - c.record
      if 0 < gain then s.setCounter k.1 k.2 { c with record := w, todo := c.todo ++ [(at_, gain.toNat)] } else s
    else s) s

/-- The marks of an axis project again at an update: every armed mark that is not committed (R45). -/
def State.markUpdates (s : State) (n : Nat) (p v : Int) (tu : Nat) : State :=
  forAll (Tab.keys s.marks) (fun k s =>
    let i := ix k.1 k.2
    if s.is TM_STATUS.ARMED i && (s.mark k.1 k.2).axis == n && !(s.mark k.1 k.2).committed then s.project k.1 k.2 p v tu tu
    else s) s

/-- What CALIBRATE_AXIS jobs of the axis observe of an update that used a measurement (R332). -/
def State.observe (s : State) (n : Nat) (u : Upd) (resid : Int) : State :=
  match u.used with
  | none => s
  | some tm =>
    forAll s.jobs (fun j s =>
      match j.body with
      | .calibrate ax _ _ _ _ _ =>
        if ax = n ∧ j.state = .running then
          let c := Tab.get s.calibs j.num {}
          let gap := match c.lastTm with | some l => tm.toNat - l | none => 0
          let c' : Calib := { c with used := c.used + 1, maxR := max c.maxR resid.natAbs, sumR := c.sumR + resid.natAbs,
                                     maxGap := max c.maxGap gap, lastTm := some tm.toNat }
          { s with calibs := Tab.set s.calibs j.num c' }
        else s
      | _ => s) s

/-- A wind-down ends at the first update of its axis at standstill (R373, step 3). -/
def State.windDone (s : State) (n : Nat) : State :=
  match s.wind with
  | some w =>
    if w.axis = n ∧ s.is TAX_STATUS.STANDSTILL (ix n) then
      let s := forAll (List.range s.part.halls) (fun h s => s.set HS_STATUS.WINDING (ix h) false) { s with wind := none }
      if w.job = 0xFFF0 then s else s.jobTo w.job .done
    else s
  | none => s

/-- An update without a measurement counts. With as many in a row as STANDSTILL, or more where the limit has been lowered, v
is set to 0 (R37); with as many as LOST an SSI or lane axis is lost (R38). A synthesised axis has no measurements to miss. -/
def State.missing (s : State) (n tu : Nat) (src : Nat) (used : Bool) : State :=
  if src = 4 then s
  else if used then s.setAxis n { s.axis n with missed := 0, stillMissing := false }
  else
    let a := { s.axis n with missed := (s.axis n).missed + 1 }
    let still := s.get TAX_LIMITS.STANDSTILL (ix n)
    let a := if still ≠ 0 ∧ still ≤ a.missed then { a with v := 0, stillMissing := true } else a
    let s := s.setAxis n a
    if (src = 2 ∨ src = 3) ∧ s.get TAX_LIMITS.LOST (ix n) ≠ 0 ∧ s.get TAX_LIMITS.LOST (ix n) ≤ a.missed then
      (s.setAt TAX_STATUS.SRC_TIMEOUT (ix n) tu).axisLoss n tu false
    else s

/-- What happens before the update at `tu`: a preset of CALIBRATE_AXIS writes TAX_PRESET (R332), and the ramp of a
wind-down writes TAX_VCMD (R373). -/
def State.axisBefore (s : State) (n tu : Nat) : State :=
  let a := s.axis n
  let s := match a.calPreset with
    | some (job, te, ps) =>
      let s := s.wr ((ix n).reg .TAX_PRESET) (unsg 64 (ps + roundAway (a.v * ((tu : Int) - te)) (2 ^ 24)))
      { s with calibs := Tab.set s.calibs job { Tab.get s.calibs job {} with te := te, armed := false } }
    | none => s
  match s.wind with
  | some w => if w.ramp = some n ∧ w.start ≤ tu then s.wr ((ix n).reg .TAX_VCMD) (unsg 64 (rampVel w a.v)) else s
  | none => s

/-- The update at `tu` is the recovery of a lost axis, or of one that waits for it after a wake (R41, R42). -/
def State.axisRecovers (s : State) (n : Nat) : Bool :=
  let src := s.get TAX_CTRL.SRC (ix n)
  (s.is TAX_STATUS.LOST (ix n) && s.is TAX_CTRL.AUTO_RESUME (ix n) || (s.axis n).wakeRecover) && (src == 2 || src == 3) &&
    (s.axis n).meas.isSome

/-- The update at `tu` ends loss and coasting: a recovery, a preset or CLEAR_LOST (R39, R41). DESIGN CHOICE (assumption log
81): on a coasting axis the two commands end the coast too, and the loss that it would have led to. -/
def State.axisFreed (s : State) (n : Nat) : Bool :=
  s.axisRecovers n || ((s.axis n).presetPend || (s.axis n).calPreset.isSome) || (s.axis n).clearPend

/-- Position and velocity of the update at `tu` by the source and the state of the axis (R34, R38, R40, R41), with the steps
of a preset, which keeps v, and of CLEAR_LOST, which keeps p (R39). A preset synthesised axis still takes TAX_VCMD (R41). DESIGN
CHOICE (assumption log 123): until its first measurement after a wake an SSI or lane axis goes on with v, its updates having
r = 0. -/
def State.axisUpd (s : State) (n tu : Nat) : Upd :=
  let i := ix n
  let a := s.axis n
  let coasted : Int := roundAway (a.p * 2 ^ 24 + a.v * ((tu : Int) - a.t)) (2 ^ 24)
  let u : Upd :=
    if s.get TAX_CTRL.SRC i = 4 then
      let v := sgn 64 (s.rd (i.reg .TAX_VCMD))
      { p := roundAway (a.p * 2 ^ 24 + v * ((tu : Int) - a.t)) (2 ^ 24), v := v }
    else if s.axisRecovers n then
      { p := (a.meas.getD (0, 0)).1, v := 0, used := a.meas.map (fun m => min m.2 tu), step := true }
    else if s.is TAX_STATUS.LOST i then { p := a.p, v := a.v }
    else if s.is TAX_STATUS.COASTING i ∨ a.wakeRecover then { p := coasted, v := a.v }
    else estimate a.p a.v a.t tu (s.get TAX_GAIN.ALPHA i) (s.get TAX_GAIN.BETA i) (min (max (s.get TAX_CTRL.K i) 6) 20) a.meas
  let src4 := s.get TAX_CTRL.SRC i == 4
  let preset := a.presetPend || a.calPreset.isSome
  let u := if preset then { u with p := sgn 64 (s.rd (i.reg .TAX_PRESET)), v := if src4 then u.v else a.v, step := true } else u
  if a.clearPend then { u with p := if preset then u.p else a.p, v := 0, step := true } else u

/-- The axis after the update `u` at `tu`, with what was in force until then kept until `tu` + 32 (R35). The count of missing
measurements starts anew with the end of a loss. -/
def Axis.updated (a : Axis) (u : Upd) (freed ended : Bool) (tu : Nat) : Axis :=
  let p := wrapS 64 u.p
  let old := decide (a.eff ≤ tu)
  { a with p := p, v := wrapS 64 u.v, t := tu, p0 := (a.inForce tu).1, v0 := (a.inForce tu).2.1, t0 := (a.inForce tu).2.2,
           eff := tu + 32, upd := tu, upd0 := if old then a.upd else a.upd0,
           resid0 := if old then a.resid else a.resid0, measTill0 := if old then a.measTill else a.measTill0,
           resid := satS 32 (roundAway u.r48 (2 ^ 32)),
           measTill := match u.used with | some tm => tm.toNat | none => a.measTill,
           z := if u.step || p != u.p then p else a.z, meas := none, presetPend := false, clearPend := false,
           calPreset := none, notBefore := 0, missed := if ended then 0 else a.missed,
           coast := if freed then 0 else a.coast, wakeRecover := a.wakeRecover && !freed }

/-- Loss and coasting at an update that does not end them: the coast counts down and its last update makes the axis lost; an
axis that is neither counts the updates without a measurement (R37, R38). -/
def State.axisMissed (s : State) (n tu src : Nat) (lost coasting used : Bool) (coast : Nat) : State :=
  if coasting then
    (if coast ≤ 1 then s.goLost n tu false else s.setAxis n { s.axis n with coast := coast - 1 })
  else if lost then s
  else s.missing n tu src used

/-- What follows from an update: standstill, the observation of a calibration, the marks and the counters of the axis, and
the end of a wind-down. -/
def State.axisAfter (s : State) (n tu : Nat) (u : Upd) : State :=
  let vmin : Int := s.get TAX_VMIN.VAL (ix n)
  let s := s.set TAX_STATUS.STANDSTILL (ix n) (decide (((s.axis n).v.natAbs : Int) ≤ vmin))
  let s := s.observe n u (satS 32 (roundAway u.r48 (2 ^ 32)))
  let s := s.markUpdates n (s.axis n).p (s.axis n).v tu
  let s := s.axisCounts n (s.axis n).p (tu + 32)
  s.windDone n

/-- The update of an axis at tu (R34 to R41): the estimator, coasting, recovery and steps, then what follows from it. -/
def State.updateAxis (s : State) (n : Nat) : State :=
  let i := ix n
  let tu := s.nextUpdate n
  let src := s.get TAX_CTRL.SRC i
  let coast := (s.axis n).coast
  let lost := s.is TAX_STATUS.LOST i
  let coasting := s.is TAX_STATUS.COASTING i
  let s := s.axisBefore n tu
  let u := s.axisUpd n tu
  let freed := s.axisFreed n
  let s := s.setAxis n ((s.axis n).updated u freed (freed && (lost || coasting)) tu)
  let s := if u.step || wrapS 64 u.p != u.p then
      (s.setAt TAX_STATUS.STEP i tu).setAxis n { s.axis n with steps := (s.axis n).steps + 1 }
    else s
  let s := if freed then
      ((s.set TAX_STATUS.LOST i false).set TAX_STATUS.COASTING i false).axisMissed n tu src false false u.used.isSome coast
    else s.axisMissed n tu src lost coasting u.used.isSome coast
  s.axisAfter n tu u

/-- An update is due: the axis is enabled, the till has reached it, and the tile does not sleep (R34, R42). -/
def State.updateDue (s : State) (n : Nat) : Bool :=
  s.is TAX_CTRL.ENABLE (ix n) && s.till.clk != .lfo && decide (s.nextUpdate n ≤ s.tick)

/-- A write of TAX_CTRL (R36). No measurement has arrived since the t that an enabling write sets (R34); the marks of an axis that
it disables wait (R44). DESIGN CHOICE (assumption log 124): an axis that it makes a synthesised one, which is never lost, is
neither lost nor coasting any more. -/
def State.taxCtrlWrite (s : State) (n v : Nat) : State :=
  let i := ix n
  let a := s.axis n
  let was := s.is TAX_CTRL.ENABLE i
  let oldK := s.get TAX_CTRL.K i
  let s := s.wr (i.reg .TAX_CTRL) (bits v 31 15 <<< 15)
  let synth := s.get TAX_CTRL.SRC i == 4 && (s.is TAX_STATUS.LOST i || s.is TAX_STATUS.COASTING i)
  let s := if synth then (s.set TAX_STATUS.LOST i false).set TAX_STATUS.COASTING i false else s
  let a := if synth then { a with coast := 0, wakeRecover := false } else a
  let s := if synth then s.setAxis n a else s
  if was && !bit v 31 then s.marksWait n
  else if bit v 31 && !was then
    s.setAxis n { a with t := s.tick, p0 := a.p, v0 := a.v, t0 := s.tick, eff := s.tick, notBefore := 0, meas := none }
  else if was && bits v 27 23 != oldK && decide (s.nextUpdate n ≤ s.tick) then
    s.setAxis n { a with notBefore := s.tick + 1 }
  else s

/-- A write of TAX_CMD: the steps it names are applied at the next update (R39). -/
def State.taxCmd (s : State) (n : Nat) (preset clear : Bool) : State :=
  let a := s.axis n
  s.setAxis n { a with presetPend := a.presetPend || preset, clearPend := a.clearPend || clear }

/-! ## Actions (R47, R48) -/

/-- The output level of a mark and its running pulse after an action of EDGE_MODE `mode` at `at_`. -/
def Mark.edge (mk : Mark) (mode pulse at_ : Nat) : Mark :=
  match mode with
  | 1 => { mk with level := true, pulseEnd := none }
  | 2 => { mk with level := false, pulseEnd := none }
  | 3 => { mk with level := !mk.level, pulseEnd := none }
  | 4 => { mk with level := true, pulseEnd := some (at_ + max 1 pulse) }
  | 5 => { mk with level := false, pulseEnd := some (at_ + max 1 pulse) }
  | _ => mk

/-- The action of a mark at its committed instant is due; none acts in NAP or OFF (R51). -/
def State.actionDue (s : State) (h m : Nat) : Option Nat :=
  match (s.mark h m).inst with
  | some i => if !s.asleep && s.is TM_STATUS.ARMED (ix h m) && (s.mark h m).committed && decide (i ≤ s.tick) then some i else none
  | none => none

/-- What the action of a mark gives at the first hall-clock edge at or after its instant: the ring, the event and the start of
its cart channel, by TM_ACTION as armed (R47). -/
def Mark.edgeDoes (m act : Nat) : List EdgeDo :=
  (if bit act 28 then
      (if bit act 27 then (if bits act 26 22 < 16 then [.devBell (bits act 26 22)] else []) else [.bell (bits act 26 22)])
    else []) ++
  (if bit act 15 then [.event m] else []) ++ (if bit act 21 then [.cart m (bits act 20 16)] else [])

/-- The action of a mark at instant `at_`, but for the swap: the edge, the records, what follows at the hall's next clock edge, and
the next arming or projection (R47 to R49). DESIGN CHOICE (assumption log 84): the target of a repeat is a whole number without
bounds and does not wrap at 64 bits. -/
def State.markAct (s : State) (h m at_ : Nat) : State :=
  let i := ix h m
  let mk := s.mark h m
  let act := mk.action
  let s := s.drives h at_ (fun s => s.setMark h m (mk.edge (bits act 31 29) (s.get TM_PULSE.PULSE_TICKS i) at_))
  let s := if bit act 15 then s.deliver h (.mark m) at_ else s
  let s := forAll (Mark.edgeDoes m act) (fun d s => s.atEdge h at_ d) s
  let s := s.wr (i.reg .TM_ACTED_AT) at_
  let s := s.put TM_COUNT.VAL i (s.get TM_COUNT.VAL i + 1)
  let s := s.setAt TM_STATUS.FIRED i at_
  let s := if mk.late then s.setAt TM_STATUS.LATE i at_ else s
  let s := if mk.slip then s.setAt TM_STATUS.SLIP i at_ else s
  let mk := { s.mark h m with slip := false, late := false, committed := false, inst := none, sign := none, eff := at_ }
  match mk.nextArm with
  | some (v, target, step, action) => (s.setMark h m mk).arm h m v target step action (at_ + 1)
  | none =>
    if bit mk.cfg 22 then
      (s.setMark h m { mk with target := mk.target + mk.step }).projectAt h m at_
    else (s.setMark h m mk).set TM_STATUS.ARMED i false

end Sys2Proof.Machine
end

