-- ==== Sys2Proof/Machine/Counters.lean ====
section
/-! DEFINITION. The counters (R52 to R61). A counter's clock events up to an instant are worked off one arrival at a time:
an arrival is a match or a wrap. Between two arrivals the count only grows. -/

namespace Sys2Proof.Machine

/-- The clock events that a counter has received up to tick `upto` and not counted yet: instant and number, in order. A
tick-clocked counter has one a tick. -/
def State.ctEvents (s : State) (h c upto : Nat) : List (Nat × Nat) :=
  let k := s.counter h c
  if !s.is CT_CTRL.ENABLE (ix h c) then []
  else match s.get CT_CTRL.CLK_SRC (ix h c) with
  | 0 => if k.asOf < upto then [(k.asOf, upto - k.asOf)] else []
  | _ => k.todo.filter (fun e => decide (e.1 ≤ upto))

/-- How many events there are. -/
def ctSum (es : List (Nat × Nat)) : Nat := (es.map Prod.snd).sum

/-- The number of events from count `c` to the next wrap, with period `p` (R54, R55). -/
def wrapDist (c p : Nat) : Nat := if c ≤ p then p - c + 1 else 2 ^ 32 - c

/-- The number of events from count `c` to the next arrival at `m`, if there is one before or after the next wrap
(R56). -/
def matchDist (c p m : Nat) : Option Nat :=
  if c < m ∧ m < c + wrapDist c p then some (m - c)
  else if m ≤ p then some (wrapDist c p + m)
  else none

/-- The arrivals of a counter. -/
inductive Arrival where
  | hit
  | turn
  deriving DecidableEq, Repr

/-- The next arrival and its distance in clock events: a match that coincides with a wrap comes before the wrap, once. -/
def State.ctNext (s : State) (h c : Nat) : Arrival × Nat :=
  let n := s.get CT_COUNT.VAL (ix h c)
  let p := s.get CT_PERIOD.VAL (ix h c)
  let dw := wrapDist n p
  match matchDist n p (s.get CT_COMPARE.VAL (ix h c)) with
  | some d => if d < dw ∨ (d = dw ∧ !(s.counter h c).matched) then (.hit, d) else (.turn, dw)
  | none => (.turn, dw)

/-- The instant of the `n`-th clock event of a counter; the ticks of an LFO step count in one tick (R52). -/
def State.ctInstant (s : State) (h c n : Nat) : Nat :=
  let k := s.counter h c
  if s.get CT_CTRL.CLK_SRC (ix h c) = 0 then s.till.counted (k.asOf + n)
  else (k.todo.foldl (fun (acc : Nat × Nat) e => if acc.2 < n then (e.1, acc.2 + e.2) else acc) (s.tick, 0)).1

/-- `n` events dropped from the front of a list of events. -/
def dropEvents : Nat → List (Nat × Nat) → List (Nat × Nat)
  | _, [] => []
  | n, (i, k) :: es => if k ≤ n then dropEvents (n - k) es else (i, k - n) :: es

/-- `n` clock events counted: the count is `v` after them. -/
def State.ctTake (s : State) (h c n v : Nat) : State :=
  let k := s.counter h c
  let k := if s.get CT_CTRL.CLK_SRC (ix h c) = 0 then { k with asOf := k.asOf + n } else { k with todo := dropEvents n k.todo }
  (s.setCounter h c k).put CT_COUNT.VAL (ix h c) v

/-- An output action of a counter at tick `at_`: none, set, clear or toggle (R60). -/
def State.ctOut (s : State) (h c act at_ : Nat) : State :=
  match act with
  | 1 => s.drives h at_ (fun s => s.set CT_CTRL.OUT_LEVEL (ix h c) true)
  | 2 => s.drives h at_ (fun s => s.set CT_CTRL.OUT_LEVEL (ix h c) false)
  | 3 => s.drives h at_ (fun s => s.set CT_CTRL.OUT_LEVEL (ix h c) (!s.is CT_CTRL.OUT_LEVEL (ix h c)))
  | _ => s

/-- What a counter of a hall rings or raises at instant `at_` waits for the release of the pad hold: NAP or OFF is in force, or it
was at that instant and a pin of the hall is still held (R61). -/
def State.heldBack (s : State) (h at_ : Nat) : Bool :=
  s.asleep || (decide (s.till.lfoFrom < at_) && decide (at_ ≤ s.till.lfoEdge s.till.lfoSteps) &&
    (List.range 128).any (fun i => s.heldPin h i))

/-- Something held back until the release of the pad hold, once. -/
def State.defer (s : State) (d : Nat × Bool × Nat) : State :=
  if s.deferred.contains d then s else { s with deferred := s.deferred ++ [d] }

/-- A hall event of a counter at instant `at_`, held back in NAP and OFF (R61); the criers that await the counter are released with
it. -/
def State.ctEvent (s : State) (h num at_ : Nat) : State :=
  if s.heldBack h at_ then s.defer (h, false, num) else s.hallEvent h num

/-- The hall bell of a match, held back in NAP and OFF (R61). -/
def State.ctBell (s : State) (h n at_ : Nat) : State := if s.heldBack h at_ then s.defer (h, true, n) else s.ringHall h n at_

/-- A match: MATCH, the output action, and once in its tick the event and the ring (R52, R56, R60). -/
def State.ctMatch (s : State) (h c : Nat) : State :=
  let i := ix h c
  let d := (s.ctNext h c).2
  let at_ := s.ctInstant h c d
  let n := s.get CT_COUNT.VAL i
  let turn := d == wrapDist n (s.get CT_PERIOD.VAL i)
  -- a match that is also a wrap leaves the clock event to the wrap
  let s := if turn then (s.ctTake h c (d - 1) (n + d - 1)) else s.ctTake h c d (s.get CT_COMPARE.VAL i)
  let first := (s.counter h c).lastMatch != some at_
  let s := s.setCounter h c { s.counter h c with matched := turn, lastMatch := some at_ }
  let s := (s.setAt CT_STATUS.MATCH i at_).ctOut h c (s.get CT_CTRL.CMP_OUT i) at_
  let s := if first && s.is CT_CTRL.MATCH_EV i then s.ctEvent h (0x40 + c) at_ else s
  if first && s.is CT_CTRL.BELL_EN i then s.ctBell h (s.get CT_CTRL.BELL_NUM i) at_ else s

/-- A wrap: WRAP, the output action, a clock event of the neighbour in mode 3, and once in its tick the event (R52, R54,
R60). -/
def State.ctWrap (s : State) (h c : Nat) : State :=
  let i := ix h c
  let d := (s.ctNext h c).2
  let at_ := s.ctInstant h c d
  let s := s.ctTake h c d 0
  let first := (s.counter h c).lastWrap != some at_
  let s := s.setCounter h c { s.counter h c with matched := false, lastWrap := some at_ }
  let s := (s.setAt CT_STATUS.WRAP i at_).ctOut h c (s.get CT_CTRL.WRAP_OUT i) at_
  let s := if first && s.is CT_CTRL.WRAP_EV i then s.ctEvent h (0x80 + c) at_ else s
  if c < 63 ∧ s.is CT_CTRL.ENABLE (ix h (c + 1)) ∧ s.get CT_CTRL.CLK_SRC (ix h (c + 1)) = 3 then
    let k := s.counter h (c + 1)
    s.setCounter h (c + 1) { k with todo := k.todo ++ [(at_, 1)] }
  else s

/-- The next arrival of a counter is due at or before `upto`. -/
def State.ctDue (s : State) (h c upto : Nat) : Option Arrival :=
  if (s.ctNext h c).2 ≤ ctSum (s.ctEvents h c upto) then some (s.ctNext h c).1 else none

/-- Every arrival due at or before `upto`, and then the events left over, counted. -/
def State.ctRun (h c upto : Nat) : Nat → State → State
  | 0, s => s
  | fuel + 1, s =>
    match s.ctDue h c upto with
    | some .hit => State.ctRun h c upto fuel (s.ctMatch h c)
    | some .turn => State.ctRun h c upto fuel (s.ctWrap h c)
    | none =>
      let n := ctSum (s.ctEvents h c upto)
      if n = 0 then s else s.ctTake h c n (s.get CT_COUNT.VAL (ix h c) + n)

/-- A counter brought up to the instant `upto`. -/
def State.ctTo (s : State) (h c upto : Nat) : State := State.ctRun h c upto (2 * ctSum (s.ctEvents h c upto) + 2) s

/-- The counters below a counter that may clock it brought up to an instant: a chain has at most three members (R58). -/
def State.ctBelow (s : State) (h c upto : Nat) : State :=
  let s := if 2 ≤ c then s.ctTo h (c - 2) upto else s
  if 1 ≤ c then s.ctTo h (c - 1) upto else s

/-- A counter brought up to an instant after the counters below it. -/
def State.ctCatch (s : State) (h c upto : Nat) : State := (s.ctBelow h c upto).ctTo h c upto

/-! ## Writes (R53, R55, R57 to R59) -/

/-- The number of counters in mode 3 directly above `c`, at most `fuel`. -/
def State.runUp (s : State) (h : Nat) : Nat → Nat → Nat
  | 0, _ => 0
  | fuel + 1, c => if c + 1 < 64 ∧ s.get CT_CTRL.CLK_SRC (ix h (c + 1)) = 3 then s.runUp h fuel (c + 1) + 1 else 0

/-- The number of members below `c` of the chain that `c` belongs to as a counter in mode 3: the counters in mode 3
directly below it and the one that clocks them. -/
def State.runDown (s : State) (h : Nat) : Nat → Nat
  | 0 => 0
  | c + 1 => if s.get CT_CTRL.CLK_SRC (ix h c) = 3 then s.runDown h c + 1 else 1

/-- A CLK_SRC of `v` for counter `c` would make a chain of four or more members (R58). -/
def State.chainTooLong (s : State) (h c v : Nat) : Bool := v == 3 && decide (4 ≤ s.runDown h c + 1 + s.runUp h 64 c)

/-- The record of an axis-clocked counter set at the present tick (R53). -/
def State.ctRecord (s : State) (h c : Nat) : State :=
  let pos := s.axisPos (s.get CT_CTRL.AXIS (ix h c)) s.tick
  let w : Int := if s.is CT_CTRL.AX_REV (ix h c) then -((-pos) / 2 ^ 24) else pos / 2 ^ 24
  s.setCounter h c { s.counter h c with record := w }

/-- A write of CT_CTRL (R53, R58). -/
def State.ctCtrlWrite (s : State) (h c v : Nat) : State :=
  let i := ix h c
  let s := s.ctCatch h c s.tick
  let old := s.rd (i.reg .CT_CTRL)
  let src := bits v 30 28
  let refused := decide (3 < src) || s.chainTooLong h c src
  let s := s.drives h s.tick (fun s =>
    s.wr (i.reg .CT_CTRL) (setBits (bits v 31 7 <<< 7) 30 28 (if refused then bits old 30 28 else src)))
  let s := if refused then s.set CT_STATUS.CFG_REFUSED i true else s
  let now := s.rd (i.reg .CT_CTRL)
  let same := bits old 31 28 == bits now 31 28 && bits old 27 24 == bits now 27 24 && bit old 7 == bit now 7
  let s := if same then s
    else s.setCounter h c { s.counter h c with asOf := s.tick, todo := [] }
  let axis := bits now 30 28 == 1
  let starts := axis && bit now 31 && (!bit old 31 || bits old 30 28 != 1)
  let moves := axis && (bits old 27 24 != bits now 27 24 || bit old 7 != bit now 7)
  if starts || moves then s.ctRecord h c else s

/-- A write of CT_PERIOD (R55). -/
def State.ctPeriodWrite (s : State) (h c v : Nat) : State :=
  let s := s.ctCatch h c s.tick
  let s := s.put CT_PERIOD.VAL (ix h c) v
  if v < s.get CT_COUNT.VAL (ix h c) then s.set CT_STATUS.PERIOD_PASSED (ix h c) true else s

/-- A write of CT_COUNT wins over the clock events of its tick, a neighbour's wrap in that tick among them (R57). -/
def State.ctCountWrite (s : State) (h c v : Nat) : State :=
  let s := (s.ctBelow h c s.tick).ctTo h c (s.tick - 1)
  let k := s.counter h c
  let k := { k with asOf := max k.asOf s.tick, todo := k.todo.filter (fun e => decide (s.tick < e.1)), matched := false }
  (s.setCounter h c k).put CT_COUNT.VAL (ix h c) v

/-- A write of CT_COMPARE applies to clock events of later ticks. -/
def State.ctCompareWrite (s : State) (h c v : Nat) : State := (s.ctCatch h c s.tick).put CT_COMPARE.VAL (ix h c) v

/-- A write of CT_INPUT restarts the prescale count (R59). -/
def State.ctInputWrite (s : State) (h c v : Nat) : State :=
  let s := (s.ctCatch h c s.tick).wr ((ix h c).reg .CT_INPUT) (bits v 31 7 <<< 7)
  s.setCounter h c { s.counter h c with prescale := 0, level := none }

/-- A read of CT_COUNT loads the latch of each higher member of the chain of which it is the lowest (R58). -/
def State.chainLatch (s : State) (h c : Nat) : State :=
  let s := s.ctCatch h c s.tick
  if s.get CT_CTRL.CLK_SRC (ix h c) = 3 ∧ 0 < c then s
  else forAll (List.range (min 2 (s.runUp h 2 c))) (fun k s =>
    let s := s.ctTo h (c + k + 1) s.tick
    s.put CT_COUNT_LATCH.VAL (ix h (c + k + 1)) (s.get CT_COUNT.VAL (ix h (c + k + 1)))) s

/-! ## Capture (R59) -/

/-- The pin that feeds a counter, when it selects function 6 for it (R59, R203, R206). -/
def State.ctPin (s : State) (h c : Nat) : Option Nat :=
  let i := 8 * s.get CT_INPUT.BARROW (ix h c) + s.get CT_INPUT.POS (ix h c)
  if s.funcNow h i = 6 ∧ s.selNow h i = c then some i else none

/-- The settled level of a counter's input, none before its first sample after a selection (R203). -/
def State.ctSettled (s : State) (h c : Nat) : Option Bool :=
  let i := 8 * s.get CT_INPUT.BARROW (ix h c) + s.get CT_INPUT.POS (ix h c)
  if (s.counter h c).levelAt < (s.pin h i).selAt ∧ (s.pin h i).selAt ≤ s.tick then none else (s.counter h c).level

/-- A level taken as settled. -/
def State.settleLevel (s : State) (h c : Nat) (level : Bool) : State :=
  s.setCounter h c { s.counter h c with level := some level, levelAt := s.tick }

/-- An accepted edge of the input to `level`, whose first sample lies at `tm`: it clocks a counter of mode 2 and captures
on every (PRESCALE + 1)-th edge of the selected kinds. -/
def State.ctEdge (s : State) (h c : Nat) (level : Bool) (tm : Nat) : State :=
  let i := ix h c
  if (s.ctPin h c).isNone ∨ s.ctSettled h c = some level then s
  else if (s.ctSettled h c).isNone then s.settleLevel h c level
  else
    let s := s.settleLevel h c level
    let e := s.get CT_INPUT.EDGE i
    if !(if level then bit e 0 else bit e 1) then s
    else
      let s := if s.is CT_CTRL.ENABLE i && s.get CT_CTRL.CLK_SRC i == 2 then
          s.setCounter h c { s.counter h c with todo := (s.counter h c).todo ++ [(s.tick, 1)] }
        else s
      let s := s.ctCatch h c s.tick
      let k := s.counter h c
      if k.prescale < s.get CT_INPUT.PRESCALE i then s.setCounter h c { k with prescale := k.prescale + 1 }
      else
        let s := s.setCounter h c { k with prescale := 0 }
        let s := s.put CT_CAPTURE.VAL i (s.get CT_COUNT.VAL i)
        let s := s.wr (i.reg .CT_CAP_TILL) tm
        let s := if s.is CT_STATUS.CAPTURED i then s.set CT_STATUS.CAP_OVR i true else s
        let s := s.set CT_STATUS.CAPTURED i true
        if s.is CT_CTRL.CAP_EV i then s.ctEvent h (0xC0 + c) s.tick else s

/-! ## The rows -/

/-- The input of a counter's pin is on (R215), and the new level, first sampled at `tm`, has held for FILT_LEN + 1 samples of
the grid of 16 ticks (R59). -/
def State.ctFiltered (s : State) (h c tm : Nat) : Bool :=
  (match s.ctPin h c with | some i => s.inputOn h i | none => false) &&
    tm % 16 == 0 && decide (tm + 16 * s.get CT_INPUT.FILT_LEN (ix h c) ≤ s.tick)

/-- COUNTER_PIN_EDGE (R59). -/
def execCounterPinEdge (h c : Nat) (level : Bool) (tm : Nat) (s : State) : Out :=
  .next (if s.inHall h ∧ s.ctFiltered h c tm then s.ctEdge h c level tm else s)

/-- COUNTER_MATCH (R56): the next arrival is a match that is due. -/
def execCounterMatch (h c : Nat) (s : State) : Out :=
  .next (if s.inHall h ∧ s.ctDue h c s.tick = some .hit then s.ctMatch h c else s)

/-- COUNTER_WRAP (R54): the next arrival is a wrap that is due. -/
def execCounterWrap (h c : Nat) (s : State) : Out :=
  .next (if s.inHall h ∧ s.ctDue h c s.tick = some .turn then s.ctWrap h c else s)

/-- CT_CTRL_WRITE (R53). -/
def execCtCtrlWrite (by_ : Accessor) (h c : Nat) (v : Word) (s : State) : Out :=
  .next (s.byPort (accPort by_) h (.ctCtrlWrite by_ h c v) false (fun s =>
    if s.reachesHall by_ h then s.ctCtrlWrite h c v.toNat else s))

/-- CT_PERIOD_WRITE (R55). -/
def execCtPeriodWrite (by_ : Accessor) (h c : Nat) (v : Word) (s : State) : Out :=
  .next (s.byPort (accPort by_) h (.ctPeriodWrite by_ h c v) false (fun s =>
    if s.reachesHall by_ h then s.ctPeriodWrite h c v.toNat else s))

/-- CT_COUNT_WRITE (R57). -/
def execCtCountWrite (by_ : Accessor) (h c : Nat) (v : Word) (s : State) : Out :=
  .next (s.byPort (accPort by_) h (.ctCountWrite by_ h c v) false (fun s =>
    if s.reachesHall by_ h then s.ctCountWrite h c v.toNat else s))

/-- CT_INPUT_WRITE (R59). -/
def execCtInputWrite (by_ : Accessor) (h c : Nat) (v : Word) (s : State) : Out :=
  .next (s.byPort (accPort by_) h (.ctInputWrite by_ h c v) false (fun s =>
    if s.reachesHall by_ h then s.ctInputWrite h c v.toNat else s))

/-- CHAIN_READ (R58). -/
def execChainRead (by_ : Accessor) (h c : Nat) (s : State) : Out :=
  .next (s.byPort (accPort by_) h (.chainRead by_ h c) false (fun s =>
    if s.reachesHall by_ h then s.chainLatch h c else s))

/-! ## Rows of the till and of the axes that touch nothing else -/

/-- LFO_TRIM_MEASURE (R28): a window of 256 LFO cycles of `ticks256` ticks ends now, which are ticks per cycle in 24.8 fixed
point. It must have begun after TRIM_AUTO was set, the till's move onto its PLL and the window before. -/
def execLfoTrimMeasure (ticks256 : Nat) (s : State) : Out :=
  .next (if s.is TILL_CTRL.TRIM_AUTO && s.till.clk == .pll && decide (s.till.trimFrom + ticks256 ≤ s.tick) then
      { (s.wr (({} : Ix).reg .TILL_LFO_INC) (ticks256 % 2 ^ 32)) with till := { s.till with trimFrom := s.tick } }
    else s)

/-- TAX_CTRL_WRITE (R36). -/
def execTaxCtrlWrite (by_ : Accessor) (n : Nat) (v : Word) (s : State) : Out :=
  .next (s.byPort (accPort by_) 8 (.taxCtrlWrite by_ n v) false (fun s =>
    s.taxCtrlWrite n v.toNat))

/-- PRESET (R39). -/
def execPreset (by_ : Accessor) (n : Nat) (s : State) : Out :=
  .next (s.byPort (accPort by_) 8 (.preset by_ n) false (fun s =>
    s.taxCmd n true false))

/-- CLEAR_LOST (R39). -/
def execClearLost (by_ : Accessor) (n : Nat) (s : State) : Out :=
  .next (s.byPort (accPort by_) 8 (.clearLost by_ n) false (fun s =>
    s.taxCmd n false true))

/-- ARM (R43): a write of TM_CTRL with ARM 1. -/
def execArm (by_ : Accessor) (h m : Nat) (v : Word) (s : State) : Out :=
  .next (s.byPort (accPort by_) h (.arm by_ h m v) false (fun s =>
    if s.reachesHall by_ h then s.tmCtrlWrite h m (v.toNat ||| 2 ^ 31) else s))

/-- DISARM (R49): a write of TM_CTRL with DISARM 1. -/
def execDisarm (by_ : Accessor) (h m : Nat) (v : Word) (s : State) : Out :=
  .next (s.byPort (accPort by_) h (.disarm by_ h m v) false (fun s =>
    if s.reachesHall by_ h then s.tmCtrlWrite h m (v.toNat ||| 2 ^ 30) else s))

/-- PULSE_END (R47): the mark's output level returns at the end of its pulse. -/
def execPulseEnd (h m : Nat) (s : State) : Out :=
  .next (match (s.mark h m).pulseEnd with
    | some e =>
      if e ≤ s.tick then s.drives h e (fun s => s.setMark h m { s.mark h m with level := !(s.mark h m).level, pulseEnd := none })
      else s
    | none => s)

end Sys2Proof.Machine
end

