-- ==== Sys2Proof/Machine/Pins.lean ====
section
/-! DEFINITION. The crier clocks (R173), what drives each pad (R175, R176, R203), switch-overs (R206), holds (R213, R214),
samples and pin events (R209 to R212), and the pin switch (R220, R221). -/

namespace Sys2Proof.Machine

/-- A pin configuration that R205 refuses. -/
def State.cfgRefused (s : State) (h v : Nat) (i : Nat) : Bool :=
  let func := bits v 31 28
  let sel := bits v 27 22
  bits v 21 20 == 3 || bits v 16 15 == 3 ||
    (bits v 21 20 == 1 && !bit s.part.ioV33 ((128 * h + i) / 64)) ||
    (func == 5 && bit sel 5) || (func == 8 && !decide (4 * h + sel / 16 < s.part.lanes))

/-- A configuration put into effect with cycle k beginning at tick `t` and k + 1 at tick `e`: a change of FUNC or SEL is a
switch-over, unless the pad is held (R206, R213). -/
def State.putPinCfg (s : State) (h i v t e : Nat) : State :=
  let i' := ix h i
  let v := bits v 31 14 <<< 14
  let s := s.freezePin h i s.tick
  let old := s.rd (i'.reg .PIN_CFG)
  let was := s.cfgAt h i s.tick
  let same := bits old 31 22 == bits v 31 22
  let s := if same || s.heldPin h i then s else s.switchOver h i t e
  let s := s.setPin h i { s.pin h i with elec := some (t, was), selAt := if same then (s.pin h i).selAt else t }
  s.wr (i'.reg .PIN_CFG) v

/-- The tick from which the swap cycle of a barrow is counted: of a swap at its instant, or of one with a committed instant
still to come that names a mark of the hall (R207, R364). -/
def State.swapTick (s : State) (h b : Nat) : Option Nat :=
  match (s.barrow h b).swapAt with
  | some t => some t
  | none =>
    (s.swaps.find? (fun w => !w.switched && w.inst.isSome && w.marks.any (fun k => k.1 == h))).bind
      (fun w => w.inst.map (fun t => t + 32))

/-- A write of PIN_CFG (R205, R207). -/
def State.pinCfgWrite (s : State) (h i v : Nat) : State :=
  let b := i / 8
  let meets := match s.swapTick h b with
    | some t => s.clkRun && s.cycleFrom h b t == s.cycleFrom h b (s.tick + 1)
    | none => false
  if s.cfgRefused h v i || meets then s.set PIN_STATUS.CFG_ERR (ix h i) true
  else s.putPinCfg h i v (s.switchStart h b) (s.switchEnd h b)

/-- A write of PIN_CFG_SH (R205). -/
def State.pinCfgShWrite (s : State) (h i v : Nat) : State :=
  if s.cfgRefused h v i then s.set PIN_STATUS.CFG_ERR (ix h i) true
  else s.wr ((ix h i).reg .PIN_CFG_SH) (bits v 31 14 <<< 14)

/-! ## Samples and pin events (R209 to R212) -/

/-- What a sample gives: the pin, FLT_LEVEL after it, and whether the change is a pin event. -/
structure Sampled where
  pin : PinState
  flt : Bool
  event : Bool
  deriving DecidableEq, Repr

/-- The filter of a pin takes a sample at a level (R211). -/
def filterPin (p : PinState) (mode edge len : Nat) (flt level : Bool) : Sampled :=
  let change (p : PinState) : Sampled :=
    ⟨p, level, decide (1 ≤ mode) && (if level then bit edge 0 else bit edge 1)⟩
  if p.fresh then ⟨{ p with fresh := false, run := 0, lockout := 0 }, level, false⟩
  else match mode with
  | 1 =>
    if level = flt then ⟨{ p with run := 0 }, flt, false⟩
    else if len ≤ p.run then change { p with run := 0 }
    else ⟨{ p with run := p.run + 1 }, flt, false⟩
  | 2 =>
    if 0 < p.lockout then ⟨{ p with lockout := p.lockout - 1 }, flt, false⟩
    else if level = flt then ⟨p, flt, false⟩
    else change { p with lockout := len + 1 }
  | _ => if level = flt then ⟨p, flt, false⟩ else change p

/-- A sample of a pad is taken now: the grid of 16 ticks has a point since the last one, the input is on and the tile is
awake (R209). -/
def State.samples (s : State) (h i : Nat) : Bool :=
  s.inHall h && decide ((s.pin h i).lastSample < s.tick / 16 * 16) &&
    (s.inputOn h i || (s.funcNow h i == 9 && !s.heldPin h i)) && !s.asleep

/-- The first sample after a selection settles the input of the counter that the pin feeds, without an edge (R203). -/
def State.settleInput (s : State) (h i : Nat) (level : Bool) : State :=
  let c := s.selNow h i
  if s.ctPin h c = some i ∧ (s.ctSettled h c).isNone then s.settleLevel h c level else s

/-- The sample of a pad at a level: LEVEL, the filter at its own period, and whether it is a pin event. An analogue pin
reads 0. -/
def State.samplePin (s : State) (h i : Nat) (level : Bool) : State × Bool :=
  let i' := ix h i
  let analogue := s.funcNow h i == 9 && !s.heldPin h i
  let level := level && !analogue
  let at_ := s.tick / 16 * 16
  let s := s.set PIN_STATUS.LEVEL i' level
  let s := (s.setPin h i { s.pin h i with lastSample := at_ }).settleInput h i level
  if at_ % (16 * 2 ^ s.get PIN_EVT.PRESC i') ≠ 0 then (s, false)
  else
    let f := filterPin (s.pin h i) (s.get PIN_EVT.MODE i') (s.get PIN_EVT.EDGE i') (s.get PIN_EVT.LEN i')
      (s.is PIN_STATUS.FLT_LEVEL i') level
    ((s.setPin h i f.pin).set PIN_STATUS.FLT_LEVEL i' f.flt, f.event && !analogue)

/-- A write of PIN_EVT restarts the filter (R212). -/
def State.pinEvtWrite (s : State) (h i v : Nat) : State :=
  (s.wr ((ix h i).reg .PIN_EVT) (v &&& 0xFFFF000F)).setPin h i
    { s.pin h i with fresh := true, run := 0, lockout := 0 }

/-- What counters of a hall rang and raised during sleep takes effect (R61). -/
def State.undefer (s : State) (h : Nat) : State :=
  forAll (s.deferred.filter (fun d => d.1 == h))
    (fun d s => if d.2.1 then s.ringHall d.1 d.2.2 s.tick else s.hallEvent d.1 d.2.2)
    { s with deferred := s.deferred.filter (fun d => d.1 != h) }

/-- A hold source of a pin cleared. With the last held pin of a hall what its counters rang and raised during sleep takes effect
(R61, R214): DESIGN CHOICE (assumption log 90). -/
def State.unhold (s : State) (h i : Nat) (src : Field) : State :=
  let s := s.release h i src
  if s.deferred.any (fun d => d.1 == h) && (List.range 128).all (fun i => !s.heldPin h i) then s.undefer h else s

/-! ## The pin switch (R220, R221) -/

/-- The stall of a barrow: 0xF for none. -/
def State.stallOf (s : State) (h b : Nat) : Nat :=
  if b < 8 then bits (s.rd ((ix h).reg .PSW_MAP0)) (4 * b + 3) (4 * b)
  else bits (s.rd ((ix h).reg .PSW_MAP1)) (4 * (b - 8) + 3) (4 * (b - 8))

/-- The entry of a barrow set to a stall. -/
def State.setStallOf (s : State) (h b v : Nat) : State :=
  if b < 8 then s.wr ((ix h).reg .PSW_MAP0) (setBits (s.rd ((ix h).reg .PSW_MAP0)) (4 * b + 3) (4 * b) v)
  else s.wr ((ix h).reg .PSW_MAP1) (setBits (s.rd ((ix h).reg .PSW_MAP1)) (4 * (b - 8) + 3) (4 * (b - 8)) v)

/-- The barrows of a stall, in ascending order: those of window 0 and window 1. -/
def State.barrowsOf (s : State) (h n : Nat) : List Nat := (List.range 16).filter (fun b => s.stallOf h b == n)

/-- Every trader of a stall is stopped; no stall has no trader. -/
def State.allStopped (s : State) (h n : Nat) : Bool :=
  decide (8 < n) || (tradersOf h n).all (fun t => !(s.trader t).running)

/-- An entry that is refused always, even where it names what the barrow already has (R221). -/
def State.entryRefused (s : State) (h b v : Nat) : Bool :=
  (decide (9 ≤ v) && decide (v ≤ 0xE)) || (v == 8 && decide (s.part.stalls < 9)) ||
    (v != 0xF && decide (2 ≤ ((s.barrowsOf h v).filter (fun x => x != b)).length))

/-- The instant of a swap, once it is known: that of its till trigger, or the one to which its marks are committed (R363). -/
def State.swapInstOf (s : State) (w : Swap) : Option Nat :=
  match w.inst, w.till with
  | some i, _ => some i
  | none, some v => some v
  | none, none =>
    if w.marks.all (fun k => (s.mark k.1 k.2).committed) then (w.marks.head?.map (fun k => s.mark k.1 k.2)).bind Mark.inst else none

/-- The hall-clock edge of a swap's instant is that of the present tick (R364, R367). -/
def State.atSwapEdge (s : State) : Bool :=
  s.swaps.any (fun w => match s.swapInstOf w with | some i => s.hallEdge i == s.hallEdge s.tick | none => false)

/-- One entry of a PSW_MAP write (R221); none changes during a fail-over of the hall (R407), or at the edge of a swap (R367). -/
def State.mapEntry (s : State) (h b v : Nat) : State :=
  let old := s.stallOf h b
  if s.atSwapEdge then s.set PSW_STATUS.REFUSED (ix h) true
  else if s.entryRefused h b v then s.set PSW_STATUS.REFUSED (ix h) true
  else if v = old then s
  else if
      !(s.allStopped h old && s.allStopped h v) ∨ (Tab.find s.failovers h).isSome then
    s.set PSW_STATUS.REFUSED (ix h) true
  else s.setStallOf h b v

/-- A write of PSW_MAPk, applied barrow by barrow. -/
def State.pswMapWrite (s : State) (h k v : Nat) : State :=
  forAll (List.range 8) (fun j s => s.mapEntry h (8 * k + j) (bits v (4 * j + 3) (4 * j))) s

/-! ## The reference of a calibration (R332) -/

/-- A pin event whose new level is `level`, of the sample at `te`: each CALIBRATE_AXIS job that waits for this edge of this pin
asks its axis for a preset at the next update. -/
def State.calRef (s : State) (h i : Nat) (level : Bool) (te : Nat) : State :=
  forAll s.jobs (fun j s =>
    match j.body with
    | .calibrate ax flags ref _ preset _ =>
      let c := Tab.get s.calibs j.num {}
      if j.state = .running ∧ bit flags 0 ∧ ref = 128 * h + i ∧ level != bit flags 1 ∧ c.armed then
        { (s.setAxis ax { s.axis ax with calPreset := some (j.num, te, sgn 64 preset) }) with
          calibs := Tab.set s.calibs j.num { c with armed := false } }
      else s
    | _ => s) s

/-! ## Words of pins (R223, R224) -/

/-- Something done to every pin that a word of 32 pins names. -/
def State.eachPin (s : State) (k v : Nat) (f : Nat → State → State) : State :=
  forAll (ones 32 v) (fun j s => f (32 * k + j) s) s

/-- The GPIO latch of a pin written by PIN_GPIO or by a word write. Where both reach it in one hall-clock edge, the one that
sets it wins (R224, R9). -/
def State.latchWrite (s : State) (h i : Nat) (word v : Bool) : State :=
  let e := s.tick / (if s.clkRun then 10 else 40)
  let p := s.pin h i
  let other := if word then p.latchPin else p.latchWord
  let s := s.setPin h i p
  let s := s.drives h s.tick (fun s => s.set PIN_GPIO.DATA (ix h i) (v || other == some (e, true)))
  s.setPin h i (if word then { s.pin h i with latchWord := some (e, v) } else { s.pin h i with latchPin := some (e, v) })

/-! ## The rows -/

/-- PIN_CFG_WRITE (R205). -/
def execPinCfgWrite (port h i : Nat) (v : Word) (s : State) : Out :=
  .next (s.byPort port h (.pinCfgWrite port h i v) false (fun s =>
    if s.inHall h then s.pinCfgWrite h i v.toNat else s))

/-- PIN_CFG_SH_WRITE (R205). -/
def execPinCfgShWrite (port h i : Nat) (v : Word) (s : State) : Out :=
  .next (s.byPort port h (.pinCfgShWrite port h i v) false (fun s =>
    if s.inHall h then s.pinCfgShWrite h i v.toNat else s))

/-- PIN_SWITCH_OVER (R206): cycle k has ended; the pad follows the present function unless it is held. -/
def execPinSwitchOver (h i : Nat) (s : State) : Out :=
  .next (match (s.pin h i).switching with
    | some e =>
      if e ≤ s.tick then
        if s.heldPin h i then s.setPin h i { s.pin h i with switching := none }
        else s.drives h e (fun s => s.setPin h i { s.pin h i with switching := none, capture := none, keep := none })
      else s
    | none => s)

/-- PIN_OUT_SET (R224). -/
def execPinOutSet (port h k : Nat) (v : Word) (s : State) : Out :=
  .next (s.byPort port h (.pinOutSet port h k v) false (fun s =>
    if s.inHall h then s.eachPin k v.toNat (fun i s => s.latchWrite h i true true) else s))

/-- PIN_OUT_CLR (R224). -/
def execPinOutClr (port h k : Nat) (v : Word) (s : State) : Out :=
  .next (s.byPort port h (.pinOutClr port h k v) false (fun s =>
    if s.inHall h then s.eachPin k v.toNat (fun i s => s.latchWrite h i true false) else s))

/-- PIN_HOLD_SET (R214). -/
def execPinHoldSet (port h k : Nat) (v : Word) (s : State) : Out :=
  .next (s.byPort port h (.pinHoldSet port h k v) false (fun s =>
    if s.inHall h then s.eachPin k v.toNat (fun i s => s.hold h i PIN_STATUS.HOLD_HOST) else s))

/-- PIN_HOLD_CLR (R214). -/
def execPinHoldClr (port h k : Nat) (v : Word) (s : State) : Out :=
  .next (s.byPort port h (.pinHoldClr port h k v) false (fun s =>
    if s.inHall h then s.eachPin k v.toNat (fun i s => s.unhold h i PIN_STATUS.HOLD_HOST) else s))

/-- PIN_EVENT (R211): a sample at a level that is a pin event. -/
def execPinEvent (h i : Nat) (level : Bool) (s : State) : Out :=
  .next (if s.samples h i && (s.samplePin h i level).2 then
      ((((s.samplePin h i level).1).setAt PIN_STATUS.EVENT (ix h i) (s.tick / 16 * 16)).atEdge h (s.tick / 16 * 16 + 1)
        (.event (0x100 + i))).calRef h i level (s.tick / 16 * 16)
    else s)

/-- PAD_LEVEL_SAMPLE (R209): a sample at a level that is no pin event. -/
def execPadLevelSample (h i : Nat) (level : Bool) (s : State) : Out :=
  .next (if s.samples h i && !(s.samplePin h i level).2 then (s.samplePin h i level).1 else s)

/-- PIN_EVT_WRITE (R212). -/
def execPinEvtWrite (port h i : Nat) (v : Word) (s : State) : Out :=
  .next (s.byPort port h (.pinEvtWrite port h i v) false (fun s =>
    if s.inHall h then s.pinEvtWrite h i v.toNat else s))

/-- PSW_MAP_WRITE (R221). -/
def execPswMapWrite (port h k : Nat) (v : Word) (s : State) : Out :=
  .next (s.byPort port h (.pswMapWrite port h k v) false (fun s =>
    if s.inHall h then s.pswMapWrite h k v.toNat else s))

end Sys2Proof.Machine
end

