-- ==== Sys2Proof/Machine/CrierOps.lean ====
section
/-! DEFINITION. What every crier instruction shares (R178 to R199): the word and its fields, the FIFOs, the shifters, the
pace counter, the CRC, cues, and one attempt to issue in one crier cycle. -/

namespace Sys2Proof.Machine

/-! ## The instruction word (R179, R182) -/

/-- Operation, delay, cue bits and operands of a word. -/
def cOp (w : Nat) : Nat := bits w 23 20
def cDelay (w : Nat) : Nat := bits w 19 15
def cCue (w : Nat) : Nat := bits w 14 12
def cOper (w : Nat) : Nat := bits w 11 0
/-- OPER [11:9] and [8:6]. -/
def cA (w : Nat) : Nat := bits w 11 9
def cB (w : Nat) : Nat := bits w 8 6

/-- The word is a legal crier instruction (R182, R193). -/
def crierLegal (w : Nat) : Bool :=
  match cOp w with
  | 0x0 => cOper w == 0
  | 0x1 => decide (cA w ≤ 4) && cB w == 0
  | 0x2 => decide (cA w ≤ 3) && cB w == 0
  | 0x3 => decide (cA w ≤ 3) && !bit w 8
  | 0x4 =>
    match bits w 10 8 with
    | 0 => bits w 7 3 == 0
    | 1 => !bit w 11 && bits w 7 6 == 0 && !(bit w 5 && bit w 4)
    | 2 => !bit w 11 && bits w 7 5 == 0
    | 3 | 4 => !bit w 11 && bits w 7 0 == 0
    | _ => false
  | 0x5 => cA w == 4 || cA w == 5 || cB w == 0
  | 0x6 => decide (cA w ≤ 6) && decide (bits w 5 4 ≤ 2) && bits w 3 0 == 0
  | 0x7 => bits w 11 2 == 0
  | 0x8 => bits w 11 3 == 0
  | 0x9 => bits w 11 10 == 1 || bits w 11 10 == 2 || bits w 9 0 == 0
  | 0xA => decide (cA w ≤ 5) && cB w == 0 && (if cA w = 5 then !bit w 5 else bits w 5 0 == 0)
  | _ => false

/-- The row of a word: its operation, with the kind of a CRC instruction; every word without a row of its own goes with
the row of NOP. -/
def crierRow (w : Nat) : Nat :=
  if cOp w = 0xA then (if cA w ≤ 5 then 0x10 + cA w else 0)
  else if 0xB ≤ cOp w then 0
  else cOp w

/-! ## The state of a crier -/

/-- Scratch registers, shifters and their counts. -/
def State.cx (s : State) (c : CrierId) : Nat := s.get CR_X.X c.ix
def State.cy (s : State) (c : CrierId) : Nat := s.get CR_Y.Y c.ix
def State.osh (s : State) (c : CrierId) : Nat := s.get CR_OSH.OSH c.ix
def State.ish (s : State) (c : CrierId) : Nat := s.get CR_ISH.ISH c.ix
def State.oshLeft (s : State) (c : CrierId) : Nat := s.get CR_SCNT.OSH_LEFT c.ix
def State.ishFill (s : State) (c : CrierId) : Nat := s.get CR_SCNT.ISH_FILL c.ix
def State.outRight (s : State) (c : CrierId) : Bool := s.is CR_SHIFT.OUT_DIR c.ix
def State.inRight (s : State) (c : CrierId) : Bool := s.is CR_SHIFT.IN_DIR c.ix

/-- A crier changed. -/
def State.updC (s : State) (c : CrierId) (f : Crier → Crier) : State := s.setCrier c (f (s.crier c))

/-- OSH loaded with `n` bits left. -/
def State.loadOsh (s : State) (c : CrierId) (v n : Nat) : State := (s.put CR_OSH.OSH c.ix v).put CR_SCNT.OSH_LEFT c.ix n

/-- ISH loaded with a fill. -/
def State.loadIsh (s : State) (c : CrierId) (v n : Nat) : State := (s.put CR_ISH.ISH c.ix v).put CR_SCNT.ISH_FILL c.ix n

/-- The crier runs. -/
def State.crierRuns (s : State) (c : CrierId) : Bool := bit (s.get BR_RUN_SET.RUN c.br) c.c

/-- The page that a barrow runs from. -/
def State.brPage (s : State) (h b : Nat) : Nat := s.get BR_STATUS.PAGE (ix h b)

/-- A word of an instruction page as it stands. -/
def State.pageWord (s : State) (h b page w : Nat) : Nat := s.natAt (.crierPage h b page) (4 * w) 3

/-- The word that a fetch of crier cycle `n` receives: the old one of a word written in that cycle (R195). -/
def State.wordAt (s : State) (h b n page w : Nat) : Nat :=
  match ((s.barrow h b).words.filter (fun e => decide (n ≤ e.1) && e.2.1 == page && e.2.2.1 == w)).getLast? with
  | some e => e.2.2.2
  | none => s.pageWord h b page w

/-! ## FIFOs (R188 to R191) -/

/-- The capacities of the TX and RX FIFO (R189). -/
def State.txCap (s : State) (c : CrierId) : Nat := match s.get CR_FIFO.JOIN c.ix with | 0 => 8 | 1 => 16 | _ => 0
def State.rxCap (s : State) (c : CrierId) : Nat := match s.get CR_FIFO.JOIN c.ix with | 0 => 8 | 1 => 0 | _ => 16

/-- The entries that a PUSH moves (R188). -/
def State.ishEntries (s : State) (c : CrierId) : List Nat :=
  let hi := s.ish c / 2 ^ 32
  let lo := s.ish c % 2 ^ 32
  if s.ishFill c ≤ 32 then [if s.inRight c then hi else lo]
  else if s.inRight c then [lo, hi] else [hi, lo]

/-- Entries delivered by a crier at tick `at_`: into the RX FIFO, or to the axes that name the crier (R190). -/
def State.deliverEntries (s : State) (c : CrierId) (es : List Nat) (at_ : Nat) : State :=
  if s.is CR_FIFO.RX_ROUTE c.ix then
    forAll es (fun e s => forAll (List.range 16) (fun n s =>
      let i := ix n
      if s.get TAX_CTRL.SRC i = 2 ∧ s.get TAX_SRC.HALL i = c.h ∧ s.get TAX_SRC.BARROW i = c.b ∧ s.get TAX_SRC.CRIER i = c.c
      then s.ssiWord n e at_ else s) s) s
  else s.updC c (fun r => { r with rx := r.rx ++ es.map (BitVec.ofNat 32) })

/-- There is room for the entries of a PUSH. -/
def State.pushRoom (s : State) (c : CrierId) : Bool :=
  s.is CR_FIFO.RX_ROUTE c.ix || decide ((s.crier c).rx.length + (s.ishEntries c).length ≤ s.rxCap c)

/-- ISH moved out (R188): it is empty afterwards. -/
def State.doPush (s : State) (c : CrierId) (at_ : Nat) : State := (s.deliverEntries c (s.ishEntries c) at_).loadIsh c 0 0

/-- ISH emptied without room (R188, NOWAIT). -/
def State.dropPush (s : State) (c : CrierId) : State := (s.loadIsh c 0 0).set CR_STATUS_C.RX_OVER c.ix true

/-- OSH loaded from `n` entries of the TX FIFO (R188). -/
def State.doPull (s : State) (c : CrierId) (n : Nat) : State :=
  let tx := (s.crier c).tx
  let a := (tx[0]?.getD 0).toNat
  let b := if n = 2 then (tx[1]?.getD 0).toNat else 0
  let v := if s.outRight c then b * 2 ^ 32 + a else a * 2 ^ 32 + b
  (s.updC c (fun r => { r with tx := r.tx.drop n })).loadOsh c v (32 * n)

/-- OSH loaded from one value, as a narrow PULL loads it. -/
def State.narrowLoad (s : State) (c : CrierId) (v : Nat) : State :=
  s.loadOsh c (if s.outRight c then v % 2 ^ 32 else v % 2 ^ 32 * 2 ^ 32) 32

/-! ## The pace counter (R186) -/

/-- The pace period: 0 counts as 65,536. -/
def State.period (s : State) (c : CrierId) : Nat :=
  if s.get CR_PACE.PERIOD c.ix = 0 then 65536 else s.get CR_PACE.PERIOD c.ix

/-- BT at the start of crier cycle `n`, with the pace ticks before that cycle taken, of a running crier. -/
def State.paceTo (s : State) (c : CrierId) (n : Nat) : State :=
  let r := s.crier c
  let bt := s.get CR_PACE.BT c.ix
  let e := n - r.btAt
  if n ≤ r.btAt ∨ !s.crierRuns c then s
  else if e ≤ bt then (s.put CR_PACE.BT c.ix (bt - e)).setCrier c { r with btAt := n }
  else
    let p := s.period c
    let k := e - bt - 1
    (s.put CR_PACE.BT c.ix (p - 1 - k % p)).setCrier c { r with btAt := n, lastTick := some (r.btAt + bt + k / p * p) }

/-- The cycle of the next pace tick of a running crier. -/
def State.nextPace (s : State) (c : CrierId) : Nat := (s.crier c).btAt + s.get CR_PACE.BT c.ix

/-- BT set, to hold from cycle `n` on. -/
def State.setBt (s : State) (c : CrierId) (v n : Nat) : State := (s.put CR_PACE.BT c.ix v).updC c (fun r => { r with btAt := n })

/-! ## CRC (R187) -/

/-- The width of the CRC register. -/
def State.crcW (s : State) (c : CrierId) : Nat := s.get CR_CRC_CFG.WIDTH c.ix + 1

/-- The CRC register has W bits (R187). -/
def State.crc (s : State) (c : CrierId) : Nat := s.get CR_CRC_VAL.VAL c.ix % 2 ^ s.crcW c

/-- One bit fed into the CRC. -/
def crcFeed (w poly : Nat) (crc : Nat) (b : Bool) : Nat :=
  let shifted := crc * 2 % 2 ^ w
  if b != bit crc (w - 1) then shifted ^^^ (poly % 2 ^ w) else shifted

/-- Bits fed into the CRC in order. -/
def State.feedBits (s : State) (c : CrierId) (bs : List Bool) : State :=
  s.put CR_CRC_VAL.VAL c.ix (bs.foldl (crcFeed (s.crcW c) (s.get CR_CRC_POLY.POLY c.ix)) (s.crc c))

/-- The bits v[0] to v[m-1] in shift order: the most significant first for a shift to the left. -/
def shiftOrder (right : Bool) (v m : Nat) : List Bool :=
  let bs := (List.range m).map (bit v)
  if right then bs else bs.reverse

/-- A value of `w` bits with its bits in reversed order. -/
def reverseBits (w v : Nat) : Nat := (List.range w).foldl (fun acc i => acc * 2 + b2n (bit v i)) 0

/-! ## Pins -/

/-- `v` written to pin positions base, base + 1, … modulo 8 of an 8-bit value, `count` of them. -/
def spread (old base count v : Nat) : Nat :=
  (List.range (min count 8)).foldl (fun acc k => setBits acc ((base + k) % 8) ((base + k) % 8) (b2n (bit v k))) old

/-- The levels of pins in_base, in_base + 1, … modulo 8, `n` of them, as a number. -/
def gather (levels base n : Nat) : Nat := (List.range n).foldl (fun acc k => acc + b2n (bit levels ((base + k) % 8)) * 2 ^ k) 0

/-- The level that criers read from pin position `p` in cycle `n`: that of the pad at the start of cycle n - 2 (R177). A pin
whose input is off reads 0; a pad that the tile itself has driven to one level for the length of the pad delays has that level;
of every other pad `pads` tells the level at that start. -/
def State.padSeen (s : State) (h b n p : Nat) (pads : Nat) : Bool :=
  let i := 8 * b + p
  let t := s.cycleStart h b (n - 2)
  s.inputAt h i t && ((s.padDriven h i t).getD (bit pads p))

/-- The pin levels that criers of a barrow read in cycle `n`. -/
def State.crierPads (s : State) (h b n : Nat) (pads : Byte) : Nat :=
  (List.range 8).foldl (fun acc p => acc + b2n (s.padSeen h b n p pads.toNat) * 2 ^ p) 0

/-- BR_PINS.LEVEL: the levels that criers read now (R202), from the latest levels known of the pads: those given to a crier, or
the hall's own sample where it is later. -/
def State.brLevel (s : State) (h b : Nat) : Nat :=
  let w := s.barrow h b
  let known := (List.range 8).foldl (fun acc p =>
    let i := 8 * b + p
    acc + b2n (if w.levelAt < (s.pin h i).lastSample then s.is PIN_STATUS.LEVEL (ix h i) else bit w.level p) * 2 ^ p) 0
  s.crierPads h b (s.cycle h b) (BitVec.ofNat 8 known)

/-- The cue of a word applied to OUT (R180): in level mode in every cycle in which it issues, in toggle mode once. -/
def State.cue (s : State) (c : CrierId) (w : Nat) : State :=
  let i := c.ix
  let tog := s.is CR_PINS.CUE_MODE i
  let fresh := (s.crier c).cued != some w
  let one (k pos : Nat) (r : Crier) : Crier :=
    if !bit (s.get CR_PINS.CUE_EN i) k then r
    else if !tog then { r with out := setBits r.out pos pos (b2n (bit (cCue w) k)) }
    else if fresh && bit (cCue w) k then { r with out := setBits r.out pos pos (b2n (!bit r.out pos)) }
    else r
  s.updC c (fun r => { (one 2 (s.get CR_PINS.CUE2_POS i) (one 1 (s.get CR_PINS.CUE1_POS i)
    (one 0 (s.get CR_PINS.CUE0_POS i) r))) with cued := some w })

/-! ## Issue (R180, R181, R196, R199) -/

/-- What an instruction does in one cycle: it completes, it completes with a jump, or it stalls with a value of STATE. -/
inductive CrRes where
  | done (s : State)
  | jump (s : State) (target : Nat)
  | stall (s : State) (code : Nat)

/-- The address after `pc` (R181). -/
def State.crierNextPc (s : State) (c : CrierId) (pc : Nat) : Nat :=
  if pc = s.get CR_EXEC.WRAP_TOP c.ix then s.get CR_EXEC.WRAP_BASE c.ix else (pc + 1) % 64

/-- An instruction of delay `d` completes in cycle `n`, with the crier going to `pc`. -/
def State.crierDone (s : State) (c : CrierId) (n d pc : Nat) : State :=
  ((s.put CR_STATUS_C.PC c.ix pc).put CR_STATUS_C.STATE c.ix 1).updC c
    (fun r => { r with next := n + 1 + d, done := n, delay := d, stalled := none, cued := none })

/-- A crier stops at the start of cycle `n` with a value of STATE: its pace counter holds (R186, R198). -/
def State.crierStopAt (s : State) (c : CrierId) (n code : Nat) : State :=
  let s := s.paceTo c n
  let s := s.put BR_RUN_SET.RUN c.br (setBits (s.get BR_RUN_SET.RUN c.br) c.c c.c 0)
  (s.put CR_STATUS_C.STATE c.ix code).updC c (fun r => { r with delay := 0, stalled := none, cued := none })

/-- A fault halts a crier in its issue cycle, before any effect (R199), with a CRIER_HALT chit (R412). -/
def State.crierHalt (s : State) (c : CrierId) (n : Nat) (flag : Field) : State :=
  let s := (s.crierStopAt c n 6).set flag c.ix true
  s.hallChit c.h 0x23 (c.b <<< 2 + c.c) (s.rd (c.ix.reg .CR_STATUS_C)) s.tick

/-- The crier is in the delay of its latest instruction (R180). -/
def State.inDelay (s : State) (c : CrierId) : Bool :=
  let r := s.crier c
  let m := s.cycle c.h c.b
  s.crierRuns c && r.stalled.isNone && decide (r.next ≤ m + r.delay) && decide (m < r.next)

/-- The crier stalls, and what it fetches in cycle `n` is an AWAIT of source `src` with operand `arg` (R193, R196). -/
def State.crierAwaits (s : State) (c : CrierId) (src arg n : Nat) : Bool :=
  let w := s.wordAt c.h c.b n (s.brPage c.h c.b) (s.get CR_STATUS_C.PC c.ix)
  s.crierRuns c && cOp w == 4 && bits w 10 8 == src && bits w 7 0 == arg &&
    (match (s.crier c).stalled with | some k => decide (k ≤ n) | none => false)

/-- A swap cycle of a barrow that has not been made yet falls in cycle `n` or before it (R197). -/
def State.swapFirst (s : State) (h b n : Nat) : Bool :=
  let before (t : Option Nat) : Bool := match t with | some t => decide (s.cycleFrom h b t ≤ n) | none => false
  before (s.barrow h b).selAt || before (s.barrow h b).swapAt

/-- The crier cycle in which the crier issues next, when that cycle has begun: a crier that stalls issues again in every
cycle, and an AWAIT PACE in the cycle of the pace tick, when that has begun. None while it is stopped, its clock stands still, or its barrow has a swap cycle to pass first (R197). -/
def State.crierSlot (s : State) (c : CrierId) : Option Nat :=
  let r := s.crier c
  let now := s.cycle c.h c.b
  let p := s.nextPace c
  let n := if r.stalled.isSome then (if s.crierAwaits c 3 0 p && decide (p ≤ now) then p else max r.next now) else r.next
  if s.crierRuns c && s.clkRun && decide (n ≤ now) && !s.swapFirst c.h c.b n then some n else none

/-- The bits of a crier's registers that an instruction writes whatever their value, among those that ports write too; `mode` is
the feed mode of the CRC. -/
def crierDests (w mode : Nat) : List (RegName × Nat) :=
  let x := (RegName.CR_X, 2 ^ 32 - 1)
  let y := (RegName.CR_Y, 2 ^ 32 - 1)
  let crc := (RegName.CR_CRC_VAL, 2 ^ 32 - 1)
  match cOp w, cA w with
  | 0x1, 0 => if mode = 1 then [crc] else []
  | 0x2, 0 => if mode = 2 then [crc] else []
  | 0x1, 2 | 0x3, 2 | 0x6, 2 => [x]
  | 0x1, 3 | 0x3, 3 | 0x6, 3 => [y]
  | 0x9, k => [(.CR_PACE, if k < 4 then 2 ^ 32 - 1 else 2 ^ 16 - 1)]
  | 0xA, 0 | 0xA, 5 => [crc]
  | _, _ => []

/-- What a crier wrote in cycle `n` of the registers that ports write too: from `s` to `s1`, with the flags set (R192). -/
def State.noteDid (s1 s : State) (c : CrierId) (n : Nat) (dests : List (RegName × Nat)) : State :=
  let changed := [RegName.CR_X, .CR_Y, .CR_PACE, .CR_CRC_VAL, .CR_STATUS_C].map (fun r =>
    (c.ix.reg r, (s.rd (c.ix.reg r) ^^^ s1.rd (c.ix.reg r)) ||| ((dests.filter (fun d => d.1 == r)).foldl (fun m d => m ||| d.2) 0) |||
      notedAt s1.hwSet (c.ix.reg r) s1.tick))
  { s1 with crDid := Tab.set s1.crDid c ⟨n, changed⟩ }

/-- A crier issues the word `w` that it has fetched in cycle `n`; `lv` are the pin levels where the instruction reads them. -/
def State.crierExec (s : State) (c : CrierId) (n w : Nat) (lv : Option Nat) (body : State → CrRes) : State :=
  let pc := s.get CR_STATUS_C.PC c.ix
  let page := s.brPage c.h c.b
  let s := forAll (List.range 8) (fun p s => s.freezePin c.h (8 * c.b + p) (s.cycleStart c.h c.b (n + 1))) s
  let s := (s.paceTo c n).updC c (fun r =>
    { r with stalled := if r.cued = some w then r.stalled else none, outAt := n,
             hist := if r.outAt < n then ((r.outAt, r.out, r.oe) :: r.hist).take 6 else r.hist })
  match s.errorIn (.crierPage c.h c.b page) (4 * pc) 3 with
  | some true => ((s.uncorrectable c.h 8 ((c.b * 2 + page) * 256 + 4 * pc) true).crierHalt c n CR_STATUS_C.ECC_ERR).noteDid s c n []
  | mark =>
    let s := if mark.isSome then s.corrected c.h 10 else s
    if !crierLegal w then (s.crierHalt c n CR_STATUS_C.ILLEGAL).noteDid s c n []
    else
      let s := match lv with
        | some l => s.setBarrow c.h c.b { s.barrow c.h c.b with level := l, levelAt := s.cycleStart c.h c.b (n - 2) }
        | none => s
      let s' := match body s with
        | .done s1 => ((s1.cue c w).noteDid s c n (crierDests w (s.get CR_CRC_CFG.MODE c.ix))).crierDone c n (cDelay w) (s.crierNextPc c pc)
        | .jump s1 t => ((s1.cue c w).noteDid s c n (crierDests w (s.get CR_CRC_CFG.MODE c.ix))).crierDone c n (cDelay w) (t % 64)
        | .stall s1 code =>
          (((s1.cue c w).noteDid s c n []).put CR_STATUS_C.STATE c.ix code).updC c
            (fun r => { r with next := n + 1, stalled := some (r.stalled.getD n) })
      s'.ssiEdges c.h c.b n (s.cycleStart c.h c.b (n + 1))

/-- One attempt of a crier to issue an instruction of a row in crier cycle `n`: none where the word that it fetches belongs to
another row. `body` gets the word, the pin levels and the cycle. -/
def State.crierTry (s : State) (c : CrierId) (n : Nat) (pads : Byte) (row : Nat) (body : Nat → Nat → Nat → State → CrRes) :
    Option State :=
  let w := s.wordAt c.h c.b n (s.brPage c.h c.b) (s.get CR_STATUS_C.PC c.ix)
  let lv := s.crierPads c.h c.b n pads
  if crierRow w ≠ row then none else some (s.crierExec c n w (some lv) (body w lv n))

/-- A stalled crier fetches its word again in cycle `n`, in which the wait of that word ends (R193, R196). -/
def State.crierRelease (s : State) (c : CrierId) (n : Nat) : State :=
  s.crierExec c n (s.wordAt c.h c.b n (s.brPage c.h c.b) (s.get CR_STATUS_C.PC c.ix)) none .done

/-! ## Port accesses (R189, R191, R192, R198) -/

/-- A register of a crier that its instructions read or write. -/
def RegName.ofCrier (n : RegName) : Bool :=
  match n with
  | .CR_STATUS_C | .CR_EXEC | .CR_SHIFT | .CR_PINS | .CR_FIFO | .CR_X | .CR_Y | .CR_PACE | .CR_CRC_CFG | .CR_CRC_POLY
  | .CR_CRC_INIT | .CR_CRC_VAL | .CR_SCNT | .CR_ISH | .CR_OSH => true
  | _ => false

/-- The register is one of this crier. -/
def Reg.ofCrier (r : Reg) (c : CrierId) : Bool := r.name.ofCrier && r.a == c.h && r.b == c.b && r.c == c.c

/-- FLUSH of a crier (R198). -/
def State.crierFlush (s : State) (c : CrierId) : State := s.updC c (fun r => { r with tx := [], rx := [] })

/-- A write of CR_FIFO (R189). DESIGN CHOICE (assumption log 126): a write that sets RX_ROUTE leaves entries in the RX FIFO. -/
def State.crFifo (s : State) (c : CrierId) (v : Nat) : State :=
  let j := bits v 31 30
  if j = s.get CR_FIFO.JOIN c.ix then s.put CR_FIFO.RX_ROUTE c.ix (bits v 29 29)
  else if s.crierRuns c || j == 3 then s.set CR_STATUS_C.CFG_ERR c.ix true
  else ((s.put CR_FIFO.JOIN c.ix j).put CR_FIFO.RX_ROUTE c.ix (bits v 29 29)).crierFlush c

/-- A write of a crier's register at the end of cycle `m`. -/
def State.crierReg (s : State) (c : CrierId) (m : Nat) (r : Reg) (v : Nat) : State :=
  match r.name with
  | .CR_FIFO => s.crFifo c v
  | .CR_PACE => ((s.paceTo c m).put CR_PACE.PERIOD c.ix (bits v 31 16)).setBt c (bits v 15 0) (m + 1)
  | .CR_CRC_VAL => s.put CR_CRC_VAL.VAL c.ix (v % 2 ^ s.crcW c)
  | _ => s.fieldWrite r v

/-- Where an instruction of cycle `m` wrote the same bits as a port has, the instruction's write wins (R192): `s` before the
port's write, `s1` after it. -/
def State.instrWins (s1 s : State) (c : CrierId) (m : Nat) (r : Reg) : State :=
  match Tab.find s.crDid c with
  | some d =>
    let k := if d.cycle = m then Tab.get d.bits r 0 else 0
    if k = 0 then s1 else s1.wr r (bitsOff (s1.rd r) k ||| (s.rd r &&& k))
  | none => s1

/-- The crier starts at its PC in cycle `m` + 1 (R198). -/
def State.crierStart (s : State) (c : CrierId) (m : Nat) : State :=
  if s.crierRuns c then s
  else
    let s := s.put BR_RUN_SET.RUN c.br (s.get BR_RUN_SET.RUN c.br ||| 2 ^ c.c)
    (s.put CR_STATUS_C.STATE c.ix 1).updC c
      (fun r => { r with next := m + 1, done := m, delay := 0, stalled := none, cued := none, btAt := m + 1, lastTick := none })

/-- RESTART of a crier in cycle `m` (R198). -/
def State.crierRestartAt (s : State) (c : CrierId) (m : Nat) : State :=
  let s := ((s.loadIsh c 0 0).loadOsh c 0 0).put CR_STATUS_C.PC c.ix (s.get CR_EXEC.START_PC c.ix)
  let s := if s.crierRuns c then s.put CR_STATUS_C.STATE c.ix 1 else s
  s.updC c (fun r => { r with stalled := none, cued := none, next := m + 1, done := m, delay := 0 })

/-- A port access to a crier takes effect at the end of crier cycle `m` (R192). -/
def State.crierOp (s : State) (c : CrierId) (m : Nat) (op : CrierOp) : State :=
  match op with
  | .reg r v => (s.crierReg c m r v).instrWins s c m r
  | .push v =>
    if (s.crier c).tx.length < s.txCap c then s.updC c (fun r => { r with tx := r.tx ++ [v] })
    else s.set CR_STATUS_C.TX_OVER c.ix true
  | .pop got => if got then s.updC c (fun r => { r with rx := r.rx.drop 1 }) else s.set CR_STATUS_C.RX_UNDER c.ix true
  | .start => s.crierStart c m
  | .stop => if s.crierRuns c then s.crierStopAt c (m + 1) 0 else s
  | .restart => s.crierRestartAt c m
  | .flush => s.crierFlush c

/-- The crier as it is now, with accesses to come. -/
def State.crierNow (s : State) (c : CrierId) (ops : List (Nat × CrierOp)) : CrierWas :=
  { regs := s.regs.filter (fun (e : Reg × Dword) => e.1.ofCrier c), runs := s.crierRuns c, crier := s.crier c, ops := ops }

/-- A crier put back to what it was. -/
def State.crierBack (s : State) (c : CrierId) (w : CrierWas) : State :=
  let s : State := { s with regs := w.regs.foldr (fun e t => Tab.set t e.1 e.2) (Tab.delIf s.regs (fun r => r.ofCrier c)) }
  (s.put BR_RUN_SET.RUN c.br (setBits (s.get BR_RUN_SET.RUN c.br) c.c c.c (b2n w.runs))).setCrier c w.crier

/-- The crier before the accesses of cycles that it has not passed, and those accesses. -/
def State.crierFrom (s : State) (c : CrierId) : State × List (Nat × CrierOp) :=
  match Tab.find s.crWas c with
  | some w => (s.crierBack c w, w.ops)
  | none => (s, [])

/-- The cycle that `pick` gives once the accesses of earlier cycles have taken effect, and how many those are. -/
def State.opsDue (c : CrierId) (pick : State → Option Nat) : State → List (Nat × CrierOp) → Option (Nat × Nat)
  | s, [] => (pick s).map (fun n => (n, 0))
  | s, op :: ops =>
    match (pick s).filter (fun n => decide (n ≤ op.1)) with
    | some n => some (n, 0)
    | none => ((s.crierOp c op.1 op.2).opsDue c pick ops).map (fun r => (r.1, r.2 + 1))

/-- Something that a crier does in the cycle that `pick` gives: it meets the crier as it stood at the start of that cycle, and
the port accesses of that cycle and of later ones take effect after it (R192). Nothing where `f` gives nothing. -/
def State.atCycle (s : State) (c : CrierId) (pick : State → Option Nat) (f : Nat → State → Option State) : State :=
  let ops := (s.crierFrom c).2
  match State.opsDue c pick (s.crierFrom c).1 ops with
  | none => s
  | some (n, k) =>
    match f n (forAll (ops.take k) (fun op s => s.crierOp c op.1 op.2) (s.crierFrom c).1) with
    | none => s
    | some s1 =>
      let late := ops.drop k
      forAll late (fun op s => s.crierOp c op.1 op.2)
        { s1 with crWas := if late.isEmpty then Tab.del s1.crWas c else Tab.set s1.crWas c (s1.crierNow c late) }

/-- The crier as the ports see it in the present crier cycle, before the accesses of that cycle (R192). -/
def State.crierShown (s : State) (c : CrierId) : State :=
  forAll ((s.crierFrom c).2.filter (fun op => decide (op.1 < s.cycle c.h c.b))) (fun op s => s.crierOp c op.1 op.2) (s.crierFrom c).1

/-- A port access to a crier in crier cycle `m`. While the crier clock stands no instruction can meet it. -/
def State.crierPortAt (s : State) (c : CrierId) (m : Nat) (op : CrierOp) : State :=
  let ops := (s.crierFrom c).2
  let behind := match State.opsDue c (fun s => s.crierSlot c) (s.crierFrom c).1 ops with
    | some r => decide (r.1 < m)
    | none => false
  let was : Tab CrierId CrierWas :=
    if !s.clkRun then Tab.del s.crWas c
    else match Tab.find s.crWas c with
    | some w =>
      if behind || ops.any (fun o => decide (m ≤ o.1)) then
        Tab.set s.crWas c { w with ops := ops.filter (fun o => decide (o.1 ≤ m)) ++ (m, op) :: ops.filter (fun o => decide (m < o.1)) }
      else Tab.set s.crWas c (s.crierNow c [(m, op)])
    | none => Tab.set s.crWas c (s.crierNow c [(m, op)])
  { s with crWas := was }.crierOp c m op

/-- A port access to a crier in the present crier cycle. -/
def State.crierPort (s : State) (c : CrierId) (op : CrierOp) : State := s.crierPortAt c (s.cycle c.h c.b) op

/-- The word of an instruction page written through a port: a fetch of this crier cycle still gets the old one (R195). -/
def State.pageWrite (s : State) (h b page w v : Nat) : State :=
  let x := s.barrow h b
  let n := s.cycle h b
  let words := if x.words.any (fun e => e.1 == n && e.2.1 == page && e.2.2.1 == w) then x.words
    else (n, page, w, s.pageWord h b page w) :: x.words.filter (fun e => decide (n ≤ e.1 + 8))
  (s.setBarrow h b { x with words := words }).storeNat (.crierPage h b page) (4 * w) 4 (v % 2 ^ 24)

/-- One attempt of a crier to issue an instruction of a row in its next crier cycle: nothing while it cannot issue. -/
def State.crierIssue (s : State) (c : CrierId) (pads : Byte) (row : Nat) (body : Nat → Nat → Nat → State → CrRes) : State :=
  s.atCycle c (fun s => s.crierSlot c) (fun n s => s.crierTry c n pads row body)

end Sys2Proof.Machine
end

