-- ==== Sys2Proof/Machine/Criers.lean ====
section
/-! DEFINITION. The crier instructions (R182 to R188, R193), deliveries and kicks (R194), and the accesses to a barrow
(R173, R189, R191, R195, R197, R198, R201). -/

namespace Sys2Proof.Machine

/-! ## The instructions -/

/-- NOP; a word that no other row names is illegal and halts the crier here (R182, R199). -/
def execCrierNop (c : CrierId) (pads : Byte) (s : State) : Out := .next (s.crierIssue c pads 0 (fun _ _ _ s => .done s))

/-- A value of SHOUT or MOVE written to the output pins, or to the output enables. -/
def State.outPins (s : State) (c : CrierId) (oe : Bool) (n v : Nat) : State :=
  let base := s.get CR_PINS.OUT_BASE c.ix
  let k := min n (s.get CR_PINS.OUT_COUNT c.ix)
  s.updC c (fun r => if oe then { r with oe := spread r.oe base k v } else { r with out := spread r.out base k v })

/-- The shift of SHOUT once OSH needs no refill (R183). -/
def State.shout (s : State) (c : CrierId) (w : Nat) : State :=
  let n := bits w 5 0 + 1
  let o := s.osh c
  let v := if s.outRight c then o % 2 ^ n else o / 2 ^ (64 - n)
  let s := s.loadOsh c (if s.outRight c then o / 2 ^ n else o * 2 ^ n % 2 ^ 64) (s.oshLeft c - n)
  match cA w with
  | 0 =>
    let m := min n (min 8 (s.get CR_PINS.OUT_COUNT c.ix))
    let s := if s.get CR_CRC_CFG.MODE c.ix = 1 then s.feedBits c (shiftOrder (s.outRight c) v m) else s
    s.outPins c false n v
  | 1 => s.outPins c true n v
  | 2 => s.put CR_X.X c.ix (v % 2 ^ 32)
  | 3 => s.put CR_Y.Y c.ix (v % 2 ^ 32)
  | _ => s

/-- SHOUT: shifts bits out of OSH, refilled first where CR_SHIFT asks for it (R183, R188). -/
def execShout (c : CrierId) (pads : Byte) (s : State) : Out :=
  .next (s.crierIssue c pads 1 (fun w _ _ s =>
    if s.is CR_SHIFT.REFILL c.ix && s.oshLeft c == 0 then
      let n := if s.is CR_SHIFT.REFILL_WIDE c.ix then 2 else 1
      if (s.crier c).tx.length < n then
        .stall (if (s.crier c).stalled.isSome then s else s.set CR_STATUS_C.TX_UNDER c.ix true) 3
      else .done ((s.doPull c n).shout c w)
    else .done (s.shout c w)))

/-- The fill at which HEAR spills: 0 means 64. -/
def State.spillAt (s : State) (c : CrierId) : Nat :=
  if s.get CR_SHIFT.SPILL_AT c.ix = 0 then 64 else s.get CR_SHIFT.SPILL_AT c.ix

/-- The shift of HEAR once ISH needs no spill (R183). -/
def State.hear (s : State) (c : CrierId) (w lv : Nat) : State :=
  let n := bits w 5 0 + 1
  let v := match cA w with
    | 0 => gather lv (s.get CR_PINS.IN_BASE c.ix) n
    | 1 => s.cx c % 2 ^ n
    | 2 => s.cy c % 2 ^ n
    | _ => 0
  let s := if cA w = 0 ∧ s.get CR_CRC_CFG.MODE c.ix = 2 then s.feedBits c (shiftOrder (s.inRight c) v n) else s
  let i := s.ish c
  s.loadIsh c (if s.inRight c then i / 2 ^ n + v * 2 ^ (64 - n) else (i * 2 ^ n % 2 ^ 64) + v) (min (s.ishFill c + n) 64)

/-- HEAR: shifts bits into ISH, spilled first where CR_SHIFT asks for it (R183, R188). -/
def execHear (c : CrierId) (pads : Byte) (s : State) : Out :=
  .next (s.crierIssue c pads 2 (fun w lv n s =>
    if s.is CR_SHIFT.SPILL c.ix && decide (s.spillAt c ≤ s.ishFill c) then
      if s.pushRoom c then .done ((s.doPush c (s.cycleStart c.h c.b n)).hear c w lv)
      else if s.is CR_SHIFT.SPILL_NOWAIT c.ix then .done ((s.dropPush c).hear c w lv)
      else .stall (if (s.crier c).stalled.isSome then s else s.set CR_STATUS_C.RX_OVER c.ix true) 4
    else .done (s.hear c w lv)))

/-- SET: an immediate to pins, output enables, X or Y (R184). -/
def execSetPins (c : CrierId) (pads : Byte) (s : State) : Out :=
  .next (s.crierIssue c pads 3 (fun w _ _ s =>
    let v := bits w 7 0
    let base := s.get CR_PINS.SET_BASE c.ix
    let k := s.get CR_PINS.SET_COUNT c.ix
    .done (match cA w with
      | 0 => s.updC c (fun r => { r with out := spread r.out base k v })
      | 1 => s.updC c (fun r => { r with oe := spread r.oe base k v })
      | 2 => s.put CR_X.X c.ix v
      | _ => s.put CR_Y.Y c.ix v)))

/-- AWAIT: a pin condition and a pace tick of the cycle at hand complete it; the other sources complete it by a delivery
(R193). -/
def execAwait (c : CrierId) (pads : Byte) (s : State) : Out :=
  .next (s.crierIssue c pads 4 (fun w lv n s =>
    match bits w 10 8 with
    | 0 => if bit lv (bits w 2 0) = bit w 11 then .done s else .stall s 5
    | 3 =>
      if s.nextPace c = n ∨ (s.crier c).lastTick = some n then .done s else .stall s 5
    | _ => .stall s 5))

/-- GOTO: a jump on a condition (R185). -/
def execCrierGoto (c : CrierId) (pads : Byte) (s : State) : Out :=
  .next (s.crierIssue c pads 5 (fun w lv _ s =>
    let t := bits w 5 0
    match cA w with
    | 0 => .jump s t
    | 1 => if s.cx c = 0 then .done s else .jump (s.put CR_X.X c.ix (s.cx c - 1)) t
    | 2 => if s.cy c = 0 then .done s else .jump (s.put CR_Y.Y c.ix (s.cy c - 1)) t
    | 3 => if s.cx c < s.cy c then .jump s t else .done s
    | 4 => if bit lv (cB w) then .jump s t else .done s
    | 5 => if bit lv (cB w) then .done s else .jump s t
    | 6 => if (s.crier c).tx.isEmpty then .done s else .jump s t
    | _ => if s.crc c = 0 then .jump s t else .done s))

/-- The value that MOVE reads (R184). -/
def State.moveSrc (s : State) (c : CrierId) (src lv : Nat) : Nat :=
  match src with
  | 0 => gather lv (s.get CR_PINS.IN_BASE c.ix) 8
  | 1 => s.cx c
  | 2 => s.cy c
  | 3 => 0
  | 4 => if s.inRight c then s.ish c / 2 ^ 32 else s.ish c % 2 ^ 32
  | 5 => if s.outRight c then s.osh c % 2 ^ 32 else s.osh c / 2 ^ 32
  | 6 => s.crc c
  | _ => s.ishFill c <<< 24 + (s.crier c).rx.length <<< 16 + s.oshLeft c <<< 8 + (s.crier c).tx.length

/-- MOVE: a transformed value between crier sources and destinations (R184). -/
def execCrierMove (c : CrierId) (pads : Byte) (s : State) : Out :=
  .next (s.crierIssue c pads 6 (fun w lv _ s =>
    let v := s.moveSrc c (cB w) lv
    let v := match bits w 5 4 with
      | 0 => v
      | 1 => 2 ^ 32 - 1 - v % 2 ^ 32
      | _ => reverseBits 32 v
    match cA w with
    | 0 => .done (s.outPins c false 8 v)
    | 1 => .done (s.outPins c true 8 v)
    | 2 => .done (s.put CR_X.X c.ix v)
    | 3 => .done (s.put CR_Y.Y c.ix v)
    | 4 => .done (s.loadIsh c (if s.inRight c then v * 2 ^ 32 else v) 32)
    | 5 => .done (s.narrowLoad c v)
    | _ => .jump s (v % 64)))

/-- PUSH: ISH into the RX FIFO, or to an axis (R188, R190). -/
def execCrierPush (c : CrierId) (pads : Byte) (s : State) : Out :=
  .next (s.crierIssue c pads 7 (fun w _ n s =>
    if bit w 1 && decide (s.ishFill c < s.spillAt c) then .done s
    else if s.pushRoom c then .done (s.doPush c (s.cycleStart c.h c.b n))
    else if bit w 0 then .done (s.dropPush c)
    else .stall s 4))

/-- PULL: OSH from the TX FIFO (R188). -/
def execCrierPull (c : CrierId) (pads : Byte) (s : State) : Out :=
  .next (s.crierIssue c pads 8 (fun w _ _ s =>
    let n := if bit w 2 then 2 else 1
    if bit w 1 && s.oshLeft c != 0 then .done s
    else if n ≤ (s.crier c).tx.length then .done (s.doPull c n)
    else if bit w 0 then .done ((s.narrowLoad c (s.cx c)).set CR_STATUS_C.TX_UNDER c.ix true)
    else .stall s 3))

/-- PACE: sets PERIOD and BT, to hold from the next cycle (R186). -/
def execCrierPace (c : CrierId) (pads : Byte) (s : State) : Out :=
  .next (s.crierIssue c pads 9 (fun w _ n s =>
    let imm := bits w 9 0
    .done (match bits w 11 10 with
      | 0 => let s := s.put CR_PACE.PERIOD c.ix (s.cx c % 65536); s.setBt c (s.period c - 1) (n + 1)
      | 1 => let s := s.put CR_PACE.PERIOD c.ix (if imm = 0 then 1024 else imm); s.setBt c (s.period c - 1) (n + 1)
      | 2 => s.setBt c imm (n + 1)
      | _ => s.setBt c (s.cx c % 65536) (n + 1))))

/-- CRC INIT: CRC := INIT[W-1:0] (R187). -/
def execCrcInit (c : CrierId) (pads : Byte) (s : State) : Out :=
  .next (s.crierIssue c pads 0x10 (fun _ _ _ s =>
    .done (s.put CR_CRC_VAL.VAL c.ix (s.get CR_CRC_INIT.INIT c.ix % 2 ^ s.crcW c))))

/-- CRC FEED_OUT: the bits that SHOUT writes to pins are fed from the next cycle on. -/
def execCrcFeedOut (c : CrierId) (pads : Byte) (s : State) : Out :=
  .next (s.crierIssue c pads 0x11 (fun _ _ _ s => .done (s.put CR_CRC_CFG.MODE c.ix 1)))

/-- CRC FEED_IN: the bits that HEAR takes from pins are fed from the next cycle on. -/
def execCrcFeedIn (c : CrierId) (pads : Byte) (s : State) : Out :=
  .next (s.crierIssue c pads 0x12 (fun _ _ _ s => .done (s.put CR_CRC_CFG.MODE c.ix 2)))

/-- CRC OFF: ends feeding. -/
def execCrcOff (c : CrierId) (pads : Byte) (s : State) : Out :=
  .next (s.crierIssue c pads 0x13 (fun _ _ _ s => .done (s.put CR_CRC_CFG.MODE c.ix 0)))

/-- CRC INSERT: OSH is loaded so that CRC[W-1] is sent first. -/
def execCrcInsert (c : CrierId) (pads : Byte) (s : State) : Out :=
  .next (s.crierIssue c pads 0x14 (fun _ _ _ s =>
    let w := s.crcW c
    let v := s.crc c
    .done (s.loadOsh c (if s.outRight c then reverseBits w v else v * 2 ^ (64 - w)) w)))

/-- CRC FEED_X: feeds X[n-1] down to X[0]. -/
def execCrcFeedX (c : CrierId) (pads : Byte) (s : State) : Out :=
  .next (s.crierIssue c pads 0x15 (fun w _ _ s =>
    .done (s.feedBits c (shiftOrder false (s.cx c) (bits w 4 0 + 1)))))

/-! ## Pace ticks, deliveries and kicks (R186, R193, R194) -/

/-- Every running crier of the barrow has passed cycle `n`, or stalls. -/
def State.passed (s : State) (h b n : Nat) : Bool :=
  (List.range 4).all (fun c => !s.crierRuns ⟨h, b, c⟩ || decide (n < (s.crier ⟨h, b, c⟩).next) ||
    (s.crier ⟨h, b, c⟩).stalled.isSome)

/-- The cycle of the pace tick that is due: BT reads 0 in a cycle that has begun and that the crier has passed, or stalls in. -/
def State.paceDue (s : State) (c : CrierId) : Option Nat :=
  let n := s.nextPace c
  if s.crierRuns c && s.clkRun && decide (n ≤ s.cycle c.h c.b) &&
      (decide (n < (s.crier c).next) || (s.crier c).stalled.isSome) && !s.swapFirst c.h c.b n then some n else none

/-- PACE_TICK (R186): an AWAIT PACE completes, and BT becomes PERIOD - 1. -/
def execPaceTick (c : CrierId) (s : State) : Out :=
  .next (s.atCycle c (fun s => s.paceDue c) (fun n s =>
    let s' := (s.setBt c (s.period c - 1) (n + 1)).updC c (fun r => { r with lastTick := some n })
    some (if s.crierAwaits c 3 0 n then s'.crierRelease c n else s')))

/-- The source and the operand of the AWAIT that a delivery completes. -/
def awaitOf : DeliverySrc → Nat × Nat
  | .bell n => (1, n)
  | .devBell n => (1, 32 + n)
  | .mark m => (2, m)
  | .kick => (4, 0)

/-- A delivery in cycle `n` to the criers of `mask`. -/
def State.deliverTo (s : State) (h b n mask : Nat) (src : DeliverySrc) : State :=
  forAll (ones 4 mask) (fun k s =>
    let c : CrierId := ⟨h, b, k⟩
    s.atCycle c (fun _ => some n) (fun n s =>
      if s.crierRuns c && s.crierAwaits c (awaitOf src).1 (awaitOf src).2 n then some (s.crierRelease c n) else none)) s

/-- A delivery of cycle `n` can be made: the cycle has begun, its criers have passed it or stall, and a swap cycle that falls in it
or before it has been made (R197). -/
def State.delivers (s : State) (h b n : Nat) : Bool :=
  decide (n ≤ s.cycle h b) && s.passed h b n && !s.swapFirst h b n

/-- CRIER_DELIVERY (R194): the earliest delivery of a source that waits for this barrow, in its crier cycle. -/
def execCrierDelivery (h b : Nat) (src : DeliverySrc) (s : State) : Out :=
  .next (
    if !s.clkRun then s
    else match src with
    | .kick =>
      match (s.barrow h b).kicks with
      | [] => s
      | (due, mask) :: rest =>
        let n := s.cycleFrom h b due
        if s.delivers h b n then
          (s.setBarrow h b { s.barrow h b with kicks := rest }).deliverTo h b n mask .kick
        else s
    | src =>
      match s.deliveries.find? (fun d => d.h == h && d.src == src && d.todo.contains b) with
      | none => s
      | some d =>
        let n := s.cycleFrom h b d.due
        if s.delivers h b n then
          let d' : Delivery := { d with todo := d.todo.filter (fun x => x != b) }
          let ds := (s.deliveries.map (fun e => if e = d then d' else e)).filter (fun e => !e.todo.isEmpty)
          { s with deliveries := ds }.deliverTo h b n 15 src
        else s)

/-! ## Accesses to a barrow -/

/-- Whoever makes the access reaches a barrow: a trader the two that the pin switch gives its stall (R13, R200). -/
def State.reachesBarrow (s : State) (by_ : Accessor) (h b : Nat) : Bool :=
  s.inHall h && decide (b < 16) && (match by_ with
    | .host _ => true
    | .trader t => t.h == h && ((s.barrowsOf h t.s).take 2).contains b)

/-- A push into the TX FIFO (R191). -/
def State.txPush (s : State) (c : CrierId) (v : Word) : State := s.crierPort c (.push v)

/-- A pop of the RX FIFO (R191): the entry, or 0 with RX_UNDER. -/
def State.rxPop (s : State) (c : CrierId) : Word × State :=
  match (s.crier c).rx with
  | v :: _ => (v, s.crierPort c (.pop true))
  | [] => (0, s.crierPort c (.pop false))

/-- Criers start at their PC in the next crier cycle (R198). -/
def State.criersStart (s : State) (h b mask : Nat) : State := forAll (ones 4 mask) (fun k s => s.crierPort ⟨h, b, k⟩ .start) s

/-- Criers stop at the next cycle boundary (R198). -/
def State.criersStop (s : State) (h b mask : Nat) : State := forAll (ones 4 mask) (fun k s => s.crierPort ⟨h, b, k⟩ .stop) s

/-- RESTART of a crier (R198). -/
def State.crierRestart (s : State) (c : CrierId) : State := s.crierPort c .restart

/-- A kick of criers: it takes effect at the end of the crier cycle of the write and is delivered 32 ticks later (R194). -/
def State.kickCriers (s : State) (h b mask : Nat) : State :=
  let t := s.cycleStart h b (s.cycle h b + 1)
  s.setBarrow h b { s.barrow h b with kicks := (s.barrow h b).kicks ++ [(t + 32, mask % 16)] }

/-- A write of BR_CLK: from the next cycle boundary on, with the accumulator cleared (R173). -/
def State.brClkWrite (s : State) (h b v : Nat) : State :=
  let n := s.cycle h b + 1
  (s.newGrid h b (s.cycleStart h b n) n).wr ((ix h b).reg .BR_CLK) v

/-- A write of BR_IDATA (R201); while the memories are cleared the write is held before it comes here (R377). -/
def State.brIdataWrite (s : State) (h b v : Nat) : State :=
  let w := s.get BR_IADDR.WORD (ix h b)
  let s := s.pageWrite h b (s.get BR_IADDR.PAGE (ix h b)) w v
  if s.is BR_IADDR.AUTO_INC (ix h b) then s.put BR_IADDR.WORD (ix h b) ((w + 1) % 64) else s

/-- A write of BR_CTRL.PAGE_SEL (R197): naming the other page it replaces the page change that waits, that of a swap too, whose
other changes stay; naming the active page it withdraws one asked for by PAGE_SEL. -/
def State.barrowPageSel (s : State) (h b : Nat) (page : Bool) : State :=
  let i := ix h b
  let s := s.set BR_CTRL.PAGE_SEL i page
  let w := s.barrow h b
  let w := if b2n page = s.brPage h b then { w with selAt := none } else { w with selAt := some (s.tick + 1), swapPg := false }
  (s.setBarrow h b w).set BR_STATUS.PAGE_PEND i (w.selAt.isSome || w.swapPg)

/-- A crier in the swap cycle `n` of its barrow, after the page has changed (R197). -/
def State.swapCrier (s : State) (c : CrierId) (n : Nat) : State :=
  let jump := s.is CR_EXEC.SWAP_JUMP c.ix
  let s := if jump then s.put CR_STATUS_C.PC c.ix (s.get CR_EXEC.SWAP_ENTRY c.ix) else s
  if (s.crier c).stalled.isSome then
    (if jump then s.put CR_STATUS_C.STATE c.ix 1 else s).updC c
      (fun r => { r with next := n, stalled := if jump then none else r.stalled, cued := if jump then none else r.cued })
  else s

/-- The page change of a swap cycle `n` for the criers of a barrow (R197). -/
def State.swapPage (s : State) (h b n page : Nat) : State :=
  forAll (List.range 4) (fun k s => s.atCycle ⟨h, b, k⟩ (fun _ => some n) (fun n s => some (s.swapCrier ⟨h, b, k⟩ n)))
    (s.put BR_STATUS.PAGE (ix h b) page)

/-- CR_TXF_PUSH (R191). -/
def execCrTxfPush (by_ : Accessor) (c : CrierId) (v : Word) (s : State) : Out :=
  .next (s.byPort (accPort by_) c.h (.crTxfPush by_ c v) false (fun s =>
    if s.reachesBarrow by_ c.h c.b then s.txPush c v else s))

/-- CR_RXF_POP (R191): a host port gets the entry as its read data, a trader in its read latch. -/
def execCrRxfPop (by_ : Accessor) (c : CrierId) (s : State) : Out :=
  .next (s.byPort (accPort by_) c.h (.crRxfPop by_ c) false (fun s =>
    if s.reachesBarrow by_ c.h c.b then
    let (v, s) := s.rxPop c
    match by_ with
    | .host _ => { s with readOut := v }
    | .trader t => s.upd t (fun tr => { tr with rlatch := some (c.ix.reg .CR_RXF, v.toNat) })
    else match by_ with
    | .host _ => { s with readOut := 0 }
    | .trader _ => s))

/-- CRIER_START (R198). -/
def execCrierStart (by_ : Accessor) (h b mask : Nat) (s : State) : Out :=
  .next (s.byPort (accPort by_) h (.crierStart by_ h b mask) false (fun s =>
    if s.reachesBarrow by_ h b then s.criersStart h b mask else s))

/-- CRIER_STOP (R198). -/
def execCrierStop (by_ : Accessor) (h b mask : Nat) (s : State) : Out :=
  .next (s.byPort (accPort by_) h (.crierStop by_ h b mask) false (fun s =>
    if s.reachesBarrow by_ h b then s.criersStop h b mask else s))

/-- RESTART (R198). -/
def execRestart (by_ : Accessor) (c : CrierId) (s : State) : Out :=
  .next (s.byPort (accPort by_) c.h (.restart by_ c) false (fun s =>
    if s.reachesBarrow by_ c.h c.b then s.crierRestart c else s))

/-- FLUSH (R198). -/
def execFlush (by_ : Accessor) (c : CrierId) (s : State) : Out :=
  .next (s.byPort (accPort by_) c.h (.flush by_ c) false (fun s =>
    if s.reachesBarrow by_ c.h c.b then s.crierPort c .flush else s))

/-- KICK (R194). -/
def execKick (by_ : Accessor) (h b mask : Nat) (s : State) : Out :=
  .next (s.byPort (accPort by_) h (.kick by_ h b mask) false (fun s =>
    if s.reachesBarrow by_ h b then s.kickCriers h b mask else s))

/-- CR_FIFO_WRITE (R189). -/
def execCrFifoWrite (by_ : Accessor) (c : CrierId) (v : Word) (s : State) : Out :=
  .next (s.byPort (accPort by_) c.h (.crFifoWrite by_ c v) false (fun s =>
    if s.reachesBarrow by_ c.h c.b then s.crierPort c (.reg (c.ix.reg .CR_FIFO) v.toNat) else s))

/-- BR_CLK_WRITE (R173). -/
def execBrClkWrite (by_ : Accessor) (h b : Nat) (v : Word) (s : State) : Out :=
  .next (s.byPort (accPort by_) h (.brClkWrite by_ h b v) false (fun s =>
    if s.reachesBarrow by_ h b then s.brClkWrite h b v.toNat else s))

/-- BR_IDATA_WRITE (R201). -/
def execBrIdataWrite (by_ : Accessor) (h b : Nat) (v : Word) (s : State) : Out :=
  .next (s.byPort (accPort by_) h (.brIdataWrite by_ h b v) (s.inHall h && s.clearing) (fun s =>
    if s.reachesBarrow by_ h b then s.brIdataWrite h b v.toNat else s))

/-- INSTRUCTION_PAGE_WRITE (R195): bits [31:24] are ignored. -/
def execInstructionPageWrite (port h b page w : Nat) (v : Word) (s : State) : Out :=
  .next (s.byPort port h (.instructionPageWrite port h b page w v) (s.inHall h && s.clearing) (fun s =>
    if s.inHall h then s.pageWrite h b page w v.toNat else s))

/-- BARROW_PAGE_SEL (R197). -/
def execBarrowPageSel (by_ : Accessor) (h b : Nat) (page : Bool) (s : State) : Out :=
  .next (s.byPort (accPort by_) h (.barrowPageSel by_ h b page) false (fun s =>
    if s.reachesBarrow by_ h b then s.barrowPageSel h b page else s))

end Sys2Proof.Machine
end

