-- ==== Sys2Proof/Machine/Queues.lean ====
section
/-! DEFINITION. Tokens (R275 to R279), queues (R283 to R288) and how traders and host agents reach them (R280 to R282,
R289, R290). Every operation is one operation of the hall's atomic unit. -/

namespace Sys2Proof.Machine

/-! ## Masters (R270) -/

/-- The caller is a supervisor: a host agent, or a trader whose S is 1 (R277). -/
def State.supervisor (s : State) : Caller → Bool
  | .host _ _ => true
  | .trader t => (s.trader t).sup
  | _ => false

/-! ## Tokens -/

/-- The live-token table of a hall. -/
def State.toks (s : State) (h : Nat) : List TokEntry := Tab.get s.tokens h []
def State.setToks (s : State) (h : Nat) (es : List TokEntry) : State := { s with tokens := Tab.set s.tokens h es }

/-- An entry that reads uncorrectable is removed, and its word is left as it stands (R397). -/
def State.purgeToks (s : State) (h : Nat) : State :=
  match (List.range 256).find? (fun e => Tab.find s.ecc (0xB, h * 256 + e) == some true) with
  | none => s
  | some e =>
    let s := (s.uncorrectable h 0xB e true).setToks h ((s.toks h).eraseIdx e)
    { s with ecc := Tab.del s.ecc (0xB, h * 256 + e) }

/-- The word of a token, and the word written. -/
def State.tokWord (s : State) (h w : Nat) : Nat := s.natAt (.hallMem h) (8 * w) 8
def State.setTokWord (s : State) (h w v : Nat) : State := s.storeNat (.hallMem h) (8 * w) 8 v

/-- The word lies in a strict window (R278). -/
def State.strictWord (s : State) (h w : Nat) : Bool :=
  (List.range 8).any (fun n => s.is TK_STRICT.EN (ix h n) && decide (s.get TK_STRICT.FIRST (ix h n) ≤ w) &&
    decide (w ≤ s.get TK_STRICT.LAST (ix h n)))

/-- An alias read of word `w` by master `n`: the value it returns, the result code, and the state after it (R275). DESIGN CHOICE
(assumption log 131): with the table full, an acquisition of a word 0xFFFE that is not live sets TOKEN_FULL too (R290). -/
def State.tokenAcquire (s : State) (h w n : Nat) : Nat × Nat × State :=
  let s := s.purgeToks h
  let v := s.tokWord h w
  let es := s.toks h
  if v = 0 ∨ v = 0xFFFE then
    if es.any (fun e => e.word == w) then
      (v, if v = 0 then 0 else 7,
        (s.setToks h (es.map (fun e => if e.word = w then { e with owner := n } else e))).setTokWord h w n)
    else if 256 ≤ es.length then (0xFFFF, 3, s.set HL_STATUS.TOKEN_FULL (ix h) true)
    else (v, if v = 0 then 0 else 7, (s.setToks h (es ++ [⟨w, n, s.strictWord h w⟩])).setTokWord h w n)
  else if v = n then (v, 1, s)
  else (v, 2, s)

/-- A release of word `w` by master `n`: the result code and the state after it (R277). -/
def State.tokenRelease (s : State) (h w n : Nat) (force sup : Bool) : Nat × State :=
  let s := s.purgeToks h
  let es := s.toks h
  let free (s : State) : State := (s.setToks h (es.filter (fun e => e.word != w))).setTokWord h w 0
  match es.find? (fun e => e.word == w) with
  | none => (5, s.set HL_STATUS.TOKEN_REFUSED (ix h) true)
  | some e =>
    if e.owner = n then (4, free s)
    else if force && sup && !e.strict then
      (4, (free s).hallChit h 0x12 0 (w + e.owner <<< 32) s.tick 0 w)
    else (6, s.set HL_STATUS.TOKEN_REFUSED (ix h) true)

/-- The consumer side of a queue is held by a pop from host memory (R285). -/
def State.popHolds (s : State) (h q : Nat) : Bool := s.hostPops.any (fun p => p.h == h && p.q == q)

/-- The words of hall memory that an access needs are readable, or uncorrectable: the access fails (R268). -/
def State.hallBad (s : State) (h a n : Nat) : Bool := s.errorIn (.hallMem h) a n == some true

/-- A pop (R285): the reason, the element and the state; the element of a host-memory queue comes later. -/
def State.qPop (s : State) (by_ : Caller) (q stream : Nat) (es : List Nat) : Option (Nat × List Byte) × State :=
  let h := callerHall by_
  let r := s.qReason h q (callerNum by_) .pop es
  if r ≠ 0 then (some (r, []), s)
  else
    let a := s.qSlot h q (s.get Q_HEAD.HEAD (ix h q))
    if s.is Q_CFG.LOC (ix h q) then
      let (s', id) := s.hostReq (.queue h q) (some h) stream a (s.qElem h q)
      (none, { s' with hostPops := s'.hostPops ++ [⟨h, q, by_, id⟩] })
    else (some (0, s.bytesAt (.hallMem h) a (s.qElem h q)),
      (s.granted h (callerPort by_) a (s.qElem h q)).qDo h q (callerNum by_) .pop)

/-- The element that a pop of a hall-memory queue would read meets an uncorrectable error: the access fails, and HEAD does not
advance (R268). -/
def State.popBad (s : State) (by_ : Caller) (q : Nat) (es : List Nat) : Bool :=
  let h := callerHall by_
  s.qReason h q (callerNum by_) .pop es == 0 && !s.is Q_CFG.LOC (ix h q) &&
    s.hallBad h (s.qSlot h q (s.get Q_HEAD.HEAD (ix h q))) (s.qElem h q)

/-! ## Resets of masters (R279, R287) -/

/-- The holdings of a master end: its tokens are marked, its reservations aborted and its takes returned, and one
TOKEN_ABANDONED chit tells how many tokens were marked. -/
def State.abandon (s : State) (h n : Nat) : State :=
  let es := s.toks h
  let mine := es.filter (fun e => e.owner == n)
  let s := forAll mine (fun e s => s.setTokWord h e.word 0xFFFE) s
  let s := s.setToks h (es.map (fun e => if e.owner = n then { e with owner := 0xFFFE } else e))
  let held (f : Field) : List Nat :=
    (s.regs.filter (fun e => e.1.name == f.reg && e.1.a == h && bits e.2.toNat f.hi f.lo == n)).map (fun e => e.1.b)
  let s := forAll (held Q_PROD.P_HOLD) (fun q s => s.qAbort h q) s
  let s := forAll (held Q_CONS.C_HOLD) (fun q s => s.qReturn h q) s
  s.hallChit h 0x13 0 (n + mine.length <<< 16) s.tick 0 n

/-! ## Writes of descriptors (R284) -/

/-- The conditions under which VALID may become 1, with the word at 0x08 as given. -/
def State.qAcceptable (s : State) (h q v : Nat) : Bool :=
  let size := bits v 28 24
  let elem := bits v 23 20
  let base := s.get Q_BASE.BASE (ix h q)
  decide (4 ≤ size) && decide (size ≤ 24) && decide (2 ≤ elem) && decide (elem ≤ 12) && decide (elem ≤ size) &&
    base % max (2 ^ elem) 8 == 0 && (bit v 30 || decide (base + 2 ^ size ≤ 0x400000)) &&
    decide (s.qFilled h q ≤ 2 ^ (size - elem))

/-- A write of the word at 0x08 of a descriptor. -/
def State.qCfgWrite (s : State) (h q v : Nat) : State :=
  let i := ix h q
  let v := bits v 31 30 <<< 30 + bits v 28 13 <<< 13
  if s.is Q_CFG.VALID i then
    if bit v 31 then s.set HL_STATUS.QDESC_REFUSED (ix h) true
    else ((s.wr (i.reg .Q_CFG) v).qAbort h q).qReturn h q
  else if bit v 31 && !s.qAcceptable h q v then s.set HL_STATUS.QDESC_REFUSED (ix h) true
  else s.wr (i.reg .Q_CFG) v

/-- A host write of a word of a descriptor; BASE is completed by its high word (R23, R284). -/
def State.qDescWrite (s : State) (port h q off v : Nat) : State :=
  let i := ix h q
  if off = 8 then s.qCfgWrite h q v
  else if s.is Q_CFG.VALID i then s.set HL_STATUS.QDESC_REFUSED (ix h) true
  else match off with
  | 0 => { s with ports := Tab.set s.ports port { Tab.get s.ports port {} with w := some (i.reg .Q_BASE, v) } }
  | 4 =>
    let lo := match (Tab.get s.ports port {}).w with
      | some (r, x) => if r = i.reg .Q_BASE then x else s.rd (i.reg .Q_BASE) % 2 ^ 32
      | none => s.rd (i.reg .Q_BASE) % 2 ^ 32
    let s := s.put Q_BASE.BASE i (v * 2 ^ 32 + lo)
    { s with ports := Tab.set s.ports port { Tab.get s.ports port {} with w := none } }
  | 0xC => s.put Q_PROD.P_OWNER i v
  | 0x10 => s.put Q_CONS.C_OWNER i v
  | 0x14 => s.put Q_HEAD.HEAD i v
  | 0x18 => s.put Q_TAIL.TAIL i v
  | _ => s

/-! ## How traders and host agents operate (R281, R289, R290) -/

/-- The stream number of a trader on the host ports (R317). -/
def State.trStream (s : State) (t : TraderId) : Nat := t.h <<< 12 + 0x100 + 0x10 * s.get STL_SELF.ROLE t.st + t.t

/-- BUS_ERR of a trader from a host port: the record belongs to the occurrence that sets the pending bit (R169). -/
def State.busError (s : State) (t : TraderId) (detail taddr : Nat) : State :=
  let s := if bit (s.get EV_PEND.PEND t.ix) 9 then s else s.upd t (fun tr => { tr with busErr := (detail, taddr) })
  s.occur t 9

/-- An error response of the hall to an operation of a trader: BUS_ERR, with a result of zeros (R167, R268). -/
def State.opFails (s : State) (t : TraderId) (at_ : ReqAt) (detail addr n : Nat) : State :=
  (s.upd t (fun tr => tr.answered at_ (toBytes n 0))).busError t detail addr

/-- A push of a trader (R285). To host memory its element is posted, and the push is made when a host port accepts it; an element
narrower than an uncorrectable word of hall memory is not written (R266, R268). -/
def State.traderPush (s : State) (t : TraderId) (at_ : ReqAt) (q : Nat) (bytes : List Byte) : State :=
  let by_ := Caller.trader t
  let r := s.postReason by_ q
  let a := s.postSlot by_ q
  let el := bytes.take (s.qElem t.h q)
  let fin (s : State) (r : Nat) : State := (s.qStat by_ q r).upd t (fun tr => tr.answered at_ [])
  if r ≠ 0 then fin s r
  else if s.is Q_CFG.LOC (ix t.h q) then
    if s.reqs.any (fun x => !x.issued && x.post == some (by_, q)) then s
    else (s.hostReq (.queue t.h q) (some t.h) (s.trStream t) a el.length el true 0xF828 (some (by_, q))).1
  else if el.length < 8 ∧ s.hallBad t.h a el.length = true then s.opFails t at_ 0x84 0xF828 0
  else fin (((s.granted t.h t.s a el.length).store (.hallMem t.h) a el).qDo t.h q (callerNum by_) .push) 0

/-- An operation on a queue reads its descriptor: an error of it is counted, or reported (R397). -/
def State.descRead (s : State) (h q : Nat) : State :=
  match Tab.find s.ecc (0xA, h * 1024 + q) with
  | some true => s.uncorrectable h 0xA q true
  | some false => s.corrected h 9
  | none => s

/-- The queue of an operation. -/
def AtomOp.queue : AtomOp → Option Nat
  | .acquire _ | .release _ _ => none
  | .reserve q | .commit q _ | .abort q | .push q _ | .take q | .done q _ | .ret q | .pop q => some q

/-- The operation waits for the end of a pop of its queue (R285). -/
def State.opWaits (s : State) (h : Nat) : AtomOp → Bool
  | .take q | .done q _ | .ret q | .pop q => s.popHolds h q
  | _ => false

/-- An operation of a trader on a token or on a queue made by the hall. -/
def State.traderOp (s : State) (t : TraderId) (at_ : ReqAt) (op : AtomOp) : State :=
  let n := callerNum (.trader t)
  let by_ := Caller.trader t
  let fin (s : State) (bs : List Byte) : State := s.upd t (fun tr => tr.answered at_ bs)
  let simple (q : Nat) (o : QOp) (slot : Nat) : State :=
    let (r, s') := s.qOp t.h q n o
    fin (s'.qStat by_ q r) (toBytes 4 (if r = 0 then slot else 2 ^ 31))
  match op with
  | .acquire w =>
    if s.hallBad t.h (8 * w) 8 then s.opFails t at_ 4 0xF808 8
    else
      let (v, r, s') := s.tokenAcquire t.h w n
      fin (s'.put TK_STAT.RESULT t.ix r) (toBytes 8 v)
  | .release w force =>
    let (r, s') := s.tokenRelease t.h w n force (s.trader t).sup
    fin (s'.put TK_STAT.RESULT t.ix r) []
  | .reserve q => simple q .reserve (s.qRsvSlot t.h q)
  | .commit q _ => simple q .commit 0
  | .abort q => simple q .abort 0
  | .push q bs => s.traderPush t at_ q bs
  | .take q => simple q .take (s.qTakeSlot t.h q)
  | .done q _ => simple q .done 0
  | .ret q => simple q .ret 0
  | .pop q =>
    if s.popBad by_ q [4, 8] then s.opFails t at_ 4 0xF830 8
    else match s.qPop by_ q (s.trStream t) [4, 8] with
    | (some (r, bs), s') => fin (s'.qStat by_ q r) (toBytes 8 (ofBytes bs))
    | (none, s') => s'

/-- The stalls of a hall whose traders wait at the atomic unit: a trader has an operation that the hall has not made and that waits
for no pop and for no host port (R271, R280). -/
def State.atomWaits (s : State) (h : Nat) : List Nat :=
  (s.traders.filter (fun e => e.1.h == h && (match e.2.nextOp with
    | some (_, op) => !s.opWaits h op && !s.reqs.any (fun x => !x.issued && x.post.any (fun p => p.1 == Caller.trader e.1))
    | none => false))).map (fun e => e.1.s)

/-- The atomic unit grants the master port of the trader's stall next (R269, R271): its round robin after the grant. -/
def State.atomTurn (s : State) (t : TraderId) : Option Arb :=
  match (Tab.get s.atomArb t.h {}).pick (s.levy t.h) 16 (s.atomWaits t.h) with
  | some (m, a) => if m = t.s then some a else none
  | none => none

/-- The row of an operation made for a trader: nothing unless its oldest operation is of that row, waits for nothing else, and the
atomic unit grants its stall. Among the traders of one stall the row tells which one's access reaches the port first (R269). -/
def State.traderRow (s : State) (t : TraderId) (p : AtomOp → Bool) : State :=
  match (s.trader t).nextOp, s.atomTurn t with
  | some (at_, op), some a =>
    if p op && !s.opWaits t.h op then
      let s := { s with atomArb := Tab.set s.atomArb t.h a }
      (match op.queue with | some q => s.descRead t.h q | none => s).traderOp t at_ op
    else s
  | _, _ => s

/-- The queue that a host agent has selected. -/
def State.agentQ (s : State) (h a : Nat) : Nat := s.get QH_SEL.QUEUE (ix h a)

/-- An operation of a host agent on a queue made by the hall; a reserve or a take returns its slot as the data read. -/
def State.agentMade (s : State) (o : AgentOp) : State :=
  let s := s.descRead o.h o.q
  let slot := if o.op = .reserve then s.qRsvSlot o.h o.q else s.qTakeSlot o.h o.q
  let (r, s') := s.qOp o.h o.q (0x2000 + o.a) o.op
  let s' := s'.qStat (.host o.h o.a) o.q r
  if o.op = .reserve ∨ o.op = .take then { s' with readOut := BitVec.ofNat 32 (if r = 0 then slot else 2 ^ 31) } else s'

/-- An operation of a host agent on its queue: while a pop holds the consumer side, a take, a done or a return waits and is made
after it (R285). -/
def State.agentOp (s : State) (h a : Nat) (op : QOp) : State :=
  let o : AgentOp := ⟨h, a, s.agentQ h a, op⟩
  if (op == .take || op == .done || op == .ret) && s.popHolds h o.q then { s with agentWait := s.agentWait ++ [o] }
  else s.agentMade o

/-- The operations of host agents that waited for the end of a pop of a queue are made in their order. -/
def State.agentRelease1 (s : State) (h q : Nat) : State :=
  let mine := s.agentWait.filter (fun o => o.h == h && o.q == q)
  forAll mine (fun o s => s.agentMade o) { s with agentWait := s.agentWait.filter (fun o => !(o.h == h && o.q == q)) }

/-- The alias read of a host agent: the low word is the data read, and the host latch takes the whole (R290). A word that reads
uncorrectable gives an error response (R268, R321). -/
def State.agentAcquire (s : State) (h a : Nat) : State :=
  if s.hallBad h (8 * s.get TK_HWORD.WORD (ix h a)) 8 then { s with readErr := true, readOut := 0 }
  else
    let (v, r, s') := s.tokenAcquire h (s.get TK_HWORD.WORD (ix h a)) (0x2000 + a)
    let s' := s'.put TK_HWORD.RESULT (ix h a) r
    ({ s' with readOut := BitVec.ofNat 32 v } : State).wr ((ix h a).reg .TK_HACQ) v

/-- The release of a host agent. -/
def State.agentRelease (s : State) (h a : Nat) (force : Bool) : State :=
  let (r, s') := s.tokenRelease h (s.get TK_HWORD.WORD (ix h a)) (0x2000 + a) force true
  s'.put TK_HWORD.RESULT (ix h a) r

/-- An access of a host agent to the atomic unit of its hall, which waits while the arrays are being cleared (R377). The row names no
host port: the accesses of one agent keep their order. -/
def State.byAgent (s : State) (h a : Nat) (c : Instr) (f : State → State) : State :=
  s.byPort (0x2000 + 16 * h + a) h c (s.inHall h && s.clearing) f

/-! ## The rows that need nothing else -/

/-- TOKEN_ACQUIRE (R275): by a trader or by a host agent; porters and carts have no alias. -/
def execTokenAcquire (by_ : Caller) (s : State) : Out :=
  .next (match by_ with
    | .trader t => s.traderRow t (fun op => match op with | .acquire _ => true | _ => false)
    | .host h a => s.byAgent h a (.tokenAcquire by_) (fun s => if s.inHall h then s.agentAcquire h a else s)
    | _ => s)

/-- TOKEN_RELEASE (R277). -/
def execTokenRelease (by_ : Caller) (force : Bool) (s : State) : Out :=
  .next (match by_ with
    | .trader t => s.traderRow t (fun op => match op with | .release _ _ => true | _ => false)
    | .host h a => s.byAgent h a (.tokenRelease by_ force) (fun s => if s.inHall h then s.agentRelease h a force else s)
    | _ => s)

/-- HL_ABANDON (R279): a register of the hall control block, which the host alone reaches. -/
def execHlAbandon (by_ : Accessor) (h : Nat) (mask : Half) (s : State) : Out :=
  .next (s.byPort (accPort by_) h (.hlAbandon by_ h mask) false (fun s =>
    match by_ with
    | .host _ => if s.inHall h then forAll (ones 16 mask.toNat) (fun a s => s.abandon h (0x2000 + a)) s else s
    | .trader _ => s))

/-- QUEUE_PUSH (R285). -/
def execQueuePush (t : TraderId) (s : State) : Out :=
  .next (s.traderRow t (fun op => match op with | .push _ _ => true | _ => false))

/-- QUEUE_POP (R285). -/
def execQueuePop (t : TraderId) (s : State) : Out :=
  .next (s.traderRow t (fun op => match op with | .pop _ => true | _ => false))

/-- QUEUE_DESCRIPTOR_WRITE (R284). -/
def execQueueDescriptorWrite (port h q off : Nat) (v : Word) (s : State) : Out :=
  .next (s.byPort port h (.queueDescriptorWrite port h q off v) (s.inHall h && s.clearing) (fun s =>
    if s.inHall h then s.qDescWrite port h q off v.toNat else s))

/-- BL_RING (R143): hall bells rung by a trader through BL_RING or by the host through HL_BELL_RING. -/
def execBlRing (by_ : Accessor) (h : Nat) (mask : Word) (s : State) : Out :=
  .next (s.byPort (accPort by_) h (.blRing by_ h mask) false (fun s =>
    if s.reachesHall by_ h then s.ringMask false h 32 mask.toNat else s))

/-- DB_RING (R143): device bells. -/
def execDbRing (by_ : Accessor) (mask : Half) (s : State) : Out :=
  .next (s.byPort (accPort by_) 8 (.dbRing by_ mask) false (fun s =>
    s.ringMask true 0 16 mask.toNat))

end Sys2Proof.Machine
end

