-- ==== Sys2Proof/Machine/Settle.lean ====
section
/-! DEFINITION. What images in force say of a stall (R349, R351, R369), resets of a stall (R374), the start of a wind-down
(R373), the start of a stall fail-over (R403 to R407), and acting on the causes that a command has registered. -/

namespace Sys2Proof.Machine

/-! ## Images (R346 to R351, R369) -/

/-- The number of `n` bytes at offset `o` of an image. -/
def Image.num (i : Image) (o n : Nat) : Nat := field i.buf o n

/-- The section table (R347). -/
def Image.secs (i : Image) : List Sect :=
  (List.range (i.num 6 2)).map (fun k =>
    let o := i.num 24 4 + 16 * k
    ⟨i.num o 1, i.num (o + 1) 1, i.num (o + 2) 1, i.num (o + 4) 4, i.num (o + 8) 4, i.num (o + 12) 4⟩)

/-- Bytes put at an offset of an image; what nothing has filled before it reads 0. -/
def placeAt (buf : List Byte) (o : Nat) (bs : List Byte) : List Byte :=
  (buf ++ List.replicate (o - buf.length) 0).take o ++ bs ++ buf.drop (o + bs.length)

/-- The sections that step 1 of a load reads: the CERT section, and those whose contents its checks look into (R357). DESIGN CHOICE
(assumption log 138). -/
def Image.early (i : Image) (len : Nat) : List Sect :=
  let fits (x : Sect) : Bool := x.off % 64 == 0 && decide (x.off + x.len ≤ len)
  i.secs.filter (fun x => x.ty == 0xF && fits x) ++
    i.secs.filter (fun x => (x.ty == 2 || x.ty == 9 || x.ty == 0xB || x.ty == 0xC) && fits x)

/-- The section table lies in the image of `len` bytes, which has the header of an image. -/
def Image.tableFits (i : Image) (len : Nat) : Bool :=
  i.num 0 4 == 0x4E594C46 && i.num 6 2 != 0 && decide (i.num 6 2 ≤ 1024) && i.num 24 4 % 64 == 0 &&
    decide (i.num 24 4 + 16 * i.num 6 2 ≤ len)

/-- The sections that a number of bytes fills, one after the other: the image with them, and the first one that it does not fill. -/
def placeEarly : List Sect → List Byte → List Byte → List Byte × Option Sect
  | [], buf, _ => (buf, none)
  | x :: xs, buf, bs => if bs.length < x.len then (buf, some x) else placeEarly xs (placeAt buf x.off (bs.take x.len)) (bs.drop x.len)

/-- What step 1 of a load has read, header first, then the table, then the sections, as an image; and what it reads next: an offset
and a length (R355). -/
def stepOne (got : List Byte) (len : Nat) : List Byte × Option (Nat × Nat) :=
  let h : Image := { job := 0, shadow := false, buf := got.take 64 }
  let n := 16 * h.num 6 2
  if !h.tableFits len then (got.take 64, none)
  else if got.length < 64 + n then (got.take 64, some (h.num 24 4, n))
  else
    let i : Image := { h with buf := placeAt h.buf (h.num 24 4) ((got.drop 64).take n) }
    let (buf, x) := placeEarly (i.early len) i.buf (got.drop (64 + n))
    (buf, x.map (fun x => (x.off, x.len)))

/-- The contents of a section. -/
def Image.content (i : Image) (x : Sect) : List Byte := (i.buf.drop x.off).take x.len

/-- The contents of the section of a type for a hall and a unit. -/
def Image.sec (i : Image) (ty hall unit : Nat) : Option (List Byte) :=
  (i.secs.find? (fun x => x.ty == ty && x.hall == hall && x.unit == unit)).map i.content

/-- The certificate (R351). -/
def Image.cert (i : Image) : List Byte := ((i.secs.find? (fun x => x.ty == 0xF)).map i.content).getD []

/-- The hall records and the stall records of the certificate. -/
def Image.hallRecs (i : Image) : List (List Byte) :=
  (List.range (field i.cert 10 1)).map (fun k => (i.cert.drop (32 + 8 * k)).take 8)
def Image.stallRecs (i : Image) : List (List Byte) :=
  (List.range (field i.cert 11 1)).map (fun k => (i.cert.drop (32 + 8 * field i.cert 10 1 + 144 * k)).take 144)

/-- The stall record of a role. -/
def Image.stallRec (i : Image) (h role : Nat) : Option (List Byte) :=
  i.stallRecs.find? (fun r => field r 0 1 == h && field r 1 1 == role)

/-- The unit entries of the KEEP sections: kind, hall, number and mask (R369). -/
def Image.keeps (i : Image) : List (Nat × Nat × Nat × Nat) :=
  (i.secs.filter (fun x => x.ty == 0xC)).flatMap (fun x =>
    let b := i.content x
    let np := field b 2 1
    (List.range (field b 3 1)).map (fun k =>
      let o := 16 + 32 * np + 8 * k
      (field b o 1, field b (o + 1) 1, field b (o + 2) 1, field b (o + 4) 4)))

/-- The image of a job. -/
def State.image (s : State) (job : Nat) : Option Image := s.images.find? (fun i => i.job == job)

/-- An image changed. -/
def State.updImage (s : State) (job : Nat) (f : Image → Image) : State :=
  { s with images := s.images.map (fun i => if i.job == job then f i else i) }

/-- The stalls and barrows that an image names: a stall or not, the hall, the role or the number (R348). -/
def Image.units (i : Image) : List (Bool × Nat × Nat) :=
  ((i.secs.filter (fun x => x.ty == 1 || x.ty == 2 || x.ty == 3 || x.ty == 5)).map (fun x => (x.ty != 5, x.hall, x.unit))).dedup

/-- The register that holds the occupants of a unit (R354). -/
def occReg (u : Bool × Nat × Nat) : Reg := (ix u.2.1 u.2.2).reg (if u.1 then .HS_STALL else .HS_BARROW)

/-- The active and the shadow occupant of a unit. -/
def State.active (s : State) (u : Bool × Nat × Nat) : Nat := bits (s.rd (occReg u)) 15 0
def State.shadow (s : State) (u : Bool × Nat × Nat) : Nat := bits (s.rd (occReg u)) 31 16

/-- An image whose last unit has gone to another one is in force no more. -/
def State.refreshLive (s : State) : State :=
  { s with images := s.images.map (fun (i : Image) =>
      if i.live && !i.units.isEmpty && i.units.all (fun u => s.active u != i.job) then { i with live := false } else i) }

/-- The keep-running mask of a unit: the union over the images in force (R369). -/
def State.keepMask (s : State) (kind hall num : Nat) : Nat :=
  (s.images.filter (fun i => i.live)).foldl (fun m i =>
    i.keeps.foldl (fun m e => if e.1 = kind ∧ e.2.1 = hall ∧ e.2.2.1 = num then m ||| e.2.2.2 else m) m) 0

/-- The supervisor mask of the image in force for a role stall (R328). -/
def State.superMask (s : State) (h role : Nat) : Nat :=
  match s.image (s.get HS_STALL.ACTIVE (ix h role)) with
  | some i => ((i.stallRec h role).map (fun r => field r 2 2)).getD 0
  | none => 0

/-! ## Roles and resets of a stall (R374, R111, R171) -/

/-- A register that a stall reset sets to its value at reset. -/
def RegName.ofStall (n : RegName) : Bool :=
  [RegName.STL_CTRL, .STL_STATUS, .STL_CODE_BASE, .STL_ICACHE, .STL_HWIN, .STL_RUN, .EV_HSEL, .EV_KICK, .BW_CTRL,
   .BW_STATUS, .BW_SEL, .BW_VIEW, .BW_HLIMIT01, .BW_HLIMIT23, .BW_TABLE, .TR_BANK, .TR_UNSCHED, .TR_IMISS, .TR_HOSTPG,
   .EV_CTRL, .EV_PEND, .EV_PEND_SET, .EV_EN_SET, .EV_EN_CLR, .EV_OVR, .EV_ROUTE, .EV_TRAPLVL, .EV_HSEL01, .EV_HSEL23,
   .EV_HSEL45, .EV_HSEL67, .EV_STATUS, .EV_VEC01, .EV_VEC23, .ER_CTX, .ER_BANK, .ER_CAUSE, .ER_WORD, .SC_STATUS].contains n

/-- The traders of a stall abandon what they hold (R279). -/
def State.abandonStall (s : State) (h f : Nat) : State :=
  forAll (tradersOf h f) (fun t s => s.abandon h (callerNum (.trader t))) s

/-- What a reset leaves of a trader: its Scale registers (R376, R385). -/
def Trader.bare (t : Trader) : Trader := { sc := t.sc }

/-- The registers and the traders of a stall at their values at reset; what stands in its store buffers still drains. -/
def State.clearStall (s : State) (h f : Nat) : State :=
  let s := s.resetRegs (fun r => r.name.ofStall && r.a == h && r.b == f)
  let s := forAll (tradersOf h f) (fun t s => s.setTrader t { (s.trader t).bare with stores := (s.trader t).stores }) s
  { s with stallSlot := Tab.del s.stallSlot (h, f) }.setStall h f {}

/-- A stall reset: its traders are reset as masters too. -/
def State.stallReset (s : State) (h f : Nat) : State := (s.abandonStall h f).clearStall h f

/-! ## Swaps that fail (R363, R367) -/

/-- The marks of a swap are disarmed and set free. -/
def State.freeMarks (s : State) (w : Swap) : State :=
  forAll w.marks (fun k s =>
    let s := s.setMark k.1 k.2 { s.mark k.1 k.2 with committed := false, inst := none, nextArm := none, sign := none, eff := s.tick }
    let s := s.set TM_STATUS.ARMED (ix k.1 k.2) false
    s.wr ((ix k.1 k.2).reg .CLM_TM) 0) s

/-- A swap that has not reached I ends without switching anything: its job FAILED with a reason, or CANCELLED. -/
def State.swapEnds (s : State) (job : Nat) (st : JobState) (reason : Nat) : State :=
  match s.swaps.find? (fun w => w.job == job && !w.switched) with
  | none => s
  | some w =>
    let s := (s.freeMarks w).jobTo job st reason
    let s := { s with swaps := s.swaps.filter (fun x => x.job != job) }
    forAll (List.range s.part.halls) (fun h s => s.put HS_STATUS.STATE (ix h) (if st = .cancelled then 0 else 4)) s

/-- The instant to which a swap commits, once it does (R363): all its marks are committed, or the till is within 1,024 ticks
of the instant of its till trigger. -/
def State.swapInst (s : State) (w : Swap) : Option Nat :=
  match w.inst, w.till with
  | some i, _ => some i
  | none, some v => if v ≤ s.tick + 1024 then some v else none
  | none, none =>
    if w.marks.all (fun k => (s.mark k.1 k.2).committed && s.is TM_STATUS.ARMED (ix k.1 k.2)) then
      (w.marks.head?.map (fun k => s.mark k.1 k.2)).bind Mark.inst
    else none

/-- A swap whose every unit has switched leaves: the JOB chit of its end is raised with the till of its instant (R364). -/
def State.swapTidy (s : State) : State :=
  forAll (s.swaps.filter (fun w => w.switched && w.stalls.isEmpty && w.barrows.isEmpty)) (fun w s =>
    let s := { s with swaps := s.swaps.filter (fun x => x.job != w.job) }
    match s.job w.job with
    | some j =>
      s.raiseOn (s.get OR_CTRL.CHIT_RING (ix j.ring)) ⟨0x03, 0, w.job, 0⟩ (j.htag + JobState.running.code <<< 32 + JobState.done.code <<< 36)
        (w.inst.getD 0) true
    | none => s) s

/-- Every swap that has not reached I fails. -/
def State.swapsFail (s : State) (reason : Nat) : State :=
  forAll (s.swaps.filter (fun w => !w.switched)) (fun w s => s.swapEnds w.job .failed reason) s

/-! ## Wind-down (R373) -/

/-- The traders of a stall outside a keep-running mask stop. -/
def State.stopOthers (s : State) (h f : Nat) : State :=
  let keep := s.keepMask 0 h (s.get STL_SELF.ROLE (ix h f))
  forAll ((tradersOf h f).filter (fun t => !bit keep t.t)) (fun t s => s.stopTrader t) s

/-- Step 1: IDLE ends; what lies outside the keep-running set stops, and its pins are held. -/
def State.windStop (s : State) : State :=
  let s := if s.get PWR_STATUS.STATE = 1 then s.put PWR_STATUS.STATE {} 0 else s
  forAll (List.range s.part.halls) (fun h s =>
    let s := forAll (List.range s.part.stalls) (fun f s => s.stopOthers h f) s
    let s := forAll (List.range 16) (fun b s => s.criersStop h b ((s.keepMask 1 h b &&& 15) ^^^ 15)) s
    let s := forAll (List.range 128) (fun i s =>
      if bit (s.keepMask 2 h (i / 32)) (i % 32) then s else s.hold h i PIN_STATUS.HOLD_WIND) s
    s.set HS_STATUS.WINDING (ix h) true) s

/-- A wind-down may begin: none runs, and no sleep entry has begun. -/
def State.mayWind (s : State) : Bool := s.wind.isNone && s.get PWR_STATUS.STATE != 2 && !s.asleep

/-- A wind-down begins now, with its observed axis, its profile and the ticks of its timeout. -/
def State.startWind (s : State) (job axis prof : Nat) (timeout : Option Nat) : State :=
  let i := ix 0 prof
  let ramp := s.get HS_PROF_AXIS.RAMP_AXIS i
  let w : Wind :=
    { job, axis, ramp := if ramp = 0xFF then none else some ramp, decel1 := sgn 64 (s.rd (i.reg .HS_PROF_DECEL1)),
      knee := sgn 64 (s.rd (i.reg .HS_PROF_KNEE)), decel2 := sgn 64 (s.rd (i.reg .HS_PROF_DECEL2)), start := s.tick,
      timeout := timeout.map (fun n => s.tick + n) }
  { (s.windStop.swapsFail 8) with wind := some w }

/-- A fault of the wind-down class (R411). -/
def State.windFault (s : State) (cause n : Nat) : State :=
  let started := s.mayWind
  let s := s.set FT_DSTATUS.WIND_FAULT {} true
  let s := if started then s.startWind 0xFFF0 s.windDefault.1 s.windDefault.2 none else s
  s.chit 0x28 0 (cause + n <<< 8 + b2n started <<< 12) s.tick

/-! ## Fail-over (R403 to R407) -/

/-- Every trader of a stall stops, and its outstanding loads are discarded. -/
def State.haltStall (s : State) (h f : Nat) : State :=
  forAll (tradersOf h f) (fun t s => (s.stopTrader t).upd t (fun tr => { tr with loads := [] })) s

/-- The traders of a stall that run, as STL_RUN.RUNNING gives them. -/
def State.running (s : State) (h f : Nat) : Nat :=
  (tradersOf h f).foldl (fun m t => m + b2n (s.trader t).running <<< t.t) 0

/-- The FAIL hold on every pin of a stall's barrows. -/
def State.failHold (s : State) (h f : Nat) : State :=
  forAll (s.barrowsOf h f) (fun b s => forAll (List.range 8) (fun k s => s.hold h (8 * b + k) PIN_STATUS.HOLD_FAIL) s) s

/-- The stalls that a cause in `f` takes out of service: both of a lockstep pair. -/
def State.outOf (s : State) (h f : Nat) : List Nat :=
  if f < 8 ∧ bit (s.get FT_LOCKSTEP.PAIR (ix h)) (f / 2) then [f, f + 1] else [f]

/-- The stalls stop and are marked failed. -/
def State.markFailed (s : State) (h f cause : Nat) : State :=
  let s := forAll (s.outOf h f) (fun x s =>
    let s := ((s.haltStall h x).put FT_STALL.STATE (ix h x) 3).put FT_STALL.CAUSE (ix h x) cause
    if x = 8 then s.set FT_HSTATUS.SPARE_USED (ix h) false else s) s
  s.put FT_DSTATUS.HALLS {} (s.get FT_DSTATUS.HALLS ||| 2 ^ h)

/-- A stall is lost: the STALL_LOST chit, and with no spare the fault of the wind-down class. -/
def State.stallLost (s : State) (h role f cause : Nat) (noSpare : Bool) : State :=
  let s := s.hallChit h 0x26 role (cause + f <<< 4 + s.get FT_STALL.BAD (ix h 8) <<< 8) s.tick
  if noSpare && s.is FT_WIND.STALL_LOST (ix h) then { s with faults := s.faults ++ [.wind 3 h] } else s

/-- A stall that is lost takes no part in a committed swap (R367). -/
def State.noPart (s : State) (h role : Nat) : State :=
  ({ s with swaps := s.swaps.map (fun (w : Swap) => { w with stalls := w.stalls.filter (fun k => k != (h, role)) }) }).swapTidy

/-- The condition of a cause that its stall's FT_ROLE sets (R403): causes 2, 3 and 5 act only where they are enabled. -/
def State.causeOn (s : State) (h role code : Nat) : Bool :=
  match code with
  | 2 => s.is FT_ROLE.ON_UNCORR (ix h role)
  | 3 => s.is FT_ROLE.ON_DOUBLE (ix h role)
  | 5 => s.is FT_ROLE.ON_PREDICT (ix h role)
  | _ => true

/-- A SWAP_AT that names the failed stall (R367): before the commit it fails and the stall's shadow occupancy is cleared. -/
def State.failSwap (s : State) (h role : Nat) : State :=
  match s.swaps.find? (fun w => !w.switched && (s.swapInst w).isNone && w.stalls.contains (h, role)) with
  | some w => (s.swapEnds w.job .failed 9).put HS_STALL.SHADOW (ix h role) 0
  | none => s

/-- A cause marked "stops" in R403: LOCKSTEP, PARITY or HOST. -/
def causeStops (code : Nat) : Bool := code == 1 || code == 4 || code == 6

/-- A fail-over of `role` from stall `f` begins with its steps 1 and 2 (R404). -/
def State.beginFailover (s : State) (h role f code : Nat) : State :=
  let o : Failover := { role, f, cause := code, at_ := s.tick, ran := s.running h f }
  let s := (((s.failSwap h role).failHold h f).markFailed h f code)
  let s := (s.stallReset h 8).abandonStall h f
  { s with failovers := Tab.set s.failovers h o }

/-- A stall without a spare stops, and its pins keep the FAIL hold until FAIL_RELEASE (R406); S8 leaves the sequence that it is
in. -/
def State.noSpare (s : State) (h role f code : Nat) : State :=
  let s := match s.failover h with
    | some o => if f = 8 then { s with failovers := Tab.set s.failovers h { o with spareCause := some code } } else s
    | none => s
  ((((s.failSwap h role).failHold h f).markFailed h f code).noPart h role).stallLost h role f code true

/-- A cause of stall `f` that starts a fail-over meets one of the same hall that began at the same edge (R407): the lower-numbered
stall takes S8, and the other has no spare. -/
def State.takeSpare (s : State) (h role f code : Nat) (o : Failover) : State :=
  let s := { s with failovers := Tab.del s.failovers h }
  ((s.noPart h o.role).stallLost h o.role o.f o.cause true).beginFailover h role f code

/-- A cause registered in stall `f` of hall `h` (R403 to R407): a fail-over begins; without a spare the stall is lost; in S8, and
without a fail-over, only the causes that stop a stall do anything here. In sleep a cause is discarded. -/
def State.failCause (s : State) (h f0 code : Nat) : State :=
  let f := if f0 < 8 ∧ bit (s.get FT_LOCKSTEP.PAIR (ix h)) (f0 / 2) then f0 / 2 * 2 else f0
  let role := s.get STL_SELF.ROLE (ix h f)
  let now := match s.failover h with
    | some o => if !o.switched && s.hallEdge o.at_ == s.hallEdge s.tick then some o else none
    | none => none
  if s.asleep ∨ s.part.stalls ≤ f then s
  else if s.get FT_STALL.STATE (ix h f) = 3 then
    match now with
    | some o =>
      if f = o.f ∧ code < o.cause ∧ s.causeOn h o.role code then
        ({ s with failovers := Tab.set s.failovers h { o with cause := code } }).put FT_STALL.CAUSE (ix h f) code
      else s
    | none => s
  else if 8 ≤ role then
    -- an idle spare, or a cause in S8 while a fail-over moves a role to it
    if !causeStops code then s
    else match s.failover h with
    | some o =>
      if f = 8 ∧ !o.switched then { s with failovers := Tab.set s.failovers h { o with spareCause := some (min code (o.spareCause.getD 6)) } } else s
    | none => (s.markFailed h f code).stallLost h role f code false
  else if !s.causeOn h role code then s
  else if f = 8 then
    if causeStops code then s.noSpare h role f code else s
  else if !s.is FT_ROLE.FO_EN (ix h role) then
    if causeStops code then (((s.failSwap h role).markFailed h f code).noPart h role).stallLost h role f code false
    else s
  else match now with
    | some o => if f < o.f then s.takeSpare h role f code o else s.noSpare h role f code
    | none =>
      if s.get FT_STALL.STATE (ix h 8) ≠ 1 ∨ (s.failover h).isSome then s.noSpare h role f code
      else s.beginFailover h role f code

/-! ## Acting on what a command has registered -/

/-- The causes of one command, once: of two causes in one stall the lowest code counts, and of two stalls the
lower-numbered takes the spare (R407); then the faults of the wind-down class. -/
def State.settleOnce (s : State) : State :=
  let fs := s.faults
  let s := { s with faults := [] }
  let fos := fs.filterMap (fun c => match c with | .failover h f k => some (h, f, k) | .wind _ _ => none)
  let s := forAll (List.range 8) (fun h s => forAll (List.range 9) (fun f s =>
    let ks := (fos.filter (fun x => x.1 == h && x.2.1 == f)).map (fun x => x.2.2)
    if ks.isEmpty then s else s.failCause h f (ks.foldl min 6)) s) s
  forAll fs (fun c s => match c with | .wind c n => s.windFault c n | .failover _ _ _ => s) s

/-- Every registered cause is acted on, with those that acting on one registers. -/
def State.settle (s : State) : State := if s.faults.isEmpty then s else iter 8 State.settleOnce s

end Sys2Proof.Machine
end

