-- ==== Sys2Proof/Machine/Issue.lean ====
section
/-! DEFINITION. One attempt of a trader to issue an instruction (R98, R99, R107, R127). -/

namespace Sys2Proof.Machine

/-! ## What a memory instruction does to its trader (R112, R113, R134, R136) -/

/-- An access instruction: its effective address, its bytes, the value it stores or none for a load, and the destination of
a load. -/
structure MemForm where
  ea : Nat
  n : Nat
  store : Option Nat
  dst : GReg
  deriving DecidableEq, Repr

/-- The base register plus the signed offset, modulo 2^16. -/
def Trader.baseOff (tr : Trader) (w : Nat) : Nat := unsg 16 ((tr.ar (fS1 w) : Int) + sgn 14 (fOff w))

/-- The effective address of format M (R112). -/
def Trader.effAddr (tr : Trader) (w : Nat) : Nat :=
  match fMode w with
  | 0 | 2 => tr.baseOff w
  | 1 => tr.ar (fS1 w)
  | _ => 0xC000 + fOff w

/-- The access of a load, a store, a call or a return. -/
def Trader.memForm (tr : Trader) (w : Nat) : MemForm :=
  match fMajor w with
  | 0x20 => ⟨tr.effAddr w, 1, none, .d (fDst w)⟩
  | 0x21 => ⟨tr.effAddr w, 1, some (tr.dr (fDst w)), .d (fDst w)⟩
  | 0x22 => ⟨tr.effAddr w, 2, none, .a (fDst w)⟩
  | 0x23 => ⟨tr.effAddr w, 2, some (tr.ar (fDst w)), .a (fDst w)⟩
  | 0x24 => ⟨tr.effAddr w, 3, none, .ac (fDst w)⟩
  | 0x25 => ⟨tr.effAddr w, 3, some (tr.acr (fDst w)), .ac (fDst w)⟩
  | 0x26 => ⟨tr.effAddr w, 1, none, .a (fDst w)⟩
  | 0x2D => ⟨tr.ar 7, 2, none, .pc⟩
  | _ => ⟨unsg 16 ((tr.ar 7 : Int) - 2), 2, some ((tr.pc + 1) % 65536), .pc⟩

/-- What a memory instruction does to its trader beside its access: the base register of post- and pre-modify and the end
check; the stack pointer and PC of a call. The rest of RET comes with its address. -/
def Trader.afterMem (tr : Trader) (w : Nat) : Trader :=
  match fMajor w with
  | 0x2A => { tr.setA 7 (unsg 16 ((tr.ar 7 : Int) - 2)) with pc := fTarget w }
  | 0x2B => { tr.setA 7 (unsg 16 ((tr.ar 7 : Int) - 2)) with pc := (tr.pc + 1 + fTarget w) % 65536 }
  | 0x2C => { tr.setA 7 (unsg 16 ((tr.ar 7 : Int) - 2)) with pc := tr.ar (fDst w) }
  | 0x2D => tr
  | _ =>
    let tr := if fMode w = 1 ∨ fMode w = 2 then tr.setA (fS1 w) (tr.baseOff w) else tr
    tr.endCheck tr.pc

/-- The register of an operation that a trader reads (R289). -/
def AtomOp.register : AtomOp → RegName
  | .acquire _ => .TK_ACQ
  | .pop _ => .QP_POP
  | .reserve _ => .QP_RSV
  | _ => .QP_TAKE

/-- An operation access is complete: a read loads its destination and the read latch with the answer (R281). -/
def State.atomDone (s : State) (t : TraderId) (r : AtomReq) : State :=
  s.upd t (fun tr =>
    let tr := { tr with atom := none }
    if r.write then tr.afterMem r.word
    else
      let v := ofBytes (r.pre ++ r.answer.take (r.n - r.pre.length))
      { (tr.afterMem r.word).landIn (tr.memForm r.word).dst v with rlatch := some (t.ix.reg r.op.register, ofBytes r.answer) })

/-- The operation access whose answer has arrived completes in the slot in which the next instruction issues (R282). -/
def State.finishAtom (s : State) (t : TraderId) : State :=
  match (s.trader t).atom with
  | some r => if r.arrived then s.atomDone t r else s
  | none => s

/-- The address that RET pops lands at the start of the slot in which its target issues (R86, R136). -/
def State.finishPop (s : State) (t : TraderId) : State :=
  if (s.trader t).loads.any (fun l => l.dst == GReg.pc && !l.part) then s.upd t (fun tr => tr.landLoads (s.nextSlot t / 16)) else s

/-- A wait of DRAIN that is over ends with its end check; it is no sync point (R145). -/
def State.finishDrain (s : State) (t : TraderId) : State :=
  if (s.trader t).drained then (s.upd t (fun tr => { tr with wait := .none })).endCheck t else s

/-- What is complete when the trader's next instruction issues: an operation access, a RET, a DRAIN. -/
def State.finishes (s : State) (t : TraderId) : State := ((s.finishAtom t).finishPop t).finishDrain t

/-- The worst error among Scale registers of a trader. -/
def State.scMark (s : State) (t : TraderId) (rs : List Nat) : Option Bool :=
  let es := rs.filterMap (fun i => Tab.find s.ecc (scWord t i))
  if es.isEmpty then none else some (es.contains true)

/-- What an operation does with the Scale registers it reads: a double-bit error takes the ECC event with detail 0x07, and the
operation writes nothing (R167, R168). -/
def State.scRead (s : State) (t : TraderId) (rs : List Nat) (w : Nat) (f : State → State) : State :=
  match s.scMark t rs with
  | some true => s.eccTrap t 7 0 w
  | some false => f (s.corrected t.h t.s).settle
  | none => f s

/-! ## One attempt -/

/-- The words that `hold` stops: true for an unscheduled wait. -/
def State.heldBy (s : State) (t : TraderId) (h : Option Bool) (f : State → State) : State :=
  match h with
  | some true => s.unsched t
  | some false => s
  | none => f s

/-- A slot after the first one of an instruction in progress (R63, R127): in its final slot it waits where `hold` tells, makes
its effect `body` and is in progress no more; a false guard goes to the end check. In a slot before that `early` happens. -/
def State.issueOn (s : State) (t : TraderId) (p : Prog) (body : Nat → State → State) (hold : Nat → State → Option Bool)
    (early : Nat → State → State) : State :=
  let s := s.ownSlot t (s.cur t)
  let left (n : Nat) (s : State) : State := s.upd t (fun tr => { tr with prog := some { p with left := n, got := (tr.prog.getD p).got } })
  let done (s : State) : State := s.upd t (fun tr => { tr with prog := none })
  if p.nul then (if p.left ≤ 1 then (done s).endCheck t else left (p.left - 1) s)
  else s.heldBy t (hold p.word s) (fun s => if p.left ≤ 1 then done (body p.word s) else early p.word (left (p.left - 1) s))

/-- An owned slot in which a word is fetched whose error mark is given (R85, R99): a double-bit error takes the ECC event, and
otherwise `f` follows. -/
def State.fetchSlot (s : State) (t : TraderId) (mark : Option (Nat × Bool)) (f : State → State) : State :=
  let s := s.ownSlot t (s.cur t)
  match mark with
  | some (detail, true) => ((s.upd t (fun tr => { tr with fetched := none, badFill := false })).eccTrap t detail 0 0).settle
  | some (_, false) => f (s.corrected t.h t.s).settle
  | none => f s

/-- The first slot of an instruction whose word `take` takes (R98, R127): the guard; a wait for a loaded value or a pending Scale
result; a wait that `hold` tells; the whole effect where the instruction costs one slot, and otherwise `early`. An instruction that
waits is in progress. -/
def State.starts (s : State) (t : TraderId) (w : Nat) (uses : Nat → List GReg) (body : Nat → State → State)
    (cost : Nat → Trader → Nat) (hold : Nat → State → Option Bool) (early : Nat → State → State) (take : State → State) : State :=
  let tr := s.trader t
  let n := cost w tr
  let begin_ (p : Prog) : State := (take s).upd t (fun tr => { tr with prog := some p })
  let wait : State := begin_ { word := w, left := n, first := true }
  if !tr.guard w then (if n ≤ 1 then (take s).endCheck t else begin_ { word := w, left := n - 1, nul := true })
  else if tr.awaits (uses w) then wait.unsched t
  else if tr.scAwaits (uses w) then wait
  else match hold w s with
    | some unsched => if unsched then wait.unsched t else wait
    | none => if n ≤ 1 then body w (take s) else early w (begin_ { word := w, left := n - 1 })

/-- The first slot of an instruction whose word is fetched (R98, R99): a double-bit error of the fetch, and otherwise its start. -/
def State.issueFirst (s : State) (t : TraderId) (w : Nat) (mark : Option (Nat × Bool)) (uses : Nat → List GReg)
    (body : Nat → State → State) (cost : Nat → Trader → Nat) (hold : Nat → State → Option Bool) (early : Nat → State → State) :
    State :=
  s.fetchSlot t mark (fun s => s.starts t w uses body cost hold early (fun s => s.took t w))

/-- One attempt of a trader to issue the instruction of key `k` in its next owned slot: nothing while it cannot issue, or its
word, or the instruction in progress, is another one's; a miss of the cache spends a slot. `uses` names the registers that the
instruction reads or writes, `cost` its issue slots, `body` its effect in the final slot, `early` what it does in a slot
before, and `hold` what makes it wait. -/
def State.issue (s : State) (t : TraderId) (k : Nat) (uses : Nat → List GReg) (body : Nat → State → State)
    (cost : Nat → Trader → Nat := fun _ _ => 1) (hold : Nat → State → Option Bool := fun _ _ => none)
    (early : Nat → State → State := fun _ s => s) : State :=
  if !s.canIssue t then s
  else match (s.trader t).prog with
  | some p =>
    if keyOf p.word ≠ k then s
    else if p.first then
      (s.ownSlot t (s.cur t)).starts t p.word uses body cost hold early (fun s => s.upd t (fun tr => { tr with prog := none }))
    else s.issueOn t p body hold early
  | none =>
    let s0 := s.finishes t
    match s0.fetch t with
    | .rom => s
    | .miss line => s0.startMiss t line
    | .word w =>
      if illegalCause w ≠ 0 ∨ keyOf w ≠ k then s
      else s0.issueFirst t w (s0.fetchMark t) uses body cost hold early

/-- An instruction of cost 1 that changes its trader alone and then makes the end check. -/
def State.simple (s : State) (t : TraderId) (k : Nat) (uses : Nat → List GReg) (f : Nat → Trader → Trader) : State :=
  s.issue t k uses (fun w s => (s.upd t (f w)).endCheck t)

/-- An attempt to issue an illegal word that `p` names: the slot is spent, and the ILLEGAL trap is raised with its cause
and the word, resuming at the word (R124, R159). -/
def State.issueIllegal (s : State) (t : TraderId) (p : Nat → Bool) : State :=
  if !s.canIssue t || (s.trader t).prog.isSome then s
  else
    let s0 := s.finishes t
    match s0.fetch t with
    | .word w =>
      if illegalCause w = 0 ∨ !p w then s
      else s0.fetchSlot t (s0.fetchMark t) (fun s => s.raiseTrap t 12 (illegalCause w) 0 w (s0.trader t).pc)
    | _ => s

end Sys2Proof.Machine
end

