-- ==== Sys2Proof/Machine/Alu.lean ====
section
/-! DEFINITION. The data ALU (R129), compares, predicates and bits (R130), the accumulator (R131), the address
instructions (R132) and the multiplier (R133). -/

namespace Sys2Proof.Machine

/-! ## Shared forms -/

/-- An instruction on D registers: operands D[SRC1] and D[SRC2], a result with flags in width 8. -/
def dOp (t : TraderId) (k : Nat) (f : Trader → Nat → Nat → Alu) (s : State) : State :=
  s.simple t k (fun w => [.d (fDst w), .d (fS1 w), .d (fS2 w)]) (fun w tr =>
    let r := f tr (tr.dr (fS1 w)) (tr.dr (fS2 w))
    (tr.setD (fDst w) r.r).flags 8 r)

/-- An instruction on one D register. -/
def dOp1 (t : TraderId) (k : Nat) (f : Nat → Alu) (s : State) : State :=
  s.simple t k (fun w => [.d (fDst w), .d (fS1 w)]) (fun w tr =>
    let r := f (tr.dr (fS1 w))
    (tr.setD (fDst w) r.r).flags 8 r)

/-- An instruction on a D register and the word's immediate. -/
def dImm (t : TraderId) (k : Nat) (f : Nat → Nat → Alu) (s : State) : State :=
  s.simple t k (fun w => [.d (fDst w), .d (fS1 w)]) (fun w tr =>
    let r := f (tr.dr (fS1 w)) w
    (tr.setD (fDst w) r.r).flags 8 r)

/-- An instruction on accumulators: operands AC[SRC1] and AC[SRC2], width 24. -/
def accOp (t : TraderId) (k : Nat) (f : Trader → Nat → Nat → Alu) (s : State) : State :=
  s.simple t k (fun w => [.ac (fDst w), .ac (fS1 w), .ac (fS2 w)]) (fun w tr =>
    let r := f tr (tr.acr (fS1 w)) (tr.acr (fS2 w))
    (tr.setAc (fDst w) r.r).flags 24 r)

/-- An instruction on an accumulator and D[SRC2], width 24. -/
def cdOp (t : TraderId) (k : Nat) (f : Nat → Nat → Alu) (s : State) : State :=
  s.simple t k (fun w => [.ac (fDst w), .ac (fS1 w), .d (fS2 w)]) (fun w tr =>
    let r := f (tr.acr (fS1 w)) (tr.dr (fS2 w))
    (tr.setAc (fDst w) r.r).flags 24 r)

/-- An instruction on an accumulator and A[SRC2], width 24. -/
def caOp (t : TraderId) (k : Nat) (f : Nat → Nat → Alu) (s : State) : State :=
  s.simple t k (fun w => [.ac (fDst w), .ac (fS1 w), .a (fS2 w)]) (fun w tr =>
    let r := f (tr.acr (fS1 w)) (tr.ar (fS2 w))
    (tr.setAc (fDst w) r.r).flags 24 r)

/-- An instruction on one accumulator and the word's immediate, width 24. -/
def cImm (t : TraderId) (k : Nat) (f : Nat → Nat → Alu) (s : State) : State :=
  s.simple t k (fun w => [.ac (fDst w), .ac (fS1 w)]) (fun w tr =>
    let r := f (tr.acr (fS1 w)) w
    (tr.setAc (fDst w) r.r).flags 24 r)

/-- An instruction on A registers: operands A[SRC1] and A[SRC2], width 16. -/
def aOp (t : TraderId) (k : Nat) (f : Trader → Nat → Nat → Alu) (s : State) : State :=
  s.simple t k (fun w => [.a (fDst w), .a (fS1 w), .a (fS2 w)]) (fun w tr =>
    let r := f tr (tr.ar (fS1 w)) (tr.ar (fS2 w))
    (tr.setA (fDst w) r.r).flags 16 r)

/-- An instruction on an A register and D[SRC2], width 16. -/
def adOp (t : TraderId) (k : Nat) (f : Nat → Nat → Alu) (s : State) : State :=
  s.simple t k (fun w => [.a (fDst w), .a (fS1 w), .d (fS2 w)]) (fun w tr =>
    let r := f (tr.ar (fS1 w)) (tr.dr (fS2 w))
    (tr.setA (fDst w) r.r).flags 16 r)

/-- An instruction on an A register and the word's immediate, width 16. -/
def aImm (t : TraderId) (k : Nat) (f : Nat → Nat → Alu) (s : State) : State :=
  s.simple t k (fun w => [.a (fDst w), .a (fS1 w)]) (fun w tr =>
    let r := f (tr.ar (fS1 w)) w
    (tr.setA (fDst w) r.r).flags 16 r)

/-- An instruction that writes one predicate. -/
def pOp (t : TraderId) (k : Nat) (uses : Nat → List GReg) (f : Nat → Trader → Bool) (s : State) : State :=
  s.simple t k (fun w => .p (fDst w) :: uses w) (fun w tr => tr.setP (fDst w) (f w tr))

/-- A multiplication: the product lands at the start of the second following owned slot (R91). -/
def mulOp (t : TraderId) (k : Nat) (uses : Nat → List GReg) (f : Nat → Trader → Half × Half) (s : State) : State :=
  s.simple t k uses (fun w tr => { tr with mul := tr.mul ++ [(tr.slot + 2, f w tr)] })

/-- The amount of an accumulator shift by register: 24 to 31 act as 24. -/
def amt24 (n : Nat) : Nat := min (n % 32) 24

/-! ## The instructions -/

/-- NOP does nothing but the end check (R129). A word that is illegal and no MOVS is met here as well: it takes the
ILLEGAL trap (R124). -/
def execNop (t : TraderId) (s : State) : Out :=
  .next ((s.issueIllegal t (fun w => fMajor w != 0x36)).simple t (key 0x00 0) (fun _ => []) (fun _ tr => tr))

/-- ADD: D[DST] := D[SRC1] + D[SRC2] (R129). -/
def execAdd (t : TraderId) (s : State) : Out :=
  .next (dOp t (key 0x00 0x1) (fun _ a b => addW 8 a b 0) s)

/-- ADDC: D[DST] := D[SRC1] + D[SRC2] + C (R129). -/
def execAddc (t : TraderId) (s : State) : Out :=
  .next (dOp t (key 0x00 0x2) (fun tr a b => addW 8 a b (b2n tr.c)) s)

/-- SUB: D[DST] := D[SRC1] − D[SRC2] (R129). -/
def execSub (t : TraderId) (s : State) : Out :=
  .next (dOp t (key 0x00 0x3) (fun _ a b => subW 8 a b 0) s)

/-- SUBB: D[DST] := D[SRC1] − D[SRC2] − C (R129). -/
def execSubb (t : TraderId) (s : State) : Out :=
  .next (dOp t (key 0x00 0x4) (fun tr a b => subW 8 a b (b2n tr.c)) s)

/-- AND: bitwise and (R129). -/
def execAndD (t : TraderId) (s : State) : Out :=
  .next (dOp t (key 0x00 0x5) (fun _ a b => logicW 8 (a &&& b)) s)

/-- OR: bitwise or (R129). -/
def execOrD (t : TraderId) (s : State) : Out :=
  .next (dOp t (key 0x00 0x6) (fun _ a b => logicW 8 (a ||| b)) s)

/-- XOR: bitwise exclusive or (R129). -/
def execXorD (t : TraderId) (s : State) : Out :=
  .next (dOp t (key 0x00 0x7) (fun _ a b => logicW 8 (a ^^^ b)) s)

/-- SHL: shift left (R129). -/
def execShl (t : TraderId) (s : State) : Out :=
  .next (dOp t (key 0x00 0xb) (fun _ a n => shiftW .shl 8 a (n % 8)) s)

/-- SHR: shift right, zeros in (R129). -/
def execShr (t : TraderId) (s : State) : Out :=
  .next (dOp t (key 0x00 0xc) (fun _ a n => shiftW .shr 8 a (n % 8)) s)

/-- SAR: arithmetic shift right (R129). -/
def execSar (t : TraderId) (s : State) : Out :=
  .next (dOp t (key 0x00 0xd) (fun _ a n => shiftW .sar 8 a (n % 8)) s)

/-- ROL: rotate left (R129). -/
def execRol (t : TraderId) (s : State) : Out :=
  .next (dOp t (key 0x00 0xe) (fun _ a n => shiftW .rol 8 a (n % 8)) s)

/-- ROR: rotate right (R129). -/
def execRor (t : TraderId) (s : State) : Out :=
  .next (dOp t (key 0x00 0xf) (fun _ a n => shiftW .ror 8 a (n % 8)) s)

/-- MINU: the smaller, unsigned (R129). -/
def execMinu (t : TraderId) (s : State) : Out :=
  .next (dOp t (key 0x00 0x10) (fun _ a b => logicW 8 (min a b)) s)

/-- MAXU: the larger, unsigned (R129). -/
def execMaxu (t : TraderId) (s : State) : Out :=
  .next (dOp t (key 0x00 0x11) (fun _ a b => logicW 8 (max a b)) s)

/-- NOT: one's complement (R129). -/
def execNotD (t : TraderId) (s : State) : Out :=
  .next (dOp1 t (key 0x00 0x8) (fun a => logicW 8 (255 - a)) s)

/-- NEG: 0 − D[SRC1] (R129). -/
def execNeg (t : TraderId) (s : State) : Out :=
  .next (dOp1 t (key 0x00 0x9) (fun a => subW 8 0 a 0) s)

/-- REV: bit order reversed (R129). -/
def execRev (t : TraderId) (s : State) : Out :=
  .next (dOp1 t (key 0x00 0x12) (fun a => logicW 8 (revByte a)) s)

/-- POPC: count of ones (R129). -/
def execPopc (t : TraderId) (s : State) : Out :=
  .next (dOp1 t (key 0x00 0x13) (fun a => logicW 8 (popByte a)) s)

/-- MOV: D[DST] := D[SRC1], flags kept (R129). -/
def execMov (t : TraderId) (s : State) : Out :=
  .next (s.simple t (key 0x00 0xA) (fun w => [.d (fDst w), .d (fS1 w)]) (fun w tr => tr.setD (fDst w) (tr.dr (fS1 w))))

/-- ADDI: D[SRC1] + imm (R129). -/
def execAddi (t : TraderId) (s : State) : Out :=
  .next (dImm t (key 0x1) (fun a w => addW 8 a (w % 256) 0) s)

/-- ANDI: and with imm (R129). -/
def execAndi (t : TraderId) (s : State) : Out :=
  .next (dImm t (key 0x2) (fun a w => logicW 8 (a &&& w % 256)) s)

/-- ORI: or with imm (R129). -/
def execOri (t : TraderId) (s : State) : Out :=
  .next (dImm t (key 0x3) (fun a w => logicW 8 (a ||| w % 256)) s)

/-- XORI: exclusive or with imm (R129). -/
def execXori (t : TraderId) (s : State) : Out :=
  .next (dImm t (key 0x4) (fun a w => logicW 8 (a ^^^ w % 256)) s)

/-- SHI: shift by imm, kind IMM[10:8] (R129). -/
def execShi (t : TraderId) (s : State) : Out :=
  .next (dImm t (key 0x6) (fun a w => shiftW (ShKind.of (bits w 10 8)) 8 a (w % 8)) s)

/-- MOVI: D[DST] := imm (R129). -/
def execMovi (t : TraderId) (s : State) : Out :=
  .next (s.simple t (key 0x05) (fun w => [.d (fDst w)]) (fun w tr => tr.setD (fDst w) (w % 256)))

/-- CMP: compare two D registers (R130). -/
def execCmp (t : TraderId) (s : State) : Out :=
  .next (pOp t (key 0x7) (fun w => [.d (fS1 w), .d (fS2 w)]) (fun w tr => condW 8 (bits w 11 8) (tr.dr (fS1 w)) (tr.dr (fS2 w))) s)

/-- CMPI: compare a D register with imm (R130). -/
def execCmpi (t : TraderId) (s : State) : Out :=
  .next (pOp t (key 0x8) (fun w => [.d (fS1 w)]) (fun w tr => condW 8 (bits w 15 12) (tr.dr (fS1 w)) (w % 256)) s)

/-- CMPAC: compare two accumulators (R130). -/
def execCmpac (t : TraderId) (s : State) : Out :=
  .next (pOp t (key 0x15) (fun w => [.ac (fS1 w), .ac (fS2 w)]) (fun w tr => condW 24 (bits w 11 8) (tr.acr (fS1 w)) (tr.acr (fS2 w))) s)

/-- CMPA: compare two A registers (R130). -/
def execCmpa (t : TraderId) (s : State) : Out :=
  .next (pOp t (key 0x1c) (fun w => [.a (fS1 w), .a (fS2 w)]) (fun w tr => condW 16 (bits w 11 8) (tr.ar (fS1 w)) (tr.ar (fS2 w))) s)

/-- CMPAI: compare an A register with a zero-extended imm (R130). -/
def execCmpai (t : TraderId) (s : State) : Out :=
  .next (pOp t (key 0x1d) (fun w => [.a (fS1 w)]) (fun w tr => condW 16 (bits w 15 12) (tr.ar (fS1 w)) (bits w 11 0)) s)

/-- PAND: a predicate operation of R120. -/
def execPand (t : TraderId) (s : State) : Out :=
  .next (pOp t (key 0x0A 0x0) (fun w => [.p (fS1 w), .p (fS2 w)]) (fun w tr => tr.pr (fS1 w) && tr.pr (fS2 w)) s)

/-- POR: a predicate operation of R120. -/
def execPor (t : TraderId) (s : State) : Out :=
  .next (pOp t (key 0x0A 0x1) (fun w => [.p (fS1 w), .p (fS2 w)]) (fun w tr => tr.pr (fS1 w) || tr.pr (fS2 w)) s)

/-- PXOR: a predicate operation of R120. -/
def execPxor (t : TraderId) (s : State) : Out :=
  .next (pOp t (key 0x0A 0x2) (fun w => [.p (fS1 w), .p (fS2 w)]) (fun w tr => tr.pr (fS1 w) != tr.pr (fS2 w)) s)

/-- PANDN: a predicate operation of R120. -/
def execPandn (t : TraderId) (s : State) : Out :=
  .next (pOp t (key 0x0A 0x3) (fun w => [.p (fS1 w), .p (fS2 w)]) (fun w tr => tr.pr (fS1 w) && !tr.pr (fS2 w)) s)

/-- PNOT: a predicate operation of R120. -/
def execPnot (t : TraderId) (s : State) : Out :=
  .next (pOp t (key 0x0A 0x4) (fun w => [.p (fS1 w)]) (fun w tr => !tr.pr (fS1 w)) s)

/-- PMOV: a predicate operation of R120. -/
def execPmov (t : TraderId) (s : State) : Out :=
  .next (pOp t (key 0x0A 0x5) (fun w => [.p (fS1 w)]) (fun w tr => tr.pr (fS1 w)) s)

/-- PSET: P[DST] := 1 (R120). -/
def execPset (t : TraderId) (s : State) : Out :=
  .next (pOp t (key 0x0A 0x6) (fun _ => []) (fun _ _ => true) s)

/-- PCLR: P[DST] := 0 (R120). -/
def execPclr (t : TraderId) (s : State) : Out :=
  .next (pOp t (key 0x0A 0x7) (fun _ => []) (fun _ _ => false) s)

/-- PCND: P[DST] := a condition read from FL (R117, R130). -/
def execPcnd (t : TraderId) (s : State) : Out :=
  .next (pOp t (key 0x0A 0x10) (fun _ => []) (fun w tr => condFl (bits w 11 8) tr.z tr.n tr.c tr.v) s)

/-- BTST: P[DST] := bit n of D[SRC1] (R130). -/
def execBtst (t : TraderId) (s : State) : Out :=
  .next (pOp t (key 0x0B 0) (fun w => [.d (fS1 w)]) (fun w tr => bit (tr.dr (fS1 w)) (w % 8)) s)

/-- BSET: D[DST] := D[SRC1] with bit n set (R130). -/
def execBset (t : TraderId) (s : State) : Out :=
  .next (s.simple t (key 0x0B 1) (fun w => [.d (fDst w), .d (fS1 w)])
    (fun w tr => let a := tr.dr (fS1 w); tr.setD (fDst w) (a ||| 2 ^ (w % 8))))

/-- BCLR: D[DST] := D[SRC1] with bit n cleared (R130). -/
def execBclr (t : TraderId) (s : State) : Out :=
  .next (s.simple t (key 0x0B 2) (fun w => [.d (fDst w), .d (fS1 w)])
    (fun w tr => let a := tr.dr (fS1 w); tr.setD (fDst w) (a &&& (255 ^^^ 2 ^ (w % 8)))))

/-- BINV: D[DST] := D[SRC1] with bit n inverted (R130). -/
def execBinv (t : TraderId) (s : State) : Out :=
  .next (s.simple t (key 0x0B 3) (fun w => [.d (fDst w), .d (fS1 w)])
    (fun w tr => let a := tr.dr (fS1 w); tr.setD (fDst w) (a ^^^ 2 ^ (w % 8))))

/-- ACC_ADD: an accumulator operation of R131. -/
def execAccAdd (t : TraderId) (s : State) : Out :=
  .next (accOp t (key 0x10 0x0) (fun _ a b => addW 24 a b 0) s)

/-- ACC_ADDC: an accumulator operation of R131. -/
def execAccAddc (t : TraderId) (s : State) : Out :=
  .next (accOp t (key 0x10 0x1) (fun tr a b => addW 24 a b (b2n tr.c)) s)

/-- ACC_SUB: an accumulator operation of R131. -/
def execAccSub (t : TraderId) (s : State) : Out :=
  .next (accOp t (key 0x10 0x2) (fun _ a b => subW 24 a b 0) s)

/-- ACC_SUBB: an accumulator operation of R131. -/
def execAccSubb (t : TraderId) (s : State) : Out :=
  .next (accOp t (key 0x10 0x3) (fun tr a b => subW 24 a b (b2n tr.c)) s)

/-- ACC_AND: an accumulator operation of R131. -/
def execAccAnd (t : TraderId) (s : State) : Out :=
  .next (accOp t (key 0x10 0x8) (fun _ a b => logicW 24 (a &&& b)) s)

/-- ACC_OR: an accumulator operation of R131. -/
def execAccOr (t : TraderId) (s : State) : Out :=
  .next (accOp t (key 0x10 0x9) (fun _ a b => logicW 24 (a ||| b)) s)

/-- ACC_XOR: an accumulator operation of R131. -/
def execAccXor (t : TraderId) (s : State) : Out :=
  .next (accOp t (key 0x10 0xa) (fun _ a b => logicW 24 (a ^^^ b)) s)

/-- ACC_ADDD: AC[SRC1] plus zero-extended D[SRC2] (R131). -/
def execAccAddd (t : TraderId) (s : State) : Out :=
  .next (cdOp t (key 0x10 4) (fun a b => addW 24 a b 0) s)

/-- ADDA: AC[SRC1] plus zero-extended A[SRC2] (R131). -/
def execAdda (t : TraderId) (s : State) : Out :=
  .next (caOp t (key 0x10 5) (fun a b => addW 24 a b 0) s)

/-- ADDAS: AC[SRC1] plus sign-extended A[SRC2] (R131). -/
def execAddas (t : TraderId) (s : State) : Out :=
  .next (caOp t (key 0x10 6) (fun a b => addW 24 a (unsg 24 (sgn 16 b)) 0) s)

/-- FOLD: the ones' complement sum of the halves of AC[SRC1] (R131). -/
def execFold (t : TraderId) (s : State) : Out :=
  .next (cImm t (key 0x10 7) (fun a _ => logicW 24 (foldAcc a)) s)

/-- ACC_MOV: AC[DST] := AC[SRC1] (R131). -/
def execAccMov (t : TraderId) (s : State) : Out :=
  .next (s.simple t (key 0x10 0xB) (fun w => [.ac (fDst w), .ac (fS1 w)]) (fun w tr => tr.setAc (fDst w) (tr.acr (fS1 w))))

/-- ACC_SHL: a shift of AC[SRC1] by D[SRC2][4:0] (R119, R131). -/
def execAccShl (t : TraderId) (s : State) : Out :=
  .next (cdOp t (key 0x10 0xc) (fun a n => shiftW .shl 24 a (amt24 n)) s)

/-- ACC_SHR: a shift of AC[SRC1] by D[SRC2][4:0] (R119, R131). -/
def execAccShr (t : TraderId) (s : State) : Out :=
  .next (cdOp t (key 0x10 0xd) (fun a n => shiftW .shr 24 a (amt24 n)) s)

/-- ACC_SAR: a shift of AC[SRC1] by D[SRC2][4:0] (R119, R131). -/
def execAccSar (t : TraderId) (s : State) : Out :=
  .next (cdOp t (key 0x10 0xe) (fun a n => shiftW .sar 24 a (amt24 n)) s)

/-- INSD: AC[DST] := (AC[SRC1] << 8) or D[SRC2] (R131). -/
def execInsd (t : TraderId) (s : State) : Out :=
  .next (s.simple t (key 0x10 0xF) (fun w => [.ac (fDst w), .ac (fS1 w), .d (fS2 w)])
    (fun w tr => tr.setAc (fDst w) (tr.acr (fS1 w) * 256 + tr.dr (fS2 w))))

/-- INSA: AC[DST] := (AC[SRC1] << 16) or A[SRC2] (R131). -/
def execInsa (t : TraderId) (s : State) : Out :=
  .next (s.simple t (key 0x10 0x10) (fun w => [.ac (fDst w), .ac (fS1 w), .a (fS2 w)])
    (fun w tr => tr.setAc (fDst w) (tr.acr (fS1 w) * 65536 + tr.ar (fS2 w))))

/-- EXTD: D[DST] := AC[SRC1][7:0] (R131). -/
def execExtd (t : TraderId) (s : State) : Out :=
  .next (s.simple t (key 0x10 0x11) (fun w => [.d (fDst w), .ac (fS1 w)]) (fun w tr => tr.setD (fDst w) (tr.acr (fS1 w))))

/-- EXTA: A[DST] := AC[SRC1][15:0] (R131). -/
def execExta (t : TraderId) (s : State) : Out :=
  .next (s.simple t (key 0x10 0x12) (fun w => [.a (fDst w), .ac (fS1 w)]) (fun w tr => tr.setA (fDst w) (tr.acr (fS1 w))))

/-- EXTAH: A[DST] := AC[SRC1][23:16], zero-extended (R131). -/
def execExtah (t : TraderId) (s : State) : Out :=
  .next (s.simple t (key 0x10 0x13) (fun w => [.a (fDst w), .ac (fS1 w)]) (fun w tr => tr.setA (fDst w) (bits (tr.acr (fS1 w)) 23 16)))

/-- ACI: AC[SRC1] plus a sign-extended imm (R131). -/
def execAci (t : TraderId) (s : State) : Out :=
  .next (cImm t (key 0x11) (fun a w => addW 24 a (unsg 24 (sgn 16 (fImm w))) 0) s)

/-- ACSH: a shift of AC[SRC1] by imm[4:0], kind IMM[10:8] (R131). -/
def execAcsh (t : TraderId) (s : State) : Out :=
  .next (cImm t (key 0x12) (fun a w => shiftW (ShKind.of (bits w 10 8)) 24 a (w % 32)) s)

/-- ACLI: AC[DST] := zero-extended imm (R131). -/
def execAcli (t : TraderId) (s : State) : Out :=
  .next (s.simple t (key 0x13) (fun w => [.ac (fDst w)]) (fun w tr => tr.setAc (fDst w) (fImm w)))

/-- ACHI: AC[DST][23:16] := imm[7:0] (R131). -/
def execAchi (t : TraderId) (s : State) : Out :=
  .next (s.simple t (key 0x14) (fun w => [.ac (fDst w)]) (fun w tr => tr.setAc (fDst w) (setBits (tr.acr (fDst w)) 23 16 (w % 256))))

/-- ADR_ADD: an address operation of R132. -/
def execAdrAdd (t : TraderId) (s : State) : Out :=
  .next (aOp t (key 0x18 0x0) (fun _ a b => addW 16 a b 0) s)

/-- ADR_SUB: an address operation of R132. -/
def execAdrSub (t : TraderId) (s : State) : Out :=
  .next (aOp t (key 0x18 0x1) (fun _ a b => subW 16 a b 0) s)

/-- ADR_ADDC: an address operation of R132. -/
def execAdrAddc (t : TraderId) (s : State) : Out :=
  .next (aOp t (key 0x18 0x2) (fun tr a b => addW 16 a b (b2n tr.c)) s)

/-- ADR_SUBB: an address operation of R132. -/
def execAdrSubb (t : TraderId) (s : State) : Out :=
  .next (aOp t (key 0x18 0x3) (fun tr a b => subW 16 a b (b2n tr.c)) s)

/-- ADR_AND: an address operation of R132. -/
def execAdrAnd (t : TraderId) (s : State) : Out :=
  .next (aOp t (key 0x18 0x4) (fun _ a b => logicW 16 (a &&& b)) s)

/-- ADR_OR: an address operation of R132. -/
def execAdrOr (t : TraderId) (s : State) : Out :=
  .next (aOp t (key 0x18 0x5) (fun _ a b => logicW 16 (a ||| b)) s)

/-- ADR_XOR: an address operation of R132. -/
def execAdrXor (t : TraderId) (s : State) : Out :=
  .next (aOp t (key 0x18 0x6) (fun _ a b => logicW 16 (a ^^^ b)) s)

/-- ADR_MOV: A[DST] := A[SRC1] (R132). -/
def execAdrMov (t : TraderId) (s : State) : Out :=
  .next (s.simple t (key 0x18 7) (fun w => [.a (fDst w), .a (fS1 w)]) (fun w tr => tr.setA (fDst w) (tr.ar (fS1 w))))

/-- ADR_SHL: a shift of A[SRC1] by D[SRC2][3:0] (R118, R132). -/
def execAdrShl (t : TraderId) (s : State) : Out :=
  .next (adOp t (key 0x18 0x8) (fun a n => shiftW .shl 16 a (n % 16)) s)

/-- ADR_SHR: a shift of A[SRC1] by D[SRC2][3:0] (R118, R132). -/
def execAdrShr (t : TraderId) (s : State) : Out :=
  .next (adOp t (key 0x18 0x9) (fun a n => shiftW .shr 16 a (n % 16)) s)

/-- ADR_SAR: a shift of A[SRC1] by D[SRC2][3:0] (R118, R132). -/
def execAdrSar (t : TraderId) (s : State) : Out :=
  .next (adOp t (key 0x18 0xa) (fun a n => shiftW .sar 16 a (n % 16)) s)

/-- ADR_ADDD: A[SRC1] plus zero-extended D[SRC2] (R132). -/
def execAdrAddd (t : TraderId) (s : State) : Out :=
  .next (adOp t (key 0x18 0xB) (fun a b => addW 16 a b 0) s)

/-- MOVDL: A[DST][7:0] := D[SRC1] (R132). -/
def execMovdl (t : TraderId) (s : State) : Out :=
  .next (s.simple t (key 0x18 0xC) (fun w => [.a (fDst w), .d (fS1 w)]) (fun w tr => tr.setA (fDst w) (setBits (tr.ar (fDst w)) 7 0 (tr.dr (fS1 w)))))

/-- MOVDH: A[DST][15:8] := D[SRC1] (R132). -/
def execMovdh (t : TraderId) (s : State) : Out :=
  .next (s.simple t (key 0x18 0xD) (fun w => [.a (fDst w), .d (fS1 w)]) (fun w tr => tr.setA (fDst w) (setBits (tr.ar (fDst w)) 15 8 (tr.dr (fS1 w)))))

/-- MOVLD: D[DST] := A[SRC1][7:0] (R132). -/
def execMovld (t : TraderId) (s : State) : Out :=
  .next (s.simple t (key 0x18 0xE) (fun w => [.d (fDst w), .a (fS1 w)]) (fun w tr => tr.setD (fDst w) (tr.ar (fS1 w))))

/-- MOVHD: D[DST] := A[SRC1][15:8] (R132). -/
def execMovhd (t : TraderId) (s : State) : Out :=
  .next (s.simple t (key 0x18 0xF) (fun w => [.d (fDst w), .a (fS1 w)]) (fun w tr => tr.setD (fDst w) (bits (tr.ar (fS1 w)) 15 8)))

/-- ADDAI: A[SRC1] + imm, modulo 2^16 (R132). -/
def execAddai (t : TraderId) (s : State) : Out :=
  .next (aImm t (key 0x19) (fun a w => addW 16 a (fImm w) 0) s)

/-- MOVAI: A[DST] := imm (R132). -/
def execMovai (t : TraderId) (s : State) : Out :=
  .next (s.simple t (key 0x1A) (fun w => [.a (fDst w)]) (fun w tr => tr.setA (fDst w) (fImm w)))

/-- SHAI: a shift of A[SRC1] by imm[3:0], kind IMM[10:8] (R132). -/
def execShai (t : TraderId) (s : State) : Out :=
  .next (aImm t (key 0x1B) (fun a w => shiftW (ShKind.of (bits w 10 8)) 16 a (w % 16)) s)

/-- MULU: MRL := D × D, MRH := 0 (R133). -/
def execMulu (t : TraderId) (s : State) : Out :=
  .next (mulOp t (key 0x09 0) (fun w => [.d (fS1 w), .d (fS2 w)]) (fun w tr => (0, BitVec.ofNat 16 (tr.dr (fS1 w) * tr.dr (fS2 w)))) s)

/-- MULS: MRL := signed D × D, MRH := copies of its sign (R133). -/
def execMuls (t : TraderId) (s : State) : Out :=
  .next (mulOp t (key 0x09 1) (fun w => [.d (fS1 w), .d (fS2 w)])
    (fun w tr => let q := sgn 8 (tr.dr (fS1 w)) * sgn 8 (tr.dr (fS2 w)); (BitVec.ofNat 16 (if q < 0 then 0xFFFF else 0), BitVec.ofInt 16 q)) s)

/-- MULUA: MRH:MRL := A × A (R133). -/
def execMulua (t : TraderId) (s : State) : Out :=
  .next (mulOp t (key 0x09 2) (fun w => [.a (fS1 w), .a (fS2 w)])
    (fun w tr => let q := tr.ar (fS1 w) * tr.ar (fS2 w); (BitVec.ofNat 16 (q / 65536), BitVec.ofNat 16 q)) s)

/-- MULSA: MRH:MRL := signed A × A (R133). -/
def execMulsa (t : TraderId) (s : State) : Out :=
  .next (mulOp t (key 0x09 3) (fun w => [.a (fS1 w), .a (fS2 w)])
    (fun w tr => let q := unsg 32 (sgn 16 (tr.ar (fS1 w)) * sgn 16 (tr.ar (fS2 w))); (BitVec.ofNat 16 (q / 65536), BitVec.ofNat 16 q)) s)

end Sys2Proof.Machine
end

