-- ==== Sys2Proof/Machine/Line.lean ====
section
/-! DEFINITION. The line coding of an Eplas lane (R230): the scrambler, the RS(544,514) codeword and the PAM4 levels. -/

namespace Sys2Proof.Machine

/-- One bit through the self-synchronising scrambler 1 + x^39 + x^58: the last 58 scrambled bits, and the bit that leaves. -/
def scrambleBit (st : Nat) (b : Bool) : Nat × Bool :=
  let o := b != (bit st 38 != bit st 57)
  ((st * 2 + b2n o) % 2 ^ 58, o)

/-- The bits of a byte in the order in which they are sent: least significant first. -/
def byteBits (b : Byte) : List Bool := (List.range 8).map (bit b.toNat)

/-- A block of 257 bits: T as it is, then the scrambled bits of its bytes; and the scrambler after it. -/
def blockBits (st : Nat) (ctl : Bool) (bs : List Byte) : Nat × List Bool :=
  let (st, out) := (bs.flatMap byteBits).foldl (fun x b =>
    let (st, o) := scrambleBit x.1 b
    (st, o :: x.2)) (st, [])
  (st, ctl :: out.reverse)

/-! PRESUMED (assumption log 115): the field, the generator and the order of the bits in symbols and levels are those of IEEE 802.3,
which R230 names. -/

/-- The product in GF(2^10) over x^10 + x^3 + 1. -/
def gfMul (a b : Nat) : Nat :=
  (List.range 10).foldl (fun x i =>
    let y := x * 2
    let y := if bit y 10 then y ^^^ 0x409 else y
    if bit b (9 - i) then y ^^^ a else y) 0

/-- The generator polynomial of RS(544,514), product of x + 2^j for j = 0 to 29: the coefficients of x^29 down to 1. -/
def rsGen : List Nat :=
  ((List.range 30).foldl (fun (x : List Nat × Nat) _ =>
    (List.zipWith (fun a b => a ^^^ b) (x.1 ++ [0]) (0 :: x.1.map (gfMul x.2)), gfMul x.2 2)) ([1], 1)).1.drop 1

/-- One message symbol through the encoder. -/
def rsStep (gen par : List Nat) (m : Nat) : List Nat :=
  let f := m ^^^ par.headD 0
  List.zipWith (fun p g => p ^^^ gfMul f g) (par.drop 1 ++ [0]) gen

/-- A number from its bits, the first the least significant. -/
def ofBits : List Bool → Nat
  | [] => 0
  | b :: bs => b2n b + 2 * ofBits bs

/-- The 514 symbols of a message of 5,140 bits. -/
def symbolsOf (msg : List Bool) : List Nat := (List.range 514).map (fun i => ofBits ((msg.drop (10 * i)).take 10))

/-- The codeword of a message: its symbols and the thirty parity symbols. -/
def codeword (msg : List Bool) : List Nat :=
  let ms := symbolsOf msg
  let gen := rsGen
  ms ++ ms.foldl (rsStep gen) (List.replicate 30 0)

/-- The PAM4 level of two bits by the Gray code. -/
def grayLevel (a b : Bool) : Nat := match a, b with | false, false => 0 | false, true => 1 | true, true => 2 | true, false => 3

/-- The PAM4 levels of a symbol: five, from its least significant bits on. -/
def symbolLevels (x : Nat) : List Nat := (List.range 5).map (fun i => grayLevel (bit x (2 * i)) (bit x (2 * i + 1)))

/-- The levels that the pads of an Eplas lane carried for the codeword completed last (R230). -/
def Lane.levels (l : Lane) : List Nat := (codeword l.sentMsg).flatMap symbolLevels

/-- A block into the codeword in progress; with the twentieth one the codeword is complete. -/
def Lane.code (l : Lane) (ctl : Bool) (bs : List Byte) : Lane :=
  let (st, out) := blockBits l.scr ctl bs
  let msg := l.msg ++ out
  if 5140 ≤ msg.length then { l with scr := st, msg := [], sentMsg := msg } else { l with scr := st, msg := msg }

end Sys2Proof.Machine
end

