-- ==== Sys2Proof/Machine/Lanes.lean ====
section
/-! DEFINITION. Lanes: their modes, blocks and frames, axis sync, groups, training and link state (R225 to R247, R251,
R264). -/

namespace Sys2Proof.Machine

/-! ## Lanes (R225, R226) -/

/-- The number of lane k of a hall. -/
def laneNum (h k : Nat) : Nat := 4 * h + k

/-- The lane exists and the tile does not sleep (R225, R227). -/
def State.laneOn (s : State) (h k : Nat) : Bool := decide (k < 4) && decide (laneNum h k < s.part.lanes) && !s.asleep

/-- The states of a lane: 0 off, 1 training, 2 up, 3 down. -/
def State.lnState (s : State) (h k : Nat) : Nat := s.get LN_STATUS.STATE (ix h k)
def State.lnMode (s : State) (h k : Nat) : Nat := s.get LN_CTRL.MODE (ix h k)
def State.laneUp (s : State) (h k : Nat) : Bool := s.lnState h k == 2
def State.eplas (s : State) (h k : Nat) : Bool := s.lnMode h k == 1 || s.lnMode h k == 2
def State.ethernet (s : State) (h k : Nat) : Bool := decide (3 ≤ s.lnMode h k) && decide (s.lnMode h k ≤ 9)

/-- A lane changed. -/
def State.updLane (s : State) (h k : Nat) (f : Lane → Lane) : State := s.setLane h k (f (s.lane h k))

/-- An asynchronous micro-trap cause raised in a thread (R257). -/
def State.microCause (s : State) (h k th c : Nat) : State := s.orIn TH_TRAP.PEND (ix h k th) (2 ^ c)

/-- STATE written: pads that carry the sideband change with it (R264). -/
def State.lnPut (s : State) (h k v : Nat) : State := s.drives h s.tick (fun s => s.put LN_STATUS.STATE (ix h k) v)

/-- A frame has been sent or received: the activity signal is high (R264). -/
def State.laneBusy (s : State) (h k : Nat) : State :=
  if (s.lane h k).active.isSome then s.updLane h k (fun l => { l with active := some s.tick })
  else s.drives h s.tick (fun s => s.updLane h k (fun l => { l with active := some s.tick }))

/-- Frames and blocks that the lane drops are counted. -/
def State.rxDrop (s : State) (h k : Nat) : State := s.count LN_RX_DROP.COUNT (ix h k)

/-- A hall chit of a lane, with the porter in SOURCE. -/
def State.laneChit (s : State) (h k ty : Nat) (data : Nat) : State := s.hallChit h ty k data s.tick

/-- A write of LN_CTRL (R226): MODE takes effect only while the lane is off or down and is not training; any other write of it
leaves the field unchanged and sets CFG_ERR. -/
def State.lnCtrlWrite (s : State) (h k v : Nat) : State :=
  let i := ix h k
  let m := bits v 31 28
  let s := s.wr (i.reg .LN_CTRL) (setBits (s.rd (i.reg .LN_CTRL)) 27 26 (bits v 27 26))
  let s := s.put LN_CTRL.FEC_LIMIT i (bits v 15 8)
  if decide (m ≤ 9) && (s.lnState h k == 0 || s.lnState h k == 3) && (s.lane h k).training.isNone then
    s.put LN_CTRL.MODE i m
  else s.set LN_FAULT.CFG_ERR i true

/-- A sideband input of a lane: the lowest-numbered hall pin that selects the signal gives its level (R264). -/
def State.sbIn (s : State) (h k sig : Nat) : Bool :=
  match (List.range 128).find? (fun i => s.funcNow h i == 8 && s.selNow h i == 16 * k + sig) with
  | some i => s.is PIN_STATUS.LEVEL (ix h i)
  | none => false

/-- LN_STATUS as it reads: with the sideband inputs. -/
def State.lnStatus (s : State) (h k : Nat) : Nat :=
  setBits (s.rd ((ix h k).reg .LN_STATUS)) 22 20 (b2n (s.sbIn h k 2) + 2 * b2n (s.sbIn h k 3) + 4 * b2n (s.sbIn h k 5))

/-! ## CRCs of frames and blocks (R234) -/

/-- One byte through CRC-16/CCITT, most significant bit first. -/
def crc16Byte (crc : Nat) (b : Byte) : Nat :=
  (List.range 8).foldl (fun c i =>
    let fb := bit c 15 != bit b.toNat (7 - i)
    let c := c * 2 % 65536
    if fb then c ^^^ 0x1021 else c) crc

/-- CRC-16/CCITT of bytes: initial value 0xFFFF, no reflection and no final inversion. -/
def crc16 (bs : List Byte) : Nat := bs.foldl crc16Byte 0xFFFF

/-- The CRC-32 of the IEEE 802.3 FCS. -/
def crc32 (bs : List Byte) : Nat := bs.foldl (crcByteR 0xEDB88320) 0xFFFFFFFF ^^^ 0xFFFFFFFF

/-- The frame CRC-32 of an Eplas frame: header bytes 0 to 7 and 24 to 25, then the payload. -/
def frameCrc (bs : List Byte) (len : Nat) : Nat := crc32 (bs.take 8 ++ (bs.drop 24).take 2 ++ (bs.drop 28).take len)

/-- Bytes overwritten from offset `o` on. -/
def putBytes (bs : List Byte) (o : Nat) (xs : List Byte) : List Byte :=
  (bs.take o ++ xs ++ bs.drop (o + xs.length)).take bs.length

/-- Bytes filled with zeros to a length. -/
def padTo (n : Nat) (bs : List Byte) : List Byte := (bs ++ List.replicate n 0).take n

/-! ## Lane groups (R242 to R244) -/

/-- The members of a lane by its LN_GROUP, in ascending order. -/
def State.members (s : State) (h k : Nat) : List Nat := ones 4 (s.get LN_GROUP.MEMBERS (ix h k))

/-- The members of a lane agree: each is an Eplas lane that holds the same MEMBERS, with its own bit set. -/
def State.agrees (s : State) (h k : Nat) : Bool :=
  (s.members h k).contains k && (s.members h k).all (fun j =>
    s.inLane h j && s.eplas h j && s.get LN_GROUP.MEMBERS (ix h j) == s.get LN_GROUP.MEMBERS (ix h k))

/-- The lanes that a lane works with: its members, or itself alone. -/
def State.group (s : State) (h k : Nat) : List Nat := if s.agrees h k then s.members h k else [k]

/-- The member index of a lane: its rank by porter number within MEMBERS (R242). -/
def State.memberIx (s : State) (h k : Nat) : Nat := ((s.members h k).filter (fun j => decide (j < k))).length

/-- The in-service mask as the lane holds it, written to every member of its group. -/
def State.setService (s : State) (h k mask : Nat) : State :=
  forAll (s.group h k) (fun j s => s.put LN_GROUP.SERVICE (ix h j) mask) s

/-- G set for a group: a change raises a LANE_GROUP chit, and IN_SERVICE follows. A lane alone is in service while it is
up. A group that becomes empty is a fault of the wind-down class where the hall asks for it (R409). -/
def State.setG (s : State) (h k : Nat) (g : List Nat) : State :=
  let ms := s.group h k
  let old := (s.lane h k).inG
  let s := forAll ms (fun j s =>
    (s.updLane h j (fun l => { l with inG := g })).set LN_STATUS.IN_SERVICE (ix h j) (g.contains j)) s
  let s := if g.isEmpty && !old.isEmpty && s.is FT_WIND.LANE_EMPTY (ix h) then { s with faults := s.faults ++ [.wind 4 h] }
    else s
  if old = g ∨ ms.length ≤ 1 then s else s.laneChit h k 0x1A (s.rd ((ix h k).reg .LN_GROUP) % 2 ^ 32)

/-- The masks agree: G is recomputed from them, and a loss that was held until then is applied to the local mask (R244). -/
def State.regroup (s : State) (h k : Nat) : State :=
  let ms := s.group h k
  let mask := s.get LN_GROUP.SERVICE (ix h k)
  let s := s.setG h k (ms.filter (fun j => bit mask (s.memberIx h j)))
  match ms.find? (fun j => bit mask (s.memberIx h j) && !s.laneUp h j) with
  | some j => s.setService h k (mask - 2 ^ s.memberIx h j)
  | none => s

/-- Both masks of a group agree, as seen on lane k. -/
def State.masksAgree (s : State) (h k : Nat) : Bool :=
  s.get LN_GROUP.SERVICE (ix h k) == s.get LN_GROUP.PEER_SERVICE (ix h k)

/-- A member leaves at a loss: the local mask drops it, unless a loss before it is still being worked off. -/
def State.leaveGroup (s : State) (h k : Nat) : State :=
  let i := s.memberIx h k
  let mask := s.get LN_GROUP.SERVICE (ix h k)
  if (s.group h k).length ≤ 1 then (s.setService h k 0).setG h k []
  else
    let others := (s.group h k).filter (fun j => j != k && s.laneUp h j)
    let settled := others.all (fun j => s.masksAgree h j)
    let s := if bit mask i && (settled || others.isEmpty) then s.setService h k (mask - 2 ^ i) else s
    if others.isEmpty then s.setG h k [] else s

/-- A member comes up: the local mask of the members that are up takes it in again; alone it is in service at once. -/
def State.joinGroup (s : State) (h k : Nat) : State :=
  let i := s.memberIx h k
  let mask := match (s.group h k).find? (fun j => j != k && s.laneUp h j) with
    | some j => s.get LN_GROUP.SERVICE (ix h j)
    | none => 0
  let s := s.setService h k (mask ||| 2 ^ i)
  if (s.group h k).length ≤ 1 ∧ !(s.lane h k).misfit then s.setG h k [k] else s

/-- A write of MEMBERS has changed the lanes that lane `j`, which is up, works with: alone it is in service at once; in a new group
the members that are up are, as far as the peer's latest masks hold them (R242, R243). -/
def State.realign (s : State) (h j : Nat) : State :=
  let ms := s.group h j
  let up := ms.filter (fun m => s.laneUp h m)
  let s := s.setService h j (up.foldl (fun x m => x ||| 2 ^ s.memberIx h m) 0)
  s.setG h j (up.filter (fun m => !(s.lane h m).misfit &&
    (ms.length ≤ 1 || bit (s.get LN_GROUP.PEER_SERVICE (ix h m)) (s.memberIx h m))))

/-- A write of LN_GROUP: MEMBERS changes only while the lane is off or down; lanes whose members disagree work alone. -/
def State.lnGroupWrite (s : State) (h k v : Nat) : State :=
  let m := bits v 27 24
  if s.lnState h k = 0 ∨ s.lnState h k = 3 then
    let old := s
    let s := (s.put LN_GROUP.MEMBERS (ix h k) m).put LN_GROUP.SERVICE (ix h k) 0
    let s := forAll ((List.range 4).filter (fun j => old.laneUp h j && old.group h j != s.group h j)) (fun j s => s.realign h j) s
    forAll (List.range 4) (fun j s =>
      if !s.inLane h j || (s.members h j).all (fun l => s.get LN_GROUP.MEMBERS (ix h l) == s.get LN_GROUP.MEMBERS (ix h j)) then s
      else s.set LN_FAULT.GROUP_ERR (ix h j) true) s
  else s.set LN_FAULT.CFG_ERR (ix h k) true

/-! ## Link state (R245 to R247, R409) -/

/-- The ticks of 200 ms. -/
def trainLimit : Nat := 3200000000

/-- The data of LANE_UP and LANE_TRAIN_FAILED. -/
def State.trainData (s : State) (h k : Nat) : Nat :=
  s.rd ((ix h k).reg .LN_TRAIN) % 2 ^ 32 + (s.lnStatus h k % 2 ^ 32) <<< 32

/-- Training begins, for a job or without one (0xFFFF). DESIGN CHOICE (assumption log 136): the first LINK block is due at block
position 4,096. -/
def State.startTraining (s : State) (h k job : Nat) : State :=
  let s := (s.lnPut h k 1).set LN_STATUS.LOCK (ix h k) false
  let s := s.put LN_TRAIN.RESULT (ix h k) 0
  let s := (s.set LN_SYNC_STATUS.SETTLED (ix h k) false).put LN_SYNC_STATUS.EXCH (ix h k) 0
  s.updLane h k (fun l => { l with training := some (s.tick, job), cw := 0, unc := [], peerMode := none, txFrom := s.tick, sent := 0,
                                   linkAt := 0, rest := [], cur := none, loop := [], loopSync := [], msg := [] })

/-- The ticks since the start of the training under way, in µs, as LN_TRAIN.ELAPSED holds them. -/
def State.trainUs (s : State) (h k : Nat) : Nat :=
  match (s.lane h k).training with
  | some (t, _) => min ((s.tick - t) / 16000) (2 ^ 20 - 1)
  | none => 0

/-- Training ends without up: the lane is down, and its RESULT tells why (R245, R246), with SIGNAL and LOCK as it says: no signal (2),
a signal (3, 4), or lock as well (5). -/
def State.trainEnds (s : State) (h k result : Nat) : State :=
  let s := s.lnPut h k 3
  let s := if 2 ≤ result ∧ result ≤ 5 then
      (s.set LN_STATUS.SIGNAL (ix h k) (result != 2)).set LN_STATUS.LOCK (ix h k) (result == 5)
    else s
  let s := s.put LN_TRAIN.RESULT (ix h k) result
  let s := s.put LN_TRAIN.ELAPSED (ix h k) (s.trainUs h k)
  let s := s.set LN_FAULT.TRAIN_FAIL (ix h k) true
  s.updLane h k (fun l => { l with training := none })

/-- The lane goes up (R245, R247): the hall event, the LINK_UP micro-traps and the LANE_UP chit. -/
def State.goUp (s : State) (h k : Nat) : State :=
  let i := ix h k
  let s := (s.put LN_TRAIN.RESULT i 1).put LN_TRAIN.ELAPSED i (s.trainUs h k)
  let s := s.lnPut h k 2
  let s := (s.set LN_STATUS.LOCK i true).set LN_STATUS.SIGNAL i true
  let s := s.updLane h k (fun l => { l with training := none, linkRxAt := s.tick })
  let s := s.joinGroup h k
  let s := (s.microCause h k 0 1).microCause h k 1 1
  (s.hallEvent h (0x1A0 + k)).laneChit h k 0x18 (s.trainData h k)

/-- The lane goes down (R247): the micro-traps, the hall event, the LANE_DOWN chit, the group, the exchange, and a
training of its own with AUTO_RETRAIN. `signal` tells whether the signal is still there. -/
def State.goDown (s : State) (h k : Nat) (signal : Bool := true) : State :=
  let i := ix h k
  let s := s.lnPut h k 3
  let s := (s.set LN_STATUS.LOCK i false).set LN_STATUS.IN_SERVICE i false
  let s := if signal then s else s.set LN_STATUS.SIGNAL i false
  let s := s.set LN_FAULT.LINK_LOST i true
  let s := (s.microCause h k 0 0).microCause h k 1 0
  let s := s.hallEvent h (0x1A0 + k)
  let s := s.laneChit h k 0x17 (s.rd (i.reg .LN_FAULT) % 2 ^ 32 + (s.lnStatus h k % 2 ^ 32) <<< 32)
  let s := s.leaveGroup h k
  let s := (s.set LN_SYNC_STATUS.SETTLED i false).put LN_SYNC_STATUS.EXCH i 0
  if s.is LN_CTRL.AUTO_RETRAIN i then s.startTraining h k 0xFFFF else s

/-! ## Blocks (R231, R232) -/

/-- The IDLE block. -/
def idleBlock : List Byte := List.replicate 32 0

/-- The ticks of one block position as a fraction: 32 bytes with the overhead of the mode (R226). In Ethernet modes, whose framing
the spec leaves to IEEE 802.3, the position of one beat at the MAC rate (DESIGN CHOICE, assumption log 107). -/
def blockTicks (mode : Nat) : Nat × Nat :=
  match mode with
  | 1 => (272, 7)
  | 2 => (2048, 25)
  | 3 | 4 => (1024, 25)
  | 5 | 6 => (2048, 25)
  | 7 | 8 => (4096, 25)
  | _ => (2048, 5)

/-- The transmitter of a lane runs: from the start of its training on. -/
def State.sending (s : State) (h k : Nat) : Bool := s.laneOn h k && s.lnMode h k != 0 && s.lnState h k != 0

/-- The next block position of a lane has come. -/
def State.posCome (s : State) (h k : Nat) : Bool :=
  let l := s.lane h k
  decide (l.sent * (blockTicks (s.lnMode h k)).1 ≤ (s.tick - l.txFrom) * (blockTicks (s.lnMode h k)).2)

/-- An ALIGN block is due at the next position, the first of every 1,024th codeword of twenty blocks; a LINK block is due, none
having been sent in the last 4,096 blocks (R231, R232). -/
def Lane.alignDue (l : Lane) : Bool := l.sent % 20480 == 0
def Lane.linkDue (l : Lane) : Bool := decide (l.linkAt + 4096 ≤ l.sent)

/-- What leaves at a block position, coded into its codeword (R230): with the near-end loopback the pads send IDLE (R265). -/
def State.putBlock (s : State) (h k : Nat) (ctl : Bool) (b : List Byte) : State :=
  let o := if s.is LN_CTRL.LOOPBACK (ix h k) then (true, idleBlock) else (ctl, b)
  s.updLane h k (fun l => { l.code o.1 o.2 with out := some o, sent := l.sent + 1 })

/-- The LINK block of a lane. -/
def State.linkBlock (s : State) (h k : Nat) : List Byte :=
  let i := ix h k
  let b := toBytes 1 1 ++ toBytes 1 (laneNum h k) ++ toBytes 1 (s.lnMode h k) ++ toBytes 1 (s.memberIx h k) ++
    toBytes 1 (s.get LN_GROUP.SERVICE i) ++ toBytes 3 0 ++ toBytes 4 (s.rd ((ix).reg .DEV_STOCK_ID)) ++ toBytes 18 0
  b ++ toBytes 2 (crc16 b)

/-- The ALIGN block of a lane. -/
def alignBlock (h k : Nat) : List Byte := toBytes 1 0xE0 ++ toBytes 1 (laneNum h k) ++ toBytes 30 0

/-- A LINK block received: the peer, its mask and the member check; G is recomputed when the masks agree. A mismatch of the
member index takes the lane out of service (R242). -/
def State.linkRx (s : State) (h k : Nat) (blk : List Byte) : State :=
  let i := ix h k
  let s := s.put LN_STATUS.PEER i (field blk 10 2)
  let peer := field blk 4 1 % 16
  let s := s.put LN_GROUP.PEER_SERVICE i peer
  let bad := field blk 3 1 % 4 != s.memberIx h k
  let s := s.updLane h k (fun l => { l with misfit := bad, peerMode := some (field blk 2 1), linkRxAt := s.tick })
  let s := if bad then s.set LN_FAULT.GROUP_ERR i true else s
  if (s.group h k).length ≤ 1 then (if s.laneUp h k then s.setG h k (if bad then [] else [k]) else s)
  else
    let mask := s.get LN_GROUP.SERVICE i
    -- a member in service that the peer has dropped is dropped here too
    let gone := ((s.lane h k).inG.filter (fun j => bit mask (s.memberIx h j) && !bit peer (s.memberIx h j))).map (s.memberIx h)
    let mask := gone.foldl (fun m j => m - 2 ^ j) mask
    let mask := if bad && bit mask (s.memberIx h k) then mask - 2 ^ s.memberIx h k else mask
    let s := s.setService h k mask
    if s.masksAgree h k then s.regroup h k else s

/-! ## Eplas frames (R233 to R237) -/

/-- The fields of an Eplas header. -/
def hdrLen (bs : List Byte) : Nat := field bs 4 2
def hdrTill (bs : List Byte) : Nat := field bs 16 8
def hdrOk (bs : List Byte) : Bool := field bs 26 2 == crc16 (bs.take 26) && decide (hdrLen bs ≤ 16384)

/-- The beats of a frame of `n` bytes: blocks of 32 bytes, the last with its valid bytes. -/
def beatsOf (bs : List Byte) (n : Nat) (bad : Bool) (arr till : Nat) : List RxBeat :=
  let m := (n + 31) / 32
  (List.range m).map (fun j =>
    { bytes := padTo 32 ((bs.drop (32 * j)).take 32), first := j == 0, last := j + 1 == m,
      n := if j + 1 = m then n % 32 else 0, bad := bad, arr := arr, till := till })

/-- A frame into the receive buffer of 4,096 beats: with no room it is dropped whole (R251). -/
def State.rxFrame (s : State) (h k : Nat) (beats : List RxBeat) : State :=
  if 4096 < (s.lane h k).rx.length + beats.length then
    ((s.rxDrop h k).set LN_FAULT.RX_OVF (ix h k) true).microCause h k 0 2
  else (s.laneBusy h k).updLane h k (fun l => { l with rx := l.rx ++ beats })

/-- An Eplas data frame received: header checks, the stream table, the receive buffer. -/
def State.eplasRx (s : State) (h k : Nat) (bs : List Byte) (arr : Nat) (bad : Bool) : State :=
  if !hdrOk bs then (s.rxDrop h k).set LN_FAULT.HDR_ERR (ix h k) true
  else if !s.is STREAM.VALID (ix h k (field bs 2 2 % 4096)) then s.rxDrop h k
  else s.rxFrame h k (beatsOf bs (32 + hdrLen bs) bad arr (hdrTill bs))

/-- The stamp inserter of a lane at departure `d`: POS, TILL and HCRC of the start block, with POS_VALID only for an axis that is
enabled and not lost, and SYNCED as the lane has SETTLED (R233, R234, R237). -/
def State.stampHeader (s : State) (h k : Nat) (bs : List Byte) (d : Nat) : List Byte :=
  let ax := bits (field bs 2 2) 15 12
  let ok := bit (field bs 1 1) 0 && s.is TAX_CTRL.ENABLE (ix ax) && !s.is TAX_STATUS.LOST (ix ax)
  let bs := putBytes bs 1 (toBytes 1 (setBits (field bs 1 1) 1 0 (b2n ok + 2 * s.get LN_SYNC_STATUS.SETTLED (ix h k))))
  let bs := putBytes bs 8 (toBytes 8 (if ok then unsg 64 (s.axisPos ax d) else 0))
  let bs := putBytes bs 16 (toBytes 8 d)
  putBytes bs 26 (toBytes 2 (crc16 (bs.take 26)))

/-- The departure stamp of a frame whose start block enters the coding now: TX_LAT later it passes the pads (R229, R265). -/
def State.departNow (s : State) (h k : Nat) : Nat := s.tick + bits (Config.lnLat (s.lnMode h k)).toNat 31 16

/-! ## Axis sync (R238 to R240) -/

/-- One axis-sync frame with departure stamp `d`: for an axis, or without position. -/
def State.syncFrame (s : State) (h k : Nat) (ax : Option Nat) (seq d : Nat) : List Byte :=
  let i := ix h k
  let l := s.lane h k
  let a := ax.getD 0
  let ok := ax.isSome && s.is TAX_CTRL.ENABLE (ix a) && !s.is TAX_STATUS.LOST (ix a)
  let v := ((s.axis a).inForce d).2.1
  let (etx, erx, eseq) := l.echo.getD (0, 0, 0)
  let stepped := decide (Tab.get l.steps a 0 < (s.axis a).steps)
  let flags := if ax.isSome then
      b2n (s.is TAX_STATUS.LOST (ix a)) + 2 * b2n (s.is TAX_STATUS.STANDSTILL (ix a)) + 4 * b2n stepped
    else 0
  let head := toBytes 1 0x11 ++ toBytes 1 (b2n ok + 2 * b2n (s.is LN_SYNC_STATUS.SETTLED i)) ++ toBytes 2 (a <<< 12) ++
    toBytes 2 32 ++ toBytes 2 seq ++ toBytes 8 (if ok then unsg 64 (s.axisPos a d) else 0) ++ toBytes 8 d ++
    toBytes 2 (laneNum h k)
  let head := head ++ toBytes 2 (crc16 head)
  let body := toBytes 8 (if ax.isSome then unsg 64 v else 0) ++ toBytes 8 etx ++ toBytes 8 erx ++ toBytes 2 eseq ++
    toBytes 1 flags ++ toBytes 5 0
  head ++ body ++ toBytes 4 (frameCrc (head ++ body) 32)

/-- The period of axis sync in ticks. -/
def State.syncPeriod (s : State) (h k : Nat) : Nat := 2 ^ min (max (s.get LN_SYNC_CTRL.PERIOD (ix h k)) 10) 20

/-- The frames of one period become due: one for each axis of AXMASK in ascending order, or one without position. -/
def State.syncSend (s : State) (h k : Nat) : State :=
  let axes := ones 16 (s.get LN_AXS_TX.AXMASK (ix h k))
  let list : List (Option Nat) := if axes.isEmpty then [none] else axes.map some
  s.updLane h k (fun l => { l with syncQ := l.syncQ ++ list, syncAt := s.tick })

/-- The first block of an axis-sync frame leaves; its second one follows. -/
def State.syncLeave (s : State) (h k : Nat) (ax : Option Nat) : State :=
  let l := s.lane h k
  let seq := match l.syncSeq with | some q => (q + 1) % 65536 | none => 0
  let d := s.departNow h k
  let f := s.syncFrame h k ax seq d
  let steps := match ax with | some a => Tab.set l.steps a (s.axis a).steps | none => l.steps
  (s.setLane h k { l with rest := [f.drop 32], syncSeq := some seq, steps := steps, syncSent := (d, seq) :: l.syncSent.take 7 }).putBlock h k true (f.take 32)

/-- SEQ of the axis-sync frame that was the last one sent at an instant. -/
def Lane.seqAt (l : Lane) (t : Nat) : Option Nat := (l.syncSent.find? (fun e => decide (e.1 ≤ t))).map Prod.snd

/-- What the sync unit does with a frame that arrived at stamp `t4`: the filtered delay in half ticks, the offset and the
exchange count (R239). -/
def State.syncUpdate (s : State) (h k : Nat) (t1 t2 t3 t4 seq : Nat) : State :=
  let i := ix h k
  let l := s.lane h k
  if t1 = 0 ∨ l.seqAt t4 ≠ some seq then s
  else
    let dm2 : Int := ((t2 : Int) - t1) + ((t4 : Int) - t3)
    let exch := s.get LN_SYNC_STATUS.EXCH i
    let df2 : Int := if exch = 0 then dm2 else l.df2 + (dm2 - l.df2) / (2 ^ s.get LN_SYNC_CTRL.DLY_W i)
    let asym := sgn 32 (s.rd (i.reg .LN_SYNC_ASYM))
    let ofs : Int := ((t3 : Int) - t4) + (df2 - 2 * asym) / 2
    let s := s.setLane h k { l with df2 := df2 }
    let s := s.put LN_SYNC_DLY.DLY i (unsg 32 (df2 / 2))
    let s := s.put LN_SYNC_OFS.OFS i (unsg 64 ofs)
    let s := s.put LN_SYNC_STATUS.EXCH i (min (exch + 1) 0xFFFF)
    if 64 ≤ exch + 1 then s.set LN_SYNC_STATUS.SETTLED i true else s

/-- Lane L serves an axis that names lane `n`: it is that lane, or G[0] while that lane is a member out of service (R240,
R243). -/
def State.serves (s : State) (h k n : Nat) : Bool :=
  let j := n % 4
  if n / 4 ≠ h ∨ !(s.group h k).contains j then false
  else if (s.group h k).length ≤ 1 ∨ (s.lane h k).inG.contains j then j == k
  else (s.lane h k).inG.head? == some k

/-- A received axis-sync frame: the exchange, the echo, and a measurement to every axis that takes it. -/
def State.syncRx (s : State) (h k : Nat) (bs : List Byte) (arr : Nat) : State :=
  let t3 := hdrTill bs
  let s := s.syncUpdate h k (field bs 36 8) (field bs 44 8) t3 arr (field bs 52 2)
  let s := (s.laneBusy h k).updLane h k (fun l => { l with echo := some (t3, arr, field bs 6 2) })
  let flags := field bs 1 1
  if bit flags 0 && bit flags 1 && s.is LN_SYNC_STATUS.SETTLED (ix h k) then
    let ofs := sgn 64 (s.rd ((ix h k).reg .LN_SYNC_OFS))
    forAll (List.range 16) (fun n s =>
      if s.get TAX_CTRL.SRC (ix n) = 3 ∧ s.serves h k (s.get TAX_SRC.LANE (ix n)) ∧
          s.get TAX_SRC.REMOTE_AXIS (ix n) = bits (field bs 2 2) 15 12 then
        let tm : Int := (t3 : Int) - ofs + sgn 32 (s.rd ((ix n).reg .TAX_LATENCY))
        s.setAxis n ((s.axis n).measure (sgn 64 (field bs 8 8)) tm)
      else s) s
  else s

/-! ## The transmitter at a block position (R232, R243) -/

/-- The member of its group that sends a data frame, by the stream in its start block: G[s mod n]; the lane itself while G is
empty. -/
def State.frameLane (s : State) (h m : Nat) (b : TxBeat) : Nat :=
  let g := (s.lane h m).inG
  if g.isEmpty then m else g.getD (field b.bytes 2 2 % 4096 % g.length) m

/-- The porter of its group whose next data frame leaves on a lane. -/
def State.nextFrame (s : State) (h k : Nat) : Option Nat :=
  (s.group h k).find? (fun m => match (s.lane h m).tx with
    | b :: _ => b.first && s.frameLane h m b == k && !(s.group h k).any (fun j => (s.lane h j).cur == some m)
    | [] => false)

/-- The bytes of a beat in a block: the rest is padding (R233). -/
def TxBeat.block (b : TxBeat) : List Byte := padTo 32 (if b.n = 0 then b.bytes else b.bytes.take b.n)

/-- A frame of porter `m` departs at stamp `d`: the stamp is that of the frame started last by TXSTART only if no later one waits
(R250, R254). -/
def State.departs (s : State) (h m d : Nat) : State :=
  if (s.lane h m).tx.any (fun b => b.first) then s else s.updLane h m (fun l => { l with depart := some d })

/-- The next beat of porter `m` leaves on a lane, as `blk`. -/
def State.beatLeaves (s : State) (h k m : Nat) (b : TxBeat) (blk : List Byte) : State :=
  let s := s.updLane h m (fun l => { l with tx := l.tx.drop 1 })
  let s := s.updLane h k (fun l => { l with cur := if b.last then none else some m })
  let s := if b.last then s.laneBusy h k else s
  s.putBlock h k b.first blk

/-- What leaves on an Eplas lane at a position where neither an ALIGN nor a LINK block is due: the rest of a frame, an axis-sync
frame, a data frame, or IDLE. -/
def State.sendNext (s : State) (h k : Nat) : State :=
  let l := s.lane h k
  match l.rest, l.cur with
  | b :: bs, _ => ((s.setLane h k { l with rest := bs }).laneBusy h k).putBlock h k false b
  | [], some m =>
    match (s.lane h m).tx with
    | b :: _ => if b.first then (s.setLane h k { l with cur := none }).putBlock h k true idleBlock else s.beatLeaves h k m b b.block
    | [] => s.putBlock h k true idleBlock
  | [], none =>
    match l.syncQ, s.nextFrame h k with
    | ax :: q, _ => (s.setLane h k { l with syncQ := q }).syncLeave h k ax
    | [], some m =>
      match (s.lane h m).tx with
      | b :: _ =>
        let d := s.departNow h k
        (s.beatLeaves h k m b (s.stampHeader h k b.block d)).departs h m d
      | [] => s.putBlock h k true idleBlock
    | [], none => s.putBlock h k true idleBlock

/-- What leaves on an Ethernet lane at the position of a beat. -/
def State.sendBeat (s : State) (h k : Nat) : State :=
  match (s.lane h k).tx with
  | b :: bs =>
    let s := s.updLane h k (fun l => { l with tx := bs, sent := l.sent + 1 })
    let s := if b.last then s.laneBusy h k else s
    let s := if b.first then s.departs h k (s.departNow h k) else s
    s.updLane h k (fun l => { l with out := if s.is LN_CTRL.LOOPBACK (ix h k) then none
                                       else some (b.first, if b.n = 0 then b.bytes else b.bytes.take b.n) })
  | [] => s.updLane h k (fun l => { l with out := none, sent := l.sent + 1 })

/-! ## The near-end loopback (R265) -/

/-- The frame that comes back is complete: a data frame is received, and an axis-sync frame waits until its stamp lies 64 ticks back
(R239). -/
def State.loopFrame (s : State) (h k : Nat) (f : List Byte) (at_ : Nat) : State :=
  if f.length < 32 * ((32 + hdrLen f + 31) / 32) then s.updLane h k (fun l => { l with loop := f, loopAt := at_ })
  else
    let s := s.updLane h k (fun l => { l with loop := [] })
    if field f 0 1 = 0x10 then s.eplasRx h k f at_ false
    else s.updLane h k (fun l => { l with loopSync := l.loopSync ++ [(f, at_)] })

/-- A block that the transmitter of an Eplas lane has sent comes back to its receiver (R231, R233, R235): its stamp is that of the
departure of its start block. A data block outside a frame belongs to one that was discarded. -/
def State.loopBlock (s : State) (h k : Nat) (ctl : Bool) (b : List Byte) : State :=
  let l := s.lane h k
  if !ctl then (if l.loop.isEmpty then s else s.loopFrame h k (l.loop ++ b) l.loopAt)
  else match field b 0 1 with
    | 0 => s.updLane h k (fun l => { l with loop := [] })
    | 1 => s.linkRx h k b
    | 0xE0 => s
    | 0x10 | 0x11 =>
      if hdrOk b then s.loopFrame h k b (s.departNow h k)
      else ((s.rxDrop h k).set LN_FAULT.HDR_ERR (ix h k) true).updLane h k (fun l => { l with loop := [] })
    | _ => s.rxDrop h k

/-- The axis-sync frames that have come back and whose stamps lie 64 ticks back are taken (R239, R240). -/
def State.loopSyncs (s : State) (h k : Nat) : State :=
  let due := (s.lane h k).loopSync.filter (fun e => decide (e.2 + 64 < s.tick))
  forAll due (fun e s => s.syncRx h k e.1 e.2)
    (if due.isEmpty then s else s.updLane h k (fun l => { l with loopSync := l.loopSync.filter (fun e => decide (s.tick ≤ e.2 + 64)) }))

/-- A beat of an Ethernet frame comes back; the frame is complete with its last one. -/
def State.loopBeat (s : State) (h k : Nat) (b : TxBeat) : State :=
  let f := (if b.first then [] else (s.lane h k).loop) ++ (if b.n = 0 then b.bytes else b.bytes.take b.n)
  let at_ := if b.first then s.departNow h k else (s.lane h k).loopAt
  if b.last then (s.updLane h k (fun l => { l with loop := [] })).rxFrame h k (beatsOf f f.length false at_ 0)
  else s.updLane h k (fun l => { l with loop := f, loopAt := at_ })

/-- What a state change of the transmitter brings back with LOOPBACK: `ctl` and `b` would have left on the pads. -/
def State.looped (s : State) (h k : Nat) (send : State → State) : State :=
  if !s.is LN_CTRL.LOOPBACK (ix h k) then send s
  else if s.eplas h k then
    -- the block is the one that the lane would send without the loopback
    match ((send (s.set LN_CTRL.LOOPBACK (ix h k) false)).lane h k).out with
    | some (ctl, b) => (send s).loopBlock h k ctl b
    | none => send s
  else match (s.lane h k).tx with
    | b :: _ => (send s).loopBeat h k b
    | [] => send s

/-- A lane at a tick: at a position that has come a block leaves, unless an ALIGN or a LINK block is due there, which its command
sends; a loss of signal on the sideband takes an up lane down (R232, R247, R264). -/
def State.laneTick (s : State) (h k : Nat) : State :=
  let l := s.lane h k
  let s : State := if !(s.sending h k && s.posCome h k) then s
    else if s.ethernet h k then s.looped h k (fun s => s.sendBeat h k)
    else if l.alignDue || l.linkDue then s
    else s.looped h k (fun s => s.sendNext h k)
  let s := s.loopSyncs h k
  if s.laneUp h k && s.sbIn h k 3 then (s.goDown h k false).settle else s

/-! ## The rows -/

/-- LN_CTRL_WRITE (R226). -/
def execLnCtrlWrite (port h k : Nat) (v : Word) (s : State) : Out :=
  .next (s.byPort port h (.lnCtrlWrite port h k v) false (fun s =>
    if s.inLane h k then s.lnCtrlWrite h k v.toNat else s))

/-- LN_GROUP_WRITE (R242). -/
def execLnGroupWrite (port h k : Nat) (v : Word) (s : State) : Out :=
  .next (s.byPort port h (.lnGroupWrite port h k v) false (fun s =>
    if s.inLane h k then s.lnGroupWrite h k v.toNat else s))

/-- The receiver of a lane takes what comes from outside: not with the near-end loopback (R265). -/
def State.laneRx (s : State) (h k : Nat) : Bool := s.laneOn h k && !s.is LN_CTRL.LOOPBACK (ix h k)

/-- A control block code of R231. -/
def blockCode (c : Nat) : Bool := c == 0 || c == 1 || c == 0x10 || c == 0x11 || c == 0xE0

/-- LINK_BLOCK_RX (R231, R243, R245): a block whose CRC fails is discarded; one with an unknown code is discarded and counted. -/
def execLinkBlockRx (h k : Nat) (blk : List Byte) (s : State) : Out :=
  .next (if s.laneRx h k && s.eplas h k && (s.laneUp h k || s.lnState h k == 1) then
      if !blockCode (field blk 0 1) then s.rxDrop h k
      else if field blk 0 1 == 1 && field blk 30 2 == crc16 (blk.take 30) then (s.linkRx h k blk).settle
      else s
    else s)

/-- LINK_BLOCK_DUE (R232): at a position where an ALIGN block is due too, that one goes first. -/
def execLinkBlockDue (h k : Nat) (s : State) : Out :=
  .next (if s.sending h k && s.eplas h k && s.posCome h k && (s.lane h k).linkDue && !(s.lane h k).alignDue then
      (s.looped h k (fun s => (s.putBlock h k true (s.linkBlock h k)).updLane h k (fun l => { l with linkAt := l.sent }))).settle
    else s)

/-- ALIGN_BLOCK_DUE (R231). -/
def execAlignBlockDue (h k : Nat) (s : State) : Out :=
  .next (if s.sending h k && s.eplas h k && s.posCome h k && (s.lane h k).alignDue then
      s.looped h k (fun s => s.putBlock h k true (alignBlock h k))
    else s)

/-- AXIS_SYNC_DUE (R238). -/
def execAxisSyncDue (h k : Nat) (s : State) : Out :=
  .next (if s.laneOn h k && s.eplas h k && s.laneUp h k && s.is LN_STATUS.IN_SERVICE (ix h k) && s.is LN_SYNC_CTRL.EN (ix h k) &&
        decide ((s.lane h k).syncAt + s.syncPeriod h k ≤ s.tick) then s.syncSend h k
    else s)

/-- EPLAS_FRAME_RX (R235, R236, R251). -/
def execEplasFrameRx (h k : Nat) (bytes : List Byte) (arr : Nat) (damaged : Bool) (s : State) : Out :=
  .next (if s.laneRx h k && s.eplas h k && s.laneUp h k then
      if field bytes 0 1 = 0x10 then s.eplasRx h k bytes arr damaged
      else if blockCode (field bytes 0 1) then s
      else s.rxDrop h k
    else s)

/-- ETHERNET_FRAME_RX (R228, R251): a frame from DA to FCS. -/
def execEthernetFrameRx (h k : Nat) (bytes : List Byte) (arr : Nat) (damaged : Bool) (s : State) : Out :=
  .next (if s.laneRx h k && s.ethernet h k && s.laneUp h k && !bytes.isEmpty then
      s.rxFrame h k (beatsOf bytes bytes.length damaged arr 0)
    else s)

/-- AXIS_SYNC_FRAME_RX (R235, R239, R240), taken after t4 + 64. -/
def execAxisSyncFrameRx (h k : Nat) (bytes : List Byte) (arr : Nat) (s : State) : Out :=
  .next (if s.laneRx h k && s.eplas h k && s.laneUp h k && field bytes 0 1 == 0x11 && decide (arr + 64 < s.tick) then
      (if !hdrOk bytes then (s.rxDrop h k).set LN_FAULT.HDR_ERR (ix h k) true
       else s.syncRx h k bytes arr)
    else s)

/-- LANE_UP (R245, R247): a training ends within 200 ms, in an Eplas mode with a LINK block of the same MODE received; its job is
DONE with its RESULT as the reason (R335). Without the reference clock no lane PLL locks (R30). -/
def execLaneUp (h k : Nat) (s : State) : Out :=
  .next (if !s.laneOn h k || !s.till.refUp || (s.eplas h k && (s.lane h k).peerMode != some (s.lnMode h k)) then s
    else match (s.lane h k).training with
    | some (t, job) =>
      if trainLimit ≤ s.tick - t then s
      else
        let s := s.goUp h k
        if job = 0xFFFF then s else s.jobTo job .done 1
    | none => s)

/-- LANE_TRAIN_TIMEOUT (R245): 200 ms after the start the job ends FAILED with its RESULT; a training without a job raises
LANE_TRAIN_FAILED. -/
def execLaneTrainTimeout (h k : Nat) (result : Nat) (s : State) : Out :=
  .next (if !s.laneOn h k then s
    else match (s.lane h k).training with
    | some (t, job) =>
      if s.tick - t < trainLimit ∨ result < 2 ∨ 5 < result then s
      else
        let s := s.trainEnds h k result
        if job = 0xFFFF then s.laneChit h k 0x19 (s.trainData h k) else s.jobTo job .failed result
    | none => s)

/-- LANE_DOWN (R247). -/
def execLaneDown (h k : Nat) (cause : LaneLoss) (s : State) : Out :=
  .next (if s.laneOn h k && s.laneUp h k then (s.goDown h k (cause != .lossOfSignal)).settle else s)

/-- FEC_LIMIT_EXCEEDED (R247): FEC_LIMIT uncorrectable codewords within 8,192. -/
def execFecLimitExceeded (h k : Nat) (s : State) : Out :=
  .next (
    let lim := s.get LN_CTRL.FEC_LIMIT (ix h k)
    if s.laneOn h k && s.laneUp h k && lim != 0 && decide (lim ≤ (s.lane h k).unc.length) then (s.goDown h k).settle else s)

/-- LINK_BLOCK_TIMEOUT (R247): no LINK block for 65,536 blocks. -/
def execLinkBlockTimeout (h k : Nat) (s : State) : Out :=
  .next (if s.laneOn h k && s.laneUp h k && s.eplas h k &&
        decide (65536 * (blockTicks (s.lnMode h k)).1 ≤ (s.tick - (s.lane h k).linkRxAt) * (blockTicks (s.lnMode h k)).2) then
      (s.goDown h k).settle
    else s)

/-- FEC_CODEWORD_DECODED (R251, R256, R265). -/
def execFecCodewordDecoded (h k : Nat) (res : FecResult) (inFrame : Bool) (s : State) : Out :=
  .next (if !(s.laneOn h k && decide (1 ≤ s.lnMode h k) && decide (s.lnMode h k ≤ 6)) then s
    else
      let l := s.lane h k
      let cw := l.cw + 1
      let old := l.unc.filter (fun n => decide (cw < n + 8192))
      match res with
      | .corrected n =>
        let s := s.setLane h k { l with cw := cw, unc := old }
        if n = 0 then s else s.count LN_FEC_CORR.COUNT (ix h k)
      | .uncorrectable =>
        let s := s.setLane h k { l with cw := cw, unc := old ++ [cw] }
        let s := (s.count LN_FEC_UNCORR.COUNT (ix h k)).set LN_FAULT.FEC_UNCORR (ix h k) true
        if inFrame then s.microCause h k 0 3 else s)

/-- ACTIVITY_SIGNAL_END (R264). -/
def execActivitySignalEnd (h k : Nat) (s : State) : Out :=
  .next (match (s.lane h k).active with
    | some t =>
      if t + 2 ^ 24 ≤ s.tick then s.drives h s.tick (fun s => s.updLane h k (fun l => { l with active := none })) else s
    | none => s)

end Sys2Proof.Machine
end

