-- ==== Sys2Proof/Machine/Porter.lean ====
section
/-! DEFINITION. The porter: its threads, the microword and its phases, micro-traps, starting and stopping a thread, and the
host's writes of the control store (R248 to R259). -/

namespace Sys2Proof.Machine

/-! ## The state of a thread (R248) -/

/-- A register MRn as thread `th` names it: MR12 to MR15 are shared, and stand with thread 0. -/
def mrIx (h k th n : Nat) : Ix := ix h k (if 12 ≤ n then 0 else th) n
def State.mr (s : State) (h k th n : Nat) : Nat := s.get MR.VAL (mrIx h k th n)
def State.setMr (s : State) (h k th n v : Nat) : State := s.put MR.VAL (mrIx h k th n) v

/-- A thread changed. -/
def State.updTh (s : State) (h k th : Nat) (f : Thread → Thread) : State := s.setThread h k th (f (s.thread h k th))

/-- The present porter cycle: 1.25 ns are 20 ticks (R227). -/
def State.porterCycle (s : State) : Nat := s.tick / 20

/-- The thread can issue a word in the present porter cycle, or take a micro-trap in its place (R249, R257, R258). -/
def State.thDue (s : State) (h k th : Nat) : Bool := decide ((s.thread h k th).next ≤ s.porterCycle)

/-- The thread issues no word before `n` porter cycles have passed. -/
def State.thWait (s : State) (h k th n : Nat) : State := s.updTh h k th (fun t => { t with next := s.porterCycle + n })

/-- What a shared register held before the other thread wrote it in the present porter cycle (R250). -/
def State.wroteBy (s : State) (h k th n : Nat) : Option Nat :=
  let t := s.thread h k th
  if 12 ≤ n ∧ t.wroteAt = s.porterCycle then Tab.find t.wrote n else none

/-- A register as a word of thread `th` reads it: a thread sees the other's write of a shared register from the next porter cycle
(R250). -/
def State.mrSeen (s : State) (h k th n : Nat) : Nat := (s.wroteBy h k (1 - th) n).getD (s.mr h k th n)

/-- A word's write of a register: of two writes of a shared one in one porter cycle, thread 0's takes effect (R250). -/
def State.mrWrite (s : State) (h k th n v : Nat) : State :=
  if n < 12 then s.setMr h k th n v
  else if th = 1 ∧ (s.wroteBy h k 0 n).isSome then s
  else
    (s.setMr h k th n v).updTh h k th (fun t =>
      { t with wroteAt := s.porterCycle, wrote := Tab.set (if t.wroteAt = s.porterCycle then t.wrote else []) n (s.mr h k th n) })

/-- The state of a thread: 0 stopped, 1 running, 2 stalled, 3 in a trap routine, 4 halted. -/
def State.thState (s : State) (h k th : Nat) : Nat := s.get TH_STATE.STATE (ix h k th)
def State.thRuns (s : State) (h k th : Nat) : Bool := let x := s.thState h k th; x == 1 || x == 2 || x == 3
def State.inTrap (s : State) (h k th : Nat) : Bool := s.is TH_TRAP.ACTIVE (ix h k th)

/-- The thread runs on: in a trap routine or not. -/
def State.thGoes (s : State) (h k th : Nat) : State := s.put TH_STATE.STATE (ix h k th) (if s.inTrap h k th then 3 else 1)

/-- The thread halts with a cause (R255): the PORTER_HALT chit tells its TH_STATE. -/
def State.thHalt (s : State) (h k th cause : Nat) : State :=
  let s := (s.put TH_STATE.STATE (ix h k th) 4).put TH_STATE.HALT (ix h k th) cause
  s.hallChit h 0x1C (k <<< 1 + th) (s.rd ((ix h k th).reg .TH_STATE) % 2 ^ 32) s.tick

/-! ## Fields of the microword (R252) -/

def mNext (w : Nat) : Nat := bits w 143 134
def mSeq (w : Nat) : Nat := bits w 133 132
def mCond (w : Nat) : Nat := bits w 131 127
def mCinv (w : Nat) : Bool := bit w 126
def mSrcA (w : Nat) : Nat := bits w 125 121
def mSrcB (w : Nat) : Nat := bits w 120 116
def mDst (w : Nat) : Nat := bits w 115 111
def mAlu (w : Nat) : Nat := bits w 110 106
def mSetf (w : Nat) : Bool := bit w 105
def mBsel (w : Nat) : Nat := bits w 104 103
def mBofs (w : Nat) : Nat := bits w 102 98
def mBwid (w : Nat) : Nat := bits w 97 95
def mBmove (w : Nat) : Nat := bits w 94 91
def mRot (w : Nat) : Nat := bits w 90 86
def mCrc (w : Nat) : Nat := bits w 85 83
def mCrcSel (w : Nat) : Nat := bits w 82 81
def mStamp (w : Nat) : Nat := bits w 80 78
def mQop (w : Nat) : Nat := bits w 77 75
def mMatch (w : Nat) : Nat := bits w 74 72
def mLaneop (w : Nat) : Nat := bits w 71 69
def mLcnt (w : Nat) : Nat := bits w 68 67
def mEvt (w : Nat) : Nat := bits w 66 64
def mImm (w : Nat) : Nat := bits w 63 32
def mImm2 (w : Nat) : Nat := bits w 31 16

/-- An even register of a pair of MR registers, as a source or destination code. -/
def pairCode (c : Nat) : Bool := decide (16 ≤ c) && c % 2 == 0

/-- FIELD is read as a source, and FIELD is the destination. -/
def readsField (w : Nat) : Bool := mSrcA w == 3 || mSrcB w == 3
def writesField (w : Nat) : Bool := mDst w == 1

/-- Some field of the word works on the beat that BSEL names. -/
def usesBsel (w : Nat) : Bool :=
  readsField w || writesField w || mCond w == 13 || mCrc w == 3 || mCrc w == 4 || mCrc w == 5 || mStamp w != 0 ||
    mMatch w == 2

/-- A legal microword for thread `th` (R248, R252, R253, R258): `inTrap` tells whether TRAP_DONE has a routine to end. -/
def microLegal (w th : Nat) (inTrap : Bool) : Bool :=
  bits w 15 0 == 0 && mSrcA w != 15 && mSrcB w != 15 && (decide (mDst w ≤ 6) || decide (16 ≤ mDst w)) &&
    decide (mAlu w ≤ 11) && decide (mBsel w ≤ 2) && decide (mBwid w ≤ 3) && decide (mBmove w ≤ 7) &&
    decide (mCrc w ≤ 6) && decide (mCrcSel w ≤ 2) && decide (mStamp w ≤ 5) && decide (mQop w ≤ 4) &&
    decide (mMatch w ≤ 2) && decide (mLaneop w ≤ 5) && decide (mLcnt w ≤ 2) && decide (mEvt w ≤ 5) &&
    (!usesBsel w || (if th = 0 then mBsel w != 1 else mBsel w != 0)) &&
    (if th = 0 then mBmove w != 2 && mBmove w != 4 && mStamp w != 1 && mStamp w != 2 && mLaneop w != 2 &&
        mLaneop w != 3 && mLaneop w != 4
     else mBmove w != 1 && mBmove w != 3 && mStamp w != 3 && mStamp w != 4 && mStamp w != 5 && mLaneop w != 1 &&
        mLaneop w != 5) &&
    (mBwid w != 3 || !readsField w || mDst w == 0 || pairCode (mDst w)) &&
    (mBwid w != 3 || !writesField w || pairCode (mSrcA w)) &&
    (mEvt w != 3 || inTrap)

/-! ## CRC unit (R252, R254) -/

/-- Bytes through the CRC register by CRCSEL, each least significant bit first (R230, R254). -/
def microFeed (sel crc : Nat) (bs : List Byte) : Nat :=
  match sel with
  | 0 => bs.foldl (crcByteR 0xEDB88320) crc
  | 1 => bs.foldl (crcByteR 0x82F63B78) crc
  | _ => bs.foldl (crcByteR 0x8408) (crc % 65536)

/-- The initial value, the complement at INSERT and the residue of CHECK. -/
def crcInit (sel : Nat) : Nat := if sel = 2 then 0xFFFF else 0xFFFFFFFF
def crcOut (sel crc : Nat) : Nat := if sel = 2 then crc else crc ^^^ 0xFFFFFFFF
def crcResidue (sel : Nat) : Nat := match sel with | 0 => 0xDEBB20E3 | 1 => 0xB798B438 | _ => 0

/-! ## Sources and conditions (R253) -/

/-- The valid bytes and the flags of the beat in RXB. -/
def Thread.rxN (t : Thread) : Nat := match t.rx with | some b => b.n | none => 0
def Thread.rxFirst (t : Thread) : Bool := match t.rx with | some b => b.first | none => false
def Thread.rxLast (t : Thread) : Bool := match t.rx with | some b => b.last | none => false
def Thread.rxBad (t : Thread) : Bool := match t.rx with | some b => b.bad | none => false

/-- The beat that BSEL names: the thread's own beat or its queue beat. -/
def Thread.sel (t : Thread) (bsel : Nat) : List Byte := if bsel = 2 then t.qb else t.beat
def Thread.setSel (t : Thread) (bsel : Nat) (bs : List Byte) : Thread :=
  if bsel = 2 then { t with qb := bs } else { t with beat := bs }

/-- FIELD read from a beat; bytes beyond the beat are free values. -/
def State.fieldOf (s : State) (bs : List Byte) (w : Nat) : Nat :=
  field (bs ++ (List.range 8).map (fun i => Config.freeByte (s.freeIx + i))) (mBofs w) (2 ^ mBwid w)

/-- LSTAT and QSTAT: the in-service mask of LSTAT is that of G, which changes once the masks agree (R244). -/
def State.lstat (s : State) (h k : Nat) : Nat :=
  s.lnState h k <<< 29 + b2n (s.lane h k).qreq <<< 28 +
    ((s.lane h k).inG.foldl (fun m j => m ||| 2 ^ s.memberIx h j) 0) <<< 24
def State.qstat (s : State) (h q : Nat) : Nat := min (s.qFilled h q) 65535 <<< 16 + min (s.qFree h q) 65535

/-- An ALU source: `fld` is the value that FIELD has for it. -/
def State.microSrc (s : State) (h k th w code fld : Nat) : Nat :=
  let t := s.thread h k th
  match code with
  | 0 => 0
  | 1 => mImm w
  | 2 => mImm2 w
  | 3 => fld % 2 ^ 32
  | 4 => s.get TH_AUX.LCNT (ix h k th)
  | 5 => s.tillNow % 2 ^ 32
  | 6 => bits s.tillNow 63 32
  | 7 => t.sent
  | 8 => t.mres
  | 9 => s.qstat h t.qsel
  | 10 => s.lstat h k
  | 11 => t.rxN
  | 12 => t.crc
  | 13 => s.get PT_PARAM.PARAM (ix h k (mImm2 w % 8))
  | 14 => t.mbox
  | 15 => 0
  | n => s.mrSeen h k th (n - 16)

/-! ## Queue operations of a thread (R254, R285, R318) -/

/-- The elements that a porter has posted for a queue and no host port has accepted yet. -/
def State.posted (s : State) (h q : Nat) : Nat :=
  (s.reqs.filter (fun r => !r.issued && r.post.any (fun p => p.2 == q) && r.hall == some h)).length

/-- A thread has posted elements that no host port has accepted yet. -/
def State.posting (s : State) (h k th : Nat) : Bool :=
  s.reqs.any (fun r => !r.issued && r.owner == .porter h k th && r.post.isSome)

/-- The posted-write buffer of a porter has room: of its 4 KiB at least 32 bytes are free (R318). -/
def State.postRoom (s : State) (h k : Nat) : Bool :=
  decide (((s.reqs.filter (fun r => !r.issued && r.write && (r.owner == .porter h k 0 || r.owner == .porter h k 1))).map
    (fun r => r.data.length)).sum + 32 ≤ 4096)

/-- The reason of a push by a thread: the result of a reserve, with the element size of 32 bytes. DESIGN CHOICE (assumption log
91): a queue that is not valid fails with QERR too. -/
def State.portPushReason (s : State) (h k th q : Nat) : Nat :=
  let r := s.postReason (.porter h k th) q
  if r = 0 ∧ s.qFree h q ≤ s.posted h q then 6 else r

/-- The micro-trap cause of a queue operation that does not succeed: QFULL, or QERR. -/
def queueCause (reason : Nat) : Nat := if reason = 6 then 4 else 7

/-- A push of QB: a reserve whose element is QB. To host memory the element is posted, and the reserve is made when a host port
accepts it. -/
def State.portPush (s : State) (h k th q : Nat) (el : List Byte) : State :=
  let n := callerNum (.porter h k th)
  if s.is Q_CFG.LOC (ix h q) then
    let a := s.qSlot h q (s.qRsvSlot h q + s.posted h q)
    (s.hostReq (.porter h k th) (some h) (h <<< 12 + 0x40 + 2 * k + th) a 32 el true 0 (some (.porter h k th, q))).1
  else
    let a := s.qSlot h q (s.qRsvSlot h q)
    ((s.granted h (9 + k) a 32).store (.hallMem h) a el).qDo h q n .reserve

/-- COMMIT and ABORT of a thread: every queue of its hall in which it has uncommitted elements, in order (R254). -/
def State.portAll (s : State) (h k th : Nat) (op : QOp) : State :=
  let n := callerNum (.porter h k th)
  forAll ((List.range 1024).filter (fun q => s.get Q_PROD.P_HOLD (ix h q) == n)) (fun q s => (s.qOp h q n op).2) s

/-- A push to the selected queue can be made now (R253). -/
def State.canPush (s : State) (h k th q : Nat) : Bool :=
  s.portPushReason h k th q == 0 && (!s.is Q_CFG.LOC (ix h q) || s.postRoom h k)

/-- The transmit buffer of 32 KiB takes one more beat (R251). -/
def State.txRoom (s : State) (h k : Nat) : Bool := decide ((s.lane h k).tx.length < 1024)

/-- A condition, on the state at the start of the word. -/
def State.microCond (s : State) (h k th w : Nat) : Bool :=
  let t := s.thread h k th
  let zcn := s.get TH_AUX.ZCN (ix h k th)
  match mCond w with
  | 0 => true
  | 1 => bit zcn 2
  | 2 => bit zcn 1
  | 3 => bit zcn 0
  | 4 => s.get TH_AUX.LCNT (ix h k th) == 0
  | 5 => !(s.lane h k).rx.isEmpty
  | 6 => t.rxFirst
  | 7 => t.rxLast
  | 8 => t.rxBad
  | 9 => s.txRoom h k
  | 10 => if th = 0 then s.canPush h k th t.qsel else s.qValid h t.qsel && s.qTakeable h t.qsel != 0
  | 11 => t.hit
  | 12 => t.crcOk
  | 13 => s.fieldOf (t.sel (mBsel w)) w % 65536 == mImm2 w
  | 14 => (s.lane h k).qreq
  | 15 => s.laneUp h k
  | _ => false

/-- The ALU in width 32. -/
def microAlu (op a b : Nat) : Alu :=
  match op with
  | 0 => logicW 32 a
  | 1 => addW 32 a b 0
  | 2 => subW 32 a b 0
  | 3 => logicW 32 (a &&& b)
  | 4 => logicW 32 (a ||| b)
  | 5 => logicW 32 (a ^^^ b)
  | 6 => shiftW .shl 32 a (b % 32)
  | 7 => shiftW .shr 32 a (b % 32)
  | 8 => logicW 32 (min a b)
  | 9 => logicW 32 (max a b)
  | 10 => logicW 32 (bits a 7 0 <<< 8 + bits a 15 8)
  | _ => logicW 32 (bits a 7 0 <<< 24 + bits a 15 8 <<< 16 + bits a 23 16 <<< 8 + bits a 31 24)

/-! ## One word (R249, R250, R255, R257) -/

/-- What a word meets before it may have effect: an illegal word or a double-bit error; a stall; a synchronous
micro-trap. -/
inductive Issue where
  | halt (cause : Nat)
  | stall
  | trap (cause : Nat)
  | go
  deriving DecidableEq, Repr

/-- The word at MPC. -/
def State.microWord (s : State) (h k th : Nat) : Nat := s.natAt (.cstore h k) (0x20 * s.get TH_STATE.MPC (ix h k th)) 18

/-- What the word of a thread meets. A pop whose element has come back proceeds with it. DESIGN CHOICE (assumption log 91): a pop
that fails otherwise takes QERR, and one of a queue whose elements are held stalls; (assumption log 141): COMMIT and ABORT stall while
elements that the thread has posted still wait for a host port. -/
def State.microCheck (s : State) (h k th w : Nat) : Issue :=
  let t := s.thread h k th
  let err := s.errorIn (.cstore h k) (0x20 * s.get TH_STATE.MPC (ix h k th)) 18
  let n := callerNum (.porter h k th)
  let q := t.qsel
  let sync (c : Nat) : Issue := if s.inTrap h k th then .halt 3 else .trap c
  if err = some true then .halt 2
  else if !microLegal w th (s.inTrap h k th) then .halt 1
  else if mLaneop w = 1 ∧ (s.lane h k).rx.isEmpty then .stall
  else if (mLaneop w = 2 ∨ mLaneop w = 3 ∨ mLaneop w = 4) ∧ !s.txRoom h k then .stall
  else if (mStamp w = 1 ∨ mStamp w = 2) ∧ (s.lane h k).depart.isNone then .stall
  else match mQop w with
  | 1 =>
    let r := s.portPushReason h k th q
    if r ≠ 0 then sync (queueCause r)
    else if s.is Q_CFG.LOC (ix h q) && !s.postRoom h k then sync 5
    else .go
  | 2 =>
    if t.popped.isSome then .go
    else if s.popHolds h q then .stall
    else
      let r := s.qReason h q n .pop [32]
      if r = 0 then (if s.popBad (.porter h k th) q [32] then sync 7 else .go)
      else if r = 7 ∨ r = 4 then .stall
      else sync 7
  | 3 | 4 => if s.posting h k th then .stall else .go
  | _ => .go

/-- A frame at the head of the receive buffer with uncorrectable data is dropped and counted (R397). -/
def State.rxClean (s : State) (h k : Nat) : State :=
  match (s.lane h k).rx with
  | b :: rest =>
    let frame := if b.last then [b] else b :: (rest.take (rest.findIdx (fun x => x.last) + 1))
    if b.first && frame.any (fun x => x.err == some true) then
      ((s.updLane h k (fun l => { l with rx := l.rx.drop frame.length })).rxDrop h k).uncorrectable h 0xC 0 true
    else s
  | [] => s

/-- The lane operation of phase 1: RXTAKE. -/
def State.microTake (s : State) (h k th w : Nat) : State :=
  if mLaneop w = 1 then
    match (s.lane h k).rx with
    | b :: rest =>
      let s := if b.err = some false then s.corrected h 11 else s
      (s.updLane h k (fun l => { l with rx := rest })).updTh h k th (fun t => { t with beat := b.bytes, rx := some b })
    | [] => s
  else s

/-- MATCH (phase 2): `a` is SRCA. DESIGN CHOICE (assumption log 93): MRES keeps its value at a miss. -/
def State.microMatch (s : State) (h k th w a : Nat) : State :=
  match mMatch w with
  | 1 =>
    let i := ix h k (a % 4096)
    let hit := s.is STREAM.VALID i
    s.updTh h k th (fun t => { t with sent := s.rd (i.reg .STREAM) % 2 ^ 32, hit := hit,
                                      mres := if hit then s.get STREAM.CLASS i else t.mres })
  | 2 =>
    let m := field ((s.thread h k th).sel (mBsel w) ++
      (List.range 8).map (fun i => Config.freeByte (s.freeIx + i))) (mBofs w) 6
    let r := (List.range 16).find? (fun n => s.is PT_MAC.VALID (ix h k n) && s.get PT_MAC.ADDR (ix h k n) == m)
    s.updTh h k th (fun t => { t with hit := r.isSome, mres := r.getD t.mres })
  | _ => s

/-- The CRC feeds, INIT and CHECK (phase 2). -/
def microCrc (w : Nat) (t : Thread) : Thread :=
  let sel := mCrcSel w
  match mCrc w with
  | 1 => { t with crc := crcInit sel }
  | 2 => { t with crc := microFeed sel t.crc t.beat }
  | 3 => { t with crc := microFeed sel t.crc ((t.sel (mBsel w)).drop (mBofs w)) }
  | 4 => { t with crc := microFeed sel t.crc ((t.sel (mBsel w)).take (mBofs w)) }
  | 6 => { t with crcOk := t.crc == crcResidue sel }
  | _ => t

/-- BMOVE (phase 3). Thread 0 moves from RXB to QB, thread 1 from QB to TXB. -/
def microMove (w th : Nat) (t : Thread) : Thread :=
  let src := if th = 0 then t.beat else t.qb
  let put (bs : List Byte) : Thread := if th = 0 then { t with qb := bs } else { t with beat := bs }
  match mBmove w with
  | 1 | 2 => put src
  | 3 | 4 => { (put (((t.carry ++ src).drop (mRot w)).take 32)) with carry := src }
  | 5 => put (padTo 32 (t.carry.drop (mRot w)))
  | 6 => put (List.replicate 32 0)
  | 7 => { t with carry := src }
  | _ => t

/-- CRC INSERT and STAMP (phase 4). -/
def State.microStamp (s : State) (h k th w : Nat) : State :=
  let t := s.thread h k th
  let t := if mCrc w = 5 then
      t.setSel (mBsel w) (putBytes (t.sel (mBsel w)) (mBofs w) (toBytes 4 (crcOut (mCrcSel w) t.crc)))
    else t
  let put (v : Nat) : Thread := t.setSel (mBsel w) (putBytes (t.sel (mBsel w)) (mBofs w) (toBytes 8 v))
  let d := (s.lane h k).depart.getD 0
  let arr := match t.rx with | some b => b.arr | none => 0
  let t := match mStamp w with
    | 1 => put d
    | 2 => put (unsg 64 (s.axisPos t.axsel d))
    | 3 => put arr
    | 4 => put (unsg 64 (s.axisPos t.axsel arr))
    | 5 =>
      let till := match t.rx with | some b => b.till | none => 0
      put (unsg 64 ((till : Int) - sgn 64 (s.rd ((ix h k).reg .LN_SYNC_OFS))))
    | _ => t
  s.setThread h k th t

/-- The DST write (phase 5): `hi` is the second word of a pair. -/
def State.microDst (s : State) (h k th w v hi : Nat) : State :=
  match mDst w with
  | 0 => s
  | 1 =>
    let bs := if mBwid w = 3 then toBytes 4 v ++ toBytes 4 hi else toBytes (2 ^ mBwid w) v
    s.updTh h k th (fun t => t.setSel (mBsel w) (putBytes (t.sel (mBsel w)) (mBofs w) bs))
  | 2 => s.updTh h k th (fun t => { t with qsel := v % 1024 })
  | 3 => s.put TH_AUX.LCNT (ix h k th) v
  | 4 => s.updTh h k th (fun t => { t with txbytes := v % 64 })
  | 5 => s.updTh h k th (fun t => { t with axsel := v % 16 })
  | 6 => s.updTh h k th (fun t => { t with evdata := v })
  | n =>
    let s := s.mrWrite h k th (n - 16) v
    if mBwid w = 3 && readsField w then s.mrWrite h k th (n - 15) hi else s

/-- The send codes of LANEOP and RXDROP (phase 6). `txb` is TXBYTES as it stood at the start of the word. -/
def State.microSend (s : State) (h k th w txb : Nat) : State :=
  let t := s.thread h k th
  let send (first last : Bool) (n : Nat) : State :=
    s.updLane h k (fun l =>
      { l with tx := l.tx ++ [{ bytes := t.beat, first, last, n }], depart := if first then none else l.depart })
  match mLaneop w with
  | 2 => send false false 0
  | 3 => send false true txb
  | 4 => send true false 0
  | 5 =>
    if t.rxLast then s
    else s.updLane h k (fun l => { l with rx := (l.rx.dropWhile (fun b => !b.last)).drop 1 })
  | _ => s

/-- The end of a trap routine (R258): the shadow set comes back. -/
def State.trapDone (s : State) (h k th : Nat) : State :=
  let i := ix h k th
  let t := s.thread h k th
  let s := s.set TH_TRAP.ACTIVE i false
  let s := (s.put TH_AUX.ZCN i t.shZcn).put TH_AUX.LCNT i t.shLcnt
  let s := forAll (List.range 12) (fun n s => s.setMr h k th n (s.get SH_MR.MR (ix h k th n))) s
  s.put TH_STATE.MPC i (s.get SH_MPC.MPC i)

/-- EVT (phase 6), but for TRAP_DONE and STOP. -/
def State.microEvt (s : State) (h k th w : Nat) : State :=
  match mEvt w with
  | 1 => s.hallEvent h (0x1A0 + k)
  | 2 => s.hallChit h 0x1B (k <<< 1 + th) ((s.thread h k th).evdata % 2 ^ 32) s.tick
  | 5 =>
    let i := ix h k (mImm2 w % 16)
    s.put PT_STAT.COUNT i (s.get PT_STAT.COUNT i + 1)
  | _ => s

/-- A word that proceeds, but for its queue operation: the six phases. `cond` and `txb` are from its start. -/
def State.microRun (s0 : State) (h k th w : Nat) : State :=
  let i := ix h k th
  let cond := s0.microCond h k th w != mCinv w
  let txb := (s0.thread h k th).txbytes
  let s := s0.microTake h k th w
  -- phase 2
  let fld := s.fieldOf ((s.thread h k th).sel (mBsel w)) w
  let a := s0.microSrc h k th w (mSrcA w) fld
  let b := s0.microSrc h k th w (mSrcB w) fld
  let r := microAlu (mAlu w) a b
  let hi := if readsField w then fld / 2 ^ 32 else if 16 ≤ mSrcA w then s0.mrSeen h k th (mSrcA w - 15) else 0
  let s := (s.microMatch h k th w a).updTh h k th (microCrc w)
  let zcn := s.get TH_AUX.ZCN i
  let s := if mSetf w then
      s.put TH_AUX.ZCN i (b2n (r.r == 0) * 4 + (match r.c with | some c => b2n c | none => b2n (bit zcn 1)) * 2 +
        b2n (msb 32 r.r))
    else s
  -- phases 3 to 5
  let s := s.updTh h k th (microMove w th)
  let s := s.microStamp h k th w
  let s := s.microDst h k th w r.r hi
  -- phase 6
  let s := s.microSend h k th w txb
  let l := s.get TH_AUX.LCNT i
  let s := match mLcnt w with
    | 1 => s.put TH_AUX.LCNT i a
    | 2 => s.put TH_AUX.LCNT i (l - 1)
    | _ => s
  let s := s.microEvt h k th w
  let mpc := s.get TH_STATE.MPC i
  let nx := match mSeq w with
    | 0 => mpc + 1
    | 1 => mNext w
    | 2 => if cond then mNext w else mpc + 1
    | _ => mNext w + (s.thread h k th).mres
  let s := s.put TH_STATE.MPC i nx
  let s := match mEvt w with
    | 3 => (s.trapDone h k th).thGoes h k th
    | 4 => (s.put TH_STATE.STATE i 0).put TH_STATE.HALT i 4
    | _ => s.thGoes h k th
  if usesBsel w && decide (32 < mBofs w + 8) then (s.freeBytes 8).2 else s

/-- The queue operation of a word (phase 6) on the state after it: QB is the one the word has left. `q` is QSEL at the start
of the word. A pop whose element has still to come leaves none. -/
def State.microQueue (s : State) (h k th w q : Nat) (popped : Option (List Byte)) : Option State :=
  match mQop w with
  | 1 => some (s.portPush h k th q (s.thread h k th).qb)
  | 2 =>
    match popped with
    | some el => some (s.updTh h k th (fun t => { t with qb := el, popped := none }))
    | none =>
      match s.qPop (.porter h k th) q (h <<< 12 + 0x40 + 2 * k + th) [32] with
      | (some (_, el), s') => some (s'.updTh h k th (fun t => { t with qb := el }))
      | (none, _) => none
  | 3 => some (s.portAll h k th .commit)
  | 4 => some (s.portAll h k th .abort)
  | _ => some s

/-- A correctable error of the control store at the address of a thread counts (R397). -/
def State.microMark (s : State) (h k th : Nat) : State :=
  match s.errorIn (.cstore h k) (0x20 * s.get TH_STATE.MPC (ix h k th)) 18 with
  | some false => s.corrected h 11
  | _ => s

/-- Thread 0 pushes to the same queue in the present porter cycle, and goes first (R250). -/
def State.yields (s : State) (h k th : Nat) : Bool :=
  let w0 := s.microWord h k 0
  th == 1 && mQop (s.microWord h k 1) == 1 && mQop w0 == 1 && (s.thread h k 0).qsel == (s.thread h k 1).qsel &&
    s.thRuns h k 0 && s.thDue h k 0 && (s.inTrap h k 0 || s.get TH_TRAP.PEND (ix h k 0) == 0) && s.microCheck h k 0 w0 == .go

/-- One attempt of a thread to issue its word. The next one is due in the next porter cycle, after TRAP_DONE in the one after; a
synchronous micro-trap is taken in this cycle still. -/
def State.micro (s : State) (h k th : Nat) : State :=
  let w := s.microWord h k th
  let i := ix h k th
  let s := s.microMark h k th
  let s := if mLaneop w = 1 then s.rxClean h k else s
  match s.microCheck h k th w with
  | .halt c => (if c = 2 then s.uncorrectable h 0xD (0x20 * s.get TH_STATE.MPC i) true else s).thHalt h k th c
  | .stall => (s.put TH_STATE.STATE i 2).thWait h k th 1
  | .trap c => s.microCause h k th c
  | .go =>
    let q := (s.thread h k th).qsel
    match (s.microRun h k th w).microQueue h k th w q (s.thread h k th).popped with
    | some s' => s'.thWait h k th (if mEvt w = 3 then 2 else 1)
    | none =>
      -- the element of a host-memory queue is still to come: the request stands and the word stalls
      let s := if mQop w = 2 then (s.qPop (.porter h k th) q (h <<< 12 + 0x40 + 2 * k + th) [32]).2 else s
      (s.put TH_STATE.STATE i 2).thWait h k th 1

/-- The cause that a boundary takes: a synchronous one first, then the lowest-numbered. -/
def microNext (pend : Nat) : Option Nat := ([4, 5, 7, 0, 1, 2, 3, 6]).find? (fun c => bit pend c)

/-- A micro-trap is taken (R257): the shadow set is copied, and the routine follows two porter cycles later. -/
def State.microEnter (s : State) (h k th c : Nat) : State :=
  let i := ix h k th
  let s := s.clrIn TH_TRAP.PEND i (2 ^ c)
  let s := (s.put TH_TRAP.CAUSE i c).set TH_TRAP.ACTIVE i true
  let s := s.put SH_MPC.MPC i (s.get TH_STATE.MPC i)
  let s := forAll (List.range 12) (fun n s => s.put SH_MR.MR (ix h k th n) (s.mr h k th n)) s
  let s := s.updTh h k th (fun t => { t with shZcn := s.get TH_AUX.ZCN i, shLcnt := s.get TH_AUX.LCNT i })
  ((s.put TH_STATE.MPC i (0x3C0 + 8 * c)).thGoes h k th).thWait h k th 2

/-! ## Starting and stopping (R259) -/

/-- A thread starts at an address. -/
def State.thStart (s : State) (h k th mpc : Nat) : State :=
  let i := ix h k th
  let s := ((s.put TH_STATE.STATE i 1).put TH_STATE.HALT i 0).put TH_STATE.MPC i mpc
  s.set TH_TRAP.ACTIVE i false

/-- A thread goes on where it stopped, in its trap routine if it was in one (R261). -/
def State.thResume (s : State) (h k th : Nat) : State := (s.put TH_STATE.HALT (ix h k th) 0).thGoes h k th

/-- A thread stops at its word boundary. -/
def State.thStop (s : State) (h k th : Nat) : State :=
  if s.thRuns h k th then s.put TH_STATE.STATE (ix h k th) 0 else s

/-- A write of a run bit of PT_CTRL: a start is refused while CS_VERSION is 0. -/
def State.runWrite (s : State) (h k th : Nat) (run : Bool) : State :=
  let f := if th = 0 then PT_CTRL.RX_RUN else PT_CTRL.TX_RUN
  let i := ix h k
  if run then
    if s.thRuns h k th then s.set f i true
    else if s.rd (i.reg .CS_VERSION) = 0 then s.set PT_STATUS.START_REFUSED i true
    else (s.set f i true).thStart h k th (s.get (if th = 0 then PT_ENTRY.RX_ENTRY else PT_ENTRY.TX_ENTRY) i)
  else (s.set f i false).thStop h k th

/-- A host write in the control-store window (R259). -/
def State.csWrite (s : State) (h k off v : Nat) : State :=
  let sub := off % 0x20
  let base := off - sub
  if s.thRuns h k 0 || s.thRuns h k 1 then s.set PT_STATUS.CS_REFUSED (ix h k) true
  else if sub < 0x10 then s.updLane h k (fun l => { l with csWord := Tab.set l.csWord off v })
  else if sub = 0x10 then
    let put (s : State) (o : Nat) : State :=
      match Tab.find (s.lane h k).csWord (base + o) with
      | some x => s.storeNat (.cstore h k) (base + o) 4 x
      | none => s
    let s := [0, 4, 8, 12].foldl put s
    let s := s.storeNat (.cstore h k) (base + 16) 2 (v % 65536)
    s.updLane h k (fun l => { l with csWord := Tab.delIf l.csWord (fun o => o / 0x20 == off / 0x20) })
  else s

/-- A write of PT_MBOX (R256). -/
def State.mboxWrite (s : State) (h k v : Nat) : State :=
  let s := forAll [0, 1] (fun th s => s.updTh h k th (fun t => { t with mbox := v % 2 ^ 32 })) s
  s.microCause h k (bits v 31 31) 6

/-! ## The rows -/

/-- MICROWORD (R249): the thread runs, a porter cycle has come in which it issues, and no micro-trap is to be taken first. -/
def execMicroword (h k th : Nat) (s : State) : Out :=
  .next (if s.laneOn h k && decide (th < 2) && s.thRuns h k th && s.thDue h k th &&
      (s.inTrap h k th || s.get TH_TRAP.PEND (ix h k th) == 0) && !s.yields h k th then s.micro h k th
    else s)

/-- MICRO_TRAP_ENTRY (R257). -/
def execMicroTrapEntry (h k th : Nat) (s : State) : Out :=
  .next (if s.laneOn h k && decide (th < 2) && s.thRuns h k th && s.thDue h k th && !s.inTrap h k th then
      (match microNext (s.get TH_TRAP.PEND (ix h k th)) with
       | some c => s.microEnter h k th c
       | none => s)
    else s)

/-- PT_MBOX_WRITE (R256). -/
def execPtMboxWrite (port h k : Nat) (v : Word) (s : State) : Out :=
  .next (s.byPort port h (.ptMboxWrite port h k v) false (fun s =>
    if s.inLane h k then s.mboxWrite h k v.toNat else s))

/-- TX_RUN (R259). -/
def execTxRun (port h k : Nat) (run : Bool) (s : State) : Out :=
  .next (s.byPort port h (.txRun port h k run) false (fun s =>
    if s.inLane h k then s.runWrite h k 1 run else s))

/-- RX_RUN (R259). -/
def execRxRun (port h k : Nat) (run : Bool) (s : State) : Out :=
  .next (s.byPort port h (.rxRun port h k run) false (fun s =>
    if s.inLane h k then s.runWrite h k 0 run else s))

/-- CONTROL_STORE_WRITE (R259): `off` counts from the start of the control store. -/
def execControlStoreWrite (port h k : Nat) (off : Nat) (v : Word) (s : State) : Out :=
  .next (s.byPort port h (.controlStoreWrite port h k off v) (s.inLane h k && s.clearing) (fun s =>
    if s.inLane h k then s.csWrite h k off v.toNat else s))

end Sys2Proof.Machine
end

