-- ==== Sys2Proof/Machine/Carts.lean ====
section
/-! DEFINITION. Cart engines (R291 to R314): channels, descriptors and their checks, bursts, queues as endpoints,
completion and reports, abort, pause and CART_HALT. -/

namespace Sys2Proof.Machine

/-! ## Channels -/

/-- A channel, and its hall's buffer. -/
def State.chan (s : State) (h c : Nat) : Chan := Tab.get s.chans (h, c) {}
def State.setChan (s : State) (h c : Nat) (a : Chan) : State := { s with chans := Tab.set s.chans (h, c) a }
def State.fifo (s : State) (h : Nat) : List Slot := Tab.get s.slots h []
def State.setFifo (s : State) (h : Nat) (l : List Slot) : State := { s with slots := Tab.set s.slots h l }

/-- The slots that a channel has filled. -/
def State.filled (s : State) (h c : Nat) : List Slot := (s.fifo h).filter (fun x => x.c == c)

/-- CH_STATUS.STATE follows the channel: IDLE, LOADING, RUNNING, WAITING, PAUSED, ABORTING. -/
def State.showChan (s : State) (h c : Nat) : State :=
  let a := s.chan h c
  let paused := s.is CH_CTRL.PAUSE (ix h c) && (s.filled h c).isEmpty && a.reading.isNone
  s.put CH_STATUS.STATE (ix h c)
    (if !a.act then 0 else if a.aborting then 5 else if paused then 4 else if a.waitsSrc || a.waitsDst then 3 else if a.load.isSome then 1
     else 2)

/-- A channel changed, with its state shown. -/
def State.updChan (s : State) (h c : Nat) (f : Chan → Chan) : State := (s.setChan h c (f (s.chan h c))).showChan h c

/-- Master numbers of the read engine and the write engine, and the stream of a channel (R291, R317). -/
def readEngine (h : Nat) : Nat := 0x4800 + 0x100 * h
def writeEngine (h : Nat) : Nat := 0x4801 + 0x100 * h
def cartStream (h c : Nat) : Nat := h <<< 12 + c

/-! ## Fields of DFLAGS (R295) -/

def Desc.dwin (d : Desc) : Nat := bits d.flags 26 24
def Desc.swin (d : Desc) : Nat := bits d.flags 22 20
def Desc.nextHost (d : Desc) : Bool := bit d.flags 15
def Desc.isLast (d : Desc) : Bool := bit d.flags 14
def Desc.irq (d : Desc) : Bool := bit d.flags 13
def Desc.barrier (d : Desc) : Bool := bit d.flags 12
def Desc.crcAppend (d : Desc) : Bool := bit d.flags 11
def Desc.crcCont (d : Desc) : Bool := bit d.flags 10
def Desc.crc16 (d : Desc) : Bool := bit d.flags 9
def Desc.crcEn (d : Desc) : Bool := bit d.flags 8
def Desc.dstQ (d : Desc) : Bool := bit d.flags 3
def Desc.srcQ (d : Desc) : Bool := bit d.flags 2
def Desc.dstHost (d : Desc) : Bool := bit d.flags 1
def Desc.srcHost (d : Desc) : Bool := bit d.flags 0

/-- The queues of a descriptor's endpoints. -/
def Desc.srcQueue (d : Desc) : Option Nat := if d.srcQ then some (d.src % 1024) else none
def Desc.dstQueue (d : Desc) : Option Nat := if d.dstQ then some (d.dst % 1024) else none

/-! ## The CRC of a descriptor (R306) -/

/-- Its initial value, and bytes through it. -/
def Desc.crcInit (d : Desc) : Nat := if d.crc16 then 0xFFFF else 0xFFFFFFFF
def Desc.crcFeed (d : Desc) (crc : Nat) (bs : List Byte) : Nat :=
  if d.crc16 then bs.foldl crc16Byte (crc % 65536) else crc32cRaw crc bs

/-! ## Ends and reports (R305, R313) -/

/-- The status record of a report. -/
def CartReport.bytes (r : CartReport) (c till : Nat) : List Byte :=
  toBytes 4 (r.status + c <<< 8) ++ toBytes 4 r.residue ++ toBytes 4 r.crc ++ toBytes 4 r.dcount ++ toBytes 8 r.cur ++
    toBytes 8 till

/-- What the end of a channel means for its CART_JOB (R333). -/
def State.cartJobEnds (s : State) (job status : Nat) : State :=
  match s.job job with
  | none => s
  | some j =>
    if j.state.ended then s
    else if status = 1 ∨ status = 2 then s.jobTo job .done
    else if status = 3 ∧ j.cancelPend then s.jobTo job .cancelled
    else s.jobTo job .failed status

/-- The hall event and the chit of a report, and the end of the channel where the report tells one (R305). -/
def State.announce (s : State) (h c : Nat) (r : CartReport) : State :=
  let i := ix h c
  let job := r.job
  let good := r.status == 1 || r.status == 2
  let s := s.hallEvent h (0x180 + c)
  let s := if good && !s.is CH_CTRL.CHIT_EN i then s
    else s.raiseOn (s.get CH_CTRL.CHIT_RING i) ⟨if good then 0x14 else 0x15, h <<< 13 + c, job, 0⟩
      (r.status + c <<< 8 + r.residue <<< 32) s.tick
  if !r.ends then s
  else
    let s := (s.put CH_STATUS.STATUS i r.status).put CH_RESIDUE.RESIDUE i r.residue
    -- earlier descriptors without BARRIER may still wait for their acknowledgements
    let s := s.updChan h c (fun a => { credit := a.credit, creditAt := a.creditAt, seq := a.seq, chain := a.chain, out := a.out, fins := a.fins })
    if job = 0 then s else s.cartJobEnds job r.status

/-- A report begins: with SWB_EN the status record is written first, and its acknowledgement comes with a command of its
own; true when the report is made at once. -/
def State.startReport (s : State) (h c : Nat) (r : CartReport) : State × Bool :=
  if s.is CH_CTRL.SWB_EN (ix h c) then
    ((s.granted h 14 (s.get CH_SADDR.ADDR (ix h c) * 32) 32).store (.hallMem h) (s.get CH_SADDR.ADDR (ix h c) * 32) (r.bytes c s.tillNow), false)
  else (s.announce h c r, true)

/-! ## Queue endpoints (R301, R307) -/

/-- What a channel holds of its queues for the descriptor at hand is withdrawn: takes returned, reservations aborted, and the
element of the descriptor queue returned; with `all`, what finished descriptors still hold too. -/
def State.cartWithdraw (s : State) (h c : Nat) (all : Bool) : State :=
  let a := s.chan h c
  let s := match a.desc.bind Desc.srcQueue with
    | some q => if a.taken.isEmpty then s else (s.qOp h q (readEngine h) .ret).2
    | none => s
  let s := match a.desc.bind Desc.dstQueue with
    | some q => if a.rsvd.isEmpty then s else (s.qOp h q (writeEngine h) .abort).2
    | none => s
  let s := if a.dqHeld then (s.qOp h (s.get CH_CTRL.DQ (ix h c)) (readEngine h) .ret).2 else s
  let s := if all then forAll a.fins (fun f s =>
      let s := match f.src with | some q => (s.qOp h q (readEngine h) .ret).2 | none => s
      match f.dst with | some q => (s.qOp h q (writeEngine h) .abort).2 | none => s) s
    else s
  s.updChan h c (fun a => { a with
    taken := [], rsvd := [], dqHeld := false
    fins := if all then a.fins.map (fun f => { f with src := none, dst := none }) else a.fins })

/-- The bytes of the present descriptor that are not written. -/
def Chan.residue (a : Chan) : Nat := match a.desc with | some d => d.cnt - a.wr | none => 0

/-- The end that the channel has come to and not yet reported. -/
def Chan.endReport (a : Chan) : Option CartReport := (a.fins.filterMap Fin.report).find? CartReport.ends

/-- What CART_HALT leaves of the finished descriptors: the records on their way of completions that do not end the channel. The
acknowledgements that the others wait for do not come (R309), and the channel ends with HALTED alone (R311). -/
def Chan.halted (a : Chan) : List Fin := a.fins.filter (fun f => f.wrote && !(match f.report with | some r => r.ends | none => false))

/-- What another error end leaves of them: all but the descriptor at hand, which with BARRIER waits among them. -/
def Chan.unfinished (a : Chan) : List Fin := a.fins.filter (fun f => f.wrote || !(f.gate && a.desc.isSome && f.seq == a.seq))

/-- Requests that wait for a tag are given up. -/
def State.dropReqs (s : State) (p : HostReq → Bool) : State := { s with reqs := s.reqs.filter (fun q => q.issued || !p q) }

/-- The burst whose write has begun is finished, whatever becomes of its channel (R307). -/
def State.endWriting (s : State) (h c : Nat) : State :=
  match (s.chan h c).writing, (s.filled h c).head? with
  | some ids, some x => (s.setFifo h ((s.fifo h).erase x)).updChan h c (fun a =>
      { a with writing := none, wr := x.off + x.data.length, out := a.out ++ [(a.seq, ids)] })
  | _, _ => s

/-- The channel ends with an error status: its slots are discarded, its queue operations withdrawn, its residue written, and the
end is reported, after the acknowledgement of the descriptor's own writes (R299, R304, R307). With HALTED it ends at once, and its
bursts in flight are discarded (R309); so does an abort of a channel that waits or is paused, unless a status record has to wait for
those writes (R304, R307). Reports of earlier descriptors stand. DESIGN CHOICE (assumption log 127): the record shows the CRC over
the bytes read so far, and CH_CRC stays. -/
def State.cartError (s : State) (h c status : Nat) : State :=
  let i := ix h c
  let halted := status == 8
  let still := s.get CH_STATUS.STATE i == 3 || s.get CH_STATUS.STATE i == 4
  let s := if halted then s else s.endWriting h c
  let a := s.chan h c
  let s := s.setFifo h ((s.fifo h).filter (fun x => x.c != c))
  let s := s.dropReqs (fun q => ((a.reading.map Prod.snd).getD []).contains q.id)
  let s := s.cartWithdraw h c halted
  -- a channel that has come to its end and not reported it has no descriptor at hand
  let was := if a.desc.isNone then a.endReport else none
  let residue := match was with | some r => r.residue | none => a.residue
  let s := s.put CH_RESIDUE.RESIDUE i residue
  let s : State := if halted then
      { s.dropReqs (fun q => q.owner == HostOwner.cart h c) with arrived := s.arrived.filter (fun x => x.req.owner != HostOwner.cart h c) }
    else s
  let crc := match a.desc, was with
    | some d, _ => if d.crcEn then a.crc else 0
    | none, some r => r.crc
    | none, none => 0
  let r : CartReport := ⟨status, residue, crc, s.get CH_DCOUNT.COUNT i, s.get CH_CUR.ADDR i, a.job, true⟩
  let f : Fin := ⟨a.seq, false, a.chain, none, none, some r, false⟩
  let s := s.updChan h c (fun a =>
    { a with load := none, desc := none, waitsSrc := false, waitsDst := false, reading := none, writing := none,
             out := if halted then [] else a.out, fins := if halted then a.halted else a.unfinished, ended := true, aborting := true })
  let waits := !halted && a.out.any (fun o => o.1 == a.seq) && !(status == 3 && still && !s.is CH_CTRL.SWB_EN i)
  if waits then s.updChan h c (fun a => { a with fins := a.fins ++ [f] })
  else
    let (s', made) := s.startReport h c r
    if made then s' else s'.updChan h c (fun a => { a with fins := a.fins.filter Fin.wrote ++ { f with wrote := true } :: a.fins.filter (fun f => !f.wrote) })

/-! ## Progress of finished descriptors (R302 to R305) -/

/-- The burst writes that a finished descriptor waits for have been acknowledged: its own, and with BARRIER those of the
descriptors before it in its chain. -/
def Chan.acked (a : Chan) (f : Fin) : Bool :=
  a.out.all (fun o => if f.gate then decide (o.1 < f.chain) || decide (f.seq < o.1) else o.1 != f.seq)

/-- After a chain whose head came from the descriptor queue: the element is marked done and the next one is taken
(R297). -/
def State.nextChain (s : State) (h c : Nat) : State :=
  let a := s.chan h c
  if s.is CH_CTRL.DQ_EN (ix h c) && a.act && a.ended && !a.aborting then
    let (r, s) := if a.dqHeld then s.qOp h (s.get CH_CTRL.DQ (ix h c)) (readEngine h) .done else (0, s)
    if r ≠ 0 then (s.updChan h c (fun a => { a with dqHeld := false })).cartError h c 7
    else s.updChan h c (fun a => { a with dqHeld := false, ended := false, load := some .dq, chain := a.seq + 1 })
  else s

/-- The descriptor at the head of the list counts as complete, or its gate opens: the next one of the chain loads. -/
def State.goOn (s : State) (h c : Nat) (d : Desc) : State :=
  if d.isLast then s.updChan h c (fun a => { a with desc := none, ended := true, taken := [], rsvd := [] })
  else s.updChan h c (fun a =>
    { a with desc := none, load := some (.mem d.nextHost d.next none), taken := [], rsvd := [] })

/-- One finished descriptor whose writes are acknowledged is worked off: its queue operations, its report, and the chain that
waited for it. Without BARRIER it overtakes those whose writes are not (R304). An owner refusal ends the chain (R299). A status
record on its way goes behind those on their way before it (R305). -/
def State.finOne (s : State) (h c : Nat) : State :=
  let a := s.chan h c
  match a.fins.find? (fun f => !f.wrote && a.acked f) with
  | none => s
  | some f =>
    let s := s.updChan h c (fun a => { a with fins := a.fins.erase f })
    let (r1, s) := match f.src with | some q => s.qOp h q (readEngine h) .done | none => (0, s)
    let (r2, s) := match f.dst with | some q => s.qOp h q (writeEngine h) .commit | none => (0, s)
    if (r1 ≠ 0 ∨ r2 ≠ 0) ∧ a.act then s.cartError h c 7
    else
      let s := if f.gate then s.put CH_DCOUNT.COUNT (ix h c) (s.get CH_DCOUNT.COUNT (ix h c) + 1) else s
      let s := if f.gate then (match a.desc with | some d => s.goOn h c d | none => s) else s
      match f.report with
      | none => s
      | some r =>
        let r := if f.gate then { r with dcount := s.get CH_DCOUNT.COUNT (ix h c) } else r
        let (s', made) := s.startReport h c r
        if made then s'.nextChain h c
        else s'.updChan h c (fun a =>
          { a with fins := a.fins.filter Fin.wrote ++ { f with src := none, dst := none, report := some r, wrote := true } ::
                     a.fins.filter (fun f => !f.wrote) })

/-- Every finished descriptor that can be worked off is. -/
def State.finAll (s : State) (h c : Nat) : State := iter (2 * (s.chan h c).fins.length) (fun s => s.finOne h c) s

/-- The last write of the present descriptor has been issued, or it has none: it joins the finished ones. Without a gate it
counts as complete now (R303). -/
def State.finish (s : State) (h c : Nat) (d : Desc) (status : Nat) : State :=
  let a := s.chan h c
  let i := ix h c
  let s := if d.crcEn && status = 1 then s.put CH_CRC.CRC i a.crc else s
  let gate := d.barrier
  let s := if gate then s else s.put CH_DCOUNT.COUNT i (s.get CH_DCOUNT.COUNT i + 1)
  let rep : Option CartReport :=
    if d.irq || d.isLast then
      some ⟨status, 0, if d.crcEn then s.get CH_CRC.CRC i else 0, s.get CH_DCOUNT.COUNT i, s.get CH_CUR.ADDR i, a.job,
        d.isLast && !s.is CH_CTRL.DQ_EN i⟩
    else none
  let empty := status = 2
  let f : Fin :=
    { seq := a.seq, gate, chain := a.chain, src := if empty then none else d.srcQueue, dst := if empty then none else d.dstQueue,
      report := rep }
  let s := s.updChan h c (fun a => { a with fins := a.fins ++ [f] })
  let s := if gate then s else s.goOn h c d
  s.finAll h c

/-! ## CART_HALT (R309) -/

/-- Every channel of the engine ends HALTED, and one CART_HALT chit is raised. -/
def State.cartHalt (s : State) (h : Nat) (write : Bool) (kind addr : Nat) (valid : Bool := true) : State :=
  let i := ix h
  let s := s.set CE_STATUS.HALT i true
  let s := s.wr (i.reg .CE_ERR_INFO) (b2n valid <<< 31 + b2n write <<< 30 + (kind % 4) <<< 28)
  let s := s.put CE_ERR_ADDR.ADDR i (if kind = 3 then 0 else addr)
  let s := forAll (List.range 32) (fun c s =>
    if (s.chan h c).act then s.cartError h c 8
    else if (s.chan h c).out.isEmpty && (s.chan h c).fins.isEmpty then s
    else ((s.cartWithdraw h c true).dropReqs (fun q => q.owner == HostOwner.cart h c)).updChan h c
      (fun a => { a with out := [], fins := a.halted })) s
  s.raiseOn (s.get CE_CTRL.HALT_RING i) ⟨0x16, h <<< 13, 0, 0⟩
    (s.rd (i.reg .CE_ERR_INFO) % 2 ^ 32 + (s.get CE_ERR_ADDR.ADDR i % 2 ^ 32) <<< 32) s.tick

/-- An uncorrectable word that an access of an engine meets in hall memory. -/
def State.cartUnc (s : State) (h : Nat) (addr : Nat) : State := (s.uncorrectable h 9 addr true).cartHalt h false 0 addr

/-! ## Starts, aborts, pauses (R307, R308, R310) -/

/-- The channel's run began in this hall cycle. -/
def State.cartBegan (s : State) (a : Chan) : Bool := a.act && a.begun == some (s.tick / s.hallCycle)

/-- A start of a channel, for a job or none: accepted while it is IDLE and the engine is not halted. One that meets the start of
the same hall cycle makes one start with it; a job starts only an IDLE channel (R333). -/
def State.cartBegin (s : State) (h c job : Nat) : State × Bool :=
  let i := ix h c
  let a := s.chan h c
  if s.is CE_STATUS.HALT (ix h) then (s.set CH_STATUS.START_BUSY i true, false)
  else if s.cartBegan a && job == 0 then (s, true)
  else if a.act then (s.set CH_STATUS.START_BUSY i true, false)
  else
    let s := (s.put CH_RESIDUE.RESIDUE i 0).put CH_STATUS.STATUS i 0
    let l : CartLoad := if s.is CH_CTRL.DQ_EN i then .dq else .reg
    (s.updChan h c (fun a => { act := true, job := job, load := some l, credit := a.credit, creditAt := a.creditAt, seq := a.seq,
                               chain := a.seq + 1, out := a.out, fins := a.fins, begun := some (s.tick / s.hallCycle) }), true)

/-- An abort: nothing more is read, and the end is reported once the writes of the descriptor are acknowledged. -/
def State.cartAbortNow (s : State) (h c : Nat) : State :=
  let a := s.chan h c
  if !a.act || a.aborting then s
  -- the completion of the chain's last descriptor stands, unless the channel would go on from its descriptor queue
  else if a.ended && !s.is CH_CTRL.DQ_EN (ix h c) then s
  else
    s.cartError h c 3

/-- The last descriptor of a chain has been read and is about to be written whole. -/
def State.mayComplete (s : State) (h c : Nat) : Bool :=
  let a := s.chan h c
  match a.desc with
  | some d => d.isLast && !s.is CH_CTRL.DQ_EN (ix h c) && a.rd == d.cnt && decide ((s.filled h c).length ≤ 1)
  | none => false

/-- An abort: it loses against a completion of the chain's last descriptor in the same hall cycle, so where that may still come it
takes effect at the end of the cycle (R311). -/
def State.cartAbort (s : State) (h c : Nat) : State :=
  if (s.chan h c).act && s.mayComplete h c then s.atEdge h (s.tick + 1) (.abort c (s.chan h c).seq) else s.cartAbortNow h c

/-- What a hall does at a clock edge of its own (R47, R143, R211, R311). A start that meets a running channel sets CART_BUSY in its
mark (R50). -/
def State.edgeDo (s : State) (e : EdgeAct) : State :=
  match e.act with
  | .bell n => s.ringHall e.h n e.due
  | .devBell n => s.ringDev n e.due
  | .event num => s.hallEvent e.h num
  | .cart m ch =>
    let busy := (s.chan e.h ch).act
    let (s, ok) := s.cartBegin e.h ch 0
    if busy && !ok then s.set TM_STATUS.CART_BUSY (ix e.h m) true else s
  | .abort ch seq => if (s.chan e.h ch).seq = seq then s.cartAbortNow e.h ch else s

/-- What the halls do at the clock edges that have come. -/
def State.runEdges (s : State) : State :=
  forAll (s.edgeActs.filter (fun e => decide (e.due ≤ s.tick))) (fun e s => s.edgeDo e)
    { s with edgeActs := s.edgeActs.filter (fun e => decide (s.tick < e.due)) }

/-- PAUSE written. A CART_JOB whose suspend is pending is SUSPENDED once STATE reads PAUSED (R335). -/
def State.cartPause (s : State) (h c : Nat) (on : Bool) : State := (s.set CH_CTRL.PAUSE (ix h c) on).showChan h c

/-- The suspend of the channel's job takes effect when the channel reads PAUSED. -/
def State.cartSuspended (s : State) (h c : Nat) : State :=
  let a := s.chan h c
  match s.job a.job with
  | some j =>
    if a.act && a.job != 0 && j.suspPend && j.state == .running && s.get CH_STATUS.STATE (ix h c) == 4 then
      s.jobTo a.job .suspended
    else s
  | none => s

/-! ## Loading a descriptor (R296 to R300) -/

/-- The descriptor that 32 bytes spell. -/
def descOf (bs : List Byte) : Desc := ⟨field bs 0 8, field bs 8 8, field bs 16 4, field bs 20 4, field bs 24 8⟩

/-- The register descriptor. -/
def State.regDesc (s : State) (h c : Nat) : Desc :=
  let i := ix h c
  ⟨s.get CH_SRC.SRC i, s.get CH_DST.DST i, s.get CH_CNT.CNT i, s.get CH_FLAGS.DFLAGS i, s.get CH_NEXT.NEXT i⟩

/-- Check 1: zero fields, NEXT, CRC_APPEND. -/
def Desc.wellFormed (d : Desc) : Bool :=
  d.src / 2 ^ 52 == 0 && d.dst / 2 ^ 52 == 0 && d.cnt / 2 ^ 24 == 0 && d.next / 2 ^ 52 == 0 && bits d.flags 31 27 == 0 &&
    !bit d.flags 23 && bits d.flags 19 16 == 0 && bits d.flags 7 4 == 0 && (!d.srcQ || d.src / 1024 == 0) &&
    (!d.dstQ || d.dst / 1024 == 0) && !(d.dstQ && d.dstHost) && !(d.srcQ && d.srcHost) && (d.isLast || d.next % 32 == 0) &&
    (!d.crcAppend || (d.crcEn && !d.dstQ))

/-- Check 2: alignment. -/
def Desc.aligned (d : Desc) : Bool := (d.srcQ || d.src % 8 == 0) && (d.dstQ || d.dst % 8 == 0) && d.cnt % 8 == 0

/-- Check 4: a queue endpoint. -/
def State.queueFits (s : State) (h q cnt : Nat) : Bool :=
  let es := s.qElem h q
  s.qValid h q && decide (8 ≤ es) && cnt % es == 0 && decide (cnt / es ≤ s.qCap h q) && decide (cnt / es ≤ 65535)

/-- Check 5: a range in a window. -/
def State.inWindow (s : State) (h w : Nat) (host : Bool) (first last : Nat) : Bool :=
  let i := ix h w
  s.is CE_WIN_BASE.EN i && s.is CE_WIN_BASE.LOC i == host && decide (s.get CE_WIN_BASE.BASE i ≤ first) &&
    decide (last ≤ s.get CE_WIN_LAST.LAST i)

/-- The status of the first check that fails; 2 for EMPTY and 0 for a descriptor that may run (R299). -/
def State.descCheck (s : State) (h : Nat) (d : Desc) : Nat :=
  if !d.wellFormed then 6
  else if !d.aligned then 4
  else if d.cnt = 0 then 2
  else if !((d.srcQueue.map (fun q => s.queueFits h q d.cnt)).getD true &&
      (d.dstQueue.map (fun q => s.queueFits h q d.cnt)).getD true) then 7
  else if !((d.srcQ || s.inWindow h d.swin d.srcHost d.src (d.src + d.cnt - 1)) &&
      (d.dstQ || s.inWindow h d.dwin d.dstHost d.dst (d.dst + d.cnt - 1 + (if d.crcAppend then 8 else 0)))) then 5
  else 0

/-- A descriptor loaded: the checks, and then it runs, completes empty, or ends the chain. -/
def State.runDesc (s : State) (h c : Nat) (d : Desc) (cur : Nat) : State :=
  let i := ix h c
  let s := s.put CH_CUR.ADDR i cur
  let crc := if d.crcCont then s.get CH_CRC.CRC i else d.crcInit
  let s := s.updChan h c (fun a =>
    { a with load := none, desc := some d, seq := a.seq + 1, rd := 0, wr := 0, crc := crc, taken := [],
             rsvd := [], waitsSrc := false, waitsDst := false })
  match s.descCheck h d with
  | 0 => s
  | 2 => ((if d.crcEn then s.put CH_CRC.CRC i crc else s)).finish h c d 2
  | st => s.cartError h c st

/-- A read of the read engine in hall memory of `n` bytes at `addr`, with what the memory answers: none where it halts the engine. A
read that met HM_BUSY is made again once and counted (R312); one that met the collision on port A gets undefined bytes of the words
that collided (R268). -/
def State.engineRead (s : State) (h addr n : Nat) (o : MemOutcome) : Option (List Byte) × State :=
  let s := s.granted h 13 addr n
  let e := s.errorIn (.hallMem h) addr n
  if e = some true ∨ o = .hallError then (none, s.cartUnc h addr)
  else
    let s := if e = some false then s.corrected h 9 else s
    let bs := s.bytesAt (.hallMem h) addr n
    match o with
    | .collide _ => (some bs, (s.count CE_HMBUSY.COUNT (ix h)).granted h 13 addr n)
    | .collideA m => (some (s.collided m addr bs).1, (s.collided m addr bs).2)
    | _ => (some bs, s)

/-- The fetch of a descriptor from memory. -/
def State.loadMem (s : State) (h c : Nat) (host : Bool) (addr : Nat) (req : Option Nat) (o : MemOutcome) : State :=
  if host then
    match req with
    | none =>
      let (s, id) := s.hostReq (.cart h c) (some h) (cartStream h c) addr 32
      s.updChan h c (fun a => { a with load := some (.mem true addr (some id)) })
    | some id =>
      match s.answerOf id with
      | some (.data bs) => (s.takeAnswer id).runDesc h c (descOf bs) addr
      | _ => s
  else if 0x400000 < addr + 32 then s.cartHalt h false 0 addr
  else match s.engineRead h addr 32 o with
    | (some bs, s) => s.runDesc h c (descOf bs) addr
    | (none, s) => s

/-- A take from the descriptor queue: one element of 32 bytes, the head of a chain (R297). -/
def State.loadDq (s : State) (h c : Nat) : State :=
  let q := s.get CH_CTRL.DQ (ix h c)
  if s.popHolds h q then s
  else
    let slot := s.qTakeSlot h q
    let (r, s') := s.qOp h q (readEngine h) .take
    if r = 7 then s.updChan h c (fun a => { a with waitsSrc := true })
    else if r ≠ 0 ∨ s.qElem h q ≠ 32 then
      (if r = 0 then s'.updChan h c (fun a => { a with dqHeld := true }) else s).cartError h c 7
    else
      let addr := s.qSlot h q slot
      let host := s.is Q_CFG.LOC (ix h q)
      s'.updChan h c (fun a => { a with dqHeld := true, waitsSrc := false, load := some (.mem host addr none) })

/-- One step of loading the next descriptor. -/
def State.cartLoad (s : State) (h c : Nat) (o : MemOutcome) : State :=
  match (s.chan h c).load with
  | none => s
  | some .reg => s.runDesc h c (s.regDesc h c) 0xFFFFFFFFFFFFF
  | some (.mem host addr req) => s.loadMem h c host addr req o
  | some .dq =>
    let s := s.loadDq h c
    -- an element in hall memory is read in the same step
    match (s.chan h c).load with
    | some (.mem false addr req) => s.loadMem h c false addr req o
    | _ => s

/-! ## Elements of queue endpoints (R301) -/

/-- A finished descriptor still holds elements of a queue, so the next one takes none yet. -/
def Chan.holds (a : Chan) (q : Nat) : Bool := a.fins.any (fun f => f.src == some q || f.dst == some q)

/-- One take for a queue source: an element while fewer than E are held; none while the channel is paused (R308). -/
def State.cartTake (s : State) (h c : Nat) : State :=
  let a := s.chan h c
  match a.desc with
  | none => s
  | some d =>
    match d.srcQueue with
    | none => s
    | some q =>
      if a.aborting || a.holds q || s.is CH_CTRL.PAUSE (ix h c) || s.popHolds h q || decide (d.cnt / s.qElem h q ≤ a.taken.length) then s
      else
        let slot := s.qTakeSlot h q
        let (r, s') := s.qOp h q (readEngine h) .take
        if r = 0 then s'.updChan h c (fun a => { a with taken := a.taken ++ [slot], waitsSrc := false })
        else if r = 7 then s.updChan h c (fun a => { a with waitsSrc := true })
        else s.cartError h c 7

/-- One reserve for a queue destination; a paused channel reserves only for bursts that it holds (R308). -/
def State.cartReserve (s : State) (h c : Nat) : State :=
  let a := s.chan h c
  match a.desc with
  | none => s
  | some d =>
    match d.dstQueue with
    | none => s
    | some q =>
      if a.aborting || a.holds q || (s.is CH_CTRL.PAUSE (ix h c) && (s.filled h c).isEmpty) ||
          decide (d.cnt / s.qElem h q ≤ a.rsvd.length) then s
      else
        let slot := s.qRsvSlot h q
        let (r, s') := s.qOp h q (writeEngine h) .reserve
        if r = 0 then s'.updChan h c (fun a => { a with rsvd := a.rsvd ++ [slot], waitsDst := false })
        else if r = 6 then s.updChan h c (fun a => { a with waitsDst := true })
        else s.cartError h c 7

/-- A waiting channel retries what it waits for. -/
def State.cartRetry (s : State) (h c : Nat) : State :=
  let a := s.chan h c
  if a.load == some .dq then (if a.waitsSrc && !s.is CH_CTRL.PAUSE (ix h c) then s.cartLoad h c .ok else s)
  else
    let s := if a.waitsSrc then s.cartTake h c else s
    if a.waitsDst then s.cartReserve h c else s

/-! ## Bursts (R292, R293, R302, R312) -/

/-- The credit of a channel now. -/
def State.credit (s : State) (h c : Nat) : Nat :=
  let a := s.chan h c
  min 256 (a.credit + 4 * s.get CH_CTRL.RATE (ix h c) * s.edgesIn a.creditAt s.tick)

/-- The address of the next source byte, and the bytes that follow it without a break: up to the next 256-byte boundary,
the end of the element run and the end of the descriptor. -/
def State.nextSrc (s : State) (h c : Nat) (d : Desc) : Option (Bool × Nat × Nat) :=
  let a := s.chan h c
  let left := d.cnt - a.rd
  match d.srcQueue with
  | none =>
    let ad := d.src + a.rd
    some (d.srcHost, ad, min left (256 - ad % 256))
  | some q =>
    let es := s.qElem h q
    match a.taken[a.rd / es]? with
    | none => none
    | some slot =>
      let ad := s.qSlot h q slot + a.rd % es
      -- the elements taken one after the other without a wrap of the ring
      let run := ((a.taken.drop (a.rd / es)).zip (List.range a.taken.length)).takeWhile (fun x => x.1 == slot + x.2)
      some (s.is Q_CFG.LOC (ix h q), ad, min (min left (256 - ad % 256)) (run.length * es - a.rd % es))

/-- The slot limit of a channel. -/
def State.depth (s : State) (h c : Nat) : Nat :=
  let d := s.get CH_CTRL.DEPTH (ix h c)
  if d = 0 then 16 else d

/-- The bursts of a hall that are being read from host memory; each has a slot. -/
def State.readings (s : State) (h : Nat) : Nat := ((List.range 32).filter (fun c => (s.chan h c).reading.isSome)).length

/-- A channel may read its next burst of `n` bytes: it runs, is not paused, and slots, depth and rate allow it. -/
def State.mayRead (s : State) (h c n : Nat) : Bool :=
  let a := s.chan h c
  a.act && !a.aborting && !s.is CH_CTRL.PAUSE (ix h c) && n != 0 && decide ((s.fifo h).length + s.readings h < 256) &&
    decide ((s.filled h c).length < s.depth h c) &&
    (s.get CH_CTRL.RATE (ix h c) == 0 || decide (n ≤ s.credit h c))

/-- A channel has a burst ready (R292). -/
def State.burstReady (s : State) (h c : Nat) : Bool :=
  match (s.chan h c).desc, (s.chan h c).reading with
  | some d, none =>
    match s.nextSrc h c d with
    | some (_, _, n) => s.mayRead h c n
    | none => false
  | _, _ => false

/-- The channel that the read engine serves next: the first one ready after the one served last. -/
def State.cartNext (s : State) (h : Nat) : Option Nat :=
  ((List.range 32).map (fun i => (Tab.get s.cartTurn h 31 + 1 + i) % 32)).find? (fun c => s.burstReady h c)

/-- The read engine takes a burst of `n` bytes up: the channel's turn and its credit are spent (R292, R293). -/
def State.takeTurn (s : State) (h c n : Nat) : State :=
  let left := s.credit h c - n
  let s := { s with cartTurn := Tab.set s.cartTurn h c }
  if s.get CH_CTRL.RATE (ix h c) = 0 then s else s.updChan h c (fun a => { a with credit := left, creditAt := s.tick })

/-- A change of RATE: the credit is what the old rate gave; a limit that begins starts from 256 (R293). -/
def State.settleCredit (s : State) (h c : Nat) : State :=
  let n := if s.get CH_CTRL.RATE (ix h c) = 0 then 256 else s.credit h c
  s.updChan h c (fun a => { a with credit := n, creditAt := s.tick })

/-- The burst has been read into a slot. -/
def State.fillSlot (s : State) (h c : Nat) (d : Desc) (bs : List Byte) : State :=
  let a := s.chan h c
  let s := s.setFifo h (s.fifo h ++ [{ c := c, off := a.rd, data := bs }])
  s.updChan h c (fun a =>
    { a with rd := a.rd + bs.length, crc := if d.crcEn then d.crcFeed a.crc bs else a.crc, reading := none })

/-- The requests of a range in host memory: pieces of at most 64 bytes within 64-byte blocks (R271). -/
def pieces : Nat → Nat → Nat → List (Nat × Nat)
  | 0, _, _ => []
  | f + 1, a, n => if n = 0 then [] else let k := min n (64 - a % 64); (a, k) :: pieces f (a + k) (n - k)

/-- Host reads, one for each piece. -/
def State.hostReads (s : State) (h c ad n : Nat) : State × List Nat :=
  (pieces 8 ad n).foldl (fun x p =>
    let (s, id) := x.1.hostReq (.cart h c) (some h) (cartStream h c) p.1 p.2
    (s, x.2 ++ [id])) (s, [])

/-- Host writes, one for each piece of `bs`. -/
def State.hostWrites (s : State) (h c ad : Nat) (bs : List Byte) : State × List Nat :=
  (pieces 8 ad bs.length).foldl (fun x p =>
    let (s, id) := x.1.hostReq (.cart h c) (some h) (cartStream h c) p.1 p.2 ((bs.drop (p.1 - ad)).take p.2) true
    (s, x.2 ++ [id])) (s, [])

/-- The data of host reads that have all come back. -/
def State.hostData (s : State) (ids : List Nat) : Option (List Byte) :=
  ids.foldl (fun x id =>
    match x, s.answerOf id with
    | some bs, some (.data b) => some (bs ++ b)
    | _, _ => none) (some [])

/-- One read of a burst, of the channel whose turn it is: from hall memory at once; from host memory its requests first, and then
its data, while the engine serves other channels (R292, R318). -/
def State.burstRead (s : State) (h c : Nat) (o : MemOutcome) : State :=
  let a := s.chan h c
  match a.desc, a.reading with
  | some d, some (_, ids) =>
    match s.hostData ids with
    | some bs => (forAll ids (fun id s => s.takeAnswer id) s).fillSlot h c d bs
    | none => s
  | some d, none =>
    match s.nextSrc h c d with
    | none => s
    | some (host, ad, n) =>
      if s.cartNext h != some c then s
      else if host then
        let (s, ids) := (s.takeTurn h c n).hostReads h c ad n
        s.updChan h c (fun a => { a with reading := some (n, ids) })
      else match (s.takeTurn h c n).engineRead h ad n o with
        | (some bs, s) => s.fillSlot h c d bs
        | (none, s) => s
  | none, _ => s

/-- The pieces of a burst in its destination: one range, or one for each reserved element it touches. -/
def State.destPieces (s : State) (h c : Nat) (d : Desc) (x : Slot) : Option (List (Bool × Nat × List Byte)) :=
  match d.dstQueue with
  | none => some [(d.dstHost, d.dst + x.off, x.data)]
  | some q =>
    let es := s.qElem h q
    let a := s.chan h c
    let lo := x.off / es
    let hi := (x.off + x.data.length - 1) / es
    if a.rsvd.length ≤ hi then none
    else some ((List.range (hi + 1 - lo)).map (fun k =>
      let e := lo + k
      let o := if k = 0 then x.off % es else 0
      let from_ := e * es + o - x.off
      (s.is Q_CFG.LOC (ix h q), s.qSlot h q (a.rsvd[e]?.getD 0) + o, (x.data.drop from_).take (es - o))))

/-- Every one of these requests has its tag. -/
def State.allIssued (s : State) (ids : List Nat) : Bool := ids.all (fun id => !s.reqs.any (fun q => q.id == id && !q.issued))

/-- The channel's oldest slot can be written now: its write does not wait for a tag, and its destination is reserved. -/
def State.canWrite (s : State) (h c : Nat) : Bool :=
  match (s.chan h c).desc, (s.filled h c).head?, (s.chan h c).writing with
  | some _, some _, some ids => s.allIssued ids
  | some d, some x, none => (s.destPieces h c d x).isSome
  | _, _, _ => false

/-- Writes of the write engine, each to hall memory or to host memory; the requests of the latter. -/
def State.engineWrites (s : State) (h c : Nat) (ps : List (Bool × Nat × List Byte)) : State × List Nat :=
  ps.foldl (fun (y : State × List Nat) p =>
    if p.1 then let (s, is) := y.1.hostWrites h c p.2.1 p.2.2; (s, y.2 ++ is)
    else ((y.1.granted h 14 p.2.1 p.2.2.length).store (.hallMem h) p.2.1 p.2.2, y.2)) (s, [])

/-- The write of a slot has been issued: the slot is free. -/
def State.wroteSlot (s : State) (h c : Nat) (d : Desc) (x : Slot) (ids : List Nat) : State :=
  let s := (s.setFifo h ((s.fifo h).erase x)).updChan h c (fun a =>
    { a with writing := none, wr := x.off + x.data.length, out := a.out ++ [(a.seq, ids)] })
  if (s.chan h c).wr = d.cnt then s.finish h c d 1 else s

/-- The CRC word of a descriptor goes with its last burst (R306). -/
def Chan.crcPiece (a : Chan) (d : Desc) (x : Slot) : List (Bool × Nat × List Byte) :=
  if d.crcAppend && x.off + x.data.length == d.cnt then [(d.dstHost, d.dst + d.cnt, toBytes 8 a.crc)] else []

/-- The write engine writes the oldest slot of channel c, unless an older slot of another channel can be written: slots are
written in the order in which they were filled. A burst to the host keeps its slot until every request has its tag (R318). A write
that met HM_BUSY is counted (R312); a single-bit error of the slot is corrected, a double-bit one halts the engine (R291, R309). -/
def State.burstWrite (s : State) (h c : Nat) (o : MemOutcome) : State :=
  let a := s.chan h c
  let older := (s.fifo h).takeWhile (fun x => x.c != c)
  match a.desc, (s.filled h c).head? with
  | some d, some x =>
    if older.any (fun y => s.canWrite h y.c) then s
    else match a.writing, s.destPieces h c d x with
    | some ids, _ => if s.allIssued ids then s.wroteSlot h c d x ids else s
    | none, none => s
    | none, some ps =>
      if x.err = some true then (s.uncorrectable h 0x0E 0 true).cartHalt h true 3 0
      else
        let s := if x.err = some false then s.corrected h 12 else s
        let busy := (match o with | .collide _ => true | _ => false) && ps.any (fun p => !p.1)
        let s := if busy then s.count CE_HMBUSY.COUNT (ix h) else s
        let (s, ids) := s.engineWrites h c (ps ++ a.crcPiece d x)
        if s.allIssued ids then s.wroteSlot h c d x ids else s.updChan h c (fun a => { a with writing := some ids })
  | _, _ => s

/-- The oldest burst write whose requests have all been answered is acknowledged. -/
def State.writeAck (s : State) (h c : Nat) : State :=
  let a := s.chan h c
  match a.out.find? (fun o => o.2.all (fun id => s.answerOf id == some .ack)) with
  | none => s
  | some o =>
    let s := forAll o.2 (fun id s => s.takeAnswer id) s
    (s.updChan h c (fun a => { a with out := a.out.erase o })).finAll h c

/-- The oldest status record on its way is acknowledged: the event and the chit; a write that met HM_BUSY is counted (R312). -/
def State.recordAck (s : State) (h c : Nat) (o : MemOutcome) : State :=
  let a := s.chan h c
  match a.fins.find? (fun f => f.wrote) with
  | some f =>
    let s := s.updChan h c (fun a => { a with fins := a.fins.erase f })
    let s := match o with | .collide _ => s.count CE_HMBUSY.COUNT (ix h) | _ => s
    match f.report with
    | some r => ((s.announce h c r).nextChain h c).finAll h c
    | none => s
  | none => s

/-! ## The rows -/

/-- The engine runs: the tile does not sleep, and the hall and the channel exist. -/
def State.cartOn (s : State) (h c : Nat) : Bool := decide (h < s.part.halls) && decide (c < 32) && !s.asleep

/-- CART_START (R310). -/
def execCartStart (port h c : Nat) (s : State) : Out :=
  .next (s.byPort port h (.cartStart port h c) false (fun s =>
    if s.cartOn h c then (s.cartBegin h c 0).1 else s))

/-- CART_ABORT (R307). -/
def execCartAbort (port h c : Nat) (s : State) : Out :=
  .next (s.byPort port h (.cartAbort port h c) false (fun s =>
    if s.cartOn h c then s.cartAbort h c else s))

/-- CART_PAUSE (R308). -/
def execCartPause (port h c : Nat) (s : State) : Out :=
  .next (s.byPort port h (.cartPause port h c) false (fun s =>
    if s.cartOn h c then (s.cartPause h c true).cartSuspended h c else s))

/-- CART_RESUME (R308). -/
def execCartResume (port h c : Nat) (s : State) : Out :=
  .next (s.byPort port h (.cartResume port h c) false (fun s =>
    if s.cartOn h c then s.cartPause h c false else s))

/-- CE_CTRL.RESUME (R309). -/
def execCartEngineResume (port h : Nat) (s : State) : Out :=
  .next (s.byPort port h (.cartEngineResume port h) false (fun s =>
    if s.cartOn h 0 then (s.set CE_STATUS.HALT (ix h) false).set CE_ERR_INFO.VALID (ix h) false else s))

/-- CART_DESCRIPTOR_LOAD (R296 to R300). -/
def execCartDescriptorLoad (h c : Nat) (o : MemOutcome) (s : State) : Out :=
  .next (if s.cartOn h c && !s.is CH_CTRL.PAUSE (ix h c) && !(s.chan h c).waitsSrc then s.cartLoad h c o else s)

/-- CART_BURST_READ (R292, R293, R312). -/
def execCartBurstRead (h c : Nat) (o : MemOutcome) (s : State) : Out :=
  .next (if s.cartOn h c then s.burstRead h c o else s)

/-- CART_BURST_WRITE (R292, R302). -/
def execCartBurstWrite (h c : Nat) (o : MemOutcome) (s : State) : Out :=
  .next (if s.cartOn h c then (s.burstWrite h c o).cartSuspended h c else s)

/-- CART_WRITE_ACK (R302 to R304). -/
def execCartWriteAck (h c : Nat) (s : State) : Out := .next (if s.cartOn h c then s.writeAck h c else s)

/-- CART_QUEUE_RETRY (R301). -/
def execCartQueueRetry (h c : Nat) (s : State) : Out :=
  .next (if s.cartOn h c then s.cartRetry h c else s)

/-- CART_STATUS_WRITE_ACK (R305). -/
def execCartStatusWriteAck (h c : Nat) (o : MemOutcome) (s : State) : Out :=
  .next (if s.cartOn h c then s.recordAck h c o else s)

/-- CART_HALT (R309): an error of KIND 0 is one of hall memory, an error of KIND 3 one of the cart buffer (R397). -/
def execCartHalt (h : Nat) (write : Bool) (kind : Nat) (addr : Nat) (s : State) : Out :=
  .next (if s.cartOn h 0 then
      (match kind % 4 with
        | 0 => s.uncorrectable h 9 addr true
        | 3 => s.uncorrectable h 0x0E 0 true
        | _ => s).cartHalt h write kind addr
    else s)

/-! ## Queue operations by any caller (R285) -/

/-- QUEUE_RESERVE (R285): a trader, a host agent, a porter's QOP PUSH with the element QB, a channel's destination. -/
def execQueueReserve (by_ : Caller) (s : State) : Out :=
  .next (match by_ with
    | .trader t => s.traderRow t (fun op => match op with | .reserve _ => true | _ => false)
    | .host h a => s.byAgent h a (.queueReserve by_) (fun s => if s.inHall h then s.agentOp h a .reserve else s)
    | .porter h k th =>
      let q := (s.thread h k th).qsel
      if s.inLane h k ∧ s.portPushReason h k th q = 0 ∧ !(s.is Q_CFG.LOC (ix h q) && !s.postRoom h k) then
        s.portPush h k th q (s.thread h k th).qb
      else s
    | .cart h c dst => if dst && s.cartOn h c then s.cartReserve h c else s)

/-- QUEUE_COMMIT (R285). A channel commits when its descriptor completes. -/
def execQueueCommit (by_ : Caller) (s : State) : Out :=
  .next (match by_ with
    | .trader t => s.traderRow t (fun op => match op with | .commit _ _ => true | _ => false)
    | .host h a => s.byAgent h a (.queueCommit by_) (fun s => if s.inHall h then s.agentOp h a .commit else s)
    | .porter h k th => if s.inLane h k ∧ !s.posting h k th then s.portAll h k th .commit else s
    | .cart h c _ => if s.cartOn h c then s.finAll h c else s)

/-- QUEUE_ABORT (R285). -/
def execQueueAbort (by_ : Caller) (s : State) : Out :=
  .next (match by_ with
    | .trader t => s.traderRow t (fun op => match op with | .abort _ => true | _ => false)
    | .host h a => s.byAgent h a (.queueAbort by_) (fun s => if s.inHall h then s.agentOp h a .abort else s)
    | .porter h k th => if s.inLane h k ∧ !s.posting h k th then s.portAll h k th .abort else s
    | .cart h c _ => if s.cartOn h c then s.finAll h c else s)

/-- QUEUE_TAKE (R285): a trader, a host agent, a channel's source. -/
def execQueueTake (by_ : Caller) (s : State) : Out :=
  .next (match by_ with
    | .trader t => s.traderRow t (fun op => match op with | .take _ => true | _ => false)
    | .host h a => s.byAgent h a (.queueTake by_) (fun s => if s.inHall h then s.agentOp h a .take else s)
    | .porter _ _ _ => s
    | .cart h c dst => if !dst && s.cartOn h c then s.cartTake h c else s)

/-- QUEUE_DONE (R285). A channel marks its elements done when its descriptor completes. -/
def execQueueDone (by_ : Caller) (s : State) : Out :=
  .next (match by_ with
    | .trader t => s.traderRow t (fun op => match op with | .done _ _ => true | _ => false)
    | .host h a => s.byAgent h a (.queueDone by_) (fun s => if s.inHall h then s.agentOp h a .done else s)
    | .porter _ _ _ => s
    | .cart h c _ => if s.cartOn h c then s.finAll h c else s)

/-- QUEUE_RETURN (R285). -/
def execQueueReturn (by_ : Caller) (s : State) : Out :=
  .next (match by_ with
    | .trader t => s.traderRow t (fun op => match op with | .ret _ => true | _ => false)
    | .host h a => s.byAgent h a (.queueReturn by_) (fun s => if s.inHall h then s.agentOp h a .ret else s)
    | .porter _ _ _ => s
    | .cart h c _ => if s.cartOn h c then s.finAll h c else s)

end Sys2Proof.Machine
end

