-- ==== Sys2Proof/Machine/Control.lean ====
section
/-! DEFINITION. Jumps, loops, waits, bells, special registers, system operations, event entry and exit (R106, R136 to
R145, R156 to R166, R358 to R360). -/

namespace Sys2Proof.Machine

/-! ## Jumps and loops (R106, R136) -/

/-- PC set, without the end check, as after a taken jump (R107). -/
def State.goto (s : State) (t : TraderId) (pc : Nat) : State := s.upd t (fun tr => { tr with pc := pc % 65536 })

/-- JMP: PC := TARGET. -/
def execJmp (t : TraderId) (s : State) : Out :=
  .next (s.issue t (key 0x28) (fun _ => []) (fun w s => s.goto t (fTarget w)))

/-- BRA: PC := x + 1 + TARGET, signed. -/
def execBra (t : TraderId) (s : State) : Out :=
  .next (s.issue t (key 0x29) (fun _ => []) (fun w s => s.goto t ((s.trader t).pc + 1 + fTarget w)))

/-- JMPI: PC := A[AREG]. -/
def execJmpi (t : TraderId) (s : State) : Out :=
  .next (s.issue t (key 0x2C 0) (fun w => [.a (fDst w)]) (fun w s => s.goto t ((s.trader t).ar (fDst w))))

/-- The loop buffer at the start of a loop with the body from `ls` to `le`: the contents of another body are discarded, and the
buffer holds the body of the innermost active loop that fits (R73, R74). -/
def Trader.startBody (tr : Trader) (ls le : Nat) : Trader :=
  match tr.lbuf with
  | some b => if b.ls = ls ∧ b.le = le then tr else { tr with lbuf := none }.holdBody
  | none => tr.holdBody

/-- A start with count 0 leaves level `n` inactive: the loop that was active at the level has ended (R74, R106). -/
def Trader.replaced (tr : Trader) (n : Nat) : Trader := if tr.lcr n = 0 then tr else (tr.setLc n 0).levelEnds n

/-- The start of loop level LVL with a count (R106). -/
def startLoop (w count : Nat) (tr : Trader) : Trader :=
  let ls := (tr.pc + 1) % 65536
  let le := (tr.pc + 1 + fBody w) % 65536
  let x := ((tr.setLs (fLvl w) ls).setLe (fLvl w) le).setLc (fLvl w) count
  if count = 0 then { x with lbuf := (tr.replaced (fLvl w)).lbuf, pc := (le + 1) % 65536 }
  else { (x.startBody ls le) with pc := ls }

/-- LOOP: the count is in the word. -/
def execLoop (t : TraderId) (s : State) : Out :=
  .next (s.issue t (key 0x2E) (fun _ => []) (fun w s => s.upd t (startLoop w (fCount w))))

/-- LOOPR: the count is A[AREG]. -/
def execLoopr (t : TraderId) (s : State) : Out :=
  .next (s.issue t (key 0x2F) (fun w => [.a (fLoopAreg w)])
    (fun w s => s.upd t (fun tr => startLoop w (tr.ar (fLoopAreg w)) tr)))

/-! ## Waits (R137 to R142) -/

/-- The end of a wait: the end check follows, and the wait was a sync point. -/
def State.endWait (s : State) (t : TraderId) : State :=
  ((s.upd t (fun tr => { tr with wait := .none })).endCheck t).syncPoint t (s.cur t)

/-- A wait that begins: it ends at once where its condition already holds. -/
def State.beginWait (s : State) (t : TraderId) (w : Wait) (holds : Bool) : State :=
  if holds then s.endWait t else s.upd t (fun tr => { tr with wait := w })

/-- A wait of the trader can end: it runs, is not halted, owns slots, and no trap is to be taken. -/
def State.canEnd (s : State) (t : TraderId) : Bool :=
  (s.trader t).running && !(s.trader t).halted && s.clocked t && (s.trader t).trap.isNone

/-- The operand of WTU and WPU: 8 bytes at A[AREG], aligned, in stall RAM or the slice; otherwise ADDR_FAULT with
detail 0x04 (R113, R167). -/
def State.waitOperand (s : State) (t : TraderId) (w : Nat) (f : Nat → State → State) : State :=
  let ea := (s.trader t).ar (fDst w)
  match s.ramAt t ea with
  | some (a, o) =>
    if ea % 8 = 0 then (s.ramRead t a o 8 ea w f).settle else s.raiseTrap t 13 4 ea w (s.trader t).pc
  | none => s.raiseTrap t 13 4 ea w (s.trader t).pc

/-- WFE: waits until an event of the trader is pending (R140). -/
def execWfe (t : TraderId) (s : State) : Out :=
  .next (s.issue t (key 0x30) (fun _ => []) (fun _ s => s.beginWait t .wfe (s.get EV_PEND.PEND t.ix != 0)))

/-- The bell watch armed for a bell, unless it is already armed for it (R141). -/
def armWatch (w : Nat) (tr : Trader) : Trader :=
  let dev := bit (fSel w) 5
  let bell := bits (fSel w) 4 0
  match tr.watch with
  | some b => if b.dev = dev ∧ b.bell = bell then tr else { tr with watch := some ⟨dev, bell, false⟩ }
  | none => { tr with watch := some ⟨dev, bell, false⟩ }

/-- The bell watch is set. -/
def Trader.rung (tr : Trader) : Bool := match tr.watch with | some b => b.isSet | none => false

/-- WFB: arms the bell watch and waits until it is set (R141). -/
def execWfb (t : TraderId) (s : State) : Out :=
  .next (s.issue t (key 0x31) (fun _ => []) (fun w s =>
    let s := s.upd t (armWatch w)
    if (s.trader t).rung then (s.upd t (fun tr => { tr with watch := none })).endWait t
    else s.upd t (fun tr => { tr with wait := .wfb })))

/-- WTU: waits until TILL_NOW is at or above the 8 bytes at A[AREG] (R138). -/
def execWtu (t : TraderId) (s : State) : Out :=
  .next (s.issue t (key 0x32) (fun w => [.a (fDst w)]) (fun w s =>
    s.waitOperand t w (fun v s => s.beginWait t (.wtu v) (decide (v ≤ s.tillNow)))))

/-- WTUR: waits until TILL_NOW has passed the till of the issue slot by A[AREG] << SHIFT (R138). -/
def execWtur (t : TraderId) (s : State) : Out :=
  .next (s.issue t (key 0x33) (fun w => [.a (fDst w)]) (fun w s =>
    let v := s.tillNow + ((s.trader t).ar (fDst w)) <<< fShift w
    s.beginWait t (.wtu v) (decide (v ≤ s.tillNow))))

/-- The position has passed the target (R139). `sign` is the sign of position minus target at issue. -/
def passed (dir : Nat) (pos target sign : Int) : Bool :=
  match dir with
  | 0 => decide (target ≤ pos)
  | 1 => decide (pos ≤ target)
  | _ => decide (pos = target) || decide ((pos - target).sign ≠ sign)

/-- WPU: waits until the position of an axis has passed the target at A[AREG] (R139). -/
def execWpu (t : TraderId) (s : State) : Out :=
  .next (s.issue t (key 0x34) (fun w => [.a (fDst w)]) (fun w s =>
    s.waitOperand t w (fun v s =>
      let ax := bits (fSel w) 3 0
      let target := sgn 64 v
      let pos := s.axisPos ax s.tick
      let sg := (pos - target).sign
      s.beginWait t (.wpu ax (bits (fSel w) 5 4) target sg) (passed (bits (fSel w) 5 4) pos target sg))))

/-- The end of WFE: an event is pending, masked or not (R140). A deliverable one is taken at once, with WFE completed. -/
def execWfeEnd (t : TraderId) (s : State) : Out :=
  .next (if s.canEnd t && (s.trader t).wait == .wfe && s.get EV_PEND.PEND t.ix != 0 && !(s.trader t).inRom then s.endWait t
    else s)

/-- The end of WFB: the watch is set; it is cleared and disarmed (R141). An event that is deliverable abandons the wait
first. -/
def execWfbEnd (t : TraderId) (s : State) : Out :=
  .next (if s.canEnd t && (s.trader t).wait == .wfb && (s.trader t).rung && (s.deliverable t).isNone then
      (s.upd t (fun tr => { tr with watch := none })).endWait t
    else s)

/-- The end of WTU and WTUR: TILL_NOW has reached the instant (R138). -/
def execWtuEnd (t : TraderId) (s : State) : Out :=
  .next (match (s.trader t).wait with
    | .wtu v => if s.canEnd t && decide (v ≤ s.tillNow) && (s.deliverable t).isNone then s.endWait t else s
    | _ => s)

/-- The end of WPU: the position has passed the target (R139). -/
def execWpuEnd (t : TraderId) (s : State) : Out :=
  .next (match (s.trader t).wait with
    | .wpu ax dir target sg =>
      if s.canEnd t && passed dir (s.axisPos ax s.tick) target sg && (s.deliverable t).isNone then s.endWait t else s
    | _ => s)

/-! ## Bells, special registers, system operations (R143 to R145) -/

/-- SEV: rings a hall bell or a device bell (R143). -/
def execSev (t : TraderId) (s : State) : Out :=
  .next (s.issue t (key 0x35) (fun _ => []) (fun w s =>
    let n := bits (fSel w) 4 0
    (if bit (fSel w) 5 then s.ringDev n s.tick else s.ringHall t.h n s.tick).endCheck t))

/-- The general register that GSPEC names (R109). -/
def gspecReg (g : Nat) : GReg :=
  if g < 8 then .d g else if g < 16 then .a (g - 8) else if g < 20 then .ac (g - 16) else .p (g - 20)

/-- A special register read (R109). DESIGN CHOICE (assumption log 85): PC at the end of a loop body reads as the address after
the MOVS, not as the start of the body. -/
def Trader.getSpec (tr : Trader) (sp : Nat) : Nat :=
  match sp with
  | 0x00 => (tr.pc + 1) % 65536
  | 0x01 => tr.fl
  | 0x02 => tr.tsr
  | 0x03 => tr.mrl.toNat
  | 0x04 => tr.mrh.toNat
  | 0x05 => tr.bnk
  | 0x06 => tr.hbk
  | 0x07 => b2n tr.host
  | 0x08 => tr.lsr 0 | 0x09 => tr.ler 0 | 0x0A => tr.lcr 0
  | 0x0C => tr.lsr 1 | 0x0D => tr.ler 1 | 0x0E => tr.lcr 1
  | 0x10 => tr.lsr 2 | 0x11 => tr.ler 2 | 0x12 => tr.lcr 2
  | _ => 0

/-- A write of a loop register that leaves the level active counts as the start of its loop, and one that leaves it at 0 ends
the level (R108). -/
def Trader.loopWritten (tr : Trader) (n : Nat) : Trader :=
  if tr.lcr n = 0 then tr.levelEnds n else tr.startBody (tr.lsr n) (tr.ler n)

/-- A special register written (R109): S changes only for a supervisor, LACT has no effect. -/
def Trader.setSpec (tr : Trader) (sp v : Nat) : Trader :=
  match sp with
  | 0x01 => tr.setFl v
  | 0x02 => { tr.setFl v with sup := tr.sup && bit v 7 }
  | 0x03 => { tr with mrl := BitVec.ofNat 16 v }
  | 0x04 => { tr with mrh := BitVec.ofNat 16 v }
  | 0x08 => (tr.setLs 0 v).loopWritten 0 | 0x09 => (tr.setLe 0 v).loopWritten 0 | 0x0A => (tr.setLc 0 v).loopWritten 0
  | 0x0C => (tr.setLs 1 v).loopWritten 1 | 0x0D => (tr.setLe 1 v).loopWritten 1 | 0x0E => (tr.setLc 1 v).loopWritten 1
  | 0x10 => (tr.setLs 2 v).loopWritten 2 | 0x11 => (tr.setLe 2 v).loopWritten 2 | 0x12 => (tr.setLc 2 v).loopWritten 2
  | _ => tr

/-- MOVS: a move between a general register and a special register (R144). An illegal MOVS word takes the ILLEGAL trap
here. -/
def execMovs (t : TraderId) (s : State) : Out :=
  .next ((s.issueIllegal t (fun w => fMajor w == 0x36)).simple t (key 0x36) (fun w => [gspecReg (fGspec w)]) (fun w tr =>
    if fMovsW w then tr.setSpec (fSpec w) (tr.getG (gspecReg (fGspec w)))
    else tr.setG (gspecReg (fGspec w)) (tr.getSpec (fSpec w))))

/-- DRAIN: after its issue slot the trader waits until its store buffer is empty; each slot of the wait is unscheduled (R90,
R145). -/
def execDrain (t : TraderId) (s : State) : Out :=
  .next (if s.runsSlot t && (s.trader t).wait == .drain && !(s.trader t).drained then (s.ownSlot t (s.cur t)).unsched t
    else s.issue t (key 0x37 0) (fun _ => []) (fun _ s =>
      if (s.trader t).stores.isEmpty then s.endCheck t else s.upd t (fun tr => { tr with wait := .drain })))

/-- SETBNK: BNK := imm[1:0]. -/
def execSetbnk (t : TraderId) (s : State) : Out :=
  .next (s.simple t (key 0x37 1) (fun _ => []) (fun w tr => { tr with bnk := bits w 1 0 }))

/-- SETBNKR: BNK := D[SRC1][1:0]. -/
def execSetbnkr (t : TraderId) (s : State) : Out :=
  .next (s.simple t (key 0x37 2) (fun w => [.d (fS1 w)]) (fun w tr => { tr with bnk := tr.dr (fS1 w) % 4 }))

/-- SETHBK: HBK := imm[7:0]. -/
def execSethbk (t : TraderId) (s : State) : Out :=
  .next (s.simple t (key 0x37 3) (fun _ => []) (fun w tr => { tr with hbk := bits w 7 0 }))

/-- SETHBKR: HBK := D[SRC1]. -/
def execSethbkr (t : TraderId) (s : State) : Out :=
  .next (s.simple t (key 0x37 4) (fun w => [.d (fS1 w)]) (fun w tr => { tr with hbk := tr.dr (fS1 w) }))

/-- SETHOST: HOST := imm[0]. -/
def execSethost (t : TraderId) (s : State) : Out :=
  .next (s.simple t (key 0x37 5) (fun _ => []) (fun w tr => { tr with host := bit w 0 }))

/-- A trap whose instruction counts as completed: the end check is made, and the return resumes at what it gives. -/
def State.trapAfter (s : State) (t : TraderId) (src detail w : Nat) : State :=
  let s := s.endCheck t
  s.raiseTrap t src detail 0 w (s.trader t).pc

/-- TRAP: takes the TRAP event with code imm[7:0] (R145, R159). -/
def execTrap (t : TraderId) (s : State) : Out :=
  .next (s.issue t (key 0x37 6) (fun _ => []) (fun w s => s.trapAfter t 15 (bits w 7 0) w))

/-- STOP: the trader stops at the end of its issue slot; what it has started still drains and lands. -/
def execStop (t : TraderId) (s : State) : Out :=
  .next (s.simple t (key 0x37 7) (fun _ => []) (fun _ tr => { tr with running := false }))

/-- BRK: a debug halt when the debug port has breakpoints enabled, otherwise no operation (R121). -/
def execBrk (t : TraderId) (s : State) : Out :=
  .next (s.simple t (key 0x37 8) (fun _ => []) (fun _ tr =>
    { tr with halted := tr.halted || (s.dbg.en && s.dbg.breakpoints) }))

/-- The budget that the table of the stall gives a marker; 0 is no limit (R351). -/
def State.budgetOf (s : State) (t : TraderId) (m : Nat) : Option Nat :=
  let v := s.get (if m % 2 = 1 then BW_TABLE.HI else BW_TABLE.LO) (ix t.h t.s (m / 2))
  if v = 0 then none else some v

/-- SYNC m: the count of the level starts afresh with the budget of the marker; 0xFF sets no limit (R359). -/
def execSync (t : TraderId) (s : State) : Out :=
  .next (s.issue t (key 0x37 9) (fun _ => []) (fun w s =>
    let m := bits w 7 0
    let lim := if m = 0xFF then none else s.budgetOf t (m % 64)
    (s.upd t (fun tr => tr.setBud (s.cur t) { count := 0, limit := lim, marker := m, fired := false })).endCheck t))

/-! ## Exit (R164 to R166) -/

/-- RETE in its issue slot: from a handler the exit slots follow; at the base level it only sets STRAY_RETE. -/
def State.reteBody (t : TraderId) (_w : Nat) (s : State) : State :=
  let lvl := s.cur t
  if lvl = 0 then (s.set EV_STATUS.STRAY_RETE t.ix true).goto t ((s.trader t).pc + 1)
  else s.upd t (fun tr => { tr with exiting := some (lvl, false) })

/-- An event is deliverable in the exit slot to come, judged against the level being returned to (R165). -/
def State.exitEvent (s : State) (t : TraderId) : Option Nat :=
  match (s.trader t).exiting with
  | some (lvl, _) => s.deliverableAt t (s.ctxOf t lvl).lvl
  | none => none

/-- RETE, one slot at a time: its issue slot; X1, which restores CUR, TSR and the banks; X2, which restores PC. An event that is
deliverable in an exit slot is taken instead of it. -/
def execRete (t : TraderId) (s : State) : Out :=
  .next (match (s.trader t).exiting with
    | some (lvl, x1) =>
      if !(s.trader t).running || !s.clocked t || (!(s.trader t).halted && (s.exitEvent t).isSome) then s
      else if x1 then s.exitX2 t lvl else s.exitX1 t lvl
    | none => s.issue t (key 0x2D 1) (fun _ => []) (State.reteBody t))

/-! ## What lands and what is taken -/

/-- The trader's owned slots pass idle: it is stopped, halted, or waits, and its stall's rotation runs. -/
def State.idleSlots (s : State) (t : TraderId) : Bool :=
  let tr := s.trader t
  (!tr.running || tr.halted || (tr.wait != .none && tr.wait != .drain)) && s.clocked t

/-- The owned slots of a trader whose slots pass idle, up to its slot of rotation count `due`. -/
def State.idleTo (s : State) (t : TraderId) (due : Nat) : State :=
  if s.idleSlots t then iter (due - (s.trader t).slot) (fun s => s.takeSlot t) s else s

/-- The slot of rotation count `due` of a trader has begun, or is the next one that it owns. -/
def State.slotCome (s : State) (t : TraderId) (due : Nat) : Bool :=
  decide (due ≤ (s.trader t).slot) || (s.clocked t && decide (due ≤ s.nextSlot t / 16))

/-- A product of MUL lands at the start of the second owned slot after its own (R91), the oldest one first; the slots of a trader
that issues nothing pass idle up to it. -/
def execMulProductLand (t : TraderId) (s : State) : Out :=
  .next (match (s.trader t).mul with
    | [] => s
    | (due, h, l) :: rest =>
      let s := s.idleTo t due
      if s.slotCome t due then s.upd t (fun tr => { tr with mrh := h, mrl := l, mul := rest }) else s)

/-- A Scale result lands in its destination, L owned slots after its own, with its SC_STATUS flags (R146). -/
def execScaleResultLand (t : TraderId) (s : State) : Out :=
  .next (match (s.trader t).scq with
    | [] => s
    | e :: rest =>
      let s := s.idleTo t e.due
      if s.slotCome t e.due then
        let s := (s.scClean t e.dst).upd t (fun tr => { ((tr.setSc e.dst e.value).scFlag (max tr.slot e.due) e.flags) with scq := rest })
        s.wr (t.ix.reg .SC_STATUS) (s.rd (t.ix.reg .SC_STATUS) ||| e.flags)
      else s)

/-- What the boot ROM does with an event of T1 to T3: a KICK while USER_BOOT is 1 sends the trader to PC 0x0400 of the
active page; any other event stops it (R379). -/
def State.romEvent (s : State) (t : TraderId) : State :=
  if bit (s.get EV_PEND.PEND t.ix) 8 && s.is PWR_CTRL.USER_BOOT then
    (s.clrIn EV_PEND.PEND t.ix (2 ^ 8)).upd t (fun tr => { tr with wait := .none, inRom := false, pc := 0x400 })
  else (s.stopPlain t).upd t (fun tr => { tr with inRom := false })

/-- Slot E1 of the asynchronous event `src`, with a context to save. -/
def State.takeEvent (s : State) (t : TraderId) (src : Nat) (c : EntryCtx) : State :=
  s.enterE1 t (s.level t src) src (s.cause t src).1 (s.cause t src).2 0 c

/-- A sampling of a trader that runs (R157 to R165): a trap is taken first; in the entry of another event, a deliverable event
turns E2 into its own E1, and otherwise E2 is made; in an exit, one that is deliverable against the level returned to saves the
context of that record; otherwise the deliverable event of the highest level is taken. A WFE that it ends counts as completed. -/
def State.sample (s : State) (t : TraderId) : State :=
  let tr := s.trader t
  match tr.trap, tr.entering, tr.exiting with
  | some tp, _, _ => s.takeTrap t tp
  | none, some lvl, _ =>
    match s.deliverable t with
    | some src => s.takeEvent t src (s.ctxAt t (s.vector t lvl))
    | none => s.enterE2 t lvl
  | none, none, some (lvl, _) =>
    match s.exitEvent t with
    | some src => s.takeEvent t src (s.ctxOf t lvl)
    | none => s
  | none, none, none =>
    match s.deliverable t with
    | none => s
    | some src =>
      let s := if tr.wait == .wfe then s.endWait t else s
      s.takeEvent t src (s.ctxAt t (s.trader t).pc)

/-- EVENT_ENTRY, one slot at a time: what a sampling takes, and the entry slot E2. A halted trader samples nothing, but an entry in
progress completes (R157). -/
def execEventEntry (t : TraderId) (s : State) : Out :=
  .next (State.settle (
    let tr := s.trader t
    if !tr.running || !s.clocked t then s
    else if tr.halted then (match tr.entering with | some lvl => s.enterE2 t lvl | none => s)
    else if tr.inRom then (if t.t = 0 ∨ s.get EV_PEND.PEND t.ix = 0 then s else s.romEvent t)
    else s.sample t))

/-- The count of a level has passed its limit, and no overrun has been raised for it since its latest sync point (R360). -/
def Trader.over (tr : Trader) (lvl : Nat) : Bool :=
  match (tr.bud lvl).limit with
  | some l => decide (l < (tr.bud lvl).count) && !(tr.bud lvl).fired
  | none => false

/-- The budget watch: in the owned slot that carries the count of a level past its limit, BUDGET becomes pending and OVER is set,
once until the level's next sync point (R360). The level is the present one, or the one left by an exit slot (R358). DESIGN CHOICE
(assumption log 128): a second overrun, of another level, replaces the marker while BUDGET is pending. -/
def execBudgetOverrun (t : TraderId) (s : State) : Out :=
  .next (
    match (s.cur t :: List.range 5).find? (s.trader t).over with
    | none => s
    | some lvl =>
      let b := (s.trader t).bud lvl
      if s.is BW_CTRL.EN t.st then
        let s := s.upd t (fun tr => { (tr.setBud lvl { b with fired := true }) with overMarker := b.marker })
        (s.occur t 10).orIn BW_STATUS.OVER t.st (2 ^ t.t)
      else s)

/-! ## Writes of the event registers (R155, R163, R170) -/

/-- A write of EV_KICK makes KICK pending in the named traders of the stall. -/
def State.evKick (s : State) (h n mask : Nat) : State := forAll (ones 16 mask) (fun t s => s.occur ⟨h, n, t⟩ 8) s

/-- A write of EV_PEND_SET makes the named sources pending: each is an occurrence (R154). -/
def State.evPendSet (s : State) (t : TraderId) (mask : Nat) : State :=
  (forAll (ones 11 mask) (fun src s => s.occur t src) s).noteSw EV_PEND.PEND t.ix (mask % 2 ^ 11)

/-- Record `n` is about to be written: what it holds is kept for an entry or exit of its level in this tick (R170). -/
def State.recNote (s : State) (t : TraderId) (n : Nat) : State :=
  let i := t.lvl n
  s.upd t (fun tr =>
    let old := (s.tick, s.rd (i.reg .ER_CTX), s.rd (i.reg .ER_BANK))
    { tr with recWas := Tab.set tr.recWas n (match Tab.find tr.recWas n with | some x => if x.1 = s.tick then x else old | none => old) })

/-- A write of a record word (R163). The levels are 0 to 3; word 0 is ER_CTX and word 1 is ER_BANK; the words of the cause
are read-only. A trader whose S is 0 does not change S, and PLVL must name a level below the record's. In the tick in which the level
is entered or exited the write has no effect (R170). -/
def State.erWrite (s : State) (by_ : Accessor) (t : TraderId) (n word v : Nat) : State :=
  if 2 ≤ word ∨ (s.trader t).moved = (n + 1, s.tick) then s
  else
  let s := s.recNote t n
  match word with
  | 0 =>
    let sup := match by_ with | .host _ => true | .trader q => (s.trader q).sup
    let s := s.put ER_CTX.PC (t.lvl n) (bits v 15 0)
    let tsr := bits v 23 16
    let s := s.put ER_CTX.TSR (t.lvl n) (if sup then tsr else tsr % 128 + bits (s.get ER_CTX.TSR (t.lvl n)) 7 7 * 128)
    if bits v 26 24 ≤ n then s.put ER_CTX.PLVL (t.lvl n) (bits v 26 24) else s
  | 1 => s.wr ((t.lvl n).reg .ER_BANK) (bits v 10 0)
  | _ => s

/-- EV_KICK (R170). -/
def execEvKick (by_ : Accessor) (h n : Nat) (mask : Half) (s : State) : Out :=
  .next (s.byPort (accPort by_) h (.evKick by_ h n mask) (s.holdsWord by_ h n).isSome (fun s =>
    if s.reachesStall by_ h n then s.evKick h n mask.toNat else s))

/-- Whoever makes the access reaches the event block of a trader: a trader its own (R102, R170). -/
def State.reachesEvents (s : State) (by_ : Accessor) (t : TraderId) : Bool :=
  s.reachesStall by_ t.h t.s && (match by_ with | .host _ => true | .trader u => u == t)

/-- EV_PEND_SET (R170). -/
def execEvPendSet (by_ : Accessor) (t : TraderId) (mask : Nat) (s : State) : Out :=
  .next (s.byPort (accPort by_) t.h (.evPendSet by_ t mask) (s.holdsWord by_ t.h t.s).isSome (fun s =>
    if s.reachesEvents by_ t then s.evPendSet t mask else s))

/-- A write of a record word (R163). -/
def execErRecordWrite (by_ : Accessor) (t : TraderId) (n word : Nat) (v : Word) (s : State) : Out :=
  .next (s.byPort (accPort by_) t.h (.erRecordWrite by_ t n word v) (s.holdsWord by_ t.h t.s).isSome (fun s =>
    if s.reachesEvents by_ t then s.erWrite by_ t n word v.toNat else s))

end Sys2Proof.Machine
end

