-- ==== Sys2Proof/Machine/Rings.lean ====
section
/-! DEFINITION. Host responses (R315, R319), order rings up to the fetch of a record (R322, R323) and chit rings
(R339 to R344). -/

namespace Sys2Proof.Machine

/-! ## Chit rings -/

/-- The number of slots of a chit ring (R345). -/
def State.crSize (s : State) (n : Nat) : Nat :=
  let k := s.get CR_CTRL.SIZE_LOG2 (ix n)
  if 4 ≤ k ∧ k ≤ 16 then 2 ^ k else 16

/-- CR_WRITE and CR_READ. -/
def State.crWr (s : State) (n : Nat) : Nat := s.get CR_WRITE.WRITE (ix n)
def State.crRd (s : State) (n : Nat) : Nat := s.get CR_READ.READ (ix n)

/-- The ring has room for one more chit (R342). -/
def State.crRoom (s : State) (n : Nat) : Bool := (s.crWr n + 1) % s.crSize n != s.crRd n % s.crSize n

/-- The ring writes chits: enabled and not stopped. -/
def State.crServed (s : State) (n : Nat) : Bool := s.is CR_CTRL.EN (ix n) && !s.is CR_STATUS.STOPPED (ix n)

/-- CR_STATUS.FULL: a chit waits, and the ring is full, stopped or disabled (R342). -/
def State.crFull (s : State) (n : Nat) : Bool :=
  (!s.crRoom n || !s.crServed n) && s.chits.any (fun c => c.ring == n && c.stage == .waiting)

/-- PEND of a ring (R344). -/
def State.crPend (s : State) (n : Nat) : Bool :=
  s.crWr n != s.crRd n || bit (s.get CHIT_PEND_SET.PEND (ix (n / 32))) (n % 32)

/-- The interrupt output of a ring (R344). -/
def State.crLine (s : State) (n : Nat) : Bool := s.crPend n && !bit (s.get CHIT_MASK_SET.MASK (ix (n / 32))) (n % 32)

/-- The 32 bytes of a chit (R339). -/
def Chit.bytes (c : Chit) : List Byte :=
  let flags := match c.body.tally with | some (ax, _) => 1 + ax <<< 4 | none => 0
  toBytes 1 c.id.ty ++ toBytes 1 (flags + (if 1 < c.body.count then 2 else 0)) ++ toBytes 2 c.id.src ++
    toBytes 2 c.id.job ++ toBytes 2 c.body.count ++ toBytes 8 c.body.till ++
    toBytes 8 (match c.body.tally with | some (_, p) => p | none => 0) ++ toBytes 8 c.body.data

/-- A chit changed. -/
def State.updChit (s : State) (id : ChitId) (f : Chit → Chit) : State :=
  { s with chits := s.chits.map (fun c => if c.id = id then f c else c) }

/-- A chit is written or in flight on a ring. -/
def ChitStage.flies : ChitStage → Bool
  | .inFlight _ => true
  | _ => false

/-- The chit that is written next to ring `n`: the oldest that waits, when none is in flight. -/
def State.nextChit (s : State) (n : Nat) : Option Chit :=
  if s.chits.any (fun c => c.ring == n && c.stage.flies) then none
  else s.chits.find? (fun c => c.ring == n && c.stage == .waiting)

/-- The device error HOST_ERR of a chit write goes to another ring when its route is the failing one (R341). -/
def State.hostErr (s : State) (r : HostReq) (kind : HostErrKind) (fromRing : Option Nat) : State :=
  let k := match kind with | .translation => 0 | .fabric => 1 | .poisoned => 2
  let route := s.routeOf 0x05
  let ring := if fromRing = some route then s.get CHIT_ROUTE.ALT (ix 5) else route
  s.raiseOn ring ⟨0x05, r.stream, 0, 0⟩ (r.addr % 2 ^ 52 + r.port <<< 52 + k <<< 54) s.tick

/-- A chit leaves service as acknowledged: its pending chit takes its place at the end of the order, and the end of a job
is acknowledged (R338, R343). -/
def State.ackChit (s : State) (c : Chit) : State :=
  let rest := s.chits.filter (fun x => x.id != c.id)
  let next := match c.pend with
    | some b => [{ c with body := b, ring := b.ring, stage := .waiting, pend := none, err := none }]
    | none => []
  let s := { s with chits := rest ++ next }
  if c.body.ends then s.updJob c.id.job (fun j => { j with acked := true }) else s

/-- A chit whose table entry reads uncorrectable is lost, and the record of a job that it ends counts as acknowledged (R338,
R397). -/
def State.loseChit (s : State) (c : Chit) : State :=
  let s := ((s.count CR_LOST.COUNT (ix c.ring)).chit 0x21 0x10 0 s.tick).ackChit c
  s.retire

/-- The write of a chit is issued (R342). -/
def State.writeChit (s : State) (n : Nat) : State :=
  match s.nextChit n with
  | some c =>
    if c.err = some true then s.loseChit c
    else if s.crServed n && s.crRoom n then
      let (s', id) := s.hostReq (.chit n) none 0x8001 (s.get CR_BASE.BASE (ix n) / 32 * 32 + 32 * s.crWr n) 32 c.bytes true
      let s' := if c.err.isSome then s'.corrected 0 13 else s'
      s'.updChit c.id (fun c => { c with stage := .inFlight id, err := none })
    else s
  | none => s

/-- The slot lies between the old and the new value of CR_READ (R343). -/
def between (size old new slot : Nat) : Bool := decide ((slot + size - old % size) % size < (new + size - old % size) % size)

/-- A write of CR_READ acknowledges the chits of the slots it passes, and finished jobs retire. -/
def State.chitAck (s : State) (n v : Nat) : State :=
  let old := s.crRd n
  let size := s.crSize n
  let s := s.put CR_READ.READ (ix n) v
  let seen := s.chits.filter (fun c => c.ring == n && (match c.stage with | .written k => between size old v k | _ => false))
  (forAll seen (fun c s => s.ackChit c) s).retire

/-- Requests nobody waits for any more: one that waits for a tag goes, and an issued one holds its tag until its answer comes,
which is dropped. -/
def State.forget (s : State) (p : HostReq → Bool) : State :=
  { s with reqs := (s.reqs.filter (fun r => r.issued || !p r)).map (fun r => if p r then { r with owner := .job 0 } else r)
           arrived := s.arrived.filter (fun a => !p a.req) }

/-- A write of CR_CTRL (R342, R345). -/
def State.crCtrlWrite (s : State) (n v : Nat) : State :=
  let i := ix n
  let s := s.wr (i.reg .CR_CTRL) (bits v 31 26 <<< 26 + bits v 4 0)
  if bit v 31 then s.set CR_STATUS.STOPPED i false
  else
    let s := (s.put CR_WRITE.WRITE i 0).put CR_READ.READ i 0
    let s := s.forget (fun r => r.owner == .chit n)
    let mine := s.chits.filter (fun c => c.ring == n && (match c.stage with | .written _ => true | _ => false))
    let s := forAll mine (fun c s => s.ackChit c) s
    let s := { s with chits := s.chits.map (fun (c : Chit) => if c.ring = n then { c with stage := .waiting } else c) }
    s.retire

/-! ## Order rings -/

/-- The number of slots of an order ring (R345). -/
def State.orSize (s : State) (n : Nat) : Nat :=
  let k := s.get OR_CTRL.SIZE_LOG2 (ix n)
  if 4 ≤ k ∧ k ≤ 12 then 2 ^ k else 16

/-- The ring is served and holds an order. -/
def State.orReady (s : State) (n : Nat) : Bool :=
  s.is OR_CTRL.EN (ix n) && !s.is OR_STATUS.STOPPED (ix n) && s.get OR_HEAD.HEAD (ix n) != s.get OR_TAIL.TAIL (ix n)

/-- A fetch of the order engine is under way. -/
def State.orBusy (s : State) : Bool :=
  s.reqs.any (fun r => match r.owner with | .order _ => true | _ => false) ||
    s.arrived.any (fun a => match a.req.owner with | .order _ => true | _ => false)

/-- The order engine, when idle, fetches from the next ring in turn; sleep entry and sleep keep it from fetching (R323,
R384). -/
def State.serveOrders (s : State) : State :=
  if s.orBusy || s.asleep || s.get PWR_STATUS.STATE == 2 then s
  else match ((List.range 16).map (fun k => (s.orderTurn + 1 + k) % 16)).find? (fun n => s.orReady n) with
    | none => s
    | some n =>
      let a := s.get OR_BASE.BASE (ix n) / 64 * 64 + 64 * s.get OR_HEAD.HEAD (ix n)
      ({ s with orderTurn := n }.hostReq (.order n) none 0x8000 a 64).1

/-- A wake source fires while the tile is not asleep: it ends IDLE (R383), is latched during sleep entry (R391), and is
recorded during a wake (R386). -/
def State.wakeLatch (s : State) (hit : State → State) : State :=
  match s.get PWR_STATUS.STATE with
  | 1 => s.put PWR_STATUS.STATE {} 0
  | 2 => { hit s with power := { s.power with woken := true } }
  | 3 => hit s
  | _ => s

/-- The doorbell: TAIL is stored modulo the ring size (R322), and with DB_EN it is a wake source (R386). -/
def State.doorbell (s : State) (n v : Nat) : State :=
  let s := if s.is WK_CTRL.DB_EN then s.wakeLatch (fun s => s.set WK_I2C.DB_HIT {} true) else s
  (s.put OR_TAIL.TAIL (ix n) (v % 4096 % s.orSize n)).serveOrders

/-- A write of OR_CTRL (R345): disabling clears HEAD and TAIL and forgets the fetch under way. -/
def State.orCtrlWrite (s : State) (n v : Nat) : State :=
  let i := ix n
  let s := s.wr (i.reg .OR_CTRL) (bits v 31 31 <<< 31 + bits v 11 8 <<< 8 + bits v 5 0)
  if bit v 31 then
    let s := s.set OR_STATUS.STOPPED i false
    let s := s.put OR_HEAD.HEAD i (s.get OR_HEAD.HEAD i % s.orSize n)
    (s.put OR_TAIL.TAIL i (s.get OR_TAIL.TAIL i % s.orSize n)).serveOrders
  else
    let s := (s.put OR_HEAD.HEAD i 0).put OR_TAIL.TAIL i 0
    (s.forget (fun r => r.owner == .order n)).serveOrders

/-- The ring of a failed fetch stops (R319). -/
def State.fetchFails (s : State) (n addr : Nat) : State :=
  let s := (s.set OR_STATUS.FETCH_ERR (ix n) true).set OR_STATUS.STOPPED (ix n) true
  (s.chit 0x04 n (addr % 2 ^ 52) s.tick).serveOrders

/-! ## Responses of the host ports (R315, R319) -/

/-- Somebody takes the answer of a request with a command of its own. -/
def State.awaited (s : State) (r : HostReq) : Bool :=
  match r.owner with
  | .order _ | .chit _ | .cart _ _ => true
  | .job n => n != 0
  | .trader t => !r.write && (s.trader t).loads.any (fun l => l.accs.any (fun a => a.acc.req == some r.id))
  | .porter _ _ _ => false
  | .queue _ _ => s.hostPops.any (fun p => p.req == r.id)

/-- The header of a patch fits the lane. -/
def State.patchOk (s : State) (h k : Nat) (b : List Byte) : Bool :=
  let full := bit (field b 3 1) 0
  let mode := s.lnMode h k
  let modes := field b 2 1
  let first := field b 8 2
  let count := field b 10 2
  field b 0 2 == 1 && decide (modes < 8) && decide (field b 3 1 < 2) && decide (1 ≤ count) && decide (first + count ≤ 1024) &&
    (!full || (first == 0 && count == 1024)) && (full || field b 16 4 == s.get CS_VERSION.BASE (ix h k)) && zeros b 24 8 &&
    (mode == 0 || (if mode ≤ 2 then bit modes 0 else if mode ≤ 6 then bit modes 1 else bit modes 2))

/-- Data of a job's fetch has come. After a good header of a patch its words follow (R261); after the header of an image the rest of
what step 1 of its load reads (R355). -/
def State.jobFetched (s : State) (n : Nat) (bs : List Byte) : State :=
  match s.job n with
  | none => s
  | some j =>
    let got := j.got ++ bs
    let words := match j.body with
      | .loadMicrocode lane _ => if got.length = 32 ∧ s.patchOk (lane / 4) (lane % 4) got then 32 * field got 10 2 else 0
      | _ => 0
    let next := match j.body with
      | .loadImage image len _ =>
        if j.stage = 0 ∧ j.left = bs.length then (stepOne got len).2.map (fun p => (image + p.1, p.2)) else none
      | _ => none
    (s.updJob n (fun j => match next with
      | some (at_, n) => { j with got := got, fetchAt := at_, left := n }
      | none => { j with got := got, fetchAt := j.fetchAt + bs.length, left := j.left - bs.length + words })).fetchMore n

/-- An answer comes for an issued request, and its tag is free again. -/
def State.respond (s : State) (r : HostReq) (resp : HostResp) : State :=
  let s := { s with reqs := s.reqs.filter (fun x => x.id != r.id) }
  match resp, r.owner with
  | .data bs, .job n => (s.jobFetched n bs).grantTags
  | _, _ => (if s.awaited r then { s with arrived := s.arrived ++ [⟨r, resp⟩] } else s).grantTags

/-- DETAIL of a BUS_ERR that a host port answers (R167). -/
def hostDetail (write : Bool) (k : HostErrKind) : Nat := b2n write * 0x80 + (if k = .translation then 3 else 2)

/-- The trader that a stream names: role and number, in the stall that has the role now (R317). -/
def State.traderOfStream (s : State) (stream : Nat) : Option TraderId :=
  let x := stream % 0x1000 - 0x100
  if 0x100 ≤ stream % 0x1000 then (s.roleStall (stream / 0x1000 % 8) (x / 16)).map (fun f => ⟨stream / 0x1000 % 8, f, x % 16⟩)
  else none

/-- An error response: what each requester does with it, and its record (R319). -/
def State.hostError (s : State) (r : HostReq) (k : HostErrKind) : State :=
  let i := ix r.port
  let s := s.put HP_ERR_ADDR.ADDR i r.addr
  let s := s.put HP_ERR_STREAM.STREAM i r.stream
  let s := s.count HP_ERRCNT.COUNT i
  let lost (s : State) : State := { s with reqs := s.reqs.filter (fun x => x.id != r.id) }.grantTags
  match r.owner with
  | .order n => (lost s).fetchFails n r.addr
  | .chit n =>
    let s := (s.set CR_STATUS.WRITE_ERR (ix n) true).set CR_STATUS.STOPPED (ix n) true
    let s := { s with chits := s.chits.map (fun c => if c.stage = .inFlight r.id then { c with stage := .waiting } else c) }
    (lost s).hostErr r k (some n)
  | .job n =>
    let s := { lost s with images := s.images.filter (fun i => i.job != n || i.committed) }
    (s.jobTo n .failed 0xF0).retire
  | .trader t => if r.write then (lost s).busError t (hostDetail true k) r.taddr else s.respond r (.error k)
  | .cart h _ => (lost s).cartHalt h r.write (if k = .translation then 2 else 1) r.addr
  | .porter _ _ _ => (lost s).hostErr r k none
  | .queue _ _ =>
    if s.awaited r then s.respond r (.error k)
    else match s.traderOfStream r.stream with
      | some t => (lost s).busError t (hostDetail true k) r.taddr
      | none => (lost s).hostErr r k none

/-- The issued request of a number. -/
def State.issued (s : State) (id : Nat) : Option HostReq := s.reqs.find? (fun r => r.id == id && r.issued)

/-! ## A pop from host memory (R285) -/

/-- The element of a pop has come: HEAD advances and the popping master takes it, or the pop fails. -/
def State.popReturn (s : State) (h q : Nat) : State :=
  match s.hostPops.find? (fun p => p.h == h && p.q == q) with
  | none => s
  | some p =>
    match s.answerOf p.req with
    | none => s
    | some resp =>
      let r := (s.arrived.find? (fun a => a.req.id == p.req)).map Arrived.req
      let s := s.takeAnswer p.req
      let s := { s with hostPops := s.hostPops.filter (fun x => x.req != p.req) }
      let fin (s : State) (t : TraderId) (bs : List Byte) : State :=
        s.upd t (fun tr => match tr.nextOp with
          | some (at_, .pop q') => if q' = q then tr.answered at_ (toBytes 8 (ofBytes bs)) else tr
          | _ => tr)
      let s := match resp, p.by_ with
      | .data bs, .trader t => fin ((s.qDo h q (callerNum p.by_) .pop).qStat p.by_ q 0) t bs
      | .data bs, .porter h' k th =>
        (s.qDo h q (callerNum p.by_) .pop).updTh h' k th (fun t => { t with popped := some bs })
      | .error k, .trader t => (fin s t []).busError t (hostDetail false k) 0xF830
      | .error k, .porter h' kk th =>
        -- the element is lost, and the word that waits for it goes on with QB as it stands
        let s := s.updTh h' kk th (fun t => { t with popped := some t.qb })
        match r with | some r => s.hostErr r k none | none => s
      | _, _ => s
      s.agentRelease1 h q

/-! ## The rows -/

/-- HOST_READ_DATA (R315). -/
def execHostReadData (id : Nat) (data : List Byte) (s : State) : Out :=
  .next (match s.issued id with
    | some r => if !r.write && data.length == r.len then s.respond r (.data data) else s
    | none => s)

/-- HOST_WRITE_RESPONSE (R315). -/
def execHostWriteResponse (id : Nat) (s : State) : Out :=
  .next (match s.issued id with
    | some r => if r.write then s.respond r .ack else s
    | none => s)

/-- HOST_ERROR_RESPONSE (R319). -/
def execHostErrorResponse (id : Nat) (kind : HostErrKind) (s : State) : Out :=
  .next (match s.issued id with
    | some r => s.hostError r kind
    | none => s)

/-- HOST_QUEUE_POP_RETURN (R285). -/
def execHostQueuePopReturn (h q : Nat) (s : State) : Out := .next (s.popReturn h q)

/-- OR_CTRL_WRITE (R345). -/
def execOrCtrlWrite (port n : Nat) (v : Word) (s : State) : Out :=
  .next (s.byPort port 8 (.orCtrlWrite port n v) false (fun s =>
    s.orCtrlWrite n v.toNat))

/-- CHIT_WRITE (R342). -/
def execChitWrite (n : Nat) (s : State) : Out := .next (if s.asleep then s else s.writeChit n)

/-- CHIT_WRITE_COMPLETE (R342). -/
def execChitWriteComplete (n : Nat) (s : State) : Out :=
  .next (match s.arrived.find? (fun a => a.req.owner == .chit n) with
    | none => s
    | some a =>
      let s := s.takeAnswer a.req.id
      let w := s.crWr n
      let s := { s with chits := s.chits.map (fun (c : Chit) => if c.stage = ChitStage.inFlight a.req.id then { c with stage := .written w } else c) }
      s.put CR_WRITE.WRITE (ix n) ((w + 1) % s.crSize n))

/-- CHIT_ACKNOWLEDGE (R343). -/
def execChitAcknowledge (port n : Nat) (v : Word) (s : State) : Out :=
  .next (s.byPort port 8 (.chitAcknowledge port n v) false (fun s =>
    s.chitAck n v.toNat))

/-- CR_CTRL_WRITE (R342). -/
def execCrCtrlWrite (port n : Nat) (v : Word) (s : State) : Out :=
  .next (s.byPort port 8 (.crCtrlWrite port n v) false (fun s =>
    s.crCtrlWrite n v.toNat))

/-- CHIT_MASK_SET (R344). -/
def execChitMaskSet (port k : Nat) (v : Word) (s : State) : Out :=
  .next (s.byPort port 8 (.chitMaskSet port k v) false (fun s =>
    s.orIn CHIT_MASK_SET.MASK (ix k) v.toNat))

/-- CHIT_MASK_CLR (R344). -/
def execChitMaskClr (port k : Nat) (v : Word) (s : State) : Out :=
  .next (s.byPort port 8 (.chitMaskClr port k v) false (fun s =>
    s.clrIn CHIT_MASK_SET.MASK (ix k) v.toNat))

/-- CHIT_PEND_SET (R344). -/
def execChitPendSet (port k : Nat) (v : Word) (s : State) : Out :=
  .next (s.byPort port 8 (.chitPendSet port k v) false (fun s =>
    s.orIn CHIT_PEND_SET.PEND (ix k) v.toNat))

/-- CHIT_PEND_CLR (R344). -/
def execChitPendClr (port k : Nat) (v : Word) (s : State) : Out :=
  .next (s.byPort port 8 (.chitPendClr port k v) false (fun s =>
    s.clrIn CHIT_PEND_SET.PEND (ix k) v.toNat))

end Sys2Proof.Machine
end

