-- ==== Sys2Proof/Machine/Blocks.lean ====
section
/-! DEFINITION. Where the registers stand in the host window (R320, and the register tables of each chapter): the blocks,
their places, and the register at an offset. -/

namespace Sys2Proof.Machine

/-- The blocks of registers, by the strides of their instances. The last three have no place of their own in the window: the
host sees them through the event window of a stall (R170), and traders in their I/O page. -/
inductive Blk where
  | DEV | AX | HPn | OR | CR | K2 | K64 | WKP | FTT | HALL | TM | CT
  | PIN | PSW | PW4 | CLM32 | CLM64 | HL16 | HL8x8 | AG | QH | TKE | Q | CE
  | CEW | CH | HS | HS8 | HS16 | HS4 | HSP | FT | FT8 | FT9 | BR | CRI
  | CRS | ST | ST4T | ST8T | BWT | EV | ER | TR | LN | LN8 | LN16 | LN16x8
  | LNS | TH | THM | THM12
  deriving DecidableEq, Repr

/-- The host offset of the first instance of a block. -/
def Blk.base : Blk → Nat
  | .DEV => 0x0
  | .AX => 0x2000
  | .HPn => 0x4040
  | .OR => 0x5000
  | .CR => 0x6000
  | .K2 => 0x0
  | .K64 => 0x0
  | .WKP => 0x0
  | .FTT => 0x0
  | .HALL => 0x200000
  | .TM => 0x238000
  | .CT => 0x239000
  | .PIN => 0x23a000
  | .PSW => 0x23b000
  | .PW4 => 0x23b000
  | .CLM32 => 0x23b000
  | .CLM64 => 0x23b000
  | .HL16 => 0x200000
  | .HL8x8 => 0x200000
  | .AG => 0x200400
  | .QH => 0x228000
  | .TKE => 0x201000
  | .Q => 0x220000
  | .CE => 0x210000
  | .CEW => 0x210000
  | .CH => 0x210100
  | .HS => 0x202000
  | .HS8 => 0x202000
  | .HS16 => 0x202000
  | .HS4 => 0x202000
  | .HSP => 0x202100
  | .FT => 0x218000
  | .FT8 => 0x218000
  | .FT9 => 0x218000
  | .BR => 0x230000
  | .CRI => 0x230040
  | .CRS => 0x230140
  | .ST => 0x240000
  | .ST4T => 0x240000
  | .ST8T => 0x240000
  | .BWT => 0x240000
  | .EV => 0
  | .ER => 0
  | .TR => 0
  | .LN => 0x380000
  | .LN8 => 0x380000
  | .LN16 => 0x380000
  | .LN16x8 => 0x380000
  | .LNS => 0x380000
  | .TH => 0x380200
  | .THM => 0x380200
  | .THM12 => 0x380200

/-- The strides and counts of the instances of a block; none for a block without a place in the window. -/
def Blk.strides : Blk → Option (List (Nat × Nat))
  | .DEV => some []
  | .AX => some [(0x100, 16)]
  | .HPn => some [(0x20, 4)]
  | .OR => some [(0x20, 16)]
  | .CR => some [(0x20, 64)]
  | .K2 => some [(0x4, 2)]
  | .K64 => some [(0x4, 64)]
  | .WKP => some [(0x4, 32)]
  | .FTT => some [(0x4, 9)]
  | .HALL => some [(0x200000, 8)]
  | .TM => some [(0x200000, 8), (0x40, 32)]
  | .CT => some [(0x200000, 8), (0x40, 64)]
  | .PIN => some [(0x200000, 8), (0x20, 128)]
  | .PSW => some [(0x200000, 8)]
  | .PW4 => some [(0x200000, 8), (0x4, 4)]
  | .CLM32 => some [(0x200000, 8), (0x4, 32)]
  | .CLM64 => some [(0x200000, 8), (0x4, 64)]
  | .HL16 => some [(0x200000, 8), (0x4, 16)]
  | .HL8x8 => some [(0x200000, 8), (0x8, 8)]
  | .AG => some [(0x200000, 8), (0x10, 16)]
  | .QH => some [(0x200000, 8), (0x20, 16)]
  | .TKE => some [(0x200000, 8), (0x8, 256)]
  | .Q => some [(0x200000, 8), (0x20, 1024)]
  | .CE => some [(0x200000, 8)]
  | .CEW => some [(0x200000, 8), (0x10, 8)]
  | .CH => some [(0x200000, 8), (0x40, 32)]
  | .HS => some [(0x200000, 8)]
  | .HS8 => some [(0x200000, 8), (0x4, 8)]
  | .HS16 => some [(0x200000, 8), (0x4, 16)]
  | .HS4 => some [(0x200000, 8), (0x4, 4)]
  | .HSP => some [(0x200000, 8), (0x20, 8)]
  | .FT => some [(0x200000, 8)]
  | .FT8 => some [(0x200000, 8), (0x4, 8)]
  | .FT9 => some [(0x200000, 8), (0x4, 9)]
  | .BR => some [(0x200000, 8), (0x800, 16)]
  | .CRI => some [(0x200000, 8), (0x800, 16), (0x40, 4)]
  | .CRS => some [(0x200000, 8), (0x800, 16), (0x10, 4)]
  | .ST => some [(0x200000, 8), (0x20000, 9)]
  | .ST4T => some [(0x200000, 8), (0x20000, 9), (0x4, 16)]
  | .ST8T => some [(0x200000, 8), (0x20000, 9), (0x8, 16)]
  | .BWT => some [(0x200000, 8), (0x20000, 9), (0x4, 32)]
  | .EV => none
  | .ER => none
  | .TR => none
  | .LN => some [(0x200000, 8), (0x10000, 4)]
  | .LN8 => some [(0x200000, 8), (0x10000, 4), (0x4, 8)]
  | .LN16 => some [(0x200000, 8), (0x10000, 4), (0x4, 16)]
  | .LN16x8 => some [(0x200000, 8), (0x10000, 4), (0x8, 16)]
  | .LNS => some [(0x200000, 8), (0x10000, 4), (0x4, 4096)]
  | .TH => some [(0x200000, 8), (0x10000, 4), (0x100, 2)]
  | .THM => some [(0x200000, 8), (0x10000, 4), (0x100, 2), (0x4, 16)]
  | .THM12 => some [(0x200000, 8), (0x10000, 4), (0x100, 2), (0x4, 12)]

/-- The block of a register and its offset in the block. -/
def RegName.place : RegName → Blk × Nat
  | .DEV_STOCK_ID => (.DEV, 0x100)
  | .DEV_STOCK_UNITS => (.DEV, 0x104)
  | .DEV_STOCK_LANES => (.DEV, 0x108)
  | .DEV_STOCK_PINS => (.DEV, 0x10c)
  | .TILL_NOW => (.DEV, 0x1000)
  | .TILL_STATUS => (.DEV, 0x1008)
  | .TILL_CTRL => (.DEV, 0x100c)
  | .TILL_LFO_INC => (.DEV, 0x1010)
  | .TILL_ALARM => (.DEV, 0x1018)
  | .HP_CFG => (.DEV, 0x4000)
  | .JOB_QUERY => (.DEV, 0x7200)
  | .JOB_INFO => (.DEV, 0x7204)
  | .JOB_COUNT => (.DEV, 0x7208)
  | .PWR_STATUS => (.DEV, 0x8000)
  | .PWR_CTRL => (.DEV, 0x8004)
  | .PWR_CLK => (.DEV, 0x8008)
  | .PWR_VSETTLE => (.DEV, 0x800c)
  | .PWR_RESET => (.DEV, 0x8010)
  | .PWR_RESET_CAUSE => (.DEV, 0x8014)
  | .WK_CTRL => (.DEV, 0x8020)
  | .WK_CAUSE => (.DEV, 0x8024)
  | .WK_I2C => (.DEV, 0x8028)
  | .FT_DSTATUS => (.DEV, 0x9000)
  | .FT_THERM_CTRL => (.DEV, 0x9004)
  | .FT_CORR_DEV => (.DEV, 0x9040)
  | .TAX_CTRL => (.AX, 0x0)
  | .TAX_STATUS => (.AX, 0x4)
  | .TAX_SRC => (.AX, 0x8)
  | .TAX_GAIN => (.AX, 0xc)
  | .TAX_LIMITS => (.AX, 0x10)
  | .TAX_VMIN => (.AX, 0x14)
  | .TAX_POS => (.AX, 0x18)
  | .TAX_VEL => (.AX, 0x20)
  | .TAX_VCMD => (.AX, 0x28)
  | .TAX_PRESET => (.AX, 0x30)
  | .TAX_CMD => (.AX, 0x38)
  | .TAX_LATENCY => (.AX, 0x3c)
  | .TAX_RESID => (.AX, 0x40)
  | .TAX_UPD_TILL => (.AX, 0x48)
  | .TAX_MEAS_TILL => (.AX, 0x50)
  | .HP_STATUS => (.HPn, 0x0)
  | .HP_INFLIGHT => (.HPn, 0x4)
  | .HP_ERRCNT => (.HPn, 0x8)
  | .HP_HMBUSY => (.HPn, 0xc)
  | .HP_ERR_ADDR => (.HPn, 0x10)
  | .HP_ERR_STREAM => (.HPn, 0x18)
  | .OR_BASE => (.OR, 0x0)
  | .OR_CTRL => (.OR, 0x8)
  | .OR_STATUS => (.OR, 0xc)
  | .OR_HEAD => (.OR, 0x10)
  | .OR_TAIL => (.OR, 0x14)
  | .CR_BASE => (.CR, 0x0)
  | .CR_CTRL => (.CR, 0x8)
  | .CR_STATUS => (.CR, 0xc)
  | .CR_WRITE => (.CR, 0x10)
  | .CR_READ => (.CR, 0x14)
  | .CR_LOST => (.CR, 0x18)
  | .CHIT_MASK_SET => (.K2, 0x7000)
  | .CHIT_MASK_CLR => (.K2, 0x7008)
  | .CHIT_PEND_SET => (.K2, 0x7010)
  | .CHIT_PEND_CLR => (.K2, 0x7018)
  | .CHIT_LINE => (.K2, 0x7020)
  | .CHIT_ROUTE => (.K64, 0x7100)
  | .WK_PIN => (.WKP, 0x8080)
  | .FT_TEMP => (.FTT, 0x9010)
  | .TM_CTRL => (.TM, 0x0)
  | .TM_STATUS => (.TM, 0x4)
  | .TM_TARGET => (.TM, 0x8)
  | .TM_STEP => (.TM, 0x10)
  | .TM_INSTANT => (.TM, 0x18)
  | .TM_ACTED_AT => (.TM, 0x20)
  | .TM_ACTION => (.TM, 0x28)
  | .TM_PULSE => (.TM, 0x2c)
  | .TM_COUNT => (.TM, 0x30)
  | .TM_FIRED_SUM => (.HALL, 0x38800)
  | .TM_LATE_SUM => (.HALL, 0x38804)
  | .CT_CTRL => (.CT, 0x0)
  | .CT_INPUT => (.CT, 0x4)
  | .CT_STATUS => (.CT, 0x8)
  | .CT_COUNT => (.CT, 0xc)
  | .CT_PERIOD => (.CT, 0x10)
  | .CT_COMPARE => (.CT, 0x14)
  | .CT_CAPTURE => (.CT, 0x18)
  | .CT_COUNT_LATCH => (.CT, 0x1c)
  | .CT_CAP_TILL => (.CT, 0x20)
  | .STL_SELF => (.ST, 0x0)
  | .STL_CTRL => (.ST, 0x4)
  | .STL_STATUS => (.ST, 0x8)
  | .STL_CODE_BASE => (.ST, 0xc)
  | .STL_ICACHE => (.ST, 0x10)
  | .STL_HWIN => (.ST, 0x14)
  | .STL_RUN => (.ST, 0x18)
  | .EV_HSEL => (.ST, 0x280)
  | .EV_KICK => (.ST, 0x284)
  | .BW_CTRL => (.ST, 0x300)
  | .BW_STATUS => (.ST, 0x304)
  | .BW_SEL => (.ST, 0x308)
  | .BW_VIEW => (.ST, 0x30c)
  | .BW_HLIMIT01 => (.ST, 0x310)
  | .BW_HLIMIT23 => (.ST, 0x314)
  | .BW_TABLE => (.BWT, 0x380)
  | .TR_BANK => (.ST4T, 0x40)
  | .TR_UNSCHED => (.ST4T, 0x100)
  | .TR_IMISS => (.ST4T, 0x140)
  | .TR_HOSTPG => (.ST8T, 0x80)
  | .EV_CTRL => (.EV, 0x0)
  | .EV_PEND => (.EV, 0x4)
  | .EV_PEND_SET => (.EV, 0x8)
  | .EV_EN_SET => (.EV, 0xc)
  | .EV_EN_CLR => (.EV, 0x10)
  | .EV_OVR => (.EV, 0x14)
  | .EV_ROUTE => (.EV, 0x18)
  | .EV_TRAPLVL => (.EV, 0x1c)
  | .EV_HSEL01 => (.EV, 0x20)
  | .EV_HSEL23 => (.EV, 0x24)
  | .EV_HSEL45 => (.EV, 0x28)
  | .EV_HSEL67 => (.EV, 0x2c)
  | .EV_STATUS => (.EV, 0x30)
  | .EV_VEC01 => (.EV, 0x34)
  | .EV_VEC23 => (.EV, 0x38)
  | .ER_CTX => (.ER, 0x40)
  | .ER_BANK => (.ER, 0x44)
  | .ER_CAUSE => (.ER, 0x48)
  | .ER_WORD => (.ER, 0x4c)
  | .BR_CTRL => (.BR, 0x0)
  | .BR_STATUS => (.BR, 0x4)
  | .BR_CLK => (.BR, 0x8)
  | .BR_RUN_SET => (.BR, 0xc)
  | .BR_RUN_CLR => (.BR, 0x10)
  | .BR_KICK => (.BR, 0x14)
  | .BR_OWN => (.BR, 0x18)
  | .BR_PINS => (.BR, 0x1c)
  | .BR_IADDR => (.BR, 0x20)
  | .BR_IDATA => (.BR, 0x24)
  | .CR_CTRL_C => (.CRI, 0x0)
  | .CR_STATUS_C => (.CRI, 0x4)
  | .CR_EXEC => (.CRI, 0x8)
  | .CR_SHIFT => (.CRI, 0xc)
  | .CR_PINS => (.CRI, 0x10)
  | .CR_FIFO => (.CRI, 0x14)
  | .CR_TXF => (.CRI, 0x18)
  | .CR_RXF => (.CRI, 0x1c)
  | .CR_X => (.CRI, 0x20)
  | .CR_Y => (.CRI, 0x24)
  | .CR_PACE => (.CRI, 0x28)
  | .CR_CRC_CFG => (.CRI, 0x2c)
  | .CR_CRC_POLY => (.CRI, 0x30)
  | .CR_CRC_INIT => (.CRI, 0x34)
  | .CR_CRC_VAL => (.CRI, 0x38)
  | .CR_SCNT => (.CRI, 0x3c)
  | .CR_ISH => (.CRS, 0x0)
  | .CR_OSH => (.CRS, 0x8)
  | .PIN_CFG => (.PIN, 0x0)
  | .PIN_CFG_SH => (.PIN, 0x4)
  | .PIN_GPIO => (.PIN, 0x8)
  | .PIN_EVT => (.PIN, 0xc)
  | .PIN_STATUS => (.PIN, 0x10)
  | .PIN_CLAIM => (.PIN, 0x14)
  | .PSW_MAP0 => (.PSW, 0x0)
  | .PSW_MAP1 => (.PSW, 0x4)
  | .PSW_MAP0_SH => (.PSW, 0x8)
  | .PSW_MAP1_SH => (.PSW, 0xc)
  | .PSW_STATUS => (.PSW, 0x10)
  | .PIN_LEVEL => (.PW4, 0x20)
  | .PIN_OUT_SET => (.PW4, 0x30)
  | .PIN_OUT_CLR => (.PW4, 0x40)
  | .PIN_HOLD_SET => (.PW4, 0x50)
  | .PIN_HOLD_CLR => (.PW4, 0x60)
  | .CLM_TM => (.CLM32, 0x100)
  | .CLM_CT => (.CLM64, 0x180)
  | .LN_CTRL => (.LN, 0x0)
  | .LN_STATUS => (.LN, 0x4)
  | .LN_TRAIN => (.LN, 0x8)
  | .LN_GROUP => (.LN, 0xc)
  | .LN_FAULT => (.LN, 0x10)
  | .LN_LAT => (.LN, 0x14)
  | .LN_SB => (.LN, 0x18)
  | .LN_FEC_CORR => (.LN, 0x20)
  | .LN_FEC_UNCORR => (.LN, 0x24)
  | .LN_RX_DROP => (.LN, 0x28)
  | .LN_SYNC_CTRL => (.LN, 0x40)
  | .LN_SYNC_STATUS => (.LN, 0x44)
  | .LN_SYNC_OFS => (.LN, 0x48)
  | .LN_SYNC_DLY => (.LN, 0x50)
  | .LN_SYNC_ASYM => (.LN, 0x54)
  | .LN_AXS_TX => (.LN, 0x58)
  | .CS_VERSION => (.LN, 0x100)
  | .PT_CTRL => (.LN, 0x104)
  | .PT_STATUS => (.LN, 0x108)
  | .PT_ENTRY => (.LN, 0x10c)
  | .PT_MBOX => (.LN, 0x110)
  | .PT_PARAM => (.LN8, 0x120)
  | .PT_STAT => (.LN16, 0x400)
  | .PT_MAC => (.LN16x8, 0x800)
  | .STREAM => (.LNS, 0x4000)
  | .TH_STATE => (.TH, 0x0)
  | .TH_TRAP => (.TH, 0x4)
  | .TH_AUX => (.TH, 0x8)
  | .SH_MPC => (.TH, 0x80)
  | .MR => (.THM, 0x40)
  | .SH_MR => (.THM12, 0xc0)
  | .HL_STATUS => (.HALL, 0x0)
  | .HL_BELL_RING => (.HALL, 0x4)
  | .HL_LEVY0 => (.HALL, 0x10)
  | .HL_LEVY1 => (.HALL, 0x14)
  | .HL_HOSTLEVY => (.HALL, 0x18)
  | .HL_ABANDON => (.HALL, 0x1c)
  | .TK_LIVE => (.HALL, 0x20)
  | .TK_STRICT => (.HL8x8, 0x40)
  | .HL_GRANT => (.HL16, 0x100)
  | .HL_CONFLICT => (.HL16, 0x140)
  | .TK_HWORD => (.AG, 0x0)
  | .TK_HREL => (.AG, 0x4)
  | .TK_HACQ => (.AG, 0x8)
  | .TK_ENTRY => (.TKE, 0x0)
  | .QH_SEL => (.QH, 0x0)
  | .QH_RSV => (.QH, 0x4)
  | .QH_CMT => (.QH, 0x8)
  | .QH_TAKE => (.QH, 0xc)
  | .QH_DONE => (.QH, 0x10)
  | .QH_STAT => (.QH, 0x14)
  | .Q_BASE => (.Q, 0x0)
  | .Q_CFG => (.Q, 0x8)
  | .Q_PROD => (.Q, 0xc)
  | .Q_CONS => (.Q, 0x10)
  | .Q_HEAD => (.Q, 0x14)
  | .Q_TAIL => (.Q, 0x18)
  | .Q_NUM => (.Q, 0x1c)
  | .CE_CTRL => (.CE, 0x0)
  | .CE_STATUS => (.CE, 0x4)
  | .CE_ERR_INFO => (.CE, 0x8)
  | .CE_ERR_ADDR => (.CE, 0x10)
  | .CE_HMBUSY => (.CE, 0x18)
  | .CE_ACTIVE => (.CE, 0x1c)
  | .CE_WIN_BASE => (.CEW, 0x40)
  | .CE_WIN_LAST => (.CEW, 0x48)
  | .CH_SRC => (.CH, 0x0)
  | .CH_DST => (.CH, 0x8)
  | .CH_CNT => (.CH, 0x10)
  | .CH_FLAGS => (.CH, 0x14)
  | .CH_NEXT => (.CH, 0x18)
  | .CH_CTRL => (.CH, 0x20)
  | .CH_STATUS => (.CH, 0x24)
  | .CH_RESIDUE => (.CH, 0x28)
  | .CH_CRC => (.CH, 0x2c)
  | .CH_CUR => (.CH, 0x30)
  | .CH_SADDR => (.CH, 0x38)
  | .CH_DCOUNT => (.CH, 0x3c)
  | .HS_CTRL => (.HS, 0x0)
  | .HS_STATUS => (.HS, 0x4)
  | .HS_HOSTCAP => (.HS, 0x8)
  | .HS_SWAP_AT => (.HS, 0x10)
  | .HS_IMAGE_ID => (.HS, 0x18)
  | .HS_KEEP_UNITS => (.HS, 0xd0)
  | .HS_STALL => (.HS8, 0x40)
  | .HS_BARROW => (.HS16, 0x80)
  | .HS_KEEP_PIN => (.HS4, 0xc0)
  | .HS_PROF_AXIS => (.HSP, 0x0)
  | .HS_PROF_DECEL1 => (.HSP, 0x8)
  | .HS_PROF_KNEE => (.HSP, 0x10)
  | .HS_PROF_DECEL2 => (.HSP, 0x18)
  | .FT_HCTRL => (.FT, 0x0)
  | .FT_HSTATUS => (.FT, 0x4)
  | .FT_LOCKSTEP => (.FT, 0x8)
  | .FT_WIND => (.FT, 0xc)
  | .FT_CORR_LIMIT => (.FT, 0x10)
  | .FT_BFLAG => (.FT, 0x14)
  | .FT_CORR_HM => (.FT, 0xa4)
  | .FT_CORR_BR => (.FT, 0xa8)
  | .FT_CORR_PT => (.FT, 0xac)
  | .FT_CORR_CE => (.FT, 0xb0)
  | .FT_UNC_ADDR => (.FT, 0xb8)
  | .FT_ROLE => (.FT8, 0x20)
  | .FT_STALL => (.FT9, 0x40)
  | .FT_CORR => (.FT9, 0x80)
  | .TK_WORD => (.TR, 0xf800)
  | .TK_STAT => (.TR, 0xf803)
  | .TK_REL => (.TR, 0xf804)
  | .TK_ACQ => (.TR, 0xf808)
  | .BL_RING => (.TR, 0xf810)
  | .DB_RING => (.TR, 0xf814)
  | .QP_SEL => (.TR, 0xf820)
  | .QP_STAT => (.TR, 0xf824)
  | .QP_PUSH => (.TR, 0xf828)
  | .QP_POP => (.TR, 0xf830)
  | .QP_RSV => (.TR, 0xf838)
  | .QP_CMT => (.TR, 0xf83c)
  | .QP_TAKE => (.TR, 0xf840)
  | .QP_DONE => (.TR, 0xf844)
  | .AX_SEL => (.TR, 0xfc40)
  | .TM_SEL => (.TR, 0xfc41)
  | .CT_SEL => (.TR, 0xfc42)
  | .SC_STATUS => (.TR, 0xe040)

/-- Register names, part 1. -/
def RegName.part1 : List RegName :=
  [.DEV_STOCK_ID, .DEV_STOCK_UNITS, .DEV_STOCK_LANES, .DEV_STOCK_PINS, .TILL_NOW, .TILL_STATUS, .TILL_CTRL, .TILL_LFO_INC, .TILL_ALARM, .HP_CFG,
   .JOB_QUERY, .JOB_INFO, .JOB_COUNT, .PWR_STATUS, .PWR_CTRL, .PWR_CLK, .PWR_VSETTLE, .PWR_RESET, .PWR_RESET_CAUSE, .WK_CTRL,
   .WK_CAUSE, .WK_I2C, .FT_DSTATUS, .FT_THERM_CTRL, .FT_CORR_DEV, .TAX_CTRL, .TAX_STATUS, .TAX_SRC, .TAX_GAIN, .TAX_LIMITS,
   .TAX_VMIN, .TAX_POS, .TAX_VEL, .TAX_VCMD, .TAX_PRESET, .TAX_CMD, .TAX_LATENCY, .TAX_RESID, .TAX_UPD_TILL, .TAX_MEAS_TILL,
   .HP_STATUS, .HP_INFLIGHT, .HP_ERRCNT, .HP_HMBUSY, .HP_ERR_ADDR, .HP_ERR_STREAM, .OR_BASE, .OR_CTRL, .OR_STATUS, .OR_HEAD,
   .OR_TAIL, .CR_BASE, .CR_CTRL, .CR_STATUS, .CR_WRITE, .CR_READ, .CR_LOST, .CHIT_MASK_SET, .CHIT_MASK_CLR, .CHIT_PEND_SET]

/-- Register names, part 2. -/
def RegName.part2 : List RegName :=
  [.CHIT_PEND_CLR, .CHIT_LINE, .CHIT_ROUTE, .WK_PIN, .FT_TEMP, .TM_CTRL, .TM_STATUS, .TM_TARGET, .TM_STEP, .TM_INSTANT,
   .TM_ACTED_AT, .TM_ACTION, .TM_PULSE, .TM_COUNT, .TM_FIRED_SUM, .TM_LATE_SUM, .CT_CTRL, .CT_INPUT, .CT_STATUS, .CT_COUNT,
   .CT_PERIOD, .CT_COMPARE, .CT_CAPTURE, .CT_COUNT_LATCH, .CT_CAP_TILL, .STL_SELF, .STL_CTRL, .STL_STATUS, .STL_CODE_BASE, .STL_ICACHE,
   .STL_HWIN, .STL_RUN, .EV_HSEL, .EV_KICK, .BW_CTRL, .BW_STATUS, .BW_SEL, .BW_VIEW, .BW_HLIMIT01, .BW_HLIMIT23,
   .BW_TABLE, .TR_BANK, .TR_UNSCHED, .TR_IMISS, .TR_HOSTPG, .EV_CTRL, .EV_PEND, .EV_PEND_SET, .EV_EN_SET, .EV_EN_CLR,
   .EV_OVR, .EV_ROUTE, .EV_TRAPLVL, .EV_HSEL01, .EV_HSEL23, .EV_HSEL45, .EV_HSEL67, .EV_STATUS, .EV_VEC01, .EV_VEC23]

/-- Register names, part 3. -/
def RegName.part3 : List RegName :=
  [.ER_CTX, .ER_BANK, .ER_CAUSE, .ER_WORD, .BR_CTRL, .BR_STATUS, .BR_CLK, .BR_RUN_SET, .BR_RUN_CLR, .BR_KICK,
   .BR_OWN, .BR_PINS, .BR_IADDR, .BR_IDATA, .CR_CTRL_C, .CR_STATUS_C, .CR_EXEC, .CR_SHIFT, .CR_PINS, .CR_FIFO,
   .CR_TXF, .CR_RXF, .CR_X, .CR_Y, .CR_PACE, .CR_CRC_CFG, .CR_CRC_POLY, .CR_CRC_INIT, .CR_CRC_VAL, .CR_SCNT,
   .CR_ISH, .CR_OSH, .PIN_CFG, .PIN_CFG_SH, .PIN_GPIO, .PIN_EVT, .PIN_STATUS, .PIN_CLAIM, .PSW_MAP0, .PSW_MAP1,
   .PSW_MAP0_SH, .PSW_MAP1_SH, .PSW_STATUS, .PIN_LEVEL, .PIN_OUT_SET, .PIN_OUT_CLR, .PIN_HOLD_SET, .PIN_HOLD_CLR, .CLM_TM, .CLM_CT,
   .LN_CTRL, .LN_STATUS, .LN_TRAIN, .LN_GROUP, .LN_FAULT, .LN_LAT, .LN_SB, .LN_FEC_CORR, .LN_FEC_UNCORR, .LN_RX_DROP]

/-- Register names, part 4. -/
def RegName.part4 : List RegName :=
  [.LN_SYNC_CTRL, .LN_SYNC_STATUS, .LN_SYNC_OFS, .LN_SYNC_DLY, .LN_SYNC_ASYM, .LN_AXS_TX, .CS_VERSION, .PT_CTRL, .PT_STATUS, .PT_ENTRY,
   .PT_MBOX, .PT_PARAM, .PT_STAT, .PT_MAC, .STREAM, .TH_STATE, .TH_TRAP, .TH_AUX, .SH_MPC, .MR,
   .SH_MR, .HL_STATUS, .HL_BELL_RING, .HL_LEVY0, .HL_LEVY1, .HL_HOSTLEVY, .HL_ABANDON, .TK_LIVE, .TK_STRICT, .HL_GRANT,
   .HL_CONFLICT, .TK_HWORD, .TK_HREL, .TK_HACQ, .TK_ENTRY, .QH_SEL, .QH_RSV, .QH_CMT, .QH_TAKE, .QH_DONE,
   .QH_STAT, .Q_BASE, .Q_CFG, .Q_PROD, .Q_CONS, .Q_HEAD, .Q_TAIL, .Q_NUM, .CE_CTRL, .CE_STATUS,
   .CE_ERR_INFO, .CE_ERR_ADDR, .CE_HMBUSY, .CE_ACTIVE, .CE_WIN_BASE, .CE_WIN_LAST, .CH_SRC, .CH_DST, .CH_CNT, .CH_FLAGS]

/-- Register names, part 5. -/
def RegName.part5 : List RegName :=
  [.CH_NEXT, .CH_CTRL, .CH_STATUS, .CH_RESIDUE, .CH_CRC, .CH_CUR, .CH_SADDR, .CH_DCOUNT, .HS_CTRL, .HS_STATUS,
   .HS_HOSTCAP, .HS_SWAP_AT, .HS_IMAGE_ID, .HS_KEEP_UNITS, .HS_STALL, .HS_BARROW, .HS_KEEP_PIN, .HS_PROF_AXIS, .HS_PROF_DECEL1, .HS_PROF_KNEE,
   .HS_PROF_DECEL2, .FT_HCTRL, .FT_HSTATUS, .FT_LOCKSTEP, .FT_WIND, .FT_CORR_LIMIT, .FT_BFLAG, .FT_CORR_HM, .FT_CORR_BR, .FT_CORR_PT,
   .FT_CORR_CE, .FT_UNC_ADDR, .FT_ROLE, .FT_STALL, .FT_CORR, .TK_WORD, .TK_STAT, .TK_REL, .TK_ACQ, .BL_RING,
   .DB_RING, .QP_SEL, .QP_STAT, .QP_PUSH, .QP_POP, .QP_RSV, .QP_CMT, .QP_TAKE, .QP_DONE, .AX_SEL,
   .TM_SEL, .CT_SEL, .SC_STATUS]

/-- Every register name. -/
def RegName.all : List RegName := RegName.part1 ++ RegName.part2 ++ RegName.part3 ++ RegName.part4 ++ RegName.part5

/-- The indices of the instance at distance `d` from the first one, and the distance that is left. -/
def unstride : List (Nat × Nat) → Nat → Option (List Nat × Nat)
  | [], d => some ([], d)
  | (st, n) :: rest, d =>
    if d / st < n then (unstride rest (d % st)).map (fun r => (d / st :: r.1, r.2)) else none

/-- The instance of a register name that the word at host offset `a` belongs to, and whether it is its high word. -/
def RegName.at_ (n : RegName) (a : Nat) : Option (Reg × Bool) :=
  let (b, o) := n.place
  match b.strides with
  | none => none
  | some st =>
    if a < b.base + o then none
    else match unstride st (a - b.base - o) with
    | some (is, rest) =>
      let r : Reg := ⟨n, is.getD 0 0, is.getD 1 0, is.getD 2 0, is.getD 3 0⟩
      if rest = 0 then some (r, false) else if rest = 4 ∧ n.is64 then some (r, true) else none
    | none => none

/-- The register whose word stands at host offset `a` (a multiple of 4). -/
def regAt (a : Nat) : Option (Reg × Bool) := RegName.all.findSome? (fun n => n.at_ a)

/-- A block of registers that every hall has. -/
def Blk.ofHall (b : Blk) : Bool :=
  match b with
  | .DEV | .AX | .HPn | .OR | .CR | .K2 | .K64 | .WKP | .FTT => false
  | _ => true

/-- A register of a lane or of its porter. -/
def RegName.ofLane (n : RegName) : Bool :=
  match n.place.1 with
  | .LN | .LN8 | .LN16 | .LN16x8 | .LNS | .TH | .THM | .THM12 => true
  | _ => false

/-- A register of the power and wake block (R395). -/
def RegName.ofPower (n : RegName) : Bool :=
  match n with
  | .PWR_STATUS | .PWR_CTRL | .PWR_CLK | .PWR_VSETTLE | .PWR_RESET | .PWR_RESET_CAUSE | .WK_CTRL | .WK_CAUSE | .WK_I2C
  | .WK_PIN => true
  | _ => false

end Sys2Proof.Machine
end

