-- ==== Sys2Proof/Machine/Resets.lean ====
section
/-! DEFINITION. Resets and their scopes (R374, R385), the early market (R377 to R380), wakes (R386, R390), and the reference
clock (R30). -/

namespace Sys2Proof.Machine

/-! ## Resets (R374) -/

/-- Every table entry of a hall goes. -/
def State.dropHall (s : State) (h : Nat) : State :=
  { s with
    marks := Tab.delIf s.marks (fun k => k.1 == h)
    counters := Tab.delIf s.counters (fun k => k.1 == h)
    pins := Tab.delIf s.pins (fun k => k.1 == h)
    criers := Tab.delIf s.criers (fun k => k.h == h)
    crWas := Tab.delIf s.crWas (fun k => k.h == h)
    crDid := Tab.delIf s.crDid (fun k => k.h == h)
    barrows := Tab.delIf s.barrows (fun k => k.1 == h)
    lanes := Tab.delIf s.lanes (fun k => k.1 == h)
    threads := Tab.delIf s.threads (fun k => k.1 == h)
    chans := Tab.delIf s.chans (fun k => k.1 == h)
    slots := Tab.delIf s.slots (fun k => k == h)
    cartTurn := Tab.delIf s.cartTurn (fun k => k == h)
    pathArb := Tab.delIf s.pathArb (fun k => k == h)
    agentWait := s.agentWait.filter (fun o => o.h != h)
    atomArb := Tab.delIf s.atomArb (fun k => k == h)
    traders := s.traders.map (fun (e : TraderId × Trader) => if e.1.h == h then (e.1, e.2.bare) else e)
    stalls := Tab.delIf s.stalls (fun k => k.1 == h)
    failovers := Tab.delIf s.failovers (fun k => k == h)
    corrTold := s.corrTold.filter (fun e => e.1 != h)
    stallSlot := Tab.delIf s.stallSlot (fun k => k.1 == h)
    deliveries := s.deliveries.filter (fun d => d.h != h)
    edgeActs := s.edgeActs.filter (fun e => e.h != h)
    hostPops := s.hostPops.filter (fun p => p.h != h)
    swaps := s.swaps.map (fun (w : Swap) => { w with
      marks := w.marks.filter (fun k => k.1 != h), stalls := w.stalls.filter (fun k => k.1 != h),
      barrows := w.barrows.filter (fun k => k.1 != h) })
    deferred := s.deferred.filter (fun d => d.1 != h) }

/-- The masters of a hall: its traders, its porter threads and its host agents (R270). -/
def mastersOf (h : Nat) : List Nat :=
  (List.range 9).flatMap (fun f => (tradersOf h f).map (fun t => callerNum (.trader t))) ++
    (List.range 4).flatMap (fun k => [callerNum (.porter h k 0), callerNum (.porter h k 1)]) ++
    (List.range 16).map (fun a => callerNum (.host h a))

/-- Every master of a hall is reset (R279). -/
def State.abandonHall (s : State) (h : Nat) : State := forAll (mastersOf h) (fun n s => s.abandon h n) s

/-- A register of a hall that a hall reset sets to its value at reset: all of them but CS_VERSION. -/
def Reg.inHall (r : Reg) (h : Nat) : Bool := r.name.place.1.ofHall && r.a == h && r.name != .CS_VERSION

/-- The jobs that train the lanes or run on the channels that a reset stops end FAILED, as if the training were incomplete or
the channel aborted (assumption log 62). -/
def State.dropJobs (s : State) (lanes : Nat × Nat → Bool) (chans : Nat × Nat → Bool) : State :=
  let s := forAll (s.lanes.filter (fun e => lanes e.1)) (fun e s =>
    match e.2.training with
    | some (_, job) => if job = 0xFFFF then s else s.jobTo job .failed 3
    | none => s) s
  forAll (s.chans.filter (fun e => chans e.1 && e.2.act)) (fun e s => if e.2.job = 0 then s else s.jobTo e.2.job .failed 3) s

/-- A hall reset: every unit of the hall; the arrays keep their contents. -/
def State.hallReset (s : State) (h : Nat) : State :=
  if s.part.halls ≤ h then s
  else
    let s := (s.abandonHall h).dropJobs (fun k => k.1 == h) (fun k => k.1 == h)
    let s := (s.resetRegs (fun r => r.inHall h)).dropHall h
    let s := s.forget (fun r => r.hall == some h)
    let s := s.put FT_DSTATUS.HALLS {} (bits (s.get FT_DSTATUS.HALLS) 7 0 &&& (255 - 2 ^ (h % 8)))
    let s := if s.clkRun then forAll (List.range 16) (fun b s => s.startClock h b (s.cycle h b)) s else s
    (s.put PWR_RESET_CAUSE.CAUSE {} (0x10 + h)).swapTidy.refreshLive.retire

/-- A porter reset: the lane and porter registers of one porter but CS_VERSION and PT_ENTRY; both threads are reset as
masters. -/
def State.porterReset (s : State) (h k : Nat) : State :=
  if s.part.halls ≤ h ∨ s.part.lanes ≤ 4 * h + k ∨ 4 ≤ k then s
  else
    let s := s.dropJobs (fun x => x == (h, k)) (fun _ => false)
    let s := if s.laneUp h k then s.leaveGroup h k else s
    let s := forAll [0, 1] (fun th s => s.abandon h (callerNum (.porter h k th))) s
    let s := s.forget (fun r => match r.owner with | .porter h' k' _ => h' == h && k' == k | _ => false)
    let s := s.drives h s.tick (fun s =>
      { (s.resetRegs (fun r => r.name.ofLane && r.a == h && r.b == k && r.name != .CS_VERSION && r.name != .PT_ENTRY)) with
        lanes := Tab.delIf s.lanes (fun x => x == (h, k)) })
    { s with
      threads := Tab.delIf s.threads (fun x => x.1 == h && x.2.1 == k)
      hostPops := s.hostPops.filter (fun p => match p.by_ with | .porter h' k' _ => !(h' == h && k' == k) | _ => true) }

/-- PWR_RESET.STALL: it is discarded while a fail-over of the hall uses the stall (R407). -/
def State.stallResetCmd (s : State) (h f : Nat) : State :=
  if s.part.halls ≤ h ∨ s.part.stalls ≤ f then s
  else match s.failover h with
    | some o => if f = o.f ∨ f = 8 then s else s.stallReset h f
    | none => s.stallReset h f

/-- The status of the power block at a reset or a wake: nothing runs on a core PLL. -/
def State.powerDown (s : State) : State :=
  let s := ((s.set PWR_STATUS.FULL {} false).set PWR_STATUS.CORE_LOCK {} false).put PWR_STATUS.PL {} 0
  (s.set PWR_CLK.ON_FIO {} true).set PWR_CLK.PLL_SEL {} false

/-- The tile at a power-on: what the environment fixes, and the commands that wait, stay. -/
def State.powerOn (s : State) : State :=
  { State.reset with
    part := s.part
    dbg := { en := s.dbg.en }
    power := { porst := true, rst := s.power.rst }
    readOut := s.readOut
    freeIx := s.freeIx
    pending := s.pending }

/-- A device reset, `pin` while RESET_N is low: everything but the power and wake block and the arrays, whose live tokens are
marked first (R374). From OFF it clears the arrays (R391). -/
def State.deviceReset (s : State) (cause : Nat) (pin : Bool) : State :=
  let off := s.power.step == .asleep 6
  let s := forAll (List.range 8) (fun h s => forAll (s.toks h) (fun e s => s.setTokWord h e.word 0xFFFE) s) s
  let r : State :=
    { State.reset with
      part := s.part
      regs := s.regs.filter (fun e => e.1.name.ofPower || e.1.name == .CS_VERSION && !off)
      mem := if off then [] else s.mem
      ecc := if off then [] else s.ecc
      traders := if off then [] else s.traders.map (fun (e : TraderId × Trader) => (e.1, e.2.bare))
      dbg := { en := s.dbg.en }
      power := { rst := pin || s.power.rst, porst := s.power.porst }
      readOut := s.readOut
      freeIx := s.freeIx
      pending := s.pending }
  let r := (r.powerDown.put PWR_STATUS.STATE {} 0).put PWR_RESET_CAUSE.CAUSE {} cause
  if off then r.set PWR_STATUS.MEM_CLEAR {} false else r

/-- A write of PWR_RESET performs the reset of widest scope that it names (R375). -/
def State.pwrResetWrite (s : State) (v : Nat) : State :=
  if bit v 31 then s.deviceReset 3 false
  else if bit v 30 then s.hallReset (bits v 10 8)
  else if bit v 29 then s.stallResetCmd (bits v 10 8) (bits v 7 4)
  else if bit v 28 then s.porterReset (bits v 10 8) (bits v 1 0)
  else s

/-! ## Early market (R377 to R380) -/

/-- The level at full service: PWR_CTRL.BOOT_PL, or the RESUME_PL of a wake from NAP (R379). -/
def State.bootLevel (s : State) : Nat := if s.power.left = some 5 then s.power.resume else s.get PWR_CTRL.BOOT_PL

/-- T0 of the boot ROM raises the supply once the memories are clear and the till is locked (R379). -/
def State.romStep (s : State) : State :=
  if (s.trader ⟨0, 0, 0⟩).inRom && (s.trader ⟨0, 0, 0⟩).running && s.is PWR_STATUS.MEM_CLEAR && s.is TILL_STATUS.LOCKED &&
      s.power.step == .none && !s.power.romRuns then
    { s with power := { s.power with step := .raiseSupply s.bootLevel, vreq := s.bootLevel, since := s.tick } }
  else s

/-! ## Transitions (R382, R393) -/

/-- A transition of power is under way: a POWER job, a throttle, the boot ROM's own raise, or a wake (R393). -/
def State.inTransition (s : State) : Bool :=
  s.power.job.isSome || s.power.step != .none || (s.power.left.isSome && !s.is PWR_STATUS.FULL)

/-- A supply is requested (R381). -/
def State.request (s : State) (level : Nat) (step : PowerStep) : State :=
  { s with power := { s.power with vreq := level, since := s.tick, step := step } }

/-- PWR_VSETTLE has passed since the request: a microsecond is 16,000 ticks. -/
def State.settledSupply (s : State) : Bool :=
  decide (s.power.since + max 1 (s.get PWR_VSETTLE.US) * 16000 ≤ s.tick)

/-- The first step of a change to another level: the supply for a raise, the idle core PLL for a lower. -/
def State.changeLevel (s : State) (level : Nat) : State :=
  if s.get PWR_STATUS.PL < level then s.request level (.raiseSupply level)
  else { s with power := { s.power with step := .lowerLock level } }

/-- A throttle begins: the tile lowers to PL1 without a job (R410). -/
def State.beginThrottle (s : State) : State :=
  let pl := s.get PWR_STATUS.PL
  let s := { s with power := { s.power with before := some pl, throttle := none } }
  let s := s.set FT_DSTATUS.THROTTLED {} true
  if 1 < pl then s.changeLevel 1 else s

/-- A throttle ends: the tile raises to the level in force before it. -/
def State.endThrottle (s : State) : State :=
  let b := s.power.before.getD 0
  let s := { s with power := { s.power with before := none, throttle := none } }
  let s := s.set FT_DSTATUS.THROTTLED {} false
  if s.get PWR_STATUS.PL < b then s.changeLevel b else s

/-- A throttle that has waited for the end of a transition begins or ends. -/
def State.throttleTurn (s : State) : State :=
  if s.inTransition then s
  else match s.power.throttle with
    | some true => s.beginThrottle
    | some false => s.endThrottle
    | none => s

/-- A level is reached: PL is written, and the job, if there is one, is DONE. -/
def State.levelReached (s : State) (level : Nat) : State :=
  let s := s.put PWR_STATUS.PL {} level
  let job := s.power.job
  let s := { s with power := { s.power with step := .none, job := none } }
  (match job with | some j => s.jobTo j .done | none => s).romStep.throttleTurn

/-- The stalls move to the other core PLL. -/
def State.swapPll (s : State) : State := s.set PWR_CLK.PLL_SEL {} (!s.is PWR_CLK.PLL_SEL)

/-! ## The boot ROM (R378, R379) -/

/-- H0.S0.T0 to T3 issue from the boot ROM: T0 runs its sequence, and T1 to T3 wait in WFE (R378, R379). -/
def State.romStart (s : State) : State :=
  let go (t : Nat) (s : State) : State :=
    s.upd ⟨0, 0, t⟩ (fun tr => { tr with running := true, pc := 0, inRom := true, wait := if t = 0 then .none else .wfe })
  (forAll [0, 1, 2, 3] go s).romStep

/-- The traders that are still in the boot ROM stop. -/
def State.romLeave (s : State) : State :=
  forAll [0, 1, 2, 3] (fun t s =>
    if (s.trader ⟨0, 0, t⟩).inRom then (s.stopPlain ⟨0, 0, t⟩).upd ⟨0, 0, t⟩ (fun tr => { tr with inRom := false }) else s) s

/-- The SLEEP holds become HOST holds, and each pin filter restarts (R212, R214). -/
def State.sleepToHost (s : State) : State :=
  forAll (List.range s.part.halls) (fun h s => forAll (List.range 128) (fun i s =>
    if s.is PIN_STATUS.HOLD_SLEEP (ix h i) then
      (s.set PIN_STATUS.HOLD_SLEEP (ix h i) false).set PIN_STATUS.HOLD_HOST (ix h i) true
    else s) s) s

/-- Every filter restarts on a wake (R212). -/
def State.restartFilters (s : State) : State :=
  { s with pins := s.pins.map (fun (e : (Nat × Nat) × PinState) => (e.1, { e.2 with fresh := true, run := 0, lockout := 0 })) }

/-- DATA of a WAKE chit (R394). -/
def State.wakeData (s : State) (left : Nat) : Nat :=
  s.get WK_CAUSE.PIN + b2n (s.is WK_I2C.ALARM_HIT) <<< 32 + b2n (s.is WK_I2C.DB_HIT) <<< 33 + b2n (s.is WK_I2C.HIT) <<< 34 +
    left <<< 40

/-- Full service: every stall moves onto core PLL A, the boot ROM leaves the map, and RESET_DONE or WAKE is raised (R379,
R380); a throttle that waited for it begins (R410). -/
def State.fullService (s : State) : State :=
  let pl := s.bootLevel
  let s := s.freezeAll.romLeave
  let s := ((s.set PWR_STATUS.FULL {} true).set PWR_STATUS.CORE_LOCK {} true).put PWR_STATUS.PL {} pl
  let s := (s.set PWR_CLK.ON_FIO {} false).set PWR_CLK.PLL_SEL {} false
  let s := s.put PWR_STATUS.STATE {} 0
  (match s.power.left with
  | none => ({ s with power := { s.power with step := .none, romRuns := false } }).chit 0x40 0 (s.get PWR_RESET_CAUSE.CAUSE) s.tick
  | some left =>
    let s := s.sleepToHost
    ({ s with power := { s.power with step := .none, romRuns := false, left := none, woken := false, ack := none } }).chit 0x41 0
      (s.wakeData left) s.tick).throttleTurn

/-! ## Wakes (R386, R390, R385) -/

/-- A register that OFF keeps: the power and wake block, the till, the axes and the counters. -/
def RegName.offKeeps (n : RegName) : Bool :=
  n.ofPower || (match n.place.1 with | .AX | .CT => true | _ => false) ||
    (match n with | .TILL_NOW | .TILL_STATUS | .TILL_CTRL | .TILL_LFO_INC | .TILL_ALARM => true | _ => false)

/-- The tile after the loss of power of OFF: what the always-on domain keeps stays, the arrays are clear, and every pin
keeps its SLEEP hold. -/
def State.afterOff (s : State) : State :=
  let r : State :=
    { State.reset with
      part := s.part
      tick := s.tick
      till := s.till
      regs := s.regs.filter (fun e => e.1.name.offKeeps)
      axes := s.axes
      counters := s.counters
      pins := s.pins
      deferred := s.deferred
      dbg := s.dbg
      power := s.power
      readOut := s.readOut
      freeIx := s.freeIx
      pending := s.pending }
  let r := forAll (List.range s.part.halls) (fun h r => forAll (List.range 128) (fun i r =>
    r.set PIN_STATUS.HOLD_SLEEP (ix h i) true) r) r
  r.set PWR_STATUS.MEM_CLEAR {} false

/-- What a wake does to an axis: no axis has advanced in sleep, so its projection goes on from the wake; a quadrature axis is
lost, and an SSI or lane axis waits for its first measurement (R42). -/
def State.wakeAxis (s : State) (n : Nat) : State :=
  let a := s.axis n
  let s := s.setAxis n { a with t := s.tick, p0 := a.p, v0 := a.v, t0 := s.tick, eff := s.tick, notBefore := 0, meas := none }
  match s.get TAX_CTRL.SRC (ix n) with
  | 1 => if s.is TAX_STATUS.LOST (ix n) then s else s.goLost n s.tick true
  | 2 | 3 => s.setAxis n { s.axis n with wakeRecover := true }
  | _ => s

/-- A wake from NAP or OFF begins: the till goes to the FIO, registers leave retention or take their values at reset, and
kept doorbells are applied (R389, R390). -/
def State.beginWake (s : State) : State :=
  match s.power.step with
  | .asleep x =>
    let s := s.freezeAll.tillTo .fio
    let doors := s.power.doors
    let s := (if x = 6 then s.afterOff else s).restartFilters
    let s := { s with power := { s.power with step := .none, left := some x, vreq := 0, doors := [], romRuns := false, woken := false } }
    let s := (s.powerDown).put PWR_STATUS.STATE {} 3
    let s := forAll (List.range 16) (fun n s => (s.set TAX_STATUS.EARLY (ix n) true).wakeAxis n) s
    let s := if x = 5 then forAll doors (fun d s => s.put OR_TAIL.TAIL (ix d.1) (d.2 % 4096 % s.orSize d.1)) s else s
    s.serveOrders.settle
  | _ => s

/-- A wake source fires, in sleep or out of it. -/
def State.wakeSource (s : State) (hit : State → State) : State := if s.asleep then (hit s).beginWake else s.wakeLatch hit

/-! ## The till and the reference clock (R26, R30, R31, R378) -/

/-- The till PLL locks: crier clocks start and axes interpolate. -/
def State.pllLock (s : State) : State :=
  let s := s.freezeAll.tillTo .pll
  let s := forAll (List.range s.part.halls) (fun h s => forAll (List.range 16) (fun b s =>
    s.startClock h b (s.cycleAt h b s.till.pllEnd)) s) s
  (forAll (List.range 16) (fun n s => s.set TAX_STATUS.EARLY (ix n) false) s).romStep

/-- A loss of the reference clock is a fault of the wind-down class where a hall says so (R411). -/
def State.refWind (s : State) : State :=
  if (List.range s.part.halls).any (fun h => s.is FT_WIND.REFCLK (ix h)) then { s with faults := s.faults ++ [.wind 5 0] } else s

/-- The reference is lost: holdover, lanes down, training failed (R30). -/
def State.refLost (s : State) : State :=
  let s := { s with till := { s.till with refUp := false } }
  let s := (s.set TILL_STATUS.HOLDOVER {} true).set TILL_STATUS.REF_LOST {} true
  let s := forAll (List.range s.part.halls) (fun h s => forAll (List.range 4) (fun k s =>
    match (s.lane h k).training with
    | some (_, job) =>
      let s := s.trainEnds h k 4
      if job = 0xFFFF then s.laneChit h k 0x19 (s.trainData h k) else s.jobTo job .failed 4
    | none => if s.lnState h k = 2 then s.goDown h k else s) s) s
  (s.chit 0x08 0 1 s.tick).refWind

/-! ## The rows -/

/-- A write of PWR_CLK.SWITCH by the host, or by T0 of the boot ROM, acts once core PLL A is locked (R379). -/
def State.switchBy (s : State) (by_ : Accessor) : State :=
  let may := match by_ with
    | .host _ => true
    | .trader t => decide (t = ⟨0, 0, 0⟩) && (s.trader t).inRom
  if may && s.power.romRuns && !s.is PWR_STATUS.FULL then s.fullService else s

/-- POWER_ON_RESET (R374). -/
def execPowerOnReset (s : State) : Out := .next s.powerOn

/-- DEVICE_RESET (R374): the debug port asks for one only while DBG_EN is 1 (R428); under PORST_N the power-on reset stands
(R418). -/
def execDeviceReset (src : ResetSrc) (s : State) : Out :=
  .next (match src with
    | .pin => if s.power.porst then { s with power := { s.power with rst := true } } else s.deviceReset 2 true
    | .register => s.deviceReset 3 false
    | .debug => if s.dbg.en then s.deviceReset 4 false else s)

/-- HALL_RESET (R374). -/
def execHallReset (h : Nat) (s : State) : Out := .next (s.hallReset h)

/-- STALL_RESET (R374). -/
def execStallReset (h f : Nat) (s : State) : Out := .next (s.stallResetCmd h f)

/-- PORTER_RESET (R374). -/
def execPorterReset (h k : Nat) (s : State) : Out := .next (s.porterReset h k)

/-- RESET_RELEASE (R418) of PORST_N or of RESET_N: with neither low any more the instants of R378 count from here. -/
def execResetRelease (porst : Bool) (s : State) : Out :=
  let p := if porst then { s.power with porst := false } else { s.power with rst := false }
  .next (if !s.power.held then s
    else if p.held then { s with power := p }
    else { s with tick := 0, till := { s.till with base := 0 }, power := p })

/-- BOOT_ROM_START (R378). -/
def execBootRomStart (s : State) : Out :=
  .next (if s.power.held || s.asleep || s.is PWR_STATUS.FULL || (s.trader ⟨0, 0, 0⟩).inRom then s else s.romStart)

/-- TILL_PLL_LOCK (R378): the till is on the FIO, and the reference is there. -/
def execTillPllLock (s : State) : Out :=
  .next (if s.till.clk = .fio ∧ s.till.refUp ∧ !s.power.held then s.pllLock else s)

/-- SWITCH (R379). -/
def execClockSwitch (by_ : Accessor) (s : State) : Out :=
  .next (s.byPort (accPort by_) 8 (.clockSwitch by_) false (fun s =>
    s.switchBy by_))

/-- REF_BACK (R30). -/
def execRefBack (s : State) : Out := .next { s with till := { s.till with refUp := true } }

/-- HOLDOVER_EXIT (R30). -/
def execHoldoverExit (s : State) : Out :=
  .next (if s.is TILL_STATUS.HOLDOVER ∧ s.till.refUp then (s.set TILL_STATUS.HOLDOVER {} false).chit 0x08 0 0 s.tick else s)

/-- TILL_ALARM_FIRE (R31): the stepped till is at or past the alarm, and has advanced since the alarm was written. -/
def execTillAlarmFire (s : State) : Out :=
  .next (if s.is TILL_CTRL.ALARM_EN ∧ s.get TILL_ALARM.VAL ≤ s.tillNow ∧ s.till.alarmAt ≠ some s.tillNow then
    let s := (s.set TILL_STATUS.ALARM_HIT {} true).set TILL_CTRL.ALARM_EN {} false
    let s := s.chit 0x06 0 (s.get TILL_ALARM.VAL) s.tick
    if s.is TILL_CTRL.ALARM_WAKE then s.wakeSource (fun s => s.set WK_I2C.ALARM_HIT {} true) else s
  else s)

end Sys2Proof.Machine
end

