-- ==== Sys2Proof/Machine/StallRegs.lean ====
section
/-! DEFINITION. The stall's memories and their pages (R69 to R72), the instruction cache (R76 to R78), lockstep pairs (R401),
requests of fail-over and releases of holds (R403, R406, R373), and host-window accesses to memory (R321). -/

namespace Sys2Proof.Machine

/-! ## Stall RAM and IMEM -/

/-- The copy of a stall array in the checker of a lockstep pair, for an array of its even stall (R401). -/
def State.mirror (s : State) (a : Arr) : Option Arr :=
  let paired (h f : Nat) : Bool := f % 2 == 0 && f < 8 && bit (s.get FT_LOCKSTEP.PAIR (ix h)) (f / 2)
  match a with
  | .shared h f => if paired h f then some (.shared h (f + 1)) else none
  | .slice h f t => if paired h f then some (.slice h (f + 1) t) else none
  | .imem h f p => if paired h f then some (.imem h (f + 1) p) else none
  | _ => none

/-- Bytes written into an array, and into its copy in a lockstep checker. -/
def State.storeS (s : State) (a : Arr) (o : Nat) (bs : List Byte) : State :=
  match s.mirror a with
  | some b => (s.store a o bs).store b o bs
  | none => s.store a o bs

/-- The loop buffers of a stall whose trader satisfies `p` are discarded (R74). -/
def State.dropBufs (s : State) (h f : Nat) (p : LoopBuf → Bool) : State :=
  forAll (tradersOf h f) (fun t s =>
    match (s.trader t).lbuf with
    | some b => if p b then s.upd t (fun tr => { tr with lbuf := none }) else s
    | none => s) s

/-- The IMEM pages of a stall are exchanged. -/
def State.exchangePages (s : State) (h f : Nat) : State :=
  (s.put STL_STATUS.PAGE (ix h f) (1 - s.page h f)).dropBufs h f (fun _ => true)

/-- A write of STL_CTRL.PAGE_SEL (R71). -/
def State.pageSel (s : State) (h f : Nat) (page : Bool) : State :=
  let i := ix h f
  if s.tick < (s.stall h f).swapEnd then s.set STL_STATUS.PAGE_REFUSED i true
  else if b2n page = s.page h f then s.set STL_CTRL.PAGE_SEL i page
  else if s.allStopped h f then (s.set STL_CTRL.PAGE_SEL i page).exchangePages h f
  else s.set STL_STATUS.PAGE_REFUSED i true

/-- A word written into IMEM by the host or the loader (R72): a loop-buffer body that contains it is discarded. -/
def State.imemWord (s : State) (h f page off : Nat) (bs : List Byte) : State :=
  let s := s.storeS (.imem h f page) off bs
  if page = s.page h f then s.dropBufs h f (fun b => b.holds (off / 4)) else s

/-- A host-window write to IMEM is 32 bits wide and aligned; any other is discarded. -/
def State.imemWrite (s : State) (h f page off : Nat) (bs : List Byte) : State :=
  if bs.length = 4 ∧ off % 4 = 0 ∧ off + 4 ≤ 0x8000 ∧ page < 2 then s.imemWord h f page off bs else s

/-- The array and the offset that a byte of the stall RAM window shows (R96). -/
def State.winAt (s : State) (h f o : Nat) : Arr × Nat :=
  let w := s.get STL_HWIN.WIN (ix h f)
  if w < 4 then (.shared h f, w * 0x8000 + o) else (.slice h f (4 * (w - 4) + o / 0x2000), o % 0x2000)

/-- Bytes written through the stall RAM window. -/
def State.winWrite (s : State) (h f o : Nat) (bs : List Byte) : State :=
  let (a, p) := s.winAt h f o
  s.storeS a p bs

/-! ## The instruction cache -/

/-- A write of 1 to STL_ICACHE.INVAL: every line is invalid, and bodies in hall memory leave the loop buffers (R74, R78). -/
def State.invalidate (s : State) (h f : Nat) : State :=
  let s := s.setStall h f { s.stall h f with lines := [], inval := true }
  let s := { s with ecc := Tab.delIf s.ecc (fun w => w.1 == 3 && w.2 / 0x100000 == h * 16 + f) }
  (s.set STL_ICACHE.INVAL_BUSY (ix h f) true).dropBufs h f (fun b => decide (0x2000 ≤ b.le ∨ b.le < b.ls))

/-- The way that a fill of a set takes: one that holds no line, or the one that the replacement names (R76). -/
def Stall.victim (st : Stall) (set : Nat) : Nat :=
  ((List.range 4).find? (fun w => !st.lines.any (fun l => l.set == set && l.way == w))).getD (plruVictim (Tab.get st.plru set 0))

/-- The line buffer is filled (R77): a waiting fetch from the line gets its word, and the line is allocated; with a double-bit
error nothing is allocated, and each waiting trader meets the error in its next slot (R168). -/
def State.lineFill (s : State) (h f : Nat) (o : MemOutcome) : State :=
  match (s.stall h f).fill with
  | none => s
  | some line =>
    let waiting := (tradersOf h f).filter (fun t =>
      (s.trader t).missing && decide (0x2000 ≤ (s.trader t).pc) && s.codeAddr t (s.trader t).pc / 64 * 64 == line)
    let s := (s.setStall h f { s.stall h f with fill := none }).set STL_STATUS.FILL (ix h f) false
    let s := s.granted h f line 64
    let mark := s.errorIn (.hallMem h) line 64
    let s := if mark = some false then s.corrected h 9 else if mark = some true then s.uncorrectable h 9 line true else s
    if mark = some true ∨ o = .hallError then
      forAll waiting (fun t s => s.upd t (fun tr => { tr with missing := false, fetched := some (tr.pc, 0), badFill := true })) s
    else
      let (bytes, s) := s.collided o.words line (s.bytesAt (.hallMem h) line 64)
      let s := forAll waiting (fun t s => s.upd t (fun tr =>
        { tr with missing := false, fetched := some (tr.pc, field bytes (s.codeAddr t tr.pc % 64) 4), badFill := false })) s
      let st := s.stall h f
      if s.is STL_ICACHE.EN (ix h f) && !st.inval then
        let set := line / 64 % 64
        let way := st.victim set
        let s := forAll (List.range 16) (fun k s => s.wordClean (icacheWord h f (line + 4 * k))) s
        (s.setStall h f { st with lines := ⟨set, way, line, bytes⟩ :: st.lines.filter (fun l => !(l.set == set && l.way == way)) }).usedWay
          h f set way
      else s

/-! ## Lockstep pairs (R401) -/

/-- The registers and traders of the even stall of a pair stand in the odd one too when the pair ends. -/
def State.copyPair (s : State) (h f : Nat) : State :=
  let regs := s.regs.filter (fun e => e.1.name.ofStall && e.1.a == h && e.1.b == f)
  let s := s.resetRegs (fun r => r.name.ofStall && r.a == h && r.b == f + 1)
  let s := forAll regs (fun e s => s.wr { e.1 with b := f + 1 } e.2.toNat) s
  let s := forAll (List.range 16) (fun t s => s.setTrader ⟨h, f + 1, t⟩ { s.trader ⟨h, f, t⟩ with stores := [], loads := [] }) s
  { s with stallSlot := Tab.set s.stallSlot (h, f + 1) (Tab.get s.stallSlot (h, f) 0) }.setStall h (f + 1) (s.stall h f)

/-- A write of FT_LOCKSTEP: a bit changes only while every trader of both stalls is stopped. DESIGN CHOICE (assumption log 129): a
stall that has failed stays failed, with its role. -/
def State.lockstepWrite (s : State) (h v : Nat) : State :=
  forAll [0, 1, 2, 3] (fun j s =>
    let old := s.get FT_LOCKSTEP.PAIR (ix h)
    let (e, o) := (2 * j, 2 * j + 1)
    if bit old j = bit v j then s
    else if s.allStopped h e && s.allStopped h o then
      if bit v j then
        let s := s.put FT_LOCKSTEP.PAIR (ix h) (old ||| 2 ^ j)
        if s.get FT_STALL.STATE (ix h o) = 3 then s else (s.put STL_SELF.ROLE (ix h o) 0xE).put FT_STALL.STATE (ix h o) 4
      else
        let s := (s.put FT_LOCKSTEP.PAIR (ix h) (old &&& (15 - 2 ^ j))).copyPair h e
        if s.get FT_STALL.STATE (ix h o) = 3 then s else (s.put STL_SELF.ROLE (ix h o) o).put FT_STALL.STATE (ix h o) 0
    else s.set FT_HSTATUS.LS_REFUSED (ix h) true) s

/-! ## Requests and releases -/

/-- A fail-over of a role with cause HOST (R403). -/
def State.failRole (s : State) (h role : Nat) : State :=
  match s.roleStall h role with
  | some f => if role < 8 then { s with faults := s.faults ++ [FaultCause.failover h f 6] }.settle else s
  | none => s

/-- A hold source of every pin of a hall is cleared. -/
def State.releaseHall (s : State) (h : Nat) (src : Field) : State :=
  forAll (List.range 128) (fun i s => if s.is src (ix h i) then s.unhold h i src else s) s

/-- A write of FT_HCTRL (R413). -/
def State.hctrlWrite (s : State) (h v : Nat) : State :=
  let s := (s.set FT_HCTRL.HOLD_KEEP (ix h) (bit v 29)).set FT_HCTRL.SCRUB_EN (ix h) (bit v 28)
  let s := if bit v 30 then s.releaseHall h PIN_STATUS.HOLD_FAIL else s
  if bit v 31 then s.failRole h (bits v 3 0) else s

/-! ## Host-window accesses to memory (R321) -/

/-- The memory at a host offset. -/
def winMem (a : Nat) : Option WinMem :=
  if 0x2000000 ≤ a then (if a < 0x4000000 then some (.hall ((a - 0x2000000) / 0x400000) (a % 0x400000)) else none)
  else if a < 0x200000 ∨ 0x1200000 ≤ a then none
  else
    let h := (a - 0x200000) / 0x200000
    let o := (a - 0x200000) % 0x200000
    if 0x30000 ≤ o ∧ o < 0x38000 then
      let p := (o - 0x30000) % 0x800
      if 0x400 ≤ p ∧ p < 0x600 then some (.crier h ((o - 0x30000) / 0x800) (bits p 8 8) (p % 0x100 / 4)) else none
    else if 0x40000 ≤ o ∧ o < 0x160000 then
      let f := (o - 0x40000) / 0x20000
      let p := (o - 0x40000) % 0x20000
      if p < 0x8000 then none
      else if p < 0x10000 then some (.ram h f (p - 0x8000))
      else some (.imem h f ((p - 0x10000) / 0x8000) (p % 0x8000))
    else if 0x180000 ≤ o ∧ o < 0x1C0000 then
      let p := (o - 0x180000) % 0x10000
      if 0x8000 ≤ p then some (.store h ((o - 0x180000) / 0x10000) (p - 0x8000)) else none
    else none

/-- The hall of a place of memory. -/
def WinMem.hallOf : WinMem → Nat
  | .hall h _ | .ram h _ _ | .imem h _ _ _ | .crier h _ _ _ | .store h _ _ => h

/-- An access to the memory is held: by a fail-over (R404), or while its array is being cleared (R377). The arrays of H0.S0, which
are cleared first, count as clear once its traders run the boot ROM (assumption log 6). -/
def State.memHeld (s : State) (m : WinMem) : Bool :=
  match m with
  | .hall h _ => s.inHall h && s.clearing
  | .ram h f _ | .imem h f _ _ =>
    s.inStall h f && (s.stallBusy h f || (s.clearing && !(h == 0 && f == 0 && (s.trader ⟨0, 0, 0⟩).inRom)))
  | .crier h _ _ _ => s.inHall h && s.clearing
  | .store h k _ => s.inLane h k && s.clearing

/-- A host write to memory: 1 to 64 bytes, under the rules of each memory. -/
def State.winMemWrite (s : State) (m : WinMem) (bs : List Byte) : State :=
  match m with
  | .hall h o =>
    if h < s.part.halls ∧ 1 ≤ bs.length ∧ bs.length ≤ 64 ∧ o + bs.length ≤ 0x400000 then
      (s.granted h 15 o bs.length).store (.hallMem h) o bs
    else s
  | .ram h f o =>
    if !s.inStall h f then s
    else if 1 ≤ bs.length ∧ bs.length ≤ 64 ∧ o % 64 + bs.length ≤ 64 then s.winWrite h f o bs
    else s
  | .imem h f page o =>
    if !s.inStall h f then s
    else s.imemWrite h f page o bs
  | .crier h b page w =>
    if s.inHall h ∧ bs.length = 4 then s.pageWrite h b page w (ofBytes bs) else s
  | .store h k o =>
    if s.inLane h k ∧ bs.length = 4 ∧ o % 4 = 0 then s.csWrite h k o (ofBytes bs) else s

/-- A host read of `n` bytes of memory: the data, and the state after it. Uncorrectable data give an error response; a collision
in hall memory gives undefined bytes, and with HM_BUSY it is counted (R268, R321). An access that the memory does not accept reads
zeros. -/
def State.winMemRead (s : State) (p : Nat) (m : WinMem) (n : Nat) (o : MemOutcome) : List Byte × State :=
  let none_ : List Byte := List.replicate n 0
  let bad (s : State) : List Byte × State := (none_, { s with readErr := true })
  match m with
  | .hall h off =>
    if !s.inHall h || decide (64 < n) || decide (0x400000 < off + n) then (none_, s)
    else
      let s := s.granted h 15 off n
      match s.errorIn (.hallMem h) off n with
      | some true => bad (s.uncorrectable h 9 off true)
      | e =>
        let s := if e = some false then s.corrected h 9 else s
        let s := if o.busy then (s.set HP_STATUS.HM_BUSY (ix p) true).count HP_HMBUSY.COUNT (ix p) else s
        s.collided o.words off (s.bytesAt (.hallMem h) off n)
  | .ram h f off =>
    if !s.inStall h f || decide (64 < off % 64 + n) then (none_, s)
    else
      let (a, q) := s.winAt h f off
      match s.errorIn a q n with
      | some true => bad s
      | e => (s.bytesAt a q n, if e = some false then s.corrected h f else s)
  | .imem h f page off =>
    if !s.inStall h f || off % 4 != 0 || n != 4 then (none_, s)
    else
      match s.errorIn (.imem h f page) off 4 with
      | some true => bad s
      | e => (s.bytesAt (.imem h f page) off 4, if e = some false then s.corrected h f else s)
  | .crier h b page w =>
    if !s.inHall h || n != 4 then (none_, s)
    else
      match s.errorIn (.crierPage h b page) (4 * w) 4 with
      | some true => bad (s.uncorrectable h 8 (4 * w) true)
      | e => (toBytes 4 (s.pageWord h b page w), if e = some false then s.corrected h 10 else s)
  | .store h k off =>
    if !s.inLane h k || off % 4 != 0 || n != 4 then (none_, s)
    else
      match s.errorIn (.cstore h k) off 4 with
      | some true => bad (s.uncorrectable h 0xD off true)
      | e => (s.bytesAt (.cstore h k) off 4, if e = some false then s.corrected h 11 else s)

/-! ## The rows -/

/-- PAGE_SEL (R71). -/
def execPageSel (by_ : Accessor) (h f : Nat) (page : Bool) (s : State) : Out :=
  .next (s.byPort (accPort by_) h (.pageSel by_ h f page) (s.holdsWord by_ h f).isSome (fun s =>
    if s.reachesStall by_ h f then s.pageSel h f page else s))

/-- INVAL (R78). -/
def execInval (by_ : Accessor) (h f : Nat) (s : State) : Out :=
  .next (s.byPort (accPort by_) h (.inval by_ h f) (s.holdsWord by_ h f).isSome (fun s =>
    if s.reachesStall by_ h f then s.invalidate h f else s))

/-- ICACHE_INVAL_END (R78). -/
def execIcacheInvalEnd (h f : Nat) (s : State) : Out :=
  .next (if (s.stall h f).inval then (s.setStall h f { s.stall h f with inval := false }).set STL_ICACHE.INVAL_BUSY (ix h f) false
    else s)

/-- ICACHE_LINE_FILL (R77). -/
def execIcacheLineFill (h f : Nat) (o : MemOutcome) (s : State) : Out :=
  .next (if s.clearing then s else (s.lineFill h f o).settle)

/-- IMEM_WRITE (R72). -/
def execImemWrite (port h f page : Nat) (off : Nat) (data : List Byte) (s : State) : Out :=
  .next (s.byPort port h (.imemWrite port h f page off data) (s.memHeld (.imem h f page off)) (fun s =>
    s.winMemWrite (.imem h f page off) data))

/-- FT_LOCKSTEP_WRITE (R401). -/
def execFtLockstepWrite (port h : Nat) (v : Word) (s : State) : Out :=
  .next (s.byPort port h (.ftLockstepWrite port h v) false (fun s =>
    if s.inHall h then s.lockstepWrite h v.toNat else s))

/-- FAIL (R403). -/
def execFailRequest (port h role : Nat) (s : State) : Out :=
  .next (s.byPort port h (.failRequest port h role) false (fun s =>
    if s.inHall h then s.failRole h role else s))

/-- FAIL_RELEASE (R406). -/
def execFailRelease (port h : Nat) (s : State) : Out :=
  .next (s.byPort port h (.failRelease port h) false (fun s =>
    if s.inHall h then s.releaseHall h PIN_STATUS.HOLD_FAIL else s))

/-- WIND_RELEASE (R373). -/
def execWindRelease (port h : Nat) (s : State) : Out :=
  .next (s.byPort port h (.windRelease port h) false (fun s =>
    if s.inHall h then s.releaseHall h PIN_STATUS.HOLD_WIND else s))

/-- WINDOW_MEMORY_WRITE (R321): hall memory, stall RAM and the other memories of the window. -/
def execWindowMemoryWrite (port addr : Nat) (data : List Byte) (s : State) : Out :=
  .next (s.byPort port (((winMem addr).map WinMem.hallOf).getD 8) (.windowMemoryWrite port addr data) ((winMem addr).any s.memHeld) (fun s =>
    match winMem addr with
    | some m => s.winMemWrite m data
    | none => s))

end Sys2Proof.Machine
end

