-- ==== Sys2Proof/Machine/RegMap.lean ====
section
/-! DEFINITION. Accesses to registers: what a register reads as, what a write of it does, and how the host window (R320,
R321, R23) and the I/O page of a trader (R22 to R24, R96, R170, R200, R201, R289) reach it. -/

namespace Sys2Proof.Machine

/-! ## Presence and places -/

/-- The unit of a register is present (R4). -/
def Reg.present (p : Part) (r : Reg) : Bool :=
  (!r.name.place.1.ofHall || decide (r.a < p.halls)) &&
    (!(r.name.ofStall || r.name == .STL_SELF) || decide (r.b < p.stalls)) &&
    (!r.name.ofLane || decide (4 * r.a + r.b < p.lanes)) && (r.name != .SC_STATUS || p.scale)

/-- The register of a trader's event block at an offset of the block, and the byte of it (R170). -/
def evReg (t : TraderId) (o : Nat) : Option (Reg × Nat) :=
  let n : Option RegName := match o / 4 with
    | 0 => some .EV_CTRL | 1 => some .EV_PEND | 2 => some .EV_PEND_SET | 3 => some .EV_EN_SET | 4 => some .EV_EN_CLR
    | 5 => some .EV_OVR | 6 => some .EV_ROUTE | 7 => some .EV_TRAPLVL | 8 => some .EV_HSEL01 | 9 => some .EV_HSEL23
    | 10 => some .EV_HSEL45 | 11 => some .EV_HSEL67 | 12 => some .EV_STATUS | 13 => some .EV_VEC01 | 14 => some .EV_VEC23
    | _ => none
  if o < 0x40 then n.map (fun n => (t.ix.reg n, o % 4))
  else if o < 0x80 then
    let n : RegName := match o / 4 % 4 with | 0 => .ER_CTX | 1 => .ER_BANK | 2 => .ER_CAUSE | _ => .ER_WORD
    some ((t.lvl ((o - 0x40) / 0x10)).reg n, o % 4)
  else none

/-- A place in the stall block of the host window: hall, stall, offset (R96). -/
def stallPlace (a : Nat) : Option (Nat × Nat × Nat) :=
  if 0x200000 ≤ a ∧ a < 0x1200000 then
    let h := (a - 0x200000) / 0x200000
    let o := (a - 0x200000) % 0x200000
    if 0x40000 ≤ o ∧ o < 0x160000 then some (h, (o - 0x40000) / 0x20000, (o - 0x40000) % 0x20000) else none
  else none

/-- The device register that a view in the stall block shows (R96). -/
def viewAt (o : Nat) : Option Nat :=
  if 0x20 ≤ o ∧ o < 0x30 then some (0x100 + (o - 0x20)) else if 0x30 ≤ o ∧ o < 0x34 then some (0x8000 + (o - 0x30)) else none

/-- The register word at a host offset, and whether it is the high word of its register. -/
def State.hostReg (s : State) (a : Nat) : Option (Reg × Bool) :=
  match stallPlace a with
  | some (h, f, o) =>
    if 0x200 ≤ o ∧ o < 0x280 then (evReg ⟨h, f, s.get EV_HSEL.TRADER (ix h f)⟩ (o - 0x200)).map (fun r => (r.1, false))
    else match viewAt o with
      | some v => if s.inStall h f then regAt v else none
      | none => regAt a
  | none => regAt a

/-- The registers that only traders reach. -/
def traderRegs : List RegName :=
  [.TK_WORD, .TK_STAT, .TK_REL, .TK_ACQ, .BL_RING, .DB_RING, .QP_SEL, .QP_STAT, .QP_PUSH, .QP_POP, .QP_RSV, .QP_CMT, .QP_TAKE,
   .QP_DONE, .AX_SEL, .TM_SEL, .CT_SEL, .SC_STATUS]

/-- The number of bytes of a register. -/
def RegName.bytes (n : RegName) : Nat :=
  match n with
  | .TK_STAT | .TK_REL | .QP_CMT | .QP_DONE | .AX_SEL | .TM_SEL | .CT_SEL => 1
  | .DB_RING | .QP_SEL => 2
  | .TK_WORD => 3
  | .TK_ACQ | .QP_PUSH | .QP_POP => 8
  | n => if n.is64 then 8 else 4

/-- The byte whose write completes a write of the register by a trader (R24, R201). -/
def RegName.lastByte (n : RegName) : Nat := if n = .BR_IDATA then 2 else n.bytes - 1

/-- The registers marked "operation" (R281, R289). -/
def RegName.operation (n : RegName) : Bool :=
  match n with
  | .TK_REL | .TK_ACQ | .QP_PUSH | .QP_POP | .QP_RSV | .QP_CMT | .QP_TAKE | .QP_DONE => true
  | _ => false

/-- The host offset of what a trader's I/O page shows at an address (R22, R96, R200). -/
def State.ioHost (s : State) (t : TraderId) (a : Nat) : Option Nat :=
  let hb := 0x200000 * t.h
  let st := 0x240000 + hb + 0x20000 * t.s
  if 0xF000 ≤ a ∧ a < 0xF400 then
    (if 0xF200 ≤ a ∧ a < 0xF284 then none
     else match viewAt (a - 0xF000) with
       | some v => some v
       | none => some (st + (a - 0xF000)))
  else if 0xF400 ≤ a ∧ a < 0xF800 then
    ((s.barrowsOf t.h t.s)[(a - 0xF400) / 0x200]?).map (fun b => 0x230000 + hb + 0x800 * b + (a - 0xF400) % 0x200)
  else if 0xFC00 ≤ a ∧ a < 0xFC20 then some (0x1000 + (a - 0xFC00))
  else if 0xFC80 ≤ a ∧ a < 0xFD00 then some (0x2000 + 0x100 * ((a - 0xFC80) / 8) + 0x18 + a % 8)
  else if 0xFD00 ≤ a ∧ a < 0xFD80 then some (0x2000 + 0x100 * s.get AX_SEL.AXIS t.ix + (a - 0xFD00))
  else if 0xFE00 ≤ a ∧ a < 0xFE40 then some (0x238000 + hb + 0x40 * s.get TM_SEL.MARK t.ix + (a - 0xFE00))
  else if 0xFE40 ≤ a ∧ a < 0xFE50 then some (0x238800 + hb + (a - 0xFE40))
  else if 0xFF00 ≤ a ∧ a < 0xFF40 then some (0x239000 + hb + 0x40 * s.get CT_SEL.COUNTER t.ix + (a - 0xFF00))
  else none

/-- The register and its byte at an address of a trader's I/O page or coprocessor window. -/
def State.ioReg (s : State) (t : TraderId) (a : Nat) : Option (Reg × Nat) :=
  match traderRegs.find? (fun n => decide (n.place.2 ≤ a) && decide (a < n.place.2 + n.bytes)) with
  | some n => some (t.ix.reg n, a - n.place.2)
  | none =>
    if 0xF200 ≤ a ∧ a < 0xF280 then evReg t (a - 0xF200)
    else match s.ioHost t a with
      | some x => (regAt (x / 4 * 4)).map (fun r => (r.1, x % 4 + (if r.2 then 4 else 0)))
      | none => none

/-! ## What a register reads as -/

/-- The code of a job order (R326). -/
def JobBody.code : JobBody → Nat
  | .loadImage .. => 1 | .swapAt .. => 2 | .claim _ | .release .. => 5 | .clear .. => 6 | .trainLane _ => 7
  | .loadMicrocode .. => 8 | .calibrate .. => 9 | .cartJob .. => 0xA | .power .. => 0xB | .windDown .. => 0xC

/-- A word whose bit `k` tells `p k`. -/
def maskOf (n : Nat) (p : Nat → Bool) : Nat := ((List.range n).filter p).foldl (fun m k => m + 2 ^ k) 0

/-- PIN_STATUS.RD_PAD (R210): start-up, test, recovery. -/
def State.rdPad (s : State) (h i : Nat) : Bool :=
  !s.is PWR_STATUS.FULL || s.dbg.test || s.is PIN_STATUS.HOLD_WIND (ix h i) || s.is PIN_STATUS.HOLD_FAIL (ix h i)

/-- BR_STATUS.FLAGGED: the criers with a flag in CR_STATUS [7:1] (R202). -/
def State.flagged (s : State) (h b : Nat) : Nat :=
  maskOf 4 (fun c => bits (s.rd ((ix h b c).reg .CR_STATUS_C)) 7 1 != 0)

/-- The present value of a register, as a read returns it, without what the read does (R8). -/
def State.view (s : State) (by_ : Accessor) (r : Reg) : Nat :=
  let i : Ix := ⟨r.a, r.b, r.c, r.d⟩
  let t : TraderId := ⟨r.a, r.b, r.c⟩
  let x := s.axis r.a
  let now := s.tick
  let s := if r.name.ofCrier then s.crierShown ⟨r.a, r.b, r.c⟩ else s
  match r.name with
  | .TILL_NOW => s.tillNow
  | .TAX_STATUS => s.taxStatus r.a
  | .TAX_POS => unsg 64 (s.axisPos r.a now)
  | .TAX_VEL => unsg 64 (x.inForce now).2.1
  | .TAX_UPD_TILL => if x.eff ≤ now then x.upd else x.upd0
  | .TAX_RESID => unsg 32 (if x.eff ≤ now then x.resid else x.resid0)
  | .TAX_MEAS_TILL => if x.eff ≤ now then x.measTill else x.measTill0
  | .HP_INFLIGHT => (s.reqs.filter (fun q => q.issued && q.port == r.a)).length
  | .CR_STATUS => setBits (s.rd r) 0 0 (b2n (s.crFull r.a))
  | .CHIT_MASK_CLR => s.get CHIT_MASK_SET.MASK i
  | .CHIT_PEND_SET | .CHIT_PEND_CLR => maskOf 32 (fun j => s.crPend (32 * r.a + j))
  | .CHIT_LINE => maskOf 32 (fun j => s.crLine (32 * r.a + j))
  | .JOB_INFO =>
    match s.job (s.get JOB_QUERY.JOB) with
    | some j => 2 ^ 31 + j.state.code <<< 28 + b2n j.suspPend <<< 27 + b2n j.cancelPend <<< 26 + b2n (s.holds j.num) <<< 25 +
        j.ring <<< 21 + j.body.code <<< 8 + j.reason % 256
    | none => 0
  | .JOB_COUNT => s.jobs.length
  | .TM_STATUS =>
    let m := s.mark r.a r.b
    let armed := s.is TM_STATUS.ARMED i
    let (inst, com) := if m.eff ≤ now then (m.inst, m.committed) else (m.inst0, m.committed0)
    setBits (s.rd r) 30 28 (b2n (armed && com) * 4 + b2n (armed && inst.isNone) * 2 +
      s.get TAX_STATUS.LOST (ix (if armed then m.axis else s.get TM_CTRL.AXIS i)))
  | .TM_INSTANT =>
    let m := s.mark r.a r.b
    match s.is TM_STATUS.ARMED i, (if m.eff ≤ now then m.inst else m.inst0) with
    | true, some n => n % 2 ^ 64
    | _, _ => 2 ^ 64 - 1
  | .TM_FIRED_SUM => maskOf 32 (fun m => s.is TM_STATUS.FIRED (ix r.a m))
  | .TM_LATE_SUM => maskOf 32 (fun m => s.is TM_STATUS.LATE (ix r.a m))
  | .CT_STATUS =>
    let s := s.ctCatch r.a r.b now
    setBits (s.rd r) 31 31 (b2n (s.is CT_CTRL.ENABLE i && decide (s.get CT_CTRL.CLK_SRC i ≤ 3) &&
      !(r.b == 0 && s.get CT_CTRL.CLK_SRC i == 3)))
  | .CT_COUNT | .CT_CTRL => (s.ctCatch r.a r.b now).rd r
  | .STL_SELF => s.rd r + (match by_ with | .host _ => 16 | .trader q => q.t)
  | .STL_RUN =>
    maskOf 16 (fun k => (s.trader ⟨r.a, r.b, k⟩).running && !(s.trader ⟨r.a, r.b, k⟩).halted) +
      maskOf 16 (fun k => (s.trader ⟨r.a, r.b, k⟩).wait != .none && (s.trader ⟨r.a, r.b, k⟩).wait != .drain) <<< 16
  | .BW_SEL => match by_ with | .host _ => s.rd r | .trader _ => 0
  | .BW_VIEW =>
    let q : TraderId := match by_ with
      | .host _ => ⟨r.a, r.b, s.get BW_SEL.TRADER i⟩
      | .trader q => q
    let b := (s.trader q).bud (s.cur q)
    (b.limit.getD 0 % 65536) <<< 16 + min b.count 65535
  | .TR_BANK => (s.trader t).bank
  | .EV_PEND_SET => s.get EV_PEND.PEND i
  | .EV_EN_CLR => s.rd (i.reg .EV_EN_SET)
  | .BR_STATUS => setBits (setBits (s.rd r) 30 30 (b2n s.clkRun)) 3 0 (s.flagged r.a r.b)
  | .BR_RUN_SET | .BR_RUN_CLR => maskOf 4 (fun k => (s.crierShown ⟨r.a, r.b, k⟩).crierRuns ⟨r.a, r.b, k⟩)
  | .BR_PINS =>
    let drive (p : Nat) : Bool × Bool := s.crierDrive r.a r.b p (s.cycle r.a r.b) (s.funcNow r.a (8 * r.b + p))
    s.brLevel r.a r.b <<< 16 + maskOf 8 (fun p => (drive p).1) <<< 8 + maskOf 8 (fun p => (drive p).2)
  | .BR_IDATA => s.pageWord r.a r.b (s.get BR_IADDR.PAGE i) (s.get BR_IADDR.WORD i)
  | .CR_FIFO => setBits (setBits (s.rd r) 12 8 (s.crier ⟨r.a, r.b, r.c⟩).rx.length) 4 0 (s.crier ⟨r.a, r.b, r.c⟩).tx.length
  | .CR_CRC_VAL => s.crc ⟨r.a, r.b, r.c⟩
  | .CR_STATUS_C => if s.inDelay ⟨r.a, r.b, r.c⟩ then setBits (s.rd r) 25 23 2 else s.rd r
  | .CR_PACE => (s.paceTo ⟨r.a, r.b, r.c⟩ (s.cycle r.a r.b)).rd r
  | .PIN_STATUS => setBits (setBits (s.rd r) 31 31 (b2n (s.heldPin r.a r.b))) 26 26 (b2n (s.rdPad r.a r.b))
  | .PIN_GPIO => if s.rdPad r.a r.b then setBits (s.rd r) 0 0 (s.get PIN_STATUS.LEVEL i) else s.rd r
  | .PIN_LEVEL => maskOf 32 (fun j => s.is PIN_STATUS.LEVEL (ix r.a (32 * r.b + j)))
  -- DESIGN CHOICE (assumption log 89): these two words show the latches, also while RD_PAD is 1 (R210)
  | .PIN_OUT_SET | .PIN_OUT_CLR => maskOf 32 (fun j => bit (s.rd ((ix r.a (32 * r.b + j)).reg .PIN_GPIO)) 0)
  | .PIN_HOLD_SET | .PIN_HOLD_CLR => maskOf 32 (fun j => s.is PIN_STATUS.HOLD_HOST (ix r.a (32 * r.b + j)))
  | .LN_STATUS => s.lnStatus r.a r.b
  | .LN_LAT => (Config.lnLat (s.lnMode r.a r.b)).toNat
  | .MR => s.mr r.a r.b r.c r.d
  | .TK_LIVE => (s.toks r.a).length
  -- DESIGN CHOICE (assumption log 137): entries stand in the order of their acquisition, and move down when one before them goes
  | .TK_ENTRY =>
    match (s.toks r.a)[r.b]? with
    | some e => 2 ^ 63 + b2n e.strict <<< 62 + e.word <<< 16 + e.owner
    | none => 0
  | .CE_STATUS => setBits (s.rd r) 8 0 (s.fifo r.a).length
  | .CH_RESIDUE => if (s.chan r.a r.b).act then (s.chan r.a r.b).residue else s.rd r
  | .CE_ACTIVE => maskOf 32 (fun c => (s.chan r.a c).act)
  | .FT_BFLAG => maskOf 16 (fun b => s.flagged r.a b != 0)
  | _ => s.rd r

/-! ## What a write does -/

/-- The bits of a register that a write sets. -/
def RegName.rwBits (n : RegName) : Nat :=
  n.fields.foldl (fun m f => if f.acc = .RW then m ||| ((2 ^ (f.hi + 1 - f.lo) - 1) <<< f.lo) else m) 0

/-- Some channel of a hall's cart engine is not IDLE. -/
def State.cartsBusy (s : State) (h : Nat) : Bool := (List.range 32).any (fun c => (s.chan h c).act)

/-- A register that holds fields of the register descriptor. -/
def RegName.ofRegDesc (n : RegName) : Bool :=
  match n with
  | .CH_SRC | .CH_DST | .CH_CNT | .CH_FLAGS | .CH_NEXT => true
  | _ => false

/-- A field of a channel that may be written only while it is IDLE; a write of the register descriptor in the hall cycle of a
start is taken by the start (R311). -/
def State.idleWrite (s : State) (h c : Nat) (r : Reg) (v : Nat) : State :=
  let a := s.chan h c
  if a.act && !(s.cartBegan a && a.load == some .reg && r.name.ofRegDesc) then s.set CH_STATUS.CFG_ERR (ix h c) true else s.fieldWrite r v

/-- A write of CH_CTRL (R307, R308, R310, R311). -/
def State.chCtrlWrite (s : State) (h c v : Nat) : State :=
  let i := ix h c
  if bit v 31 && bit v 30 then s.set CH_STATUS.CFG_ERR i true
  else
    let old := s.rd (i.reg .CH_CTRL)
    let busy := (s.chan h c).act
    let s := if busy && bits v 28 18 != bits old 28 18 then s.set CH_STATUS.CFG_ERR i true else s
    let keep := if busy then bits old 28 18 else bits v 28 18
    let s := if bits v 17 12 = bits old 17 12 then s else s.settleCredit h c
    let s := s.wr (i.reg .CH_CTRL) (bits old 29 29 <<< 29 + keep <<< 18 + bits v 17 0)
    let s := if bit v 30 then s.cartAbort h c else s
    let s := if bit v 29 then (s.cartPause h c true).cartSuspended h c else s.cartPause h c false
    if bit v 31 then (s.cartBegin h c 0).1 else s

/-- A complete write of a register: `v` is the value that takes effect (R8, and the rules of each register). -/
def State.regWrite (s : State) (by_ : Accessor) (r : Reg) (v : Nat) : State :=
  let i : Ix := ⟨r.a, r.b, r.c, r.d⟩
  let t : TraderId := ⟨r.a, r.b, r.c⟩
  let cr : CrierId := ⟨r.a, r.b, r.c⟩
  match r.name with
  | .TILL_CTRL =>
    let from_ := if bit v 31 && !s.is TILL_CTRL.TRIM_AUTO then s.tick else s.till.trimFrom
    { (s.fieldWrite r v) with till := { s.till with trimFrom := from_ } }
  | .TILL_ALARM => { (s.fieldWrite r v) with till := { s.till with alarmAt := some s.tillNow } }
  | .TILL_LFO_INC => if s.is TILL_CTRL.TRIM_AUTO then s else s.fieldWrite r v
  | .HP_CFG => (s.fieldWrite r v).grantTags
  | .LN_SB => s.drives r.a s.tick (fun s => s.fieldWrite r v)
  | .TAX_CTRL => s.taxCtrlWrite r.a v
  | .TAX_CMD => s.taxCmd r.a (bit v 0) (bit v 1)
  | .TM_CTRL => s.tmCtrlWrite r.a r.b v
  | .TM_FIRED_SUM => forAll (ones 32 v) (fun m s => s.w1c TM_STATUS.FIRED (ix r.a m) 1) s
  | .TM_LATE_SUM => forAll (ones 32 v) (fun m s => s.w1c TM_STATUS.LATE (ix r.a m) 1) s
  | .CT_CTRL => s.ctCtrlWrite r.a r.b v
  | .CT_INPUT => s.ctInputWrite r.a r.b v
  | .CT_COUNT => s.ctCountWrite r.a r.b v
  | .CT_PERIOD => s.ctPeriodWrite r.a r.b v
  | .CT_COMPARE => s.ctCompareWrite r.a r.b v
  | .CT_STATUS => (s.ctCatch r.a r.b s.tick).fieldWrite r v
  | .STL_CTRL =>
    let s := (s.pageSel r.a r.b (bit v 31)).set STL_CTRL.LBUF_EN i (bit v 30)
    if bit v 30 then s else s.dropBufs r.a r.b (fun _ => true)
  | .STL_ICACHE =>
    let s := s.set STL_ICACHE.EN i (bit v 29)
    if bit v 31 then s.invalidate r.a r.b else s
  | .EV_KICK => s.evKick r.a r.b v
  | .EV_PEND =>
    let s := s.fieldWrite r v
    if bit v 9 && !bit (s.get EV_PEND.PEND i) 9 then s.upd t (fun tr => { tr with busErr := (0, 0) }) else s
  | .EV_PEND_SET => s.evPendSet t v
  | .EV_HSEL01 | .EV_HSEL23 | .EV_HSEL45 | .EV_HSEL67 => (s.hselNote r).fieldWrite r v
  | .EV_EN_CLR => s.clrIn EV_EN_SET.EN i (bits v 8 0)
  | .ER_CTX => s.erWrite by_ t r.d 0 v
  | .ER_BANK => s.erWrite by_ t r.d 1 v
  | .BR_CTRL => s.barrowPageSel r.a r.b (bit v 31)
  | .BR_CLK => s.brClkWrite r.a r.b v
  | .BR_RUN_SET => s.criersStart r.a r.b (bits v 3 0)
  | .BR_RUN_CLR => s.criersStop r.a r.b (bits v 3 0)
  | .BR_KICK => s.kickCriers r.a r.b (bits v 3 0)
  | .BR_IDATA => s.brIdataWrite r.a r.b v
  | .BR_OWN => s.brOwnWrite r.a r.b v
  | .CR_CTRL_C =>
    let s := if bit v 31 then s.crierRestart cr else s
    if bit v 30 then s.crierPort cr .flush else s
  | .CR_TXF => s.txPush cr (BitVec.ofNat 32 v)
  | .PIN_CFG => s.pinCfgWrite r.a r.b v
  | .PIN_CFG_SH => s.pinCfgShWrite r.a r.b v
  | .PIN_EVT => s.pinEvtWrite r.a r.b v
  | .PSW_MAP0 => s.pswMapWrite r.a 0 v
  | .PSW_MAP1 => s.pswMapWrite r.a 1 v
  | .PIN_GPIO => ((s.setPin r.a r.b (s.pin r.a r.b)).drives r.a s.tick (fun s => s.fieldWrite r (setBits v 0 0 (s.rd r)))).latchWrite r.a r.b false (bit v 0)
  | .PIN_OUT_SET => s.eachPin r.b v (fun p s => s.latchWrite r.a p true true)
  | .PIN_OUT_CLR => s.eachPin r.b v (fun p s => s.latchWrite r.a p true false)
  | .PIN_HOLD_SET => s.eachPin r.b v (fun p s => s.hold r.a p PIN_STATUS.HOLD_HOST)
  | .PIN_HOLD_CLR => s.eachPin r.b v (fun p s => s.unhold r.a p PIN_STATUS.HOLD_HOST)
  | .LN_CTRL => s.lnCtrlWrite r.a r.b v
  | .LN_GROUP => s.lnGroupWrite r.a r.b v
  | .PT_CTRL => (s.runWrite r.a r.b 1 (bit v 31)).runWrite r.a r.b 0 (bit v 30)
  | .PT_MBOX => s.mboxWrite r.a r.b v
  | .MR => if s.thRuns r.a r.b r.c then s else s.setMr r.a r.b r.c r.d v
  | .HL_BELL_RING => s.ringMask false r.a 32 v
  | .HL_ABANDON => forAll (ones 16 v) (fun a s => s.abandon r.a (0x2000 + a)) s
  | .BL_RING => s.ringMask false r.a 32 v
  | .DB_RING => s.ringMask true 0 16 v
  | .TK_HREL => s.agentRelease r.a r.b (bit v 0)
  | .QH_CMT => s.agentOp r.a r.b (if bit v 0 then .abort else .commit)
  | .QH_DONE => s.agentOp r.a r.b (if bit v 0 then .ret else .done)
  | .CE_CTRL =>
    let s := s.put CE_CTRL.HALT_RING i (bits v 5 0)
    if bit v 31 then (s.set CE_STATUS.HALT i false).set CE_ERR_INFO.VALID i false else s
  | .CE_WIN_BASE | .CE_WIN_LAST => if s.cartsBusy r.a then s else s.fieldWrite r v
  | .CH_SRC | .CH_DST | .CH_CNT | .CH_FLAGS | .CH_NEXT | .CH_CRC | .CH_SADDR => s.idleWrite r.a r.b r v
  | .CH_CTRL => s.chCtrlWrite r.a r.b v
  | .HS_CTRL =>
    let s := s.put HS_CTRL.SWAP_MARK i (bits v 4 0)
    if bit v 31 then s.releaseHall r.a PIN_STATUS.HOLD_WIND else s
  | .FT_HCTRL => s.hctrlWrite r.a v
  | .FT_LOCKSTEP => s.lockstepWrite r.a v
  | .OR_BASE => if s.is OR_CTRL.EN i then s else s.put OR_BASE.BASE i (bits v 51 6 <<< 6)
  | .CR_BASE => if s.is CR_CTRL.EN i then s else s.put CR_BASE.BASE i (bits v 51 5 <<< 5)
  | .OR_CTRL => s.orCtrlWrite r.a v
  | .OR_TAIL => s.doorbell r.a v
  | .CR_CTRL => s.crCtrlWrite r.a v
  | .CR_READ => s.chitAck r.a v
  | .CHIT_MASK_CLR => s.clrIn CHIT_MASK_SET.MASK i v
  | .CHIT_PEND_CLR => s.clrIn CHIT_PEND_SET.PEND i v
  | .CR_EXEC | .CR_SHIFT | .CR_PINS | .CR_FIFO | .CR_X | .CR_Y | .CR_PACE | .CR_CRC_CFG | .CR_CRC_POLY | .CR_CRC_INIT | .CR_CRC_VAL
  | .CR_STATUS_C => s.crierPort cr (.reg r v)
  | .PWR_CLK => if bit v 31 then s.switchBy by_ else s
  | .PWR_RESET => s.pwrResetWrite v
  | _ => s.fieldWrite r v

/-- What a read does besides returning the value: RC fields are cleared, and a chain is latched (R8, R58). -/
def State.readEffect (s : State) (r : Reg) : State :=
  let i : Ix := ⟨r.a, r.b, r.c, r.d⟩
  let s := if r.name = .CT_COUNT then s.chainLatch r.a r.b else s
  forAll r.name.fields (fun f s => if f.acc = .RC then s.put f i 0 else s) s

/-- The number of a register that counts corrected errors of its hall (R412). -/
def Reg.corrNum (r : Reg) : Option Nat :=
  match r.name with
  | .FT_CORR => some r.b | .FT_CORR_HM => some 9 | .FT_CORR_BR => some 10 | .FT_CORR_PT => some 11 | .FT_CORR_CE => some 12 | .FT_CORR_DEV => some 13
  | _ => none

/-- A counter of corrected errors that has been read raises its chit afresh (R399). -/
def State.corrRead (s : State) (r : Reg) : State :=
  match r.corrNum with
  | some k => { s with corrTold := s.corrTold.filter (fun e => e != (r.a, k)) }
  | none => s

/-- A read of a register: the value and the state after it; the acquisitions of RA fields are made by the units (R8). -/
def State.readReg (s : State) (by_ : Accessor) (r : Reg) : Nat × State :=
  match r.name with
  | .CR_RXF => ((s.rxPop ⟨r.a, r.b, r.c⟩).1.toNat, (s.rxPop ⟨r.a, r.b, r.c⟩).2)
  | .TK_HACQ => ((s.agentAcquire r.a r.b).rd r, s.agentAcquire r.a r.b)
  | .QH_RSV =>
    let s := s.agentOp r.a r.b .reserve
    (s.readOut.toNat, s)
  | .QH_TAKE =>
    let s := s.agentOp r.a r.b .take
    (s.readOut.toNat, s)
  | _ => (s.view by_ r, (s.readEffect r).corrRead r)

/-! ## The host window (R321, R23) -/

/-- A register that an access reaches: its unit is present (R4). -/
def State.reached (s : State) (r : Reg) : Bool := r.present s.part

/-- The latches of a host port. -/
def State.port (s : State) (p : Nat) : PortLatch := Tab.get s.ports p {}

def State.setPort (s : State) (p : Nat) (l : PortLatch) : State := { s with ports := Tab.set s.ports p l }

/-- The offset of a queue descriptor's word, for the registers of a descriptor (R283). -/
def RegName.qOff (n : RegName) : Option Nat :=
  match n with
  | .Q_BASE => some 0 | .Q_CFG => some 8 | .Q_PROD => some 0xC | .Q_CONS => some 0x10
  | .Q_HEAD => some 0x14 | .Q_TAIL => some 0x18 | .Q_NUM => some 0x1C
  | _ => none

/-- A register whose halves and bytes are stored as they are written; the write of TM_CTRL takes them (R23). -/
def RegName.direct (n : RegName) : Bool := n == .TM_TARGET || n == .TM_STEP

/-- A register whose access reaches an array of the hall: the data port of a crier page, and the operations of host agents. -/
def RegName.reachesHallMem (n : RegName) : Bool :=
  match n with
  | .BR_IDATA | .TK_HACQ | .TK_HREL | .QH_RSV | .QH_CMT | .QH_TAKE | .QH_DONE => true
  | _ => false

/-- The hall whose fail-over holds the block of the window that an offset lies in (R404), or whose array there is still being
cleared (R377). -/
def State.heldAt (s : State) (a : Nat) : Option Nat :=
  match winMem a, stallPlace a with
  | some m, _ => if s.memHeld m then some m.hallOf else none
  | none, some (h, f, _) => if s.inStall h f && s.stallBusy h f then some h else none
  | none, none =>
    match s.hostReg a with
    | some (r, _) =>
      if s.clearing && s.inHall r.a && (r.name.qOff.isSome || r.name.reachesHallMem) then some r.a else none
    | none => none

/-- A write of 32 bits by a host port to a register word. -/
def State.wordWrite (s : State) (p : Nat) (r : Reg) (hi : Bool) (v : Nat) : State :=
  match r.name.qOff with
  | some o => s.qDescWrite p r.a r.b (o + if hi then 4 else 0) v
  | none =>
    if r.name.direct then s.wr r (if hi then setBits (s.rd r) 63 32 v else setBits (s.rd r) 31 0 v)
    else if hi then
      let lo := match (s.port p).w with
        | some (q, x) => if q = r then x else s.view (.host p) r % 2 ^ 32
        | none => s.view (.host p) r % 2 ^ 32
      (s.setPort p { s.port p with w := none }).regWrite (.host p) r (v <<< 32 + lo)
    else if r.name.is64 then s.setPort p { s.port p with w := some (r, v) }
    else s.regWrite (.host p) r v

/-- A write by a host port to the register block (R321): 32 bits wide and aligned. -/
def State.hostWrite (s : State) (p a : Nat) (bs : List Byte) : State :=
  if bs.length = 4 ∧ a % 4 = 0 then
    match s.hostReg a with
    | some (r, hi) =>
      if s.reached r then s.wordWrite p r hi (ofBytes bs) else s
    | none => s
  else s

/-- A read of 32 bits of a register by a host port (R321, R23). -/
def State.hostRead (s : State) (p a : Nat) : Nat × State :=
  match s.hostReg a with
  | none => (0, s)
  | some (r, hi) =>
    if !s.reached r ∨ a % 4 ≠ 0 then (0, s)
    else if hi then
      match (s.port p).r with
      | some (q, x) => if q = r then (x >>> 32, s) else (s.view (.host p) r >>> 32, s)
      | none => (s.view (.host p) r >>> 32, s)
    else
      let (v, s) := s.readReg (.host p) r
      (v % 2 ^ 32, if r.name.is64 then s.setPort p { s.port p with r := some (r, v) } else s)

/-- A read of `n` bytes of the window by a host port (R321): the data it returns stand in `readOut` and `readData`. `added` is what
the hardware adds to an RC field in the cycle of the read (R9), `o` what a hall memory answers. A register not read as 32 bits reads
0, and the read has no effect. -/
def State.windowRead (s : State) (p a n added : Nat) (o : MemOutcome) : State :=
  let s := { s with readErr := false }
  match winMem a with
  | some m =>
    let (bs, s') := s.winMemRead p m n o
    { s' with readOut := BitVec.ofNat 32 (ofBytes bs), readData := bs }
  | none =>
    if n ≠ 4 then { s with readOut := 0, readData := List.replicate n 0 }
    else
      let (v, s') := s.hostRead p a
      let s' := match s.hostReg a with
        | some (r, _) =>
          if s.reached r ∧ a % 4 = 0 then
            forAll r.name.fields (fun (f : Field) (s : State) => if f.acc = Acc.RC then s.count f ⟨r.a, r.b, r.c, r.d⟩ added else s) s'
          else s'
        | none => s'
      { s' with readOut := BitVec.ofNat 32 v, readData := toBytes 4 v }

/-! ## The I/O page of a trader (R22 to R24, R201) -/

/-- The value that takes effect when a trader's write completes: bytes not written come from the present value in RW fields
and are 0 elsewhere (R24). -/
def mergeBytes (n : RegName) (present : Nat) (got : Tab Nat Byte) : Nat :=
  (List.range 8).foldl (fun v k =>
    v + (match Tab.find got k with | some b => b.toNat | none => bits (present &&& n.rwBits) (8 * k + 7) (8 * k)) <<< (8 * k)) 0

/-- A byte that a trader writes to a plain register of its I/O page. -/
def State.ioWrite1 (s : State) (t : TraderId) (a : Nat) (b : Byte) : State :=
  match s.ioReg t a with
  | none => s
  | some (r, k) =>
    if !s.reached r || r.name.operation then s
    else if r.name.direct then
      (s.upd t (fun tr => { tr with wlatch := none })).wr r (setBits (s.rd r) (8 * k + 7) (8 * k) b.toNat)
    else
      let old := match (s.trader t).wlatch with
        | some (q, l) => if q = r then l else []
        | none => []
      let got := Tab.set old k b
      let v := mergeBytes r.name (s.view (.trader t) r) got
      if r.name.bytes = 1 then s.regWrite (.trader t) r v
      else if k = r.name.lastByte then (s.upd t (fun tr => { tr with wlatch := none })).regWrite (.trader t) r v
      else s.upd t (fun tr => { tr with wlatch := some (r, got) })

/-- Bytes that a trader writes together. -/
def State.ioWrite (s : State) (t : TraderId) (a : Nat) (bs : List Byte) : State :=
  forAll bs.zipIdx (fun e s => s.ioWrite1 t (a + e.2) e.1) s

/-- A register of a barrow block (R201). -/
def RegName.ofBarrow (n : RegName) : Bool := match n.place.1 with | .BR | .CRI | .CRS => true | _ => false

/-- A byte that a trader reads from its I/O page: registers of 64 bits, those of a barrow and operations go through the read
latch (R23, R201, R281). -/
def State.ioRead1 (s : State) (t : TraderId) (a : Nat) : Byte × State :=
  match s.ioReg t a with
  | none => (0, s)
  | some (r, k) =>
    let byteOf (v : Nat) : Byte := BitVec.ofNat 8 (v >>> (8 * k))
    let held := match (s.trader t).rlatch with | some (q, v) => if q = r then some v else none | none => none
    if !s.reached r then (0, s)
    else if r.name.operation || (r.name == .CR_RXF && k != 0) then (byteOf (held.getD 0), s)
    else if r.name.is64 || r.name.ofBarrow then
      if k = 0 then
        let (v, s) := s.readReg (.trader t) r
        (byteOf v, s.upd t (fun tr => { tr with rlatch := some (r, v) }))
      else (byteOf (held.getD (s.view (.trader t) r)), s)
    else
      let (v, s) := s.readReg (.trader t) r
      (byteOf v, s)

/-- Bytes that a trader reads together, in ascending order. -/
def State.ioRead (s : State) (t : TraderId) (a : Nat) : Nat → List Byte × State
  | 0 => ([], s)
  | n + 1 =>
    let (b, s) := s.ioRead1 t a
    let (bs, s) := State.ioRead s t (a + 1) n
    (b :: bs, s)

end Sys2Proof.Machine
end

