-- ==== Sys2Proof/Machine/Images.lean ====
section
/-! DEFINITION. Claims (R217, R218), the checks and the steps of a load (R346 to R357), keep-running plans (R369), hitless
swaps (R362 to R367), and what the actions of marks and the updates of axes set off in them. -/

namespace Sys2Proof.Machine

/-! ## Claims (R217, R218). A resource is the upper 12 bits of its word: kind, hall, number. -/

/-- The register that records the claim of a resource. -/
def claimReg (r : Nat) : Reg :=
  (ix (r / 128 % 8) (r % 128)).reg (match r / 1024 with | 0 => .PIN_CLAIM | 1 => .CLM_CT | _ => .CLM_TM)

/-- The word is one of R218 without a holder: its kind occurs, its number is in range, and the rest is 0. -/
def claimWordOk (w : Nat) : Bool :=
  decide (w % 2 ^ 20 = 0) && decide (bits w 26 20 < (match bits w 31 30 with | 0 => 128 | 1 => 64 | 2 => 32 | _ => 0))

/-- The holder of a resource. -/
def State.holder (s : State) (r : Nat) : Option Nat :=
  let v := s.rd (claimReg r)
  if bit v 31 then some (v % 65536) else none

/-- A resource given to an owner, or to none. -/
def State.setHolder (s : State) (r : Nat) (o : Option Nat) : State :=
  s.wr (claimReg r) (match o with | some j => 2 ^ 31 + j | none => 0)

/-- The mark or counter that a pin in function 5, 6 or 7 names. -/
def State.pinNames (s : State) (h i : Nat) : Option Nat :=
  let sel := s.get PIN_CFG.SEL (ix h i)
  match s.get PIN_CFG.FUNC (ix h i) with
  | 5 => some (2048 + h * 128 + sel % 32)
  | 6 | 7 => some (1024 + h * 128 + sel)
  | _ => none

/-- The resources that a pin's function ties to a resource. -/
def State.tied (s : State) (r : Nat) : List Nat :=
  let h := r / 128 % 8
  if r < 1024 then (s.pinNames h (r % 128)).toList
  else ((List.range 128).filter (fun i => s.pinNames h i == some r)).map (fun i => h * 128 + i)

/-- A holder other than the owner and the predecessors, against whom the owner's claim stands as a successor claim. -/
def State.rival (s : State) (job : Nat) (preds : List Nat) (r : Nat) : Option Nat :=
  match s.holder r with
  | some o => if o = job ∨ preds.contains o then none else some o
  | none => none

/-- The refusals of claims checked together: the resource that each one names, and its holder (R218). DESIGN CHOICE (assumption log
139): a resource that several of the claims meet counts once. -/
def State.refusals (s : State) (job : Nat) (preds rs : List Nat) : List (Nat × Nat) :=
  (rs.flatMap (fun r => match s.rival job preds r with
    | some o => [(r, o)]
    | none => (s.tied r).filterMap (fun d =>
        if rs.contains d then none else (s.rival job preds d).map (fun o => (d, o))))).dedup

/-- A CLAIM_REFUSED chit for each refused resource; it carries the number of the job and goes to the job's chit ring. -/
def State.refuseClaims (s : State) (job : Nat) (xs : List (Nat × Nat)) : State :=
  let ring := match s.job job with | some j => s.get OR_CTRL.CHIT_RING (ix j.ring) | none => s.routeOf 0x10
  forAll xs (fun x s => s.raiseOn ring ⟨0x10, (x.1 / 128 % 8) <<< 13 + x.1, job, 0⟩ (x.1 <<< 20 + x.2) s.tick) s

/-! ## The checks of a load (R346 to R353, R357) -/

/-- The words of every CLAIMS section. -/
def Image.claims (i : Image) : List Nat :=
  (i.secs.filter (fun x => x.ty == 9)).flatMap (fun x => (List.range (x.len / 4)).map (fun k => field (i.content x) (4 * k) 4))

/-- The sections that use HALL, and those that use UNIT (R348). -/
def Sect.usesHall (x : Sect) : Bool := x.ty ≤ 6 || x.ty == 8 || x.ty == 0xA
def Sect.usesUnit (x : Sect) : Bool := x.ty == 1 || x.ty == 2 || x.ty == 3 || x.ty == 5 || x.ty == 7 || x.ty == 0xB

/-- The sections that step 1 of a load has read. -/
def Sect.isEarly (x : Sect) : Bool := x.ty == 2 || x.ty == 9 || x.ty == 0xB || x.ty == 0xC || x.ty == 0xF

/-- Reserved bytes of a section's contents are 0, and enumerated ones have a meaning. -/
def Image.contentOk (i : Image) (x : Sect) : Bool :=
  let c := i.content x
  match x.ty with
  | 2 => zeros c 4 4 && (List.range 16).all (fun t =>
      let o := 8 + 40 * t
      zeros c (o + 35) 1 && zeros c (o + 38) 2 && decide (field c (o + 34) 1 ≤ 2))
  | 3 => zeros c 4 4
  | 5 => decide (field c 264 4 < 16) && zeros c 268 4 && (List.range 4).all (fun k => zeros c (272 + 32 * k + 28) 4)
  | 7 => zeros c 24 8
  | 8 => (List.range (x.len / 8)).all (fun k => zeros c (8 * k + 2) 2)
  | 9 => (List.range (x.len / 4)).all (fun k => claimWordOk (field c (4 * k) 4))
  | 0xB => zeros c 1 1 && zeros c 6 2
  | 0xC =>
    let p := field c 2 1
    zeros c 4 12 && (List.range p).all (fun k => zeros c (16 + 32 * k + 1) 7) &&
      (List.range (field c 3 1)).all (fun k => zeros c (16 + 32 * p + 8 * k + 3) 1 && decide (field c (16 + 32 * p + 8 * k) 1 ≤ 2))
  | 0xF => decide (field c 3 1 < 2) && decide (field c 12 4 < 2 ^ 28) && zeros c 16 16 &&
      (List.range (field c 10 1)).all (fun k => zeros c (32 + 8 * k + 1) 1)
  | _ => true

/-- The length of a section is right for its type (R348). -/
def Image.lengthOk (i : Image) (x : Sect) : Bool :=
  let c := i.content x
  match x.ty with
  | 1 => decide (4 ≤ x.len) && decide (x.len ≤ 32768) && x.len % 4 == 0
  | 2 => x.len == 648
  | 3 => decide (8 ≤ x.len) && decide (x.len ≤ 8 + 0x40000)
  | 4 => decide (8 ≤ x.len) && x.len % 8 == 0 && decide (x.len ≤ 8 + 0x400000)
  | 5 => x.len == 400
  | 6 => x.len == 520
  | 7 => x.len == 32
  | 8 => x.len % 8 == 0 && decide (x.len ≤ 512)
  | 9 => x.len % 4 == 0
  | 0xA => x.len % 8 == 0
  | 0xB => x.len == 8
  | 0xC => decide (field c 2 1 ≤ 8) && x.len == 16 + 32 * field c 2 1 + 8 * field c 3 1
  | 0xF => decide (field c 10 1 ≤ 8) && decide (field c 11 1 ≤ 64) && x.len == 32 + 8 * field c 10 1 + 144 * field c 11 1
  | _ => false

/-- The data of a section lies in the memory that it names. -/
def Image.rangeOk (i : Image) (x : Sect) : Bool :=
  let c := i.content x
  match x.ty with
  | 3 => decide (field c 0 4 + (x.len - 8) ≤ 0x40000)
  | 4 => decide (field c 0 8 + (x.len - 8) ≤ 0x400000)
  | _ => true

/-- FORMAT: the header is wrong, or a reserved byte is not 0. -/
def Image.badFormat (i : Image) (len : Nat) : Bool :=
  i.num 0 4 != 0x4E594C46 || i.num 4 2 != 1 || i.num 8 4 != len || i.num 12 1 != 0x48 || i.num 13 1 != 1 ||
    decide (4 ≤ i.num 14 2) || !zeros i.buf 32 32 ||
    (List.range (i.num 6 2)).any (fun k => !zeros i.buf (i.num 24 4 + 16 * k + 3) 1) ||
    i.secs.any (fun x => (!x.usesHall && x.hall != 0) || (!x.usesUnit && x.unit != 0) || (x.isEarly && !i.contentOk x))

/-- Two ranges of bytes overlap. -/
def overlap (a n b m : Nat) : Bool := decide (a < b + m) && decide (b < a + n)

/-- No two ranges of a list overlap. -/
def apart : List (Nat × Nat) → Bool
  | [] => true
  | x :: xs => xs.all (fun y => !overlap x.1 x.2 y.1 y.2) && apart xs

/-- SECTION: the table or a section is out of place, of an unknown type, or of a wrong length. -/
def Image.badSection (i : Image) (len : Nat) : Bool :=
  let n := i.num 6 2
  let tab := i.num 24 4
  n == 0 || decide (1024 < n) || tab % 64 != 0 || decide (len < tab + 16 * n) ||
    i.secs.any (fun x => x.off % 64 != 0 || decide (len < x.off + x.len) || !i.lengthOk x) ||
    !apart ((0, 64) :: (tab, 16 * n) :: (i.secs.filter (fun x => x.len != 0)).map (fun x => (x.off, x.len)))

/-- A PC in hall code that the code base reaches without a wrap. -/
def pcCovered (base pc : Nat) : Bool := decide (pc < 0x2000) || decide (base % 2 ^ 22 / 0x1000 * 0x1000 + (pc - 0x2000) * 4 < 0x400000)

/-- Every vector and ENTRY of a STALL_SET section is in IMEM or in the code that STL_CODE_BASE covers. -/
def Image.pcsOk (i : Image) (x : Sect) : Bool :=
  let c := i.content x
  let base := field c 0 4
  (List.range 16).all (fun t =>
    let o := 8 + 40 * t
    [o, o + 2, o + 4, o + 6, o + 36].all (fun k => pcCovered base (field c k 2)))

/-- STRUCTURE: sections and certificate do not fit together. -/
def Image.badStructure (i : Image) : Bool :=
  let ss := i.secs
  let has (ty h u : Nat) : Bool := ss.any (fun x => x.ty == ty && x.hall == h && x.unit == u)
  (ss.filter (fun x => x.ty == 0xF)).length != 1 ||
    ss.any (fun x => decide (x.ty ≤ 3) && (i.stallRec x.hall x.unit).isNone) ||
    ss.any (fun x => (x.ty == 4 || x.ty == 6 || x.ty == 8 || x.ty == 0xA) && !i.hallRecs.any (fun r => field r 0 1 == x.hall)) ||
    i.stallRecs.any (fun r => !(has 1 (field r 0 1) (field r 1 1) && has 2 (field r 0 1) (field r 1 1))) ||
    !decide ((ss.filter (fun x => x.usesHall || x.usesUnit)).map (fun x => (x.ty, x.hall, x.unit))).Nodup ||
    (i.shadow && ss.any (fun x => x.ty == 3)) || (!i.shadow && bit (i.num 14 2) 0) || (i.shadow && bit (i.num 14 2) 1) ||
    ss.any (fun x => x.ty == 2 && !i.pcsOk x)

/-- UNIT_ABSENT: the certificate requires, or a section names, a unit that is not there (R353). -/
def State.badUnits (s : State) (i : Image) : Bool :=
  let c := i.cert
  let p := s.part
  (field c 0 1 &&& (255 ^^^ (2 ^ p.halls - 1))) != 0 ||
    (field c 4 4 &&& ((2 ^ 32 - 1) ^^^ (2 ^ p.lanes - 1))) != 0 ||
    (field c 8 2 &&& (65535 ^^^ (2 ^ (2 * p.halls) - 1))) != 0 ||
    (bit (field c 3 1) 0 && p.stalls != 9) ||
    (field c 1 1 &&& (255 ^^^ p.cpMap) &&& (255 ^^^ field c 2 1)) != 0 ||
    i.secs.any (fun x =>
      (x.usesHall && decide (p.halls ≤ x.hall)) ||
      ((x.ty == 1 || x.ty == 2 || x.ty == 3) && (decide (8 ≤ x.unit) || (s.roleStall x.hall x.unit).isNone)) ||
      ((x.ty == 5 || x.ty == 7) && decide (16 ≤ x.unit)) || (x.ty == 0xB && decide (p.lanes ≤ x.unit))) ||
    i.claims.any (fun w => decide (p.halls ≤ bits w 29 27)) ||
    i.keeps.any (fun e => decide (p.halls ≤ e.2.1))

/-- OCCUPIED: a unit of a direct load runs, or a swap of the shadow occupant of a unit is under way (R354). -/
def State.badOccupied (s : State) (i : Image) : Bool :=
  i.units.any (fun u =>
    if i.shadow then s.shadow u != 0 && s.swaps.any (fun w => w.loaded == s.shadow u)
    else if u.1 then (match s.roleStall u.2.1 u.2.2 with | some f => !s.allStopped u.2.1 f | none => false)
    else s.get BR_RUN_SET.RUN (ix u.2.1 u.2.2) != 0)

/-- The predecessors of a shadow load: the active occupants of the units it names. -/
def State.preds (s : State) (i : Image) : List Nat :=
  if i.shadow then ((i.units.map (fun u => s.active u)).filter (fun j => j != 0 && j != i.job)).dedup else []

/-- Every stall and barrow. -/
def allUnits : List (Bool × Nat × Nat) :=
  (List.range 8).flatMap (fun h => (List.range 8).map (fun r => (true, h, r)) ++ (List.range 16).map (fun b => (false, h, b)))

/-- PARTIAL: a predecessor occupies a unit that the load does not name. -/
def State.badPartial (s : State) (i : Image) : Bool :=
  allUnits.any (fun u => (s.preds i).contains (s.active u) && !i.units.contains u)

/-- The images whose demands add to those of a load: every loaded image but those of whose units the load takes every one
(R352). -/
def State.besides (s : State) (i : Image) : List Image :=
  s.images.filter (fun x => x.committed && x.job != i.job &&
    (let mine := allUnits.filter (fun u => s.active u == x.job || s.shadow u == x.job)
     if mine.isEmpty then x.units.isEmpty && (x.live || !x.swapped) else mine.any (fun u => !i.units.contains u)))

/-- BUDGET: the hall bus or the host ports would be asked for more than they have (R352). -/
def State.badBudget (s : State) (i : Image) : Bool :=
  let xs := i :: s.besides i
  (List.range s.part.halls).any (fun h =>
    let hall := xs.flatMap (fun x => x.hallRecs.filter (fun r => field r 0 1 == h))
    let stall := xs.flatMap (fun x => x.stallRecs.filter (fun r => field r 0 1 == h))
    decide (40960 < (hall.map (fun r => field r 4 4)).sum + (stall.map (fun r => field r 4 4)).sum) ||
      decide (s.get HS_HOSTCAP.CAP (ix h) < (hall.map (fun r => field r 2 2)).sum))

/-- MICROCODE: a lane's mode, base or patch is not what the image needs. -/
def State.badMicrocode (s : State) (i : Image) : Bool :=
  i.secs.any (fun x => x.ty == 0xB &&
    (let c := i.content x
     let k := ix (x.unit / 4) (x.unit % 4)
     field c 0 1 != s.lnMode (x.unit / 4) (x.unit % 4) || field c 2 2 != s.get CS_VERSION.BASE k ||
       decide (s.get CS_VERSION.PATCH k < field c 4 2)))

/-- The first reason for which step 1 refuses a load (R357). -/
def State.refuseImage (s : State) (i : Image) (len : Nat) : Option Nat :=
  if i.badFormat len then some 1
  else if i.badSection len then some 2
  else if i.badStructure then some 3
  else if s.badUnits i then some 4
  else if s.badOccupied i then some 5
  else if s.badPartial i then some 6
  else if s.badBudget i then some 7
  else if s.badMicrocode i then some 8
  else none

/-! ## Writes of the loader -/

/-- The port number under which the loader's register writes are latched. -/
def loaderPort : Nat := 4

/-- The flags by which the unit of a register tells a refused write. -/
def refusalFlags (r : Reg) : List (Field × Ix) :=
  let u := ix r.a r.b
  let h := ix r.a
  match r.name with
  | .TM_CTRL => [(TM_STATUS.CFG_ERR, u)]
  | .CT_CTRL | .CT_INPUT | .CT_COUNT | .CT_PERIOD | .CT_COMPARE => [(CT_STATUS.CFG_REFUSED, u)]
  | .PIN_CFG | .PIN_CFG_SH => [(PIN_STATUS.CFG_ERR, u)]
  | .PSW_MAP0 | .PSW_MAP1 => [(PSW_STATUS.REFUSED, h)]
  | .CH_CTRL | .CH_SRC | .CH_DST | .CH_CNT | .CH_FLAGS | .CH_NEXT | .CH_CRC | .CH_SADDR =>
    [(CH_STATUS.CFG_ERR, u), (CH_STATUS.START_BUSY, u)]
  | .Q_BASE | .Q_CFG | .Q_PROD | .Q_CONS | .Q_HEAD | .Q_TAIL => [(HL_STATUS.QDESC_REFUSED, h)]
  | .FT_LOCKSTEP => [(FT_HSTATUS.LS_REFUSED, h)]
  | .STL_CTRL => [(STL_STATUS.PAGE_REFUSED, u)]
  | _ => []

/-- A write with the flags watched: whether it was accepted, and the state, in which the flags keep what they showed. -/
def State.watched (s : State) (fs : List (Field × Ix)) (f : State → State) : State × Bool :=
  let old := fs.map (fun x => s.is x.1 x.2)
  let s := f (forAll fs (fun x s => s.set x.1 x.2 false) s)
  let bad := fs.any (fun x => s.is x.1 x.2)
  (forAll (fs.zip old) (fun x s => if x.2 then s.set x.1.1 x.1.2 true else s) s, !bad)

/-- Things written in order, up to the first that is refused. -/
def writeAll {α : Type} (f : α → State → State × Bool) : List α → State → State × Bool
  | [], s => (s, true)
  | x :: xs, s => match f x s with
    | (s, true) => writeAll f xs s
    | (s, false) => (s, false)

/-- A 32-bit register write of the loader at a host offset. -/
def State.loadReg (s : State) (a v : Nat) : State × Bool :=
  let fs := match s.hostReg a with | some (r, _) => refusalFlags r | none => []
  s.watched fs (fun s => s.hostWrite loaderPort a (toBytes 4 v))

/-- The entries of a TALLY or SETUP section: host offset and value. -/
def Image.entries (i : Image) (x : Sect) : List (Nat × Nat) :=
  let c := i.content x
  let hb := 0x200000 + 0x200000 * x.hall
  (List.range (x.len / 8)).map (fun k =>
    ((if x.ty = 8 then hb + 0x38000 + field c (8 * k) 2 else hb + field c (8 * k) 4), field c (8 * k + 4) 4))

/-- Bytes written into the stall RAM of a stall: the banks from 0 on, the slices from 0x2_0000 on. -/
def State.ramStore (s : State) (h f o : Nat) (bs : List Byte) : State :=
  let part (a : Arr) (lo n : Nat) (s : State) : State :=
    let from_ := max o lo
    let to_ := min (o + bs.length) (lo + n)
    if from_ < to_ then s.storeS a (from_ - lo) ((bs.drop (from_ - o)).take (to_ - from_)) else s
  forAll (List.range 16) (fun t s => part (.slice h f t) (0x20000 + 0x2000 * t) 0x2000 s) (part (.shared h f) 0 0x20000 s)

/-- STALL_SET and the stall record of a role put into the registers of its stall (R349, R351). -/
def State.applyStall (s : State) (i : Image) (h role f : Nat) : State :=
  match i.sec 2 h role, i.stallRec h role with
  | some c, some r =>
    let s := s.fieldWrite ((ix h f).reg .STL_CODE_BASE) (field c 0 4)
    let s := forAll (List.range 16) (fun t s =>
      let o := 8 + 40 * t
      let k := ix h f t
      let s := forAll [RegName.EV_VEC01, .EV_VEC23, .EV_ROUTE, .EV_TRAPLVL, .EV_HSEL01, .EV_HSEL23, .EV_HSEL45, .EV_HSEL67].zipIdx
        (fun n s => s.fieldWrite (k.reg n.1) (field c (o + 4 * n.2) 4)) s
      s.put EV_EN_SET.EN k (field c (o + 32) 2 % 512)) s
    let s := (s.wr ((ix h f).reg .BW_HLIMIT01) (field r 8 4)).wr ((ix h f).reg .BW_HLIMIT23) (field r 12 4)
    forAll (List.range 32) (fun j s => s.wr ((ix h f j).reg .BW_TABLE) (field r (16 + 4 * j) 4)) s
  | _, _ => s

/-- The registers of a BARROW section and their values: those that only a direct load writes (R350). -/
def barrowFixed (h b : Nat) (c : List Byte) : List (Reg × Nat) :=
  ((ix h b).reg .BR_CLK, field c 256 4) ::
    (List.range 4).flatMap (fun k =>
      [RegName.CR_FIFO, .CR_CRC_CFG, .CR_CRC_POLY, .CR_CRC_INIT].zipIdx.map (fun n => ((ix h b k).reg n.1, field c (272 + 32 * k + 12 + 4 * n.2) 4)))

/-- BR_OWN and the crier registers that a swap loads: CR_EXEC, CR_SHIFT and CR_PINS. -/
def barrowLoaded (h b : Nat) (c : List Byte) : List (Reg × Nat) :=
  ((ix h b).reg .BR_OWN, field c 260 4) ::
    (List.range 4).flatMap (fun k =>
      [RegName.CR_EXEC, .CR_SHIFT, .CR_PINS].zipIdx.map (fun n => ((ix h b k).reg n.1, field c (272 + 32 * k + 4 * n.2) 4)))

/-- A direct load's registers of a barrow. -/
def State.applyBarrow (s : State) (h b : Nat) (c : List Byte) : State :=
  let s := forAll (barrowFixed h b c) (fun x s => s.regWrite (.host loaderPort) x.1 x.2) s
  forAll (barrowLoaded h b c) (fun x s => s.fieldWrite x.1 x.2) s

/-- SWAP_JUMP and SWAP_ENTRY of a barrow's criers, at the end of a shadow load (R355). -/
def State.applyEntries (s : State) (h b : Nat) (c : List Byte) : State :=
  forAll (List.range 4) (fun k s =>
    let v := field c (272 + 32 * k) 4
    (s.put CR_EXEC.SWAP_JUMP (ix h b k) (bits v 15 15)).put CR_EXEC.SWAP_ENTRY (ix h b k) (bits v 13 8)) s

/-- A register differs from a value in the bits that a write sets. -/
def State.differs (s : State) (x : Reg × Nat) : Bool := (s.view (.host loaderPort) x.1 &&& x.1.name.rwBits) != (x.2 &&& x.1.name.rwBits)

/-- The registers of an AXIS section and their values. -/
def axisRegs (n : Nat) (c : List Byte) : List (Reg × Nat) :=
  [RegName.TAX_CTRL, .TAX_SRC, .TAX_GAIN, .TAX_LIMITS, .TAX_VMIN, .TAX_LATENCY].zipIdx.map (fun k => ((ix n).reg k.1, field c (4 * k.2) 4))

/-- LIVE_CONFLICT: an enabled axis, or a register of a barrow that a shadow load may not change, differs. -/
def State.conflicts (s : State) (i : Image) (x : Sect) : Bool :=
  let c := i.content x
  (x.ty == 7 && s.is TAX_CTRL.ENABLE (ix x.unit) && (axisRegs x.unit c).any (fun r => s.differs r)) ||
    (x.ty == 5 && i.shadow && (barrowFixed x.hall x.unit c).any (fun r => s.differs r))

/-- The addresses of hall `h` that entries of its SETUP section may name. -/
def inSetup (h a : Nat) : Bool :=
  let o := (a - 0x200000) % 0x200000
  decide (0x10000 ≤ o) && (a - 0x200000) / 0x200000 == h && decide (o < 0x28000)

/-- An entry of the SETUP section of hall `h`. -/
def setupEntry (h : Nat) (e : Nat × Nat) (s : State) : State × Bool :=
  if inSetup h e.1 then s.loadReg e.1 e.2 else (s, false)

/-- A section written where R348 places it at load: the state, and whether every write was accepted. -/
def State.placeSection (s : State) (i : Image) (x : Sect) : State × Bool :=
  let c := i.content x
  let h := x.hall
  let f := (s.roleStall h x.unit).getD 9
  match x.ty with
  | 1 =>
    let page := if i.shadow then 1 - s.page h f else s.page h f
    let s := s.storeS (.imem h f page) 0 c
    (if i.shadow then s else s.dropBufs h f (fun _ => true), true)
  | 3 => (s.ramStore h f (field c 0 4) (c.drop 8), true)
  | 4 => ((s.granted h 15 (field c 0 8) (c.length - 8)).store (.hallMem h) (field c 0 8) (c.drop 8), true)
  | 5 =>
    let page := if i.shadow then 1 - s.brPage h x.unit else s.brPage h x.unit
    -- a reserved JOIN, which the FIFO would refuse in step 5 (R189)
    if !i.shadow && (List.range 4).any (fun k => bits (field c (272 + 32 * k + 12) 4) 31 30 == 3) then (s, false)
    else (forAll (List.range 64) (fun w s => s.storeNat (.crierPage h x.unit page) (4 * w) 4 (field c (4 * w) 3)) s, true)
  | 6 =>
    let pins := ((List.range 128).map (fun k => (k, field c (4 * k) 4))).filter (fun e => !bit e.2 0)
    let s1 := writeAll (fun e s => s.watched [(PIN_STATUS.CFG_ERR, ix h e.1)]
      (fun s => if i.shadow then s.pinCfgShWrite h e.1 e.2 else s.pinCfgWrite h e.1 e.2)) pins s
    if !s1.2 then s1
    else if i.shadow then
      ((s1.1.wr ((ix h).reg .PSW_MAP0_SH) (field c 512 4)).wr ((ix h).reg .PSW_MAP1_SH) (field c 516 4), true)
    else writeAll (fun k s => s.watched [(PSW_STATUS.REFUSED, ix h)] (fun s =>
        if field c (512 + k / 2) 1 / 16 ^ (k % 2) % 16 = 0xE then s
        else s.mapEntry h k (field c (512 + k / 2) 1 / 16 ^ (k % 2) % 16))) (List.range 16) s1.1
  | 7 =>
    if s.is TAX_CTRL.ENABLE (ix x.unit) then (s, true)
    else (forAll (axisRegs x.unit c).reverse (fun r s => s.regWrite (.host loaderPort) r.1 r.2) s, true)
  | 8 => if i.shadow then (s, true) else writeAll (fun e s => s.loadReg e.1 e.2) (i.entries x) s
  | 0xA => writeAll (setupEntry h) (i.entries x) s
  | _ => (s, true)

/-! ## Keep-running plans (R369) -/

/-- HS_KEEP_PIN and HS_KEEP_UNITS of every hall follow the images in force. -/
def State.showKeep (s : State) : State :=
  forAll (List.range s.part.halls) (fun h s =>
    let s := forAll (List.range 4) (fun n s => s.put HS_KEEP_PIN.KEEP (ix h n) (s.keepMask 2 h n)) s
    s.put HS_KEEP_UNITS.BARROWS (ix h) (maskOf 16 (fun b => (s.keepMask 1 h b) % 16 != 0))) s

/-- The profiles of an image, when it has any, stand in every hall and are the default; then the plan is shown. -/
def State.applyKeep (s : State) (i : Image) : State :=
  let s := forAll (i.secs.filter (fun x => x.ty == 0xC)) (fun x s =>
    let b := i.content x
    let n := field b 2 1
    if n = 0 then s
    else
      let s := { s with windDefault := (field b 0 1, field b 1 1) }
      forAll (List.range s.part.halls) (fun h s => forAll (List.range n) (fun p s =>
        let o := 16 + 32 * p
        let k := ix h p
        let s := (s.put HS_PROF_AXIS.RAMP_AXIS k (field b o 1)).wr (k.reg .HS_PROF_DECEL1) (field b (o + 8) 8)
        (s.wr (k.reg .HS_PROF_KNEE) (field b (o + 16) 8)).wr (k.reg .HS_PROF_DECEL2) (field b (o + 24) 8)) s) s) s
  s.showKeep

/-- The halls that an image names. -/
def Image.halls (i : Image) : List Nat :=
  ((i.secs.filter Sect.usesHall).map Sect.hall ++ i.hallRecs.map (fun r => field r 0 1)).dedup

/-- HS_IMAGE_ID of the image's halls. -/
def State.showImage (s : State) (i : Image) : State :=
  forAll i.halls (fun h s => s.put HS_IMAGE_ID.ID (ix h) (i.num 16 8)) s

/-! ## The steps of a load (R355) -/

/-- A load ends without an image. -/
def State.loadEnds (s : State) (job : Nat) (st : JobState) (reason : Nat) : State :=
  ({ s with images := s.images.filter (fun i => i.job != job) }.jobTo job st reason).retire

/-- Step 4, the claim commit, and step 5. -/
def State.commitImage (s : State) (i : Image) : State :=
  let rs := i.claims.map (fun w => w / 2 ^ 20)
  let preds := s.preds i
  let refused := s.refusals i.job preds rs
  if !decide rs.Nodup || !refused.isEmpty then (s.refuseClaims i.job refused).loadEnds i.job .failed 0xD
  else
    let s := forAll rs (fun r s => match s.holder r with
      | some o => if preds.contains o then s else s.setHolder r (some i.job)
      | none => s.setHolder r (some i.job)) s
    let s := forAll i.units (fun u s =>
      let v := s.rd (occReg u)
      s.wr (occReg u) (if i.shadow then setBits v 31 16 i.job else setBits v 15 0 i.job)) s
    let i' := { i with committed := true, live := !i.shadow }
    let s := (s.updImage i.job (fun _ => i')).refreshLive
    let secs (ty : Nat) : List Sect := i.secs.filter (fun x => x.ty == ty)
    let s := if i.shadow then forAll (secs 5) (fun x s => s.applyEntries x.hall x.unit (i.content x)) s
      else
        let s := forAll (secs 2) (fun x s =>
          let f := (s.roleStall x.hall x.unit).getD 9
          (s.applyStall i x.hall x.unit f).set BW_CTRL.EN (ix x.hall f) true) s
        let s := forAll (secs 5) (fun x s => s.applyBarrow x.hall x.unit (i.content x)) s
        (s.applyKeep i').showImage i'
    (s.jobTo i.job .done).retire

/-- A suspend or a cancel that waits for a suspend point takes effect; `points` tells whether a suspend may. -/
def State.loadPoint (s : State) (job : Nat) (points : Bool) (go : State → State) : State :=
  match s.job job with
  | none => s
  | some j =>
    if j.cancelPend then s.loadEnds job .cancelled 0
    else if points && j.suspPend then s.jobTo job .suspended
    else go s

/-- The next section of a load is fetched (step 3a). -/
def State.fetchSection (s : State) (job : Nat) : State :=
  match s.job job, s.image job with
  | some j, some i =>
    match j.body, i.secs[i.taken]? with
    | .loadImage image _ _, some x => s.fetchHost job (image + x.off) x.len
    | _, _ => s
  | _, _ => s

/-- The header, the table, the certificate and what else step 1 reads have come (steps 1 and 2). -/
def State.headerFetched (s : State) (job len : Nat) (shadow : Bool) (bs : List Byte) : State :=
  let i : Image := { job, shadow, buf := (stepOne bs len).1 }
  match s.refuseImage i len with
  | some r => s.loadEnds job .failed r
  | none =>
    let s := { s with images := i :: s.images.map (fun (x : Image) => if x.job = job then { x with job := 0 } else x) }
    (s.updJob job (fun j => { j with stage := 1 })).loadPoint job false (fun s => s.fetchSection job)

/-- The reason for which a section that has come is refused before anything of it is written (R357). -/
def State.refuseSection (s : State) (i : Image) (x : Sect) (bs : List Byte) : Option Nat :=
  if !i.contentOk x then some 1
  else if !i.rangeOk x then some 2
  else if crc32c bs ≠ x.crc then some 9
  else if s.conflicts i x then some 0xA
  else none

/-- The next section has come (step 3a); after the last one ICRC is checked (step 3b) and the claims are committed. -/
def State.sectionFetched (s : State) (i : Image) (x : Sect) (bs : List Byte) : State :=
  let i := { i with buf := placeAt i.buf x.off bs, taken := i.taken + 1 }
  match s.refuseSection i x bs with
  | some r => s.loadEnds i.job .failed r
  | none =>
  match (s.updImage i.job (fun _ => i)).placeSection i x with
    | (s, false) => s.loadEnds i.job .failed 0xB
    | (s, true) =>
      s.loadPoint i.job (decide (i.taken < i.secs.length)) (fun s =>
        if i.taken < i.secs.length then s.fetchSection i.job
        else if crc32c (padTo (i.num 8 4) (i.buf.take 28 ++ toBytes 4 0 ++ i.buf.drop 32)) ≠ i.num 28 4 then s.loadEnds i.job .failed 0xC
        else s.commitImage i)

/-! ## Swaps (R362 to R367) -/

/-- The swap mark of a hall. -/
def State.swapMark (s : State) (h : Nat) : Nat := s.get HS_CTRL.SWAP_MARK (ix h)

/-- The reason for which a SWAP_AT fails at once (R362). -/
def State.refuseSwap (s : State) (loaded trigger value : Nat) : Option Nat :=
  let notShadow := match s.image loaded with | some i => !i.committed || !i.shadow || i.swapped | none => true
  if notShadow then some 6
  else if (List.range s.part.halls).any (fun h =>
      s.is CLM_TM.VALID (ix h (s.swapMark h)) || s.is TM_STATUS.ARMED (ix h (s.swapMark h))) then some 5
  else if trigger = 0 ∧ value < s.tillNow + 2048 then some 4
  else none

/-- Every swap that has a mark whose target is dropped ends (R362). -/
def State.swapLate (s : State) : State :=
  forAll (s.swaps.filter (fun w => !w.switched && w.till.isNone && w.inst.isNone &&
      w.marks.any (fun k => !s.is TM_STATUS.ARMED (ix k.1 k.2) && s.is TM_STATUS.DROPPED (ix k.1 k.2))))
    (fun w s => s.swapEnds w.job .failed 4) s

/-- A SWAP_AT that has become RUNNING reserves its marks and arms them (R362). -/
def State.startSwap (s : State) (job loaded trigger axis dir value : Nat) : State :=
  let halls := List.range s.part.halls
  let s := forAll halls (fun h s => s.put HS_STATUS.JOB (ix h) job) s
  match s.refuseSwap loaded trigger value with
  | some r => (forAll halls (fun h s => s.put HS_STATUS.STATE (ix h) 4) s).jobTo job .failed r
  | none =>
    let marks := halls.map (fun h => (h, s.swapMark h))
    let stalls := match s.image loaded with
      | some i => (i.units.filter (fun u => u.1 && s.shadow u == loaded)).map (fun u => u.2)
      | none => []
    let w : Swap := { job, loaded, marks, stalls, till := if trigger = 0 then some value else none }
    let s := { s with swaps := s.swaps ++ [w] }
    let s := forAll marks (fun k s =>
      let i := ix k.1 k.2
      let s := (s.wr (i.reg .CLM_TM) (2 ^ 31 + job)).put HS_STATUS.STATE (ix k.1) 1
      if trigger = 0 then s
      else
        let s := ((s.wr (i.reg .TM_TARGET) value).wr (i.reg .TM_ACTION) (2 ^ 14)).set TM_STATUS.DROPPED i false
        s.arm k.1 k.2 (axis <<< 26 + dir <<< 24 + 2 ^ 23) (sgn 64 value) 0 (2 ^ 14) s.tick) s
    s.swapLate

/-- The commit of a swap shows (R363). -/
def State.commitSwap (s : State) (w : Swap) (at_ : Nat) : State :=
  let s := { s with swaps := s.swaps.map (fun (x : Swap) => if x.job = w.job then { x with inst := some at_ } else x) }
  forAll (List.range s.part.halls) (fun h s => (s.put HS_STATUS.STATE (ix h) 2).put HS_SWAP_AT.I (ix h) at_) s

/-- PSW_MAPn_SH copied to PSW_MAPn; an entry that is KEEP stays, and its shadow takes its value (R222, R348). -/
def State.swapMap (s : State) (h : Nat) : State :=
  forAll (List.range 16) (fun b s =>
    let r := (ix h).reg (if b < 8 then .PSW_MAP0_SH else .PSW_MAP1_SH)
    let lo := 4 * (b % 8)
    let v := bits (s.rd r) (lo + 3) lo
    if v = 0xE then s.wr r (setBits (s.rd r) (lo + 3) lo (s.stallOf h b)) else s.setStallOf h b v) s

/-- Claims and occupancy pass from the predecessors to the successor (R356). -/
def State.handOver (s : State) (i : Image) : State :=
  let preds := s.preds i
  let s := { s with regs := s.regs.filter (fun e => !(e.1.isClaim && bit e.2.toNat 31 && preds.contains (bits e.2.toNat 15 0))) }
  let s := forAll i.claims (fun w s => if (s.holder (w / 2 ^ 20)).isNone then s.setHolder (w / 2 ^ 20) (some i.job) else s) s
  forAll i.units (fun u s => if s.shadow u = i.job then s.wr (occReg u) i.job else s) s

/-- What happens in every hall at instant `at_` of a swap (R364). -/
def State.swapInstant (s : State) (w : Swap) (at_ : Nat) : State :=
  match s.image w.loaded with
  | none => s
  | some i =>
    let halls := List.range s.part.halls
    let named (k : Nat × Nat) : Bool := s.shadow (false, k.1, k.2) == i.job
    let units := halls.flatMap (fun h => (List.range 16).map (fun b => (h, b)))
    let news := units.filter named
    let s := forAll (halls.filter (fun h => i.halls.contains h)) (fun h s => s.swapMap h) s
    let s := forAll (i.secs.filter (fun x => x.ty == 8)) (fun x s =>
      forAll (i.entries x) (fun e s => s.hostWrite loaderPort e.1 (toBytes 4 e.2)) s) s
    let s := s.handOver i
    let i' := { i with live := true, swapped := true }
    let s := (s.updImage i.job (fun _ => i')).refreshLive
    let s := (s.applyKeep i').showImage i'
    let s := forAll halls (fun h s => (s.put HS_STATUS.STATE (ix h) 3).put HS_SWAP_AT.I (ix h) at_) s
    let s := forAll w.marks (fun k s => s.wr ((ix k.1 k.2).reg .CLM_TM) 0) s
    let s := forAll units (fun k s => s.setBarrow k.1 k.2 { s.barrow k.1 k.2 with swapAt := some (at_ + 32) }) s
    let s := forAll news (fun k s =>
      (s.setBarrow k.1 k.2 { s.barrow k.1 k.2 with selAt := none, swapPg := true }).set BR_STATUS.PAGE_PEND (ix k.1 k.2) true) s
    let stalls := w.stalls.filter (fun k => s.active (true, k.1, k.2) == i.job)
    let s := { s with swaps := s.swaps.map (fun (x : Swap) =>
      if x.job = w.job then { x with switched := true, inst := some at_, stalls := stalls, barrows := units } else x) }
    -- DONE at I; its chit follows once every unit has switched
    ((s.updJob w.job (fun j => { j with state := .done, suspPend := false, cancelPend := false })).swapTidy).retire

/-- A unit of a swap has switched. -/
def State.unitSwapped (s : State) (f : Swap → Swap) : State :=
  ({ s with swaps := s.swaps.map (fun (w : Swap) => if w.switched then f w else w) }).swapTidy.retire

/-- What the ACTION of a trader does in its stall's swap rotation (R365). -/
def State.swapTrader (s : State) (i : Image) (role : Nat) (t : TraderId) : State :=
  match i.sec 2 t.h role, i.stallRec t.h role with
  | some c, some r =>
    let o := 8 + 40 * t.t
    match field c (o + 34) 1 with
    | 1 =>
      let s := s.upd t (fun tr => { (tr.abandon (s.cur t)).setBud 0 {} with
        running := true, trap := none, entering := none, exiting := none, fetched := none,
        startRot := Tab.get s.stallSlot (t.h, t.s) 0 / 16 + 1, sup := bit (field r 2 2) t.t, pc := field c (o + 36) 2 })
      (s.put EV_CTRL.CUR t.ix 0).put EV_PEND.PEND t.ix 0
    | 2 => s.stopTrader t
    | _ => s
  | _, _ => s

/-- The ticks of a rotation of 16 slots at a performance level, rounded up (R381). -/
def rotationTicks (pl : Nat) : Nat := match pl with | 3 => 160 | 2 => 214 | 1 => 320 | _ => 640

/-- The swap rotation of the stall `f` that has a role (R365). -/
def State.swapStall (s : State) (i : Image) (h role f : Nat) : State :=
  let s := (s.exchangePages h f).invalidate h f
  let s := s.setStall h f { s.stall h f with swapEnd := s.tick + rotationTicks (s.get PWR_STATUS.PL) }
  let s := s.applyStall i h role f
  forAll (tradersOf h f) (fun t s => s.swapTrader i role t) s

/-- The pins of a barrow take their shadow configuration in swap cycle `n`; a KEEP pin's shadow takes the pin's own (R207). Those of a
barrow that the image does not name, neither itself nor in a PIN_PLAN of its hall, stay (R364). -/
def State.swapPins (s : State) (i : Image) (h b n : Nat) : State :=
  forAll (List.range 8) (fun k s =>
    let p := 8 * b + k
    let keep := match i.sec 6 h 0 with | some c => bit (field c (4 * p) 4) 0 | none => false
    if (i.sec 5 h b).isNone && (i.sec 6 h 0).isNone then s
    else if keep then s.wr ((ix h p).reg .PIN_CFG_SH) (s.rd ((ix h p).reg .PIN_CFG))
    else
      s.putPinCfg h p (s.rd ((ix h p).reg .PIN_CFG_SH)) (s.cycleStart h b n) (s.cycleStart h b (n + 1))) s

/-- The registers that a crier takes from the image in its swap cycle, but for SWAP_JUMP and SWAP_ENTRY (R366). -/
def State.swapLoads (s : State) (k : CrierId) (c : List Byte) : State :=
  forAll ((barrowLoaded k.h k.b c).filter (fun x => x.1.ofCrier k)) (fun x s =>
    if x.1.name = .CR_EXEC then
      let old := s.rd x.1
      let s := s.fieldWrite x.1 x.2
      s.wr x.1 (setBits (setBits (s.rd x.1) 15 15 (bits old 15 15)) 13 8 (bits old 13 8))
    else s.fieldWrite x.1 x.2) s

/-- What the swap cycle `n` of a barrow loads from the image, after its page has changed: BR_OWN, which decides from this cycle on,
and the registers of its criers, which start and stop as after a port access in this cycle (R366, R198). -/
def State.swapBarrow (s : State) (h b n : Nat) (c : List Byte) : State :=
  let s := (s.ownFrom h b (n - 1) (field c 260 4)).ssiEdges h b (n - 1) (s.cycleStart h b n)
  forAll (List.range 4) (fun k s => s.atCycle ⟨h, b, k⟩ (fun _ => some n) (fun _ s => some (s.swapLoads ⟨h, b, k⟩ c))
    |>.crierPortAt ⟨h, b, k⟩ n (if bit (field c 264 4) k then .start else .stop)) s

/-- The swap cycle of a barrow by the swap sequence (R197, R207, R366): the page changes unless a later request of PAGE_SEL has
replaced that change. -/
def State.swapCycle (s : State) (h b n : Nat) : State :=
  let w := s.swaps.find? (fun w => w.switched && w.barrows.contains (h, b))
  let pg := (s.barrow h b).swapPg
  let s := s.setBarrow h b { s.barrow h b with swapAt := none, swapPg := false }
  let s := s.set BR_STATUS.PAGE_PEND (ix h b) (s.barrow h b).selAt.isSome
  match w.bind (fun w => s.image w.loaded) with
  | none => s
  | some i =>
    let s := match (if s.active (false, h, b) = i.job then i.sec 5 h b else none) with
      | some c => (if pg then s.swapPage h b n (1 - s.brPage h b) else s).swapBarrow h b n c
      | none => s
    (s.swapPins i h b n).unitSwapped (fun w => { w with barrows := w.barrows.filter (fun k => k != (h, b)) })

/-- A swap cycle that is due: the crier cycle in which it falls has begun. -/
def State.cycleDue (s : State) (h b : Nat) (at_ : Option Nat) : Option Nat :=
  match at_ with
  | some t =>
    let n := s.cycleFrom h b t
    if s.clkRun && decide (s.cycleStart h b n ≤ s.tick) then some n else none
  | none => none

/-! ## The rows -/

/-- IMAGE_HEADER_FETCHED (R355): a running load has read its header, table and certificate. `bytes` is the image as it is
read for the checks of step 1. -/
def execImageHeaderFetched (job : Nat) (bytes : List Byte) (s : State) : Out :=
  .next (match s.job job with
    | some j =>
      match j.body with
      | .loadImage _ len flags =>
        if j.state = .running ∧ j.stage = 0 ∧ j.left = 0 ∧ j.got = bytes then s.headerFetched job len (bit flags 0) bytes
        else s
      | _ => s
    | none => s)

/-- IMAGE_SECTION_FETCHED (R355). -/
def execImageSectionFetched (job : Nat) (bytes : List Byte) (s : State) : Out :=
  .next (match s.job job, s.image job with
    | some j, some i =>
      match i.secs[i.taken]? with
      | some x => if j.state = .running ∧ j.stage = 1 ∧ !i.committed ∧ j.left = 0 ∧ j.got = bytes then (s.sectionFetched i x bytes).settle else s
      | none => s
    | _, _ => s)

/-- SWAP_COMMIT (R363). -/
def execSwapCommit (s : State) : Out :=
  .next (match s.swaps.find? (fun w => !w.switched && w.inst.isNone) with
    | some w => match s.swapInst w with
      | some i => s.commitSwap w i
      | none => s
    | none => s)

/-- SWAP_TILL_INSTANT (R364). -/
def execSwapTillInstant (s : State) : Out :=
  .next (match s.swaps.find? (fun w => !w.switched && (match w.till with | some i => decide (i ≤ s.tick) | none => false)) with
    | some w => (s.swapInstant w (w.till.getD 0)).settle
    | none => s)

/-- STALL_SWAP_ROTATION (R365): a rotation that begins at or after I + 32 ticks. -/
def execStallSwapRotation (h f : Nat) (s : State) : Out :=
  let role := s.get STL_SELF.ROLE (ix h f)
  .next (match s.swaps.find? (fun w => w.switched && w.stalls.contains (h, role)) with
    | some w =>
      match s.image w.loaded with
      | some i =>
        if w.inst.getD 0 + 32 ≤ s.tick ∧ s.roleStall h role = some f then
          (s.swapStall i h role f).unitSwapped (fun w => { w with stalls := w.stalls.filter (fun k => k != (h, role)) })
        else s
      | none => s
    | none => s)

/-- BARROW_SWAP_CYCLE (R197): the change asked for by a swap, or by PAGE_SEL. -/
def execBarrowSwapCycle (h b : Nat) (s : State) : Out :=
  .next (match s.cycleDue h b (s.barrow h b).swapAt, s.cycleDue h b (s.barrow h b).selAt with
    | some n, _ => s.swapCycle h b n
    | none, some n =>
      let s := s.swapPage h b n (1 - s.brPage h b)
      let s := s.setBarrow h b { s.barrow h b with selAt := none }
      s.set BR_STATUS.PAGE_PEND (ix h b) (s.barrow h b).swapPg
    | none, none => s)

/-- MARK_ACTION (R47): the mark acts at its committed instant and switches the swap it serves. -/
def execMarkAction (h m : Nat) (s : State) : Out :=
  .next (match s.actionDue h m with
    | none => s
    | some at_ =>
      let act := (s.mark h m).action
      let s := (s.markAct h m at_).runEdges
      let s := if bit act 14 then
          match s.swaps.find? (fun w => !w.switched && w.marks.contains (h, m)) with
          | some w => s.swapInstant w at_
          | none => s
        else s
      s.settle)

/-- ESTIMATOR_UPDATE (R34). -/
def execEstimatorUpdate (n : Nat) (s : State) : Out :=
  .next (if n < 16 ∧ s.updateDue n then (s.updateAxis n).swapLate.settle else s)

/-- QUADRATURE_EDGE (R33). -/
def execQuadratureEdge (n : Nat) (a b : Bool) (tm : Nat) (s : State) : Out :=
  .next (if n < 16 ∧ s.quadFiltered n tm ∧ !s.asleep then
      (s.quadEdge n (a && s.quadInput n TAX_SRC.POS_A) (b && s.quadInput n TAX_SRC.POS_B) tm).settle else s)

/-- WIND_DOWN_TIMEOUT (R373): the job fails; what the wind-down has begun stands. -/
def execWindDownTimeout (s : State) : Out :=
  .next (match s.wind with
    | some w =>
      match w.timeout with
      | some e =>
        if e ≤ s.tick then { s with wind := some { w with job := 0xFFF0, timeout := none } }.jobTo w.job .failed 1 else s
      | none => s
    | none => s)

/-! ## Time -/

/-- Time passes on an empty queue (assumption log 2): one tick, or one LFO cycle, with what the halls do at a clock edge in it and
what the lanes do. -/
def State.pass (s : State) : State :=
  let s' := s.idle.freezeAll.runEdges
  if s'.asleep then s' else forAll (Tab.keys s.lanes) (fun k s => s.laneTick k.1 k.2) s'

end Sys2Proof.Machine
end

