-- ==== Sys2Proof/Machine/Power.lean ====
section
/-! DEFINITION. Performance levels (R381, R382), sleep states and wakes (R383 to R393), and temperature (R410). -/

namespace Sys2Proof.Machine

/-! ## POWER jobs (R382 to R384, R393) -/

/-- A wake source is enabled (R386). -/
def State.wakeEnabled (s : State) : Bool :=
  s.is WK_CTRL.DB_EN || s.is WK_I2C.EN || (s.is TILL_CTRL.ALARM_WAKE && s.is TILL_CTRL.ALARM_EN) ||
    (List.range 32).any (fun n => s.is WK_PIN.EN (ix n))

/-- The reason for which a POWER job to NAP or OFF fails with nothing changed (R393). -/
def State.refuseSleep (s : State) (job : Nat) (busy : Bool) : Option Nat :=
  if busy && s.jobs.any (fun j => j.num != job && !j.state.ended) then some 2
  else if !s.wakeEnabled then some 3
  else if s.wind.isSome then some 5
  else none

/-- A lane goes to off and raises no chit. -/
def State.laneOff (s : State) (h k : Nat) : State :=
  let i := ix h k
  let s := ((s.lnPut h k 0).set LN_STATUS.LOCK i false).set LN_STATUS.SIGNAL i false
  let s := (s.set LN_STATUS.IN_SERVICE i false).put LN_GROUP.SERVICE i 0
  let s := (s.set LN_SYNC_STATUS.SETTLED i false).put LN_SYNC_STATUS.EXCH i 0
  s.drives h s.tick (fun s => s.updLane h k (fun l =>
    { l with training := none, inG := [], misfit := false, rx := [], tx := [], active := none, qreq := false, out := none, rest := [],
             syncQ := [], cur := none, depart := none, loop := [], loopSync := [] }))

/-- Step 1 of sleep entry: every other job that has not ended fails, and what it holds in the units goes. -/
def State.failJobs (s : State) (job : Nat) : State :=
  let s := forAll (s.jobs.filter (fun j => j.num != job && !j.state.ended)) (fun j s => s.jobTo j.num .failed 0xE1) s
  { s with images := s.images.filter (fun i => i.committed), patches := [], calibs := []
           axes := s.axes.map (fun (e : Nat × Axis) => (e.1, { e.2 with calPreset := none })) }.forget
    (fun r => match r.owner with | .job n => n != job | _ => false)

/-- Step 2: traders, criers, cart channels, porter threads and lanes stop. -/
def State.stopAll (s : State) : State :=
  forAll (List.range s.part.halls) (fun h s =>
    let s := forAll (List.range s.part.stalls) (fun f s => forAll (tradersOf h f) (fun t s => s.stopTrader t) s) s
    let s := forAll (List.range 16) (fun b s => s.criersStop h b 15) s
    let s := forAll (List.range 32) (fun c s => s.cartAbort h c) s
    forAll (List.range 4) (fun k s =>
      if 4 * h + k < s.part.lanes then ((s.runWrite h k 0 false).runWrite h k 1 false).laneOff h k else s) s) s

/-- Every armed mark of a hall is disarmed (R51). -/
def State.sleepDisarm (s : State) : State :=
  forAll (Tab.keys s.marks) (fun k s =>
    let i := ix k.1 k.2
    if s.is TM_STATUS.ARMED i then
      let s := s.setMark k.1 k.2 { s.mark k.1 k.2 with inst := none, committed := false, nextArm := none, sign := none, eff := s.tick }
      (s.set TM_STATUS.ARMED i false).set TM_STATUS.SLEEP_DISARM i true
    else s) s

/-- Step 3: marks are disarmed and every pin is held. -/
def State.sleepHold (s : State) : State :=
  forAll (List.range s.part.halls) (fun h s =>
    forAll (List.range 128) (fun i s => s.hold h i PIN_STATUS.HOLD_SLEEP) s) s.sleepDisarm

/-- Sleep entry begins: steps 1 to 3, and the job's end, whose chit is written in step 4. -/
def State.enterSleep (s : State) (job target resume : Nat) : State :=
  let s := (s.put PWR_STATUS.STATE {} 2).swapsFail 7
  let s := (s.failJobs job).stopAll.sleepHold
  { s with power := { s.power with step := .entering target, job := some job, resume := resume, woken := false } }.jobTo job .done

/-- A POWER job starts (R382 to R384, R393). -/
def State.startPower (s : State) (job target resume flags : Nat) : State :=
  let s := s.jobTo job .running
  if target ≤ 3 then
    if s.is FT_DSTATUS.THROTTLED ∧ 2 ≤ target then s.jobTo job .failed 4
    else if target = s.get PWR_STATUS.PL then
      (if s.get PWR_STATUS.STATE = 1 then s.put PWR_STATUS.STATE {} 0 else s).jobTo job .done
    else if !s.till.refUp then s.jobTo job .failed 6
    else
      let s := if s.get PWR_STATUS.STATE = 1 then s.put PWR_STATUS.STATE {} 0 else s
      { s with power := { s.power with job := some job } }.changeLevel target
  else if target = 4 then (s.put PWR_STATUS.STATE {} 1).jobTo job .done
  else match s.refuseSleep job (bit flags 0) with
    | some r => s.jobTo job .failed r
    | none => s.enterSleep job target resume

/-- A POWER job may start: no transition is under way, and a swap past its instant has completed. -/
def State.powerFree (s : State) (target : Nat) : Bool :=
  !s.inTransition && (decide (target ≤ 4) || !s.swaps.any (fun w => w.switched))

/-- Everything that step 4 of sleep entry waits for: fail-overs have completed (R407), buffers, cart writes and host requests are drained, and the JOB chit is
written with its response. -/
def State.drained (s : State) (job : Nat) : Bool :=
  s.failovers.isEmpty && s.traders.all (fun e => e.2.stores.isEmpty) && s.chans.all (fun e => !e.2.act) && s.reqs.isEmpty &&
    !s.chits.any (fun c => c.id.ty == 3 && c.id.job == job && (match c.stage with | .written _ => c.pend.isSome | _ => true))

/-- The level of a slot's pin as it was last told: by WAKE_PIN, or else by the pin's latest sample. -/
def State.wakeLevel (s : State) (n : Nat) : Bool :=
  let p := s.get WK_PIN.PIN (ix n)
  (Tab.find s.power.levels (n, p)).getD (s.is PIN_STATUS.LEVEL (ix 0 p))

/-- A slot's level condition holds by the pin's latest level. -/
def State.levelHolds (s : State) (n : Nat) : Bool :=
  s.is WK_PIN.EN (ix n) && s.get WK_PIN.COND (ix n) == (if s.wakeLevel n then 2 else 3)

/-- The POWER jobs that wait for the end of the entry and ask for the state just reached are DONE (R393). -/
def State.reachedJobs (s : State) (target : Nat) : State :=
  forAll (s.jobs.filter (fun j => j.state == .queued && (match j.body with | .power t _ _ => t == target | _ => false)))
    (fun j s => s.jobTo j.num .done) s

/-- Step 5: the pad latches take every output (R215), caches and loop buffers are invalidated and FIFOs are empty (R385); a mark armed
during the entry is disarmed (R51), the counters have counted what came before, and the till moves to the LFO. A source latched
during the entry, or a level that holds at its end, wakes at once (R387, R391). -/
def State.sleep (s : State) (target : Nat) : State :=
  let s := s.latchPads.reachedJobs target
  let s := { s with
    traders := s.traders.map (fun (e : TraderId × Trader) => (e.1, { e.2 with lbuf := none, fetched := none }))
    stalls := s.stalls.map (fun (e : (Nat × Nat) × Stall) => (e.1, ({ e.2 with lines := [], fill := none, inval := false } : Stall)))
    criers := s.criers.map (fun (e : CrierId × Crier) => (e.1, { e.2 with tx := [], rx := [] }))
    power := { s.power with step := .asleep target, job := none, vreq := if target = 5 then 4 else 5 } }
  let s := forAll (Tab.keys s.counters) (fun k s => s.ctCatch k.1 k.2 s.tick) s
  let s := (s.sleepDisarm.powerDown).tillTo .lfo
  let hits := (List.range 32).filter (fun n => s.levelHolds n)
  let s := s.put WK_CAUSE.PIN {} (s.get WK_CAUSE.PIN ||| maskOf 32 (fun n => hits.contains n))
  if s.power.woken || !hits.isEmpty then s.beginWake else s

/-! ## Wake sources (R386 to R389) -/

/-- The level of a slot's pin, as held for three LFO cycles; its condition may fire. A fall of SCL ends an acknowledge: DESIGN CHOICE
(assumption log 133). -/
def State.wakePin (s : State) (n : Nat) (level : Bool) : State :=
  let old := s.wakeLevel n
  let p := s.get WK_PIN.PIN (ix n)
  let ends := !level && p == s.get WK_I2C.SCL_PIN
  let s := { s with power := { s.power with levels := Tab.set s.power.levels (n, p) level
                                            ack := if ends then none else s.power.ack } }
  let fires := match s.get WK_PIN.COND (ix n) with
    | 0 => !old && level
    | 1 => old && !level
    | 2 => level
    | _ => !level
  if s.is WK_PIN.EN (ix n) && fires then s.wakeSource (fun s => s.put WK_CAUSE.PIN {} (s.get WK_CAUSE.PIN ||| 2 ^ n)) else s

/-- The I²C matcher watches two pins that enabled slots name, and the byte carries its address (R388). -/
def State.i2cMatches (s : State) (b : Nat) : Bool :=
  let named (p : Nat) : Bool := (List.range 32).any (fun n => s.is WK_PIN.EN (ix n) && s.get WK_PIN.PIN (ix n) == p)
  s.is WK_I2C.EN && named (s.get WK_I2C.SCL_PIN) && named (s.get WK_I2C.SDA_PIN) && b / 2 == s.get WK_I2C.ADDR && b / 2 != 0

/-- The sleep agent takes a doorbell (R389): in NAP the last value of each ring is kept, and DB_EN makes it a wake source. -/
def State.sleepDoor (s : State) (n v : Nat) : State :=
  let s := if s.power.step = .asleep 5 then { s with power := { s.power with doors := Tab.set s.power.doors n v } } else s
  if s.is WK_CTRL.DB_EN then s.wakeSource (fun s => s.set WK_I2C.DB_HIT {} true) else s

/-- A host access in NAP or OFF (R389). -/
def State.sleepAccess (s : State) (p a : Nat) (w : Option Word) : State :=
  match s.hostReg a, w with
  | some (r, hi), some v =>
    if r.name = .OR_TAIL then s.sleepDoor r.a v.toNat else if r.name.ofPower then s.wordWrite p r hi v.toNat else s
  | some (r, _), none =>
    if r.name.ofPower then
      let (v, s) := s.hostRead p a
      { s with readOut := BitVec.ofNat 32 v }
    else { s with readOut := 0 }
  | none, some _ => s
  | none, none => { s with readOut := 0 }

/-! ## Temperature (R410) -/

/-- The threshold of a level. -/
def State.threshold (s : State) (level : Nat) : Nat :=
  match level with
  | 1 => s.get FT_THERM_CTRL.WARN
  | 2 => s.get FT_THERM_CTRL.THROTTLE
  | _ => s.get FT_THERM_CTRL.CRIT

/-- The thermal level after a hottest reading: up to the highest threshold reached, down from a level whose threshold lies at
least 5 °C above every sensor. -/
def State.thermalLevel (s : State) (hot : Nat) : Nat :=
  let raw := if s.threshold 3 ≤ hot then 3 else if s.threshold 2 ≤ hot then 2 else if s.threshold 1 ≤ hot then 1 else 0
  let fall (l : Nat) : Nat := if raw < l ∧ hot + 5 ≤ s.threshold l then l - 1 else l
  if s.power.thermal ≤ raw then raw else fall (fall (fall s.power.thermal))

/-- The throttle begins, or waits for the end of a transition. -/
def State.throttleOn (s : State) : State :=
  if s.inTransition then { s with power := { s.power with throttle := some true } } else s.beginThrottle

/-- The throttle ends, or waits for the end of a transition; one that has not begun is withdrawn. -/
def State.throttleOff (s : State) : State :=
  if s.power.throttle = some true then { s with power := { s.power with throttle := none } }
  else if !s.is FT_DSTATUS.THROTTLED then s
  else if s.inTransition then { s with power := { s.power with throttle := some false } }
  else s.endThrottle

/-- What a change of the thermal level sets off. -/
def State.thermalChange (s : State) (old new which hot : Nat) : State :=
  let s := { s with power := { s.power with thermal := new } }
  let s := s.chit 0x27 which (new + hot <<< 8) s.tick
  let s : State := if old < 2 ∧ 2 ≤ new then (if s.is FT_THERM_CTRL.THROTTLE_EN then s.throttleOn else s)
    else if 2 ≤ old ∧ new < 2 then s.throttleOff
    else s
  if new = 3 ∧ (List.range s.part.halls).any (fun h => s.is FT_WIND.THERMAL (ix h)) then
    { s with faults := s.faults ++ [FaultCause.wind 2 0] }
  else s

/-- The sensors are read: a change of level raises a chit, and may begin or end a throttle or a wind-down. -/
def State.temperature (s : State) (temps : List Nat) : State :=
  let seen := (List.range 9).filter (fun n => decide (n < s.part.halls) || n == 8)
  let val (n : Nat) : Nat := temps[n]?.getD 0 % 256
  let s := forAll (List.range 9) (fun n s => s.put FT_TEMP.TEMP (ix n) (if seen.contains n then val n else 0)) s
  let hot := (seen.map val).foldl max 0
  let which := (seen.find? (fun n => val n == hot)).getD 0
  if s.thermalLevel hot = s.power.thermal then s else s.thermalChange s.power.thermal (s.thermalLevel hot) which hot

/-! ## The rows -/

/-- A POWER job in transition whose idle core PLL has not locked ends with NO_REF when the reference is lost (R30). -/
def State.noRef (s : State) : State :=
  match s.power.job, s.power.step with
  | some j, .raiseSupply _ | some j, .raiseLock _ | some j, .lowerLock _ =>
    (({ s with power := { s.power with step := .none, job := none } }).jobTo j .failed 6).romStep.throttleTurn
  | _, _ => s

/-- REF_LOST (R30): the monitor watches the reference after the till first locks. DESIGN CHOICE (assumption log 122): while the till
runs on the LFO or the FIO, asleep or waking, a loss does nothing. -/
def execRefLost (s : State) : Out :=
  .next (if s.till.clk = .pll ∧ s.till.refUp then s.refLost.noRef.settle else s)

/-- CORE_PLL_LOCK (R382): the idle core PLL has locked, to a reference that is there (R30). In the boot ROM's own raise nothing
moves before PWR_CLK.SWITCH. -/
def execCorePllLock (s : State) : Out :=
  .next (if !s.till.refUp then s else match s.power.step with
    | .raiseLock l =>
      if s.is PWR_STATUS.FULL then s.swapPll.levelReached l
      else if s.power.job.isSome then s.levelReached l
      else { s with power := { s.power with step := .none, romRuns := true } }
    | .lowerLock l => s.swapPll.request l (.lowerSupply l)
    | _ => s)

/-- SUPPLY_SETTLED (R382). -/
def execSupplySettled (s : State) : Out :=
  .next (if !s.settledSupply then s
    else match s.power.step with
      | .raiseSupply l => { s with power := { s.power with step := .raiseLock l } }
      | .lowerSupply l => s.levelReached l
      | _ => s)

/-- SLEEP_ENTRY_COMPLETE (R384). -/
def execSleepEntryComplete (s : State) : Out :=
  .next (match s.power.step, s.power.job with
    | .entering x, some job => if s.drained job then (s.sleep x).settle else s
    | _, _ => s)

/-- WAKE_PIN (R387). -/
def execWakePin (n : Nat) (level : Bool) (s : State) : Out := .next (if n < 32 then (s.wakePin n level).settle else s)

/-- I2C_ADDRESS_MATCH (R388): in sleep with ACK_EN the matcher drives SDA low, and the wake fires. -/
def execI2cAddressMatch (b : Byte) (s : State) : Out :=
  .next (if s.i2cMatches b.toNat then
      let s := if s.asleep && s.is WK_I2C.ACK_EN then { s with power := { s.power with ack := some (s.get WK_I2C.SDA_PIN) } } else s
      (s.wakeSource (fun s => s.set WK_I2C.HIT {} true)).settle
    else s)

/-- REGISTER_WRITE (R8, R321): a write of a register by the host or by a trader. While the tile sleeps, the sleep agent answers the
host (R389). -/
def execRegisterWrite (by_ : Accessor) (addr : Nat) (data : List Byte) (s : State) : Out :=
  .next (match by_ with
    | .host p =>
      if s.asleep then (if data.length = 4 ∧ addr % 4 = 0 then s.sleepAccess p addr (some (BitVec.ofNat 32 (ofBytes data))) else s).settle
      else s.byPort p ((s.heldAt addr).getD 8) (.registerWrite by_ addr data) (s.heldAt addr).isSome
        (fun s => (s.hostWrite p addr data).settle)
    | .trader t => if s.asleep then s else if data.length ≤ 3 then (s.ioWrite t addr data).settle else s)

/-- READ_CLEAR (R8, R9, R321): a host read of `n` bytes. The read returns the value from before the addition of its cycle, and the
field holds that addition afterwards. Traders reach no RC register. -/
def execReadClear (by_ : Accessor) (addr n added : Nat) (o : MemOutcome) (s : State) : Out :=
  .next (match by_ with
    | .host p =>
      if s.asleep then (if n = 4 ∧ addr % 4 = 0 then s.sleepAccess p addr none else { s with readOut := 0, readData := List.replicate n 0 })
      else s.byPort p ((s.heldAt addr).getD 8) (.readClear by_ addr n added o) (s.heldAt addr).isSome
        (fun s => s.windowRead p addr n added o)
    | .trader _ => s)

/-- ORDER_DOORBELL (R322): in NAP and OFF the sleep agent takes it (R389). -/
def execOrderDoorbell (port n : Nat) (v : Word) (s : State) : Out :=
  .next (if s.asleep then (s.sleepDoor n v.toNat).settle
    else s.byPort port 8 (.orderDoorbell port n v) false (fun s => s.doorbell n v.toNat))

/-- SLEEP_AGENT_ACCESS (R389). -/
def execSleepAgentAccess (p a : Nat) (w : Option Word) (s : State) : Out :=
  .next (if s.asleep then (s.sleepAccess p a w).settle else s)

/-- TEMPERATURE_SAMPLE (R410). -/
def execTemperatureSample (temps : List Nat) (s : State) : Out :=
  .next (if s.asleep then s else (s.temperature temps).settle)

end Sys2Proof.Machine
end

