-- ==== Sys2Proof/Machine/Jobs.lean ====
section
/-! DEFINITION. Orders (R323 to R333) and jobs (R334 to R338): checks, acceptance, what each kind of job waits for, its start,
its suspend, resume and cancel, and the steps of CLEAR, LOAD_MICROCODE and CALIBRATE_AXIS. -/

namespace Sys2Proof.Machine

/-! ## Orders (R324 to R327) -/

/-- What an order asks for: a job, or one of the immediate orders. -/
inductive Order where
  | job (b : JobBody)
  | start (hall stall mask flags entry : Nat)
  | stop (hall stall mask : Nat)
  | suspend (target : Nat)
  | resume (target : Nat)
  | cancel (target : Nat)
  deriving DecidableEq, Repr

/-- The code of an order (R326). -/
def Order.code : Order → Nat
  | .job b => b.code
  | .start .. => 3 | .stop .. => 4
  | .suspend _ => 0x10 | .resume _ => 0x11 | .cancel _ => 0x12

/-- The order makes a job. -/
def Order.isJob : Order → Bool
  | .job _ => true
  | _ => false

/-- An I/O virtual address has 52 bits (R315). -/
def ioVa (a align : Nat) : Bool := decide (a < 2 ^ 52) && a % align == 0

/-- Every number of a job's payload lies in its range (R325, R327, R331, R372, R392). -/
def JobBody.fieldsOk : JobBody → Bool
  | .loadImage image len flags => ioVa image 64 && decide (len < 2 ^ 32) && decide (flags < 2)
  | .swapAt loaded trigger axis dir value =>
    decide (loaded < 65536) && decide (trigger < 2) && decide (axis < 16) && decide (dir < 3) && decide (value < 2 ^ 64)
  | .claim es => decide (1 ≤ es.length) && decide (es.length ≤ 11) && es.all (fun w => claimWordOk w.toNat)
  | .release owner es =>
    decide (owner < 65536) && decide (1 ≤ es.length) && decide (es.length ≤ 11) && es.all (fun w => claimWordOk w.toNat)
  | .clear area hall stall off len =>
    decide (area < 4) && decide (hall < 8) && decide (stall < 8) && (area != 0 || stall == 0) && off % 64 == 0 && len % 64 == 0 &&
      decide (off < 2 ^ 32) && decide (len < 2 ^ 32)
  | .trainLane lane => decide (lane < 32)
  | .loadMicrocode lane patch => decide (lane < 32) && ioVa patch 1
  | .calibrate axis flags ref dur preset result =>
    decide (axis < 16) && decide (flags < 4) && decide (ref < 1024) && decide (1 ≤ dur) && decide (dur < 2 ^ 32) &&
      decide (preset < 2 ^ 64) && ioVa result 32
  | .cartJob hall chan flags head => decide (hall < 8) && decide (chan < 32) && decide (flags < 4) && ioVa head 32
  | .power target resume flags => decide (target < 7) && decide (resume < 4) && decide (flags < 2)
  | .windDown axis profile flags timeout => decide (axis < 16) && decide (profile < 8) && decide (flags < 2) && decide (timeout < 2 ^ 32)

/-- Every number of an order's payload lies in its range. -/
def Order.fieldsOk : Order → Bool
  | .job b => b.fieldsOk
  | .start hall stall mask flags entry =>
    decide (hall < 8) && decide (stall < 8) && decide (mask < 65536) && decide (flags < 4) && decide (entry < 65536)
  | .stop hall stall mask => decide (hall < 8) && decide (stall < 8) && decide (mask < 65536)
  | .suspend t | .resume t | .cancel t => decide (t < 65536)

/-- The stall of a role can serve an order that needs it: the role has a physical stall, and no fail-over moves it (R328,
R407). -/
def State.roleServed (s : State) (h r : Nat) : Bool :=
  (s.roleStall h r).isSome && (match s.failover h with | some o => o.role != r | none => true)

/-- The payload names a unit that is not there (R325). -/
def State.noUnit (s : State) : Order → Bool
  | .job (.claim es) | .job (.release _ es) => es.any (fun w => decide (s.part.halls ≤ bits w.toNat 29 27))
  | .job (.clear area hall stall _ _) => decide (s.part.halls ≤ hall) || (area != 0 && (s.roleStall hall stall).isNone)
  | .job (.loadMicrocode lane _) => decide (s.part.lanes ≤ lane)
  | .job (.calibrate _ flags ref _ _ _) => bit flags 0 && decide (s.part.halls ≤ ref / 128)
  | .job (.cartJob hall _ _ _) => decide (s.part.halls ≤ hall)
  | .start hall stall _ _ _ => decide (s.part.halls ≤ hall) || !s.roleServed hall stall
  | .stop hall _ _ => decide (s.part.halls ≤ hall)
  | _ => false

/-- The first reason for which an order is refused (R325); `fields` tells that no reserved bit of the record is set. -/
def State.orderReason (s : State) (o : OrderHdr) (x : Order) (fields : Bool) : Option Nat :=
  if !fields || !decide (o.flags < 4) || !x.fieldsOk then some 2
  else if (x.isJob && (o.job == 0 || decide (0xFFF0 ≤ o.job))) || (!x.isJob && o.job != 0) then some 3
  else if x.isJob && (s.job o.job).isSome then some 4
  else if x.isJob && decide (512 ≤ s.jobs.length) then some 5
  else if s.noUnit x then some 6
  else none

/-- ORDER_DONE and ORDER_REFUSED go to the chit ring of the order's ring (R340, R341). -/
def State.orderChit (s : State) (o : OrderHdr) (ty data : Nat) : State :=
  s.raiseOn (s.get OR_CTRL.CHIT_RING (ix o.ring)) ⟨ty, o.ring <<< 12 + o.slot % 4096, o.job, 0⟩ (o.htag.toNat + data) s.tick

/-- A refused order (R325). -/
def State.orderRefused (s : State) (o : OrderHdr) (reason code : Nat) : State :=
  s.orderChit o 2 (reason <<< 32 + code <<< 40)

/-! ## Starting jobs (R333, R335) -/

/-- The job works, or is held from working. -/
def Job.atWork (j : Job) : Bool := j.state == .running || (j.state == .suspended && !j.fromQueued)

/-- A queued job finds nothing to wait for (R335, R380). -/
def State.startable (s : State) (j : Job) : Bool :=
  let other (p : Job → Bool) : Bool := s.jobs.any (fun x => x.num != j.num && p x)
  let awake := !s.asleep && s.get PWR_STATUS.STATE != 2
  j.state == .queued && !(j.fence && other (fun x => x.ring == j.ring && decide (x.seq < j.seq) && !x.state.ended)) &&
  match j.body with
  | .clear .. => awake
  | .power target _ _ => awake && s.powerFree target
  | .windDown .. => s.is PWR_STATUS.FULL
  | .loadImage .. => awake && s.is PWR_STATUS.FULL && !other (fun x => decide (x.seq < j.seq) && !x.state.ended &&
      (match x.body with | .loadImage .. | .swapAt .. => true | _ => false))
  | .swapAt loaded _ _ _ _ =>
    awake && s.is PWR_STATUS.FULL && (match s.job loaded with | some x => x.state.ended | none => true)
  | .trainLane lane => awake && s.is PWR_STATUS.FULL &&
      !other (fun x => x.atWork && (match x.body with | .loadMicrocode l _ => l == lane | _ => false))
  | .loadMicrocode lane _ => awake && s.is PWR_STATUS.FULL &&
      !other (fun x => x.atWork && (match x.body with | .trainLane l => l == lane | _ => false))
  | .calibrate axis .. => awake && s.is PWR_STATUS.FULL &&
      !other (fun x => x.atWork && (match x.body with | .calibrate a .. => a == axis | _ => false))
  | .cartJob hall chan _ _ => awake && s.is PWR_STATUS.FULL && !(s.chan hall chan).act && !s.is CE_STATUS.HALT (ix hall)
  | .claim _ | .release _ _ => awake && s.is PWR_STATUS.FULL

/-- The size of an area of CLEAR: hall memory, shared stall RAM, private slices, shadow IMEM page. -/
def clearSize (area : Nat) : Nat := match area with | 0 => 0x400000 | 1 | 2 => 0x20000 | _ => 0x8000

/-- A CLAIM job with OP 0 (R330). -/
def State.runClaim (s : State) (job : Nat) (es : List Word) : State :=
  let rs := es.map (fun w => w.toNat / 2 ^ 20)
  match s.refusals job [] rs with
  | [] => (forAll rs (fun r s => s.setHolder r (some job)) s).jobTo job .done
  | xs => (s.refuseClaims job xs).jobTo job .failed 0xD

/-- A CLAIM job with OP 1 (R330). -/
def State.runRelease (s : State) (job owner : Nat) (es : List Word) : State :=
  let rs := es.map (fun w => w.toNat / 2 ^ 20)
  if rs.all (fun r => s.holder r == some owner) then
    (forAll rs (fun r s => s.setHolder r none) s).jobTo job .done
  else s.jobTo job .failed 1

/-- A TRAIN_LANE job (R30, R245): a lane that is absent, off or training is left unchanged, with RESULT 6 as the reason. A single lane
that is trained anew has not gone down (R409). -/
def State.runTrain (s : State) (job lane : Nat) : State :=
  let h := lane / 4
  let k := lane % 4
  if !s.inLane h k ∨ s.lnMode h k = 0 ∨ (s.lane h k).training.isSome then s.jobTo job .failed 6
  else
    let single := (s.group h k).length ≤ 1
    let fs := s.faults
    let s := if s.laneUp h k then (s.leaveGroup h k).set LN_STATUS.IN_SERVICE (ix h k) false else s
    let s := if single then { s with faults := fs } else s
    let s := s.startTraining h k job
    if s.till.refUp then s else (s.trainEnds h k 4).jobTo job .failed 4

/-- A CART_JOB job starts its channel (R333). -/
def State.runCart (s : State) (job h c flags head : Nat) : State :=
  let i := ix h c
  let s := if bit flags 0 then s
    else
      let s := ((s.wr (i.reg .CH_SRC) 0).wr (i.reg .CH_DST) 0).wr (i.reg .CH_CNT) 0
      (s.wr (i.reg .CH_FLAGS) (b2n (bit flags 1) <<< 15)).wr (i.reg .CH_NEXT) head
  (s.cartBegin h c job).1

/-- A WIND_DOWN job (R372, R373, R393). -/
def State.runWind (s : State) (job axis profile flags timeout : Nat) : State :=
  if s.wind.isSome then s.jobTo job .failed 2
  else if !s.mayWind then s.jobTo job .failed 3
  else
    let (a, p) := if bit flags 0 then s.windDefault else (axis, profile)
    s.startWind job (a % 16) (p % 8) (if timeout = 0 then none else some (timeout * 2 ^ 20))

/-- A job becomes RUNNING and does its first step. -/
def State.startJob (s : State) (j : Job) : State :=
  let n := j.num
  let run := s.jobTo n .running
  match j.body with
  | .loadImage image _ _ => run.fetchHost n image 64
  | .swapAt loaded trigger axis dir value =>
    match s.job loaded with
    | some x => if x.state = .done then run.startSwap n loaded trigger axis dir value else s.jobTo n .failed 3
    | none => s.jobTo n .failed 3
  | .claim es => run.runClaim n es
  | .release owner es => run.runRelease n owner es
  | .clear area _ _ off len =>
    if clearSize area < off + len then run.jobTo n .failed 2 else if len = 0 then run.jobTo n .done else run
  | .trainLane lane => run.runTrain n lane
  | .loadMicrocode _ patch => run.fetchHost n patch 32
  | .calibrate .. => { run with calibs := Tab.set run.calibs n {} }
  | .cartJob h c flags head => run.runCart n h c flags head
  | .power target resume flags => s.startPower n target resume flags
  | .windDown axis profile flags timeout => run.runWind n axis profile flags timeout

/-- A queued job starts if it finds nothing to wait for. -/
def State.tryStart (s : State) (n : Nat) : State :=
  match s.job n with
  | some j => if s.startable j then (s.startJob j).retire else s
  | none => s

/-- A POWER job meets a transition while another one is held (R393). -/
def State.powerBusy (s : State) (n : Nat) : Bool :=
  s.inTransition && s.jobs.any (fun x => x.num != n && x.state == .queued && (match x.body with | .power .. => true | _ => false))

/-- A job order is accepted (R323, R334). -/
def State.acceptJob (s : State) (o : OrderHdr) (b : JobBody) : State :=
  let j : Job := { num := o.job, ring := o.ring, htag := o.htag.toNat, fence := bit o.flags 1, body := b, seq := s.jobSeq }
  let s := { s with jobs := s.jobs ++ [j], jobSeq := s.jobSeq + 1 }
  match b with
  | .power .. => if s.powerBusy o.job then s.jobTo o.job .failed 1 else s.tryStart o.job
  | _ => s.tryStart o.job

/-! ## Starting and stopping traders (R328, R329) -/

/-- A start of a stopped trader, at the base level (R171): it issues from the next rotation on (R328). A trader that runs is
unaffected. -/
def State.startTrader (s : State) (t : TraderId) (sup clean : Bool) (pc : Option Nat) : State :=
  if (s.trader t).running then s
  else
    let s := if clean then (s.put EV_PEND.PEND t.ix 0).put EV_OVR.OVR t.ix 0 else s
    let s := s.put EV_CTRL.CUR t.ix 0
    s.upd t (fun tr => { tr.setBud 0 {} with running := true, sup := sup, pc := pc.getD tr.pc, startRot := (Tab.get s.stallSlot (t.h, t.s) 0 + 15) / 16 })

/-- START_TRADERS. -/
def State.startTraders (s : State) (h role mask flags entry : Nat) : State :=
  match s.roleStall h role with
  | some f => forAll (ones 16 mask) (fun t s =>
      s.startTrader ⟨h, f, t⟩ (bit (s.superMask h role) t) (bit flags 0) (if bit flags 1 then some entry else none)) s
  | none => s

/-- STOP_TRADERS. -/
def State.stopTraders (s : State) (h role mask : Nat) : State :=
  match s.roleStall h role with
  | some f => forAll (ones 16 mask) (fun t s => s.stopTrader ⟨h, f, t⟩) s
  | none => s

/-! ## LOAD_MICROCODE (R260, R261) -/

/-- Step 3: QREQ is set, and the threads that run are to stop. -/
def State.quiesce (s : State) (n h k : Nat) : State :=
  let s := s.updLane h k (fun l => { l with qreq := true })
  let s := forAll [0, 1] (fun th s => if s.thRuns h k th then s.updTh h k th (fun t => { t with byLoad := true }) else s) s
  s.updJob n (fun j => { j with stage := 3, prog := s.tick })

/-- The threads that step 3 stopped start again: at an entry point, or where they stopped. -/
def State.unquiesce (s : State) (h k : Nat) (entry : Bool) : State :=
  let s := s.updLane h k (fun l => { l with qreq := false })
  forAll [0, 1] (fun th s =>
    if (s.thread h k th).byLoad then
      let s := s.updTh h k th (fun t => { t with byLoad := false })
      if s.get TH_STATE.STATE (ix h k th) = 0 then
        if entry then s.thStart h k th (s.get (if th = 0 then PT_ENTRY.RX_ENTRY else PT_ENTRY.TX_ENTRY) (ix h k))
        else s.thResume h k th
      else s
    else s) s

/-- A thread stopped at a word boundary loses its frame in flight: what it has handed over of an unfinished frame, or what is
still to come of the frame it receives. -/
def State.loseFrame (s : State) (h k th : Nat) : State :=
  if th = 1 then
    s.updLane h k (fun l => { l with tx := (l.tx.reverse.dropWhile (fun b => !b.last)).reverse })
  else
    match (s.thread h k 0).rx with
    | some b =>
      let s := s.updTh h k 0 (fun t => { t with rx := none })
      if b.last then s else s.updLane h k (fun l => { l with rx := (l.rx.dropWhile (fun x => !x.last)).drop 1 })
    | none => s

/-- Steps 4 and 5: the words, CS_VERSION, and with FULL the entry points. -/
def State.writePatch (s : State) (h k : Nat) (b : List Byte) : State :=
  let first := field b 8 2
  let s := forAll (List.range (field b 10 2)) (fun w s =>
    s.store (.cstore h k) (32 * (first + w)) ((b.drop (32 + 32 * w)).take 18)) s
  let s := s.wr ((ix h k).reg .CS_VERSION) (field b 4 4)
  let full := bit (field b 3 1) 0
  let s := if full then (s.put PT_ENTRY.RX_ENTRY (ix h k) (field b 12 2)).put PT_ENTRY.TX_ENTRY (ix h k) (field b 14 2) else s
  s.unquiesce h k full

/-! ## CALIBRATE_AXIS (R332) -/

/-- The mean of the residuals: a free choice between the two neighbours where it is no whole number, and a free word where
nothing was measured, since the spec states neither. -/
def State.meanResid (s : State) (c : Calib) : Nat × State :=
  let s' := { s with freeIx := s.freeIx + 1 }
  if c.used = 0 then ((Config.freeWord s.freeIx).toNat, s')
  else if c.sumR % c.used = 0 then (c.sumR / c.used, s)
  else (c.sumR / c.used + b2n (Config.freeBool s.freeIx), s')

/-- The record that the job writes. -/
def State.calRecord (s : State) (n axis : Nat) : List Byte × State :=
  let c : Calib := Tab.get s.calibs n {}
  let (m, s) := s.meanResid c
  (toBytes 4 c.used ++ toBytes 4 c.maxR ++ toBytes 4 m ++ toBytes 4 (min c.maxGap (2 ^ 32 - 1)) ++ toBytes 8 c.te ++
    toBytes 8 (unsg 64 ((s.axis axis).inForce s.tick).2.1), s)

/-- What the job asked of its axis and has observed goes. -/
def State.dropCalib (s : State) (n axis : Nat) : State :=
  let a := s.axis axis
  let mine := match a.calPreset with | some p => p.1 == n | none => false
  { (s.setAxis axis { a with calPreset := if mine then none else a.calPreset }) with calibs := Tab.del s.calibs n }

/-! ## Suspend, resume, cancel (R335, R336). Each answers the result code and the state. -/

/-- A job kind that has a suspend point ahead while it is RUNNING. -/
def Job.suspendable (j : Job) : Bool :=
  match j.body with
  | .loadImage .. | .clear .. | .loadMicrocode .. | .cartJob .. => true
  | _ => false

/-- JOB_SUSPEND. -/
def State.suspendJob (s : State) (n : Nat) : Nat × State :=
  match s.job n with
  | none => (6, s)
  | some j =>
    match j.state with
    | .done | .cancelled | .failed => (5, s)
    | .suspended => (2, s)
    | .queued => (0, (s.updJob n (fun j => { j with fromQueued := true })).jobTo n .suspended)
    | .running =>
      if j.cancelPend then (2, s)
      else if !j.suspendable then (3, s)
      else
        let s := s.updJob n (fun j => { j with suspPend := true })
        match j.body with
        | .cartJob h c _ _ => (1, (s.cartPause h c true).cartSuspended h c)
        | _ => (1, s)

/-- JOB_RESUME. -/
def State.resumeJob (s : State) (n : Nat) : Nat × State :=
  match s.job n with
  | none => (6, s)
  | some j =>
    match j.state with
    | .done | .cancelled | .failed => (5, s)
    | .queued => (2, s)
    | .running =>
      if !j.suspPend then (2, s)
      else
        let s := s.updJob n (fun j => { j with suspPend := false })
        match j.body with
        | .cartJob h c _ _ => (7, s.cartPause h c false)
        | _ => (7, s)
    | .suspended =>
      if j.fromQueued then (0, ((s.updJob n (fun j => { j with fromQueued := false })).jobTo n .queued).tryStart n)
      else
        let s := s.jobTo n .running
        match j.body with
        | .cartJob h c _ _ => (0, s.cartPause h c false)
        | .loadMicrocode lane _ => (0, s.quiesce n (lane / 4) (lane % 4))
        | .loadImage .. => (0, s.fetchSection n)
        | _ => (0, s)

/-- The cancel of a CART_JOB aborts its channel; a suspend that has not taken effect is withdrawn, and its pause with it
(R336). -/
def State.cancelCart (s : State) (h c : Nat) (susp : Bool) : State := (if susp then s.cartPause h c false else s).cartAbort h c

/-- The cancel of a job at work: the result code and the state. -/
def State.cancelWork (s : State) (j : Job) : Nat × State :=
  let n := j.num
  let pend := s.updJob n (fun j => { j with cancelPend := true, suspPend := false })
  match j.body with
  | .loadImage .. => if j.state = .suspended then (0, s.loadEnds n .cancelled 0) else (1, pend)
  | .clear .. => if j.state = .suspended then (0, s.jobTo n .cancelled) else (1, pend)
  | .swapAt .. =>
    match s.swaps.find? (fun w => w.job == n && !w.switched) with
    | some w => if (s.swapInst w).isSome then (4, s) else (0, s.swapEnds n .cancelled 0)
    | none => (4, s)
  | .trainLane lane => (0, (s.trainEnds (lane / 4) (lane % 4) 7).jobTo n .cancelled 7)
  | .loadMicrocode lane _ =>
    let s := if j.stage = 3 then s.unquiesce (lane / 4) (lane % 4) false else s
    let s := s.forget (fun r => r.owner == .job n)
    (0, { s with patches := Tab.del s.patches n }.jobTo n .cancelled)
  | .calibrate axis .. => (0, ((s.forget (fun r => r.owner == .job n)).dropCalib n axis).jobTo n .cancelled)
  | .cartJob h c _ _ =>
    let s := pend.cancelCart h c j.suspPend
    if j.state = .suspended then (0, s.jobTo n .cancelled)
    else (if (match s.job n with | some x => x.state.ended | none => true) then 0 else 1, s)
  | .claim _ | .release _ _ | .power .. | .windDown .. => (4, s)

/-- JOB_CANCEL. -/
def State.cancelJob (s : State) (n : Nat) : Nat × State :=
  match s.job n with
  | none => (6, s)
  | some j =>
    match j.state with
    | .done | .cancelled | .failed => (5, s)
    | .queued => (0, s.jobTo n .cancelled)
    | .running => if j.cancelPend then (2, s) else s.cancelWork j
    | .suspended => if j.fromQueued then (0, s.jobTo n .cancelled) else s.cancelWork j

/-! ## Acceptance (R323) -/

/-- An immediate order is done: ORDER_DONE where it is asked for, and always for the commands on jobs (R324, R336). -/
def State.orderDone (s : State) (o : OrderHdr) (always : Bool) (result : Nat) : State :=
  if always || bit o.flags 0 then s.orderChit o 1 (result <<< 32) else s

/-- The effect of an accepted order. -/
def State.takeOrder (s : State) (o : OrderHdr) (x : Order) : State :=
  match x with
  | .job b => s.acceptJob o b
  | .start h r mask flags entry => (s.startTraders h r mask flags entry).orderDone o false 0
  | .stop h r mask => (s.stopTraders h r mask).orderDone o false 0
  | .suspend n => let (r, s) := s.suspendJob n; s.orderDone o true r
  | .resume n => let (r, s) := s.resumeJob n; s.orderDone o true r
  | .cancel n => let (r, s) := s.cancelJob n; s.orderDone o true r

/-- An order is checked, and taken or refused (R323, R325). -/
def State.order (s : State) (o : OrderHdr) (x : Order) (fields : Bool) : State :=
  match s.orderReason o x fields with
  | some r => s.orderRefused o r x.code
  | none => s.takeOrder o x

/-- A command of the order engine: no order is taken in NAP or OFF. -/
def State.give (s : State) (o : OrderHdr) (x : Order) : Out := .next (if s.asleep then s else (s.order o x true).retire.settle)

/-! ## The record of an order (R324, R327) -/

/-- Every byte of a record from offset 8 on that no used range (offset, size) holds is 0. -/
def restZero (b : List Byte) (used : List (Nat × Nat)) : Bool :=
  (List.range 64).all (fun i => decide (i < 8) || used.any (fun u => decide (u.1 ≤ i) && decide (i < u.1 + u.2)) || zeros b i 1)

/-- The order that a record spells, and whether its reserved bytes and bits are 0; none where CODE is not in R326. -/
def parseOrder (b : List Byte) : Option (Order × Bool) :=
  let f (o n : Nat) : Nat := field b o n
  let rest (used : List (Nat × Nat)) : Bool := restZero b used
  let entries : List Word := (List.range (min (f 17 1) 11)).map (fun i => BitVec.ofNat 32 (f (20 + 4 * i) 4))
  let countOk := decide (1 ≤ f 17 1) && decide (f 17 1 ≤ 11)
  match f 0 1 with
  | 0x01 => some (.job (.loadImage (f 16 8) (f 24 4) (f 28 4)), rest [(16, 16)])
  | 0x02 => some (.job (.swapAt (f 16 2) (f 18 1) (f 19 1 % 16) (bits (f 19 1) 5 4) (f 24 8)), rest [(16, 4), (24, 8)] && decide (f 19 1 < 64))
  | 0x03 => some (.start (f 16 1) (f 17 1) (f 18 2) (f 20 2) (f 22 2), rest [(16, 8)])
  | 0x04 => some (.stop (f 16 1) (f 17 1) (f 18 2), rest [(16, 4)])
  | 0x05 =>
    if f 16 1 = 0 then some (.job (.claim entries), rest [(16, 4 + 4 * f 17 1)] && countOk && f 18 2 == 0)
    else some (.job (.release (f 18 2) entries), rest [(16, 4 + 4 * f 17 1)] && countOk && f 16 1 == 1)
  | 0x06 => some (.job (.clear (f 16 1) (f 17 1) (f 18 1) (f 20 4) (f 24 4)), rest [(16, 3), (20, 8)])
  | 0x07 => some (.job (.trainLane (f 16 1)), rest [(16, 1)])
  | 0x08 => some (.job (.loadMicrocode (f 16 1) (f 24 8)), rest [(16, 1), (24, 8)])
  | 0x09 => some (.job (.calibrate (f 16 1) (f 17 1) (f 18 2) (f 20 4) (f 24 8) (f 32 8)), rest [(16, 24)])
  | 0x0A => some (.job (.cartJob (f 16 1) (f 17 1) (f 18 2) (f 24 8)), rest [(16, 4), (24, 8)])
  | 0x0B => some (.job (.power (f 16 1) (f 17 1) (f 18 1)), rest [(16, 3)])
  | 0x0C => some (.job (.windDown (f 16 1) (f 17 1) (f 18 2) (f 20 4)), rest [(16, 8)])
  | 0x10 => some (.suspend (f 16 2), rest [(16, 2)])
  | 0x11 => some (.resume (f 16 2), rest [(16, 2)])
  | 0x12 => some (.cancel (f 16 2), rest [(16, 2)])
  | _ => none

/-- A fetched record: HEAD advances past its slot, and the order is checked and taken or refused. -/
def State.fetched (s : State) (n : Nat) (b : List Byte) : State :=
  let slot := s.get OR_HEAD.HEAD (ix n)
  let o : OrderHdr := { ring := n, slot := slot, flags := field b 1 1, job := field b 2 2, htag := BitVec.ofNat 32 (field b 4 4) }
  let s := s.put OR_HEAD.HEAD (ix n) ((slot + 1) % s.orSize n)
  match parseOrder b with
  | none => s.orderRefused o 1 (field b 0 1)
  | some (x, ok) => s.order o x ok

/-! ## The rows -/

/-- ORDER_FETCH_COMPLETE (R323). -/
def execOrderFetchComplete (n : Nat) (s : State) : Out :=
  .next (match s.arrived.find? (fun a => a.req.owner == .order n) with
    | some a =>
      match a.resp with
      | .data b => (((s.takeAnswer a.req.id).fetched n b).retire.serveOrders).settle
      | _ => s
    | none => s)

/-- LOAD_IMAGE (R355). -/
def execLoadImage (o : OrderHdr) (image len flags : Nat) (s : State) : Out := s.give o (.job (.loadImage image len flags))

/-- SWAP_AT (R362). -/
def execSwapAt (o : OrderHdr) (loaded trigger axis dir value : Nat) (s : State) : Out :=
  s.give o (.job (.swapAt loaded trigger axis dir value))

/-- START_TRADERS (R328). -/
def execStartTraders (o : OrderHdr) (hall stall mask flags entry : Nat) (s : State) : Out :=
  s.give o (.start hall stall mask flags entry)

/-- STOP_TRADERS (R329). -/
def execStopTraders (o : OrderHdr) (hall stall mask : Nat) (s : State) : Out := s.give o (.stop hall stall mask)

/-- CLAIM (R330). -/
def execClaim (o : OrderHdr) (entries : List Word) (s : State) : Out := s.give o (.job (.claim entries))

/-- CLAIM_RELEASE (R330). -/
def execClaimRelease (o : OrderHdr) (owner : Nat) (entries : List Word) (s : State) : Out := s.give o (.job (.release owner entries))

/-- CLEAR (R331). -/
def execClear (o : OrderHdr) (area hall stall off len : Nat) (s : State) : Out := s.give o (.job (.clear area hall stall off len))

/-- TRAIN_LANE (R245). -/
def execTrainLane (o : OrderHdr) (lane : Nat) (s : State) : Out := s.give o (.job (.trainLane lane))

/-- LOAD_MICROCODE (R261). -/
def execLoadMicrocode (o : OrderHdr) (lane patch : Nat) (s : State) : Out := s.give o (.job (.loadMicrocode lane patch))

/-- CALIBRATE_AXIS (R332). -/
def execCalibrateAxis (o : OrderHdr) (axis flags ref dur preset result : Nat) (s : State) : Out :=
  s.give o (.job (.calibrate axis flags ref dur preset result))

/-- CART_JOB (R333). -/
def execCartJob (o : OrderHdr) (hall chan flags head : Nat) (s : State) : Out := s.give o (.job (.cartJob hall chan flags head))

/-- POWER_LEVEL (R382). -/
def execPowerLevel (o : OrderHdr) (pl : Nat) (s : State) : Out := if pl < 4 then s.give o (.job (.power pl 0 0)) else .next s

/-- POWER_IDLE (R383). -/
def execPowerIdle (o : OrderHdr) (s : State) : Out := s.give o (.job (.power 4 0 0))

/-- POWER_NAP (R384). -/
def execPowerNap (o : OrderHdr) (resumePl flags : Nat) (s : State) : Out := s.give o (.job (.power 5 resumePl flags))

/-- POWER_OFF (R384). -/
def execPowerOff (o : OrderHdr) (resumePl flags : Nat) (s : State) : Out := s.give o (.job (.power 6 resumePl flags))

/-- WIND_DOWN (R373). -/
def execWindDown (o : OrderHdr) (axis profile flags timeout : Nat) (s : State) : Out :=
  s.give o (.job (.windDown axis profile flags timeout))

/-- JOB_SUSPEND (R336). -/
def execJobSuspend (o : OrderHdr) (target : Nat) (s : State) : Out := s.give o (.suspend target)

/-- JOB_RESUME (R336). -/
def execJobResume (o : OrderHdr) (target : Nat) (s : State) : Out := s.give o (.resume target)

/-- JOB_CANCEL (R336). -/
def execJobCancel (o : OrderHdr) (target : Nat) (s : State) : Out := s.give o (.cancel target)

/-- JOB_START (R334): a queued job whose wait has ended. -/
def execJobStart (job : Nat) (s : State) : Out := .next (s.tryStart job).settle

/-- CLEAR_BLOCK_DONE (R331). -/
def execClearBlockDone (job : Nat) (s : State) : Out :=
  .next (match s.job job with
    | some j =>
      match j.body with
      | .clear area h role off len =>
        if j.state ≠ .running then s
        else
          let o := off + 4096 * j.prog
          let bs : List Byte := List.replicate (min 4096 (off + len - o)) 0
          let s := match area, s.roleStall h role with
            | 0, _ => (s.granted h 15 o bs.length).store (.hallMem h) o bs
            | 1, some f => s.ramStore h f o bs
            | 2, some f => s.ramStore h f (0x20000 + o) bs
            | 3, some f => s.storeS (.imem h f (1 - s.page h f)) o bs
            | _, _ => s
          let s := s.updJob job (fun j => { j with prog := j.prog + 1 })
          (if len ≤ 4096 * (j.prog + 1) then s.jobTo job .done
            else if j.cancelPend then s.jobTo job .cancelled
            else if j.suspPend then s.jobTo job .suspended
            else s).retire
      | _ => s
    | none => s)

/-- MICROCODE_FETCH_COMPLETE (R261): steps 1 and 2, and step 3 unless a suspend waits before it. -/
def execMicrocodeFetchComplete (job : Nat) (bytes : List Byte) (s : State) : Out :=
  .next (match s.job job with
    | some j =>
      match j.body with
      | .loadMicrocode lane _ =>
        let h := lane / 4
        let k := lane % 4
        if j.state ≠ .running ∨ j.stage ≠ 0 ∨ j.left ≠ 0 ∨ j.got ≠ bytes ∨ bytes.length < 32 then s
        else if !s.patchOk h k bytes then (s.jobTo job .failed 1).retire
        else
          if crc32c (bytes.drop 32) ≠ field bytes 20 4 then (s.jobTo job .failed 2).retire
          else
            let s := { s with patches := Tab.set s.patches job bytes }.updJob job (fun j => { j with stage := 2 })
            if j.suspPend then s.jobTo job .suspended else s.quiesce job h k
      | _ => s
    | none => s)

/-- MICROCODE_QREQ_TIMEOUT (R261): 1 ms after QREQ. -/
def execMicrocodeQreqTimeout (job : Nat) (s : State) : Out :=
  .next (match s.job job with
    | some j =>
      match j.body with
      | .loadMicrocode lane _ =>
        let h := lane / 4
        let k := lane % 4
        if j.state = .running ∧ j.stage = 3 ∧ j.prog + 16000000 ≤ s.tick then
          forAll [0, 1] (fun th s => if s.thRuns h k th then (s.thStop h k th).loseFrame h k th else s) s
        else s
      | _ => s
    | none => s)

/-- MICROCODE_WRITE_COMPLETE (R261): both threads have stopped; steps 4 and 5. -/
def execMicrocodeWriteComplete (job : Nat) (s : State) : Out :=
  .next (match s.job job, Tab.find s.patches job with
    | some j, some b =>
      match j.body with
      | .loadMicrocode lane _ =>
        let h := lane / 4
        let k := lane % 4
        if j.state = .running ∧ j.stage = 3 ∧ !s.thRuns h k 0 ∧ !s.thRuns h k 1 then
          ({ s.writePatch h k b with patches := Tab.del s.patches job }.jobTo job .done).retire
        else s
      | _ => s
    | _, _ => s)

/-- CALIBRATE_END (R332): the record is written after DURATION × 1,024 ticks, and the job is DONE with the response of that
write. -/
def execCalibrateEnd (job : Nat) (s : State) : Out :=
  .next (match s.job job with
    | some j =>
      match j.body with
      | .calibrate axis _ _ dur _ result =>
        if j.state ≠ .running then s
        else if j.stage = 0 then
          if j.began + dur * 1024 ≤ s.tick then
            let (b, s) := s.calRecord job axis
            let s := (s.hostReq (.job job) none 0x8002 result 32 b true).1
            (s.dropCalib job axis).updJob job (fun j => { j with stage := 1 })
          else s
        else match s.arrived.find? (fun a => a.req.owner == .job job) with
          | some a => ((s.takeAnswer a.req.id).jobTo job .done).retire
          | none => s
      | _ => s
    | none => s)

end Sys2Proof.Machine
end

