-- ==== Sys2Proof/Machine/Faults.lean ====
section
/-! DEFINITION. The scrubber (R398), register parity (R400), lockstep mismatches (R402), steps 3 to 5 of a fail-over (R404 to
R407), and the debug port (R428). -/

namespace Sys2Proof.Machine

/-! ## The scrubber (R398, R399) -/

/-- The array that holds a flat address, among those that the scrubber of hall `h` reads, with the counter of R399. -/
def scrubArr (h a : Nat) : Option (Arr × Nat) :=
  if a < 0x100000000 then none
  else if a < 0x200000000 then
    (if a - 0x100000000 < 8 * 0x400000 ∧ (a - 0x100000000) / 0x400000 = h then some (.hallMem h, 9) else none)
  else if a < 0x300000000 then
    let i := (a - 0x200000000) / 0x80000
    let o := (a - 0x200000000) % 0x80000
    if i / 16 ≠ h ∨ 9 ≤ i % 16 then none
    else if o < 0x20000 then some (.shared h (i % 16), i % 16)
    else if o < 0x40000 then some (.slice h (i % 16) ((o - 0x20000) / 0x2000), i % 16)
    else if o < 0x50000 then some (.imem h (i % 16) ((o - 0x40000) / 0x8000), i % 16)
    else none
  else if a < 0x400000000 then
    let i := (a - 0x300000000) / 0x100
    if i / 32 = h then some (.crierPage h (i / 2 % 16) (i % 2), 10) else none
  else
    let i := (a - 0x400000000) / 0x10000
    if i / 4 = h ∧ i < 32 then some (.cstore h (i % 4), 11) else none

/-- The scrubber reads the word of a flat address: a single-bit error is written back corrected, an uncorrectable one is
reported and left. -/
def State.scrub (s : State) (h a : Nat) : State :=
  match scrubArr h a with
  | none => s
  | some (arr, k) =>
    match s.errorIn arr (a - arr.base) 1 with
    | none => s
    | some false =>
      ({ s with ecc := s.ecc.filter (fun (e : (Nat × Nat) × Bool) => !(e.1.1 == arr.code && decide ((eccSpan arr.code e.1.2).1 ≤ a) &&
        decide (a < (eccSpan arr.code e.1.2).1 + (eccSpan arr.code e.1.2).2))) }).corrected h k
    | some true => s.uncorrectable h arr.code ((eccSpan arr.code (a / 4)).1 - arr.base) true

/-! ## Register parity (R400) -/

/-- The pins that a register of a pin block, or of the pin switch, configures. -/
def configuredPins (r : Reg) : Option (List Nat) :=
  match r.name with
  | .PIN_CFG | .PIN_CFG_SH | .PIN_GPIO | .PIN_EVT => some [r.b]
  | .PSW_MAP0 | .PSW_MAP0_SH => some (List.range 64)
  | .PSW_MAP1 | .PSW_MAP1_SH => some ((List.range 64).map (· + 64))
  | _ => none

/-- The RW field of a register that holds bit `n`, if it has one there. -/
def rwField (r : Reg) (n : Nat) : Option Field :=
  r.name.fields.find? (fun f => f.acc == .RW && decide (f.lo ≤ n) && decide (n ≤ f.hi))

/-- A counter's ENABLE is cleared. -/
def State.ctStop (s : State) (h c : Nat) : State := (s.ctCatch h c s.tick).set CT_CTRL.ENABLE (ix h c) false

/-- What a parity error of a register does to its unit. -/
def State.parityActs (s : State) (r : Reg) (f : Field) : State :=
  match configuredPins r with
  | some ps => forAll ps (fun i s => s.hold r.a i PIN_STATUS.HOLD_HOST) s
  | none =>
    if r.name.ofStall || r.name == .STL_SELF || r.name.place.1 == .TR then { s with faults := s.faults ++ [FaultCause.failover r.a r.b 4] }
    else match r.name.place.1 with
      | .BR | .CRI | .CRS => s.criersStop r.a r.b 15
      | .TM => s.disarm r.a r.b
      | .CT => s.ctStop r.a r.b
      | .CH => s.cartAbort r.a r.b
      | .CE | .CEW => s.cartHalt r.a false 0 0 false
      | .AX => s.axisLoss r.a s.tick true
      | _ =>
        if r.name.ofLane then (if s.laneUp r.a r.b then s.goDown r.a r.b else s)
        else s.wr r (setBits (s.rd r) f.hi f.lo (bits (r.resetValue s.part) f.hi f.lo))

/-- A parity error in the RW field that holds bit `n` of a register, with the host offset of the register (R400). -/
def State.parity (s : State) (r : Reg) (n off : Nat) : State :=
  match rwField r n with
  | none => s
  | some f =>
    if !r.present s.part then s
    else
      let s := if r.name.place.1.ofHall then (s.set FT_HSTATUS.PARITY (ix r.a) true).hallChit r.a 0x24 0 off s.tick
        else (s.set FT_DSTATUS.PARITY {} true).chit 0x24 0 off s.tick
      s.parityActs r f

/-- A parity error in bit `n` of the word at a host offset. -/
def State.hostParity (s : State) (a n : Nat) : State :=
  match s.hostReg a with
  | some (r, hi) => s.parity r (n % 32 + if hi then 32 else 0) (if hi then a - 4 else a)
  | none => s

/-- A parity error in bit `n` of a register that only traders reach, by its trader address: it has no host offset, and the
data of its chit is a free value (assumption log 135). -/
def State.traderParity (s : State) (t : TraderId) (a n : Nat) : State :=
  match s.ioReg t a with
  | some (r, _) =>
    if traderRegs.contains r.name then
      ({ s with freeIx := s.freeIx + 1 }).parity r n ((Config.freeDword s.freeIx).toNat % 2 ^ 26)
    else s
  | none => s

/-! ## Steps 3 to 5 of a fail-over (R404 to R407) -/

/-- `n` bytes from `src` copied to `dst`, with what stood there gone. -/
def Memory.copyBlock (m : Memory) (src dst n : Nat) : Memory :=
  m.filter (fun c => decide (c.1 < dst)) ++
    (m.filter (fun c => decide (src ≤ c.1) && decide (c.1 < src + n))).map (fun c => (c.1 - src + dst, c.2)) ++
    m.filter (fun c => decide (dst + n ≤ c.1))

/-- The bytes of a stall in the flat numbering: shared banks, slices and both IMEM pages. -/
def stallBytes : Nat := 0x50000

/-- Step 3 for the memories: an uncorrectable word stays marked in S8 and counts in BAD; a single-bit error is corrected and
counts. -/
def State.copyStallMem (s : State) (h f : Nat) : State :=
  let src := (Arr.shared h f).base
  let dst := (Arr.shared h 8).base
  let within (b : Nat) (k : Nat × Nat) : Bool :=
    (k.1 == 1 || k.1 == 5 || k.1 == 6) && decide (b ≤ 4 * k.2) && decide (4 * k.2 < b + stallBytes)
  let mine := s.ecc.filter (fun e => within src e.1)
  let bad := mine.filter (fun e => e.2)
  let s := iter (mine.length - bad.length) (fun s => s.corrected h f) s
  let s := { s with
    mem := Memory.copyBlock s.mem src dst stallBytes
    ecc := s.ecc.filter (fun (e : (Nat × Nat) × Bool) => !within dst e.1) ++ bad.map (fun (e : (Nat × Nat) × Bool) => ((e.1.1, e.1.2 - src / 4 + dst / 4), true)) }
  s.put FT_STALL.BAD (ix h 8) (min bad.length 255)

/-- The registers that step 3 copies. -/
def RegName.movesOver (n : RegName) : Bool :=
  [RegName.STL_CTRL, .STL_CODE_BASE, .TR_HOSTPG, .EV_VEC01, .EV_VEC23, .EV_ROUTE, .EV_TRAPLVL, .EV_HSEL01, .EV_HSEL23, .EV_HSEL45,
   .EV_HSEL67, .EV_EN_SET, .BW_CTRL, .BW_TABLE, .BW_HLIMIT01, .BW_HLIMIT23].contains n

/-- Step 3 for the registers. -/
def State.copyStallRegs (s : State) (h f : Nat) : State :=
  let mine := s.regs.filter (fun e => e.1.name.movesOver && e.1.a == h && e.1.b == f)
  let s := forAll mine (fun (e : Reg × Dword) s => s.wr { e.1 with b := 8 } e.2.toNat) s
  (s.put STL_STATUS.PAGE (ix h 8) (s.page h f)).set STL_ICACHE.EN (ix h 8) (s.is STL_ICACHE.EN (ix h f))

/-- A queue owner that is a trader of one stall becomes the same trader of S8 (R270). -/
def State.moveOwners (s : State) (h f : Nat) : State :=
  let lo := callerNum (.trader ⟨h, f, 0⟩)
  let move (g : Field) (r : Reg) (s : State) : State :=
    let i : Ix := ⟨r.a, r.b, r.c, r.d⟩
    let o := s.get g i
    if lo ≤ o ∧ o < lo + 16 then s.put g i (callerNum (.trader ⟨h, 8, o - lo⟩)) else s
  forAll s.regs (fun e s =>
    if e.1.a ≠ h then s
    else match e.1.name with
      | .Q_PROD => move Q_PROD.P_OWNER e.1 s
      | .Q_CONS => move Q_CONS.C_OWNER e.1 s
      | _ => s) s

/-! ## Accesses that the tile holds -/

/-- A held access is made again: the command that its port sent (R321, R377, R404). -/
def redo (c : Instr) (s : State) : Out :=
  match c with
  | .ctCtrlWrite by_ h c v => execCtCtrlWrite by_ h c v s
  | .ctPeriodWrite by_ h c v => execCtPeriodWrite by_ h c v s
  | .ctCountWrite by_ h c v => execCtCountWrite by_ h c v s
  | .ctInputWrite by_ h c v => execCtInputWrite by_ h c v s
  | .chainRead by_ h c => execChainRead by_ h c s
  | .taxCtrlWrite by_ n v => execTaxCtrlWrite by_ n v s
  | .preset by_ n => execPreset by_ n s
  | .clearLost by_ n => execClearLost by_ n s
  | .arm by_ h m v => execArm by_ h m v s
  | .disarm by_ h m v => execDisarm by_ h m v s
  | .crTxfPush by_ c v => execCrTxfPush by_ c v s
  | .crRxfPop by_ c => execCrRxfPop by_ c s
  | .crierStart by_ h b mask => execCrierStart by_ h b mask s
  | .crierStop by_ h b mask => execCrierStop by_ h b mask s
  | .restart by_ c => execRestart by_ c s
  | .flush by_ c => execFlush by_ c s
  | .kick by_ h b mask => execKick by_ h b mask s
  | .crFifoWrite by_ c v => execCrFifoWrite by_ c v s
  | .brClkWrite by_ h b v => execBrClkWrite by_ h b v s
  | .brIdataWrite by_ h b v => execBrIdataWrite by_ h b v s
  | .instructionPageWrite port h b page w v => execInstructionPageWrite port h b page w v s
  | .barrowPageSel by_ h b page => execBarrowPageSel by_ h b page s
  | .tokenAcquire by_ => execTokenAcquire by_ s
  | .tokenRelease by_ force => execTokenRelease by_ force s
  | .hlAbandon by_ h mask => execHlAbandon by_ h mask s
  | .queueDescriptorWrite port h q off v => execQueueDescriptorWrite port h q off v s
  | .blRing by_ h mask => execBlRing by_ h mask s
  | .dbRing by_ mask => execDbRing by_ mask s
  | .evKick by_ h f mask => execEvKick by_ h f mask s
  | .evPendSet by_ t mask => execEvPendSet by_ t mask s
  | .erRecordWrite by_ t lvl word v => execErRecordWrite by_ t lvl word v s
  | .lnCtrlWrite port h k v => execLnCtrlWrite port h k v s
  | .lnGroupWrite port h k v => execLnGroupWrite port h k v s
  | .ptMboxWrite port h k v => execPtMboxWrite port h k v s
  | .txRun port h k run => execTxRun port h k run s
  | .rxRun port h k run => execRxRun port h k run s
  | .controlStoreWrite port h k off v => execControlStoreWrite port h k off v s
  | .cartStart port h c => execCartStart port h c s
  | .cartAbort port h c => execCartAbort port h c s
  | .cartPause port h c => execCartPause port h c s
  | .cartResume port h c => execCartResume port h c s
  | .cartEngineResume port h => execCartEngineResume port h s
  | .queueReserve by_ => execQueueReserve by_ s
  | .queueCommit by_ => execQueueCommit by_ s
  | .queueAbort by_ => execQueueAbort by_ s
  | .queueTake by_ => execQueueTake by_ s
  | .queueDone by_ => execQueueDone by_ s
  | .queueReturn by_ => execQueueReturn by_ s
  | .orCtrlWrite port n v => execOrCtrlWrite port n v s
  | .chitAcknowledge port n v => execChitAcknowledge port n v s
  | .crCtrlWrite port n v => execCrCtrlWrite port n v s
  | .chitMaskSet port k v => execChitMaskSet port k v s
  | .chitMaskClr port k v => execChitMaskClr port k v s
  | .chitPendSet port k v => execChitPendSet port k v s
  | .chitPendClr port k v => execChitPendClr port k v s
  | .clockSwitch by_ => execClockSwitch by_ s
  | .pageSel by_ h f page => execPageSel by_ h f page s
  | .inval by_ h f => execInval by_ h f s
  | .imemWrite port h f page off data => execImemWrite port h f page off data s
  | .ftLockstepWrite port h v => execFtLockstepWrite port h v s
  | .failRequest port h role => execFailRequest port h role s
  | .failRelease port h => execFailRelease port h s
  | .windRelease port h => execWindRelease port h s
  | .windowMemoryWrite port addr data => execWindowMemoryWrite port addr data s
  | .registerWrite by_ addr data => execRegisterWrite by_ addr data s
  | .readClear by_ addr n added o => execReadClear by_ addr n added o s
  | .orderDoorbell port n v => execOrderDoorbell port n v s
  | .pinCfgWrite port h p v => execPinCfgWrite port h p v s
  | .pinCfgShWrite port h p v => execPinCfgShWrite port h p v s
  | .pinOutSet port h k v => execPinOutSet port h k v s
  | .pinOutClr port h k v => execPinOutClr port h k v s
  | .pinHoldSet port h k v => execPinHoldSet port h k v s
  | .pinHoldClr port h k v => execPinHoldClr port h k v s
  | .pinEvtWrite port h p v => execPinEvtWrite port h p v s
  | .pswMapWrite port h k v => execPswMapWrite port h k v s
  | _ => .next s

/-- The held accesses are made in the order they came; what still finds its unit busy is held again, with what follows it. -/
def State.releaseHeld (s : State) : State :=
  s.held.foldl (fun s e => match redo e.2.2 s with | .next s => s | _ => s) { s with held := [] }

/-- MEM_CLEAR_DONE: the memories read zero, and the held accesses are made (R377); with the ROM's other step this can end the
boot (R379). -/
def execMemoryClearDone (s : State) : Out :=
  .next (if s.power.held || s.asleep then s else (((s.set PWR_STATUS.MEM_CLEAR {} true).romStep).releaseHeld).settle)

/-! ## Steps 3 to 5 of a fail-over -/

/-- A committed swap that names the role: the spare takes over the successor image (R367). -/
def State.takeOver (s : State) (h role : Nat) : State :=
  match s.swaps.find? (fun w => (s.swapInst w).isSome && w.stalls.contains (h, role)) with
  | some w =>
    match s.image w.loaded with
    | some i => ((s.exchangePages h 8).applyStall i h role 8).noPart h role
    | none => s
  | none => s

/-- Steps 3 and 4 of a fail-over. -/
def State.failSwitch (s : State) (h : Nat) (o : Failover) : State :=
  let s := (s.copyStallMem h o.f).copyStallRegs h o.f
  let s := forAll (s.barrowsOf h o.f) (fun b s => s.setStallOf h b 8) s
  let s := (s.put STL_SELF.ROLE (ix h 8) o.role).put STL_SELF.ROLE (ix h o.f) 0xF
  let s := s.moveOwners h o.f
  let s := (s.put FT_STALL.STATE (ix h 8) 2).set FT_HSTATUS.SPARE_USED (ix h) true
  let s := { s with failovers := Tab.set s.failovers h { o with switched := true } }
  let s := (s.takeOver h o.role).releaseHeld
  let s := s.hallChit h 0x25 o.role (o.cause + o.f <<< 4 + s.get FT_STALL.BAD (ix h 8) <<< 8) s.tick
  match o.spareCause with
  | some k => ((s.failHold h 8).markFailed h 8 k).stallLost h o.role 8 k true
  | none => s

/-- A trader starts in S8 (R405). -/
def State.restart (s : State) (h role t : Nat) : State :=
  let tid : TraderId := ⟨h, 8, t⟩
  let i := ix h role
  let s := ((s.put EV_PEND.PEND tid.ix 0).put EV_OVR.OVR tid.ix 0).put EV_CTRL.CUR tid.ix 0
  let a0 := if s.is FT_ROLE.CKPT_EN i then s.get FT_ROLE.CKPT_Q i else 0xFFFF
  let rot := (Tab.get s.stallSlot (h, 8) 0 + 15) / 16
  let fresh : Trader := { (s.trader tid).bare with running := true, pc := s.get FT_ROLE.RESTART_PC i, sup := bit (s.superMask h role) t, startRot := rot }
  s.setTrader tid (fresh.setA 0 a0)

/-- Step 5: the hold is released, and traders restart; during a wind-down only kept ones do, and during sleep entry none. -/
def State.failRelease (s : State) (h : Nat) (o : Failover) : State :=
  let s := { s with failovers := Tab.del s.failovers h }
  if o.spareCause.isSome then s
  else
    let s := if s.is FT_HCTRL.HOLD_KEEP (ix h) then s
      else forAll (s.barrowsOf h 8) (fun b s => forAll (List.range 8) (fun k s => s.unhold h (8 * b + k) PIN_STATUS.HOLD_FAIL) s) s
    let may := if s.get PWR_STATUS.STATE = 2 ∨ !s.is FT_ROLE.RESTART (ix h o.role) then 0
      else if s.wind.isSome then o.ran &&& s.keepMask 0 h o.role
      else o.ran
    forAll (ones 16 may) (fun t s => s.restart h o.role t) s

/-! ## The debug port (R121, R210, R428) -/

/-- Every debug halt is released. -/
def State.releaseAll (s : State) : State :=
  { s with traders := s.traders.map (fun (e : TraderId × Trader) => (e.1, { e.2 with halted := false })) }

/-! ## The rows -/

/-- SCRUB_READ (R398): `addr` is a flat address of Sys2Proof/Machine/Mem.lean. -/
def execScrubRead (h addr : Nat) (s : State) : Out :=
  .next (if h < s.part.halls ∧ s.is FT_HCTRL.SCRUB_EN (ix h) ∧ !s.asleep then (s.scrub h addr).settle else s)

/-- CFG_PARITY (R400): `addr` is the host offset of the register. -/
def execCfgParity (t : Option TraderId) (addr n : Nat) (s : State) : Out :=
  .next (if s.asleep then s
    else (match t with
      | none => s.hostParity (addr / 4 * 4) n
      | some t => if s.inStall t.h t.s && decide (t.t < 16) then s.traderParity t addr n else s).settle)

/-- LOCKSTEP_MISMATCH (R402). -/
def execLockstepMismatch (h j : Nat) (s : State) : Out :=
  .next (if j < 4 ∧ bit (s.get FT_LOCKSTEP.PAIR (ix h)) j ∧ !s.asleep then
      { s with faults := s.faults ++ [FaultCause.failover h (2 * j) 1] }.settle
    else s)

/-- FAILOVER_SWITCH (R404, steps 3 and 4). DESIGN CHOICE (assumption log 132): where a reset of the hall has ended the fail-over, the
accesses that it held are made at this instant. -/
def execFailoverSwitch (h : Nat) (s : State) : Out :=
  .next (match s.failover h with
    | some o => if o.switched then s else (s.failSwitch h o).settle
    | none => s.releaseHeld.settle)

/-- FAILOVER_RELEASE (R404, step 5): from D + 1 µs on. -/
def execFailoverRelease (h : Nat) (s : State) : Out :=
  .next (match s.failover h with
    | some o => if o.switched ∧ o.at_ + 16000 ≤ s.tick then s.failRelease h o else s
    | none => s)

/-- DEBUG_HALT (R428): offered while DBG_EN is 1. A debug request that meets a host order of the same stall cycle is the command
before it in the queue: debug is applied first. A trap raised in the slot before is taken first, and its entry, or a double
fault, comes about before the halt (R157). -/
def execDebugHalt (t : TraderId) (s : State) : Out :=
  .next (if s.dbg.en && s.inStall t.h t.s && decide (t.t < 16) then
      let tr := s.trader t
      let s := match tr.trap with
        | some tp => if tr.running && !tr.halted then s.takeTrap t tp else s
        | none => s
      (s.upd t (fun tr => { tr with halted := true })).settle
    else s)

/-- DEBUG_RELEASE (R428): it comes before a host order of its stall cycle in the queue. -/
def execDebugRelease (t : TraderId) (s : State) : Out :=
  .next (if s.dbg.en && s.inStall t.h t.s && decide (t.t < 16) then s.upd t (fun tr => { tr with halted := false }) else s)

/-- DBG_EN_FALL (R428). -/
def execDbgEnFall (s : State) : Out := .next { s.releaseAll with dbg := { s.dbg with en := false, test := false } }

/-- DBG_EN_RISE (R428). -/
def execDbgEnRise (s : State) : Out := .next { s with dbg := { s.dbg with en := true } }

/-- TEST_MODE (R210). -/
def execTestMode (on : Bool) (s : State) : Out := .next (if s.dbg.en then { s with dbg := { s.dbg with test := on } } else s)

/-- DEBUG_BREAKPOINTS (R121). -/
def execDebugBreakpoints (on : Bool) (s : State) : Out :=
  .next (if s.dbg.en then { s with dbg := { s.dbg with breakpoints := on } } else s)

end Sys2Proof.Machine
end

