-- ==== Sys2Proof/Machine/ScaleOps.lean ====
section
/-! DEFINITION. The arithmetic of the Scale coprocessor: IEEE 754 binary32 under R147, fixed point under R148. A result
comes with its SC_STATUS bits: INX 1, OVF 2, DZ 4, INV 8. -/

namespace Sys2Proof.Machine

/-- A binary32 operand as it reads: a subnormal reads as zero of its sign. A finite value is m × 2^e. -/
inductive Fp where
  | nan (signalling : Bool)
  | inf (neg : Bool)
  | zero (neg : Bool)
  | fin (neg : Bool) (m : Nat) (e : Int)
  deriving DecidableEq, Repr

/-- The operand that 32 bits encode. -/
def Fp.ofBits (x : Nat) : Fp :=
  let neg := bit x 31
  let ex := bits x 30 23
  let fr := bits x 22 0
  if ex = 255 then (if fr = 0 then .inf neg else .nan (!bit x 22))
  else if ex = 0 then .zero neg
  else .fin neg (fr + 2 ^ 23) ((ex : Int) - 150)

/-- The one NaN result. -/
def fpNan : Nat := 0x7FC00000
/-- Infinity of a sign. -/
def fpInf (neg : Bool) : Nat := b2n neg * 2 ^ 31 + 0x7F800000
/-- Zero of a sign. -/
def fpZero (neg : Bool) : Nat := b2n neg * 2 ^ 31

/-- m × 2^e, with `sticky` for further non-zero bits below, rounded to nearest, ties to even (R147). A result below the
normal range is written as zero; one beyond the largest finite value gives infinity. -/
def fpRound (neg : Bool) (m : Nat) (e : Int) (sticky : Bool) : Nat × Nat :=
  if m = 0 then (fpZero neg, b2n sticky)
  else
    let l := Nat.log2 m
    let q := if 23 < l then m >>> (l - 23) else m <<< (23 - l)
    let rest := if 23 < l then m % 2 ^ (l - 23) else 0
    let half := if 23 < l then 2 ^ (l - 24) else 1
    let inexact := rest != 0 || sticky
    let up := decide (half < rest) || (decide (half = rest) && (sticky || q % 2 == 1))
    let q := if up && decide (23 < l) then q + 1 else q
    let top : Int := e + l + (if q = 2 ^ 24 then 1 else 0)
    let q := if q = 2 ^ 24 then 2 ^ 23 else q
    if 127 < top then (fpInf neg, 3)
    else if top < -126 then (fpZero neg, 1)
    else (b2n neg * 2 ^ 31 + (top + 127).toNat * 2 ^ 23 + (q - 2 ^ 23), b2n inexact)

/-- The flag of a signalling NaN among the operands. -/
def sigInv (xs : List Fp) : Nat := if xs.contains (.nan true) then 8 else 0

/-- A NaN among the operands. -/
def Fp.isNan : Fp → Bool
  | .nan _ => true
  | _ => false

/-- The sign of an operand. -/
def Fp.neg : Fp → Bool
  | .nan _ => false
  | .inf n => n
  | .zero n => n
  | .fin n _ _ => n

/-- An operand with its sign inverted. -/
def Fp.negate : Fp → Fp
  | .nan q => .nan q
  | .inf n => .inf (!n)
  | .zero n => .zero (!n)
  | .fin n m e => .fin (!n) m e

/-- A finite operand as a signed integer at exponent `e`, at or below its own. -/
def fpAt (neg : Bool) (m : Nat) (e0 e : Int) : Int := (if neg then -1 else 1) * (m * 2 ^ (e0 - e).toNat : Nat)

/-- An exact signed integer at an exponent, rounded; an exact zero is +0. -/
def fpPack (v : Int) (e : Int) : Nat × Nat := if v = 0 then (fpZero false, 0) else fpRound (decide (v < 0)) v.natAbs e false

/-- a + b (R147). -/
def fpAddF (a b : Fp) : Nat × Nat :=
  match a, b with
  | .nan _, _ | _, .nan _ => (fpNan, sigInv [a, b])
  | .inf x, .inf y => if x = y then (fpInf x, 0) else (fpNan, 8)
  | .inf x, _ => (fpInf x, 0)
  | _, .inf y => (fpInf y, 0)
  | .zero x, .zero y => (fpZero (x && y), 0)
  | .zero _, .fin n m e => fpRound n m e false
  | .fin n m e, .zero _ => fpRound n m e false
  | .fin n1 m1 e1, .fin n2 m2 e2 => let e := min e1 e2; fpPack (fpAt n1 m1 e1 e + fpAt n2 m2 e2 e) e

/-- a × b (R147). -/
def fpMulF (a b : Fp) : Nat × Nat :=
  let n := a.neg != b.neg
  match a, b with
  | .nan _, _ | _, .nan _ => (fpNan, sigInv [a, b])
  | .inf _, .zero _ | .zero _, .inf _ => (fpNan, 8)
  | .inf _, _ | _, .inf _ => (fpInf n, 0)
  | .zero _, _ | _, .zero _ => (fpZero n, 0)
  | .fin _ m1 e1, .fin _ m2 e2 => fpRound n (m1 * m2) (e1 + e2) false

/-- c + a × b, rounded once (R147). -/
def fpMacF (c a b : Fp) : Nat × Nat :=
  let n := a.neg != b.neg
  let inv := match a, b with
    | .inf _, .zero _ | .zero _, .inf _ => true
    | _, _ => false
  if inv then (fpNan, 8)
  else if a.isNan || b.isNan || c.isNan then (fpNan, sigInv [a, b, c])
  else match a, b with
  | .fin _ m1 e1, .fin _ m2 e2 =>
    (match c with
     | .inf x => (fpInf x, 0)
     | .fin n3 m3 e3 => let e := min (e1 + e2) e3; fpPack (fpAt n (m1 * m2) (e1 + e2) e + fpAt n3 m3 e3 e) e
     | _ => fpRound n (m1 * m2) (e1 + e2) false)
  | .inf _, _ | _, .inf _ =>
    (match c with
     | .inf x => if x = n then (fpInf n, 0) else (fpNan, 8)
     | _ => (fpInf n, 0))
  | _, _ => fpAddF c (.zero n)

/-- a / b (R147). -/
def fpDivF (a b : Fp) : Nat × Nat :=
  let n := a.neg != b.neg
  match a, b with
  | .nan _, _ | _, .nan _ => (fpNan, sigInv [a, b])
  | .inf _, .inf _ | .zero _, .zero _ => (fpNan, 8)
  | .inf _, _ => (fpInf n, 0)
  | _, .inf _ => (fpZero n, 0)
  | .zero _, _ => (fpZero n, 0)
  | .fin _ _ _, .zero _ => (fpInf n, 4)
  | .fin _ m1 e1, .fin _ m2 e2 =>
    let q := m1 * 2 ^ 30 / m2
    fpRound n q (e1 - e2 - 30) (m1 * 2 ^ 30 % m2 != 0)

/-- The integer square root of `x`, below 2^32, found bit by bit. -/
def isqrt (x : Nat) : Nat :=
  (List.range 32).foldl (fun r i => if (r + 2 ^ (31 - i)) * (r + 2 ^ (31 - i)) ≤ x then r + 2 ^ (31 - i) else r) 0

/-- The square root of a (R147). -/
def fpSqrtF (a : Fp) : Nat × Nat :=
  match a with
  | .nan _ => (fpNan, sigInv [a])
  | .zero n => (fpZero n, 0)
  | .inf n => if n then (fpNan, 8) else (fpInf false, 0)
  | .fin n m e =>
    if n then (fpNan, 8)
    else
      let odd := e % 2 ≠ 0
      let m := (if odd then 2 * m else m) * 2 ^ 34
      let e := (if odd then e - 1 else e) - 34
      let r := isqrt m
      fpRound false r (e / 2) (r * r != m)

/-- a < b for operands that are not NaN. -/
def fpLt (a b : Fp) : Bool :=
  match a, b with
  | .nan _, _ | _, .nan _ => false
  | .inf x, .inf y => x && !y
  | .inf x, _ => x
  | _, .inf y => !y
  | .zero _, .zero _ => false
  | .zero _, .fin n _ _ => !n
  | .fin n _ _, .zero _ => n
  | .fin n1 m1 e1, .fin n2 m2 e2 => let e := min e1 e2; decide (fpAt n1 m1 e1 e < fpAt n2 m2 e2 e)

/-- a = b for operands that are not NaN: zeros of both signs are equal. -/
def fpEq (a b : Fp) : Bool := !a.isNan && !b.isNan && !fpLt a b && !fpLt b a

/-- FCOND of binary32 operands, and INV (R149). -/
def fpCond (c : Nat) (a b : Fp) : Bool × Nat :=
  let un := a.isNan || b.isNan
  let r := match c with
    | 0 => fpEq a b | 1 => !fpEq a b | 2 => fpLt a b | 3 => !un && !fpLt a b
    | 4 => !un && !fpLt b a | 5 => fpLt b a | _ => un
  (r, if un && decide (2 ≤ c) && decide (c ≤ 5) then 8 else sigInv [a, b])

/-- An operand written back as it read. -/
def Fp.toBits : Fp → Nat
  | .nan _ => fpNan
  | .inf n => fpInf n
  | .zero n => fpZero n
  | .fin n m e => (fpRound n m e false).1

/-- FCLIP (R149). -/
def fpClip (v lo hi : Fp) : Nat × Nat :=
  if v.isNan then (lo.toBits, 8)
  else ((if fpLt v lo then lo else if fpLt hi v then hi else v).toBits, sigInv [v, lo, hi])

/-! ## Fixed point -/

/-- A fixed-point result of 32 bits: saturated with OVF, or exact, with INX where non-zero bits were discarded. -/
def xSat (v : Int) (inexact : Bool) : Nat × Nat :=
  if satS 32 v = v then (unsg 32 v, b2n inexact) else (unsg 32 (satS 32 v), 2)

/-- A sum or difference: with SAT it saturates, without it wraps; both set OVF (R148). -/
def xSum (sat : Bool) (v : Int) : Nat × Nat :=
  if sat then xSat v false else (unsg 32 v, if satS 32 v = v then 0 else 2)

/-- (a × b) >> n to the nearest, ties away from zero, and whether non-zero bits were discarded. -/
def xProd (a b : Int) (n : Nat) : Int × Bool := (roundAway (a * b) (2 ^ n), (a * b) % (2 ^ n : Int) != 0)

/-- (a << n) / b, rounded toward zero (R148). -/
def xDivF (a b : Int) (n : Nat) : Nat × Nat :=
  if b = 0 then (if 0 ≤ a then 0x7FFFFFFF else 0x80000000, 4)
  else xSat (Int.tdiv (a * 2 ^ n) b) (Int.tmod (a * 2 ^ n) b != 0)

/-- FTOX: a × 2^n to the nearest, ties away from zero (R148). -/
def fpToX (a : Fp) (n : Nat) : Nat × Nat :=
  match a with
  | .nan _ => (0, 8)
  | .inf g => (if g then 0x80000000 else 0x7FFFFFFF, 2)
  | .zero _ => (0, 0)
  | .fin g m e =>
    let x := e + n
    let v : Int := if g then -(m : Int) else m
    if 0 ≤ x then (if 40 < x then xSat (if g then -(2 ^ 40) else 2 ^ 40) false else xSat (v * 2 ^ x.toNat) false)
    else if x < -60 then (0, 1)
    else xSat (roundAway v (2 ^ (-x).toNat)) (v % (2 ^ (-x).toNat : Int) != 0)

/-- XTOF: a × 2^−n as binary32, rounded to nearest even (R148). -/
def xToFp (a : Int) (n : Nat) : Nat × Nat := fpPack a (-(n : Int))

/-- FCOND of fixed-point operands, signed (R149). -/
def xCond (c : Nat) (a b : Int) : Bool :=
  match c with
  | 0 => a == b | 1 => a != b | 2 => decide (a < b) | 3 => decide (b ≤ a) | 4 => decide (a ≤ b) | _ => decide (b < a)

end Sys2Proof.Machine
end

