-- ==== Sys2Proof/Machine/Scale.lean ====
section
/-! DEFINITION. The instructions of the Scale coprocessor CP0 (R146 to R150): each issues in one slot, and its result lands
L owned slots later. Where CP0 is absent an operation takes the CP_ABSENT event. -/

namespace Sys2Proof.Machine

/-- The Scale registers that an operation names. -/
def scUses (cd ca cb : Bool) (w : Nat) : List GReg :=
  (if cd then [GReg.sc (fCd w)] else []) ++ (if ca then [GReg.sc (fCa w)] else []) ++ (if cb then [GReg.sc (fCb w)] else [])

/-- The Scale registers that an operation of code `op` reads: CA, CB and the addend or value CD (R122). -/
def scReads (op w : Nat) : List Nat :=
  (if [0x04, 0x0B, 0x17, 0x18].contains op then [fCd w] else []) ++ (if op = 0 then [] else [fCa w]) ++
    (if [0x00, 0x06, 0x0D, 0x0E, 0x10, 0x11, 0x12, 0x13, 0x14, 0x15, 0x16].contains op then [] else [fCb w])

/-- The attempt to issue a Scale operation of code `op`; absent, it takes CP_ABSENT with number 0 (R150). -/
def State.scale (s : State) (t : TraderId) (op : Nat) (uses : Nat → List GReg) (body : Nat → Trader → Trader) : State :=
  s.issue t (key 0x38 op) (fun w => if s.part.scale then uses w else []) (fun w s =>
    if s.part.scale then s.scRead t (scReads op w) w (fun s => (s.upd t (body w)).endCheck t) else s.trapAfter t 14 0 w)

/-- A result of latency `l` in SC[CD], with its flags, put on its way. -/
def Trader.scResult (tr : Trader) (l dst : Nat) (r : Nat × Nat) : Trader :=
  { tr with scq := tr.scq ++ [⟨tr.slot + l, dst, r.1, r.2⟩] }

/-- The operand SC[i] as binary32. -/
def Trader.fp (tr : Trader) (i : Nat) : Fp := Fp.ofBits (tr.scr i)
/-- The operand SC[i] as a signed fixed-point number. -/
def Trader.fx (tr : Trader) (i : Nat) : Int := sgn 32 (tr.scr i)

/-- SNOP: nothing. -/
def execSnop (t : TraderId) (s : State) : Out := .next (s.scale t 0x00 (fun _ => []) (fun _ tr => tr))

/-- FADD: SC[CD] := SC[CA] + SC[CB]. -/
def execFadd (t : TraderId) (s : State) : Out :=
  .next (s.scale t 0x1 (scUses true true true) (fun w tr => tr.scResult 2 (fCd w) (fpAddF (tr.fp (fCa w)) (tr.fp (fCb w)))))

/-- FSUB: SC[CD] := SC[CA] − SC[CB]. -/
def execFsub (t : TraderId) (s : State) : Out :=
  .next (s.scale t 0x2 (scUses true true true) (fun w tr => tr.scResult 2 (fCd w) (if (tr.fp (fCb w)).isNan then fpAddF (tr.fp (fCa w)) (tr.fp (fCb w)) else fpAddF (tr.fp (fCa w)) (tr.fp (fCb w)).negate)))

/-- FMUL: SC[CD] := SC[CA] × SC[CB]. -/
def execFmul (t : TraderId) (s : State) : Out :=
  .next (s.scale t 0x3 (scUses true true true) (fun w tr => tr.scResult 2 (fCd w) (fpMulF (tr.fp (fCa w)) (tr.fp (fCb w)))))

/-- FMAC: SC[CD] := SC[CD] + SC[CA] × SC[CB], rounded once. -/
def execFmac (t : TraderId) (s : State) : Out :=
  .next (s.scale t 0x4 (scUses true true true) (fun w tr => tr.scResult 3 (fCd w) (fpMacF (tr.fp (fCd w)) (tr.fp (fCa w)) (tr.fp (fCb w)))))

/-- FDIV: SC[CD] := SC[CA] / SC[CB]. -/
def execFdiv (t : TraderId) (s : State) : Out :=
  .next (s.scale t 0x5 (scUses true true true) (fun w tr => tr.scResult 8 (fCd w) (fpDivF (tr.fp (fCa w)) (tr.fp (fCb w)))))

/-- FSQRT: the square root of SC[CA]. -/
def execFsqrt (t : TraderId) (s : State) : Out :=
  .next (s.scale t 0x6 (scUses true true false) (fun w tr => tr.scResult 8 (fCd w) (fpSqrtF (tr.fp (fCa w)))))

/-- FCMP: P[CD[2:0]] := FCOND of (SC[CA], SC[CB]). The predicate guards the next instruction; the flags land one slot later. -/
def execFcmp (t : TraderId) (s : State) : Out :=
  .next (s.scale t 0x7 (scUses false true true) (fun w tr =>
    let r : Bool × Nat := fpCond (bits w 2 0) (tr.fp (fCa w)) (tr.fp (fCb w))
    (tr.setP (fCd w % 8) r.1).scResult 1 16 (0, r.2)))

/-- XADD: SC[CD] := SC[CA] + SC[CB]. -/
def execXadd (t : TraderId) (s : State) : Out :=
  .next (s.scale t 0x8 (scUses true true true) (fun w tr => tr.scResult 1 (fCd w) (xSum (bit w 0) ((tr.fx (fCa w)) + (tr.fx (fCb w))))))

/-- XSUB: SC[CD] := SC[CA] − SC[CB]. -/
def execXsub (t : TraderId) (s : State) : Out :=
  .next (s.scale t 0x9 (scUses true true true) (fun w tr => tr.scResult 1 (fCd w) (xSum (bit w 0) ((tr.fx (fCa w)) - (tr.fx (fCb w))))))

/-- XMUL: SC[CD] := (SC[CA] × SC[CB]) >> XF. -/
def execXmul (t : TraderId) (s : State) : Out :=
  .next (s.scale t 0xa (scUses true true true) (fun w tr => tr.scResult 2 (fCd w) (let q := xProd (tr.fx (fCa w)) (tr.fx (fCb w)) (fXf w); xSat q.1 q.2)))

/-- XMAC: SC[CD] := SC[CD] + (SC[CA] × SC[CB]) >> XF, saturated once. -/
def execXmac (t : TraderId) (s : State) : Out :=
  .next (s.scale t 0xb (scUses true true true) (fun w tr => tr.scResult 2 (fCd w) (let q := xProd (tr.fx (fCa w)) (tr.fx (fCb w)) (fXf w); xSat ((tr.fx (fCd w)) + q.1) q.2)))

/-- XDIV: SC[CD] := (SC[CA] << XF) / SC[CB]. -/
def execXdiv (t : TraderId) (s : State) : Out :=
  .next (s.scale t 0xc (scUses true true true) (fun w tr => tr.scResult 8 (fCd w) (xDivF (tr.fx (fCa w)) (tr.fx (fCb w)) (fXf w))))

/-- XSHL: SC[CD] := SC[CA] << XF. -/
def execXshl (t : TraderId) (s : State) : Out :=
  .next (s.scale t 0xd (scUses true true false) (fun w tr => tr.scResult 1 (fCd w) (xSat ((tr.fx (fCa w)) * 2 ^ fXf w) false)))

/-- XSAR: SC[CD] := SC[CA] >> XF, arithmetic. -/
def execXsar (t : TraderId) (s : State) : Out :=
  .next (s.scale t 0xe (scUses true true false) (fun w tr => tr.scResult 1 (fCd w) ((unsg 32 ((tr.fx (fCa w)) >>> fXf w), b2n ((tr.fx (fCa w)) % (2 ^ fXf w : Int) != 0)))))

/-- XCMP: P[CD[2:0]] := FCOND of (SC[CA], SC[CB]), signed. The predicate guards the next instruction; the flags land one slot later. -/
def execXcmp (t : TraderId) (s : State) : Out :=
  .next (s.scale t 0xf (scUses false true true) (fun w tr =>
    let r : Bool × Nat := (xCond (bits w 2 0) (tr.fx (fCa w)) (tr.fx (fCb w)), 0)
    (tr.setP (fCd w % 8) r.1).scResult 1 16 (0, r.2)))

/-- FTOX: the fixed value of SC[CA] with XF fraction bits. -/
def execFtox (t : TraderId) (s : State) : Out :=
  .next (s.scale t 0x10 (scUses true true false) (fun w tr => tr.scResult 2 (fCd w) (fpToX (tr.fp (fCa w)) (fXf w))))

/-- XTOF: the binary32 of SC[CA] with XF fraction bits. -/
def execXtof (t : TraderId) (s : State) : Out :=
  .next (s.scale t 0x11 (scUses true true false) (fun w tr => tr.scResult 2 (fCd w) (xToFp (tr.fx (fCa w)) (fXf w))))

/-- SMOV: SC[CD] := SC[CA]. -/
def execSmov (t : TraderId) (s : State) : Out :=
  .next (s.scale t 0x12 (scUses true true false) (fun w tr => tr.scResult 1 (fCd w) ((tr.scr (fCa w), 0))))

/-- XABS: the absolute value of SC[CA]. -/
def execXabs (t : TraderId) (s : State) : Out :=
  .next (s.scale t 0x13 (scUses true true false) (fun w tr => tr.scResult 1 (fCd w) (xSat (tr.fx (fCa w)).natAbs false)))

/-- XNEG: 0 − SC[CA]. -/
def execXneg (t : TraderId) (s : State) : Out :=
  .next (s.scale t 0x14 (scUses true true false) (fun w tr => tr.scResult 1 (fCd w) (xSat (-(tr.fx (fCa w))) false)))

/-- FABS: SC[CA] with sign 0. -/
def execFabs (t : TraderId) (s : State) : Out :=
  .next (s.scale t 0x15 (scUses true true false) (fun w tr => tr.scResult 1 (fCd w) ((tr.scr (fCa w) % 2 ^ 31, 0))))

/-- FNEG: SC[CA] with its sign inverted. -/
def execFneg (t : TraderId) (s : State) : Out :=
  .next (s.scale t 0x16 (scUses true true false) (fun w tr => tr.scResult 1 (fCd w) (((tr.scr (fCa w) + 2 ^ 31) % 2 ^ 32, 0))))

/-- XCLIP: SC[CD] clamped to SC[CA] to SC[CB]. -/
def execXclip (t : TraderId) (s : State) : Out :=
  .next (s.scale t 0x17 (scUses true true true) (fun w tr => tr.scResult 1 (fCd w) ((unsg 32 (if (tr.fx (fCd w)) < (tr.fx (fCa w)) then (tr.fx (fCa w)) else if (tr.fx (fCb w)) < (tr.fx (fCd w)) then (tr.fx (fCb w)) else (tr.fx (fCd w))), 0))))

/-- FCLIP: SC[CD] clamped to SC[CA] to SC[CB], binary32. -/
def execFclip (t : TraderId) (s : State) : Out :=
  .next (s.scale t 0x18 (scUses true true true) (fun w tr => tr.scResult 1 (fCd w) (fpClip (tr.fp (fCd w)) (tr.fp (fCa w)) (tr.fp (fCb w)))))

/-- The declared latency of a coprocessor in issue slots, by the image in force in the trader's stall (R351). -/
def State.cpLatency (s : State) (t : TraderId) (n : Nat) : Option Nat :=
  (s.image (s.get HS_STALL.ACTIVE (ix t.h (s.get STL_SELF.ROLE t.st)))).map
    (fun i => bits (field i.cert 12 4) (4 * n - 1) (4 * n - 4) + 1)

/-- The operation `w` as it is passed to an integrator's unit, with the guard outcome and the trader number (R123, R426). -/
def State.cpxOp (s : State) (t : TraderId) (w : Nat) : CpxOp :=
  let n := fMajor w - 0x38
  { unit := n, op := fOp w, cd := fCd w, ca := fCa w, cb := fCb w, xf := fXf w, guard := (s.trader t).guard w, trader := t.t,
    due := (s.cpLatency t n).map (fun l => (s.trader t).slot + l) }

/-- The slot of an operation of CP1 to CP7 whose word is fetched: an operation that a present unit does not define takes ILLEGAL
with cause BAD_CP_OP, whatever the guard; under a true guard an absent unit gives CP_ABSENT with its number, and one that is
not ready holds the trader; otherwise the unit gets the operation (R84, R99, R123). -/
def State.cpxSlot (s : State) (t : TraderId) (w : Nat) (ans : CpxAnswer) : State :=
  let n := fMajor w - 0x38
  let g := (s.trader t).guard w
  if bit s.part.cpMap n then
    if ans = .illegal then s.raiseTrap t 12 0x0B 0 w (s.trader t).pc
    else if ans = .notReady ∧ g = true then s.unsched t
    else ((s.took t w).upd t (fun tr => { tr with cpOut := tr.cpOut ++ [s.cpxOp t w] })).endCheck t
  else if g then (s.took t w).trapAfter t 14 n w
  else (s.took t w).endCheck t

/-- An operation of CP1 to CP7, with what the unit answers to it. -/
def execCpxOperation (t : TraderId) (ans : CpxAnswer) (s : State) : Out :=
  .next (
    if !s.canIssue t || (s.trader t).prog.isSome then s
    else
      let s0 := s.finishes t
      match s0.fetch t with
      | .rom => s
      | .miss line => s0.startMiss t line
      | .word w =>
        if illegalCause w ≠ 0 ∨ keyOf w ≠ key 0x39 then s
        else s0.fetchSlot t (s0.fetchMark t) (fun s => s.cpxSlot t w ans))

/-- The operation whose result comes back next: the one of the earliest declared slot, and of several the oldest. -/
def Trader.cpNext (tr : Trader) : Option CpxOp :=
  tr.cpOut.foldl (fun b e =>
    match b with
    | some x => if e.due.getD 0 < x.due.getD 0 then some e else b
    | none => some e) none

/-- The next result of an operation passed to CP1 to CP7 comes back, at its declared latency where an image declares one; a
predicate result is written under a true guard (R84, R426). -/
def execCpxResultReturn (t : TraderId) (pred : Option (Nat × Bool)) (s : State) : Out :=
  .next (match (s.trader t).cpNext with
    | none => s
    | some e =>
      let due := e.due.getD 0
      let s := s.idleTo t due
      if s.slotCome t due then
        s.upd t (fun tr =>
          let tr := { tr with cpOut := tr.cpOut.erase e }
          match pred with
          | some (i, b) => if e.guard then tr.setP i b else tr
          | none => tr)
      else s)

end Sys2Proof.Machine
end

