-- ==== Sys2Proof/Machine/TraderMem.lean ====
section
/-! DEFINITION. Loads, stores, block moves, calls and returns (R65 to R68, R81, R86 to R90, R110 to R113, R134 to R136), the
arrival of what they wait for, and operation accesses (R281, R282). -/

namespace Sys2Proof.Machine

/-! ## Regions and accesses (R65, R67, R68) -/

/-- The regions of a trader's data space. -/
inductive Region where
  | ram | window | slice | cp | io
  deriving DecidableEq, Repr

/-- The region of a trader address. -/
def regionOf (a : Nat) : Region :=
  if a < 0x8000 then .ram else if a < 0xC000 then .window else if a < 0xE000 then .slice
  else if a < 0xF000 then .cp else .io

/-- The detail of the ADDR_FAULT that an access of `n` bytes takes; 0 for none (R67, R167). -/
def addrFault (ea n : Nat) : Nat :=
  if 0x10000 < ea + n then 2 else if regionOf ea ≠ regionOf (ea + n - 1) then 1 else 0

/-- The accesses of an instruction: address and bytes, in ascending order (R68). -/
def accesses (ea n : Nat) : List (Nat × Nat) :=
  match n with
  | 1 => [(ea, 1)]
  | 2 => if ea % 2 = 0 then [(ea, 2)] else [(ea, 1), (ea + 1, 1)]
  | _ => if ea % 2 = 0 then [(ea, 2), (ea + 2, 1)] else [(ea, 1), (ea + 1, 2)]

/-- The issue slots of an access instruction: one for each access; one that faults ends in its first slot, and a false guard makes
no check of the address (R81, R82, R99, R168). -/
def memCost (w : Nat) (tr : Trader) : Nat :=
  let f := tr.memForm w
  if tr.guard w ∧ addrFault f.ea f.n ≠ 0 then 1 else (accesses f.ea f.n).length

/-! ## Hall and host memory (R66, R86 to R89) -/

/-- An access of the window 0x8000 to 0xBFFF: host memory while HOST is 1, hall memory otherwise. -/
def State.farAcc (s : State) (t : TraderId) (a n : Nat) (data : List Byte := []) : MemAcc :=
  let tr := s.trader t
  if tr.host then
    { taddr := a, host := true, addr := s.get TR_HOSTPG.PAGE t.ix * 0x4000 + (a - 0x8000), len := n, data }
  else { taddr := a, host := false, addr := tr.hbk * 0x4000 + (a - 0x8000), len := n, data }

/-- Two accesses share a byte. -/
def MemAcc.overlaps (x y : MemAcc) : Bool :=
  x.host == y.host && decide (x.addr < y.addr + y.len) && decide (y.addr < x.addr + x.len)

/-- The youngest buffered store that shares a byte with a load's access (R89). -/
def Trader.youngest (tr : Trader) (x : MemAcc) : Option MemAcc := (tr.stores.filter (fun e => e.overlaps x)).getLast?

/-- A load's access must wait for the store buffer: the youngest overlapping entry is not one of its address and width. -/
def Trader.blocked (tr : Trader) (x : MemAcc) : Bool :=
  match tr.youngest x with
  | some e => !(e.addr == x.addr && e.len == x.len)
  | none => false

/-- An access of a load is made: forwarded, read from hall memory at once, or requested from a host port (R86, R89). Data of
hall memory that cannot be corrected make the access fail with BUS_ERR detail 0x04 (R268). -/
def State.loadAcc (s : State) (t : TraderId) (x : MemAcc) : LoadAcc × State :=
  match (s.trader t).youngest x with
  | some e => ({ acc := x, got := e.data, fin := true }, s)
  | none =>
    if x.host then
      let (s, id) := s.hostReq (.trader t) (some t.h) (s.trStream t) x.addr x.len
      ({ acc := { x with req := some id } }, s)
    else
      let s := s.granted t.h t.s x.addr x.len
      let mark := s.errorIn (.hallMem t.h) x.addr x.len
      let s := if mark = some true then s.uncorrectable t.h 9 x.addr true else s
      ({ acc := x, got := s.bytesAt (.hallMem t.h) x.addr x.len, err := if mark = some true then 4 else 0 },
        if mark = some false then s.corrected t.h 9 else s)

/-- The load whose second access is to come. -/
def Trader.partLoad (tr : Trader) : Option Load := tr.loads.find? (fun l => l.part)

/-- An access of a load from hall or host memory is made, the last one of the load or not. The loaded value can be used at the second
following instruction: from the second owned slot after this one (R81, R86, R89); a host port's response brings it later. -/
def State.farLoad (s : State) (t : TraderId) (f : MemForm) (x : Nat × Nat) (last : Bool) : State :=
  let (a, s) := s.loadAcc t (s.farAcc t x.1 x.2)
  s.upd t (fun tr =>
    let l := tr.partLoad.getD { dst := f.dst, accs := [] }
    { tr with loads := tr.loads.filter (fun l => !l.part) ++
                [{ l with accs := l.accs ++ [a], due := if a.acc.host && !a.fin then 0 else tr.slot + 2, part := !last }] })

/-- The bytes `o` to `o + n - 1` of a value. -/
def bytesFrom (v o n : Nat) : List Byte := toBytes n (v >>> (8 * o))

/-- A store to hall or host memory enters the store buffer, one entry for each access (R87). -/
def State.farStore (s : State) (t : TraderId) (f : MemForm) (v : Nat) : State :=
  let es := (accesses f.ea f.n).map (fun x => s.farAcc t x.1 x.2 (bytesFrom v (x.1 - f.ea) x.2))
  s.upd t (fun tr => { tr with stores := tr.stores ++ es })

/-! ## The coprocessor window (R65, R110, R426) -/

/-- The coprocessor and the offset of an address of the window. -/
def cpOf (a : Nat) : Nat × Nat := ((a - 0xE000) / 0x200, (a - 0xE000) % 0x200)

/-- A byte of the window: the Scale registers and SC_STATUS of CP0; what a unit CP1 to CP7 returns is the unit's and
free; an absent unit reads 0, and so do the reserved bytes (R4, R110). -/
def State.cpRead1 (s : State) (t : TraderId) (a : Nat) : Byte × State :=
  let (u, o) := cpOf a
  if !bit s.part.cpMap u then (0, s)
  else if u ≠ 0 then
    let (bs, s) := s.freeBytes 1
    (bs.headD 0, s)
  else if o < 0x40 then (BitVec.ofNat 8 ((s.trader t).scr (o / 4) >>> (8 * (o % 4))), s)
  else if o < 0x44 then (BitVec.ofNat 8 (s.rd (t.ix.reg .SC_STATUS) >>> (8 * (o - 0x40))), s)
  else (0, s)

/-- Bytes of the window, in ascending order. -/
def State.cpRead (s : State) (t : TraderId) (a : Nat) : Nat → List Byte × State
  | 0 => ([], s)
  | n + 1 =>
    let (b, s) := s.cpRead1 t a
    let (bs, s) := State.cpRead s t (a + 1) n
    (b :: bs, s)

/-- A byte written into the window: a byte of SC_STATUS clears the flags it names, but for those set in the same slot (R9, R110);
reserved bytes take nothing; a byte for a unit CP1 to CP7 stands at its port (R426). -/
def State.cpWrite1 (s : State) (t : TraderId) (a : Nat) (b : Byte) : State :=
  let (u, o) := cpOf a
  if u ≠ 0 then (if bit s.part.cpMap u then s.upd t (fun tr => { tr with cpWin := tr.cpWin ++ [(a, b)] }) else s)
  else if !s.part.scale then s
  else if o < 0x40 then
    s.upd t (fun tr => tr.setSc (o / 4) (setBits (tr.scr (o / 4)) (8 * (o % 4) + 7) (8 * (o % 4)) b.toNat))
  else if o < 0x44 then
    let v := s.rd (t.ix.reg .SC_STATUS)
    let tr := s.trader t
    let kept := if tr.scSet.1 = tr.slot then tr.scSet.2 else 0
    s.wr (t.ix.reg .SC_STATUS) (bitsOff v (bitsOff (b.toNat <<< (8 * (o - 0x40))) kept))
  else s

/-- The Scale registers that an access of the window touches. -/
def scTouched (ea n : Nat) : List GReg :=
  ((List.range n).filter (fun k => decide (ea + k < 0xE040))).map (fun k => .sc ((ea + k - 0xE000) / 4))

/-! ## Operation accesses (R281, R282, R289) -/

/-- The ports: first address and bytes of the registers marked "operation". -/
def portRanges : List (Nat × Nat) :=
  [(0xF804, 1), (0xF808, 8), (0xF828, 8), (0xF830, 8), (0xF838, 4), (0xF83C, 1), (0xF840, 4), (0xF844, 1)]

/-- An access of the queue ports or the token alias, which waits for the store buffer (R90). -/
def touchesPort (ea n : Nat) : Bool := portRanges.any (fun r => decide (r.1 < ea + n) && decide (ea < r.1 + r.2))

/-- The bytes hold address `a`. -/
def holdsAddr (ea n a : Nat) : Bool := decide (ea ≤ a) && decide (a < ea + n)

/-- The operation that a read performs, at byte 0 of its register, and that byte's address. -/
def State.readOp (s : State) (t : TraderId) (ea n : Nat) : Option (AtomOp × Nat) :=
  let q := s.get QP_SEL.QUEUE t.ix
  if holdsAddr ea n 0xF808 then some (.acquire (s.get TK_WORD.WORD t.ix), 0xF808)
  else if holdsAddr ea n 0xF830 then some (.pop q, 0xF830)
  else if holdsAddr ea n 0xF838 then some (.reserve q, 0xF838)
  else if holdsAddr ea n 0xF840 then some (.take q, 0xF840)
  else none

/-- The byte of QP_PUSH that performs the push: ES - 1, or 7 when ES is above 8. -/
def State.pushByte (s : State) (t : TraderId) : Nat := min (s.qElem t.h (s.get QP_SEL.QUEUE t.ix)) 8 - 1

/-- The bytes of QP_PUSH collected with those of a store of `v` at `ea`. -/
def State.pushGot (s : State) (t : TraderId) (ea n v : Nat) : Tab Nat Byte :=
  let r := t.ix.reg .QP_PUSH
  let old := match (s.trader t).wlatch with | some (q, l) => if q = r then l else [] | none => []
  ((bytesFrom v 0 n).zipIdx).foldl (fun l e =>
    if holdsAddr 0xF828 8 (ea + e.2) then Tab.set l (ea + e.2 - 0xF828) e.1 else l) old

/-- The operation that a store of `v` performs, and the address of the byte that performs it. -/
def State.writeOp (s : State) (t : TraderId) (ea n v : Nat) : Option (AtomOp × Nat) :=
  let q := s.get QP_SEL.QUEUE t.ix
  let b0 (a : Nat) : Bool := bit (v >>> (8 * (a - ea))) 0
  if holdsAddr ea n 0xF804 then some (.release (s.get TK_WORD.WORD t.ix) (b0 0xF804), 0xF804)
  else if holdsAddr ea n 0xF83C then some (if b0 0xF83C then .abort q else .commit q 0, 0xF83C)
  else if holdsAddr ea n 0xF844 then some (if b0 0xF844 then .ret q else .done q 0, 0xF844)
  else if holdsAddr ea n (0xF828 + s.pushByte t) then
    some (.push q (toBytes 8 (mergeBytes .QP_PUSH 0 (s.pushGot t ea n v))), 0xF828 + s.pushByte t)
  else none

/-- The address of the access that holds address `a` (R68). -/
def accessOf (ea n a : Nat) : Nat := (((accesses ea n).find? (fun x => holdsAddr x.1 x.2 a)).map Prod.fst).getD ea

/-- An operation access: made again after an event, with the address and direction of the replay record of its level, it is
not sent to the hall; a write is discarded and a read returns the stored result. Otherwise it reaches the hall. In both
cases the record is cleared (R282). -/
def State.portAccess (s : State) (t : TraderId) (r : AtomReq) : State :=
  let l := s.cur t
  let rec_ := ((s.trader t).replay[l]?).getD none
  let s := s.upd t (fun tr => { tr with replay := tr.replay.setIfInBounds l none })
  let orphan (x : AtomReq) (s : State) : State :=
    if x.done then s else s.upd t (fun tr => { tr with orphans := tr.orphans ++ [x.op] })
  match rec_ with
  | some x =>
    if x.addr = r.addr ∧ x.write = r.write then
      if r.write then orphan x (s.atomDone t r)
      else if x.done then s.atomDone t { r with op := x.op, answer := x.answer }
      else s.upd t (fun tr => { tr with atom := some { r with op := x.op } })
    else (orphan x s).upd t (fun tr => { tr with atom := some r })
  | none => s.upd t (fun tr => { tr with atom := some r })

/-! ## Loads and stores -/

/-- A load ends with value `v`. -/
def State.loaded (s : State) (t : TraderId) (w : Nat) (v : Nat) : State :=
  s.upd t (fun tr => (tr.afterMem w).landIn (tr.memForm w).dst v)

/-- The bytes that the access instruction in progress has read so far. -/
def Trader.got (tr : Trader) : List Byte := match tr.prog with | some p => p.got | none => []

/-- The accesses of a load that are still to be made. -/
def Trader.toRead (tr : Trader) (f : MemForm) : List (Nat × Nat) :=
  (accesses f.ea f.n).filter (fun x => decide (f.ea + tr.got.length ≤ x.1))

/-- One access of a load that reaches no memory outside the stall, its bytes given to `k`; uncorrectable data take the ECC event
(R167, R168). -/
def State.nearAccess (s : State) (t : TraderId) (w : Nat) (x : Nat × Nat) (k : List Byte → State → State) : State :=
  match s.ramAt t x.1 with
  | some (arr, o) => s.ramRead t arr o x.2 x.1 w (fun v s => k (toBytes x.2 v) s)
  | none =>
    if regionOf x.1 = .cp then
      let regs := if s.part.scale then (List.range x.2).filterMap (fun k =>
        if x.1 + k < 0xE040 then some ((x.1 + k - 0xE000) / 4) else none) else []
      s.scRead t regs w (fun s => let (bs, s) := s.cpRead t x.1 x.2; k bs s)
    else
      let (bs, s) := s.ioRead t x.1 x.2
      k bs s

/-- Accesses of a load in turn, their bytes put behind `bs`. -/
def State.nearAccesses (t : TraderId) (w : Nat) (k : List Byte → State → State) : List (Nat × Nat) → List Byte → State → State
  | [], bs, s => k bs s
  | x :: xs, bs, s => s.nearAccess t w x (fun b s => State.nearAccesses t w k xs (bs ++ b) s)

/-- The first access of a load of two accesses, in its first slot (R68): its bytes are kept, or the load begins. Where it performs an
operation of the hall, the load waits for its last slot (R282). -/
def State.loadEarly (s : State) (t : TraderId) (w : Nat) (f : MemForm) : State :=
  let x := (accesses f.ea f.n).headD (f.ea, f.n)
  let keep (bs : List Byte) (s : State) : State :=
    s.upd t (fun tr => { tr with prog := tr.prog.map (fun (p : Prog) => { p with got := p.got ++ bs }) })
  match regionOf f.ea with
  | .window => s.farLoad t f x false
  | .io => if (s.readOp t x.1 x.2).isSome then s else s.nearAccess t w x keep
  | _ => s.nearAccess t w x keep

/-- A load in its final slot. -/
def State.load (s : State) (t : TraderId) (w : Nat) (f : MemForm) : State :=
  let tr := s.trader t
  let near (s : State) : State := State.nearAccesses t w (fun bs s => s.loaded t w (ofBytes bs)) (tr.toRead f) tr.got s
  match regionOf f.ea with
  | .window => (s.farLoad t f ((accesses f.ea f.n).getLastD (f.ea, f.n)) true).upd t (fun tr => tr.afterMem w)
  | .io =>
    match s.readOp t f.ea f.n with
    | some (op, a) =>
      let at_ := f.ea + tr.got.length
      let (pre, s) := s.ioRead t at_ (a - at_)
      s.portAccess t { op, addr := accessOf f.ea f.n a, write := false, word := w, pre := tr.got ++ pre, n := f.n }
    | none => near s
  | _ => near s

/-- A store of value `v`. -/
def State.storeMem (s : State) (t : TraderId) (w : Nat) (f : MemForm) (v : Nat) : State :=
  let fin (s : State) : State := s.upd t (fun tr => tr.afterMem w)
  match regionOf f.ea with
  | .ram | .slice =>
    match s.ramAt t f.ea with
    | some (arr, o) => fin (s.storeS arr o (toBytes f.n v))
    | none => s
  | .window => fin (s.farStore t f v)
  | .cp =>
    let s := if (cpOf f.ea).1 = 0 then s else s.upd t (fun tr => { tr with cpWin := [] })
    fin (forAll (bytesFrom v 0 f.n).zipIdx (fun e s => s.cpWrite1 t (f.ea + e.2) e.1) s)
  | .io =>
    let op := s.writeOp t f.ea f.n v
    let got := s.pushGot t f.ea f.n v
    let pushed := touchesPort f.ea f.n && (List.range 8).any (fun k => holdsAddr f.ea f.n (0xF828 + k))
    let s := s.ioWrite t f.ea (bytesFrom v 0 f.n)
    match op with
    | some (op, a) =>
      let s := match op with | .push _ _ => s.upd t (fun tr => { tr with wlatch := none }) | _ => s
      let op := match op with | .release _ force => .release (s.get TK_WORD.WORD t.ix) force | op => op
      s.portAccess t { op, addr := accessOf f.ea f.n a, write := true, word := w, n := f.n }
    | none => fin (if pushed then s.upd t (fun tr => { tr with wlatch := some (t.ix.reg .QP_PUSH, got) }) else s)

/-- What makes an access instruction wait in its slot, true for an unscheduled wait: in a store's final slot too few free entries
of the store buffer (R87); four loads outstanding, or a store that overlaps the access at hand (R86, R89); a pending Scale
result (R110); stores buffered before a queue port or the token alias (R90); hall memory that is still being cleared (R377). -/
def State.memHold (t : TraderId) (w : Nat) (s : State) : Option Bool :=
  let tr := s.trader t
  let f := tr.memForm w
  let xs := accesses f.ea f.n
  if addrFault f.ea f.n ≠ 0 then none
  else match regionOf f.ea with
  | .window =>
    let x := if tr.partLoad.isSome then xs.getLastD (f.ea, f.n) else xs.headD (f.ea, f.n)
    let wait := match f.store with
      | some _ => (tr.prog.any (fun p => !p.first) || xs.length == 1) && decide (4 < tr.stores.length + xs.length)
      | none => (tr.partLoad.isNone && decide (4 ≤ tr.loads.length)) || tr.blocked (s.farAcc t x.1 x.2)
    if wait || (!tr.host && s.clearing) then some true else none
  | .cp => if tr.scAwaits (scTouched f.ea f.n) then some false else none
  | .io =>
    let page := (List.range f.n).any (fun k => (s.ioReg t (f.ea + k)).any (fun x => x.1.name == RegName.BR_IDATA))
    if (touchesPort f.ea f.n && (!tr.stores.isEmpty || s.clearing)) || (page && s.clearing) then some true else none
  | _ => none

/-- What an access instruction does in a slot before its final one: a load makes its first access (R68). -/
def State.memEarly (t : TraderId) (w : Nat) (s : State) : State :=
  let f := (s.trader t).memForm w
  match f.store with
  | some _ => s
  | none => s.loadEarly t w f

/-- The effect of an access instruction in its final slot; an address fault has no other effect (R99, R167). -/
def State.memBody (t : TraderId) (w : Nat) (s : State) : State :=
  let f := (s.trader t).memForm w
  if addrFault f.ea f.n ≠ 0 then s.raiseTrap t 13 (addrFault f.ea f.n) f.ea w (s.trader t).pc
  else match f.store with
  | some v => s.storeMem t w f v
  | none => s.load t w f

/-- The trader waits for the answer to an access of an instruction of key `k`. -/
def State.waitsIn (s : State) (t : TraderId) (k : Nat) : Bool :=
  (s.trader t).atom.any (fun r => !r.arrived && keyOf r.word == k) || (k == key 0x2D && s.popWaits t)

/-- An attempt of an access instruction; a slot spent waiting for its answer is unscheduled (R281). -/
def State.memIssue (s : State) (t : TraderId) (k : Nat) (uses : Nat → List GReg) : Out :=
  .next (if s.ownsSlot t && s.waitsIn t k then (s.ownSlot t (s.cur t)).unsched t
    else (s.issue t k uses (State.memBody t) memCost (State.memHold t) (State.memEarly t)).settle)

/-- The base register of format M, where the mode names one. -/
def baseUse (w : Nat) : List GReg := if fMode w = 3 then [] else [.a (fS1 w)]

/-- LDB: D[REG] := the byte at ea. -/
def execLdb (t : TraderId) (s : State) : Out := s.memIssue t (key 0x20) (fun w => .d (fDst w) :: baseUse w)

/-- STB: the byte at ea := D[REG]. -/
def execStb (t : TraderId) (s : State) : Out := s.memIssue t (key 0x21) (fun w => .d (fDst w) :: baseUse w)

/-- LDH: A[REG] := 16 bits at ea. -/
def execLdh (t : TraderId) (s : State) : Out := s.memIssue t (key 0x22) (fun w => .a (fDst w) :: baseUse w)

/-- STH: 16 bits at ea := A[REG]. -/
def execSth (t : TraderId) (s : State) : Out := s.memIssue t (key 0x23) (fun w => .a (fDst w) :: baseUse w)

/-- LDT: AC[REG] := 24 bits at ea. -/
def execLdt (t : TraderId) (s : State) : Out := s.memIssue t (key 0x24) (fun w => .ac (fDst w) :: baseUse w)

/-- STT: 24 bits at ea := AC[REG]. -/
def execStt (t : TraderId) (s : State) : Out := s.memIssue t (key 0x25) (fun w => .ac (fDst w) :: baseUse w)

/-- LDBA: A[REG] := the byte at ea, zero-extended. -/
def execLdba (t : TraderId) (s : State) : Out := s.memIssue t (key 0x26) (fun w => .a (fDst w) :: baseUse w)

/-! ## Calls and returns (R136) -/

/-- CALL: push16(x + 1); PC := TARGET. -/
def execCall (t : TraderId) (s : State) : Out := s.memIssue t (key 0x2A) (fun _ => [.a 7])

/-- BSR: push16(x + 1); PC := x + 1 + TARGET, signed. -/
def execBsr (t : TraderId) (s : State) : Out := s.memIssue t (key 0x2B) (fun _ => [.a 7])

/-- CALLI: push16(x + 1); PC := A[AREG] as it was before the push. -/
def execCalli (t : TraderId) (s : State) : Out := s.memIssue t (key 0x2C 1) (fun w => [.a 7, .a (fDst w)])

/-- RET: PC := pop16(). -/
def execRet (t : TraderId) (s : State) : Out := s.memIssue t (key 0x2D) (fun _ => [.a 7])

/-! ## Block moves (R116, R135) -/

/-- The bytes of a block move, its destination and its source. -/
def blkN (w : Nat) : Nat := bits w 3 0 + 1
def blkSrcX (w : Nat) : Nat := bits w 13 11

/-- `n` bytes from trader address `ea` lie in one shared bank or in the slice. -/
def blkIn (ea n : Nat) : Bool :=
  decide (ea + n ≤ 0x8000) || (decide (0xC000 ≤ ea) && decide (ea + n ≤ 0xE000))

/-- The address at which BLK takes ADDR_FAULT, the source before the destination. -/
def blkFault (w : Nat) (tr : Trader) : Option Nat :=
  let n := blkN w
  let dst := tr.ar (fS1 w)
  let src := tr.ar (blkSrcX w)
  if fDst w = 0 ∧ !blkIn src n then some src else if !blkIn dst n then some dst else none

/-- The issue slots of BLK: 1 + ceil(n / 8) for BCPY, 2 for BFILL; one that faults ends in its first slot, and a false guard makes no
check of the addresses. -/
def blkCost (w : Nat) (tr : Trader) : Nat :=
  if tr.guard w ∧ (blkFault w tr).isSome then 1 else if fDst w = 0 then 1 + (blkN w + 7) / 8 else 2

/-- What a block move does in a slot before its final one: BCPY reads up to 8 further bytes of its source (R135). -/
def State.blkEarly (t : TraderId) (w : Nat) (s : State) : State :=
  let tr := s.trader t
  let src := tr.ar (blkSrcX w) + tr.got.length
  let n := min 8 (blkN w - tr.got.length)
  if fDst w ≠ 0 ∨ n = 0 then s
  else s.nearAccess t w (src, n)
    (fun bs s => s.upd t (fun tr => { tr with prog := tr.prog.map (fun (p : Prog) => { p with got := p.got ++ bs }) }))

/-- The effect of a block move in its final slot: the destination takes what BCPY has read, or copies of a byte. -/
def State.blkBody (t : TraderId) (w : Nat) (s : State) : State :=
  let tr := s.trader t
  match blkFault w tr with
  | some ea => s.raiseTrap t 13 3 ea w tr.pc
  | none =>
    let bs := if fDst w = 0 then tr.got else List.replicate (blkN w) (BitVec.ofNat 8 (tr.dr (blkSrcX w)))
    match s.ramAt t (tr.ar (fS1 w)) with
    | some (a, o) => (s.storeS a o bs).endCheck t
    | none => s

/-- BCPY: copies n bytes, read in all slots but the final one and written in that one. -/
def execBcpy (t : TraderId) (s : State) : Out :=
  .next (s.issue t (key 0x27) (fun w => [.a (fS1 w), .a (blkSrcX w)]) (State.blkBody t) blkCost (fun _ _ => none) (State.blkEarly t)).settle

/-- BFILL: writes n copies of D[SRCX] in the final slot. -/
def execBfill (t : TraderId) (s : State) : Out :=
  .next (s.issue t (key 0x27 1) (fun w => [.a (fS1 w), .d (blkSrcX w)]) (State.blkBody t) blkCost).settle

/-! ## Arrivals (R86 to R89, R268, R281) -/

/-- BUSY is set for a trader whose access received HM_BUSY (R86). -/
def State.sawBusy (s : State) (t : TraderId) : State := s.orIn STL_STATUS.BSY t.st (2 ^ t.t)

/-- The access of a load can have its response: hall memory at any time, host memory once the port has answered. -/
def State.canArrive (s : State) (a : LoadAcc) : Bool :=
  !a.fin && (match a.acc.req with | some id => (s.answerOf id).isSome | none => !a.acc.host)

/-- The first element that `p` names becomes what `f` gives. -/
def mapFirst {α : Type} (p : α → Bool) (f : α → α) : List α → List α
  | [] => []
  | x :: xs => if p x then f x :: xs else x :: mapFirst p f xs

/-- The response to an access: its bytes, and the BUS_ERR detail of an error response (R167, R169). -/
def State.arrive (s : State) (t : TraderId) (a : LoadAcc) (o : MemOutcome) : LoadAcc × State :=
  match a.acc.req with
  | some id =>
    match s.answerOf id with
    | some (.data bs) => ({ a with got := bs, fin := true }, s.takeAnswer id)
    | some (.error k) =>
      ({ a with err := hostDetail false k, fin := true }, (s.takeAnswer id).busError t (hostDetail false k) a.acc.taddr)
    | _ => ({ a with fin := true }, s.takeAnswer id)
  | none =>
    let err := if a.err ≠ 0 then a.err else if o = .hallError then 1 else 0
    if err ≠ 0 then ({ a with err, fin := true }, s.busError t err a.acc.taddr)
    else
      let (bs, s) := (if o.busy then s.sawBusy t else s).collided o.words a.acc.addr a.got
      ({ a with got := bs, fin := true }, s)

/-- LOAD_DATA_ARRIVAL (R86): the response to the oldest access that can have one comes; the load whose accesses are all answered
lands, from the slot on in which its value can be used (R81). -/
def execLoadDataArrival (t : TraderId) (o : MemOutcome) (s : State) : Out :=
  .next (
    let tr := s.trader t
    let can (l : Load) : Bool := l.accs.any s.canArrive
    let s := match (tr.loads.find? can).bind (fun l => l.accs.find? s.canArrive) with
      | some a =>
        let (a', s') := s.arrive t a o
        s'.upd t (fun tr => { tr with
          loads := mapFirst can (fun (l : Load) => { l with accs := mapFirst s.canArrive (fun _ => a') l.accs }) tr.loads })
      | none => s
    let due := ((s.trader t).loads.map (fun l => l.due)).foldl max 0
    let s := s.idleTo t due
    s.upd t (fun tr => tr.landLoads tr.slot))

/-- The oldest entry leaves the store buffer. -/
def State.popStore (s : State) (t : TraderId) : State := s.upd t (fun tr => { tr with stores := tr.stores.drop 1 })

/-- STORE_BUFFER_DRAIN (R88): the oldest entry is written by hall memory, or issued as a write on a host port, and leaves
the buffer. An error response of the hall, or a word that cannot be corrected, gives BUS_ERR and nothing is written
(R169, R268). -/
def execStoreBufferDrain (t : TraderId) (o : MemOutcome) (s : State) : Out :=
  .next (match (s.trader t).stores with
    | [] => s
    | e :: rest =>
      if e.host then
        let (s, id) := match e.req with
          | some id => (s, id)
          | none => s.hostReq (.trader t) (some t.h) (s.trStream t) e.addr e.len e.data true e.taddr
        if s.reqs.any (fun r => r.id == id && !r.issued) then
          s.upd t (fun tr => { tr with stores := { e with req := some id } :: rest })
        else s.popStore t
      else
        let s := (s.popStore t).granted t.h t.s e.addr e.len
        if s.errorIn (.hallMem t.h) e.addr e.len = some true then (s.uncorrectable t.h 9 e.addr true).busError t 0x84 e.taddr
        else if o = .hallError then s.busError t 0x81 e.taddr
        else
          let s := if o.busy then s.sawBusy t else s
          s.store (.hallMem t.h) e.addr e.data)

/-- ATOMIC_ANSWER_ARRIVAL (R281): the answer of the hall is there, and the trader's next instruction can issue; in the
slot in which it does, the operation access completes (R282). -/
def execAtomicAnswerArrival (t : TraderId) (s : State) : Out :=
  .next (s.upd t (fun tr => { tr with atom := tr.atom.map (fun r => { r with arrived := r.done }) }))

end Sys2Proof.Machine
end

