-- ==== Sys2Proof/Machine/Dispatch.lean ====
section
/-! DEFINITION. Which meaning each command has: one arm a command. -/

namespace Sys2Proof.Machine

/-- The effect of a command on everything but the queue of waiting commands. -/
def exec (i : Instr) (s : State) : Host.Outcome State Fault Refusal :=
  match i with
  | .registerWrite by_ addr data => Sys2Proof.Machine.execRegisterWrite by_ addr data s
  | .readClear by_ addr n added o => Sys2Proof.Machine.execReadClear by_ addr n added o s
  | .tillPllLock => Sys2Proof.Machine.execTillPllLock s
  | .lfoTrimMeasure ticks256 => Sys2Proof.Machine.execLfoTrimMeasure ticks256 s
  | .tillAlarmFire => Sys2Proof.Machine.execTillAlarmFire s
  | .refLost => Sys2Proof.Machine.execRefLost s
  | .refBack => Sys2Proof.Machine.execRefBack s
  | .holdoverExit => Sys2Proof.Machine.execHoldoverExit s
  | .quadratureEdge n a b tm => Sys2Proof.Machine.execQuadratureEdge n a b tm s
  | .estimatorUpdate n => Sys2Proof.Machine.execEstimatorUpdate n s
  | .taxCtrlWrite by_ n v => Sys2Proof.Machine.execTaxCtrlWrite by_ n v s
  | .preset by_ n => Sys2Proof.Machine.execPreset by_ n s
  | .clearLost by_ n => Sys2Proof.Machine.execClearLost by_ n s
  | .arm by_ h m v => Sys2Proof.Machine.execArm by_ h m v s
  | .disarm by_ h m v => Sys2Proof.Machine.execDisarm by_ h m v s
  | .markAction h m => Sys2Proof.Machine.execMarkAction h m s
  | .pulseEnd h m => Sys2Proof.Machine.execPulseEnd h m s
  | .counterPinEdge h c level tm => Sys2Proof.Machine.execCounterPinEdge h c level tm s
  | .counterMatch h c => Sys2Proof.Machine.execCounterMatch h c s
  | .counterWrap h c => Sys2Proof.Machine.execCounterWrap h c s
  | .ctCtrlWrite by_ h c v => Sys2Proof.Machine.execCtCtrlWrite by_ h c v s
  | .ctPeriodWrite by_ h c v => Sys2Proof.Machine.execCtPeriodWrite by_ h c v s
  | .ctCountWrite by_ h c v => Sys2Proof.Machine.execCtCountWrite by_ h c v s
  | .ctInputWrite by_ h c v => Sys2Proof.Machine.execCtInputWrite by_ h c v s
  | .chainRead by_ h c => Sys2Proof.Machine.execChainRead by_ h c s
  | .nop t => Sys2Proof.Machine.execNop t s
  | .add t => Sys2Proof.Machine.execAdd t s
  | .addc t => Sys2Proof.Machine.execAddc t s
  | .sub t => Sys2Proof.Machine.execSub t s
  | .subb t => Sys2Proof.Machine.execSubb t s
  | .andD t => Sys2Proof.Machine.execAndD t s
  | .orD t => Sys2Proof.Machine.execOrD t s
  | .xorD t => Sys2Proof.Machine.execXorD t s
  | .notD t => Sys2Proof.Machine.execNotD t s
  | .neg t => Sys2Proof.Machine.execNeg t s
  | .mov t => Sys2Proof.Machine.execMov t s
  | .shl t => Sys2Proof.Machine.execShl t s
  | .shr t => Sys2Proof.Machine.execShr t s
  | .sar t => Sys2Proof.Machine.execSar t s
  | .rol t => Sys2Proof.Machine.execRol t s
  | .ror t => Sys2Proof.Machine.execRor t s
  | .minu t => Sys2Proof.Machine.execMinu t s
  | .maxu t => Sys2Proof.Machine.execMaxu t s
  | .rev t => Sys2Proof.Machine.execRev t s
  | .popc t => Sys2Proof.Machine.execPopc t s
  | .addi t => Sys2Proof.Machine.execAddi t s
  | .andi t => Sys2Proof.Machine.execAndi t s
  | .ori t => Sys2Proof.Machine.execOri t s
  | .xori t => Sys2Proof.Machine.execXori t s
  | .movi t => Sys2Proof.Machine.execMovi t s
  | .shi t => Sys2Proof.Machine.execShi t s
  | .cmp t => Sys2Proof.Machine.execCmp t s
  | .cmpi t => Sys2Proof.Machine.execCmpi t s
  | .cmpac t => Sys2Proof.Machine.execCmpac t s
  | .cmpa t => Sys2Proof.Machine.execCmpa t s
  | .cmpai t => Sys2Proof.Machine.execCmpai t s
  | .pand t => Sys2Proof.Machine.execPand t s
  | .por t => Sys2Proof.Machine.execPor t s
  | .pxor t => Sys2Proof.Machine.execPxor t s
  | .pandn t => Sys2Proof.Machine.execPandn t s
  | .pnot t => Sys2Proof.Machine.execPnot t s
  | .pmov t => Sys2Proof.Machine.execPmov t s
  | .pset t => Sys2Proof.Machine.execPset t s
  | .pclr t => Sys2Proof.Machine.execPclr t s
  | .pcnd t => Sys2Proof.Machine.execPcnd t s
  | .btst t => Sys2Proof.Machine.execBtst t s
  | .bset t => Sys2Proof.Machine.execBset t s
  | .bclr t => Sys2Proof.Machine.execBclr t s
  | .binv t => Sys2Proof.Machine.execBinv t s
  | .accAdd t => Sys2Proof.Machine.execAccAdd t s
  | .accAddc t => Sys2Proof.Machine.execAccAddc t s
  | .accSub t => Sys2Proof.Machine.execAccSub t s
  | .accSubb t => Sys2Proof.Machine.execAccSubb t s
  | .accAddd t => Sys2Proof.Machine.execAccAddd t s
  | .adda t => Sys2Proof.Machine.execAdda t s
  | .addas t => Sys2Proof.Machine.execAddas t s
  | .fold t => Sys2Proof.Machine.execFold t s
  | .accAnd t => Sys2Proof.Machine.execAccAnd t s
  | .accOr t => Sys2Proof.Machine.execAccOr t s
  | .accXor t => Sys2Proof.Machine.execAccXor t s
  | .accMov t => Sys2Proof.Machine.execAccMov t s
  | .accShl t => Sys2Proof.Machine.execAccShl t s
  | .accShr t => Sys2Proof.Machine.execAccShr t s
  | .accSar t => Sys2Proof.Machine.execAccSar t s
  | .insd t => Sys2Proof.Machine.execInsd t s
  | .insa t => Sys2Proof.Machine.execInsa t s
  | .extd t => Sys2Proof.Machine.execExtd t s
  | .exta t => Sys2Proof.Machine.execExta t s
  | .extah t => Sys2Proof.Machine.execExtah t s
  | .aci t => Sys2Proof.Machine.execAci t s
  | .acsh t => Sys2Proof.Machine.execAcsh t s
  | .acli t => Sys2Proof.Machine.execAcli t s
  | .achi t => Sys2Proof.Machine.execAchi t s
  | .adrAdd t => Sys2Proof.Machine.execAdrAdd t s
  | .adrSub t => Sys2Proof.Machine.execAdrSub t s
  | .adrAddc t => Sys2Proof.Machine.execAdrAddc t s
  | .adrSubb t => Sys2Proof.Machine.execAdrSubb t s
  | .adrAnd t => Sys2Proof.Machine.execAdrAnd t s
  | .adrOr t => Sys2Proof.Machine.execAdrOr t s
  | .adrXor t => Sys2Proof.Machine.execAdrXor t s
  | .adrMov t => Sys2Proof.Machine.execAdrMov t s
  | .adrShl t => Sys2Proof.Machine.execAdrShl t s
  | .adrShr t => Sys2Proof.Machine.execAdrShr t s
  | .adrSar t => Sys2Proof.Machine.execAdrSar t s
  | .adrAddd t => Sys2Proof.Machine.execAdrAddd t s
  | .movdl t => Sys2Proof.Machine.execMovdl t s
  | .movdh t => Sys2Proof.Machine.execMovdh t s
  | .movld t => Sys2Proof.Machine.execMovld t s
  | .movhd t => Sys2Proof.Machine.execMovhd t s
  | .addai t => Sys2Proof.Machine.execAddai t s
  | .movai t => Sys2Proof.Machine.execMovai t s
  | .shai t => Sys2Proof.Machine.execShai t s
  | .mulu t => Sys2Proof.Machine.execMulu t s
  | .muls t => Sys2Proof.Machine.execMuls t s
  | .mulua t => Sys2Proof.Machine.execMulua t s
  | .mulsa t => Sys2Proof.Machine.execMulsa t s
  | .mulProductLand t => Sys2Proof.Machine.execMulProductLand t s
  | .ldb t => Sys2Proof.Machine.execLdb t s
  | .stb t => Sys2Proof.Machine.execStb t s
  | .ldh t => Sys2Proof.Machine.execLdh t s
  | .sth t => Sys2Proof.Machine.execSth t s
  | .ldt t => Sys2Proof.Machine.execLdt t s
  | .stt t => Sys2Proof.Machine.execStt t s
  | .ldba t => Sys2Proof.Machine.execLdba t s
  | .bcpy t => Sys2Proof.Machine.execBcpy t s
  | .bfill t => Sys2Proof.Machine.execBfill t s
  | .jmp t => Sys2Proof.Machine.execJmp t s
  | .bra t => Sys2Proof.Machine.execBra t s
  | .call t => Sys2Proof.Machine.execCall t s
  | .bsr t => Sys2Proof.Machine.execBsr t s
  | .jmpi t => Sys2Proof.Machine.execJmpi t s
  | .calli t => Sys2Proof.Machine.execCalli t s
  | .ret t => Sys2Proof.Machine.execRet t s
  | .rete t => Sys2Proof.Machine.execRete t s
  | .loop t => Sys2Proof.Machine.execLoop t s
  | .loopr t => Sys2Proof.Machine.execLoopr t s
  | .wfe t => Sys2Proof.Machine.execWfe t s
  | .wfb t => Sys2Proof.Machine.execWfb t s
  | .wtu t => Sys2Proof.Machine.execWtu t s
  | .wtur t => Sys2Proof.Machine.execWtur t s
  | .wpu t => Sys2Proof.Machine.execWpu t s
  | .wfeEnd t => Sys2Proof.Machine.execWfeEnd t s
  | .wfbEnd t => Sys2Proof.Machine.execWfbEnd t s
  | .wtuEnd t => Sys2Proof.Machine.execWtuEnd t s
  | .wpuEnd t => Sys2Proof.Machine.execWpuEnd t s
  | .sev t => Sys2Proof.Machine.execSev t s
  | .movs t => Sys2Proof.Machine.execMovs t s
  | .drain t => Sys2Proof.Machine.execDrain t s
  | .setbnk t => Sys2Proof.Machine.execSetbnk t s
  | .setbnkr t => Sys2Proof.Machine.execSetbnkr t s
  | .sethbk t => Sys2Proof.Machine.execSethbk t s
  | .sethbkr t => Sys2Proof.Machine.execSethbkr t s
  | .sethost t => Sys2Proof.Machine.execSethost t s
  | .trap t => Sys2Proof.Machine.execTrap t s
  | .stop t => Sys2Proof.Machine.execStop t s
  | .brk t => Sys2Proof.Machine.execBrk t s
  | .sync t => Sys2Proof.Machine.execSync t s
  | .snop t => Sys2Proof.Machine.execSnop t s
  | .fadd t => Sys2Proof.Machine.execFadd t s
  | .fsub t => Sys2Proof.Machine.execFsub t s
  | .fmul t => Sys2Proof.Machine.execFmul t s
  | .fmac t => Sys2Proof.Machine.execFmac t s
  | .fdiv t => Sys2Proof.Machine.execFdiv t s
  | .fsqrt t => Sys2Proof.Machine.execFsqrt t s
  | .fcmp t => Sys2Proof.Machine.execFcmp t s
  | .xadd t => Sys2Proof.Machine.execXadd t s
  | .xsub t => Sys2Proof.Machine.execXsub t s
  | .xmul t => Sys2Proof.Machine.execXmul t s
  | .xmac t => Sys2Proof.Machine.execXmac t s
  | .xdiv t => Sys2Proof.Machine.execXdiv t s
  | .xshl t => Sys2Proof.Machine.execXshl t s
  | .xsar t => Sys2Proof.Machine.execXsar t s
  | .xcmp t => Sys2Proof.Machine.execXcmp t s
  | .ftox t => Sys2Proof.Machine.execFtox t s
  | .xtof t => Sys2Proof.Machine.execXtof t s
  | .smov t => Sys2Proof.Machine.execSmov t s
  | .xabs t => Sys2Proof.Machine.execXabs t s
  | .xneg t => Sys2Proof.Machine.execXneg t s
  | .fabs t => Sys2Proof.Machine.execFabs t s
  | .fneg t => Sys2Proof.Machine.execFneg t s
  | .xclip t => Sys2Proof.Machine.execXclip t s
  | .fclip t => Sys2Proof.Machine.execFclip t s
  | .scaleResultLand t => Sys2Proof.Machine.execScaleResultLand t s
  | .cpxOperation t ans => Sys2Proof.Machine.execCpxOperation t ans s
  | .cpxResultReturn t pred => Sys2Proof.Machine.execCpxResultReturn t pred s
  | .loadDataArrival t o => Sys2Proof.Machine.execLoadDataArrival t o s
  | .storeBufferDrain t o => Sys2Proof.Machine.execStoreBufferDrain t o s
  | .icacheLineFill h f o => Sys2Proof.Machine.execIcacheLineFill h f o s
  | .inval by_ h f => Sys2Proof.Machine.execInval by_ h f s
  | .icacheInvalEnd h f => Sys2Proof.Machine.execIcacheInvalEnd h f s
  | .pageSel by_ h f page => Sys2Proof.Machine.execPageSel by_ h f page s
  | .imemWrite port h f page off data => Sys2Proof.Machine.execImemWrite port h f page off data s
  | .eventEntry t => Sys2Proof.Machine.execEventEntry t s
  | .evKick by_ h f mask => Sys2Proof.Machine.execEvKick by_ h f mask s
  | .evPendSet by_ t mask => Sys2Proof.Machine.execEvPendSet by_ t mask s
  | .erRecordWrite by_ t lvl word v => Sys2Proof.Machine.execErRecordWrite by_ t lvl word v s
  | .budgetOverrun t => Sys2Proof.Machine.execBudgetOverrun t s
  | .crierNop c pads => Sys2Proof.Machine.execCrierNop c pads s
  | .shout c pads => Sys2Proof.Machine.execShout c pads s
  | .hear c pads => Sys2Proof.Machine.execHear c pads s
  | .setPins c pads => Sys2Proof.Machine.execSetPins c pads s
  | .await c pads => Sys2Proof.Machine.execAwait c pads s
  | .crierGoto c pads => Sys2Proof.Machine.execCrierGoto c pads s
  | .crierMove c pads => Sys2Proof.Machine.execCrierMove c pads s
  | .crierPush c pads => Sys2Proof.Machine.execCrierPush c pads s
  | .crierPull c pads => Sys2Proof.Machine.execCrierPull c pads s
  | .crierPace c pads => Sys2Proof.Machine.execCrierPace c pads s
  | .crcInit c pads => Sys2Proof.Machine.execCrcInit c pads s
  | .crcFeedOut c pads => Sys2Proof.Machine.execCrcFeedOut c pads s
  | .crcFeedIn c pads => Sys2Proof.Machine.execCrcFeedIn c pads s
  | .crcOff c pads => Sys2Proof.Machine.execCrcOff c pads s
  | .crcInsert c pads => Sys2Proof.Machine.execCrcInsert c pads s
  | .crcFeedX c pads => Sys2Proof.Machine.execCrcFeedX c pads s
  | .paceTick c => Sys2Proof.Machine.execPaceTick c s
  | .crierDelivery h b src => Sys2Proof.Machine.execCrierDelivery h b src s
  | .crTxfPush by_ c v => Sys2Proof.Machine.execCrTxfPush by_ c v s
  | .crRxfPop by_ c => Sys2Proof.Machine.execCrRxfPop by_ c s
  | .crierStart by_ h b mask => Sys2Proof.Machine.execCrierStart by_ h b mask s
  | .crierStop by_ h b mask => Sys2Proof.Machine.execCrierStop by_ h b mask s
  | .restart by_ c => Sys2Proof.Machine.execRestart by_ c s
  | .flush by_ c => Sys2Proof.Machine.execFlush by_ c s
  | .kick by_ h b mask => Sys2Proof.Machine.execKick by_ h b mask s
  | .crFifoWrite by_ c v => Sys2Proof.Machine.execCrFifoWrite by_ c v s
  | .brClkWrite by_ h b v => Sys2Proof.Machine.execBrClkWrite by_ h b v s
  | .brIdataWrite by_ h b v => Sys2Proof.Machine.execBrIdataWrite by_ h b v s
  | .instructionPageWrite port h b page w v => Sys2Proof.Machine.execInstructionPageWrite port h b page w v s
  | .barrowPageSel by_ h b page => Sys2Proof.Machine.execBarrowPageSel by_ h b page s
  | .barrowSwapCycle h b => Sys2Proof.Machine.execBarrowSwapCycle h b s
  | .pinCfgWrite port h p v => Sys2Proof.Machine.execPinCfgWrite port h p v s
  | .pinCfgShWrite port h p v => Sys2Proof.Machine.execPinCfgShWrite port h p v s
  | .pinSwitchOver h p => Sys2Proof.Machine.execPinSwitchOver h p s
  | .pinOutSet port h k v => Sys2Proof.Machine.execPinOutSet port h k v s
  | .pinOutClr port h k v => Sys2Proof.Machine.execPinOutClr port h k v s
  | .pinHoldSet port h k v => Sys2Proof.Machine.execPinHoldSet port h k v s
  | .pinHoldClr port h k v => Sys2Proof.Machine.execPinHoldClr port h k v s
  | .pinEvent h p level => Sys2Proof.Machine.execPinEvent h p level s
  | .pinEvtWrite port h p v => Sys2Proof.Machine.execPinEvtWrite port h p v s
  | .pswMapWrite port h k v => Sys2Proof.Machine.execPswMapWrite port h k v s
  | .lnCtrlWrite port h k v => Sys2Proof.Machine.execLnCtrlWrite port h k v s
  | .lnGroupWrite port h k v => Sys2Proof.Machine.execLnGroupWrite port h k v s
  | .linkBlockRx h k blk => Sys2Proof.Machine.execLinkBlockRx h k blk s
  | .linkBlockDue h k => Sys2Proof.Machine.execLinkBlockDue h k s
  | .alignBlockDue h k => Sys2Proof.Machine.execAlignBlockDue h k s
  | .axisSyncDue h k => Sys2Proof.Machine.execAxisSyncDue h k s
  | .eplasFrameRx h k bytes arr damaged => Sys2Proof.Machine.execEplasFrameRx h k bytes arr damaged s
  | .ethernetFrameRx h k bytes arr damaged => Sys2Proof.Machine.execEthernetFrameRx h k bytes arr damaged s
  | .axisSyncFrameRx h k bytes arr => Sys2Proof.Machine.execAxisSyncFrameRx h k bytes arr s
  | .laneUp h k => Sys2Proof.Machine.execLaneUp h k s
  | .laneTrainTimeout h k result => Sys2Proof.Machine.execLaneTrainTimeout h k result s
  | .laneDown h k cause => Sys2Proof.Machine.execLaneDown h k cause s
  | .fecLimitExceeded h k => Sys2Proof.Machine.execFecLimitExceeded h k s
  | .linkBlockTimeout h k => Sys2Proof.Machine.execLinkBlockTimeout h k s
  | .microword h k th => Sys2Proof.Machine.execMicroword h k th s
  | .microTrapEntry h k th => Sys2Proof.Machine.execMicroTrapEntry h k th s
  | .ptMboxWrite port h k v => Sys2Proof.Machine.execPtMboxWrite port h k v s
  | .txRun port h k run => Sys2Proof.Machine.execTxRun port h k run s
  | .rxRun port h k run => Sys2Proof.Machine.execRxRun port h k run s
  | .controlStoreWrite port h k off v => Sys2Proof.Machine.execControlStoreWrite port h k off v s
  | .tokenAcquire by_ => Sys2Proof.Machine.execTokenAcquire by_ s
  | .tokenRelease by_ force => Sys2Proof.Machine.execTokenRelease by_ force s
  | .hlAbandon by_ h mask => Sys2Proof.Machine.execHlAbandon by_ h mask s
  | .atomicAnswerArrival t => Sys2Proof.Machine.execAtomicAnswerArrival t s
  | .queueReserve by_ => Sys2Proof.Machine.execQueueReserve by_ s
  | .queueCommit by_ => Sys2Proof.Machine.execQueueCommit by_ s
  | .queueAbort by_ => Sys2Proof.Machine.execQueueAbort by_ s
  | .queuePush t => Sys2Proof.Machine.execQueuePush t s
  | .queueTake by_ => Sys2Proof.Machine.execQueueTake by_ s
  | .queueDone by_ => Sys2Proof.Machine.execQueueDone by_ s
  | .queueReturn by_ => Sys2Proof.Machine.execQueueReturn by_ s
  | .queuePop t => Sys2Proof.Machine.execQueuePop t s
  | .hostQueuePopReturn h q => Sys2Proof.Machine.execHostQueuePopReturn h q s
  | .queueDescriptorWrite port h q off v => Sys2Proof.Machine.execQueueDescriptorWrite port h q off v s
  | .blRing by_ h mask => Sys2Proof.Machine.execBlRing by_ h mask s
  | .dbRing by_ mask => Sys2Proof.Machine.execDbRing by_ mask s
  | .cartStart port h c => Sys2Proof.Machine.execCartStart port h c s
  | .cartAbort port h c => Sys2Proof.Machine.execCartAbort port h c s
  | .cartPause port h c => Sys2Proof.Machine.execCartPause port h c s
  | .cartResume port h c => Sys2Proof.Machine.execCartResume port h c s
  | .cartEngineResume port h => Sys2Proof.Machine.execCartEngineResume port h s
  | .cartDescriptorLoad h c o => Sys2Proof.Machine.execCartDescriptorLoad h c o s
  | .cartBurstRead h c o => Sys2Proof.Machine.execCartBurstRead h c o s
  | .cartBurstWrite h c o => Sys2Proof.Machine.execCartBurstWrite h c o s
  | .cartWriteAck h c => Sys2Proof.Machine.execCartWriteAck h c s
  | .cartQueueRetry h c => Sys2Proof.Machine.execCartQueueRetry h c s
  | .cartStatusWriteAck h c o => Sys2Proof.Machine.execCartStatusWriteAck h c o s
  | .cartHalt h write kind addr => Sys2Proof.Machine.execCartHalt h write kind addr s
  | .hostReadData id data => Sys2Proof.Machine.execHostReadData id data s
  | .hostWriteResponse id => Sys2Proof.Machine.execHostWriteResponse id s
  | .hostErrorResponse id kind => Sys2Proof.Machine.execHostErrorResponse id kind s
  | .orderDoorbell port n v => Sys2Proof.Machine.execOrderDoorbell port n v s
  | .orCtrlWrite port n v => Sys2Proof.Machine.execOrCtrlWrite port n v s
  | .orderFetchComplete n => Sys2Proof.Machine.execOrderFetchComplete n s
  | .loadImage o image len flags => Sys2Proof.Machine.execLoadImage o image len flags s
  | .swapAt o loaded trigger axis dir value => Sys2Proof.Machine.execSwapAt o loaded trigger axis dir value s
  | .startTraders o hall stall mask flags entry => Sys2Proof.Machine.execStartTraders o hall stall mask flags entry s
  | .stopTraders o hall stall mask => Sys2Proof.Machine.execStopTraders o hall stall mask s
  | .claim o entries => Sys2Proof.Machine.execClaim o entries s
  | .claimRelease o owner entries => Sys2Proof.Machine.execClaimRelease o owner entries s
  | .clear o area hall stall off len => Sys2Proof.Machine.execClear o area hall stall off len s
  | .clearBlockDone job => Sys2Proof.Machine.execClearBlockDone job s
  | .trainLane o lane => Sys2Proof.Machine.execTrainLane o lane s
  | .loadMicrocode o lane patch => Sys2Proof.Machine.execLoadMicrocode o lane patch s
  | .microcodeFetchComplete job bytes => Sys2Proof.Machine.execMicrocodeFetchComplete job bytes s
  | .microcodeQreqTimeout job => Sys2Proof.Machine.execMicrocodeQreqTimeout job s
  | .microcodeWriteComplete job => Sys2Proof.Machine.execMicrocodeWriteComplete job s
  | .calibrateAxis o axis flags ref dur preset result => Sys2Proof.Machine.execCalibrateAxis o axis flags ref dur preset result s
  | .calibrateEnd job => Sys2Proof.Machine.execCalibrateEnd job s
  | .cartJob o hall chan flags head => Sys2Proof.Machine.execCartJob o hall chan flags head s
  | .powerLevel o pl => Sys2Proof.Machine.execPowerLevel o pl s
  | .powerIdle o => Sys2Proof.Machine.execPowerIdle o s
  | .powerNap o resumePl flags => Sys2Proof.Machine.execPowerNap o resumePl flags s
  | .powerOff o resumePl flags => Sys2Proof.Machine.execPowerOff o resumePl flags s
  | .windDown o axis profile flags timeout => Sys2Proof.Machine.execWindDown o axis profile flags timeout s
  | .jobSuspend o target => Sys2Proof.Machine.execJobSuspend o target s
  | .jobResume o target => Sys2Proof.Machine.execJobResume o target s
  | .jobCancel o target => Sys2Proof.Machine.execJobCancel o target s
  | .jobStart job => Sys2Proof.Machine.execJobStart job s
  | .chitWrite n => Sys2Proof.Machine.execChitWrite n s
  | .chitWriteComplete n => Sys2Proof.Machine.execChitWriteComplete n s
  | .chitAcknowledge port n v => Sys2Proof.Machine.execChitAcknowledge port n v s
  | .crCtrlWrite port n v => Sys2Proof.Machine.execCrCtrlWrite port n v s
  | .chitMaskSet port k v => Sys2Proof.Machine.execChitMaskSet port k v s
  | .chitMaskClr port k v => Sys2Proof.Machine.execChitMaskClr port k v s
  | .chitPendSet port k v => Sys2Proof.Machine.execChitPendSet port k v s
  | .chitPendClr port k v => Sys2Proof.Machine.execChitPendClr port k v s
  | .imageSectionFetched job bytes => Sys2Proof.Machine.execImageSectionFetched job bytes s
  | .swapCommit => Sys2Proof.Machine.execSwapCommit s
  | .stallSwapRotation h f => Sys2Proof.Machine.execStallSwapRotation h f s
  | .windRelease port h => Sys2Proof.Machine.execWindRelease port h s
  | .windDownTimeout => Sys2Proof.Machine.execWindDownTimeout s
  | .powerOnReset => Sys2Proof.Machine.execPowerOnReset s
  | .deviceReset src => Sys2Proof.Machine.execDeviceReset src s
  | .hallReset h => Sys2Proof.Machine.execHallReset h s
  | .stallReset h f => Sys2Proof.Machine.execStallReset h f s
  | .porterReset h k => Sys2Proof.Machine.execPorterReset h k s
  | .memoryClearDone => Sys2Proof.Machine.execMemoryClearDone s
  | .bootRomStart => Sys2Proof.Machine.execBootRomStart s
  | .clockSwitch by_ => Sys2Proof.Machine.execClockSwitch by_ s
  | .corePllLock => Sys2Proof.Machine.execCorePllLock s
  | .supplySettled => Sys2Proof.Machine.execSupplySettled s
  | .sleepEntryComplete => Sys2Proof.Machine.execSleepEntryComplete s
  | .wakePin slot level => Sys2Proof.Machine.execWakePin slot level s
  | .i2cAddressMatch byte_ => Sys2Proof.Machine.execI2cAddressMatch byte_ s
  | .sleepAgentAccess port addr write => Sys2Proof.Machine.execSleepAgentAccess port addr write s
  | .temperatureSample temps => Sys2Proof.Machine.execTemperatureSample temps s
  | .scrubRead h addr => Sys2Proof.Machine.execScrubRead h addr s
  | .cfgParity t addr n => Sys2Proof.Machine.execCfgParity t addr n s
  | .lockstepMismatch h j => Sys2Proof.Machine.execLockstepMismatch h j s
  | .ftLockstepWrite port h v => Sys2Proof.Machine.execFtLockstepWrite port h v s
  | .failRequest port h role => Sys2Proof.Machine.execFailRequest port h role s
  | .failRelease port h => Sys2Proof.Machine.execFailRelease port h s
  | .failoverSwitch h => Sys2Proof.Machine.execFailoverSwitch h s
  | .failoverRelease h => Sys2Proof.Machine.execFailoverRelease h s
  | .debugHalt t => Sys2Proof.Machine.execDebugHalt t s
  | .debugRelease t => Sys2Proof.Machine.execDebugRelease t s
  | .dbgEnFall => Sys2Proof.Machine.execDbgEnFall s
  | .resetRelease porst => Sys2Proof.Machine.execResetRelease porst s
  | .windowMemoryWrite port addr data => Sys2Proof.Machine.execWindowMemoryWrite port addr data s
  | .fecCodewordDecoded h k res inFrame => Sys2Proof.Machine.execFecCodewordDecoded h k res inFrame s
  | .padLevelSample h p level => Sys2Proof.Machine.execPadLevelSample h p level s
  | .swapTillInstant => Sys2Proof.Machine.execSwapTillInstant s
  | .dbgEnRise => Sys2Proof.Machine.execDbgEnRise s
  | .testMode on => Sys2Proof.Machine.execTestMode on s
  | .debugBreakpoints on => Sys2Proof.Machine.execDebugBreakpoints on s
  | .activitySignalEnd h k => Sys2Proof.Machine.execActivitySignalEnd h k s
  | .imageHeaderFetched job bytes => Sys2Proof.Machine.execImageHeaderFetched job bytes s

end Sys2Proof.Machine
end

