-- ==== Sys2Proof/Machine/Step.lean ====
section
/-! DEFINITION. One step of the tile: the command at the front of the queue takes effect; on an empty queue time passes
(assumption log 2). -/

namespace Sys2Proof.Machine

/-- One step. -/
def step (s : State) : Host.Outcome State Fault Refusal :=
  match s.pending with
  | [] => .next s.pass
  | c :: rest => exec c { s with pending := rest }

/-- The state with the command that a word spells put in front of its queue; no word spells one. -/
def State.withFetchWord (s : State) (nbits w : Nat) : State :=
  match decodeTableWord nbits w with
  | some c => { s with pending := c :: s.pending }
  | none => s

end Sys2Proof.Machine
end

