-- ==== Sys2Proof/Safety.lean ====
section
/-! DEFINITION. The terms in which claims about the tile are made: the invariant of every step, what a command completes
with, and the states in which a trader issues an instruction. -/

namespace Sys2Proof.Machine

/-- The invariant of the model's data: the memory is in its canonical form, and no register has two values. -/
structure State.Inv (s : State) : Prop where
  mem : s.mem.wf = true
  regs : (Tab.keys s.regs).Nodup

/-- The command answers a next state, of which `P` holds. -/
def Completes (c : Instr) (s : State) (P : State → Prop) : Prop := ∃ s', exec c s = .next s' ∧ P s'

/-- The chit of identity `id` is in service or pending with data and till as given (R339, R343). -/
def State.showsChit (s : State) (id : ChitId) (data till : Nat) : Prop :=
  ∃ c ∈ s.chits, c.id = id ∧ ((c.body.data = data ∧ c.body.till = till) ∨
    ∃ b, c.pend = some b ∧ b.data = data ∧ b.till = till)

/-- The table of R343 has room for a chit that is no JOB chit. -/
def State.chitRoom (s : State) : Prop := s.chitLoad < 4096 - 512

/-- The state but for its registers, and for what R9 keeps of the tick in which their bits were set. -/
def State.noRegs (s : State) : State := { s with regs := [], hwSet := [], swSet := [] }

/-- Every register but those of the list reads as before. -/
def State.regsBut (s s' : State) (rs : List Reg) : Prop := ∀ r, r ∉ rs → s'.rd r = s.rd r

/-- Of pads and axes nothing changes but what a pad in its held cycle keeps, what pads carried before, and the falling edge that an SSI axis times, when a
source of pads changes (R206, R32). -/
def State.padsNote (s s' : State) : Prop :=
  (∀ h i, { s'.pin h i with keep := none, capture := none, hist := [] } = { s.pin h i with keep := none, capture := none, hist := [] }) ∧
    ∀ n, { s'.axis n with ssiFall := none } = { s.axis n with ssiFall := none }

/-- Of the lanes only lane k of hall h changes, to `l`, and nothing but registers beside it. -/
def State.laneOnly (s s' : State) (h k : Nat) (l : Lane) : Prop :=
  s'.lane h k = l ∧ (∀ a b, (a, b) ≠ (h, k) → s'.lane a b = s.lane a b) ∧ { s'.noRegs with lanes := s.lanes } = s.noRegs

/-- The same, where a signal of the lane that pads may carry has changed as well (R264). -/
def State.laneAndPads (s s' : State) (h k : Nat) (l : Lane) : Prop :=
  s'.lane h k = l ∧ (∀ a b, (a, b) ≠ (h, k) → s'.lane a b = s.lane a b) ∧
    { s'.noRegs with lanes := s.lanes, pins := s.pins, axes := s.axes } = s.noRegs ∧ s.padsNote s'

/-- The registers of 32 bits in the host window whose write only sets their fields by their access codes (R8). -/
def plainNames : List RegName :=
  [.TILL_STATUS, .TILL_CTRL, .JOB_QUERY, .PWR_CTRL, .PWR_VSETTLE, .WK_CTRL, .WK_CAUSE, .WK_I2C, .FT_DSTATUS, .FT_THERM_CTRL,
   .TAX_STATUS, .TAX_SRC, .TAX_GAIN, .TAX_LIMITS, .TAX_VMIN, .TAX_LATENCY, .HP_STATUS, .OR_STATUS, .CR_STATUS, .CHIT_MASK_SET,
   .CHIT_PEND_SET, .CHIT_ROUTE, .WK_PIN, .TM_STATUS, .TM_ACTION, .TM_PULSE, .STL_STATUS, .STL_CODE_BASE, .STL_HWIN, .EV_HSEL,
   .BW_CTRL, .BW_STATUS, .BW_SEL, .BW_HLIMIT01, .BW_HLIMIT23, .BW_TABLE, .TR_UNSCHED, .TR_IMISS] ++
  [.EV_EN_SET, .EV_OVR, .EV_ROUTE, .EV_TRAPLVL, .EV_HSEL01, .EV_HSEL23, .EV_HSEL45, .EV_HSEL67, .EV_STATUS, .EV_VEC01,
   .EV_VEC23, .BR_IADDR, .CR_STATUS_C, .CR_EXEC, .CR_SHIFT, .CR_PINS, .CR_X, .CR_Y, .CR_CRC_CFG, .CR_CRC_POLY, .CR_CRC_INIT,
   .PIN_STATUS, .PSW_MAP0_SH, .PSW_MAP1_SH, .PSW_STATUS, .LN_FAULT, .LN_SB, .LN_SYNC_CTRL, .LN_SYNC_ASYM, .LN_AXS_TX] ++
  [.PT_STATUS, .PT_ENTRY, .PT_PARAM, .STREAM, .HL_STATUS, .HL_LEVY0, .HL_LEVY1, .HL_HOSTLEVY, .TK_HWORD, .QH_SEL, .CH_STATUS,
   .HS_HOSTCAP, .FT_HSTATUS, .FT_WIND, .FT_CORR_LIMIT, .FT_ROLE]

/-! ## A trader that issues (R98, R99, R107, R127) -/

/-- The state in the owned slot of an attempt to issue: what is complete when the next instruction issues takes effect, the slot
count advances, and what is due at it lands. -/
def State.inSlot (s : State) (t : TraderId) : State := (s.finishes t).ownSlot t ((s.finishes t).cur t)

/-- The trader may issue the word `w` and does: it owns a slot in which it may issue, no instruction of its is in progress,
its fetch finds `w` without an error mark, `w` is legal, its guard is true, and no load and no Scale result of the trader is
outstanding. -/
structure State.Issues (s : State) (t : TraderId) (w : Nat) : Prop where
  can : s.canIssue t = true
  fresh : (s.trader t).prog = none
  word : (s.finishes t).fetch t = .word w
  legal : illegalCause w = 0
  clean : (s.finishes t).fetchMark t = none
  guard : ((s.inSlot t).trader t).guard w = true
  loads : ((s.inSlot t).trader t).loads = []
  scale : ((s.inSlot t).trader t).scq = []

/-- The slot at hand is the last one of the instruction `w`, of which `n` slots is the cost: it issues and costs one slot, or it
is in progress and has one slot to go. -/
def State.AtLast (s : State) (t : TraderId) (w n : Nat) : Prop :=
  (s.Issues t w ∧ n = 1) ∨ (s.canIssue t = true ∧ ∃ p, (s.trader t).prog = some p ∧ p.word = w ∧ p.left = 1 ∧ p.nul = false ∧ p.first = false)

/-- The state in which the instruction `w` takes effect: its last slot, with its word taken. -/
def State.final (s : State) (t : TraderId) (w : Nat) : State :=
  if (s.trader t).prog.isSome then s.ownSlot t (s.cur t) else (s.inSlot t).took t w

/-- After the effect of an instruction that was in progress in `s`, it is so no more. -/
def State.ended (s : State) (t : TraderId) (after : State) : State :=
  if (s.trader t).prog.isSome then after.upd t (fun tr => { tr with prog := none }) else after

/-- The instruction `w` of `n` slots begins in the slot at hand, and is then in progress. -/
def State.begins (s : State) (t : TraderId) (w n : Nat) : State :=
  ((s.inSlot t).took t w).upd t (fun tr => { tr with prog := some { word := w, left := n - 1, nul := false } })

/-- The trader as its instruction finds it. -/
def State.at_ (s : State) (t : TraderId) (w : Nat) : Trader := (s.final t w).trader t

/-- The state after an instruction of one issue slot that leaves its trader as `tr`, but for the end check (R107). -/
def State.leaves (s : State) (t : TraderId) (w : Nat) (tr : Trader) : State := ((s.final t w).setTrader t tr).endCheck t

/-! ## A crier that issues (R178 to R181) -/

/-- The crier issues the word `w` of a row in crier cycle `n`: the cycle has begun, a fetch of that cycle receives the word, which
stands at its PC without an error mark, it is legal, and no port access of a cycle that the crier has not passed waits to take
effect. -/
structure State.CrierIssues (s : State) (c : CrierId) (row w n : Nat) : Prop where
  slot : s.crierSlot c = some n
  word : s.wordAt c.h c.b n (s.brPage c.h c.b) (s.get CR_STATUS_C.PC c.ix) = w
  row : crierRow w = row
  legal : crierLegal w = true
  clean : s.errorIn (.crierPage c.h c.b (s.brPage c.h c.b)) (4 * s.get CR_STATUS_C.PC c.ix) 3 = none
  ports : Tab.find s.crWas c = none

/-- Nothing changes but what belongs to the crier, what it has written in its latest cycle, the levels that its barrow has read,
what pads in their held cycle keep, and axes that the crier feeds or clocks. -/
def State.crierOnly (s s' : State) (c : CrierId) : Prop :=
  { s'.noRegs with criers := s.criers, crDid := s.crDid, barrows := s.barrows, pins := s.pins, axes := s.axes } = s.noRegs ∧
    (∀ d, d ≠ c → s'.crier d = s.crier d) ∧ (∀ h i, { s'.pin h i with keep := none } = { s.pin h i with keep := none }) ∧
    ∀ r : Reg, ¬(r.a = c.h ∧ r.b = c.b ∧ r.c = c.c) → s'.rd r = s.rd r

/-- The crier has completed in cycle `n` and goes on at `pc`. -/
def State.crierWent (s s' : State) (c : CrierId) (w n pc : Nat) : Prop :=
  s'.get CR_STATUS_C.PC c.ix = pc ∧ s'.get CR_STATUS_C.STATE c.ix = 1 ∧ (s'.crier c).next = n + 1 + cDelay w ∧
    (s'.crier c).stalled = none ∧ s.crierOnly s' c

/-- The crier has completed in cycle `n` and goes on at the next address. -/
def State.crierNext (s s' : State) (c : CrierId) (w n : Nat) : Prop :=
  s.crierWent s' c w n (s.crierNextPc c (s.get CR_STATUS_C.PC c.ix))

/-- The crier stalls in cycle `n` with a value of STATE, and issues again in the next one. -/
def State.crierStalls (s s' : State) (c : CrierId) (n code : Nat) : Prop :=
  s'.get CR_STATUS_C.PC c.ix = s.get CR_STATUS_C.PC c.ix ∧ s'.get CR_STATUS_C.STATE c.ix = code ∧
    (s'.crier c).next = n + 1 ∧ (s'.crier c).stalled.isSome = true ∧ s.crierOnly s' c

/-! ## Orders that are accepted (R323 to R325) -/

/-- The record of the job that an order makes. -/
def State.newJob (s : State) (o : OrderHdr) (b : JobBody) : Job :=
  { num := o.job, ring := o.ring, htag := o.htag.toNat, fence := bit o.flags 1, body := b, seq := s.jobSeq }

/-- The job of an order has entered the job table. -/
def State.withJob (s : State) (o : OrderHdr) (b : JobBody) : State :=
  { s with jobs := s.jobs ++ [s.newJob o b], jobSeq := s.jobSeq + 1 }

/-- No check of R325 refuses the order, and the order engine takes orders. -/
structure State.Accepts (s : State) (o : OrderHdr) (x : Order) : Prop where
  flags : o.flags < 4
  fields : x.fieldsOk = true
  number : if x.isJob then 1 ≤ o.job ∧ o.job < 0xFFF0 ∧ s.job o.job = none ∧ s.jobs.length < 512 else o.job = 0
  unit : s.noUnit x = false
  awake : s.asleep = false
  quiet : s.faults = []

/-- The order makes a job that finds nothing to wait for (R335). -/
def State.Starts (s : State) (o : OrderHdr) (b : JobBody) : Prop :=
  s.Accepts o (.job b) ∧ (s.withJob o b).startable (s.newJob o b) = true ∧
    ∀ t r f, b = .power t r f → (s.withJob o b).powerBusy o.job = false

/-- The job of a number stands in a state with a reason. -/
def State.jobIs (s : State) (n : Nat) (st : JobState) (reason : Nat := 0) : Prop :=
  ∃ j, s.job n = some j ∧ j.state = st ∧ j.reason = reason

/-! ## Results of `n` bits, on numbers (R105, R128) -/

/-- A number that a signed number of `n` bits cannot hold. -/
def overflows (n : Nat) (i : Int) : Bool := decide (i < -(2 ^ (n - 1) : Int)) || decide ((2 ^ (n - 1) : Int) ≤ i)

/-- A sum: the result, the carry and the signed overflow. -/
def sumOf (n a b cin : Nat) : Nat × Bool × Bool :=
  ((a + b + cin) % 2 ^ n, decide (2 ^ n ≤ a + b + cin), overflows n (sgn n a + sgn n b + cin))

/-- A difference: the result, the borrow and the signed overflow. -/
def diffOf (n a b bin : Nat) : Nat × Bool × Bool :=
  ((a + 2 ^ n - b - bin) % 2 ^ n, decide (a < b + bin), overflows n (sgn n a - sgn n b - bin))

/-- A shift or rotate of `v` by `k`: the result, and C, which an amount of 0 keeps. -/
def shiftOf (kind : ShKind) (n v k : Nat) (c : Bool) : Nat × Bool :=
  if k = 0 then (v, c)
  else match kind with
    | .shl => (v * 2 ^ k % 2 ^ n, v / 2 ^ (n - k) % 2 == 1)
    | .shr => (v / 2 ^ k, v / 2 ^ (k - 1) % 2 == 1)
    | .sar => ((sgn n v / 2 ^ k % 2 ^ n).toNat, v / 2 ^ (k - 1) % 2 == 1)
    | .rol => ((v * 2 ^ k + v / 2 ^ (n - k)) % 2 ^ n, v / 2 ^ (n - k) % 2 == 1)
    | .ror => ((v / 2 ^ k + v * 2 ^ (n - k)) % 2 ^ n, v / 2 ^ (k - 1) % 2 == 1)

/-- The biased exponent of a binary32 number, and its kinds: finite, and finite and normal. -/
def f32Exp (x : Nat) : Nat := x / 2 ^ 23 % 256
def f32Finite (x : Nat) : Prop := f32Exp x < 255
def f32Normal (x : Nat) : Prop := x < 2 ^ 32 ∧ 1 ≤ f32Exp x ∧ f32Exp x < 255

/-- The value of a finite binary32 operand in units of 2^-149; a subnormal one reads as zero (R147). -/
def f32Units (x : Nat) : Int :=
  (if x / 2 ^ 31 % 2 = 1 then -1 else 1) * (if f32Exp x = 0 then 0 else ((2 ^ 23 + x % 2 ^ 23) * 2 ^ (f32Exp x - 1) : Nat))

/-- No Scale register of the trader carries an error mark. -/
def State.scSound (s : State) (t : TraderId) : Prop := ∀ i < 16, Tab.find s.ecc (scWord t i) = none

/-- The trader with a result of `n` bits in FL: Z and N from it, C and V as given. -/
def Trader.withFl (tr : Trader) (n r : Nat) (c v : Bool) : Trader :=
  { tr with z := decide (r = 0), n := decide (2 ^ (n - 1) ≤ r), c := c, v := v }

/-- A result with its flags in a data register, an address register, an accumulator. -/
def Trader.resD (tr : Trader) (i : Nat) (x : Nat × Bool × Bool) : Trader := (tr.setD i x.1).withFl 8 x.1 x.2.1 x.2.2
def Trader.resA (tr : Trader) (i : Nat) (x : Nat × Bool × Bool) : Trader := (tr.setA i x.1).withFl 16 x.1 x.2.1 x.2.2
def Trader.resAc (tr : Trader) (i : Nat) (x : Nat × Bool × Bool) : Trader := (tr.setAc i x.1).withFl 24 x.1 x.2.1 x.2.2

/-- A logical result, which keeps C and V, and the result of a shift, which keeps V. -/
def Trader.keepCV (tr : Trader) (r : Nat) : Nat × Bool × Bool := (r, tr.c, tr.v)
def Trader.keepV (tr : Trader) (x : Nat × Bool) : Nat × Bool × Bool := (x.1, x.2, tr.v)

end Sys2Proof.Machine
end

