-- ==== Sys2Proof/Certificates/Slice0/Obligations.lean ====
section
/-! DEFINITION. The statements about the tile. Each statement is a conjunction of the claims it names; the claims stand
beside each other by the chapters of the spec, and each cites the rules it follows. -/

open Sys2Proof Sys2Proof.Machine

/-! ## The queue, reset and every step -/

/-- A step takes the command at the front of the queue and answers what exec answers for it, with the queue's rest. -/
def Claims.StepRunsFrontCommand : Prop :=
  ∀ (c : Instr) (s : State), step { s with pending := c :: s.pending } = exec c s

/-- On an empty queue a step lets time pass (the model's choice, assumption log 2): one tick, or one LFO cycle of R29 while the
till counts the LFO; where no lane sends or is up and nothing waits for an edge of the hall clock, nothing else changes but that
pads in their held cycle keep what they carry. -/
def Claims.EmptyQueuePassesTime : Prop :=
  ∀ (s : State), s.pending = [] → ∃ s', step s = .next s' ∧ s'.pending = [] ∧
    ((∀ k ∈ Tab.keys s.lanes, s.sending k.1 k.2 = false ∧ s.laneUp k.1 k.2 = false) → s.edgeActs = [] →
      (s.till.clk ≠ .lfo → { s' with pins := s.pins } = { s with tick := s.tick + 1 }) ∧
      (∀ h i, { s'.pin h i with keep := none } = { s.pin h i with keep := none }) ∧
      (s.till.clk = .lfo →
        let inc := s.get TILL_LFO_INC.INC_INT * 256 + s.get TILL_LFO_INC.INC_FRAC
        s'.tick * 256 + s'.till.frac = s.tick * 256 + s.till.frac + inc ∧ s'.till.frac < 256 ∧
        s'.is TILL_STATUS.SLEEP_SPAN = true ∧ s.regsBut s' [({} : Ix).reg .TILL_STATUS] ∧
        { s'.noRegs with tick := s.tick, till := s.till, pins := s.pins } = s.noRegs))

/-- R27, R374, R378: at power-on reset the till is 0 and counts on the FIO, FULL is 0 at level PL0, every register has the
value of its At reset column, no trader runs and nothing is queued. That SRAM reads 0 from the start, and that registers
without such a column are 0, are the model's choices. -/
def Claims.ResetState : Prop :=
  let s := State.reset
  s.tick = 0 ∧ s.till.clk = .fio ∧ s.is TILL_STATUS.COARSE = true ∧ s.is TILL_STATUS.LOCKED = false ∧
  s.rd (({} : Ix).reg .TILL_LFO_INC) = 0x07735940 ∧ s.is PWR_STATUS.FULL = false ∧ s.get PWR_STATUS.PL = 0 ∧
  (∀ r : Reg, s.rd r = r.resetValue s.part) ∧ (∀ t, (s.trader t).running = false) ∧ (∀ y, Memory.read s.mem y = 0) ∧
  s.jobs = [] ∧ s.images = [] ∧ s.swaps = [] ∧ s.chits = [] ∧ s.reqs = [] ∧ s.faults = [] ∧ s.pending = []

/-- The reset state meets the invariant of every step. -/
def Claims.ResetMeetsInvariant : Prop := State.reset.Inv

/-- From every state that meets the invariant, a step that answers a next state leaves one that meets it: the memory stays
in its canonical form and no register gets a second value. A step also never changes what the part and the integrator fix,
puts no command in the queue, takes none but the front one, and uses no free value twice. -/
def Claims.StepKeepsInvariant : Prop :=
  ∀ (s s' : State), s.Inv → step s = .next s' →
    s'.Inv ∧ s'.part = s.part ∧ s'.pending = s.pending.tail ∧ s.freeIx ≤ s'.freeIx

/-- No command of the table ends in a fault or a refusal: in every state each of them answers a next state. -/
def Claims.EveryCommandAnswersNext : Prop :=
  ∀ (c : Instr) (s : State), ∃ s', exec c s = .next s'

/-! ## The data ALU, compares, predicates, accumulators, addresses and products (R129 to R133) -/

/-- R129, R128: the instructions on two D registers. -/
def Claims.DataAluOnTwoRegisters : Prop :=
  ∀ (s : State) (t : TraderId) (w : Nat), s.Issues t w →
    let tr := s.at_ t w
    let a := tr.dr (fS1 w)
    let b := tr.dr (fS2 w)
    let res (x : Nat × Bool × Bool) : Out := .next (s.leaves t w (tr.resD (fDst w) x))
    (keyOf w = key 0x00 0x01 → exec (.add t) s = res (sumOf 8 a b 0)) ∧
    (keyOf w = key 0x00 0x02 → exec (.addc t) s = res (sumOf 8 a b (b2n tr.c))) ∧
    (keyOf w = key 0x00 0x03 → exec (.sub t) s = res (diffOf 8 a b 0)) ∧
    (keyOf w = key 0x00 0x04 → exec (.subb t) s = res (diffOf 8 a b (b2n tr.c))) ∧
    (keyOf w = key 0x00 0x05 → exec (.andD t) s = res (tr.keepCV (a &&& b))) ∧
    (keyOf w = key 0x00 0x06 → exec (.orD t) s = res (tr.keepCV (a ||| b))) ∧
    (keyOf w = key 0x00 0x07 → exec (.xorD t) s = res (tr.keepCV (a ^^^ b))) ∧
    (keyOf w = key 0x00 0x0B → exec (.shl t) s = res (tr.keepV (shiftOf .shl 8 a (b % 8) tr.c))) ∧
    (keyOf w = key 0x00 0x0C → exec (.shr t) s = res (tr.keepV (shiftOf .shr 8 a (b % 8) tr.c))) ∧
    (keyOf w = key 0x00 0x0D → exec (.sar t) s = res (tr.keepV (shiftOf .sar 8 a (b % 8) tr.c))) ∧
    (keyOf w = key 0x00 0x0E → exec (.rol t) s = res (tr.keepV (shiftOf .rol 8 a (b % 8) tr.c))) ∧
    (keyOf w = key 0x00 0x0F → exec (.ror t) s = res (tr.keepV (shiftOf .ror 8 a (b % 8) tr.c))) ∧
    (keyOf w = key 0x00 0x10 → exec (.minu t) s = res (tr.keepCV (if a ≤ b then a else b))) ∧
    (keyOf w = key 0x00 0x11 → exec (.maxu t) s = res (tr.keepCV (if a ≤ b then b else a)))

/-- R129, R128: the instructions on one D register, with an immediate, and NOP. -/
def Claims.DataAluOnOneRegister : Prop :=
  ∀ (s : State) (t : TraderId) (w : Nat), s.Issues t w →
    let tr := s.at_ t w
    let a := tr.dr (fS1 w)
    let m := w % 256
    let res (x : Nat × Bool × Bool) : Out := .next (s.leaves t w (tr.resD (fDst w) x))
    (keyOf w = key 0x00 0x00 → exec (.nop t) s = .next (s.leaves t w tr)) ∧
    (keyOf w = key 0x00 0x08 → exec (.notD t) s = res (tr.keepCV (255 - a))) ∧
    (keyOf w = key 0x00 0x09 → exec (.neg t) s = res (diffOf 8 0 a 0)) ∧
    (keyOf w = key 0x00 0x0A → exec (.mov t) s = .next (s.leaves t w (tr.setD (fDst w) a))) ∧
    (keyOf w = key 0x00 0x12 → ∃ r, exec (.rev t) s = res (tr.keepCV r) ∧ r < 256 ∧
      ∀ i < 8, r.testBit i = a.testBit (7 - i)) ∧
    (keyOf w = key 0x00 0x13 → exec (.popc t) s = res (tr.keepCV ((List.range 8).countP (fun i => a.testBit i)))) ∧
    (keyOf w = key 0x01 → exec (.addi t) s = res (sumOf 8 a m 0)) ∧
    (keyOf w = key 0x02 → exec (.andi t) s = res (tr.keepCV (a &&& m))) ∧
    (keyOf w = key 0x03 → exec (.ori t) s = res (tr.keepCV (a ||| m))) ∧
    (keyOf w = key 0x04 → exec (.xori t) s = res (tr.keepCV (a ^^^ m))) ∧
    (keyOf w = key 0x05 → exec (.movi t) s = .next (s.leaves t w (tr.setD (fDst w) m))) ∧
    (keyOf w = key 0x06 →
      exec (.shi t) s = res (tr.keepV (shiftOf (ShKind.of (bits w 10 8)) 8 a (w % 8) tr.c)))

/-- R130, R104, R120: compares, predicate operations and the bit instructions; FL stands, and a write to P0 has no
effect. -/
def Claims.ComparesPredicatesAndBits : Prop :=
  ∀ (s : State) (t : TraderId) (w : Nat), s.Issues t w →
    let tr := s.at_ t w
    let a := tr.dr (fS1 w)
    let x := tr.pr (fS1 w)
    let y := tr.pr (fS2 w)
    let n := w % 8
    let p (b : Bool) : Out :=
      .next (s.leaves t w (if fDst w = 0 then tr else { tr with p := tr.p.setIfInBounds (fDst w) b }))
    let d (r : Nat) : Out := .next (s.leaves t w (tr.setD (fDst w) r))
    (keyOf w = key 0x07 → exec (.cmp t) s = p (condW 8 (bits w 11 8) a (tr.dr (fS2 w)))) ∧
    (keyOf w = key 0x08 → exec (.cmpi t) s = p (condW 8 (bits w 15 12) a (w % 256))) ∧
    (keyOf w = key 0x15 → exec (.cmpac t) s = p (condW 24 (bits w 11 8) (tr.acr (fS1 w)) (tr.acr (fS2 w)))) ∧
    (keyOf w = key 0x1C → exec (.cmpa t) s = p (condW 16 (bits w 11 8) (tr.ar (fS1 w)) (tr.ar (fS2 w)))) ∧
    (keyOf w = key 0x1D → exec (.cmpai t) s = p (condW 16 (bits w 15 12) (tr.ar (fS1 w)) (w % 4096))) ∧
    (keyOf w = key 0x0A 0 → exec (.pand t) s = p (x && y)) ∧
    (keyOf w = key 0x0A 1 → exec (.por t) s = p (x || y)) ∧
    (keyOf w = key 0x0A 2 → exec (.pxor t) s = p (xor x y)) ∧
    (keyOf w = key 0x0A 3 → exec (.pandn t) s = p (x && !y)) ∧
    (keyOf w = key 0x0A 4 → exec (.pnot t) s = p (!x)) ∧
    (keyOf w = key 0x0A 5 → exec (.pmov t) s = p x) ∧
    (keyOf w = key 0x0A 6 → exec (.pset t) s = p true) ∧
    (keyOf w = key 0x0A 7 → exec (.pclr t) s = p false) ∧
    (keyOf w = key 0x0A 0x10 → exec (.pcnd t) s = p (condFl (bits w 11 8) tr.z tr.n tr.c tr.v)) ∧
    (keyOf w = key 0x0B 0 → exec (.btst t) s = p (a.testBit n)) ∧
    (keyOf w = key 0x0B 1 → ∃ r, exec (.bset t) s = d r ∧ r < 256 ∧
      ∀ i < 8, r.testBit i = (decide (i = n) || a.testBit i)) ∧
    (keyOf w = key 0x0B 2 → ∃ r, exec (.bclr t) s = d r ∧ r < 256 ∧
      ∀ i < 8, r.testBit i = (!decide (i = n) && a.testBit i)) ∧
    (keyOf w = key 0x0B 3 → ∃ r, exec (.binv t) s = d r ∧ r < 256 ∧
      ∀ i < 8, r.testBit i = xor (decide (i = n)) (a.testBit i))

/-- R117, R130: the condition that a compare tests on two values of `n` bits is the one that PCND reads from FL after their
subtraction. -/
def Claims.ConditionsAgreeWithFlags : Prop :=
  ∀ (n a b c : Nat), n = 8 ∨ n = 16 ∨ n = 24 → a < 2 ^ n → b < 2 ^ n → c < 10 →
    let x := diffOf n a b 0
    condW n c a b = condFl c (decide (x.1 = 0)) (decide (2 ^ (n - 1) ≤ x.1)) x.2.1 x.2.2

/-- R131, R128: the accumulator instructions. -/
def Claims.AccumulatorInstructions : Prop :=
  ∀ (s : State) (t : TraderId) (w : Nat), s.Issues t w →
    let tr := s.at_ t w
    let a := tr.acr (fS1 w)
    let b := tr.acr (fS2 w)
    let n := min (tr.dr (fS2 w) % 32) 24
    let imm := (sgn 16 (w % 65536) % 2 ^ 24).toNat
    let res (x : Nat × Bool × Bool) : Out := .next (s.leaves t w (tr.resAc (fDst w) x))
    let ac (r : Nat) : Out := .next (s.leaves t w (tr.setAc (fDst w) r))
    let half := a % 65536 + a / 65536
    (keyOf w = key 0x10 0x00 → exec (.accAdd t) s = res (sumOf 24 a b 0)) ∧
    (keyOf w = key 0x10 0x01 → exec (.accAddc t) s = res (sumOf 24 a b (b2n tr.c))) ∧
    (keyOf w = key 0x10 0x02 → exec (.accSub t) s = res (diffOf 24 a b 0)) ∧
    (keyOf w = key 0x10 0x03 → exec (.accSubb t) s = res (diffOf 24 a b (b2n tr.c))) ∧
    (keyOf w = key 0x10 0x04 → exec (.accAddd t) s = res (sumOf 24 a (tr.dr (fS2 w)) 0)) ∧
    (keyOf w = key 0x10 0x05 → exec (.adda t) s = res (sumOf 24 a (tr.ar (fS2 w)) 0)) ∧
    (keyOf w = key 0x10 0x06 →
      exec (.addas t) s = res (sumOf 24 a (sgn 16 (tr.ar (fS2 w)) % 2 ^ 24).toNat 0)) ∧
    (keyOf w = key 0x10 0x07 → exec (.fold t) s = res (tr.keepCV (half % 65536 + half / 65536))) ∧
    (keyOf w = key 0x10 0x08 → exec (.accAnd t) s = res (tr.keepCV (a &&& b))) ∧
    (keyOf w = key 0x10 0x09 → exec (.accOr t) s = res (tr.keepCV (a ||| b))) ∧
    (keyOf w = key 0x10 0x0A → exec (.accXor t) s = res (tr.keepCV (a ^^^ b))) ∧
    (keyOf w = key 0x10 0x0B → exec (.accMov t) s = ac a) ∧
    (keyOf w = key 0x10 0x0C → exec (.accShl t) s = res (tr.keepV (shiftOf .shl 24 a n tr.c))) ∧
    (keyOf w = key 0x10 0x0D → exec (.accShr t) s = res (tr.keepV (shiftOf .shr 24 a n tr.c))) ∧
    (keyOf w = key 0x10 0x0E → exec (.accSar t) s = res (tr.keepV (shiftOf .sar 24 a n tr.c))) ∧
    (keyOf w = key 0x10 0x0F → exec (.insd t) s = ac (a * 256 % 2 ^ 24 + tr.dr (fS2 w))) ∧
    (keyOf w = key 0x10 0x10 → exec (.insa t) s = ac (a * 65536 % 2 ^ 24 + tr.ar (fS2 w))) ∧
    (keyOf w = key 0x10 0x11 → exec (.extd t) s = .next (s.leaves t w (tr.setD (fDst w) (a % 256)))) ∧
    (keyOf w = key 0x10 0x12 → exec (.exta t) s = .next (s.leaves t w (tr.setA (fDst w) (a % 65536)))) ∧
    (keyOf w = key 0x10 0x13 → exec (.extah t) s = .next (s.leaves t w (tr.setA (fDst w) (a / 65536)))) ∧
    (keyOf w = key 0x11 → exec (.aci t) s = res (sumOf 24 a imm 0)) ∧
    (keyOf w = key 0x12 →
      exec (.acsh t) s = res (tr.keepV (shiftOf (ShKind.of (bits w 10 8)) 24 a (w % 32) tr.c))) ∧
    (keyOf w = key 0x13 → exec (.acli t) s = ac (w % 65536)) ∧
    (keyOf w = key 0x14 → exec (.achi t) s = ac (w % 256 * 65536 + tr.acr (fDst w) % 65536))

/-- R132, R128: the address instructions. -/
def Claims.AddressInstructions : Prop :=
  ∀ (s : State) (t : TraderId) (w : Nat), s.Issues t w →
    let tr := s.at_ t w
    let a := tr.ar (fS1 w)
    let b := tr.ar (fS2 w)
    let d := tr.dr (fS2 w)
    let res (x : Nat × Bool × Bool) : Out := .next (s.leaves t w (tr.resA (fDst w) x))
    let ad (r : Nat) : Out := .next (s.leaves t w (tr.setA (fDst w) r))
    (keyOf w = key 0x18 0x00 → exec (.adrAdd t) s = res (sumOf 16 a b 0)) ∧
    (keyOf w = key 0x18 0x01 → exec (.adrSub t) s = res (diffOf 16 a b 0)) ∧
    (keyOf w = key 0x18 0x02 → exec (.adrAddc t) s = res (sumOf 16 a b (b2n tr.c))) ∧
    (keyOf w = key 0x18 0x03 → exec (.adrSubb t) s = res (diffOf 16 a b (b2n tr.c))) ∧
    (keyOf w = key 0x18 0x04 → exec (.adrAnd t) s = res (tr.keepCV (a &&& b))) ∧
    (keyOf w = key 0x18 0x05 → exec (.adrOr t) s = res (tr.keepCV (a ||| b))) ∧
    (keyOf w = key 0x18 0x06 → exec (.adrXor t) s = res (tr.keepCV (a ^^^ b))) ∧
    (keyOf w = key 0x18 0x07 → exec (.adrMov t) s = ad a) ∧
    (keyOf w = key 0x18 0x08 → exec (.adrShl t) s = res (tr.keepV (shiftOf .shl 16 a (d % 16) tr.c))) ∧
    (keyOf w = key 0x18 0x09 → exec (.adrShr t) s = res (tr.keepV (shiftOf .shr 16 a (d % 16) tr.c))) ∧
    (keyOf w = key 0x18 0x0A → exec (.adrSar t) s = res (tr.keepV (shiftOf .sar 16 a (d % 16) tr.c))) ∧
    (keyOf w = key 0x18 0x0B → exec (.adrAddd t) s = res (sumOf 16 a d 0)) ∧
    (keyOf w = key 0x18 0x0C → exec (.movdl t) s = ad (tr.ar (fDst w) / 256 * 256 + tr.dr (fS1 w))) ∧
    (keyOf w = key 0x18 0x0D → exec (.movdh t) s = ad (tr.dr (fS1 w) * 256 + tr.ar (fDst w) % 256)) ∧
    (keyOf w = key 0x18 0x0E → exec (.movld t) s = .next (s.leaves t w (tr.setD (fDst w) (a % 256)))) ∧
    (keyOf w = key 0x18 0x0F → exec (.movhd t) s = .next (s.leaves t w (tr.setD (fDst w) (a / 256)))) ∧
    (keyOf w = key 0x19 → exec (.addai t) s = res (sumOf 16 a (w % 65536) 0)) ∧
    (keyOf w = key 0x1A → exec (.movai t) s = ad (w % 65536)) ∧
    (keyOf w = key 0x1B →
      exec (.shai t) s = res (tr.keepV (shiftOf (ShKind.of (bits w 10 8)) 16 a (w % 16) tr.c)))

/-- R133, R91: a multiplication keeps FL and puts its product, formed from the operands of its issue slot, on the way to MRH
and MRL, where it lands at the start of the second owned slot after it. -/
def Claims.Multiplications : Prop :=
  ∀ (s : State) (t : TraderId) (w : Nat), s.Issues t w →
    let tr := s.at_ t w
    let lands (q : Int) : Out := .next (s.leaves t w
      { tr with mul := tr.mul ++ [(tr.slot + 2, BitVec.ofInt 16 (q / 65536), BitVec.ofInt 16 q)] })
    (keyOf w = key 0x09 0 → exec (.mulu t) s = lands (tr.dr (fS1 w) * tr.dr (fS2 w))) ∧
    (keyOf w = key 0x09 1 → exec (.muls t) s = lands (sgn 8 (tr.dr (fS1 w)) * sgn 8 (tr.dr (fS2 w)))) ∧
    (keyOf w = key 0x09 2 → exec (.mulua t) s = lands (tr.ar (fS1 w) * tr.ar (fS2 w))) ∧
    (keyOf w = key 0x09 3 → exec (.mulsa t) s = lands (sgn 16 (tr.ar (fS1 w)) * sgn 16 (tr.ar (fS2 w))))

/-! ## Jumps, loops, waits, bells, special registers and system operations (R136 to R145) -/

/-- R136, R106: jumps, and the start of a loop: the first body follows at once, or with a count of 0 the code after it. -/
def Claims.JumpsAndLoops : Prop :=
  ∀ (s : State) (t : TraderId) (w : Nat), s.Issues t w →
    let tr := s.at_ t w
    let jump (pc : Nat) : Out := .next ((s.final t w).setTrader t { tr with pc := pc % 65536 })
    let loops (x : Out) (count : Nat) : Prop := ∃ tr', x = .next ((s.final t w).setTrader t tr') ∧ fLvl w < 3 ∧
      tr'.lsr (fLvl w) = (tr.pc + 1) % 65536 ∧ tr'.ler (fLvl w) = (tr.pc + 1 + fBody w) % 65536 ∧
      tr'.lcr (fLvl w) = count ∧
      tr'.pc = (if count = 0 then (tr.pc + 1 + fBody w + 1) % 65536 else (tr.pc + 1) % 65536) ∧
      (∀ n, n ≠ fLvl w → tr'.lsr n = tr.lsr n ∧ tr'.ler n = tr.ler n ∧ tr'.lcr n = tr.lcr n) ∧
      { tr' with ls := tr.ls, le := tr.le, lc := tr.lc, pc := tr.pc, lbuf := tr.lbuf } = tr
    (keyOf w = key 0x28 → exec (.jmp t) s = jump (fTarget w)) ∧
    (keyOf w = key 0x29 → exec (.bra t) s = jump (tr.pc + 1 + fTarget w)) ∧
    (keyOf w = key 0x2C 0 → exec (.jmpi t) s = jump (tr.ar (fDst w))) ∧
    (keyOf w = key 0x2E → loops (exec (.loop t) s) (fCount w)) ∧
    (keyOf w = key 0x2F → loops (exec (.loopr t) s) (tr.ar (fLoopAreg w)))

/-- R137 to R141: an instruction that waits completes in its slot where its condition already holds, and otherwise leaves
its trader waiting. -/
def Claims.WaitsBegin : Prop :=
  ∀ (s : State) (t : TraderId) (w : Nat), s.Issues t w →
    let f := s.final t w
    let tr := s.at_ t w
    let ends (tr : Trader) : Out := .next ((s.leaves t w { tr with wait := .none }).syncPoint t (f.cur t))
    let waits (tr : Trader) (x : Wait) : Out := .next (f.setTrader t { tr with wait := x })
    let watch : BellWatch := ⟨bit (fSel w) 5, bits (fSel w) 4 0, false⟩
    let till := f.tillNow + tr.ar (fDst w) * 2 ^ fShift w
    (keyOf w = key 0x30 → exec (.wfe t) s = if f.get EV_PEND.PEND t.ix = 0 then waits tr .wfe else ends tr) ∧
    (keyOf w = key 0x31 → tr.watch ≠ some { watch with isSet := true } →
      exec (.wfb t) s = waits { tr with watch := some watch } .wfb) ∧
    (keyOf w = key 0x31 → tr.watch = some { watch with isSet := true } →
      exec (.wfb t) s = ends { tr with watch := none }) ∧
    (keyOf w = key 0x33 → exec (.wtur t) s = if till ≤ f.tillNow then ends tr else waits tr (.wtu till)) ∧
    (∀ a o, f.ramAt t (tr.ar (fDst w)) = some (a, o) → tr.ar (fDst w) % 8 = 0 → f.errorIn a o 8 = none → f.faults = [] →
      let v := f.natAt a o 8
      let target := sgn 64 v
      let ax := fSel w % 16
      let dir := fSel w / 16
      let pos := f.axisPos ax f.tick
      (keyOf w = key 0x32 → exec (.wtu t) s = if v ≤ f.tillNow then ends tr else waits tr (.wtu v)) ∧
      (keyOf w = key 0x34 → exec (.wpu t) s =
        if pos = target ∨ (dir = 0 ∧ target < pos) ∨ (dir = 1 ∧ pos < target) then ends tr
        else waits tr (.wpu ax dir target (pos - target).sign)))

/-- R137 to R141: a wait ends when its condition holds, and not before. -/
def Claims.WaitsEnd : Prop :=
  ∀ (s : State) (t : TraderId), s.canEnd t = true →
    let tr := s.trader t
    let ends (tr : Trader) : Out :=
      .next (((s.setTrader t { tr with wait := .none }).endCheck t).syncPoint t (s.cur t))
    (tr.wait = .wfe → tr.inRom = false →
      exec (.wfeEnd t) s = if s.get EV_PEND.PEND t.ix = 0 then .next s else ends tr) ∧
    (s.deliverable t = none →
      (∀ b, tr.wait = .wfb → tr.watch = some b →
        exec (.wfbEnd t) s = if b.isSet then ends { tr with watch := none } else .next s) ∧
      (∀ v, tr.wait = .wtu v → exec (.wtuEnd t) s = if v ≤ s.tillNow then ends tr else .next s) ∧
      (∀ ax dir target sg, tr.wait = .wpu ax dir target sg →
        let pos := s.axisPos ax s.tick
        exec (.wpuEnd t) s =
          if (dir = 0 ∧ target ≤ pos) ∨ (dir = 1 ∧ pos ≤ target) ∨
            (2 ≤ dir ∧ (pos = target ∨ (pos - target).sign ≠ sg)) then ends tr
          else .next s))

/-- R143 to R145, R88, R121, R358, R359: bells, banks, stops, breakpoints, traps and sync points. -/
def Claims.SystemOperations : Prop :=
  ∀ (s : State) (t : TraderId) (w : Nat), s.Issues t w →
    let f := s.final t w
    let tr := s.at_ t w
    let done (tr : Trader) : Out := .next (s.leaves t w tr)
    let m := w % 256
    let table := f.get (if m % 2 = 1 then BW_TABLE.HI else BW_TABLE.LO) (ix t.h t.s (m % 64 / 2))
    (keyOf w = key 0x35 → exec (.sev t) s =
      .next ((if bit (fSel w) 5 then f.ringDev (fSel w % 32) f.tick else f.ringHall t.h (fSel w % 32) f.tick).endCheck t)) ∧
    (keyOf w = key 0x37 0 → exec (.drain t) s = if tr.stores = [] then done tr else .next (f.setTrader t { tr with wait := .drain })) ∧
    (keyOf w = key 0x37 1 → exec (.setbnk t) s = done { tr with bnk := w % 4 }) ∧
    (keyOf w = key 0x37 2 → exec (.setbnkr t) s = done { tr with bnk := tr.dr (fS1 w) % 4 }) ∧
    (keyOf w = key 0x37 3 → exec (.sethbk t) s = done { tr with hbk := w % 256 }) ∧
    (keyOf w = key 0x37 4 → exec (.sethbkr t) s = done { tr with hbk := tr.dr (fS1 w) }) ∧
    (keyOf w = key 0x37 5 → exec (.sethost t) s = done { tr with host := w % 2 == 1 }) ∧
    (keyOf w = key 0x37 6 → exec (.trap t) s = .next (f.setTrader t
      { tr.endCheck tr.pc with trap := some ⟨15, m, 0, w, (tr.endCheck tr.pc).pc⟩ })) ∧
    (keyOf w = key 0x37 7 → exec (.stop t) s = done { tr with running := false }) ∧
    (keyOf w = key 0x37 8 → s.dbg.en = true → s.dbg.breakpoints = true → exec (.brk t) s = done { tr with halted := true }) ∧
    (keyOf w = key 0x37 8 → s.dbg.en = false ∨ s.dbg.breakpoints = false → exec (.brk t) s = done tr) ∧
    (keyOf w = key 0x37 9 → exec (.sync t) s = done (tr.setBud (f.cur t)
      ⟨0, if m = 255 ∨ table = 0 then none else some table, m, false⟩))

/-- R144, R109: MOVS reads and writes each special register that exists. -/
def Claims.MoveSpecialRegisters : Prop :=
  ∀ (s : State) (t : TraderId) (w : Nat), s.Issues t w → keyOf w = key 0x36 →
    let tr := s.at_ t w
    let g := gspecReg (fGspec w)
    let x := exec (.movs t) s
    let gets (v : Nat) : Prop := fMovsW w = false → x = .next (s.leaves t w (tr.setG g v))
    let puts (tr' : Trader) : Prop := fMovsW w = true → ∃ lb, x = .next (s.leaves t w { tr' with lbuf := lb })
    let v := tr.getG g
    let fl (tr : Trader) : Trader := { tr with z := v.testBit 3, n := v.testBit 2, c := v.testBit 1, v := v.testBit 0 }
    let flRd := 8 * b2n tr.z + 4 * b2n tr.n + 2 * b2n tr.c + b2n tr.v
    let act (n : Nat) : Nat := if tr.lcr n = 0 then 0 else 2 ^ (4 + n)
    (fSpec w = 0 → gets ((tr.pc + 1) % 65536)) ∧
    (fSpec w = 1 → gets flRd ∧ puts (fl tr)) ∧
    (fSpec w = 2 → gets (128 * b2n tr.sup + act 2 + act 1 + act 0 + flRd) ∧
      puts (fl { tr with sup := tr.sup && v.testBit 7 })) ∧
    (fSpec w = 3 → gets tr.mrl.toNat ∧ puts { tr with mrl := BitVec.ofNat 16 v }) ∧
    (fSpec w = 4 → gets tr.mrh.toNat ∧ puts { tr with mrh := BitVec.ofNat 16 v }) ∧
    (fSpec w = 5 → gets tr.bnk) ∧ (fSpec w = 6 → gets tr.hbk) ∧ (fSpec w = 7 → gets (b2n tr.host)) ∧
    (∀ n < 3, (fSpec w = 8 + 4 * n → gets (tr.lsr n) ∧ puts (tr.setLs n v)) ∧
      (fSpec w = 9 + 4 * n → gets (tr.ler n) ∧ puts (tr.setLe n v)) ∧
      (fSpec w = 10 + 4 * n → gets (tr.lcr n) ∧ puts (tr.setLc n v)))

/-! ## Events (R152 to R170) -/

/-- R158, R159, R167: slot E1 of an entry writes the record of its level and moves CUR; what the trader's registers hold stays
but for what lands. Slot E2 loads the vector. -/
def Claims.EntryToALevel : Prop :=
  ∀ (s : State) (t : TraderId) (lvl src detail addr word : Nat) (c : EntryCtx), 1 ≤ lvl → lvl ≤ 4 → src < 16 → detail < 256 →
    addr < 65536 → word < 2 ^ 32 → c.pc < 65536 → c.lvl < 8 → c.tsr < 256 → c.bank < 2 ^ 32 →
    let s' := s.enterE1 t lvl src detail addr word c
    let tr := s.trader t
    let n := t.lvl (lvl - 1)
    let pend := s.get EV_PEND.PEND t.ix
    let set := notedAt s.swSet (t.ix.reg .EV_PEND) s.tick
    let e := s.enterE2 t lvl
    s'.get ER_CTX.PC n = c.pc ∧ s'.get ER_CTX.TSR n = c.tsr ∧ s'.get ER_CTX.PLVL n = c.lvl ∧ s'.rd (n.reg .ER_BANK) = c.bank ∧
    s'.get ER_CAUSE.SRC n = src ∧ s'.get ER_CAUSE.DETAIL n = detail ∧ s'.get ER_CAUSE.ADDR n = addr ∧
    s'.rd (n.reg .ER_WORD) = word ∧ s'.cur t = lvl ∧
    -- a bit that EV_PEND_SET sets in the same tick stays set (R9)
    (∀ i < 11, bit (s'.get EV_PEND.PEND t.ix) i = (bit pend i && (decide (i ≠ src) || bit set i))) ∧
    (s'.trader t).pc = tr.pc ∧ (s'.trader t).entering = some lvl ∧ (s'.trader t).exiting = none ∧ (s'.trader t).prog = none ∧
    (s'.trader t).trap = none ∧ (s'.trader t).wait = .none ∧
    (s'.trader t).bnk = tr.bnk ∧ (s'.trader t).hbk = tr.hbk ∧ (s'.trader t).host = tr.host ∧ (s'.trader t).tsr = tr.tsr ∧
    (∀ u, u ≠ t → s'.trader u = s.trader u) ∧
    { s'.noRegs with traders := s.traders, stallSlot := s.stallSlot, ecc := s.ecc } = s.noRegs ∧
    (e.trader t).pc = s.vector t lvl ∧ (e.trader t).entering = none ∧ (e.trader t).tsr = tr.tsr ∧ e.cur t = s.cur t ∧
    (∀ u, u ≠ t → e.trader u = s.trader u)

/-- R156, R157, R161: at a sampling a trap is taken before any event; of the deliverable events the one of the highest level is
taken, in a level the lowest source; a WFE that it ends counts as completed; in the slot E2 of an entry a deliverable event makes
its own E1, which saves the vector, and otherwise the entry completes, also in a debug halt. -/
def Claims.EventEntryTakes : Prop :=
  ∀ (s : State) (t : TraderId), (s.trader t).running = true → s.clocked t = true → s.faults = [] →
    (∀ lvl, (s.trader t).halted = true → (s.trader t).entering = some lvl →
      exec (.eventEntry t) s = .next (s.enterE2 t lvl)) ∧
    ((s.trader t).halted = false → (s.trader t).inRom = false →
      (∀ tp, (s.trader t).trap = some tp → s.cur t < s.level t tp.src →
        exec (.eventEntry t) s =
          .next (s.enterE1 t (s.level t tp.src) tp.src tp.detail tp.addr tp.word (s.ctxAt t tp.resume))) ∧
      (∀ src, (s.trader t).trap = none → (s.trader t).exiting = none → src < 11 → bit (s.get EV_PEND.PEND t.ix) src = true →
        s.enabled t src = true → s.cur t < s.level t src →
        (∀ i < 11, bit (s.get EV_PEND.PEND t.ix) i = true → s.enabled t i = true → s.cur t < s.level t i →
          s.level t i < s.level t src ∨ (s.level t i = s.level t src ∧ src ≤ i)) →
        let c := s.cause t src
        let takes (u : State) (resume : Nat) : Prop :=
          exec (.eventEntry t) s = .next (u.enterE1 t (s.level t src) src c.1 c.2 0 (u.ctxAt t resume))
        (∀ lvl, (s.trader t).entering = some lvl → takes s (s.vector t lvl)) ∧
        ((s.trader t).entering = none → (s.trader t).wait ≠ .wfe → takes s (s.trader t).pc) ∧
        ((s.trader t).entering = none → (s.trader t).wait = .wfe → takes (s.endWait t) ((s.endWait t).trader t).pc)) ∧
      ((s.trader t).trap = none → (s.trader t).exiting = none →
        (∀ i < 11, bit (s.get EV_PEND.PEND t.ix) i = true → s.enabled t i = true → s.level t i ≤ s.cur t) →
        exec (.eventEntry t) s = .next (match (s.trader t).entering with | some lvl => s.enterE2 t lvl | none => s)))

/-- R157: a trap at or below CUR stops the trader, with its source in EV_STATUS; the record is not written. -/
def Claims.DoubleFault : Prop :=
  ∀ (s : State) (t : TraderId) (src : Nat), src < 16 →
    let s' := s.doubleFault t src
    (s'.trader t).running = false ∧ (s'.trader t).trap = none ∧ s'.is EV_STATUS.DOUBLE t.ix = true ∧
    s'.get EV_STATUS.DOUBLE_SRC t.ix = src ∧ (s'.trader t).pc = (s.trader t).pc ∧
    (∀ n, s'.rd ((t.lvl n).reg .ER_CTX) = s.rd ((t.lvl n).reg .ER_CTX)) ∧
    (∀ tp, tp.src = src → s.level t src ≤ s.cur t → s.takeTrap t tp = s')

/-- R164, R165, R166: at the base level RETE only sets STRAY_RETE. From a handler its issue slot begins the exit; slot X1 restores
CUR, TSR and the banks from the record of the level, and slot X2 restores PC, where no write of the record meets the slot in its
tick (R170). -/
def Claims.ReturnFromEvent : Prop :=
  (∀ (s : State) (t : TraderId) (w : Nat), s.Issues t w → keyOf w = key 0x2D 1 →
    let f := s.final t w
    let tr := s.at_ t w
    (f.cur t = 0 → exec (.rete t) s =
      .next ((f.set EV_STATUS.STRAY_RETE t.ix true).setTrader t { tr with pc := (tr.pc + 1) % 65536 })) ∧
    (f.cur t ≠ 0 → exec (.rete t) s = .next (f.setTrader t { tr with exiting := some (f.cur t, false) }))) ∧
  (∀ (s : State) (t : TraderId) (lvl : Nat) (x1 : Bool), (s.trader t).exiting = some (lvl, x1) → (s.trader t).running = true →
    (s.trader t).halted = false → s.clocked t = true → s.exitEvent t = none →
    (∀ x, Tab.find (s.trader t).recWas (lvl - 1) = some x → x.1 ≠ s.tick) →
    let f := s.ownSlot t (if x1 then s.cur t else lvl)
    let n := t.lvl (lvl - 1)
    ∃ s', exec (.rete t) s = .next s' ∧
      (x1 = false → s'.cur t = s.get ER_CTX.PLVL n ∧ (s'.trader t).pc = (f.trader t).pc ∧
        (s'.trader t).fl = s.get ER_CTX.TSR n % 16 ∧ (s'.trader t).sup = bit (s.get ER_CTX.TSR n) 7 ∧
        (s'.trader t).bnk = s.get ER_BANK.BNK n ∧ (s'.trader t).hbk = s.get ER_BANK.HBK n ∧
        (s'.trader t).host = s.is ER_BANK.HOST n ∧ (s'.trader t).exiting = some (lvl, true)) ∧
      (x1 = true → (s'.trader t).pc = s.get ER_CTX.PC n ∧ (s'.trader t).exiting = none ∧ s'.cur t = s.cur t) ∧
      (s'.trader t).d = (f.trader t).d ∧ (s'.trader t).a = (f.trader t).a ∧ (s'.trader t).ac = (f.trader t).ac ∧
      (s'.trader t).p = (f.trader t).p ∧ (s'.trader t).sc = (f.trader t).sc ∧ (s'.trader t).ls = (f.trader t).ls ∧
      (s'.trader t).le = (f.trader t).le ∧ (s'.trader t).lc = (f.trader t).lc ∧
      (∀ u, u ≠ t → s'.trader u = s.trader u) ∧ { s'.noRegs with traders := f.traders } = f.noRegs)

/-- R91, R146: what is under way lands; R360: the budget watch; R154, R163, R170: KICK, EV_PEND_SET and the records. -/
def Claims.LandingsAndEventRegisters : Prop :=
  (∀ (s : State) (t : TraderId) (due : Nat) (h l : Half) (rest : List (Nat × Half × Half)),
    let tr := s.trader t
    tr.mul = (due, h, l) :: rest → s.idleSlots t = false → due ≤ tr.slot ∨ (s.clocked t = true ∧ due ≤ s.nextSlot t / 16) →
    exec (.mulProductLand t) s = .next (s.setTrader t { tr with mrh := h, mrl := l, mul := rest })) ∧
  (∀ (s : State) (t : TraderId) (e : ScPend) (rest : List ScPend),
    let tr := s.trader t
    let u : State := { s with ecc := if e.dst < 16 then Tab.del s.ecc (scWord t e.dst) else s.ecc }
    tr.scq = e :: rest → s.idleSlots t = false → e.due ≤ tr.slot ∨ (s.clocked t = true ∧ e.due ≤ s.nextSlot t / 16) →
    ∃ k m, exec (.scaleResultLand t) s = .next
      ((u.setTrader t { tr.setSc e.dst e.value with scq := rest, scSet := (k, m) }).wr (t.ix.reg .SC_STATUS)
        (s.rd (t.ix.reg .SC_STATUS) ||| e.flags)) ∧ m &&& e.flags = e.flags) ∧
  (∀ (s : State) (t : TraderId) (l : Nat),
    let tr := s.trader t
    let b := tr.bud (s.cur t)
    b.limit = some l → l < b.count → b.fired = false → s.is BW_CTRL.EN t.st = true → t.t < 16 →
    ∃ s', exec (.budgetOverrun t) s = .next s' ∧
      (if bit (s.get EV_PEND.PEND t.ix) 10 then bit (s'.get EV_OVR.OVR t.ix) 10 else bit (s'.get EV_PEND.PEND t.ix) 10) = true ∧
      bit (s'.get BW_STATUS.OVER t.st) t.t = true ∧
      s'.trader t = { tr.setBud (s.cur t) { b with fired := true } with overMarker := b.marker } ∧
      (∀ u, u ≠ t → s'.trader u = s.trader u) ∧ { s'.noRegs with traders := s.traders } = s.noRegs) ∧
  (∀ (s : State) (by_ : Accessor) (h n : Nat) (mask : Half), s.reachesStall by_ h n = true → s.holdsWord by_ h n = none →
    s.portOpen (accPort by_) = true → ∃ s', exec (.evKick by_ h n mask) s = .next s' ∧
    (∀ u : TraderId, ∀ i < 11, bit (s'.get EV_PEND.PEND u.ix) i =
      (bit (s.get EV_PEND.PEND u.ix) i || (decide (i = 8 ∧ u.h = h ∧ u.s = n ∧ u.t < 16) && bit mask.toNat u.t))) ∧
    (∀ u : TraderId, ∀ i < 11, bit (s'.get EV_OVR.OVR u.ix) i = (bit (s.get EV_OVR.OVR u.ix) i ||
      (decide (i = 8 ∧ u.h = h ∧ u.s = n ∧ u.t < 16) && bit mask.toNat u.t && bit (s.get EV_PEND.PEND u.ix) i))) ∧
    (∀ r : Reg, r.name ≠ .EV_PEND → r.name ≠ .EV_OVR → s'.rd r = s.rd r) ∧ s'.noRegs = s.noRegs) ∧
  (∀ (s : State) (by_ : Accessor) (t : TraderId) (mask : Nat), s.reachesEvents by_ t = true → s.holdsWord by_ t.h t.s = none →
    s.portOpen (accPort by_) = true → ∃ s', exec (.evPendSet by_ t mask) s = .next s' ∧
    (∀ i < 11, bit (s'.get EV_PEND.PEND t.ix) i = (bit (s.get EV_PEND.PEND t.ix) i || bit mask i)) ∧
    (∀ i < 11, bit (s'.get EV_OVR.OVR t.ix) i =
      (bit (s.get EV_OVR.OVR t.ix) i || (bit mask i && bit (s.get EV_PEND.PEND t.ix) i))) ∧
    (∀ r : Reg, r ≠ t.ix.reg .EV_PEND → r ≠ t.ix.reg .EV_OVR → s'.rd r = s.rd r) ∧ s'.noRegs = s.noRegs) ∧
  (∀ (s : State) (by_ : Accessor) (t : TraderId) (n word : Nat) (v : Word), n < 4 → word < 4 →
    s.reachesEvents by_ t = true → s.holdsWord by_ t.h t.s = none → s.portOpen (accPort by_) = true →
    let sup := match by_ with | .host _ => true | .trader q => (s.trader q).sup
    ((s.trader t).moved = (n + 1, s.tick) → exec (.erRecordWrite by_ t n word v) s = .next s) ∧
    ((s.trader t).moved ≠ (n + 1, s.tick) → ∃ s', exec (.erRecordWrite by_ t n word v) s = .next s' ∧
      (word = 0 → s'.get ER_CTX.PC (t.lvl n) = v.toNat % 65536 ∧
        s'.get ER_CTX.TSR (t.lvl n) % 128 = v.toNat / 65536 % 128 ∧
        bit (s'.get ER_CTX.TSR (t.lvl n)) 7 = (if sup then bit v.toNat 23 else bit (s.get ER_CTX.TSR (t.lvl n)) 7) ∧
        s'.get ER_CTX.PLVL (t.lvl n) =
          (if v.toNat / 2 ^ 24 % 8 ≤ n then v.toNat / 2 ^ 24 % 8 else s.get ER_CTX.PLVL (t.lvl n))) ∧
      (word = 1 → s'.rd ((t.lvl n).reg .ER_BANK) = v.toNat % 2048) ∧ (2 ≤ word → s' = s) ∧
      (∀ r : Reg, r ≠ (t.lvl n).reg (if word = 0 then .ER_CTX else .ER_BANK) → s'.rd r = s.rd r) ∧
      { s'.noRegs with traders := s.traders } = s.noRegs ∧
      ∀ u, { s'.trader u with recWas := (s.trader u).recWas } = s.trader u))

/-! ## Loads, stores, calls and block moves (R65 to R68, R112, R113, R134 to R136) -/

/-- R112: the effective address of the four modes, and the base register after a post- and a pre-modify access. -/
def Claims.EffectiveAddresses : Prop :=
  ∀ (tr : Trader) (w : Nat), keyOf w ∈ [key 0x20, key 0x21, key 0x22, key 0x23, key 0x24, key 0x25, key 0x26] →
    let base := tr.ar (fS1 w)
    let off := (sgn 14 (w % 2 ^ 14) % 65536).toNat
    let mode := w / 2 ^ 14 % 4
    (tr.memForm w).ea = (if mode = 1 then base else if mode = 3 then 0xC000 + w % 2 ^ 14 else (base + off) % 65536) ∧
    tr.afterMem w = (if mode = 1 ∨ mode = 2 then tr.setA (fS1 w) ((base + off) % 65536) else tr).endCheck tr.pc

/-- R134, R65, R68: a load from stall RAM or from the slice brings the little-endian value of its bytes in its last slot; what
the first of two accesses has read by then counts as it was read. -/
def Claims.LoadsFromStallMemory : Prop :=
  ∀ (s : State) (t : TraderId) (w : Nat),
    let f := s.final t w
    let tr := f.trader t
    let m := tr.memForm w
    let got := tr.got
    s.AtLast t w (accesses m.ea m.n).length → got = [] ∨ got.length = (if m.ea % 2 = 0 then 2 else 1) →
    ∀ a o, f.ramAt t m.ea = some (a, o) → addrFault m.ea m.n = 0 → f.errorIn a o m.n = none → f.faults = [] →
      let done (tr : Trader) : Out := .next (f.setTrader t { tr with prog := none })
      let v := ofBytes (got ++ (f.bytesAt a o m.n).drop got.length)
      (keyOf w = key 0x20 → exec (.ldb t) s = done ((tr.afterMem w).setD (fDst w) v)) ∧
      (keyOf w = key 0x22 → exec (.ldh t) s = done ((tr.afterMem w).setA (fDst w) v)) ∧
      (keyOf w = key 0x24 → exec (.ldt t) s = done ((tr.afterMem w).setAc (fDst w) v)) ∧
      (keyOf w = key 0x26 → exec (.ldba t) s = done ((tr.afterMem w).setA (fDst w) v)) ∧
      (keyOf w = key 0x2D 0 → exec (.ret t) s = done { tr.setA 7 (tr.ar 7 + 2) with pc := v })

/-- R63, R68, R127: the first slot of a load or a store of two accesses in stall RAM or the slice: the instruction is in
progress, a load with the bytes of its first access read, and nothing else has changed. -/
def Claims.TwoSlotAccessesBegin : Prop :=
  ∀ (s : State) (t : TraderId) (w : Nat), s.Issues t w →
    let f := s.final t w
    let m := (f.trader t).memForm w
    (accesses m.ea m.n).length = 2 → addrFault m.ea m.n = 0 → f.faults = [] →
    ∀ a o, f.ramAt t m.ea = some (a, o) → f.errorIn a o m.n = none →
      let first := if m.ea % 2 = 0 then 2 else 1
      let begun (got : List Byte) : Out :=
        .next (f.setTrader t { f.trader t with prog := some { word := w, left := 1, got := got } })
      let loads (x : Out) : Prop := x = begun ((f.bytesAt a o m.n).take first)
      (keyOf w = key 0x22 → loads (exec (.ldh t) s)) ∧ (keyOf w = key 0x24 → loads (exec (.ldt t) s)) ∧
      (keyOf w = key 0x2D 0 → loads (exec (.ret t) s)) ∧
      (keyOf w = key 0x23 → exec (.sth t) s = begun []) ∧ (keyOf w = key 0x25 → exec (.stt t) s = begun []) ∧
      (keyOf w = key 0x2A → exec (.call t) s = begun []) ∧ (keyOf w = key 0x2B → exec (.bsr t) s = begun []) ∧
      (keyOf w = key 0x2C 1 → exec (.calli t) s = begun [])

/-- R134, R136, R65: a store to stall RAM or to the slice, and the push of a call, write their bytes and no other in their last
slot, in a lockstep pair in the checker's copy as well (R401); the program counter of a call is its target. -/
def Claims.StoresToStallMemory : Prop :=
  ∀ (s : State) (t : TraderId) (w : Nat), s.Inv →
    let f := s.final t w
    let tr := f.trader t
    let m := tr.memForm w
    s.AtLast t w (accesses m.ea m.n).length →
    ∀ a o, f.ramAt t m.ea = some (a, o) → addrFault m.ea m.n = 0 → f.faults = [] →
      let stores (x : Out) (n v : Nat) (tr' : Trader) : Prop := ∃ s', x = .next s' ∧ s'.trader t = { tr' with prog := none } ∧
        (∀ u, u ≠ t → s'.trader u = f.trader u) ∧
        (let b := ((f.mirror a).getD a).base
         ∀ y, Memory.read s'.mem y = if a.base + o ≤ y ∧ y < a.base + o + n then BitVec.ofNat 8 (v / 256 ^ (y - (a.base + o)))
          else if b + o ≤ y ∧ y < b + o + n then BitVec.ofNat 8 (v / 256 ^ (y - (b + o)))
          else Memory.read s.mem y) ∧
        { s' with mem := f.mem, ecc := f.ecc, traders := f.traders } = f
      let push : Trader := tr.setA 7 m.ea
      (keyOf w = key 0x21 → stores (exec (.stb t) s) 1 (tr.dr (fDst w)) (tr.afterMem w)) ∧
      (keyOf w = key 0x23 → stores (exec (.sth t) s) 2 (tr.ar (fDst w)) (tr.afterMem w)) ∧
      (keyOf w = key 0x25 → stores (exec (.stt t) s) 3 (tr.acr (fDst w)) (tr.afterMem w)) ∧
      (keyOf w = key 0x2A ∨ keyOf w = key 0x2B ∨ keyOf w = key 0x2C 1 → m.ea = (tr.ar 7 + 65534) % 65536) ∧
      (keyOf w = key 0x2A → stores (exec (.call t) s) 2 ((tr.pc + 1) % 65536) { push with pc := w % 65536 }) ∧
      (keyOf w = key 0x2B →
        stores (exec (.bsr t) s) 2 ((tr.pc + 1) % 65536) { push with pc := (tr.pc + 1 + w % 65536) % 65536 }) ∧
      (keyOf w = key 0x2C 1 → stores (exec (.calli t) s) 2 ((tr.pc + 1) % 65536) { push with pc := tr.ar (fDst w) })

/-- R67, R113, R167: bytes in two regions or beyond 0xFFFF raise ADDR_FAULT with the address of the first byte, and the
access has no other effect. -/
def Claims.AddressFaults : Prop :=
  ∀ (s : State) (t : TraderId) (w : Nat), s.Issues t w → (s.final t w).faults = [] →
    let f := s.final t w
    let tr := f.trader t
    let m := tr.memForm w
    let d : Nat := if 65536 < m.ea + m.n then 2 else 1
    let faults (x : Out) : Prop := x = .next (f.setTrader t { tr with trap := some ⟨13, d, m.ea, w, tr.pc⟩ })
    (65536 < m.ea + m.n ∨ regionOf m.ea ≠ regionOf (m.ea + m.n - 1)) →
    (keyOf w = key 0x22 → faults (exec (.ldh t) s)) ∧ (keyOf w = key 0x23 → faults (exec (.sth t) s)) ∧
    (keyOf w = key 0x24 → faults (exec (.ldt t) s)) ∧ (keyOf w = key 0x25 → faults (exec (.stt t) s)) ∧
    (keyOf w = key 0x2A → faults (exec (.call t) s)) ∧ (keyOf w = key 0x2B → faults (exec (.bsr t) s)) ∧
    (keyOf w = key 0x2C 1 → faults (exec (.calli t) s)) ∧ (keyOf w = key 0x2D 0 → faults (exec (.ret t) s))

/-- R116, R135: BCPY reads up to eight bytes of its source in each slot before its last one, and BFILL takes one slot before it;
in the last slot they write the bytes of the block and no other, in a lockstep pair in the checker's copy as well (R401). -/
def Claims.BlockMoves : Prop :=
  ∀ (s : State) (t : TraderId) (w : Nat), s.Inv →
    let n := w % 16 + 1
    let f := s.final t w
    let tr := f.trader t
    let src := tr.ar (blkSrcX w)
    let dst := tr.ar (fS1 w)
    let slots := if keyOf w = key 0x27 0 then 1 + (n + 7) / 8 else 2
    let moves (x : Out) (v : Nat → Byte) : Prop := ∃ s' d o, x = .next s' ∧ f.ramAt t dst = some (d, o) ∧
      (let b := ((f.mirror d).getD d).base
       ∀ y, Memory.read s'.mem y =
        if d.base + o ≤ y ∧ y < d.base + o + n then v (y - (d.base + o))
        else if b + o ≤ y ∧ y < b + o + n then v (y - (b + o)) else Memory.read s.mem y) ∧
      s'.trader t = { tr.endCheck tr.pc with prog := none } ∧ (∀ u, u ≠ t → s'.trader u = f.trader u)
    blkIn dst n = true → f.faults = [] →
    (keyOf w = key 0x27 0 → blkIn src n = true → ∀ a o, f.ramAt t src = some (a, o) → f.errorIn a o n = none →
      let bytes := f.bytesAt a o n
      let on (left : Nat) (got : List Byte) : Out :=
        .next (f.setTrader t { tr with prog := some { word := w, left := left, got := got } })
      (s.Issues t w → exec (.bcpy t) s = on (slots - 1) (bytes.take 8)) ∧
      (s.canIssue t = true → ∀ left, 1 < left → (s.trader t).prog = some { word := w, left := left, got := tr.got } →
        exec (.bcpy t) s = on (left - 1) (tr.got ++ (bytes.drop tr.got.length).take 8)) ∧
      (s.AtLast t w slots → tr.got.length = n → moves (exec (.bcpy t) s) (fun i => (tr.got[i]?).getD 0))) ∧
    (keyOf w = key 0x27 1 →
      (s.Issues t w → exec (.bfill t) s = .next (f.setTrader t { tr with prog := some { word := w, left := 1 } })) ∧
      (s.AtLast t w slots → moves (exec (.bfill t) s) (fun _ => BitVec.ofNat 8 (tr.dr (blkSrcX w)))))

/-! ## Hall and host memory (R66, R86 to R89, R281) -/

/-- R86, R87, R66: a load or a store in the window 0x8000 to 0xBFFF starts its accesses, with HOST = 0 to hall memory at
HBK × 16 KiB, and the program goes on; the loaded value can be used at the second following instruction (R81). -/
def Claims.FarLoadsAndStores : Prop :=
  ∀ (s : State) (t : TraderId) (w : Nat), s.Issues t w →
    let f := s.final t w
    let tr := f.trader t
    let m := tr.memForm w
    let far : MemAcc := ⟨m.ea, false, tr.hbk * 0x4000 + (m.ea - 0x8000), m.n, [], none⟩
    0x8000 ≤ m.ea → m.ea + m.n ≤ 0xC000 → (m.n = 1 ∨ (m.n = 2 ∧ m.ea % 2 = 0)) → tr.host = false → s.clearing = false → f.faults = [] →
      let store (v : Nat) : Out := .next (f.setTrader t { tr.afterMem w with stores := tr.stores ++ [{ far with data := toBytes m.n v }] })
      let load (x : Out) (dst : GReg) : Prop := ∃ s', x = .next s' ∧
        s'.trader t = { tr.afterMem w with loads := tr.loads ++ [⟨dst, [⟨far, f.bytesAt (.hallMem t.h) far.addr m.n, 0, false⟩], tr.slot + 2, false⟩] } ∧
        s'.mem = f.mem ∧ (∀ u, u ≠ t → s'.trader u = f.trader u)
      (tr.stores.length < 4 →
        (keyOf w = key 0x21 → exec (.stb t) s = store (tr.dr (fDst w))) ∧
        (keyOf w = key 0x23 → exec (.sth t) s = store (tr.ar (fDst w)))) ∧
      (tr.stores = [] → f.errorIn (.hallMem t.h) far.addr m.n = none →
        (keyOf w = key 0x20 → load (exec (.ldb t) s) (.d (fDst w))) ∧
        (keyOf w = key 0x22 → load (exec (.ldh t) s) (.a (fDst w))) ∧
        (keyOf w = key 0x26 → load (exec (.ldba t) s) (.a (fDst w))))

/-- R86, R169: the response of hall memory to an access of an outstanding load: the load lands with its last response, with
0 after an error response, which raises BUS_ERR. -/
def Claims.LoadDataArrives : Prop :=
  ∀ (s : State) (t : TraderId) (dst : GReg) (due : Nat) (xs ys : List LoadAcc) (a : LoadAcc),
    let tr := s.trader t
    tr.loads = [⟨dst, xs ++ a :: ys, due, false⟩] → (∀ x ∈ xs, x.fin = true) → a.fin = false → a.acc.req = none → a.acc.host = false →
    a.err = 0 → s.idleSlots t = false →
    let got := xs ++ { a with fin := true } :: ys
    let bytes := got.flatMap (fun x => x.got)
    ((∀ y ∈ ys, y.fin = true) → due ≤ tr.slot → (∀ x ∈ xs ++ ys, x.err = 0) →
      exec (.loadDataArrival t .ok) s = .next (s.setTrader t { tr.landIn dst (ofBytes bytes) with loads := [] }) ∧
      ∃ s', exec (.loadDataArrival t .hallError) s = .next s' ∧ s'.trader t = { (tr.landIn dst 0) with loads := [], busErr := (s'.trader t).busErr } ∧
        (bit (s.get EV_PEND.PEND t.ix) 9 = false →
          bit (s'.get EV_PEND.PEND t.ix) 9 = true ∧ (s'.trader t).busErr = (1, a.acc.taddr))) ∧
    ((∃ y ∈ ys, y.fin = false) →
      exec (.loadDataArrival t .ok) s = .next (s.setTrader t { tr with loads := [⟨dst, got, due, false⟩] }))

/-- R88, R266, R268: the oldest entry of the store buffer is written into hall memory and leaves the buffer; with a
collision the trader is marked in BSY; an error response gives BUS_ERR and nothing is written. -/
def Claims.StoresDrain : Prop :=
  ∀ (s : State) (t : TraderId) (e : MemAcc) (rest : List MemAcc), s.Inv →
    let tr := s.trader t
    let at_ := (Arr.hallMem t.h).base + e.addr
    tr.stores = e :: rest → e.host = false → s.errorIn (.hallMem t.h) e.addr e.len ≠ some true → e.data.length = e.len →
    (∀ o, o = .ok ∨ (∃ m, o = .collide m) → ∃ s', exec (.storeBufferDrain t o) s = .next s' ∧ s'.trader t = { tr with stores := rest } ∧
      (∀ y, Memory.read s'.mem y = if at_ ≤ y ∧ y < at_ + e.len then (e.data[y - at_]?).getD 0 else Memory.read s.mem y) ∧
      (o ≠ .ok → t.t < 16 → bit (s'.get STL_STATUS.BSY t.st) t.t = true) ∧
      (∀ u, u ≠ t → s'.trader u = s.trader u)) ∧
    ∃ s', exec (.storeBufferDrain t .hallError) s = .next s' ∧ s'.mem = s.mem ∧ (s'.trader t).stores = rest ∧
      (bit (s.get EV_PEND.PEND t.ix) 9 = false →
        bit (s'.get EV_PEND.PEND t.ix) 9 = true ∧ (s'.trader t).busErr = (0x81, e.taddr))

/-- R281: the answer to an operation access arrives once the hall has made the operation. -/
def Claims.AtomicAnswerArrives : Prop :=
  ∀ (s : State) (t : TraderId) (r : AtomReq), (s.trader t).atom = some r → r.done = true →
    exec (.atomicAnswerArrival t) s = .next (s.setTrader t { s.trader t with atom := some { r with arrived := true } })

/-! ## The Scale coprocessor and the coprocessors of the integrator (R84, R123, R146 to R150, R426) -/

/-- R148, R149, R146: the fixed-point operations: the value that lands L slots after the issue slot, and its SC_STATUS bits
(OVF 2, INX 1, DZ 4). -/
def Claims.ScaleFixedPoint : Prop :=
  ∀ (s : State) (t : TraderId) (w : Nat), s.Issues t w → s.part.scale = true → s.scSound t →
    let tr := s.at_ t w
    let a := sgn 32 (tr.scr (fCa w))
    let b := sgn 32 (tr.scr (fCb w))
    let d := sgn 32 (tr.scr (fCd w))
    let n := w % 32
    let res (l : Nat) (x : Nat × Nat) : Out :=
      .next (s.leaves t w { tr with scq := tr.scq ++ [⟨tr.slot + l, fCd w, x.1, x.2⟩] })
    let low (v : Int) : Nat := (v % 2 ^ 32).toNat
    let sat (v : Int) (inx : Bool) : Nat × Nat :=
      if v < -2 ^ 31 then (0x80000000, 2) else if 2 ^ 31 ≤ v then (0x7FFFFFFF, 2) else (low v, b2n inx)
    let sum (v : Int) : Nat × Nat := if w % 2 = 1 then sat v false else (low v, if -2 ^ 31 ≤ v ∧ v < 2 ^ 31 then 0 else 2)
    let prod : Int := (a * b).sign * (((a * b).natAbs + 2 ^ n / 2) / 2 ^ n : Nat)
    let lost : Bool := decide (a * b % 2 ^ n ≠ 0)
    let cmp : Bool := match w % 8 with
      | 0 => decide (a = b) | 1 => decide (a ≠ b) | 2 => decide (a < b) | 3 => decide (b ≤ a) | 4 => decide (a ≤ b)
      | _ => decide (b < a)
    (keyOf w = key 0x38 0x00 → exec (.snop t) s = .next (s.leaves t w tr)) ∧
    (keyOf w = key 0x38 0x08 → exec (.xadd t) s = res 1 (sum (a + b))) ∧
    (keyOf w = key 0x38 0x09 → exec (.xsub t) s = res 1 (sum (a - b))) ∧
    (keyOf w = key 0x38 0x0A → exec (.xmul t) s = res 2 (sat prod lost)) ∧
    (keyOf w = key 0x38 0x0B → exec (.xmac t) s = res 2 (sat (d + prod) lost)) ∧
    (keyOf w = key 0x38 0x0C → exec (.xdiv t) s = res 8
      (if b = 0 then (if 0 ≤ a then 0x7FFFFFFF else 0x80000000, 4)
       else sat (Int.tdiv (a * 2 ^ n) b) (decide (b * Int.tdiv (a * 2 ^ n) b ≠ a * 2 ^ n)))) ∧
    (keyOf w = key 0x38 0x0D → exec (.xshl t) s = res 1 (sat (a * 2 ^ n) false)) ∧
    (keyOf w = key 0x38 0x0E → exec (.xsar t) s = res 1 (low (a / 2 ^ n), b2n (decide (a % 2 ^ n ≠ 0)))) ∧
    (keyOf w = key 0x38 0x0F → exec (.xcmp t) s =
      .next (s.leaves t w { tr.setP (fCd w % 8) cmp with scq := tr.scq ++ [⟨tr.slot + 1, 16, 0, 0⟩] })) ∧
    (keyOf w = key 0x38 0x12 → exec (.smov t) s = res 1 (tr.scr (fCa w), 0)) ∧
    (keyOf w = key 0x38 0x13 → exec (.xabs t) s = res 1 (sat (if a < 0 then -a else a) false)) ∧
    (keyOf w = key 0x38 0x14 → exec (.xneg t) s = res 1 (sat (-a) false)) ∧
    (keyOf w = key 0x38 0x17 → exec (.xclip t) s = res 1 (low (if d < a then a else if b < d then b else d), 0))

/-- R149, R146: the binary32 operations with their latencies; FABS and FNEG act on the sign bit alone. -/
def Claims.ScaleBinary32 : Prop :=
  ∀ (s : State) (t : TraderId) (w : Nat), s.Issues t w → s.part.scale = true → s.scSound t →
    let tr := s.at_ t w
    let x := tr.scr (fCa w)
    let a := Fp.ofBits x
    let b := Fp.ofBits (tr.scr (fCb w))
    let d := Fp.ofBits (tr.scr (fCd w))
    let n := w % 32
    let res (l : Nat) (x : Nat × Nat) : Out :=
      .next (s.leaves t w { tr with scq := tr.scq ++ [⟨tr.slot + l, fCd w, x.1, x.2⟩] })
    let cmp := fpCond (w % 8) a b
    (keyOf w = key 0x38 0x01 → exec (.fadd t) s = res 2 (fpAddF a b)) ∧
    (keyOf w = key 0x38 0x02 → exec (.fsub t) s = res 2 (if b.isNan then fpAddF a b else fpAddF a b.negate)) ∧
    (keyOf w = key 0x38 0x03 → exec (.fmul t) s = res 2 (fpMulF a b)) ∧
    (keyOf w = key 0x38 0x04 → exec (.fmac t) s = res 3 (fpMacF d a b)) ∧
    (keyOf w = key 0x38 0x05 → exec (.fdiv t) s = res 8 (fpDivF a b)) ∧
    (keyOf w = key 0x38 0x06 → exec (.fsqrt t) s = res 8 (fpSqrtF a)) ∧
    (keyOf w = key 0x38 0x07 → exec (.fcmp t) s = .next (s.leaves t w
      { tr.setP (fCd w % 8) cmp.1 with scq := tr.scq ++ [⟨tr.slot + 1, 16, 0, cmp.2⟩] })) ∧
    (keyOf w = key 0x38 0x10 → exec (.ftox t) s = res 2 (fpToX a n)) ∧
    (keyOf w = key 0x38 0x11 → exec (.xtof t) s = res 2 (xToFp (sgn 32 x) n)) ∧
    (keyOf w = key 0x38 0x15 → exec (.fabs t) s = res 1 (x % 2 ^ 31, 0)) ∧
    (keyOf w = key 0x38 0x16 → exec (.fneg t) s = res 1 ((x + 2 ^ 31) % 2 ^ 32, 0)) ∧
    (keyOf w = key 0x38 0x18 → exec (.fclip t) s = res 1 (fpClip d a b))

/-- R147, R148, R149, R146: every binary32 operation completes in its issue slot with a result that lands after its latency, and
where the exact result of finite operands is a normal number, it is that number, without a flag. -/
def Claims.Binary32Exact : Prop :=
  ∀ (s : State) (t : TraderId) (w : Nat), s.Issues t w → s.part.scale = true → s.scSound t →
    let tr := s.at_ t w
    let a := tr.scr (fCa w)
    let b := tr.scr (fCb w)
    let d := tr.scr (fCd w)
    let ua := f32Units a
    let ub := f32Units b
    let ud := f32Units d
    let n := w % 32
    let unit : Int := 2 ^ 149
    let done (l : Nat) (x : Out) (p : Nat × Nat → Prop) : Prop := ∃ r : Nat × Nat,
      x = .next (s.leaves t w { tr with scq := tr.scq ++ [⟨tr.slot + l, fCd w, r.1, r.2⟩] }) ∧ r.1 < 2 ^ 32 ∧ r.2 < 16 ∧ p r
    let exact (r : Nat × Nat) (is : Int → Prop) : Prop :=
      f32Finite a → f32Finite b → ∀ z, f32Normal z → is (f32Units z) → r = (z, 0)
    let cmp : Bool := match w % 8 with
      | 0 => decide (ua = ub) | 1 => decide (ua ≠ ub) | 2 => decide (ua < ub) | 3 => decide (ub ≤ ua)
      | 4 => decide (ua ≤ ub) | 5 => decide (ub < ua) | _ => false
    (keyOf w = key 0x38 0x01 → done 2 (exec (.fadd t) s) (fun r => exact r (fun z => z = ua + ub) ∧
      (f32Finite a → f32Finite b → ua ≠ 0 → ua + ub = 0 → r = (0, 0)))) ∧
    (keyOf w = key 0x38 0x02 → done 2 (exec (.fsub t) s) (fun r => exact r (fun z => z = ua - ub) ∧
      (f32Finite a → f32Finite b → ua ≠ 0 → ua = ub → r = (0, 0)))) ∧
    (keyOf w = key 0x38 0x03 → done 2 (exec (.fmul t) s) (fun r => exact r (fun z => z * unit = ua * ub))) ∧
    (keyOf w = key 0x38 0x04 →
      done 3 (exec (.fmac t) s) (fun r => f32Finite d → exact r (fun z => z * unit = ud * unit + ua * ub))) ∧
    (keyOf w = key 0x38 0x05 → done 8 (exec (.fdiv t) s) (fun r => ub ≠ 0 → exact r (fun z => z * ub = ua * unit))) ∧
    (keyOf w = key 0x38 0x06 → done 8 (exec (.fsqrt t) s)
      (fun r => f32Finite a → ∀ z, f32Normal z → 0 < f32Units z → f32Units z * f32Units z = ua * unit → r = (z, 0))) ∧
    (keyOf w = key 0x38 0x07 → ∃ c fl, exec (.fcmp t) s = .next (s.leaves t w
      { tr.setP (fCd w % 8) c with scq := tr.scq ++ [⟨tr.slot + 1, 16, 0, fl⟩] }) ∧ fl < 16 ∧
      (f32Finite a → f32Finite b → c = cmp ∧ fl = 0)) ∧
    (keyOf w = key 0x38 0x10 → done 2 (exec (.ftox t) s)
      (fun r => f32Finite a → ∀ z < 2 ^ 32, sgn 32 z * unit = ua * 2 ^ n → r = (z, 0))) ∧
    (keyOf w = key 0x38 0x11 → done 2 (exec (.xtof t) s)
      (fun r => (∀ z, f32Normal z → f32Units z * 2 ^ n = sgn 32 a * unit → r = (z, 0)) ∧ (a = 0 → r = (0, 0)))) ∧
    (keyOf w = key 0x38 0x15 → done 1 (exec (.fabs t) s) (fun r => r = (a % 2 ^ 31, 0))) ∧
    (keyOf w = key 0x38 0x16 → done 1 (exec (.fneg t) s) (fun r => r = ((a + 2 ^ 31) % 2 ^ 32, 0))) ∧
    (keyOf w = key 0x38 0x18 → done 1 (exec (.fclip t) s) (fun r => f32Finite a → f32Finite b → f32Finite d →
      f32Units r.1 = (if ud < ua then ua else if ub < ud then ub else ud) ∧ r.2 = 0))

/-- R147: rounding is to nearest, ties to even, and INX tells a result that is not exact. -/
def Claims.RoundsToNearestEven : Prop :=
  ∀ (neg : Bool) (m : Nat) (e : Int), 2 ^ 24 ≤ m → -126 ≤ e + Nat.log2 m → e + Nat.log2 m < 127 →
    let x := fpRound neg m e false
    ∃ (q : Nat) (e' : Int), Fp.ofBits x.1 = .fin neg q e' ∧ e ≤ e' ∧
      (let r : Nat := q * 2 ^ (e' - e).toNat
       let u : Nat := 2 ^ (Nat.log2 m - 23)
       2 * (m - r) ≤ u ∧ 2 * (r - m) ≤ u ∧ ((2 * (m - r) = u ∨ 2 * (r - m) = u) → q % 2 = 0) ∧
       x.2 = if r = m then 0 else 1)

/-- R147: what the operations give on zeros, infinities and NaNs, and the flags DZ (4) and INV (8). -/
def Claims.Binary32SpecialValues : Prop :=
  (∀ a b : Fp, (a.isNan ∨ b.isNan) → (fpAddF a b).1 = 0x7FC00000 ∧ (fpMulF a b).1 = 0x7FC00000 ∧ (fpDivF a b).1 = 0x7FC00000 ∧
    ((fpAddF a b).2 = 8 ↔ (a = .nan true ∨ b = .nan true))) ∧
  (∀ x y : Bool, fpMulF (.zero x) (.inf y) = (0x7FC00000, 8) ∧ fpMulF (.inf x) (.zero y) = (0x7FC00000, 8) ∧
    fpDivF (.zero x) (.zero y) = (0x7FC00000, 8) ∧ fpDivF (.inf x) (.inf y) = (0x7FC00000, 8) ∧
    fpAddF (.inf x) (.inf !x) = (0x7FC00000, 8) ∧ fpSqrtF (.inf true) = (0x7FC00000, 8) ∧
    fpSqrtF (.zero x) = (b2n x * 2 ^ 31, 0)) ∧
  (∀ (x y : Bool) (m : Nat) (e : Int), fpDivF (.fin x m e) (.zero y) = (b2n (x != y) * 2 ^ 31 + 0x7F800000, 4) ∧
    fpSqrtF (.fin true m e) = (0x7FC00000, 8)) ∧
  (∀ (a b : Fp) (c : Nat), (a.isNan ∨ b.isNan) → c < 7 →
    (fpCond c a b).1 = decide (c = 1 ∨ c = 6) ∧ (2 ≤ c → c ≤ 5 → (fpCond c a b).2 = 8)) ∧
  (∀ x : Nat, x < 2 ^ 32 → x / 2 ^ 23 % 256 = 0 → Fp.ofBits x = .zero (decide (2 ^ 31 ≤ x)))

/-- R150, R167: on a part without CP0 an operation writes nothing and takes CP_ABSENT with number 0, resuming after it. -/
def Claims.ScaleAbsent : Prop :=
  ∀ (s : State) (t : TraderId) (w : Nat), s.Issues t w → s.part.scale = false →
    let tr := (s.at_ t w).endCheck (s.at_ t w).pc
    ∀ x ∈ [(Instr.snop t, 0x00), (.fadd t, 0x01), (.fsub t, 0x02), (.fmul t, 0x03), (.fmac t, 0x04), (.fdiv t, 0x05), (.fsqrt t, 0x06),
      (.fcmp t, 0x07), (.xadd t, 0x08), (.xsub t, 0x09), (.xmul t, 0x0A), (.xmac t, 0x0B), (.xdiv t, 0x0C), (.xshl t, 0x0D),
      (.xsar t, 0x0E), (.xcmp t, 0x0F), (.ftox t, 0x10), (.xtof t, 0x11), (.smov t, 0x12), (.xabs t, 0x13), (.xneg t, 0x14),
      (.fabs t, 0x15), (.fneg t, 0x16), (.xclip t, 0x17), (.fclip t, 0x18)],
      keyOf w = key 0x38 x.2 →
      exec x.1 s = .next ((s.final t w).setTrader t { tr with trap := some ⟨14, 0, 0, w, tr.pc⟩ })

/-- R84, R99, R123, R426: an operation of CP1 to CP7 is passed to its unit with its fields, its guard outcome and its trader
number, refused as BAD_CP_OP, held, or takes CP_ABSENT; its result comes back. -/
def Claims.CoprocessorOperations : Prop :=
  (∀ (s : State) (t : TraderId) (w : Nat) (ans : CpxAnswer), s.Issues t w → keyOf w = key 0x39 →
    let n := fMajor w - 0x38
    let f := s.final t w
    let tr := s.at_ t w
    let tr' := tr.endCheck tr.pc
    let op : CpxOp := ⟨n, fOp w, fCd w, fCa w, fCb w, fXf w, true, t.t, (f.cpLatency t n).map (fun l => tr.slot + l)⟩
    (bit s.part.cpMap n = true →
      exec (.cpxOperation t .taken) s = .next (s.leaves t w { tr with cpOut := tr.cpOut ++ [op] }) ∧
      exec (.cpxOperation t .notReady) s = .next ((s.inSlot t).unsched t) ∧
      (let g := (s.inSlot t).trader t
       exec (.cpxOperation t .illegal) s = .next ((s.inSlot t).setTrader t { g with trap := some ⟨12, 0x0B, 0, w, g.pc⟩ }))) ∧
    (bit s.part.cpMap n = false →
      exec (.cpxOperation t ans) s = .next (f.setTrader t { tr' with trap := some ⟨14, n, 0, w, tr'.pc⟩ }))) ∧
  (∀ (s : State) (t : TraderId) (pred : Option (Nat × Bool)) (xs ys : List CpxOp) (e : CpxOp),
    let tr := s.trader t
    let tr' := { tr with cpOut := xs ++ ys }
    tr.cpOut = xs ++ e :: ys → (∀ x ∈ xs, e.due.getD 0 < x.due.getD 0) → (∀ y ∈ ys, e.due.getD 0 ≤ y.due.getD 0) → s.idleSlots t = false → e.due.getD 0 ≤ tr.slot ∨ (s.clocked t = true ∧ e.due.getD 0 ≤ s.nextSlot t / 16) →
    exec (.cpxResultReturn t pred) s = .next (s.setTrader t (match pred with
      | some (i, b) => if e.guard = false ∨ i = 0 then tr' else { tr' with p := tr'.p.setIfInBounds i b }
      | none => tr')))

/-! ## Registers (R8, R21 to R24) -/

/-- R8, R321: a 32-bit host write to a register without a step of its own sets each field by its access code, and changes
nothing else; a bit that the hardware sets in the tick of a W1C write stays set (R9), and no instruction of the crier cycle has
written the register (R192). Beside the registers the model keeps what the write changes later: from when a trim window runs, what a
crier still sees in this cycle, what a pad carried before, and the selector that an event of this tick still meets. -/
def Claims.HostRegisterWrite : Prop :=
  ∀ (s : State) (p addr : Nat) (data : List Byte) (r : Reg), s.portOpen p = true → data.length = 4 → addr % 4 = 0 →
    s.hostReg addr = some (r, false) → s.reached r = true → r.name ∈ plainNames → s.faults = [] → s.heldAt addr = none →
    (r.name.ofCrier = true → ∀ d, Tab.find s.crDid ⟨r.a, r.b, r.c⟩ = some d → d.cycle ≠ s.cycle r.a r.b) →
    let i : Ix := ⟨r.a, r.b, r.c, r.d⟩
    ∃ s', exec (.registerWrite (.host p) addr data) s = .next s' ∧
      (∀ f ∈ r.name.fields,
        let v := ofBytes data / 2 ^ f.lo % 2 ^ (f.hi + 1 - f.lo)
        (f.acc = .RW → s'.get f i = v) ∧
        (f.acc = .W1C → ∀ k < f.hi + 1 - f.lo, (s'.get f i).testBit k =
          ((s.get f i).testBit k && (!v.testBit k || (notedAt s.hwSet r s.tick).testBit (f.lo + k)))) ∧
        (f.acc = .W1S → s'.get f i = s.get f i ||| v) ∧
        (f.acc = .RO ∨ f.acc = .RC → s'.get f i = s.get f i)) ∧
      s.regsBut s' [r] ∧
      { s'.noRegs with till := s.till, crWas := s.crWas, traders := s.traders, pins := s.pins, axes := s.axes } = s.noRegs ∧
      { s'.till with trimFrom := s.till.trimFrom } = s.till ∧ s.padsNote s' ∧
      (∀ u, { s'.trader u with hselWas := (s.trader u).hselWas } = s.trader u)

/-- R23: a host writes a register of 64 bits low word first; the write of the high word takes effect on both. R24: a trader
writes a register of one byte with that byte. -/
def Claims.WideAndNarrowRegisterWrites : Prop :=
  (∀ (s : State) (p lo hi : Nat) (x y : List Byte) (r : Reg), s.portOpen p = true → x.length = 4 → y.length = 4 → lo % 4 = 0 →
    hi % 4 = 0 → s.hostReg lo = some (r, false) → s.hostReg hi = some (r, true) → s.reached r = true →
    r.name ∈ [.TILL_ALARM, .TAX_VCMD, .TAX_PRESET, .TR_HOSTPG, .PT_MAC] → s.faults = [] → s.heldAt lo = none → s.heldAt hi = none →
    ∃ s' s'', exec (.registerWrite (.host p) lo x) s = .next s' ∧ (∀ q, s'.rd q = s.rd q) ∧
      exec (.registerWrite (.host p) hi y) s' = .next s'' ∧
      (∀ f ∈ r.name.fields, f.acc = .RW → s''.get f ⟨r.a, r.b, r.c, r.d⟩ =
        (ofBytes x + 2 ^ 32 * ofBytes y) / 2 ^ f.lo % 2 ^ (f.hi + 1 - f.lo)) ∧ s.regsBut s'' [r]) ∧
  (∀ (s : State) (t : TraderId) (b : Byte) (f : Field), s.asleep = false → s.faults = [] →
    f ∈ [AX_SEL.AXIS, TM_SEL.MARK, CT_SEL.COUNTER] → t.h < s.part.halls →
    ∃ s', exec (.registerWrite (.trader t) f.reg.place.2 [b]) s = .next s' ∧
      s'.get f t.ix = b.toNat % 2 ^ (f.hi + 1) ∧ s.regsBut s' [t.ix.reg f.reg] ∧ s'.noRegs = s.noRegs)

/-- R321, R377, R389: the accesses of a port keep their order: while one of them is held, a later one is held behind it, to whatever
unit it goes; a write of an array waits while the arrays are cleared; and in NAP and OFF the port rows change nothing. -/
def Claims.PortOrder : Prop :=
  ∀ (s : State) (p h k c : Nat) (v : Word) (page : Bool),
    let by_ : Accessor := .host p
    let arrays : List Instr := [.instructionPageWrite p h k c c v, .queueDescriptorWrite p h k c v, .brIdataWrite by_ h k v]
    let rows : List (Instr × Nat) := arrays.map (fun r => (r, h)) ++ [(.controlStoreWrite p h k c v, h), (.cartStart p h c, h), (.cartAbort p h c, h), (.cartPause p h c, h), (.cartResume p h c, h),
      (.cartEngineResume p h, h), (.ctCtrlWrite by_ h c v, h), (.ctPeriodWrite by_ h c v, h), (.ctCountWrite by_ h c v, h),
      (.ctInputWrite by_ h c v, h), (.chainRead by_ h c, h), (.taxCtrlWrite by_ k v, 8), (.preset by_ k, 8), (.clearLost by_ k, 8),
      (.arm by_ h c v, h), (.disarm by_ h c v, h), (.crTxfPush by_ ⟨h, k, c⟩ v, h), (.crFifoWrite by_ ⟨h, k, c⟩ v, h),
      (.restart by_ ⟨h, k, c⟩, h), (.flush by_ ⟨h, k, c⟩, h), (.brClkWrite by_ h k v, h), (.barrowPageSel by_ h k page, h),
      (.lnCtrlWrite p h k v, h), (.lnGroupWrite p h k v, h), (.pinCfgWrite p h k v, h), (.pinCfgShWrite p h k v, h),
      (.pinOutSet p h k v, h), (.pinOutClr p h k v, h), (.pinHoldSet p h k v, h), (.pinHoldClr p h k v, h), (.pinEvtWrite p h k v, h),
      (.pswMapWrite p h k v, h), (.ptMboxWrite p h k v, h), (.txRun p h k page, h), (.rxRun p h k page, h), (.blRing by_ h v, h),
      (.orCtrlWrite p k v, 8), (.chitAcknowledge p k v, 8), (.crCtrlWrite p k v, 8), (.chitMaskSet p k v, 8), (.chitMaskClr p k v, 8),
      (.chitPendSet p k v, 8), (.chitPendClr p k v, 8)]
    (∀ r ∈ rows, s.asleep = true → exec r.1 s = .next s) ∧
    (∀ r ∈ rows, ∀ e, s.asleep = false → s.held.find? (fun e => e.1 == p) = some e →
      exec r.1 s = .next { s with held := s.held ++ [(p, e.2.1, r.1)] }) ∧
    (∀ i ∈ arrays, s.portOpen p = true → h < s.part.halls → s.clearing = true → exec i s = .next { s with held := s.held ++ [(p, h, i)] })

/-- R8, R9: a host read of 32 bits of an RC register returns its value, and the field keeps what its cycle adds; a read of another
width returns 0 and clears nothing (R321). R399: the counter of a unit raises its chit afresh after the read. -/
def Claims.ReadClearsCounters : Prop :=
  ∀ (s : State) (p addr added : Nat) (o : MemOutcome) (r : Reg), s.portOpen p = true → addr % 4 = 0 → s.hostReg addr = some (r, false) →
    s.reached r = true →
    r.name ∈ [.FT_CORR_DEV, .HP_ERRCNT, .HP_HMBUSY, .CR_LOST, .LN_FEC_CORR, .LN_FEC_UNCORR, .LN_RX_DROP, .PT_STAT, .HL_GRANT,
      .HL_CONFLICT, .CE_HMBUSY, .CH_DCOUNT, .FT_CORR_HM, .FT_CORR_BR, .FT_CORR_PT, .FT_CORR_CE, .FT_CORR] →
    s.heldAt addr = none → winMem addr = none →
    (∀ n, n ≠ 4 → exec (.readClear (.host p) addr n added o) s =
      .next { s with readOut := 0, readData := List.replicate n 0, readErr := false }) ∧
    ∃ s', exec (.readClear (.host p) addr 4 added o) s = .next s' ∧ s'.readData = toBytes 4 (s.rd r % 2 ^ 32) ∧ s'.readOut = BitVec.ofNat 32 (s.rd r) ∧ s'.readErr = false ∧
      (∀ f ∈ r.name.fields, f.acc = .RC → s'.get f ⟨r.a, r.b, r.c, r.d⟩ = min added (2 ^ (f.hi + 1 - f.lo) - 1)) ∧
      s.regsBut s' [r] ∧
      { s'.noRegs with readOut := s.readOut, readData := s.readData, readErr := s.readErr, corrTold := s.corrTold } = s.noRegs ∧
      ∀ k, r.corrNum = some k → (r.a, k) ∉ s'.corrTold

/-! ## Resets (R374, R377, R378, R418) -/

/-- R374, R377, R418: power-on reset, and the device reset with its cause: registers outside the power block stand at reset, and the
arrays keep their contents, the Scale registers among them; under PORST_N a fall of RESET_N only stands; the release of the last of
the two pins starts the count. -/
def Claims.DeviceResets : Prop :=
  (∀ s : State, exec .powerOnReset s = .next { State.reset with
    part := s.part, dbg := { en := s.dbg.en }, power := { porst := true, rst := s.power.rst }, readOut := s.readOut, freeIx := s.freeIx,
    pending := s.pending }) ∧
  (∀ (s : State) (src : ResetSrc), (src = .debug → s.dbg.en = true) → (src = .pin → s.power.porst = false) → ∃ s', exec (.deviceReset src) s = .next s' ∧
    s'.get PWR_RESET_CAUSE.CAUSE = (match src with | .pin => 2 | .register => 3 | .debug => 4) ∧
    (∀ r : Reg, r.name.ofPower = false → r.name ≠ .CS_VERSION → s'.rd r = r.resetValue s.part) ∧
    (∀ r : Reg, r.name ∈ [.PWR_CTRL, .PWR_VSETTLE, .WK_CTRL, .WK_CAUSE, .WK_I2C, .WK_PIN] → s'.rd r = s.rd r) ∧
    s'.is PWR_STATUS.FULL = false ∧ s'.get PWR_STATUS.STATE = 0 ∧ s'.jobs = [] ∧ s'.chits = [] ∧
    s'.reqs = [] ∧ s'.tick = 0 ∧ s'.part = s.part ∧ s'.pending = s.pending ∧
    (s.tokens = [] → s.power.step ≠ .asleep 6 → s'.mem = s.mem) ∧
    (s.power.step ≠ .asleep 6 → ∀ t, s'.trader t = (s.trader t).bare) ∧
    (s.power.step = .asleep 6 → s'.mem = [] ∧ s'.traders = [] ∧ s'.is PWR_STATUS.MEM_CLEAR = false)) ∧
  (∀ s : State, s.power.porst = true → exec (.deviceReset .pin) s = .next { s with power := { s.power with rst := true } }) ∧
  (∀ (s : State) (porst : Bool), s.power.held = true →
    let p := if porst then { s.power with porst := false } else { s.power with rst := false }
    exec (.resetRelease porst) s =
      .next (if p.held then { s with power := p } else { s with tick := 0, till := { s.till with base := 0 }, power := p }))

/-- R374: resets of a hall, a stall and a porter: what their scope holds stands at reset. -/
def Claims.PartialResets : Prop :=
  (∀ (s : State) (h : Nat), h < s.part.halls → ∃ s', exec (.hallReset h) s = .next s' ∧
    (∀ r : Reg, r.inHall h = true → s'.rd r = r.resetValue s.part) ∧ s'.get PWR_RESET_CAUSE.CAUSE = 0x10 + h ∧
    (∀ f n, s'.trader ⟨h, f, n⟩ = (s.trader ⟨h, f, n⟩).bare) ∧ (∀ m, s'.mark h m = {} ∧ s'.counter h m = {} ∧ s'.pin h m = {} ∧ s'.lane h m = {}) ∧
    (∀ c, c.h = h → s'.crier c = {}) ∧ (∀ u, u.h ≠ h → s'.trader u = s.trader u)) ∧
  (∀ (s : State) (h f : Nat), h < s.part.halls → f < s.part.stalls → s.failover h = none →
    ∃ s', exec (.stallReset h f) s = .next s' ∧
      (∀ r : Reg, r.name.ofStall = true → r.a = h → r.b = f → s'.rd r = r.resetValue s.part) ∧
      (∀ n < 16, s'.trader ⟨h, f, n⟩ = { (s.trader ⟨h, f, n⟩).bare with stores := (s'.trader ⟨h, f, n⟩).stores }) ∧ s'.stall h f = {} ∧
      Tab.find s'.stallSlot (h, f) = none ∧ (∀ k, k ≠ (h, f) → Tab.find s'.stallSlot k = Tab.find s.stallSlot k) ∧
      (∀ u, (u.h ≠ h ∨ u.s ≠ f) → s'.trader u = s.trader u)) ∧
  (∀ (s : State) (h k : Nat), h < s.part.halls → 4 * h + k < s.part.lanes → k < 4 →
    ∃ s', exec (.porterReset h k) s = .next s' ∧
      (∀ r : Reg, r.name.ofLane = true → r.a = h → r.b = k → r.name ≠ .CS_VERSION → r.name ≠ .PT_ENTRY →
        s'.rd r = r.resetValue s.part) ∧
      s'.lane h k = {} ∧ (∀ th, s'.thread h k th = {}) ∧ (∀ j, j ≠ k → s'.lane h j = s.lane h j))

/-- R377 to R380: the early market: the memories are clear, and the accesses that waited for it are made; H0.S0.T0 to T3 start in the
boot ROM, and a switch by the host brings full service. -/
def Claims.EarlyMarket : Prop :=
  (∀ s : State, s.power.held = false → s.asleep = false → s.held = [] → s.faults = [] →
    ∃ s', exec .memoryClearDone s = .next s' ∧ s'.is PWR_STATUS.MEM_CLEAR = true ∧ s'.mem = s.mem ∧ s'.traders = s.traders ∧
      s.regsBut s' [({} : Ix).reg .PWR_STATUS]) ∧
  (∀ (s : State) (p addr h o : Nat) (data : List Byte), s.Inv → s.power.held = false → s.asleep = false → s.faults = [] →
    h < s.part.halls → winMem addr = some (.hall h o) → o + data.length ≤ 0x400000 → 1 ≤ data.length → data.length ≤ 64 →
    s.held = [(p, h, .windowMemoryWrite p addr data)] → ∃ s', exec .memoryClearDone s = .next s' ∧ s'.held = [] ∧
      (let a := (Arr.hallMem h).base + o
       ∀ y, Memory.read s'.mem y = if a ≤ y ∧ y < a + data.length then (data[y - a]?).getD 0 else Memory.read s.mem y)) ∧
  (∀ s : State, s.power.held = false → s.asleep = false → s.is PWR_STATUS.FULL = false → (s.trader ⟨0, 0, 0⟩).inRom = false →
    ∃ s', exec .bootRomStart s = .next s' ∧
      (∀ n < 4, let tr := s'.trader ⟨0, 0, n⟩
        tr.running = true ∧ tr.inRom = true ∧ tr.pc = 0 ∧ tr.wait = if n = 0 then .none else .wfe) ∧
      (∀ u, (u.h ≠ 0 ∨ u.s ≠ 0 ∨ 4 ≤ u.t) → s'.trader u = s.trader u) ∧ s'.regs = s.regs ∧ s'.mem = s.mem) ∧
  (∀ (s : State) (p : Nat), s.portOpen p = true → s.power.romRuns = true → s.is PWR_STATUS.FULL = false → s.power.left = none → s.chitRoom →
    ∃ s', exec (.clockSwitch (.host p)) s = .next s' ∧ s'.is PWR_STATUS.FULL = true ∧ s'.is PWR_STATUS.CORE_LOCK = true ∧
      s'.get PWR_STATUS.PL = s.get PWR_CTRL.BOOT_PL % 4 ∧ s'.is PWR_CLK.ON_FIO = false ∧ s'.is PWR_CLK.PLL_SEL = false ∧
      s'.showsChit ⟨0x40, 0, 0, 0⟩ (s.get PWR_RESET_CAUSE.CAUSE) s.tick ∧ s'.mem = s.mem)

/-! ## The till (R26, R30, R31, R378) -/

/-- R26, R378: the till PLL locks: the till goes on from its value on the FIO by one increment and counts on the PLL. R30:
the reference is lost and comes back. R31: the alarm, which does not fire at the till
at which it was written. R28: the trim, of a window that nothing has interrupted. -/
def Claims.TillEvents : Prop :=
  (∀ s : State, s.till.clk = .fio → s.till.refUp = true → s.power.held = false → s.till.base ≤ s.tick →
    ∃ s', exec .tillPllLock s = .next s' ∧ s'.till.clk = .pll ∧ s'.tick = s.tillNow + 40 ∧ s'.tillNow = s.tillNow + 40 ∧
      s'.is TILL_STATUS.LOCKED = true ∧ s'.is TILL_STATUS.COARSE = false ∧ s'.is TILL_STATUS.ON_LFO = false ∧
      (∀ n < 16, s'.is TAX_STATUS.EARLY (ix n) = false) ∧ s'.mem = s.mem) ∧
  (∀ s : State, s.till.clk = .pll → s.till.refUp = true → s.faults = [] →
    (∀ e ∈ s.lanes, e.2.training = none) → (∀ h k, s.lnState h k ≠ 2) → (∀ h, s.is FT_WIND.REFCLK (ix h) = false) → s.power.job = none → s.chitRoom →
    ∃ s', exec .refLost s = .next s' ∧ s'.till = { s.till with refUp := false } ∧ s'.is TILL_STATUS.HOLDOVER = true ∧
      s'.is TILL_STATUS.REF_LOST = true ∧ s'.showsChit ⟨0x08, 0, 0, 0⟩ 1 s.tick ∧
      s.regsBut s' [({} : Ix).reg .TILL_STATUS]) ∧
  (∀ s : State, exec .refBack s = .next { s with till := { s.till with refUp := true } }) ∧
  (∀ s : State, s.is TILL_STATUS.HOLDOVER = true → s.till.refUp = true → s.chitRoom →
    ∃ s', exec .holdoverExit s = .next s' ∧ s'.is TILL_STATUS.HOLDOVER = false ∧ s'.showsChit ⟨0x08, 0, 0, 0⟩ 0 s.tick ∧
      s.regsBut s' [({} : Ix).reg .TILL_STATUS] ∧ { s'.noRegs with chits := s.chits } = s.noRegs) ∧
  (∀ s : State, s.is TILL_CTRL.ALARM_EN = true → s.is TILL_CTRL.ALARM_WAKE = false → s.chitRoom →
    (s.tillNow < s.get TILL_ALARM.VAL ∨ s.till.alarmAt = some s.tillNow → exec .tillAlarmFire s = .next s) ∧
    (s.get TILL_ALARM.VAL ≤ s.tillNow → s.till.alarmAt ≠ some s.tillNow → ∃ s', exec .tillAlarmFire s = .next s' ∧ s'.is TILL_STATUS.ALARM_HIT = true ∧
      s'.is TILL_CTRL.ALARM_EN = false ∧ s'.showsChit ⟨0x06, 0, 0, 0⟩ (s.get TILL_ALARM.VAL) s.tick ∧
      s.regsBut s' [({} : Ix).reg .TILL_STATUS, ({} : Ix).reg .TILL_CTRL] ∧
      { s'.noRegs with chits := s.chits } = s.noRegs)) ∧
  (∀ (s : State) (m : Nat), s.is TILL_CTRL.TRIM_AUTO = true → s.till.clk = .pll →
    (s.tick < s.till.trimFrom + m → exec (.lfoTrimMeasure m) s = .next s) ∧
    (s.till.trimFrom + m ≤ s.tick → ∃ s', exec (.lfoTrimMeasure m) s = .next s' ∧
      s'.rd (({} : Ix).reg .TILL_LFO_INC) = m % 2 ^ 32 ∧ s.regsBut s' [({} : Ix).reg .TILL_LFO_INC] ∧
      s'.noRegs = { s.noRegs with till := { s.till with trimFrom := s.tick } }))

/-! ## A stall's memories, its cache and its pairs (R69 to R78, R321, R401, R403, R406, R373) -/

/-- R71: a change of PAGE_SEL exchanges the IMEM pages of a stall whose traders are stopped, and is refused otherwise. -/
def Claims.ImemPages : Prop :=
  ∀ (s : State) (by_ : Accessor) (h f : Nat) (page : Bool), s.reachesStall by_ h f = true → s.holdsWord by_ h f = none →
    s.portOpen (accPort by_) = true → (s.stall h f).swapEnd ≤ s.tick → s.page h f < 2 →
    let i := ix h f
    ∃ s', exec (.pageSel by_ h f page) s = .next s' ∧
      (let stopped := ∀ n < 16, (s.trader ⟨h, f, n⟩).running = false
       (b2n page = s.page h f → s'.is STL_CTRL.PAGE_SEL i = page ∧ s'.page h f = s.page h f ∧ s'.traders = s.traders) ∧
       (b2n page ≠ s.page h f → stopped → s'.is STL_CTRL.PAGE_SEL i = page ∧ s'.page h f = b2n page ∧
         ∀ n < 16, (s'.trader ⟨h, f, n⟩).lbuf = none) ∧
       (b2n page ≠ s.page h f → ¬stopped → s'.is STL_STATUS.PAGE_REFUSED i = true ∧ s'.page h f = s.page h f ∧
         s'.is STL_CTRL.PAGE_SEL i = s.is STL_CTRL.PAGE_SEL i ∧ s'.traders = s.traders)) ∧
      s'.mem = s.mem ∧ s.regsBut s' [i.reg .STL_CTRL, i.reg .STL_STATUS]

/-- R76 to R78, R74: the instruction cache: its invalidation, and the fill of a line, which takes a way that holds none while
there is one; a line with a double-bit error is not kept, and the traders that wait for it meet the error (R168). -/
def Claims.InstructionCache : Prop :=
  (∀ (s : State) (by_ : Accessor) (h f : Nat), s.reachesStall by_ h f = true → s.holdsWord by_ h f = none →
    s.portOpen (accPort by_) = true → ∃ s', exec (.inval by_ h f) s = .next s' ∧ (s'.stall h f).lines = [] ∧
    (s'.stall h f).inval = true ∧ s'.is STL_ICACHE.INVAL_BUSY (ix h f) = true ∧ s.regsBut s' [(ix h f).reg .STL_ICACHE] ∧
    (∀ n < 16, ∀ b, (s'.trader ⟨h, f, n⟩).lbuf = some b → b.le < 0x2000 ∧ b.ls ≤ b.le) ∧ s'.mem = s.mem) ∧
  (∀ (s : State) (h f : Nat), (s.stall h f).inval = true → ∃ s', exec (.icacheInvalEnd h f) s = .next s' ∧
    s'.stall h f = { s.stall h f with inval := false } ∧ s'.is STL_ICACHE.INVAL_BUSY (ix h f) = false ∧
    s.regsBut s' [(ix h f).reg .STL_ICACHE] ∧ { s'.noRegs with stalls := s.stalls } = s.noRegs) ∧
  (∀ (s : State) (h f line : Nat), (s.stall h f).fill = some line → s.errorIn (.hallMem h) line 64 = none → s.clearing = false →
    s.is STL_ICACHE.EN (ix h f) = true → (s.stall h f).inval = false → s.faults = [] →
    ∃ s' way, exec (.icacheLineFill h f .ok) s = .next s' ∧ (s'.stall h f).fill = none ∧ s'.is STL_STATUS.FILL (ix h f) = false ∧
      way < 4 ∧ (∀ v < 4, (∀ l ∈ (s.stall h f).lines, l.set = line / 64 % 64 → l.way ≠ v) →
        ∀ l ∈ (s.stall h f).lines, l.set = line / 64 % 64 → l.way ≠ way) ∧
      (s'.stall h f).lines = ⟨line / 64 % 64, way, line, s.bytesAt (.hallMem h) line 64⟩ ::
        (s.stall h f).lines.filter (fun l => !(l.set == line / 64 % 64 && l.way == way)) ∧
      (∀ n < 16, let t : TraderId := ⟨h, f, n⟩
        let tr := s.trader t
        tr.missing = true → 0x2000 ≤ tr.pc → s.codeAddr t tr.pc / 64 * 64 = line →
        s'.trader t = { tr with badFill := false, missing := false, fetched := some (tr.pc,
          field (s.bytesAt (.hallMem h) line 64) (s.codeAddr t tr.pc % 64) 4) }) ∧ s'.mem = s.mem) ∧
  (∀ (s : State) (h f line : Nat), (s.stall h f).fill = some line → s.errorIn (.hallMem h) line 64 = some true →
    s.clearing = false → s.faults = [] →
    ∃ s', exec (.icacheLineFill h f .ok) s = .next s' ∧ (s'.stall h f).fill = none ∧ (s'.stall h f).lines = (s.stall h f).lines ∧
      (∀ n < 16, let tr := s.trader ⟨h, f, n⟩
        tr.missing = true → 0x2000 ≤ tr.pc → s.codeAddr ⟨h, f, n⟩ tr.pc / 64 * 64 = line →
        s'.trader ⟨h, f, n⟩ = { tr with badFill := true, missing := false, fetched := some (tr.pc, 0) }) ∧ s'.mem = s.mem)

/-- R72, R321: host writes to IMEM, of 32 bits and aligned, and to the other memories of the window store their bytes and no
other. -/
def Claims.WindowWrites : Prop :=
  (∀ (s : State) (p h f page off : Nat) (data : List Byte), s.Inv → h < s.part.halls → f < s.part.stalls → s.failover h = none →
    s.get FT_LOCKSTEP.PAIR (ix h) = 0 → s.memHeld (.imem h f page off) = false → s.portOpen p = true → page < 2 → off % 4 = 0 → off + 4 ≤ 0x8000 → data.length = 4 →
    ∃ s', exec (.imemWrite p h f page off data) s = .next s' ∧
      (let a := (Arr.imem h f page).base + off
       ∀ y, Memory.read s'.mem y = if a ≤ y ∧ y < a + 4 then (data[y - a]?).getD 0 else Memory.read s.mem y) ∧
      (page = s.page h f → ∀ n < 16, ∀ b, (s'.trader ⟨h, f, n⟩).lbuf = some b → b.holds (off / 4) = false) ∧
      s'.regs = s.regs) ∧
  (∀ (s : State) (p o h : Nat) (data : List Byte), s.Inv → s.portOpen p = true → h < s.part.halls → s.clearing = false → o + data.length ≤ 0x400000 → 1 ≤ data.length →
    data.length ≤ 64 → ∃ s', exec (.windowMemoryWrite p (0x2000000 + 0x400000 * h + o) data) s = .next s' ∧
      (let a := (Arr.hallMem h).base + o
       ∀ y, Memory.read s'.mem y = if a ≤ y ∧ y < a + data.length then (data[y - a]?).getD 0 else Memory.read s.mem y) ∧
      s.regsBut s' [(ix h 15).reg .HL_GRANT] ∧ s'.traders = s.traders)

/-- R401, R403, R406, R373: lockstep pairs, fail-over by request, and releases of the holds of a hall. -/
def Claims.PairsAndReleases : Prop :=
  (∀ (s : State) (p h j : Nat) (v : Word), s.portOpen p = true → j < 4 → h < s.part.halls →
    let old := s.get FT_LOCKSTEP.PAIR (ix h)
    (∀ i < 4, i ≠ j → bit v.toNat i = bit old i) → bit v.toNat j = true → bit old j = false →
    (∀ n < 16, (s.trader ⟨h, 2 * j, n⟩).running = false ∧ (s.trader ⟨h, 2 * j + 1, n⟩).running = false) →
    s.get FT_STALL.STATE (ix h (2 * j)) ≠ 3 → s.get FT_STALL.STATE (ix h (2 * j + 1)) ≠ 3 →
    ∃ s', exec (.ftLockstepWrite p h v) s = .next s' ∧ s'.get FT_LOCKSTEP.PAIR (ix h) = old + 2 ^ j ∧
      s'.get STL_SELF.ROLE (ix h (2 * j + 1)) = 0xE ∧ s'.get FT_STALL.STATE (ix h (2 * j + 1)) = 4 ∧
      s.regsBut s' [(ix h).reg .FT_LOCKSTEP, (ix h (2 * j + 1)).reg .STL_SELF, (ix h (2 * j + 1)).reg .FT_STALL] ∧
      s'.noRegs = s.noRegs) ∧
  (∀ (s : State) (p h role f : Nat), role < 8 → h < s.part.halls → s.roleStall h role = some f → f < 8 → s.faults = [] →
    s.get FT_LOCKSTEP.PAIR (ix h) = 0 → s.is FT_ROLE.FO_EN (ix h role) = true → s.get FT_STALL.STATE (ix h 8) = 1 →
    s.failover h = none → s.part.stalls = 9 → s.portOpen p = true → s.get FT_STALL.STATE (ix h f) ≠ 3 →
    (∀ n < 16, (s.trader ⟨h, f, n⟩).trap = none) →
    ∃ s' o, exec (.failRequest p h role) s = .next s' ∧ s'.failover h = some o ∧ o.role = role ∧ o.f = f ∧ o.cause = 6 ∧
      o.at_ = s.tick ∧ o.switched = false ∧ s'.get FT_STALL.STATE (ix h f) = 3 ∧ s'.get FT_STALL.CAUSE (ix h f) = 6) ∧
  (∀ (s : State) (p h : Nat), s.portOpen p = true → h < s.part.halls → (∀ d ∈ s.deferred, d.1 ≠ h) →
    ∃ s' s'', exec (.failRelease p h) s = .next s' ∧ exec (.windRelease p h) s = .next s'' ∧
    (∀ i < 128, s'.is PIN_STATUS.HOLD_FAIL (ix h i) = false ∧ s''.is PIN_STATUS.HOLD_WIND (ix h i) = false) ∧
    (∀ r : Reg, r.name ≠ .PIN_STATUS → s'.rd r = s.rd r ∧ s''.rd r = s.rd r) ∧
    { s'.noRegs with pins := s.pins } = s.noRegs ∧ { s''.noRegs with pins := s.pins } = s.noRegs)

/-! ## Tally axes (R32 to R41) -/

/-- R34, R35: an update from a measurement: position and velocity are the exact results rounded to the nearest, halves away
from zero, and apply from tu + 32. -/
def Claims.EstimatorUpdate : Prop :=
  ∀ (s : State) (n : Nat) (z tm : Int), n < 16 → s.updateDue n = true → s.faults = [] → s.swaps = [] → s.wind = none → s.jobs = [] →
    let i := ix n
    let a := s.axis n
    s.get TAX_CTRL.SRC i ∈ [1, 2, 3] → 6 ≤ s.get TAX_CTRL.K i → s.get TAX_CTRL.K i ≤ 20 → a.notBefore = 0 → a.meas = some (z, tm) →
    s.is TAX_STATUS.LOST i = false → s.is TAX_STATUS.COASTING i = false → a.wakeRecover = false → a.presetPend = false →
    a.clearPend = false → a.calPreset = none →
    let tu : Nat := a.t + 2 ^ s.get TAX_CTRL.K i
    let dt : Int := (tu : Int) - a.t
    let r : Int := z * 2 ^ 24 - (a.p * 2 ^ 24 + a.v * (min tm tu - a.t))
    let nearest (x d N : Int) : Prop := 2 * (x * d - N) ≤ d ∧ 2 * (N - x * d) ≤ d ∧
      ((2 * (x * d - N) = d → 0 ≤ N) ∧ (2 * (N - x * d) = d → N ≤ 0))
    let k : Int := 2 ^ 16 * 2 ^ s.get TAX_CTRL.K i
    ∃ s' p v, exec (.estimatorUpdate n) s = .next s' ∧
      nearest p (2 ^ 40) ((a.p * 2 ^ 24 + a.v * dt) * 2 ^ 16 + s.get TAX_GAIN.ALPHA i * r) ∧
      nearest v k (a.v * k + s.get TAX_GAIN.BETA i * r) ∧
      (s'.axis n).p = wrapS 64 p ∧ (s'.axis n).v = wrapS 64 v ∧ (s'.axis n).t = tu ∧ (s'.axis n).meas = none ∧
      (∀ now, now < tu + 32 → (s'.axis n).inForce now = a.inForce tu) ∧
      (∀ now, tu + 32 ≤ now → (s'.axis n).inForce now = (wrapS 64 p, wrapS 64 v, tu)) ∧
      (∀ m, m ≠ n → s'.axis m = s.axis m) ∧ s'.mem = s.mem

/-- R34: a synthesised axis moves with the commanded velocity. R38: a lost axis stands, and the last update of a coast loses
the axis, in force from tu + 32 (R35); R39: a preset sets the position and keeps the velocity, CLEAR_LOST the reverse. -/
def Claims.CommandedLostAndPresetAxes : Prop :=
  ∀ (s : State) (n : Nat), n < 16 → s.updateDue n = true → s.faults = [] → s.swaps = [] → s.wind = none → s.jobs = [] →
    let i := ix n
    let a := s.axis n
    6 ≤ s.get TAX_CTRL.K i → s.get TAX_CTRL.K i ≤ 20 → a.notBefore = 0 → a.calPreset = none → a.wakeRecover = false →
    let tu : Nat := a.t + 2 ^ s.get TAX_CTRL.K i
    (s.get TAX_CTRL.SRC i = 4 → a.presetPend = false → a.clearPend = false → s.is TAX_STATUS.LOST i = false → s.is TAX_STATUS.COASTING i = false →
      ∃ s' p, exec (.estimatorUpdate n) s = .next s' ∧
        (let v := sgn 64 (s.rd (i.reg .TAX_VCMD))
         let N := a.p * 2 ^ 24 + v * ((tu : Int) - a.t)
         2 * (p * 2 ^ 24 - N) ≤ 2 ^ 24 ∧ 2 * (N - p * 2 ^ 24) ≤ 2 ^ 24 ∧ (s'.axis n).p = wrapS 64 p ∧ (s'.axis n).v = v ∧
           (s'.axis n).t = tu)) ∧
    (s.get TAX_CTRL.SRC i = 1 → a.presetPend = false → a.clearPend = false → s.is TAX_STATUS.LOST i = true → s.is TAX_STATUS.COASTING i = false →
      ∃ s', exec (.estimatorUpdate n) s = .next s' ∧ (s'.axis n).p = wrapS 64 a.p ∧ (s'.axis n).v = wrapS 64 a.v ∧
        s'.is TAX_STATUS.LOST i = true) ∧
    (s.get TAX_CTRL.SRC i = 1 → a.presetPend = true → a.clearPend = false → a.meas.isSome = true →
      ∃ s', exec (.estimatorUpdate n) s = .next s' ∧ (s'.axis n).p = sgn 64 (s.rd (i.reg .TAX_PRESET)) ∧ (s'.axis n).v = wrapS 64 a.v ∧
        s'.is TAX_STATUS.LOST i = false ∧ s'.is TAX_STATUS.COASTING i = false ∧ s'.is TAX_STATUS.STEP i = true) ∧
    (s.get TAX_CTRL.SRC i = 1 → a.presetPend = false → a.clearPend = true → a.meas.isSome = true →
      ∃ s', exec (.estimatorUpdate n) s = .next s' ∧ (s'.axis n).p = wrapS 64 a.p ∧ (s'.axis n).v = 0 ∧
        s'.is TAX_STATUS.LOST i = false ∧ s'.is TAX_STATUS.COASTING i = false ∧ s'.is TAX_STATUS.STEP i = true) ∧
    (s.get TAX_CTRL.SRC i = 1 → a.presetPend = false → a.clearPend = false → s.is TAX_STATUS.LOST i = false →
      s.is TAX_STATUS.COASTING i = true → a.coast ≤ 1 →
      ∃ s', exec (.estimatorUpdate n) s = .next s' ∧ s'.is TAX_STATUS.LOST i = true ∧ s'.is TAX_STATUS.COASTING i = false ∧
        (s'.axis n).v = 0 ∧ ∀ now, now < tu + 32 → (s'.axis n).inForce now = a.inForce tu)

/-- R32, R33: an edge that the filter accepts counts one up along 00, 10, 11, 01 and one down against it, and is the
measurement, on a disabled axis too; a line whose pin has its input off reads 0; two lines at once are an error, and so are
edges closer than 320 ticks. -/
def Claims.QuadratureEdges : Prop :=
  ∀ (s : State) (n : Nat) (pa pb : Bool) (tm : Nat), n < 16 → s.asleep = false →
    let i := ix n
    let a := s.axis n
    let la := pa && s.quadInput n TAX_SRC.POS_A
    let lb := pb && s.quadInput n TAX_SRC.POS_B
    let phase (x y : Bool) : Nat := if x then (if y then 2 else 1) else (if y then 3 else 0)
    s.get TAX_CTRL.SRC i = 1 → s.faults = [] → tm % 16 = 0 → tm + 16 * s.get TAX_SRC.QFILT i ≤ s.tick →
    ((phase la lb = (phase a.lineA a.lineB + 1) % 4 ∨ phase a.lineA a.lineB = (phase la lb + 1) % 4) →
      (∀ l, a.lastEdge = some l → l + 320 ≤ tm) → (∀ l, a.lastTm = some l → l ≤ tm) →
      let up : Bool := decide (phase la lb = (phase a.lineA a.lineB + 1) % 4)
      let z := wrapS 64 (a.z + if up = s.is TAX_CTRL.INVERT i then -2 ^ 24 else 2 ^ 24)
      exec (.quadratureEdge n pa pb tm) s = .next (s.setAxis n
        { a with lineA := la, lineB := lb, z := z, meas := some (z, tm), lastTm := some tm, lastEdge := some tm })) ∧
    (la ≠ a.lineA → lb ≠ a.lineB → s.get TAX_CTRL.COAST i ≠ 0 → s.is TAX_STATUS.LOST i = false → s.is TAX_STATUS.COASTING i = false →
      ∃ s', exec (.quadratureEdge n pa pb tm) s = .next s' ∧ s'.is TAX_STATUS.QUAD_ERR i = true ∧
        s'.is TAX_STATUS.COASTING i = true ∧ (s'.axis n).z = a.z ∧ s.regsBut s' [i.reg .TAX_STATUS]) ∧
    (∀ l, a.lastEdge = some l → tm < l + 320 → (la = a.lineA ↔ lb ≠ a.lineB) → s.get TAX_CTRL.COAST i ≠ 0 →
      s.is TAX_STATUS.LOST i = false → s.is TAX_STATUS.COASTING i = false →
      ∃ s', exec (.quadratureEdge n pa pb tm) s = .next s' ∧ s'.is TAX_STATUS.OVERSPEED i = true ∧
        s'.is TAX_STATUS.COASTING i = true ∧ (s'.axis n).z = a.z ∧ (s'.axis n).lineA = la ∧ (s'.axis n).lineB = lb ∧
        s.regsBut s' [i.reg .TAX_STATUS])

/-- R36, R39, R44: writes of TAX_CTRL and of TAX_CMD. -/
def Claims.AxisCommands : Prop :=
  ∀ (s : State) (by_ : Accessor) (n : Nat) (v : Word), s.portOpen (accPort by_) = true →
    let i := ix n
    let a := s.axis n
    let stops := s.is TAX_CTRL.ENABLE i = true ∧ bit v.toNat 31 = false
    (∃ s', exec (.taxCtrlWrite by_ n v) s = .next s' ∧ s'.rd (i.reg .TAX_CTRL) = v.toNat / 2 ^ 15 * 2 ^ 15 ∧
      s.regsBut s' [i.reg .TAX_CTRL, i.reg .TAX_STATUS] ∧
      (s'.get TAX_CTRL.SRC i ≠ 4 → s'.rd (i.reg .TAX_STATUS) = s.rd (i.reg .TAX_STATUS)) ∧
      -- a synthesised axis is never lost: the model's choice, assumption log 124
      (s'.get TAX_CTRL.SRC i = 4 → s'.is TAX_STATUS.LOST i = false ∧ s'.is TAX_STATUS.COASTING i = false) ∧
      (∀ m, m ≠ n → s'.axis m = s.axis m) ∧ (s'.axis n).p = a.p ∧ (s'.axis n).v = a.v ∧
      (s.is TAX_CTRL.ENABLE i = false → bit v.toNat 31 = true → (s'.axis n).t = s.tick ∧ (s'.axis n).meas = none) ∧
      -- the marks of an axis that is disabled wait (R44)
      (stops → ∀ h m, s.is TM_STATUS.ARMED (ix h m) = true → (s.mark h m).axis = n → (s.mark h m).committed = false →
        (s'.mark h m).inst = none) ∧ (¬stops → s'.marks = s.marks) ∧
      { s'.noRegs with axes := s.axes, marks := s.marks } = s.noRegs) ∧
    exec (.preset by_ n) s = .next (s.setAxis n { a with presetPend := true }) ∧
    exec (.clearLost by_ n) s = .next (s.setAxis n { a with clearPend := true })

/-! ## Tally marks (R43 to R50) -/

/-- R43, R44, R45: an arming takes target and step, and a target ahead of a moving axis projects to the nearest instant:
committed when the next update would come too late for it. -/
def Claims.ArmingAMark : Prop :=
  ∀ (s : State) (by_ : Accessor) (h m : Nat) (v : Word),
    let i := ix h m
    let x := v.toNat
    let n := x / 2 ^ 26 % 16
    let target := sgn 64 (s.rd (i.reg .TM_TARGET))
    let step := sgn 64 (s.rd (i.reg .TM_STEP))
    s.portOpen (accPort by_) = true → s.reachesHall by_ h = true → bit x 30 = false → (s.is TM_STATUS.ARMED i = true → (s.mark h m).imminent s.tick = false) →
    (x / 2 ^ 24 % 4 = 3 → ∃ s', exec (.arm by_ h m v) s = .next s' ∧ s'.is TM_STATUS.CFG_ERR i = true ∧ s'.mark h m = s.mark h m ∧
      s'.is TM_STATUS.ARMED i = s.is TM_STATUS.ARMED i) ∧
    (x / 2 ^ 24 % 4 = 0 → bit x 22 = false → s.is TAX_CTRL.ENABLE (ix n) = true → s.is TAX_STATUS.LOST (ix n) = false →
      let f := (s.axis n).inForce s.tick
      let p := f.1
      let vel := f.2.1
      (s.get TAX_VMIN.VAL (ix n) : Int) < vel →
      0 < target * 2 ^ 24 - (p * 2 ^ 24 + vel * ((s.tick : Int) - f.2.2)) →
      ∃ s' d, exec (.arm by_ h m v) s = .next s' ∧ s'.is TM_STATUS.ARMED i = true ∧ (s'.mark h m).cfg = x % 2 ^ 31 + 2 ^ 31 ∧ (s'.mark h m).target = target ∧
        (s'.mark h m).step = step ∧
        -- d: the nearest number of ticks after t at which the target is reached, of two the later
        2 * (d * vel - (target - p) * 2 ^ 24) ≤ vel ∧ 2 * ((target - p) * 2 ^ 24 - d * vel) < vel ∧
        (let inst := f.2.2 + d
         let tn : Int := s.nextUpdate n
         (s.tick + 2 ^ 40 < inst → (s'.mark h m).inst = none) ∧
         (inst ≤ s.tick + 2 ^ 40 → tn + 96 ≤ inst → (s'.mark h m).inst = some inst.toNat ∧ (s'.mark h m).committed = false) ∧
         (inst ≤ s.tick + 2 ^ 40 → inst < tn + 96 → s.tick + 64 ≤ inst →
           (s'.mark h m).inst = some inst.toNat ∧ (s'.mark h m).committed = true ∧ (s'.mark h m).slip = false) ∧
         (inst < tn + 96 → inst < s.tick + 64 →
           (s'.mark h m).inst = some (s.tick + 64) ∧ (s'.mark h m).committed = true ∧ (s'.mark h m).slip = true)))

/-- R49: DISARM withdraws an arming unless its committed instant is less than 64 ticks away. R47: an action, and the end of a
pulse; R51: no action in NAP or OFF. -/
def Claims.MarkActions : Prop :=
  (∀ (s : State) (by_ : Accessor) (h m : Nat) (v : Word), s.portOpen (accPort by_) = true → s.reachesHall by_ h = true →
    bit v.toNat 31 = false → (s.is TM_STATUS.ARMED (ix h m) = false ∨ (s.mark h m).imminent s.tick = false →
      ∃ s', exec (.disarm by_ h m v) s = .next s' ∧ s'.is TM_STATUS.ARMED (ix h m) = false ∧ (s'.mark h m).inst = none ∧
        s.regsBut s' [(ix h m).reg .TM_STATUS]) ∧
    (s.is TM_STATUS.ARMED (ix h m) = true → (s.mark h m).imminent s.tick = true → exec (.disarm by_ h m v) s = .next s)) ∧
  (∀ (s : State) (h m i : Nat), s.faults = [] → s.asleep = false →
    let mk := s.mark h m
    let act := mk.action
    mk.inst = some i → mk.committed = true → s.is TM_STATUS.ARMED (ix h m) = true → i ≤ s.tick → bit act 21 = false → bit act 14 = false →
    bit act 28 = false → bit act 15 = false → mk.nextArm = none → bit mk.cfg 22 = false → i < 2 ^ 64 →
    ∃ s', exec (.markAction h m) s = .next s' ∧ s'.rd ((ix h m).reg .TM_ACTED_AT) = i ∧
      s'.get TM_COUNT.VAL (ix h m) = (s.get TM_COUNT.VAL (ix h m) + 1) % 2 ^ 32 ∧ s'.is TM_STATUS.FIRED (ix h m) = true ∧
      (mk.late = true → s'.is TM_STATUS.LATE (ix h m) = true) ∧ (mk.slip = true → s'.is TM_STATUS.SLIP (ix h m) = true) ∧
      s'.is TM_STATUS.ARMED (ix h m) = false ∧
      (s'.mark h m).level = (match act / 2 ^ 29 % 8 with | 1 | 4 => true | 2 | 5 => false | 3 => !mk.level | _ => mk.level) ∧
      (act / 2 ^ 29 % 8 = 4 ∨ act / 2 ^ 29 % 8 = 5 →
        (s'.mark h m).pulseEnd = some (i + max 1 (s.get TM_PULSE.PULSE_TICKS (ix h m)))) ∧
      s.regsBut s' [(ix h m).reg .TM_ACTED_AT, (ix h m).reg .TM_COUNT, (ix h m).reg .TM_STATUS] ∧
      (∀ k, k ≠ (h, m) → s'.mark k.1 k.2 = s.mark k.1 k.2) ∧
      { s'.noRegs with marks := s.marks, pins := s.pins, axes := s.axes } = s.noRegs ∧ s.padsNote s') ∧
  (∀ (s : State) (h m : Nat), s.asleep = true → exec (.markAction h m) s = .next s) ∧
  (∀ (s : State) (h m e : Nat), (s.mark h m).pulseEnd = some e →
    (s.tick < e → exec (.pulseEnd h m) s = .next s) ∧
    (e ≤ s.tick → ∃ s', exec (.pulseEnd h m) s = .next s' ∧
      s'.marks = (s.setMark h m { s.mark h m with level := !(s.mark h m).level, pulseEnd := none }).marks ∧
      { s' with marks := s.marks, pins := s.pins, axes := s.axes } = s ∧ s.padsNote s'))

/-! ## Counters (R52 to R60) -/

/-- R54, R56, R57: a tick-clocked counter counts one a tick until its next arrival. -/
def Claims.CountersCount : Prop :=
  ∀ (s : State) (h c n : Nat),
    let i := ix h c
    let at_ := (s.counter h c).asOf
    let v := s.get CT_COUNT.VAL i
    let p := s.get CT_PERIOD.VAL i
    let m := s.get CT_COMPARE.VAL i
    s.is CT_CTRL.ENABLE i = true → s.get CT_CTRL.CLK_SRC i = 0 → v + n ≤ p → (m ≤ v ∨ v + n < m) →
    (s.ctTo h c (at_ + n)).get CT_COUNT.VAL i = v + n ∧
    s.regsBut (s.ctTo h c (at_ + n)) [i.reg .CT_COUNT] ∧ (s.ctTo h c (at_ + n)).mem = s.mem

/-- R56, R60: a match, also of a run-on past PERIOD (R55); R54: a wrap, of a run-on at 2^32, which clocks the counter above in
mode 3. -/
def Claims.MatchesAndWraps : Prop :=
  ∀ (s : State) (h c : Nat),
    let i := ix h c
    let v := s.get CT_COUNT.VAL i
    let p := s.get CT_PERIOD.VAL i
    let m := s.get CT_COMPARE.VAL i
    let out (s' : State) (act : Nat) : Prop := s'.is CT_CTRL.OUT_LEVEL i =
      (if act = 1 then true else if act = 2 then false else if act = 3 then !s.is CT_CTRL.OUT_LEVEL i else s.is CT_CTRL.OUT_LEVEL i)
    h < s.part.halls →
    let quiet := s.is CT_CTRL.MATCH_EV i = false ∧ s.is CT_CTRL.BELL_EN i = false ∧ s.is CT_CTRL.WRAP_EV i = false
    let due (d : Nat) : Prop := d ≤ ctSum (s.ctEvents h c s.tick)
    (v < m → (m ≤ p ∨ p < v) → due (m - v) → quiet →
      ∃ s', exec (.counterMatch h c) s = .next s' ∧ s'.get CT_COUNT.VAL i = m ∧ s'.is CT_STATUS.MATCH i = true ∧
        out s' (s.get CT_CTRL.CMP_OUT i) ∧ s.regsBut s' [i.reg .CT_COUNT, i.reg .CT_STATUS, i.reg .CT_CTRL] ∧
        (s.get CT_CTRL.CLK_SRC i = 0 → (s'.counter h c).asOf = (s.counter h c).asOf + (m - v))) ∧
    (m ≤ v → 0 < m → due (if v ≤ p then p - v + 1 else 2 ^ 32 - v) → quiet →
      ∃ s', exec (.counterWrap h c) s = .next s' ∧ s'.get CT_COUNT.VAL i = 0 ∧ s'.is CT_STATUS.WRAP i = true ∧
        out s' (s.get CT_CTRL.WRAP_OUT i) ∧ s.regsBut s' [i.reg .CT_COUNT, i.reg .CT_STATUS, i.reg .CT_CTRL] ∧
        (c < 63 → s.is CT_CTRL.ENABLE (ix h (c + 1)) = true → s.get CT_CTRL.CLK_SRC (ix h (c + 1)) = 3 →
          (s'.counter h (c + 1)).todo.length = (s.counter h (c + 1)).todo.length + 1))

/-- R52, R60, R141, R194: the first match of a tick raises the hall event 0x40 + c where MATCH_EV is 1 and rings the bell BELL_NUM
where BELL_EN is 1, and its first wrap raises 0x80 + c where WRAP_EV is 1: every selector of the hall that names the event becomes
pending, and the bell's watches are set. What a sleep holds back (R61) is not meant. -/
def Claims.CounterEvents : Prop :=
  ∀ (s : State) (h c : Nat),
    let i := ix h c
    let v := s.get CT_COUNT.VAL i
    let p := s.get CT_PERIOD.VAL i
    let m := s.get CT_COMPARE.VAL i
    let turn := if v ≤ p then p - v + 1 else 2 ^ 32 - v
    let due (d : Nat) : Prop := d ≤ ctSum (s.ctEvents h c s.tick) ∧ s.heldBack h (s.ctInstant h c d) = false
    let raised (s' : State) (num : Nat) : Prop := ∀ r ∈ Tab.keys s.regs, ∀ k, r.a = h → r.name.hsel = some k →
      let w := s.hselSeen r k (s.rd r)
      (bits w 8 0 = num → bit (s'.get EV_PEND.PEND r.trader.ix) k = true) ∧
      (bits w 24 16 = num → bit (s'.get EV_PEND.PEND r.trader.ix) (k + 1) = true)
    h < s.part.halls →
    (v < m → (m ≤ p ∨ p < v) → due (m - v) → (s.counter h c).lastMatch ≠ some (s.ctInstant h c (m - v)) →
      ∃ s', exec (.counterMatch h c) s = .next s' ∧ (s.is CT_CTRL.MATCH_EV i = true → raised s' (0x40 + c)) ∧
        (s.is CT_CTRL.BELL_EN i = true →
          let n := s.get CT_CTRL.BELL_NUM i
          (∀ t w, (s.trader t).watch = some w → s'.trader t =
            { s.trader t with watch := some { w with isSet := w.isSet || (t.h == h && !w.dev && w.bell == n) } }) ∧
          ∃ d ∈ s'.deliveries, d.h = h ∧ d.src = .bell n ∧ d.due = s.ctInstant h c (m - v) + 32)) ∧
    (m ≤ v → 0 < m → due turn → (s.counter h c).lastWrap ≠ some (s.ctInstant h c turn) →
      ∃ s', exec (.counterWrap h c) s = .next s' ∧ (s.is CT_CTRL.WRAP_EV i = true → raised s' (0x80 + c)))

/-- R52, R59: an accepted edge of a selected kind captures the count, the till of its first sample and CAPTURED; a capture over one
still marked sets CAP_OVR. -/
def Claims.CounterCaptures : Prop :=
  ∀ (s : State) (h c : Nat) (level : Bool) (tm p : Nat),
    let i := ix h c
    h < s.part.halls → s.ctPin h c = some p → s.inputOn h p = true →
    tm % 16 = 0 → tm + 16 * s.get CT_INPUT.FILT_LEN i ≤ s.tick → s.ctSettled h c = some !level →
    s.is CT_CTRL.ENABLE i = false → (∀ k < c, s.is CT_CTRL.ENABLE (ix h k) = false) → s.is CT_CTRL.CAP_EV i = false → tm < 2 ^ 64 →
    bit (s.get CT_INPUT.EDGE i) (if level then 0 else 1) = true → (s.counter h c).prescale = s.get CT_INPUT.PRESCALE i →
    ∃ s', exec (.counterPinEdge h c level tm) s = .next s' ∧ s'.get CT_CAPTURE.VAL i = s.get CT_COUNT.VAL i ∧
      s'.rd (i.reg .CT_CAP_TILL) = tm ∧ s'.is CT_STATUS.CAPTURED i = true ∧
      s'.is CT_STATUS.CAP_OVR i = (s.is CT_STATUS.CAP_OVR i || s.is CT_STATUS.CAPTURED i) ∧ (s'.counter h c).prescale = 0 ∧
      s.regsBut s' [i.reg .CT_CAPTURE, i.reg .CT_CAP_TILL, i.reg .CT_STATUS]

/-- R53, R55, R57, R58, R59: the writes of a counter and its chain read. -/
def Claims.CounterCommands : Prop :=
  ∀ (s : State) (by_ : Accessor) (h c : Nat) (v : Word),
    let i := ix h c
    let u := s.ctCatch h c s.tick
    s.portOpen (accPort by_) = true → s.reachesHall by_ h = true →
    (∃ s', exec (.ctPeriodWrite by_ h c v) s = .next s' ∧ s'.get CT_PERIOD.VAL i = v.toNat ∧
      s'.get CT_COUNT.VAL i = u.get CT_COUNT.VAL i ∧
      (v.toNat < u.get CT_COUNT.VAL i → s'.is CT_STATUS.PERIOD_PASSED i = true) ∧
      (u.get CT_COUNT.VAL i ≤ v.toNat → s'.is CT_STATUS.PERIOD_PASSED i = u.is CT_STATUS.PERIOD_PASSED i)) ∧
    (∃ s', exec (.ctCountWrite by_ h c v) s = .next s' ∧ s'.get CT_COUNT.VAL i = v.toNat ∧
      (∀ e ∈ (s'.counter h c).todo, s.tick < e.1) ∧ s.tick ≤ (s'.counter h c).asOf) ∧
    (∃ s', exec (.ctInputWrite by_ h c v) s = .next s' ∧ s'.rd (i.reg .CT_INPUT) = v.toNat / 128 * 128 ∧
      (s'.counter h c).prescale = 0 ∧ (s'.counter h c).level = none) ∧
    (∃ s', exec (.ctCtrlWrite by_ h c v) s = .next s' ∧
      (v.toNat / 2 ^ 28 % 8 < 3 → s'.rd (i.reg .CT_CTRL) = v.toNat / 128 * 128) ∧
      (4 ≤ v.toNat / 2 ^ 28 % 8 → s'.is CT_STATUS.CFG_REFUSED i = true ∧ s'.get CT_CTRL.CLK_SRC i = u.get CT_CTRL.CLK_SRC i)) ∧
    (u.get CT_CTRL.CLK_SRC i ≠ 3 → c + 1 < 64 → u.get CT_CTRL.CLK_SRC (ix h (c + 1)) = 3 →
      u.get CT_CTRL.CLK_SRC (ix h (c + 2)) ≠ 3 →
      ∃ s', exec (.chainRead by_ h c) s = .next s' ∧
        s'.get CT_COUNT_LATCH.VAL (ix h (c + 1)) = (u.ctTo h (c + 1) s.tick).get CT_COUNT.VAL (ix h (c + 1)))

/-! ## Crier instructions (R178 to R193) -/

/-- R183: SHOUT shifts n bits out of OSH, and HEAR n bits into ISH. -/
def Claims.CrierShifts : Prop :=
  ∀ (s : State) (c : CrierId) (w m : Nat) (pads : Byte),
    let n := w % 64 + 1
    let a := cA w
    let right := s.is CR_SHIFT.OUT_DIR c.ix
    let o := s.osh c
    let v := if right then o % 2 ^ n else o / 2 ^ (64 - n)
    let quiet := s.get CR_PINS.CUE_EN c.ix = 0
    let pos (p base : Nat) : Nat := (p + 8 - base) % 8
    (s.CrierIssues c 1 w m → (s.is CR_SHIFT.REFILL c.ix = false ∨ s.oshLeft c ≠ 0) →
      ∃ s', exec (.shout c pads) s = .next s' ∧ s.crierNext s' c w m ∧
        s'.osh c = (if right then o / 2 ^ n else o * 2 ^ n % 2 ^ 64) ∧ s'.oshLeft c = s.oshLeft c - n ∧
        s'.cx c = (if a = 2 then v % 2 ^ 32 else s.cx c) ∧ s'.cy c = (if a = 3 then v % 2 ^ 32 else s.cy c) ∧
        (quiet → ∀ p < 8, let k := pos p (s.get CR_PINS.OUT_BASE c.ix)
          let put : Bool := decide (k < n) && decide (k < s.get CR_PINS.OUT_COUNT c.ix)
          bit (s'.crier c).out p = (if a = 0 ∧ put then bit v k else bit (s.crier c).out p) ∧
          bit (s'.crier c).oe p = (if a = 1 ∧ put then bit v k else bit (s.crier c).oe p))) ∧
    (s.CrierIssues c 1 w m → s.is CR_SHIFT.REFILL c.ix = true → s.oshLeft c = 0 → (s.crier c).tx = [] →
      ∃ s', exec (.shout c pads) s = .next s' ∧ s.crierStalls s' c m 3 ∧ s'.osh c = o) ∧
    (s.CrierIssues c 2 w m → (s.is CR_SHIFT.SPILL c.ix = false ∨ s.ishFill c < s.spillAt c) →
      ∃ s' x, exec (.hear c pads) s = .next s' ∧ s.crierNext s' c w m ∧ x < 2 ^ n ∧
        (a = 0 → ∀ k < n, bit x k = bit (s.crierPads c.h c.b m pads) ((s.get CR_PINS.IN_BASE c.ix + k) % 8)) ∧
        (a = 1 → x = s.cx c % 2 ^ n) ∧ (a = 2 → x = s.cy c % 2 ^ n) ∧ (a = 3 → x = 0) ∧
        s'.ish c = (if s.is CR_SHIFT.IN_DIR c.ix then s.ish c / 2 ^ n + x * 2 ^ (64 - n) else s.ish c * 2 ^ n % 2 ^ 64 + x) ∧
        s'.ishFill c = min 64 (s.ishFill c + n))

/-- R184, R185: SET, MOVE and GOTO. -/
def Claims.CrierSetsMovesAndJumps : Prop :=
  ∀ (s : State) (c : CrierId) (w m : Nat) (pads : Byte),
    let a := cA w
    let v := w % 256
    let t := w % 64
    let lv := s.crierPads c.h c.b m pads
    let quiet := s.get CR_PINS.CUE_EN c.ix = 0
    let pos (p base : Nat) : Nat := (p + 8 - base) % 8
    let pins (s' : State) (dst base cnt v : Nat) : Prop := quiet → ∀ p < 8,
      let put : Bool := decide (pos p base < cnt)
      bit (s'.crier c).out p = (if dst = 0 ∧ put then bit v (pos p base) else bit (s.crier c).out p) ∧
      bit (s'.crier c).oe p = (if dst = 1 ∧ put then bit v (pos p base) else bit (s.crier c).oe p)
    let src := s.moveSrc c (cB w) lv
    let moved := match w / 16 % 4 with | 0 => src | 1 => 2 ^ 32 - 1 - src % 2 ^ 32 | _ => reverseBits 32 src
    let goes : Bool := match a with
      | 0 => true | 1 => s.cx c != 0 | 2 => s.cy c != 0 | 3 => decide (s.cx c < s.cy c) | 4 => bit lv (cB w)
      | 5 => !bit lv (cB w) | 6 => !(s.crier c).tx.isEmpty | _ => s.crc c == 0
    (s.CrierIssues c 0 w m → ∃ s', exec (.crierNop c pads) s = .next s' ∧ s.crierNext s' c w m ∧ s'.cx c = s.cx c ∧ s'.cy c = s.cy c ∧
      s'.osh c = s.osh c ∧ s'.ish c = s.ish c) ∧
    (s.CrierIssues c 3 w m → ∃ s', exec (.setPins c pads) s = .next s' ∧ s.crierNext s' c w m ∧
      s'.cx c = (if a = 2 then v else s.cx c) ∧ s'.cy c = (if a = 3 then v else s.cy c) ∧
      pins s' a (s.get CR_PINS.SET_BASE c.ix) (s.get CR_PINS.SET_COUNT c.ix) v) ∧
    (s.CrierIssues c 5 w m → ∃ s', exec (.crierGoto c pads) s = .next s' ∧
      s.crierWent s' c w m (if goes then t else s.crierNextPc c (s.get CR_STATUS_C.PC c.ix)) ∧
      s'.cx c = (if a = 1 then s.cx c - 1 else s.cx c) ∧ s'.cy c = (if a = 2 then s.cy c - 1 else s.cy c)) ∧
    (s.CrierIssues c 6 w m → ∃ s', exec (.crierMove c pads) s = .next s' ∧
      s.crierWent s' c w m (if a = 6 then moved % 64 else s.crierNextPc c (s.get CR_STATUS_C.PC c.ix)) ∧
      s'.cx c = (if a = 2 then moved % 2 ^ 32 else s.cx c) ∧ s'.cy c = (if a = 3 then moved % 2 ^ 32 else s.cy c) ∧
      (a = 4 → s'.ishFill c = 32 ∧ s'.ish c = if s.is CR_SHIFT.IN_DIR c.ix then moved * 2 ^ 32 % 2 ^ 64 else moved % 2 ^ 64) ∧
      (a = 5 → s'.oshLeft c = 32 ∧
        s'.osh c = if s.is CR_SHIFT.OUT_DIR c.ix then moved % 2 ^ 32 else moved % 2 ^ 32 * 2 ^ 32) ∧
      pins s' a (s.get CR_PINS.OUT_BASE c.ix) (min 8 (s.get CR_PINS.OUT_COUNT c.ix)) moved)

/-- R188, R190: PUSH moves ISH into the RX FIFO and PULL loads OSH from the TX FIFO; without room or entries they stall, or
go on as NOWAIT says. -/
def Claims.CrierFifoInstructions : Prop :=
  ∀ (s : State) (c : CrierId) (w m : Nat) (pads : Byte),
    let hi := BitVec.ofNat 32 (s.ish c / 2 ^ 32)
    let lo := BitVec.ofNat 32 (s.ish c)
    let right := s.is CR_SHIFT.IN_DIR c.ix
    let es : List Word := if s.ishFill c ≤ 32 then [if right then hi else lo] else if right then [lo, hi] else [hi, lo]
    let room := (s.crier c).rx.length + es.length ≤ s.rxCap c
    let tx := (s.crier c).tx
    let skip := bit w 1 = true ∧ s.ishFill c < s.spillAt c
    (s.CrierIssues c 7 w m → s.is CR_FIFO.RX_ROUTE c.ix = false →
      (skip → ∃ s', exec (.crierPush c pads) s = .next s' ∧ s.crierNext s' c w m ∧ s'.ish c = s.ish c ∧ (s'.crier c).rx = (s.crier c).rx) ∧
      (¬skip → room → ∃ s', exec (.crierPush c pads) s = .next s' ∧ s.crierNext s' c w m ∧ s'.ish c = 0 ∧ s'.ishFill c = 0 ∧
        (s'.crier c).rx = (s.crier c).rx ++ es) ∧
      (¬skip → ¬room → bit w 0 = true → ∃ s', exec (.crierPush c pads) s = .next s' ∧ s.crierNext s' c w m ∧ s'.ish c = 0 ∧
        s'.ishFill c = 0 ∧ (s'.crier c).rx = (s.crier c).rx ∧ s'.is CR_STATUS_C.RX_OVER c.ix = true) ∧
      (¬skip → ¬room → bit w 0 = false → ∃ s', exec (.crierPush c pads) s = .next s' ∧ s.crierStalls s' c m 4 ∧ s'.ish c = s.ish c)) ∧
    (s.CrierIssues c 8 w m →
      (bit w 1 = true → s.oshLeft c ≠ 0 → ∃ s', exec (.crierPull c pads) s = .next s' ∧ s.crierNext s' c w m ∧ s'.osh c = s.osh c) ∧
      (∀ x rest, tx = x :: rest → bit w 2 = false → (bit w 1 = false ∨ s.oshLeft c = 0) →
        ∃ s', exec (.crierPull c pads) s = .next s' ∧ s.crierNext s' c w m ∧ (s'.crier c).tx = rest ∧ s'.oshLeft c = 32 ∧
          s'.osh c = if s.is CR_SHIFT.OUT_DIR c.ix then x.toNat else x.toNat * 2 ^ 32) ∧
      (∀ x y rest, tx = x :: y :: rest → bit w 2 = true → (bit w 1 = false ∨ s.oshLeft c = 0) →
        ∃ s', exec (.crierPull c pads) s = .next s' ∧ s.crierNext s' c w m ∧ (s'.crier c).tx = rest ∧ s'.oshLeft c = 64 ∧
          s'.osh c = if s.is CR_SHIFT.OUT_DIR c.ix then y.toNat * 2 ^ 32 + x.toNat else x.toNat * 2 ^ 32 + y.toNat) ∧
      (tx = [] → bit w 0 = false → (bit w 1 = false ∨ s.oshLeft c = 0) →
        ∃ s', exec (.crierPull c pads) s = .next s' ∧ s.crierStalls s' c m 3 ∧ s'.osh c = s.osh c))

/-- R186, R187: PACE and the CRC instructions. -/
def Claims.CrierPaceAndCrc : Prop :=
  ∀ (s : State) (c : CrierId) (w m : Nat) (pads : Byte),
    let imm := w % 1024
    let x := s.cx c % 65536
    let width := s.crcW c
    let mode (r : Nat) (x : Out) (k : Nat) : Prop := s.CrierIssues c r w m →
      ∃ s', x = .next s' ∧ s.crierNext s' c w m ∧ s'.get CR_CRC_CFG.MODE c.ix = k
    (s.CrierIssues c 9 w m → ∃ s', exec (.crierPace c pads) s = .next s' ∧ s.crierNext s' c w m ∧ (s'.crier c).btAt = m + 1 ∧
      (w / 2 ^ 10 % 4 = 0 → s'.get CR_PACE.PERIOD c.ix = x ∧ s'.get CR_PACE.BT c.ix = (if x = 0 then 65536 else x) - 1) ∧
      (w / 2 ^ 10 % 4 = 1 → s'.get CR_PACE.PERIOD c.ix = (if imm = 0 then 1024 else imm) ∧
        s'.get CR_PACE.BT c.ix = (if imm = 0 then 1024 else imm) - 1) ∧
      (w / 2 ^ 10 % 4 = 2 → s'.get CR_PACE.BT c.ix = imm) ∧ (w / 2 ^ 10 % 4 = 3 → s'.get CR_PACE.BT c.ix = x)) ∧
    (s.CrierIssues c 0x10 w m → ∃ s', exec (.crcInit c pads) s = .next s' ∧ s.crierNext s' c w m ∧
      s'.crc c = s.get CR_CRC_INIT.INIT c.ix % 2 ^ width) ∧
    mode 0x11 (exec (.crcFeedOut c pads) s) 1 ∧ mode 0x12 (exec (.crcFeedIn c pads) s) 2 ∧ mode 0x13 (exec (.crcOff c pads) s) 0 ∧
    (s.CrierIssues c 0x14 w m → ∃ s', exec (.crcInsert c pads) s = .next s' ∧ s.crierNext s' c w m ∧ s'.oshLeft c = width ∧
      -- the first bit sent is CRC[W-1]
      ∀ k < width, bit (s'.osh c) (if s.is CR_SHIFT.OUT_DIR c.ix then k else 63 - k) = bit (s.crc c) (width - 1 - k)) ∧
    (s.CrierIssues c 0x15 w m → ∃ s', exec (.crcFeedX c pads) s = .next s' ∧ s.crierNext s' c w m ∧
      s'.crc c = ((List.range (w % 32 + 1)).reverse.map (fun i => bit (s.cx c) i)).foldl
        (crcFeed width (s.get CR_CRC_POLY.POLY c.ix)) (s.crc c))

/-- R193, R194, R186: an AWAIT completes in a cycle that meets its condition and stalls otherwise; a delivery and a pace tick
complete it. -/
def Claims.CrierWaits : Prop :=
  (∀ (s : State) (c : CrierId) (w m : Nat) (pads : Byte), s.CrierIssues c 4 w m →
    (w / 2 ^ 8 % 8 = 0 → bit (s.crierPads c.h c.b m pads) (w % 8) = bit w 11 →
      ∃ s', exec (.await c pads) s = .next s' ∧ s.crierNext s' c w m) ∧
    (w / 2 ^ 8 % 8 = 0 → bit (s.crierPads c.h c.b m pads) (w % 8) ≠ bit w 11 →
      ∃ s', exec (.await c pads) s = .next s' ∧ s.crierStalls s' c m 5) ∧
    (w / 2 ^ 8 % 8 = 3 → s.nextPace c = m → ∃ s', exec (.await c pads) s = .next s' ∧ s.crierNext s' c w m) ∧
    (w / 2 ^ 8 % 8 = 3 → m < s.nextPace c → (s.crier c).lastTick ≠ some m →
      ∃ s', exec (.await c pads) s = .next s' ∧ s.crierStalls s' c m 5) ∧
    (w / 2 ^ 8 % 8 = 1 ∨ w / 2 ^ 8 % 8 = 2 ∨ w / 2 ^ 8 % 8 = 4 →
      ∃ s', exec (.await c pads) s = .next s' ∧ s.crierStalls s' c m 5)) ∧
  (∀ (s : State) (h b k due : Nat) (d : Delivery), s.clkRun = true → k < 4 →
    let c : CrierId := ⟨h, b, k⟩
    let m := s.cycleFrom h b due
    let w := s.wordAt h b m (s.brPage h b) (s.get CR_STATUS_C.PC c.ix)
    ∀ n, d = ⟨h, .bell n, due, [b]⟩ → s.deliveries = [d] → s.delivers h b m = true →
      s.crierAwaits c 1 n m = true → (∀ j < 4, j ≠ k → s.crierRuns ⟨h, b, j⟩ = false) →
      (∀ j < 4, Tab.find s.crWas ⟨h, b, j⟩ = none) → crierLegal w = true →
      s.errorIn (.crierPage h b (s.brPage h b)) (4 * s.get CR_STATUS_C.PC c.ix) 3 = none →
      ∃ s', exec (.crierDelivery h b (.bell n)) s = .next s' ∧ s.crierNext { s' with deliveries := s.deliveries } c w m ∧
        s'.deliveries = []) ∧
  (∀ (s : State) (c : CrierId), s.crierRuns c = true → s.clkRun = true →
    let m := s.nextPace c
    let w := s.wordAt c.h c.b m (s.brPage c.h c.b) (s.get CR_STATUS_C.PC c.ix)
    m ≤ s.cycle c.h c.b → s.crierAwaits c 3 0 m = true → s.swapFirst c.h c.b m = false → Tab.find s.crWas c = none →
    crierLegal w = true → s.errorIn (.crierPage c.h c.b (s.brPage c.h c.b)) (4 * s.get CR_STATUS_C.PC c.ix) 3 = none →
    ∃ s', exec (.paceTick c) s = .next s' ∧ s.crierNext s' c w m ∧ s'.get CR_PACE.BT c.ix = (s.period c - 1) % 65536 ∧
      (s'.crier c).btAt = m + 1)

/-- R189, R191, R192, R198: the FIFOs seen from a port, and FLUSH and RESTART. -/
def Claims.CrierPorts : Prop :=
  ∀ (s : State) (by_ : Accessor) (c : CrierId) (v : Word),
    let r := s.crier c
    s.portOpen (accPort by_) = true → s.reachesBarrow by_ c.h c.b = true →
    (r.tx.length < s.txCap c → ∃ s', exec (.crTxfPush by_ c v) s = .next s' ∧ (s'.crier c).tx = r.tx ++ [v] ∧ s'.regs = s.regs) ∧
    (s.txCap c ≤ r.tx.length → ∃ s', exec (.crTxfPush by_ c v) s = .next s' ∧ s'.crier c = r ∧
      s'.is CR_STATUS_C.TX_OVER c.ix = true ∧ s.regsBut s' [c.ix.reg .CR_STATUS_C]) ∧
    (∀ p x rest, by_ = .host p → r.rx = x :: rest → ∃ s', exec (.crRxfPop (.host p) c) s = .next s' ∧ s'.readOut = x ∧
      (s'.crier c).rx = rest ∧ s'.regs = s.regs) ∧
    (∀ t x rest, by_ = .trader t → r.rx = x :: rest → ∃ s', exec (.crRxfPop (.trader t) c) s = .next s' ∧
      (s'.trader t).rlatch = some (c.ix.reg .CR_RXF, x.toNat) ∧ (s'.crier c).rx = rest ∧ s'.regs = s.regs) ∧
    (∀ p, by_ = .host p → r.rx = [] → ∃ s', exec (.crRxfPop (.host p) c) s = .next s' ∧ s'.readOut = 0 ∧ s'.is CR_STATUS_C.RX_UNDER c.ix = true) ∧
    (∃ s', exec (.flush by_ c) s = .next s' ∧ (s'.crier c).tx = [] ∧ (s'.crier c).rx = [] ∧ s'.regs = s.regs ∧
      s'.mem = s.mem) ∧
    (∃ s', exec (.restart by_ c) s = .next s' ∧ s'.get CR_STATUS_C.PC c.ix = s.get CR_EXEC.START_PC c.ix ∧ s'.ish c = 0 ∧ s'.ishFill c = 0 ∧
      s'.osh c = 0 ∧ s'.oshLeft c = 0 ∧ (s'.crier c).next = s.cycle c.h c.b + 1 ∧ (s'.crier c).tx = r.tx) ∧
    ((∀ d, Tab.find s.crDid c = some d → d.cycle ≠ s.cycle c.h c.b) → ∃ s', exec (.crFifoWrite by_ c v) s = .next s' ∧
      (v.toNat / 2 ^ 30 = s.get CR_FIFO.JOIN c.ix → s'.get CR_FIFO.RX_ROUTE c.ix = v.toNat / 2 ^ 29 % 2) ∧
      (v.toNat / 2 ^ 30 ≠ s.get CR_FIFO.JOIN c.ix → v.toNat / 2 ^ 30 = 3 ∨ s.crierRuns c = true →
        s'.is CR_STATUS_C.CFG_ERR c.ix = true ∧ s'.get CR_FIFO.JOIN c.ix = s.get CR_FIFO.JOIN c.ix) ∧
      (v.toNat / 2 ^ 30 ≠ s.get CR_FIFO.JOIN c.ix → v.toNat / 2 ^ 30 ≠ 3 → s.crierRuns c = false →
        s'.get CR_FIFO.JOIN c.ix = v.toNat / 2 ^ 30 ∧ (s'.crier c).tx = [] ∧ (s'.crier c).rx = []))

/-- R198, R194, R173, R195, R197, R201: the writes of a barrow: start, stop, kick, clock, instruction words and page. -/
def Claims.BarrowCommands : Prop :=
  ∀ (s : State) (by_ : Accessor) (h b : Nat) (v : Word), s.Inv → s.portOpen (accPort by_) = true → s.reachesBarrow by_ h b = true →
    let i := ix h b
    let w := s.barrow h b
    (∀ mask < 16, ∃ s', exec (.crierStart by_ h b mask) s = .next s' ∧
      s'.get BR_RUN_SET.RUN i = s.get BR_RUN_SET.RUN i ||| mask ∧
      ∀ k < 4, bit mask k = true → s.crierRuns ⟨h, b, k⟩ = false →
        (s'.crier ⟨h, b, k⟩).next = s.cycle h b + 1 ∧ s'.get CR_STATUS_C.STATE (ix h b k) = 1) ∧
    (∀ mask < 16, ∃ s', exec (.crierStop by_ h b mask) s = .next s' ∧
      (∀ k < 4, bit (s'.get BR_RUN_SET.RUN i) k = (bit (s.get BR_RUN_SET.RUN i) k && !bit mask k)) ∧
      ∀ k < 4, bit mask k = true → s.crierRuns ⟨h, b, k⟩ = true → s'.get CR_STATUS_C.STATE (ix h b k) = 0) ∧
    (∀ mask, exec (.kick by_ h b mask) s = .next (s.setBarrow h b { s.barrow h b with
      kicks := (s.barrow h b).kicks ++ [(s.cycleStart h b (s.cycle h b + 1) + 32, mask % 16)] })) ∧
    (∃ s', exec (.brClkWrite by_ h b v) s = .next s' ∧ s'.rd (i.reg .BR_CLK) = v.toNat ∧
      { s'.barrow h b with grids := w.grids } = { w with base := s.cycleStart h b (s.cycle h b + 1), cycle0 := s.cycle h b + 1 } ∧
      -- the cycle in progress still begins where it did
      (w.base < s.cycleStart h b (s.cycle h b + 1) → w.cycle0 ≤ s.cycle h b →
        s'.cycleStart h b (s.cycle h b) = s.cycleStart h b (s.cycle h b)) ∧
      s.regsBut s' [i.reg .BR_CLK]) ∧
    (s.clearing = false → let at_ := (Arr.crierPage h b (s.get BR_IADDR.PAGE i)).base + 4 * s.get BR_IADDR.WORD i
     ∃ s', exec (.brIdataWrite by_ h b v) s = .next s' ∧
      (∀ y, Memory.read s'.mem y = if at_ ≤ y ∧ y < at_ + 4 then BitVec.ofNat 8 (v.toNat % 2 ^ 24 / 256 ^ (y - at_)) else Memory.read s.mem y) ∧
      s'.get BR_IADDR.WORD i = (if s.is BR_IADDR.AUTO_INC i then (s.get BR_IADDR.WORD i + 1) % 64 else s.get BR_IADDR.WORD i) ∧
      s.regsBut s' [i.reg .BR_IADDR]) ∧
    (∀ p page k, s.portOpen p = true → s.clearing = false → let at_ := (Arr.crierPage h b page).base + 4 * k
     ∃ s', exec (.instructionPageWrite p h b page k v) s = .next s' ∧
      (∀ y, Memory.read s'.mem y = if at_ ≤ y ∧ y < at_ + 4 then BitVec.ofNat 8 (v.toNat % 2 ^ 24 / 256 ^ (y - at_)) else Memory.read s.mem y) ∧
      s'.regs = s.regs) ∧
    (∀ page : Bool, ∃ s', exec (.barrowPageSel by_ h b page) s = .next s' ∧ s'.is BR_CTRL.PAGE_SEL i = page ∧
      s'.brPage h b = s.brPage h b ∧
      -- a request for the other page replaces the one that waits, a swap's too
      (b2n page = s.brPage h b → s'.barrow h b = { w with selAt := none } ∧ s'.is BR_STATUS.PAGE_PEND i = w.swapPg) ∧
      (b2n page ≠ s.brPage h b → s'.is BR_STATUS.PAGE_PEND i = true ∧
        s'.barrow h b = { w with selAt := some (s.tick + 1), swapPg := false }))

/-! ## Pins (R203 to R224) -/

/-- R205, R206: writes of PIN_CFG: a refused one sets CFG_ERR alone; with a change of function the pad carries from the start
of cycle k on what it carried in cycle k - 1, until its switch-over ends. -/
def Claims.PinConfiguration : Prop :=
  ∀ (s : State) (p h i : Nat) (v : Word), h < s.part.halls →
    let x := ix h i
    let bad := v.toNat / 2 ^ 20 % 4 = 3 ∨ v.toNat / 2 ^ 15 % 4 = 3
    let k := s.switchStart h (i / 8)
    (s.portOpen p = true → bad → ∃ s' s'', exec (.pinCfgWrite p h i v) s = .next s' ∧ exec (.pinCfgShWrite p h i v) s = .next s'' ∧
      s'.is PIN_STATUS.CFG_ERR x = true ∧ s''.is PIN_STATUS.CFG_ERR x = true ∧ s.regsBut s' [x.reg .PIN_STATUS] ∧
      s.regsBut s'' [x.reg .PIN_STATUS] ∧ s'.noRegs = s.noRegs ∧ s''.noRegs = s.noRegs) ∧
    (s.portOpen p = true → s.cfgRefused h v.toNat i = false →
      (∃ s', exec (.pinCfgShWrite p h i v) s = .next s' ∧ s'.rd (x.reg .PIN_CFG_SH) = v.toNat / 2 ^ 14 * 2 ^ 14 ∧
        s.regsBut s' [x.reg .PIN_CFG_SH] ∧ s'.noRegs = s.noRegs) ∧
      (s.swapTick h (i / 8) = none →
        ∃ s', exec (.pinCfgWrite p h i v) s = .next s' ∧ s'.rd (x.reg .PIN_CFG) = v.toNat / 2 ^ 14 * 2 ^ 14 ∧
          s.regsBut s' [x.reg .PIN_CFG] ∧ { s'.noRegs with pins := s.pins } = s.noRegs ∧
          (∀ t, t < k → s'.cfgAt h i t = s.cfgAt h i s.tick) ∧ (∀ t, k ≤ t → s'.cfgAt h i t = v.toNat / 2 ^ 14 * 2 ^ 14) ∧
          (v.toNat / 2 ^ 22 ≠ s.rd (x.reg .PIN_CFG) / 2 ^ 22 % 2 ^ 10 → s.heldPin h i = false → (s.pin h i).keep = none →
            (s.pin h i).capture = none → (s.pin h i).elec = none → 0 < k →
            (∀ t, k ≤ t → s'.padAt h i t = s.padAt h i (k - 1)) ∧ (s'.pin h i).switching = some (s.switchEnd h (i / 8))))) ∧
    (∀ e, (s.pin h i).switching = some e → e ≤ s.tick → s.heldPin h i = false →
      ∃ s', exec (.pinSwitchOver h i) s = .next s' ∧ { s' with pins := s.pins, axes := s.axes } = s ∧
        { s'.pin h i with hist := [] } = { s.pin h i with switching := none, capture := none, keep := none, hist := [] } ∧
        s'.regs = s.regs ∧
        ∀ n, { s'.axis n with ssiFall := none } = { s.axis n with ssiFall := none })

/-- R223, R224, R213, R214: words of pins set, clear and hold the pins that they name, and no other. -/
def Claims.PinWords : Prop :=
  ∀ (s : State) (p h k : Nat) (v : Word), k < 4 → h < s.part.halls → s.portOpen p = true →
    let named (i : Nat) : Bool := decide (32 * k ≤ i) && decide (i < 32 * k + 32) && bit v.toNat (i - 32 * k)
    (∃ s', exec (.pinOutSet p h k v) s = .next s' ∧
      (∀ i, s'.is PIN_GPIO.DATA (ix h i) = (named i || s.is PIN_GPIO.DATA (ix h i))) ∧
      (∀ r : Reg, r.name ≠ .PIN_GPIO → s'.rd r = s.rd r) ∧ { s'.noRegs with pins := s.pins, axes := s.axes } = s.noRegs) ∧
    ((∀ i, (s.pin h i).latchPin ≠ some (s.tick / (if s.clkRun then 10 else 40), true)) → ∃ s', exec (.pinOutClr p h k v) s = .next s' ∧
      (∀ i, s'.is PIN_GPIO.DATA (ix h i) = (!named i && s.is PIN_GPIO.DATA (ix h i))) ∧
      (∀ r : Reg, r.name ≠ .PIN_GPIO → s'.rd r = s.rd r) ∧ { s'.noRegs with pins := s.pins, axes := s.axes } = s.noRegs) ∧
    (∃ s', exec (.pinHoldSet p h k v) s = .next s' ∧
      (∀ i, s'.is PIN_STATUS.HOLD_HOST (ix h i) = (named i || s.is PIN_STATUS.HOLD_HOST (ix h i))) ∧
      (∀ i, named i = true → s.heldPin h i = false → (s.pin h i).keep = none → (s.pin h i).capture = none →
        (s'.pin h i).capture = some (s.switchStart h (i / 8)) ∧ (s'.pin h i).inKept =
          (s.padLive h i && s.get PIN_CFG.FUNC (ix h i) != 9 && s.is PIN_CFG.IN_EN (ix h i))) ∧
      (∀ r : Reg, r.name ≠ .PIN_STATUS → s'.rd r = s.rd r) ∧ { s'.noRegs with pins := s.pins } = s.noRegs) ∧
    (s.deferred = [] → ∃ s', exec (.pinHoldClr p h k v) s = .next s' ∧
      (∀ i, s'.is PIN_STATUS.HOLD_HOST (ix h i) = (!named i && s.is PIN_STATUS.HOLD_HOST (ix h i))) ∧
      (∀ r : Reg, r.name ≠ .PIN_STATUS → s'.rd r = s.rd r) ∧ { s'.noRegs with pins := s.pins } = s.noRegs)

/-- R209, R211, R212: samples of a pad: LEVEL takes each one, FLT_LEVEL in change mode follows it, and an enabled edge is
a pin event; a write of PIN_EVT restarts the filter. -/
def Claims.PinSamples : Prop :=
  (∀ (s : State) (h i : Nat) (level : Bool), s.samples h i = true → s.funcNow h i ≠ 6 → s.funcNow h i ≠ 9 →
    s.get PIN_EVT.MODE (ix h i) = 3 ∨ s.get PIN_EVT.MODE (ix h i) = 0 → s.get PIN_EVT.PRESC (ix h i) = 0 → (s.pin h i).fresh = false →
    s.jobs = [] →
    let x := ix h i
    let event := s.get PIN_EVT.MODE x = 3 ∧ level ≠ s.is PIN_STATUS.FLT_LEVEL x ∧
      bit (s.get PIN_EVT.EDGE x) (if level then 0 else 1) = true
    (event → (∃ s', exec (.pinEvent h i level) s = .next s' ∧ s'.is PIN_STATUS.EVENT x = true ∧ s'.is PIN_STATUS.LEVEL x = level ∧
      s'.is PIN_STATUS.FLT_LEVEL x = level ∧ (s'.pin h i).lastSample = s.tick / 16 * 16) ∧
      exec (.padLevelSample h i level) s = .next s) ∧
    (¬event → exec (.pinEvent h i level) s = .next s ∧ ∃ s', exec (.padLevelSample h i level) s = .next s' ∧
      s'.is PIN_STATUS.LEVEL x = level ∧ s'.is PIN_STATUS.FLT_LEVEL x = level ∧ (s'.pin h i).lastSample = s.tick / 16 * 16 ∧
      s'.is PIN_STATUS.EVENT x = s.is PIN_STATUS.EVENT x ∧ s.regsBut s' [x.reg .PIN_STATUS])) ∧
  (∀ (s : State) (p h i : Nat) (v : Word), h < s.part.halls → s.portOpen p = true → ∃ s', exec (.pinEvtWrite p h i v) s = .next s' ∧
    s'.rd ((ix h i).reg .PIN_EVT) = v.toNat / 2 ^ 16 * 2 ^ 16 + v.toNat % 16 ∧
    s'.pin h i = { s.pin h i with fresh := true, run := 0, lockout := 0 } ∧
    s.regsBut s' [(ix h i).reg .PIN_EVT])

/-- R220, R221: a write of PSW_MAP gives a barrow to a stall: only between stopped stalls, with at most two barrows a
stall; an entry that is refused stands, also one that is refused always where it names what the barrow already has. -/
def Claims.PinSwitch : Prop :=
  (∀ (s : State) (p h k j new : Nat) (v : Word), k < 2 → j < 8 → new < 16 → h < s.part.halls → s.portOpen p = true → s.atSwapEdge = false →
    let b := 8 * k + j
    let old := s.stallOf h b
    (∀ i < 8, v.toNat / 16 ^ i % 16 = if i = j then new else s.stallOf h (8 * k + i)) → new ≠ old →
    (∀ i < 8, i ≠ j → s.entryRefused h (8 * k + i) (s.stallOf h (8 * k + i)) = false) →
    let ok := (new < 8 ∨ (new = 8 ∧ 9 ≤ s.part.stalls) ∨ new = 15) ∧ (new ≠ 15 → (s.barrowsOf h new).length < 2) ∧
      s.allStopped h old = true ∧ s.allStopped h new = true ∧ Tab.find s.failovers h = none
    (ok → ∃ s', exec (.pswMapWrite p h k v) s = .next s' ∧ s'.stallOf h b = new ∧
      (∀ i < 16, i ≠ b → s'.stallOf h i = s.stallOf h i) ∧ s'.is PSW_STATUS.REFUSED (ix h) = s.is PSW_STATUS.REFUSED (ix h) ∧
      s'.noRegs = s.noRegs) ∧
    (¬ok → ∃ s', exec (.pswMapWrite p h k v) s = .next s' ∧ (∀ i < 16, s'.stallOf h i = s.stallOf h i) ∧
      s'.is PSW_STATUS.REFUSED (ix h) = true ∧ s.regsBut s' [(ix h).reg .PSW_STATUS] ∧ s'.noRegs = s.noRegs)) ∧
  (∀ (s : State) (p h k j : Nat) (v : Word), k < 2 → j < 8 → h < s.part.halls → s.portOpen p = true →
    (∀ i < 8, v.toNat / 16 ^ i % 16 = s.stallOf h (8 * k + i)) → s.entryRefused h (8 * k + j) (s.stallOf h (8 * k + j)) = true →
    ∃ s', exec (.pswMapWrite p h k v) s = .next s' ∧ (∀ i < 16, s'.stallOf h i = s.stallOf h i) ∧
      s'.is PSW_STATUS.REFUSED (ix h) = true)

/-! ## Tokens and queues (R275 to R290) -/

/-- R275: an alias read acquires a free or an abandoned token, and returns the word and writes nothing otherwise; by a
trader, whose answer the read returns, and by a host agent; a word that reads uncorrectable is an error response (R268). -/
def Claims.TokenAcquisition : Prop :=
  ∀ (s : State) (h w n : Nat), s.Inv → n < 2 ^ 64 → (∀ e < 256, Tab.find s.ecc (0xB, h * 256 + e) ≠ some true) →
    let v := s.tokWord h w
    let es := s.toks h
    let live : Bool := es.any (fun e => e.word == w)
    let free := v = 0 ∨ v = 0xFFFE
    let room := live = true ∨ es.length < 256
    let at_ := (Arr.hallMem h).base + 8 * w
    let effect (s' : State) (val code : Nat) : Prop :=
      (free ∧ room → val = v ∧ code = (if v = 0 then 0 else 7) ∧
        (∀ y, Memory.read s'.mem y = if at_ ≤ y ∧ y < at_ + 8 then BitVec.ofNat 8 (n / 256 ^ (y - at_)) else Memory.read s.mem y) ∧
        s'.toks h = if live then es.map (fun e => if e.word = w then { e with owner := n } else e)
          else es ++ [⟨w, n, s.strictWord h w⟩]) ∧
      (¬(free ∧ room) → s'.mem = s.mem ∧ s'.toks h = es ∧
        (free → val = 0xFFFF ∧ code = 3 ∧ s'.is HL_STATUS.TOKEN_FULL (ix h) = true) ∧
        (¬free → val = v ∧ code = if v = n then 1 else 2))
    (∀ t at', h = t.h → n = callerNum (.trader t) → (s.trader t).nextOp = some (at', .acquire w) → (s.atomTurn t).isSome = true →
      s.hallBad h (8 * w) 8 = true →
      ∃ s', exec (.tokenAcquire (.trader t)) s = .next s' ∧ s'.mem = s.mem ∧ s'.toks h = es ∧
        bit (s'.get EV_PEND.PEND t.ix) 9 = true ∧ (∀ u, u ≠ t → s'.trader u = s.trader u)) ∧
    (∀ t at', h = t.h → n = callerNum (.trader t) → (s.trader t).nextOp = some (at', .acquire w) → (s.atomTurn t).isSome = true →
      s.hallBad h (8 * w) 8 = false →
      ∃ s' val, exec (.tokenAcquire (.trader t)) s = .next s' ∧ effect s' val (s'.get TK_STAT.RESULT t.ix) ∧
        s'.trader t = (s.trader t).answered at' (toBytes 8 val) ∧ (∀ u, u ≠ t → s'.trader u = s.trader u)) ∧
    (∀ a, n = 0x2000 + a → s.get TK_HWORD.WORD (ix h a) = w → h < s.part.halls → s.portOpen (0x2000 + 16 * h + a) = true →
      s.clearing = false → s.hallBad h (8 * w) 8 = false →
      ∃ s' val, exec (.tokenAcquire (.host h a)) s = .next s' ∧ effect s' val (s'.get TK_HWORD.RESULT (ix h a)) ∧
        s'.readOut.toNat = val % 2 ^ 32 ∧ s'.rd ((ix h a).reg .TK_HACQ) = val ∧ s'.traders = s.traders)

/-- R277, R279: a release by the owner, or a forced one by a supervisor of a token that is not strict, writes 0 and removes
the entry; any other is refused. HL_ABANDON marks the tokens of a host agent and withdraws what it holds of queues. -/
def Claims.TokenReleaseAndAbandon : Prop :=
  ∀ (s : State) (h : Nat), s.Inv → (∀ e < 256, Tab.find s.ecc (0xB, h * 256 + e) ≠ some true) →
    let es := s.toks h
    let effect (w n : Nat) (force sup : Bool) (s' : State) (code : Nat) : Prop :=
      let at_ := (Arr.hallMem h).base + 8 * w
      let mine := ∃ e, es.find? (fun e => e.word == w) = some e ∧ (e.owner = n ∨ force = true ∧ sup = true ∧ e.strict = false)
      (mine → code = 4 ∧ s'.toks h = es.filter (fun e => e.word != w) ∧
        (∀ y, Memory.read s'.mem y = if at_ ≤ y ∧ y < at_ + 8 then 0 else Memory.read s.mem y) ∧
        ∀ e, es.find? (fun e => e.word == w) = some e → e.owner ≠ n → s.chitRoom →
          s'.showsChit ⟨0x12, h * 2 ^ 13, 0, w⟩ (w + e.owner * 2 ^ 32) s.tick) ∧
      (¬mine → code = (if es.any (fun e => e.word == w) then 6 else 5) ∧ s'.toks h = es ∧ s'.mem = s.mem ∧
        s'.is HL_STATUS.TOKEN_REFUSED (ix h) = true)
    (∀ t at' w force, h = t.h → (s.trader t).nextOp = some (at', .release w force) → (s.atomTurn t).isSome = true →
      ∃ s', exec (.tokenRelease (.trader t) force) s = .next s' ∧
        effect w (callerNum (.trader t)) force (s.trader t).sup s' (s'.get TK_STAT.RESULT t.ix) ∧
        s'.trader t = (s.trader t).answered at' []) ∧
    (∀ a force, h < s.part.halls → s.portOpen (0x2000 + 16 * h + a) = true → s.clearing = false →
      ∃ s', exec (.tokenRelease (.host h a) force) s = .next s' ∧
      effect (s.get TK_HWORD.WORD (ix h a)) (0x2000 + a) force true s' (s'.get TK_HWORD.RESULT (ix h a))) ∧
    (∀ p a, a < 16 → h < s.part.halls → s.portOpen p = true → let n := 0x2000 + a
      ∃ s', exec (.hlAbandon (.host p) h (BitVec.ofNat 16 (2 ^ a))) s = .next s' ∧
        s'.toks h = es.map (fun e => if e.owner = n then { e with owner := 0xFFFE } else e) ∧
        (∀ e ∈ es, e.owner = n → s'.tokWord h e.word = 0xFFFE) ∧
        (∀ q, s.get Q_PROD.P_HOLD (ix h q) = n → s'.get Q_PROD.P_HOLD (ix h q) = 0 ∧ s'.get Q_NUM.RSV_N (ix h q) = 0) ∧
        (∀ q, s.get Q_CONS.C_HOLD (ix h q) = n → s'.get Q_CONS.C_HOLD (ix h q) = 0 ∧ s'.get Q_NUM.TAKE_N (ix h q) = 0) ∧
        (s.chitRoom → s'.showsChit ⟨0x13, h * 2 ^ 13, 0, n⟩ (n + (es.filter (fun e => e.owner == n)).length * 2 ^ 16) s.tick) ∧
        s'.traders = s.traders)

/-- R285, R286: the producer's operations on a queue that raises no event, by a host agent: reserve, commit and abort; a
failed operation reports its reason and changes nothing else. -/
def Claims.QueueProducers : Prop :=
  ∀ (s : State) (h a q : Nat), a < 16 → h < s.part.halls → s.get QH_SEL.QUEUE (ix h a) = q → s.is Q_CFG.RING_EN (ix h q) = false →
    s.is Q_CFG.CHIT_EN (ix h q) = false → s.portOpen (0x2000 + 16 * h + a) = true → s.clearing = false →
    Tab.find s.ecc (0xA, h * 1024 + q) = none →
    let i := ix h q
    let n := 0x2000 + a
    let owner := s.get Q_PROD.P_OWNER i
    let hold := s.get Q_PROD.P_HOLD i
    let rsv := s.get Q_NUM.RSV_N i
    let tail := s.get Q_TAIL.TAIL i
    let allowed := s.qValid h q = true ∧ (owner = 0 ∨ owner = n)
    let why (r : Nat) : Nat := if s.qValid h q = false then 1 else if ¬(owner = 0 ∨ owner = n) then 2 else r
    let fails (s' : State) (r : Nat) : Prop :=
      s'.get QH_STAT.REASON (ix h a) = r ∧ s.regsBut s' [(ix h a).reg .QH_STAT] ∧ { s'.noRegs with readOut := s.readOut } = s.noRegs
    let works (s' : State) (ra tl rn hd : Nat) : Prop :=
      s'.get QH_STAT.REASON (ix h a) = ra ∧ s'.get Q_TAIL.TAIL i = tl ∧ s'.get Q_NUM.RSV_N i = rn ∧ s'.get Q_PROD.P_HOLD i = hd ∧
      s.regsBut s' [(ix h a).reg .QH_STAT, i.reg .Q_TAIL, i.reg .Q_NUM, i.reg .Q_PROD] ∧
      { s'.noRegs with readOut := s.readOut } = s.noRegs
    let can := (hold = 0 ∨ hold = n) ∧ 1 ≤ s.qFree h q ∧ rsv < 65535
    (allowed ∧ can → ∃ s', exec (.queueReserve (.host h a)) s = .next s' ∧ works s' 0 tail (rsv + 1) n ∧
      s'.readOut.toNat = (tail + rsv) % s.qCap h q) ∧
    (¬(allowed ∧ can) → ∃ s', exec (.queueReserve (.host h a)) s = .next s' ∧ fails s' (why 6) ∧ s'.readOut = 2 ^ 31) ∧
    (allowed ∧ hold = n → ∃ s', exec (.queueCommit (.host h a)) s = .next s' ∧ works s' 0 ((tail + rsv) % 2 ^ 32) 0 0) ∧
    (allowed ∧ hold = n → ∃ s', exec (.queueAbort (.host h a)) s = .next s' ∧ works s' 0 tail 0 0) ∧
    (¬(allowed ∧ hold = n) → ∃ s' s'', exec (.queueCommit (.host h a)) s = .next s' ∧ exec (.queueAbort (.host h a)) s = .next s'' ∧
      fails s' (why 5) ∧ fails s'' (why 5))

/-- R285, R286: the consumer's operations by a host agent: take, done and return. While a pop from host memory
holds the consumer side, they wait for its end. -/
def Claims.QueueConsumers : Prop :=
  ∀ (s : State) (h a q : Nat), a < 16 → h < s.part.halls → s.get QH_SEL.QUEUE (ix h a) = q →
    s.portOpen (0x2000 + 16 * h + a) = true → s.clearing = false → Tab.find s.ecc (0xA, h * 1024 + q) = none →
    let i := ix h q
    let n := 0x2000 + a
    let owner := s.get Q_CONS.C_OWNER i
    let hold := s.get Q_CONS.C_HOLD i
    let taken := s.get Q_NUM.TAKE_N i
    let head := s.get Q_HEAD.HEAD i
    let allowed := s.qValid h q = true ∧ (owner = 0 ∨ owner = n)
    let why (r : Nat) : Nat := if s.qValid h q = false then 1 else if ¬(owner = 0 ∨ owner = n) then 2 else r
    let fails (s' : State) (r : Nat) : Prop :=
      s'.get QH_STAT.REASON (ix h a) = r ∧ s.regsBut s' [(ix h a).reg .QH_STAT] ∧ { s'.noRegs with readOut := s.readOut } = s.noRegs
    let works (s' : State) (hd tn ho : Nat) : Prop :=
      s'.get QH_STAT.REASON (ix h a) = 0 ∧ s'.get Q_HEAD.HEAD i = hd ∧ s'.get Q_NUM.TAKE_N i = tn ∧ s'.get Q_CONS.C_HOLD i = ho ∧
      s.regsBut s' [(ix h a).reg .QH_STAT, i.reg .Q_HEAD, i.reg .Q_NUM, i.reg .Q_CONS] ∧
      { s'.noRegs with readOut := s.readOut } = s.noRegs
    let can := (hold = 0 ∨ hold = n) ∧ 1 ≤ s.qTakeable h q ∧ taken < 65535
    (s.popHolds h q = true → let wait (op : QOp) : Out := .next { s with agentWait := s.agentWait ++ [⟨h, a, q, op⟩] }
      exec (.queueTake (.host h a)) s = wait .take ∧ exec (.queueDone (.host h a)) s = wait .done ∧
        exec (.queueReturn (.host h a)) s = wait .ret) ∧
    (s.popHolds h q = false →
    (allowed ∧ can → ∃ s', exec (.queueTake (.host h a)) s = .next s' ∧ works s' head (taken + 1) n ∧
      s'.readOut.toNat = (head + taken) % s.qCap h q) ∧
    (¬(allowed ∧ can) → ∃ s', exec (.queueTake (.host h a)) s = .next s' ∧ fails s' (why 7) ∧ s'.readOut = 2 ^ 31) ∧
    (allowed ∧ hold = n → ∃ s', exec (.queueDone (.host h a)) s = .next s' ∧ works s' ((head + taken) % 2 ^ 32) 0 0) ∧
    (allowed ∧ hold = n → ∃ s', exec (.queueReturn (.host h a)) s = .next s' ∧ works s' head 0 0) ∧
    (¬(allowed ∧ hold = n) → ∃ s' s'', exec (.queueDone (.host h a)) s = .next s' ∧ exec (.queueReturn (.host h a)) s = .next s'' ∧
      fails s' (why 5) ∧ fails s'' (why 5)))

/-- R285: push and pop of a trader on a queue in hall memory, and the return of an element from host memory. -/
def Claims.PushAndPop : Prop :=
  ∀ (s : State) (t : TraderId) (at' : ReqAt) (q : Nat), s.Inv →
    let h := t.h
    let i := ix h q
    let n := callerNum (.trader t)
    let es := s.qElem h q
    let shows (s' : State) (bs : List Byte) (reason : Nat) : Prop := s'.get QP_STAT.REASON t.ix = reason ∧
      s'.trader t = (s.trader t).answered at' bs ∧ (∀ u, u ≠ t → s'.trader u = s.trader u)
    s.qValid h q = true → (es = 4 ∨ es = 8) → Tab.find s.ecc (0xA, h * 1024 + q) = none →
    (s.is Q_CFG.LOC i = false → s.is Q_CFG.RING_EN i = false → s.is Q_CFG.CHIT_EN i = false →
      (s.get Q_PROD.P_OWNER i = 0 ∨ s.get Q_PROD.P_OWNER i = n) →
      ∀ bs, bs.length = 8 → (s.trader t).nextOp = some (at', .push q bs) → (s.atomTurn t).isSome = true →
        let tail := s.get Q_TAIL.TAIL i
        let slot := s.get Q_BASE.BASE i + tail % s.qCap h q * es
        let at_ := (Arr.hallMem h).base + slot
        -- an element of four bytes into a word that reads uncorrectable is not written
        (s.get Q_NUM.RSV_N i = 0 → 1 ≤ s.qFree h q → es = 4 → s.hallBad h slot 4 = true →
          ∃ s', exec (.queuePush t) s = .next s' ∧ bit (s'.get EV_PEND.PEND t.ix) 9 = true ∧
            s'.get Q_TAIL.TAIL i = tail ∧ s'.mem = s.mem ∧ s'.ecc = s.ecc) ∧
        (s.get Q_NUM.RSV_N i = 0 → 1 ≤ s.qFree h q → (es = 8 ∨ s.hallBad h slot 4 = false) →
          ∃ s', exec (.queuePush t) s = .next s' ∧ shows s' [] 0 ∧
          s'.get Q_TAIL.TAIL i = (tail + 1) % 2 ^ 32 ∧ s.regsBut s' [t.ix.reg .QP_STAT, i.reg .Q_TAIL, (ix h t.s).reg .HL_GRANT] ∧
          (∀ y, Memory.read s'.mem y = if at_ ≤ y ∧ y < at_ + es then (bs[y - at_]?).getD 0 else Memory.read s.mem y)) ∧
        (s.get Q_NUM.RSV_N i ≠ 0 ∨ s.qFree h q = 0 → ∃ s', exec (.queuePush t) s = .next s' ∧
          shows s' [] (if s.get Q_NUM.RSV_N i ≠ 0 then 4 else 6) ∧ s.regsBut s' [t.ix.reg .QP_STAT] ∧ s'.mem = s.mem)) ∧
    ((s.get Q_CONS.C_OWNER i = 0 ∨ s.get Q_CONS.C_OWNER i = n) → (s.trader t).nextOp = some (at', .pop q) →
      (s.popHolds h q = false → (s.atomTurn t).isSome = true) →
      let head := s.get Q_HEAD.HEAD i
      let at_ := s.get Q_BASE.BASE i + head % s.qCap h q * es
      (s.is Q_CFG.LOC i = false → s.popHolds h q = false → s.get Q_NUM.TAKE_N i = 0 → 1 ≤ s.qTakeable h q →
        s.hallBad h at_ es = true → ∃ s', exec (.queuePop t) s = .next s' ∧ bit (s'.get EV_PEND.PEND t.ix) 9 = true ∧
          s'.get Q_HEAD.HEAD i = head ∧ s'.mem = s.mem) ∧
      (s.is Q_CFG.LOC i = false → s.popHolds h q = false → s.get Q_NUM.TAKE_N i = 0 → 1 ≤ s.qTakeable h q →
        s.hallBad h at_ es = false → ∃ s', exec (.queuePop t) s = .next s' ∧ shows s' (toBytes 8 (s.natAt (.hallMem h) at_ es)) 0 ∧
          s'.get Q_HEAD.HEAD i = (head + 1) % 2 ^ 32 ∧
          s.regsBut s' [t.ix.reg .QP_STAT, i.reg .Q_HEAD, (ix h t.s).reg .HL_GRANT] ∧ s'.mem = s.mem) ∧
      (s.popHolds h q = false → s.get Q_NUM.TAKE_N i ≠ 0 ∨ s.qTakeable h q = 0 → ∃ s', exec (.queuePop t) s = .next s' ∧
          shows s' (toBytes 8 0) (if s.get Q_NUM.TAKE_N i ≠ 0 then 4 else 7) ∧ s.regsBut s' [t.ix.reg .QP_STAT] ∧ s'.mem = s.mem) ∧
      (∀ req bs, s.agentWait = [] → s.hostPops = [⟨h, q, .trader t, req⟩] → s.answerOf req = some (.data bs) →
        ∃ s', exec (.hostQueuePopReturn h q) s = .next s' ∧ shows s' (toBytes 8 (ofBytes bs)) 0 ∧
          s'.get Q_HEAD.HEAD i = (head + 1) % 2 ^ 32 ∧ s'.hostPops = [] ∧ s'.answerOf req = none))

/-- R284: a write of a descriptor takes effect only while VALID is 0, or when it clears VALID, which also ends every
reservation and take; what it refuses changes nothing and sets QDESC_REFUSED. -/
def Claims.QueueDescriptors : Prop :=
  ∀ (s : State) (p h q : Nat) (v : Word), h < s.part.halls → s.clearing = false → s.portOpen p = true →
    let i := ix h q
    let x := v.toNat
    let size := x / 2 ^ 24 % 32
    let elem := x / 2 ^ 20 % 16
    let base := s.get Q_BASE.BASE i
    let fits := 4 ≤ size ∧ size ≤ 24 ∧ 2 ≤ elem ∧ elem ≤ 12 ∧ elem ≤ size ∧ base % max (2 ^ elem) 8 = 0 ∧
      (bit x 30 = true ∨ base + 2 ^ size ≤ 0x400000) ∧ s.qFilled h q ≤ 2 ^ (size - elem)
    let refused (off : Nat) : Prop := ∃ s', exec (.queueDescriptorWrite p h q off v) s = .next s' ∧
      s'.is HL_STATUS.QDESC_REFUSED (ix h) = true ∧ s.regsBut s' [(ix h).reg .HL_STATUS] ∧ s'.noRegs = s.noRegs
    let stored (s' : State) : Prop := s'.rd (i.reg .Q_CFG) = x / 2 ^ 30 * 2 ^ 30 + x / 2 ^ 13 % 2 ^ 16 * 2 ^ 13 ∧
      s'.noRegs = s.noRegs
    (s.is Q_CFG.VALID i = true → (∀ off, off ≠ 8 → refused off) ∧ (bit x 31 = true → refused 8) ∧
      (bit x 31 = false → ∃ s', exec (.queueDescriptorWrite p h q 8 v) s = .next s' ∧ stored s' ∧
        s'.get Q_NUM.RSV_N i = 0 ∧ s'.get Q_NUM.TAKE_N i = 0 ∧ s'.get Q_PROD.P_HOLD i = 0 ∧ s'.get Q_CONS.C_HOLD i = 0 ∧
        s.regsBut s' [i.reg .Q_CFG, i.reg .Q_NUM, i.reg .Q_PROD, i.reg .Q_CONS])) ∧
    (s.is Q_CFG.VALID i = false → (bit x 31 = true → ¬fits → refused 8) ∧
      ((bit x 31 = true → fits) → ∃ s', exec (.queueDescriptorWrite p h q 8 v) s = .next s' ∧ stored s' ∧ s.regsBut s' [i.reg .Q_CFG]) ∧
      ∀ f ∈ [(0xC, Q_PROD.P_OWNER), (0x10, Q_CONS.C_OWNER), (0x14, Q_HEAD.HEAD), (0x18, Q_TAIL.TAIL)],
        ∃ s', exec (.queueDescriptorWrite p h q f.1 v) s = .next s' ∧ s'.get f.2 i = x % 2 ^ (f.2.hi + 1) ∧
          s.regsBut s' [i.reg f.2.reg] ∧ s'.noRegs = s.noRegs)

/-- R141, R143, R194: rings of hall bells and of device bells set the watches of the bells rung and of no other, and go out
to the barrows with a delivery 32 ticks later. -/
def Claims.BellRings : Prop :=
  ∀ (s : State) (by_ : Accessor) (h : Nat) (mask : Word) (dmask : Half), s.portOpen (accPort by_) = true →
    (s.reachesHall by_ h = true → ∃ s', exec (.blRing by_ h mask) s = .next s' ∧
      (∀ t w, (s.trader t).watch = some w →
        s'.trader t = { s.trader t with watch := some { w with isSet := w.isSet || (t.h == h && !w.dev && bit mask.toNat w.bell) } }) ∧
      (∀ t, (s.trader t).watch = none → s'.trader t = s.trader t) ∧
      (∀ n < 32, bit mask.toNat n = true → ∃ d ∈ s'.deliveries, d.h = h ∧ d.src = .bell n ∧ d.due = s.tick + 32) ∧
      { s' with traders := s.traders, deliveries := s.deliveries } = s) ∧
    (∃ s', exec (.dbRing by_ dmask) s = .next s' ∧
      (∀ t w, (s.trader t).watch = some w → t.h < s.part.halls →
        s'.trader t = { s.trader t with watch := some { w with isSet := w.isSet || (w.dev && bit dmask.toNat w.bell) } }) ∧
      (∀ t, (s.trader t).watch = none → s'.trader t = s.trader t) ∧
      (∀ n < 16, bit dmask.toNat n = true → ∀ k < s.part.halls, ∃ d ∈ s'.deliveries, d.h = k ∧ d.src = .devBell n ∧ d.due = s.tick + 32) ∧
      { s' with traders := s.traders, deliveries := s.deliveries } = s)

/-! ## Host ports, orders and chits (R315 to R345) -/

/-- R315, R319: the data of a read and the response of a write free their tag and reach who waits for them; an error
response is recorded, and stops the ring, fails the job or reaches the trader that made the request. The data of a job's fetch
come to the job (R20). -/
def Claims.HostResponses : Prop :=
  ∀ (s : State) (id : Nat) (r : HostReq), s.issued id = some r → (∀ q ∈ s.reqs, q.issued = false → q.post = none) →
    let ids (x : State) : List Nat := x.reqs.map (fun q => q.id)
    let left := (ids s).filter (fun k => k != id)
    let rest := s.reqs.filter (fun q => q.id != id)
    let idle : Prop := ∀ q ∈ s.reqs, q.issued = true
    (∀ data, r.write = false → data.length = r.len → s.awaited r = true → (∀ n, r.owner ≠ .job n) →
      ∃ s', exec (.hostReadData id data) s = .next s' ∧ s'.arrived = s.arrived ++ [⟨r, .data data⟩] ∧ ids s' = left ∧
        (idle → s' = { s with arrived := s.arrived ++ [⟨r, .data data⟩], reqs := rest })) ∧
    (∀ data n j, r.write = false → data.length = r.len → r.owner = .job n → s.job n = some j → j.left = data.length →
      (∀ lane flags, j.body ≠ .loadMicrocode lane flags) →
      (∀ image len flags, j.body = .loadImage image len flags → j.stage = 0 → (stepOne (j.got ++ data) len).2 = none) → idle →
      ∃ s', exec (.hostReadData id data) s = .next s' ∧ s'.job n = some { j with got := j.got ++ data, left := 0, fetchAt := j.fetchAt + data.length } ∧
        s'.reqs = rest ∧ { s' with jobs := s.jobs, reqs := s.reqs } = s) ∧
    (r.write = true → ∃ s', exec (.hostWriteResponse id) s = .next s' ∧ ids s' = left ∧
      s'.arrived = (if s.awaited r then s.arrived ++ [⟨r, .ack⟩] else s.arrived) ∧
      (idle → { s' with arrived := s.arrived } = { s with reqs := rest })) ∧
    (∀ kind,
      let recorded (s' : State) : Prop := s'.get HP_ERR_ADDR.ADDR (ix r.port) = r.addr % 2 ^ 52 ∧
        s'.get HP_ERR_STREAM.STREAM (ix r.port) = r.stream % 2 ^ 16 ∧
        s'.get HP_ERRCNT.COUNT (ix r.port) = min (s.get HP_ERRCNT.COUNT (ix r.port) + 1) (2 ^ 32 - 1)
      (∀ t, r.owner = .trader t → r.write = false → s.awaited r = true →
        ∃ s', exec (.hostErrorResponse id kind) s = .next s' ∧ recorded s' ∧ s'.arrived = s.arrived ++ [⟨r, .error kind⟩] ∧ ids s' = left) ∧
      (∀ t, r.owner = .trader t → r.write = true → bit (s.get EV_PEND.PEND t.ix) 9 = false →
        ∃ s', exec (.hostErrorResponse id kind) s = .next s' ∧ recorded s' ∧ bit (s'.get EV_PEND.PEND t.ix) 9 = true ∧
          (s'.trader t).busErr = (if kind = .translation then 0x83 else 0x82, r.taddr) ∧ ids s' = left) ∧
      (∀ n j, r.owner = .job n → s.job n = some j → j.state.ended = false → j.acked = false →
        ∃ s', exec (.hostErrorResponse id kind) s = .next s' ∧ recorded s' ∧ s'.jobIs n .failed 0xF0 ∧ ids s' = left) ∧
      (∀ n, r.owner = .order n → ∃ s', exec (.hostErrorResponse id kind) s = .next s' ∧ recorded s' ∧
        s'.is OR_STATUS.FETCH_ERR (ix n) = true ∧ s'.is OR_STATUS.STOPPED (ix n) = true ∧ s'.get OR_HEAD.HEAD (ix n) = s.get OR_HEAD.HEAD (ix n)) ∧
      (∀ n, r.owner = .chit n → ∃ s', exec (.hostErrorResponse id kind) s = .next s' ∧ recorded s' ∧
        s'.is CR_STATUS.WRITE_ERR (ix n) = true ∧ s'.is CR_STATUS.STOPPED (ix n) = true ∧
        s'.get CR_WRITE.WRITE (ix n) = s.get CR_WRITE.WRITE (ix n)))

/-- R322, R323, R345: a doorbell stores TAIL modulo the ring size, and the idle order engine fetches the oldest order of the
ring; a write of OR_CTRL starts a ring or empties it. -/
def Claims.OrderRings : Prop :=
  ∀ (s : State) (p n : Nat) (v : Word), (∀ q ∈ s.reqs, q.post = none) →
    let i := ix n
    -- asleep the sleep agent takes it: in NAP it keeps the last value of each ring (R389)
    (s.is WK_CTRL.DB_EN = false → s.asleep = true → s.faults = [] → exec (.orderDoorbell p n v) s = .next
      (if s.power.step = .asleep 5 then { s with power := { s.power with doors := Tab.set s.power.doors n v.toNat } } else s)) ∧
    (s.is WK_CTRL.DB_EN = false → s.portOpen p = true → ∃ s', exec (.orderDoorbell p n v) s = .next s' ∧
      s'.get OR_TAIL.TAIL i = v.toNat % 4096 % s.orSize n ∧ s.regsBut s' [i.reg .OR_TAIL] ∧ s'.mem = s.mem ∧
      (n < 16 → s.orBusy = false → s.get PWR_STATUS.STATE ≠ 2 → s.is OR_CTRL.EN i = true →
        s.is OR_STATUS.STOPPED i = false → s.get OR_HEAD.HEAD i ≠ v.toNat % 4096 % s.orSize n →
        (∀ m, m ≠ n → s.orReady m = false) →
        ∃ r ∈ s'.reqs, r.id = s.nextReq ∧ r.owner = .order n ∧ r.write = false ∧ r.len = 64 ∧
          r.addr = s.get OR_BASE.BASE i / 64 * 64 + 64 * s.get OR_HEAD.HEAD i)) ∧
    (s.portOpen p = true → ∃ s', exec (.orCtrlWrite p n v) s = .next s' ∧
      s'.rd (i.reg .OR_CTRL) = v.toNat / 2 ^ 31 * 2 ^ 31 + v.toNat / 2 ^ 8 % 16 * 2 ^ 8 + v.toNat % 64 ∧
      s.regsBut s' [i.reg .OR_CTRL, i.reg .OR_STATUS, i.reg .OR_HEAD, i.reg .OR_TAIL] ∧
      (bit v.toNat 31 = true → s'.is OR_STATUS.STOPPED i = false ∧ s'.get OR_HEAD.HEAD i = s.get OR_HEAD.HEAD i % s'.orSize n ∧
        s'.get OR_TAIL.TAIL i = s.get OR_TAIL.TAIL i % s'.orSize n) ∧
      (bit v.toNat 31 = false → s'.get OR_HEAD.HEAD i = 0 ∧ s'.get OR_TAIL.TAIL i = 0 ∧
        s'.is OR_STATUS.STOPPED i = s.is OR_STATUS.STOPPED i))

/-- R339, R342, R343: the next chit of a served ring with room is written into the slot of CR_WRITE in the format of R339;
with the response CR_WRITE advances; CR_READ acknowledges the slots it passes, whose pending chits take their place. A chit
whose entry reads uncorrectable is lost and counted (R397). -/
def Claims.ChitRings : Prop :=
  ∀ (s : State) (p n : Nat) (v : Word), (∀ q ∈ s.reqs, q.post = none) →
    let i := ix n
    let wr := s.get CR_WRITE.WRITE i
    let base := s.get CR_BASE.BASE i / 32 * 32
    (∀ c, s.nextChit n = some c → c.err = none → s.is CR_CTRL.EN i = true → s.is CR_STATUS.STOPPED i = false →
      (wr + 1) % s.crSize n ≠ s.get CR_READ.READ i % s.crSize n → s.asleep = false →
      ∃ s' r, exec (.chitWrite n) s = .next s' ∧ r ∈ s'.reqs ∧ r.id = s.nextReq ∧ r.owner = .chit n ∧ r.write = true ∧
        r.addr = base + 32 * wr ∧ r.len = 32 ∧ r.data.length = 32 ∧
        field r.data 0 1 = c.id.ty % 256 ∧ field r.data 2 2 = c.id.src % 65536 ∧ field r.data 4 2 = c.id.job % 65536 ∧
        field r.data 6 2 = c.body.count % 65536 ∧ field r.data 8 8 = c.body.till % 2 ^ 64 ∧ field r.data 24 8 = c.body.data % 2 ^ 64 ∧
        (∃ c' ∈ s'.chits, c'.id = c.id ∧ c'.stage = .inFlight s.nextReq) ∧ s'.regs = s.regs) ∧
    (∀ c, s.nextChit n = some c → c.err = some true → c.pend = none → c.id.ty ≠ 0x21 → s.asleep = false → s.chitRoom →
      ∃ s', exec (.chitWrite n) s = .next s' ∧ (∀ x ∈ s'.chits, x.id ≠ c.id) ∧
        s'.get CR_LOST.COUNT i = min (s.get CR_LOST.COUNT i + 1) (2 ^ 32 - 1)) ∧
    (∀ r, s.arrived = [⟨r, .ack⟩] → r.owner = .chit n → ∃ s', exec (.chitWriteComplete n) s = .next s' ∧ s'.arrived = [] ∧
      s'.get CR_WRITE.WRITE i = (wr + 1) % s.crSize n ∧ s.regsBut s' [i.reg .CR_WRITE] ∧
      s'.chits = s.chits.map (fun (c : Chit) => if c.stage = .inFlight r.id then { c with stage := .written wr } else c)) ∧
    (s.portOpen p = true → (s.chits.map (fun c => c.id)).Nodup → (∀ c ∈ s.chits, c.body.ends = false) →
      let rd := s.get CR_READ.READ i
      let size := s.crSize n
      let passed (c : Chit) : Prop := c.ring = n ∧ ∃ k, c.stage = .written k ∧ k < size ∧
        (k + size - rd % size) % size < (v.toNat + size - rd % size) % size
      ∃ s', exec (.chitAcknowledge p n v) s = .next s' ∧ s'.get CR_READ.READ i = v.toNat % 65536 ∧ s.regsBut s' [i.reg .CR_READ] ∧
        ∀ c ∈ s.chits, (∀ k, c.stage = .written k → k < size) →
          (¬passed c → c ∈ s'.chits) ∧
          (passed c → c ∉ s'.chits ∧ ∀ b, c.pend = some b → { c with body := b, ring := b.ring, stage := .waiting, pend := none, err := none } ∈ s'.chits)) ∧
    (s.portOpen p = true → ∃ s', exec (.crCtrlWrite p n v) s = .next s' ∧
      s'.rd (i.reg .CR_CTRL) = v.toNat / 2 ^ 26 * 2 ^ 26 + v.toNat % 32 ∧
      (bit v.toNat 31 = true → s'.is CR_STATUS.STOPPED i = false ∧ s'.chits = s.chits) ∧
      (bit v.toNat 31 = false → s'.get CR_WRITE.WRITE i = 0 ∧ s'.get CR_READ.READ i = 0 ∧
        ∀ c ∈ s'.chits, c.ring = n → c.stage = .waiting))

/-- R344: the mask and the pending words are set and cleared by the bits written, and nothing else changes. -/
def Claims.ChitMasks : Prop :=
  ∀ (s : State) (p k : Nat) (v : Word), s.portOpen p = true →
    let i := ix k
    let does (x : Out) (f : Field) (g : Bool → Bool → Bool) : Prop := ∃ s', x = .next s' ∧
      (∀ b < 32, bit (s'.get f i) b = g (bit (s.get f i) b) (bit v.toNat b)) ∧ s.regsBut s' [i.reg f.reg] ∧ s'.noRegs = s.noRegs
    does (exec (.chitMaskSet p k v) s) CHIT_MASK_SET.MASK (fun old new => old || new) ∧
    does (exec (.chitMaskClr p k v) s) CHIT_MASK_SET.MASK (fun old new => old && !new) ∧
    does (exec (.chitPendSet p k v) s) CHIT_PEND_SET.PEND (fun old new => old || new) ∧
    does (exec (.chitPendClr p k v) s) CHIT_PEND_SET.PEND (fun old new => old && !new)

/-! ## Lanes (R225 to R247) -/

/-- R226, R242: a write of LN_CTRL or of LN_GROUP stores what may change in the lane's present state and refuses the rest
with CFG_ERR; a change of MEMBERS marks every lane whose members disagree. A write to an absent lane is discarded (R4). -/
def Claims.LaneWrites : Prop :=
  ∀ (s : State) (p h k : Nat) (v : Word), s.portOpen p = true →
    let i := ix h k
    let x := v.toNat
    let down := s.get LN_STATUS.STATE i = 0 ∨ s.get LN_STATUS.STATE i = 3
    (s.inLane h k = false → exec (.lnCtrlWrite p h k v) s = .next s ∧ exec (.lnGroupWrite p h k v) s = .next s) ∧
    (s.inLane h k = true →
      (let m := x / 2 ^ 28
       let may := m ≤ 9 ∧ down ∧ (s.lane h k).training = none
       ∃ s', exec (.lnCtrlWrite p h k v) s = .next s' ∧ s.regsBut s' [i.reg .LN_CTRL, i.reg .LN_FAULT] ∧ s'.noRegs = s.noRegs ∧
        s'.get LN_CTRL.AUTO_RETRAIN i = x / 2 ^ 27 % 2 ∧ s'.get LN_CTRL.LOOPBACK i = x / 2 ^ 26 % 2 ∧
        s'.get LN_CTRL.FEC_LIMIT i = x / 2 ^ 8 % 256 ∧
        (may → s'.get LN_CTRL.MODE i = m ∧ s'.is LN_FAULT.CFG_ERR i = s.is LN_FAULT.CFG_ERR i) ∧
        (¬may → s'.get LN_CTRL.MODE i = s.get LN_CTRL.MODE i ∧ s'.is LN_FAULT.CFG_ERR i = true)) ∧
      (down → ∃ s', exec (.lnGroupWrite p h k v) s = .next s' ∧ s'.get LN_GROUP.MEMBERS i = x / 2 ^ 24 % 16 ∧
        ((∀ j < 4, s.laneUp h j = false) → s'.get LN_GROUP.SERVICE i = 0 ∧ s'.noRegs = s.noRegs) ∧
        -- a lane that is up and whose members now disagree works alone (R242)
        (∀ j < 4, s.laneUp h j = true → s.group h j ≠ [j] → s'.group h j = [j] → (s.lane h j).misfit = false →
          (s'.lane h j).inG = [j] ∧ s'.is LN_STATUS.IN_SERVICE (ix h j) = true) ∧
        (∀ j < 4, s'.is LN_FAULT.GROUP_ERR (ix h j) = (s.is LN_FAULT.GROUP_ERR (ix h j) ||
          (s.inLane h j && (s'.members h j).any (fun l => s'.get LN_GROUP.MEMBERS (ix h l) != s'.get LN_GROUP.MEMBERS (ix h j)))))) ∧
      (¬down → ∃ s', exec (.lnGroupWrite p h k v) s = .next s' ∧ s'.is LN_FAULT.CFG_ERR i = true ∧
        s.regsBut s' [i.reg .LN_FAULT] ∧ s'.noRegs = s.noRegs))

/-- R231, R232, R242, R243, R245: the LINK and the ALIGN block that a lane sends when they are due at its block position, and what
a received LINK block tells a lane that works alone; a block whose CRC fails is discarded, one with an unknown code counted
too. -/
def Claims.LinkBlocks : Prop :=
  ∀ (s : State) (h k : Nat) (blk : List Byte), s.laneOn h k = true → s.eplas h k = true →
    let i := ix h k
    let l := s.lane h k
    let works := (s.laneUp h k = true ∨ s.lnState h k = 1) ∧ s.is LN_CTRL.LOOPBACK i = false
    (s.sending h k = true → s.posCome h k = true → s.is LN_CTRL.LOOPBACK i = false → s.faults = [] →
      (4096 ≤ l.sent - l.linkAt → l.sent % 20480 ≠ 0 → ∃ s' b, exec (.linkBlockDue h k) s = .next s' ∧
        s.laneOnly s' h k { l.code true b with out := some (true, b), sent := l.sent + 1, linkAt := l.sent + 1 } ∧
        s'.regs = s.regs ∧ b.length = 32 ∧ field b 0 1 = 1 ∧ field b 1 1 = 4 * h + k ∧ field b 2 1 = s.get LN_CTRL.MODE i ∧
        field b 3 1 = s.memberIx h k ∧ field b 4 1 = s.get LN_GROUP.SERVICE i ∧
        field b 8 4 = s.rd (({} : Ix).reg .DEV_STOCK_ID) % 2 ^ 32 ∧ field b 30 2 = crc16 (b.take 30)) ∧
      (l.sent % 20480 = 0 → ∃ s' b, exec (.alignBlockDue h k) s = .next s' ∧
        s.laneOnly s' h k { l.code true b with out := some (true, b), sent := l.sent + 1 } ∧ s'.regs = s.regs ∧
        b.length = 32 ∧ field b 0 1 = 0xE0 ∧ field b 1 1 = 4 * h + k ∧ field b 2 30 = 0)) ∧
    (s.sending h k = false ∨ s.posCome h k = false →
      exec (.linkBlockDue h k) s = .next s ∧ exec (.alignBlockDue h k) s = .next s) ∧
    (s.is LN_CTRL.LOOPBACK i = true → exec (.linkBlockRx h k blk) s = .next s) ∧
    (works → field blk 0 1 ∉ [0, 1, 0x10, 0x11, 0xE0] → ∃ s', exec (.linkBlockRx h k blk) s = .next s' ∧
      s'.get LN_RX_DROP.COUNT i = min (s.get LN_RX_DROP.COUNT i + 1) (2 ^ 32 - 1) ∧ s.regsBut s' [i.reg .LN_RX_DROP] ∧
      s'.noRegs = s.noRegs) ∧
    (works → field blk 0 1 = 1 → field blk 30 2 ≠ crc16 (blk.take 30) → exec (.linkBlockRx h k blk) s = .next s) ∧
    (works → field blk 0 1 = 1 → field blk 30 2 = crc16 (blk.take 30) → (s.group h k).length ≤ 1 → s.faults = [] →
      s.is FT_WIND.LANE_EMPTY (ix h) = false →
      let bad := decide (field blk 3 1 % 4 ≠ s.memberIx h k)
      let up := s.laneUp h k
      ∃ s', exec (.linkBlockRx h k blk) s = .next s' ∧ s'.get LN_STATUS.PEER i = field blk 10 2 ∧
        s'.get LN_GROUP.PEER_SERVICE i = field blk 4 1 % 16 ∧
        s'.is LN_FAULT.GROUP_ERR i = (s.is LN_FAULT.GROUP_ERR i || bad) ∧ s'.get LN_STATUS.STATE i = s.get LN_STATUS.STATE i ∧
        s'.is LN_STATUS.IN_SERVICE i = (if up then !bad else s.is LN_STATUS.IN_SERVICE i) ∧
        s.regsBut s' [i.reg .LN_STATUS, i.reg .LN_GROUP, i.reg .LN_FAULT] ∧
        s.laneOnly s' h k { l with misfit := bad, peerMode := some (field blk 2 1), linkRxAt := s.tick,
                                   inG := if up then (if bad then [] else [k]) else l.inG })

/-- R228, R231, R235, R236, R251, R247, R264: received frames enter the receive buffer in beats of 32 bytes or are dropped and
counted; decoded codewords are counted; the activity signal ends. -/
def Claims.ReceivedFrames : Prop :=
  ∀ (s : State) (h k : Nat) (bs : List Byte) (arr : Nat) (damaged : Bool), s.laneOn h k = true → s.is LN_CTRL.LOOPBACK (ix h k) = false →
    let i := ix h k
    let l := s.lane h k
    let stored (x : Out) (n till : Nat) : Prop := ∃ s' more, x = .next s' ∧ s'.regs = s.regs ∧
      s.laneAndPads s' h k { l with rx := l.rx ++ more, active := some s.tick } ∧ more.length = (n + 31) / 32 ∧
      ∀ j b, more[j]? = some b → b.bytes.length = 32 ∧ (∀ o < 32, 32 * j + o < bs.length → b.bytes[o]? = bs[32 * j + o]?) ∧
        b.first = decide (j = 0) ∧ b.last = decide (j + 1 = more.length) ∧ b.n = (if b.last then n % 32 else 0) ∧ b.bad = damaged ∧
        b.arr = arr ∧ b.till = till ∧ b.err = none
    let dropped (x : Out) (s' : State) : Prop := x = .next s' ∧
      s'.get LN_RX_DROP.COUNT i = min (s.get LN_RX_DROP.COUNT i + 1) (2 ^ 32 - 1) ∧ s'.noRegs = s.noRegs
    let full (x : Out) (n : Nat) : Prop := 4096 < l.rx.length + (n + 31) / 32 → ∃ s', dropped x s' ∧ s'.is LN_FAULT.RX_OVF i = true ∧
      bit (s'.get TH_TRAP.PEND (ix h k 0)) 2 = true ∧ s.regsBut s' [i.reg .LN_RX_DROP, i.reg .LN_FAULT, (ix h k 0).reg .TH_TRAP]
    (s.eplas h k = true → s.laneUp h k = true →
      let x := exec (.eplasFrameRx h k bs arr damaged) s
      let good := field bs 26 2 = crc16 (bs.take 26) ∧ field bs 4 2 ≤ 16384
      let valid := s.is STREAM.VALID (ix h k (field bs 2 2 % 4096))
      let n := 32 + field bs 4 2
      (field bs 0 1 = 0x10 → ¬good → ∃ s', dropped x s' ∧ s'.is LN_FAULT.HDR_ERR i = true ∧ s.regsBut s' [i.reg .LN_RX_DROP, i.reg .LN_FAULT]) ∧
      (field bs 0 1 = 0x10 → good → valid = false → ∃ s', dropped x s' ∧ s.regsBut s' [i.reg .LN_RX_DROP]) ∧
      (field bs 0 1 = 0x10 → good → valid = true → (l.rx.length + (n + 31) / 32 ≤ 4096 → stored x n (field bs 16 8)) ∧ full x n) ∧
      (field bs 0 1 ∈ [0, 1, 0x11, 0xE0] → x = .next s) ∧
      (field bs 0 1 ∉ [0, 1, 0x10, 0x11, 0xE0] → ∃ s', dropped x s' ∧ s.regsBut s' [i.reg .LN_RX_DROP])) ∧
    (s.ethernet h k = true → s.laneUp h k = true → bs ≠ [] →
      let x := exec (.ethernetFrameRx h k bs arr damaged) s
      (l.rx.length + (bs.length + 31) / 32 ≤ 4096 → stored x bs.length 0) ∧ full x bs.length) ∧
    (1 ≤ s.get LN_CTRL.MODE i → s.get LN_CTRL.MODE i ≤ 6 → ∀ inFrame,
      (∀ n, 0 < n → ∃ s', exec (.fecCodewordDecoded h k (.corrected n) inFrame) s = .next s' ∧
        s'.get LN_FEC_CORR.COUNT i = min (s.get LN_FEC_CORR.COUNT i + 1) (2 ^ 32 - 1) ∧ s.regsBut s' [i.reg .LN_FEC_CORR]) ∧
      ∃ s', exec (.fecCodewordDecoded h k .uncorrectable inFrame) s = .next s' ∧
        s'.get LN_FEC_UNCORR.COUNT i = min (s.get LN_FEC_UNCORR.COUNT i + 1) (2 ^ 32 - 1) ∧ s'.is LN_FAULT.FEC_UNCORR i = true ∧
        (s'.lane h k).unc.getLast? = some (l.cw + 1) ∧ (inFrame = true → bit (s'.get TH_TRAP.PEND (ix h k 0)) 3 = true)) ∧
    (∀ t, l.active = some t → t + 2 ^ 24 ≤ s.tick →
      ∃ s', exec (.activitySignalEnd h k) s = .next s' ∧ s'.regs = s.regs ∧ s.laneAndPads s' h k { l with active := none })

/-- R232, R238, R239, R240: at its period a lane in service has one axis-sync frame due for each axis of AXMASK, or one without
position, and it leaves at a block position with the departure stamp of the moment; a received frame becomes the echo, the first
exchange sets the delay and the offset, and a settled lane gives its axes the measurement. -/
def Claims.AxisSync : Prop :=
  ∀ (s : State) (h k : Nat), s.laneOn h k = true → s.eplas h k = true → s.laneUp h k = true →
    let i := ix h k
    let l := s.lane h k
    let mask := ones 16 (s.get LN_AXS_TX.AXMASK i)
    (s.is LN_STATUS.IN_SERVICE i = true → s.is LN_SYNC_CTRL.EN i = true → l.syncAt + s.syncPeriod h k ≤ s.tick →
      exec (.axisSyncDue h k) s = .next (s.setLane h k
        { l with syncQ := l.syncQ ++ (if mask = [] then [none] else mask.map some), syncAt := s.tick })) ∧
    (s.is LN_STATUS.IN_SERVICE i = false ∨ s.is LN_SYNC_CTRL.EN i = false ∨ s.tick < l.syncAt + s.syncPeriod h k →
      exec (.axisSyncDue h k) s = .next s) ∧
    (∀ ax q, l.syncQ = ax :: q → l.rest = [] → l.cur = none → s.posCome h k = true → l.sent % 20480 ≠ 0 →
      l.sent < l.linkAt + 4096 → s.is LN_CTRL.LOOPBACK i = false → l.loopSync = [] → s.sbIn h k 3 = false →
      let seq := match l.syncSeq with | some n => (n + 1) % 65536 | none => 0
      ∃ f, (s.laneTick h k).lane h k = { l.code true (f.take 32) with
          syncQ := q, syncSent := (s.departNow h k, seq) :: l.syncSent.take 7, out := some (true, f.take 32), rest := [f.drop 32], sent := l.sent + 1, syncSeq := some seq,
          steps := match ax with | some a => Tab.set l.steps a (s.axis a).steps | none => l.steps } ∧
        f.length = 64 ∧ field f 0 1 = 0x11 ∧ field f 4 2 = 32 ∧ field f 6 2 = seq ∧ field f 16 8 = s.departNow h k % 2 ^ 64 ∧
        field f 26 2 = crc16 (f.take 26)) ∧
    (∀ bs arr, field bs 0 1 = 0x11 → arr + 64 < s.tick → s.is LN_CTRL.LOOPBACK i = false →
      let good := field bs 26 2 = crc16 (bs.take 26) ∧ field bs 4 2 ≤ 16384
      let flags := field bs 1 1
      (¬good → ∃ s', exec (.axisSyncFrameRx h k bs arr) s = .next s' ∧
        s'.is LN_FAULT.HDR_ERR i = true ∧ s'.get LN_RX_DROP.COUNT i = min (s.get LN_RX_DROP.COUNT i + 1) (2 ^ 32 - 1) ∧
        s'.noRegs = s.noRegs) ∧
      (good →
        let t1 : Int := field bs 36 8
        let t2 : Int := field bs 44 8
        let t3 : Int := field bs 16 8
        let asym := sgn 32 (s.rd (i.reg .LN_SYNC_ASYM))
        ∃ s', exec (.axisSyncFrameRx h k bs arr) s = .next s' ∧ (s'.lane h k).echo = some (field bs 16 8, arr, field bs 6 2) ∧
          (t1 = 0 ∨ l.seqAt arr ≠ some (field bs 52 2) → s'.regs = s.regs) ∧
          (t1 ≠ 0 → l.seqAt arr = some (field bs 52 2) → s.get LN_SYNC_STATUS.EXCH i = 0 →
            s'.get LN_SYNC_STATUS.EXCH i = 1 ∧
            s'.get LN_SYNC_OFS.OFS i = ((t3 - arr + (t2 - t1 + (arr - t3) - 2 * asym) / 2) % 2 ^ 64).toNat ∧
            s'.get LN_SYNC_DLY.DLY i = ((t2 - t1 + (arr - t3)) / 2 % 2 ^ 32).toNat) ∧
          ∀ n < 16, s'.axis n = if bit flags 0 = true ∧ bit flags 1 = true ∧ s'.is LN_SYNC_STATUS.SETTLED i = true ∧
              s.get TAX_CTRL.SRC (ix n) = 3 ∧ s.serves h k (s.get TAX_SRC.LANE (ix n)) = true ∧
              s.get TAX_SRC.REMOTE_AXIS (ix n) = field bs 2 2 / 2 ^ 12 % 16 then
            (s.axis n).measure (sgn 64 (field bs 8 8))
              (t3 - sgn 64 (s'.get LN_SYNC_OFS.OFS i) + sgn 32 (s.rd ((ix n).reg .TAX_LATENCY)))
          else s.axis n))

/-- R30, R245, R246, R247, R264: a training ends up or down; every loss takes the lane down, with its flags, its micro-trap causes
and its chit, and with AUTO_RETRAIN a training of its own begins. -/
def Claims.LaneStates : Prop :=
  ∀ (s : State) (h k : Nat), s.laneOn h k = true →
    let i := ix h k
    let l := s.lane h k
    let src := h * 2 ^ 13 + k
    let us := min ((s.tick - (l.training.getD (0, 0)).1) / 16000) (2 ^ 20 - 1)
    let linked := s.eplas h k = true → l.peerMode = some (s.get LN_CTRL.MODE i)
    (∀ t job, l.training = some (t, job) → s.tick - t < 3200000000 → s.till.refUp = true → linked →
      ∃ s', exec (.laneUp h k) s = .next s' ∧
      s'.get LN_STATUS.STATE i = 2 ∧ s'.is LN_STATUS.LOCK i = true ∧ s'.is LN_STATUS.SIGNAL i = true ∧
      s'.get LN_TRAIN.RESULT i = 1 ∧ s'.get LN_TRAIN.ELAPSED i = us ∧ (s'.lane h k).training = none ∧
      (∀ th < 2, bit (s'.get TH_TRAP.PEND (ix h k th)) 1 = true) ∧
      (s.chitRoom → job = 0xFFFF → s'.showsChit ⟨0x18, src, 0, 0⟩
        (s'.rd (i.reg .LN_TRAIN) % 2 ^ 32 + s'.lnStatus h k % 2 ^ 32 * 2 ^ 32) s.tick) ∧
      (∀ j, job ≠ 0xFFFF → s.job job = some j → j.state.ended = false →
        ∃ j', s'.job job = some j' ∧ j'.state = .done ∧ j'.reason = 1)) ∧
    (l.training = none ∨ s.till.refUp = false ∨ ¬linked → exec (.laneUp h k) s = .next s) ∧
    (∀ t job r, l.training = some (t, job) → 3200000000 ≤ s.tick - t → 2 ≤ r → r ≤ 5 →
      ∃ s', exec (.laneTrainTimeout h k r) s = .next s' ∧ s'.get LN_STATUS.STATE i = 3 ∧ s'.get LN_TRAIN.RESULT i = r ∧
      s'.get LN_TRAIN.ELAPSED i = us ∧ s'.is LN_FAULT.TRAIN_FAIL i = true ∧ (s'.lane h k).training = none ∧
      s'.is LN_STATUS.SIGNAL i = decide (r ≠ 2) ∧ s'.is LN_STATUS.LOCK i = decide (r = 5) ∧
      (s.chitRoom → job = 0xFFFF → s'.showsChit ⟨0x19, src, 0, 0⟩
        (s'.rd (i.reg .LN_TRAIN) % 2 ^ 32 + s'.lnStatus h k % 2 ^ 32 * 2 ^ 32) s.tick) ∧
      (∀ j, job ≠ 0xFFFF → s.job job = some j → j.state.ended = false →
        ∃ j', s'.job job = some j' ∧ j'.state = .failed ∧ j'.reason = r)) ∧
    (s.laneUp h k = true → s.is FT_WIND.LANE_EMPTY (ix h) = false → s.faults = [] →
      let lost (x : Out) (signal : Bool) : Prop := ∃ s', x = .next s' ∧ s'.is LN_STATUS.LOCK i = false ∧ s'.is LN_STATUS.IN_SERVICE i = false ∧
        s'.is LN_STATUS.SIGNAL i = (signal && s.is LN_STATUS.SIGNAL i) ∧
        s'.is LN_FAULT.LINK_LOST i = true ∧ s'.is LN_SYNC_STATUS.SETTLED i = false ∧ s'.get LN_SYNC_STATUS.EXCH i = 0 ∧
        (∀ th < 2, bit (s'.get TH_TRAP.PEND (ix h k th)) 0 = true) ∧ (s'.lane h k).echo = l.echo ∧ (s'.lane h k).syncSeq = l.syncSeq ∧
        (s.is LN_CTRL.AUTO_RETRAIN i = false → s'.get LN_STATUS.STATE i = 3 ∧ (s.chitRoom → s'.showsChit ⟨0x17, src, 0, 0⟩
          (s'.rd (i.reg .LN_FAULT) % 2 ^ 32 + s'.lnStatus h k % 2 ^ 32 * 2 ^ 32) s.tick)) ∧
        (s.is LN_CTRL.AUTO_RETRAIN i = true → s'.get LN_STATUS.STATE i = 1 ∧ (s'.lane h k).training = some (s.tick, 0xFFFF))
      lost (exec (.laneDown h k .lossOfSignal) s) false ∧ lost (exec (.laneDown h k .lossOfLock) s) true ∧
      (s.eplas h k = true → 65536 * (blockTicks (s.lnMode h k)).1 ≤ (s.tick - l.linkRxAt) * (blockTicks (s.lnMode h k)).2 →
        lost (exec (.linkBlockTimeout h k) s) true) ∧
      (s.get LN_CTRL.FEC_LIMIT i ≠ 0 → s.get LN_CTRL.FEC_LIMIT i ≤ l.unc.length → lost (exec (.fecLimitExceeded h k) s) true) ∧
      (s.posCome h k = false → l.loopSync = [] → s.sbIn h k 3 = true → lost (.next (s.laneTick h k)) false)) ∧
    (s.laneUp h k = false → (∀ cause, exec (.laneDown h k cause) s = .next s) ∧ exec (.linkBlockTimeout h k) s = .next s ∧
      exec (.fecLimitExceeded h k) s = .next s)

/-! ## Porters (R248 to R259) -/

/-- R249, R250, R252, R253, R255, R256: a microword of arithmetic alone writes its destination, its flags and its next address, and
the thread issues its next word in the next porter cycle; it reads a shared register as it stood before the other thread's write
of this cycle, and of two writes thread 0's takes effect; an illegal one halts the thread, one that waits for a beat stalls it, and a push to host memory while fewer than 32 bytes of the
posted-write buffer are free raises BP. -/
def Claims.Microwords : Prop :=
  ∀ (s : State) (h k th : Nat), s.laneOn h k = true → th < 2 → s.thRuns h k th = true →
    s.inTrap h k th = false → s.get TH_TRAP.PEND (ix h k th) = 0 →
    ((s.tick / 20 < (s.thread h k th).next ∨ s.yields h k th = true) → exec (.microword h k th) s = .next s) ∧
    ((s.thread h k th).next ≤ s.tick / 20 → s.yields h k th = false →
    let i := ix h k th
    let w := s.microWord h k th
    let mpc := s.get TH_STATE.MPC i
    let x := exec (.microword h k th) s
    s.errorIn (.cstore h k) (32 * mpc) 18 = none →
    (microLegal w th false = false → ∃ s', x = .next s' ∧ s'.get TH_STATE.STATE i = 4 ∧ s'.get TH_STATE.HALT i = 1 ∧
      s'.get TH_STATE.MPC i = mpc ∧
      (s.chitRoom → s'.showsChit ⟨0x1C, h * 2 ^ 13 + (2 * k + th), 0, 0⟩ (s'.rd (i.reg .TH_STATE) % 2 ^ 32) s.tick)) ∧
    (microLegal w th false = true → mLaneop w = 1 → (s.lane h k).rx = [] →
      ∃ s', x = .next s' ∧ s'.get TH_STATE.STATE i = 2 ∧ s'.get TH_STATE.MPC i = mpc ∧ s.regsBut s' [i.reg .TH_STATE] ∧
        s'.thread h k th = { s.thread h k th with next := s.tick / 20 + 1 } ∧
        { s'.noRegs with threads := s.threads } = s.noRegs) ∧
    (microLegal w th false = true → mLaneop w = 0 → mStamp w = 0 → mQop w = 1 →
      let q := (s.thread h k th).qsel
      s.portPushReason h k th q = 0 → s.is Q_CFG.LOC (ix h q) = true → s.postRoom h k = false →
      ∃ s', x = .next s' ∧ bit (s'.get TH_TRAP.PEND i) 5 = true ∧ s'.get TH_STATE.MPC i = mpc ∧
        s.regsBut s' [i.reg .TH_TRAP] ∧ s'.noRegs = s.noRegs) ∧
    (microLegal w th false = true → usesBsel w = false → mBmove w = 0 → mCrc w = 0 → mQop w = 0 → mMatch w = 0 → mLaneop w = 0 →
      mLcnt w = 0 → mEvt w = 0 → (mSrcA w ≤ 2 ∨ 16 ≤ mSrcA w) → (mSrcB w ≤ 2 ∨ 16 ≤ mSrcB w) →
      (mDst w = 0 ∨ 16 ≤ mDst w) →
      let o := s.thread h k (1 - th)
      let before (n : Nat) : Option Nat := if 12 ≤ n ∧ o.wroteAt = s.tick / 20 then Tab.find o.wrote n else none
      let src (c : Nat) : Nat := match c with
        | 0 => 0 | 1 => mImm w | 2 => mImm2 w | _ => (before (c - 16)).getD (s.mr h k th (c - 16))
      let lost := th = 1 ∧ (before (mDst w - 16)).isSome = true
      let a := src (mSrcA w)
      let b := src (mSrcB w)
      let zcn := s.get TH_AUX.ZCN i
      ∃ s' r, x = .next s' ∧
        (mAlu w = 0 → r = a) ∧ (mAlu w = 1 → r = (a + b) % 2 ^ 32) ∧ (mAlu w = 2 → r = (a + 2 ^ 32 - b) % 2 ^ 32) ∧
        (mAlu w = 3 → r = a &&& b) ∧ (mAlu w = 4 → r = a ||| b) ∧ (mAlu w = 5 → r = a ^^^ b) ∧
        (16 ≤ mDst w → ¬lost → s'.mr h k th (mDst w - 16) = r) ∧
        (∀ n < 16, (mDst w = 0 ∨ n ≠ mDst w - 16 ∨ lost) → s'.mr h k th n = s.mr h k th n) ∧
        (s'.thread h k th).next = s.tick / 20 + 1 ∧
        (mSetf w = false → s'.get TH_AUX.ZCN i = zcn) ∧
        (mSetf w = true → bit (s'.get TH_AUX.ZCN i) 2 = decide (r = 0) ∧ bit (s'.get TH_AUX.ZCN i) 0 = decide (2 ^ 31 ≤ r) ∧
          (mAlu w = 1 → bit (s'.get TH_AUX.ZCN i) 1 = decide (2 ^ 32 ≤ a + b)) ∧
          (mAlu w = 2 → bit (s'.get TH_AUX.ZCN i) 1 = decide (a < b))) ∧
        (mSeq w = 0 → s'.get TH_STATE.MPC i = (mpc + 1) % 1024) ∧ (mSeq w = 1 → s'.get TH_STATE.MPC i = mNext w) ∧
        (mSeq w = 2 → mCond w = 1 →
          s'.get TH_STATE.MPC i = if bit zcn 2 != mCinv w then mNext w else (mpc + 1) % 1024) ∧
        s'.get TH_STATE.STATE i = 1 ∧ s'.mem = s.mem ∧ s'.lanes = s.lanes))

/-- R256, R257, R259: the entry of a micro-trap, whose first word issues two porter cycles later, the mailbox, the run bits, and writes of the control store. -/
def Claims.PorterControl : Prop :=
  ∀ (s : State) (p h k : Nat) (v : Word), s.Inv → s.inLane h k = true → s.portOpen p = true →
    let i := ix h k
    (∀ th c, th < 2 → s.laneOn h k = true → s.thRuns h k th = true → s.inTrap h k th = false →
      (s.thread h k th).next ≤ s.tick / 20 → microNext (s.get TH_TRAP.PEND (ix h k th)) = some c →
      let j := ix h k th
      ∃ s', exec (.microTrapEntry h k th) s = .next s' ∧ s'.get TH_STATE.MPC j = 0x3C0 + 8 * c ∧ s'.get TH_STATE.STATE j = 3 ∧
        s'.inTrap h k th = true ∧ s'.get TH_TRAP.CAUSE j = c ∧ s'.get SH_MPC.MPC j = s.get TH_STATE.MPC j ∧
        (∀ n < 8, bit (s'.get TH_TRAP.PEND j) n = (bit (s.get TH_TRAP.PEND j) n && n != c)) ∧
        (s'.thread h k th).next = s.tick / 20 + 2 ∧
        (∀ n < 12, s'.get SH_MR.MR (ix h k th n) = s.mr h k th n) ∧ (∀ n < 16, s'.mr h k th n = s.mr h k th n)) ∧
    (∃ s', exec (.ptMboxWrite p h k v) s = .next s' ∧ (∀ th < 2, (s'.thread h k th).mbox = v.toNat) ∧
      bit (s'.get TH_TRAP.PEND (ix h k (v.toNat / 2 ^ 31))) 6 = true ∧ s.regsBut s' [(ix h k (v.toNat / 2 ^ 31)).reg .TH_TRAP]) ∧
    (let starts (x : Out) (th : Nat) (run entry : Field) : Prop := s.thRuns h k th = false →
      (s.rd (i.reg .CS_VERSION) ≠ 0 → ∃ s', x = .next s' ∧ s'.is run i = true ∧ s'.get TH_STATE.STATE (ix h k th) = 1 ∧
        s'.get TH_STATE.HALT (ix h k th) = 0 ∧ s'.get TH_STATE.MPC (ix h k th) = s.get entry i ∧ s'.noRegs = s.noRegs) ∧
      (s.rd (i.reg .CS_VERSION) = 0 → ∃ s', x = .next s' ∧ s'.is PT_STATUS.START_REFUSED i = true ∧
        s.regsBut s' [i.reg .PT_STATUS] ∧ s'.noRegs = s.noRegs)
     let stops (x : Out) (th : Nat) (run : Field) : Prop := s.thRuns h k th = true → ∃ s', x = .next s' ∧ s'.is run i = false ∧
      s'.get TH_STATE.STATE (ix h k th) = 0 ∧ s.regsBut s' [i.reg .PT_CTRL, (ix h k th).reg .TH_STATE] ∧ s'.noRegs = s.noRegs
     starts (exec (.rxRun p h k true) s) 0 PT_CTRL.RX_RUN PT_ENTRY.RX_ENTRY ∧ starts (exec (.txRun p h k true) s) 1 PT_CTRL.TX_RUN PT_ENTRY.TX_ENTRY ∧
     stops (exec (.rxRun p h k false) s) 0 PT_CTRL.RX_RUN ∧ stops (exec (.txRun p h k false) s) 1 PT_CTRL.TX_RUN) ∧
    (s.clearing = false → ∀ word, let base := 32 * word
      let at_ := (Arr.cstore h k).base + base
      (s.thRuns h k 0 = true ∨ s.thRuns h k 1 = true → ∀ off, ∃ s', exec (.controlStoreWrite p h k off v) s = .next s' ∧
        s'.is PT_STATUS.CS_REFUSED i = true ∧ s.regsBut s' [i.reg .PT_STATUS] ∧ s'.noRegs = s.noRegs) ∧
      (s.thRuns h k 0 = false → s.thRuns h k 1 = false →
        (∀ o < 16, ∃ s', exec (.controlStoreWrite p h k (base + o) v) s = .next s' ∧
          Tab.find (s'.lane h k).csWord (base + o) = some v.toNat ∧ s'.mem = s.mem ∧ s'.regs = s.regs) ∧
        ∀ a b c d, Tab.find (s.lane h k).csWord base = some a → Tab.find (s.lane h k).csWord (base + 4) = some b →
          Tab.find (s.lane h k).csWord (base + 8) = some c → Tab.find (s.lane h k).csWord (base + 12) = some d →
          ∃ s', exec (.controlStoreWrite p h k (base + 16) v) s = .next s' ∧
            (∀ y, Memory.read s'.mem y = if at_ ≤ y ∧ y < at_ + 18 then
                ((toBytes 4 a ++ toBytes 4 b ++ toBytes 4 c ++ toBytes 4 d ++ toBytes 2 v.toNat)[y - at_]?).getD 0
              else Memory.read s.mem y) ∧ s'.regs = s.regs))

/-! ## Carts (R291 to R312) -/

/-- R307 to R310: start, pause, resume and abort of a channel, the halt of an engine and its release. -/
def Claims.CartCommands : Prop :=
  ∀ (s : State) (p h c : Nat), s.cartOn h c = true → s.portOpen p = true →
    let i := ix h c
    let e := ix h
    let a := s.chan h c
    let free := a.act = false ∧ s.is CE_STATUS.HALT e = false
    (free → ∃ s', exec (.cartStart p h c) s = .next s' ∧ s'.get CH_STATUS.STATUS i = 0 ∧ s'.get CH_RESIDUE.RESIDUE i = 0 ∧
      s'.chan h c = { act := true, load := some (if s.is CH_CTRL.DQ_EN i then .dq else .reg), credit := a.credit, creditAt := a.creditAt, seq := a.seq, chain := a.seq + 1, out := a.out, fins := a.fins, begun := some (s.tick / s.hallCycle) } ∧
      (s.is CH_CTRL.PAUSE i = false → s'.get CH_STATUS.STATE i = 1) ∧ s.regsBut s' [i.reg .CH_STATUS, i.reg .CH_RESIDUE] ∧
      { s'.noRegs with chans := s.chans } = s.noRegs) ∧
    (s.is CE_STATUS.HALT e = false → s.cartBegan a = true → exec (.cartStart p h c) s = .next s) ∧
    (¬free → ¬(s.is CE_STATUS.HALT e = false ∧ s.cartBegan a = true) → ∃ s', exec (.cartStart p h c) s = .next s' ∧ s'.is CH_STATUS.START_BUSY i = true ∧ s.regsBut s' [i.reg .CH_STATUS] ∧
      s'.noRegs = s.noRegs) ∧
    (a.job = 0 → ∃ s', exec (.cartPause p h c) s = .next s' ∧ s'.is CH_CTRL.PAUSE i = true ∧
      (a.act = true → a.aborting = false → s.filled h c = [] → a.reading = none → s'.get CH_STATUS.STATE i = 4) ∧
      s.regsBut s' [i.reg .CH_CTRL, i.reg .CH_STATUS] ∧ s'.noRegs = s.noRegs) ∧
    (∃ s', exec (.cartResume p h c) s = .next s' ∧ s'.is CH_CTRL.PAUSE i = false ∧
      (a.act = true → a.aborting = false →
        s'.get CH_STATUS.STATE i = if a.waitsSrc || a.waitsDst then 3 else if a.load.isSome then 1 else 2) ∧
      s.regsBut s' [i.reg .CH_CTRL, i.reg .CH_STATUS] ∧ s'.noRegs = s.noRegs) ∧
    -- where the chain may still complete in this hall cycle, the abort waits for the cycle's end (R311)
    (a.act = true → s.mayComplete h c = true → exec (.cartAbort p h c) s = .next (s.atEdge h (s.tick + 1) (.abort c a.seq))) ∧
    (a.act = true → s.mayComplete h c = false → a.aborting = false → a.ended = false ∨ s.is CH_CTRL.DQ_EN i = true → a.taken = [] →
      a.rsvd = [] → a.dqHeld = false → a.writing = none →
      -- a channel that waits or is paused does not wait for its writes, unless its status record has to
      let atOnce := (s.get CH_STATUS.STATE i = 3 ∨ s.get CH_STATUS.STATE i = 4) ∧ s.is CH_CTRL.SWB_EN i = false
      ∃ s', exec (.cartAbort p h c) s = .next s' ∧ s'.get CH_RESIDUE.RESIDUE i = a.residue % 2 ^ 24 ∧ (∀ x ∈ s'.fifo h, x.c ≠ c) ∧
        (s.is CH_CTRL.SWB_EN i = false → s'.mem = s.mem) ∧ (s'.chan h c).out = a.out ∧
        (a.out.any (fun o => o.1 == a.seq) = true → ¬atOnce → s'.get CH_STATUS.STATE i = 5 ∧ s'.chits = s.chits) ∧
        (a.out.any (fun o => o.1 == a.seq) = false ∨ atOnce → a.job = 0 → s.is CH_CTRL.SWB_EN i = false → s.chitRoom →
          s'.get CH_STATUS.STATUS i = 3 ∧ s'.get CH_STATUS.STATE i = 0 ∧ (s'.chan h c).act = false ∧
          s'.showsChit ⟨0x15, h * 2 ^ 13 + c, 0, 0⟩ (3 + c * 2 ^ 8 + a.residue * 2 ^ 32) s.tick)) ∧
    (a.act = false ∨ s.mayComplete h c = false ∧ (a.aborting = true ∨ a.ended = true ∧ s.is CH_CTRL.DQ_EN i = false) →
      exec (.cartAbort p h c) s = .next s) ∧
    (∀ write kind addr, (∀ n < 32, (s.chan h n).act = false ∧ (s.chan h n).out = [] ∧ (s.chan h n).fins = []) → ∃ s', exec (.cartHalt h write kind addr) s = .next s' ∧
      s'.is CE_STATUS.HALT e = true ∧ s'.is CE_ERR_INFO.VALID e = true ∧ s'.is CE_ERR_INFO.WRITE e = write ∧
      s'.get CE_ERR_INFO.KIND e = kind % 4 ∧ s'.get CE_ERR_ADDR.ADDR e = (if kind = 3 then 0 else addr % 2 ^ 52) ∧
      (s.chitLoad + 1 < 4096 - 512 → s'.showsChit ⟨0x16, h * 2 ^ 13, 0, 0⟩
        (s'.rd (e.reg .CE_ERR_INFO) % 2 ^ 32 + s'.get CE_ERR_ADDR.ADDR e % 2 ^ 32 * 2 ^ 32) s.tick)) ∧
    (∃ s', exec (.cartEngineResume p h) s = .next s' ∧ s'.is CE_STATUS.HALT e = false ∧ s'.is CE_ERR_INFO.VALID e = false ∧
      s.regsBut s' [e.reg .CE_STATUS, e.reg .CE_ERR_INFO] ∧ s'.noRegs = s.noRegs)

/-- R295, R296, R299, R300: a register descriptor of a plain copy within hall memory is checked for alignment, length and
windows, in this order; one that passes runs. -/
def Claims.CartDescriptors : Prop :=
  ∀ (s : State) (h c sw dw : Nat) (o : MemOutcome), s.cartOn h c = true → sw < 8 → dw < 8 →
    let i := ix h c
    let a := s.chan h c
    let src := s.get CH_SRC.SRC i
    let dst := s.get CH_DST.DST i
    let cnt := s.get CH_CNT.CNT i
    let x := exec (.cartDescriptorLoad h c o) s
    a.act = true → a.aborting = false → a.load = some .reg → a.waitsSrc = false → a.out = [] → a.fins = [] → a.dqHeld = false → a.job = 0 → a.reading = none →
    s.filled h c = [] → s.is CH_CTRL.PAUSE i = false → s.is CH_CTRL.SWB_EN i = false → s.get CH_NEXT.NEXT i = 0 →
    -- LAST, with the windows sw and dw
    s.get CH_FLAGS.DFLAGS i = dw * 2 ^ 24 + sw * 2 ^ 20 + 2 ^ 14 →
    let aligned := src % 8 = 0 ∧ dst % 8 = 0 ∧ cnt % 8 = 0
    let inside (w first : Nat) : Prop := s.is CE_WIN_BASE.EN (ix h w) = true ∧ s.is CE_WIN_BASE.LOC (ix h w) = false ∧
      s.get CE_WIN_BASE.BASE (ix h w) ≤ first ∧ first + cnt - 1 ≤ s.get CE_WIN_LAST.LAST (ix h w)
    let ends (status : Nat) : Prop := ∃ s', x = .next s' ∧ s'.get CH_STATUS.STATUS i = status ∧ s'.get CH_STATUS.STATE i = 0 ∧
      (s'.chan h c).act = false ∧ s'.get CH_RESIDUE.RESIDUE i = cnt ∧ s'.mem = s.mem ∧
      (status ≠ 2 → s.chitRoom → s'.showsChit ⟨0x15, h * 2 ^ 13 + c, 0, 0⟩ (status + c * 2 ^ 8 + cnt * 2 ^ 32) s.tick)
    (¬aligned → ends 4) ∧ (aligned → cnt = 0 → s.is CH_CTRL.DQ_EN i = false → ends 2) ∧
    (aligned → cnt ≠ 0 → ¬(inside sw src ∧ inside dw dst) → ends 5) ∧
    (aligned → cnt ≠ 0 → inside sw src → inside dw dst → ∃ s', x = .next s' ∧ s'.get CH_STATUS.STATE i = 2 ∧
      (s'.chan h c).desc = some ⟨src, dst, cnt, dw * 2 ^ 24 + sw * 2 ^ 20 + 2 ^ 14, 0⟩ ∧ (s'.chan h c).rd = 0 ∧ (s'.chan h c).wr = 0 ∧
      s'.mem = s.mem ∧ s'.get CH_CUR.ADDR i = 2 ^ 52 - 1)

/-- R291 to R293, R301 to R305: a burst of hall memory is read into a slot and written out of it in order; writes and status
records are acknowledged, and a waiting channel takes the element it waits for. -/
def Claims.CartBursts : Prop :=
  ∀ (s : State) (h c : Nat), s.Inv → s.cartOn h c = true →
    let i := ix h c
    let a := s.chan h c
    (∀ d, a.desc = some d → a.reading = none → d.srcQ = false → d.srcHost = false → s.cartNext h = some c →
      let ad := d.src + a.rd
      let n := min (d.cnt - a.rd) (256 - ad % 256)
      s.errorIn (.hallMem h) ad n = none →
      ∃ s', exec (.cartBurstRead h c .ok) s = .next s' ∧ s'.fifo h = s.fifo h ++ [{ c := c, off := a.rd, data := s.bytesAt (.hallMem h) ad n }] ∧
        (s'.chan h c).rd = a.rd + n ∧ Tab.get s'.cartTurn h 31 = c ∧ s'.mem = s.mem ∧
        (s.get CH_CTRL.RATE i = 0 → (s'.chan h c).credit = a.credit) ∧
        (s.get CH_CTRL.RATE i ≠ 0 → (s'.chan h c).credit = s.credit h c - n ∧ (s'.chan h c).creditAt = s.tick)) ∧
    (∀ o, s.cartNext h ≠ some c → a.reading = none → exec (.cartBurstRead h c o) s = .next s) ∧
    (∀ d x rest o, a.desc = some d → s.fifo h = x :: rest → x.c = c → d.dstQ = false → d.dstHost = false → a.job = 0 →
      a.writing = none → x.err = none → x.off + x.data.length ≠ d.cnt →
      let at_ := (Arr.hallMem h).base + d.dst + x.off
      ∃ s', exec (.cartBurstWrite h c o) s = .next s' ∧ s'.fifo h = rest ∧ (s'.chan h c).wr = x.off + x.data.length ∧
        (s'.chan h c).out = a.out ++ [(a.seq, [])] ∧
        ∀ y, Memory.read s'.mem y = if at_ ≤ y ∧ y < at_ + x.data.length then (x.data[y - at_]?).getD 0 else Memory.read s.mem y) ∧
    (∀ k rest, a.out = (k, []) :: rest → a.fins = [] → ∃ s', exec (.cartWriteAck h c) s = .next s' ∧
      s'.chan h c = { a with out := rest } ∧ s'.mem = s.mem) ∧
    (∀ f r o, a.fins = [f] → f.wrote = true → f.report = some r → r.ends = true → r.job = 0 →
      ∃ s', exec (.cartStatusWriteAck h c o) s = .next s' ∧ s'.get CH_STATUS.STATUS i = r.status % 256 ∧
        s'.get CH_RESIDUE.RESIDUE i = r.residue % 2 ^ 24 ∧ s'.get CH_STATUS.STATE i = 0 ∧ (s'.chan h c).act = false ∧ s'.mem = s.mem) ∧
    (∀ d q, a.desc = some d → d.srcQ = true → d.src = q → q < 1024 → a.waitsSrc = true → a.waitsDst = false → a.load = none →
      a.aborting = false → a.fins = [] → s.is CH_CTRL.PAUSE i = false → a.taken.length < d.cnt / s.qElem h q →
      s.popHolds h q = false → s.qValid h q = true → s.get Q_CONS.C_OWNER (ix h q) = 0 → s.get Q_CONS.C_HOLD (ix h q) = 0 →
      1 ≤ s.qTakeable h q → h < 8 → s.get Q_NUM.TAKE_N (ix h q) < 65535 →
      ∃ s', exec (.cartQueueRetry h c) s = .next s' ∧
        s'.chan h c = { a with waitsSrc := false, taken := a.taken ++
          [(s.get Q_HEAD.HEAD (ix h q) + s.get Q_NUM.TAKE_N (ix h q)) % s.qCap h q] } ∧
        s'.get Q_NUM.TAKE_N (ix h q) = s.get Q_NUM.TAKE_N (ix h q) + 1 ∧ s'.get Q_CONS.C_HOLD (ix h q) = 0x4800 + 0x100 * h) ∧
    (∀ d q, a.desc = some d → d.dstQ = true → d.dst = q → q < 1024 → a.waitsDst = true → a.waitsSrc = false → a.load = none →
      a.aborting = false → a.fins = [] → s.is CH_CTRL.PAUSE i = false → a.rsvd.length < d.cnt / s.qElem h q →
      s.qValid h q = true → s.get Q_PROD.P_OWNER (ix h q) = 0 → s.get Q_PROD.P_HOLD (ix h q) = 0 →
      1 ≤ s.qFree h q → h < 8 → s.get Q_NUM.RSV_N (ix h q) < 65535 →
      ∃ s', exec (.cartQueueRetry h c) s = .next s' ∧
        s'.chan h c = { a with waitsDst := false, rsvd := a.rsvd ++
          [(s.get Q_TAIL.TAIL (ix h q) + s.get Q_NUM.RSV_N (ix h q)) % s.qCap h q] } ∧
        s'.get Q_NUM.RSV_N (ix h q) = s.get Q_NUM.RSV_N (ix h q) + 1 ∧ s'.get Q_PROD.P_HOLD (ix h q) = 0x4801 + 0x100 * h)

/-! ## Images and swaps (R346 to R367, R373) -/

/-- R346, R355, R357: a load whose header is wrong fails with FORMAT and leaves no image; one that no check of step 1 refuses
keeps the image and fetches its first section; a section with a wrong CRC fails the load, and a section of hall data is written
where it says. The bytes are those that the job's requests have brought. -/
def Claims.ImageLoads : Prop :=
  ∀ (s : State) (n a len flags : Nat) (j : Job), s.Inv → s.job n = some j → j.body = .loadImage a len flags → j.state = .running →
    j.acked = false → j.cancelPend = false → j.suspPend = false → s.faults = [] → (∀ q ∈ s.reqs, q.post = none) → j.left = 0 →
    (∀ bytes, j.got ≠ bytes → exec (.imageHeaderFetched n bytes) s = .next s ∧ exec (.imageSectionFetched n bytes) s = .next s) ∧
    (∀ bytes, j.stage = 0 → j.got = bytes →
      -- the image with what step 1 reads of it
      let i : Image := { job := n, shadow := bit flags 0, buf := (stepOne bytes len).1 }
      let x := exec (.imageHeaderFetched n bytes) s
      (field bytes 0 4 ≠ 0x4E594C46 → ∃ s', x = .next s' ∧ s'.jobIs n .failed 1 ∧ (∀ y ∈ s'.images, y.job ≠ n) ∧ s'.mem = s.mem) ∧
      (s.refuseImage i len = none → ∃ s', x = .next s' ∧ s'.image n = some i ∧ s'.jobIs n .running j.reason ∧
        s'.mem = s.mem ∧ s'.regs = s.regs ∧
        ∀ sec, i.secs[0]? = some sec → (∃ j', s'.job n = some j' ∧ j'.stage = 1 ∧ j'.left = sec.len ∧ j'.fetchAt = a + sec.off) ∧
          (sec.len ≠ 0 → ∃ r ∈ s'.reqs, r.id = s.nextReq ∧ r.owner = .job n ∧ r.addr = a + sec.off))) ∧
    (∀ i sec bytes, j.stage = 1 → s.image n = some i → i.committed = false → i.secs[i.taken]? = some sec → j.got = bytes →
      let i' : Image := { i with buf := placeAt i.buf sec.off bytes, taken := i.taken + 1 }
      let x := exec (.imageSectionFetched n bytes) s
      let fails (r : Nat) : Prop := ∃ s', x = .next s' ∧ s'.jobIs n .failed r ∧ (∀ y ∈ s'.images, y.job ≠ n) ∧ s'.mem = s.mem
      -- its fields, the place of its data, then its CRC
      (i.job = n → i'.contentOk sec = false → fails 1) ∧
      (i.job = n → i'.contentOk sec = true → i'.rangeOk sec = false → fails 2) ∧
      (i.job = n → i'.contentOk sec = true → i'.rangeOk sec = true → crc32c bytes ≠ sec.crc → fails 9) ∧
      (i'.rangeOk sec = true → crc32c bytes = sec.crc → bytes.length = sec.len → sec.ty = 4 → i.job = n → 8 ≤ sec.len →
        i'.taken < i'.secs.length →
        let at_ := (Arr.hallMem sec.hall).base + field bytes 0 8
        ∃ s', x = .next s' ∧ s'.image n = some i' ∧ s'.jobIs n .running j.reason ∧ s.regsBut s' [(ix sec.hall 15).reg .HL_GRANT] ∧
          ∀ y, Memory.read s'.mem y = if at_ ≤ y ∧ y < at_ + (sec.len - 8) then (bytes[8 + (y - at_)]?).getD 0 else Memory.read s.mem y))

/-- R363, R364, R365, R366, R197, R373: a swap commits, switches every hall at its instant, a stall in its rotation and a barrow in
its swap cycle; a barrow changes its page by PAGE_SEL too; a wind-down that takes too long fails its job and goes on. -/
def Claims.SwapsAndWindDownTimeout : Prop :=
  (∀ (s : State) (w : Swap) (v : Nat), s.swaps = [w] → w.switched = false → w.inst = none → w.till = some v → v ≤ s.tick + 1024 →
    v < 2 ^ 64 → ∃ s', exec .swapCommit s = .next s' ∧ s'.swaps = [{ w with inst := some v }] ∧
      (∀ h < s.part.halls, s'.get HS_STATUS.STATE (ix h) = 2 ∧ s'.get HS_SWAP_AT.I (ix h) = v) ∧
      { s'.noRegs with swaps := s.swaps } = s.noRegs) ∧
  (∀ (s : State) (w : Swap) (v : Nat) (i : Image) (j : Job), s.swaps = [w] → w.switched = false → w.till = some v → v ≤ s.tick →
    v < 2 ^ 64 → s.image w.loaded = some i → (∀ x ∈ i.secs, x.ty ≠ 8) → s.job w.job = some j → j.acked = false → s.faults = [] →
    ∃ s', exec .swapTillInstant s = .next s' ∧ (∃ j', s'.job w.job = some j' ∧ j'.state = .done) ∧ s'.mem = s.mem ∧
      (∀ h < s.part.halls, s'.get HS_STATUS.STATE (ix h) = 3 ∧ s'.get HS_SWAP_AT.I (ix h) = v ∧
        ∀ b < 16, (s'.barrow h b).swapAt = some (v + 32))) ∧
  (∀ (s : State) (h f : Nat) (w : Swap) (i : Image) (c r : List Byte), let role := s.get STL_SELF.ROLE (ix h f)
    s.swaps = [w] → w.switched = true → (h, role) ∈ w.stalls → s.image w.loaded = some i → w.inst.getD 0 + 32 ≤ s.tick →
    s.roleStall h role = some f → i.sec 2 h role = some c → i.stallRec h role = some r →
    ∃ s', exec (.stallSwapRotation h f) s = .next s' ∧ s'.page h f = 1 - s.page h f ∧ s'.is STL_ICACHE.INVAL_BUSY (ix h f) = true ∧
      ∀ t < 16, let action := field c (8 + 40 * t + 34) 1
        (action = 1 → (s'.trader ⟨h, f, t⟩).running = true ∧ (s'.trader ⟨h, f, t⟩).pc = field c (8 + 40 * t + 36) 2 ∧
          (s'.trader ⟨h, f, t⟩).sup = bit (field r 2 2) t) ∧
        (action = 0 → (s'.trader ⟨h, f, t⟩).running = (s.trader ⟨h, f, t⟩).running ∧
          (s'.trader ⟨h, f, t⟩).pc = (s.trader ⟨h, f, t⟩).pc)) ∧
  (∀ (s : State) (h b t : Nat), (s.barrow h b).swapAt = none → (s.barrow h b).selAt = some t → s.clkRun = true →
    s.cycleStart h b (s.cycleFrom h b t) ≤ s.tick → (∀ k < 4, Tab.find s.crWas ⟨h, b, k⟩ = none) →
    ∃ s', exec (.barrowSwapCycle h b) s = .next s' ∧ s'.brPage h b = 1 - s.brPage h b ∧ (s'.barrow h b).selAt = none ∧
      s'.is BR_STATUS.PAGE_PEND (ix h b) = (s.barrow h b).swapPg ∧ s'.mem = s.mem ∧
      ∀ k < 4, s'.get CR_STATUS_C.PC (ix h b k) =
        if s.is CR_EXEC.SWAP_JUMP (ix h b k) then s.get CR_EXEC.SWAP_ENTRY (ix h b k) else s.get CR_STATUS_C.PC (ix h b k)) ∧
  (∀ (s : State) (h b t : Nat) (w : Swap) (i : Image) (c : List Byte), (s.barrow h b).swapAt = some t → s.clkRun = true →
    s.cycleStart h b (s.cycleFrom h b t) ≤ s.tick → s.swaps = [w] → w.switched = true → (h, b) ∈ w.barrows → w.stalls ≠ [] →
    s.image w.loaded = some i → s.active (false, h, b) = i.job → i.sec 5 h b = some c → (∀ k < 4, Tab.find s.crWas ⟨h, b, k⟩ = none) →
    ∃ s', exec (.barrowSwapCycle h b) s = .next s' ∧
      -- a later request of PAGE_SEL has replaced the page change of the swap, but nothing else of it
      s'.brPage h b = (if (s.barrow h b).swapPg then 1 - s.brPage h b else s.brPage h b) ∧ (s'.barrow h b).swapAt = none ∧
      s'.is BR_STATUS.PAGE_PEND (ix h b) = (s.barrow h b).selAt.isSome ∧ s'.mem = s.mem ∧
      s'.swaps = [{ w with barrows := w.barrows.filter (fun k => k != (h, b)) }] ∧
      s'.get BR_RUN_SET.RUN (ix h b) = field c 264 4 % 16) ∧
  (∀ (s : State) (w : Wind) (e : Nat) (j : Job), s.wind = some w → w.timeout = some e → e ≤ s.tick → s.job w.job = some j →
    j.state.ended = false → ∃ s', exec .windDownTimeout s = .next s' ∧ s'.jobIs w.job .failed 1 ∧
      s'.wind = some { w with job := 0xFFF0, timeout := none } ∧ s'.mem = s.mem ∧ s'.traders = s.traders)

/-! ## Power and temperature (R381 to R393, R410) -/

/-- R382, R384, R386 to R389, R410: the steps of a change of level, the end of sleep entry, wake pins, the I²C matcher, the
sleep agent, and a reading of the temperature sensors. -/
def Claims.PowerSequencing : Prop :=
  ∀ (s : State),
    (s.till.refUp = false → exec .corePllLock s = .next s) ∧
    (∀ l, s.till.refUp = true → l < 4 → s.power.step = .raiseLock l → s.is PWR_STATUS.FULL = true → s.power.job = none → s.power.throttle = none →
      (s.trader ⟨0, 0, 0⟩).inRom = false →
      ∃ s', exec .corePllLock s = .next s' ∧ s'.get PWR_STATUS.PL = l ∧ s'.is PWR_CLK.PLL_SEL = !s.is PWR_CLK.PLL_SEL ∧
        s'.power = { s.power with step := .none } ∧ { s'.noRegs with power := s.power } = s.noRegs) ∧
    (∀ l, s.till.refUp = true → s.power.step = .lowerLock l → ∃ s', exec .corePllLock s = .next s' ∧ s'.is PWR_CLK.PLL_SEL = !s.is PWR_CLK.PLL_SEL ∧
      s'.power = { s.power with vreq := l, since := s.tick, step := .lowerSupply l } ∧ s.regsBut s' [({} : Ix).reg .PWR_CLK]) ∧
    (let settled := s.power.since + max 1 (s.get PWR_VSETTLE.US) * 16000 ≤ s.tick
     (¬settled → exec .supplySettled s = .next s) ∧
     (∀ l, settled → s.power.step = .raiseSupply l →
      exec .supplySettled s = .next { s with power := { s.power with step := .raiseLock l } }) ∧
     (∀ l, l < 4 → settled → s.power.step = .lowerSupply l → s.power.job = none → s.power.throttle = none →
      (s.trader ⟨0, 0, 0⟩).inRom = false →
      ∃ s', exec .supplySettled s = .next s' ∧ s'.get PWR_STATUS.PL = l ∧ s'.power = { s.power with step := .none } ∧
        s.regsBut s' [({} : Ix).reg .PWR_STATUS])) ∧
    (∀ x n, s.power.step = .entering x → s.power.job = some n → s.drained n = true → s.power.woken = false →
      (∀ k < 32, s.is WK_PIN.EN (ix k) = false) → s.till.clk ≠ .lfo → s.faults = [] →
      ∃ s', exec .sleepEntryComplete s = .next s' ∧ s'.asleep = true ∧ s'.power.step = .asleep x ∧ s'.power.job = none ∧
        s'.is PWR_STATUS.FULL = false ∧ s'.mem = s.mem ∧ ∀ t, (s'.trader t).lbuf = none ∧ (s'.trader t).pc = (s.trader t).pc) ∧
    (∀ n level, n < 32 → s.is WK_PIN.EN (ix n) = false → s.faults = [] → let p := s.get WK_PIN.PIN (ix n)
      exec (.wakePin n level) s = .next { s with power := { s.power with
        levels := Tab.set s.power.levels (n, p) level
        ack := if !level && p == s.get WK_I2C.SCL_PIN then none else s.power.ack } }) ∧
    (∀ n, n < 32 → s.is WK_PIN.EN (ix n) = true → s.get WK_PIN.COND (ix n) = 2 → s.asleep = false → s.get PWR_STATUS.STATE = 2 →
      s.faults = [] → ∃ s', exec (.wakePin n true) s = .next s' ∧ bit (s'.get WK_CAUSE.PIN) n = true ∧ s'.power.woken = true ∧
        s.regsBut s' [({} : Ix).reg .WK_CAUSE]) ∧
    (∀ b, s.i2cMatches b.toNat = true → s.asleep = false → s.get PWR_STATUS.STATE = 2 → s.faults = [] →
      ∃ s', exec (.i2cAddressMatch b) s = .next s' ∧ s'.is WK_I2C.HIT = true ∧ s'.power.woken = true ∧
        s.regsBut s' [({} : Ix).reg .WK_I2C]) ∧
    (∀ b, s.i2cMatches b.toNat = true → s.asleep = true → s.power.step = .asleep 5 → s.is WK_I2C.ACK_EN = true → s.faults = [] →
      ∃ s', exec (.i2cAddressMatch b) s = .next s' ∧ s'.power.ack = some (s.get WK_I2C.SDA_PIN) ∧ s'.is WK_I2C.HIT = true ∧
        s'.get PWR_STATUS.STATE = 3) ∧
    (∀ p a w, s.asleep = false → exec (.sleepAgentAccess p a w) s = .next s) ∧
    (∀ p a, s.asleep = true → s.faults = [] → (∀ r hi, s.hostReg a = some (r, hi) → r.name.ofPower = false) →
      exec (.sleepAgentAccess p a none) s = .next { s with readOut := 0 }) ∧
    (∀ p a r, s.asleep = true → s.faults = [] → s.hostReg a = some (r, false) → r.name ∈ [.PWR_VSETTLE, .WK_CTRL, .WK_PIN] →
      exec (.sleepAgentAccess p a none) s = .next { s with readOut := BitVec.ofNat 32 (s.rd r) } ∧
      ∀ v, exec (.sleepAgentAccess p a (some v)) s = .next (s.fieldWrite r v.toNat)) ∧
    (∀ p a r v, s.asleep = true → s.power.step = .asleep 5 → s.faults = [] → s.hostReg a = some (r, false) → r.name = .OR_TAIL →
      let doors := Tab.set s.power.doors r.a v.toNat
      (s.is WK_CTRL.DB_EN = false → exec (.sleepAgentAccess p a (some v)) s = .next { s with power := { s.power with doors := doors } }) ∧
      (s.is WK_CTRL.DB_EN = true → ∃ s', exec (.sleepAgentAccess p a (some v)) s = .next s' ∧ s'.is WK_I2C.DB_HIT = true ∧
        s'.asleep = false ∧ s'.get PWR_STATUS.STATE = 3 ∧ s'.till.clk = .fio ∧ s'.get OR_TAIL.TAIL (ix r.a) = v.toNat % 4096 % s.orSize r.a)) ∧
    (∀ temps : List Nat, s.asleep = false → s.faults = [] → temps.length = 9 → (∀ x ∈ temps, x < 256) →
      let seen := (List.range 9).filter (fun n => decide (n < s.part.halls) || n == 8)
      let hot := (seen.map (fun n => temps[n]?.getD 0)).foldl max 0
      let old := s.power.thermal
      let new := s.thermalLevel hot
      (new = old ∨ (new < 2 ∧ old < 2) ∨ (new = 2 ∧ old < 2) →
        ∃ s', exec (.temperatureSample temps) s = .next s' ∧ s'.power.thermal = new ∧
        (∀ n < 9, s'.get FT_TEMP.TEMP (ix n) = if n ∈ seen then temps[n]?.getD 0 else 0) ∧
        (new = old → s'.noRegs = s.noRegs) ∧
        (new ≠ old → s.chitRoom → ∃ n ∈ seen, temps[n]?.getD 0 = hot ∧ s'.showsChit ⟨0x27, n, 0, 0⟩ (new + hot * 2 ^ 8) s.tick) ∧
        (new = 2 → old < 2 → s.is FT_THERM_CTRL.THROTTLE_EN = true → s.inTransition = false → 1 < s.get PWR_STATUS.PL →
          s'.is FT_DSTATUS.THROTTLED = true ∧ s'.power.step = .lowerLock 1 ∧ s'.power.before = some (s.get PWR_STATUS.PL))))

/-! ## Orders and jobs (R323 to R338) -/

/-- R323, R334, R335: an accepted job order that must wait leaves its job QUEUED; one whose number is in use is refused with
the chit ORDER_REFUSED and reason 4. -/
def Claims.JobOrdersWait : Prop :=
  ∀ (s : State) (o : OrderHdr) (a b c d e f : Nat) (ws : List Word),
    ∀ p ∈ [(Instr.loadImage o a b c, JobBody.loadImage a b c), (.swapAt o a b c d e, .swapAt a b c d e), (.claim o ws, .claim ws),
        (.claimRelease o a ws, .release a ws), (.clear o a b c d e, .clear a b c d e), (.trainLane o a, .trainLane a),
        (.loadMicrocode o a b, .loadMicrocode a b), (.calibrateAxis o a b c d e f, .calibrate a b c d e f),
        (.cartJob o a b c d, .cartJob a b c d), (.powerIdle o, .power 4 0 0), (.powerNap o a b, .power 5 a b),
        (.powerOff o a b, .power 6 a b), (.windDown o a b c d, .windDown a b c d)],
      (s.Accepts o (.job p.2) → (s.withJob o p.2).startable (s.newJob o p.2) = false →
        (∀ t r f, p.2 = .power t r f → (s.withJob o p.2).powerBusy o.job = false) →
        ∃ s', exec p.1 s = .next s' ∧ s'.job o.job = some (s.newJob o p.2) ∧
          { s' with jobs := s.jobs, jobSeq := s.jobSeq } = s ∧ ∀ j ∈ s'.jobs, j ∈ s.jobs ∨ j = s.newJob o p.2) ∧
      (∀ j, o.flags < 4 → p.2.fieldsOk = true → 1 ≤ o.job → o.job < 0xFFF0 → s.job o.job = some j → s.asleep = false → s.faults = [] →
        s.chitRoom → ∃ s', exec p.1 s = .next s' ∧
          s'.showsChit ⟨2, o.ring * 2 ^ 12 + o.slot % 4096, o.job, 0⟩ (o.htag.toNat + (4 * 2 ^ 32 + p.2.code * 2 ^ 40)) s.tick ∧
          s'.mem = s.mem ∧ s'.traders = s.traders)

/-- R330, R331, R245, R261, R332, R333, R355, R362: what a job of each kind does when it starts. -/
def Claims.JobsStart : Prop :=
  ∀ (s : State) (o : OrderHdr),
    let n := o.job
    (∀ ws : List Word, s.Starts o (.claim ws) → (∀ w ∈ ws, s.holder (w.toNat / 2 ^ 20) = none ∧ s.tied (w.toNat / 2 ^ 20) = []) →
      ∃ s', exec (.claim o ws) s = .next s' ∧ s'.jobIs n .done ∧ ∀ w ∈ ws, s'.holder (w.toNat / 2 ^ 20) = some n) ∧
    (∀ (w : Word) k, s.Starts o (.claim [w]) → s.holder (w.toNat / 2 ^ 20) = some k → k ≠ n →
      ∃ s', exec (.claim o [w]) s = .next s' ∧ s'.jobIs n .failed 0xD ∧ s'.holder (w.toNat / 2 ^ 20) = some k) ∧
    (∀ owner (ws : List Word), s.Starts o (.release owner ws) → (∀ w ∈ ws, s.holder (w.toNat / 2 ^ 20) = some owner) →
      ∃ s', exec (.claimRelease o owner ws) s = .next s' ∧ s'.jobIs n .done ∧ ∀ w ∈ ws, s'.holder (w.toNat / 2 ^ 20) = none) ∧
    (∀ area h st off len, s.Starts o (.clear area h st off len) → ∃ s', exec (.clear o area h st off len) s = .next s' ∧
      s'.mem = s.mem ∧ (if clearSize area < off + len then s'.jobIs n .failed 2 else if len = 0 then s'.jobIs n .done else s'.jobIs n .running)) ∧
    (∀ lane, s.Starts o (.trainLane lane) → s.lnMode (lane / 4) (lane % 4) ≠ 0 → (s.lane (lane / 4) (lane % 4)).training = none →
      s.lnState (lane / 4) (lane % 4) ≠ 2 → s.till.refUp = true → ∃ s', exec (.trainLane o lane) s = .next s' ∧ s'.jobIs n .running ∧
        s'.lnState (lane / 4) (lane % 4) = 1 ∧ (s'.lane (lane / 4) (lane % 4)).training = some (s.tick, n)) ∧
    (let asks (x : Out) (addr len : Nat) : Prop := ∃ s', x = .next s' ∧ s'.jobIs n .running ∧ ∃ r ∈ s'.reqs, r.id = s.nextReq ∧
        r.owner = .job n ∧ r.write = false ∧ r.stream = 0x8002 ∧ r.addr = addr ∧ r.len = len
     (∀ a len f, s.Starts o (.loadImage a len f) → asks (exec (.loadImage o a len f) s) a 64) ∧
     (∀ lane a, s.Starts o (.loadMicrocode lane a) → asks (exec (.loadMicrocode o lane a) s) a (min 32 (64 - a % 64)))) ∧
    (∀ ax fl rf dur pre res, s.Starts o (.calibrate ax fl rf dur pre res) → ∃ s', exec (.calibrateAxis o ax fl rf dur pre res) s = .next s' ∧
      s'.jobIs n .running ∧ Tab.find s'.calibs n = some {} ∧ s'.axes = s.axes) ∧
    (∀ h c fl head, s.Starts o (.cartJob h c fl head) → bit fl 0 = false → ∃ s', exec (.cartJob o h c fl head) s = .next s' ∧
      s'.jobIs n .running ∧ (s'.chan h c).act = true ∧ (s'.chan h c).job = n ∧ s'.get CH_NEXT.NEXT (ix h c) = head ∧
      s'.get CH_CNT.CNT (ix h c) = 0 ∧ bit (s'.get CH_FLAGS.DFLAGS (ix h c)) 15 = bit fl 1) ∧
    (∀ loaded axis dir v x i, s.Starts o (.swapAt loaded 0 axis dir v) → s.job loaded = some x → x.state = .done →
      s.image loaded = some i → i.committed = true → i.shadow = true → i.swapped = false → s.swaps = [] → s.tillNow + 2048 ≤ v →
      (∀ h < s.part.halls, s.is CLM_TM.VALID (ix h (s.swapMark h)) = false ∧ s.is TM_STATUS.ARMED (ix h (s.swapMark h)) = false) →
      ∃ s' w, exec (.swapAt o loaded 0 axis dir v) s = .next s' ∧ s'.jobIs n .running ∧ s'.swaps = [w] ∧ w.job = n ∧ w.loaded = loaded ∧
        w.till = some v ∧ w.inst = none ∧ w.switched = false ∧
        ∀ h < s.part.halls, s'.get HS_STATUS.STATE (ix h) = 1 ∧ s'.get HS_STATUS.JOB (ix h) = n ∧
          s'.is CLM_TM.VALID (ix h (s.swapMark h)) = true ∧ s'.get CLM_TM.HOLDER (ix h (s.swapMark h)) = n)

/-- R382, R383, R384, R373, R334: what a POWER job and a WIND_DOWN job do when they start, and JOB_START of a queued job. -/
def Claims.PowerAndWindJobs : Prop :=
  ∀ (s : State) (o : OrderHdr),
    let n := o.job
    let still := (∀ t, (s.trader t).running = false) ∧ ∀ h c, (s.chan h c).act = false
    (∀ pl, pl < 4 → s.Starts o (.power pl 0 0) → s.is FT_DSTATUS.THROTTLED = false →
      let old := s.get PWR_STATUS.PL
      let x := exec (.powerLevel o pl) s
      (pl = old → ∃ s', x = .next s' ∧ s'.jobIs n .done ∧ s'.power = s.power) ∧
      (old < pl → s.till.refUp = true → ∃ s', x = .next s' ∧ s'.jobIs n .running ∧
        s'.power = { s.power with job := some n, vreq := pl, since := s.tick, step := .raiseSupply pl }) ∧
      (pl < old → s.till.refUp = true → ∃ s', x = .next s' ∧ s'.jobIs n .running ∧
        s'.power = { s.power with job := some n, step := .lowerLock pl })) ∧
    (s.Starts o (.power 4 0 0) → ∃ s', exec (.powerIdle o) s = .next s' ∧ s'.jobIs n .done ∧ s'.get PWR_STATUS.STATE = 1) ∧
    (∀ resume, still → s.wakeEnabled = true → s.wind = none → s.swaps = [] →
      (s.Starts o (.power 5 resume 0) → ∃ s', exec (.powerNap o resume 0) s = .next s' ∧ s'.power.step = .entering 5 ∧
        s'.power.job = some n ∧ s'.power.resume = resume) ∧
      (s.Starts o (.power 6 resume 0) → ∃ s', exec (.powerOff o resume 0) s = .next s' ∧ s'.power.step = .entering 6 ∧
        s'.power.job = some n ∧ s'.power.resume = resume)) ∧
    (∀ resume, s.wakeEnabled = false → s.Starts o (.power 5 resume 0) → ∃ s', exec (.powerNap o resume 0) s = .next s' ∧
      s'.jobIs n .failed 3 ∧ s'.power = s.power) ∧
    (∀ axis prof timeout, still → s.wind = none → s.get PWR_STATUS.STATE = 0 → s.Starts o (.windDown axis prof 0 timeout) →
      ∃ s' w, exec (.windDown o axis prof 0 timeout) s = .next s' ∧ s'.wind = some w ∧ w.job = n ∧ w.axis = axis ∧ w.start = s.tick ∧
        w.timeout = (if timeout = 0 then none else some (s.tick + timeout * 2 ^ 20)) ∧
        ∀ h < s.part.halls, s'.is HS_STATUS.WINDING (ix h) = true) ∧
    (∀ m j area h st off len, s.job m = some j → j.state = .queued → j.acked = false → j.body = .clear area h st off len → s.startable j = true →
      0 < len → off + len ≤ clearSize area → s.faults = [] →
      ∃ s', exec (.jobStart m) s = .next s' ∧ (∃ j', s'.job m = some j' ∧ j'.state = .running ∧ j'.prog = j.prog ∧ j'.began = s.tick) ∧
        s'.mem = s.mem)

/-- R328, R329, R335, R336, R323: the immediate orders: start and stop of traders, and suspend, resume and cancel of a queued
job with their ORDER_DONE chits; a fetched record is taken, and one whose CODE is unknown is refused. -/
def Claims.ImmediateOrders : Prop :=
  ∀ (s : State) (o : OrderHdr),
    let src := o.ring * 2 ^ 12 + o.slot % 4096
    let told (s' : State) (result : Nat) : Prop := s.chitRoom → s'.showsChit ⟨1, src, 0, 0⟩ (o.htag.toNat + result * 2 ^ 32) s.tick
    (∀ h role mask fl entry f, s.Accepts o (.start h role mask fl entry) → s.roleStall h role = some f →
      ∃ s', exec (.startTraders o h role mask fl entry) s = .next s' ∧ s'.mem = s.mem ∧ (bit o.flags 0 = true → told s' 0) ∧
        ∀ t < 16, let old := s.trader ⟨h, f, t⟩
          let new := s'.trader ⟨h, f, t⟩
          (bit mask t = true → old.running = false → new.running = true ∧ new.sup = bit (s.superMask h role) t ∧ s'.get EV_CTRL.CUR (TraderId.ix ⟨h, f, t⟩) = 0 ∧
            new.pc = (if bit fl 1 then entry else old.pc) ∧
            (bit fl 0 = true → s'.get EV_PEND.PEND (TraderId.ix ⟨h, f, t⟩) = 0)) ∧
          (bit mask t = false ∨ old.running = true → new = old)) ∧
    (∀ h role mask f, s.Accepts o (.stop h role mask) → s.roleStall h role = some f → (∀ t, (s.trader t).trap = none) →
      ∃ s', exec (.stopTraders o h role mask) s = .next s' ∧ s'.mem = s.mem ∧ (s.chitRoom → s'.regs = s.regs) ∧ (bit o.flags 0 = true → told s' 0) ∧
        ∀ t < 16, (bit mask t = true → (s'.trader ⟨h, f, t⟩).running = false ∧ (s'.trader ⟨h, f, t⟩).pc = (s.trader ⟨h, f, t⟩).pc) ∧
          (bit mask t = false → s'.trader ⟨h, f, t⟩ = s.trader ⟨h, f, t⟩)) ∧
    (∀ m, s.job m = none → m < 0x10000 → s.Accepts o (.suspend m) → ∃ a b c, exec (.jobSuspend o m) s = .next a ∧
      exec (.jobResume o m) s = .next b ∧ exec (.jobCancel o m) s = .next c ∧ told a 6 ∧ told b 6 ∧ told c 6) ∧
    (∀ m j, s.job m = some j → j.acked = false → m < 0x10000 → s.Accepts o (.suspend m) →
      (j.state = .queued → (∃ s', exec (.jobSuspend o m) s = .next s' ∧ s'.jobIs m .suspended ∧ told s' 0) ∧
        ∃ s', exec (.jobCancel o m) s = .next s' ∧ s'.jobIs m .cancelled ∧ told s' 0) ∧
      (j.state = .suspended → j.fromQueued = true → j.body = .power 4 0 0 → s.inTransition = true →
        ∃ s', exec (.jobResume o m) s = .next s' ∧ s'.jobIs m .queued ∧ told s' 0)) ∧
    (∀ r b, s.arrived = [⟨r, .data b⟩] → r.owner = .order o.ring → b.length = 64 → field b 0 1 = 0 → s.faults = [] →
      ∃ s', exec (.orderFetchComplete o.ring) s = .next s' ∧ s'.arrived = [] ∧
        s'.get OR_HEAD.HEAD (ix o.ring) = (s.get OR_HEAD.HEAD (ix o.ring) + 1) % s.orSize o.ring ∧
        (s.chitRoom → s'.showsChit ⟨2, o.ring * 2 ^ 12 + s.get OR_HEAD.HEAD (ix o.ring), field b 2 2, 0⟩ (field b 4 4 + 1 * 2 ^ 32) s.tick)) ∧
    (∀ r b body, s.arrived = [⟨r, .data b⟩] → r.owner = .order o.ring → b.length = 64 → parseOrder b = some (.job body, true) →
      o.slot = s.get OR_HEAD.HEAD (ix o.ring) → o.flags = field b 1 1 → o.job = field b 2 2 → o.htag.toNat = field b 4 4 →
      s.Accepts o (.job body) → (s.withJob o body).startable (s.newJob o body) = false →
      (∀ t r f, body = .power t r f → (s.withJob o body).powerBusy o.job = false) →
      ∃ s', exec (.orderFetchComplete o.ring) s = .next s' ∧ s'.arrived = [] ∧ s'.job o.job = some (s.newJob o body) ∧
        s'.get OR_HEAD.HEAD (ix o.ring) = (s.get OR_HEAD.HEAD (ix o.ring) + 1) % s.orSize o.ring)

/-- R331, R261, R332: the steps of CLEAR, LOAD_MICROCODE and CALIBRATE_AXIS. -/
def Claims.JobSteps : Prop :=
  ∀ (s : State) (n : Nat) (j : Job), s.Inv → s.job n = some j → j.state = .running → j.acked = false → j.cancelPend = false →
    j.suspPend = false →
    (∀ h st off len, j.body = .clear 0 h st off len → 4096 * j.prog < len →
      let at_ := (Arr.hallMem h).base + (off + 4096 * j.prog)
      let k := min 4096 (len - 4096 * j.prog)
      ∃ s', exec (.clearBlockDone n) s = .next s' ∧
        (∀ y, Memory.read s'.mem y = if at_ ≤ y ∧ y < at_ + k then 0 else Memory.read s.mem y) ∧
        ∃ j', s'.job n = some j' ∧ j'.prog = j.prog + 1 ∧ j'.state = if len ≤ 4096 * (j.prog + 1) then .done else .running) ∧
    (∀ lane patch, j.body = .loadMicrocode lane patch →
      let h := lane / 4
      let k := lane % 4
      (∀ bytes, j.stage = 0 → j.left = 0 → j.got = bytes → 32 ≤ bytes.length →
        (s.patchOk h k bytes = false → ∃ s', exec (.microcodeFetchComplete n bytes) s = .next s' ∧ s'.jobIs n .failed 1 ∧ s'.mem = s.mem) ∧
        (s.patchOk h k bytes = true → crc32c (bytes.drop 32) ≠ field bytes 20 4 →
          ∃ s', exec (.microcodeFetchComplete n bytes) s = .next s' ∧ s'.jobIs n .failed 2 ∧ s'.mem = s.mem) ∧
        (s.patchOk h k bytes = true → crc32c (bytes.drop 32) = field bytes 20 4 →
          ∃ s', exec (.microcodeFetchComplete n bytes) s = .next s' ∧ Tab.find s'.patches n = some bytes ∧ (s'.lane h k).qreq = true ∧
            ∃ j', s'.job n = some j' ∧ j'.stage = 3 ∧ j'.prog = s.tick)) ∧
      (j.stage = 3 → j.prog + 16000000 ≤ s.tick → ∃ s', exec (.microcodeQreqTimeout n) s = .next s' ∧
        s'.thRuns h k 0 = false ∧ s'.thRuns h k 1 = false ∧ s'.mem = s.mem ∧ s'.jobs = s.jobs) ∧
      (∀ bytes w, j.stage = 3 → Tab.find s.patches n = some bytes → s.thRuns h k 0 = false → s.thRuns h k 1 = false →
        field bytes 10 2 = 1 → bytes.length = 64 → field bytes 3 1 = 0 → field bytes 8 2 = w →
        let at_ := (Arr.cstore h k).base + 32 * w
        ∃ s', exec (.microcodeWriteComplete n) s = .next s' ∧ s'.jobIs n .done ∧ s'.rd ((ix h k).reg .CS_VERSION) = field bytes 4 4 ∧
          (s'.lane h k).qreq = false ∧
          ∀ y, Memory.read s'.mem y = if at_ ≤ y ∧ y < at_ + 18 then (bytes[32 + (y - at_)]?).getD 0 else Memory.read s.mem y)) ∧
    (∀ ax fl rf dur pre res, j.body = .calibrate ax fl rf dur pre res →
      (j.stage = 0 → j.began + dur * 1024 ≤ s.tick → ∃ s' r, exec (.calibrateEnd n) s = .next s' ∧ r ∈ s'.reqs ∧ r.id = s.nextReq ∧
        r.owner = .job n ∧ r.write = true ∧ r.addr = res ∧ r.len = 32 ∧ r.data.length = 32 ∧
        field r.data 0 4 = (Tab.get s.calibs n {}).used % 2 ^ 32 ∧ field r.data 16 8 = (Tab.get s.calibs n {}).te % 2 ^ 64 ∧
        Tab.find s'.calibs n = none ∧ ∃ j', s'.job n = some j' ∧ j'.stage = 1 ∧ j'.state = .running) ∧
      (∀ r, j.stage = 1 → s.arrived = [⟨r, .ack⟩] → r.owner = .job n →
        ∃ s', exec (.calibrateEnd n) s = .next s' ∧ s'.jobIs n .done ∧ s'.arrived = []))

/-! ## Faults and spares (R396 to R411, R428) -/

/-- R398, R399, R400: the scrubber corrects a single-bit error and counts it, and reports an uncorrectable one; a parity error
of a pin's configuration holds the pad from the start of cycle k on. -/
def Claims.ScrubAndParity : Prop :=
  (∀ (s : State) (h o : Nat), h < s.part.halls → o < 0x400000 → o % 4 = 0 → s.is FT_HCTRL.SCRUB_EN (ix h) = true → s.asleep = false →
    s.faults = [] →
    let a := (Arr.hallMem h).base + o
    (Tab.find s.ecc (9, a / 4) = none → exec (.scrubRead h a) s = .next s) ∧
    (Tab.find s.ecc (9, a / 4) = some false → ∃ s', exec (.scrubRead h a) s = .next s' ∧ Tab.find s'.ecc (9, a / 4) = none ∧
      s'.get FT_CORR_HM.COUNT (ix h) = min (s.get FT_CORR_HM.COUNT (ix h) + 1) (2 ^ 32 - 1) ∧ s'.mem = s.mem ∧
      ∀ k, k ≠ (9, a / 4) → Tab.find s'.ecc k = Tab.find s.ecc k) ∧
    (Tab.find s.ecc (9, a / 4) = some true → ∃ s', exec (.scrubRead h a) s = .next s' ∧ s'.ecc = s.ecc ∧ s'.mem = s.mem ∧
      s'.get FT_UNC_ADDR.ARRAY (ix h) = 9 ∧ s'.get FT_UNC_ADDR.ADDR (ix h) = o ∧
      (s.chitRoom → s'.showsChit ⟨0x21, h * 2 ^ 13 + 9, 0, 0⟩ o s.tick))) ∧
  (∀ (s : State) (a n : Nat) (r : Reg) (hi : Bool), a % 4 = 0 → s.hostReg a = some (r, hi) → r.name = .PIN_CFG → r.a < s.part.halls →
    s.asleep = false → s.faults = [] → (rwField r (n % 32)).isSome = true →
    ∃ s', exec (.cfgParity none a n) s = .next s' ∧ s'.is FT_HSTATUS.PARITY (ix r.a) = true ∧ s'.is PIN_STATUS.HOLD_HOST (ix r.a r.b) = true ∧
      (s.heldPin r.a r.b = false → (s.pin r.a r.b).keep = none → (s.pin r.a r.b).capture = none →
        (s'.pin r.a r.b).capture = some (s.switchStart r.a (r.b / 8)) ∧ (s'.pin r.a r.b).switching = none) ∧ s'.rd r = s.rd r ∧
      (s.chitRoom → s'.showsChit ⟨0x24, r.a * 2 ^ 13, 0, 0⟩ a s.tick))

/-- R402 to R406: a lockstep mismatch takes both stalls of the pair out of service; the spare takes over the memories, the
role and the barrows of a failed stall, and restarts the traders that ran. -/
def Claims.FailOver : Prop :=
  (∀ (s : State) (h j : Nat), h < 8 → j < 4 → bit (s.get FT_LOCKSTEP.PAIR (ix h)) j = true → s.asleep = false → s.faults = [] →
    s.swaps = [] → (∀ t, (s.trader t).trap = none) → 2 * j < s.part.stalls →
    let role := s.get STL_SELF.ROLE (ix h (2 * j))
    role < 8 → s.get FT_STALL.STATE (ix h (2 * j)) ≠ 3 → s.is FT_ROLE.FO_EN (ix h role) = false →
    ∃ s', exec (.lockstepMismatch h j) s = .next s' ∧
      (∀ x, x = 2 * j ∨ x = 2 * j + 1 → s'.get FT_STALL.STATE (ix h x) = 3 ∧ s'.get FT_STALL.CAUSE (ix h x) = 1 ∧
        ∀ t < 16, (s'.trader ⟨h, x, t⟩).running = false) ∧
      s'.mem = s.mem ∧ (s.chitRoom → s'.showsChit ⟨0x26, h * 2 ^ 13 + role, 0, 0⟩
        (1 + 2 * j * 2 ^ 4 + s.get FT_STALL.BAD (ix h 8) * 2 ^ 8) s.tick)) ∧
  (∀ (s : State) (h : Nat) (o : Failover), Tab.find s.failovers h = some o → o.switched = false → o.spareCause = none → s.swaps = [] →
    s.ecc = [] → s.faults = [] → s.held = [] → s.Inv → o.f < 8 → o.role < 8 → o.cause < 8 → h < 8 →
    let src := (Arr.shared h o.f).base
    let dst := (Arr.shared h 8).base
    ∃ s', exec (.failoverSwitch h) s = .next s' ∧
      (∀ y, Memory.read s'.mem y = if dst ≤ y ∧ y < dst + 0x50000 then Memory.read s.mem (y - dst + src) else Memory.read s.mem y) ∧
      s'.get STL_SELF.ROLE (ix h 8) = o.role ∧ s'.get STL_SELF.ROLE (ix h o.f) = 15 ∧ s'.get FT_STALL.STATE (ix h 8) = 2 ∧
      s'.is FT_HSTATUS.SPARE_USED (ix h) = true ∧ Tab.find s'.failovers h = some { o with switched := true } ∧
      (∀ b < 16, s'.stallOf h b = if s.stallOf h b = o.f then 8 else s.stallOf h b) ∧
      (s.chitRoom → s'.showsChit ⟨0x25, h * 2 ^ 13 + o.role, 0, 0⟩ (o.cause + o.f * 2 ^ 4) s.tick)) ∧
  (∀ (s : State) (h : Nat) (o : Failover), Tab.find s.failovers h = some o → o.switched = true → o.spareCause = none →
    o.at_ + 16000 ≤ s.tick → s.is FT_HCTRL.HOLD_KEEP (ix h) = false → s.get PWR_STATUS.STATE ≠ 2 → s.wind = none →
    s.is FT_ROLE.RESTART (ix h o.role) = true →
    ∃ s', exec (.failoverRelease h) s = .next s' ∧ Tab.find s'.failovers h = none ∧ s'.mem = s.mem ∧
      (∀ b < 16, s.stallOf h b = 8 → ∀ k < 8, s'.is PIN_STATUS.HOLD_FAIL (ix h (8 * b + k)) = false) ∧
      ∀ t < 16, let i : TraderId := ⟨h, 8, t⟩
        (bit o.ran t = true → (s'.trader i).running = true ∧ (s'.trader i).pc = s.get FT_ROLE.RESTART_PC (ix h o.role) ∧
          (s'.trader i).ar 0 = (if s.is FT_ROLE.CKPT_EN (ix h o.role) then s.get FT_ROLE.CKPT_Q (ix h o.role) else 0xFFFF) ∧
          s'.get EV_CTRL.CUR i.ix = 0) ∧
        (bit o.ran t = false → s'.trader i = s.trader i))

/-- R121, R157, R210, R428: the debug port acts while DBG_EN is 1, a halt after a trap of the slot before takes the trap first, and
the fall of DBG_EN releases every halt and ends the test mode. -/
def Claims.DebugPort : Prop :=
  ∀ (s : State) (t : TraderId) (on : Bool),
    let d := s.dbg
    let here := s.inStall t.h t.s = true ∧ t.t < 16
    let tr := s.trader t
    (d.en = true → here → s.faults = [] →
      (tr.trap = none ∨ tr.running = false ∨ tr.halted = true → exec (.debugHalt t) s = .next (s.setTrader t { tr with halted := true })) ∧
      (∀ x, tr.trap = some x → tr.running = true → tr.halted = false → s.cur t < s.level t x.src → ∃ s', exec (.debugHalt t) s = .next s' ∧
        (s'.trader t).halted = true ∧ (s'.trader t).trap = none ∧ s'.mem = s.mem) ∧
      exec (.debugRelease t) s = .next (s.setTrader t { tr with halted := false })) ∧
    (d.en = true → exec (.testMode on) s = .next { s with dbg := { d with test := on } } ∧
      exec (.debugBreakpoints on) s = .next { s with dbg := { d with breakpoints := on } }) ∧
    (d.en = false ∨ ¬here → exec (.debugHalt t) s = .next s ∧ exec (.debugRelease t) s = .next s) ∧
    (d.en = false → exec (.testMode on) s = .next s ∧ exec (.debugBreakpoints on) s = .next s) ∧
    exec .dbgEnRise s = .next { s with dbg := { d with en := true } } ∧
    ∃ s', exec .dbgEnFall s = .next s' ∧ s'.dbg = { d with en := false, test := false } ∧ (∀ u, (s'.trader u).halted = false) ∧
      (∀ u, (s'.trader u).pc = (s.trader u).pc) ∧ { s' with traders := s.traders, dbg := d } = s

/-! ## The statements -/

/-- A step runs the command at the front of the queue; on an empty queue it lets one tick, or one LFO cycle, pass (model's choice, log 2). -/
def Obligations.StepRunsFrontCommand : Prop := Claims.StepRunsFrontCommand ∧ Claims.EmptyQueuePassesTime

/-- What power-on reset leaves. -/
def Obligations.ResetState : Prop := Claims.ResetState

/-- The reset state meets the invariant. -/
def Obligations.ResetMeetsInvariant : Prop := Claims.ResetMeetsInvariant

/-- Every step from every state that meets the invariant keeps it. -/
def Obligations.StepKeepsInvariant : Prop := Claims.StepKeepsInvariant

/-- Every command of the table answers a next state in every state. The model's choice, not the spec's: a command whose
condition does not hold answers the state unchanged (log 1), and where the spec states no value the step takes a free one (log
4). -/
def Obligations.EveryCommandAnswersNext : Prop := Claims.EveryCommandAnswersNext

/-- The byte instructions: results, flags and frame. -/
def Obligations.DataAlu : Prop := Claims.DataAluOnTwoRegisters ∧ Claims.DataAluOnOneRegister

/-- Compares, predicate operations and bit instructions. -/
def Obligations.ComparesPredicatesAndBits : Prop := Claims.ComparesPredicatesAndBits

/-- The condition of a compare is what PCND reads after the subtraction. -/
def Obligations.ConditionsAgreeWithFlags : Prop := Claims.ConditionsAgreeWithFlags

/-- The accumulator instructions: results, flags and frame. -/
def Obligations.AccumulatorInstructions : Prop := Claims.AccumulatorInstructions

/-- The address instructions and the multiplications. -/
def Obligations.AddressesAndProducts : Prop := Claims.AddressInstructions ∧ Claims.Multiplications

/-- Jumps and the start of loops. -/
def Obligations.JumpsAndLoops : Prop := Claims.JumpsAndLoops

/-- Waits begin, and end when their condition holds. -/
def Obligations.Waits : Prop := Claims.WaitsBegin ∧ Claims.WaitsEnd

/-- Bells, banks, stops, breakpoints, traps and sync points. The model's choices: STOP leaves PC after it, and BRK completes
before it halts (log 45); DRAIN spends its own slot and then waits (log 33). -/
def Obligations.SystemOperations : Prop := Claims.SystemOperations

/-- MOVS on every special register. The model's choice: PC reads x + 1 also where the loop goes back to LS (log 85). -/
def Obligations.MoveSpecialRegisters : Prop := Claims.MoveSpecialRegisters

/-- Which event a trader takes, what its entry records, and a double fault. The model's choices: E1 and E2 are one command for
each slot, and what arises between them is sampled at E2 (log 44); the cause of a source that EV_PEND_SET made pending (log 86);
a pending bit cleared by an entry in the tick of a W1S write stands (log 19). -/
def Obligations.EventEntries : Prop := Claims.EntryToALevel ∧ Claims.EventEntryTakes ∧ Claims.DoubleFault

/-- RETE restores what the record of its level holds. The model's choices: a stray RETE goes on at x + 1 (log 45); X1 and X2 are
one command for each slot, and an event of higher priority leaves the exit unmade (log 44). -/
def Obligations.ReturnFromEvent : Prop := Claims.ReturnFromEvent

/-- Products and Scale results land; budget, KICK, EV_PEND_SET and the event records. -/
def Obligations.LandingsAndEventRegisters : Prop := Claims.LandingsAndEventRegisters

/-- Effective addresses, loads from stall memory, and the first slot of an access of two slots. -/
def Obligations.LoadsAndTheirAddresses : Prop := Claims.EffectiveAddresses ∧ Claims.LoadsFromStallMemory ∧ Claims.TwoSlotAccessesBegin

/-- Stores and calls write their bytes and no other. -/
def Obligations.StoresToStallMemory : Prop := Claims.StoresToStallMemory

/-- An access that crosses a region takes ADDR_FAULT and has no other effect. -/
def Obligations.AddressFaults : Prop := Claims.AddressFaults

/-- BCPY and BFILL write the bytes of their block and no other. -/
def Obligations.BlockMoves : Prop := Claims.BlockMoves

/-- Loads and stores in the window to hall memory, and the answer to an operation access. -/
def Obligations.HallAccesses : Prop := Claims.FarLoadsAndStores ∧ Claims.AtomicAnswerArrives

/-- Load data arrive and the store buffer drains. -/
def Obligations.HallResponses : Prop := Claims.LoadDataArrives ∧ Claims.StoresDrain

/-- The fixed-point operations of Scale. The model's choices: XDIV by 0 sets DZ alone, and XCMP writes its predicate in the
issue slot (log 48). -/
def Obligations.ScaleFixedPoint : Prop := Claims.ScaleFixedPoint

/-- The binary32 operations of Scale and their special values. The model's choices: FCMP writes its predicate in the issue slot
(log 48); whether a result is subnormal is judged after rounding (logs 48, 103). -/
def Obligations.ScaleBinary32 : Prop := Claims.ScaleBinary32 ∧ Claims.Binary32SpecialValues

/-- The binary32 operations give the exact result where binary32 has it, and always complete. The model's choices: FCMP writes
its predicate in the issue slot (log 48); whether a result is subnormal is judged after rounding (logs 48, 103). -/
def Obligations.Binary32Exact : Prop := Claims.Binary32Exact

/-- Binary32 rounding is to nearest, ties to even, and INX tells an inexact result. -/
def Obligations.RoundsToNearestEven : Prop := Claims.RoundsToNearestEven

/-- An absent coprocessor takes CP_ABSENT; the operations of integrator units. -/
def Obligations.Coprocessors : Prop := Claims.ScaleAbsent ∧ Claims.CoprocessorOperations

/-- A host register write follows the access codes of the fields. The model's choices: the cycle of R9 is the tick (log 19);
what a barrow's criers still see of the write in this cycle (logs 52, 97). -/
def Obligations.HostRegisterWrite : Prop := Claims.HostRegisterWrite

/-- Registers of 64 bits and of one byte, and registers that a read clears. The model's choices: the write latches of partly
written registers (log 23); a read of RC fields is the command READ_CLEAR, with its width and what it answers (logs 28, 110);
accesses held behind one of the same port (log 132). -/
def Obligations.OtherRegisterAccesses : Prop := Claims.WideAndNarrowRegisterWrites ∧ Claims.ReadClearsCounters ∧ Claims.PortOrder

/-- Power-on, device, hall, stall and porter resets. The model's choices: registers without a reset value read 0, and every
reset but power-on keeps the Scale registers (log 5); what a device reset forgets beside the registers (log 62). -/
def Obligations.Resets : Prop := Claims.DeviceResets ∧ Claims.PartialResets

/-- The early market, and the events of the till. The model's choices: memory before it is cleared, and which accesses wait for
that (log 6); full service comes in one command (logs 11, 12, 13); the till shows the increments of its clock (log 10); what the
loss of the reference does to lanes and asleep (logs 78, 122). -/
def Obligations.EarlyMarketAndTill : Prop := Claims.EarlyMarket ∧ Claims.TillEvents

/-- The IMEM pages and the instruction cache of a stall. The model's choices: when loop buffers are discarded and taken again
(log 29); a row whose word misses starts the miss (log 46); the form of the replacement (log 100); an uncorrectable word of a
fill is event ECC of detail 4 (log 101). -/
def Obligations.ImemPagesAndCache : Prop := Claims.ImemPages ∧ Claims.InstructionCache

/-- Host writes of the window, lockstep pairs, fail-over by request and releases. The model's choices: writes to the even stall
of a pair reach both (log 73), and the LS bit of a failed stall changes while its STATE stays (log 129); which fail-over steps
are one command (log 61); the widths that a window memory accepts (log 110); HL_GRANT counts one for each 64-bit word (log 20).
-/
def Obligations.WindowWritesAndPairs : Prop := Claims.WindowWrites ∧ Claims.PairsAndReleases

/-- The update of an axis estimator, and quadrature edges. -/
def Obligations.AxisMeasurements : Prop := Claims.EstimatorUpdate ∧ Claims.QuadratureEdges

/-- Commanded, lost and preset axes and the commands of an axis. The model's choices: a write that sets SRC to 4 clears LOST and
COASTING (log 124); PRESET and CLEAR_LOST end a coast (log 81). -/
def Obligations.AxisCommands : Prop := Claims.CommandedLostAndPresetAxes ∧ Claims.AxisCommands

/-- Arming a mark and its action. The model's choices: TM fields of a mark that is not armed (log 24); a write with DISARM
stores no RW field (log 82); a DISARM after an ARM that came in the last 64 ticks withdraws nothing (log 83); hall-clock edges
fall at the multiples of the hall cycle (log 125). -/
def Obligations.Marks : Prop := Claims.ArmingAMark ∧ Claims.MarkActions

/-- Counters count, match, wrap, run on past a period, raise their events and bells, and capture. The model's choices: a new input level settles at its first sample, which is no
edge, and a capture does not need ENABLE (logs 18, 51); what a match rings or raises at an instant of a sleep waits, and is left
out here (log 51). -/
def Obligations.CountersCountAndMatch : Prop := Claims.CountersCount ∧ Claims.MatchesAndWraps ∧ Claims.CounterEvents ∧ Claims.CounterCaptures

/-- The commands of a counter. The model's choice: after a write of CT_INPUT the input settles anew at its next sample, which is
no edge (log 18). -/
def Obligations.CounterCommands : Prop := Claims.CounterCommands

/-- The crier instructions that shift, set, move and jump. -/
def Obligations.CrierShiftsAndMoves : Prop := Claims.CrierShifts ∧ Claims.CrierSetsMovesAndJumps

/-- The crier instructions on FIFOs, pace and CRC. -/
def Obligations.CrierFifosPaceAndCrc : Prop := Claims.CrierFifoInstructions ∧ Claims.CrierPaceAndCrc

/-- The waits of a crier and the ports of its FIFOs. -/
def Obligations.CrierWaitsAndPorts : Prop := Claims.CrierWaits ∧ Claims.CrierPorts

/-- The writes of a barrow. The model's choices: no crier of a barrow issues from its due swap cycle on, and a later PAGE_SEL
takes the place of an earlier page change (log 54); what a port access changes in the crier cycle in which it comes (log 52). -/
def Obligations.BarrowCommands : Prop := Claims.BarrowCommands

/-- Pin configuration and pin words. The model's choices: the level that a pad keeps is that at the end of cycle k - 1, and its
sources change nothing later (log 21); DRIVE and PULL act with the new function (log 87); PIN_OUT writes of one hall-clock edge
resolve by R9 (log 19). -/
def Obligations.PinWrites : Prop := Claims.PinConfiguration ∧ Claims.PinWords

/-- Pin samples, holds and the pin switch. The model's choices: a sample that is a pin event has no second row (log 56); PSW_MAP
is checked and applied barrow by barrow, and an entry that R221 refuses always stands refused (log 55). -/
def Obligations.PinSamplesAndSwitch : Prop := Claims.PinSamples ∧ Claims.PinSwitch

/-- Tokens are acquired, released and abandoned. -/
def Obligations.Tokens : Prop := Claims.TokenAcquisition ∧ Claims.TokenReleaseAndAbandon

/-- The producer's and the consumer's operations on a queue. -/
def Obligations.QueueEnds : Prop := Claims.QueueProducers ∧ Claims.QueueConsumers

/-- Push and pop, and the words of a queue descriptor. -/
def Obligations.QueueElements : Prop := Claims.PushAndPop ∧ Claims.QueueDescriptors

/-- Bells, and the responses on the host ports. The model's choices: the order in which requests get their tags when a response
frees one (log 43); the data of a job's fetch collect in the job (log 64). -/
def Obligations.BellsAndHostResponses : Prop := Claims.BellRings ∧ Claims.HostResponses

/-- The order rings. The model's choices: the engine fetches one order at a time, and disabling a ring forgets its fetch (log
42). -/
def Obligations.OrderRings : Prop := Claims.OrderRings

/-- The chit rings, and the masks of chits. The model's choices: one chit write is in flight on each ring (log 41), and
disabling a ring forgets it (log 42); CHIT_PEND_SET and CHIT_PEND_CLR read what software set and what waits (log 25); what
FT_UNC_ADDR shows of a lost entry (log 114). -/
def Obligations.Chits : Prop := Claims.ChitRings ∧ Claims.ChitMasks

/-- The writes of a lane, and the states it goes through. The model's choices: what LN_CTRL and LN_GROUP refuse, and when groups
form anew (log 59); LANE_UP carries JOB 0 (log 112); what the loss of the reference does to a training (log 78). -/
def Obligations.LaneControl : Prop := Claims.LaneWrites ∧ Claims.LaneStates

/-- Blocks of a link, received frames and axis-sync frames. The model's choices: an ALIGN or a LINK block leaves by its command
(log 106), the first LINK block 4,096 positions after the start of training (log 136); when axis-sync values are compared and
applied (log 58); received blocks come decoded (log 115); a stamp is the exact instant (log 108). -/
def Obligations.LinkTraffic : Prop := Claims.LinkBlocks ∧ Claims.ReceivedFrames ∧ Claims.AxisSync

/-- A microword's phases, micro-traps and the writes of a porter. The model's choices: a stall is checked before traps, and
which sources each phase reads (log 60); porter cycles begin at the multiples of 20 ticks (log 116); a push or a POP that fails
takes QERR (log 91); MRES keeps its value (log 93). -/
def Obligations.PorterThreads : Prop := Claims.Microwords ∧ Claims.PorterControl

/-- Cart channels: commands, descriptors and bursts. The model's choices: when a channel is IDLE, how a queue feeds bursts, and
what BARRIER and the credit count (log 63); when the end of a channel is reported (log 111); what CART_HALT discards (log 119);
two starts of one hall cycle (log 120); the CRC of a descriptor that did not end (log 127). -/
def Obligations.Carts : Prop := Claims.CartCommands ∧ Claims.CartDescriptors ∧ Claims.CartBursts

/-- Image loads, swaps, and a wind-down that takes too long. The model's choices: the requests and suspend points of a load, and
the reason of each refusal (log 64), and which sections step 1 reads (log 138); what is the commit of a swap, and when its job
is DONE (log 65); which shadows a swap copies (log 88); the number under which the ramp goes on after a time-out (log 66); a
page change and a swap (log 54). -/
def Obligations.ImagesAndSwaps : Prop := Claims.ImageLoads ∧ Claims.SwapsAndWindDownTimeout

/-- Power sequences, and the jobs of power and wind-down. The model's choices: when a POWER job may run and when it is DONE,
what stops for want of the reference, and what the tile does asleep (log 67); hall-clock edges fall at the multiples of the hall
cycle (log 113); when the drive of an acknowledge ends (log 133). -/
def Obligations.PowerStates : Prop := Claims.PowerSequencing ∧ Claims.PowerAndWindJobs

/-- Orders make jobs that wait or start, and orders that act at once. The model's choices: an order row runs the checks and the
acceptance without moving HEAD, nothing is taken in sleep, and how TRAIN_LANE ends that cannot train (log 68). -/
def Obligations.Orders : Prop := Claims.JobOrdersWait ∧ Claims.JobsStart ∧ Claims.ImmediateOrders

/-- The steps of CLEAR, LOAD_MICROCODE and CALIBRATE_AXIS. The model's choices: the rounding of the mean, and the record without
a measurement, are free (log 69); frames that the quiesce cuts (log 70); a job's fetches (log 64). -/
def Obligations.JobSteps : Prop := Claims.JobSteps

/-- Scrub, parity, fail-over and the debug port. The model's choices: CFG_PARITY names a bit and acts by its field (log 72);
which fail-over steps are one command, and causes of one edge (log 61); the two stalls of a pair (log 73); the debug port acts
by the rows of the table (log 142). -/
def Obligations.FaultsAndDebug : Prop := Claims.ScrubAndParity ∧ Claims.FailOver ∧ Claims.DebugPort
end

