-- ==== Sys2Proof/Laws/Memory.lean ====
section
/-! SUPPORT. The laws of tables and of the byte memory: what a read gives after a write, and that every operation keeps the
canonical form. -/

namespace Sys2Proof.Machine

section Tables

variable {κ α : Type} [DecidableEq κ]

theorem Tab.find_del_self (t : Tab κ α) (k : κ) : Tab.find (Tab.del t k) k = none := by
  induction t with
  | nil => rfl
  | cons e t ih =>
    obtain ⟨a, v⟩ := e
    simp only [Tab.del, List.filter_cons] at *
    by_cases h : a = k <;> simp_all [Tab.find]

theorem Tab.find_del_ne (t : Tab κ α) {k k' : κ} (hk : k' ≠ k) : Tab.find (Tab.del t k) k' = Tab.find t k' := by
  induction t with
  | nil => rfl
  | cons e t ih =>
    obtain ⟨a, v⟩ := e
    simp only [Tab.del, List.filter_cons] at *
    by_cases h : a = k
    · subst h
      simp [Tab.find, ih, Ne.symm hk]
    · by_cases h' : a = k' <;> simp_all [Tab.find]

@[simp] theorem Tab.find_set_self (t : Tab κ α) (k : κ) (v : α) : Tab.find (Tab.set t k v) k = some v := by
  simp [Tab.set, Tab.find]

theorem Tab.find_set_ne (t : Tab κ α) {k k' : κ} (v : α) (hk : k' ≠ k) :
    Tab.find (Tab.set t k v) k' = Tab.find t k' := by
  simp [Tab.set, Tab.find, Ne.symm hk, Tab.find_del_ne t hk]

@[simp] theorem Tab.get_set_self (t : Tab κ α) (k : κ) (v d : α) : Tab.get (Tab.set t k v) k d = v := by
  simp [Tab.get]

theorem Tab.get_set_ne (t : Tab κ α) {k k' : κ} (v d : α) (hk : k' ≠ k) :
    Tab.get (Tab.set t k v) k' d = Tab.get t k' d := by
  simp [Tab.get, Tab.find_set_ne t v hk]

theorem Tab.find_delIf (t : Tab κ α) (p : κ → Bool) (k : κ) :
    Tab.find (Tab.delIf t p) k = if p k then none else Tab.find t k := by
  induction t with
  | nil => simp [Tab.delIf, Tab.find]
  | cons e t ih =>
    obtain ⟨a, v⟩ := e
    simp only [Tab.delIf, List.filter_cons] at *
    by_cases h : a = k
    · subst h
      by_cases hp : p a <;> simp_all [Tab.find]
    · by_cases hp : p a <;> simp_all [Tab.find]

/-- The keys of a table after an entry is set: the key in front, and the others. -/
theorem Tab.keys_set_nodup {t : Tab κ α} (k : κ) (v : α) (h : (Tab.keys t).Nodup) : (Tab.keys (Tab.set t k v)).Nodup := by
  have hsub : (Tab.keys (Tab.del t k)).Sublist (Tab.keys t) := (List.filter_sublist).map _
  simp only [Tab.keys, Tab.set, List.map_cons, List.nodup_cons]
  refine ⟨?_, hsub.nodup h⟩
  simp [Tab.del]

omit [DecidableEq κ] in
theorem Tab.keys_delIf_nodup {t : Tab κ α} (p : κ → Bool) (h : (Tab.keys t).Nodup) : (Tab.keys (Tab.delIf t p)).Nodup :=
  ((List.filter_sublist).map _).nodup h

end Tables

/-! ## Memory -/

theorem Memory.wfFrom_mono {m : Memory} : ∀ {lo lo' : Nat}, lo' ≤ lo → Memory.wfFrom lo m = true → Memory.wfFrom lo' m = true := by
  cases m with
  | nil => intros; rfl
  | cons c m =>
    intro lo lo' hl h
    simp only [Memory.wfFrom, Bool.and_eq_true, decide_eq_true_eq] at *
    exact ⟨⟨by omega, h.1.2⟩, h.2⟩

theorem Memory.wfFrom_consCell {m : Memory} {lo a : Nat} (b : Byte) (hl : lo ≤ a) (h : Memory.wfFrom (a + 1) m = true) :
    Memory.wfFrom lo (Memory.consCell a b m) = true := by
  unfold Memory.consCell
  split
  · exact Memory.wfFrom_mono (by omega) h
  · simp_all [Memory.wfFrom]

theorem Memory.wfFrom_write : ∀ {m : Memory} {lo a : Nat} (b : Byte), lo ≤ a → Memory.wfFrom lo m = true →
    Memory.wfFrom lo (Memory.write m a b) = true
  | [], lo, a, b, hl, _ => Memory.wfFrom_consCell b hl rfl
  | (a', b') :: m, lo, a, b, hl, h => by
    simp only [Memory.wfFrom, Bool.and_eq_true, decide_eq_true_eq] at h
    simp only [Memory.write]
    split
    · exact Memory.wfFrom_consCell b hl (by simp [Memory.wfFrom, h.1.2, h.2]; omega)
    · split
      · rename_i _ e
        subst e
        exact Memory.wfFrom_consCell b hl h.2
      · simp only [Memory.wfFrom, Bool.and_eq_true, decide_eq_true_eq]
        exact ⟨h.1, Memory.wfFrom_write b (by omega) h.2⟩

/-- A write of one byte keeps the canonical form. -/
theorem Memory.wf_write {m : Memory} (a : Nat) (b : Byte) (h : m.wf = true) : (Memory.write m a b).wf = true :=
  Memory.wfFrom_write b (Nat.zero_le a) h

/-- A write of several bytes keeps the canonical form. -/
theorem Memory.wf_writeBytes : ∀ (bs : List Byte) {m : Memory} (a : Nat), m.wf = true → (Memory.writeBytes m a bs).wf = true
  | [], _, _, h => h
  | b :: bs, _, a, h => Memory.wf_writeBytes bs (a + 1) (Memory.wf_write a b h)

theorem Memory.wfFrom_filter : ∀ {m : Memory} {lo : Nat} (p : Host.Cell → Bool), Memory.wfFrom lo m = true →
    Memory.wfFrom lo (m.filter p) = true
  | [], _, _, _ => rfl
  | (a, b) :: m, lo, p, h => by
    simp only [Memory.wfFrom, Bool.and_eq_true, decide_eq_true_eq] at h
    have ih := Memory.wfFrom_filter p h.2
    by_cases hp : p (a, b)
    · simp [hp, Memory.wfFrom, h.1.1, h.1.2, ih]
    · simp only [List.filter_cons, hp]
      exact Memory.wfFrom_mono (by omega) ih

/-- Clearing a range keeps the canonical form. -/
theorem Memory.wf_clear {m : Memory} (a n : Nat) (h : m.wf = true) : (Memory.clear m a n).wf = true :=
  Memory.wfFrom_filter _ h

/-- Below the first address of a memory every byte reads as an unlisted one. -/
theorem Memory.read_below : ∀ {m : Memory} {lo a : Nat}, Memory.wfFrom lo m = true → a < lo → Memory.read m a = Memory.unlisted
  | [], _, _, _, _ => rfl
  | (a', b') :: m, lo, a, h, ha => by
    simp only [Memory.wfFrom, Bool.and_eq_true, decide_eq_true_eq] at h
    have h1 : a' ≠ a := by omega
    have h2 : a < a' := by omega
    simp [Memory.read, h1, h2]

theorem Memory.read_consCell_self {m : Memory} {a : Nat} (b : Byte) (h : Memory.wfFrom (a + 1) m = true) :
    Memory.read (Memory.consCell a b m) a = b := by
  unfold Memory.consCell
  split
  · rename_i e
    rw [Memory.read_below h (by omega), e]
  · simp [Memory.read]

theorem Memory.read_consCell_ne {m : Memory} {a x : Nat} (b : Byte) (h : Memory.wfFrom (a + 1) m = true) (hx : x ≠ a) :
    Memory.read (Memory.consCell a b m) x = Memory.read m x := by
  unfold Memory.consCell
  split
  · rfl
  · by_cases hlt : x < a
    · simp [Memory.read, Ne.symm hx, hlt, Memory.read_below h (by omega : x < a + 1)]
    · simp [Memory.read, Ne.symm hx, hlt]

theorem Memory.read_write_from : ∀ {m : Memory} {lo : Nat} (a x : Nat) (b : Byte), Memory.wfFrom lo m = true → lo ≤ a →
    Memory.read (Memory.write m a b) x = if x = a then b else Memory.read m x
  | [], lo, a, x, b, _, _ => by
    simp only [Memory.write]
    split
    · subst x
      exact Memory.read_consCell_self b rfl
    · exact Memory.read_consCell_ne b rfl ‹_›
  | (a', b') :: m, lo, a, x, b, h, hl => by
    have h0 := h
    simp only [Memory.wfFrom, Bool.and_eq_true, decide_eq_true_eq] at h
    have hm : a < a' → Memory.wfFrom (a + 1) ((a', b') :: m) = true := fun hlt => by
      simp [Memory.wfFrom, h.1.2, h.2]; omega
    simp only [Memory.write]
    split
    · rename_i hlt
      split
      · subst x
        exact Memory.read_consCell_self b (hm hlt)
      · exact Memory.read_consCell_ne b (hm hlt) ‹_›
    · split
      · rename_i hlt e
        subst e
        split
        · subst x
          exact Memory.read_consCell_self b h.2
        · rename_i hx
          rw [Memory.read_consCell_ne b h.2 hx]
          by_cases hxa : x < a
          · simp [Memory.read, Ne.symm hx, hxa, Memory.read_below h.2 (by omega : x < a + 1)]
          · simp [Memory.read, Ne.symm hx, hxa]
      · rename_i hlt hne
        have ih := Memory.read_write_from a x b h.2 (by omega)
        simp only [Memory.read]
        by_cases hx : a' = x
        · subst hx
          simp [Ne.symm hne]
        · by_cases hxa : x < a'
          · have : x ≠ a := by omega
            simp [hx, hxa, this]
          · simp [hx, hxa, ih]

/-- What a byte reads as after one byte is written. -/
theorem Memory.read_write {m : Memory} (a x : Nat) (b : Byte) (h : m.wf = true) :
    Memory.read (Memory.write m a b) x = if x = a then b else Memory.read m x :=
  Memory.read_write_from a x b h (Nat.zero_le a)

/-- Outside the bytes written, a byte reads as before. -/
theorem Memory.read_writeBytes_outside : ∀ (bs : List Byte) {m : Memory} (a x : Nat), m.wf = true →
    (x < a ∨ a + bs.length ≤ x) → Memory.read (Memory.writeBytes m a bs) x = Memory.read m x
  | [], _, _, _, _, _ => rfl
  | b :: bs, m, a, x, h, hx => by
    simp only [List.length_cons] at hx
    simp only [Memory.writeBytes]
    rw [Memory.read_writeBytes_outside bs (a + 1) x (Memory.wf_write a b h) (by omega), Memory.read_write a x b h]
    have : x ≠ a := by omega
    simp [this]

/-- Inside the bytes written, a byte reads as the one written there. -/
theorem Memory.read_writeBytes_inside : ∀ (bs : List Byte) {m : Memory} (a i : Nat) (hi : i < bs.length), m.wf = true →
    Memory.read (Memory.writeBytes m a bs) (a + i) = bs[i]
  | b :: bs, m, a, 0, _, h => by
    simp only [Memory.writeBytes, Nat.add_zero, List.getElem_cons_zero]
    rw [Memory.read_writeBytes_outside bs (a + 1) a (Memory.wf_write a b h) (by omega), Memory.read_write a a b h]
    simp
  | b :: bs, m, a, i + 1, hi, h => by
    simp only [Memory.writeBytes, List.getElem_cons_succ]
    rw [show a + (i + 1) = a + 1 + i by omega]
    exact Memory.read_writeBytes_inside bs (a + 1) i (by simpa using hi) (Memory.wf_write a b h)

theorem Memory.read_filter_from : ∀ {m : Memory} {lo : Nat} (p : Nat → Bool) (x : Nat), Memory.wfFrom lo m = true →
    Memory.read (m.filter (fun c => p c.1)) x = if p x then Memory.read m x else Memory.unlisted
  | [], _, p, x, _ => by simp [Memory.read]
  | (a, b) :: m, lo, p, x, h => by
    simp only [Memory.wfFrom, Bool.and_eq_true, decide_eq_true_eq] at h
    have ih := Memory.read_filter_from p x h.2
    by_cases hx : a = x
    · subst hx
      by_cases hp : p a
      · simp [hp, Memory.read]
      · simp [hp, ih]
    · by_cases hp : p a
      · by_cases hlt : x < a
        · simp [hp, Memory.read, hx, hlt]
        · simp [hp, Memory.read, hx, hlt, ih]
      · by_cases hlt : x < a
        · simp [hp, Memory.read, hx, hlt, ih, Memory.read_below h.2 (by omega : x < a + 1)]
        · simp [hp, Memory.read, hx, hlt, ih]

/-- What a byte reads as after a range is cleared. -/
theorem Memory.read_clear {m : Memory} (a n x : Nat) (h : m.wf = true) :
    Memory.read (Memory.clear m a n) x = if a ≤ x ∧ x < a + n then Memory.unlisted else Memory.read m x := by
  unfold Memory.clear
  rw [Memory.read_filter_from (fun k => !(decide (a ≤ k) && decide (k < a + n))) x h]
  by_cases h1 : a ≤ x <;> by_cases h2 : x < a + n <;> simp [h1, h2]

end Sys2Proof.Machine
end

