-- ==== Sys2Proof/Laws/State.lean ====
section
/-! SUPPORT. What each update of the state leaves as it was, field by field and through the named reads, and what a register,
a field of a register or a unit reads as after it is set. -/

namespace Sys2Proof.Machine

variable (s : State)

/-! ### `State.wr` -/

@[simp] theorem State.wr_part (r : Reg) (v : Nat) : (s.wr r v).part = s.part := rfl
@[simp] theorem State.wr_tick (r : Reg) (v : Nat) : (s.wr r v).tick = s.tick := rfl
@[simp] theorem State.wr_till (r : Reg) (v : Nat) : (s.wr r v).till = s.till := rfl
@[simp] theorem State.wr_hwSet (r : Reg) (v : Nat) : (s.wr r v).hwSet = s.hwSet := rfl
@[simp] theorem State.wr_swSet (r : Reg) (v : Nat) : (s.wr r v).swSet = s.swSet := rfl
@[simp] theorem State.wr_mem (r : Reg) (v : Nat) : (s.wr r v).mem = s.mem := rfl
@[simp] theorem State.wr_ecc (r : Reg) (v : Nat) : (s.wr r v).ecc = s.ecc := rfl
@[simp] theorem State.wr_axes (r : Reg) (v : Nat) : (s.wr r v).axes = s.axes := rfl
@[simp] theorem State.wr_marks (r : Reg) (v : Nat) : (s.wr r v).marks = s.marks := rfl
@[simp] theorem State.wr_counters (r : Reg) (v : Nat) : (s.wr r v).counters = s.counters := rfl
@[simp] theorem State.wr_pins (r : Reg) (v : Nat) : (s.wr r v).pins = s.pins := rfl
@[simp] theorem State.wr_criers (r : Reg) (v : Nat) : (s.wr r v).criers = s.criers := rfl
@[simp] theorem State.wr_crWas (r : Reg) (v : Nat) : (s.wr r v).crWas = s.crWas := rfl
@[simp] theorem State.wr_crDid (r : Reg) (v : Nat) : (s.wr r v).crDid = s.crDid := rfl
@[simp] theorem State.wr_barrows (r : Reg) (v : Nat) : (s.wr r v).barrows = s.barrows := rfl
@[simp] theorem State.wr_lanes (r : Reg) (v : Nat) : (s.wr r v).lanes = s.lanes := rfl
@[simp] theorem State.wr_threads (r : Reg) (v : Nat) : (s.wr r v).threads = s.threads := rfl
@[simp] theorem State.wr_chans (r : Reg) (v : Nat) : (s.wr r v).chans = s.chans := rfl
@[simp] theorem State.wr_slots (r : Reg) (v : Nat) : (s.wr r v).slots = s.slots := rfl
@[simp] theorem State.wr_cartTurn (r : Reg) (v : Nat) : (s.wr r v).cartTurn = s.cartTurn := rfl
@[simp] theorem State.wr_calibs (r : Reg) (v : Nat) : (s.wr r v).calibs = s.calibs := rfl
@[simp] theorem State.wr_wind (r : Reg) (v : Nat) : (s.wr r v).wind = s.wind := rfl
@[simp] theorem State.wr_traders (r : Reg) (v : Nat) : (s.wr r v).traders = s.traders := rfl
@[simp] theorem State.wr_stalls (r : Reg) (v : Nat) : (s.wr r v).stalls = s.stalls := rfl
@[simp] theorem State.wr_stallSlot (r : Reg) (v : Nat) : (s.wr r v).stallSlot = s.stallSlot := rfl
@[simp] theorem State.wr_deliveries (r : Reg) (v : Nat) : (s.wr r v).deliveries = s.deliveries := rfl
@[simp] theorem State.wr_edgeActs (r : Reg) (v : Nat) : (s.wr r v).edgeActs = s.edgeActs := rfl
@[simp] theorem State.wr_tokens (r : Reg) (v : Nat) : (s.wr r v).tokens = s.tokens := rfl
@[simp] theorem State.wr_hostPops (r : Reg) (v : Nat) : (s.wr r v).hostPops = s.hostPops := rfl
@[simp] theorem State.wr_deferred (r : Reg) (v : Nat) : (s.wr r v).deferred = s.deferred := rfl
@[simp] theorem State.wr_chits (r : Reg) (v : Nat) : (s.wr r v).chits = s.chits := rfl
@[simp] theorem State.wr_reqs (r : Reg) (v : Nat) : (s.wr r v).reqs = s.reqs := rfl
@[simp] theorem State.wr_arrived (r : Reg) (v : Nat) : (s.wr r v).arrived = s.arrived := rfl
@[simp] theorem State.wr_nextReq (r : Reg) (v : Nat) : (s.wr r v).nextReq = s.nextReq := rfl
@[simp] theorem State.wr_pathArb (r : Reg) (v : Nat) : (s.wr r v).pathArb = s.pathArb := rfl
@[simp] theorem State.wr_portArb (r : Reg) (v : Nat) : (s.wr r v).portArb = s.portArb := rfl
@[simp] theorem State.wr_atomArb (r : Reg) (v : Nat) : (s.wr r v).atomArb = s.atomArb := rfl
@[simp] theorem State.wr_agentWait (r : Reg) (v : Nat) : (s.wr r v).agentWait = s.agentWait := rfl
@[simp] theorem State.wr_orderTurn (r : Reg) (v : Nat) : (s.wr r v).orderTurn = s.orderTurn := rfl
@[simp] theorem State.wr_jobs (r : Reg) (v : Nat) : (s.wr r v).jobs = s.jobs := rfl
@[simp] theorem State.wr_jobSeq (r : Reg) (v : Nat) : (s.wr r v).jobSeq = s.jobSeq := rfl
@[simp] theorem State.wr_images (r : Reg) (v : Nat) : (s.wr r v).images = s.images := rfl
@[simp] theorem State.wr_swaps (r : Reg) (v : Nat) : (s.wr r v).swaps = s.swaps := rfl
@[simp] theorem State.wr_failovers (r : Reg) (v : Nat) : (s.wr r v).failovers = s.failovers := rfl
@[simp] theorem State.wr_held (r : Reg) (v : Nat) : (s.wr r v).held = s.held := rfl
@[simp] theorem State.wr_windDefault (r : Reg) (v : Nat) : (s.wr r v).windDefault = s.windDefault := rfl
@[simp] theorem State.wr_patches (r : Reg) (v : Nat) : (s.wr r v).patches = s.patches := rfl
@[simp] theorem State.wr_power (r : Reg) (v : Nat) : (s.wr r v).power = s.power := rfl
@[simp] theorem State.wr_dbg (r : Reg) (v : Nat) : (s.wr r v).dbg = s.dbg := rfl
@[simp] theorem State.wr_faults (r : Reg) (v : Nat) : (s.wr r v).faults = s.faults := rfl
@[simp] theorem State.wr_corrTold (r : Reg) (v : Nat) : (s.wr r v).corrTold = s.corrTold := rfl
@[simp] theorem State.wr_ports (r : Reg) (v : Nat) : (s.wr r v).ports = s.ports := rfl
@[simp] theorem State.wr_readOut (r : Reg) (v : Nat) : (s.wr r v).readOut = s.readOut := rfl
@[simp] theorem State.wr_readData (r : Reg) (v : Nat) : (s.wr r v).readData = s.readData := rfl
@[simp] theorem State.wr_readErr (r : Reg) (v : Nat) : (s.wr r v).readErr = s.readErr := rfl
@[simp] theorem State.wr_freeIx (r : Reg) (v : Nat) : (s.wr r v).freeIx = s.freeIx := rfl
@[simp] theorem State.wr_pending (r : Reg) (v : Nat) : (s.wr r v).pending = s.pending := rfl
@[simp] theorem State.wr_axis (r : Reg) (v : Nat) (n' : Nat) : (s.wr r v).axis n' = s.axis n' := rfl
@[simp] theorem State.wr_mark (r : Reg) (v : Nat) (h' m' : Nat) : (s.wr r v).mark h' m' = s.mark h' m' := rfl
@[simp] theorem State.wr_counter (r : Reg) (v : Nat) (h' c' : Nat) : (s.wr r v).counter h' c' = s.counter h' c' := rfl
@[simp] theorem State.wr_pin (r : Reg) (v : Nat) (h' i' : Nat) : (s.wr r v).pin h' i' = s.pin h' i' := rfl
@[simp] theorem State.wr_trader (r : Reg) (v : Nat) (t' : TraderId) : (s.wr r v).trader t' = s.trader t' := rfl
@[simp] theorem State.wr_stall (r : Reg) (v : Nat) (h' n' : Nat) : (s.wr r v).stall h' n' = s.stall h' n' := rfl
@[simp] theorem State.wr_crier (r : Reg) (v : Nat) (c' : CrierId) : (s.wr r v).crier c' = s.crier c' := rfl
@[simp] theorem State.wr_barrow (r : Reg) (v : Nat) (h' b' : Nat) : (s.wr r v).barrow h' b' = s.barrow h' b' := rfl
@[simp] theorem State.wr_lane (r : Reg) (v : Nat) (h' k' : Nat) : (s.wr r v).lane h' k' = s.lane h' k' := rfl
@[simp] theorem State.wr_thread (r : Reg) (v : Nat) (h' k' th' : Nat) : (s.wr r v).thread h' k' th' = s.thread h' k' th' := rfl
@[simp] theorem State.wr_byte (r : Reg) (v : Nat) (arr : Arr) (x : Nat) : (s.wr r v).byte arr x = s.byte arr x := rfl
@[simp] theorem State.wr_bytesAt (r : Reg) (v : Nat) (arr : Arr) (x n' : Nat) : (s.wr r v).bytesAt arr x n' = s.bytesAt arr x n' := rfl
@[simp] theorem State.wr_natAt (r : Reg) (v : Nat) (arr : Arr) (x n' : Nat) : (s.wr r v).natAt arr x n' = s.natAt arr x n' := rfl
@[simp] theorem State.wr_job (r : Reg) (v : Nat) (n' : Nat) : (s.wr r v).job n' = s.job n' := rfl

/-! ### `State.put` -/

@[simp] theorem State.put_part (f : Field) (i : Ix) (v : Nat) : (s.put f i v).part = s.part := rfl
@[simp] theorem State.put_tick (f : Field) (i : Ix) (v : Nat) : (s.put f i v).tick = s.tick := rfl
@[simp] theorem State.put_till (f : Field) (i : Ix) (v : Nat) : (s.put f i v).till = s.till := rfl
@[simp] theorem State.put_hwSet (f : Field) (i : Ix) (v : Nat) : (s.put f i v).hwSet = s.hwSet := rfl
@[simp] theorem State.put_swSet (f : Field) (i : Ix) (v : Nat) : (s.put f i v).swSet = s.swSet := rfl
@[simp] theorem State.put_mem (f : Field) (i : Ix) (v : Nat) : (s.put f i v).mem = s.mem := rfl
@[simp] theorem State.put_ecc (f : Field) (i : Ix) (v : Nat) : (s.put f i v).ecc = s.ecc := rfl
@[simp] theorem State.put_axes (f : Field) (i : Ix) (v : Nat) : (s.put f i v).axes = s.axes := rfl
@[simp] theorem State.put_marks (f : Field) (i : Ix) (v : Nat) : (s.put f i v).marks = s.marks := rfl
@[simp] theorem State.put_counters (f : Field) (i : Ix) (v : Nat) : (s.put f i v).counters = s.counters := rfl
@[simp] theorem State.put_pins (f : Field) (i : Ix) (v : Nat) : (s.put f i v).pins = s.pins := rfl
@[simp] theorem State.put_criers (f : Field) (i : Ix) (v : Nat) : (s.put f i v).criers = s.criers := rfl
@[simp] theorem State.put_crWas (f : Field) (i : Ix) (v : Nat) : (s.put f i v).crWas = s.crWas := rfl
@[simp] theorem State.put_crDid (f : Field) (i : Ix) (v : Nat) : (s.put f i v).crDid = s.crDid := rfl
@[simp] theorem State.put_barrows (f : Field) (i : Ix) (v : Nat) : (s.put f i v).barrows = s.barrows := rfl
@[simp] theorem State.put_lanes (f : Field) (i : Ix) (v : Nat) : (s.put f i v).lanes = s.lanes := rfl
@[simp] theorem State.put_threads (f : Field) (i : Ix) (v : Nat) : (s.put f i v).threads = s.threads := rfl
@[simp] theorem State.put_chans (f : Field) (i : Ix) (v : Nat) : (s.put f i v).chans = s.chans := rfl
@[simp] theorem State.put_slots (f : Field) (i : Ix) (v : Nat) : (s.put f i v).slots = s.slots := rfl
@[simp] theorem State.put_cartTurn (f : Field) (i : Ix) (v : Nat) : (s.put f i v).cartTurn = s.cartTurn := rfl
@[simp] theorem State.put_calibs (f : Field) (i : Ix) (v : Nat) : (s.put f i v).calibs = s.calibs := rfl
@[simp] theorem State.put_wind (f : Field) (i : Ix) (v : Nat) : (s.put f i v).wind = s.wind := rfl
@[simp] theorem State.put_traders (f : Field) (i : Ix) (v : Nat) : (s.put f i v).traders = s.traders := rfl
@[simp] theorem State.put_stalls (f : Field) (i : Ix) (v : Nat) : (s.put f i v).stalls = s.stalls := rfl
@[simp] theorem State.put_stallSlot (f : Field) (i : Ix) (v : Nat) : (s.put f i v).stallSlot = s.stallSlot := rfl
@[simp] theorem State.put_deliveries (f : Field) (i : Ix) (v : Nat) : (s.put f i v).deliveries = s.deliveries := rfl
@[simp] theorem State.put_edgeActs (f : Field) (i : Ix) (v : Nat) : (s.put f i v).edgeActs = s.edgeActs := rfl
@[simp] theorem State.put_tokens (f : Field) (i : Ix) (v : Nat) : (s.put f i v).tokens = s.tokens := rfl
@[simp] theorem State.put_hostPops (f : Field) (i : Ix) (v : Nat) : (s.put f i v).hostPops = s.hostPops := rfl
@[simp] theorem State.put_deferred (f : Field) (i : Ix) (v : Nat) : (s.put f i v).deferred = s.deferred := rfl
@[simp] theorem State.put_chits (f : Field) (i : Ix) (v : Nat) : (s.put f i v).chits = s.chits := rfl
@[simp] theorem State.put_reqs (f : Field) (i : Ix) (v : Nat) : (s.put f i v).reqs = s.reqs := rfl
@[simp] theorem State.put_arrived (f : Field) (i : Ix) (v : Nat) : (s.put f i v).arrived = s.arrived := rfl
@[simp] theorem State.put_nextReq (f : Field) (i : Ix) (v : Nat) : (s.put f i v).nextReq = s.nextReq := rfl
@[simp] theorem State.put_pathArb (f : Field) (i : Ix) (v : Nat) : (s.put f i v).pathArb = s.pathArb := rfl
@[simp] theorem State.put_portArb (f : Field) (i : Ix) (v : Nat) : (s.put f i v).portArb = s.portArb := rfl
@[simp] theorem State.put_atomArb (f : Field) (i : Ix) (v : Nat) : (s.put f i v).atomArb = s.atomArb := rfl
@[simp] theorem State.put_agentWait (f : Field) (i : Ix) (v : Nat) : (s.put f i v).agentWait = s.agentWait := rfl
@[simp] theorem State.put_orderTurn (f : Field) (i : Ix) (v : Nat) : (s.put f i v).orderTurn = s.orderTurn := rfl
@[simp] theorem State.put_jobs (f : Field) (i : Ix) (v : Nat) : (s.put f i v).jobs = s.jobs := rfl
@[simp] theorem State.put_jobSeq (f : Field) (i : Ix) (v : Nat) : (s.put f i v).jobSeq = s.jobSeq := rfl
@[simp] theorem State.put_images (f : Field) (i : Ix) (v : Nat) : (s.put f i v).images = s.images := rfl
@[simp] theorem State.put_swaps (f : Field) (i : Ix) (v : Nat) : (s.put f i v).swaps = s.swaps := rfl
@[simp] theorem State.put_failovers (f : Field) (i : Ix) (v : Nat) : (s.put f i v).failovers = s.failovers := rfl
@[simp] theorem State.put_held (f : Field) (i : Ix) (v : Nat) : (s.put f i v).held = s.held := rfl
@[simp] theorem State.put_windDefault (f : Field) (i : Ix) (v : Nat) : (s.put f i v).windDefault = s.windDefault := rfl
@[simp] theorem State.put_patches (f : Field) (i : Ix) (v : Nat) : (s.put f i v).patches = s.patches := rfl
@[simp] theorem State.put_power (f : Field) (i : Ix) (v : Nat) : (s.put f i v).power = s.power := rfl
@[simp] theorem State.put_dbg (f : Field) (i : Ix) (v : Nat) : (s.put f i v).dbg = s.dbg := rfl
@[simp] theorem State.put_faults (f : Field) (i : Ix) (v : Nat) : (s.put f i v).faults = s.faults := rfl
@[simp] theorem State.put_corrTold (f : Field) (i : Ix) (v : Nat) : (s.put f i v).corrTold = s.corrTold := rfl
@[simp] theorem State.put_ports (f : Field) (i : Ix) (v : Nat) : (s.put f i v).ports = s.ports := rfl
@[simp] theorem State.put_readOut (f : Field) (i : Ix) (v : Nat) : (s.put f i v).readOut = s.readOut := rfl
@[simp] theorem State.put_readData (f : Field) (i : Ix) (v : Nat) : (s.put f i v).readData = s.readData := rfl
@[simp] theorem State.put_readErr (f : Field) (i : Ix) (v : Nat) : (s.put f i v).readErr = s.readErr := rfl
@[simp] theorem State.put_freeIx (f : Field) (i : Ix) (v : Nat) : (s.put f i v).freeIx = s.freeIx := rfl
@[simp] theorem State.put_pending (f : Field) (i : Ix) (v : Nat) : (s.put f i v).pending = s.pending := rfl
@[simp] theorem State.put_axis (f : Field) (i : Ix) (v : Nat) (n' : Nat) : (s.put f i v).axis n' = s.axis n' := rfl
@[simp] theorem State.put_mark (f : Field) (i : Ix) (v : Nat) (h' m' : Nat) : (s.put f i v).mark h' m' = s.mark h' m' := rfl
@[simp] theorem State.put_counter (f : Field) (i : Ix) (v : Nat) (h' c' : Nat) : (s.put f i v).counter h' c' = s.counter h' c' := rfl
@[simp] theorem State.put_pin (f : Field) (i : Ix) (v : Nat) (h' i' : Nat) : (s.put f i v).pin h' i' = s.pin h' i' := rfl
@[simp] theorem State.put_trader (f : Field) (i : Ix) (v : Nat) (t' : TraderId) : (s.put f i v).trader t' = s.trader t' := rfl
@[simp] theorem State.put_stall (f : Field) (i : Ix) (v : Nat) (h' n' : Nat) : (s.put f i v).stall h' n' = s.stall h' n' := rfl
@[simp] theorem State.put_crier (f : Field) (i : Ix) (v : Nat) (c' : CrierId) : (s.put f i v).crier c' = s.crier c' := rfl
@[simp] theorem State.put_barrow (f : Field) (i : Ix) (v : Nat) (h' b' : Nat) : (s.put f i v).barrow h' b' = s.barrow h' b' := rfl
@[simp] theorem State.put_lane (f : Field) (i : Ix) (v : Nat) (h' k' : Nat) : (s.put f i v).lane h' k' = s.lane h' k' := rfl
@[simp] theorem State.put_thread (f : Field) (i : Ix) (v : Nat) (h' k' th' : Nat) : (s.put f i v).thread h' k' th' = s.thread h' k' th' := rfl
@[simp] theorem State.put_byte (f : Field) (i : Ix) (v : Nat) (arr : Arr) (x : Nat) : (s.put f i v).byte arr x = s.byte arr x := rfl
@[simp] theorem State.put_bytesAt (f : Field) (i : Ix) (v : Nat) (arr : Arr) (x n' : Nat) : (s.put f i v).bytesAt arr x n' = s.bytesAt arr x n' := rfl
@[simp] theorem State.put_natAt (f : Field) (i : Ix) (v : Nat) (arr : Arr) (x n' : Nat) : (s.put f i v).natAt arr x n' = s.natAt arr x n' := rfl
@[simp] theorem State.put_job (f : Field) (i : Ix) (v : Nat) (n' : Nat) : (s.put f i v).job n' = s.job n' := rfl

/-! ### `State.noteHw` -/

@[simp] theorem State.noteHw_part (f : Field) (i : Ix) (m : Nat) : (s.noteHw f i m).part = s.part := rfl
@[simp] theorem State.noteHw_tick (f : Field) (i : Ix) (m : Nat) : (s.noteHw f i m).tick = s.tick := rfl
@[simp] theorem State.noteHw_till (f : Field) (i : Ix) (m : Nat) : (s.noteHw f i m).till = s.till := rfl
@[simp] theorem State.noteHw_regs (f : Field) (i : Ix) (m : Nat) : (s.noteHw f i m).regs = s.regs := rfl
@[simp] theorem State.noteHw_swSet (f : Field) (i : Ix) (m : Nat) : (s.noteHw f i m).swSet = s.swSet := rfl
@[simp] theorem State.noteHw_mem (f : Field) (i : Ix) (m : Nat) : (s.noteHw f i m).mem = s.mem := rfl
@[simp] theorem State.noteHw_ecc (f : Field) (i : Ix) (m : Nat) : (s.noteHw f i m).ecc = s.ecc := rfl
@[simp] theorem State.noteHw_axes (f : Field) (i : Ix) (m : Nat) : (s.noteHw f i m).axes = s.axes := rfl
@[simp] theorem State.noteHw_marks (f : Field) (i : Ix) (m : Nat) : (s.noteHw f i m).marks = s.marks := rfl
@[simp] theorem State.noteHw_counters (f : Field) (i : Ix) (m : Nat) : (s.noteHw f i m).counters = s.counters := rfl
@[simp] theorem State.noteHw_pins (f : Field) (i : Ix) (m : Nat) : (s.noteHw f i m).pins = s.pins := rfl
@[simp] theorem State.noteHw_criers (f : Field) (i : Ix) (m : Nat) : (s.noteHw f i m).criers = s.criers := rfl
@[simp] theorem State.noteHw_crWas (f : Field) (i : Ix) (m : Nat) : (s.noteHw f i m).crWas = s.crWas := rfl
@[simp] theorem State.noteHw_crDid (f : Field) (i : Ix) (m : Nat) : (s.noteHw f i m).crDid = s.crDid := rfl
@[simp] theorem State.noteHw_barrows (f : Field) (i : Ix) (m : Nat) : (s.noteHw f i m).barrows = s.barrows := rfl
@[simp] theorem State.noteHw_lanes (f : Field) (i : Ix) (m : Nat) : (s.noteHw f i m).lanes = s.lanes := rfl
@[simp] theorem State.noteHw_threads (f : Field) (i : Ix) (m : Nat) : (s.noteHw f i m).threads = s.threads := rfl
@[simp] theorem State.noteHw_chans (f : Field) (i : Ix) (m : Nat) : (s.noteHw f i m).chans = s.chans := rfl
@[simp] theorem State.noteHw_slots (f : Field) (i : Ix) (m : Nat) : (s.noteHw f i m).slots = s.slots := rfl
@[simp] theorem State.noteHw_cartTurn (f : Field) (i : Ix) (m : Nat) : (s.noteHw f i m).cartTurn = s.cartTurn := rfl
@[simp] theorem State.noteHw_calibs (f : Field) (i : Ix) (m : Nat) : (s.noteHw f i m).calibs = s.calibs := rfl
@[simp] theorem State.noteHw_wind (f : Field) (i : Ix) (m : Nat) : (s.noteHw f i m).wind = s.wind := rfl
@[simp] theorem State.noteHw_traders (f : Field) (i : Ix) (m : Nat) : (s.noteHw f i m).traders = s.traders := rfl
@[simp] theorem State.noteHw_stalls (f : Field) (i : Ix) (m : Nat) : (s.noteHw f i m).stalls = s.stalls := rfl
@[simp] theorem State.noteHw_stallSlot (f : Field) (i : Ix) (m : Nat) : (s.noteHw f i m).stallSlot = s.stallSlot := rfl
@[simp] theorem State.noteHw_deliveries (f : Field) (i : Ix) (m : Nat) : (s.noteHw f i m).deliveries = s.deliveries := rfl
@[simp] theorem State.noteHw_edgeActs (f : Field) (i : Ix) (m : Nat) : (s.noteHw f i m).edgeActs = s.edgeActs := rfl
@[simp] theorem State.noteHw_tokens (f : Field) (i : Ix) (m : Nat) : (s.noteHw f i m).tokens = s.tokens := rfl
@[simp] theorem State.noteHw_hostPops (f : Field) (i : Ix) (m : Nat) : (s.noteHw f i m).hostPops = s.hostPops := rfl
@[simp] theorem State.noteHw_deferred (f : Field) (i : Ix) (m : Nat) : (s.noteHw f i m).deferred = s.deferred := rfl
@[simp] theorem State.noteHw_chits (f : Field) (i : Ix) (m : Nat) : (s.noteHw f i m).chits = s.chits := rfl
@[simp] theorem State.noteHw_reqs (f : Field) (i : Ix) (m : Nat) : (s.noteHw f i m).reqs = s.reqs := rfl
@[simp] theorem State.noteHw_arrived (f : Field) (i : Ix) (m : Nat) : (s.noteHw f i m).arrived = s.arrived := rfl
@[simp] theorem State.noteHw_nextReq (f : Field) (i : Ix) (m : Nat) : (s.noteHw f i m).nextReq = s.nextReq := rfl
@[simp] theorem State.noteHw_pathArb (f : Field) (i : Ix) (m : Nat) : (s.noteHw f i m).pathArb = s.pathArb := rfl
@[simp] theorem State.noteHw_portArb (f : Field) (i : Ix) (m : Nat) : (s.noteHw f i m).portArb = s.portArb := rfl
@[simp] theorem State.noteHw_atomArb (f : Field) (i : Ix) (m : Nat) : (s.noteHw f i m).atomArb = s.atomArb := rfl
@[simp] theorem State.noteHw_agentWait (f : Field) (i : Ix) (m : Nat) : (s.noteHw f i m).agentWait = s.agentWait := rfl
@[simp] theorem State.noteHw_orderTurn (f : Field) (i : Ix) (m : Nat) : (s.noteHw f i m).orderTurn = s.orderTurn := rfl
@[simp] theorem State.noteHw_jobs (f : Field) (i : Ix) (m : Nat) : (s.noteHw f i m).jobs = s.jobs := rfl
@[simp] theorem State.noteHw_jobSeq (f : Field) (i : Ix) (m : Nat) : (s.noteHw f i m).jobSeq = s.jobSeq := rfl
@[simp] theorem State.noteHw_images (f : Field) (i : Ix) (m : Nat) : (s.noteHw f i m).images = s.images := rfl
@[simp] theorem State.noteHw_swaps (f : Field) (i : Ix) (m : Nat) : (s.noteHw f i m).swaps = s.swaps := rfl
@[simp] theorem State.noteHw_failovers (f : Field) (i : Ix) (m : Nat) : (s.noteHw f i m).failovers = s.failovers := rfl
@[simp] theorem State.noteHw_held (f : Field) (i : Ix) (m : Nat) : (s.noteHw f i m).held = s.held := rfl
@[simp] theorem State.noteHw_windDefault (f : Field) (i : Ix) (m : Nat) : (s.noteHw f i m).windDefault = s.windDefault := rfl
@[simp] theorem State.noteHw_patches (f : Field) (i : Ix) (m : Nat) : (s.noteHw f i m).patches = s.patches := rfl
@[simp] theorem State.noteHw_power (f : Field) (i : Ix) (m : Nat) : (s.noteHw f i m).power = s.power := rfl
@[simp] theorem State.noteHw_dbg (f : Field) (i : Ix) (m : Nat) : (s.noteHw f i m).dbg = s.dbg := rfl
@[simp] theorem State.noteHw_faults (f : Field) (i : Ix) (m : Nat) : (s.noteHw f i m).faults = s.faults := rfl
@[simp] theorem State.noteHw_corrTold (f : Field) (i : Ix) (m : Nat) : (s.noteHw f i m).corrTold = s.corrTold := rfl
@[simp] theorem State.noteHw_ports (f : Field) (i : Ix) (m : Nat) : (s.noteHw f i m).ports = s.ports := rfl
@[simp] theorem State.noteHw_readOut (f : Field) (i : Ix) (m : Nat) : (s.noteHw f i m).readOut = s.readOut := rfl
@[simp] theorem State.noteHw_readData (f : Field) (i : Ix) (m : Nat) : (s.noteHw f i m).readData = s.readData := rfl
@[simp] theorem State.noteHw_readErr (f : Field) (i : Ix) (m : Nat) : (s.noteHw f i m).readErr = s.readErr := rfl
@[simp] theorem State.noteHw_freeIx (f : Field) (i : Ix) (m : Nat) : (s.noteHw f i m).freeIx = s.freeIx := rfl
@[simp] theorem State.noteHw_pending (f : Field) (i : Ix) (m : Nat) : (s.noteHw f i m).pending = s.pending := rfl
@[simp] theorem State.noteHw_axis (f : Field) (i : Ix) (m : Nat) (n' : Nat) : (s.noteHw f i m).axis n' = s.axis n' := rfl
@[simp] theorem State.noteHw_mark (f : Field) (i : Ix) (m : Nat) (h' m' : Nat) : (s.noteHw f i m).mark h' m' = s.mark h' m' := rfl
@[simp] theorem State.noteHw_counter (f : Field) (i : Ix) (m : Nat) (h' c' : Nat) : (s.noteHw f i m).counter h' c' = s.counter h' c' := rfl
@[simp] theorem State.noteHw_pin (f : Field) (i : Ix) (m : Nat) (h' i' : Nat) : (s.noteHw f i m).pin h' i' = s.pin h' i' := rfl
@[simp] theorem State.noteHw_trader (f : Field) (i : Ix) (m : Nat) (t' : TraderId) : (s.noteHw f i m).trader t' = s.trader t' := rfl
@[simp] theorem State.noteHw_stall (f : Field) (i : Ix) (m : Nat) (h' n' : Nat) : (s.noteHw f i m).stall h' n' = s.stall h' n' := rfl
@[simp] theorem State.noteHw_crier (f : Field) (i : Ix) (m : Nat) (c' : CrierId) : (s.noteHw f i m).crier c' = s.crier c' := rfl
@[simp] theorem State.noteHw_barrow (f : Field) (i : Ix) (m : Nat) (h' b' : Nat) : (s.noteHw f i m).barrow h' b' = s.barrow h' b' := rfl
@[simp] theorem State.noteHw_lane (f : Field) (i : Ix) (m : Nat) (h' k' : Nat) : (s.noteHw f i m).lane h' k' = s.lane h' k' := rfl
@[simp] theorem State.noteHw_thread (f : Field) (i : Ix) (m : Nat) (h' k' th' : Nat) : (s.noteHw f i m).thread h' k' th' = s.thread h' k' th' := rfl
@[simp] theorem State.noteHw_rd (f : Field) (i : Ix) (m : Nat) (q : Reg) : (s.noteHw f i m).rd q = s.rd q := rfl
@[simp] theorem State.noteHw_get (f : Field) (i : Ix) (m : Nat) (g : Field) (j : Ix) : (s.noteHw f i m).get g j = s.get g j := rfl
@[simp] theorem State.noteHw_is (f : Field) (i : Ix) (m : Nat) (g : Field) (j : Ix) : (s.noteHw f i m).is g j = s.is g j := rfl
@[simp] theorem State.noteHw_byte (f : Field) (i : Ix) (m : Nat) (arr : Arr) (x : Nat) : (s.noteHw f i m).byte arr x = s.byte arr x := rfl
@[simp] theorem State.noteHw_bytesAt (f : Field) (i : Ix) (m : Nat) (arr : Arr) (x n' : Nat) : (s.noteHw f i m).bytesAt arr x n' = s.bytesAt arr x n' := rfl
@[simp] theorem State.noteHw_natAt (f : Field) (i : Ix) (m : Nat) (arr : Arr) (x n' : Nat) : (s.noteHw f i m).natAt arr x n' = s.natAt arr x n' := rfl
@[simp] theorem State.noteHw_job (f : Field) (i : Ix) (m : Nat) (n' : Nat) : (s.noteHw f i m).job n' = s.job n' := rfl

/-! ### `State.noteSw` -/

@[simp] theorem State.noteSw_part (f : Field) (i : Ix) (m : Nat) : (s.noteSw f i m).part = s.part := rfl
@[simp] theorem State.noteSw_tick (f : Field) (i : Ix) (m : Nat) : (s.noteSw f i m).tick = s.tick := rfl
@[simp] theorem State.noteSw_till (f : Field) (i : Ix) (m : Nat) : (s.noteSw f i m).till = s.till := rfl
@[simp] theorem State.noteSw_regs (f : Field) (i : Ix) (m : Nat) : (s.noteSw f i m).regs = s.regs := rfl
@[simp] theorem State.noteSw_hwSet (f : Field) (i : Ix) (m : Nat) : (s.noteSw f i m).hwSet = s.hwSet := rfl
@[simp] theorem State.noteSw_mem (f : Field) (i : Ix) (m : Nat) : (s.noteSw f i m).mem = s.mem := rfl
@[simp] theorem State.noteSw_ecc (f : Field) (i : Ix) (m : Nat) : (s.noteSw f i m).ecc = s.ecc := rfl
@[simp] theorem State.noteSw_axes (f : Field) (i : Ix) (m : Nat) : (s.noteSw f i m).axes = s.axes := rfl
@[simp] theorem State.noteSw_marks (f : Field) (i : Ix) (m : Nat) : (s.noteSw f i m).marks = s.marks := rfl
@[simp] theorem State.noteSw_counters (f : Field) (i : Ix) (m : Nat) : (s.noteSw f i m).counters = s.counters := rfl
@[simp] theorem State.noteSw_pins (f : Field) (i : Ix) (m : Nat) : (s.noteSw f i m).pins = s.pins := rfl
@[simp] theorem State.noteSw_criers (f : Field) (i : Ix) (m : Nat) : (s.noteSw f i m).criers = s.criers := rfl
@[simp] theorem State.noteSw_crWas (f : Field) (i : Ix) (m : Nat) : (s.noteSw f i m).crWas = s.crWas := rfl
@[simp] theorem State.noteSw_crDid (f : Field) (i : Ix) (m : Nat) : (s.noteSw f i m).crDid = s.crDid := rfl
@[simp] theorem State.noteSw_barrows (f : Field) (i : Ix) (m : Nat) : (s.noteSw f i m).barrows = s.barrows := rfl
@[simp] theorem State.noteSw_lanes (f : Field) (i : Ix) (m : Nat) : (s.noteSw f i m).lanes = s.lanes := rfl
@[simp] theorem State.noteSw_threads (f : Field) (i : Ix) (m : Nat) : (s.noteSw f i m).threads = s.threads := rfl
@[simp] theorem State.noteSw_chans (f : Field) (i : Ix) (m : Nat) : (s.noteSw f i m).chans = s.chans := rfl
@[simp] theorem State.noteSw_slots (f : Field) (i : Ix) (m : Nat) : (s.noteSw f i m).slots = s.slots := rfl
@[simp] theorem State.noteSw_cartTurn (f : Field) (i : Ix) (m : Nat) : (s.noteSw f i m).cartTurn = s.cartTurn := rfl
@[simp] theorem State.noteSw_calibs (f : Field) (i : Ix) (m : Nat) : (s.noteSw f i m).calibs = s.calibs := rfl
@[simp] theorem State.noteSw_wind (f : Field) (i : Ix) (m : Nat) : (s.noteSw f i m).wind = s.wind := rfl
@[simp] theorem State.noteSw_traders (f : Field) (i : Ix) (m : Nat) : (s.noteSw f i m).traders = s.traders := rfl
@[simp] theorem State.noteSw_stalls (f : Field) (i : Ix) (m : Nat) : (s.noteSw f i m).stalls = s.stalls := rfl
@[simp] theorem State.noteSw_stallSlot (f : Field) (i : Ix) (m : Nat) : (s.noteSw f i m).stallSlot = s.stallSlot := rfl
@[simp] theorem State.noteSw_deliveries (f : Field) (i : Ix) (m : Nat) : (s.noteSw f i m).deliveries = s.deliveries := rfl
@[simp] theorem State.noteSw_edgeActs (f : Field) (i : Ix) (m : Nat) : (s.noteSw f i m).edgeActs = s.edgeActs := rfl
@[simp] theorem State.noteSw_tokens (f : Field) (i : Ix) (m : Nat) : (s.noteSw f i m).tokens = s.tokens := rfl
@[simp] theorem State.noteSw_hostPops (f : Field) (i : Ix) (m : Nat) : (s.noteSw f i m).hostPops = s.hostPops := rfl
@[simp] theorem State.noteSw_deferred (f : Field) (i : Ix) (m : Nat) : (s.noteSw f i m).deferred = s.deferred := rfl
@[simp] theorem State.noteSw_chits (f : Field) (i : Ix) (m : Nat) : (s.noteSw f i m).chits = s.chits := rfl
@[simp] theorem State.noteSw_reqs (f : Field) (i : Ix) (m : Nat) : (s.noteSw f i m).reqs = s.reqs := rfl
@[simp] theorem State.noteSw_arrived (f : Field) (i : Ix) (m : Nat) : (s.noteSw f i m).arrived = s.arrived := rfl
@[simp] theorem State.noteSw_nextReq (f : Field) (i : Ix) (m : Nat) : (s.noteSw f i m).nextReq = s.nextReq := rfl
@[simp] theorem State.noteSw_pathArb (f : Field) (i : Ix) (m : Nat) : (s.noteSw f i m).pathArb = s.pathArb := rfl
@[simp] theorem State.noteSw_portArb (f : Field) (i : Ix) (m : Nat) : (s.noteSw f i m).portArb = s.portArb := rfl
@[simp] theorem State.noteSw_atomArb (f : Field) (i : Ix) (m : Nat) : (s.noteSw f i m).atomArb = s.atomArb := rfl
@[simp] theorem State.noteSw_agentWait (f : Field) (i : Ix) (m : Nat) : (s.noteSw f i m).agentWait = s.agentWait := rfl
@[simp] theorem State.noteSw_orderTurn (f : Field) (i : Ix) (m : Nat) : (s.noteSw f i m).orderTurn = s.orderTurn := rfl
@[simp] theorem State.noteSw_jobs (f : Field) (i : Ix) (m : Nat) : (s.noteSw f i m).jobs = s.jobs := rfl
@[simp] theorem State.noteSw_jobSeq (f : Field) (i : Ix) (m : Nat) : (s.noteSw f i m).jobSeq = s.jobSeq := rfl
@[simp] theorem State.noteSw_images (f : Field) (i : Ix) (m : Nat) : (s.noteSw f i m).images = s.images := rfl
@[simp] theorem State.noteSw_swaps (f : Field) (i : Ix) (m : Nat) : (s.noteSw f i m).swaps = s.swaps := rfl
@[simp] theorem State.noteSw_failovers (f : Field) (i : Ix) (m : Nat) : (s.noteSw f i m).failovers = s.failovers := rfl
@[simp] theorem State.noteSw_held (f : Field) (i : Ix) (m : Nat) : (s.noteSw f i m).held = s.held := rfl
@[simp] theorem State.noteSw_windDefault (f : Field) (i : Ix) (m : Nat) : (s.noteSw f i m).windDefault = s.windDefault := rfl
@[simp] theorem State.noteSw_patches (f : Field) (i : Ix) (m : Nat) : (s.noteSw f i m).patches = s.patches := rfl
@[simp] theorem State.noteSw_power (f : Field) (i : Ix) (m : Nat) : (s.noteSw f i m).power = s.power := rfl
@[simp] theorem State.noteSw_dbg (f : Field) (i : Ix) (m : Nat) : (s.noteSw f i m).dbg = s.dbg := rfl
@[simp] theorem State.noteSw_faults (f : Field) (i : Ix) (m : Nat) : (s.noteSw f i m).faults = s.faults := rfl
@[simp] theorem State.noteSw_corrTold (f : Field) (i : Ix) (m : Nat) : (s.noteSw f i m).corrTold = s.corrTold := rfl
@[simp] theorem State.noteSw_ports (f : Field) (i : Ix) (m : Nat) : (s.noteSw f i m).ports = s.ports := rfl
@[simp] theorem State.noteSw_readOut (f : Field) (i : Ix) (m : Nat) : (s.noteSw f i m).readOut = s.readOut := rfl
@[simp] theorem State.noteSw_readData (f : Field) (i : Ix) (m : Nat) : (s.noteSw f i m).readData = s.readData := rfl
@[simp] theorem State.noteSw_readErr (f : Field) (i : Ix) (m : Nat) : (s.noteSw f i m).readErr = s.readErr := rfl
@[simp] theorem State.noteSw_freeIx (f : Field) (i : Ix) (m : Nat) : (s.noteSw f i m).freeIx = s.freeIx := rfl
@[simp] theorem State.noteSw_pending (f : Field) (i : Ix) (m : Nat) : (s.noteSw f i m).pending = s.pending := rfl
@[simp] theorem State.noteSw_axis (f : Field) (i : Ix) (m : Nat) (n' : Nat) : (s.noteSw f i m).axis n' = s.axis n' := rfl
@[simp] theorem State.noteSw_mark (f : Field) (i : Ix) (m : Nat) (h' m' : Nat) : (s.noteSw f i m).mark h' m' = s.mark h' m' := rfl
@[simp] theorem State.noteSw_counter (f : Field) (i : Ix) (m : Nat) (h' c' : Nat) : (s.noteSw f i m).counter h' c' = s.counter h' c' := rfl
@[simp] theorem State.noteSw_pin (f : Field) (i : Ix) (m : Nat) (h' i' : Nat) : (s.noteSw f i m).pin h' i' = s.pin h' i' := rfl
@[simp] theorem State.noteSw_trader (f : Field) (i : Ix) (m : Nat) (t' : TraderId) : (s.noteSw f i m).trader t' = s.trader t' := rfl
@[simp] theorem State.noteSw_stall (f : Field) (i : Ix) (m : Nat) (h' n' : Nat) : (s.noteSw f i m).stall h' n' = s.stall h' n' := rfl
@[simp] theorem State.noteSw_crier (f : Field) (i : Ix) (m : Nat) (c' : CrierId) : (s.noteSw f i m).crier c' = s.crier c' := rfl
@[simp] theorem State.noteSw_barrow (f : Field) (i : Ix) (m : Nat) (h' b' : Nat) : (s.noteSw f i m).barrow h' b' = s.barrow h' b' := rfl
@[simp] theorem State.noteSw_lane (f : Field) (i : Ix) (m : Nat) (h' k' : Nat) : (s.noteSw f i m).lane h' k' = s.lane h' k' := rfl
@[simp] theorem State.noteSw_thread (f : Field) (i : Ix) (m : Nat) (h' k' th' : Nat) : (s.noteSw f i m).thread h' k' th' = s.thread h' k' th' := rfl
@[simp] theorem State.noteSw_rd (f : Field) (i : Ix) (m : Nat) (q : Reg) : (s.noteSw f i m).rd q = s.rd q := rfl
@[simp] theorem State.noteSw_get (f : Field) (i : Ix) (m : Nat) (g : Field) (j : Ix) : (s.noteSw f i m).get g j = s.get g j := rfl
@[simp] theorem State.noteSw_is (f : Field) (i : Ix) (m : Nat) (g : Field) (j : Ix) : (s.noteSw f i m).is g j = s.is g j := rfl
@[simp] theorem State.noteSw_byte (f : Field) (i : Ix) (m : Nat) (arr : Arr) (x : Nat) : (s.noteSw f i m).byte arr x = s.byte arr x := rfl
@[simp] theorem State.noteSw_bytesAt (f : Field) (i : Ix) (m : Nat) (arr : Arr) (x n' : Nat) : (s.noteSw f i m).bytesAt arr x n' = s.bytesAt arr x n' := rfl
@[simp] theorem State.noteSw_natAt (f : Field) (i : Ix) (m : Nat) (arr : Arr) (x n' : Nat) : (s.noteSw f i m).natAt arr x n' = s.natAt arr x n' := rfl
@[simp] theorem State.noteSw_job (f : Field) (i : Ix) (m : Nat) (n' : Nat) : (s.noteSw f i m).job n' = s.job n' := rfl

/-! ### `State.set` -/

@[simp] theorem State.set_part (f : Field) (i : Ix) (b : Bool) : (s.set f i b).part = s.part := rfl
@[simp] theorem State.set_tick (f : Field) (i : Ix) (b : Bool) : (s.set f i b).tick = s.tick := rfl
@[simp] theorem State.set_till (f : Field) (i : Ix) (b : Bool) : (s.set f i b).till = s.till := rfl
@[simp] theorem State.set_swSet (f : Field) (i : Ix) (b : Bool) : (s.set f i b).swSet = s.swSet := rfl
@[simp] theorem State.set_mem (f : Field) (i : Ix) (b : Bool) : (s.set f i b).mem = s.mem := rfl
@[simp] theorem State.set_ecc (f : Field) (i : Ix) (b : Bool) : (s.set f i b).ecc = s.ecc := rfl
@[simp] theorem State.set_axes (f : Field) (i : Ix) (b : Bool) : (s.set f i b).axes = s.axes := rfl
@[simp] theorem State.set_marks (f : Field) (i : Ix) (b : Bool) : (s.set f i b).marks = s.marks := rfl
@[simp] theorem State.set_counters (f : Field) (i : Ix) (b : Bool) : (s.set f i b).counters = s.counters := rfl
@[simp] theorem State.set_pins (f : Field) (i : Ix) (b : Bool) : (s.set f i b).pins = s.pins := rfl
@[simp] theorem State.set_criers (f : Field) (i : Ix) (b : Bool) : (s.set f i b).criers = s.criers := rfl
@[simp] theorem State.set_crWas (f : Field) (i : Ix) (b : Bool) : (s.set f i b).crWas = s.crWas := rfl
@[simp] theorem State.set_crDid (f : Field) (i : Ix) (b : Bool) : (s.set f i b).crDid = s.crDid := rfl
@[simp] theorem State.set_barrows (f : Field) (i : Ix) (b : Bool) : (s.set f i b).barrows = s.barrows := rfl
@[simp] theorem State.set_lanes (f : Field) (i : Ix) (b : Bool) : (s.set f i b).lanes = s.lanes := rfl
@[simp] theorem State.set_threads (f : Field) (i : Ix) (b : Bool) : (s.set f i b).threads = s.threads := rfl
@[simp] theorem State.set_chans (f : Field) (i : Ix) (b : Bool) : (s.set f i b).chans = s.chans := rfl
@[simp] theorem State.set_slots (f : Field) (i : Ix) (b : Bool) : (s.set f i b).slots = s.slots := rfl
@[simp] theorem State.set_cartTurn (f : Field) (i : Ix) (b : Bool) : (s.set f i b).cartTurn = s.cartTurn := rfl
@[simp] theorem State.set_calibs (f : Field) (i : Ix) (b : Bool) : (s.set f i b).calibs = s.calibs := rfl
@[simp] theorem State.set_wind (f : Field) (i : Ix) (b : Bool) : (s.set f i b).wind = s.wind := rfl
@[simp] theorem State.set_traders (f : Field) (i : Ix) (b : Bool) : (s.set f i b).traders = s.traders := rfl
@[simp] theorem State.set_stalls (f : Field) (i : Ix) (b : Bool) : (s.set f i b).stalls = s.stalls := rfl
@[simp] theorem State.set_stallSlot (f : Field) (i : Ix) (b : Bool) : (s.set f i b).stallSlot = s.stallSlot := rfl
@[simp] theorem State.set_deliveries (f : Field) (i : Ix) (b : Bool) : (s.set f i b).deliveries = s.deliveries := rfl
@[simp] theorem State.set_edgeActs (f : Field) (i : Ix) (b : Bool) : (s.set f i b).edgeActs = s.edgeActs := rfl
@[simp] theorem State.set_tokens (f : Field) (i : Ix) (b : Bool) : (s.set f i b).tokens = s.tokens := rfl
@[simp] theorem State.set_hostPops (f : Field) (i : Ix) (b : Bool) : (s.set f i b).hostPops = s.hostPops := rfl
@[simp] theorem State.set_deferred (f : Field) (i : Ix) (b : Bool) : (s.set f i b).deferred = s.deferred := rfl
@[simp] theorem State.set_chits (f : Field) (i : Ix) (b : Bool) : (s.set f i b).chits = s.chits := rfl
@[simp] theorem State.set_reqs (f : Field) (i : Ix) (b : Bool) : (s.set f i b).reqs = s.reqs := rfl
@[simp] theorem State.set_arrived (f : Field) (i : Ix) (b : Bool) : (s.set f i b).arrived = s.arrived := rfl
@[simp] theorem State.set_nextReq (f : Field) (i : Ix) (b : Bool) : (s.set f i b).nextReq = s.nextReq := rfl
@[simp] theorem State.set_pathArb (f : Field) (i : Ix) (b : Bool) : (s.set f i b).pathArb = s.pathArb := rfl
@[simp] theorem State.set_portArb (f : Field) (i : Ix) (b : Bool) : (s.set f i b).portArb = s.portArb := rfl
@[simp] theorem State.set_atomArb (f : Field) (i : Ix) (b : Bool) : (s.set f i b).atomArb = s.atomArb := rfl
@[simp] theorem State.set_agentWait (f : Field) (i : Ix) (b : Bool) : (s.set f i b).agentWait = s.agentWait := rfl
@[simp] theorem State.set_orderTurn (f : Field) (i : Ix) (b : Bool) : (s.set f i b).orderTurn = s.orderTurn := rfl
@[simp] theorem State.set_jobs (f : Field) (i : Ix) (b : Bool) : (s.set f i b).jobs = s.jobs := rfl
@[simp] theorem State.set_jobSeq (f : Field) (i : Ix) (b : Bool) : (s.set f i b).jobSeq = s.jobSeq := rfl
@[simp] theorem State.set_images (f : Field) (i : Ix) (b : Bool) : (s.set f i b).images = s.images := rfl
@[simp] theorem State.set_swaps (f : Field) (i : Ix) (b : Bool) : (s.set f i b).swaps = s.swaps := rfl
@[simp] theorem State.set_failovers (f : Field) (i : Ix) (b : Bool) : (s.set f i b).failovers = s.failovers := rfl
@[simp] theorem State.set_held (f : Field) (i : Ix) (b : Bool) : (s.set f i b).held = s.held := rfl
@[simp] theorem State.set_windDefault (f : Field) (i : Ix) (b : Bool) : (s.set f i b).windDefault = s.windDefault := rfl
@[simp] theorem State.set_patches (f : Field) (i : Ix) (b : Bool) : (s.set f i b).patches = s.patches := rfl
@[simp] theorem State.set_power (f : Field) (i : Ix) (b : Bool) : (s.set f i b).power = s.power := rfl
@[simp] theorem State.set_dbg (f : Field) (i : Ix) (b : Bool) : (s.set f i b).dbg = s.dbg := rfl
@[simp] theorem State.set_faults (f : Field) (i : Ix) (b : Bool) : (s.set f i b).faults = s.faults := rfl
@[simp] theorem State.set_corrTold (f : Field) (i : Ix) (b : Bool) : (s.set f i b).corrTold = s.corrTold := rfl
@[simp] theorem State.set_ports (f : Field) (i : Ix) (b : Bool) : (s.set f i b).ports = s.ports := rfl
@[simp] theorem State.set_readOut (f : Field) (i : Ix) (b : Bool) : (s.set f i b).readOut = s.readOut := rfl
@[simp] theorem State.set_readData (f : Field) (i : Ix) (b : Bool) : (s.set f i b).readData = s.readData := rfl
@[simp] theorem State.set_readErr (f : Field) (i : Ix) (b : Bool) : (s.set f i b).readErr = s.readErr := rfl
@[simp] theorem State.set_freeIx (f : Field) (i : Ix) (b : Bool) : (s.set f i b).freeIx = s.freeIx := rfl
@[simp] theorem State.set_pending (f : Field) (i : Ix) (b : Bool) : (s.set f i b).pending = s.pending := rfl
@[simp] theorem State.set_axis (f : Field) (i : Ix) (b : Bool) (n' : Nat) : (s.set f i b).axis n' = s.axis n' := rfl
@[simp] theorem State.set_mark (f : Field) (i : Ix) (b : Bool) (h' m' : Nat) : (s.set f i b).mark h' m' = s.mark h' m' := rfl
@[simp] theorem State.set_counter (f : Field) (i : Ix) (b : Bool) (h' c' : Nat) : (s.set f i b).counter h' c' = s.counter h' c' := rfl
@[simp] theorem State.set_pin (f : Field) (i : Ix) (b : Bool) (h' i' : Nat) : (s.set f i b).pin h' i' = s.pin h' i' := rfl
@[simp] theorem State.set_trader (f : Field) (i : Ix) (b : Bool) (t' : TraderId) : (s.set f i b).trader t' = s.trader t' := rfl
@[simp] theorem State.set_stall (f : Field) (i : Ix) (b : Bool) (h' n' : Nat) : (s.set f i b).stall h' n' = s.stall h' n' := rfl
@[simp] theorem State.set_crier (f : Field) (i : Ix) (b : Bool) (c' : CrierId) : (s.set f i b).crier c' = s.crier c' := rfl
@[simp] theorem State.set_barrow (f : Field) (i : Ix) (b : Bool) (h' b' : Nat) : (s.set f i b).barrow h' b' = s.barrow h' b' := rfl
@[simp] theorem State.set_lane (f : Field) (i : Ix) (b : Bool) (h' k' : Nat) : (s.set f i b).lane h' k' = s.lane h' k' := rfl
@[simp] theorem State.set_thread (f : Field) (i : Ix) (b : Bool) (h' k' th' : Nat) : (s.set f i b).thread h' k' th' = s.thread h' k' th' := rfl
@[simp] theorem State.set_byte (f : Field) (i : Ix) (b : Bool) (arr : Arr) (x : Nat) : (s.set f i b).byte arr x = s.byte arr x := rfl
@[simp] theorem State.set_bytesAt (f : Field) (i : Ix) (b : Bool) (arr : Arr) (x n' : Nat) : (s.set f i b).bytesAt arr x n' = s.bytesAt arr x n' := rfl
@[simp] theorem State.set_natAt (f : Field) (i : Ix) (b : Bool) (arr : Arr) (x n' : Nat) : (s.set f i b).natAt arr x n' = s.natAt arr x n' := rfl
@[simp] theorem State.set_job (f : Field) (i : Ix) (b : Bool) (n' : Nat) : (s.set f i b).job n' = s.job n' := rfl

/-! ### `State.orIn` -/

@[simp] theorem State.orIn_part (f : Field) (i : Ix) (m : Nat) : (s.orIn f i m).part = s.part := rfl
@[simp] theorem State.orIn_tick (f : Field) (i : Ix) (m : Nat) : (s.orIn f i m).tick = s.tick := rfl
@[simp] theorem State.orIn_till (f : Field) (i : Ix) (m : Nat) : (s.orIn f i m).till = s.till := rfl
@[simp] theorem State.orIn_swSet (f : Field) (i : Ix) (m : Nat) : (s.orIn f i m).swSet = s.swSet := rfl
@[simp] theorem State.orIn_mem (f : Field) (i : Ix) (m : Nat) : (s.orIn f i m).mem = s.mem := rfl
@[simp] theorem State.orIn_ecc (f : Field) (i : Ix) (m : Nat) : (s.orIn f i m).ecc = s.ecc := rfl
@[simp] theorem State.orIn_axes (f : Field) (i : Ix) (m : Nat) : (s.orIn f i m).axes = s.axes := rfl
@[simp] theorem State.orIn_marks (f : Field) (i : Ix) (m : Nat) : (s.orIn f i m).marks = s.marks := rfl
@[simp] theorem State.orIn_counters (f : Field) (i : Ix) (m : Nat) : (s.orIn f i m).counters = s.counters := rfl
@[simp] theorem State.orIn_pins (f : Field) (i : Ix) (m : Nat) : (s.orIn f i m).pins = s.pins := rfl
@[simp] theorem State.orIn_criers (f : Field) (i : Ix) (m : Nat) : (s.orIn f i m).criers = s.criers := rfl
@[simp] theorem State.orIn_crWas (f : Field) (i : Ix) (m : Nat) : (s.orIn f i m).crWas = s.crWas := rfl
@[simp] theorem State.orIn_crDid (f : Field) (i : Ix) (m : Nat) : (s.orIn f i m).crDid = s.crDid := rfl
@[simp] theorem State.orIn_barrows (f : Field) (i : Ix) (m : Nat) : (s.orIn f i m).barrows = s.barrows := rfl
@[simp] theorem State.orIn_lanes (f : Field) (i : Ix) (m : Nat) : (s.orIn f i m).lanes = s.lanes := rfl
@[simp] theorem State.orIn_threads (f : Field) (i : Ix) (m : Nat) : (s.orIn f i m).threads = s.threads := rfl
@[simp] theorem State.orIn_chans (f : Field) (i : Ix) (m : Nat) : (s.orIn f i m).chans = s.chans := rfl
@[simp] theorem State.orIn_slots (f : Field) (i : Ix) (m : Nat) : (s.orIn f i m).slots = s.slots := rfl
@[simp] theorem State.orIn_cartTurn (f : Field) (i : Ix) (m : Nat) : (s.orIn f i m).cartTurn = s.cartTurn := rfl
@[simp] theorem State.orIn_calibs (f : Field) (i : Ix) (m : Nat) : (s.orIn f i m).calibs = s.calibs := rfl
@[simp] theorem State.orIn_wind (f : Field) (i : Ix) (m : Nat) : (s.orIn f i m).wind = s.wind := rfl
@[simp] theorem State.orIn_traders (f : Field) (i : Ix) (m : Nat) : (s.orIn f i m).traders = s.traders := rfl
@[simp] theorem State.orIn_stalls (f : Field) (i : Ix) (m : Nat) : (s.orIn f i m).stalls = s.stalls := rfl
@[simp] theorem State.orIn_stallSlot (f : Field) (i : Ix) (m : Nat) : (s.orIn f i m).stallSlot = s.stallSlot := rfl
@[simp] theorem State.orIn_deliveries (f : Field) (i : Ix) (m : Nat) : (s.orIn f i m).deliveries = s.deliveries := rfl
@[simp] theorem State.orIn_edgeActs (f : Field) (i : Ix) (m : Nat) : (s.orIn f i m).edgeActs = s.edgeActs := rfl
@[simp] theorem State.orIn_tokens (f : Field) (i : Ix) (m : Nat) : (s.orIn f i m).tokens = s.tokens := rfl
@[simp] theorem State.orIn_hostPops (f : Field) (i : Ix) (m : Nat) : (s.orIn f i m).hostPops = s.hostPops := rfl
@[simp] theorem State.orIn_deferred (f : Field) (i : Ix) (m : Nat) : (s.orIn f i m).deferred = s.deferred := rfl
@[simp] theorem State.orIn_chits (f : Field) (i : Ix) (m : Nat) : (s.orIn f i m).chits = s.chits := rfl
@[simp] theorem State.orIn_reqs (f : Field) (i : Ix) (m : Nat) : (s.orIn f i m).reqs = s.reqs := rfl
@[simp] theorem State.orIn_arrived (f : Field) (i : Ix) (m : Nat) : (s.orIn f i m).arrived = s.arrived := rfl
@[simp] theorem State.orIn_nextReq (f : Field) (i : Ix) (m : Nat) : (s.orIn f i m).nextReq = s.nextReq := rfl
@[simp] theorem State.orIn_pathArb (f : Field) (i : Ix) (m : Nat) : (s.orIn f i m).pathArb = s.pathArb := rfl
@[simp] theorem State.orIn_portArb (f : Field) (i : Ix) (m : Nat) : (s.orIn f i m).portArb = s.portArb := rfl
@[simp] theorem State.orIn_atomArb (f : Field) (i : Ix) (m : Nat) : (s.orIn f i m).atomArb = s.atomArb := rfl
@[simp] theorem State.orIn_agentWait (f : Field) (i : Ix) (m : Nat) : (s.orIn f i m).agentWait = s.agentWait := rfl
@[simp] theorem State.orIn_orderTurn (f : Field) (i : Ix) (m : Nat) : (s.orIn f i m).orderTurn = s.orderTurn := rfl
@[simp] theorem State.orIn_jobs (f : Field) (i : Ix) (m : Nat) : (s.orIn f i m).jobs = s.jobs := rfl
@[simp] theorem State.orIn_jobSeq (f : Field) (i : Ix) (m : Nat) : (s.orIn f i m).jobSeq = s.jobSeq := rfl
@[simp] theorem State.orIn_images (f : Field) (i : Ix) (m : Nat) : (s.orIn f i m).images = s.images := rfl
@[simp] theorem State.orIn_swaps (f : Field) (i : Ix) (m : Nat) : (s.orIn f i m).swaps = s.swaps := rfl
@[simp] theorem State.orIn_failovers (f : Field) (i : Ix) (m : Nat) : (s.orIn f i m).failovers = s.failovers := rfl
@[simp] theorem State.orIn_held (f : Field) (i : Ix) (m : Nat) : (s.orIn f i m).held = s.held := rfl
@[simp] theorem State.orIn_windDefault (f : Field) (i : Ix) (m : Nat) : (s.orIn f i m).windDefault = s.windDefault := rfl
@[simp] theorem State.orIn_patches (f : Field) (i : Ix) (m : Nat) : (s.orIn f i m).patches = s.patches := rfl
@[simp] theorem State.orIn_power (f : Field) (i : Ix) (m : Nat) : (s.orIn f i m).power = s.power := rfl
@[simp] theorem State.orIn_dbg (f : Field) (i : Ix) (m : Nat) : (s.orIn f i m).dbg = s.dbg := rfl
@[simp] theorem State.orIn_faults (f : Field) (i : Ix) (m : Nat) : (s.orIn f i m).faults = s.faults := rfl
@[simp] theorem State.orIn_corrTold (f : Field) (i : Ix) (m : Nat) : (s.orIn f i m).corrTold = s.corrTold := rfl
@[simp] theorem State.orIn_ports (f : Field) (i : Ix) (m : Nat) : (s.orIn f i m).ports = s.ports := rfl
@[simp] theorem State.orIn_readOut (f : Field) (i : Ix) (m : Nat) : (s.orIn f i m).readOut = s.readOut := rfl
@[simp] theorem State.orIn_readData (f : Field) (i : Ix) (m : Nat) : (s.orIn f i m).readData = s.readData := rfl
@[simp] theorem State.orIn_readErr (f : Field) (i : Ix) (m : Nat) : (s.orIn f i m).readErr = s.readErr := rfl
@[simp] theorem State.orIn_freeIx (f : Field) (i : Ix) (m : Nat) : (s.orIn f i m).freeIx = s.freeIx := rfl
@[simp] theorem State.orIn_pending (f : Field) (i : Ix) (m : Nat) : (s.orIn f i m).pending = s.pending := rfl
@[simp] theorem State.orIn_axis (f : Field) (i : Ix) (m : Nat) (n' : Nat) : (s.orIn f i m).axis n' = s.axis n' := rfl
@[simp] theorem State.orIn_mark (f : Field) (i : Ix) (m : Nat) (h' m' : Nat) : (s.orIn f i m).mark h' m' = s.mark h' m' := rfl
@[simp] theorem State.orIn_counter (f : Field) (i : Ix) (m : Nat) (h' c' : Nat) : (s.orIn f i m).counter h' c' = s.counter h' c' := rfl
@[simp] theorem State.orIn_pin (f : Field) (i : Ix) (m : Nat) (h' i' : Nat) : (s.orIn f i m).pin h' i' = s.pin h' i' := rfl
@[simp] theorem State.orIn_trader (f : Field) (i : Ix) (m : Nat) (t' : TraderId) : (s.orIn f i m).trader t' = s.trader t' := rfl
@[simp] theorem State.orIn_stall (f : Field) (i : Ix) (m : Nat) (h' n' : Nat) : (s.orIn f i m).stall h' n' = s.stall h' n' := rfl
@[simp] theorem State.orIn_crier (f : Field) (i : Ix) (m : Nat) (c' : CrierId) : (s.orIn f i m).crier c' = s.crier c' := rfl
@[simp] theorem State.orIn_barrow (f : Field) (i : Ix) (m : Nat) (h' b' : Nat) : (s.orIn f i m).barrow h' b' = s.barrow h' b' := rfl
@[simp] theorem State.orIn_lane (f : Field) (i : Ix) (m : Nat) (h' k' : Nat) : (s.orIn f i m).lane h' k' = s.lane h' k' := rfl
@[simp] theorem State.orIn_thread (f : Field) (i : Ix) (m : Nat) (h' k' th' : Nat) : (s.orIn f i m).thread h' k' th' = s.thread h' k' th' := rfl
@[simp] theorem State.orIn_byte (f : Field) (i : Ix) (m : Nat) (arr : Arr) (x : Nat) : (s.orIn f i m).byte arr x = s.byte arr x := rfl
@[simp] theorem State.orIn_bytesAt (f : Field) (i : Ix) (m : Nat) (arr : Arr) (x n' : Nat) : (s.orIn f i m).bytesAt arr x n' = s.bytesAt arr x n' := rfl
@[simp] theorem State.orIn_natAt (f : Field) (i : Ix) (m : Nat) (arr : Arr) (x n' : Nat) : (s.orIn f i m).natAt arr x n' = s.natAt arr x n' := rfl
@[simp] theorem State.orIn_job (f : Field) (i : Ix) (m : Nat) (n' : Nat) : (s.orIn f i m).job n' = s.job n' := rfl

/-! ### `State.w1c` -/

@[simp] theorem State.w1c_part (f : Field) (i : Ix) (m : Nat) : (s.w1c f i m).part = s.part := rfl
@[simp] theorem State.w1c_tick (f : Field) (i : Ix) (m : Nat) : (s.w1c f i m).tick = s.tick := rfl
@[simp] theorem State.w1c_till (f : Field) (i : Ix) (m : Nat) : (s.w1c f i m).till = s.till := rfl
@[simp] theorem State.w1c_hwSet (f : Field) (i : Ix) (m : Nat) : (s.w1c f i m).hwSet = s.hwSet := rfl
@[simp] theorem State.w1c_swSet (f : Field) (i : Ix) (m : Nat) : (s.w1c f i m).swSet = s.swSet := rfl
@[simp] theorem State.w1c_mem (f : Field) (i : Ix) (m : Nat) : (s.w1c f i m).mem = s.mem := rfl
@[simp] theorem State.w1c_ecc (f : Field) (i : Ix) (m : Nat) : (s.w1c f i m).ecc = s.ecc := rfl
@[simp] theorem State.w1c_axes (f : Field) (i : Ix) (m : Nat) : (s.w1c f i m).axes = s.axes := rfl
@[simp] theorem State.w1c_marks (f : Field) (i : Ix) (m : Nat) : (s.w1c f i m).marks = s.marks := rfl
@[simp] theorem State.w1c_counters (f : Field) (i : Ix) (m : Nat) : (s.w1c f i m).counters = s.counters := rfl
@[simp] theorem State.w1c_pins (f : Field) (i : Ix) (m : Nat) : (s.w1c f i m).pins = s.pins := rfl
@[simp] theorem State.w1c_criers (f : Field) (i : Ix) (m : Nat) : (s.w1c f i m).criers = s.criers := rfl
@[simp] theorem State.w1c_crWas (f : Field) (i : Ix) (m : Nat) : (s.w1c f i m).crWas = s.crWas := rfl
@[simp] theorem State.w1c_crDid (f : Field) (i : Ix) (m : Nat) : (s.w1c f i m).crDid = s.crDid := rfl
@[simp] theorem State.w1c_barrows (f : Field) (i : Ix) (m : Nat) : (s.w1c f i m).barrows = s.barrows := rfl
@[simp] theorem State.w1c_lanes (f : Field) (i : Ix) (m : Nat) : (s.w1c f i m).lanes = s.lanes := rfl
@[simp] theorem State.w1c_threads (f : Field) (i : Ix) (m : Nat) : (s.w1c f i m).threads = s.threads := rfl
@[simp] theorem State.w1c_chans (f : Field) (i : Ix) (m : Nat) : (s.w1c f i m).chans = s.chans := rfl
@[simp] theorem State.w1c_slots (f : Field) (i : Ix) (m : Nat) : (s.w1c f i m).slots = s.slots := rfl
@[simp] theorem State.w1c_cartTurn (f : Field) (i : Ix) (m : Nat) : (s.w1c f i m).cartTurn = s.cartTurn := rfl
@[simp] theorem State.w1c_calibs (f : Field) (i : Ix) (m : Nat) : (s.w1c f i m).calibs = s.calibs := rfl
@[simp] theorem State.w1c_wind (f : Field) (i : Ix) (m : Nat) : (s.w1c f i m).wind = s.wind := rfl
@[simp] theorem State.w1c_traders (f : Field) (i : Ix) (m : Nat) : (s.w1c f i m).traders = s.traders := rfl
@[simp] theorem State.w1c_stalls (f : Field) (i : Ix) (m : Nat) : (s.w1c f i m).stalls = s.stalls := rfl
@[simp] theorem State.w1c_stallSlot (f : Field) (i : Ix) (m : Nat) : (s.w1c f i m).stallSlot = s.stallSlot := rfl
@[simp] theorem State.w1c_deliveries (f : Field) (i : Ix) (m : Nat) : (s.w1c f i m).deliveries = s.deliveries := rfl
@[simp] theorem State.w1c_edgeActs (f : Field) (i : Ix) (m : Nat) : (s.w1c f i m).edgeActs = s.edgeActs := rfl
@[simp] theorem State.w1c_tokens (f : Field) (i : Ix) (m : Nat) : (s.w1c f i m).tokens = s.tokens := rfl
@[simp] theorem State.w1c_hostPops (f : Field) (i : Ix) (m : Nat) : (s.w1c f i m).hostPops = s.hostPops := rfl
@[simp] theorem State.w1c_deferred (f : Field) (i : Ix) (m : Nat) : (s.w1c f i m).deferred = s.deferred := rfl
@[simp] theorem State.w1c_chits (f : Field) (i : Ix) (m : Nat) : (s.w1c f i m).chits = s.chits := rfl
@[simp] theorem State.w1c_reqs (f : Field) (i : Ix) (m : Nat) : (s.w1c f i m).reqs = s.reqs := rfl
@[simp] theorem State.w1c_arrived (f : Field) (i : Ix) (m : Nat) : (s.w1c f i m).arrived = s.arrived := rfl
@[simp] theorem State.w1c_nextReq (f : Field) (i : Ix) (m : Nat) : (s.w1c f i m).nextReq = s.nextReq := rfl
@[simp] theorem State.w1c_pathArb (f : Field) (i : Ix) (m : Nat) : (s.w1c f i m).pathArb = s.pathArb := rfl
@[simp] theorem State.w1c_portArb (f : Field) (i : Ix) (m : Nat) : (s.w1c f i m).portArb = s.portArb := rfl
@[simp] theorem State.w1c_atomArb (f : Field) (i : Ix) (m : Nat) : (s.w1c f i m).atomArb = s.atomArb := rfl
@[simp] theorem State.w1c_agentWait (f : Field) (i : Ix) (m : Nat) : (s.w1c f i m).agentWait = s.agentWait := rfl
@[simp] theorem State.w1c_orderTurn (f : Field) (i : Ix) (m : Nat) : (s.w1c f i m).orderTurn = s.orderTurn := rfl
@[simp] theorem State.w1c_jobs (f : Field) (i : Ix) (m : Nat) : (s.w1c f i m).jobs = s.jobs := rfl
@[simp] theorem State.w1c_jobSeq (f : Field) (i : Ix) (m : Nat) : (s.w1c f i m).jobSeq = s.jobSeq := rfl
@[simp] theorem State.w1c_images (f : Field) (i : Ix) (m : Nat) : (s.w1c f i m).images = s.images := rfl
@[simp] theorem State.w1c_swaps (f : Field) (i : Ix) (m : Nat) : (s.w1c f i m).swaps = s.swaps := rfl
@[simp] theorem State.w1c_failovers (f : Field) (i : Ix) (m : Nat) : (s.w1c f i m).failovers = s.failovers := rfl
@[simp] theorem State.w1c_held (f : Field) (i : Ix) (m : Nat) : (s.w1c f i m).held = s.held := rfl
@[simp] theorem State.w1c_windDefault (f : Field) (i : Ix) (m : Nat) : (s.w1c f i m).windDefault = s.windDefault := rfl
@[simp] theorem State.w1c_patches (f : Field) (i : Ix) (m : Nat) : (s.w1c f i m).patches = s.patches := rfl
@[simp] theorem State.w1c_power (f : Field) (i : Ix) (m : Nat) : (s.w1c f i m).power = s.power := rfl
@[simp] theorem State.w1c_dbg (f : Field) (i : Ix) (m : Nat) : (s.w1c f i m).dbg = s.dbg := rfl
@[simp] theorem State.w1c_faults (f : Field) (i : Ix) (m : Nat) : (s.w1c f i m).faults = s.faults := rfl
@[simp] theorem State.w1c_corrTold (f : Field) (i : Ix) (m : Nat) : (s.w1c f i m).corrTold = s.corrTold := rfl
@[simp] theorem State.w1c_ports (f : Field) (i : Ix) (m : Nat) : (s.w1c f i m).ports = s.ports := rfl
@[simp] theorem State.w1c_readOut (f : Field) (i : Ix) (m : Nat) : (s.w1c f i m).readOut = s.readOut := rfl
@[simp] theorem State.w1c_readData (f : Field) (i : Ix) (m : Nat) : (s.w1c f i m).readData = s.readData := rfl
@[simp] theorem State.w1c_readErr (f : Field) (i : Ix) (m : Nat) : (s.w1c f i m).readErr = s.readErr := rfl
@[simp] theorem State.w1c_freeIx (f : Field) (i : Ix) (m : Nat) : (s.w1c f i m).freeIx = s.freeIx := rfl
@[simp] theorem State.w1c_pending (f : Field) (i : Ix) (m : Nat) : (s.w1c f i m).pending = s.pending := rfl
@[simp] theorem State.w1c_axis (f : Field) (i : Ix) (m : Nat) (n' : Nat) : (s.w1c f i m).axis n' = s.axis n' := rfl
@[simp] theorem State.w1c_mark (f : Field) (i : Ix) (m : Nat) (h' m' : Nat) : (s.w1c f i m).mark h' m' = s.mark h' m' := rfl
@[simp] theorem State.w1c_counter (f : Field) (i : Ix) (m : Nat) (h' c' : Nat) : (s.w1c f i m).counter h' c' = s.counter h' c' := rfl
@[simp] theorem State.w1c_pin (f : Field) (i : Ix) (m : Nat) (h' i' : Nat) : (s.w1c f i m).pin h' i' = s.pin h' i' := rfl
@[simp] theorem State.w1c_trader (f : Field) (i : Ix) (m : Nat) (t' : TraderId) : (s.w1c f i m).trader t' = s.trader t' := rfl
@[simp] theorem State.w1c_stall (f : Field) (i : Ix) (m : Nat) (h' n' : Nat) : (s.w1c f i m).stall h' n' = s.stall h' n' := rfl
@[simp] theorem State.w1c_crier (f : Field) (i : Ix) (m : Nat) (c' : CrierId) : (s.w1c f i m).crier c' = s.crier c' := rfl
@[simp] theorem State.w1c_barrow (f : Field) (i : Ix) (m : Nat) (h' b' : Nat) : (s.w1c f i m).barrow h' b' = s.barrow h' b' := rfl
@[simp] theorem State.w1c_lane (f : Field) (i : Ix) (m : Nat) (h' k' : Nat) : (s.w1c f i m).lane h' k' = s.lane h' k' := rfl
@[simp] theorem State.w1c_thread (f : Field) (i : Ix) (m : Nat) (h' k' th' : Nat) : (s.w1c f i m).thread h' k' th' = s.thread h' k' th' := rfl
@[simp] theorem State.w1c_byte (f : Field) (i : Ix) (m : Nat) (arr : Arr) (x : Nat) : (s.w1c f i m).byte arr x = s.byte arr x := rfl
@[simp] theorem State.w1c_bytesAt (f : Field) (i : Ix) (m : Nat) (arr : Arr) (x n' : Nat) : (s.w1c f i m).bytesAt arr x n' = s.bytesAt arr x n' := rfl
@[simp] theorem State.w1c_natAt (f : Field) (i : Ix) (m : Nat) (arr : Arr) (x n' : Nat) : (s.w1c f i m).natAt arr x n' = s.natAt arr x n' := rfl
@[simp] theorem State.w1c_job (f : Field) (i : Ix) (m : Nat) (n' : Nat) : (s.w1c f i m).job n' = s.job n' := rfl

/-! ### `State.w1s` -/

@[simp] theorem State.w1s_part (f : Field) (i : Ix) (m : Nat) : (s.w1s f i m).part = s.part := rfl
@[simp] theorem State.w1s_tick (f : Field) (i : Ix) (m : Nat) : (s.w1s f i m).tick = s.tick := rfl
@[simp] theorem State.w1s_till (f : Field) (i : Ix) (m : Nat) : (s.w1s f i m).till = s.till := rfl
@[simp] theorem State.w1s_hwSet (f : Field) (i : Ix) (m : Nat) : (s.w1s f i m).hwSet = s.hwSet := rfl
@[simp] theorem State.w1s_mem (f : Field) (i : Ix) (m : Nat) : (s.w1s f i m).mem = s.mem := rfl
@[simp] theorem State.w1s_ecc (f : Field) (i : Ix) (m : Nat) : (s.w1s f i m).ecc = s.ecc := rfl
@[simp] theorem State.w1s_axes (f : Field) (i : Ix) (m : Nat) : (s.w1s f i m).axes = s.axes := rfl
@[simp] theorem State.w1s_marks (f : Field) (i : Ix) (m : Nat) : (s.w1s f i m).marks = s.marks := rfl
@[simp] theorem State.w1s_counters (f : Field) (i : Ix) (m : Nat) : (s.w1s f i m).counters = s.counters := rfl
@[simp] theorem State.w1s_pins (f : Field) (i : Ix) (m : Nat) : (s.w1s f i m).pins = s.pins := rfl
@[simp] theorem State.w1s_criers (f : Field) (i : Ix) (m : Nat) : (s.w1s f i m).criers = s.criers := rfl
@[simp] theorem State.w1s_crWas (f : Field) (i : Ix) (m : Nat) : (s.w1s f i m).crWas = s.crWas := rfl
@[simp] theorem State.w1s_crDid (f : Field) (i : Ix) (m : Nat) : (s.w1s f i m).crDid = s.crDid := rfl
@[simp] theorem State.w1s_barrows (f : Field) (i : Ix) (m : Nat) : (s.w1s f i m).barrows = s.barrows := rfl
@[simp] theorem State.w1s_lanes (f : Field) (i : Ix) (m : Nat) : (s.w1s f i m).lanes = s.lanes := rfl
@[simp] theorem State.w1s_threads (f : Field) (i : Ix) (m : Nat) : (s.w1s f i m).threads = s.threads := rfl
@[simp] theorem State.w1s_chans (f : Field) (i : Ix) (m : Nat) : (s.w1s f i m).chans = s.chans := rfl
@[simp] theorem State.w1s_slots (f : Field) (i : Ix) (m : Nat) : (s.w1s f i m).slots = s.slots := rfl
@[simp] theorem State.w1s_cartTurn (f : Field) (i : Ix) (m : Nat) : (s.w1s f i m).cartTurn = s.cartTurn := rfl
@[simp] theorem State.w1s_calibs (f : Field) (i : Ix) (m : Nat) : (s.w1s f i m).calibs = s.calibs := rfl
@[simp] theorem State.w1s_wind (f : Field) (i : Ix) (m : Nat) : (s.w1s f i m).wind = s.wind := rfl
@[simp] theorem State.w1s_traders (f : Field) (i : Ix) (m : Nat) : (s.w1s f i m).traders = s.traders := rfl
@[simp] theorem State.w1s_stalls (f : Field) (i : Ix) (m : Nat) : (s.w1s f i m).stalls = s.stalls := rfl
@[simp] theorem State.w1s_stallSlot (f : Field) (i : Ix) (m : Nat) : (s.w1s f i m).stallSlot = s.stallSlot := rfl
@[simp] theorem State.w1s_deliveries (f : Field) (i : Ix) (m : Nat) : (s.w1s f i m).deliveries = s.deliveries := rfl
@[simp] theorem State.w1s_edgeActs (f : Field) (i : Ix) (m : Nat) : (s.w1s f i m).edgeActs = s.edgeActs := rfl
@[simp] theorem State.w1s_tokens (f : Field) (i : Ix) (m : Nat) : (s.w1s f i m).tokens = s.tokens := rfl
@[simp] theorem State.w1s_hostPops (f : Field) (i : Ix) (m : Nat) : (s.w1s f i m).hostPops = s.hostPops := rfl
@[simp] theorem State.w1s_deferred (f : Field) (i : Ix) (m : Nat) : (s.w1s f i m).deferred = s.deferred := rfl
@[simp] theorem State.w1s_chits (f : Field) (i : Ix) (m : Nat) : (s.w1s f i m).chits = s.chits := rfl
@[simp] theorem State.w1s_reqs (f : Field) (i : Ix) (m : Nat) : (s.w1s f i m).reqs = s.reqs := rfl
@[simp] theorem State.w1s_arrived (f : Field) (i : Ix) (m : Nat) : (s.w1s f i m).arrived = s.arrived := rfl
@[simp] theorem State.w1s_nextReq (f : Field) (i : Ix) (m : Nat) : (s.w1s f i m).nextReq = s.nextReq := rfl
@[simp] theorem State.w1s_pathArb (f : Field) (i : Ix) (m : Nat) : (s.w1s f i m).pathArb = s.pathArb := rfl
@[simp] theorem State.w1s_portArb (f : Field) (i : Ix) (m : Nat) : (s.w1s f i m).portArb = s.portArb := rfl
@[simp] theorem State.w1s_atomArb (f : Field) (i : Ix) (m : Nat) : (s.w1s f i m).atomArb = s.atomArb := rfl
@[simp] theorem State.w1s_agentWait (f : Field) (i : Ix) (m : Nat) : (s.w1s f i m).agentWait = s.agentWait := rfl
@[simp] theorem State.w1s_orderTurn (f : Field) (i : Ix) (m : Nat) : (s.w1s f i m).orderTurn = s.orderTurn := rfl
@[simp] theorem State.w1s_jobs (f : Field) (i : Ix) (m : Nat) : (s.w1s f i m).jobs = s.jobs := rfl
@[simp] theorem State.w1s_jobSeq (f : Field) (i : Ix) (m : Nat) : (s.w1s f i m).jobSeq = s.jobSeq := rfl
@[simp] theorem State.w1s_images (f : Field) (i : Ix) (m : Nat) : (s.w1s f i m).images = s.images := rfl
@[simp] theorem State.w1s_swaps (f : Field) (i : Ix) (m : Nat) : (s.w1s f i m).swaps = s.swaps := rfl
@[simp] theorem State.w1s_failovers (f : Field) (i : Ix) (m : Nat) : (s.w1s f i m).failovers = s.failovers := rfl
@[simp] theorem State.w1s_held (f : Field) (i : Ix) (m : Nat) : (s.w1s f i m).held = s.held := rfl
@[simp] theorem State.w1s_windDefault (f : Field) (i : Ix) (m : Nat) : (s.w1s f i m).windDefault = s.windDefault := rfl
@[simp] theorem State.w1s_patches (f : Field) (i : Ix) (m : Nat) : (s.w1s f i m).patches = s.patches := rfl
@[simp] theorem State.w1s_power (f : Field) (i : Ix) (m : Nat) : (s.w1s f i m).power = s.power := rfl
@[simp] theorem State.w1s_dbg (f : Field) (i : Ix) (m : Nat) : (s.w1s f i m).dbg = s.dbg := rfl
@[simp] theorem State.w1s_faults (f : Field) (i : Ix) (m : Nat) : (s.w1s f i m).faults = s.faults := rfl
@[simp] theorem State.w1s_corrTold (f : Field) (i : Ix) (m : Nat) : (s.w1s f i m).corrTold = s.corrTold := rfl
@[simp] theorem State.w1s_ports (f : Field) (i : Ix) (m : Nat) : (s.w1s f i m).ports = s.ports := rfl
@[simp] theorem State.w1s_readOut (f : Field) (i : Ix) (m : Nat) : (s.w1s f i m).readOut = s.readOut := rfl
@[simp] theorem State.w1s_readData (f : Field) (i : Ix) (m : Nat) : (s.w1s f i m).readData = s.readData := rfl
@[simp] theorem State.w1s_readErr (f : Field) (i : Ix) (m : Nat) : (s.w1s f i m).readErr = s.readErr := rfl
@[simp] theorem State.w1s_freeIx (f : Field) (i : Ix) (m : Nat) : (s.w1s f i m).freeIx = s.freeIx := rfl
@[simp] theorem State.w1s_pending (f : Field) (i : Ix) (m : Nat) : (s.w1s f i m).pending = s.pending := rfl
@[simp] theorem State.w1s_axis (f : Field) (i : Ix) (m : Nat) (n' : Nat) : (s.w1s f i m).axis n' = s.axis n' := rfl
@[simp] theorem State.w1s_mark (f : Field) (i : Ix) (m : Nat) (h' m' : Nat) : (s.w1s f i m).mark h' m' = s.mark h' m' := rfl
@[simp] theorem State.w1s_counter (f : Field) (i : Ix) (m : Nat) (h' c' : Nat) : (s.w1s f i m).counter h' c' = s.counter h' c' := rfl
@[simp] theorem State.w1s_pin (f : Field) (i : Ix) (m : Nat) (h' i' : Nat) : (s.w1s f i m).pin h' i' = s.pin h' i' := rfl
@[simp] theorem State.w1s_trader (f : Field) (i : Ix) (m : Nat) (t' : TraderId) : (s.w1s f i m).trader t' = s.trader t' := rfl
@[simp] theorem State.w1s_stall (f : Field) (i : Ix) (m : Nat) (h' n' : Nat) : (s.w1s f i m).stall h' n' = s.stall h' n' := rfl
@[simp] theorem State.w1s_crier (f : Field) (i : Ix) (m : Nat) (c' : CrierId) : (s.w1s f i m).crier c' = s.crier c' := rfl
@[simp] theorem State.w1s_barrow (f : Field) (i : Ix) (m : Nat) (h' b' : Nat) : (s.w1s f i m).barrow h' b' = s.barrow h' b' := rfl
@[simp] theorem State.w1s_lane (f : Field) (i : Ix) (m : Nat) (h' k' : Nat) : (s.w1s f i m).lane h' k' = s.lane h' k' := rfl
@[simp] theorem State.w1s_thread (f : Field) (i : Ix) (m : Nat) (h' k' th' : Nat) : (s.w1s f i m).thread h' k' th' = s.thread h' k' th' := rfl
@[simp] theorem State.w1s_byte (f : Field) (i : Ix) (m : Nat) (arr : Arr) (x : Nat) : (s.w1s f i m).byte arr x = s.byte arr x := rfl
@[simp] theorem State.w1s_bytesAt (f : Field) (i : Ix) (m : Nat) (arr : Arr) (x n' : Nat) : (s.w1s f i m).bytesAt arr x n' = s.bytesAt arr x n' := rfl
@[simp] theorem State.w1s_natAt (f : Field) (i : Ix) (m : Nat) (arr : Arr) (x n' : Nat) : (s.w1s f i m).natAt arr x n' = s.natAt arr x n' := rfl
@[simp] theorem State.w1s_job (f : Field) (i : Ix) (m : Nat) (n' : Nat) : (s.w1s f i m).job n' = s.job n' := rfl

/-! ### `State.clrIn` -/

@[simp] theorem State.clrIn_part (f : Field) (i : Ix) (m : Nat) : (s.clrIn f i m).part = s.part := rfl
@[simp] theorem State.clrIn_tick (f : Field) (i : Ix) (m : Nat) : (s.clrIn f i m).tick = s.tick := rfl
@[simp] theorem State.clrIn_till (f : Field) (i : Ix) (m : Nat) : (s.clrIn f i m).till = s.till := rfl
@[simp] theorem State.clrIn_hwSet (f : Field) (i : Ix) (m : Nat) : (s.clrIn f i m).hwSet = s.hwSet := rfl
@[simp] theorem State.clrIn_swSet (f : Field) (i : Ix) (m : Nat) : (s.clrIn f i m).swSet = s.swSet := rfl
@[simp] theorem State.clrIn_mem (f : Field) (i : Ix) (m : Nat) : (s.clrIn f i m).mem = s.mem := rfl
@[simp] theorem State.clrIn_ecc (f : Field) (i : Ix) (m : Nat) : (s.clrIn f i m).ecc = s.ecc := rfl
@[simp] theorem State.clrIn_axes (f : Field) (i : Ix) (m : Nat) : (s.clrIn f i m).axes = s.axes := rfl
@[simp] theorem State.clrIn_marks (f : Field) (i : Ix) (m : Nat) : (s.clrIn f i m).marks = s.marks := rfl
@[simp] theorem State.clrIn_counters (f : Field) (i : Ix) (m : Nat) : (s.clrIn f i m).counters = s.counters := rfl
@[simp] theorem State.clrIn_pins (f : Field) (i : Ix) (m : Nat) : (s.clrIn f i m).pins = s.pins := rfl
@[simp] theorem State.clrIn_criers (f : Field) (i : Ix) (m : Nat) : (s.clrIn f i m).criers = s.criers := rfl
@[simp] theorem State.clrIn_crWas (f : Field) (i : Ix) (m : Nat) : (s.clrIn f i m).crWas = s.crWas := rfl
@[simp] theorem State.clrIn_crDid (f : Field) (i : Ix) (m : Nat) : (s.clrIn f i m).crDid = s.crDid := rfl
@[simp] theorem State.clrIn_barrows (f : Field) (i : Ix) (m : Nat) : (s.clrIn f i m).barrows = s.barrows := rfl
@[simp] theorem State.clrIn_lanes (f : Field) (i : Ix) (m : Nat) : (s.clrIn f i m).lanes = s.lanes := rfl
@[simp] theorem State.clrIn_threads (f : Field) (i : Ix) (m : Nat) : (s.clrIn f i m).threads = s.threads := rfl
@[simp] theorem State.clrIn_chans (f : Field) (i : Ix) (m : Nat) : (s.clrIn f i m).chans = s.chans := rfl
@[simp] theorem State.clrIn_slots (f : Field) (i : Ix) (m : Nat) : (s.clrIn f i m).slots = s.slots := rfl
@[simp] theorem State.clrIn_cartTurn (f : Field) (i : Ix) (m : Nat) : (s.clrIn f i m).cartTurn = s.cartTurn := rfl
@[simp] theorem State.clrIn_calibs (f : Field) (i : Ix) (m : Nat) : (s.clrIn f i m).calibs = s.calibs := rfl
@[simp] theorem State.clrIn_wind (f : Field) (i : Ix) (m : Nat) : (s.clrIn f i m).wind = s.wind := rfl
@[simp] theorem State.clrIn_traders (f : Field) (i : Ix) (m : Nat) : (s.clrIn f i m).traders = s.traders := rfl
@[simp] theorem State.clrIn_stalls (f : Field) (i : Ix) (m : Nat) : (s.clrIn f i m).stalls = s.stalls := rfl
@[simp] theorem State.clrIn_stallSlot (f : Field) (i : Ix) (m : Nat) : (s.clrIn f i m).stallSlot = s.stallSlot := rfl
@[simp] theorem State.clrIn_deliveries (f : Field) (i : Ix) (m : Nat) : (s.clrIn f i m).deliveries = s.deliveries := rfl
@[simp] theorem State.clrIn_edgeActs (f : Field) (i : Ix) (m : Nat) : (s.clrIn f i m).edgeActs = s.edgeActs := rfl
@[simp] theorem State.clrIn_tokens (f : Field) (i : Ix) (m : Nat) : (s.clrIn f i m).tokens = s.tokens := rfl
@[simp] theorem State.clrIn_hostPops (f : Field) (i : Ix) (m : Nat) : (s.clrIn f i m).hostPops = s.hostPops := rfl
@[simp] theorem State.clrIn_deferred (f : Field) (i : Ix) (m : Nat) : (s.clrIn f i m).deferred = s.deferred := rfl
@[simp] theorem State.clrIn_chits (f : Field) (i : Ix) (m : Nat) : (s.clrIn f i m).chits = s.chits := rfl
@[simp] theorem State.clrIn_reqs (f : Field) (i : Ix) (m : Nat) : (s.clrIn f i m).reqs = s.reqs := rfl
@[simp] theorem State.clrIn_arrived (f : Field) (i : Ix) (m : Nat) : (s.clrIn f i m).arrived = s.arrived := rfl
@[simp] theorem State.clrIn_nextReq (f : Field) (i : Ix) (m : Nat) : (s.clrIn f i m).nextReq = s.nextReq := rfl
@[simp] theorem State.clrIn_pathArb (f : Field) (i : Ix) (m : Nat) : (s.clrIn f i m).pathArb = s.pathArb := rfl
@[simp] theorem State.clrIn_portArb (f : Field) (i : Ix) (m : Nat) : (s.clrIn f i m).portArb = s.portArb := rfl
@[simp] theorem State.clrIn_atomArb (f : Field) (i : Ix) (m : Nat) : (s.clrIn f i m).atomArb = s.atomArb := rfl
@[simp] theorem State.clrIn_agentWait (f : Field) (i : Ix) (m : Nat) : (s.clrIn f i m).agentWait = s.agentWait := rfl
@[simp] theorem State.clrIn_orderTurn (f : Field) (i : Ix) (m : Nat) : (s.clrIn f i m).orderTurn = s.orderTurn := rfl
@[simp] theorem State.clrIn_jobs (f : Field) (i : Ix) (m : Nat) : (s.clrIn f i m).jobs = s.jobs := rfl
@[simp] theorem State.clrIn_jobSeq (f : Field) (i : Ix) (m : Nat) : (s.clrIn f i m).jobSeq = s.jobSeq := rfl
@[simp] theorem State.clrIn_images (f : Field) (i : Ix) (m : Nat) : (s.clrIn f i m).images = s.images := rfl
@[simp] theorem State.clrIn_swaps (f : Field) (i : Ix) (m : Nat) : (s.clrIn f i m).swaps = s.swaps := rfl
@[simp] theorem State.clrIn_failovers (f : Field) (i : Ix) (m : Nat) : (s.clrIn f i m).failovers = s.failovers := rfl
@[simp] theorem State.clrIn_held (f : Field) (i : Ix) (m : Nat) : (s.clrIn f i m).held = s.held := rfl
@[simp] theorem State.clrIn_windDefault (f : Field) (i : Ix) (m : Nat) : (s.clrIn f i m).windDefault = s.windDefault := rfl
@[simp] theorem State.clrIn_patches (f : Field) (i : Ix) (m : Nat) : (s.clrIn f i m).patches = s.patches := rfl
@[simp] theorem State.clrIn_power (f : Field) (i : Ix) (m : Nat) : (s.clrIn f i m).power = s.power := rfl
@[simp] theorem State.clrIn_dbg (f : Field) (i : Ix) (m : Nat) : (s.clrIn f i m).dbg = s.dbg := rfl
@[simp] theorem State.clrIn_faults (f : Field) (i : Ix) (m : Nat) : (s.clrIn f i m).faults = s.faults := rfl
@[simp] theorem State.clrIn_corrTold (f : Field) (i : Ix) (m : Nat) : (s.clrIn f i m).corrTold = s.corrTold := rfl
@[simp] theorem State.clrIn_ports (f : Field) (i : Ix) (m : Nat) : (s.clrIn f i m).ports = s.ports := rfl
@[simp] theorem State.clrIn_readOut (f : Field) (i : Ix) (m : Nat) : (s.clrIn f i m).readOut = s.readOut := rfl
@[simp] theorem State.clrIn_readData (f : Field) (i : Ix) (m : Nat) : (s.clrIn f i m).readData = s.readData := rfl
@[simp] theorem State.clrIn_readErr (f : Field) (i : Ix) (m : Nat) : (s.clrIn f i m).readErr = s.readErr := rfl
@[simp] theorem State.clrIn_freeIx (f : Field) (i : Ix) (m : Nat) : (s.clrIn f i m).freeIx = s.freeIx := rfl
@[simp] theorem State.clrIn_pending (f : Field) (i : Ix) (m : Nat) : (s.clrIn f i m).pending = s.pending := rfl
@[simp] theorem State.clrIn_axis (f : Field) (i : Ix) (m : Nat) (n' : Nat) : (s.clrIn f i m).axis n' = s.axis n' := rfl
@[simp] theorem State.clrIn_mark (f : Field) (i : Ix) (m : Nat) (h' m' : Nat) : (s.clrIn f i m).mark h' m' = s.mark h' m' := rfl
@[simp] theorem State.clrIn_counter (f : Field) (i : Ix) (m : Nat) (h' c' : Nat) : (s.clrIn f i m).counter h' c' = s.counter h' c' := rfl
@[simp] theorem State.clrIn_pin (f : Field) (i : Ix) (m : Nat) (h' i' : Nat) : (s.clrIn f i m).pin h' i' = s.pin h' i' := rfl
@[simp] theorem State.clrIn_trader (f : Field) (i : Ix) (m : Nat) (t' : TraderId) : (s.clrIn f i m).trader t' = s.trader t' := rfl
@[simp] theorem State.clrIn_stall (f : Field) (i : Ix) (m : Nat) (h' n' : Nat) : (s.clrIn f i m).stall h' n' = s.stall h' n' := rfl
@[simp] theorem State.clrIn_crier (f : Field) (i : Ix) (m : Nat) (c' : CrierId) : (s.clrIn f i m).crier c' = s.crier c' := rfl
@[simp] theorem State.clrIn_barrow (f : Field) (i : Ix) (m : Nat) (h' b' : Nat) : (s.clrIn f i m).barrow h' b' = s.barrow h' b' := rfl
@[simp] theorem State.clrIn_lane (f : Field) (i : Ix) (m : Nat) (h' k' : Nat) : (s.clrIn f i m).lane h' k' = s.lane h' k' := rfl
@[simp] theorem State.clrIn_thread (f : Field) (i : Ix) (m : Nat) (h' k' th' : Nat) : (s.clrIn f i m).thread h' k' th' = s.thread h' k' th' := rfl
@[simp] theorem State.clrIn_byte (f : Field) (i : Ix) (m : Nat) (arr : Arr) (x : Nat) : (s.clrIn f i m).byte arr x = s.byte arr x := rfl
@[simp] theorem State.clrIn_bytesAt (f : Field) (i : Ix) (m : Nat) (arr : Arr) (x n' : Nat) : (s.clrIn f i m).bytesAt arr x n' = s.bytesAt arr x n' := rfl
@[simp] theorem State.clrIn_natAt (f : Field) (i : Ix) (m : Nat) (arr : Arr) (x n' : Nat) : (s.clrIn f i m).natAt arr x n' = s.natAt arr x n' := rfl
@[simp] theorem State.clrIn_job (f : Field) (i : Ix) (m : Nat) (n' : Nat) : (s.clrIn f i m).job n' = s.job n' := rfl

/-! ### `State.count` -/

@[simp] theorem State.count_part (f : Field) (i : Ix) (n : Nat) : (s.count f i n).part = s.part := rfl
@[simp] theorem State.count_tick (f : Field) (i : Ix) (n : Nat) : (s.count f i n).tick = s.tick := rfl
@[simp] theorem State.count_till (f : Field) (i : Ix) (n : Nat) : (s.count f i n).till = s.till := rfl
@[simp] theorem State.count_hwSet (f : Field) (i : Ix) (n : Nat) : (s.count f i n).hwSet = s.hwSet := rfl
@[simp] theorem State.count_swSet (f : Field) (i : Ix) (n : Nat) : (s.count f i n).swSet = s.swSet := rfl
@[simp] theorem State.count_mem (f : Field) (i : Ix) (n : Nat) : (s.count f i n).mem = s.mem := rfl
@[simp] theorem State.count_ecc (f : Field) (i : Ix) (n : Nat) : (s.count f i n).ecc = s.ecc := rfl
@[simp] theorem State.count_axes (f : Field) (i : Ix) (n : Nat) : (s.count f i n).axes = s.axes := rfl
@[simp] theorem State.count_marks (f : Field) (i : Ix) (n : Nat) : (s.count f i n).marks = s.marks := rfl
@[simp] theorem State.count_counters (f : Field) (i : Ix) (n : Nat) : (s.count f i n).counters = s.counters := rfl
@[simp] theorem State.count_pins (f : Field) (i : Ix) (n : Nat) : (s.count f i n).pins = s.pins := rfl
@[simp] theorem State.count_criers (f : Field) (i : Ix) (n : Nat) : (s.count f i n).criers = s.criers := rfl
@[simp] theorem State.count_crWas (f : Field) (i : Ix) (n : Nat) : (s.count f i n).crWas = s.crWas := rfl
@[simp] theorem State.count_crDid (f : Field) (i : Ix) (n : Nat) : (s.count f i n).crDid = s.crDid := rfl
@[simp] theorem State.count_barrows (f : Field) (i : Ix) (n : Nat) : (s.count f i n).barrows = s.barrows := rfl
@[simp] theorem State.count_lanes (f : Field) (i : Ix) (n : Nat) : (s.count f i n).lanes = s.lanes := rfl
@[simp] theorem State.count_threads (f : Field) (i : Ix) (n : Nat) : (s.count f i n).threads = s.threads := rfl
@[simp] theorem State.count_chans (f : Field) (i : Ix) (n : Nat) : (s.count f i n).chans = s.chans := rfl
@[simp] theorem State.count_slots (f : Field) (i : Ix) (n : Nat) : (s.count f i n).slots = s.slots := rfl
@[simp] theorem State.count_cartTurn (f : Field) (i : Ix) (n : Nat) : (s.count f i n).cartTurn = s.cartTurn := rfl
@[simp] theorem State.count_calibs (f : Field) (i : Ix) (n : Nat) : (s.count f i n).calibs = s.calibs := rfl
@[simp] theorem State.count_wind (f : Field) (i : Ix) (n : Nat) : (s.count f i n).wind = s.wind := rfl
@[simp] theorem State.count_traders (f : Field) (i : Ix) (n : Nat) : (s.count f i n).traders = s.traders := rfl
@[simp] theorem State.count_stalls (f : Field) (i : Ix) (n : Nat) : (s.count f i n).stalls = s.stalls := rfl
@[simp] theorem State.count_stallSlot (f : Field) (i : Ix) (n : Nat) : (s.count f i n).stallSlot = s.stallSlot := rfl
@[simp] theorem State.count_deliveries (f : Field) (i : Ix) (n : Nat) : (s.count f i n).deliveries = s.deliveries := rfl
@[simp] theorem State.count_edgeActs (f : Field) (i : Ix) (n : Nat) : (s.count f i n).edgeActs = s.edgeActs := rfl
@[simp] theorem State.count_tokens (f : Field) (i : Ix) (n : Nat) : (s.count f i n).tokens = s.tokens := rfl
@[simp] theorem State.count_hostPops (f : Field) (i : Ix) (n : Nat) : (s.count f i n).hostPops = s.hostPops := rfl
@[simp] theorem State.count_deferred (f : Field) (i : Ix) (n : Nat) : (s.count f i n).deferred = s.deferred := rfl
@[simp] theorem State.count_chits (f : Field) (i : Ix) (n : Nat) : (s.count f i n).chits = s.chits := rfl
@[simp] theorem State.count_reqs (f : Field) (i : Ix) (n : Nat) : (s.count f i n).reqs = s.reqs := rfl
@[simp] theorem State.count_arrived (f : Field) (i : Ix) (n : Nat) : (s.count f i n).arrived = s.arrived := rfl
@[simp] theorem State.count_nextReq (f : Field) (i : Ix) (n : Nat) : (s.count f i n).nextReq = s.nextReq := rfl
@[simp] theorem State.count_pathArb (f : Field) (i : Ix) (n : Nat) : (s.count f i n).pathArb = s.pathArb := rfl
@[simp] theorem State.count_portArb (f : Field) (i : Ix) (n : Nat) : (s.count f i n).portArb = s.portArb := rfl
@[simp] theorem State.count_atomArb (f : Field) (i : Ix) (n : Nat) : (s.count f i n).atomArb = s.atomArb := rfl
@[simp] theorem State.count_agentWait (f : Field) (i : Ix) (n : Nat) : (s.count f i n).agentWait = s.agentWait := rfl
@[simp] theorem State.count_orderTurn (f : Field) (i : Ix) (n : Nat) : (s.count f i n).orderTurn = s.orderTurn := rfl
@[simp] theorem State.count_jobs (f : Field) (i : Ix) (n : Nat) : (s.count f i n).jobs = s.jobs := rfl
@[simp] theorem State.count_jobSeq (f : Field) (i : Ix) (n : Nat) : (s.count f i n).jobSeq = s.jobSeq := rfl
@[simp] theorem State.count_images (f : Field) (i : Ix) (n : Nat) : (s.count f i n).images = s.images := rfl
@[simp] theorem State.count_swaps (f : Field) (i : Ix) (n : Nat) : (s.count f i n).swaps = s.swaps := rfl
@[simp] theorem State.count_failovers (f : Field) (i : Ix) (n : Nat) : (s.count f i n).failovers = s.failovers := rfl
@[simp] theorem State.count_held (f : Field) (i : Ix) (n : Nat) : (s.count f i n).held = s.held := rfl
@[simp] theorem State.count_windDefault (f : Field) (i : Ix) (n : Nat) : (s.count f i n).windDefault = s.windDefault := rfl
@[simp] theorem State.count_patches (f : Field) (i : Ix) (n : Nat) : (s.count f i n).patches = s.patches := rfl
@[simp] theorem State.count_power (f : Field) (i : Ix) (n : Nat) : (s.count f i n).power = s.power := rfl
@[simp] theorem State.count_dbg (f : Field) (i : Ix) (n : Nat) : (s.count f i n).dbg = s.dbg := rfl
@[simp] theorem State.count_faults (f : Field) (i : Ix) (n : Nat) : (s.count f i n).faults = s.faults := rfl
@[simp] theorem State.count_corrTold (f : Field) (i : Ix) (n : Nat) : (s.count f i n).corrTold = s.corrTold := rfl
@[simp] theorem State.count_ports (f : Field) (i : Ix) (n : Nat) : (s.count f i n).ports = s.ports := rfl
@[simp] theorem State.count_readOut (f : Field) (i : Ix) (n : Nat) : (s.count f i n).readOut = s.readOut := rfl
@[simp] theorem State.count_readData (f : Field) (i : Ix) (n : Nat) : (s.count f i n).readData = s.readData := rfl
@[simp] theorem State.count_readErr (f : Field) (i : Ix) (n : Nat) : (s.count f i n).readErr = s.readErr := rfl
@[simp] theorem State.count_freeIx (f : Field) (i : Ix) (n : Nat) : (s.count f i n).freeIx = s.freeIx := rfl
@[simp] theorem State.count_pending (f : Field) (i : Ix) (n : Nat) : (s.count f i n).pending = s.pending := rfl
@[simp] theorem State.count_axis (f : Field) (i : Ix) (n : Nat) (n' : Nat) : (s.count f i n).axis n' = s.axis n' := rfl
@[simp] theorem State.count_mark (f : Field) (i : Ix) (n : Nat) (h' m' : Nat) : (s.count f i n).mark h' m' = s.mark h' m' := rfl
@[simp] theorem State.count_counter (f : Field) (i : Ix) (n : Nat) (h' c' : Nat) : (s.count f i n).counter h' c' = s.counter h' c' := rfl
@[simp] theorem State.count_pin (f : Field) (i : Ix) (n : Nat) (h' i' : Nat) : (s.count f i n).pin h' i' = s.pin h' i' := rfl
@[simp] theorem State.count_trader (f : Field) (i : Ix) (n : Nat) (t' : TraderId) : (s.count f i n).trader t' = s.trader t' := rfl
@[simp] theorem State.count_stall (f : Field) (i : Ix) (n : Nat) (h' n' : Nat) : (s.count f i n).stall h' n' = s.stall h' n' := rfl
@[simp] theorem State.count_crier (f : Field) (i : Ix) (n : Nat) (c' : CrierId) : (s.count f i n).crier c' = s.crier c' := rfl
@[simp] theorem State.count_barrow (f : Field) (i : Ix) (n : Nat) (h' b' : Nat) : (s.count f i n).barrow h' b' = s.barrow h' b' := rfl
@[simp] theorem State.count_lane (f : Field) (i : Ix) (n : Nat) (h' k' : Nat) : (s.count f i n).lane h' k' = s.lane h' k' := rfl
@[simp] theorem State.count_thread (f : Field) (i : Ix) (n : Nat) (h' k' th' : Nat) : (s.count f i n).thread h' k' th' = s.thread h' k' th' := rfl
@[simp] theorem State.count_byte (f : Field) (i : Ix) (n : Nat) (arr : Arr) (x : Nat) : (s.count f i n).byte arr x = s.byte arr x := rfl
@[simp] theorem State.count_bytesAt (f : Field) (i : Ix) (n : Nat) (arr : Arr) (x n' : Nat) : (s.count f i n).bytesAt arr x n' = s.bytesAt arr x n' := rfl
@[simp] theorem State.count_natAt (f : Field) (i : Ix) (n : Nat) (arr : Arr) (x n' : Nat) : (s.count f i n).natAt arr x n' = s.natAt arr x n' := rfl
@[simp] theorem State.count_job (f : Field) (i : Ix) (n : Nat) (n' : Nat) : (s.count f i n).job n' = s.job n' := rfl

/-! ### `State.resetRegs` -/

@[simp] theorem State.resetRegs_part (p : Reg → Bool) : (s.resetRegs p).part = s.part := rfl
@[simp] theorem State.resetRegs_tick (p : Reg → Bool) : (s.resetRegs p).tick = s.tick := rfl
@[simp] theorem State.resetRegs_till (p : Reg → Bool) : (s.resetRegs p).till = s.till := rfl
@[simp] theorem State.resetRegs_mem (p : Reg → Bool) : (s.resetRegs p).mem = s.mem := rfl
@[simp] theorem State.resetRegs_ecc (p : Reg → Bool) : (s.resetRegs p).ecc = s.ecc := rfl
@[simp] theorem State.resetRegs_axes (p : Reg → Bool) : (s.resetRegs p).axes = s.axes := rfl
@[simp] theorem State.resetRegs_marks (p : Reg → Bool) : (s.resetRegs p).marks = s.marks := rfl
@[simp] theorem State.resetRegs_counters (p : Reg → Bool) : (s.resetRegs p).counters = s.counters := rfl
@[simp] theorem State.resetRegs_pins (p : Reg → Bool) : (s.resetRegs p).pins = s.pins := rfl
@[simp] theorem State.resetRegs_criers (p : Reg → Bool) : (s.resetRegs p).criers = s.criers := rfl
@[simp] theorem State.resetRegs_crWas (p : Reg → Bool) : (s.resetRegs p).crWas = s.crWas := rfl
@[simp] theorem State.resetRegs_crDid (p : Reg → Bool) : (s.resetRegs p).crDid = s.crDid := rfl
@[simp] theorem State.resetRegs_barrows (p : Reg → Bool) : (s.resetRegs p).barrows = s.barrows := rfl
@[simp] theorem State.resetRegs_lanes (p : Reg → Bool) : (s.resetRegs p).lanes = s.lanes := rfl
@[simp] theorem State.resetRegs_threads (p : Reg → Bool) : (s.resetRegs p).threads = s.threads := rfl
@[simp] theorem State.resetRegs_chans (p : Reg → Bool) : (s.resetRegs p).chans = s.chans := rfl
@[simp] theorem State.resetRegs_slots (p : Reg → Bool) : (s.resetRegs p).slots = s.slots := rfl
@[simp] theorem State.resetRegs_cartTurn (p : Reg → Bool) : (s.resetRegs p).cartTurn = s.cartTurn := rfl
@[simp] theorem State.resetRegs_calibs (p : Reg → Bool) : (s.resetRegs p).calibs = s.calibs := rfl
@[simp] theorem State.resetRegs_wind (p : Reg → Bool) : (s.resetRegs p).wind = s.wind := rfl
@[simp] theorem State.resetRegs_traders (p : Reg → Bool) : (s.resetRegs p).traders = s.traders := rfl
@[simp] theorem State.resetRegs_stalls (p : Reg → Bool) : (s.resetRegs p).stalls = s.stalls := rfl
@[simp] theorem State.resetRegs_stallSlot (p : Reg → Bool) : (s.resetRegs p).stallSlot = s.stallSlot := rfl
@[simp] theorem State.resetRegs_deliveries (p : Reg → Bool) : (s.resetRegs p).deliveries = s.deliveries := rfl
@[simp] theorem State.resetRegs_edgeActs (p : Reg → Bool) : (s.resetRegs p).edgeActs = s.edgeActs := rfl
@[simp] theorem State.resetRegs_tokens (p : Reg → Bool) : (s.resetRegs p).tokens = s.tokens := rfl
@[simp] theorem State.resetRegs_hostPops (p : Reg → Bool) : (s.resetRegs p).hostPops = s.hostPops := rfl
@[simp] theorem State.resetRegs_deferred (p : Reg → Bool) : (s.resetRegs p).deferred = s.deferred := rfl
@[simp] theorem State.resetRegs_chits (p : Reg → Bool) : (s.resetRegs p).chits = s.chits := rfl
@[simp] theorem State.resetRegs_reqs (p : Reg → Bool) : (s.resetRegs p).reqs = s.reqs := rfl
@[simp] theorem State.resetRegs_arrived (p : Reg → Bool) : (s.resetRegs p).arrived = s.arrived := rfl
@[simp] theorem State.resetRegs_nextReq (p : Reg → Bool) : (s.resetRegs p).nextReq = s.nextReq := rfl
@[simp] theorem State.resetRegs_pathArb (p : Reg → Bool) : (s.resetRegs p).pathArb = s.pathArb := rfl
@[simp] theorem State.resetRegs_portArb (p : Reg → Bool) : (s.resetRegs p).portArb = s.portArb := rfl
@[simp] theorem State.resetRegs_atomArb (p : Reg → Bool) : (s.resetRegs p).atomArb = s.atomArb := rfl
@[simp] theorem State.resetRegs_agentWait (p : Reg → Bool) : (s.resetRegs p).agentWait = s.agentWait := rfl
@[simp] theorem State.resetRegs_orderTurn (p : Reg → Bool) : (s.resetRegs p).orderTurn = s.orderTurn := rfl
@[simp] theorem State.resetRegs_jobs (p : Reg → Bool) : (s.resetRegs p).jobs = s.jobs := rfl
@[simp] theorem State.resetRegs_jobSeq (p : Reg → Bool) : (s.resetRegs p).jobSeq = s.jobSeq := rfl
@[simp] theorem State.resetRegs_images (p : Reg → Bool) : (s.resetRegs p).images = s.images := rfl
@[simp] theorem State.resetRegs_swaps (p : Reg → Bool) : (s.resetRegs p).swaps = s.swaps := rfl
@[simp] theorem State.resetRegs_failovers (p : Reg → Bool) : (s.resetRegs p).failovers = s.failovers := rfl
@[simp] theorem State.resetRegs_held (p : Reg → Bool) : (s.resetRegs p).held = s.held := rfl
@[simp] theorem State.resetRegs_windDefault (p : Reg → Bool) : (s.resetRegs p).windDefault = s.windDefault := rfl
@[simp] theorem State.resetRegs_patches (p : Reg → Bool) : (s.resetRegs p).patches = s.patches := rfl
@[simp] theorem State.resetRegs_power (p : Reg → Bool) : (s.resetRegs p).power = s.power := rfl
@[simp] theorem State.resetRegs_dbg (p : Reg → Bool) : (s.resetRegs p).dbg = s.dbg := rfl
@[simp] theorem State.resetRegs_faults (p : Reg → Bool) : (s.resetRegs p).faults = s.faults := rfl
@[simp] theorem State.resetRegs_corrTold (p : Reg → Bool) : (s.resetRegs p).corrTold = s.corrTold := rfl
@[simp] theorem State.resetRegs_ports (p : Reg → Bool) : (s.resetRegs p).ports = s.ports := rfl
@[simp] theorem State.resetRegs_readOut (p : Reg → Bool) : (s.resetRegs p).readOut = s.readOut := rfl
@[simp] theorem State.resetRegs_readData (p : Reg → Bool) : (s.resetRegs p).readData = s.readData := rfl
@[simp] theorem State.resetRegs_readErr (p : Reg → Bool) : (s.resetRegs p).readErr = s.readErr := rfl
@[simp] theorem State.resetRegs_freeIx (p : Reg → Bool) : (s.resetRegs p).freeIx = s.freeIx := rfl
@[simp] theorem State.resetRegs_pending (p : Reg → Bool) : (s.resetRegs p).pending = s.pending := rfl
@[simp] theorem State.resetRegs_axis (p : Reg → Bool) (n' : Nat) : (s.resetRegs p).axis n' = s.axis n' := rfl
@[simp] theorem State.resetRegs_mark (p : Reg → Bool) (h' m' : Nat) : (s.resetRegs p).mark h' m' = s.mark h' m' := rfl
@[simp] theorem State.resetRegs_counter (p : Reg → Bool) (h' c' : Nat) : (s.resetRegs p).counter h' c' = s.counter h' c' := rfl
@[simp] theorem State.resetRegs_pin (p : Reg → Bool) (h' i' : Nat) : (s.resetRegs p).pin h' i' = s.pin h' i' := rfl
@[simp] theorem State.resetRegs_trader (p : Reg → Bool) (t' : TraderId) : (s.resetRegs p).trader t' = s.trader t' := rfl
@[simp] theorem State.resetRegs_stall (p : Reg → Bool) (h' n' : Nat) : (s.resetRegs p).stall h' n' = s.stall h' n' := rfl
@[simp] theorem State.resetRegs_crier (p : Reg → Bool) (c' : CrierId) : (s.resetRegs p).crier c' = s.crier c' := rfl
@[simp] theorem State.resetRegs_barrow (p : Reg → Bool) (h' b' : Nat) : (s.resetRegs p).barrow h' b' = s.barrow h' b' := rfl
@[simp] theorem State.resetRegs_lane (p : Reg → Bool) (h' k' : Nat) : (s.resetRegs p).lane h' k' = s.lane h' k' := rfl
@[simp] theorem State.resetRegs_thread (p : Reg → Bool) (h' k' th' : Nat) : (s.resetRegs p).thread h' k' th' = s.thread h' k' th' := rfl
@[simp] theorem State.resetRegs_byte (p : Reg → Bool) (arr : Arr) (x : Nat) : (s.resetRegs p).byte arr x = s.byte arr x := rfl
@[simp] theorem State.resetRegs_bytesAt (p : Reg → Bool) (arr : Arr) (x n' : Nat) : (s.resetRegs p).bytesAt arr x n' = s.bytesAt arr x n' := rfl
@[simp] theorem State.resetRegs_natAt (p : Reg → Bool) (arr : Arr) (x n' : Nat) : (s.resetRegs p).natAt arr x n' = s.natAt arr x n' := rfl
@[simp] theorem State.resetRegs_job (p : Reg → Bool) (n' : Nat) : (s.resetRegs p).job n' = s.job n' := rfl

/-! ### `State.setAxis` -/

@[simp] theorem State.setAxis_part (n : Nat) (a : Axis) : (s.setAxis n a).part = s.part := rfl
@[simp] theorem State.setAxis_tick (n : Nat) (a : Axis) : (s.setAxis n a).tick = s.tick := rfl
@[simp] theorem State.setAxis_till (n : Nat) (a : Axis) : (s.setAxis n a).till = s.till := rfl
@[simp] theorem State.setAxis_regs (n : Nat) (a : Axis) : (s.setAxis n a).regs = s.regs := rfl
@[simp] theorem State.setAxis_hwSet (n : Nat) (a : Axis) : (s.setAxis n a).hwSet = s.hwSet := rfl
@[simp] theorem State.setAxis_swSet (n : Nat) (a : Axis) : (s.setAxis n a).swSet = s.swSet := rfl
@[simp] theorem State.setAxis_mem (n : Nat) (a : Axis) : (s.setAxis n a).mem = s.mem := rfl
@[simp] theorem State.setAxis_ecc (n : Nat) (a : Axis) : (s.setAxis n a).ecc = s.ecc := rfl
@[simp] theorem State.setAxis_marks (n : Nat) (a : Axis) : (s.setAxis n a).marks = s.marks := rfl
@[simp] theorem State.setAxis_counters (n : Nat) (a : Axis) : (s.setAxis n a).counters = s.counters := rfl
@[simp] theorem State.setAxis_pins (n : Nat) (a : Axis) : (s.setAxis n a).pins = s.pins := rfl
@[simp] theorem State.setAxis_criers (n : Nat) (a : Axis) : (s.setAxis n a).criers = s.criers := rfl
@[simp] theorem State.setAxis_crWas (n : Nat) (a : Axis) : (s.setAxis n a).crWas = s.crWas := rfl
@[simp] theorem State.setAxis_crDid (n : Nat) (a : Axis) : (s.setAxis n a).crDid = s.crDid := rfl
@[simp] theorem State.setAxis_barrows (n : Nat) (a : Axis) : (s.setAxis n a).barrows = s.barrows := rfl
@[simp] theorem State.setAxis_lanes (n : Nat) (a : Axis) : (s.setAxis n a).lanes = s.lanes := rfl
@[simp] theorem State.setAxis_threads (n : Nat) (a : Axis) : (s.setAxis n a).threads = s.threads := rfl
@[simp] theorem State.setAxis_chans (n : Nat) (a : Axis) : (s.setAxis n a).chans = s.chans := rfl
@[simp] theorem State.setAxis_slots (n : Nat) (a : Axis) : (s.setAxis n a).slots = s.slots := rfl
@[simp] theorem State.setAxis_cartTurn (n : Nat) (a : Axis) : (s.setAxis n a).cartTurn = s.cartTurn := rfl
@[simp] theorem State.setAxis_calibs (n : Nat) (a : Axis) : (s.setAxis n a).calibs = s.calibs := rfl
@[simp] theorem State.setAxis_wind (n : Nat) (a : Axis) : (s.setAxis n a).wind = s.wind := rfl
@[simp] theorem State.setAxis_traders (n : Nat) (a : Axis) : (s.setAxis n a).traders = s.traders := rfl
@[simp] theorem State.setAxis_stalls (n : Nat) (a : Axis) : (s.setAxis n a).stalls = s.stalls := rfl
@[simp] theorem State.setAxis_stallSlot (n : Nat) (a : Axis) : (s.setAxis n a).stallSlot = s.stallSlot := rfl
@[simp] theorem State.setAxis_deliveries (n : Nat) (a : Axis) : (s.setAxis n a).deliveries = s.deliveries := rfl
@[simp] theorem State.setAxis_edgeActs (n : Nat) (a : Axis) : (s.setAxis n a).edgeActs = s.edgeActs := rfl
@[simp] theorem State.setAxis_tokens (n : Nat) (a : Axis) : (s.setAxis n a).tokens = s.tokens := rfl
@[simp] theorem State.setAxis_hostPops (n : Nat) (a : Axis) : (s.setAxis n a).hostPops = s.hostPops := rfl
@[simp] theorem State.setAxis_deferred (n : Nat) (a : Axis) : (s.setAxis n a).deferred = s.deferred := rfl
@[simp] theorem State.setAxis_chits (n : Nat) (a : Axis) : (s.setAxis n a).chits = s.chits := rfl
@[simp] theorem State.setAxis_reqs (n : Nat) (a : Axis) : (s.setAxis n a).reqs = s.reqs := rfl
@[simp] theorem State.setAxis_arrived (n : Nat) (a : Axis) : (s.setAxis n a).arrived = s.arrived := rfl
@[simp] theorem State.setAxis_nextReq (n : Nat) (a : Axis) : (s.setAxis n a).nextReq = s.nextReq := rfl
@[simp] theorem State.setAxis_pathArb (n : Nat) (a : Axis) : (s.setAxis n a).pathArb = s.pathArb := rfl
@[simp] theorem State.setAxis_portArb (n : Nat) (a : Axis) : (s.setAxis n a).portArb = s.portArb := rfl
@[simp] theorem State.setAxis_atomArb (n : Nat) (a : Axis) : (s.setAxis n a).atomArb = s.atomArb := rfl
@[simp] theorem State.setAxis_agentWait (n : Nat) (a : Axis) : (s.setAxis n a).agentWait = s.agentWait := rfl
@[simp] theorem State.setAxis_orderTurn (n : Nat) (a : Axis) : (s.setAxis n a).orderTurn = s.orderTurn := rfl
@[simp] theorem State.setAxis_jobs (n : Nat) (a : Axis) : (s.setAxis n a).jobs = s.jobs := rfl
@[simp] theorem State.setAxis_jobSeq (n : Nat) (a : Axis) : (s.setAxis n a).jobSeq = s.jobSeq := rfl
@[simp] theorem State.setAxis_images (n : Nat) (a : Axis) : (s.setAxis n a).images = s.images := rfl
@[simp] theorem State.setAxis_swaps (n : Nat) (a : Axis) : (s.setAxis n a).swaps = s.swaps := rfl
@[simp] theorem State.setAxis_failovers (n : Nat) (a : Axis) : (s.setAxis n a).failovers = s.failovers := rfl
@[simp] theorem State.setAxis_held (n : Nat) (a : Axis) : (s.setAxis n a).held = s.held := rfl
@[simp] theorem State.setAxis_windDefault (n : Nat) (a : Axis) : (s.setAxis n a).windDefault = s.windDefault := rfl
@[simp] theorem State.setAxis_patches (n : Nat) (a : Axis) : (s.setAxis n a).patches = s.patches := rfl
@[simp] theorem State.setAxis_power (n : Nat) (a : Axis) : (s.setAxis n a).power = s.power := rfl
@[simp] theorem State.setAxis_dbg (n : Nat) (a : Axis) : (s.setAxis n a).dbg = s.dbg := rfl
@[simp] theorem State.setAxis_faults (n : Nat) (a : Axis) : (s.setAxis n a).faults = s.faults := rfl
@[simp] theorem State.setAxis_corrTold (n : Nat) (a : Axis) : (s.setAxis n a).corrTold = s.corrTold := rfl
@[simp] theorem State.setAxis_ports (n : Nat) (a : Axis) : (s.setAxis n a).ports = s.ports := rfl
@[simp] theorem State.setAxis_readOut (n : Nat) (a : Axis) : (s.setAxis n a).readOut = s.readOut := rfl
@[simp] theorem State.setAxis_readData (n : Nat) (a : Axis) : (s.setAxis n a).readData = s.readData := rfl
@[simp] theorem State.setAxis_readErr (n : Nat) (a : Axis) : (s.setAxis n a).readErr = s.readErr := rfl
@[simp] theorem State.setAxis_freeIx (n : Nat) (a : Axis) : (s.setAxis n a).freeIx = s.freeIx := rfl
@[simp] theorem State.setAxis_pending (n : Nat) (a : Axis) : (s.setAxis n a).pending = s.pending := rfl
@[simp] theorem State.setAxis_mark (n : Nat) (a : Axis) (h' m' : Nat) : (s.setAxis n a).mark h' m' = s.mark h' m' := rfl
@[simp] theorem State.setAxis_counter (n : Nat) (a : Axis) (h' c' : Nat) : (s.setAxis n a).counter h' c' = s.counter h' c' := rfl
@[simp] theorem State.setAxis_pin (n : Nat) (a : Axis) (h' i' : Nat) : (s.setAxis n a).pin h' i' = s.pin h' i' := rfl
@[simp] theorem State.setAxis_trader (n : Nat) (a : Axis) (t' : TraderId) : (s.setAxis n a).trader t' = s.trader t' := rfl
@[simp] theorem State.setAxis_stall (n : Nat) (a : Axis) (h' n' : Nat) : (s.setAxis n a).stall h' n' = s.stall h' n' := rfl
@[simp] theorem State.setAxis_crier (n : Nat) (a : Axis) (c' : CrierId) : (s.setAxis n a).crier c' = s.crier c' := rfl
@[simp] theorem State.setAxis_barrow (n : Nat) (a : Axis) (h' b' : Nat) : (s.setAxis n a).barrow h' b' = s.barrow h' b' := rfl
@[simp] theorem State.setAxis_lane (n : Nat) (a : Axis) (h' k' : Nat) : (s.setAxis n a).lane h' k' = s.lane h' k' := rfl
@[simp] theorem State.setAxis_thread (n : Nat) (a : Axis) (h' k' th' : Nat) : (s.setAxis n a).thread h' k' th' = s.thread h' k' th' := rfl
@[simp] theorem State.setAxis_rd (n : Nat) (a : Axis) (q : Reg) : (s.setAxis n a).rd q = s.rd q := rfl
@[simp] theorem State.setAxis_get (n : Nat) (a : Axis) (g : Field) (j : Ix) : (s.setAxis n a).get g j = s.get g j := rfl
@[simp] theorem State.setAxis_is (n : Nat) (a : Axis) (g : Field) (j : Ix) : (s.setAxis n a).is g j = s.is g j := rfl
@[simp] theorem State.setAxis_byte (n : Nat) (a : Axis) (arr : Arr) (x : Nat) : (s.setAxis n a).byte arr x = s.byte arr x := rfl
@[simp] theorem State.setAxis_bytesAt (n : Nat) (a : Axis) (arr : Arr) (x n' : Nat) : (s.setAxis n a).bytesAt arr x n' = s.bytesAt arr x n' := rfl
@[simp] theorem State.setAxis_natAt (n : Nat) (a : Axis) (arr : Arr) (x n' : Nat) : (s.setAxis n a).natAt arr x n' = s.natAt arr x n' := rfl
@[simp] theorem State.setAxis_job (n : Nat) (a : Axis) (n' : Nat) : (s.setAxis n a).job n' = s.job n' := rfl

/-! ### `State.setMark` -/

@[simp] theorem State.setMark_part (h m : Nat) (a : Mark) : (s.setMark h m a).part = s.part := rfl
@[simp] theorem State.setMark_tick (h m : Nat) (a : Mark) : (s.setMark h m a).tick = s.tick := rfl
@[simp] theorem State.setMark_till (h m : Nat) (a : Mark) : (s.setMark h m a).till = s.till := rfl
@[simp] theorem State.setMark_regs (h m : Nat) (a : Mark) : (s.setMark h m a).regs = s.regs := rfl
@[simp] theorem State.setMark_hwSet (h m : Nat) (a : Mark) : (s.setMark h m a).hwSet = s.hwSet := rfl
@[simp] theorem State.setMark_swSet (h m : Nat) (a : Mark) : (s.setMark h m a).swSet = s.swSet := rfl
@[simp] theorem State.setMark_mem (h m : Nat) (a : Mark) : (s.setMark h m a).mem = s.mem := rfl
@[simp] theorem State.setMark_ecc (h m : Nat) (a : Mark) : (s.setMark h m a).ecc = s.ecc := rfl
@[simp] theorem State.setMark_axes (h m : Nat) (a : Mark) : (s.setMark h m a).axes = s.axes := rfl
@[simp] theorem State.setMark_counters (h m : Nat) (a : Mark) : (s.setMark h m a).counters = s.counters := rfl
@[simp] theorem State.setMark_pins (h m : Nat) (a : Mark) : (s.setMark h m a).pins = s.pins := rfl
@[simp] theorem State.setMark_criers (h m : Nat) (a : Mark) : (s.setMark h m a).criers = s.criers := rfl
@[simp] theorem State.setMark_crWas (h m : Nat) (a : Mark) : (s.setMark h m a).crWas = s.crWas := rfl
@[simp] theorem State.setMark_crDid (h m : Nat) (a : Mark) : (s.setMark h m a).crDid = s.crDid := rfl
@[simp] theorem State.setMark_barrows (h m : Nat) (a : Mark) : (s.setMark h m a).barrows = s.barrows := rfl
@[simp] theorem State.setMark_lanes (h m : Nat) (a : Mark) : (s.setMark h m a).lanes = s.lanes := rfl
@[simp] theorem State.setMark_threads (h m : Nat) (a : Mark) : (s.setMark h m a).threads = s.threads := rfl
@[simp] theorem State.setMark_chans (h m : Nat) (a : Mark) : (s.setMark h m a).chans = s.chans := rfl
@[simp] theorem State.setMark_slots (h m : Nat) (a : Mark) : (s.setMark h m a).slots = s.slots := rfl
@[simp] theorem State.setMark_cartTurn (h m : Nat) (a : Mark) : (s.setMark h m a).cartTurn = s.cartTurn := rfl
@[simp] theorem State.setMark_calibs (h m : Nat) (a : Mark) : (s.setMark h m a).calibs = s.calibs := rfl
@[simp] theorem State.setMark_wind (h m : Nat) (a : Mark) : (s.setMark h m a).wind = s.wind := rfl
@[simp] theorem State.setMark_traders (h m : Nat) (a : Mark) : (s.setMark h m a).traders = s.traders := rfl
@[simp] theorem State.setMark_stalls (h m : Nat) (a : Mark) : (s.setMark h m a).stalls = s.stalls := rfl
@[simp] theorem State.setMark_stallSlot (h m : Nat) (a : Mark) : (s.setMark h m a).stallSlot = s.stallSlot := rfl
@[simp] theorem State.setMark_deliveries (h m : Nat) (a : Mark) : (s.setMark h m a).deliveries = s.deliveries := rfl
@[simp] theorem State.setMark_edgeActs (h m : Nat) (a : Mark) : (s.setMark h m a).edgeActs = s.edgeActs := rfl
@[simp] theorem State.setMark_tokens (h m : Nat) (a : Mark) : (s.setMark h m a).tokens = s.tokens := rfl
@[simp] theorem State.setMark_hostPops (h m : Nat) (a : Mark) : (s.setMark h m a).hostPops = s.hostPops := rfl
@[simp] theorem State.setMark_deferred (h m : Nat) (a : Mark) : (s.setMark h m a).deferred = s.deferred := rfl
@[simp] theorem State.setMark_chits (h m : Nat) (a : Mark) : (s.setMark h m a).chits = s.chits := rfl
@[simp] theorem State.setMark_reqs (h m : Nat) (a : Mark) : (s.setMark h m a).reqs = s.reqs := rfl
@[simp] theorem State.setMark_arrived (h m : Nat) (a : Mark) : (s.setMark h m a).arrived = s.arrived := rfl
@[simp] theorem State.setMark_nextReq (h m : Nat) (a : Mark) : (s.setMark h m a).nextReq = s.nextReq := rfl
@[simp] theorem State.setMark_pathArb (h m : Nat) (a : Mark) : (s.setMark h m a).pathArb = s.pathArb := rfl
@[simp] theorem State.setMark_portArb (h m : Nat) (a : Mark) : (s.setMark h m a).portArb = s.portArb := rfl
@[simp] theorem State.setMark_atomArb (h m : Nat) (a : Mark) : (s.setMark h m a).atomArb = s.atomArb := rfl
@[simp] theorem State.setMark_agentWait (h m : Nat) (a : Mark) : (s.setMark h m a).agentWait = s.agentWait := rfl
@[simp] theorem State.setMark_orderTurn (h m : Nat) (a : Mark) : (s.setMark h m a).orderTurn = s.orderTurn := rfl
@[simp] theorem State.setMark_jobs (h m : Nat) (a : Mark) : (s.setMark h m a).jobs = s.jobs := rfl
@[simp] theorem State.setMark_jobSeq (h m : Nat) (a : Mark) : (s.setMark h m a).jobSeq = s.jobSeq := rfl
@[simp] theorem State.setMark_images (h m : Nat) (a : Mark) : (s.setMark h m a).images = s.images := rfl
@[simp] theorem State.setMark_swaps (h m : Nat) (a : Mark) : (s.setMark h m a).swaps = s.swaps := rfl
@[simp] theorem State.setMark_failovers (h m : Nat) (a : Mark) : (s.setMark h m a).failovers = s.failovers := rfl
@[simp] theorem State.setMark_held (h m : Nat) (a : Mark) : (s.setMark h m a).held = s.held := rfl
@[simp] theorem State.setMark_windDefault (h m : Nat) (a : Mark) : (s.setMark h m a).windDefault = s.windDefault := rfl
@[simp] theorem State.setMark_patches (h m : Nat) (a : Mark) : (s.setMark h m a).patches = s.patches := rfl
@[simp] theorem State.setMark_power (h m : Nat) (a : Mark) : (s.setMark h m a).power = s.power := rfl
@[simp] theorem State.setMark_dbg (h m : Nat) (a : Mark) : (s.setMark h m a).dbg = s.dbg := rfl
@[simp] theorem State.setMark_faults (h m : Nat) (a : Mark) : (s.setMark h m a).faults = s.faults := rfl
@[simp] theorem State.setMark_corrTold (h m : Nat) (a : Mark) : (s.setMark h m a).corrTold = s.corrTold := rfl
@[simp] theorem State.setMark_ports (h m : Nat) (a : Mark) : (s.setMark h m a).ports = s.ports := rfl
@[simp] theorem State.setMark_readOut (h m : Nat) (a : Mark) : (s.setMark h m a).readOut = s.readOut := rfl
@[simp] theorem State.setMark_readData (h m : Nat) (a : Mark) : (s.setMark h m a).readData = s.readData := rfl
@[simp] theorem State.setMark_readErr (h m : Nat) (a : Mark) : (s.setMark h m a).readErr = s.readErr := rfl
@[simp] theorem State.setMark_freeIx (h m : Nat) (a : Mark) : (s.setMark h m a).freeIx = s.freeIx := rfl
@[simp] theorem State.setMark_pending (h m : Nat) (a : Mark) : (s.setMark h m a).pending = s.pending := rfl
@[simp] theorem State.setMark_axis (h m : Nat) (a : Mark) (n' : Nat) : (s.setMark h m a).axis n' = s.axis n' := rfl
@[simp] theorem State.setMark_counter (h m : Nat) (a : Mark) (h' c' : Nat) : (s.setMark h m a).counter h' c' = s.counter h' c' := rfl
@[simp] theorem State.setMark_pin (h m : Nat) (a : Mark) (h' i' : Nat) : (s.setMark h m a).pin h' i' = s.pin h' i' := rfl
@[simp] theorem State.setMark_trader (h m : Nat) (a : Mark) (t' : TraderId) : (s.setMark h m a).trader t' = s.trader t' := rfl
@[simp] theorem State.setMark_stall (h m : Nat) (a : Mark) (h' n' : Nat) : (s.setMark h m a).stall h' n' = s.stall h' n' := rfl
@[simp] theorem State.setMark_crier (h m : Nat) (a : Mark) (c' : CrierId) : (s.setMark h m a).crier c' = s.crier c' := rfl
@[simp] theorem State.setMark_barrow (h m : Nat) (a : Mark) (h' b' : Nat) : (s.setMark h m a).barrow h' b' = s.barrow h' b' := rfl
@[simp] theorem State.setMark_lane (h m : Nat) (a : Mark) (h' k' : Nat) : (s.setMark h m a).lane h' k' = s.lane h' k' := rfl
@[simp] theorem State.setMark_thread (h m : Nat) (a : Mark) (h' k' th' : Nat) : (s.setMark h m a).thread h' k' th' = s.thread h' k' th' := rfl
@[simp] theorem State.setMark_rd (h m : Nat) (a : Mark) (q : Reg) : (s.setMark h m a).rd q = s.rd q := rfl
@[simp] theorem State.setMark_get (h m : Nat) (a : Mark) (g : Field) (j : Ix) : (s.setMark h m a).get g j = s.get g j := rfl
@[simp] theorem State.setMark_is (h m : Nat) (a : Mark) (g : Field) (j : Ix) : (s.setMark h m a).is g j = s.is g j := rfl
@[simp] theorem State.setMark_byte (h m : Nat) (a : Mark) (arr : Arr) (x : Nat) : (s.setMark h m a).byte arr x = s.byte arr x := rfl
@[simp] theorem State.setMark_bytesAt (h m : Nat) (a : Mark) (arr : Arr) (x n' : Nat) : (s.setMark h m a).bytesAt arr x n' = s.bytesAt arr x n' := rfl
@[simp] theorem State.setMark_natAt (h m : Nat) (a : Mark) (arr : Arr) (x n' : Nat) : (s.setMark h m a).natAt arr x n' = s.natAt arr x n' := rfl
@[simp] theorem State.setMark_job (h m : Nat) (a : Mark) (n' : Nat) : (s.setMark h m a).job n' = s.job n' := rfl

/-! ### `State.setCounter` -/

@[simp] theorem State.setCounter_part (h c : Nat) (a : Counter) : (s.setCounter h c a).part = s.part := rfl
@[simp] theorem State.setCounter_tick (h c : Nat) (a : Counter) : (s.setCounter h c a).tick = s.tick := rfl
@[simp] theorem State.setCounter_till (h c : Nat) (a : Counter) : (s.setCounter h c a).till = s.till := rfl
@[simp] theorem State.setCounter_regs (h c : Nat) (a : Counter) : (s.setCounter h c a).regs = s.regs := rfl
@[simp] theorem State.setCounter_hwSet (h c : Nat) (a : Counter) : (s.setCounter h c a).hwSet = s.hwSet := rfl
@[simp] theorem State.setCounter_swSet (h c : Nat) (a : Counter) : (s.setCounter h c a).swSet = s.swSet := rfl
@[simp] theorem State.setCounter_mem (h c : Nat) (a : Counter) : (s.setCounter h c a).mem = s.mem := rfl
@[simp] theorem State.setCounter_ecc (h c : Nat) (a : Counter) : (s.setCounter h c a).ecc = s.ecc := rfl
@[simp] theorem State.setCounter_axes (h c : Nat) (a : Counter) : (s.setCounter h c a).axes = s.axes := rfl
@[simp] theorem State.setCounter_marks (h c : Nat) (a : Counter) : (s.setCounter h c a).marks = s.marks := rfl
@[simp] theorem State.setCounter_pins (h c : Nat) (a : Counter) : (s.setCounter h c a).pins = s.pins := rfl
@[simp] theorem State.setCounter_criers (h c : Nat) (a : Counter) : (s.setCounter h c a).criers = s.criers := rfl
@[simp] theorem State.setCounter_crWas (h c : Nat) (a : Counter) : (s.setCounter h c a).crWas = s.crWas := rfl
@[simp] theorem State.setCounter_crDid (h c : Nat) (a : Counter) : (s.setCounter h c a).crDid = s.crDid := rfl
@[simp] theorem State.setCounter_barrows (h c : Nat) (a : Counter) : (s.setCounter h c a).barrows = s.barrows := rfl
@[simp] theorem State.setCounter_lanes (h c : Nat) (a : Counter) : (s.setCounter h c a).lanes = s.lanes := rfl
@[simp] theorem State.setCounter_threads (h c : Nat) (a : Counter) : (s.setCounter h c a).threads = s.threads := rfl
@[simp] theorem State.setCounter_chans (h c : Nat) (a : Counter) : (s.setCounter h c a).chans = s.chans := rfl
@[simp] theorem State.setCounter_slots (h c : Nat) (a : Counter) : (s.setCounter h c a).slots = s.slots := rfl
@[simp] theorem State.setCounter_cartTurn (h c : Nat) (a : Counter) : (s.setCounter h c a).cartTurn = s.cartTurn := rfl
@[simp] theorem State.setCounter_calibs (h c : Nat) (a : Counter) : (s.setCounter h c a).calibs = s.calibs := rfl
@[simp] theorem State.setCounter_wind (h c : Nat) (a : Counter) : (s.setCounter h c a).wind = s.wind := rfl
@[simp] theorem State.setCounter_traders (h c : Nat) (a : Counter) : (s.setCounter h c a).traders = s.traders := rfl
@[simp] theorem State.setCounter_stalls (h c : Nat) (a : Counter) : (s.setCounter h c a).stalls = s.stalls := rfl
@[simp] theorem State.setCounter_stallSlot (h c : Nat) (a : Counter) : (s.setCounter h c a).stallSlot = s.stallSlot := rfl
@[simp] theorem State.setCounter_deliveries (h c : Nat) (a : Counter) : (s.setCounter h c a).deliveries = s.deliveries := rfl
@[simp] theorem State.setCounter_edgeActs (h c : Nat) (a : Counter) : (s.setCounter h c a).edgeActs = s.edgeActs := rfl
@[simp] theorem State.setCounter_tokens (h c : Nat) (a : Counter) : (s.setCounter h c a).tokens = s.tokens := rfl
@[simp] theorem State.setCounter_hostPops (h c : Nat) (a : Counter) : (s.setCounter h c a).hostPops = s.hostPops := rfl
@[simp] theorem State.setCounter_deferred (h c : Nat) (a : Counter) : (s.setCounter h c a).deferred = s.deferred := rfl
@[simp] theorem State.setCounter_chits (h c : Nat) (a : Counter) : (s.setCounter h c a).chits = s.chits := rfl
@[simp] theorem State.setCounter_reqs (h c : Nat) (a : Counter) : (s.setCounter h c a).reqs = s.reqs := rfl
@[simp] theorem State.setCounter_arrived (h c : Nat) (a : Counter) : (s.setCounter h c a).arrived = s.arrived := rfl
@[simp] theorem State.setCounter_nextReq (h c : Nat) (a : Counter) : (s.setCounter h c a).nextReq = s.nextReq := rfl
@[simp] theorem State.setCounter_pathArb (h c : Nat) (a : Counter) : (s.setCounter h c a).pathArb = s.pathArb := rfl
@[simp] theorem State.setCounter_portArb (h c : Nat) (a : Counter) : (s.setCounter h c a).portArb = s.portArb := rfl
@[simp] theorem State.setCounter_atomArb (h c : Nat) (a : Counter) : (s.setCounter h c a).atomArb = s.atomArb := rfl
@[simp] theorem State.setCounter_agentWait (h c : Nat) (a : Counter) : (s.setCounter h c a).agentWait = s.agentWait := rfl
@[simp] theorem State.setCounter_orderTurn (h c : Nat) (a : Counter) : (s.setCounter h c a).orderTurn = s.orderTurn := rfl
@[simp] theorem State.setCounter_jobs (h c : Nat) (a : Counter) : (s.setCounter h c a).jobs = s.jobs := rfl
@[simp] theorem State.setCounter_jobSeq (h c : Nat) (a : Counter) : (s.setCounter h c a).jobSeq = s.jobSeq := rfl
@[simp] theorem State.setCounter_images (h c : Nat) (a : Counter) : (s.setCounter h c a).images = s.images := rfl
@[simp] theorem State.setCounter_swaps (h c : Nat) (a : Counter) : (s.setCounter h c a).swaps = s.swaps := rfl
@[simp] theorem State.setCounter_failovers (h c : Nat) (a : Counter) : (s.setCounter h c a).failovers = s.failovers := rfl
@[simp] theorem State.setCounter_held (h c : Nat) (a : Counter) : (s.setCounter h c a).held = s.held := rfl
@[simp] theorem State.setCounter_windDefault (h c : Nat) (a : Counter) : (s.setCounter h c a).windDefault = s.windDefault := rfl
@[simp] theorem State.setCounter_patches (h c : Nat) (a : Counter) : (s.setCounter h c a).patches = s.patches := rfl
@[simp] theorem State.setCounter_power (h c : Nat) (a : Counter) : (s.setCounter h c a).power = s.power := rfl
@[simp] theorem State.setCounter_dbg (h c : Nat) (a : Counter) : (s.setCounter h c a).dbg = s.dbg := rfl
@[simp] theorem State.setCounter_faults (h c : Nat) (a : Counter) : (s.setCounter h c a).faults = s.faults := rfl
@[simp] theorem State.setCounter_corrTold (h c : Nat) (a : Counter) : (s.setCounter h c a).corrTold = s.corrTold := rfl
@[simp] theorem State.setCounter_ports (h c : Nat) (a : Counter) : (s.setCounter h c a).ports = s.ports := rfl
@[simp] theorem State.setCounter_readOut (h c : Nat) (a : Counter) : (s.setCounter h c a).readOut = s.readOut := rfl
@[simp] theorem State.setCounter_readData (h c : Nat) (a : Counter) : (s.setCounter h c a).readData = s.readData := rfl
@[simp] theorem State.setCounter_readErr (h c : Nat) (a : Counter) : (s.setCounter h c a).readErr = s.readErr := rfl
@[simp] theorem State.setCounter_freeIx (h c : Nat) (a : Counter) : (s.setCounter h c a).freeIx = s.freeIx := rfl
@[simp] theorem State.setCounter_pending (h c : Nat) (a : Counter) : (s.setCounter h c a).pending = s.pending := rfl
@[simp] theorem State.setCounter_axis (h c : Nat) (a : Counter) (n' : Nat) : (s.setCounter h c a).axis n' = s.axis n' := rfl
@[simp] theorem State.setCounter_mark (h c : Nat) (a : Counter) (h' m' : Nat) : (s.setCounter h c a).mark h' m' = s.mark h' m' := rfl
@[simp] theorem State.setCounter_pin (h c : Nat) (a : Counter) (h' i' : Nat) : (s.setCounter h c a).pin h' i' = s.pin h' i' := rfl
@[simp] theorem State.setCounter_trader (h c : Nat) (a : Counter) (t' : TraderId) : (s.setCounter h c a).trader t' = s.trader t' := rfl
@[simp] theorem State.setCounter_stall (h c : Nat) (a : Counter) (h' n' : Nat) : (s.setCounter h c a).stall h' n' = s.stall h' n' := rfl
@[simp] theorem State.setCounter_crier (h c : Nat) (a : Counter) (c' : CrierId) : (s.setCounter h c a).crier c' = s.crier c' := rfl
@[simp] theorem State.setCounter_barrow (h c : Nat) (a : Counter) (h' b' : Nat) : (s.setCounter h c a).barrow h' b' = s.barrow h' b' := rfl
@[simp] theorem State.setCounter_lane (h c : Nat) (a : Counter) (h' k' : Nat) : (s.setCounter h c a).lane h' k' = s.lane h' k' := rfl
@[simp] theorem State.setCounter_thread (h c : Nat) (a : Counter) (h' k' th' : Nat) : (s.setCounter h c a).thread h' k' th' = s.thread h' k' th' := rfl
@[simp] theorem State.setCounter_rd (h c : Nat) (a : Counter) (q : Reg) : (s.setCounter h c a).rd q = s.rd q := rfl
@[simp] theorem State.setCounter_get (h c : Nat) (a : Counter) (g : Field) (j : Ix) : (s.setCounter h c a).get g j = s.get g j := rfl
@[simp] theorem State.setCounter_is (h c : Nat) (a : Counter) (g : Field) (j : Ix) : (s.setCounter h c a).is g j = s.is g j := rfl
@[simp] theorem State.setCounter_byte (h c : Nat) (a : Counter) (arr : Arr) (x : Nat) : (s.setCounter h c a).byte arr x = s.byte arr x := rfl
@[simp] theorem State.setCounter_bytesAt (h c : Nat) (a : Counter) (arr : Arr) (x n' : Nat) : (s.setCounter h c a).bytesAt arr x n' = s.bytesAt arr x n' := rfl
@[simp] theorem State.setCounter_natAt (h c : Nat) (a : Counter) (arr : Arr) (x n' : Nat) : (s.setCounter h c a).natAt arr x n' = s.natAt arr x n' := rfl
@[simp] theorem State.setCounter_job (h c : Nat) (a : Counter) (n' : Nat) : (s.setCounter h c a).job n' = s.job n' := rfl

/-! ### `State.setPin` -/

@[simp] theorem State.setPin_part (h i : Nat) (a : PinState) : (s.setPin h i a).part = s.part := rfl
@[simp] theorem State.setPin_tick (h i : Nat) (a : PinState) : (s.setPin h i a).tick = s.tick := rfl
@[simp] theorem State.setPin_till (h i : Nat) (a : PinState) : (s.setPin h i a).till = s.till := rfl
@[simp] theorem State.setPin_regs (h i : Nat) (a : PinState) : (s.setPin h i a).regs = s.regs := rfl
@[simp] theorem State.setPin_hwSet (h i : Nat) (a : PinState) : (s.setPin h i a).hwSet = s.hwSet := rfl
@[simp] theorem State.setPin_swSet (h i : Nat) (a : PinState) : (s.setPin h i a).swSet = s.swSet := rfl
@[simp] theorem State.setPin_mem (h i : Nat) (a : PinState) : (s.setPin h i a).mem = s.mem := rfl
@[simp] theorem State.setPin_ecc (h i : Nat) (a : PinState) : (s.setPin h i a).ecc = s.ecc := rfl
@[simp] theorem State.setPin_axes (h i : Nat) (a : PinState) : (s.setPin h i a).axes = s.axes := rfl
@[simp] theorem State.setPin_marks (h i : Nat) (a : PinState) : (s.setPin h i a).marks = s.marks := rfl
@[simp] theorem State.setPin_counters (h i : Nat) (a : PinState) : (s.setPin h i a).counters = s.counters := rfl
@[simp] theorem State.setPin_criers (h i : Nat) (a : PinState) : (s.setPin h i a).criers = s.criers := rfl
@[simp] theorem State.setPin_crWas (h i : Nat) (a : PinState) : (s.setPin h i a).crWas = s.crWas := rfl
@[simp] theorem State.setPin_crDid (h i : Nat) (a : PinState) : (s.setPin h i a).crDid = s.crDid := rfl
@[simp] theorem State.setPin_barrows (h i : Nat) (a : PinState) : (s.setPin h i a).barrows = s.barrows := rfl
@[simp] theorem State.setPin_lanes (h i : Nat) (a : PinState) : (s.setPin h i a).lanes = s.lanes := rfl
@[simp] theorem State.setPin_threads (h i : Nat) (a : PinState) : (s.setPin h i a).threads = s.threads := rfl
@[simp] theorem State.setPin_chans (h i : Nat) (a : PinState) : (s.setPin h i a).chans = s.chans := rfl
@[simp] theorem State.setPin_slots (h i : Nat) (a : PinState) : (s.setPin h i a).slots = s.slots := rfl
@[simp] theorem State.setPin_cartTurn (h i : Nat) (a : PinState) : (s.setPin h i a).cartTurn = s.cartTurn := rfl
@[simp] theorem State.setPin_calibs (h i : Nat) (a : PinState) : (s.setPin h i a).calibs = s.calibs := rfl
@[simp] theorem State.setPin_wind (h i : Nat) (a : PinState) : (s.setPin h i a).wind = s.wind := rfl
@[simp] theorem State.setPin_traders (h i : Nat) (a : PinState) : (s.setPin h i a).traders = s.traders := rfl
@[simp] theorem State.setPin_stalls (h i : Nat) (a : PinState) : (s.setPin h i a).stalls = s.stalls := rfl
@[simp] theorem State.setPin_stallSlot (h i : Nat) (a : PinState) : (s.setPin h i a).stallSlot = s.stallSlot := rfl
@[simp] theorem State.setPin_deliveries (h i : Nat) (a : PinState) : (s.setPin h i a).deliveries = s.deliveries := rfl
@[simp] theorem State.setPin_edgeActs (h i : Nat) (a : PinState) : (s.setPin h i a).edgeActs = s.edgeActs := rfl
@[simp] theorem State.setPin_tokens (h i : Nat) (a : PinState) : (s.setPin h i a).tokens = s.tokens := rfl
@[simp] theorem State.setPin_hostPops (h i : Nat) (a : PinState) : (s.setPin h i a).hostPops = s.hostPops := rfl
@[simp] theorem State.setPin_deferred (h i : Nat) (a : PinState) : (s.setPin h i a).deferred = s.deferred := rfl
@[simp] theorem State.setPin_chits (h i : Nat) (a : PinState) : (s.setPin h i a).chits = s.chits := rfl
@[simp] theorem State.setPin_reqs (h i : Nat) (a : PinState) : (s.setPin h i a).reqs = s.reqs := rfl
@[simp] theorem State.setPin_arrived (h i : Nat) (a : PinState) : (s.setPin h i a).arrived = s.arrived := rfl
@[simp] theorem State.setPin_nextReq (h i : Nat) (a : PinState) : (s.setPin h i a).nextReq = s.nextReq := rfl
@[simp] theorem State.setPin_pathArb (h i : Nat) (a : PinState) : (s.setPin h i a).pathArb = s.pathArb := rfl
@[simp] theorem State.setPin_portArb (h i : Nat) (a : PinState) : (s.setPin h i a).portArb = s.portArb := rfl
@[simp] theorem State.setPin_atomArb (h i : Nat) (a : PinState) : (s.setPin h i a).atomArb = s.atomArb := rfl
@[simp] theorem State.setPin_agentWait (h i : Nat) (a : PinState) : (s.setPin h i a).agentWait = s.agentWait := rfl
@[simp] theorem State.setPin_orderTurn (h i : Nat) (a : PinState) : (s.setPin h i a).orderTurn = s.orderTurn := rfl
@[simp] theorem State.setPin_jobs (h i : Nat) (a : PinState) : (s.setPin h i a).jobs = s.jobs := rfl
@[simp] theorem State.setPin_jobSeq (h i : Nat) (a : PinState) : (s.setPin h i a).jobSeq = s.jobSeq := rfl
@[simp] theorem State.setPin_images (h i : Nat) (a : PinState) : (s.setPin h i a).images = s.images := rfl
@[simp] theorem State.setPin_swaps (h i : Nat) (a : PinState) : (s.setPin h i a).swaps = s.swaps := rfl
@[simp] theorem State.setPin_failovers (h i : Nat) (a : PinState) : (s.setPin h i a).failovers = s.failovers := rfl
@[simp] theorem State.setPin_held (h i : Nat) (a : PinState) : (s.setPin h i a).held = s.held := rfl
@[simp] theorem State.setPin_windDefault (h i : Nat) (a : PinState) : (s.setPin h i a).windDefault = s.windDefault := rfl
@[simp] theorem State.setPin_patches (h i : Nat) (a : PinState) : (s.setPin h i a).patches = s.patches := rfl
@[simp] theorem State.setPin_power (h i : Nat) (a : PinState) : (s.setPin h i a).power = s.power := rfl
@[simp] theorem State.setPin_dbg (h i : Nat) (a : PinState) : (s.setPin h i a).dbg = s.dbg := rfl
@[simp] theorem State.setPin_faults (h i : Nat) (a : PinState) : (s.setPin h i a).faults = s.faults := rfl
@[simp] theorem State.setPin_corrTold (h i : Nat) (a : PinState) : (s.setPin h i a).corrTold = s.corrTold := rfl
@[simp] theorem State.setPin_ports (h i : Nat) (a : PinState) : (s.setPin h i a).ports = s.ports := rfl
@[simp] theorem State.setPin_readOut (h i : Nat) (a : PinState) : (s.setPin h i a).readOut = s.readOut := rfl
@[simp] theorem State.setPin_readData (h i : Nat) (a : PinState) : (s.setPin h i a).readData = s.readData := rfl
@[simp] theorem State.setPin_readErr (h i : Nat) (a : PinState) : (s.setPin h i a).readErr = s.readErr := rfl
@[simp] theorem State.setPin_freeIx (h i : Nat) (a : PinState) : (s.setPin h i a).freeIx = s.freeIx := rfl
@[simp] theorem State.setPin_pending (h i : Nat) (a : PinState) : (s.setPin h i a).pending = s.pending := rfl
@[simp] theorem State.setPin_axis (h i : Nat) (a : PinState) (n' : Nat) : (s.setPin h i a).axis n' = s.axis n' := rfl
@[simp] theorem State.setPin_mark (h i : Nat) (a : PinState) (h' m' : Nat) : (s.setPin h i a).mark h' m' = s.mark h' m' := rfl
@[simp] theorem State.setPin_counter (h i : Nat) (a : PinState) (h' c' : Nat) : (s.setPin h i a).counter h' c' = s.counter h' c' := rfl
@[simp] theorem State.setPin_trader (h i : Nat) (a : PinState) (t' : TraderId) : (s.setPin h i a).trader t' = s.trader t' := rfl
@[simp] theorem State.setPin_stall (h i : Nat) (a : PinState) (h' n' : Nat) : (s.setPin h i a).stall h' n' = s.stall h' n' := rfl
@[simp] theorem State.setPin_crier (h i : Nat) (a : PinState) (c' : CrierId) : (s.setPin h i a).crier c' = s.crier c' := rfl
@[simp] theorem State.setPin_barrow (h i : Nat) (a : PinState) (h' b' : Nat) : (s.setPin h i a).barrow h' b' = s.barrow h' b' := rfl
@[simp] theorem State.setPin_lane (h i : Nat) (a : PinState) (h' k' : Nat) : (s.setPin h i a).lane h' k' = s.lane h' k' := rfl
@[simp] theorem State.setPin_thread (h i : Nat) (a : PinState) (h' k' th' : Nat) : (s.setPin h i a).thread h' k' th' = s.thread h' k' th' := rfl
@[simp] theorem State.setPin_rd (h i : Nat) (a : PinState) (q : Reg) : (s.setPin h i a).rd q = s.rd q := rfl
@[simp] theorem State.setPin_get (h i : Nat) (a : PinState) (g : Field) (j : Ix) : (s.setPin h i a).get g j = s.get g j := rfl
@[simp] theorem State.setPin_is (h i : Nat) (a : PinState) (g : Field) (j : Ix) : (s.setPin h i a).is g j = s.is g j := rfl
@[simp] theorem State.setPin_byte (h i : Nat) (a : PinState) (arr : Arr) (x : Nat) : (s.setPin h i a).byte arr x = s.byte arr x := rfl
@[simp] theorem State.setPin_bytesAt (h i : Nat) (a : PinState) (arr : Arr) (x n' : Nat) : (s.setPin h i a).bytesAt arr x n' = s.bytesAt arr x n' := rfl
@[simp] theorem State.setPin_natAt (h i : Nat) (a : PinState) (arr : Arr) (x n' : Nat) : (s.setPin h i a).natAt arr x n' = s.natAt arr x n' := rfl
@[simp] theorem State.setPin_job (h i : Nat) (a : PinState) (n' : Nat) : (s.setPin h i a).job n' = s.job n' := rfl

/-! ### `State.setTrader` -/

@[simp] theorem State.setTrader_part (t : TraderId) (a : Trader) : (s.setTrader t a).part = s.part := rfl
@[simp] theorem State.setTrader_tick (t : TraderId) (a : Trader) : (s.setTrader t a).tick = s.tick := rfl
@[simp] theorem State.setTrader_till (t : TraderId) (a : Trader) : (s.setTrader t a).till = s.till := rfl
@[simp] theorem State.setTrader_regs (t : TraderId) (a : Trader) : (s.setTrader t a).regs = s.regs := rfl
@[simp] theorem State.setTrader_hwSet (t : TraderId) (a : Trader) : (s.setTrader t a).hwSet = s.hwSet := rfl
@[simp] theorem State.setTrader_swSet (t : TraderId) (a : Trader) : (s.setTrader t a).swSet = s.swSet := rfl
@[simp] theorem State.setTrader_mem (t : TraderId) (a : Trader) : (s.setTrader t a).mem = s.mem := rfl
@[simp] theorem State.setTrader_ecc (t : TraderId) (a : Trader) : (s.setTrader t a).ecc = s.ecc := rfl
@[simp] theorem State.setTrader_axes (t : TraderId) (a : Trader) : (s.setTrader t a).axes = s.axes := rfl
@[simp] theorem State.setTrader_marks (t : TraderId) (a : Trader) : (s.setTrader t a).marks = s.marks := rfl
@[simp] theorem State.setTrader_counters (t : TraderId) (a : Trader) : (s.setTrader t a).counters = s.counters := rfl
@[simp] theorem State.setTrader_pins (t : TraderId) (a : Trader) : (s.setTrader t a).pins = s.pins := rfl
@[simp] theorem State.setTrader_criers (t : TraderId) (a : Trader) : (s.setTrader t a).criers = s.criers := rfl
@[simp] theorem State.setTrader_crWas (t : TraderId) (a : Trader) : (s.setTrader t a).crWas = s.crWas := rfl
@[simp] theorem State.setTrader_crDid (t : TraderId) (a : Trader) : (s.setTrader t a).crDid = s.crDid := rfl
@[simp] theorem State.setTrader_barrows (t : TraderId) (a : Trader) : (s.setTrader t a).barrows = s.barrows := rfl
@[simp] theorem State.setTrader_lanes (t : TraderId) (a : Trader) : (s.setTrader t a).lanes = s.lanes := rfl
@[simp] theorem State.setTrader_threads (t : TraderId) (a : Trader) : (s.setTrader t a).threads = s.threads := rfl
@[simp] theorem State.setTrader_chans (t : TraderId) (a : Trader) : (s.setTrader t a).chans = s.chans := rfl
@[simp] theorem State.setTrader_slots (t : TraderId) (a : Trader) : (s.setTrader t a).slots = s.slots := rfl
@[simp] theorem State.setTrader_cartTurn (t : TraderId) (a : Trader) : (s.setTrader t a).cartTurn = s.cartTurn := rfl
@[simp] theorem State.setTrader_calibs (t : TraderId) (a : Trader) : (s.setTrader t a).calibs = s.calibs := rfl
@[simp] theorem State.setTrader_wind (t : TraderId) (a : Trader) : (s.setTrader t a).wind = s.wind := rfl
@[simp] theorem State.setTrader_stalls (t : TraderId) (a : Trader) : (s.setTrader t a).stalls = s.stalls := rfl
@[simp] theorem State.setTrader_stallSlot (t : TraderId) (a : Trader) : (s.setTrader t a).stallSlot = s.stallSlot := rfl
@[simp] theorem State.setTrader_deliveries (t : TraderId) (a : Trader) : (s.setTrader t a).deliveries = s.deliveries := rfl
@[simp] theorem State.setTrader_edgeActs (t : TraderId) (a : Trader) : (s.setTrader t a).edgeActs = s.edgeActs := rfl
@[simp] theorem State.setTrader_tokens (t : TraderId) (a : Trader) : (s.setTrader t a).tokens = s.tokens := rfl
@[simp] theorem State.setTrader_hostPops (t : TraderId) (a : Trader) : (s.setTrader t a).hostPops = s.hostPops := rfl
@[simp] theorem State.setTrader_deferred (t : TraderId) (a : Trader) : (s.setTrader t a).deferred = s.deferred := rfl
@[simp] theorem State.setTrader_chits (t : TraderId) (a : Trader) : (s.setTrader t a).chits = s.chits := rfl
@[simp] theorem State.setTrader_reqs (t : TraderId) (a : Trader) : (s.setTrader t a).reqs = s.reqs := rfl
@[simp] theorem State.setTrader_arrived (t : TraderId) (a : Trader) : (s.setTrader t a).arrived = s.arrived := rfl
@[simp] theorem State.setTrader_nextReq (t : TraderId) (a : Trader) : (s.setTrader t a).nextReq = s.nextReq := rfl
@[simp] theorem State.setTrader_pathArb (t : TraderId) (a : Trader) : (s.setTrader t a).pathArb = s.pathArb := rfl
@[simp] theorem State.setTrader_portArb (t : TraderId) (a : Trader) : (s.setTrader t a).portArb = s.portArb := rfl
@[simp] theorem State.setTrader_atomArb (t : TraderId) (a : Trader) : (s.setTrader t a).atomArb = s.atomArb := rfl
@[simp] theorem State.setTrader_agentWait (t : TraderId) (a : Trader) : (s.setTrader t a).agentWait = s.agentWait := rfl
@[simp] theorem State.setTrader_orderTurn (t : TraderId) (a : Trader) : (s.setTrader t a).orderTurn = s.orderTurn := rfl
@[simp] theorem State.setTrader_jobs (t : TraderId) (a : Trader) : (s.setTrader t a).jobs = s.jobs := rfl
@[simp] theorem State.setTrader_jobSeq (t : TraderId) (a : Trader) : (s.setTrader t a).jobSeq = s.jobSeq := rfl
@[simp] theorem State.setTrader_images (t : TraderId) (a : Trader) : (s.setTrader t a).images = s.images := rfl
@[simp] theorem State.setTrader_swaps (t : TraderId) (a : Trader) : (s.setTrader t a).swaps = s.swaps := rfl
@[simp] theorem State.setTrader_failovers (t : TraderId) (a : Trader) : (s.setTrader t a).failovers = s.failovers := rfl
@[simp] theorem State.setTrader_held (t : TraderId) (a : Trader) : (s.setTrader t a).held = s.held := rfl
@[simp] theorem State.setTrader_windDefault (t : TraderId) (a : Trader) : (s.setTrader t a).windDefault = s.windDefault := rfl
@[simp] theorem State.setTrader_patches (t : TraderId) (a : Trader) : (s.setTrader t a).patches = s.patches := rfl
@[simp] theorem State.setTrader_power (t : TraderId) (a : Trader) : (s.setTrader t a).power = s.power := rfl
@[simp] theorem State.setTrader_dbg (t : TraderId) (a : Trader) : (s.setTrader t a).dbg = s.dbg := rfl
@[simp] theorem State.setTrader_faults (t : TraderId) (a : Trader) : (s.setTrader t a).faults = s.faults := rfl
@[simp] theorem State.setTrader_corrTold (t : TraderId) (a : Trader) : (s.setTrader t a).corrTold = s.corrTold := rfl
@[simp] theorem State.setTrader_ports (t : TraderId) (a : Trader) : (s.setTrader t a).ports = s.ports := rfl
@[simp] theorem State.setTrader_readOut (t : TraderId) (a : Trader) : (s.setTrader t a).readOut = s.readOut := rfl
@[simp] theorem State.setTrader_readData (t : TraderId) (a : Trader) : (s.setTrader t a).readData = s.readData := rfl
@[simp] theorem State.setTrader_readErr (t : TraderId) (a : Trader) : (s.setTrader t a).readErr = s.readErr := rfl
@[simp] theorem State.setTrader_freeIx (t : TraderId) (a : Trader) : (s.setTrader t a).freeIx = s.freeIx := rfl
@[simp] theorem State.setTrader_pending (t : TraderId) (a : Trader) : (s.setTrader t a).pending = s.pending := rfl
@[simp] theorem State.setTrader_axis (t : TraderId) (a : Trader) (n' : Nat) : (s.setTrader t a).axis n' = s.axis n' := rfl
@[simp] theorem State.setTrader_mark (t : TraderId) (a : Trader) (h' m' : Nat) : (s.setTrader t a).mark h' m' = s.mark h' m' := rfl
@[simp] theorem State.setTrader_counter (t : TraderId) (a : Trader) (h' c' : Nat) : (s.setTrader t a).counter h' c' = s.counter h' c' := rfl
@[simp] theorem State.setTrader_pin (t : TraderId) (a : Trader) (h' i' : Nat) : (s.setTrader t a).pin h' i' = s.pin h' i' := rfl
@[simp] theorem State.setTrader_stall (t : TraderId) (a : Trader) (h' n' : Nat) : (s.setTrader t a).stall h' n' = s.stall h' n' := rfl
@[simp] theorem State.setTrader_crier (t : TraderId) (a : Trader) (c' : CrierId) : (s.setTrader t a).crier c' = s.crier c' := rfl
@[simp] theorem State.setTrader_barrow (t : TraderId) (a : Trader) (h' b' : Nat) : (s.setTrader t a).barrow h' b' = s.barrow h' b' := rfl
@[simp] theorem State.setTrader_lane (t : TraderId) (a : Trader) (h' k' : Nat) : (s.setTrader t a).lane h' k' = s.lane h' k' := rfl
@[simp] theorem State.setTrader_thread (t : TraderId) (a : Trader) (h' k' th' : Nat) : (s.setTrader t a).thread h' k' th' = s.thread h' k' th' := rfl
@[simp] theorem State.setTrader_rd (t : TraderId) (a : Trader) (q : Reg) : (s.setTrader t a).rd q = s.rd q := rfl
@[simp] theorem State.setTrader_get (t : TraderId) (a : Trader) (g : Field) (j : Ix) : (s.setTrader t a).get g j = s.get g j := rfl
@[simp] theorem State.setTrader_is (t : TraderId) (a : Trader) (g : Field) (j : Ix) : (s.setTrader t a).is g j = s.is g j := rfl
@[simp] theorem State.setTrader_byte (t : TraderId) (a : Trader) (arr : Arr) (x : Nat) : (s.setTrader t a).byte arr x = s.byte arr x := rfl
@[simp] theorem State.setTrader_bytesAt (t : TraderId) (a : Trader) (arr : Arr) (x n' : Nat) : (s.setTrader t a).bytesAt arr x n' = s.bytesAt arr x n' := rfl
@[simp] theorem State.setTrader_natAt (t : TraderId) (a : Trader) (arr : Arr) (x n' : Nat) : (s.setTrader t a).natAt arr x n' = s.natAt arr x n' := rfl
@[simp] theorem State.setTrader_job (t : TraderId) (a : Trader) (n' : Nat) : (s.setTrader t a).job n' = s.job n' := rfl

/-! ### `State.setStall` -/

@[simp] theorem State.setStall_part (h n : Nat) (a : Stall) : (s.setStall h n a).part = s.part := rfl
@[simp] theorem State.setStall_tick (h n : Nat) (a : Stall) : (s.setStall h n a).tick = s.tick := rfl
@[simp] theorem State.setStall_till (h n : Nat) (a : Stall) : (s.setStall h n a).till = s.till := rfl
@[simp] theorem State.setStall_regs (h n : Nat) (a : Stall) : (s.setStall h n a).regs = s.regs := rfl
@[simp] theorem State.setStall_hwSet (h n : Nat) (a : Stall) : (s.setStall h n a).hwSet = s.hwSet := rfl
@[simp] theorem State.setStall_swSet (h n : Nat) (a : Stall) : (s.setStall h n a).swSet = s.swSet := rfl
@[simp] theorem State.setStall_mem (h n : Nat) (a : Stall) : (s.setStall h n a).mem = s.mem := rfl
@[simp] theorem State.setStall_ecc (h n : Nat) (a : Stall) : (s.setStall h n a).ecc = s.ecc := rfl
@[simp] theorem State.setStall_axes (h n : Nat) (a : Stall) : (s.setStall h n a).axes = s.axes := rfl
@[simp] theorem State.setStall_marks (h n : Nat) (a : Stall) : (s.setStall h n a).marks = s.marks := rfl
@[simp] theorem State.setStall_counters (h n : Nat) (a : Stall) : (s.setStall h n a).counters = s.counters := rfl
@[simp] theorem State.setStall_pins (h n : Nat) (a : Stall) : (s.setStall h n a).pins = s.pins := rfl
@[simp] theorem State.setStall_criers (h n : Nat) (a : Stall) : (s.setStall h n a).criers = s.criers := rfl
@[simp] theorem State.setStall_crWas (h n : Nat) (a : Stall) : (s.setStall h n a).crWas = s.crWas := rfl
@[simp] theorem State.setStall_crDid (h n : Nat) (a : Stall) : (s.setStall h n a).crDid = s.crDid := rfl
@[simp] theorem State.setStall_barrows (h n : Nat) (a : Stall) : (s.setStall h n a).barrows = s.barrows := rfl
@[simp] theorem State.setStall_lanes (h n : Nat) (a : Stall) : (s.setStall h n a).lanes = s.lanes := rfl
@[simp] theorem State.setStall_threads (h n : Nat) (a : Stall) : (s.setStall h n a).threads = s.threads := rfl
@[simp] theorem State.setStall_chans (h n : Nat) (a : Stall) : (s.setStall h n a).chans = s.chans := rfl
@[simp] theorem State.setStall_slots (h n : Nat) (a : Stall) : (s.setStall h n a).slots = s.slots := rfl
@[simp] theorem State.setStall_cartTurn (h n : Nat) (a : Stall) : (s.setStall h n a).cartTurn = s.cartTurn := rfl
@[simp] theorem State.setStall_calibs (h n : Nat) (a : Stall) : (s.setStall h n a).calibs = s.calibs := rfl
@[simp] theorem State.setStall_wind (h n : Nat) (a : Stall) : (s.setStall h n a).wind = s.wind := rfl
@[simp] theorem State.setStall_traders (h n : Nat) (a : Stall) : (s.setStall h n a).traders = s.traders := rfl
@[simp] theorem State.setStall_stallSlot (h n : Nat) (a : Stall) : (s.setStall h n a).stallSlot = s.stallSlot := rfl
@[simp] theorem State.setStall_deliveries (h n : Nat) (a : Stall) : (s.setStall h n a).deliveries = s.deliveries := rfl
@[simp] theorem State.setStall_edgeActs (h n : Nat) (a : Stall) : (s.setStall h n a).edgeActs = s.edgeActs := rfl
@[simp] theorem State.setStall_tokens (h n : Nat) (a : Stall) : (s.setStall h n a).tokens = s.tokens := rfl
@[simp] theorem State.setStall_hostPops (h n : Nat) (a : Stall) : (s.setStall h n a).hostPops = s.hostPops := rfl
@[simp] theorem State.setStall_deferred (h n : Nat) (a : Stall) : (s.setStall h n a).deferred = s.deferred := rfl
@[simp] theorem State.setStall_chits (h n : Nat) (a : Stall) : (s.setStall h n a).chits = s.chits := rfl
@[simp] theorem State.setStall_reqs (h n : Nat) (a : Stall) : (s.setStall h n a).reqs = s.reqs := rfl
@[simp] theorem State.setStall_arrived (h n : Nat) (a : Stall) : (s.setStall h n a).arrived = s.arrived := rfl
@[simp] theorem State.setStall_nextReq (h n : Nat) (a : Stall) : (s.setStall h n a).nextReq = s.nextReq := rfl
@[simp] theorem State.setStall_pathArb (h n : Nat) (a : Stall) : (s.setStall h n a).pathArb = s.pathArb := rfl
@[simp] theorem State.setStall_portArb (h n : Nat) (a : Stall) : (s.setStall h n a).portArb = s.portArb := rfl
@[simp] theorem State.setStall_atomArb (h n : Nat) (a : Stall) : (s.setStall h n a).atomArb = s.atomArb := rfl
@[simp] theorem State.setStall_agentWait (h n : Nat) (a : Stall) : (s.setStall h n a).agentWait = s.agentWait := rfl
@[simp] theorem State.setStall_orderTurn (h n : Nat) (a : Stall) : (s.setStall h n a).orderTurn = s.orderTurn := rfl
@[simp] theorem State.setStall_jobs (h n : Nat) (a : Stall) : (s.setStall h n a).jobs = s.jobs := rfl
@[simp] theorem State.setStall_jobSeq (h n : Nat) (a : Stall) : (s.setStall h n a).jobSeq = s.jobSeq := rfl
@[simp] theorem State.setStall_images (h n : Nat) (a : Stall) : (s.setStall h n a).images = s.images := rfl
@[simp] theorem State.setStall_swaps (h n : Nat) (a : Stall) : (s.setStall h n a).swaps = s.swaps := rfl
@[simp] theorem State.setStall_failovers (h n : Nat) (a : Stall) : (s.setStall h n a).failovers = s.failovers := rfl
@[simp] theorem State.setStall_held (h n : Nat) (a : Stall) : (s.setStall h n a).held = s.held := rfl
@[simp] theorem State.setStall_windDefault (h n : Nat) (a : Stall) : (s.setStall h n a).windDefault = s.windDefault := rfl
@[simp] theorem State.setStall_patches (h n : Nat) (a : Stall) : (s.setStall h n a).patches = s.patches := rfl
@[simp] theorem State.setStall_power (h n : Nat) (a : Stall) : (s.setStall h n a).power = s.power := rfl
@[simp] theorem State.setStall_dbg (h n : Nat) (a : Stall) : (s.setStall h n a).dbg = s.dbg := rfl
@[simp] theorem State.setStall_faults (h n : Nat) (a : Stall) : (s.setStall h n a).faults = s.faults := rfl
@[simp] theorem State.setStall_corrTold (h n : Nat) (a : Stall) : (s.setStall h n a).corrTold = s.corrTold := rfl
@[simp] theorem State.setStall_ports (h n : Nat) (a : Stall) : (s.setStall h n a).ports = s.ports := rfl
@[simp] theorem State.setStall_readOut (h n : Nat) (a : Stall) : (s.setStall h n a).readOut = s.readOut := rfl
@[simp] theorem State.setStall_readData (h n : Nat) (a : Stall) : (s.setStall h n a).readData = s.readData := rfl
@[simp] theorem State.setStall_readErr (h n : Nat) (a : Stall) : (s.setStall h n a).readErr = s.readErr := rfl
@[simp] theorem State.setStall_freeIx (h n : Nat) (a : Stall) : (s.setStall h n a).freeIx = s.freeIx := rfl
@[simp] theorem State.setStall_pending (h n : Nat) (a : Stall) : (s.setStall h n a).pending = s.pending := rfl
@[simp] theorem State.setStall_axis (h n : Nat) (a : Stall) (n' : Nat) : (s.setStall h n a).axis n' = s.axis n' := rfl
@[simp] theorem State.setStall_mark (h n : Nat) (a : Stall) (h' m' : Nat) : (s.setStall h n a).mark h' m' = s.mark h' m' := rfl
@[simp] theorem State.setStall_counter (h n : Nat) (a : Stall) (h' c' : Nat) : (s.setStall h n a).counter h' c' = s.counter h' c' := rfl
@[simp] theorem State.setStall_pin (h n : Nat) (a : Stall) (h' i' : Nat) : (s.setStall h n a).pin h' i' = s.pin h' i' := rfl
@[simp] theorem State.setStall_trader (h n : Nat) (a : Stall) (t' : TraderId) : (s.setStall h n a).trader t' = s.trader t' := rfl
@[simp] theorem State.setStall_crier (h n : Nat) (a : Stall) (c' : CrierId) : (s.setStall h n a).crier c' = s.crier c' := rfl
@[simp] theorem State.setStall_barrow (h n : Nat) (a : Stall) (h' b' : Nat) : (s.setStall h n a).barrow h' b' = s.barrow h' b' := rfl
@[simp] theorem State.setStall_lane (h n : Nat) (a : Stall) (h' k' : Nat) : (s.setStall h n a).lane h' k' = s.lane h' k' := rfl
@[simp] theorem State.setStall_thread (h n : Nat) (a : Stall) (h' k' th' : Nat) : (s.setStall h n a).thread h' k' th' = s.thread h' k' th' := rfl
@[simp] theorem State.setStall_rd (h n : Nat) (a : Stall) (q : Reg) : (s.setStall h n a).rd q = s.rd q := rfl
@[simp] theorem State.setStall_get (h n : Nat) (a : Stall) (g : Field) (j : Ix) : (s.setStall h n a).get g j = s.get g j := rfl
@[simp] theorem State.setStall_is (h n : Nat) (a : Stall) (g : Field) (j : Ix) : (s.setStall h n a).is g j = s.is g j := rfl
@[simp] theorem State.setStall_byte (h n : Nat) (a : Stall) (arr : Arr) (x : Nat) : (s.setStall h n a).byte arr x = s.byte arr x := rfl
@[simp] theorem State.setStall_bytesAt (h n : Nat) (a : Stall) (arr : Arr) (x n' : Nat) : (s.setStall h n a).bytesAt arr x n' = s.bytesAt arr x n' := rfl
@[simp] theorem State.setStall_natAt (h n : Nat) (a : Stall) (arr : Arr) (x n' : Nat) : (s.setStall h n a).natAt arr x n' = s.natAt arr x n' := rfl
@[simp] theorem State.setStall_job (h n : Nat) (a : Stall) (n' : Nat) : (s.setStall h n a).job n' = s.job n' := rfl

/-! ### `State.setCrier` -/

@[simp] theorem State.setCrier_part (c : CrierId) (a : Crier) : (s.setCrier c a).part = s.part := rfl
@[simp] theorem State.setCrier_tick (c : CrierId) (a : Crier) : (s.setCrier c a).tick = s.tick := rfl
@[simp] theorem State.setCrier_till (c : CrierId) (a : Crier) : (s.setCrier c a).till = s.till := rfl
@[simp] theorem State.setCrier_regs (c : CrierId) (a : Crier) : (s.setCrier c a).regs = s.regs := rfl
@[simp] theorem State.setCrier_hwSet (c : CrierId) (a : Crier) : (s.setCrier c a).hwSet = s.hwSet := rfl
@[simp] theorem State.setCrier_swSet (c : CrierId) (a : Crier) : (s.setCrier c a).swSet = s.swSet := rfl
@[simp] theorem State.setCrier_mem (c : CrierId) (a : Crier) : (s.setCrier c a).mem = s.mem := rfl
@[simp] theorem State.setCrier_ecc (c : CrierId) (a : Crier) : (s.setCrier c a).ecc = s.ecc := rfl
@[simp] theorem State.setCrier_axes (c : CrierId) (a : Crier) : (s.setCrier c a).axes = s.axes := rfl
@[simp] theorem State.setCrier_marks (c : CrierId) (a : Crier) : (s.setCrier c a).marks = s.marks := rfl
@[simp] theorem State.setCrier_counters (c : CrierId) (a : Crier) : (s.setCrier c a).counters = s.counters := rfl
@[simp] theorem State.setCrier_pins (c : CrierId) (a : Crier) : (s.setCrier c a).pins = s.pins := rfl
@[simp] theorem State.setCrier_crWas (c : CrierId) (a : Crier) : (s.setCrier c a).crWas = s.crWas := rfl
@[simp] theorem State.setCrier_crDid (c : CrierId) (a : Crier) : (s.setCrier c a).crDid = s.crDid := rfl
@[simp] theorem State.setCrier_barrows (c : CrierId) (a : Crier) : (s.setCrier c a).barrows = s.barrows := rfl
@[simp] theorem State.setCrier_lanes (c : CrierId) (a : Crier) : (s.setCrier c a).lanes = s.lanes := rfl
@[simp] theorem State.setCrier_threads (c : CrierId) (a : Crier) : (s.setCrier c a).threads = s.threads := rfl
@[simp] theorem State.setCrier_chans (c : CrierId) (a : Crier) : (s.setCrier c a).chans = s.chans := rfl
@[simp] theorem State.setCrier_slots (c : CrierId) (a : Crier) : (s.setCrier c a).slots = s.slots := rfl
@[simp] theorem State.setCrier_cartTurn (c : CrierId) (a : Crier) : (s.setCrier c a).cartTurn = s.cartTurn := rfl
@[simp] theorem State.setCrier_calibs (c : CrierId) (a : Crier) : (s.setCrier c a).calibs = s.calibs := rfl
@[simp] theorem State.setCrier_wind (c : CrierId) (a : Crier) : (s.setCrier c a).wind = s.wind := rfl
@[simp] theorem State.setCrier_traders (c : CrierId) (a : Crier) : (s.setCrier c a).traders = s.traders := rfl
@[simp] theorem State.setCrier_stalls (c : CrierId) (a : Crier) : (s.setCrier c a).stalls = s.stalls := rfl
@[simp] theorem State.setCrier_stallSlot (c : CrierId) (a : Crier) : (s.setCrier c a).stallSlot = s.stallSlot := rfl
@[simp] theorem State.setCrier_deliveries (c : CrierId) (a : Crier) : (s.setCrier c a).deliveries = s.deliveries := rfl
@[simp] theorem State.setCrier_edgeActs (c : CrierId) (a : Crier) : (s.setCrier c a).edgeActs = s.edgeActs := rfl
@[simp] theorem State.setCrier_tokens (c : CrierId) (a : Crier) : (s.setCrier c a).tokens = s.tokens := rfl
@[simp] theorem State.setCrier_hostPops (c : CrierId) (a : Crier) : (s.setCrier c a).hostPops = s.hostPops := rfl
@[simp] theorem State.setCrier_deferred (c : CrierId) (a : Crier) : (s.setCrier c a).deferred = s.deferred := rfl
@[simp] theorem State.setCrier_chits (c : CrierId) (a : Crier) : (s.setCrier c a).chits = s.chits := rfl
@[simp] theorem State.setCrier_reqs (c : CrierId) (a : Crier) : (s.setCrier c a).reqs = s.reqs := rfl
@[simp] theorem State.setCrier_arrived (c : CrierId) (a : Crier) : (s.setCrier c a).arrived = s.arrived := rfl
@[simp] theorem State.setCrier_nextReq (c : CrierId) (a : Crier) : (s.setCrier c a).nextReq = s.nextReq := rfl
@[simp] theorem State.setCrier_pathArb (c : CrierId) (a : Crier) : (s.setCrier c a).pathArb = s.pathArb := rfl
@[simp] theorem State.setCrier_portArb (c : CrierId) (a : Crier) : (s.setCrier c a).portArb = s.portArb := rfl
@[simp] theorem State.setCrier_atomArb (c : CrierId) (a : Crier) : (s.setCrier c a).atomArb = s.atomArb := rfl
@[simp] theorem State.setCrier_agentWait (c : CrierId) (a : Crier) : (s.setCrier c a).agentWait = s.agentWait := rfl
@[simp] theorem State.setCrier_orderTurn (c : CrierId) (a : Crier) : (s.setCrier c a).orderTurn = s.orderTurn := rfl
@[simp] theorem State.setCrier_jobs (c : CrierId) (a : Crier) : (s.setCrier c a).jobs = s.jobs := rfl
@[simp] theorem State.setCrier_jobSeq (c : CrierId) (a : Crier) : (s.setCrier c a).jobSeq = s.jobSeq := rfl
@[simp] theorem State.setCrier_images (c : CrierId) (a : Crier) : (s.setCrier c a).images = s.images := rfl
@[simp] theorem State.setCrier_swaps (c : CrierId) (a : Crier) : (s.setCrier c a).swaps = s.swaps := rfl
@[simp] theorem State.setCrier_failovers (c : CrierId) (a : Crier) : (s.setCrier c a).failovers = s.failovers := rfl
@[simp] theorem State.setCrier_held (c : CrierId) (a : Crier) : (s.setCrier c a).held = s.held := rfl
@[simp] theorem State.setCrier_windDefault (c : CrierId) (a : Crier) : (s.setCrier c a).windDefault = s.windDefault := rfl
@[simp] theorem State.setCrier_patches (c : CrierId) (a : Crier) : (s.setCrier c a).patches = s.patches := rfl
@[simp] theorem State.setCrier_power (c : CrierId) (a : Crier) : (s.setCrier c a).power = s.power := rfl
@[simp] theorem State.setCrier_dbg (c : CrierId) (a : Crier) : (s.setCrier c a).dbg = s.dbg := rfl
@[simp] theorem State.setCrier_faults (c : CrierId) (a : Crier) : (s.setCrier c a).faults = s.faults := rfl
@[simp] theorem State.setCrier_corrTold (c : CrierId) (a : Crier) : (s.setCrier c a).corrTold = s.corrTold := rfl
@[simp] theorem State.setCrier_ports (c : CrierId) (a : Crier) : (s.setCrier c a).ports = s.ports := rfl
@[simp] theorem State.setCrier_readOut (c : CrierId) (a : Crier) : (s.setCrier c a).readOut = s.readOut := rfl
@[simp] theorem State.setCrier_readData (c : CrierId) (a : Crier) : (s.setCrier c a).readData = s.readData := rfl
@[simp] theorem State.setCrier_readErr (c : CrierId) (a : Crier) : (s.setCrier c a).readErr = s.readErr := rfl
@[simp] theorem State.setCrier_freeIx (c : CrierId) (a : Crier) : (s.setCrier c a).freeIx = s.freeIx := rfl
@[simp] theorem State.setCrier_pending (c : CrierId) (a : Crier) : (s.setCrier c a).pending = s.pending := rfl
@[simp] theorem State.setCrier_axis (c : CrierId) (a : Crier) (n' : Nat) : (s.setCrier c a).axis n' = s.axis n' := rfl
@[simp] theorem State.setCrier_mark (c : CrierId) (a : Crier) (h' m' : Nat) : (s.setCrier c a).mark h' m' = s.mark h' m' := rfl
@[simp] theorem State.setCrier_counter (c : CrierId) (a : Crier) (h' c' : Nat) : (s.setCrier c a).counter h' c' = s.counter h' c' := rfl
@[simp] theorem State.setCrier_pin (c : CrierId) (a : Crier) (h' i' : Nat) : (s.setCrier c a).pin h' i' = s.pin h' i' := rfl
@[simp] theorem State.setCrier_trader (c : CrierId) (a : Crier) (t' : TraderId) : (s.setCrier c a).trader t' = s.trader t' := rfl
@[simp] theorem State.setCrier_stall (c : CrierId) (a : Crier) (h' n' : Nat) : (s.setCrier c a).stall h' n' = s.stall h' n' := rfl
@[simp] theorem State.setCrier_barrow (c : CrierId) (a : Crier) (h' b' : Nat) : (s.setCrier c a).barrow h' b' = s.barrow h' b' := rfl
@[simp] theorem State.setCrier_lane (c : CrierId) (a : Crier) (h' k' : Nat) : (s.setCrier c a).lane h' k' = s.lane h' k' := rfl
@[simp] theorem State.setCrier_thread (c : CrierId) (a : Crier) (h' k' th' : Nat) : (s.setCrier c a).thread h' k' th' = s.thread h' k' th' := rfl
@[simp] theorem State.setCrier_rd (c : CrierId) (a : Crier) (q : Reg) : (s.setCrier c a).rd q = s.rd q := rfl
@[simp] theorem State.setCrier_get (c : CrierId) (a : Crier) (g : Field) (j : Ix) : (s.setCrier c a).get g j = s.get g j := rfl
@[simp] theorem State.setCrier_is (c : CrierId) (a : Crier) (g : Field) (j : Ix) : (s.setCrier c a).is g j = s.is g j := rfl
@[simp] theorem State.setCrier_byte (c : CrierId) (a : Crier) (arr : Arr) (x : Nat) : (s.setCrier c a).byte arr x = s.byte arr x := rfl
@[simp] theorem State.setCrier_bytesAt (c : CrierId) (a : Crier) (arr : Arr) (x n' : Nat) : (s.setCrier c a).bytesAt arr x n' = s.bytesAt arr x n' := rfl
@[simp] theorem State.setCrier_natAt (c : CrierId) (a : Crier) (arr : Arr) (x n' : Nat) : (s.setCrier c a).natAt arr x n' = s.natAt arr x n' := rfl
@[simp] theorem State.setCrier_job (c : CrierId) (a : Crier) (n' : Nat) : (s.setCrier c a).job n' = s.job n' := rfl

/-! ### `State.setBarrow` -/

@[simp] theorem State.setBarrow_part (h b : Nat) (a : Barrow) : (s.setBarrow h b a).part = s.part := rfl
@[simp] theorem State.setBarrow_tick (h b : Nat) (a : Barrow) : (s.setBarrow h b a).tick = s.tick := rfl
@[simp] theorem State.setBarrow_till (h b : Nat) (a : Barrow) : (s.setBarrow h b a).till = s.till := rfl
@[simp] theorem State.setBarrow_regs (h b : Nat) (a : Barrow) : (s.setBarrow h b a).regs = s.regs := rfl
@[simp] theorem State.setBarrow_hwSet (h b : Nat) (a : Barrow) : (s.setBarrow h b a).hwSet = s.hwSet := rfl
@[simp] theorem State.setBarrow_swSet (h b : Nat) (a : Barrow) : (s.setBarrow h b a).swSet = s.swSet := rfl
@[simp] theorem State.setBarrow_mem (h b : Nat) (a : Barrow) : (s.setBarrow h b a).mem = s.mem := rfl
@[simp] theorem State.setBarrow_ecc (h b : Nat) (a : Barrow) : (s.setBarrow h b a).ecc = s.ecc := rfl
@[simp] theorem State.setBarrow_axes (h b : Nat) (a : Barrow) : (s.setBarrow h b a).axes = s.axes := rfl
@[simp] theorem State.setBarrow_marks (h b : Nat) (a : Barrow) : (s.setBarrow h b a).marks = s.marks := rfl
@[simp] theorem State.setBarrow_counters (h b : Nat) (a : Barrow) : (s.setBarrow h b a).counters = s.counters := rfl
@[simp] theorem State.setBarrow_pins (h b : Nat) (a : Barrow) : (s.setBarrow h b a).pins = s.pins := rfl
@[simp] theorem State.setBarrow_criers (h b : Nat) (a : Barrow) : (s.setBarrow h b a).criers = s.criers := rfl
@[simp] theorem State.setBarrow_crWas (h b : Nat) (a : Barrow) : (s.setBarrow h b a).crWas = s.crWas := rfl
@[simp] theorem State.setBarrow_crDid (h b : Nat) (a : Barrow) : (s.setBarrow h b a).crDid = s.crDid := rfl
@[simp] theorem State.setBarrow_lanes (h b : Nat) (a : Barrow) : (s.setBarrow h b a).lanes = s.lanes := rfl
@[simp] theorem State.setBarrow_threads (h b : Nat) (a : Barrow) : (s.setBarrow h b a).threads = s.threads := rfl
@[simp] theorem State.setBarrow_chans (h b : Nat) (a : Barrow) : (s.setBarrow h b a).chans = s.chans := rfl
@[simp] theorem State.setBarrow_slots (h b : Nat) (a : Barrow) : (s.setBarrow h b a).slots = s.slots := rfl
@[simp] theorem State.setBarrow_cartTurn (h b : Nat) (a : Barrow) : (s.setBarrow h b a).cartTurn = s.cartTurn := rfl
@[simp] theorem State.setBarrow_calibs (h b : Nat) (a : Barrow) : (s.setBarrow h b a).calibs = s.calibs := rfl
@[simp] theorem State.setBarrow_wind (h b : Nat) (a : Barrow) : (s.setBarrow h b a).wind = s.wind := rfl
@[simp] theorem State.setBarrow_traders (h b : Nat) (a : Barrow) : (s.setBarrow h b a).traders = s.traders := rfl
@[simp] theorem State.setBarrow_stalls (h b : Nat) (a : Barrow) : (s.setBarrow h b a).stalls = s.stalls := rfl
@[simp] theorem State.setBarrow_stallSlot (h b : Nat) (a : Barrow) : (s.setBarrow h b a).stallSlot = s.stallSlot := rfl
@[simp] theorem State.setBarrow_deliveries (h b : Nat) (a : Barrow) : (s.setBarrow h b a).deliveries = s.deliveries := rfl
@[simp] theorem State.setBarrow_edgeActs (h b : Nat) (a : Barrow) : (s.setBarrow h b a).edgeActs = s.edgeActs := rfl
@[simp] theorem State.setBarrow_tokens (h b : Nat) (a : Barrow) : (s.setBarrow h b a).tokens = s.tokens := rfl
@[simp] theorem State.setBarrow_hostPops (h b : Nat) (a : Barrow) : (s.setBarrow h b a).hostPops = s.hostPops := rfl
@[simp] theorem State.setBarrow_deferred (h b : Nat) (a : Barrow) : (s.setBarrow h b a).deferred = s.deferred := rfl
@[simp] theorem State.setBarrow_chits (h b : Nat) (a : Barrow) : (s.setBarrow h b a).chits = s.chits := rfl
@[simp] theorem State.setBarrow_reqs (h b : Nat) (a : Barrow) : (s.setBarrow h b a).reqs = s.reqs := rfl
@[simp] theorem State.setBarrow_arrived (h b : Nat) (a : Barrow) : (s.setBarrow h b a).arrived = s.arrived := rfl
@[simp] theorem State.setBarrow_nextReq (h b : Nat) (a : Barrow) : (s.setBarrow h b a).nextReq = s.nextReq := rfl
@[simp] theorem State.setBarrow_pathArb (h b : Nat) (a : Barrow) : (s.setBarrow h b a).pathArb = s.pathArb := rfl
@[simp] theorem State.setBarrow_portArb (h b : Nat) (a : Barrow) : (s.setBarrow h b a).portArb = s.portArb := rfl
@[simp] theorem State.setBarrow_atomArb (h b : Nat) (a : Barrow) : (s.setBarrow h b a).atomArb = s.atomArb := rfl
@[simp] theorem State.setBarrow_agentWait (h b : Nat) (a : Barrow) : (s.setBarrow h b a).agentWait = s.agentWait := rfl
@[simp] theorem State.setBarrow_orderTurn (h b : Nat) (a : Barrow) : (s.setBarrow h b a).orderTurn = s.orderTurn := rfl
@[simp] theorem State.setBarrow_jobs (h b : Nat) (a : Barrow) : (s.setBarrow h b a).jobs = s.jobs := rfl
@[simp] theorem State.setBarrow_jobSeq (h b : Nat) (a : Barrow) : (s.setBarrow h b a).jobSeq = s.jobSeq := rfl
@[simp] theorem State.setBarrow_images (h b : Nat) (a : Barrow) : (s.setBarrow h b a).images = s.images := rfl
@[simp] theorem State.setBarrow_swaps (h b : Nat) (a : Barrow) : (s.setBarrow h b a).swaps = s.swaps := rfl
@[simp] theorem State.setBarrow_failovers (h b : Nat) (a : Barrow) : (s.setBarrow h b a).failovers = s.failovers := rfl
@[simp] theorem State.setBarrow_held (h b : Nat) (a : Barrow) : (s.setBarrow h b a).held = s.held := rfl
@[simp] theorem State.setBarrow_windDefault (h b : Nat) (a : Barrow) : (s.setBarrow h b a).windDefault = s.windDefault := rfl
@[simp] theorem State.setBarrow_patches (h b : Nat) (a : Barrow) : (s.setBarrow h b a).patches = s.patches := rfl
@[simp] theorem State.setBarrow_power (h b : Nat) (a : Barrow) : (s.setBarrow h b a).power = s.power := rfl
@[simp] theorem State.setBarrow_dbg (h b : Nat) (a : Barrow) : (s.setBarrow h b a).dbg = s.dbg := rfl
@[simp] theorem State.setBarrow_faults (h b : Nat) (a : Barrow) : (s.setBarrow h b a).faults = s.faults := rfl
@[simp] theorem State.setBarrow_corrTold (h b : Nat) (a : Barrow) : (s.setBarrow h b a).corrTold = s.corrTold := rfl
@[simp] theorem State.setBarrow_ports (h b : Nat) (a : Barrow) : (s.setBarrow h b a).ports = s.ports := rfl
@[simp] theorem State.setBarrow_readOut (h b : Nat) (a : Barrow) : (s.setBarrow h b a).readOut = s.readOut := rfl
@[simp] theorem State.setBarrow_readData (h b : Nat) (a : Barrow) : (s.setBarrow h b a).readData = s.readData := rfl
@[simp] theorem State.setBarrow_readErr (h b : Nat) (a : Barrow) : (s.setBarrow h b a).readErr = s.readErr := rfl
@[simp] theorem State.setBarrow_freeIx (h b : Nat) (a : Barrow) : (s.setBarrow h b a).freeIx = s.freeIx := rfl
@[simp] theorem State.setBarrow_pending (h b : Nat) (a : Barrow) : (s.setBarrow h b a).pending = s.pending := rfl
@[simp] theorem State.setBarrow_axis (h b : Nat) (a : Barrow) (n' : Nat) : (s.setBarrow h b a).axis n' = s.axis n' := rfl
@[simp] theorem State.setBarrow_mark (h b : Nat) (a : Barrow) (h' m' : Nat) : (s.setBarrow h b a).mark h' m' = s.mark h' m' := rfl
@[simp] theorem State.setBarrow_counter (h b : Nat) (a : Barrow) (h' c' : Nat) : (s.setBarrow h b a).counter h' c' = s.counter h' c' := rfl
@[simp] theorem State.setBarrow_pin (h b : Nat) (a : Barrow) (h' i' : Nat) : (s.setBarrow h b a).pin h' i' = s.pin h' i' := rfl
@[simp] theorem State.setBarrow_trader (h b : Nat) (a : Barrow) (t' : TraderId) : (s.setBarrow h b a).trader t' = s.trader t' := rfl
@[simp] theorem State.setBarrow_stall (h b : Nat) (a : Barrow) (h' n' : Nat) : (s.setBarrow h b a).stall h' n' = s.stall h' n' := rfl
@[simp] theorem State.setBarrow_crier (h b : Nat) (a : Barrow) (c' : CrierId) : (s.setBarrow h b a).crier c' = s.crier c' := rfl
@[simp] theorem State.setBarrow_lane (h b : Nat) (a : Barrow) (h' k' : Nat) : (s.setBarrow h b a).lane h' k' = s.lane h' k' := rfl
@[simp] theorem State.setBarrow_thread (h b : Nat) (a : Barrow) (h' k' th' : Nat) : (s.setBarrow h b a).thread h' k' th' = s.thread h' k' th' := rfl
@[simp] theorem State.setBarrow_rd (h b : Nat) (a : Barrow) (q : Reg) : (s.setBarrow h b a).rd q = s.rd q := rfl
@[simp] theorem State.setBarrow_get (h b : Nat) (a : Barrow) (g : Field) (j : Ix) : (s.setBarrow h b a).get g j = s.get g j := rfl
@[simp] theorem State.setBarrow_is (h b : Nat) (a : Barrow) (g : Field) (j : Ix) : (s.setBarrow h b a).is g j = s.is g j := rfl
@[simp] theorem State.setBarrow_byte (h b : Nat) (a : Barrow) (arr : Arr) (x : Nat) : (s.setBarrow h b a).byte arr x = s.byte arr x := rfl
@[simp] theorem State.setBarrow_bytesAt (h b : Nat) (a : Barrow) (arr : Arr) (x n' : Nat) : (s.setBarrow h b a).bytesAt arr x n' = s.bytesAt arr x n' := rfl
@[simp] theorem State.setBarrow_natAt (h b : Nat) (a : Barrow) (arr : Arr) (x n' : Nat) : (s.setBarrow h b a).natAt arr x n' = s.natAt arr x n' := rfl
@[simp] theorem State.setBarrow_job (h b : Nat) (a : Barrow) (n' : Nat) : (s.setBarrow h b a).job n' = s.job n' := rfl

/-! ### `State.setLane` -/

@[simp] theorem State.setLane_part (h k : Nat) (a : Lane) : (s.setLane h k a).part = s.part := rfl
@[simp] theorem State.setLane_tick (h k : Nat) (a : Lane) : (s.setLane h k a).tick = s.tick := rfl
@[simp] theorem State.setLane_till (h k : Nat) (a : Lane) : (s.setLane h k a).till = s.till := rfl
@[simp] theorem State.setLane_regs (h k : Nat) (a : Lane) : (s.setLane h k a).regs = s.regs := rfl
@[simp] theorem State.setLane_hwSet (h k : Nat) (a : Lane) : (s.setLane h k a).hwSet = s.hwSet := rfl
@[simp] theorem State.setLane_swSet (h k : Nat) (a : Lane) : (s.setLane h k a).swSet = s.swSet := rfl
@[simp] theorem State.setLane_mem (h k : Nat) (a : Lane) : (s.setLane h k a).mem = s.mem := rfl
@[simp] theorem State.setLane_ecc (h k : Nat) (a : Lane) : (s.setLane h k a).ecc = s.ecc := rfl
@[simp] theorem State.setLane_axes (h k : Nat) (a : Lane) : (s.setLane h k a).axes = s.axes := rfl
@[simp] theorem State.setLane_marks (h k : Nat) (a : Lane) : (s.setLane h k a).marks = s.marks := rfl
@[simp] theorem State.setLane_counters (h k : Nat) (a : Lane) : (s.setLane h k a).counters = s.counters := rfl
@[simp] theorem State.setLane_pins (h k : Nat) (a : Lane) : (s.setLane h k a).pins = s.pins := rfl
@[simp] theorem State.setLane_criers (h k : Nat) (a : Lane) : (s.setLane h k a).criers = s.criers := rfl
@[simp] theorem State.setLane_crWas (h k : Nat) (a : Lane) : (s.setLane h k a).crWas = s.crWas := rfl
@[simp] theorem State.setLane_crDid (h k : Nat) (a : Lane) : (s.setLane h k a).crDid = s.crDid := rfl
@[simp] theorem State.setLane_barrows (h k : Nat) (a : Lane) : (s.setLane h k a).barrows = s.barrows := rfl
@[simp] theorem State.setLane_threads (h k : Nat) (a : Lane) : (s.setLane h k a).threads = s.threads := rfl
@[simp] theorem State.setLane_chans (h k : Nat) (a : Lane) : (s.setLane h k a).chans = s.chans := rfl
@[simp] theorem State.setLane_slots (h k : Nat) (a : Lane) : (s.setLane h k a).slots = s.slots := rfl
@[simp] theorem State.setLane_cartTurn (h k : Nat) (a : Lane) : (s.setLane h k a).cartTurn = s.cartTurn := rfl
@[simp] theorem State.setLane_calibs (h k : Nat) (a : Lane) : (s.setLane h k a).calibs = s.calibs := rfl
@[simp] theorem State.setLane_wind (h k : Nat) (a : Lane) : (s.setLane h k a).wind = s.wind := rfl
@[simp] theorem State.setLane_traders (h k : Nat) (a : Lane) : (s.setLane h k a).traders = s.traders := rfl
@[simp] theorem State.setLane_stalls (h k : Nat) (a : Lane) : (s.setLane h k a).stalls = s.stalls := rfl
@[simp] theorem State.setLane_stallSlot (h k : Nat) (a : Lane) : (s.setLane h k a).stallSlot = s.stallSlot := rfl
@[simp] theorem State.setLane_deliveries (h k : Nat) (a : Lane) : (s.setLane h k a).deliveries = s.deliveries := rfl
@[simp] theorem State.setLane_edgeActs (h k : Nat) (a : Lane) : (s.setLane h k a).edgeActs = s.edgeActs := rfl
@[simp] theorem State.setLane_tokens (h k : Nat) (a : Lane) : (s.setLane h k a).tokens = s.tokens := rfl
@[simp] theorem State.setLane_hostPops (h k : Nat) (a : Lane) : (s.setLane h k a).hostPops = s.hostPops := rfl
@[simp] theorem State.setLane_deferred (h k : Nat) (a : Lane) : (s.setLane h k a).deferred = s.deferred := rfl
@[simp] theorem State.setLane_chits (h k : Nat) (a : Lane) : (s.setLane h k a).chits = s.chits := rfl
@[simp] theorem State.setLane_reqs (h k : Nat) (a : Lane) : (s.setLane h k a).reqs = s.reqs := rfl
@[simp] theorem State.setLane_arrived (h k : Nat) (a : Lane) : (s.setLane h k a).arrived = s.arrived := rfl
@[simp] theorem State.setLane_nextReq (h k : Nat) (a : Lane) : (s.setLane h k a).nextReq = s.nextReq := rfl
@[simp] theorem State.setLane_pathArb (h k : Nat) (a : Lane) : (s.setLane h k a).pathArb = s.pathArb := rfl
@[simp] theorem State.setLane_portArb (h k : Nat) (a : Lane) : (s.setLane h k a).portArb = s.portArb := rfl
@[simp] theorem State.setLane_atomArb (h k : Nat) (a : Lane) : (s.setLane h k a).atomArb = s.atomArb := rfl
@[simp] theorem State.setLane_agentWait (h k : Nat) (a : Lane) : (s.setLane h k a).agentWait = s.agentWait := rfl
@[simp] theorem State.setLane_orderTurn (h k : Nat) (a : Lane) : (s.setLane h k a).orderTurn = s.orderTurn := rfl
@[simp] theorem State.setLane_jobs (h k : Nat) (a : Lane) : (s.setLane h k a).jobs = s.jobs := rfl
@[simp] theorem State.setLane_jobSeq (h k : Nat) (a : Lane) : (s.setLane h k a).jobSeq = s.jobSeq := rfl
@[simp] theorem State.setLane_images (h k : Nat) (a : Lane) : (s.setLane h k a).images = s.images := rfl
@[simp] theorem State.setLane_swaps (h k : Nat) (a : Lane) : (s.setLane h k a).swaps = s.swaps := rfl
@[simp] theorem State.setLane_failovers (h k : Nat) (a : Lane) : (s.setLane h k a).failovers = s.failovers := rfl
@[simp] theorem State.setLane_held (h k : Nat) (a : Lane) : (s.setLane h k a).held = s.held := rfl
@[simp] theorem State.setLane_windDefault (h k : Nat) (a : Lane) : (s.setLane h k a).windDefault = s.windDefault := rfl
@[simp] theorem State.setLane_patches (h k : Nat) (a : Lane) : (s.setLane h k a).patches = s.patches := rfl
@[simp] theorem State.setLane_power (h k : Nat) (a : Lane) : (s.setLane h k a).power = s.power := rfl
@[simp] theorem State.setLane_dbg (h k : Nat) (a : Lane) : (s.setLane h k a).dbg = s.dbg := rfl
@[simp] theorem State.setLane_faults (h k : Nat) (a : Lane) : (s.setLane h k a).faults = s.faults := rfl
@[simp] theorem State.setLane_corrTold (h k : Nat) (a : Lane) : (s.setLane h k a).corrTold = s.corrTold := rfl
@[simp] theorem State.setLane_ports (h k : Nat) (a : Lane) : (s.setLane h k a).ports = s.ports := rfl
@[simp] theorem State.setLane_readOut (h k : Nat) (a : Lane) : (s.setLane h k a).readOut = s.readOut := rfl
@[simp] theorem State.setLane_readData (h k : Nat) (a : Lane) : (s.setLane h k a).readData = s.readData := rfl
@[simp] theorem State.setLane_readErr (h k : Nat) (a : Lane) : (s.setLane h k a).readErr = s.readErr := rfl
@[simp] theorem State.setLane_freeIx (h k : Nat) (a : Lane) : (s.setLane h k a).freeIx = s.freeIx := rfl
@[simp] theorem State.setLane_pending (h k : Nat) (a : Lane) : (s.setLane h k a).pending = s.pending := rfl
@[simp] theorem State.setLane_axis (h k : Nat) (a : Lane) (n' : Nat) : (s.setLane h k a).axis n' = s.axis n' := rfl
@[simp] theorem State.setLane_mark (h k : Nat) (a : Lane) (h' m' : Nat) : (s.setLane h k a).mark h' m' = s.mark h' m' := rfl
@[simp] theorem State.setLane_counter (h k : Nat) (a : Lane) (h' c' : Nat) : (s.setLane h k a).counter h' c' = s.counter h' c' := rfl
@[simp] theorem State.setLane_pin (h k : Nat) (a : Lane) (h' i' : Nat) : (s.setLane h k a).pin h' i' = s.pin h' i' := rfl
@[simp] theorem State.setLane_trader (h k : Nat) (a : Lane) (t' : TraderId) : (s.setLane h k a).trader t' = s.trader t' := rfl
@[simp] theorem State.setLane_stall (h k : Nat) (a : Lane) (h' n' : Nat) : (s.setLane h k a).stall h' n' = s.stall h' n' := rfl
@[simp] theorem State.setLane_crier (h k : Nat) (a : Lane) (c' : CrierId) : (s.setLane h k a).crier c' = s.crier c' := rfl
@[simp] theorem State.setLane_barrow (h k : Nat) (a : Lane) (h' b' : Nat) : (s.setLane h k a).barrow h' b' = s.barrow h' b' := rfl
@[simp] theorem State.setLane_thread (h k : Nat) (a : Lane) (h' k' th' : Nat) : (s.setLane h k a).thread h' k' th' = s.thread h' k' th' := rfl
@[simp] theorem State.setLane_rd (h k : Nat) (a : Lane) (q : Reg) : (s.setLane h k a).rd q = s.rd q := rfl
@[simp] theorem State.setLane_get (h k : Nat) (a : Lane) (g : Field) (j : Ix) : (s.setLane h k a).get g j = s.get g j := rfl
@[simp] theorem State.setLane_is (h k : Nat) (a : Lane) (g : Field) (j : Ix) : (s.setLane h k a).is g j = s.is g j := rfl
@[simp] theorem State.setLane_byte (h k : Nat) (a : Lane) (arr : Arr) (x : Nat) : (s.setLane h k a).byte arr x = s.byte arr x := rfl
@[simp] theorem State.setLane_bytesAt (h k : Nat) (a : Lane) (arr : Arr) (x n' : Nat) : (s.setLane h k a).bytesAt arr x n' = s.bytesAt arr x n' := rfl
@[simp] theorem State.setLane_natAt (h k : Nat) (a : Lane) (arr : Arr) (x n' : Nat) : (s.setLane h k a).natAt arr x n' = s.natAt arr x n' := rfl
@[simp] theorem State.setLane_job (h k : Nat) (a : Lane) (n' : Nat) : (s.setLane h k a).job n' = s.job n' := rfl

/-! ### `State.setThread` -/

@[simp] theorem State.setThread_part (h k th : Nat) (a : Thread) : (s.setThread h k th a).part = s.part := rfl
@[simp] theorem State.setThread_tick (h k th : Nat) (a : Thread) : (s.setThread h k th a).tick = s.tick := rfl
@[simp] theorem State.setThread_till (h k th : Nat) (a : Thread) : (s.setThread h k th a).till = s.till := rfl
@[simp] theorem State.setThread_regs (h k th : Nat) (a : Thread) : (s.setThread h k th a).regs = s.regs := rfl
@[simp] theorem State.setThread_hwSet (h k th : Nat) (a : Thread) : (s.setThread h k th a).hwSet = s.hwSet := rfl
@[simp] theorem State.setThread_swSet (h k th : Nat) (a : Thread) : (s.setThread h k th a).swSet = s.swSet := rfl
@[simp] theorem State.setThread_mem (h k th : Nat) (a : Thread) : (s.setThread h k th a).mem = s.mem := rfl
@[simp] theorem State.setThread_ecc (h k th : Nat) (a : Thread) : (s.setThread h k th a).ecc = s.ecc := rfl
@[simp] theorem State.setThread_axes (h k th : Nat) (a : Thread) : (s.setThread h k th a).axes = s.axes := rfl
@[simp] theorem State.setThread_marks (h k th : Nat) (a : Thread) : (s.setThread h k th a).marks = s.marks := rfl
@[simp] theorem State.setThread_counters (h k th : Nat) (a : Thread) : (s.setThread h k th a).counters = s.counters := rfl
@[simp] theorem State.setThread_pins (h k th : Nat) (a : Thread) : (s.setThread h k th a).pins = s.pins := rfl
@[simp] theorem State.setThread_criers (h k th : Nat) (a : Thread) : (s.setThread h k th a).criers = s.criers := rfl
@[simp] theorem State.setThread_crWas (h k th : Nat) (a : Thread) : (s.setThread h k th a).crWas = s.crWas := rfl
@[simp] theorem State.setThread_crDid (h k th : Nat) (a : Thread) : (s.setThread h k th a).crDid = s.crDid := rfl
@[simp] theorem State.setThread_barrows (h k th : Nat) (a : Thread) : (s.setThread h k th a).barrows = s.barrows := rfl
@[simp] theorem State.setThread_lanes (h k th : Nat) (a : Thread) : (s.setThread h k th a).lanes = s.lanes := rfl
@[simp] theorem State.setThread_chans (h k th : Nat) (a : Thread) : (s.setThread h k th a).chans = s.chans := rfl
@[simp] theorem State.setThread_slots (h k th : Nat) (a : Thread) : (s.setThread h k th a).slots = s.slots := rfl
@[simp] theorem State.setThread_cartTurn (h k th : Nat) (a : Thread) : (s.setThread h k th a).cartTurn = s.cartTurn := rfl
@[simp] theorem State.setThread_calibs (h k th : Nat) (a : Thread) : (s.setThread h k th a).calibs = s.calibs := rfl
@[simp] theorem State.setThread_wind (h k th : Nat) (a : Thread) : (s.setThread h k th a).wind = s.wind := rfl
@[simp] theorem State.setThread_traders (h k th : Nat) (a : Thread) : (s.setThread h k th a).traders = s.traders := rfl
@[simp] theorem State.setThread_stalls (h k th : Nat) (a : Thread) : (s.setThread h k th a).stalls = s.stalls := rfl
@[simp] theorem State.setThread_stallSlot (h k th : Nat) (a : Thread) : (s.setThread h k th a).stallSlot = s.stallSlot := rfl
@[simp] theorem State.setThread_deliveries (h k th : Nat) (a : Thread) : (s.setThread h k th a).deliveries = s.deliveries := rfl
@[simp] theorem State.setThread_edgeActs (h k th : Nat) (a : Thread) : (s.setThread h k th a).edgeActs = s.edgeActs := rfl
@[simp] theorem State.setThread_tokens (h k th : Nat) (a : Thread) : (s.setThread h k th a).tokens = s.tokens := rfl
@[simp] theorem State.setThread_hostPops (h k th : Nat) (a : Thread) : (s.setThread h k th a).hostPops = s.hostPops := rfl
@[simp] theorem State.setThread_deferred (h k th : Nat) (a : Thread) : (s.setThread h k th a).deferred = s.deferred := rfl
@[simp] theorem State.setThread_chits (h k th : Nat) (a : Thread) : (s.setThread h k th a).chits = s.chits := rfl
@[simp] theorem State.setThread_reqs (h k th : Nat) (a : Thread) : (s.setThread h k th a).reqs = s.reqs := rfl
@[simp] theorem State.setThread_arrived (h k th : Nat) (a : Thread) : (s.setThread h k th a).arrived = s.arrived := rfl
@[simp] theorem State.setThread_nextReq (h k th : Nat) (a : Thread) : (s.setThread h k th a).nextReq = s.nextReq := rfl
@[simp] theorem State.setThread_pathArb (h k th : Nat) (a : Thread) : (s.setThread h k th a).pathArb = s.pathArb := rfl
@[simp] theorem State.setThread_portArb (h k th : Nat) (a : Thread) : (s.setThread h k th a).portArb = s.portArb := rfl
@[simp] theorem State.setThread_atomArb (h k th : Nat) (a : Thread) : (s.setThread h k th a).atomArb = s.atomArb := rfl
@[simp] theorem State.setThread_agentWait (h k th : Nat) (a : Thread) : (s.setThread h k th a).agentWait = s.agentWait := rfl
@[simp] theorem State.setThread_orderTurn (h k th : Nat) (a : Thread) : (s.setThread h k th a).orderTurn = s.orderTurn := rfl
@[simp] theorem State.setThread_jobs (h k th : Nat) (a : Thread) : (s.setThread h k th a).jobs = s.jobs := rfl
@[simp] theorem State.setThread_jobSeq (h k th : Nat) (a : Thread) : (s.setThread h k th a).jobSeq = s.jobSeq := rfl
@[simp] theorem State.setThread_images (h k th : Nat) (a : Thread) : (s.setThread h k th a).images = s.images := rfl
@[simp] theorem State.setThread_swaps (h k th : Nat) (a : Thread) : (s.setThread h k th a).swaps = s.swaps := rfl
@[simp] theorem State.setThread_failovers (h k th : Nat) (a : Thread) : (s.setThread h k th a).failovers = s.failovers := rfl
@[simp] theorem State.setThread_held (h k th : Nat) (a : Thread) : (s.setThread h k th a).held = s.held := rfl
@[simp] theorem State.setThread_windDefault (h k th : Nat) (a : Thread) : (s.setThread h k th a).windDefault = s.windDefault := rfl
@[simp] theorem State.setThread_patches (h k th : Nat) (a : Thread) : (s.setThread h k th a).patches = s.patches := rfl
@[simp] theorem State.setThread_power (h k th : Nat) (a : Thread) : (s.setThread h k th a).power = s.power := rfl
@[simp] theorem State.setThread_dbg (h k th : Nat) (a : Thread) : (s.setThread h k th a).dbg = s.dbg := rfl
@[simp] theorem State.setThread_faults (h k th : Nat) (a : Thread) : (s.setThread h k th a).faults = s.faults := rfl
@[simp] theorem State.setThread_corrTold (h k th : Nat) (a : Thread) : (s.setThread h k th a).corrTold = s.corrTold := rfl
@[simp] theorem State.setThread_ports (h k th : Nat) (a : Thread) : (s.setThread h k th a).ports = s.ports := rfl
@[simp] theorem State.setThread_readOut (h k th : Nat) (a : Thread) : (s.setThread h k th a).readOut = s.readOut := rfl
@[simp] theorem State.setThread_readData (h k th : Nat) (a : Thread) : (s.setThread h k th a).readData = s.readData := rfl
@[simp] theorem State.setThread_readErr (h k th : Nat) (a : Thread) : (s.setThread h k th a).readErr = s.readErr := rfl
@[simp] theorem State.setThread_freeIx (h k th : Nat) (a : Thread) : (s.setThread h k th a).freeIx = s.freeIx := rfl
@[simp] theorem State.setThread_pending (h k th : Nat) (a : Thread) : (s.setThread h k th a).pending = s.pending := rfl
@[simp] theorem State.setThread_axis (h k th : Nat) (a : Thread) (n' : Nat) : (s.setThread h k th a).axis n' = s.axis n' := rfl
@[simp] theorem State.setThread_mark (h k th : Nat) (a : Thread) (h' m' : Nat) : (s.setThread h k th a).mark h' m' = s.mark h' m' := rfl
@[simp] theorem State.setThread_counter (h k th : Nat) (a : Thread) (h' c' : Nat) : (s.setThread h k th a).counter h' c' = s.counter h' c' := rfl
@[simp] theorem State.setThread_pin (h k th : Nat) (a : Thread) (h' i' : Nat) : (s.setThread h k th a).pin h' i' = s.pin h' i' := rfl
@[simp] theorem State.setThread_trader (h k th : Nat) (a : Thread) (t' : TraderId) : (s.setThread h k th a).trader t' = s.trader t' := rfl
@[simp] theorem State.setThread_stall (h k th : Nat) (a : Thread) (h' n' : Nat) : (s.setThread h k th a).stall h' n' = s.stall h' n' := rfl
@[simp] theorem State.setThread_crier (h k th : Nat) (a : Thread) (c' : CrierId) : (s.setThread h k th a).crier c' = s.crier c' := rfl
@[simp] theorem State.setThread_barrow (h k th : Nat) (a : Thread) (h' b' : Nat) : (s.setThread h k th a).barrow h' b' = s.barrow h' b' := rfl
@[simp] theorem State.setThread_lane (h k th : Nat) (a : Thread) (h' k' : Nat) : (s.setThread h k th a).lane h' k' = s.lane h' k' := rfl
@[simp] theorem State.setThread_rd (h k th : Nat) (a : Thread) (q : Reg) : (s.setThread h k th a).rd q = s.rd q := rfl
@[simp] theorem State.setThread_get (h k th : Nat) (a : Thread) (g : Field) (j : Ix) : (s.setThread h k th a).get g j = s.get g j := rfl
@[simp] theorem State.setThread_is (h k th : Nat) (a : Thread) (g : Field) (j : Ix) : (s.setThread h k th a).is g j = s.is g j := rfl
@[simp] theorem State.setThread_byte (h k th : Nat) (a : Thread) (arr : Arr) (x : Nat) : (s.setThread h k th a).byte arr x = s.byte arr x := rfl
@[simp] theorem State.setThread_bytesAt (h k th : Nat) (a : Thread) (arr : Arr) (x n' : Nat) : (s.setThread h k th a).bytesAt arr x n' = s.bytesAt arr x n' := rfl
@[simp] theorem State.setThread_natAt (h k th : Nat) (a : Thread) (arr : Arr) (x n' : Nat) : (s.setThread h k th a).natAt arr x n' = s.natAt arr x n' := rfl
@[simp] theorem State.setThread_job (h k th : Nat) (a : Thread) (n' : Nat) : (s.setThread h k th a).job n' = s.job n' := rfl

/-! ### `State.store` -/

@[simp] theorem State.store_part (a : Arr) (o : Nat) (bs : List Byte) : (s.store a o bs).part = s.part := rfl
@[simp] theorem State.store_tick (a : Arr) (o : Nat) (bs : List Byte) : (s.store a o bs).tick = s.tick := rfl
@[simp] theorem State.store_till (a : Arr) (o : Nat) (bs : List Byte) : (s.store a o bs).till = s.till := rfl
@[simp] theorem State.store_regs (a : Arr) (o : Nat) (bs : List Byte) : (s.store a o bs).regs = s.regs := rfl
@[simp] theorem State.store_hwSet (a : Arr) (o : Nat) (bs : List Byte) : (s.store a o bs).hwSet = s.hwSet := rfl
@[simp] theorem State.store_swSet (a : Arr) (o : Nat) (bs : List Byte) : (s.store a o bs).swSet = s.swSet := rfl
@[simp] theorem State.store_axes (a : Arr) (o : Nat) (bs : List Byte) : (s.store a o bs).axes = s.axes := rfl
@[simp] theorem State.store_marks (a : Arr) (o : Nat) (bs : List Byte) : (s.store a o bs).marks = s.marks := rfl
@[simp] theorem State.store_counters (a : Arr) (o : Nat) (bs : List Byte) : (s.store a o bs).counters = s.counters := rfl
@[simp] theorem State.store_pins (a : Arr) (o : Nat) (bs : List Byte) : (s.store a o bs).pins = s.pins := rfl
@[simp] theorem State.store_criers (a : Arr) (o : Nat) (bs : List Byte) : (s.store a o bs).criers = s.criers := rfl
@[simp] theorem State.store_crWas (a : Arr) (o : Nat) (bs : List Byte) : (s.store a o bs).crWas = s.crWas := rfl
@[simp] theorem State.store_crDid (a : Arr) (o : Nat) (bs : List Byte) : (s.store a o bs).crDid = s.crDid := rfl
@[simp] theorem State.store_barrows (a : Arr) (o : Nat) (bs : List Byte) : (s.store a o bs).barrows = s.barrows := rfl
@[simp] theorem State.store_lanes (a : Arr) (o : Nat) (bs : List Byte) : (s.store a o bs).lanes = s.lanes := rfl
@[simp] theorem State.store_threads (a : Arr) (o : Nat) (bs : List Byte) : (s.store a o bs).threads = s.threads := rfl
@[simp] theorem State.store_chans (a : Arr) (o : Nat) (bs : List Byte) : (s.store a o bs).chans = s.chans := rfl
@[simp] theorem State.store_slots (a : Arr) (o : Nat) (bs : List Byte) : (s.store a o bs).slots = s.slots := rfl
@[simp] theorem State.store_cartTurn (a : Arr) (o : Nat) (bs : List Byte) : (s.store a o bs).cartTurn = s.cartTurn := rfl
@[simp] theorem State.store_calibs (a : Arr) (o : Nat) (bs : List Byte) : (s.store a o bs).calibs = s.calibs := rfl
@[simp] theorem State.store_wind (a : Arr) (o : Nat) (bs : List Byte) : (s.store a o bs).wind = s.wind := rfl
@[simp] theorem State.store_traders (a : Arr) (o : Nat) (bs : List Byte) : (s.store a o bs).traders = s.traders := rfl
@[simp] theorem State.store_stalls (a : Arr) (o : Nat) (bs : List Byte) : (s.store a o bs).stalls = s.stalls := rfl
@[simp] theorem State.store_stallSlot (a : Arr) (o : Nat) (bs : List Byte) : (s.store a o bs).stallSlot = s.stallSlot := rfl
@[simp] theorem State.store_deliveries (a : Arr) (o : Nat) (bs : List Byte) : (s.store a o bs).deliveries = s.deliveries := rfl
@[simp] theorem State.store_edgeActs (a : Arr) (o : Nat) (bs : List Byte) : (s.store a o bs).edgeActs = s.edgeActs := rfl
@[simp] theorem State.store_tokens (a : Arr) (o : Nat) (bs : List Byte) : (s.store a o bs).tokens = s.tokens := rfl
@[simp] theorem State.store_hostPops (a : Arr) (o : Nat) (bs : List Byte) : (s.store a o bs).hostPops = s.hostPops := rfl
@[simp] theorem State.store_deferred (a : Arr) (o : Nat) (bs : List Byte) : (s.store a o bs).deferred = s.deferred := rfl
@[simp] theorem State.store_chits (a : Arr) (o : Nat) (bs : List Byte) : (s.store a o bs).chits = s.chits := rfl
@[simp] theorem State.store_reqs (a : Arr) (o : Nat) (bs : List Byte) : (s.store a o bs).reqs = s.reqs := rfl
@[simp] theorem State.store_arrived (a : Arr) (o : Nat) (bs : List Byte) : (s.store a o bs).arrived = s.arrived := rfl
@[simp] theorem State.store_nextReq (a : Arr) (o : Nat) (bs : List Byte) : (s.store a o bs).nextReq = s.nextReq := rfl
@[simp] theorem State.store_pathArb (a : Arr) (o : Nat) (bs : List Byte) : (s.store a o bs).pathArb = s.pathArb := rfl
@[simp] theorem State.store_portArb (a : Arr) (o : Nat) (bs : List Byte) : (s.store a o bs).portArb = s.portArb := rfl
@[simp] theorem State.store_atomArb (a : Arr) (o : Nat) (bs : List Byte) : (s.store a o bs).atomArb = s.atomArb := rfl
@[simp] theorem State.store_agentWait (a : Arr) (o : Nat) (bs : List Byte) : (s.store a o bs).agentWait = s.agentWait := rfl
@[simp] theorem State.store_orderTurn (a : Arr) (o : Nat) (bs : List Byte) : (s.store a o bs).orderTurn = s.orderTurn := rfl
@[simp] theorem State.store_jobs (a : Arr) (o : Nat) (bs : List Byte) : (s.store a o bs).jobs = s.jobs := rfl
@[simp] theorem State.store_jobSeq (a : Arr) (o : Nat) (bs : List Byte) : (s.store a o bs).jobSeq = s.jobSeq := rfl
@[simp] theorem State.store_images (a : Arr) (o : Nat) (bs : List Byte) : (s.store a o bs).images = s.images := rfl
@[simp] theorem State.store_swaps (a : Arr) (o : Nat) (bs : List Byte) : (s.store a o bs).swaps = s.swaps := rfl
@[simp] theorem State.store_failovers (a : Arr) (o : Nat) (bs : List Byte) : (s.store a o bs).failovers = s.failovers := rfl
@[simp] theorem State.store_held (a : Arr) (o : Nat) (bs : List Byte) : (s.store a o bs).held = s.held := rfl
@[simp] theorem State.store_windDefault (a : Arr) (o : Nat) (bs : List Byte) : (s.store a o bs).windDefault = s.windDefault := rfl
@[simp] theorem State.store_patches (a : Arr) (o : Nat) (bs : List Byte) : (s.store a o bs).patches = s.patches := rfl
@[simp] theorem State.store_power (a : Arr) (o : Nat) (bs : List Byte) : (s.store a o bs).power = s.power := rfl
@[simp] theorem State.store_dbg (a : Arr) (o : Nat) (bs : List Byte) : (s.store a o bs).dbg = s.dbg := rfl
@[simp] theorem State.store_faults (a : Arr) (o : Nat) (bs : List Byte) : (s.store a o bs).faults = s.faults := rfl
@[simp] theorem State.store_corrTold (a : Arr) (o : Nat) (bs : List Byte) : (s.store a o bs).corrTold = s.corrTold := rfl
@[simp] theorem State.store_ports (a : Arr) (o : Nat) (bs : List Byte) : (s.store a o bs).ports = s.ports := rfl
@[simp] theorem State.store_readOut (a : Arr) (o : Nat) (bs : List Byte) : (s.store a o bs).readOut = s.readOut := rfl
@[simp] theorem State.store_readData (a : Arr) (o : Nat) (bs : List Byte) : (s.store a o bs).readData = s.readData := rfl
@[simp] theorem State.store_readErr (a : Arr) (o : Nat) (bs : List Byte) : (s.store a o bs).readErr = s.readErr := rfl
@[simp] theorem State.store_freeIx (a : Arr) (o : Nat) (bs : List Byte) : (s.store a o bs).freeIx = s.freeIx := rfl
@[simp] theorem State.store_pending (a : Arr) (o : Nat) (bs : List Byte) : (s.store a o bs).pending = s.pending := rfl
@[simp] theorem State.store_axis (a : Arr) (o : Nat) (bs : List Byte) (n' : Nat) : (s.store a o bs).axis n' = s.axis n' := rfl
@[simp] theorem State.store_mark (a : Arr) (o : Nat) (bs : List Byte) (h' m' : Nat) : (s.store a o bs).mark h' m' = s.mark h' m' := rfl
@[simp] theorem State.store_counter (a : Arr) (o : Nat) (bs : List Byte) (h' c' : Nat) : (s.store a o bs).counter h' c' = s.counter h' c' := rfl
@[simp] theorem State.store_pin (a : Arr) (o : Nat) (bs : List Byte) (h' i' : Nat) : (s.store a o bs).pin h' i' = s.pin h' i' := rfl
@[simp] theorem State.store_trader (a : Arr) (o : Nat) (bs : List Byte) (t' : TraderId) : (s.store a o bs).trader t' = s.trader t' := rfl
@[simp] theorem State.store_stall (a : Arr) (o : Nat) (bs : List Byte) (h' n' : Nat) : (s.store a o bs).stall h' n' = s.stall h' n' := rfl
@[simp] theorem State.store_crier (a : Arr) (o : Nat) (bs : List Byte) (c' : CrierId) : (s.store a o bs).crier c' = s.crier c' := rfl
@[simp] theorem State.store_barrow (a : Arr) (o : Nat) (bs : List Byte) (h' b' : Nat) : (s.store a o bs).barrow h' b' = s.barrow h' b' := rfl
@[simp] theorem State.store_lane (a : Arr) (o : Nat) (bs : List Byte) (h' k' : Nat) : (s.store a o bs).lane h' k' = s.lane h' k' := rfl
@[simp] theorem State.store_thread (a : Arr) (o : Nat) (bs : List Byte) (h' k' th' : Nat) : (s.store a o bs).thread h' k' th' = s.thread h' k' th' := rfl
@[simp] theorem State.store_rd (a : Arr) (o : Nat) (bs : List Byte) (q : Reg) : (s.store a o bs).rd q = s.rd q := rfl
@[simp] theorem State.store_get (a : Arr) (o : Nat) (bs : List Byte) (g : Field) (j : Ix) : (s.store a o bs).get g j = s.get g j := rfl
@[simp] theorem State.store_is (a : Arr) (o : Nat) (bs : List Byte) (g : Field) (j : Ix) : (s.store a o bs).is g j = s.is g j := rfl
@[simp] theorem State.store_job (a : Arr) (o : Nat) (bs : List Byte) (n' : Nat) : (s.store a o bs).job n' = s.job n' := rfl

/-! ### `State.updJob` -/

@[simp] theorem State.updJob_part (n : Nat) (f : Job → Job) : (s.updJob n f).part = s.part := rfl
@[simp] theorem State.updJob_tick (n : Nat) (f : Job → Job) : (s.updJob n f).tick = s.tick := rfl
@[simp] theorem State.updJob_till (n : Nat) (f : Job → Job) : (s.updJob n f).till = s.till := rfl
@[simp] theorem State.updJob_regs (n : Nat) (f : Job → Job) : (s.updJob n f).regs = s.regs := rfl
@[simp] theorem State.updJob_hwSet (n : Nat) (f : Job → Job) : (s.updJob n f).hwSet = s.hwSet := rfl
@[simp] theorem State.updJob_swSet (n : Nat) (f : Job → Job) : (s.updJob n f).swSet = s.swSet := rfl
@[simp] theorem State.updJob_mem (n : Nat) (f : Job → Job) : (s.updJob n f).mem = s.mem := rfl
@[simp] theorem State.updJob_ecc (n : Nat) (f : Job → Job) : (s.updJob n f).ecc = s.ecc := rfl
@[simp] theorem State.updJob_axes (n : Nat) (f : Job → Job) : (s.updJob n f).axes = s.axes := rfl
@[simp] theorem State.updJob_marks (n : Nat) (f : Job → Job) : (s.updJob n f).marks = s.marks := rfl
@[simp] theorem State.updJob_counters (n : Nat) (f : Job → Job) : (s.updJob n f).counters = s.counters := rfl
@[simp] theorem State.updJob_pins (n : Nat) (f : Job → Job) : (s.updJob n f).pins = s.pins := rfl
@[simp] theorem State.updJob_criers (n : Nat) (f : Job → Job) : (s.updJob n f).criers = s.criers := rfl
@[simp] theorem State.updJob_crWas (n : Nat) (f : Job → Job) : (s.updJob n f).crWas = s.crWas := rfl
@[simp] theorem State.updJob_crDid (n : Nat) (f : Job → Job) : (s.updJob n f).crDid = s.crDid := rfl
@[simp] theorem State.updJob_barrows (n : Nat) (f : Job → Job) : (s.updJob n f).barrows = s.barrows := rfl
@[simp] theorem State.updJob_lanes (n : Nat) (f : Job → Job) : (s.updJob n f).lanes = s.lanes := rfl
@[simp] theorem State.updJob_threads (n : Nat) (f : Job → Job) : (s.updJob n f).threads = s.threads := rfl
@[simp] theorem State.updJob_chans (n : Nat) (f : Job → Job) : (s.updJob n f).chans = s.chans := rfl
@[simp] theorem State.updJob_slots (n : Nat) (f : Job → Job) : (s.updJob n f).slots = s.slots := rfl
@[simp] theorem State.updJob_cartTurn (n : Nat) (f : Job → Job) : (s.updJob n f).cartTurn = s.cartTurn := rfl
@[simp] theorem State.updJob_calibs (n : Nat) (f : Job → Job) : (s.updJob n f).calibs = s.calibs := rfl
@[simp] theorem State.updJob_wind (n : Nat) (f : Job → Job) : (s.updJob n f).wind = s.wind := rfl
@[simp] theorem State.updJob_traders (n : Nat) (f : Job → Job) : (s.updJob n f).traders = s.traders := rfl
@[simp] theorem State.updJob_stalls (n : Nat) (f : Job → Job) : (s.updJob n f).stalls = s.stalls := rfl
@[simp] theorem State.updJob_stallSlot (n : Nat) (f : Job → Job) : (s.updJob n f).stallSlot = s.stallSlot := rfl
@[simp] theorem State.updJob_deliveries (n : Nat) (f : Job → Job) : (s.updJob n f).deliveries = s.deliveries := rfl
@[simp] theorem State.updJob_edgeActs (n : Nat) (f : Job → Job) : (s.updJob n f).edgeActs = s.edgeActs := rfl
@[simp] theorem State.updJob_tokens (n : Nat) (f : Job → Job) : (s.updJob n f).tokens = s.tokens := rfl
@[simp] theorem State.updJob_hostPops (n : Nat) (f : Job → Job) : (s.updJob n f).hostPops = s.hostPops := rfl
@[simp] theorem State.updJob_deferred (n : Nat) (f : Job → Job) : (s.updJob n f).deferred = s.deferred := rfl
@[simp] theorem State.updJob_chits (n : Nat) (f : Job → Job) : (s.updJob n f).chits = s.chits := rfl
@[simp] theorem State.updJob_reqs (n : Nat) (f : Job → Job) : (s.updJob n f).reqs = s.reqs := rfl
@[simp] theorem State.updJob_arrived (n : Nat) (f : Job → Job) : (s.updJob n f).arrived = s.arrived := rfl
@[simp] theorem State.updJob_nextReq (n : Nat) (f : Job → Job) : (s.updJob n f).nextReq = s.nextReq := rfl
@[simp] theorem State.updJob_pathArb (n : Nat) (f : Job → Job) : (s.updJob n f).pathArb = s.pathArb := rfl
@[simp] theorem State.updJob_portArb (n : Nat) (f : Job → Job) : (s.updJob n f).portArb = s.portArb := rfl
@[simp] theorem State.updJob_atomArb (n : Nat) (f : Job → Job) : (s.updJob n f).atomArb = s.atomArb := rfl
@[simp] theorem State.updJob_agentWait (n : Nat) (f : Job → Job) : (s.updJob n f).agentWait = s.agentWait := rfl
@[simp] theorem State.updJob_orderTurn (n : Nat) (f : Job → Job) : (s.updJob n f).orderTurn = s.orderTurn := rfl
@[simp] theorem State.updJob_jobSeq (n : Nat) (f : Job → Job) : (s.updJob n f).jobSeq = s.jobSeq := rfl
@[simp] theorem State.updJob_images (n : Nat) (f : Job → Job) : (s.updJob n f).images = s.images := rfl
@[simp] theorem State.updJob_swaps (n : Nat) (f : Job → Job) : (s.updJob n f).swaps = s.swaps := rfl
@[simp] theorem State.updJob_failovers (n : Nat) (f : Job → Job) : (s.updJob n f).failovers = s.failovers := rfl
@[simp] theorem State.updJob_held (n : Nat) (f : Job → Job) : (s.updJob n f).held = s.held := rfl
@[simp] theorem State.updJob_windDefault (n : Nat) (f : Job → Job) : (s.updJob n f).windDefault = s.windDefault := rfl
@[simp] theorem State.updJob_patches (n : Nat) (f : Job → Job) : (s.updJob n f).patches = s.patches := rfl
@[simp] theorem State.updJob_power (n : Nat) (f : Job → Job) : (s.updJob n f).power = s.power := rfl
@[simp] theorem State.updJob_dbg (n : Nat) (f : Job → Job) : (s.updJob n f).dbg = s.dbg := rfl
@[simp] theorem State.updJob_faults (n : Nat) (f : Job → Job) : (s.updJob n f).faults = s.faults := rfl
@[simp] theorem State.updJob_corrTold (n : Nat) (f : Job → Job) : (s.updJob n f).corrTold = s.corrTold := rfl
@[simp] theorem State.updJob_ports (n : Nat) (f : Job → Job) : (s.updJob n f).ports = s.ports := rfl
@[simp] theorem State.updJob_readOut (n : Nat) (f : Job → Job) : (s.updJob n f).readOut = s.readOut := rfl
@[simp] theorem State.updJob_readData (n : Nat) (f : Job → Job) : (s.updJob n f).readData = s.readData := rfl
@[simp] theorem State.updJob_readErr (n : Nat) (f : Job → Job) : (s.updJob n f).readErr = s.readErr := rfl
@[simp] theorem State.updJob_freeIx (n : Nat) (f : Job → Job) : (s.updJob n f).freeIx = s.freeIx := rfl
@[simp] theorem State.updJob_pending (n : Nat) (f : Job → Job) : (s.updJob n f).pending = s.pending := rfl
@[simp] theorem State.updJob_axis (n : Nat) (f : Job → Job) (n' : Nat) : (s.updJob n f).axis n' = s.axis n' := rfl
@[simp] theorem State.updJob_mark (n : Nat) (f : Job → Job) (h' m' : Nat) : (s.updJob n f).mark h' m' = s.mark h' m' := rfl
@[simp] theorem State.updJob_counter (n : Nat) (f : Job → Job) (h' c' : Nat) : (s.updJob n f).counter h' c' = s.counter h' c' := rfl
@[simp] theorem State.updJob_pin (n : Nat) (f : Job → Job) (h' i' : Nat) : (s.updJob n f).pin h' i' = s.pin h' i' := rfl
@[simp] theorem State.updJob_trader (n : Nat) (f : Job → Job) (t' : TraderId) : (s.updJob n f).trader t' = s.trader t' := rfl
@[simp] theorem State.updJob_stall (n : Nat) (f : Job → Job) (h' n' : Nat) : (s.updJob n f).stall h' n' = s.stall h' n' := rfl
@[simp] theorem State.updJob_crier (n : Nat) (f : Job → Job) (c' : CrierId) : (s.updJob n f).crier c' = s.crier c' := rfl
@[simp] theorem State.updJob_barrow (n : Nat) (f : Job → Job) (h' b' : Nat) : (s.updJob n f).barrow h' b' = s.barrow h' b' := rfl
@[simp] theorem State.updJob_lane (n : Nat) (f : Job → Job) (h' k' : Nat) : (s.updJob n f).lane h' k' = s.lane h' k' := rfl
@[simp] theorem State.updJob_thread (n : Nat) (f : Job → Job) (h' k' th' : Nat) : (s.updJob n f).thread h' k' th' = s.thread h' k' th' := rfl
@[simp] theorem State.updJob_rd (n : Nat) (f : Job → Job) (q : Reg) : (s.updJob n f).rd q = s.rd q := rfl
@[simp] theorem State.updJob_get (n : Nat) (f : Job → Job) (g : Field) (j : Ix) : (s.updJob n f).get g j = s.get g j := rfl
@[simp] theorem State.updJob_is (n : Nat) (f : Job → Job) (g : Field) (j : Ix) : (s.updJob n f).is g j = s.is g j := rfl
@[simp] theorem State.updJob_byte (n : Nat) (f : Job → Job) (arr : Arr) (x : Nat) : (s.updJob n f).byte arr x = s.byte arr x := rfl
@[simp] theorem State.updJob_bytesAt (n : Nat) (f : Job → Job) (arr : Arr) (x n' : Nat) : (s.updJob n f).bytesAt arr x n' = s.bytesAt arr x n' := rfl
@[simp] theorem State.updJob_natAt (n : Nat) (f : Job → Job) (arr : Arr) (x n' : Nat) : (s.updJob n f).natAt arr x n' = s.natAt arr x n' := rfl

/-! ### A unit after it is set, and the others -/

@[simp] theorem State.axis_self (n : Nat) (a : Axis) : (s.setAxis n a).axis n = a := Tab.get_set_self _ _ _ _
theorem State.axis_ne (n : Nat) (a : Axis) (n' : Nat) (e : n' ≠ n) : (s.setAxis n a).axis n' = s.axis n' :=
  Tab.get_set_ne _ _ _ e
@[simp] theorem State.mark_self (h m : Nat) (a : Mark) : (s.setMark h m a).mark h m = a := Tab.get_set_self _ _ _ _
theorem State.mark_ne (h m : Nat) (a : Mark) (h' m' : Nat) (e : (h', m') ≠ (h, m)) : (s.setMark h m a).mark h' m' = s.mark h' m' :=
  Tab.get_set_ne _ _ _ e
@[simp] theorem State.counter_self (h c : Nat) (a : Counter) : (s.setCounter h c a).counter h c = a := Tab.get_set_self _ _ _ _
theorem State.counter_ne (h c : Nat) (a : Counter) (h' c' : Nat) (e : (h', c') ≠ (h, c)) : (s.setCounter h c a).counter h' c' = s.counter h' c' :=
  Tab.get_set_ne _ _ _ e
@[simp] theorem State.pin_self (h i : Nat) (a : PinState) : (s.setPin h i a).pin h i = a := Tab.get_set_self _ _ _ _
theorem State.pin_ne (h i : Nat) (a : PinState) (h' i' : Nat) (e : (h', i') ≠ (h, i)) : (s.setPin h i a).pin h' i' = s.pin h' i' :=
  Tab.get_set_ne _ _ _ e
@[simp] theorem State.trader_self (t : TraderId) (a : Trader) : (s.setTrader t a).trader t = a := Tab.get_set_self _ _ _ _
theorem State.trader_ne (t : TraderId) (a : Trader) (t' : TraderId) (e : t' ≠ t) : (s.setTrader t a).trader t' = s.trader t' :=
  Tab.get_set_ne _ _ _ e
@[simp] theorem State.stall_self (h n : Nat) (a : Stall) : (s.setStall h n a).stall h n = a := Tab.get_set_self _ _ _ _
theorem State.stall_ne (h n : Nat) (a : Stall) (h' n' : Nat) (e : (h', n') ≠ (h, n)) : (s.setStall h n a).stall h' n' = s.stall h' n' :=
  Tab.get_set_ne _ _ _ e
@[simp] theorem State.crier_self (c : CrierId) (a : Crier) : (s.setCrier c a).crier c = a := Tab.get_set_self _ _ _ _
theorem State.crier_ne (c : CrierId) (a : Crier) (c' : CrierId) (e : c' ≠ c) : (s.setCrier c a).crier c' = s.crier c' :=
  Tab.get_set_ne _ _ _ e
@[simp] theorem State.barrow_self (h b : Nat) (a : Barrow) : (s.setBarrow h b a).barrow h b = a := Tab.get_set_self _ _ _ _
theorem State.barrow_ne (h b : Nat) (a : Barrow) (h' b' : Nat) (e : (h', b') ≠ (h, b)) : (s.setBarrow h b a).barrow h' b' = s.barrow h' b' :=
  Tab.get_set_ne _ _ _ e
@[simp] theorem State.lane_self (h k : Nat) (a : Lane) : (s.setLane h k a).lane h k = a := Tab.get_set_self _ _ _ _
theorem State.lane_ne (h k : Nat) (a : Lane) (h' k' : Nat) (e : (h', k') ≠ (h, k)) : (s.setLane h k a).lane h' k' = s.lane h' k' :=
  Tab.get_set_ne _ _ _ e
@[simp] theorem State.thread_self (h k th : Nat) (a : Thread) : (s.setThread h k th a).thread h k th = a := Tab.get_set_self _ _ _ _
theorem State.thread_ne (h k th : Nat) (a : Thread) (h' k' th' : Nat) (e : (h', k', th') ≠ (h, k, th)) : (s.setThread h k th a).thread h' k' th' = s.thread h' k' th' :=
  Tab.get_set_ne _ _ _ e

/-! ### Registers -/

/-- A register holds the 64 low bits of what was written. -/
@[simp] theorem State.rd_wr_self (r : Reg) (v : Nat) : (s.wr r v).rd r = v % 2 ^ 64 := by
  simp [State.rd, State.wr]

/-- Another register holds what it held. -/
theorem State.rd_wr_ne {r q : Reg} (v : Nat) (e : q ≠ r) : (s.wr r v).rd q = s.rd q := by
  simp [State.rd, State.wr, Tab.find_set_ne _ _ e]

/-- The bits of a word of which one field is set. -/
theorem testBit_setBits (x hi lo v i : Nat) (h : lo ≤ hi) :
    (setBits x hi lo v).testBit i = if lo ≤ i ∧ i ≤ hi then v.testBit (i - lo) else x.testBit i := by
  have hm : v % 2 ^ (hi + 1 - lo) < 2 ^ (hi + 1 - lo) := Nat.mod_lt _ (Nat.two_pow_pos _)
  have hx : x % 2 ^ lo < 2 ^ lo := Nat.mod_lt _ (Nat.two_pow_pos _)
  have hb : (v % 2 ^ (hi + 1 - lo)) <<< lo + x % 2 ^ lo < 2 ^ (hi + 1) := by
    rw [Nat.shiftLeft_eq]
    calc v % 2 ^ (hi + 1 - lo) * 2 ^ lo + x % 2 ^ lo
        < v % 2 ^ (hi + 1 - lo) * 2 ^ lo + 2 ^ lo := by omega
      _ = (v % 2 ^ (hi + 1 - lo) + 1) * 2 ^ lo := by ring
      _ ≤ 2 ^ (hi + 1 - lo) * 2 ^ lo := Nat.mul_le_mul_right _ hm
      _ = 2 ^ (hi + 1) := by rw [← Nat.pow_add, Nat.sub_add_cancel (by omega)]
  unfold setBits
  rw [Nat.add_assoc, Nat.shiftLeft_add_eq_or_of_lt hb, Nat.shiftLeft_add_eq_or_of_lt hx]
  simp only [Nat.testBit_or, Nat.testBit_shiftLeft, Nat.testBit_shiftRight, Nat.testBit_mod_two_pow]
  by_cases h1 : lo ≤ i <;> by_cases h2 : i ≤ hi
  · have a : ¬ hi + 1 ≤ i := by omega
    have b : i - lo < hi + 1 - lo := by omega
    have c : ¬ i < lo := by omega
    simp [h1, h2, a, b, c]
  · have a : hi + 1 ≤ i := by omega
    have b : ¬ i - lo < hi + 1 - lo := by omega
    have c : ¬ i < lo := by omega
    simp [h2, a, b, c]
  · have a : ¬ hi + 1 ≤ i := by omega
    have c : i < lo := by omega
    simp [h1, a, c]
  · omega

theorem testBit_bits (x hi lo i : Nat) : (bits x hi lo).testBit i = (decide (i < hi + 1 - lo) && x.testBit (lo + i)) := by
  simp [bits, Nat.testBit_mod_two_pow, Nat.testBit_shiftRight]

/-- The field set holds the value, cut to its width. -/
theorem bits_setBits {x hi lo v : Nat} (h : lo ≤ hi) : bits (setBits x hi lo v) hi lo = v % 2 ^ (hi + 1 - lo) := by
  apply Nat.eq_of_testBit_eq
  intro i
  rw [testBit_bits, testBit_setBits _ _ _ _ _ h, Nat.testBit_mod_two_pow]
  by_cases hi' : i < hi + 1 - lo
  · have a : lo ≤ lo + i ∧ lo + i ≤ hi := by omega
    simp [hi', a]
  · simp [hi']

/-- A field beside the one set holds what it held. -/
theorem bits_setBits_ne {x hi lo v hi' lo' : Nat} (h : lo ≤ hi) (d : hi' < lo ∨ hi < lo') :
    bits (setBits x hi lo v) hi' lo' = bits x hi' lo' := by
  apply Nat.eq_of_testBit_eq
  intro i
  rw [testBit_bits, testBit_bits, testBit_setBits _ _ _ _ _ h]
  by_cases hi' : i < hi' + 1 - lo'
  · have a : ¬ (lo ≤ lo' + i ∧ lo' + i ≤ hi) := by omega
    simp [a]
  · simp [hi']

theorem bits_mod {x hi lo n : Nat} (h : hi < n) : bits (x % 2 ^ n) hi lo = bits x hi lo := by
  apply Nat.eq_of_testBit_eq
  intro i
  rw [testBit_bits, testBit_bits, Nat.testBit_mod_two_pow]
  by_cases hi' : i < hi + 1 - lo
  · have a : lo + i < n := by omega
    simp [a]
  · simp [hi']

/-- A field of a register reads as what it was set to. -/
theorem State.get_put_self (f : Field) (i : Ix) (v : Nat) (h : f.lo ≤ f.hi) (hh : f.hi < 64) :
    (s.put f i v).get f i = v % 2 ^ (f.hi + 1 - f.lo) := by
  simp only [State.get, State.put, State.rd_wr_self]
  rw [bits_mod hh, bits_setBits h]

/-- A field of one bit reads as the truth value it was set to. -/
theorem State.is_set_self (f : Field) (i : Ix) (b : Bool) (h : f.hi = f.lo) (hh : f.hi < 64) : (s.set f i b).is f i = b := by
  simp only [State.is, State.set, State.noteHw_get]
  rw [State.get_put_self s f i _ (by omega) hh, h]
  cases b <;> simp [b2n]

/-- A field of the same register beside the one set reads as before. -/
theorem State.get_put_field {f g : Field} (i : Ix) (v : Nat) (h : f.lo ≤ f.hi) (hg : g.hi < 64)
    (d : g.hi < f.lo ∨ f.hi < g.lo) : (s.put f i v).get g i = s.get g i ∨ i.reg g.reg ≠ i.reg f.reg := by
  by_cases e : i.reg g.reg = i.reg f.reg
  · left
    simp only [State.get, State.put, e, State.rd_wr_self]
    rw [bits_mod hg, bits_setBits_ne h d]
  · exact .inr e

/-- A field of another register reads as before. -/
theorem State.get_put_ne {f g : Field} {i j : Ix} (v : Nat) (e : j.reg g.reg ≠ i.reg f.reg) :
    (s.put f i v).get g j = s.get g j := by
  simp only [State.get, State.put]
  rw [State.rd_wr_ne s _ e]

end Sys2Proof.Machine
end

