-- ==== Sys2Proof/Laws/Issue.lean ====
section
/-! SUPPORT. What an attempt to issue does when nothing holds the instruction: its body runs in its last slot, and an instruction of
several slots begins in its first one. -/

namespace Sys2Proof.Machine

variable {s : State} {t : TraderId} {w k : Nat}

/-- A word that its guard, the pipelines and its own holds let start: its effect where it costs one slot, and otherwise it begins. -/
theorem State.starts_eq (uses : Nat → List GReg) (body : Nat → State → State) (cost : Nat → Trader → Nat)
    (hold : Nat → State → Option Bool) (early : Nat → State → State) (take : State → State)
    (hg : (s.trader t).guard w = true) (hl : (s.trader t).loads = []) (hs : (s.trader t).scq = []) (hh : hold w s = none) :
    s.starts t w uses body cost hold early take =
      if cost w (s.trader t) ≤ 1 then body w (take s)
      else early w ((take s).upd t (fun tr => { tr with prog := some { word := w, left := cost w (s.trader t) - 1 } })) := by
  have h1 : (s.trader t).awaits (uses w) = false := by simp [Trader.awaits, hl]
  have h2 : (s.trader t).scAwaits (uses w) = false := by simp [Trader.scAwaits, hs]
  simp only [State.starts, hg, h1, h2, hh, Bool.not_true, Bool.false_eq_true, if_false]

/-- An attempt in the first slot of an instruction: its whole effect where it costs one slot, and otherwise it begins. -/
theorem State.issue_first (h : s.Issues t w) (hk : keyOf w = k) (uses : Nat → List GReg) (body : Nat → State → State)
    (cost : Nat → Trader → Nat) (hold : Nat → State → Option Bool) (early : Nat → State → State)
    (hh : hold w (s.inSlot t) = none) :
    s.issue t k uses body cost hold early =
      if cost w ((s.inSlot t).trader t) ≤ 1 then body w (s.final t w)
      else early w (s.begins t w (cost w ((s.inSlot t).trader t))) := by
  simp only [State.issue, State.issueFirst, State.fetchSlot, h.can, h.fresh, h.word, h.legal, hk, h.clean, Bool.not_true,
    Bool.false_eq_true, if_false, ne_eq, not_true_eq_false, or_self]
  rw [← State.inSlot, State.starts_eq _ _ _ _ _ _ h.guard h.loads h.scale hh]
  simp only [State.final, h.fresh, Option.isSome_none, Bool.false_eq_true, if_false, State.begins]

/-- An attempt that issues an instruction of one slot runs the body of its own row. -/
theorem State.issue_eq (h : s.Issues t w) (hk : keyOf w = k) (uses : Nat → List GReg) (body : Nat → State → State)
    (cost : Nat → Trader → Nat) (hold : Nat → State → Option Bool) (early : Nat → State → State)
    (hh : hold w (s.inSlot t) = none) (hc : cost w ((s.inSlot t).trader t) ≤ 1) :
    s.issue t k uses body cost hold early = body w (s.final t w) := by
  rw [State.issue_first h hk _ _ _ _ _ hh, if_pos hc]

/-- An attempt of the instruction in progress, in its last slot, runs its body, and it is in progress no more. -/
theorem State.issue_last {p : Prog} (hc : s.canIssue t = true) (hp : (s.trader t).prog = some p) (hk : keyOf p.word = k)
    (hn : p.nul = false) (hf : p.first = false) (hl : p.left ≤ 1) (uses : Nat → List GReg) (body : Nat → State → State) (cost : Nat → Trader → Nat)
    (hold : Nat → State → Option Bool) (early : Nat → State → State) (hh : hold p.word (s.final t p.word) = none) :
    s.issue t k uses body cost hold early = s.ended t (body p.word (s.final t p.word)) := by
  simp only [State.final, hp, Option.isSome_some, if_true] at hh
  simp [State.issue, State.issueOn, State.heldBy, State.ended, State.final, hc, hp, hk, hn, hf, hl, hh]

/-- An attempt in the last slot of an instruction, whether it issues in it or is in progress. -/
theorem State.issue_atLast {n : Nat} (h : s.AtLast t w n) (hk : keyOf w = k) (uses : Nat → List GReg)
    (body : Nat → State → State) (cost : Nat → Trader → Nat) (hold : Nat → State → Option Bool) (early : Nat → State → State)
    (hc : cost w ((s.inSlot t).trader t) = n) (hh : hold w (s.inSlot t) = none) (hh' : hold w (s.final t w) = none) :
    s.issue t k uses body cost hold early = s.ended t (body w (s.final t w)) := by
  rcases h with ⟨h, rfl⟩ | ⟨hi, p, hp, rfl, hl, hn, hf⟩
  · rw [State.issue_eq h hk _ _ _ _ _ hh (Nat.le_of_eq hc)]
    simp [State.ended, h.fresh]
  · exact State.issue_last hi hp hk hn hf (Nat.le_of_eq hl) _ _ _ _ _ hh'

/-- An attempt of an instruction of one slot that changes its trader alone. -/
theorem State.simple_eq (h : s.Issues t w) (hk : keyOf w = k) (uses : Nat → List GReg) (f : Nat → Trader → Trader) :
    s.simple t k uses f = s.leaves t w (f w (s.at_ t w)) := by
  unfold State.simple
  rw [State.issue_eq h hk _ _ _ _ _ rfl (Nat.le_refl 1)]
  rfl

end Sys2Proof.Machine
end

