-- ==== Sys2Proof/Laws/Alu.lean ====
section
/-! SUPPORT. The arithmetic of the trader as numbers: sums, differences and shifts of `n` bits with their flags (R105,
R128). -/

namespace Sys2Proof.Machine

theorem two_pow_split {n : Nat} (h : 0 < n) : 2 ^ n = 2 * 2 ^ (n - 1) := by
  obtain ⟨m, rfl⟩ : ∃ m, n = m + 1 := ⟨n - 1, by omega⟩
  simp [Nat.pow_succ, Nat.mul_comm]

/-- The top bit of a number of `n` bits. -/
theorem msb_eq {n x : Nat} (h : 0 < n) (hx : x < 2 ^ n) : msb n x = decide (2 ^ (n - 1) ≤ x) := by
  have hp := Nat.two_pow_pos (n - 1)
  rw [two_pow_split h] at hx
  unfold msb bit
  rw [Nat.shiftRight_eq_div_pow]
  by_cases hl : 2 ^ (n - 1) ≤ x
  · have : x / 2 ^ (n - 1) = 1 := Nat.div_eq_of_lt_le (by omega) (by omega)
    simp [this, hl]
  · have : x / 2 ^ (n - 1) = 0 := Nat.div_eq_of_lt (by omega)
    simp [this, hl]

/-- The signed value of a number of `n` bits. -/
theorem sgn_eq {n x : Nat} (hx : x < 2 ^ n) : sgn n x = if x < 2 ^ (n - 1) then (x : Int) else (x : Int) - 2 ^ n := by
  have h : x % 2 ^ n = x := Nat.mod_eq_of_lt hx
  have h' : (x : Int) % 2 ^ n = x := by
    rw [show ((2 : Int) ^ n) = ((2 ^ n : Nat) : Int) by push_cast; rfl, ← Int.natCast_mod, h]
  simp [sgn, h, h']

theorem bit_top {n r : Nat} (h : 0 < n) (hr : r < 2 * 2 ^ n) : bit r n = decide (2 ^ n ≤ r) := by
  have := msb_eq (n := n + 1) (x := r) (by omega) (by rw [two_pow_split (by omega : 0 < n + 1)]; exact hr)
  simpa [msb] using this

/-- The sum of R128 with its carry and overflow. -/
theorem addW_eq {n a b cin : Nat} (h : 0 < n) (ha : a < 2 ^ n) (hb : b < 2 ^ n) (hc : cin ≤ 1) :
    addW n a b cin = ⟨(sumOf n a b cin).1, some (sumOf n a b cin).2.1, some (sumOf n a b cin).2.2⟩ := by
  have hp := Nat.two_pow_pos (n - 1)
  have e := two_pow_split h
  have ei : ((2 : Int) ^ n) = 2 * (2 ^ (n - 1) : Nat) := by
    rw [show ((2 : Int) ^ n) = ((2 ^ n : Nat) : Int) by push_cast; rfl, e]
    push_cast
    ring
  have em : ((2 : Int) ^ (n - 1)) = ((2 ^ (n - 1) : Nat) : Int) := by push_cast; rfl
  have hr : a + b + cin < 2 * 2 ^ n := by omega
  -- the top bit of the sum before it is cut
  have hm : msb n (a + b + cin) = decide (2 ^ (n - 1) ≤ (a + b + cin) % 2 ^ n) := by
    have := msb_eq h (Nat.mod_lt (a + b + cin) (Nat.two_pow_pos n))
    rw [← this]
    unfold msb bit
    rw [Nat.shiftRight_eq_div_pow, Nat.shiftRight_eq_div_pow, e, Nat.mul_comm 2, Nat.mod_mul_right_div_self, Nat.mod_mod]
  unfold addW sumOf
  simp only [Alu.mk.injEq, true_and]
  refine ⟨by rw [bit_top h hr], ?_⟩
  rw [hm, msb_eq h ha, msb_eq h hb]
  unfold overflows
  rw [sgn_eq ha, sgn_eq hb, ei, em]
  generalize 2 ^ (n - 1) = m at *
  rw [e]
  have hmod : (a + b + cin) % (2 * m) = if a + b + cin < 2 * m then a + b + cin else a + b + cin - 2 * m := by
    split
    · exact Nat.mod_eq_of_lt ‹_›
    · rw [Nat.mod_eq_sub_mod (by omega), Nat.mod_eq_of_lt (by omega)]
  rw [hmod]
  by_cases h1 : a < m <;> by_cases h2 : b < m <;> by_cases h3 : a + b + cin < 2 * m <;>
    simp only [h1, h2, h3, if_true, if_false, Option.some.injEq] <;>
    rw [Bool.eq_iff_iff] <;> simp only [Bool.and_eq_true, bne_iff_ne, ne_eq, beq_iff_eq, decide_eq_decide, Bool.or_eq_true,
      decide_eq_true_eq] <;> omega

/-- The difference of R128 with its borrow and overflow. -/
theorem subW_eq {n a b bin : Nat} (h : 0 < n) (ha : a < 2 ^ n) (hb : b < 2 ^ n) (hc : bin ≤ 1) :
    subW n a b bin = ⟨(diffOf n a b bin).1, some (diffOf n a b bin).2.1, some (diffOf n a b bin).2.2⟩ := by
  have hp := Nat.two_pow_pos (n - 1)
  have e := two_pow_split h
  have ei : ((2 : Int) ^ n) = 2 * (2 ^ (n - 1) : Nat) := by
    rw [show ((2 : Int) ^ n) = ((2 ^ n : Nat) : Int) by push_cast; rfl, e]
    push_cast
    ring
  have em : ((2 : Int) ^ (n - 1)) = ((2 ^ (n - 1) : Nat) : Int) := by push_cast; rfl
  have hu : unsg n ((a : Int) - b - bin) = (a + 2 ^ n - b - bin) % 2 ^ n := by
    unfold unsg
    rw [ei]
    have : ((a : Int) - b - bin) % (2 * (2 ^ (n - 1) : Nat)) = (((a + 2 ^ n - b - bin) % 2 ^ n : Nat) : Int) := by
      rw [e]
      generalize 2 ^ (n - 1) = m at *
      by_cases hx : b + bin ≤ a
      · rw [Nat.mod_eq_sub_mod (by omega), Nat.mod_eq_of_lt (by omega), Int.emod_eq_of_lt (by omega) (by omega)]
        omega
      · rw [Nat.mod_eq_of_lt (by omega), ← Int.add_emod_right, Int.emod_eq_of_lt (by omega) (by omega)]
        omega
    rw [this]
    rfl
  unfold subW diffOf
  simp only [hu, Alu.mk.injEq, true_and]
  rw [msb_eq h ha, msb_eq h hb, msb_eq h (Nat.mod_lt _ (Nat.two_pow_pos n))]
  unfold overflows
  rw [sgn_eq ha, sgn_eq hb, ei, em]
  generalize 2 ^ (n - 1) = m at *
  rw [e]
  have hmod : (a + 2 * m - b - bin) % (2 * m) = if b + bin ≤ a then a - b - bin else a + 2 * m - b - bin := by
    split
    · rw [Nat.mod_eq_sub_mod (by omega), Nat.mod_eq_of_lt (by omega)]
      omega
    · exact Nat.mod_eq_of_lt (by omega)
  rw [hmod]
  by_cases h1 : a < m <;> by_cases h2 : b < m <;> by_cases h3 : b + bin ≤ a <;>
    simp only [h1, h2, h3, if_true, if_false, Option.some.injEq] <;>
    rw [Bool.eq_iff_iff] <;> simp only [Bool.and_eq_true, bne_iff_ne, ne_eq, decide_eq_decide, Bool.or_eq_true,
      decide_eq_true_eq] <;> omega

theorem bit_eq (x n : Nat) : bit x n = (x / 2 ^ n % 2 == 1) := by
  unfold bit
  rw [Nat.shiftRight_eq_div_pow]

theorem sgn_bounds {n x : Nat} (h : 0 < n) : -(2 ^ (n - 1) : Int) ≤ sgn n x ∧ sgn n x < 2 ^ (n - 1) := by
  have hx := Nat.mod_lt x (Nat.two_pow_pos n)
  have e := two_pow_split h
  unfold sgn
  have ec : ((x : Int) % 2 ^ n) = ((x % 2 ^ n : Nat) : Int) := by push_cast; rfl
  have ei : ((2 : Int) ^ n) = 2 * (2 ^ (n - 1) : Nat) := by
    rw [show ((2 : Int) ^ n) = ((2 ^ n : Nat) : Int) by push_cast; rfl, e]
    push_cast
    ring
  have em : ((2 : Int) ^ (n - 1)) = ((2 ^ (n - 1) : Nat) : Int) := by push_cast; rfl
  rw [ec, ei, em]
  generalize 2 ^ (n - 1) = m at *
  split <;> omega

/-- The shifts and rotates of R128 with C. -/
theorem shiftW_eq {n v k : Nat} (kind : ShKind) (c : Bool) (hn : n = 8 ∨ n = 16 ∨ n = 24) (hv : v < 2 ^ n) (hk : k ≤ n)
    (hr : kind = .rol ∨ kind = .ror → k < n) :
    (shiftW kind n v k).r = (shiftOf kind n v k c).1 ∧ (shiftW kind n v k).c.getD c = (shiftOf kind n v k c).2 ∧
      (shiftW kind n v k).v = none ∧ (shiftOf kind n v k c).1 < 2 ^ n := by
  by_cases h0 : k = 0
  · simp [shiftW, shiftOf, h0, Nat.mod_eq_of_lt hv, hv]
  have hpk := Nat.two_pow_pos k
  have hsplit : 2 ^ n = 2 ^ (n - k) * 2 ^ k := by rw [← Nat.pow_add, Nat.sub_add_cancel hk]
  cases kind with
  | shl =>
    simp [shiftW, shiftOf, h0, hk, bit_eq, Nat.shiftLeft_eq, Nat.mod_lt _ (Nat.two_pow_pos n)]
  | shr =>
    refine ⟨?_, ?_, ?_, ?_⟩ <;> simp only [shiftW, shiftOf, h0, if_false, bit_eq, Nat.shiftRight_eq_div_pow, Option.getD_some]
    exact Nat.lt_of_le_of_lt (Nat.div_le_self _ _) hv
  | sar =>
    refine ⟨?_, ?_, ?_, ?_⟩ <;> simp only [shiftW, shiftOf, h0, if_false, bit_eq, Option.getD_some]
    · unfold unsg
      rw [Int.shiftRight_eq_div_pow]
      push_cast
      rfl
    · unfold unsg
      have e64 : (sgn n v % 2 ^ 64).toNat / 2 ^ (k - 1) % 2 = v / 2 ^ (k - 1) % 2 := by
        have hd : (2 : Nat) ^ 64 = 2 ^ (k - 1) * 2 * 2 ^ (64 - k) := by
          rw [← Nat.pow_succ, ← Nat.pow_add]
          congr 1
          rcases hn with rfl | rfl | rfl <;> omega
        have hm : ∀ z : Int, (z % 2 ^ 64).toNat % (2 ^ (k - 1) * 2) = (z % (2 ^ (k - 1) * 2 : Nat)).toNat := by
          intro z
          have h2 : ((2 : Int) ^ 64) = ((2 ^ (k - 1) * 2 * 2 ^ (64 - k) : Nat) : Int) := by rw [← hd]; rfl
          have hz : 0 ≤ z % 2 ^ 64 := Int.emod_nonneg _ (by decide)
          have hz' : 0 ≤ z % ((2 ^ (k - 1) * 2 : Nat) : Int) := Int.emod_nonneg _ (by positivity)
          apply Int.ofNat.inj
          simp only [Int.ofNat_eq_natCast, Int.natCast_mod, Int.toNat_of_nonneg hz, Int.toNat_of_nonneg hz']
          rw [h2, Int.emod_emod_of_dvd _ (Int.natCast_dvd_natCast.mpr (Nat.dvd_mul_right _ _))]
        have hdiv : ∀ x : Nat, x / 2 ^ (k - 1) % 2 = x % (2 ^ (k - 1) * 2) / 2 ^ (k - 1) := fun x =>
          (Nat.mod_mul_right_div_self x (2 ^ (k - 1)) 2).symm
        rw [hdiv, hdiv, hm]
        have hsv : sgn n v % ((2 ^ (k - 1) * 2 : Nat) : Int) = ((v % (2 ^ (k - 1) * 2) : Nat) : Int) := by
          have hd2 : (2 : Nat) ^ n = 2 ^ (k - 1) * 2 * 2 ^ (n - k) := by
            rw [← Nat.pow_succ, ← Nat.pow_add]
            congr 1
            omega
          rw [sgn_eq hv]
          split
          · push_cast
            rfl
          · have : ((2 : Int) ^ n) = ((2 ^ (k - 1) * 2 : Nat) : Int) * (2 ^ (n - k) : Nat) := by
              rw [← Int.natCast_mul, ← hd2]
              push_cast
              rfl
            rw [this, Int.sub_mul_emod_self_left]
            push_cast
            rfl
        rw [hsv]
        rfl
      rw [e64]
    · have hz : (sgn n v / 2 ^ k % 2 ^ n) < 2 ^ n := Int.emod_lt_of_pos _ (by positivity)
      have hz' : 0 ≤ (sgn n v / 2 ^ k % 2 ^ n) := Int.emod_nonneg _ (by positivity)
      zify
      rw [Int.toNat_of_nonneg hz']
      exact hz
  | rol =>
    have hk' := hr (.inl rfl)
    have hlt : v / 2 ^ (n - k) < 2 ^ k := by
      rw [Nat.div_lt_iff_lt_mul (Nat.two_pow_pos _), Nat.mul_comm, ← hsplit]
      exact hv
    have hor : v <<< k ||| v >>> (n - k) = v * 2 ^ k + v / 2 ^ (n - k) := by
      rw [Nat.shiftRight_eq_div_pow, ← Nat.shiftLeft_add_eq_or_of_lt hlt, Nat.shiftLeft_eq]
    refine ⟨?_, ?_, ?_, ?_⟩ <;> simp only [shiftW, shiftOf, h0, if_false, Option.getD_some, hor]
    · rw [bit_eq]
      have e2 : (2 : Nat) ^ n = 2 * 2 ^ (n - 1) := two_pow_split (by omega)
      have e3 : (2 : Nat) ^ k = 2 * 2 ^ (k - 1) := two_pow_split (by omega)
      congr 1
      rw [Nat.pow_zero, Nat.div_one, e2, Nat.mod_mul_right_mod, e3, Nat.mul_left_comm, Nat.mul_add_mod]
    · exact Nat.mod_lt _ (Nat.two_pow_pos n)
  | ror =>
    have hk' := hr (.inr rfl)
    have hlt : v / 2 ^ k < 2 ^ (n - k) := by
      rw [Nat.div_lt_iff_lt_mul hpk, ← hsplit]
      exact hv
    have hor : v >>> k ||| v <<< (n - k) = v / 2 ^ k + v * 2 ^ (n - k) := by
      rw [Nat.lor_comm, Nat.shiftRight_eq_div_pow, ← Nat.shiftLeft_add_eq_or_of_lt hlt, Nat.shiftLeft_eq, Nat.add_comm]
    refine ⟨?_, ?_, ?_, ?_⟩ <;> simp only [shiftW, shiftOf, h0, if_false, Option.getD_some, hor]
    · rw [msb, bit_eq]
      have e1 : (2 : Nat) ^ n = 2 ^ (n - 1) * 2 := by rw [two_pow_split (by omega), Nat.mul_comm]
      have e4 : (2 : Nat) ^ (n - 1) = 2 ^ (n - k) * 2 ^ (k - 1) := by
        rw [← Nat.pow_add]
        congr 1
        omega
      congr 1
      rw [e1, Nat.mod_mul_right_div_self, Nat.mod_mod, e4, ← Nat.div_div_eq_div_mul, Nat.mul_comm v, Nat.add_comm,
        Nat.mul_add_div (Nat.two_pow_pos _), Nat.div_eq_of_lt hlt, Nat.add_zero]
    · exact Nat.mod_lt _ (Nat.two_pow_pos n)

/-! ## Registers are numbers of their width -/

theorem Trader.dr_lt (tr : Trader) (i : Nat) : tr.dr i < 2 ^ 8 := BitVec.isLt _
theorem Trader.ar_lt (tr : Trader) (i : Nat) : tr.ar i < 2 ^ 16 := BitVec.isLt _
theorem Trader.acr_lt (tr : Trader) (i : Nat) : tr.acr i < 2 ^ 24 := BitVec.isLt _

/-- A result with its flags, written into a register. -/
theorem Trader.flags_setD (tr : Trader) (i : Nat) (r : Alu) (h : r.r < 2 ^ 8) :
    (tr.setD i r.r).flags 8 r = tr.resD i (r.r, r.c.getD tr.c, r.v.getD tr.v) := by
  have hz : (r.r == 0) = decide (r.r = 0) := rfl
  simp [Trader.flags, Trader.resD, Trader.withFl, msb_eq (by decide) h, hz, Trader.setD]

theorem Trader.flags_setA (tr : Trader) (i : Nat) (r : Alu) (h : r.r < 2 ^ 16) :
    (tr.setA i r.r).flags 16 r = tr.resA i (r.r, r.c.getD tr.c, r.v.getD tr.v) := by
  have hz : (r.r == 0) = decide (r.r = 0) := rfl
  simp [Trader.flags, Trader.resA, Trader.withFl, msb_eq (by decide) h, hz, Trader.setA]

theorem Trader.flags_setAc (tr : Trader) (i : Nat) (r : Alu) (h : r.r < 2 ^ 24) :
    (tr.setAc i r.r).flags 24 r = tr.resAc i (r.r, r.c.getD tr.c, r.v.getD tr.v) := by
  have hz : (r.r == 0) = decide (r.r = 0) := rfl
  simp [Trader.flags, Trader.resAc, Trader.withFl, msb_eq (by decide) h, hz, Trader.setAc]

/-! ## The shared forms of Machine/Alu.lean, when they issue -/

section Forms

variable {s : State} {t : TraderId} {w k : Nat} (h : s.Issues t w) (hk : keyOf w = k)

include h hk

theorem dOp_eq (f : Trader → Nat → Nat → Alu) (hr : (f (s.at_ t w) ((s.at_ t w).dr (fS1 w)) ((s.at_ t w).dr (fS2 w))).r < 2 ^ 8) :
    dOp t k f s = s.leaves t w ((s.at_ t w).resD (fDst w)
      ((f (s.at_ t w) ((s.at_ t w).dr (fS1 w)) ((s.at_ t w).dr (fS2 w))).r, (f (s.at_ t w) ((s.at_ t w).dr (fS1 w)) ((s.at_ t w).dr (fS2 w))).c.getD (s.at_ t w).c, (f (s.at_ t w) ((s.at_ t w).dr (fS1 w)) ((s.at_ t w).dr (fS2 w))).v.getD (s.at_ t w).v)) := by
  unfold dOp
  rw [State.simple_eq h hk]
  dsimp only
  rw [Trader.flags_setD _ _ _ hr]

theorem dOp1_eq (f : Nat → Alu) (hr : (f ((s.at_ t w).dr (fS1 w))).r < 2 ^ 8) :
    dOp1 t k f s = s.leaves t w ((s.at_ t w).resD (fDst w)
      ((f ((s.at_ t w).dr (fS1 w))).r, (f ((s.at_ t w).dr (fS1 w))).c.getD (s.at_ t w).c, (f ((s.at_ t w).dr (fS1 w))).v.getD (s.at_ t w).v)) := by
  unfold dOp1
  rw [State.simple_eq h hk]
  dsimp only
  rw [Trader.flags_setD _ _ _ hr]

theorem dImm_eq (f : Nat → Nat → Alu) (hr : (f ((s.at_ t w).dr (fS1 w)) w).r < 2 ^ 8) :
    dImm t k f s = s.leaves t w ((s.at_ t w).resD (fDst w)
      ((f ((s.at_ t w).dr (fS1 w)) w).r, (f ((s.at_ t w).dr (fS1 w)) w).c.getD (s.at_ t w).c, (f ((s.at_ t w).dr (fS1 w)) w).v.getD (s.at_ t w).v)) := by
  unfold dImm
  rw [State.simple_eq h hk]
  dsimp only
  rw [Trader.flags_setD _ _ _ hr]

theorem accOp_eq (f : Trader → Nat → Nat → Alu) (hr : (f (s.at_ t w) ((s.at_ t w).acr (fS1 w)) ((s.at_ t w).acr (fS2 w))).r < 2 ^ 24) :
    accOp t k f s = s.leaves t w ((s.at_ t w).resAc (fDst w)
      ((f (s.at_ t w) ((s.at_ t w).acr (fS1 w)) ((s.at_ t w).acr (fS2 w))).r, (f (s.at_ t w) ((s.at_ t w).acr (fS1 w)) ((s.at_ t w).acr (fS2 w))).c.getD (s.at_ t w).c, (f (s.at_ t w) ((s.at_ t w).acr (fS1 w)) ((s.at_ t w).acr (fS2 w))).v.getD (s.at_ t w).v)) := by
  unfold accOp
  rw [State.simple_eq h hk]
  dsimp only
  rw [Trader.flags_setAc _ _ _ hr]

theorem cdOp_eq (f : Nat → Nat → Alu) (hr : (f ((s.at_ t w).acr (fS1 w)) ((s.at_ t w).dr (fS2 w))).r < 2 ^ 24) :
    cdOp t k f s = s.leaves t w ((s.at_ t w).resAc (fDst w)
      ((f ((s.at_ t w).acr (fS1 w)) ((s.at_ t w).dr (fS2 w))).r, (f ((s.at_ t w).acr (fS1 w)) ((s.at_ t w).dr (fS2 w))).c.getD (s.at_ t w).c, (f ((s.at_ t w).acr (fS1 w)) ((s.at_ t w).dr (fS2 w))).v.getD (s.at_ t w).v)) := by
  unfold cdOp
  rw [State.simple_eq h hk]
  dsimp only
  rw [Trader.flags_setAc _ _ _ hr]

theorem caOp_eq (f : Nat → Nat → Alu) (hr : (f ((s.at_ t w).acr (fS1 w)) ((s.at_ t w).ar (fS2 w))).r < 2 ^ 24) :
    caOp t k f s = s.leaves t w ((s.at_ t w).resAc (fDst w)
      ((f ((s.at_ t w).acr (fS1 w)) ((s.at_ t w).ar (fS2 w))).r, (f ((s.at_ t w).acr (fS1 w)) ((s.at_ t w).ar (fS2 w))).c.getD (s.at_ t w).c, (f ((s.at_ t w).acr (fS1 w)) ((s.at_ t w).ar (fS2 w))).v.getD (s.at_ t w).v)) := by
  unfold caOp
  rw [State.simple_eq h hk]
  dsimp only
  rw [Trader.flags_setAc _ _ _ hr]

theorem cImm_eq (f : Nat → Nat → Alu) (hr : (f ((s.at_ t w).acr (fS1 w)) w).r < 2 ^ 24) :
    cImm t k f s = s.leaves t w ((s.at_ t w).resAc (fDst w)
      ((f ((s.at_ t w).acr (fS1 w)) w).r, (f ((s.at_ t w).acr (fS1 w)) w).c.getD (s.at_ t w).c, (f ((s.at_ t w).acr (fS1 w)) w).v.getD (s.at_ t w).v)) := by
  unfold cImm
  rw [State.simple_eq h hk]
  dsimp only
  rw [Trader.flags_setAc _ _ _ hr]

theorem aOp_eq (f : Trader → Nat → Nat → Alu) (hr : (f (s.at_ t w) ((s.at_ t w).ar (fS1 w)) ((s.at_ t w).ar (fS2 w))).r < 2 ^ 16) :
    aOp t k f s = s.leaves t w ((s.at_ t w).resA (fDst w)
      ((f (s.at_ t w) ((s.at_ t w).ar (fS1 w)) ((s.at_ t w).ar (fS2 w))).r, (f (s.at_ t w) ((s.at_ t w).ar (fS1 w)) ((s.at_ t w).ar (fS2 w))).c.getD (s.at_ t w).c, (f (s.at_ t w) ((s.at_ t w).ar (fS1 w)) ((s.at_ t w).ar (fS2 w))).v.getD (s.at_ t w).v)) := by
  unfold aOp
  rw [State.simple_eq h hk]
  dsimp only
  rw [Trader.flags_setA _ _ _ hr]

theorem adOp_eq (f : Nat → Nat → Alu) (hr : (f ((s.at_ t w).ar (fS1 w)) ((s.at_ t w).dr (fS2 w))).r < 2 ^ 16) :
    adOp t k f s = s.leaves t w ((s.at_ t w).resA (fDst w)
      ((f ((s.at_ t w).ar (fS1 w)) ((s.at_ t w).dr (fS2 w))).r, (f ((s.at_ t w).ar (fS1 w)) ((s.at_ t w).dr (fS2 w))).c.getD (s.at_ t w).c, (f ((s.at_ t w).ar (fS1 w)) ((s.at_ t w).dr (fS2 w))).v.getD (s.at_ t w).v)) := by
  unfold adOp
  rw [State.simple_eq h hk]
  dsimp only
  rw [Trader.flags_setA _ _ _ hr]

theorem aImm_eq (f : Nat → Nat → Alu) (hr : (f ((s.at_ t w).ar (fS1 w)) w).r < 2 ^ 16) :
    aImm t k f s = s.leaves t w ((s.at_ t w).resA (fDst w)
      ((f ((s.at_ t w).ar (fS1 w)) w).r, (f ((s.at_ t w).ar (fS1 w)) w).c.getD (s.at_ t w).c, (f ((s.at_ t w).ar (fS1 w)) w).v.getD (s.at_ t w).v)) := by
  unfold aImm
  rw [State.simple_eq h hk]
  dsimp only
  rw [Trader.flags_setA _ _ _ hr]

theorem pOp_eq (uses : Nat → List GReg) (f : Nat → Trader → Bool) :
    pOp t k uses f s = s.leaves t w ((s.at_ t w).setP (fDst w) (f w (s.at_ t w))) := by
  unfold pOp
  rw [State.simple_eq h hk]

theorem mulOp_eq (uses : Nat → List GReg) (f : Nat → Trader → Half × Half) :
    mulOp t k uses f s = s.leaves t w
      { s.at_ t w with mul := (s.at_ t w).mul ++ [((s.at_ t w).slot + 2, f w (s.at_ t w))] } := by
  unfold mulOp
  rw [State.simple_eq h hk]

end Forms

end Sys2Proof.Machine
end

