-- ==== Sys2Proof/Laws/Keeps.lean ====
section
/-! SUPPORT. What no command changes but in one direction: `Keeps s s'` is the relation, and the lemmas `<f>_keeps` of the
files Laws/Keeps….lean say it of every function of the model, in a form that accumulates: what stands in relation to a
first state still does after the function. -/

namespace Sys2Proof.Machine

/-- From `s` to `s'` the part and the queue of waiting commands are the same, the count of free values does not fall, the
memory keeps its canonical form, and no register has two entries. -/
structure Keeps (s s' : State) : Prop where
  part : s'.part = s.part
  pending : s'.pending = s.pending
  free : s.freeIx ≤ s'.freeIx
  mem : s.mem.wf = true → s'.mem.wf = true
  regs : (Tab.keys s.regs).Nodup → (Tab.keys s'.regs).Nodup

/-- The answer of a command, when it is a next state, stands in relation to `s`. -/
def KeepsOut (s : State) (o : Out) : Prop := ∀ s', o = .next s' → Keeps s s'

theorem Keeps.refl (s : State) : Keeps s s := ⟨rfl, rfl, Nat.le_refl _, id, id⟩

theorem Keeps.trans {a b c : State} (h : Keeps a b) (k : Keeps b c) : Keeps a c :=
  ⟨k.part.trans h.part, k.pending.trans h.pending, h.free.trans k.free, fun x => k.mem (h.mem x), fun x => k.regs (h.regs x)⟩

/-- A state that has all its fields but the five of the relation changed. -/
theorem Keeps.upd {s0 s : State} {part tick till regs hwSet swSet mem ecc axes marks counters pins criers crWas crDid barrows lanes threads chans
    slots cartTurn calibs wind traders stalls stallSlot deliveries edgeActs tokens hostPops deferred chits reqs
    arrived nextReq pathArb portArb atomArb agentWait orderTurn jobs jobSeq images swaps failovers held windDefault
    patches power dbg faults corrTold ports readOut readData readErr freeIx pending}
    (hp : part = s.part) (hq : pending = s.pending) (hf : freeIx = s.freeIx) (hm : mem = s.mem) (hr : regs = s.regs)
    (h : Keeps s0 s) :
    Keeps s0 (State.mk part tick till regs hwSet swSet mem ecc axes marks counters pins criers crWas crDid barrows lanes threads chans
      slots cartTurn calibs wind traders stalls stallSlot deliveries edgeActs tokens hostPops deferred chits reqs
      arrived nextReq pathArb portArb atomArb agentWait orderTurn jobs jobSeq images swaps failovers held windDefault
      patches power dbg faults corrTold ports readOut readData readErr freeIx pending) := by
  subst hp hq hf hm hr
  exact ⟨h.part, h.pending, h.free, h.mem, h.regs⟩

theorem KeepsOut.next {s0 s : State} (h : Keeps s0 s) : KeepsOut s0 (.next s) := by
  intro s' e
  cases e
  exact h

theorem Keeps.cut {s0 s s1 : State} (h : Keeps s0 s) (k : Keeps s0 s → Keeps s0 s1) : Keeps s0 s1 := k h

theorem Keeps.snd {α : Type} {s0 s : State} {p : α × State} {a : α} (e : p = (a, s)) (h : Keeps s0 p.2) : Keeps s0 s := by
  subst e
  exact h

theorem Keeps.fst {α : Type} {s0 s : State} {p : State × α} {a : α} (e : p = (s, a)) (h : Keeps s0 p.1) : Keeps s0 s := by
  subst e
  exact h

theorem Keeps.snd2 {α β : Type} {s0 s : State} {p : α × β × State} {a : α} {b : β} (e : p = (a, b, s)) (h : Keeps s0 p.2.2) :
    Keeps s0 s := by
  subst e
  exact h

/-- The state that an optional result holds, or `s`. -/
def optState {α : Type} (s : State) : Option (α × State) → State
  | some r => r.2
  | none => s

theorem Keeps.mkOpt {α : Type} {s0 t : State} {a : α} (h : Keeps s0 t) : Keeps s0 (optState s0 (some (a, t))) := h

theorem Keeps.mkNone {α : Type} {s0 : State} : Keeps s0 (optState s0 (none : Option (α × State))) := Keeps.refl s0

theorem Keeps.opt {α : Type} {s0 t : State} {a : α} {o : Option (α × State)} (e : o = some (a, t))
    (h : Keeps s0 (optState s0 o)) : Keeps s0 t := by
  subst e
  exact h

theorem Keeps.getSome {s0 t : State} (h : Keeps s0 t) : Keeps s0 ((some t).getD s0) := h

theorem Keeps.getNone {s0 : State} : Keeps s0 ((none : Option State).getD s0) := Keeps.refl s0

theorem Keeps.getD {s0 s : State} {o : Option State} (h : Keeps s0 s) (k : Keeps s0 (o.getD s0)) : Keeps s0 (o.getD s) := by
  cases o with
  | none => exact h
  | some t => exact k

theorem Keeps.ofGet {s0 t : State} {o : Option State} (e : o = some t) (h : Keeps s0 (o.getD s0)) : Keeps s0 t := by
  subst e
  exact h

/-- A state whose registers are some of those of `s`. -/
theorem Keeps.filterRegs {s0 s t : State} (p : Reg × Dword → Bool) (hp : t.part = s.part) (hq : t.pending = s.pending)
    (hf : t.freeIx = s.freeIx) (hm : t.mem = s.mem ∨ t.mem = []) (hr : t.regs = s.regs.filter p) (h : Keeps s0 s) :
    Keeps s0 t := by
  refine ⟨hp.trans h.part, hq.trans h.pending, hf ▸ h.free, fun k => ?_, fun k => ?_⟩
  · rcases hm with e | e <;> rw [e]
    · exact h.mem k
    · rfl
  · rw [hr]
    exact ((List.filter_sublist).map _).nodup (h.regs k)

theorem forAll_keeps {α : Type} {s0 s : State} (xs : List α) (f : α → State → State) (h : Keeps s0 s)
    (hf : ∀ x t, Keeps s0 t → Keeps s0 (f x t)) : Keeps s0 (forAll xs f s) := by
  unfold forAll
  induction xs generalizing s with
  | nil => exact h
  | cons x xs ih => exact ih (hf x s h)

theorem foldl_keeps {α : Type} {s0 s : State} (xs : List α) (f : State → α → State) (h : Keeps s0 s)
    (hf : ∀ t x, Keeps s0 t → Keeps s0 (f t x)) : Keeps s0 (xs.foldl f s) := by
  induction xs generalizing s with
  | nil => exact h
  | cons x xs ih => exact ih (hf s x h)

theorem iter_keeps {s0 s : State} (n : Nat) (f : State → State) (h : Keeps s0 s)
    (hf : ∀ t, Keeps s0 t → Keeps s0 (f t)) : Keeps s0 (iter n f s) := by
  induction n generalizing s with
  | zero => exact h
  | succ n ih => exact ih (hf s h)

end Sys2Proof.Machine
end

