-- ==== Sys2Proof/Laws/KeepsOps.lean ====
section
/-! SUPPORT. `Keeps` of the functions of Machine/Ops.lean: what none of them changes. -/

namespace Sys2Proof.Machine

variable {s0 s : State}

theorem State.atEdge_keeps (x2 at_ : Nat) (d : EdgeDo) (h : Keeps s0 s) :
    Keeps s0 (State.atEdge s x2 at_ d) := by
  with_reducible unfold State.atEdge; repeat' first | assumption | refine Keeps.upd rfl rfl rfl rfl rfl ?_

theorem State.wr_keeps (r : Reg) (v : Nat) (h : Keeps s0 s) : Keeps s0 (State.wr s r v) :=
  ⟨h.part, h.pending, h.free, h.mem, fun k => Tab.keys_set_nodup _ _ (h.regs k)⟩

theorem State.put_keeps (f : Field) (i : Ix) (v : Nat) (h : Keeps s0 s) :
    Keeps s0 (State.put s f i v) := by
  with_reducible unfold State.put; repeat' first | assumption | apply State.wr_keeps

theorem State.noteHw_keeps (f : Field) (i : Ix) (m : Nat) (h : Keeps s0 s) :
    Keeps s0 (State.noteHw s f i m) := by
  with_reducible unfold State.noteHw; repeat' first | assumption | split | refine Keeps.upd rfl rfl rfl rfl rfl ?_

theorem State.noteSw_keeps (f : Field) (i : Ix) (m : Nat) (h : Keeps s0 s) :
    Keeps s0 (State.noteSw s f i m) := by
  with_reducible unfold State.noteSw; repeat' first | assumption | refine Keeps.upd rfl rfl rfl rfl rfl ?_

theorem State.set_keeps (f : Field) (i : Ix) (b : Bool) (h : Keeps s0 s) :
    Keeps s0 (State.set s f i b) := by
  with_reducible unfold State.set; repeat' first | assumption | apply State.put_keeps | apply State.noteHw_keeps

theorem State.setAt_keeps (f : Field) (i : Ix) (at_ : Nat) (h : Keeps s0 s) :
    Keeps s0 (State.setAt s f i at_) := by
  with_reducible unfold State.setAt; repeat' first | assumption | apply State.set_keeps | apply State.put_keeps | split

theorem State.orIn_keeps (f : Field) (i : Ix) (m : Nat) (h : Keeps s0 s) :
    Keeps s0 (State.orIn s f i m) := by
  with_reducible unfold State.orIn; repeat' first | assumption | apply State.put_keeps | apply State.noteHw_keeps

theorem State.clrIn_keeps (f : Field) (i : Ix) (m : Nat) (h : Keeps s0 s) :
    Keeps s0 (State.clrIn s f i m) := by
  with_reducible unfold State.clrIn; repeat' first | assumption | apply State.put_keeps

theorem State.w1c_keeps (f : Field) (i : Ix) (m : Nat) (h : Keeps s0 s) :
    Keeps s0 (State.w1c s f i m) := by
  with_reducible unfold State.w1c; repeat' first | assumption | apply State.clrIn_keeps

theorem State.hwClr_keeps (f : Field) (i : Ix) (m : Nat) (h : Keeps s0 s) :
    Keeps s0 (State.hwClr s f i m) := by
  with_reducible unfold State.hwClr; repeat' first | assumption | apply State.clrIn_keeps

theorem State.w1s_keeps (f : Field) (i : Ix) (m : Nat) (h : Keeps s0 s) :
    Keeps s0 (State.w1s s f i m) := by
  with_reducible unfold State.w1s; repeat' first | assumption | apply State.put_keeps | apply State.noteSw_keeps

theorem State.fieldWrite_keeps (r : Reg) (v : Nat) (h : Keeps s0 s) :
    Keeps s0 (State.fieldWrite s r v) := by
  with_reducible unfold State.fieldWrite; repeat' first
    | assumption | intro _ | apply State.w1c_keeps | apply State.put_keeps | apply State.w1s_keeps | apply forAll_keeps
    | (extract_lets +onlyGivenNames a; clear_value a) | split

theorem State.resetRegs_keeps (p : Reg → Bool) (h : Keeps s0 s) : Keeps s0 (State.resetRegs s p) :=
  ⟨h.part, h.pending, h.free, h.mem, fun k => Tab.keys_delIf_nodup _ (h.regs k)⟩

theorem State.count_keeps (f : Field) (i : Ix) (n : Nat) (h : Keeps s0 s) :
    Keeps s0 (State.count s f i n) := by
  with_reducible unfold State.count; repeat' first | assumption | apply State.put_keeps

theorem State.setAxis_keeps (n : Nat) (a : Axis) (h : Keeps s0 s) :
    Keeps s0 (State.setAxis s n a) := by
  with_reducible unfold State.setAxis; repeat' first | assumption | refine Keeps.upd rfl rfl rfl rfl rfl ?_

theorem State.setMark_keeps (x2 m : Nat) (a : Mark) (h : Keeps s0 s) :
    Keeps s0 (State.setMark s x2 m a) := by
  with_reducible unfold State.setMark; repeat' first | assumption | refine Keeps.upd rfl rfl rfl rfl rfl ?_

theorem State.setCounter_keeps (x2 c : Nat) (a : Counter) (h : Keeps s0 s) :
    Keeps s0 (State.setCounter s x2 c a) := by
  with_reducible unfold State.setCounter; repeat' first | assumption | refine Keeps.upd rfl rfl rfl rfl rfl ?_

theorem State.setPin_keeps (x2 i : Nat) (a : PinState) (h : Keeps s0 s) :
    Keeps s0 (State.setPin s x2 i a) := by
  with_reducible unfold State.setPin; repeat' first | assumption | refine Keeps.upd rfl rfl rfl rfl rfl ?_

theorem State.setTrader_keeps (t : TraderId) (a : Trader) (h : Keeps s0 s) :
    Keeps s0 (State.setTrader s t a) := by
  with_reducible unfold State.setTrader; repeat' first | assumption | refine Keeps.upd rfl rfl rfl rfl rfl ?_

theorem State.setStall_keeps (x2 n : Nat) (a : Stall) (h : Keeps s0 s) :
    Keeps s0 (State.setStall s x2 n a) := by
  with_reducible unfold State.setStall; repeat' first | assumption | refine Keeps.upd rfl rfl rfl rfl rfl ?_

theorem State.setCrier_keeps (c : CrierId) (a : Crier) (h : Keeps s0 s) :
    Keeps s0 (State.setCrier s c a) := by
  with_reducible unfold State.setCrier; repeat' first | assumption | refine Keeps.upd rfl rfl rfl rfl rfl ?_

theorem State.setBarrow_keeps (x2 b : Nat) (a : Barrow) (h : Keeps s0 s) :
    Keeps s0 (State.setBarrow s x2 b a) := by
  with_reducible unfold State.setBarrow; repeat' first | assumption | refine Keeps.upd rfl rfl rfl rfl rfl ?_

theorem State.setLane_keeps (x2 k : Nat) (a : Lane) (h : Keeps s0 s) :
    Keeps s0 (State.setLane s x2 k a) := by
  with_reducible unfold State.setLane; repeat' first | assumption | refine Keeps.upd rfl rfl rfl rfl rfl ?_

theorem State.setThread_keeps (x2 k th : Nat) (a : Thread) (h : Keeps s0 s) :
    Keeps s0 (State.setThread s x2 k th a) := by
  with_reducible unfold State.setThread; repeat' first | assumption | refine Keeps.upd rfl rfl rfl rfl rfl ?_

theorem State.store_keeps (a : Arr) (o : Nat) (bs : List Byte) (h : Keeps s0 s) :
    Keeps s0 (State.store s a o bs) :=
  ⟨h.part, h.pending, h.free, fun k => Memory.wf_writeBytes _ _ (h.mem k), h.regs⟩

theorem State.storeNat_keeps (a : Arr) (o n v : Nat) (h : Keeps s0 s) :
    Keeps s0 (State.storeNat s a o n v) := by
  with_reducible unfold State.storeNat; repeat' first | assumption | apply State.store_keeps

theorem State.granted_keeps (x2 m : Nat) (a n : Nat) (h : Keeps s0 s) :
    Keeps s0 (State.granted s x2 m a n) := by
  with_reducible unfold State.granted; repeat' first | assumption | apply State.count_keeps | split

theorem State.freeWord_keeps (h : Keeps s0 s) : Keeps s0 (State.freeWord s).2 :=
  ⟨h.part, h.pending, Nat.le_succ_of_le h.free, h.mem, h.regs⟩

theorem State.freeBytes_keeps (n : Nat) (h : Keeps s0 s) : Keeps s0 (State.freeBytes s n).2 :=
  ⟨h.part, h.pending, Nat.le_add_right_of_le h.free, h.mem, h.regs⟩

theorem State.collided_keeps (mask a : Nat) (bs : List Byte) (h : Keeps s0 s) :
    Keeps s0 (State.collided s mask a bs).2 := by
  unfold State.collided
  extract_lets f
  have hf : Keeps s0 f.2 := State.freeBytes_keeps _ h
  clear_value f
  split <;> assumption

theorem State.byPort_keeps (p x3 : Nat) (c : Instr) (busy : Bool) (f : State → State)
    (h : Keeps s0 s) (hf : ∀ y0, Keeps s0 y0 → Keeps s0 (f y0)) :
    Keeps s0 (State.byPort s p x3 c busy f) := by
  with_reducible unfold State.byPort; repeat' first
    | assumption | apply hf | split | refine Keeps.upd rfl rfl rfl rfl rfl ?_

theorem State.lfoStep_keeps (h : Keeps s0 s) :
    Keeps s0 (State.lfoStep s) := by
  with_reducible unfold State.lfoStep; repeat' first
    | assumption | apply State.set_keeps
    | (extract_lets +onlyGivenNames a; first | (refine Keeps.cut (s := a) ?_ (fun _ => ?_); subst a; rotate_left; clear_value a) | clear_value a)
    | refine Keeps.upd rfl rfl rfl rfl rfl ?_

theorem State.tillTo_keeps (c : TillClk) (h : Keeps s0 s) :
    Keeps s0 (State.tillTo s c) := by
  with_reducible unfold State.tillTo; repeat' first
    | assumption | apply State.set_keeps | apply State.lfoStep_keeps
    | (extract_lets +onlyGivenNames a; first | (refine Keeps.cut (s := a) ?_ (fun _ => ?_); subst a; rotate_left; clear_value a) | clear_value a)
    | split | refine Keeps.upd rfl rfl rfl rfl rfl ?_

theorem State.idle_keeps (h : Keeps s0 s) :
    Keeps s0 (State.idle s) := by
  with_reducible unfold State.idle; repeat' first
    | assumption | apply State.lfoStep_keeps | split | refine Keeps.upd rfl rfl rfl rfl rfl ?_

theorem State.raiseOn_keeps (ring : Nat) (id : ChitId) (data till : Nat) (ends : Bool) (h : Keeps s0 s) :
    Keeps s0 (State.raiseOn s ring id data till ends) := by
  with_reducible unfold State.raiseOn; repeat' first
    | assumption | apply State.count_keeps | (extract_lets +onlyGivenNames a; clear_value a) | split
    | refine Keeps.upd rfl rfl rfl rfl rfl ?_

theorem State.chit_keeps (ty src : Nat) (data till : Nat) (job key : Nat) (h : Keeps s0 s) :
    Keeps s0 (State.chit s ty src data till job key) := by
  with_reducible unfold State.chit; repeat' first | assumption | apply State.raiseOn_keeps

theorem State.hallChit_keeps (x2 ty : Nat) (low data : Nat) (till job key : Nat) (h : Keeps s0 s) :
    Keeps s0 (State.hallChit s x2 ty low data till job key) := by
  with_reducible unfold State.hallChit; repeat' first | assumption | apply State.chit_keeps

theorem State.corrected_keeps (x2 k : Nat) (h : Keeps s0 s) :
    Keeps s0 (State.corrected s x2 k) := by
  with_reducible unfold State.corrected; repeat' first
    | assumption | apply State.hallChit_keeps | apply State.count_keeps
    | (extract_lets +onlyGivenNames a; first | (refine Keeps.cut (s := a) ?_ (fun _ => ?_); subst a; rotate_left; clear_value a) | clear_value a)
    | split | refine Keeps.upd rfl rfl rfl rfl rfl ?_

theorem State.uncorrectable_keeps (x2 array addr : Nat) (chit : Bool) (h : Keeps s0 s) :
    Keeps s0 (State.uncorrectable s x2 array addr chit) := by
  with_reducible unfold State.uncorrectable; repeat' first
    | assumption | apply State.hallChit_keeps | apply State.wr_keeps
    | (extract_lets +onlyGivenNames a; first | (refine Keeps.cut (s := a) ?_ (fun _ => ?_); subst a; rotate_left; clear_value a) | clear_value a)
    | split

theorem State.occur_keeps (t : TraderId) (src : Nat) (h : Keeps s0 s) :
    Keeps s0 (State.occur s t src) := by
  with_reducible unfold State.occur; repeat' first | assumption | apply State.orIn_keeps | split

theorem State.hselNote_keeps (r : Reg) (h : Keeps s0 s) :
    Keeps s0 (State.hselNote s r) := by
  with_reducible unfold State.hselNote; repeat' first | assumption | apply State.setTrader_keeps

theorem State.hallEvent_keeps (x2 num : Nat) (h : Keeps s0 s) :
    Keeps s0 (State.hallEvent s x2 num) := by
  with_reducible unfold State.hallEvent; repeat' first
    | assumption | intro _ | apply State.occur_keeps | apply forAll_keeps
    | (extract_lets +onlyGivenNames a; first | (refine Keeps.cut (s := a) ?_ (fun _ => ?_); subst a; rotate_left; clear_value a) | clear_value a)
    | split

theorem State.deliver_keeps (x2 : Nat) (src : DeliverySrc) (at_ : Nat) (h : Keeps s0 s) :
    Keeps s0 (State.deliver s x2 src at_) := by
  with_reducible unfold State.deliver; repeat' first | assumption | split | refine Keeps.upd rfl rfl rfl rfl rfl ?_

theorem State.setWatches_keeps (x2 : Nat) (dev : Bool) (n : Nat) (h : Keeps s0 s) :
    Keeps s0 (State.setWatches s x2 dev n) := by
  with_reducible unfold State.setWatches; repeat' first
    | assumption | (extract_lets +onlyGivenNames a; clear_value a) | split | refine Keeps.upd rfl rfl rfl rfl rfl ?_

theorem State.ringHall_keeps (x2 n at_ : Nat) (h : Keeps s0 s) :
    Keeps s0 (State.ringHall s x2 n at_) := by
  with_reducible unfold State.ringHall; repeat' first
    | assumption | apply State.setWatches_keeps | apply State.deliver_keeps

theorem State.ringDev_keeps (n at_ : Nat) (h : Keeps s0 s) :
    Keeps s0 (State.ringDev s n at_) := by
  with_reducible unfold State.ringDev; repeat' first
    | assumption | intro _ | apply State.setWatches_keeps | apply State.deliver_keeps | apply forAll_keeps

theorem State.ringMask_keeps (dev : Bool) (x3 w mask : Nat) (h : Keeps s0 s) :
    Keeps s0 (State.ringMask s dev x3 w mask) := by
  with_reducible unfold State.ringMask; repeat' first
    | assumption | intro _ | apply State.ringDev_keeps | apply State.ringHall_keeps | apply forAll_keeps | split

theorem State.qAbort_keeps (x2 q : Nat) (h : Keeps s0 s) :
    Keeps s0 (State.qAbort s x2 q) := by
  with_reducible unfold State.qAbort; repeat' first | assumption | apply State.put_keeps

theorem State.qReturn_keeps (x2 q : Nat) (h : Keeps s0 s) :
    Keeps s0 (State.qReturn s x2 q) := by
  with_reducible unfold State.qReturn; repeat' first | assumption | apply State.put_keeps

theorem State.qEvents_keeps (x2 q : Nat) (h : Keeps s0 s) :
    Keeps s0 (State.qEvents s x2 q) := by
  with_reducible unfold State.qEvents; repeat' first
    | assumption | apply State.hallChit_keeps | apply State.ringHall_keeps
    | (extract_lets +onlyGivenNames a; first | (refine Keeps.cut (s := a) ?_ (fun _ => ?_); subst a; rotate_left; clear_value a) | clear_value a)
    | split

theorem State.qDo_keeps (x2 q n : Nat) (op : QOp) (h : Keeps s0 s) :
    Keeps s0 (State.qDo s x2 q n op) := by
  with_reducible unfold State.qDo; repeat' first
    | assumption | apply State.qEvents_keeps | apply State.put_keeps | apply State.qAbort_keeps
    | apply State.qReturn_keeps | (extract_lets +onlyGivenNames a; clear_value a) | split

theorem State.qOp_keeps (x2 q n : Nat) (op : QOp) (h : Keeps s0 s) :
    Keeps s0 (State.qOp s x2 q n op).2 := by
  with_reducible unfold State.qOp; repeat' first
    | assumption | apply State.qDo_keeps | (extract_lets +onlyGivenNames a; clear_value a) | dsimp only | split

theorem State.qStat_keeps (by_ : Caller) (q reason : Nat) (h : Keeps s0 s) :
    Keeps s0 (State.qStat s by_ q reason) := by
  with_reducible unfold State.qStat; repeat' first
    | assumption | apply State.put_keeps | (extract_lets +onlyGivenNames a; clear_value a) | split

theorem State.postAnswer_keeps (by_ : Caller) (q reason : Nat) (h : Keeps s0 s) :
    Keeps s0 (State.postAnswer s by_ q reason) := by
  with_reducible unfold State.postAnswer; repeat' first
    | assumption | apply State.qStat_keeps | apply State.setTrader_keeps
    | (extract_lets +onlyGivenNames a; first | (refine Keeps.cut (s := a) ?_ (fun _ => ?_); subst a; rotate_left; clear_value a) | clear_value a)
    | split

theorem State.issueReq_keeps (r : HostReq) (h : Keeps s0 s) :
    Keeps s0 (State.issueReq s r) := by
  with_reducible unfold State.issueReq; repeat' first
    | assumption | apply State.qDo_keeps | apply State.postAnswer_keeps
    | (extract_lets +onlyGivenNames a; first | (refine Keeps.cut (s := a) ?_ (fun _ => ?_); subst a; rotate_left; clear_value a) | (have e : a = a := funext fun _ => rfl; clear e; subst a; beta_reduce) | clear_value a)
    | split | refine Keeps.upd rfl rfl rfl rfl rfl ?_

theorem State.grantOne_keeps (h : Keeps s0 s) : Keeps s0 (Option.getD (State.grantOne s) s0) := by
  unfold State.grantOne
  extract_lets able
  clear_value able
  split
  · exact Keeps.getSome (State.issueReq_keeps _ h)
  · exact Keeps.getNone
  · dsimp only
    split
    · exact Keeps.getNone
    · split
      · exact Keeps.getNone
      · rename_i m ha _
        cases List.find? (fun r => s.reqMaster _ r == m) _ with
        | none => exact Keeps.getNone
        | some r => exact Keeps.getSome (State.issueReq_keeps r (h.upd rfl rfl rfl rfl rfl))


theorem State.grants_keeps (x2 : Nat) (h : Keeps s0 s) : Keeps s0 (State.grants s x2) := by
  induction x2 generalizing s with
  | zero => exact h
  | succ n ih =>
    unfold State.grants
    split
    · rename_i e
      exact ih (Keeps.ofGet e (State.grantOne_keeps h))
    · exact h


theorem State.grantTags_keeps (h : Keeps s0 s) :
    Keeps s0 (State.grantTags s) := by
  with_reducible unfold State.grantTags; repeat' first | assumption | apply State.grants_keeps

theorem State.hostReq_keeps (owner : HostOwner) (hall : Option Nat) (stream addr len : Nat) (data : List Byte) (write : Bool) (taddr : Nat) (post : Option (Caller × Nat))
    (h : Keeps s0 s) :
    Keeps s0 (State.hostReq s owner hall stream addr len data write taddr post).1 := by
  with_reducible unfold State.hostReq; repeat' first
    | assumption | apply State.grantTags_keeps | (extract_lets +onlyGivenNames a; clear_value a) | dsimp only
    | refine Keeps.upd rfl rfl rfl rfl rfl ?_

theorem State.takeAnswer_keeps (id : Nat) (h : Keeps s0 s) :
    Keeps s0 (State.takeAnswer s id) := by
  with_reducible unfold State.takeAnswer; repeat' first | assumption | refine Keeps.upd rfl rfl rfl rfl rfl ?_

theorem State.updJob_keeps (n : Nat) (f : Job → Job) (h : Keeps s0 s) :
    Keeps s0 (State.updJob s n f) := by
  with_reducible unfold State.updJob; repeat' first | assumption | split | refine Keeps.upd rfl rfl rfl rfl rfl ?_

theorem State.jobTo_keeps (n : Nat) (st : JobState) (reason : Nat) (h : Keeps s0 s) :
    Keeps s0 (State.jobTo s n st reason) := by
  with_reducible unfold State.jobTo; repeat' first
    | assumption | apply State.updJob_keeps | apply State.raiseOn_keeps
    | (extract_lets +onlyGivenNames a; first | (refine Keeps.cut (s := a) ?_ (fun _ => ?_); subst a; rotate_left; clear_value a) | clear_value a)
    | split

theorem State.fetchMore_keeps (n : Nat) (h : Keeps s0 s) :
    Keeps s0 (State.fetchMore s n) := by
  with_reducible unfold State.fetchMore; repeat' first
    | assumption | apply State.hostReq_keeps | refine Keeps.fst ‹_› ?_ | split

theorem State.fetchHost_keeps (n addr len : Nat) (h : Keeps s0 s) :
    Keeps s0 (State.fetchHost s n addr len) := by
  with_reducible unfold State.fetchHost; repeat' first
    | assumption | apply State.updJob_keeps | apply State.fetchMore_keeps

theorem State.retire_keeps (h : Keeps s0 s) :
    Keeps s0 (State.retire s) := by
  with_reducible unfold State.retire; repeat' first | assumption | refine Keeps.upd rfl rfl rfl rfl rfl ?_

end Sys2Proof.Machine
end

