-- ==== Sys2Proof/Laws/KeepsTraderOps.lean ====
section
/-! SUPPORT. `Keeps` of the functions of Machine/TraderOps.lean: what none of them changes. -/

namespace Sys2Proof.Machine

variable {s0 s : State}

theorem State.upd_keeps (t : TraderId) (f : Trader → Trader) (h : Keeps s0 s) :
    Keeps s0 (State.upd s t f) := by
  with_reducible unfold State.upd; repeat' first | assumption | apply State.setTrader_keeps

theorem State.wordClean_keeps (w : Nat × Nat) (h : Keeps s0 s) :
    Keeps s0 (State.wordClean s w) := by
  with_reducible unfold State.wordClean; repeat' first | assumption | refine Keeps.upd rfl rfl rfl rfl rfl ?_

theorem State.scClean_keeps (t : TraderId) (i : Nat) (h : Keeps s0 s) :
    Keeps s0 (State.scClean s t i) := by
  with_reducible unfold State.scClean; repeat' first | assumption | apply State.wordClean_keeps | split

theorem State.land_keeps (t : TraderId) (h : Keeps s0 s) :
    Keeps s0 (State.land s t) := by
  with_reducible unfold State.land; repeat' first
    | assumption | intro _ | apply State.upd_keeps | apply State.scClean_keeps | apply State.wr_keeps
    | apply State.setTrader_keeps | apply foldl_keeps
    | (extract_lets +onlyGivenNames a; first | (refine Keeps.cut (s := a) ?_ (fun _ => ?_); subst a; rotate_left; clear_value a) | clear_value a)
    | split

theorem State.countSlot_keeps (t : TraderId) (lvl : Nat) (h : Keeps s0 s) :
    Keeps s0 (State.countSlot s t lvl) := by
  with_reducible unfold State.countSlot; repeat' first
    | assumption | apply State.upd_keeps | (extract_lets +onlyGivenNames a; clear_value a) | split

theorem State.takeSlot_keeps (t : TraderId) (h : Keeps s0 s) :
    Keeps s0 (State.takeSlot s t) := by
  with_reducible unfold State.takeSlot; repeat' first
    | assumption | apply State.upd_keeps | refine Keeps.upd rfl rfl rfl rfl rfl ?_

theorem State.ownSlot_keeps (t : TraderId) (lvl : Nat) (h : Keeps s0 s) :
    Keeps s0 (State.ownSlot s t lvl) := by
  with_reducible unfold State.ownSlot; repeat' first
    | assumption | apply State.land_keeps | apply State.countSlot_keeps | apply State.takeSlot_keeps

theorem State.unsched_keeps (t : TraderId) (h : Keeps s0 s) :
    Keeps s0 (State.unsched s t) := by
  with_reducible unfold State.unsched; repeat' first | assumption | apply State.put_keeps

theorem State.endCheck_keeps (t : TraderId) (h : Keeps s0 s) :
    Keeps s0 (State.endCheck s t) := by
  with_reducible unfold State.endCheck; repeat' first | assumption | apply State.upd_keeps

theorem State.usedWay_keeps (x2 f : Nat) (set way : Nat) (h : Keeps s0 s) :
    Keeps s0 (State.usedWay s x2 f set way) := by
  with_reducible unfold State.usedWay; repeat' first | assumption | apply State.setStall_keeps

theorem State.usedLine_keeps (t : TraderId) (h : Keeps s0 s) :
    Keeps s0 (State.usedLine s t) := by
  with_reducible unfold State.usedLine; repeat' first
    | assumption | apply State.usedWay_keeps | (extract_lets +onlyGivenNames a; clear_value a) | split

theorem State.eccTrap_keeps (t : TraderId) (detail addr word : Nat) (h : Keeps s0 s) :
    Keeps s0 (State.eccTrap s t detail addr word) := by
  with_reducible unfold State.eccTrap; repeat' first
    | assumption | apply State.upd_keeps | apply State.uncorrectable_keeps
    | (extract_lets +onlyGivenNames a; first | (refine Keeps.cut (s := a) ?_ (fun _ => ?_); subst a; rotate_left; clear_value a) | clear_value a)
    | split | refine Keeps.upd rfl rfl rfl rfl rfl ?_

theorem State.ramRead_keeps (t : TraderId) (a : Arr) (o n : Nat) (ea w : Nat) (f : Nat → State → State)
    (h : Keeps s0 s) (hf : ∀ y0 y1, Keeps s0 y1 → Keeps s0 (f y0 y1)) :
    Keeps s0 (State.ramRead s t a o n ea w f) := by
  with_reducible unfold State.ramRead; repeat' first
    | assumption | apply State.corrected_keeps | apply State.eccTrap_keeps | apply hf | split

theorem State.took_keeps (t : TraderId) (w : Nat) (h : Keeps s0 s) :
    Keeps s0 (State.took s t w) := by
  with_reducible unfold State.took; repeat' first
    | assumption | apply State.upd_keeps | apply State.usedLine_keeps | apply State.wordClean_keeps
    | (extract_lets +onlyGivenNames a; first | (refine Keeps.cut (s := a) ?_ (fun _ => ?_); subst a; rotate_left; clear_value a) | clear_value a)
    | split

theorem State.startMiss_keeps (t : TraderId) (line : Nat) (h : Keeps s0 s) :
    Keeps s0 (State.startMiss s t line) := by
  with_reducible unfold State.startMiss; repeat' first
    | assumption | apply State.upd_keeps | apply State.ownSlot_keeps | apply State.setStall_keeps
    | apply State.set_keeps | apply State.put_keeps | apply State.unsched_keeps
    | (extract_lets +onlyGivenNames a; first | (refine Keeps.cut (s := a) ?_ (fun _ => ?_); subst a; rotate_left; clear_value a) | clear_value a)
    | split

theorem State.raiseTrap_keeps (t : TraderId) (src detail : Nat) (addr word resume : Nat) (h : Keeps s0 s) :
    Keeps s0 (State.raiseTrap s t src detail addr word resume) := by
  with_reducible unfold State.raiseTrap; repeat' first | assumption | apply State.upd_keeps

theorem State.entryBudget_keeps (t : TraderId) (lvl : Nat) (h : Keeps s0 s) :
    Keeps s0 (State.entryBudget s t lvl) := by
  with_reducible unfold State.entryBudget; repeat' first | assumption | apply State.upd_keeps

theorem State.moveLevel_keeps (t : TraderId) (lvl : Nat) (h : Keeps s0 s) :
    Keeps s0 (State.moveLevel s t lvl) := by
  with_reducible unfold State.moveLevel; repeat' first
    | assumption | apply State.upd_keeps | apply State.wr_keeps
    | (extract_lets +onlyGivenNames a; first | (refine Keeps.cut (s := a) ?_ (fun _ => ?_); subst a; rotate_left; clear_value a) | clear_value a)
    | split

theorem State.enterE1_keeps (t : TraderId) (lvl src : Nat) (detail addr word : Nat) (c : EntryCtx) (h : Keeps s0 s) :
    Keeps s0 (State.enterE1 s t lvl src detail addr word c) := by
  with_reducible unfold State.enterE1; repeat' first
    | assumption | apply State.moveLevel_keeps | apply State.upd_keeps | apply State.entryBudget_keeps
    | apply State.ownSlot_keeps | apply State.hwClr_keeps | apply State.wr_keeps | apply State.put_keeps
    | (extract_lets +onlyGivenNames a; first | (refine Keeps.cut (s := a) ?_ (fun _ => ?_); subst a; rotate_left; clear_value a) | clear_value a)
    | split

theorem State.enterE2_keeps (t : TraderId) (lvl : Nat) (h : Keeps s0 s) :
    Keeps s0 (State.enterE2 s t lvl) := by
  with_reducible unfold State.enterE2; repeat' first
    | assumption | apply State.moveLevel_keeps | apply State.upd_keeps | apply State.ownSlot_keeps

theorem State.exitX1_keeps (t : TraderId) (lvl : Nat) (h : Keeps s0 s) :
    Keeps s0 (State.exitX1 s t lvl) := by
  with_reducible unfold State.exitX1; repeat' first
    | assumption | apply State.moveLevel_keeps | apply State.upd_keeps | apply State.ownSlot_keeps
    | apply State.put_keeps

theorem State.syncPoint_keeps (t : TraderId) (lvl : Nat) (h : Keeps s0 s) :
    Keeps s0 (State.syncPoint s t lvl) := by
  with_reducible unfold State.syncPoint; repeat' first | assumption | apply State.upd_keeps

theorem State.exitX2_keeps (t : TraderId) (lvl : Nat) (h : Keeps s0 s) :
    Keeps s0 (State.exitX2 s t lvl) := by
  with_reducible unfold State.exitX2; repeat' first
    | assumption | apply State.syncPoint_keeps | apply State.moveLevel_keeps | apply State.upd_keeps
    | apply State.ownSlot_keeps

theorem State.passOn_keeps (t : TraderId) (h : Keeps s0 s) :
    Keeps s0 (State.passOn s t) := by
  with_reducible unfold State.passOn; repeat' first
    | assumption | apply State.exitX1_keeps | apply State.exitX2_keeps | apply State.enterE2_keeps | split

theorem State.stopPlain_keeps (t : TraderId) (h : Keeps s0 s) :
    Keeps s0 (State.stopPlain s t) := by
  with_reducible unfold State.stopPlain; repeat' first | assumption | apply State.upd_keeps

theorem State.doubleFault_keeps (t : TraderId) (src : Nat) (h : Keeps s0 s) :
    Keeps s0 (State.doubleFault s t src) := by
  with_reducible unfold State.doubleFault; repeat' first
    | assumption | apply State.upd_keeps | apply State.hallChit_keeps | apply State.set_keeps | apply State.put_keeps
    | apply State.stopPlain_keeps
    | (extract_lets +onlyGivenNames a; first | (refine Keeps.cut (s := a) ?_ (fun _ => ?_); subst a; rotate_left; clear_value a) | clear_value a)
    | refine Keeps.upd rfl rfl rfl rfl rfl ?_

theorem State.takeTrap_keeps (t : TraderId) (tp : Trap) (h : Keeps s0 s) :
    Keeps s0 (State.takeTrap s t tp) := by
  with_reducible unfold State.takeTrap; repeat' first
    | assumption | apply State.doubleFault_keeps | apply State.enterE1_keeps | split

theorem State.stopTrader_keeps (t : TraderId) (h : Keeps s0 s) :
    Keeps s0 (State.stopTrader s t) := by
  with_reducible unfold State.stopTrader; repeat' first
    | assumption | apply State.passOn_keeps | apply State.stopPlain_keeps | apply State.takeTrap_keeps
    | (extract_lets +onlyGivenNames a; clear_value a) | split

end Sys2Proof.Machine
end

