-- ==== Sys2Proof/Laws/KeepsPads.lean ====
section
/-! SUPPORT. `Keeps` of the functions of Machine/Pads.lean: what none of them changes. -/

namespace Sys2Proof.Machine

variable {s0 s : State}

theorem State.newGrid_keeps (x2 b : Nat) (t n : Nat) (h : Keeps s0 s) :
    Keeps s0 (State.newGrid s x2 b t n) := by
  with_reducible unfold State.newGrid; repeat' first | assumption | apply State.setBarrow_keeps

theorem State.startClock_keeps (x2 b n : Nat) (h : Keeps s0 s) :
    Keeps s0 (State.startClock s x2 b n) := by
  with_reducible unfold State.startClock; repeat' first | assumption | apply State.newGrid_keeps

theorem State.ownFrom_keeps (x2 b : Nat) (m v : Nat) (h : Keeps s0 s) :
    Keeps s0 (State.ownFrom s x2 b m v) := by
  with_reducible unfold State.ownFrom; repeat' first | assumption | apply State.wr_keeps | apply State.setBarrow_keeps

theorem State.freezePin_keeps (x2 i t : Nat) (h : Keeps s0 s) :
    Keeps s0 (State.freezePin s x2 i t) := by
  with_reducible unfold State.freezePin; repeat' first
    | assumption | apply State.setPin_keeps | (extract_lets +onlyGivenNames a; clear_value a) | split

theorem State.freeze_keeps (x2 t : Nat) (h : Keeps s0 s) :
    Keeps s0 (State.freeze s x2 t) := by
  with_reducible unfold State.freeze; repeat' first
    | assumption | intro _ | apply State.freezePin_keeps | apply forAll_keeps

theorem State.freezeAll_keeps (h : Keeps s0 s) :
    Keeps s0 (State.freezeAll s) := by
  with_reducible unfold State.freezeAll; repeat' first
    | assumption | intro _ | apply State.freezePin_keeps | apply forAll_keeps

theorem State.latchPads_keeps (h : Keeps s0 s) :
    Keeps s0 (State.latchPads s) := by
  with_reducible unfold State.latchPads; repeat' first
    | assumption | intro _ | apply State.freezePin_keeps | apply forAll_keeps | split

theorem State.switchOver_keeps (x2 i : Nat) (t e : Nat) (h : Keeps s0 s) :
    Keeps s0 (State.switchOver s x2 i t e) := by
  with_reducible unfold State.switchOver; repeat' first
    | assumption | apply State.freezePin_keeps | apply State.setPin_keeps

theorem State.hold_keeps (x2 i : Nat) (src : Field) (h : Keeps s0 s) :
    Keeps s0 (State.hold s x2 i src) := by
  with_reducible unfold State.hold; repeat' first
    | assumption | apply State.set_keeps | apply State.switchOver_keeps | apply State.setPin_keeps
    | (extract_lets +onlyGivenNames a; first | (refine Keeps.cut (s := a) ?_ (fun _ => ?_); subst a; rotate_left; clear_value a) | clear_value a)
    | split

theorem State.release_keeps (x2 i : Nat) (src : Field) (h : Keeps s0 s) :
    Keeps s0 (State.release s x2 i src) := by
  with_reducible unfold State.release; repeat' first
    | assumption | apply State.set_keeps | apply State.freezePin_keeps | apply State.setPin_keeps
    | (extract_lets +onlyGivenNames a; first | (refine Keeps.cut (s := a) ?_ (fun _ => ?_); subst a; rotate_left; clear_value a) | clear_value a)
    | split

theorem State.ssiFalls_keeps {old : State} (x3 t : Nat) (h : Keeps s0 s) :
    Keeps s0 (State.ssiFalls s old x3 t) := by
  unfold State.ssiFalls
  refine forAll_keeps _ _ h (fun k t' ht => ?_)
  dsimp only
  split
  · split
    · exact State.setAxis_keeps _ _ ht
    · exact ht
  · exact ht


theorem State.padTurns_keeps {old : State} (x3 t : Nat) (h : Keeps s0 s) :
    Keeps s0 (State.padTurns s old x3 t) := by
  unfold State.padTurns
  refine forAll_keeps _ _ h (fun k t' ht => ?_)
  split
  · exact ht
  · exact State.setPin_keeps _ _ _ ht

theorem State.drives_keeps (x2 t : Nat) (f : State → State)
    (h : Keeps s0 s) (hf : ∀ y0, Keeps s0 y0 → Keeps s0 (f y0)) :
    Keeps s0 (State.drives s x2 t f) := by
  with_reducible unfold State.drives; repeat' first
    | assumption | apply State.freeze_keeps | apply State.ssiFalls_keeps | apply State.padTurns_keeps | apply hf

theorem State.ssiEdges_keeps (x2 b : Nat) (n at_ : Nat) (h : Keeps s0 s) :
    Keeps s0 (State.ssiEdges s x2 b n at_) := by
  with_reducible unfold State.ssiEdges; repeat' first
    | assumption | intro _ | apply State.setAxis_keeps | apply forAll_keeps
    | (extract_lets +onlyGivenNames a; clear_value a) | split

theorem State.brOwnWrite_keeps (x2 b v : Nat) (h : Keeps s0 s) :
    Keeps s0 (State.brOwnWrite s x2 b v) := by
  with_reducible unfold State.brOwnWrite; repeat' first
    | assumption | apply State.ssiEdges_keeps | apply State.ownFrom_keeps

end Sys2Proof.Machine
end

