-- ==== Sys2Proof/Laws/KeepsAxes.lean ====
section
/-! SUPPORT. `Keeps` of the functions of Machine/Axes.lean: what none of them changes. -/

namespace Sys2Proof.Machine

variable {s0 s : State}

theorem State.project_keeps (x2 m : Nat) (p v : Int) (t tr : Nat) (h : Keeps s0 s) :
    Keeps s0 (State.project s x2 m p v t tr) := by
  with_reducible unfold State.project; repeat' first
    | assumption | apply State.setMark_keeps | apply State.set_keeps
    | (extract_lets +onlyGivenNames a; first | (refine Keeps.cut (s := a) ?_ (fun _ => ?_); subst a; rotate_left; clear_value a) | clear_value a)
    | split

theorem State.projectAt_keeps (x2 m tr : Nat) (h : Keeps s0 s) :
    Keeps s0 (State.projectAt s x2 m tr) := by
  with_reducible unfold State.projectAt; repeat' first | assumption | apply State.project_keeps

theorem State.arm_keeps (x2 m v : Nat) (target step : Int) (action tr : Nat) (h : Keeps s0 s) :
    Keeps s0 (State.arm s x2 m v target step action tr) := by
  with_reducible unfold State.arm; repeat' first
    | assumption | apply State.setMark_keeps | apply State.wr_keeps | apply State.set_keeps
    | apply State.projectAt_keeps

theorem State.disarm_keeps (x2 m : Nat) (h : Keeps s0 s) :
    Keeps s0 (State.disarm s x2 m) := by
  with_reducible unfold State.disarm; repeat' first
    | assumption | apply State.setMark_keeps | apply State.set_keeps | (extract_lets +onlyGivenNames a; clear_value a)
    | split

theorem State.tmCtrlWrite_keeps (x2 m v : Nat) (h : Keeps s0 s) :
    Keeps s0 (State.tmCtrlWrite s x2 m v) := by
  with_reducible unfold State.tmCtrlWrite; repeat' first
    | assumption | apply State.setMark_keeps | apply State.disarm_keeps | apply State.wr_keeps | apply State.set_keeps
    | apply State.arm_keeps
    | (extract_lets +onlyGivenNames a; first | (refine Keeps.cut (s := a) ?_ (fun _ => ?_); subst a; rotate_left; clear_value a) | clear_value a)
    | split

theorem State.marksWait_keeps (n : Nat) (h : Keeps s0 s) :
    Keeps s0 (State.marksWait s n) := by
  with_reducible unfold State.marksWait; repeat' first
    | assumption | intro _ | apply State.setMark_keeps | apply forAll_keeps
    | (extract_lets +onlyGivenNames a; clear_value a) | split

theorem State.goLost_keeps (n at_ : Nat) (now : Bool) (h : Keeps s0 s) :
    Keeps s0 (State.goLost s n at_ now) := by
  with_reducible unfold State.goLost; repeat' first
    | assumption | apply State.chit_keeps | apply State.marksWait_keeps | apply State.set_keeps
    | apply State.setAxis_keeps
    | (extract_lets +onlyGivenNames a; first | (refine Keeps.cut (s := a) ?_ (fun _ => ?_); subst a; rotate_left; clear_value a) | clear_value a)
    | split | refine Keeps.upd rfl rfl rfl rfl rfl ?_

theorem State.axisLoss_keeps (n at_ : Nat) (now : Bool) (h : Keeps s0 s) :
    Keeps s0 (State.axisLoss s n at_ now) := by
  with_reducible unfold State.axisLoss; repeat' first
    | assumption | apply State.goLost_keeps | apply State.set_keeps | apply State.setAxis_keeps
    | (extract_lets +onlyGivenNames a; first | (refine Keeps.cut (s := a) ?_ (fun _ => ?_); subst a; rotate_left; clear_value a) | clear_value a)
    | split

theorem State.quadEdge_keeps (n : Nat) (la lb : Bool) (tm : Nat) (h : Keeps s0 s) :
    Keeps s0 (State.quadEdge s n la lb tm) := by
  with_reducible unfold State.quadEdge; repeat' first
    | assumption | apply State.axisLoss_keeps | apply State.set_keeps | apply State.setAxis_keeps
    | (extract_lets +onlyGivenNames a; first | (refine Keeps.cut (s := a) ?_ (fun _ => ?_); subst a; rotate_left; clear_value a) | clear_value a)
    | split

theorem State.ssiWord_keeps (n word at_ : Nat) (h : Keeps s0 s) :
    Keeps s0 (State.ssiWord s n word at_) := by
  with_reducible unfold State.ssiWord; repeat' first | assumption | apply State.setAxis_keeps

theorem State.axisCounts_keeps (n : Nat) (p : Int) (at_ : Nat) (h : Keeps s0 s) :
    Keeps s0 (State.axisCounts s n p at_) := by
  with_reducible unfold State.axisCounts; repeat' first
    | assumption | intro _ | apply State.setCounter_keeps | apply forAll_keeps
    | (extract_lets +onlyGivenNames a; clear_value a) | split

theorem State.markUpdates_keeps (n : Nat) (p v : Int) (tu : Nat) (h : Keeps s0 s) :
    Keeps s0 (State.markUpdates s n p v tu) := by
  with_reducible unfold State.markUpdates; repeat' first
    | assumption | intro _ | apply State.project_keeps | apply forAll_keeps
    | (extract_lets +onlyGivenNames a; clear_value a) | split

theorem State.observe_keeps (n : Nat) (u : Upd) (resid : Int) (h : Keeps s0 s) :
    Keeps s0 (State.observe s n u resid) := by
  with_reducible unfold State.observe; repeat' first
    | assumption | intro _ | apply forAll_keeps | (extract_lets +onlyGivenNames a; clear_value a) | split
    | refine Keeps.upd rfl rfl rfl rfl rfl ?_

theorem State.windDone_keeps (n : Nat) (h : Keeps s0 s) :
    Keeps s0 (State.windDone s n) := by
  with_reducible unfold State.windDone; repeat' first
    | assumption | intro _ | apply State.jobTo_keeps | apply State.set_keeps | apply forAll_keeps
    | (extract_lets +onlyGivenNames a; first | (refine Keeps.cut (s := a) ?_ (fun _ => ?_); subst a; rotate_left; clear_value a) | clear_value a)
    | split | refine Keeps.upd rfl rfl rfl rfl rfl ?_

theorem State.missing_keeps (n tu src : Nat) (used : Bool) (h : Keeps s0 s) :
    Keeps s0 (State.missing s n tu src used) := by
  with_reducible unfold State.missing; repeat' first
    | assumption | apply State.axisLoss_keeps | apply State.setAxis_keeps | apply State.setAt_keeps
    | (extract_lets +onlyGivenNames a; first | (refine Keeps.cut (s := a) ?_ (fun _ => ?_); subst a; rotate_left; clear_value a) | clear_value a)
    | split

theorem State.axisBefore_keeps (n tu : Nat) (h : Keeps s0 s) :
    Keeps s0 (State.axisBefore s n tu) := by
  with_reducible unfold State.axisBefore; repeat' first
    | assumption | apply State.wr_keeps
    | (extract_lets +onlyGivenNames a; first | (refine Keeps.cut (s := a) ?_ (fun _ => ?_); subst a; rotate_left; clear_value a) | clear_value a)
    | split | refine Keeps.upd rfl rfl rfl rfl rfl ?_

theorem State.axisMissed_keeps (n tu src : Nat) (lost coasting used : Bool) (coast : Nat) (h : Keeps s0 s) :
    Keeps s0 (State.axisMissed s n tu src lost coasting used coast) := by
  with_reducible unfold State.axisMissed; repeat' first
    | assumption | apply State.goLost_keeps | apply State.missing_keeps | apply State.setAxis_keeps
    | (extract_lets +onlyGivenNames a; clear_value a) | split

theorem State.axisAfter_keeps (n tu : Nat) (u : Upd) (h : Keeps s0 s) :
    Keeps s0 (State.axisAfter s n tu u) := by
  with_reducible unfold State.axisAfter; repeat' first
    | assumption | apply State.observe_keeps | apply State.set_keeps | apply State.windDone_keeps
    | apply State.markUpdates_keeps | apply State.axisCounts_keeps

theorem State.updateAxis_keeps (n : Nat) (h : Keeps s0 s) :
    Keeps s0 (State.updateAxis s n) := by
  with_reducible unfold State.updateAxis; repeat' first
    | assumption | apply State.axisBefore_keeps | apply State.set_keeps | apply State.axisMissed_keeps
    | apply State.setAxis_keeps | apply State.axisAfter_keeps | apply State.setAt_keeps
    | (extract_lets +onlyGivenNames a; first | (refine Keeps.cut (s := a) ?_ (fun _ => ?_); subst a; rotate_left; clear_value a) | clear_value a)
    | split

theorem State.taxCtrlWrite_keeps (n v : Nat) (h : Keeps s0 s) :
    Keeps s0 (State.taxCtrlWrite s n v) := by
  with_reducible unfold State.taxCtrlWrite; repeat' first
    | assumption | apply State.marksWait_keeps | apply State.wr_keeps | apply State.set_keeps
    | apply State.setAxis_keeps
    | (extract_lets +onlyGivenNames a; first | (refine Keeps.cut (s := a) ?_ (fun _ => ?_); subst a; rotate_left; clear_value a) | clear_value a)
    | split

theorem State.taxCmd_keeps (n : Nat) (preset clear : Bool) (h : Keeps s0 s) :
    Keeps s0 (State.taxCmd s n preset clear) := by
  with_reducible unfold State.taxCmd; repeat' first | assumption | apply State.setAxis_keeps

theorem State.markAct_keeps (x2 m at_ : Nat) (h : Keeps s0 s) :
    Keeps s0 (State.markAct s x2 m at_) := by
  with_reducible unfold State.markAct; repeat' first
    | assumption | intro _ | apply State.setMark_keeps | apply State.wr_keeps | apply State.set_keeps
    | apply State.arm_keeps | apply State.put_keeps | apply State.projectAt_keeps | apply State.deliver_keeps
    | apply State.atEdge_keeps | apply State.drives_keeps | apply State.setAt_keeps | apply forAll_keeps
    | (extract_lets +onlyGivenNames a; first | (refine Keeps.cut (s := a) ?_ (fun _ => ?_); subst a; rotate_left; clear_value a) | clear_value a)
    | split

end Sys2Proof.Machine
end

