-- ==== Sys2Proof/Laws/KeepsCounters.lean ====
section
/-! SUPPORT. `Keeps` of the functions of Machine/Counters.lean: what none of them changes. -/

namespace Sys2Proof.Machine

variable {s0 s : State}

theorem State.ctTake_keeps (x2 c : Nat) (n v : Nat) (h : Keeps s0 s) :
    Keeps s0 (State.ctTake s x2 c n v) := by
  with_reducible unfold State.ctTake; repeat' first | assumption | apply State.setCounter_keeps | apply State.put_keeps

theorem State.ctOut_keeps (x2 c : Nat) (act at_ : Nat) (h : Keeps s0 s) :
    Keeps s0 (State.ctOut s x2 c act at_) := by
  with_reducible unfold State.ctOut; repeat' first
    | assumption | intro _ | apply State.set_keeps | apply State.drives_keeps | split

theorem State.defer_keeps (d : Nat × Bool × Nat) (h : Keeps s0 s) :
    Keeps s0 (State.defer s d) := by
  with_reducible unfold State.defer; repeat' first | assumption | split | refine Keeps.upd rfl rfl rfl rfl rfl ?_

theorem State.ctEvent_keeps (x2 num at_ : Nat) (h : Keeps s0 s) :
    Keeps s0 (State.ctEvent s x2 num at_) := by
  with_reducible unfold State.ctEvent; repeat' first
    | assumption | apply State.hallEvent_keeps | apply State.defer_keeps | split

theorem State.ctBell_keeps (x2 n at_ : Nat) (h : Keeps s0 s) :
    Keeps s0 (State.ctBell s x2 n at_) := by
  with_reducible unfold State.ctBell; repeat' first
    | assumption | apply State.defer_keeps | apply State.ringHall_keeps | split

theorem State.ctMatch_keeps (x2 c : Nat) (h : Keeps s0 s) :
    Keeps s0 (State.ctMatch s x2 c) := by
  with_reducible unfold State.ctMatch; repeat' first
    | assumption | apply State.ctOut_keeps | apply State.ctTake_keeps | apply State.setCounter_keeps
    | apply State.ctEvent_keeps | apply State.ctBell_keeps | apply State.setAt_keeps
    | (extract_lets +onlyGivenNames a; first | (refine Keeps.cut (s := a) ?_ (fun _ => ?_); subst a; rotate_left; clear_value a) | clear_value a)
    | split

theorem State.ctWrap_keeps (x2 c : Nat) (h : Keeps s0 s) :
    Keeps s0 (State.ctWrap s x2 c) := by
  with_reducible unfold State.ctWrap; repeat' first
    | assumption | apply State.ctOut_keeps | apply State.ctTake_keeps | apply State.setCounter_keeps
    | apply State.ctEvent_keeps | apply State.setAt_keeps
    | (extract_lets +onlyGivenNames a; first | (refine Keeps.cut (s := a) ?_ (fun _ => ?_); subst a; rotate_left; clear_value a) | clear_value a)
    | split

theorem State.ctRun_keeps {s0 : State} (h c upto fuel : Nat) {s : State} (k : Keeps s0 s) :
    Keeps s0 (State.ctRun h c upto fuel s) := by
  induction fuel generalizing s with
  | zero => exact k
  | succ fuel ih =>
    unfold State.ctRun
    with_reducible repeat' first
      | assumption | apply ih | apply State.ctMatch_keeps | apply State.ctWrap_keeps | apply State.ctTake_keeps
      | (extract_lets +onlyGivenNames a; clear_value a) | split

theorem State.ctTo_keeps (x2 c upto : Nat) (h : Keeps s0 s) :
    Keeps s0 (State.ctTo s x2 c upto) := by
  with_reducible unfold State.ctTo; repeat' first | assumption | apply State.ctRun_keeps

theorem State.ctBelow_keeps (x2 c upto : Nat) (h : Keeps s0 s) :
    Keeps s0 (State.ctBelow s x2 c upto) := by
  with_reducible unfold State.ctBelow; repeat' first
    | assumption | apply State.ctTo_keeps
    | (extract_lets +onlyGivenNames a; first | (refine Keeps.cut (s := a) ?_ (fun _ => ?_); subst a; rotate_left; clear_value a) | clear_value a)
    | split

theorem State.ctCatch_keeps (x2 c upto : Nat) (h : Keeps s0 s) :
    Keeps s0 (State.ctCatch s x2 c upto) := by
  with_reducible unfold State.ctCatch; repeat' first | assumption | apply State.ctBelow_keeps | apply State.ctTo_keeps

theorem State.ctRecord_keeps (x2 c : Nat) (h : Keeps s0 s) :
    Keeps s0 (State.ctRecord s x2 c) := by
  with_reducible unfold State.ctRecord; repeat' first | assumption | apply State.setCounter_keeps

theorem State.ctCtrlWrite_keeps (x2 c v : Nat) (h : Keeps s0 s) :
    Keeps s0 (State.ctCtrlWrite s x2 c v) := by
  with_reducible unfold State.ctCtrlWrite; repeat' first
    | assumption | intro _ | apply State.setCounter_keeps | apply State.ctCatch_keeps | apply State.wr_keeps
    | apply State.set_keeps | apply State.ctRecord_keeps | apply State.drives_keeps
    | (extract_lets +onlyGivenNames a; first | (refine Keeps.cut (s := a) ?_ (fun _ => ?_); subst a; rotate_left; clear_value a) | clear_value a)
    | split

theorem State.ctPeriodWrite_keeps (x2 c v : Nat) (h : Keeps s0 s) :
    Keeps s0 (State.ctPeriodWrite s x2 c v) := by
  with_reducible unfold State.ctPeriodWrite; repeat' first
    | assumption | apply State.ctCatch_keeps | apply State.set_keeps | apply State.put_keeps
    | (extract_lets +onlyGivenNames a; first | (refine Keeps.cut (s := a) ?_ (fun _ => ?_); subst a; rotate_left; clear_value a) | clear_value a)
    | split

theorem State.ctCountWrite_keeps (x2 c v : Nat) (h : Keeps s0 s) :
    Keeps s0 (State.ctCountWrite s x2 c v) := by
  with_reducible unfold State.ctCountWrite; repeat' first
    | assumption | apply State.ctBelow_keeps | apply State.setCounter_keeps | apply State.put_keeps
    | apply State.ctTo_keeps

theorem State.ctCompareWrite_keeps (x2 c v : Nat) (h : Keeps s0 s) :
    Keeps s0 (State.ctCompareWrite s x2 c v) := by
  with_reducible unfold State.ctCompareWrite; repeat' first
    | assumption | apply State.ctCatch_keeps | apply State.put_keeps

theorem State.ctInputWrite_keeps (x2 c v : Nat) (h : Keeps s0 s) :
    Keeps s0 (State.ctInputWrite s x2 c v) := by
  with_reducible unfold State.ctInputWrite; repeat' first
    | assumption | apply State.setCounter_keeps | apply State.ctCatch_keeps | apply State.wr_keeps

theorem State.chainLatch_keeps (x2 c : Nat) (h : Keeps s0 s) :
    Keeps s0 (State.chainLatch s x2 c) := by
  with_reducible unfold State.chainLatch; repeat' first
    | assumption | intro _ | apply State.ctCatch_keeps | apply State.put_keeps | apply State.ctTo_keeps
    | apply forAll_keeps
    | (extract_lets +onlyGivenNames a; first | (refine Keeps.cut (s := a) ?_ (fun _ => ?_); subst a; rotate_left; clear_value a) | clear_value a)
    | split

theorem State.settleLevel_keeps (x2 c : Nat) (level : Bool) (h : Keeps s0 s) :
    Keeps s0 (State.settleLevel s x2 c level) := by
  with_reducible unfold State.settleLevel; repeat' first | assumption | apply State.setCounter_keeps

theorem State.ctEdge_keeps (x2 c : Nat) (level : Bool) (tm : Nat) (h : Keeps s0 s) :
    Keeps s0 (State.ctEdge s x2 c level tm) := by
  with_reducible unfold State.ctEdge; repeat' first
    | assumption | apply State.setCounter_keeps | apply State.ctEvent_keeps | apply State.ctCatch_keeps
    | apply State.wr_keeps | apply State.set_keeps | apply State.settleLevel_keeps | apply State.put_keeps
    | (extract_lets +onlyGivenNames a; first | (refine Keeps.cut (s := a) ?_ (fun _ => ?_); subst a; rotate_left; clear_value a) | clear_value a)
    | split

theorem execCounterPinEdge_keeps {s0 : State} (x1 c : Nat) (level : Bool) (tm : Nat) {s : State} (h : Keeps s0 s) :
    KeepsOut s0 (execCounterPinEdge x1 c level tm s) := by
  with_reducible unfold execCounterPinEdge; repeat' first
    | assumption | apply KeepsOut.next | apply State.ctEdge_keeps | split

theorem execCounterMatch_keeps {s0 : State} (x1 c : Nat) {s : State} (h : Keeps s0 s) :
    KeepsOut s0 (execCounterMatch x1 c s) := by
  with_reducible unfold execCounterMatch; repeat' first
    | assumption | apply KeepsOut.next | apply State.ctMatch_keeps | split

theorem execCounterWrap_keeps {s0 : State} (x1 c : Nat) {s : State} (h : Keeps s0 s) :
    KeepsOut s0 (execCounterWrap x1 c s) := by
  with_reducible unfold execCounterWrap; repeat' first
    | assumption | apply KeepsOut.next | apply State.ctWrap_keeps | split

theorem execCtCtrlWrite_keeps {s0 : State} (by_ : Accessor) (x2 c : Nat) (v : Word) {s : State} (h : Keeps s0 s) :
    KeepsOut s0 (execCtCtrlWrite by_ x2 c v s) := by
  with_reducible unfold execCtCtrlWrite; repeat' first
    | assumption | apply KeepsOut.next | intro _ | apply State.byPort_keeps | apply State.ctCtrlWrite_keeps | split

theorem execCtPeriodWrite_keeps {s0 : State} (by_ : Accessor) (x2 c : Nat) (v : Word) {s : State} (h : Keeps s0 s) :
    KeepsOut s0 (execCtPeriodWrite by_ x2 c v s) := by
  with_reducible unfold execCtPeriodWrite; repeat' first
    | assumption | apply KeepsOut.next | intro _ | apply State.ctPeriodWrite_keeps | apply State.byPort_keeps | split

theorem execCtCountWrite_keeps {s0 : State} (by_ : Accessor) (x2 c : Nat) (v : Word) {s : State} (h : Keeps s0 s) :
    KeepsOut s0 (execCtCountWrite by_ x2 c v s) := by
  with_reducible unfold execCtCountWrite; repeat' first
    | assumption | apply KeepsOut.next | intro _ | apply State.byPort_keeps | apply State.ctCountWrite_keeps | split

theorem execCtInputWrite_keeps {s0 : State} (by_ : Accessor) (x2 c : Nat) (v : Word) {s : State} (h : Keeps s0 s) :
    KeepsOut s0 (execCtInputWrite by_ x2 c v s) := by
  with_reducible unfold execCtInputWrite; repeat' first
    | assumption | apply KeepsOut.next | intro _ | apply State.ctInputWrite_keeps | apply State.byPort_keeps | split

theorem execChainRead_keeps {s0 : State} (by_ : Accessor) (x2 c : Nat) {s : State} (h : Keeps s0 s) :
    KeepsOut s0 (execChainRead by_ x2 c s) := by
  with_reducible unfold execChainRead; repeat' first
    | assumption | apply KeepsOut.next | intro _ | apply State.byPort_keeps | apply State.chainLatch_keeps | split

theorem execLfoTrimMeasure_keeps {s0 : State} (ticks256 : Nat) {s : State} (h : Keeps s0 s) :
    KeepsOut s0 (execLfoTrimMeasure ticks256 s) := by
  with_reducible unfold execLfoTrimMeasure; repeat' first
    | assumption | apply KeepsOut.next | apply State.wr_keeps
    | (extract_lets +onlyGivenNames a; first | (refine Keeps.cut (s := a) ?_ (fun _ => ?_); subst a; rotate_left; clear_value a) | clear_value a)
    | split | refine Keeps.upd rfl rfl rfl rfl rfl ?_

theorem execTaxCtrlWrite_keeps {s0 : State} (by_ : Accessor) (n : Nat) (v : Word) {s : State} (h : Keeps s0 s) :
    KeepsOut s0 (execTaxCtrlWrite by_ n v s) := by
  with_reducible unfold execTaxCtrlWrite; repeat' first
    | assumption | apply KeepsOut.next | intro _ | apply State.byPort_keeps | apply State.taxCtrlWrite_keeps

theorem execPreset_keeps {s0 : State} (by_ : Accessor) (n : Nat) {s : State} (h : Keeps s0 s) :
    KeepsOut s0 (execPreset by_ n s) := by
  with_reducible unfold execPreset; repeat' first
    | assumption | apply KeepsOut.next | intro _ | apply State.byPort_keeps | apply State.taxCmd_keeps

theorem execClearLost_keeps {s0 : State} (by_ : Accessor) (n : Nat) {s : State} (h : Keeps s0 s) :
    KeepsOut s0 (execClearLost by_ n s) := by
  with_reducible unfold execClearLost; repeat' first
    | assumption | apply KeepsOut.next | intro _ | apply State.byPort_keeps | apply State.taxCmd_keeps

theorem execArm_keeps {s0 : State} (by_ : Accessor) (x2 m : Nat) (v : Word) {s : State} (h : Keeps s0 s) :
    KeepsOut s0 (execArm by_ x2 m v s) := by
  with_reducible unfold execArm; repeat' first
    | assumption | apply KeepsOut.next | intro _ | apply State.tmCtrlWrite_keeps | apply State.byPort_keeps | split

theorem execDisarm_keeps {s0 : State} (by_ : Accessor) (x2 m : Nat) (v : Word) {s : State} (h : Keeps s0 s) :
    KeepsOut s0 (execDisarm by_ x2 m v s) := by
  with_reducible unfold execDisarm; repeat' first
    | assumption | apply KeepsOut.next | intro _ | apply State.tmCtrlWrite_keeps | apply State.byPort_keeps | split

theorem execPulseEnd_keeps {s0 : State} (x1 m : Nat) {s : State} (h : Keeps s0 s) :
    KeepsOut s0 (execPulseEnd x1 m s) := by
  with_reducible unfold execPulseEnd; repeat' first
    | assumption | apply KeepsOut.next | intro _ | apply State.setMark_keeps | apply State.drives_keeps
    | (extract_lets +onlyGivenNames a; clear_value a) | split

end Sys2Proof.Machine
end

