-- ==== Sys2Proof/Laws/KeepsPins.lean ====
section
/-! SUPPORT. `Keeps` of the functions of Machine/Pins.lean: what none of them changes. -/

namespace Sys2Proof.Machine

variable {s0 s : State}

theorem State.putPinCfg_keeps (x2 i : Nat) (v t e : Nat) (h : Keeps s0 s) :
    Keeps s0 (State.putPinCfg s x2 i v t e) := by
  with_reducible unfold State.putPinCfg; repeat' first
    | assumption | apply State.wr_keeps | apply State.switchOver_keeps | apply State.freezePin_keeps
    | apply State.setPin_keeps
    | (extract_lets +onlyGivenNames a; first | (refine Keeps.cut (s := a) ?_ (fun _ => ?_); subst a; rotate_left; clear_value a) | clear_value a)
    | split

theorem State.pinCfgWrite_keeps (x2 i v : Nat) (h : Keeps s0 s) :
    Keeps s0 (State.pinCfgWrite s x2 i v) := by
  with_reducible unfold State.pinCfgWrite; repeat' first
    | assumption | apply State.putPinCfg_keeps | apply State.set_keeps
    | (extract_lets +onlyGivenNames a; clear_value a) | split

theorem State.pinCfgShWrite_keeps (x2 i v : Nat) (h : Keeps s0 s) :
    Keeps s0 (State.pinCfgShWrite s x2 i v) := by
  with_reducible unfold State.pinCfgShWrite; repeat' first
    | assumption | apply State.wr_keeps | apply State.set_keeps | split

theorem State.settleInput_keeps (x2 i : Nat) (level : Bool) (h : Keeps s0 s) :
    Keeps s0 (State.settleInput s x2 i level) := by
  with_reducible unfold State.settleInput; repeat' first
    | assumption | apply State.settleLevel_keeps | (extract_lets +onlyGivenNames a; clear_value a) | split

theorem State.samplePin_keeps (x2 i : Nat) (level : Bool) (h : Keeps s0 s) :
    Keeps s0 (State.samplePin s x2 i level).1 := by
  with_reducible unfold State.samplePin; repeat' first
    | assumption | apply State.settleInput_keeps | apply State.set_keeps | apply State.setPin_keeps
    | (extract_lets +onlyGivenNames a; first | (refine Keeps.cut (s := a) ?_ (fun _ => ?_); subst a; rotate_left; clear_value a) | clear_value a)
    | dsimp only | split

theorem State.pinEvtWrite_keeps (x2 i v : Nat) (h : Keeps s0 s) :
    Keeps s0 (State.pinEvtWrite s x2 i v) := by
  with_reducible unfold State.pinEvtWrite; repeat' first | assumption | apply State.wr_keeps | apply State.setPin_keeps

theorem State.undefer_keeps (x2 : Nat) (h : Keeps s0 s) :
    Keeps s0 (State.undefer s x2) := by
  with_reducible unfold State.undefer; repeat' first
    | assumption | intro _ | apply State.hallEvent_keeps | apply State.ringHall_keeps | apply forAll_keeps | split
    | refine Keeps.upd rfl rfl rfl rfl rfl ?_

theorem State.unhold_keeps (x2 i : Nat) (src : Field) (h : Keeps s0 s) :
    Keeps s0 (State.unhold s x2 i src) := by
  with_reducible unfold State.unhold; repeat' first
    | assumption | apply State.undefer_keeps | apply State.release_keeps
    | (extract_lets +onlyGivenNames a; first | (refine Keeps.cut (s := a) ?_ (fun _ => ?_); subst a; rotate_left; clear_value a) | clear_value a)
    | split

theorem State.setStallOf_keeps (x2 b v : Nat) (h : Keeps s0 s) :
    Keeps s0 (State.setStallOf s x2 b v) := by
  with_reducible unfold State.setStallOf; repeat' first | assumption | apply State.wr_keeps | split

theorem State.mapEntry_keeps (x2 b v : Nat) (h : Keeps s0 s) :
    Keeps s0 (State.mapEntry s x2 b v) := by
  with_reducible unfold State.mapEntry; repeat' first
    | assumption | apply State.set_keeps | apply State.setStallOf_keeps
    | (extract_lets +onlyGivenNames a; clear_value a) | split

theorem State.pswMapWrite_keeps (x2 k v : Nat) (h : Keeps s0 s) :
    Keeps s0 (State.pswMapWrite s x2 k v) := by
  with_reducible unfold State.pswMapWrite; repeat' first
    | assumption | intro _ | apply State.mapEntry_keeps | apply forAll_keeps

theorem State.calRef_keeps (x2 i : Nat) (level : Bool) (te : Nat) (h : Keeps s0 s) :
    Keeps s0 (State.calRef s x2 i level te) := by
  with_reducible unfold State.calRef; repeat' first
    | assumption | intro _ | apply State.setAxis_keeps | apply forAll_keeps
    | (extract_lets +onlyGivenNames a; first | (refine Keeps.cut (s := a) ?_ (fun _ => ?_); subst a; rotate_left; clear_value a) | clear_value a)
    | split | refine Keeps.upd rfl rfl rfl rfl rfl ?_

theorem State.eachPin_keeps (k v : Nat) (f : Nat → State → State)
    (h : Keeps s0 s) (hf : ∀ y0 y1, Keeps s0 y1 → Keeps s0 (f y0 y1)) :
    Keeps s0 (State.eachPin s k v f) := by
  with_reducible unfold State.eachPin; repeat' first | assumption | intro _ | apply hf | apply forAll_keeps

theorem State.latchWrite_keeps (x2 i : Nat) (word v : Bool) (h : Keeps s0 s) :
    Keeps s0 (State.latchWrite s x2 i word v) := by
  with_reducible unfold State.latchWrite; repeat' first
    | assumption | intro _ | apply State.set_keeps | apply State.setPin_keeps | apply State.drives_keeps

theorem execPinCfgWrite_keeps {s0 : State} (port x2 i : Nat) (v : Word) {s : State} (h : Keeps s0 s) :
    KeepsOut s0 (execPinCfgWrite port x2 i v s) := by
  with_reducible unfold execPinCfgWrite; repeat' first
    | assumption | apply KeepsOut.next | intro _ | apply State.byPort_keeps | apply State.pinCfgWrite_keeps | split

theorem execPinCfgShWrite_keeps {s0 : State} (port x2 i : Nat) (v : Word) {s : State} (h : Keeps s0 s) :
    KeepsOut s0 (execPinCfgShWrite port x2 i v s) := by
  with_reducible unfold execPinCfgShWrite; repeat' first
    | assumption | apply KeepsOut.next | intro _ | apply State.pinCfgShWrite_keeps | apply State.byPort_keeps | split

theorem execPinSwitchOver_keeps {s0 : State} (x1 i : Nat) {s : State} (h : Keeps s0 s) :
    KeepsOut s0 (execPinSwitchOver x1 i s) := by
  with_reducible unfold execPinSwitchOver; repeat' first
    | assumption | apply KeepsOut.next | intro _ | apply State.setPin_keeps | apply State.drives_keeps
    | (extract_lets +onlyGivenNames a; clear_value a) | split

theorem execPinOutSet_keeps {s0 : State} (port x2 k : Nat) (v : Word) {s : State} (h : Keeps s0 s) :
    KeepsOut s0 (execPinOutSet port x2 k v s) := by
  with_reducible unfold execPinOutSet; repeat' first
    | assumption | apply KeepsOut.next | intro _ | apply State.latchWrite_keeps | apply State.eachPin_keeps
    | apply State.byPort_keeps | split

theorem execPinOutClr_keeps {s0 : State} (port x2 k : Nat) (v : Word) {s : State} (h : Keeps s0 s) :
    KeepsOut s0 (execPinOutClr port x2 k v s) := by
  with_reducible unfold execPinOutClr; repeat' first
    | assumption | apply KeepsOut.next | intro _ | apply State.latchWrite_keeps | apply State.eachPin_keeps
    | apply State.byPort_keeps | split

theorem execPinHoldSet_keeps {s0 : State} (port x2 k : Nat) (v : Word) {s : State} (h : Keeps s0 s) :
    KeepsOut s0 (execPinHoldSet port x2 k v s) := by
  with_reducible unfold execPinHoldSet; repeat' first
    | assumption | apply KeepsOut.next | intro _ | apply State.eachPin_keeps | apply State.byPort_keeps
    | apply State.hold_keeps | split

theorem execPinHoldClr_keeps {s0 : State} (port x2 k : Nat) (v : Word) {s : State} (h : Keeps s0 s) :
    KeepsOut s0 (execPinHoldClr port x2 k v s) := by
  with_reducible unfold execPinHoldClr; repeat' first
    | assumption | apply KeepsOut.next | intro _ | apply State.eachPin_keeps | apply State.unhold_keeps
    | apply State.byPort_keeps | split

theorem execPinEvent_keeps {s0 : State} (x1 i : Nat) (level : Bool) {s : State} (h : Keeps s0 s) :
    KeepsOut s0 (execPinEvent x1 i level s) := by
  with_reducible unfold execPinEvent; repeat' first
    | assumption | apply KeepsOut.next | apply State.calRef_keeps | apply State.samplePin_keeps
    | apply State.atEdge_keeps | apply State.setAt_keeps | split

theorem execPadLevelSample_keeps {s0 : State} (x1 i : Nat) (level : Bool) {s : State} (h : Keeps s0 s) :
    KeepsOut s0 (execPadLevelSample x1 i level s) := by
  with_reducible unfold execPadLevelSample; repeat' first
    | assumption | apply KeepsOut.next | apply State.samplePin_keeps | split

theorem execPinEvtWrite_keeps {s0 : State} (port x2 i : Nat) (v : Word) {s : State} (h : Keeps s0 s) :
    KeepsOut s0 (execPinEvtWrite port x2 i v s) := by
  with_reducible unfold execPinEvtWrite; repeat' first
    | assumption | apply KeepsOut.next | intro _ | apply State.pinEvtWrite_keeps | apply State.byPort_keeps | split

theorem execPswMapWrite_keeps {s0 : State} (port x2 k : Nat) (v : Word) {s : State} (h : Keeps s0 s) :
    KeepsOut s0 (execPswMapWrite port x2 k v s) := by
  with_reducible unfold execPswMapWrite; repeat' first
    | assumption | apply KeepsOut.next | intro _ | apply State.pswMapWrite_keeps | apply State.byPort_keeps | split

end Sys2Proof.Machine
end

