-- ==== Sys2Proof/Laws/KeepsCrierOps.lean ====
section
/-! SUPPORT. `Keeps` of the functions of Machine/CrierOps.lean: what none of them changes. -/

namespace Sys2Proof.Machine

variable {s0 s : State}

theorem State.updC_keeps (c : CrierId) (f : Crier → Crier) (h : Keeps s0 s) :
    Keeps s0 (State.updC s c f) := by
  with_reducible unfold State.updC; repeat' first | assumption | apply State.setCrier_keeps

theorem State.loadOsh_keeps (c : CrierId) (v n : Nat) (h : Keeps s0 s) :
    Keeps s0 (State.loadOsh s c v n) := by
  with_reducible unfold State.loadOsh; repeat' first | assumption | apply State.put_keeps

theorem State.loadIsh_keeps (c : CrierId) (v n : Nat) (h : Keeps s0 s) :
    Keeps s0 (State.loadIsh s c v n) := by
  with_reducible unfold State.loadIsh; repeat' first | assumption | apply State.put_keeps

theorem State.deliverEntries_keeps (c : CrierId) (es : List Nat) (at_ : Nat) (h : Keeps s0 s) :
    Keeps s0 (State.deliverEntries s c es at_) := by
  with_reducible unfold State.deliverEntries; repeat' first
    | assumption | intro _ | apply State.ssiWord_keeps | apply State.updC_keeps | apply forAll_keeps
    | (extract_lets +onlyGivenNames a; clear_value a) | split

theorem State.doPush_keeps (c : CrierId) (at_ : Nat) (h : Keeps s0 s) :
    Keeps s0 (State.doPush s c at_) := by
  with_reducible unfold State.doPush; repeat' first
    | assumption | apply State.deliverEntries_keeps | apply State.loadIsh_keeps

theorem State.dropPush_keeps (c : CrierId) (h : Keeps s0 s) :
    Keeps s0 (State.dropPush s c) := by
  with_reducible unfold State.dropPush; repeat' first | assumption | apply State.set_keeps | apply State.loadIsh_keeps

theorem State.doPull_keeps (c : CrierId) (n : Nat) (h : Keeps s0 s) :
    Keeps s0 (State.doPull s c n) := by
  with_reducible unfold State.doPull; repeat' first | assumption | apply State.loadOsh_keeps | apply State.updC_keeps

theorem State.narrowLoad_keeps (c : CrierId) (v : Nat) (h : Keeps s0 s) :
    Keeps s0 (State.narrowLoad s c v) := by
  with_reducible unfold State.narrowLoad; repeat' first | assumption | apply State.loadOsh_keeps

theorem State.paceTo_keeps (c : CrierId) (n : Nat) (h : Keeps s0 s) :
    Keeps s0 (State.paceTo s c n) := by
  with_reducible unfold State.paceTo; repeat' first
    | assumption | apply State.setCrier_keeps | apply State.put_keeps | (extract_lets +onlyGivenNames a; clear_value a)
    | split

theorem State.setBt_keeps (c : CrierId) (v n : Nat) (h : Keeps s0 s) :
    Keeps s0 (State.setBt s c v n) := by
  with_reducible unfold State.setBt; repeat' first | assumption | apply State.put_keeps | apply State.updC_keeps

theorem State.feedBits_keeps (c : CrierId) (bs : List Bool) (h : Keeps s0 s) :
    Keeps s0 (State.feedBits s c bs) := by
  with_reducible unfold State.feedBits; repeat' first | assumption | intro _ | apply State.put_keeps

theorem State.cue_keeps (c : CrierId) (w : Nat) (h : Keeps s0 s) :
    Keeps s0 (State.cue s c w) := by
  with_reducible unfold State.cue; repeat' first | assumption | apply State.updC_keeps

theorem State.crierDone_keeps (c : CrierId) (n d pc : Nat) (h : Keeps s0 s) :
    Keeps s0 (State.crierDone s c n d pc) := by
  with_reducible unfold State.crierDone; repeat' first | assumption | apply State.put_keeps | apply State.updC_keeps

theorem State.crierStopAt_keeps (c : CrierId) (n code : Nat) (h : Keeps s0 s) :
    Keeps s0 (State.crierStopAt s c n code) := by
  with_reducible unfold State.crierStopAt; repeat' first
    | assumption | apply State.paceTo_keeps | apply State.put_keeps | apply State.updC_keeps

theorem State.crierHalt_keeps (c : CrierId) (n : Nat) (flag : Field) (h : Keeps s0 s) :
    Keeps s0 (State.crierHalt s c n flag) := by
  with_reducible unfold State.crierHalt; repeat' first
    | assumption | apply State.hallChit_keeps | apply State.set_keeps | apply State.crierStopAt_keeps

/-- The state that the result of a crier's instruction holds. -/
def CrRes.state : CrRes → State
  | .done s => s
  | .jump s _ => s
  | .stall s _ => s

theorem CrRes.done_keeps {s0 s : State} (h : Keeps s0 s) : Keeps s0 (CrRes.done s).state := h
theorem CrRes.jump_keeps {s0 s : State} (t : Nat) (h : Keeps s0 s) : Keeps s0 (CrRes.jump s t).state := h
theorem CrRes.stall_keeps {s0 s : State} (t : Nat) (h : Keeps s0 s) : Keeps s0 (CrRes.stall s t).state := h
theorem CrRes.of_done {s0 s : State} {r : CrRes} (e : r = .done s)
    (h : Keeps s0 r.state) : Keeps s0 s := by subst e; exact h
theorem CrRes.of_jump {s0 s : State} {r : CrRes} {t : Nat} (e : r = .jump s t)
    (h : Keeps s0 r.state) : Keeps s0 s := by subst e; exact h
theorem CrRes.of_stall {s0 s : State} {r : CrRes} {t : Nat} (e : r = .stall s t)
    (h : Keeps s0 r.state) : Keeps s0 s := by subst e; exact h


theorem State.noteDid_keeps {s0 : State} {s1 : State} (s : State) (c : CrierId) (n : Nat) (dests : List (RegName × Nat))
    (h : Keeps s0 s1) : Keeps s0 (State.noteDid s1 s c n dests) := h.upd rfl rfl rfl rfl rfl

theorem State.crierExec_keeps (c : CrierId) (n w : Nat) (lv : Option Nat) (body : State → CrRes)
    (h : Keeps s0 s) (hbody : ∀ t, Keeps s0 t → Keeps s0 (body t).state) : Keeps s0 (State.crierExec s c n w lv body) := by
  with_reducible
    unfold State.crierExec
    repeat' first
      | assumption | apply hbody | intro _ | apply forAll_keeps | apply State.freezePin_keeps
      | apply State.ssiEdges_keeps | apply State.crierDone_keeps | apply State.noteDid_keeps | apply State.cue_keeps
      | apply State.updC_keeps | apply State.put_keeps | apply State.crierHalt_keeps | apply State.corrected_keeps
      | apply State.uncorrectable_keeps | apply State.setBarrow_keeps | apply State.paceTo_keeps
      | (extract_lets +onlyGivenNames a; first | (refine Keeps.cut (s := a) ?_ (fun _ => ?_); subst a; rotate_left; clear_value a) | clear_value a)
      | (refine CrRes.of_done ‹_› ?_) | (refine CrRes.of_jump ‹_› ?_) | (refine CrRes.of_stall ‹_› ?_) | split

theorem State.crierTry_keeps (c : CrierId) (n : Nat) (pads : Byte) (row : Nat)
    (body : Nat → Nat → Nat → State → CrRes) (h : Keeps s0 s)
    (hbody : ∀ w lv n t, Keeps s0 t → Keeps s0 (body w lv n t).state) :
    Keeps s0 ((State.crierTry s c n pads row body).getD s0) := by
  unfold State.crierTry
  extract_lets w lv
  split
  · exact Keeps.getNone
  · exact Keeps.getSome (State.crierExec_keeps _ _ _ _ _ h (fun t ht => hbody _ _ _ t ht))

theorem State.crierRelease_keeps (c : CrierId) (n : Nat) (h : Keeps s0 s) :
    Keeps s0 (State.crierRelease s c n) :=
  State.crierExec_keeps _ _ _ _ _ h (fun _ ht => ht)

theorem State.crierFlush_keeps (c : CrierId) (h : Keeps s0 s) :
    Keeps s0 (State.crierFlush s c) := by
  with_reducible unfold State.crierFlush; repeat' first | assumption | apply State.updC_keeps

theorem State.crFifo_keeps (c : CrierId) (v : Nat) (h : Keeps s0 s) :
    Keeps s0 (State.crFifo s c v) := by
  with_reducible unfold State.crFifo; repeat' first
    | assumption | apply State.set_keeps | apply State.put_keeps | apply State.crierFlush_keeps
    | (extract_lets +onlyGivenNames a; clear_value a) | split

theorem State.crierReg_keeps (c : CrierId) (m : Nat) (r : Reg) (v : Nat) (h : Keeps s0 s) :
    Keeps s0 (State.crierReg s c m r v) := by
  with_reducible unfold State.crierReg; repeat' first
    | assumption | apply State.paceTo_keeps | apply State.fieldWrite_keeps | apply State.crFifo_keeps
    | apply State.put_keeps | apply State.setBt_keeps | split

theorem State.instrWins_keeps {s0 : State} {s1 : State} (s : State) (c : CrierId) (m : Nat) (r : Reg)
    (h : Keeps s0 s1) :
    Keeps s0 (State.instrWins s1 s c m r) := by
  unfold State.instrWins
  split
  · extract_lets k
    split
    · exact h
    · exact State.wr_keeps _ _ h
  · exact h

theorem State.crierStart_keeps (c : CrierId) (m : Nat) (h : Keeps s0 s) :
    Keeps s0 (State.crierStart s c m) := by
  with_reducible unfold State.crierStart; repeat' first
    | assumption | apply State.put_keeps | apply State.updC_keeps
    | (extract_lets +onlyGivenNames a; first | (refine Keeps.cut (s := a) ?_ (fun _ => ?_); subst a; rotate_left; clear_value a) | clear_value a)
    | split

theorem State.crierRestartAt_keeps (c : CrierId) (m : Nat) (h : Keeps s0 s) :
    Keeps s0 (State.crierRestartAt s c m) := by
  with_reducible unfold State.crierRestartAt; repeat' first
    | assumption | apply State.loadIsh_keeps | apply State.put_keeps | apply State.loadOsh_keeps
    | apply State.updC_keeps
    | (extract_lets +onlyGivenNames a; first | (refine Keeps.cut (s := a) ?_ (fun _ => ?_); subst a; rotate_left; clear_value a) | clear_value a)
    | split

theorem State.crierOp_keeps (c : CrierId) (m : Nat) (op : CrierOp) (h : Keeps s0 s) :
    Keeps s0 (State.crierOp s c m op) := by
  with_reducible unfold State.crierOp; repeat' first
    | assumption | apply State.instrWins_keeps | apply State.set_keeps | apply State.crierStopAt_keeps
    | apply State.crierFlush_keeps | apply State.crierRestartAt_keeps | apply State.crierStart_keeps
    | apply State.crierReg_keeps | apply State.updC_keeps | split

theorem setAll_nodup (xs : List (Reg × Dword)) {t : Tab Reg Dword} (h : (Tab.keys t).Nodup) :
    (Tab.keys (xs.foldr (fun e t => Tab.set t e.1 e.2) t)).Nodup := by
  induction xs with
  | nil => exact h
  | cons x xs ih => exact Tab.keys_set_nodup _ _ ih

theorem State.crierBack_keeps (c : CrierId) (w : CrierWas) (h : Keeps s0 s) :
    Keeps s0 (State.crierBack s c w) := by
  unfold State.crierBack
  extract_lets s1
  have h1 : Keeps s0 s1 :=
    ⟨h.part, h.pending, h.free, h.mem, fun k => setAll_nodup _ (Tab.keys_delIf_nodup _ (h.regs k))⟩
  clear_value s1
  exact State.setCrier_keeps _ _ (State.put_keeps _ _ _ h1)

theorem State.crierFrom_keeps (c : CrierId) (h : Keeps s0 s) : Keeps s0 (State.crierFrom s c).1 := by
  unfold State.crierFrom
  split
  · exact State.crierBack_keeps _ _ h
  · exact h

theorem crierOps_keeps {s0 s : State} (c : CrierId) (ops : List (Nat × CrierOp)) (h : Keeps s0 s) :
    Keeps s0 (forAll ops (fun op s => s.crierOp c op.1 op.2) s) :=
  forAll_keeps _ _ h (fun _ _ ht => State.crierOp_keeps _ _ _ ht)

theorem State.atCycle_keeps (c : CrierId) (pick : State → Option Nat)
    (f : Nat → State → Option State) (h : Keeps s0 s) (hf : ∀ n t, Keeps s0 t → Keeps s0 ((f n t).getD s0)) :
    Keeps s0 (State.atCycle s c pick f) := by
  unfold State.atCycle
  extract_lets ops
  split
  · exact h
  · split
    · exact h
    · rename_i e
      extract_lets late
      refine crierOps_keeps _ _ (Keeps.upd rfl rfl rfl rfl rfl ?_)
      exact Keeps.ofGet e (hf _ _ (crierOps_keeps _ _ (State.crierFrom_keeps _ h)))

theorem State.crierShown_keeps (c : CrierId) (h : Keeps s0 s) : Keeps s0 (State.crierShown s c) :=
  crierOps_keeps _ _ (State.crierFrom_keeps _ h)

theorem State.crierPortAt_keeps (c : CrierId) (m : Nat) (op : CrierOp) (h : Keeps s0 s) :
    Keeps s0 (State.crierPortAt s c m op) := by
  with_reducible unfold State.crierPortAt; repeat' first
    | assumption | apply State.crierFrom_keeps | apply State.crierOp_keeps
    | (extract_lets +onlyGivenNames a; clear_value a) | refine Keeps.snd2 ‹_› ?_ | refine Keeps.fst ‹_› ?_ | split
    | refine Keeps.upd rfl rfl rfl rfl rfl ?_

theorem State.crierPort_keeps (c : CrierId) (op : CrierOp) (h : Keeps s0 s) :
    Keeps s0 (State.crierPort s c op) := by
  with_reducible unfold State.crierPort; repeat' first | assumption | apply State.crierPortAt_keeps

theorem State.pageWrite_keeps (x2 b : Nat) (page w v : Nat) (h : Keeps s0 s) :
    Keeps s0 (State.pageWrite s x2 b page w v) := by
  with_reducible unfold State.pageWrite; repeat' first
    | assumption | apply State.storeNat_keeps | apply State.setBarrow_keeps

theorem State.crierIssue_keeps (c : CrierId) (pads : Byte) (row : Nat)
    (body : Nat → Nat → Nat → State → CrRes) (h : Keeps s0 s)
    (hbody : ∀ w lv n t, Keeps s0 t → Keeps s0 (body w lv n t).state) : Keeps s0 (State.crierIssue s c pads row body) :=
  State.atCycle_keeps _ _ _ h (fun _ _ ht => State.crierTry_keeps _ _ _ _ _ ht hbody)

end Sys2Proof.Machine
end

