-- ==== Sys2Proof/Laws/KeepsCriers.lean ====
section
/-! SUPPORT. `Keeps` of the functions of Machine/Criers.lean: what none of them changes. -/

namespace Sys2Proof.Machine

variable {s0 s : State}

theorem execCrierNop_keeps {s0 : State} (c : CrierId) (pads : Byte) {s : State} (h : Keeps s0 s) :
    KeepsOut s0 (execCrierNop c pads s) := by
  with_reducible unfold execCrierNop; repeat' first
    | assumption | apply KeepsOut.next | intro _ | apply State.crierIssue_keeps | apply CrRes.done_keeps

theorem State.outPins_keeps (c : CrierId) (oe : Bool) (n v : Nat) (h : Keeps s0 s) :
    Keeps s0 (State.outPins s c oe n v) := by
  with_reducible unfold State.outPins; repeat' first | assumption | apply State.updC_keeps

theorem State.shout_keeps (c : CrierId) (w : Nat) (h : Keeps s0 s) :
    Keeps s0 (State.shout s c w) := by
  with_reducible unfold State.shout; repeat' first
    | assumption | apply State.outPins_keeps | apply State.put_keeps | apply State.loadOsh_keeps
    | apply State.feedBits_keeps
    | (extract_lets +onlyGivenNames a; first | (refine Keeps.cut (s := a) ?_ (fun _ => ?_); subst a; rotate_left; clear_value a) | clear_value a)
    | split

theorem execShout_keeps {s0 : State} (c : CrierId) (pads : Byte) {s : State} (h : Keeps s0 s) :
    KeepsOut s0 (execShout c pads s) := by
  with_reducible unfold execShout; repeat' first
    | assumption | apply KeepsOut.next | intro _ | apply State.doPull_keeps | apply State.shout_keeps
    | apply State.set_keeps | apply State.crierIssue_keeps | (extract_lets +onlyGivenNames a; clear_value a)
    | apply CrRes.done_keeps | apply CrRes.jump_keeps | apply CrRes.stall_keeps | split

theorem State.hear_keeps (c : CrierId) (w lv : Nat) (h : Keeps s0 s) :
    Keeps s0 (State.hear s c w lv) := by
  with_reducible unfold State.hear; repeat' first
    | assumption | apply State.loadIsh_keeps | apply State.feedBits_keeps
    | (extract_lets +onlyGivenNames a; first | (refine Keeps.cut (s := a) ?_ (fun _ => ?_); subst a; rotate_left; clear_value a) | clear_value a)
    | split

theorem execHear_keeps {s0 : State} (c : CrierId) (pads : Byte) {s : State} (h : Keeps s0 s) :
    KeepsOut s0 (execHear c pads s) := by
  with_reducible unfold execHear; repeat' first
    | assumption | apply KeepsOut.next | intro _ | apply State.hear_keeps | apply State.dropPush_keeps
    | apply State.set_keeps | apply State.doPush_keeps | apply State.crierIssue_keeps | apply CrRes.done_keeps
    | apply CrRes.jump_keeps | apply CrRes.stall_keeps | split

theorem execSetPins_keeps {s0 : State} (c : CrierId) (pads : Byte) {s : State} (h : Keeps s0 s) :
    KeepsOut s0 (execSetPins c pads s) := by
  with_reducible unfold execSetPins; repeat' first
    | assumption | apply KeepsOut.next | intro _ | apply State.put_keeps | apply State.crierIssue_keeps
    | apply State.updC_keeps | (extract_lets +onlyGivenNames a; clear_value a) | apply CrRes.done_keeps
    | apply CrRes.jump_keeps | apply CrRes.stall_keeps | split

theorem execAwait_keeps {s0 : State} (c : CrierId) (pads : Byte) {s : State} (h : Keeps s0 s) :
    KeepsOut s0 (execAwait c pads s) := by
  with_reducible unfold execAwait; repeat' first
    | assumption | apply KeepsOut.next | intro _ | apply State.crierIssue_keeps | apply CrRes.done_keeps
    | apply CrRes.jump_keeps | apply CrRes.stall_keeps | split

theorem execCrierGoto_keeps {s0 : State} (c : CrierId) (pads : Byte) {s : State} (h : Keeps s0 s) :
    KeepsOut s0 (execCrierGoto c pads s) := by
  with_reducible unfold execCrierGoto; repeat' first
    | assumption | apply KeepsOut.next | intro _ | apply State.put_keeps | apply State.crierIssue_keeps
    | (extract_lets +onlyGivenNames a; clear_value a) | apply CrRes.done_keeps | apply CrRes.jump_keeps
    | apply CrRes.stall_keeps | split

theorem execCrierMove_keeps {s0 : State} (c : CrierId) (pads : Byte) {s : State} (h : Keeps s0 s) :
    KeepsOut s0 (execCrierMove c pads s) := by
  with_reducible unfold execCrierMove; repeat' first
    | assumption | apply KeepsOut.next | intro _ | apply State.outPins_keeps | apply State.narrowLoad_keeps
    | apply State.loadIsh_keeps | apply State.put_keeps | apply State.crierIssue_keeps
    | (extract_lets +onlyGivenNames a; clear_value a) | apply CrRes.done_keeps | apply CrRes.jump_keeps
    | apply CrRes.stall_keeps | split

theorem execCrierPush_keeps {s0 : State} (c : CrierId) (pads : Byte) {s : State} (h : Keeps s0 s) :
    KeepsOut s0 (execCrierPush c pads s) := by
  with_reducible unfold execCrierPush; repeat' first
    | assumption | apply KeepsOut.next | intro _ | apply State.dropPush_keeps | apply State.doPush_keeps
    | apply State.crierIssue_keeps | apply CrRes.done_keeps | apply CrRes.jump_keeps | apply CrRes.stall_keeps | split

theorem execCrierPull_keeps {s0 : State} (c : CrierId) (pads : Byte) {s : State} (h : Keeps s0 s) :
    KeepsOut s0 (execCrierPull c pads s) := by
  with_reducible unfold execCrierPull; repeat' first
    | assumption | apply KeepsOut.next | intro _ | apply State.doPull_keeps | apply State.narrowLoad_keeps
    | apply State.set_keeps | apply State.crierIssue_keeps | (extract_lets +onlyGivenNames a; clear_value a)
    | apply CrRes.done_keeps | apply CrRes.jump_keeps | apply CrRes.stall_keeps | split

theorem execCrierPace_keeps {s0 : State} (c : CrierId) (pads : Byte) {s : State} (h : Keeps s0 s) :
    KeepsOut s0 (execCrierPace c pads s) := by
  with_reducible unfold execCrierPace; repeat' first
    | assumption | apply KeepsOut.next | intro _ | apply State.put_keeps | apply State.crierIssue_keeps
    | apply State.setBt_keeps
    | (extract_lets +onlyGivenNames a; first | (refine Keeps.cut (s := a) ?_ (fun _ => ?_); subst a; rotate_left; clear_value a) | clear_value a)
    | apply CrRes.done_keeps | apply CrRes.jump_keeps | apply CrRes.stall_keeps | split

theorem execCrcInit_keeps {s0 : State} (c : CrierId) (pads : Byte) {s : State} (h : Keeps s0 s) :
    KeepsOut s0 (execCrcInit c pads s) := by
  with_reducible unfold execCrcInit; repeat' first
    | assumption | apply KeepsOut.next | intro _ | apply State.put_keeps | apply State.crierIssue_keeps
    | apply CrRes.done_keeps

theorem execCrcFeedOut_keeps {s0 : State} (c : CrierId) (pads : Byte) {s : State} (h : Keeps s0 s) :
    KeepsOut s0 (execCrcFeedOut c pads s) := by
  with_reducible unfold execCrcFeedOut; repeat' first
    | assumption | apply KeepsOut.next | intro _ | apply State.put_keeps | apply State.crierIssue_keeps
    | apply CrRes.done_keeps

theorem execCrcFeedIn_keeps {s0 : State} (c : CrierId) (pads : Byte) {s : State} (h : Keeps s0 s) :
    KeepsOut s0 (execCrcFeedIn c pads s) := by
  with_reducible unfold execCrcFeedIn; repeat' first
    | assumption | apply KeepsOut.next | intro _ | apply State.put_keeps | apply State.crierIssue_keeps
    | apply CrRes.done_keeps

theorem execCrcOff_keeps {s0 : State} (c : CrierId) (pads : Byte) {s : State} (h : Keeps s0 s) :
    KeepsOut s0 (execCrcOff c pads s) := by
  with_reducible unfold execCrcOff; repeat' first
    | assumption | apply KeepsOut.next | intro _ | apply State.put_keeps | apply State.crierIssue_keeps
    | apply CrRes.done_keeps

theorem execCrcInsert_keeps {s0 : State} (c : CrierId) (pads : Byte) {s : State} (h : Keeps s0 s) :
    KeepsOut s0 (execCrcInsert c pads s) := by
  with_reducible unfold execCrcInsert; repeat' first
    | assumption | apply KeepsOut.next | intro _ | apply State.loadOsh_keeps | apply State.crierIssue_keeps
    | (extract_lets +onlyGivenNames a; clear_value a) | apply CrRes.done_keeps

theorem execCrcFeedX_keeps {s0 : State} (c : CrierId) (pads : Byte) {s : State} (h : Keeps s0 s) :
    KeepsOut s0 (execCrcFeedX c pads s) := by
  with_reducible unfold execCrcFeedX; repeat' first
    | assumption | apply KeepsOut.next | intro _ | apply State.feedBits_keeps | apply State.crierIssue_keeps
    | apply CrRes.done_keeps

theorem execPaceTick_keeps {s0 : State} (c : CrierId) {s : State} (h : Keeps s0 s) :
    KeepsOut s0 (execPaceTick c s) := by
  with_reducible unfold execPaceTick; repeat' first
    | assumption | apply KeepsOut.next | intro _ | apply State.atCycle_keeps | apply State.crierRelease_keeps
    | apply State.setBt_keeps | apply State.updC_keeps
    | (extract_lets +onlyGivenNames a; first | (refine Keeps.cut (s := a) ?_ (fun _ => ?_); subst a; rotate_left; clear_value a) | clear_value a)
    | apply Keeps.getSome | exact Keeps.getNone | split

theorem State.deliverTo_keeps (x2 b : Nat) (n mask : Nat) (src : DeliverySrc) (h : Keeps s0 s) :
    Keeps s0 (State.deliverTo s x2 b n mask src) := by
  with_reducible unfold State.deliverTo; repeat' first
    | assumption | intro _ | apply State.atCycle_keeps | apply State.crierRelease_keeps | apply forAll_keeps
    | (extract_lets +onlyGivenNames a; clear_value a) | apply Keeps.getSome | exact Keeps.getNone | split

theorem execCrierDelivery_keeps {s0 : State} (x1 b : Nat) (src : DeliverySrc) {s : State} (h : Keeps s0 s) :
    KeepsOut s0 (execCrierDelivery x1 b src s) := by
  with_reducible unfold execCrierDelivery; repeat' first
    | assumption | apply KeepsOut.next | apply State.deliverTo_keeps | apply State.setBarrow_keeps
    | (extract_lets +onlyGivenNames a; clear_value a) | split | refine Keeps.upd rfl rfl rfl rfl rfl ?_

theorem State.txPush_keeps (c : CrierId) (v : Word) (h : Keeps s0 s) :
    Keeps s0 (State.txPush s c v) := by
  with_reducible unfold State.txPush; repeat' first | assumption | apply State.crierPort_keeps

theorem State.rxPop_keeps (c : CrierId) (h : Keeps s0 s) :
    Keeps s0 (State.rxPop s c).2 := by
  with_reducible unfold State.rxPop; repeat' first | assumption | apply State.crierPort_keeps | dsimp only | split

theorem State.criersStart_keeps (x2 b mask : Nat) (h : Keeps s0 s) :
    Keeps s0 (State.criersStart s x2 b mask) := by
  with_reducible unfold State.criersStart; repeat' first
    | assumption | intro _ | apply State.crierPort_keeps | apply forAll_keeps

theorem State.criersStop_keeps (x2 b mask : Nat) (h : Keeps s0 s) :
    Keeps s0 (State.criersStop s x2 b mask) := by
  with_reducible unfold State.criersStop; repeat' first
    | assumption | intro _ | apply State.crierPort_keeps | apply forAll_keeps

theorem State.crierRestart_keeps (c : CrierId) (h : Keeps s0 s) :
    Keeps s0 (State.crierRestart s c) := by
  with_reducible unfold State.crierRestart; repeat' first | assumption | apply State.crierPort_keeps

theorem State.kickCriers_keeps (x2 b mask : Nat) (h : Keeps s0 s) :
    Keeps s0 (State.kickCriers s x2 b mask) := by
  with_reducible unfold State.kickCriers; repeat' first | assumption | apply State.setBarrow_keeps

theorem State.brClkWrite_keeps (x2 b v : Nat) (h : Keeps s0 s) :
    Keeps s0 (State.brClkWrite s x2 b v) := by
  with_reducible unfold State.brClkWrite; repeat' first | assumption | apply State.wr_keeps | apply State.newGrid_keeps

theorem State.brIdataWrite_keeps (x2 b v : Nat) (h : Keeps s0 s) :
    Keeps s0 (State.brIdataWrite s x2 b v) := by
  with_reducible unfold State.brIdataWrite; repeat' first
    | assumption | apply State.put_keeps | apply State.pageWrite_keeps
    | (extract_lets +onlyGivenNames a; first | (refine Keeps.cut (s := a) ?_ (fun _ => ?_); subst a; rotate_left; clear_value a) | clear_value a)
    | split

theorem State.barrowPageSel_keeps (x2 b : Nat) (page : Bool) (h : Keeps s0 s) :
    Keeps s0 (State.barrowPageSel s x2 b page) := by
  with_reducible unfold State.barrowPageSel; repeat' first
    | assumption | apply State.set_keeps | apply State.setBarrow_keeps

theorem State.swapCrier_keeps (c : CrierId) (n : Nat) (h : Keeps s0 s) :
    Keeps s0 (State.swapCrier s c n) := by
  with_reducible unfold State.swapCrier; repeat' first
    | assumption | apply State.put_keeps | apply State.updC_keeps
    | (extract_lets +onlyGivenNames a; first | (refine Keeps.cut (s := a) ?_ (fun _ => ?_); subst a; rotate_left; clear_value a) | clear_value a)
    | split

theorem State.swapPage_keeps (x2 b : Nat) (n page : Nat) (h : Keeps s0 s) :
    Keeps s0 (State.swapPage s x2 b n page) := by
  with_reducible unfold State.swapPage; repeat' first
    | assumption | intro _ | apply State.swapCrier_keeps | apply State.atCycle_keeps | apply State.put_keeps
    | apply forAll_keeps | apply Keeps.getSome

theorem execCrTxfPush_keeps {s0 : State} (by_ : Accessor) (c : CrierId) (v : Word) {s : State} (h : Keeps s0 s) :
    KeepsOut s0 (execCrTxfPush by_ c v s) := by
  with_reducible unfold execCrTxfPush; repeat' first
    | assumption | apply KeepsOut.next | intro _ | apply State.txPush_keeps | apply State.byPort_keeps | split

theorem execCrRxfPop_keeps {s0 : State} (by_ : Accessor) (c : CrierId) {s : State} (h : Keeps s0 s) :
    KeepsOut s0 (execCrRxfPop by_ c s) := by
  with_reducible unfold execCrRxfPop; repeat' first
    | assumption | apply KeepsOut.next | intro _ | apply State.upd_keeps | apply State.rxPop_keeps
    | apply State.byPort_keeps | refine Keeps.snd ‹_› ?_ | split | refine Keeps.upd rfl rfl rfl rfl rfl ?_

theorem execCrierStart_keeps {s0 : State} (by_ : Accessor) (x2 b mask : Nat) {s : State} (h : Keeps s0 s) :
    KeepsOut s0 (execCrierStart by_ x2 b mask s) := by
  with_reducible unfold execCrierStart; repeat' first
    | assumption | apply KeepsOut.next | intro _ | apply State.criersStart_keeps | apply State.byPort_keeps | split

theorem execCrierStop_keeps {s0 : State} (by_ : Accessor) (x2 b mask : Nat) {s : State} (h : Keeps s0 s) :
    KeepsOut s0 (execCrierStop by_ x2 b mask s) := by
  with_reducible unfold execCrierStop; repeat' first
    | assumption | apply KeepsOut.next | intro _ | apply State.criersStop_keeps | apply State.byPort_keeps | split

theorem execRestart_keeps {s0 : State} (by_ : Accessor) (c : CrierId) {s : State} (h : Keeps s0 s) :
    KeepsOut s0 (execRestart by_ c s) := by
  with_reducible unfold execRestart; repeat' first
    | assumption | apply KeepsOut.next | intro _ | apply State.byPort_keeps | apply State.crierRestart_keeps | split

theorem execFlush_keeps {s0 : State} (by_ : Accessor) (c : CrierId) {s : State} (h : Keeps s0 s) :
    KeepsOut s0 (execFlush by_ c s) := by
  with_reducible unfold execFlush; repeat' first
    | assumption | apply KeepsOut.next | intro _ | apply State.crierPort_keeps | apply State.byPort_keeps | split

theorem execKick_keeps {s0 : State} (by_ : Accessor) (x2 b mask : Nat) {s : State} (h : Keeps s0 s) :
    KeepsOut s0 (execKick by_ x2 b mask s) := by
  with_reducible unfold execKick; repeat' first
    | assumption | apply KeepsOut.next | intro _ | apply State.byPort_keeps | apply State.kickCriers_keeps | split

theorem execCrFifoWrite_keeps {s0 : State} (by_ : Accessor) (c : CrierId) (v : Word) {s : State} (h : Keeps s0 s) :
    KeepsOut s0 (execCrFifoWrite by_ c v s) := by
  with_reducible unfold execCrFifoWrite; repeat' first
    | assumption | apply KeepsOut.next | intro _ | apply State.crierPort_keeps | apply State.byPort_keeps | split

theorem execBrClkWrite_keeps {s0 : State} (by_ : Accessor) (x2 b : Nat) (v : Word) {s : State} (h : Keeps s0 s) :
    KeepsOut s0 (execBrClkWrite by_ x2 b v s) := by
  with_reducible unfold execBrClkWrite; repeat' first
    | assumption | apply KeepsOut.next | intro _ | apply State.brClkWrite_keeps | apply State.byPort_keeps | split

theorem execBrIdataWrite_keeps {s0 : State} (by_ : Accessor) (x2 b : Nat) (v : Word) {s : State} (h : Keeps s0 s) :
    KeepsOut s0 (execBrIdataWrite by_ x2 b v s) := by
  with_reducible unfold execBrIdataWrite; repeat' first
    | assumption | apply KeepsOut.next | intro _ | apply State.brIdataWrite_keeps | apply State.byPort_keeps | split

theorem execInstructionPageWrite_keeps {s0 : State} (port x2 : Nat) (b page w : Nat) (v : Word) {s : State}
    (h : Keeps s0 s) :
    KeepsOut s0 (execInstructionPageWrite port x2 b page w v s) := by
  with_reducible unfold execInstructionPageWrite; repeat' first
    | assumption | apply KeepsOut.next | intro _ | apply State.byPort_keeps | apply State.pageWrite_keeps | split

theorem execBarrowPageSel_keeps {s0 : State} (by_ : Accessor) (x2 b : Nat) (page : Bool) {s : State} (h : Keeps s0 s) :
    KeepsOut s0 (execBarrowPageSel by_ x2 b page s) := by
  with_reducible unfold execBarrowPageSel; repeat' first
    | assumption | apply KeepsOut.next | intro _ | apply State.barrowPageSel_keeps | apply State.byPort_keeps | split

end Sys2Proof.Machine
end

