-- ==== Sys2Proof/Laws/KeepsQueues.lean ====
section
/-! SUPPORT. `Keeps` of the functions of Machine/Queues.lean: what none of them changes. -/

namespace Sys2Proof.Machine

variable {s0 s : State}

theorem State.setToks_keeps (x2 : Nat) (es : List TokEntry) (h : Keeps s0 s) :
    Keeps s0 (State.setToks s x2 es) := by
  with_reducible unfold State.setToks; repeat' first | assumption | refine Keeps.upd rfl rfl rfl rfl rfl ?_

theorem State.purgeToks_keeps (x2 : Nat) (h : Keeps s0 s) :
    Keeps s0 (State.purgeToks s x2) := by
  with_reducible unfold State.purgeToks; repeat' first
    | assumption | apply State.setToks_keeps | apply State.uncorrectable_keeps
    | (extract_lets +onlyGivenNames a; first | (refine Keeps.cut (s := a) ?_ (fun _ => ?_); subst a; rotate_left; clear_value a) | clear_value a)
    | split | refine Keeps.upd rfl rfl rfl rfl rfl ?_

theorem State.setTokWord_keeps (x2 w v : Nat) (h : Keeps s0 s) :
    Keeps s0 (State.setTokWord s x2 w v) := by
  with_reducible unfold State.setTokWord; repeat' first | assumption | apply State.storeNat_keeps

theorem State.tokenAcquire_keeps (x2 w n : Nat) (h : Keeps s0 s) :
    Keeps s0 (State.tokenAcquire s x2 w n).2.2 := by
  with_reducible unfold State.tokenAcquire; repeat' first
    | assumption | apply State.purgeToks_keeps | apply State.setTokWord_keeps | apply State.setToks_keeps
    | apply State.set_keeps
    | (extract_lets +onlyGivenNames a; first | (refine Keeps.cut (s := a) ?_ (fun _ => ?_); subst a; rotate_left; clear_value a) | clear_value a)
    | dsimp only | split

theorem State.tokenRelease_keeps (x2 w n : Nat) (force sup : Bool) (h : Keeps s0 s) :
    Keeps s0 (State.tokenRelease s x2 w n force sup).2 := by
  with_reducible unfold State.tokenRelease; repeat' first
    | assumption | apply State.purgeToks_keeps | apply State.setTokWord_keeps | apply State.hallChit_keeps
    | apply State.setToks_keeps | apply State.set_keeps
    | (extract_lets +onlyGivenNames a; first | (refine Keeps.cut (s := a) ?_ (fun _ => ?_); subst a; rotate_left; clear_value a) | (have e : a = a := funext fun _ => rfl; clear e; subst a; beta_reduce) | clear_value a)
    | dsimp only | split

theorem State.qPop_keeps (by_ : Caller) (q stream : Nat) (es : List Nat) (h : Keeps s0 s) :
    Keeps s0 (State.qPop s by_ q stream es).2 := by
  with_reducible unfold State.qPop; repeat' first
    | assumption | intro _ | apply State.qDo_keeps | apply State.granted_keeps | apply State.hostReq_keeps
    | (extract_lets +onlyGivenNames a; clear_value a) | dsimp only | apply Keeps.mkOpt | exact Keeps.mkNone
    | refine Keeps.fst ‹_› ?_ | split | refine Keeps.upd rfl rfl rfl rfl rfl ?_

theorem State.abandon_keeps (x2 n : Nat) (h : Keeps s0 s) :
    Keeps s0 (State.abandon s x2 n) := by
  with_reducible unfold State.abandon; repeat' first
    | assumption | intro _ | apply State.setTokWord_keeps | apply State.hallChit_keeps | apply State.setToks_keeps
    | apply State.qAbort_keeps | apply State.qReturn_keeps | apply forAll_keeps

theorem State.qCfgWrite_keeps (x2 q v : Nat) (h : Keeps s0 s) :
    Keeps s0 (State.qCfgWrite s x2 q v) := by
  with_reducible unfold State.qCfgWrite; repeat' first
    | assumption | apply State.wr_keeps | apply State.set_keeps | apply State.qAbort_keeps | apply State.qReturn_keeps
    | (extract_lets +onlyGivenNames a; clear_value a) | split

theorem State.qDescWrite_keeps (port x3 : Nat) (q off v : Nat) (h : Keeps s0 s) :
    Keeps s0 (State.qDescWrite s port x3 q off v) := by
  with_reducible unfold State.qDescWrite; repeat' first
    | assumption | apply State.qCfgWrite_keeps | apply State.set_keeps | apply State.put_keeps
    | (extract_lets +onlyGivenNames a; first | (refine Keeps.cut (s := a) ?_ (fun _ => ?_); subst a; rotate_left; clear_value a) | clear_value a)
    | split | refine Keeps.upd rfl rfl rfl rfl rfl ?_

theorem State.busError_keeps (t : TraderId) (detail taddr : Nat) (h : Keeps s0 s) :
    Keeps s0 (State.busError s t detail taddr) := by
  with_reducible unfold State.busError; repeat' first
    | assumption | apply State.occur_keeps | apply State.upd_keeps
    | (extract_lets +onlyGivenNames a; first | (refine Keeps.cut (s := a) ?_ (fun _ => ?_); subst a; rotate_left; clear_value a) | clear_value a)
    | split

theorem State.opFails_keeps (t : TraderId) (at_ : ReqAt) (detail addr n : Nat) (h : Keeps s0 s) :
    Keeps s0 (State.opFails s t at_ detail addr n) := by
  with_reducible unfold State.opFails; repeat' first | assumption | apply State.upd_keeps | apply State.busError_keeps

theorem State.traderPush_keeps (t : TraderId) (at_ : ReqAt) (q : Nat) (bytes : List Byte) (h : Keeps s0 s) :
    Keeps s0 (State.traderPush s t at_ q bytes) := by
  with_reducible unfold State.traderPush; repeat' first
    | assumption | apply State.upd_keeps | apply State.qDo_keeps | apply State.store_keeps | apply State.granted_keeps
    | apply State.qStat_keeps | apply State.hostReq_keeps | apply State.opFails_keeps
    | (extract_lets +onlyGivenNames a; first | (refine Keeps.cut (s := a) ?_ (fun _ => ?_); subst a; rotate_left; clear_value a) | (have e : a = a := funext fun _ => rfl; clear e; subst a; beta_reduce) | clear_value a)
    | split

theorem State.descRead_keeps (x2 q : Nat) (h : Keeps s0 s) :
    Keeps s0 (State.descRead s x2 q) := by
  with_reducible unfold State.descRead; repeat' first
    | assumption | apply State.corrected_keeps | apply State.uncorrectable_keeps | split

theorem State.traderOp_keeps (t : TraderId) (at_ : ReqAt) (op : AtomOp) (h : Keeps s0 s) :
    Keeps s0 (State.traderOp s t at_ op) := by
  with_reducible unfold State.traderOp; repeat' first
    | assumption | apply State.upd_keeps | apply State.qOp_keeps | apply State.traderPush_keeps
    | apply State.tokenAcquire_keeps | apply State.put_keeps | apply State.qPop_keeps | apply State.tokenRelease_keeps
    | apply State.qStat_keeps | apply State.opFails_keeps
    | (extract_lets +onlyGivenNames a; first | (refine Keeps.cut (s := a) ?_ (fun _ => ?_); subst a; rotate_left; clear_value a) | (have e : a = a := funext fun _ => rfl; clear e; subst a; beta_reduce) | clear_value a)
    | refine Keeps.opt ‹_› ?_ | refine Keeps.snd2 ‹_› ?_ | refine Keeps.snd ‹_› ?_ | split

theorem State.traderRow_keeps (t : TraderId) (p : AtomOp → Bool) (h : Keeps s0 s) :
    Keeps s0 (State.traderRow s t p) := by
  with_reducible unfold State.traderRow; repeat' first
    | assumption | apply State.traderOp_keeps | apply State.descRead_keeps
    | (extract_lets +onlyGivenNames a; first | (refine Keeps.cut (s := a) ?_ (fun _ => ?_); subst a; rotate_left; clear_value a) | clear_value a)
    | split | refine Keeps.upd rfl rfl rfl rfl rfl ?_

theorem State.agentMade_keeps (o : AgentOp) (h : Keeps s0 s) :
    Keeps s0 (State.agentMade s o) := by
  with_reducible unfold State.agentMade; repeat' first
    | assumption | apply State.qOp_keeps | apply State.descRead_keeps | apply State.qStat_keeps
    | (extract_lets +onlyGivenNames a; first | (refine Keeps.cut (s := a) ?_ (fun _ => ?_); subst a; rotate_left; clear_value a) | clear_value a)
    | refine Keeps.snd ‹_› ?_ | split | refine Keeps.upd rfl rfl rfl rfl rfl ?_

theorem State.agentOp_keeps (x2 a : Nat) (op : QOp) (h : Keeps s0 s) :
    Keeps s0 (State.agentOp s x2 a op) := by
  with_reducible unfold State.agentOp; repeat' first
    | assumption | apply State.agentMade_keeps | (extract_lets +onlyGivenNames a; clear_value a) | split
    | refine Keeps.upd rfl rfl rfl rfl rfl ?_

theorem State.agentRelease1_keeps (x2 q : Nat) (h : Keeps s0 s) :
    Keeps s0 (State.agentRelease1 s x2 q) := by
  with_reducible unfold State.agentRelease1; repeat' first
    | assumption | intro _ | apply State.agentMade_keeps | apply forAll_keeps
    | (extract_lets +onlyGivenNames a; clear_value a) | refine Keeps.upd rfl rfl rfl rfl rfl ?_

theorem State.agentAcquire_keeps (x2 a : Nat) (h : Keeps s0 s) :
    Keeps s0 (State.agentAcquire s x2 a) := by
  with_reducible unfold State.agentAcquire; repeat' first
    | assumption | apply State.wr_keeps | apply State.tokenAcquire_keeps | apply State.put_keeps
    | (extract_lets +onlyGivenNames a; first | (refine Keeps.cut (s := a) ?_ (fun _ => ?_); subst a; rotate_left; clear_value a) | clear_value a)
    | refine Keeps.snd2 ‹_› ?_ | refine Keeps.snd ‹_› ?_ | split | refine Keeps.upd rfl rfl rfl rfl rfl ?_

theorem State.agentRelease_keeps (x2 a : Nat) (force : Bool) (h : Keeps s0 s) :
    Keeps s0 (State.agentRelease s x2 a force) := by
  with_reducible unfold State.agentRelease; repeat' first
    | assumption | apply State.put_keeps | apply State.tokenRelease_keeps

theorem State.byAgent_keeps (x2 a : Nat) (c : Instr) (f : State → State)
    (h : Keeps s0 s) (hf : ∀ y0, Keeps s0 y0 → Keeps s0 (f y0)) :
    Keeps s0 (State.byAgent s x2 a c f) := by
  with_reducible unfold State.byAgent; repeat' first | assumption | intro _ | apply State.byPort_keeps

theorem execTokenAcquire_keeps {s0 : State} (by_ : Caller) {s : State} (h : Keeps s0 s) :
    KeepsOut s0 (execTokenAcquire by_ s) := by
  with_reducible unfold execTokenAcquire; repeat' first
    | assumption | apply KeepsOut.next | intro _ | apply State.agentAcquire_keeps | apply State.byAgent_keeps
    | apply State.traderRow_keeps | split

theorem execTokenRelease_keeps {s0 : State} (by_ : Caller) (force : Bool) {s : State} (h : Keeps s0 s) :
    KeepsOut s0 (execTokenRelease by_ force s) := by
  with_reducible unfold execTokenRelease; repeat' first
    | assumption | apply KeepsOut.next | intro _ | apply State.agentRelease_keeps | apply State.byAgent_keeps
    | apply State.traderRow_keeps | split

theorem execHlAbandon_keeps {s0 : State} (by_ : Accessor) (x2 : Nat) (mask : Half) {s : State} (h : Keeps s0 s) :
    KeepsOut s0 (execHlAbandon by_ x2 mask s) := by
  with_reducible unfold execHlAbandon; repeat' first
    | assumption | apply KeepsOut.next | intro _ | apply State.abandon_keeps | apply State.byPort_keeps
    | apply forAll_keeps | split

theorem execQueuePush_keeps {s0 : State} (t : TraderId) {s : State} (h : Keeps s0 s) :
    KeepsOut s0 (execQueuePush t s) := by
  with_reducible unfold execQueuePush; repeat' first | assumption | apply KeepsOut.next | apply State.traderRow_keeps

theorem execQueuePop_keeps {s0 : State} (t : TraderId) {s : State} (h : Keeps s0 s) :
    KeepsOut s0 (execQueuePop t s) := by
  with_reducible unfold execQueuePop; repeat' first | assumption | apply KeepsOut.next | apply State.traderRow_keeps

theorem execQueueDescriptorWrite_keeps {s0 : State} (port x2 : Nat) (q off : Nat) (v : Word) {s : State}
    (h : Keeps s0 s) :
    KeepsOut s0 (execQueueDescriptorWrite port x2 q off v s) := by
  with_reducible unfold execQueueDescriptorWrite; repeat' first
    | assumption | apply KeepsOut.next | intro _ | apply State.qDescWrite_keeps | apply State.byPort_keeps | split

theorem execBlRing_keeps {s0 : State} (by_ : Accessor) (x2 : Nat) (mask : Word) {s : State} (h : Keeps s0 s) :
    KeepsOut s0 (execBlRing by_ x2 mask s) := by
  with_reducible unfold execBlRing; repeat' first
    | assumption | apply KeepsOut.next | intro _ | apply State.ringMask_keeps | apply State.byPort_keeps | split

theorem execDbRing_keeps {s0 : State} (by_ : Accessor) (mask : Half) {s : State} (h : Keeps s0 s) :
    KeepsOut s0 (execDbRing by_ mask s) := by
  with_reducible unfold execDbRing; repeat' first
    | assumption | apply KeepsOut.next | intro _ | apply State.ringMask_keeps | apply State.byPort_keeps

end Sys2Proof.Machine
end

