-- ==== Sys2Proof/Laws/KeepsSettle.lean ====
section
/-! SUPPORT. `Keeps` of the functions of Machine/Settle.lean: what none of them changes. -/

namespace Sys2Proof.Machine

variable {s0 s : State}

theorem State.updImage_keeps (job : Nat) (f : Image → Image) (h : Keeps s0 s) :
    Keeps s0 (State.updImage s job f) := by
  with_reducible unfold State.updImage; repeat' first | assumption | split | refine Keeps.upd rfl rfl rfl rfl rfl ?_

theorem State.refreshLive_keeps (h : Keeps s0 s) :
    Keeps s0 (State.refreshLive s) := by
  with_reducible unfold State.refreshLive; repeat' first | assumption | split | refine Keeps.upd rfl rfl rfl rfl rfl ?_

theorem State.abandonStall_keeps (x2 f : Nat) (h : Keeps s0 s) :
    Keeps s0 (State.abandonStall s x2 f) := by
  with_reducible unfold State.abandonStall; repeat' first
    | assumption | intro _ | apply State.abandon_keeps | apply forAll_keeps

theorem State.clearStall_keeps (x2 f : Nat) (h : Keeps s0 s) :
    Keeps s0 (State.clearStall s x2 f) := by
  with_reducible unfold State.clearStall; repeat' first
    | assumption | intro _ | apply State.setStall_keeps | apply State.resetRegs_keeps | apply State.setTrader_keeps
    | apply forAll_keeps
    | (extract_lets +onlyGivenNames a; first | (refine Keeps.cut (s := a) ?_ (fun _ => ?_); subst a; rotate_left; clear_value a) | clear_value a)
    | refine Keeps.upd rfl rfl rfl rfl rfl ?_

theorem State.stallReset_keeps (x2 f : Nat) (h : Keeps s0 s) :
    Keeps s0 (State.stallReset s x2 f) := by
  with_reducible unfold State.stallReset; repeat' first
    | assumption | apply State.abandonStall_keeps | apply State.clearStall_keeps

theorem State.freeMarks_keeps (w : Swap) (h : Keeps s0 s) :
    Keeps s0 (State.freeMarks s w) := by
  with_reducible unfold State.freeMarks; repeat' first
    | assumption | intro _ | apply State.setMark_keeps | apply State.wr_keeps | apply State.set_keeps
    | apply forAll_keeps

theorem State.swapEnds_keeps (job : Nat) (st : JobState) (reason : Nat) (h : Keeps s0 s) :
    Keeps s0 (State.swapEnds s job st reason) := by
  with_reducible unfold State.swapEnds; repeat' first
    | assumption | intro _ | apply State.jobTo_keeps | apply State.put_keeps | apply State.freeMarks_keeps
    | apply forAll_keeps
    | (extract_lets +onlyGivenNames a; first | (refine Keeps.cut (s := a) ?_ (fun _ => ?_); subst a; rotate_left; clear_value a) | clear_value a)
    | split | refine Keeps.upd rfl rfl rfl rfl rfl ?_

theorem State.swapTidy_keeps (h : Keeps s0 s) :
    Keeps s0 (State.swapTidy s) := by
  with_reducible unfold State.swapTidy; repeat' first
    | assumption | intro _ | apply State.raiseOn_keeps | apply forAll_keeps
    | (extract_lets +onlyGivenNames a; first | (refine Keeps.cut (s := a) ?_ (fun _ => ?_); subst a; rotate_left; clear_value a) | clear_value a)
    | split | refine Keeps.upd rfl rfl rfl rfl rfl ?_

theorem State.swapsFail_keeps (reason : Nat) (h : Keeps s0 s) :
    Keeps s0 (State.swapsFail s reason) := by
  with_reducible unfold State.swapsFail; repeat' first
    | assumption | intro _ | apply State.swapEnds_keeps | apply forAll_keeps

theorem State.stopOthers_keeps (x2 f : Nat) (h : Keeps s0 s) :
    Keeps s0 (State.stopOthers s x2 f) := by
  with_reducible unfold State.stopOthers; repeat' first
    | assumption | intro _ | apply State.stopTrader_keeps | apply forAll_keeps

theorem State.windStop_keeps (h : Keeps s0 s) :
    Keeps s0 (State.windStop s) := by
  with_reducible unfold State.windStop; repeat' first
    | assumption | intro _ | apply State.criersStop_keeps | apply State.set_keeps | apply State.put_keeps
    | apply State.hold_keeps | apply State.stopOthers_keeps | apply forAll_keeps
    | (extract_lets +onlyGivenNames a; first | (refine Keeps.cut (s := a) ?_ (fun _ => ?_); subst a; rotate_left; clear_value a) | clear_value a)
    | split

theorem State.startWind_keeps (job axis prof : Nat) (timeout : Option Nat) (h : Keeps s0 s) :
    Keeps s0 (State.startWind s job axis prof timeout) := by
  with_reducible unfold State.startWind; repeat' first
    | assumption | apply State.windStop_keeps | apply State.swapsFail_keeps
    | (extract_lets +onlyGivenNames a; first | (refine Keeps.cut (s := a) ?_ (fun _ => ?_); subst a; rotate_left; clear_value a) | clear_value a)
    | split | refine Keeps.upd rfl rfl rfl rfl rfl ?_

theorem State.windFault_keeps (cause n : Nat) (h : Keeps s0 s) :
    Keeps s0 (State.windFault s cause n) := by
  with_reducible unfold State.windFault; repeat' first
    | assumption | apply State.chit_keeps | apply State.set_keeps | apply State.startWind_keeps
    | (extract_lets +onlyGivenNames a; first | (refine Keeps.cut (s := a) ?_ (fun _ => ?_); subst a; rotate_left; clear_value a) | clear_value a)
    | split

theorem State.haltStall_keeps (x2 f : Nat) (h : Keeps s0 s) :
    Keeps s0 (State.haltStall s x2 f) := by
  with_reducible unfold State.haltStall; repeat' first
    | assumption | intro _ | apply State.upd_keeps | apply State.stopTrader_keeps | apply forAll_keeps

theorem State.failHold_keeps (x2 f : Nat) (h : Keeps s0 s) :
    Keeps s0 (State.failHold s x2 f) := by
  with_reducible unfold State.failHold; repeat' first
    | assumption | intro _ | apply State.hold_keeps | apply forAll_keeps

theorem State.markFailed_keeps (x2 f cause : Nat) (h : Keeps s0 s) :
    Keeps s0 (State.markFailed s x2 f cause) := by
  with_reducible unfold State.markFailed; repeat' first
    | assumption | intro _ | apply State.set_keeps | apply State.put_keeps | apply State.haltStall_keeps
    | apply forAll_keeps
    | (extract_lets +onlyGivenNames a; first | (refine Keeps.cut (s := a) ?_ (fun _ => ?_); subst a; rotate_left; clear_value a) | clear_value a)
    | split

theorem State.stallLost_keeps (x2 role : Nat) (f cause : Nat) (noSpare : Bool) (h : Keeps s0 s) :
    Keeps s0 (State.stallLost s x2 role f cause noSpare) := by
  with_reducible unfold State.stallLost; repeat' first
    | assumption | apply State.hallChit_keeps
    | (extract_lets +onlyGivenNames a; first | (refine Keeps.cut (s := a) ?_ (fun _ => ?_); subst a; rotate_left; clear_value a) | clear_value a)
    | split | refine Keeps.upd rfl rfl rfl rfl rfl ?_

theorem State.noPart_keeps (x2 role : Nat) (h : Keeps s0 s) :
    Keeps s0 (State.noPart s x2 role) := by
  with_reducible unfold State.noPart; repeat' first
    | assumption | apply State.swapTidy_keeps | refine Keeps.upd rfl rfl rfl rfl rfl ?_

theorem State.failSwap_keeps (x2 role : Nat) (h : Keeps s0 s) :
    Keeps s0 (State.failSwap s x2 role) := by
  with_reducible unfold State.failSwap; repeat' first
    | assumption | apply State.put_keeps | apply State.swapEnds_keeps | split

theorem State.beginFailover_keeps (x2 role : Nat) (f code : Nat) (h : Keeps s0 s) :
    Keeps s0 (State.beginFailover s x2 role f code) := by
  with_reducible unfold State.beginFailover; repeat' first
    | assumption | apply State.failSwap_keeps | apply State.abandonStall_keeps | apply State.failHold_keeps
    | apply State.markFailed_keeps | apply State.stallReset_keeps
    | (extract_lets +onlyGivenNames a; first | (refine Keeps.cut (s := a) ?_ (fun _ => ?_); subst a; rotate_left; clear_value a) | clear_value a)
    | refine Keeps.upd rfl rfl rfl rfl rfl ?_

theorem State.noSpare_keeps (x2 role : Nat) (f code : Nat) (h : Keeps s0 s) :
    Keeps s0 (State.noSpare s x2 role f code) := by
  with_reducible unfold State.noSpare; repeat' first
    | assumption | apply State.failSwap_keeps | apply State.noPart_keeps | apply State.failHold_keeps
    | apply State.stallLost_keeps | apply State.markFailed_keeps
    | (extract_lets +onlyGivenNames a; first | (refine Keeps.cut (s := a) ?_ (fun _ => ?_); subst a; rotate_left; clear_value a) | clear_value a)
    | split | refine Keeps.upd rfl rfl rfl rfl rfl ?_

theorem State.takeSpare_keeps (x2 role : Nat) (f code : Nat) (o : Failover) (h : Keeps s0 s) :
    Keeps s0 (State.takeSpare s x2 role f code o) := by
  with_reducible unfold State.takeSpare; repeat' first
    | assumption | apply State.noPart_keeps | apply State.beginFailover_keeps | apply State.stallLost_keeps
    | (extract_lets +onlyGivenNames a; first | (refine Keeps.cut (s := a) ?_ (fun _ => ?_); subst a; rotate_left; clear_value a) | clear_value a)
    | refine Keeps.upd rfl rfl rfl rfl rfl ?_

theorem State.failCause_keeps (x2 f0 code : Nat) (h : Keeps s0 s) :
    Keeps s0 (State.failCause s x2 f0 code) := by
  with_reducible unfold State.failCause; repeat' first
    | assumption | apply State.failSwap_keeps | apply State.takeSpare_keeps | apply State.put_keeps
    | apply State.noSpare_keeps | apply State.noPart_keeps | apply State.beginFailover_keeps
    | apply State.stallLost_keeps | apply State.markFailed_keeps | (extract_lets +onlyGivenNames a; clear_value a)
    | split | refine Keeps.upd rfl rfl rfl rfl rfl ?_

theorem State.settleOnce_keeps (h : Keeps s0 s) :
    Keeps s0 (State.settleOnce s) := by
  with_reducible unfold State.settleOnce; repeat' first
    | assumption | intro _ | apply State.failCause_keeps | apply State.windFault_keeps | apply forAll_keeps
    | apply foldl_keeps
    | (extract_lets +onlyGivenNames a; first | (refine Keeps.cut (s := a) ?_ (fun _ => ?_); subst a; rotate_left; clear_value a) | clear_value a)
    | split | refine Keeps.upd rfl rfl rfl rfl rfl ?_

theorem State.settle_keeps (h : Keeps s0 s) :
    Keeps s0 (State.settle s) := by
  with_reducible unfold State.settle; repeat' first
    | assumption | intro _ | apply State.settleOnce_keeps | apply iter_keeps | split

end Sys2Proof.Machine
end

