-- ==== Sys2Proof/Laws/KeepsIssue.lean ====
section
/-! SUPPORT. `Keeps` of the functions of Machine/Issue.lean: what none of them changes. -/

namespace Sys2Proof.Machine

variable {s0 s : State}

theorem State.atomDone_keeps (t : TraderId) (r : AtomReq) (h : Keeps s0 s) :
    Keeps s0 (State.atomDone s t r) := by
  with_reducible unfold State.atomDone; repeat' first | assumption | apply State.upd_keeps

theorem State.finishAtom_keeps (t : TraderId) (h : Keeps s0 s) :
    Keeps s0 (State.finishAtom s t) := by
  with_reducible unfold State.finishAtom; repeat' first | assumption | apply State.atomDone_keeps | split

theorem State.finishPop_keeps (t : TraderId) (h : Keeps s0 s) :
    Keeps s0 (State.finishPop s t) := by
  with_reducible unfold State.finishPop; repeat' first | assumption | apply State.upd_keeps | split

theorem State.finishDrain_keeps (t : TraderId) (h : Keeps s0 s) :
    Keeps s0 (State.finishDrain s t) := by
  with_reducible unfold State.finishDrain; repeat' first
    | assumption | apply State.endCheck_keeps | apply State.upd_keeps | split

theorem State.finishes_keeps (t : TraderId) (h : Keeps s0 s) :
    Keeps s0 (State.finishes s t) := by
  with_reducible unfold State.finishes; repeat' first
    | assumption | apply State.finishAtom_keeps | apply State.finishPop_keeps | apply State.finishDrain_keeps

theorem State.scRead_keeps (t : TraderId) (rs : List Nat) (w : Nat) (f : State → State)
    (h : Keeps s0 s) (hf : ∀ y0, Keeps s0 y0 → Keeps s0 (f y0)) :
    Keeps s0 (State.scRead s t rs w f) := by
  with_reducible unfold State.scRead; repeat' first
    | assumption | apply State.corrected_keeps | apply State.settle_keeps | apply State.eccTrap_keeps | apply hf
    | split

theorem State.heldBy_keeps (t : TraderId) (x3 : Option Bool) (f : State → State)
    (h : Keeps s0 s) (hf : ∀ y0, Keeps s0 y0 → Keeps s0 (f y0)) :
    Keeps s0 (State.heldBy s t x3 f) := by
  with_reducible unfold State.heldBy; repeat' first | assumption | apply State.unsched_keeps | apply hf | split

theorem State.issueOn_keeps (t : TraderId) (p : Prog) (body : Nat → State → State)
    (hold : Nat → State → Option Bool) (early : Nat → State → State) (h : Keeps s0 s) (hbody : ∀ w t, Keeps s0 t → Keeps s0 (body w t))
    (hearly : ∀ w t, Keeps s0 t → Keeps s0 (early w t)) :
    Keeps s0 (State.issueOn s t p body hold early) := by
  unfold State.issueOn
  extract_lets +onlyGivenNames s1
  have h1 : Keeps s0 s1 := State.ownSlot_keeps t _ h
  clear_value s1
  extract_lets left done
  have hl : ∀ n u, Keeps s0 u → Keeps s0 (left n u) := fun n u hu => State.upd_keeps t _ hu
  have hd : ∀ u, Keeps s0 u → Keeps s0 (done u) := fun u hu => State.upd_keeps t _ hu
  clear_value left done
  with_reducible repeat' first
    | assumption | intro _ | apply State.endCheck_keeps | apply State.heldBy_keeps | apply hbody | apply hearly
    | apply hl | apply hd | split


theorem State.fetchSlot_keeps (t : TraderId) (mark : Option (Nat × Bool)) (f : State → State)
    (h : Keeps s0 s) (hf : ∀ y0, Keeps s0 y0 → Keeps s0 (f y0)) :
    Keeps s0 (State.fetchSlot s t mark f) := by
  with_reducible unfold State.fetchSlot; repeat' first
    | assumption | apply State.upd_keeps | apply State.ownSlot_keeps | apply State.corrected_keeps
    | apply State.settle_keeps | apply State.eccTrap_keeps | apply hf
    | (extract_lets +onlyGivenNames a; first | (refine Keeps.cut (s := a) ?_ (fun _ => ?_); subst a; rotate_left; clear_value a) | clear_value a)
    | split

theorem State.starts_keeps (t : TraderId) (w : Nat) (uses : Nat → List GReg) (body : Nat → State → State) (cost : Nat → Trader → Nat) (hold : Nat → State → Option Bool) (early : Nat → State → State) (take : State → State)
    (h : Keeps s0 s) (hbody : ∀ y0 y1, Keeps s0 y1 → Keeps s0 (body y0 y1)) (hearly : ∀ y0 y1, Keeps s0 y1 → Keeps s0 (early y0 y1)) (htake : ∀ y0, Keeps s0 y0 → Keeps s0 (take y0)) :
    Keeps s0 (State.starts s t w uses body cost hold early take) := by
  with_reducible unfold State.starts; repeat' first
    | assumption | apply State.endCheck_keeps | apply State.upd_keeps | apply State.unsched_keeps | apply hbody
    | apply hearly | apply htake
    | (extract_lets +onlyGivenNames a; first | (refine Keeps.cut (s := a) ?_ (fun _ => ?_); subst a; rotate_left; clear_value a) | (have e : a = a := funext fun _ => rfl; clear e; subst a; beta_reduce) | clear_value a)
    | split

theorem State.issueFirst_keeps (t : TraderId) (w : Nat) (mark : Option (Nat × Bool))
    (uses : Nat → List GReg) (body : Nat → State → State) (cost : Nat → Trader → Nat) (hold : Nat → State → Option Bool)
    (early : Nat → State → State) (h : Keeps s0 s) (hbody : ∀ w t, Keeps s0 t → Keeps s0 (body w t))
    (hearly : ∀ w t, Keeps s0 t → Keeps s0 (early w t)) :
    Keeps s0 (State.issueFirst s t w mark uses body cost hold early) :=
  State.fetchSlot_keeps t mark _ h
    (fun _ hu => State.starts_keeps t w uses body cost hold early _ hu hbody hearly (fun _ hv => State.took_keeps t w hv))

theorem State.issue_keeps (t : TraderId) (k : Nat) (uses : Nat → List GReg) (body : Nat → State → State) (cost : Nat → Trader → Nat) (hold : Nat → State → Option Bool) (early : Nat → State → State)
    (h : Keeps s0 s) (hbody : ∀ y0 y1, Keeps s0 y1 → Keeps s0 (body y0 y1)) (hearly : ∀ y0 y1, Keeps s0 y1 → Keeps s0 (early y0 y1)) :
    Keeps s0 (State.issue s t k uses body cost hold early) := by
  with_reducible unfold State.issue; repeat' first
    | assumption | intro _ | apply State.startMiss_keeps | apply State.upd_keeps | apply State.starts_keeps
    | apply State.issueFirst_keeps | apply State.ownSlot_keeps | apply State.issueOn_keeps | apply State.finishes_keeps
    | apply hbody | apply hearly
    | (extract_lets +onlyGivenNames a; first | (refine Keeps.cut (s := a) ?_ (fun _ => ?_); subst a; rotate_left; clear_value a) | clear_value a)
    | split

theorem State.simple_keeps (t : TraderId) (k : Nat) (uses : Nat → List GReg) (f : Nat → Trader → Trader)
    (h : Keeps s0 s) :
    Keeps s0 (State.simple s t k uses f) := by
  with_reducible unfold State.simple; repeat' first
    | assumption | intro _ | apply State.endCheck_keeps | apply State.upd_keeps | apply State.issue_keeps

theorem State.issueIllegal_keeps (t : TraderId) (p : Nat → Bool) (h : Keeps s0 s) :
    Keeps s0 (State.issueIllegal s t p) := by
  with_reducible unfold State.issueIllegal; repeat' first
    | assumption | intro _ | apply State.raiseTrap_keeps | apply State.fetchSlot_keeps | apply State.finishes_keeps
    | (extract_lets +onlyGivenNames a; first | (refine Keeps.cut (s := a) ?_ (fun _ => ?_); subst a; rotate_left; clear_value a) | clear_value a)
    | split

end Sys2Proof.Machine
end

