-- ==== Sys2Proof/Laws/KeepsAlu.lean ====
section
/-! SUPPORT. `Keeps` of the functions of Machine/Alu.lean: what none of them changes. -/

namespace Sys2Proof.Machine

variable {s0 s : State}

theorem dOp_keeps {s0 : State} (t : TraderId) (k : Nat) (f : Trader → Nat → Nat → Alu) {s : State} (h : Keeps s0 s) :
    Keeps s0 (dOp t k f s) := by
  with_reducible unfold dOp; repeat' first | assumption | apply State.simple_keeps

theorem dOp1_keeps {s0 : State} (t : TraderId) (k : Nat) (f : Nat → Alu) {s : State} (h : Keeps s0 s) :
    Keeps s0 (dOp1 t k f s) := by
  with_reducible unfold dOp1; repeat' first | assumption | apply State.simple_keeps

theorem dImm_keeps {s0 : State} (t : TraderId) (k : Nat) (f : Nat → Nat → Alu) {s : State} (h : Keeps s0 s) :
    Keeps s0 (dImm t k f s) := by
  with_reducible unfold dImm; repeat' first | assumption | apply State.simple_keeps

theorem accOp_keeps {s0 : State} (t : TraderId) (k : Nat) (f : Trader → Nat → Nat → Alu) {s : State} (h : Keeps s0 s) :
    Keeps s0 (accOp t k f s) := by
  with_reducible unfold accOp; repeat' first | assumption | apply State.simple_keeps

theorem cdOp_keeps {s0 : State} (t : TraderId) (k : Nat) (f : Nat → Nat → Alu) {s : State} (h : Keeps s0 s) :
    Keeps s0 (cdOp t k f s) := by
  with_reducible unfold cdOp; repeat' first | assumption | apply State.simple_keeps

theorem caOp_keeps {s0 : State} (t : TraderId) (k : Nat) (f : Nat → Nat → Alu) {s : State} (h : Keeps s0 s) :
    Keeps s0 (caOp t k f s) := by
  with_reducible unfold caOp; repeat' first | assumption | apply State.simple_keeps

theorem cImm_keeps {s0 : State} (t : TraderId) (k : Nat) (f : Nat → Nat → Alu) {s : State} (h : Keeps s0 s) :
    Keeps s0 (cImm t k f s) := by
  with_reducible unfold cImm; repeat' first | assumption | apply State.simple_keeps

theorem aOp_keeps {s0 : State} (t : TraderId) (k : Nat) (f : Trader → Nat → Nat → Alu) {s : State} (h : Keeps s0 s) :
    Keeps s0 (aOp t k f s) := by
  with_reducible unfold aOp; repeat' first | assumption | apply State.simple_keeps

theorem adOp_keeps {s0 : State} (t : TraderId) (k : Nat) (f : Nat → Nat → Alu) {s : State} (h : Keeps s0 s) :
    Keeps s0 (adOp t k f s) := by
  with_reducible unfold adOp; repeat' first | assumption | apply State.simple_keeps

theorem aImm_keeps {s0 : State} (t : TraderId) (k : Nat) (f : Nat → Nat → Alu) {s : State} (h : Keeps s0 s) :
    Keeps s0 (aImm t k f s) := by
  with_reducible unfold aImm; repeat' first | assumption | apply State.simple_keeps

theorem pOp_keeps {s0 : State} (t : TraderId) (k : Nat) (uses : Nat → List GReg) (f : Nat → Trader → Bool) {s : State}
    (h : Keeps s0 s) :
    Keeps s0 (pOp t k uses f s) := by
  with_reducible unfold pOp; repeat' first | assumption | apply State.simple_keeps

theorem mulOp_keeps {s0 : State} (t : TraderId) (k : Nat) (uses : Nat → List GReg) (f : Nat → Trader → Half × Half) {s : State}
    (h : Keeps s0 s) :
    Keeps s0 (mulOp t k uses f s) := by
  with_reducible unfold mulOp; repeat' first | assumption | apply State.simple_keeps

theorem execNop_keeps {s0 : State} (t : TraderId) {s : State} (h : Keeps s0 s) :
    KeepsOut s0 (execNop t s) := by
  with_reducible unfold execNop; repeat' first
    | assumption | apply KeepsOut.next | apply State.simple_keeps | apply State.issueIllegal_keeps

theorem execAdd_keeps {s0 : State} (t : TraderId) {s : State} (h : Keeps s0 s) :
    KeepsOut s0 (execAdd t s) := by
  with_reducible unfold execAdd; repeat' first | assumption | apply KeepsOut.next | apply dOp_keeps

theorem execAddc_keeps {s0 : State} (t : TraderId) {s : State} (h : Keeps s0 s) :
    KeepsOut s0 (execAddc t s) := by
  with_reducible unfold execAddc; repeat' first | assumption | apply KeepsOut.next | apply dOp_keeps

theorem execSub_keeps {s0 : State} (t : TraderId) {s : State} (h : Keeps s0 s) :
    KeepsOut s0 (execSub t s) := by
  with_reducible unfold execSub; repeat' first | assumption | apply KeepsOut.next | apply dOp_keeps

theorem execSubb_keeps {s0 : State} (t : TraderId) {s : State} (h : Keeps s0 s) :
    KeepsOut s0 (execSubb t s) := by
  with_reducible unfold execSubb; repeat' first | assumption | apply KeepsOut.next | apply dOp_keeps

theorem execAndD_keeps {s0 : State} (t : TraderId) {s : State} (h : Keeps s0 s) :
    KeepsOut s0 (execAndD t s) := by
  with_reducible unfold execAndD; repeat' first | assumption | apply KeepsOut.next | apply dOp_keeps

theorem execOrD_keeps {s0 : State} (t : TraderId) {s : State} (h : Keeps s0 s) :
    KeepsOut s0 (execOrD t s) := by
  with_reducible unfold execOrD; repeat' first | assumption | apply KeepsOut.next | apply dOp_keeps

theorem execXorD_keeps {s0 : State} (t : TraderId) {s : State} (h : Keeps s0 s) :
    KeepsOut s0 (execXorD t s) := by
  with_reducible unfold execXorD; repeat' first | assumption | apply KeepsOut.next | apply dOp_keeps

theorem execShl_keeps {s0 : State} (t : TraderId) {s : State} (h : Keeps s0 s) :
    KeepsOut s0 (execShl t s) := by
  with_reducible unfold execShl; repeat' first | assumption | apply KeepsOut.next | apply dOp_keeps

theorem execShr_keeps {s0 : State} (t : TraderId) {s : State} (h : Keeps s0 s) :
    KeepsOut s0 (execShr t s) := by
  with_reducible unfold execShr; repeat' first | assumption | apply KeepsOut.next | apply dOp_keeps

theorem execSar_keeps {s0 : State} (t : TraderId) {s : State} (h : Keeps s0 s) :
    KeepsOut s0 (execSar t s) := by
  with_reducible unfold execSar; repeat' first | assumption | apply KeepsOut.next | apply dOp_keeps

theorem execRol_keeps {s0 : State} (t : TraderId) {s : State} (h : Keeps s0 s) :
    KeepsOut s0 (execRol t s) := by
  with_reducible unfold execRol; repeat' first | assumption | apply KeepsOut.next | apply dOp_keeps

theorem execRor_keeps {s0 : State} (t : TraderId) {s : State} (h : Keeps s0 s) :
    KeepsOut s0 (execRor t s) := by
  with_reducible unfold execRor; repeat' first | assumption | apply KeepsOut.next | apply dOp_keeps

theorem execMinu_keeps {s0 : State} (t : TraderId) {s : State} (h : Keeps s0 s) :
    KeepsOut s0 (execMinu t s) := by
  with_reducible unfold execMinu; repeat' first | assumption | apply KeepsOut.next | apply dOp_keeps

theorem execMaxu_keeps {s0 : State} (t : TraderId) {s : State} (h : Keeps s0 s) :
    KeepsOut s0 (execMaxu t s) := by
  with_reducible unfold execMaxu; repeat' first | assumption | apply KeepsOut.next | apply dOp_keeps

theorem execNotD_keeps {s0 : State} (t : TraderId) {s : State} (h : Keeps s0 s) :
    KeepsOut s0 (execNotD t s) := by
  with_reducible unfold execNotD; repeat' first | assumption | apply KeepsOut.next | apply dOp1_keeps

theorem execNeg_keeps {s0 : State} (t : TraderId) {s : State} (h : Keeps s0 s) :
    KeepsOut s0 (execNeg t s) := by
  with_reducible unfold execNeg; repeat' first | assumption | apply KeepsOut.next | apply dOp1_keeps

theorem execRev_keeps {s0 : State} (t : TraderId) {s : State} (h : Keeps s0 s) :
    KeepsOut s0 (execRev t s) := by
  with_reducible unfold execRev; repeat' first | assumption | apply KeepsOut.next | apply dOp1_keeps

theorem execPopc_keeps {s0 : State} (t : TraderId) {s : State} (h : Keeps s0 s) :
    KeepsOut s0 (execPopc t s) := by
  with_reducible unfold execPopc; repeat' first | assumption | apply KeepsOut.next | apply dOp1_keeps

theorem execMov_keeps {s0 : State} (t : TraderId) {s : State} (h : Keeps s0 s) :
    KeepsOut s0 (execMov t s) := by
  with_reducible unfold execMov; repeat' first | assumption | apply KeepsOut.next | apply State.simple_keeps

theorem execAddi_keeps {s0 : State} (t : TraderId) {s : State} (h : Keeps s0 s) :
    KeepsOut s0 (execAddi t s) := by
  with_reducible unfold execAddi; repeat' first | assumption | apply KeepsOut.next | apply dImm_keeps

theorem execAndi_keeps {s0 : State} (t : TraderId) {s : State} (h : Keeps s0 s) :
    KeepsOut s0 (execAndi t s) := by
  with_reducible unfold execAndi; repeat' first | assumption | apply KeepsOut.next | apply dImm_keeps

theorem execOri_keeps {s0 : State} (t : TraderId) {s : State} (h : Keeps s0 s) :
    KeepsOut s0 (execOri t s) := by
  with_reducible unfold execOri; repeat' first | assumption | apply KeepsOut.next | apply dImm_keeps

theorem execXori_keeps {s0 : State} (t : TraderId) {s : State} (h : Keeps s0 s) :
    KeepsOut s0 (execXori t s) := by
  with_reducible unfold execXori; repeat' first | assumption | apply KeepsOut.next | apply dImm_keeps

theorem execShi_keeps {s0 : State} (t : TraderId) {s : State} (h : Keeps s0 s) :
    KeepsOut s0 (execShi t s) := by
  with_reducible unfold execShi; repeat' first | assumption | apply KeepsOut.next | apply dImm_keeps

theorem execMovi_keeps {s0 : State} (t : TraderId) {s : State} (h : Keeps s0 s) :
    KeepsOut s0 (execMovi t s) := by
  with_reducible unfold execMovi; repeat' first | assumption | apply KeepsOut.next | apply State.simple_keeps

theorem execCmp_keeps {s0 : State} (t : TraderId) {s : State} (h : Keeps s0 s) :
    KeepsOut s0 (execCmp t s) := by
  with_reducible unfold execCmp; repeat' first | assumption | apply KeepsOut.next | apply pOp_keeps

theorem execCmpi_keeps {s0 : State} (t : TraderId) {s : State} (h : Keeps s0 s) :
    KeepsOut s0 (execCmpi t s) := by
  with_reducible unfold execCmpi; repeat' first | assumption | apply KeepsOut.next | apply pOp_keeps

theorem execCmpac_keeps {s0 : State} (t : TraderId) {s : State} (h : Keeps s0 s) :
    KeepsOut s0 (execCmpac t s) := by
  with_reducible unfold execCmpac; repeat' first | assumption | apply KeepsOut.next | apply pOp_keeps

theorem execCmpa_keeps {s0 : State} (t : TraderId) {s : State} (h : Keeps s0 s) :
    KeepsOut s0 (execCmpa t s) := by
  with_reducible unfold execCmpa; repeat' first | assumption | apply KeepsOut.next | apply pOp_keeps

theorem execCmpai_keeps {s0 : State} (t : TraderId) {s : State} (h : Keeps s0 s) :
    KeepsOut s0 (execCmpai t s) := by
  with_reducible unfold execCmpai; repeat' first | assumption | apply KeepsOut.next | apply pOp_keeps

theorem execPand_keeps {s0 : State} (t : TraderId) {s : State} (h : Keeps s0 s) :
    KeepsOut s0 (execPand t s) := by
  with_reducible unfold execPand; repeat' first | assumption | apply KeepsOut.next | apply pOp_keeps

theorem execPor_keeps {s0 : State} (t : TraderId) {s : State} (h : Keeps s0 s) :
    KeepsOut s0 (execPor t s) := by
  with_reducible unfold execPor; repeat' first | assumption | apply KeepsOut.next | apply pOp_keeps

theorem execPxor_keeps {s0 : State} (t : TraderId) {s : State} (h : Keeps s0 s) :
    KeepsOut s0 (execPxor t s) := by
  with_reducible unfold execPxor; repeat' first | assumption | apply KeepsOut.next | apply pOp_keeps

theorem execPandn_keeps {s0 : State} (t : TraderId) {s : State} (h : Keeps s0 s) :
    KeepsOut s0 (execPandn t s) := by
  with_reducible unfold execPandn; repeat' first | assumption | apply KeepsOut.next | apply pOp_keeps

theorem execPnot_keeps {s0 : State} (t : TraderId) {s : State} (h : Keeps s0 s) :
    KeepsOut s0 (execPnot t s) := by
  with_reducible unfold execPnot; repeat' first | assumption | apply KeepsOut.next | apply pOp_keeps

theorem execPmov_keeps {s0 : State} (t : TraderId) {s : State} (h : Keeps s0 s) :
    KeepsOut s0 (execPmov t s) := by
  with_reducible unfold execPmov; repeat' first | assumption | apply KeepsOut.next | apply pOp_keeps

theorem execPset_keeps {s0 : State} (t : TraderId) {s : State} (h : Keeps s0 s) :
    KeepsOut s0 (execPset t s) := by
  with_reducible unfold execPset; repeat' first | assumption | apply KeepsOut.next | apply pOp_keeps

theorem execPclr_keeps {s0 : State} (t : TraderId) {s : State} (h : Keeps s0 s) :
    KeepsOut s0 (execPclr t s) := by
  with_reducible unfold execPclr; repeat' first | assumption | apply KeepsOut.next | apply pOp_keeps

theorem execPcnd_keeps {s0 : State} (t : TraderId) {s : State} (h : Keeps s0 s) :
    KeepsOut s0 (execPcnd t s) := by
  with_reducible unfold execPcnd; repeat' first | assumption | apply KeepsOut.next | apply pOp_keeps

theorem execBtst_keeps {s0 : State} (t : TraderId) {s : State} (h : Keeps s0 s) :
    KeepsOut s0 (execBtst t s) := by
  with_reducible unfold execBtst; repeat' first | assumption | apply KeepsOut.next | apply pOp_keeps

theorem execBset_keeps {s0 : State} (t : TraderId) {s : State} (h : Keeps s0 s) :
    KeepsOut s0 (execBset t s) := by
  with_reducible unfold execBset; repeat' first | assumption | apply KeepsOut.next | apply State.simple_keeps

theorem execBclr_keeps {s0 : State} (t : TraderId) {s : State} (h : Keeps s0 s) :
    KeepsOut s0 (execBclr t s) := by
  with_reducible unfold execBclr; repeat' first | assumption | apply KeepsOut.next | apply State.simple_keeps

theorem execBinv_keeps {s0 : State} (t : TraderId) {s : State} (h : Keeps s0 s) :
    KeepsOut s0 (execBinv t s) := by
  with_reducible unfold execBinv; repeat' first | assumption | apply KeepsOut.next | apply State.simple_keeps

theorem execAccAdd_keeps {s0 : State} (t : TraderId) {s : State} (h : Keeps s0 s) :
    KeepsOut s0 (execAccAdd t s) := by
  with_reducible unfold execAccAdd; repeat' first | assumption | apply KeepsOut.next | apply accOp_keeps

theorem execAccAddc_keeps {s0 : State} (t : TraderId) {s : State} (h : Keeps s0 s) :
    KeepsOut s0 (execAccAddc t s) := by
  with_reducible unfold execAccAddc; repeat' first | assumption | apply KeepsOut.next | apply accOp_keeps

theorem execAccSub_keeps {s0 : State} (t : TraderId) {s : State} (h : Keeps s0 s) :
    KeepsOut s0 (execAccSub t s) := by
  with_reducible unfold execAccSub; repeat' first | assumption | apply KeepsOut.next | apply accOp_keeps

theorem execAccSubb_keeps {s0 : State} (t : TraderId) {s : State} (h : Keeps s0 s) :
    KeepsOut s0 (execAccSubb t s) := by
  with_reducible unfold execAccSubb; repeat' first | assumption | apply KeepsOut.next | apply accOp_keeps

theorem execAccAnd_keeps {s0 : State} (t : TraderId) {s : State} (h : Keeps s0 s) :
    KeepsOut s0 (execAccAnd t s) := by
  with_reducible unfold execAccAnd; repeat' first | assumption | apply KeepsOut.next | apply accOp_keeps

theorem execAccOr_keeps {s0 : State} (t : TraderId) {s : State} (h : Keeps s0 s) :
    KeepsOut s0 (execAccOr t s) := by
  with_reducible unfold execAccOr; repeat' first | assumption | apply KeepsOut.next | apply accOp_keeps

theorem execAccXor_keeps {s0 : State} (t : TraderId) {s : State} (h : Keeps s0 s) :
    KeepsOut s0 (execAccXor t s) := by
  with_reducible unfold execAccXor; repeat' first | assumption | apply KeepsOut.next | apply accOp_keeps

theorem execAccAddd_keeps {s0 : State} (t : TraderId) {s : State} (h : Keeps s0 s) :
    KeepsOut s0 (execAccAddd t s) := by
  with_reducible unfold execAccAddd; repeat' first | assumption | apply KeepsOut.next | apply cdOp_keeps

theorem execAdda_keeps {s0 : State} (t : TraderId) {s : State} (h : Keeps s0 s) :
    KeepsOut s0 (execAdda t s) := by
  with_reducible unfold execAdda; repeat' first | assumption | apply KeepsOut.next | apply caOp_keeps

theorem execAddas_keeps {s0 : State} (t : TraderId) {s : State} (h : Keeps s0 s) :
    KeepsOut s0 (execAddas t s) := by
  with_reducible unfold execAddas; repeat' first | assumption | apply KeepsOut.next | apply caOp_keeps

theorem execFold_keeps {s0 : State} (t : TraderId) {s : State} (h : Keeps s0 s) :
    KeepsOut s0 (execFold t s) := by
  with_reducible unfold execFold; repeat' first | assumption | apply KeepsOut.next | apply cImm_keeps

theorem execAccMov_keeps {s0 : State} (t : TraderId) {s : State} (h : Keeps s0 s) :
    KeepsOut s0 (execAccMov t s) := by
  with_reducible unfold execAccMov; repeat' first | assumption | apply KeepsOut.next | apply State.simple_keeps

theorem execAccShl_keeps {s0 : State} (t : TraderId) {s : State} (h : Keeps s0 s) :
    KeepsOut s0 (execAccShl t s) := by
  with_reducible unfold execAccShl; repeat' first | assumption | apply KeepsOut.next | apply cdOp_keeps

theorem execAccShr_keeps {s0 : State} (t : TraderId) {s : State} (h : Keeps s0 s) :
    KeepsOut s0 (execAccShr t s) := by
  with_reducible unfold execAccShr; repeat' first | assumption | apply KeepsOut.next | apply cdOp_keeps

theorem execAccSar_keeps {s0 : State} (t : TraderId) {s : State} (h : Keeps s0 s) :
    KeepsOut s0 (execAccSar t s) := by
  with_reducible unfold execAccSar; repeat' first | assumption | apply KeepsOut.next | apply cdOp_keeps

theorem execInsd_keeps {s0 : State} (t : TraderId) {s : State} (h : Keeps s0 s) :
    KeepsOut s0 (execInsd t s) := by
  with_reducible unfold execInsd; repeat' first | assumption | apply KeepsOut.next | apply State.simple_keeps

theorem execInsa_keeps {s0 : State} (t : TraderId) {s : State} (h : Keeps s0 s) :
    KeepsOut s0 (execInsa t s) := by
  with_reducible unfold execInsa; repeat' first | assumption | apply KeepsOut.next | apply State.simple_keeps

theorem execExtd_keeps {s0 : State} (t : TraderId) {s : State} (h : Keeps s0 s) :
    KeepsOut s0 (execExtd t s) := by
  with_reducible unfold execExtd; repeat' first | assumption | apply KeepsOut.next | apply State.simple_keeps

theorem execExta_keeps {s0 : State} (t : TraderId) {s : State} (h : Keeps s0 s) :
    KeepsOut s0 (execExta t s) := by
  with_reducible unfold execExta; repeat' first | assumption | apply KeepsOut.next | apply State.simple_keeps

theorem execExtah_keeps {s0 : State} (t : TraderId) {s : State} (h : Keeps s0 s) :
    KeepsOut s0 (execExtah t s) := by
  with_reducible unfold execExtah; repeat' first | assumption | apply KeepsOut.next | apply State.simple_keeps

theorem execAci_keeps {s0 : State} (t : TraderId) {s : State} (h : Keeps s0 s) :
    KeepsOut s0 (execAci t s) := by
  with_reducible unfold execAci; repeat' first | assumption | apply KeepsOut.next | apply cImm_keeps

theorem execAcsh_keeps {s0 : State} (t : TraderId) {s : State} (h : Keeps s0 s) :
    KeepsOut s0 (execAcsh t s) := by
  with_reducible unfold execAcsh; repeat' first | assumption | apply KeepsOut.next | apply cImm_keeps

theorem execAcli_keeps {s0 : State} (t : TraderId) {s : State} (h : Keeps s0 s) :
    KeepsOut s0 (execAcli t s) := by
  with_reducible unfold execAcli; repeat' first | assumption | apply KeepsOut.next | apply State.simple_keeps

theorem execAchi_keeps {s0 : State} (t : TraderId) {s : State} (h : Keeps s0 s) :
    KeepsOut s0 (execAchi t s) := by
  with_reducible unfold execAchi; repeat' first | assumption | apply KeepsOut.next | apply State.simple_keeps

theorem execAdrAdd_keeps {s0 : State} (t : TraderId) {s : State} (h : Keeps s0 s) :
    KeepsOut s0 (execAdrAdd t s) := by
  with_reducible unfold execAdrAdd; repeat' first | assumption | apply KeepsOut.next | apply aOp_keeps

theorem execAdrSub_keeps {s0 : State} (t : TraderId) {s : State} (h : Keeps s0 s) :
    KeepsOut s0 (execAdrSub t s) := by
  with_reducible unfold execAdrSub; repeat' first | assumption | apply KeepsOut.next | apply aOp_keeps

theorem execAdrAddc_keeps {s0 : State} (t : TraderId) {s : State} (h : Keeps s0 s) :
    KeepsOut s0 (execAdrAddc t s) := by
  with_reducible unfold execAdrAddc; repeat' first | assumption | apply KeepsOut.next | apply aOp_keeps

theorem execAdrSubb_keeps {s0 : State} (t : TraderId) {s : State} (h : Keeps s0 s) :
    KeepsOut s0 (execAdrSubb t s) := by
  with_reducible unfold execAdrSubb; repeat' first | assumption | apply KeepsOut.next | apply aOp_keeps

theorem execAdrAnd_keeps {s0 : State} (t : TraderId) {s : State} (h : Keeps s0 s) :
    KeepsOut s0 (execAdrAnd t s) := by
  with_reducible unfold execAdrAnd; repeat' first | assumption | apply KeepsOut.next | apply aOp_keeps

theorem execAdrOr_keeps {s0 : State} (t : TraderId) {s : State} (h : Keeps s0 s) :
    KeepsOut s0 (execAdrOr t s) := by
  with_reducible unfold execAdrOr; repeat' first | assumption | apply KeepsOut.next | apply aOp_keeps

theorem execAdrXor_keeps {s0 : State} (t : TraderId) {s : State} (h : Keeps s0 s) :
    KeepsOut s0 (execAdrXor t s) := by
  with_reducible unfold execAdrXor; repeat' first | assumption | apply KeepsOut.next | apply aOp_keeps

theorem execAdrMov_keeps {s0 : State} (t : TraderId) {s : State} (h : Keeps s0 s) :
    KeepsOut s0 (execAdrMov t s) := by
  with_reducible unfold execAdrMov; repeat' first | assumption | apply KeepsOut.next | apply State.simple_keeps

theorem execAdrShl_keeps {s0 : State} (t : TraderId) {s : State} (h : Keeps s0 s) :
    KeepsOut s0 (execAdrShl t s) := by
  with_reducible unfold execAdrShl; repeat' first | assumption | apply KeepsOut.next | apply adOp_keeps

theorem execAdrShr_keeps {s0 : State} (t : TraderId) {s : State} (h : Keeps s0 s) :
    KeepsOut s0 (execAdrShr t s) := by
  with_reducible unfold execAdrShr; repeat' first | assumption | apply KeepsOut.next | apply adOp_keeps

theorem execAdrSar_keeps {s0 : State} (t : TraderId) {s : State} (h : Keeps s0 s) :
    KeepsOut s0 (execAdrSar t s) := by
  with_reducible unfold execAdrSar; repeat' first | assumption | apply KeepsOut.next | apply adOp_keeps

theorem execAdrAddd_keeps {s0 : State} (t : TraderId) {s : State} (h : Keeps s0 s) :
    KeepsOut s0 (execAdrAddd t s) := by
  with_reducible unfold execAdrAddd; repeat' first | assumption | apply KeepsOut.next | apply adOp_keeps

theorem execMovdl_keeps {s0 : State} (t : TraderId) {s : State} (h : Keeps s0 s) :
    KeepsOut s0 (execMovdl t s) := by
  with_reducible unfold execMovdl; repeat' first | assumption | apply KeepsOut.next | apply State.simple_keeps

theorem execMovdh_keeps {s0 : State} (t : TraderId) {s : State} (h : Keeps s0 s) :
    KeepsOut s0 (execMovdh t s) := by
  with_reducible unfold execMovdh; repeat' first | assumption | apply KeepsOut.next | apply State.simple_keeps

theorem execMovld_keeps {s0 : State} (t : TraderId) {s : State} (h : Keeps s0 s) :
    KeepsOut s0 (execMovld t s) := by
  with_reducible unfold execMovld; repeat' first | assumption | apply KeepsOut.next | apply State.simple_keeps

theorem execMovhd_keeps {s0 : State} (t : TraderId) {s : State} (h : Keeps s0 s) :
    KeepsOut s0 (execMovhd t s) := by
  with_reducible unfold execMovhd; repeat' first | assumption | apply KeepsOut.next | apply State.simple_keeps

theorem execAddai_keeps {s0 : State} (t : TraderId) {s : State} (h : Keeps s0 s) :
    KeepsOut s0 (execAddai t s) := by
  with_reducible unfold execAddai; repeat' first | assumption | apply KeepsOut.next | apply aImm_keeps

theorem execMovai_keeps {s0 : State} (t : TraderId) {s : State} (h : Keeps s0 s) :
    KeepsOut s0 (execMovai t s) := by
  with_reducible unfold execMovai; repeat' first | assumption | apply KeepsOut.next | apply State.simple_keeps

theorem execShai_keeps {s0 : State} (t : TraderId) {s : State} (h : Keeps s0 s) :
    KeepsOut s0 (execShai t s) := by
  with_reducible unfold execShai; repeat' first | assumption | apply KeepsOut.next | apply aImm_keeps

theorem execMulu_keeps {s0 : State} (t : TraderId) {s : State} (h : Keeps s0 s) :
    KeepsOut s0 (execMulu t s) := by
  with_reducible unfold execMulu; repeat' first | assumption | apply KeepsOut.next | apply mulOp_keeps

theorem execMuls_keeps {s0 : State} (t : TraderId) {s : State} (h : Keeps s0 s) :
    KeepsOut s0 (execMuls t s) := by
  with_reducible unfold execMuls; repeat' first | assumption | apply KeepsOut.next | apply mulOp_keeps

theorem execMulua_keeps {s0 : State} (t : TraderId) {s : State} (h : Keeps s0 s) :
    KeepsOut s0 (execMulua t s) := by
  with_reducible unfold execMulua; repeat' first | assumption | apply KeepsOut.next | apply mulOp_keeps

theorem execMulsa_keeps {s0 : State} (t : TraderId) {s : State} (h : Keeps s0 s) :
    KeepsOut s0 (execMulsa t s) := by
  with_reducible unfold execMulsa; repeat' first | assumption | apply KeepsOut.next | apply mulOp_keeps

end Sys2Proof.Machine
end

