-- ==== Sys2Proof/Laws/KeepsControl.lean ====
section
/-! SUPPORT. `Keeps` of the functions of Machine/Control.lean: what none of them changes. -/

namespace Sys2Proof.Machine

variable {s0 s : State}

theorem State.goto_keeps (t : TraderId) (pc : Nat) (h : Keeps s0 s) :
    Keeps s0 (State.goto s t pc) := by
  with_reducible unfold State.goto; repeat' first | assumption | apply State.upd_keeps

theorem execJmp_keeps {s0 : State} (t : TraderId) {s : State} (h : Keeps s0 s) :
    KeepsOut s0 (execJmp t s) := by
  with_reducible unfold execJmp; repeat' first
    | assumption | apply KeepsOut.next | intro _ | apply State.issue_keeps | apply State.goto_keeps

theorem execBra_keeps {s0 : State} (t : TraderId) {s : State} (h : Keeps s0 s) :
    KeepsOut s0 (execBra t s) := by
  with_reducible unfold execBra; repeat' first
    | assumption | apply KeepsOut.next | intro _ | apply State.issue_keeps | apply State.goto_keeps

theorem execJmpi_keeps {s0 : State} (t : TraderId) {s : State} (h : Keeps s0 s) :
    KeepsOut s0 (execJmpi t s) := by
  with_reducible unfold execJmpi; repeat' first
    | assumption | apply KeepsOut.next | intro _ | apply State.issue_keeps | apply State.goto_keeps

theorem execLoop_keeps {s0 : State} (t : TraderId) {s : State} (h : Keeps s0 s) :
    KeepsOut s0 (execLoop t s) := by
  with_reducible unfold execLoop; repeat' first
    | assumption | apply KeepsOut.next | intro _ | apply State.upd_keeps | apply State.issue_keeps

theorem execLoopr_keeps {s0 : State} (t : TraderId) {s : State} (h : Keeps s0 s) :
    KeepsOut s0 (execLoopr t s) := by
  with_reducible unfold execLoopr; repeat' first
    | assumption | apply KeepsOut.next | intro _ | apply State.upd_keeps | apply State.issue_keeps

theorem State.endWait_keeps (t : TraderId) (h : Keeps s0 s) :
    Keeps s0 (State.endWait s t) := by
  with_reducible unfold State.endWait; repeat' first
    | assumption | apply State.syncPoint_keeps | apply State.endCheck_keeps | apply State.upd_keeps

theorem State.beginWait_keeps (t : TraderId) (w : Wait) (holds : Bool) (h : Keeps s0 s) :
    Keeps s0 (State.beginWait s t w holds) := by
  with_reducible unfold State.beginWait; repeat' first
    | assumption | apply State.upd_keeps | apply State.endWait_keeps | split

theorem State.waitOperand_keeps (t : TraderId) (w : Nat) (f : Nat → State → State)
    (h : Keeps s0 s) (hf : ∀ y0 y1, Keeps s0 y1 → Keeps s0 (f y0 y1)) :
    Keeps s0 (State.waitOperand s t w f) := by
  with_reducible unfold State.waitOperand; repeat' first
    | assumption | intro _ | apply State.raiseTrap_keeps | apply State.settle_keeps | apply State.ramRead_keeps
    | apply hf | (extract_lets +onlyGivenNames a; clear_value a) | split

theorem execWfe_keeps {s0 : State} (t : TraderId) {s : State} (h : Keeps s0 s) :
    KeepsOut s0 (execWfe t s) := by
  with_reducible unfold execWfe; repeat' first
    | assumption | apply KeepsOut.next | intro _ | apply State.issue_keeps | apply State.beginWait_keeps

theorem execWfb_keeps {s0 : State} (t : TraderId) {s : State} (h : Keeps s0 s) :
    KeepsOut s0 (execWfb t s) := by
  with_reducible unfold execWfb; repeat' first
    | assumption | apply KeepsOut.next | intro _ | apply State.upd_keeps | apply State.issue_keeps
    | apply State.endWait_keeps
    | (extract_lets +onlyGivenNames a; first | (refine Keeps.cut (s := a) ?_ (fun _ => ?_); subst a; rotate_left; clear_value a) | clear_value a)
    | split

theorem execWtu_keeps {s0 : State} (t : TraderId) {s : State} (h : Keeps s0 s) :
    KeepsOut s0 (execWtu t s) := by
  with_reducible unfold execWtu; repeat' first
    | assumption | apply KeepsOut.next | intro _ | apply State.waitOperand_keeps | apply State.issue_keeps
    | apply State.beginWait_keeps

theorem execWtur_keeps {s0 : State} (t : TraderId) {s : State} (h : Keeps s0 s) :
    KeepsOut s0 (execWtur t s) := by
  with_reducible unfold execWtur; repeat' first
    | assumption | apply KeepsOut.next | intro _ | apply State.issue_keeps | apply State.beginWait_keeps

theorem execWpu_keeps {s0 : State} (t : TraderId) {s : State} (h : Keeps s0 s) :
    KeepsOut s0 (execWpu t s) := by
  with_reducible unfold execWpu; repeat' first
    | assumption | apply KeepsOut.next | intro _ | apply State.waitOperand_keeps | apply State.issue_keeps
    | apply State.beginWait_keeps

theorem execWfeEnd_keeps {s0 : State} (t : TraderId) {s : State} (h : Keeps s0 s) :
    KeepsOut s0 (execWfeEnd t s) := by
  with_reducible unfold execWfeEnd; repeat' first
    | assumption | apply KeepsOut.next | apply State.endWait_keeps | split

theorem execWfbEnd_keeps {s0 : State} (t : TraderId) {s : State} (h : Keeps s0 s) :
    KeepsOut s0 (execWfbEnd t s) := by
  with_reducible unfold execWfbEnd; repeat' first
    | assumption | apply KeepsOut.next | apply State.upd_keeps | apply State.endWait_keeps | split

theorem execWtuEnd_keeps {s0 : State} (t : TraderId) {s : State} (h : Keeps s0 s) :
    KeepsOut s0 (execWtuEnd t s) := by
  with_reducible unfold execWtuEnd; repeat' first
    | assumption | apply KeepsOut.next | apply State.endWait_keeps | split

theorem execWpuEnd_keeps {s0 : State} (t : TraderId) {s : State} (h : Keeps s0 s) :
    KeepsOut s0 (execWpuEnd t s) := by
  with_reducible unfold execWpuEnd; repeat' first
    | assumption | apply KeepsOut.next | apply State.endWait_keeps | split

theorem execSev_keeps {s0 : State} (t : TraderId) {s : State} (h : Keeps s0 s) :
    KeepsOut s0 (execSev t s) := by
  with_reducible unfold execSev; repeat' first
    | assumption | apply KeepsOut.next | intro _ | apply State.ringDev_keeps | apply State.endCheck_keeps
    | apply State.issue_keeps | apply State.ringHall_keeps | (extract_lets +onlyGivenNames a; clear_value a) | split

theorem execMovs_keeps {s0 : State} (t : TraderId) {s : State} (h : Keeps s0 s) :
    KeepsOut s0 (execMovs t s) := by
  with_reducible unfold execMovs; repeat' first
    | assumption | apply KeepsOut.next | apply State.simple_keeps | apply State.issueIllegal_keeps

theorem execDrain_keeps {s0 : State} (t : TraderId) {s : State} (h : Keeps s0 s) :
    KeepsOut s0 (execDrain t s) := by
  with_reducible unfold execDrain; repeat' first
    | assumption | apply KeepsOut.next | intro _ | apply State.endCheck_keeps | apply State.upd_keeps
    | apply State.issue_keeps | apply State.ownSlot_keeps | apply State.unsched_keeps | split

theorem execSetbnk_keeps {s0 : State} (t : TraderId) {s : State} (h : Keeps s0 s) :
    KeepsOut s0 (execSetbnk t s) := by
  with_reducible unfold execSetbnk; repeat' first | assumption | apply KeepsOut.next | apply State.simple_keeps

theorem execSetbnkr_keeps {s0 : State} (t : TraderId) {s : State} (h : Keeps s0 s) :
    KeepsOut s0 (execSetbnkr t s) := by
  with_reducible unfold execSetbnkr; repeat' first | assumption | apply KeepsOut.next | apply State.simple_keeps

theorem execSethbk_keeps {s0 : State} (t : TraderId) {s : State} (h : Keeps s0 s) :
    KeepsOut s0 (execSethbk t s) := by
  with_reducible unfold execSethbk; repeat' first | assumption | apply KeepsOut.next | apply State.simple_keeps

theorem execSethbkr_keeps {s0 : State} (t : TraderId) {s : State} (h : Keeps s0 s) :
    KeepsOut s0 (execSethbkr t s) := by
  with_reducible unfold execSethbkr; repeat' first | assumption | apply KeepsOut.next | apply State.simple_keeps

theorem execSethost_keeps {s0 : State} (t : TraderId) {s : State} (h : Keeps s0 s) :
    KeepsOut s0 (execSethost t s) := by
  with_reducible unfold execSethost; repeat' first | assumption | apply KeepsOut.next | apply State.simple_keeps

theorem State.trapAfter_keeps (t : TraderId) (src detail w : Nat) (h : Keeps s0 s) :
    Keeps s0 (State.trapAfter s t src detail w) := by
  with_reducible unfold State.trapAfter; repeat' first
    | assumption | apply State.endCheck_keeps | apply State.raiseTrap_keeps

theorem execTrap_keeps {s0 : State} (t : TraderId) {s : State} (h : Keeps s0 s) :
    KeepsOut s0 (execTrap t s) := by
  with_reducible unfold execTrap; repeat' first
    | assumption | apply KeepsOut.next | intro _ | apply State.trapAfter_keeps | apply State.issue_keeps

theorem execStop_keeps {s0 : State} (t : TraderId) {s : State} (h : Keeps s0 s) :
    KeepsOut s0 (execStop t s) := by
  with_reducible unfold execStop; repeat' first | assumption | apply KeepsOut.next | apply State.simple_keeps

theorem execBrk_keeps {s0 : State} (t : TraderId) {s : State} (h : Keeps s0 s) :
    KeepsOut s0 (execBrk t s) := by
  with_reducible unfold execBrk; repeat' first | assumption | apply KeepsOut.next | apply State.simple_keeps

theorem execSync_keeps {s0 : State} (t : TraderId) {s : State} (h : Keeps s0 s) :
    KeepsOut s0 (execSync t s) := by
  with_reducible unfold execSync; repeat' first
    | assumption | apply KeepsOut.next | intro _ | apply State.endCheck_keeps | apply State.upd_keeps
    | apply State.issue_keeps

theorem State.reteBody_keeps {s0 : State} (t : TraderId) (_w : Nat) {s : State} (h : Keeps s0 s) :
    Keeps s0 (State.reteBody t _w s) := by
  with_reducible unfold State.reteBody; repeat' first
    | assumption | apply State.upd_keeps | apply State.set_keeps | apply State.goto_keeps
    | (extract_lets +onlyGivenNames a; clear_value a) | split

theorem execRete_keeps {s0 : State} (t : TraderId) {s : State} (h : Keeps s0 s) :
    KeepsOut s0 (execRete t s) := by
  with_reducible unfold execRete; repeat' first
    | assumption | apply KeepsOut.next | intro _ | apply State.exitX1_keeps | apply State.issue_keeps
    | apply State.reteBody_keeps | apply State.exitX2_keeps | split

theorem State.idleTo_keeps (t : TraderId) (due : Nat) (h : Keeps s0 s) :
    Keeps s0 (State.idleTo s t due) := by
  with_reducible unfold State.idleTo; repeat' first
    | assumption | intro _ | apply State.takeSlot_keeps | apply iter_keeps | split

theorem execMulProductLand_keeps {s0 : State} (t : TraderId) {s : State} (h : Keeps s0 s) :
    KeepsOut s0 (execMulProductLand t s) := by
  with_reducible unfold execMulProductLand; repeat' first
    | assumption | apply KeepsOut.next | apply State.upd_keeps | apply State.idleTo_keeps
    | (extract_lets +onlyGivenNames a; first | (refine Keeps.cut (s := a) ?_ (fun _ => ?_); subst a; rotate_left; clear_value a) | clear_value a)
    | split

theorem execScaleResultLand_keeps {s0 : State} (t : TraderId) {s : State} (h : Keeps s0 s) :
    KeepsOut s0 (execScaleResultLand t s) := by
  with_reducible unfold execScaleResultLand; repeat' first
    | assumption | apply KeepsOut.next | apply State.upd_keeps | apply State.scClean_keeps | apply State.wr_keeps
    | apply State.idleTo_keeps
    | (extract_lets +onlyGivenNames a; first | (refine Keeps.cut (s := a) ?_ (fun _ => ?_); subst a; rotate_left; clear_value a) | clear_value a)
    | split

theorem State.romEvent_keeps (t : TraderId) (h : Keeps s0 s) :
    Keeps s0 (State.romEvent s t) := by
  with_reducible unfold State.romEvent; repeat' first
    | assumption | apply State.upd_keeps | apply State.clrIn_keeps | apply State.stopPlain_keeps | split

theorem State.takeEvent_keeps (t : TraderId) (src : Nat) (c : EntryCtx) (h : Keeps s0 s) :
    Keeps s0 (State.takeEvent s t src c) := by
  with_reducible unfold State.takeEvent; repeat' first | assumption | apply State.enterE1_keeps

theorem State.sample_keeps (t : TraderId) (h : Keeps s0 s) :
    Keeps s0 (State.sample s t) := by
  with_reducible unfold State.sample; repeat' first
    | assumption | apply State.takeEvent_keeps | apply State.enterE2_keeps | apply State.takeTrap_keeps
    | apply State.endWait_keeps
    | (extract_lets +onlyGivenNames a; first | (refine Keeps.cut (s := a) ?_ (fun _ => ?_); subst a; rotate_left; clear_value a) | clear_value a)
    | split

theorem execEventEntry_keeps {s0 : State} (t : TraderId) {s : State} (h : Keeps s0 s) :
    KeepsOut s0 (execEventEntry t s) := by
  with_reducible unfold execEventEntry; repeat' first
    | assumption | apply KeepsOut.next | apply State.sample_keeps | apply State.romEvent_keeps
    | apply State.settle_keeps | apply State.enterE2_keeps | (extract_lets +onlyGivenNames a; clear_value a) | split

theorem execBudgetOverrun_keeps {s0 : State} (t : TraderId) {s : State} (h : Keeps s0 s) :
    KeepsOut s0 (execBudgetOverrun t s) := by
  with_reducible unfold execBudgetOverrun; repeat' first
    | assumption | apply KeepsOut.next | apply State.occur_keeps | apply State.upd_keeps | apply State.orIn_keeps
    | (extract_lets +onlyGivenNames a; first | (refine Keeps.cut (s := a) ?_ (fun _ => ?_); subst a; rotate_left; clear_value a) | clear_value a)
    | split

theorem State.evKick_keeps (x2 n mask : Nat) (h : Keeps s0 s) :
    Keeps s0 (State.evKick s x2 n mask) := by
  with_reducible unfold State.evKick; repeat' first
    | assumption | intro _ | apply State.occur_keeps | apply forAll_keeps

theorem State.evPendSet_keeps (t : TraderId) (mask : Nat) (h : Keeps s0 s) :
    Keeps s0 (State.evPendSet s t mask) := by
  with_reducible unfold State.evPendSet; repeat' first
    | assumption | intro _ | apply State.occur_keeps | apply State.noteSw_keeps | apply forAll_keeps

theorem State.recNote_keeps (t : TraderId) (n : Nat) (h : Keeps s0 s) :
    Keeps s0 (State.recNote s t n) := by
  with_reducible unfold State.recNote; repeat' first | assumption | apply State.upd_keeps

theorem State.erWrite_keeps (by_ : Accessor) (t : TraderId) (n word v : Nat) (h : Keeps s0 s) :
    Keeps s0 (State.erWrite s by_ t n word v) := by
  with_reducible unfold State.erWrite; repeat' first
    | assumption | apply State.wr_keeps | apply State.put_keeps | apply State.recNote_keeps
    | (extract_lets +onlyGivenNames a; first | (refine Keeps.cut (s := a) ?_ (fun _ => ?_); subst a; rotate_left; clear_value a) | clear_value a)
    | split

theorem execEvKick_keeps {s0 : State} (by_ : Accessor) (x2 n : Nat) (mask : Half) {s : State} (h : Keeps s0 s) :
    KeepsOut s0 (execEvKick by_ x2 n mask s) := by
  with_reducible unfold execEvKick; repeat' first
    | assumption | apply KeepsOut.next | intro _ | apply State.evKick_keeps | apply State.byPort_keeps | split

theorem execEvPendSet_keeps {s0 : State} (by_ : Accessor) (t : TraderId) (mask : Nat) {s : State} (h : Keeps s0 s) :
    KeepsOut s0 (execEvPendSet by_ t mask s) := by
  with_reducible unfold execEvPendSet; repeat' first
    | assumption | apply KeepsOut.next | intro _ | apply State.byPort_keeps | apply State.evPendSet_keeps | split

theorem execErRecordWrite_keeps {s0 : State} (by_ : Accessor) (t : TraderId) (n word : Nat) (v : Word) {s : State}
    (h : Keeps s0 s) :
    KeepsOut s0 (execErRecordWrite by_ t n word v s) := by
  with_reducible unfold execErRecordWrite; repeat' first
    | assumption | apply KeepsOut.next | intro _ | apply State.erWrite_keeps | apply State.byPort_keeps | split

end Sys2Proof.Machine
end

