-- ==== Sys2Proof/Laws/KeepsScale.lean ====
section
/-! SUPPORT. `Keeps` of the functions of Machine/Scale.lean: what none of them changes. -/

namespace Sys2Proof.Machine

variable {s0 s : State}

theorem State.scale_keeps (t : TraderId) (op : Nat) (uses : Nat → List GReg) (body : Nat → Trader → Trader)
    (h : Keeps s0 s) :
    Keeps s0 (State.scale s t op uses body) := by
  with_reducible unfold State.scale; repeat' first
    | assumption | intro _ | apply State.trapAfter_keeps | apply State.endCheck_keeps | apply State.upd_keeps
    | apply State.issue_keeps | apply State.scRead_keeps | split

theorem execSnop_keeps {s0 : State} (t : TraderId) {s : State} (h : Keeps s0 s) :
    KeepsOut s0 (execSnop t s) := by
  with_reducible unfold execSnop; repeat' first | assumption | apply KeepsOut.next | apply State.scale_keeps

theorem execFadd_keeps {s0 : State} (t : TraderId) {s : State} (h : Keeps s0 s) :
    KeepsOut s0 (execFadd t s) := by
  with_reducible unfold execFadd; repeat' first | assumption | apply KeepsOut.next | apply State.scale_keeps

theorem execFsub_keeps {s0 : State} (t : TraderId) {s : State} (h : Keeps s0 s) :
    KeepsOut s0 (execFsub t s) := by
  with_reducible unfold execFsub; repeat' first | assumption | apply KeepsOut.next | apply State.scale_keeps

theorem execFmul_keeps {s0 : State} (t : TraderId) {s : State} (h : Keeps s0 s) :
    KeepsOut s0 (execFmul t s) := by
  with_reducible unfold execFmul; repeat' first | assumption | apply KeepsOut.next | apply State.scale_keeps

theorem execFmac_keeps {s0 : State} (t : TraderId) {s : State} (h : Keeps s0 s) :
    KeepsOut s0 (execFmac t s) := by
  with_reducible unfold execFmac; repeat' first | assumption | apply KeepsOut.next | apply State.scale_keeps

theorem execFdiv_keeps {s0 : State} (t : TraderId) {s : State} (h : Keeps s0 s) :
    KeepsOut s0 (execFdiv t s) := by
  with_reducible unfold execFdiv; repeat' first | assumption | apply KeepsOut.next | apply State.scale_keeps

theorem execFsqrt_keeps {s0 : State} (t : TraderId) {s : State} (h : Keeps s0 s) :
    KeepsOut s0 (execFsqrt t s) := by
  with_reducible unfold execFsqrt; repeat' first | assumption | apply KeepsOut.next | apply State.scale_keeps

theorem execFcmp_keeps {s0 : State} (t : TraderId) {s : State} (h : Keeps s0 s) :
    KeepsOut s0 (execFcmp t s) := by
  with_reducible unfold execFcmp; repeat' first | assumption | apply KeepsOut.next | apply State.scale_keeps

theorem execXadd_keeps {s0 : State} (t : TraderId) {s : State} (h : Keeps s0 s) :
    KeepsOut s0 (execXadd t s) := by
  with_reducible unfold execXadd; repeat' first | assumption | apply KeepsOut.next | apply State.scale_keeps

theorem execXsub_keeps {s0 : State} (t : TraderId) {s : State} (h : Keeps s0 s) :
    KeepsOut s0 (execXsub t s) := by
  with_reducible unfold execXsub; repeat' first | assumption | apply KeepsOut.next | apply State.scale_keeps

theorem execXmul_keeps {s0 : State} (t : TraderId) {s : State} (h : Keeps s0 s) :
    KeepsOut s0 (execXmul t s) := by
  with_reducible unfold execXmul; repeat' first | assumption | apply KeepsOut.next | apply State.scale_keeps

theorem execXmac_keeps {s0 : State} (t : TraderId) {s : State} (h : Keeps s0 s) :
    KeepsOut s0 (execXmac t s) := by
  with_reducible unfold execXmac; repeat' first | assumption | apply KeepsOut.next | apply State.scale_keeps

theorem execXdiv_keeps {s0 : State} (t : TraderId) {s : State} (h : Keeps s0 s) :
    KeepsOut s0 (execXdiv t s) := by
  with_reducible unfold execXdiv; repeat' first | assumption | apply KeepsOut.next | apply State.scale_keeps

theorem execXshl_keeps {s0 : State} (t : TraderId) {s : State} (h : Keeps s0 s) :
    KeepsOut s0 (execXshl t s) := by
  with_reducible unfold execXshl; repeat' first | assumption | apply KeepsOut.next | apply State.scale_keeps

theorem execXsar_keeps {s0 : State} (t : TraderId) {s : State} (h : Keeps s0 s) :
    KeepsOut s0 (execXsar t s) := by
  with_reducible unfold execXsar; repeat' first | assumption | apply KeepsOut.next | apply State.scale_keeps

theorem execXcmp_keeps {s0 : State} (t : TraderId) {s : State} (h : Keeps s0 s) :
    KeepsOut s0 (execXcmp t s) := by
  with_reducible unfold execXcmp; repeat' first | assumption | apply KeepsOut.next | apply State.scale_keeps

theorem execFtox_keeps {s0 : State} (t : TraderId) {s : State} (h : Keeps s0 s) :
    KeepsOut s0 (execFtox t s) := by
  with_reducible unfold execFtox; repeat' first | assumption | apply KeepsOut.next | apply State.scale_keeps

theorem execXtof_keeps {s0 : State} (t : TraderId) {s : State} (h : Keeps s0 s) :
    KeepsOut s0 (execXtof t s) := by
  with_reducible unfold execXtof; repeat' first | assumption | apply KeepsOut.next | apply State.scale_keeps

theorem execSmov_keeps {s0 : State} (t : TraderId) {s : State} (h : Keeps s0 s) :
    KeepsOut s0 (execSmov t s) := by
  with_reducible unfold execSmov; repeat' first | assumption | apply KeepsOut.next | apply State.scale_keeps

theorem execXabs_keeps {s0 : State} (t : TraderId) {s : State} (h : Keeps s0 s) :
    KeepsOut s0 (execXabs t s) := by
  with_reducible unfold execXabs; repeat' first | assumption | apply KeepsOut.next | apply State.scale_keeps

theorem execXneg_keeps {s0 : State} (t : TraderId) {s : State} (h : Keeps s0 s) :
    KeepsOut s0 (execXneg t s) := by
  with_reducible unfold execXneg; repeat' first | assumption | apply KeepsOut.next | apply State.scale_keeps

theorem execFabs_keeps {s0 : State} (t : TraderId) {s : State} (h : Keeps s0 s) :
    KeepsOut s0 (execFabs t s) := by
  with_reducible unfold execFabs; repeat' first | assumption | apply KeepsOut.next | apply State.scale_keeps

theorem execFneg_keeps {s0 : State} (t : TraderId) {s : State} (h : Keeps s0 s) :
    KeepsOut s0 (execFneg t s) := by
  with_reducible unfold execFneg; repeat' first | assumption | apply KeepsOut.next | apply State.scale_keeps

theorem execXclip_keeps {s0 : State} (t : TraderId) {s : State} (h : Keeps s0 s) :
    KeepsOut s0 (execXclip t s) := by
  with_reducible unfold execXclip; repeat' first | assumption | apply KeepsOut.next | apply State.scale_keeps

theorem execFclip_keeps {s0 : State} (t : TraderId) {s : State} (h : Keeps s0 s) :
    KeepsOut s0 (execFclip t s) := by
  with_reducible unfold execFclip; repeat' first | assumption | apply KeepsOut.next | apply State.scale_keeps

theorem State.cpxSlot_keeps (t : TraderId) (w : Nat) (ans : CpxAnswer) (h : Keeps s0 s) :
    Keeps s0 (State.cpxSlot s t w ans) := by
  with_reducible unfold State.cpxSlot; repeat' first
    | assumption | apply State.trapAfter_keeps | apply State.endCheck_keeps | apply State.raiseTrap_keeps
    | apply State.upd_keeps | apply State.took_keeps | apply State.unsched_keeps
    | (extract_lets +onlyGivenNames a; clear_value a) | split

theorem execCpxOperation_keeps {s0 : State} (t : TraderId) (ans : CpxAnswer) {s : State} (h : Keeps s0 s) :
    KeepsOut s0 (execCpxOperation t ans s) := by
  with_reducible unfold execCpxOperation; repeat' first
    | assumption | apply KeepsOut.next | intro _ | apply State.startMiss_keeps | apply State.cpxSlot_keeps
    | apply State.fetchSlot_keeps | apply State.finishes_keeps
    | (extract_lets +onlyGivenNames a; first | (refine Keeps.cut (s := a) ?_ (fun _ => ?_); subst a; rotate_left; clear_value a) | clear_value a)
    | split

theorem execCpxResultReturn_keeps {s0 : State} (t : TraderId) (pred : Option (Nat × Bool)) {s : State}
    (h : Keeps s0 s) :
    KeepsOut s0 (execCpxResultReturn t pred s) := by
  with_reducible unfold execCpxResultReturn; repeat' first
    | assumption | apply KeepsOut.next | apply State.upd_keeps | apply State.idleTo_keeps
    | (extract_lets +onlyGivenNames a; first | (refine Keeps.cut (s := a) ?_ (fun _ => ?_); subst a; rotate_left; clear_value a) | clear_value a)
    | split

end Sys2Proof.Machine
end

