-- ==== Sys2Proof/Laws/KeepsLanes.lean ====
section
/-! SUPPORT. `Keeps` of the functions of Machine/Lanes.lean: what none of them changes. -/

namespace Sys2Proof.Machine

variable {s0 s : State}

theorem State.updLane_keeps (x2 k : Nat) (f : Lane → Lane) (h : Keeps s0 s) :
    Keeps s0 (State.updLane s x2 k f) := by
  with_reducible unfold State.updLane; repeat' first | assumption | apply State.setLane_keeps

theorem State.microCause_keeps (x2 k : Nat) (th c : Nat) (h : Keeps s0 s) :
    Keeps s0 (State.microCause s x2 k th c) := by
  with_reducible unfold State.microCause; repeat' first | assumption | apply State.orIn_keeps

theorem State.lnPut_keeps (x2 k v : Nat) (h : Keeps s0 s) :
    Keeps s0 (State.lnPut s x2 k v) := by
  with_reducible unfold State.lnPut; repeat' first
    | assumption | intro _ | apply State.put_keeps | apply State.drives_keeps

theorem State.laneBusy_keeps (x2 k : Nat) (h : Keeps s0 s) :
    Keeps s0 (State.laneBusy s x2 k) := by
  with_reducible unfold State.laneBusy; repeat' first
    | assumption | intro _ | apply State.updLane_keeps | apply State.drives_keeps | split

theorem State.rxDrop_keeps (x2 k : Nat) (h : Keeps s0 s) :
    Keeps s0 (State.rxDrop s x2 k) := by
  with_reducible unfold State.rxDrop; repeat' first | assumption | apply State.count_keeps

theorem State.laneChit_keeps (x2 k : Nat) (ty data : Nat) (h : Keeps s0 s) :
    Keeps s0 (State.laneChit s x2 k ty data) := by
  with_reducible unfold State.laneChit; repeat' first | assumption | apply State.hallChit_keeps

theorem State.lnCtrlWrite_keeps (x2 k v : Nat) (h : Keeps s0 s) :
    Keeps s0 (State.lnCtrlWrite s x2 k v) := by
  with_reducible unfold State.lnCtrlWrite; repeat' first
    | assumption | apply State.wr_keeps | apply State.set_keeps | apply State.put_keeps
    | (extract_lets +onlyGivenNames a; first | (refine Keeps.cut (s := a) ?_ (fun _ => ?_); subst a; rotate_left; clear_value a) | clear_value a)
    | split

theorem State.setService_keeps (x2 k mask : Nat) (h : Keeps s0 s) :
    Keeps s0 (State.setService s x2 k mask) := by
  with_reducible unfold State.setService; repeat' first
    | assumption | intro _ | apply State.put_keeps | apply forAll_keeps

theorem State.setG_keeps (x2 k : Nat) (g : List Nat) (h : Keeps s0 s) :
    Keeps s0 (State.setG s x2 k g) := by
  with_reducible unfold State.setG; repeat' first
    | assumption | intro _ | apply State.updLane_keeps | apply State.set_keeps | apply State.laneChit_keeps
    | apply forAll_keeps
    | (extract_lets +onlyGivenNames a; first | (refine Keeps.cut (s := a) ?_ (fun _ => ?_); subst a; rotate_left; clear_value a) | clear_value a)
    | split | refine Keeps.upd rfl rfl rfl rfl rfl ?_

theorem State.regroup_keeps (x2 k : Nat) (h : Keeps s0 s) :
    Keeps s0 (State.regroup s x2 k) := by
  with_reducible unfold State.regroup; repeat' first
    | assumption | apply State.setG_keeps | apply State.setService_keeps
    | (extract_lets +onlyGivenNames a; first | (refine Keeps.cut (s := a) ?_ (fun _ => ?_); subst a; rotate_left; clear_value a) | clear_value a)
    | split

theorem State.leaveGroup_keeps (x2 k : Nat) (h : Keeps s0 s) :
    Keeps s0 (State.leaveGroup s x2 k) := by
  with_reducible unfold State.leaveGroup; repeat' first
    | assumption | apply State.setG_keeps | apply State.setService_keeps
    | (extract_lets +onlyGivenNames a; first | (refine Keeps.cut (s := a) ?_ (fun _ => ?_); subst a; rotate_left; clear_value a) | clear_value a)
    | split

theorem State.joinGroup_keeps (x2 k : Nat) (h : Keeps s0 s) :
    Keeps s0 (State.joinGroup s x2 k) := by
  with_reducible unfold State.joinGroup; repeat' first
    | assumption | apply State.setG_keeps | apply State.setService_keeps
    | (extract_lets +onlyGivenNames a; first | (refine Keeps.cut (s := a) ?_ (fun _ => ?_); subst a; rotate_left; clear_value a) | clear_value a)
    | split

theorem State.realign_keeps (x2 j : Nat) (h : Keeps s0 s) :
    Keeps s0 (State.realign s x2 j) := by
  with_reducible unfold State.realign; repeat' first
    | assumption | intro _ | apply State.setG_keeps | apply State.setService_keeps

theorem State.lnGroupWrite_keeps (x2 k v : Nat) (h : Keeps s0 s) :
    Keeps s0 (State.lnGroupWrite s x2 k v) := by
  with_reducible unfold State.lnGroupWrite; repeat' first
    | assumption | intro _ | apply State.set_keeps | apply State.put_keeps | apply State.realign_keeps
    | apply forAll_keeps
    | (extract_lets +onlyGivenNames a; first | (refine Keeps.cut (s := a) ?_ (fun _ => ?_); subst a; rotate_left; clear_value a) | clear_value a)
    | split

theorem State.startTraining_keeps (x2 k job : Nat) (h : Keeps s0 s) :
    Keeps s0 (State.startTraining s x2 k job) := by
  with_reducible unfold State.startTraining; repeat' first
    | assumption | apply State.updLane_keeps | apply State.lnPut_keeps | apply State.set_keeps | apply State.put_keeps

theorem State.trainEnds_keeps (x2 k result : Nat) (h : Keeps s0 s) :
    Keeps s0 (State.trainEnds s x2 k result) := by
  with_reducible unfold State.trainEnds; repeat' first
    | assumption | apply State.updLane_keeps | apply State.lnPut_keeps | apply State.set_keeps | apply State.put_keeps
    | (extract_lets +onlyGivenNames a; first | (refine Keeps.cut (s := a) ?_ (fun _ => ?_); subst a; rotate_left; clear_value a) | clear_value a)
    | split

theorem State.goUp_keeps (x2 k : Nat) (h : Keeps s0 s) :
    Keeps s0 (State.goUp s x2 k) := by
  with_reducible unfold State.goUp; repeat' first
    | assumption | apply State.updLane_keeps | apply State.lnPut_keeps | apply State.set_keeps
    | apply State.microCause_keeps | apply State.joinGroup_keeps | apply State.laneChit_keeps | apply State.put_keeps
    | apply State.hallEvent_keeps

theorem State.goDown_keeps (x2 k : Nat) (signal : Bool) (h : Keeps s0 s) :
    Keeps s0 (State.goDown s x2 k signal) := by
  with_reducible unfold State.goDown; repeat' first
    | assumption | apply State.lnPut_keeps | apply State.leaveGroup_keeps | apply State.startTraining_keeps
    | apply State.set_keeps | apply State.microCause_keeps | apply State.laneChit_keeps | apply State.put_keeps
    | apply State.hallEvent_keeps
    | (extract_lets +onlyGivenNames a; first | (refine Keeps.cut (s := a) ?_ (fun _ => ?_); subst a; rotate_left; clear_value a) | clear_value a)
    | split

theorem State.putBlock_keeps (x2 k : Nat) (ctl : Bool) (b : List Byte) (h : Keeps s0 s) :
    Keeps s0 (State.putBlock s x2 k ctl b) := by
  with_reducible unfold State.putBlock; repeat' first | assumption | apply State.updLane_keeps

theorem State.linkRx_keeps (x2 k : Nat) (blk : List Byte) (h : Keeps s0 s) :
    Keeps s0 (State.linkRx s x2 k blk) := by
  with_reducible unfold State.linkRx; repeat' first
    | assumption | intro _ | apply State.updLane_keeps | apply State.regroup_keeps | apply State.setG_keeps
    | apply State.setService_keeps | apply State.set_keeps | apply State.put_keeps | apply foldl_keeps
    | (extract_lets +onlyGivenNames a; first | (refine Keeps.cut (s := a) ?_ (fun _ => ?_); subst a; rotate_left; clear_value a) | clear_value a)
    | split

theorem State.rxFrame_keeps (x2 k : Nat) (beats : List RxBeat) (h : Keeps s0 s) :
    Keeps s0 (State.rxFrame s x2 k beats) := by
  with_reducible unfold State.rxFrame; repeat' first
    | assumption | apply State.updLane_keeps | apply State.set_keeps | apply State.microCause_keeps
    | apply State.rxDrop_keeps | apply State.laneBusy_keeps | split

theorem State.eplasRx_keeps (x2 k : Nat) (bs : List Byte) (arr : Nat) (bad : Bool) (h : Keeps s0 s) :
    Keeps s0 (State.eplasRx s x2 k bs arr bad) := by
  with_reducible unfold State.eplasRx; repeat' first
    | assumption | apply State.set_keeps | apply State.rxFrame_keeps | apply State.rxDrop_keeps | split

theorem State.syncSend_keeps (x2 k : Nat) (h : Keeps s0 s) :
    Keeps s0 (State.syncSend s x2 k) := by
  with_reducible unfold State.syncSend; repeat' first | assumption | apply State.updLane_keeps

theorem State.syncLeave_keeps (x2 k : Nat) (ax : Option Nat) (h : Keeps s0 s) :
    Keeps s0 (State.syncLeave s x2 k ax) := by
  with_reducible unfold State.syncLeave; repeat' first
    | assumption | apply State.setLane_keeps | apply State.putBlock_keeps

theorem State.syncUpdate_keeps (x2 k : Nat) (t1 t2 : Nat) (t3 t4 seq : Nat) (h : Keeps s0 s) :
    Keeps s0 (State.syncUpdate s x2 k t1 t2 t3 t4 seq) := by
  with_reducible unfold State.syncUpdate; repeat' first
    | assumption | apply State.setLane_keeps | apply State.set_keeps | apply State.put_keeps
    | (extract_lets +onlyGivenNames a; first | (refine Keeps.cut (s := a) ?_ (fun _ => ?_); subst a; rotate_left; clear_value a) | clear_value a)
    | split

theorem State.syncRx_keeps (x2 k : Nat) (bs : List Byte) (arr : Nat) (h : Keeps s0 s) :
    Keeps s0 (State.syncRx s x2 k bs arr) := by
  with_reducible unfold State.syncRx; repeat' first
    | assumption | intro _ | apply State.updLane_keeps | apply State.syncUpdate_keeps | apply State.setAxis_keeps
    | apply State.laneBusy_keeps | apply forAll_keeps
    | (extract_lets +onlyGivenNames a; first | (refine Keeps.cut (s := a) ?_ (fun _ => ?_); subst a; rotate_left; clear_value a) | clear_value a)
    | split

theorem State.departs_keeps (x2 m d : Nat) (h : Keeps s0 s) :
    Keeps s0 (State.departs s x2 m d) := by
  with_reducible unfold State.departs; repeat' first | assumption | apply State.updLane_keeps | split

theorem State.beatLeaves_keeps (x2 k m : Nat) (b : TxBeat) (blk : List Byte) (h : Keeps s0 s) :
    Keeps s0 (State.beatLeaves s x2 k m b blk) := by
  with_reducible unfold State.beatLeaves; repeat' first
    | assumption | apply State.updLane_keeps | apply State.putBlock_keeps | apply State.laneBusy_keeps
    | (extract_lets +onlyGivenNames a; first | (refine Keeps.cut (s := a) ?_ (fun _ => ?_); subst a; rotate_left; clear_value a) | clear_value a)
    | split

theorem State.sendNext_keeps (x2 k : Nat) (h : Keeps s0 s) :
    Keeps s0 (State.sendNext s x2 k) := by
  with_reducible unfold State.sendNext; repeat' first
    | assumption | apply State.beatLeaves_keeps | apply State.setLane_keeps | apply State.putBlock_keeps
    | apply State.departs_keeps | apply State.laneBusy_keeps | apply State.syncLeave_keeps
    | (extract_lets +onlyGivenNames a; clear_value a) | split

theorem State.sendBeat_keeps (x2 k : Nat) (h : Keeps s0 s) :
    Keeps s0 (State.sendBeat s x2 k) := by
  with_reducible unfold State.sendBeat; repeat' first
    | assumption | apply State.updLane_keeps | apply State.departs_keeps | apply State.laneBusy_keeps
    | (extract_lets +onlyGivenNames a; first | (refine Keeps.cut (s := a) ?_ (fun _ => ?_); subst a; rotate_left; clear_value a) | clear_value a)
    | split

theorem State.loopFrame_keeps (x2 k : Nat) (f : List Byte) (at_ : Nat) (h : Keeps s0 s) :
    Keeps s0 (State.loopFrame s x2 k f at_) := by
  with_reducible unfold State.loopFrame; repeat' first
    | assumption | apply State.updLane_keeps | apply State.eplasRx_keeps
    | (extract_lets +onlyGivenNames a; first | (refine Keeps.cut (s := a) ?_ (fun _ => ?_); subst a; rotate_left; clear_value a) | clear_value a)
    | split

theorem State.loopBlock_keeps (x2 k : Nat) (ctl : Bool) (b : List Byte) (h : Keeps s0 s) :
    Keeps s0 (State.loopBlock s x2 k ctl b) := by
  with_reducible unfold State.loopBlock; repeat' first
    | assumption | apply State.updLane_keeps | apply State.set_keeps | apply State.loopFrame_keeps
    | apply State.rxDrop_keeps | apply State.linkRx_keeps | (extract_lets +onlyGivenNames a; clear_value a) | split

theorem State.loopSyncs_keeps (x2 k : Nat) (h : Keeps s0 s) :
    Keeps s0 (State.loopSyncs s x2 k) := by
  with_reducible unfold State.loopSyncs; repeat' first
    | assumption | intro _ | apply State.updLane_keeps | apply State.syncRx_keeps | apply forAll_keeps
    | (extract_lets +onlyGivenNames a; clear_value a) | split

theorem State.loopBeat_keeps (x2 k : Nat) (b : TxBeat) (h : Keeps s0 s) :
    Keeps s0 (State.loopBeat s x2 k b) := by
  with_reducible unfold State.loopBeat; repeat' first
    | assumption | apply State.updLane_keeps | apply State.rxFrame_keeps
    | (extract_lets +onlyGivenNames a; clear_value a) | split

theorem State.looped_keeps (x2 k : Nat) (send : State → State)
    (h : Keeps s0 s) (hsend : ∀ y0, Keeps s0 y0 → Keeps s0 (send y0)) :
    Keeps s0 (State.looped s x2 k send) := by
  with_reducible unfold State.looped; repeat' first
    | assumption | apply State.loopBlock_keeps | apply State.loopBeat_keeps | apply State.set_keeps | apply hsend
    | split

theorem State.laneTick_keeps (x2 k : Nat) (h : Keeps s0 s) :
    Keeps s0 (State.laneTick s x2 k) := by
  with_reducible unfold State.laneTick; repeat' first
    | assumption | intro _ | apply State.goDown_keeps | apply State.looped_keeps | apply State.loopSyncs_keeps
    | apply State.settle_keeps | apply State.sendBeat_keeps | apply State.sendNext_keeps
    | (extract_lets +onlyGivenNames a; first | (refine Keeps.cut (s := a) ?_ (fun _ => ?_); subst a; rotate_left; clear_value a) | clear_value a)
    | split

theorem execLnCtrlWrite_keeps {s0 : State} (port x2 k : Nat) (v : Word) {s : State} (h : Keeps s0 s) :
    KeepsOut s0 (execLnCtrlWrite port x2 k v s) := by
  with_reducible unfold execLnCtrlWrite; repeat' first
    | assumption | apply KeepsOut.next | intro _ | apply State.lnCtrlWrite_keeps | apply State.byPort_keeps | split

theorem execLnGroupWrite_keeps {s0 : State} (port x2 k : Nat) (v : Word) {s : State} (h : Keeps s0 s) :
    KeepsOut s0 (execLnGroupWrite port x2 k v s) := by
  with_reducible unfold execLnGroupWrite; repeat' first
    | assumption | apply KeepsOut.next | intro _ | apply State.lnGroupWrite_keeps | apply State.byPort_keeps | split

theorem execLinkBlockRx_keeps {s0 : State} (x1 k : Nat) (blk : List Byte) {s : State} (h : Keeps s0 s) :
    KeepsOut s0 (execLinkBlockRx x1 k blk s) := by
  with_reducible unfold execLinkBlockRx; repeat' first
    | assumption | apply KeepsOut.next | apply State.settle_keeps | apply State.rxDrop_keeps | apply State.linkRx_keeps
    | split

theorem execLinkBlockDue_keeps {s0 : State} (x1 k : Nat) {s : State} (h : Keeps s0 s) :
    KeepsOut s0 (execLinkBlockDue x1 k s) := by
  with_reducible unfold execLinkBlockDue; repeat' first
    | assumption | apply KeepsOut.next | intro _ | apply State.updLane_keeps | apply State.looped_keeps
    | apply State.settle_keeps | apply State.putBlock_keeps | split

theorem execAlignBlockDue_keeps {s0 : State} (x1 k : Nat) {s : State} (h : Keeps s0 s) :
    KeepsOut s0 (execAlignBlockDue x1 k s) := by
  with_reducible unfold execAlignBlockDue; repeat' first
    | assumption | apply KeepsOut.next | intro _ | apply State.looped_keeps | apply State.putBlock_keeps | split

theorem execAxisSyncDue_keeps {s0 : State} (x1 k : Nat) {s : State} (h : Keeps s0 s) :
    KeepsOut s0 (execAxisSyncDue x1 k s) := by
  with_reducible unfold execAxisSyncDue; repeat' first
    | assumption | apply KeepsOut.next | apply State.syncSend_keeps | split

theorem execEplasFrameRx_keeps {s0 : State} (x1 k : Nat) (bytes : List Byte) (arr : Nat) (damaged : Bool) {s : State}
    (h : Keeps s0 s) :
    KeepsOut s0 (execEplasFrameRx x1 k bytes arr damaged s) := by
  with_reducible unfold execEplasFrameRx; repeat' first
    | assumption | apply KeepsOut.next | apply State.eplasRx_keeps | apply State.rxDrop_keeps | split

theorem execEthernetFrameRx_keeps {s0 : State} (x1 k : Nat) (bytes : List Byte) (arr : Nat) (damaged : Bool) {s : State}
    (h : Keeps s0 s) :
    KeepsOut s0 (execEthernetFrameRx x1 k bytes arr damaged s) := by
  with_reducible unfold execEthernetFrameRx; repeat' first
    | assumption | apply KeepsOut.next | apply State.rxFrame_keeps | split

theorem execAxisSyncFrameRx_keeps {s0 : State} (x1 k : Nat) (bytes : List Byte) (arr : Nat) {s : State}
    (h : Keeps s0 s) :
    KeepsOut s0 (execAxisSyncFrameRx x1 k bytes arr s) := by
  with_reducible unfold execAxisSyncFrameRx; repeat' first
    | assumption | apply KeepsOut.next | apply State.syncRx_keeps | apply State.set_keeps | apply State.rxDrop_keeps
    | split

theorem execLaneUp_keeps {s0 : State} (x1 k : Nat) {s : State} (h : Keeps s0 s) :
    KeepsOut s0 (execLaneUp x1 k s) := by
  with_reducible unfold execLaneUp; repeat' first
    | assumption | apply KeepsOut.next | apply State.jobTo_keeps | apply State.goUp_keeps
    | (extract_lets +onlyGivenNames a; first | (refine Keeps.cut (s := a) ?_ (fun _ => ?_); subst a; rotate_left; clear_value a) | clear_value a)
    | split

theorem execLaneTrainTimeout_keeps {s0 : State} (x1 k result : Nat) {s : State} (h : Keeps s0 s) :
    KeepsOut s0 (execLaneTrainTimeout x1 k result s) := by
  with_reducible unfold execLaneTrainTimeout; repeat' first
    | assumption | apply KeepsOut.next | apply State.jobTo_keeps | apply State.laneChit_keeps
    | apply State.trainEnds_keeps
    | (extract_lets +onlyGivenNames a; first | (refine Keeps.cut (s := a) ?_ (fun _ => ?_); subst a; rotate_left; clear_value a) | clear_value a)
    | split

theorem execLaneDown_keeps {s0 : State} (x1 k : Nat) (cause : LaneLoss) {s : State} (h : Keeps s0 s) :
    KeepsOut s0 (execLaneDown x1 k cause s) := by
  with_reducible unfold execLaneDown; repeat' first
    | assumption | apply KeepsOut.next | apply State.goDown_keeps | apply State.settle_keeps | split

theorem execFecLimitExceeded_keeps {s0 : State} (x1 k : Nat) {s : State} (h : Keeps s0 s) :
    KeepsOut s0 (execFecLimitExceeded x1 k s) := by
  with_reducible unfold execFecLimitExceeded; repeat' first
    | assumption | apply KeepsOut.next | apply State.goDown_keeps | apply State.settle_keeps
    | (extract_lets +onlyGivenNames a; clear_value a) | split

theorem execLinkBlockTimeout_keeps {s0 : State} (x1 k : Nat) {s : State} (h : Keeps s0 s) :
    KeepsOut s0 (execLinkBlockTimeout x1 k s) := by
  with_reducible unfold execLinkBlockTimeout; repeat' first
    | assumption | apply KeepsOut.next | apply State.goDown_keeps | apply State.settle_keeps | split

theorem execFecCodewordDecoded_keeps {s0 : State} (x1 k : Nat) (res : FecResult) (inFrame : Bool) {s : State}
    (h : Keeps s0 s) :
    KeepsOut s0 (execFecCodewordDecoded x1 k res inFrame s) := by
  with_reducible unfold execFecCodewordDecoded; repeat' first
    | assumption | apply KeepsOut.next | apply State.setLane_keeps | apply State.set_keeps
    | apply State.microCause_keeps | apply State.count_keeps
    | (extract_lets +onlyGivenNames a; first | (refine Keeps.cut (s := a) ?_ (fun _ => ?_); subst a; rotate_left; clear_value a) | clear_value a)
    | split

theorem execActivitySignalEnd_keeps {s0 : State} (x1 k : Nat) {s : State} (h : Keeps s0 s) :
    KeepsOut s0 (execActivitySignalEnd x1 k s) := by
  with_reducible unfold execActivitySignalEnd; repeat' first
    | assumption | apply KeepsOut.next | intro _ | apply State.updLane_keeps | apply State.drives_keeps | split

end Sys2Proof.Machine
end

