-- ==== Sys2Proof/Laws/KeepsPorter.lean ====
section
/-! SUPPORT. `Keeps` of the functions of Machine/Porter.lean: what none of them changes. -/

namespace Sys2Proof.Machine

variable {s0 s : State}

theorem State.setMr_keeps (x2 k : Nat) (th n v : Nat) (h : Keeps s0 s) :
    Keeps s0 (State.setMr s x2 k th n v) := by
  with_reducible unfold State.setMr; repeat' first | assumption | apply State.put_keeps

theorem State.updTh_keeps (x2 k th : Nat) (f : Thread → Thread) (h : Keeps s0 s) :
    Keeps s0 (State.updTh s x2 k th f) := by
  with_reducible unfold State.updTh; repeat' first | assumption | apply State.setThread_keeps

theorem State.thWait_keeps (x2 k : Nat) (th n : Nat) (h : Keeps s0 s) :
    Keeps s0 (State.thWait s x2 k th n) := by
  with_reducible unfold State.thWait; repeat' first | assumption | apply State.updTh_keeps

theorem State.mrWrite_keeps (x2 k : Nat) (th n v : Nat) (h : Keeps s0 s) :
    Keeps s0 (State.mrWrite s x2 k th n v) := by
  with_reducible unfold State.mrWrite; repeat' first
    | assumption | apply State.setMr_keeps | apply State.updTh_keeps | split

theorem State.thGoes_keeps (x2 k th : Nat) (h : Keeps s0 s) :
    Keeps s0 (State.thGoes s x2 k th) := by
  with_reducible unfold State.thGoes; repeat' first | assumption | apply State.put_keeps

theorem State.thHalt_keeps (x2 k : Nat) (th cause : Nat) (h : Keeps s0 s) :
    Keeps s0 (State.thHalt s x2 k th cause) := by
  with_reducible unfold State.thHalt; repeat' first | assumption | apply State.hallChit_keeps | apply State.put_keeps

theorem State.portPush_keeps (x2 k : Nat) (th q : Nat) (el : List Byte) (h : Keeps s0 s) :
    Keeps s0 (State.portPush s x2 k th q el) := by
  with_reducible unfold State.portPush; repeat' first
    | assumption | apply State.qDo_keeps | apply State.store_keeps | apply State.granted_keeps
    | apply State.hostReq_keeps | (extract_lets +onlyGivenNames a; clear_value a) | split

theorem State.portAll_keeps (x2 k th : Nat) (op : QOp) (h : Keeps s0 s) :
    Keeps s0 (State.portAll s x2 k th op) := by
  with_reducible unfold State.portAll; repeat' first
    | assumption | intro _ | apply State.qOp_keeps | apply forAll_keeps

theorem State.rxClean_keeps (x2 k : Nat) (h : Keeps s0 s) :
    Keeps s0 (State.rxClean s x2 k) := by
  with_reducible unfold State.rxClean; repeat' first
    | assumption | apply State.updLane_keeps | apply State.rxDrop_keeps | apply State.uncorrectable_keeps
    | (extract_lets +onlyGivenNames a; clear_value a) | split

theorem State.microTake_keeps (x2 k : Nat) (th w : Nat) (h : Keeps s0 s) :
    Keeps s0 (State.microTake s x2 k th w) := by
  with_reducible unfold State.microTake; repeat' first
    | assumption | apply State.updLane_keeps | apply State.corrected_keeps | apply State.updTh_keeps
    | (extract_lets +onlyGivenNames a; first | (refine Keeps.cut (s := a) ?_ (fun _ => ?_); subst a; rotate_left; clear_value a) | clear_value a)
    | split

theorem State.microMatch_keeps (x2 k : Nat) (th w a : Nat) (h : Keeps s0 s) :
    Keeps s0 (State.microMatch s x2 k th w a) := by
  with_reducible unfold State.microMatch; repeat' first
    | assumption | apply State.updTh_keeps | (extract_lets +onlyGivenNames a; clear_value a) | split

theorem State.microStamp_keeps (x2 k : Nat) (th w : Nat) (h : Keeps s0 s) :
    Keeps s0 (State.microStamp s x2 k th w) := by
  with_reducible unfold State.microStamp; repeat' first | assumption | apply State.setThread_keeps

theorem State.microDst_keeps (x2 k : Nat) (th w : Nat) (v hi : Nat) (h : Keeps s0 s) :
    Keeps s0 (State.microDst s x2 k th w v hi) := by
  with_reducible unfold State.microDst; repeat' first
    | assumption | apply State.mrWrite_keeps | apply State.put_keeps | apply State.updTh_keeps
    | (extract_lets +onlyGivenNames a; first | (refine Keeps.cut (s := a) ?_ (fun _ => ?_); subst a; rotate_left; clear_value a) | clear_value a)
    | split

theorem State.microSend_keeps (x2 k : Nat) (th w txb : Nat) (h : Keeps s0 s) :
    Keeps s0 (State.microSend s x2 k th w txb) := by
  with_reducible unfold State.microSend; repeat' first
    | assumption | apply State.updLane_keeps
    | (extract_lets +onlyGivenNames a; first | (refine Keeps.cut (s := a) ?_ (fun _ => ?_); subst a; rotate_left; clear_value a) | (have e : a = a := funext fun _ => rfl; clear e; subst a; beta_reduce) | clear_value a)
    | split

theorem State.trapDone_keeps (x2 k th : Nat) (h : Keeps s0 s) :
    Keeps s0 (State.trapDone s x2 k th) := by
  with_reducible unfold State.trapDone; repeat' first
    | assumption | intro _ | apply State.setMr_keeps | apply State.set_keeps | apply State.put_keeps
    | apply forAll_keeps

theorem State.microEvt_keeps (x2 k : Nat) (th w : Nat) (h : Keeps s0 s) :
    Keeps s0 (State.microEvt s x2 k th w) := by
  with_reducible unfold State.microEvt; repeat' first
    | assumption | apply State.hallChit_keeps | apply State.put_keeps | apply State.hallEvent_keeps
    | (extract_lets +onlyGivenNames a; clear_value a) | split

theorem State.microRun_keeps {s0 : State} {x1 : State} (x2 k : Nat) (th w : Nat) (h : Keeps s0 x1) :
    Keeps s0 (State.microRun x1 x2 k th w) := by
  with_reducible unfold State.microRun; repeat' first
    | assumption | apply State.microSend_keeps | apply State.freeBytes_keeps | apply State.microTake_keeps
    | apply State.trapDone_keeps | apply State.microEvt_keeps | apply State.microStamp_keeps | apply State.put_keeps
    | apply State.thGoes_keeps | apply State.updTh_keeps | apply State.microDst_keeps | apply State.microMatch_keeps
    | (extract_lets +onlyGivenNames a; first | (refine Keeps.cut (s := a) ?_ (fun _ => ?_); subst a; rotate_left; clear_value a) | clear_value a)
    | refine Keeps.snd ‹_› ?_ | split

theorem State.microQueue_keeps (x2 k th w q : Nat) (popped : Option (List Byte)) (h : Keeps s0 s) :
    Keeps s0 (Option.getD (State.microQueue s x2 k th w q popped) s0) := by
  unfold State.microQueue
  split
  · exact Keeps.getSome (State.portPush_keeps x2 k th q _ h)
  · split
    · exact Keeps.getSome (State.updTh_keeps x2 k th _ h)
    · split
      · rename_i e
        exact Keeps.getSome (State.updTh_keeps x2 k th _ (Keeps.snd e (State.qPop_keeps _ _ _ _ h)))
      · exact Keeps.getNone
  · exact Keeps.getSome (State.portAll_keeps x2 k th _ h)
  · exact Keeps.getSome (State.portAll_keeps x2 k th _ h)
  · exact Keeps.getSome h

theorem State.microMark_keeps (x2 k th : Nat) (h : Keeps s0 s) :
    Keeps s0 (State.microMark s x2 k th) := by
  with_reducible unfold State.microMark; repeat' first | assumption | apply State.corrected_keeps | split

theorem State.micro_keeps (x2 k th : Nat) (h : Keeps s0 s) : Keeps s0 (State.micro s x2 k th) := by
  unfold State.micro
  extract_lets +onlyGivenNames w i s1
  have h1 : Keeps s0 s1 := State.microMark_keeps x2 k th h
  clear_value w s1
  extract_lets +onlyGivenNames s2
  have h2 : Keeps s0 s2 := by
    subst s2
    split
    · exact State.rxClean_keeps x2 k h1
    · exact h1
  clear_value s2
  generalize s2.microCheck x2 k th w = r
  cases r with
  | halt c =>
    dsimp only
    refine State.thHalt_keeps _ _ _ _ ?_
    split
    · exact State.uncorrectable_keeps _ _ _ _ h2
    · exact h2
  | stall => exact State.thWait_keeps _ _ _ _ (State.put_keeps _ _ _ h2)
  | trap c => exact State.microCause_keeps x2 k th _ h2
  | go =>
    have hq := State.microQueue_keeps x2 k th w (s2.thread x2 k th).qsel (s2.thread x2 k th).popped (State.microRun_keeps x2 k th w h2)
    dsimp only
    generalize (s2.microRun x2 k th w).microQueue x2 k th w (s2.thread x2 k th).qsel (s2.thread x2 k th).popped = o at hq ⊢
    cases o with
    | some t => exact State.thWait_keeps _ _ _ _ hq
    | none =>
      refine State.thWait_keeps _ _ _ _ (State.put_keeps _ _ _ ?_)
      split
      · exact State.qPop_keeps _ _ _ _ h2
      · exact h2

theorem State.microEnter_keeps (x2 k : Nat) (th c : Nat) (h : Keeps s0 s) :
    Keeps s0 (State.microEnter s x2 k th c) := by
  with_reducible unfold State.microEnter; repeat' first
    | assumption | intro _ | apply State.thWait_keeps | apply State.clrIn_keeps | apply State.set_keeps
    | apply State.put_keeps | apply State.thGoes_keeps | apply State.updTh_keeps | apply forAll_keeps

theorem State.thStart_keeps (x2 k : Nat) (th mpc : Nat) (h : Keeps s0 s) :
    Keeps s0 (State.thStart s x2 k th mpc) := by
  with_reducible unfold State.thStart; repeat' first | assumption | apply State.set_keeps | apply State.put_keeps

theorem State.thResume_keeps (x2 k th : Nat) (h : Keeps s0 s) :
    Keeps s0 (State.thResume s x2 k th) := by
  with_reducible unfold State.thResume; repeat' first | assumption | apply State.put_keeps | apply State.thGoes_keeps

theorem State.thStop_keeps (x2 k th : Nat) (h : Keeps s0 s) :
    Keeps s0 (State.thStop s x2 k th) := by
  with_reducible unfold State.thStop; repeat' first | assumption | apply State.put_keeps | split

theorem State.runWrite_keeps (x2 k th : Nat) (run : Bool) (h : Keeps s0 s) :
    Keeps s0 (State.runWrite s x2 k th run) := by
  with_reducible unfold State.runWrite; repeat' first
    | assumption | apply State.thStart_keeps | apply State.set_keeps | apply State.thStop_keeps
    | (extract_lets +onlyGivenNames a; clear_value a) | split

theorem State.csWrite_keeps (x2 k : Nat) (off v : Nat) (h : Keeps s0 s) :
    Keeps s0 (State.csWrite s x2 k off v) := by
  with_reducible unfold State.csWrite; repeat' first
    | assumption | intro _ | apply State.updLane_keeps | apply State.storeNat_keeps | apply State.set_keeps
    | apply foldl_keeps
    | (extract_lets +onlyGivenNames a; first | (refine Keeps.cut (s := a) ?_ (fun _ => ?_); subst a; rotate_left; clear_value a) | (have e : a = a := funext fun _ => rfl; clear e; subst a; beta_reduce) | clear_value a)
    | split

theorem State.mboxWrite_keeps (x2 k v : Nat) (h : Keeps s0 s) :
    Keeps s0 (State.mboxWrite s x2 k v) := by
  with_reducible unfold State.mboxWrite; repeat' first
    | assumption | intro _ | apply State.microCause_keeps | apply State.updTh_keeps | apply forAll_keeps

theorem execMicroword_keeps {s0 : State} (x1 k th : Nat) {s : State} (h : Keeps s0 s) :
    KeepsOut s0 (execMicroword x1 k th s) := by
  with_reducible unfold execMicroword; repeat' first
    | assumption | apply KeepsOut.next | apply State.micro_keeps | split

theorem execMicroTrapEntry_keeps {s0 : State} (x1 k th : Nat) {s : State} (h : Keeps s0 s) :
    KeepsOut s0 (execMicroTrapEntry x1 k th s) := by
  with_reducible unfold execMicroTrapEntry; repeat' first
    | assumption | apply KeepsOut.next | apply State.microEnter_keeps | split

theorem execPtMboxWrite_keeps {s0 : State} (port x2 k : Nat) (v : Word) {s : State} (h : Keeps s0 s) :
    KeepsOut s0 (execPtMboxWrite port x2 k v s) := by
  with_reducible unfold execPtMboxWrite; repeat' first
    | assumption | apply KeepsOut.next | intro _ | apply State.mboxWrite_keeps | apply State.byPort_keeps | split

theorem execTxRun_keeps {s0 : State} (port x2 k : Nat) (run : Bool) {s : State} (h : Keeps s0 s) :
    KeepsOut s0 (execTxRun port x2 k run s) := by
  with_reducible unfold execTxRun; repeat' first
    | assumption | apply KeepsOut.next | intro _ | apply State.runWrite_keeps | apply State.byPort_keeps | split

theorem execRxRun_keeps {s0 : State} (port x2 k : Nat) (run : Bool) {s : State} (h : Keeps s0 s) :
    KeepsOut s0 (execRxRun port x2 k run s) := by
  with_reducible unfold execRxRun; repeat' first
    | assumption | apply KeepsOut.next | intro _ | apply State.runWrite_keeps | apply State.byPort_keeps | split

theorem execControlStoreWrite_keeps {s0 : State} (port x2 : Nat) (k off : Nat) (v : Word) {s : State}
    (h : Keeps s0 s) :
    KeepsOut s0 (execControlStoreWrite port x2 k off v s) := by
  with_reducible unfold execControlStoreWrite; repeat' first
    | assumption | apply KeepsOut.next | intro _ | apply State.csWrite_keeps | apply State.byPort_keeps | split

end Sys2Proof.Machine
end

