-- ==== Sys2Proof/Laws/KeepsCarts.lean ====
section
/-! SUPPORT. `Keeps` of the functions of Machine/Carts.lean: what none of them changes. -/

namespace Sys2Proof.Machine

variable {s0 s : State}

theorem State.setChan_keeps (x2 c : Nat) (a : Chan) (h : Keeps s0 s) :
    Keeps s0 (State.setChan s x2 c a) := by
  with_reducible unfold State.setChan; repeat' first | assumption | refine Keeps.upd rfl rfl rfl rfl rfl ?_

theorem State.setFifo_keeps (x2 : Nat) (l : List Slot) (h : Keeps s0 s) :
    Keeps s0 (State.setFifo s x2 l) := by
  with_reducible unfold State.setFifo; repeat' first | assumption | refine Keeps.upd rfl rfl rfl rfl rfl ?_

theorem State.showChan_keeps (x2 c : Nat) (h : Keeps s0 s) :
    Keeps s0 (State.showChan s x2 c) := by
  with_reducible unfold State.showChan; repeat' first | assumption | apply State.put_keeps

theorem State.updChan_keeps (x2 c : Nat) (f : Chan → Chan) (h : Keeps s0 s) :
    Keeps s0 (State.updChan s x2 c f) := by
  with_reducible unfold State.updChan; repeat' first
    | assumption | apply State.setChan_keeps | apply State.showChan_keeps

theorem State.cartJobEnds_keeps (job status : Nat) (h : Keeps s0 s) :
    Keeps s0 (State.cartJobEnds s job status) := by
  with_reducible unfold State.cartJobEnds; repeat' first | assumption | apply State.jobTo_keeps | split

theorem State.announce_keeps (x2 c : Nat) (r : CartReport) (h : Keeps s0 s) :
    Keeps s0 (State.announce s x2 c r) := by
  with_reducible unfold State.announce; repeat' first
    | assumption | apply State.cartJobEnds_keeps | apply State.updChan_keeps | apply State.raiseOn_keeps
    | apply State.put_keeps | apply State.hallEvent_keeps
    | (extract_lets +onlyGivenNames a; first | (refine Keeps.cut (s := a) ?_ (fun _ => ?_); subst a; rotate_left; clear_value a) | clear_value a)
    | split

theorem State.startReport_keeps (x2 c : Nat) (r : CartReport) (h : Keeps s0 s) :
    Keeps s0 (State.startReport s x2 c r).1 := by
  with_reducible unfold State.startReport; repeat' first
    | assumption | apply State.announce_keeps | apply State.store_keeps | apply State.granted_keeps | dsimp only
    | split

theorem State.cartWithdraw_keeps (x2 c : Nat) (all : Bool) (h : Keeps s0 s) :
    Keeps s0 (State.cartWithdraw s x2 c all) := by
  with_reducible unfold State.cartWithdraw; repeat' first
    | assumption | intro _ | apply State.updChan_keeps | apply State.qOp_keeps | apply forAll_keeps
    | (extract_lets +onlyGivenNames a; first | (refine Keeps.cut (s := a) ?_ (fun _ => ?_); subst a; rotate_left; clear_value a) | clear_value a)
    | refine Keeps.snd ‹_› ?_ | split

theorem State.dropReqs_keeps (p : HostReq → Bool) (h : Keeps s0 s) :
    Keeps s0 (State.dropReqs s p) := by
  with_reducible unfold State.dropReqs; repeat' first | assumption | refine Keeps.upd rfl rfl rfl rfl rfl ?_

theorem State.endWriting_keeps (x2 c : Nat) (h : Keeps s0 s) :
    Keeps s0 (State.endWriting s x2 c) := by
  with_reducible unfold State.endWriting; repeat' first
    | assumption | apply State.setFifo_keeps | apply State.updChan_keeps | split

theorem State.cartError_keeps (x2 c status : Nat) (h : Keeps s0 s) :
    Keeps s0 (State.cartError s x2 c status) := by
  with_reducible unfold State.cartError; repeat' first
    | assumption | apply State.setFifo_keeps | apply State.updChan_keeps | apply State.startReport_keeps
    | apply State.cartWithdraw_keeps | apply State.put_keeps | apply State.endWriting_keeps
    | apply State.dropReqs_keeps
    | (extract_lets +onlyGivenNames a; first | (refine Keeps.cut (s := a) ?_ (fun _ => ?_); subst a; rotate_left; clear_value a) | clear_value a)
    | refine Keeps.fst ‹_› ?_ | split | refine Keeps.upd rfl rfl rfl rfl rfl ?_

theorem State.nextChain_keeps (x2 c : Nat) (h : Keeps s0 s) :
    Keeps s0 (State.nextChain s x2 c) := by
  with_reducible unfold State.nextChain; repeat' first
    | assumption | apply State.updChan_keeps | apply State.qOp_keeps | apply State.cartError_keeps
    | (extract_lets +onlyGivenNames a; clear_value a) | refine Keeps.snd ‹_› ?_ | split

theorem State.goOn_keeps (x2 c : Nat) (d : Desc) (h : Keeps s0 s) :
    Keeps s0 (State.goOn s x2 c d) := by
  with_reducible unfold State.goOn; repeat' first | assumption | apply State.updChan_keeps | split

theorem State.finOne_keeps (x2 c : Nat) (h : Keeps s0 s) :
    Keeps s0 (State.finOne s x2 c) := by
  with_reducible unfold State.finOne; repeat' first
    | assumption | apply State.updChan_keeps | apply State.startReport_keeps | apply State.qOp_keeps
    | apply State.goOn_keeps | apply State.put_keeps | apply State.cartError_keeps | apply State.nextChain_keeps
    | (extract_lets +onlyGivenNames a; first | (refine Keeps.cut (s := a) ?_ (fun _ => ?_); subst a; rotate_left; clear_value a) | clear_value a)
    | refine Keeps.snd ‹_› ?_ | refine Keeps.fst ‹_› ?_ | split

theorem State.finAll_keeps (x2 c : Nat) (h : Keeps s0 s) :
    Keeps s0 (State.finAll s x2 c) := by
  with_reducible unfold State.finAll; repeat' first
    | assumption | intro _ | apply State.finOne_keeps | apply iter_keeps

theorem State.finish_keeps (x2 c : Nat) (d : Desc) (status : Nat) (h : Keeps s0 s) :
    Keeps s0 (State.finish s x2 c d status) := by
  with_reducible unfold State.finish; repeat' first
    | assumption | apply State.updChan_keeps | apply State.goOn_keeps | apply State.put_keeps
    | apply State.finAll_keeps
    | (extract_lets +onlyGivenNames a; first | (refine Keeps.cut (s := a) ?_ (fun _ => ?_); subst a; rotate_left; clear_value a) | clear_value a)
    | split

theorem State.cartHalt_keeps (x2 : Nat) (write : Bool) (kind addr : Nat) (valid : Bool) (h : Keeps s0 s) :
    Keeps s0 (State.cartHalt s x2 write kind addr valid) := by
  with_reducible unfold State.cartHalt; repeat' first
    | assumption | intro _ | apply State.updChan_keeps | apply State.wr_keeps | apply State.raiseOn_keeps
    | apply State.set_keeps | apply State.cartWithdraw_keeps | apply State.put_keeps | apply State.cartError_keeps
    | apply State.dropReqs_keeps | apply forAll_keeps
    | (extract_lets +onlyGivenNames a; first | (refine Keeps.cut (s := a) ?_ (fun _ => ?_); subst a; rotate_left; clear_value a) | clear_value a)
    | split

theorem State.cartUnc_keeps (x2 addr : Nat) (h : Keeps s0 s) :
    Keeps s0 (State.cartUnc s x2 addr) := by
  with_reducible unfold State.cartUnc; repeat' first
    | assumption | apply State.cartHalt_keeps | apply State.uncorrectable_keeps

theorem State.cartBegin_keeps (x2 c job : Nat) (h : Keeps s0 s) :
    Keeps s0 (State.cartBegin s x2 c job).1 := by
  with_reducible unfold State.cartBegin; repeat' first
    | assumption | apply State.updChan_keeps | apply State.set_keeps | apply State.put_keeps
    | (extract_lets +onlyGivenNames a; first | (refine Keeps.cut (s := a) ?_ (fun _ => ?_); subst a; rotate_left; clear_value a) | clear_value a)
    | dsimp only | split

theorem State.cartAbortNow_keeps (x2 c : Nat) (h : Keeps s0 s) :
    Keeps s0 (State.cartAbortNow s x2 c) := by
  with_reducible unfold State.cartAbortNow; repeat' first
    | assumption | apply State.cartError_keeps | (extract_lets +onlyGivenNames a; clear_value a) | split

theorem State.cartAbort_keeps (x2 c : Nat) (h : Keeps s0 s) :
    Keeps s0 (State.cartAbort s x2 c) := by
  with_reducible unfold State.cartAbort; repeat' first
    | assumption | apply State.cartAbortNow_keeps | apply State.atEdge_keeps | split

theorem State.edgeDo_keeps (e : EdgeAct) (h : Keeps s0 s) :
    Keeps s0 (State.edgeDo s e) := by
  with_reducible unfold State.edgeDo; repeat' first
    | assumption | apply State.ringDev_keeps | apply State.set_keeps | apply State.hallEvent_keeps
    | apply State.ringHall_keeps | apply State.cartAbortNow_keeps | apply State.cartBegin_keeps
    | (extract_lets +onlyGivenNames a; clear_value a) | refine Keeps.fst ‹_› ?_ | split

theorem State.runEdges_keeps (h : Keeps s0 s) :
    Keeps s0 (State.runEdges s) := by
  with_reducible unfold State.runEdges; repeat' first
    | assumption | intro _ | apply State.edgeDo_keeps | apply forAll_keeps | refine Keeps.upd rfl rfl rfl rfl rfl ?_

theorem State.cartPause_keeps (x2 c : Nat) (on : Bool) (h : Keeps s0 s) :
    Keeps s0 (State.cartPause s x2 c on) := by
  with_reducible unfold State.cartPause; repeat' first
    | assumption | apply State.set_keeps | apply State.showChan_keeps

theorem State.cartSuspended_keeps (x2 c : Nat) (h : Keeps s0 s) :
    Keeps s0 (State.cartSuspended s x2 c) := by
  with_reducible unfold State.cartSuspended; repeat' first
    | assumption | apply State.jobTo_keeps | (extract_lets +onlyGivenNames a; clear_value a) | split

theorem State.runDesc_keeps (x2 c : Nat) (d : Desc) (cur : Nat) (h : Keeps s0 s) :
    Keeps s0 (State.runDesc s x2 c d cur) := by
  with_reducible unfold State.runDesc; repeat' first
    | assumption | apply State.updChan_keeps | apply State.finish_keeps | apply State.put_keeps
    | apply State.cartError_keeps
    | (extract_lets +onlyGivenNames a; first | (refine Keeps.cut (s := a) ?_ (fun _ => ?_); subst a; rotate_left; clear_value a) | clear_value a)
    | split

theorem State.engineRead_keeps (x2 addr n : Nat) (o : MemOutcome) (h : Keeps s0 s) :
    Keeps s0 (State.engineRead s x2 addr n o).2 := by
  with_reducible unfold State.engineRead; repeat' first
    | assumption | intro _ | apply State.cartUnc_keeps | apply State.corrected_keeps | apply State.granted_keeps
    | apply State.collided_keeps | apply State.count_keeps
    | (extract_lets +onlyGivenNames a; first | (refine Keeps.cut (s := a) ?_ (fun _ => ?_); subst a; rotate_left; clear_value a) | clear_value a)
    | dsimp only | apply Keeps.mkOpt | exact Keeps.mkNone | refine Keeps.snd ‹_› ?_ | split

theorem State.loadMem_keeps (x2 c : Nat) (host : Bool) (addr : Nat) (req : Option Nat) (o : MemOutcome)
    (h : Keeps s0 s) :
    Keeps s0 (State.loadMem s x2 c host addr req o) := by
  with_reducible unfold State.loadMem; repeat' first
    | assumption | apply State.cartHalt_keeps | apply State.updChan_keeps | apply State.runDesc_keeps
    | apply State.engineRead_keeps | apply State.takeAnswer_keeps | apply State.hostReq_keeps | refine Keeps.opt ‹_› ?_
    | refine Keeps.snd ‹_› ?_ | refine Keeps.fst ‹_› ?_ | split

theorem State.loadDq_keeps (x2 c : Nat) (h : Keeps s0 s) :
    Keeps s0 (State.loadDq s x2 c) := by
  with_reducible unfold State.loadDq; repeat' first
    | assumption | apply State.updChan_keeps | apply State.qOp_keeps | apply State.cartError_keeps
    | (extract_lets +onlyGivenNames a; clear_value a) | refine Keeps.snd ‹_› ?_ | split

theorem State.cartLoad_keeps (x2 c : Nat) (o : MemOutcome) (h : Keeps s0 s) :
    Keeps s0 (State.cartLoad s x2 c o) := by
  with_reducible unfold State.cartLoad; repeat' first
    | assumption | apply State.runDesc_keeps | apply State.loadDq_keeps | apply State.loadMem_keeps
    | (extract_lets +onlyGivenNames a; first | (refine Keeps.cut (s := a) ?_ (fun _ => ?_); subst a; rotate_left; clear_value a) | clear_value a)
    | split

theorem State.cartTake_keeps (x2 c : Nat) (h : Keeps s0 s) :
    Keeps s0 (State.cartTake s x2 c) := by
  with_reducible unfold State.cartTake; repeat' first
    | assumption | apply State.updChan_keeps | apply State.qOp_keeps | apply State.cartError_keeps
    | (extract_lets +onlyGivenNames a; clear_value a) | refine Keeps.snd ‹_› ?_ | split

theorem State.cartReserve_keeps (x2 c : Nat) (h : Keeps s0 s) :
    Keeps s0 (State.cartReserve s x2 c) := by
  with_reducible unfold State.cartReserve; repeat' first
    | assumption | apply State.updChan_keeps | apply State.qOp_keeps | apply State.cartError_keeps
    | (extract_lets +onlyGivenNames a; clear_value a) | refine Keeps.snd ‹_› ?_ | split

theorem State.cartRetry_keeps (x2 c : Nat) (h : Keeps s0 s) :
    Keeps s0 (State.cartRetry s x2 c) := by
  with_reducible unfold State.cartRetry; repeat' first
    | assumption | apply State.cartLoad_keeps | apply State.cartReserve_keeps | apply State.cartTake_keeps
    | (extract_lets +onlyGivenNames a; first | (refine Keeps.cut (s := a) ?_ (fun _ => ?_); subst a; rotate_left; clear_value a) | clear_value a)
    | split

theorem State.takeTurn_keeps (x2 c n : Nat) (h : Keeps s0 s) : Keeps s0 (State.takeTurn s x2 c n) := by
  have h1 : Keeps s0 { s with cartTurn := Tab.set s.cartTurn x2 c } := h.upd rfl rfl rfl rfl rfl
  rw [State.takeTurn]
  revert h1
  generalize ({ s with cartTurn := Tab.set s.cartTurn x2 c } : State) = s1
  intro h1
  split
  · exact h1
  · exact State.updChan_keeps _ _ _ h1


theorem State.settleCredit_keeps (x2 c : Nat) (h : Keeps s0 s) :
    Keeps s0 (State.settleCredit s x2 c) := by
  with_reducible unfold State.settleCredit; repeat' first | assumption | apply State.updChan_keeps

theorem State.fillSlot_keeps (x2 c : Nat) (d : Desc) (bs : List Byte) (h : Keeps s0 s) :
    Keeps s0 (State.fillSlot s x2 c d bs) := by
  with_reducible unfold State.fillSlot; repeat' first
    | assumption | apply State.setFifo_keeps | apply State.updChan_keeps

theorem State.hostReads_keeps (x2 c ad n : Nat) (h : Keeps s0 s) :
    Keeps s0 (State.hostReads s x2 c ad n).1 := by
  unfold State.hostReads
  refine List.foldlRecOn (motive := fun (x : State × List Nat) => Keeps s0 x.1) _ _ h ?_
  intro x hx p _
  exact State.hostReq_keeps _ _ _ _ _ _ _ _ _ hx

theorem State.hostWrites_keeps (x2 c ad : Nat) (bs : List Byte) (h : Keeps s0 s) :
    Keeps s0 (State.hostWrites s x2 c ad bs).1 := by
  unfold State.hostWrites
  refine List.foldlRecOn (motive := fun (x : State × List Nat) => Keeps s0 x.1) _ _ h ?_
  intro x hx p _
  exact State.hostReq_keeps _ _ _ _ _ _ _ _ _ hx

theorem State.burstRead_keeps (x2 c : Nat) (o : MemOutcome) (h : Keeps s0 s) :
    Keeps s0 (State.burstRead s x2 c o) := by
  with_reducible unfold State.burstRead; repeat' first
    | assumption | intro _ | apply State.updChan_keeps | apply State.takeTurn_keeps | apply State.hostReads_keeps
    | apply State.engineRead_keeps | apply State.takeAnswer_keeps | apply State.fillSlot_keeps | apply forAll_keeps
    | (extract_lets +onlyGivenNames a; clear_value a) | refine Keeps.opt ‹_› ?_ | refine Keeps.snd ‹_› ?_
    | refine Keeps.fst ‹_› ?_ | split

theorem State.engineWrites_keeps (x2 c : Nat) (ps : List (Bool × Nat × List Byte)) (h : Keeps s0 s) :
    Keeps s0 (State.engineWrites s x2 c ps).1 := by
  unfold State.engineWrites
  refine List.foldlRecOn (motive := fun (x : State × List Nat) => Keeps s0 x.1) _ _ h ?_
  intro x hx p _
  split
  · exact State.hostWrites_keeps x2 c _ _ hx
  · exact State.store_keeps _ _ _ (State.granted_keeps x2 14 _ _ hx)

theorem State.wroteSlot_keeps (x2 c : Nat) (d : Desc) (x : Slot) (ids : List Nat) (h : Keeps s0 s) :
    Keeps s0 (State.wroteSlot s x2 c d x ids) := by
  with_reducible unfold State.wroteSlot; repeat' first
    | assumption | apply State.setFifo_keeps | apply State.updChan_keeps | apply State.finish_keeps
    | (extract_lets +onlyGivenNames a; first | (refine Keeps.cut (s := a) ?_ (fun _ => ?_); subst a; rotate_left; clear_value a) | clear_value a)
    | split

theorem State.burstWrite_keeps (x2 c : Nat) (o : MemOutcome) (h : Keeps s0 s) :
    Keeps s0 (State.burstWrite s x2 c o) := by
  unfold State.burstWrite
  extract_lets a older
  clear_value a older
  split
  · split
    · exact h
    · split
      · split
        · exact State.wroteSlot_keeps _ _ _ _ _ h
        · exact h
      · exact h
      · split
        · exact State.cartHalt_keeps _ _ _ _ _ (State.uncorrectable_keeps _ _ _ _ h)
        · extract_lets +onlyGivenNames s1
          have h1 : Keeps s0 s1 := by
            subst s1
            split
            · exact State.corrected_keeps _ _ h
            · exact h
          clear_value s1
          extract_lets +onlyGivenNames busy s2
          have h2 : Keeps s0 s2 := by
            subst s2
            split
            · exact State.count_keeps _ _ _ h1
            · exact h1
          clear_value s2
          split
          rename_i e
          have h3 := Keeps.fst e (State.engineWrites_keeps x2 c _ h2)
          split
          · exact State.wroteSlot_keeps _ _ _ _ _ h3
          · exact State.updChan_keeps _ _ _ h3
  · exact h

theorem State.writeAck_keeps (x2 c : Nat) (h : Keeps s0 s) :
    Keeps s0 (State.writeAck s x2 c) := by
  with_reducible unfold State.writeAck; repeat' first
    | assumption | intro _ | apply State.updChan_keeps | apply State.finAll_keeps | apply State.takeAnswer_keeps
    | apply forAll_keeps
    | (extract_lets +onlyGivenNames a; first | (refine Keeps.cut (s := a) ?_ (fun _ => ?_); subst a; rotate_left; clear_value a) | clear_value a)
    | split

theorem State.recordAck_keeps (x2 c : Nat) (o : MemOutcome) (h : Keeps s0 s) :
    Keeps s0 (State.recordAck s x2 c o) := by
  with_reducible unfold State.recordAck; repeat' first
    | assumption | apply State.updChan_keeps | apply State.announce_keeps | apply State.finAll_keeps
    | apply State.count_keeps | apply State.nextChain_keeps
    | (extract_lets +onlyGivenNames a; first | (refine Keeps.cut (s := a) ?_ (fun _ => ?_); subst a; rotate_left; clear_value a) | clear_value a)
    | split

theorem execCartStart_keeps {s0 : State} (port x2 c : Nat) {s : State} (h : Keeps s0 s) :
    KeepsOut s0 (execCartStart port x2 c s) := by
  with_reducible unfold execCartStart; repeat' first
    | assumption | apply KeepsOut.next | intro _ | apply State.byPort_keeps | apply State.cartBegin_keeps | split

theorem execCartAbort_keeps {s0 : State} (port x2 c : Nat) {s : State} (h : Keeps s0 s) :
    KeepsOut s0 (execCartAbort port x2 c s) := by
  with_reducible unfold execCartAbort; repeat' first
    | assumption | apply KeepsOut.next | intro _ | apply State.cartAbort_keeps | apply State.byPort_keeps | split

theorem execCartPause_keeps {s0 : State} (port x2 c : Nat) {s : State} (h : Keeps s0 s) :
    KeepsOut s0 (execCartPause port x2 c s) := by
  with_reducible unfold execCartPause; repeat' first
    | assumption | apply KeepsOut.next | intro _ | apply State.cartSuspended_keeps | apply State.byPort_keeps
    | apply State.cartPause_keeps | split

theorem execCartResume_keeps {s0 : State} (port x2 c : Nat) {s : State} (h : Keeps s0 s) :
    KeepsOut s0 (execCartResume port x2 c s) := by
  with_reducible unfold execCartResume; repeat' first
    | assumption | apply KeepsOut.next | intro _ | apply State.byPort_keeps | apply State.cartPause_keeps | split

theorem execCartEngineResume_keeps {s0 : State} (port x2 : Nat) {s : State} (h : Keeps s0 s) :
    KeepsOut s0 (execCartEngineResume port x2 s) := by
  with_reducible unfold execCartEngineResume; repeat' first
    | assumption | apply KeepsOut.next | intro _ | apply State.set_keeps | apply State.byPort_keeps | split

theorem execCartDescriptorLoad_keeps {s0 : State} (x1 c : Nat) (o : MemOutcome) {s : State} (h : Keeps s0 s) :
    KeepsOut s0 (execCartDescriptorLoad x1 c o s) := by
  with_reducible unfold execCartDescriptorLoad; repeat' first
    | assumption | apply KeepsOut.next | apply State.cartLoad_keeps | split

theorem execCartBurstRead_keeps {s0 : State} (x1 c : Nat) (o : MemOutcome) {s : State} (h : Keeps s0 s) :
    KeepsOut s0 (execCartBurstRead x1 c o s) := by
  with_reducible unfold execCartBurstRead; repeat' first
    | assumption | apply KeepsOut.next | apply State.burstRead_keeps | split

theorem execCartBurstWrite_keeps {s0 : State} (x1 c : Nat) (o : MemOutcome) {s : State} (h : Keeps s0 s) :
    KeepsOut s0 (execCartBurstWrite x1 c o s) := by
  with_reducible unfold execCartBurstWrite; repeat' first
    | assumption | apply KeepsOut.next | apply State.cartSuspended_keeps | apply State.burstWrite_keeps | split

theorem execCartWriteAck_keeps {s0 : State} (x1 c : Nat) {s : State} (h : Keeps s0 s) :
    KeepsOut s0 (execCartWriteAck x1 c s) := by
  with_reducible unfold execCartWriteAck; repeat' first
    | assumption | apply KeepsOut.next | apply State.writeAck_keeps | split

theorem execCartQueueRetry_keeps {s0 : State} (x1 c : Nat) {s : State} (h : Keeps s0 s) :
    KeepsOut s0 (execCartQueueRetry x1 c s) := by
  with_reducible unfold execCartQueueRetry; repeat' first
    | assumption | apply KeepsOut.next | apply State.cartRetry_keeps | split

theorem execCartStatusWriteAck_keeps {s0 : State} (x1 c : Nat) (o : MemOutcome) {s : State} (h : Keeps s0 s) :
    KeepsOut s0 (execCartStatusWriteAck x1 c o s) := by
  with_reducible unfold execCartStatusWriteAck; repeat' first
    | assumption | apply KeepsOut.next | apply State.recordAck_keeps | split

theorem execCartHalt_keeps {s0 : State} (x1 : Nat) (write : Bool) (kind addr : Nat) {s : State} (h : Keeps s0 s) :
    KeepsOut s0 (execCartHalt x1 write kind addr s) := by
  with_reducible unfold execCartHalt; repeat' first
    | assumption | apply KeepsOut.next | apply State.cartHalt_keeps | apply State.uncorrectable_keeps | split

theorem execQueueReserve_keeps {s0 : State} (by_ : Caller) {s : State} (h : Keeps s0 s) :
    KeepsOut s0 (execQueueReserve by_ s) := by
  with_reducible unfold execQueueReserve; repeat' first
    | assumption | apply KeepsOut.next | intro _ | apply State.agentOp_keeps | apply State.byAgent_keeps
    | apply State.cartReserve_keeps | apply State.portPush_keeps | apply State.traderRow_keeps
    | (extract_lets +onlyGivenNames a; clear_value a) | split

theorem execQueueCommit_keeps {s0 : State} (by_ : Caller) {s : State} (h : Keeps s0 s) :
    KeepsOut s0 (execQueueCommit by_ s) := by
  with_reducible unfold execQueueCommit; repeat' first
    | assumption | apply KeepsOut.next | intro _ | apply State.agentOp_keeps | apply State.finAll_keeps
    | apply State.byAgent_keeps | apply State.portAll_keeps | apply State.traderRow_keeps | split

theorem execQueueAbort_keeps {s0 : State} (by_ : Caller) {s : State} (h : Keeps s0 s) :
    KeepsOut s0 (execQueueAbort by_ s) := by
  with_reducible unfold execQueueAbort; repeat' first
    | assumption | apply KeepsOut.next | intro _ | apply State.agentOp_keeps | apply State.finAll_keeps
    | apply State.byAgent_keeps | apply State.portAll_keeps | apply State.traderRow_keeps | split

theorem execQueueTake_keeps {s0 : State} (by_ : Caller) {s : State} (h : Keeps s0 s) :
    KeepsOut s0 (execQueueTake by_ s) := by
  with_reducible unfold execQueueTake; repeat' first
    | assumption | apply KeepsOut.next | intro _ | apply State.agentOp_keeps | apply State.byAgent_keeps
    | apply State.cartTake_keeps | apply State.traderRow_keeps | split

theorem execQueueDone_keeps {s0 : State} (by_ : Caller) {s : State} (h : Keeps s0 s) :
    KeepsOut s0 (execQueueDone by_ s) := by
  with_reducible unfold execQueueDone; repeat' first
    | assumption | apply KeepsOut.next | intro _ | apply State.agentOp_keeps | apply State.finAll_keeps
    | apply State.byAgent_keeps | apply State.traderRow_keeps | split

theorem execQueueReturn_keeps {s0 : State} (by_ : Caller) {s : State} (h : Keeps s0 s) :
    KeepsOut s0 (execQueueReturn by_ s) := by
  with_reducible unfold execQueueReturn; repeat' first
    | assumption | apply KeepsOut.next | intro _ | apply State.agentOp_keeps | apply State.finAll_keeps
    | apply State.byAgent_keeps | apply State.traderRow_keeps | split

end Sys2Proof.Machine
end

