-- ==== Sys2Proof/Laws/KeepsRings.lean ====
section
/-! SUPPORT. `Keeps` of the functions of Machine/Rings.lean: what none of them changes. -/

namespace Sys2Proof.Machine

variable {s0 s : State}

theorem State.updChit_keeps (id : ChitId) (f : Chit → Chit) (h : Keeps s0 s) :
    Keeps s0 (State.updChit s id f) := by
  with_reducible unfold State.updChit; repeat' first | assumption | split | refine Keeps.upd rfl rfl rfl rfl rfl ?_

theorem State.hostErr_keeps (r : HostReq) (kind : HostErrKind) (fromRing : Option Nat) (h : Keeps s0 s) :
    Keeps s0 (State.hostErr s r kind fromRing) := by
  with_reducible unfold State.hostErr; repeat' first | assumption | apply State.raiseOn_keeps

theorem State.ackChit_keeps (c : Chit) (h : Keeps s0 s) :
    Keeps s0 (State.ackChit s c) := by
  with_reducible unfold State.ackChit; repeat' first
    | assumption | apply State.updJob_keeps
    | (extract_lets +onlyGivenNames a; first | (refine Keeps.cut (s := a) ?_ (fun _ => ?_); subst a; rotate_left; clear_value a) | clear_value a)
    | split | refine Keeps.upd rfl rfl rfl rfl rfl ?_

theorem State.loseChit_keeps (c : Chit) (h : Keeps s0 s) :
    Keeps s0 (State.loseChit s c) := by
  with_reducible unfold State.loseChit; repeat' first
    | assumption | apply State.chit_keeps | apply State.retire_keeps | apply State.count_keeps
    | apply State.ackChit_keeps

theorem State.writeChit_keeps (n : Nat) (h : Keeps s0 s) :
    Keeps s0 (State.writeChit s n) := by
  with_reducible unfold State.writeChit; repeat' first
    | assumption | apply State.loseChit_keeps | apply State.corrected_keeps | apply State.updChit_keeps
    | apply State.hostReq_keeps
    | (extract_lets +onlyGivenNames a; first | (refine Keeps.cut (s := a) ?_ (fun _ => ?_); subst a; rotate_left; clear_value a) | clear_value a)
    | refine Keeps.fst ‹_› ?_ | split

theorem State.chitAck_keeps (n v : Nat) (h : Keeps s0 s) :
    Keeps s0 (State.chitAck s n v) := by
  with_reducible unfold State.chitAck; repeat' first
    | assumption | intro _ | apply State.retire_keeps | apply State.put_keeps | apply State.ackChit_keeps
    | apply forAll_keeps

theorem State.forget_keeps (p : HostReq → Bool) (h : Keeps s0 s) :
    Keeps s0 (State.forget s p) := by
  with_reducible unfold State.forget; repeat' first | assumption | split | refine Keeps.upd rfl rfl rfl rfl rfl ?_

theorem State.crCtrlWrite_keeps (n v : Nat) (h : Keeps s0 s) :
    Keeps s0 (State.crCtrlWrite s n v) := by
  with_reducible unfold State.crCtrlWrite; repeat' first
    | assumption | intro _ | apply State.retire_keeps | apply State.wr_keeps | apply State.set_keeps
    | apply State.forget_keeps | apply State.put_keeps | apply State.ackChit_keeps | apply forAll_keeps
    | (extract_lets +onlyGivenNames a; first | (refine Keeps.cut (s := a) ?_ (fun _ => ?_); subst a; rotate_left; clear_value a) | clear_value a)
    | split | refine Keeps.upd rfl rfl rfl rfl rfl ?_

theorem State.serveOrders_keeps (h : Keeps s0 s) :
    Keeps s0 (State.serveOrders s) := by
  with_reducible unfold State.serveOrders; repeat' first
    | assumption | apply State.hostReq_keeps | (extract_lets +onlyGivenNames a; clear_value a)
    | refine Keeps.fst ‹_› ?_ | split | refine Keeps.upd rfl rfl rfl rfl rfl ?_

theorem State.wakeLatch_keeps (hit : State → State) (h : Keeps s0 s) (hhit : ∀ y0, Keeps s0 y0 → Keeps s0 (hit y0)) :
    Keeps s0 (State.wakeLatch s hit) := by
  with_reducible unfold State.wakeLatch; repeat' first
    | assumption | apply State.put_keeps | apply hhit
    | (extract_lets +onlyGivenNames a; first | (refine Keeps.cut (s := a) ?_ (fun _ => ?_); subst a; rotate_left; clear_value a) | clear_value a)
    | split | refine Keeps.upd rfl rfl rfl rfl rfl ?_

theorem State.doorbell_keeps (n v : Nat) (h : Keeps s0 s) :
    Keeps s0 (State.doorbell s n v) := by
  with_reducible unfold State.doorbell; repeat' first
    | assumption | intro _ | apply State.set_keeps | apply State.put_keeps | apply State.serveOrders_keeps
    | apply State.wakeLatch_keeps
    | (extract_lets +onlyGivenNames a; first | (refine Keeps.cut (s := a) ?_ (fun _ => ?_); subst a; rotate_left; clear_value a) | clear_value a)
    | split

theorem State.orCtrlWrite_keeps (n v : Nat) (h : Keeps s0 s) :
    Keeps s0 (State.orCtrlWrite s n v) := by
  with_reducible unfold State.orCtrlWrite; repeat' first
    | assumption | apply State.wr_keeps | apply State.set_keeps | apply State.forget_keeps | apply State.put_keeps
    | apply State.serveOrders_keeps
    | (extract_lets +onlyGivenNames a; first | (refine Keeps.cut (s := a) ?_ (fun _ => ?_); subst a; rotate_left; clear_value a) | clear_value a)
    | split

theorem State.fetchFails_keeps (n addr : Nat) (h : Keeps s0 s) :
    Keeps s0 (State.fetchFails s n addr) := by
  with_reducible unfold State.fetchFails; repeat' first
    | assumption | apply State.chit_keeps | apply State.set_keeps | apply State.serveOrders_keeps

theorem State.jobFetched_keeps (n : Nat) (bs : List Byte) (h : Keeps s0 s) :
    Keeps s0 (State.jobFetched s n bs) := by
  with_reducible unfold State.jobFetched; repeat' first
    | assumption | apply State.updJob_keeps | apply State.fetchMore_keeps
    | (extract_lets +onlyGivenNames a; clear_value a) | split

theorem State.respond_keeps (r : HostReq) (resp : HostResp) (h : Keeps s0 s) :
    Keeps s0 (State.respond s r resp) := by
  with_reducible unfold State.respond; repeat' first
    | assumption | apply State.grantTags_keeps | apply State.jobFetched_keeps
    | (extract_lets +onlyGivenNames a; first | (refine Keeps.cut (s := a) ?_ (fun _ => ?_); subst a; rotate_left; clear_value a) | clear_value a)
    | split | refine Keeps.upd rfl rfl rfl rfl rfl ?_

theorem reqsGone_keeps {s0 s : State} (p : HostReq → Bool) (h : Keeps s0 s) :
    Keeps s0 (State.grantTags { s with reqs := s.reqs.filter p }) :=
  State.grantTags_keeps (h.upd rfl rfl rfl rfl rfl)

theorem State.hostError_keeps (r : HostReq) (k : HostErrKind) (h : Keeps s0 s) :
    Keeps s0 (State.hostError s r k) := by
  unfold State.hostError
  extract_lets i s1 s2 s3 lost
  have h3 : Keeps s0 s3 := State.count_keeps _ _ _ (State.put_keeps _ _ _ (State.put_keeps _ _ _ h))
  have hl : ∀ t, Keeps s0 t → Keeps s0 (lost t) := fun t ht => reqsGone_keeps _ ht
  clear_value s3 lost
  split
  · exact State.fetchFails_keeps _ _ (hl _ h3)
  · extract_lets s4 s5
    have h4 : Keeps s0 s4 := State.set_keeps _ _ _ (State.set_keeps _ _ _ h3)
    clear_value s4
    have h5 : Keeps s0 s5 := h4.upd rfl rfl rfl rfl rfl
    clear_value s5
    exact State.hostErr_keeps _ _ _ (hl _ h5)
  · extract_lets s4
    have h4 : Keeps s0 s4 := (hl _ h3).upd rfl rfl rfl rfl rfl
    clear_value s4
    exact State.retire_keeps (State.jobTo_keeps _ _ _ h4)
  · split
    · exact State.busError_keeps _ _ _ (hl _ h3)
    · exact State.respond_keeps _ _ h3
  · exact State.cartHalt_keeps _ _ _ _ _ (hl _ h3)
  · exact State.hostErr_keeps _ _ _ (hl _ h3)
  · split
    · exact State.respond_keeps _ _ h3
    · split
      · exact State.busError_keeps _ _ _ (hl _ h3)
      · exact State.hostErr_keeps _ _ _ (hl _ h3)


theorem State.popReturn_keeps (x2 q : Nat) (h : Keeps s0 s) :
    Keeps s0 (State.popReturn s x2 q) := by
  with_reducible unfold State.popReturn; repeat' first
    | assumption | apply State.upd_keeps | apply State.busError_keeps | apply State.qDo_keeps
    | apply State.hostErr_keeps | apply State.updTh_keeps | apply State.qStat_keeps | apply State.agentRelease1_keeps
    | apply State.takeAnswer_keeps
    | (extract_lets +onlyGivenNames a; first | (refine Keeps.cut (s := a) ?_ (fun _ => ?_); subst a; rotate_left; clear_value a) | (have e : a = a := funext fun _ => rfl; clear e; subst a; beta_reduce) | clear_value a)
    | split | refine Keeps.upd rfl rfl rfl rfl rfl ?_

theorem execHostReadData_keeps {s0 : State} (id : Nat) (data : List Byte) {s : State} (h : Keeps s0 s) :
    KeepsOut s0 (execHostReadData id data s) := by
  with_reducible unfold execHostReadData; repeat' first
    | assumption | apply KeepsOut.next | apply State.respond_keeps | split

theorem execHostWriteResponse_keeps {s0 : State} (id : Nat) {s : State} (h : Keeps s0 s) :
    KeepsOut s0 (execHostWriteResponse id s) := by
  with_reducible unfold execHostWriteResponse; repeat' first
    | assumption | apply KeepsOut.next | apply State.respond_keeps | split

theorem execHostErrorResponse_keeps {s0 : State} (id : Nat) (kind : HostErrKind) {s : State} (h : Keeps s0 s) :
    KeepsOut s0 (execHostErrorResponse id kind s) := by
  with_reducible unfold execHostErrorResponse; repeat' first
    | assumption | apply KeepsOut.next | apply State.hostError_keeps | split

theorem execHostQueuePopReturn_keeps {s0 : State} (x1 q : Nat) {s : State} (h : Keeps s0 s) :
    KeepsOut s0 (execHostQueuePopReturn x1 q s) := by
  with_reducible unfold execHostQueuePopReturn; repeat' first
    | assumption | apply KeepsOut.next | apply State.popReturn_keeps

theorem execOrCtrlWrite_keeps {s0 : State} (port n : Nat) (v : Word) {s : State} (h : Keeps s0 s) :
    KeepsOut s0 (execOrCtrlWrite port n v s) := by
  with_reducible unfold execOrCtrlWrite; repeat' first
    | assumption | apply KeepsOut.next | intro _ | apply State.byPort_keeps | apply State.orCtrlWrite_keeps

theorem execChitWrite_keeps {s0 : State} (n : Nat) {s : State} (h : Keeps s0 s) :
    KeepsOut s0 (execChitWrite n s) := by
  with_reducible unfold execChitWrite; repeat' first
    | assumption | apply KeepsOut.next | apply State.writeChit_keeps | split

theorem execChitWriteComplete_keeps {s0 : State} (n : Nat) {s : State} (h : Keeps s0 s) :
    KeepsOut s0 (execChitWriteComplete n s) := by
  with_reducible unfold execChitWriteComplete; repeat' first
    | assumption | apply KeepsOut.next | apply State.put_keeps | apply State.takeAnswer_keeps
    | (extract_lets +onlyGivenNames a; first | (refine Keeps.cut (s := a) ?_ (fun _ => ?_); subst a; rotate_left; clear_value a) | clear_value a)
    | split | refine Keeps.upd rfl rfl rfl rfl rfl ?_

theorem execChitAcknowledge_keeps {s0 : State} (port n : Nat) (v : Word) {s : State} (h : Keeps s0 s) :
    KeepsOut s0 (execChitAcknowledge port n v s) := by
  with_reducible unfold execChitAcknowledge; repeat' first
    | assumption | apply KeepsOut.next | intro _ | apply State.chitAck_keeps | apply State.byPort_keeps

theorem execCrCtrlWrite_keeps {s0 : State} (port n : Nat) (v : Word) {s : State} (h : Keeps s0 s) :
    KeepsOut s0 (execCrCtrlWrite port n v s) := by
  with_reducible unfold execCrCtrlWrite; repeat' first
    | assumption | apply KeepsOut.next | intro _ | apply State.byPort_keeps | apply State.crCtrlWrite_keeps

theorem execChitMaskSet_keeps {s0 : State} (port k : Nat) (v : Word) {s : State} (h : Keeps s0 s) :
    KeepsOut s0 (execChitMaskSet port k v s) := by
  with_reducible unfold execChitMaskSet; repeat' first
    | assumption | apply KeepsOut.next | intro _ | apply State.orIn_keeps | apply State.byPort_keeps

theorem execChitMaskClr_keeps {s0 : State} (port k : Nat) (v : Word) {s : State} (h : Keeps s0 s) :
    KeepsOut s0 (execChitMaskClr port k v s) := by
  with_reducible unfold execChitMaskClr; repeat' first
    | assumption | apply KeepsOut.next | intro _ | apply State.clrIn_keeps | apply State.byPort_keeps

theorem execChitPendSet_keeps {s0 : State} (port k : Nat) (v : Word) {s : State} (h : Keeps s0 s) :
    KeepsOut s0 (execChitPendSet port k v s) := by
  with_reducible unfold execChitPendSet; repeat' first
    | assumption | apply KeepsOut.next | intro _ | apply State.orIn_keeps | apply State.byPort_keeps

theorem execChitPendClr_keeps {s0 : State} (port k : Nat) (v : Word) {s : State} (h : Keeps s0 s) :
    KeepsOut s0 (execChitPendClr port k v s) := by
  with_reducible unfold execChitPendClr; repeat' first
    | assumption | apply KeepsOut.next | intro _ | apply State.clrIn_keeps | apply State.byPort_keeps

end Sys2Proof.Machine
end

