-- ==== Sys2Proof/Laws/KeepsResets.lean ====
section
/-! SUPPORT. `Keeps` of the functions of Machine/Resets.lean: what none of them changes. -/

namespace Sys2Proof.Machine

variable {s0 s : State}

theorem State.dropHall_keeps (x2 : Nat) (h : Keeps s0 s) :
    Keeps s0 (State.dropHall s x2) := by
  with_reducible unfold State.dropHall; repeat' first | assumption | split | refine Keeps.upd rfl rfl rfl rfl rfl ?_

theorem State.abandonHall_keeps (x2 : Nat) (h : Keeps s0 s) :
    Keeps s0 (State.abandonHall s x2) := by
  with_reducible unfold State.abandonHall; repeat' first
    | assumption | intro _ | apply State.abandon_keeps | apply forAll_keeps

theorem State.dropJobs_keeps (lanes : Nat × Nat → Bool) (chans : Nat × Nat → Bool) (h : Keeps s0 s) :
    Keeps s0 (State.dropJobs s lanes chans) := by
  with_reducible unfold State.dropJobs; repeat' first
    | assumption | intro _ | apply State.jobTo_keeps | apply forAll_keeps
    | (extract_lets +onlyGivenNames a; first | (refine Keeps.cut (s := a) ?_ (fun _ => ?_); subst a; rotate_left; clear_value a) | clear_value a)
    | split

theorem State.hallReset_keeps (x2 : Nat) (h : Keeps s0 s) :
    Keeps s0 (State.hallReset s x2) := by
  with_reducible unfold State.hallReset; repeat' first
    | assumption | intro _ | apply State.retire_keeps | apply State.dropJobs_keeps | apply State.abandonHall_keeps
    | apply State.refreshLive_keeps | apply State.swapTidy_keeps | apply State.startClock_keeps
    | apply State.dropHall_keeps | apply State.resetRegs_keeps | apply State.forget_keeps | apply State.put_keeps
    | apply forAll_keeps
    | (extract_lets +onlyGivenNames a; first | (refine Keeps.cut (s := a) ?_ (fun _ => ?_); subst a; rotate_left; clear_value a) | clear_value a)
    | split

theorem State.porterReset_keeps (x2 k : Nat) (h : Keeps s0 s) :
    Keeps s0 (State.porterReset s x2 k) := by
  with_reducible unfold State.porterReset; repeat' first
    | assumption | intro _ | apply State.dropJobs_keeps | apply State.leaveGroup_keeps | apply State.resetRegs_keeps
    | apply State.forget_keeps | apply State.abandon_keeps | apply State.drives_keeps | apply forAll_keeps
    | (extract_lets +onlyGivenNames a; first | (refine Keeps.cut (s := a) ?_ (fun _ => ?_); subst a; rotate_left; clear_value a) | clear_value a)
    | split | refine Keeps.upd rfl rfl rfl rfl rfl ?_

theorem State.stallResetCmd_keeps (x2 f : Nat) (h : Keeps s0 s) :
    Keeps s0 (State.stallResetCmd s x2 f) := by
  with_reducible unfold State.stallResetCmd; repeat' first | assumption | apply State.stallReset_keeps | split

theorem State.powerDown_keeps (h : Keeps s0 s) :
    Keeps s0 (State.powerDown s) := by
  with_reducible unfold State.powerDown; repeat' first | assumption | apply State.set_keeps | apply State.put_keeps

theorem State.powerOn_keeps (h : Keeps s0 s) : Keeps s0 (State.powerOn s) :=
  ⟨h.part, h.pending, h.free, fun _ => rfl, fun _ => List.nodup_nil⟩

theorem State.deviceReset_keeps (cause : Nat) (held : Bool) (h : Keeps s0 s) :
    Keeps s0 (State.deviceReset s cause held) := by
  unfold State.deviceReset
  extract_lets off t z r q
  have ht : Keeps s0 t := by
    subst t
    with_reducible repeat' first | assumption | intro _ | apply State.setTokWord_keeps | apply forAll_keeps
  clear_value t
  have hr : Keeps s0 r := by
    refine Keeps.filterRegs (s := t) (fun e => e.1.name.ofPower || e.1.name == .CS_VERSION && !off) rfl rfl rfl ?_ rfl ht
    subst r
    cases off
    · exact .inl rfl
    · exact .inr rfl
  clear_value r
  subst q
  with_reducible repeat' first
    | assumption | apply State.set_keeps | apply State.put_keeps | apply State.powerDown_keeps | split

theorem State.pwrResetWrite_keeps (v : Nat) (h : Keeps s0 s) :
    Keeps s0 (State.pwrResetWrite s v) := by
  with_reducible unfold State.pwrResetWrite; repeat' first
    | assumption | apply State.porterReset_keeps | apply State.stallResetCmd_keeps | apply State.deviceReset_keeps
    | apply State.hallReset_keeps | split

theorem State.romStep_keeps (h : Keeps s0 s) :
    Keeps s0 (State.romStep s) := by
  with_reducible unfold State.romStep; repeat' first
    | assumption | (extract_lets +onlyGivenNames a; clear_value a) | split | refine Keeps.upd rfl rfl rfl rfl rfl ?_

theorem State.request_keeps (level : Nat) (step : PowerStep) (h : Keeps s0 s) :
    Keeps s0 (State.request s level step) := by
  with_reducible unfold State.request; repeat' first
    | assumption | (extract_lets +onlyGivenNames a; clear_value a) | refine Keeps.upd rfl rfl rfl rfl rfl ?_

theorem State.changeLevel_keeps (level : Nat) (h : Keeps s0 s) :
    Keeps s0 (State.changeLevel s level) := by
  with_reducible unfold State.changeLevel; repeat' first
    | assumption | apply State.request_keeps | (extract_lets +onlyGivenNames a; clear_value a) | split
    | refine Keeps.upd rfl rfl rfl rfl rfl ?_

theorem State.beginThrottle_keeps (h : Keeps s0 s) :
    Keeps s0 (State.beginThrottle s) := by
  with_reducible unfold State.beginThrottle; repeat' first
    | assumption | apply State.changeLevel_keeps | apply State.set_keeps
    | (extract_lets +onlyGivenNames a; first | (refine Keeps.cut (s := a) ?_ (fun _ => ?_); subst a; rotate_left; clear_value a) | clear_value a)
    | split | refine Keeps.upd rfl rfl rfl rfl rfl ?_

theorem State.endThrottle_keeps (h : Keeps s0 s) :
    Keeps s0 (State.endThrottle s) := by
  with_reducible unfold State.endThrottle; repeat' first
    | assumption | apply State.changeLevel_keeps | apply State.set_keeps
    | (extract_lets +onlyGivenNames a; first | (refine Keeps.cut (s := a) ?_ (fun _ => ?_); subst a; rotate_left; clear_value a) | clear_value a)
    | split | refine Keeps.upd rfl rfl rfl rfl rfl ?_

theorem State.throttleTurn_keeps (h : Keeps s0 s) :
    Keeps s0 (State.throttleTurn s) := by
  with_reducible unfold State.throttleTurn; repeat' first
    | assumption | apply State.beginThrottle_keeps | apply State.endThrottle_keeps | split

theorem State.levelReached_keeps (level : Nat) (h : Keeps s0 s) :
    Keeps s0 (State.levelReached s level) := by
  with_reducible unfold State.levelReached; repeat' first
    | assumption | apply State.throttleTurn_keeps | apply State.jobTo_keeps | apply State.romStep_keeps
    | apply State.put_keeps
    | (extract_lets +onlyGivenNames a; first | (refine Keeps.cut (s := a) ?_ (fun _ => ?_); subst a; rotate_left; clear_value a) | clear_value a)
    | split | refine Keeps.upd rfl rfl rfl rfl rfl ?_

theorem State.swapPll_keeps (h : Keeps s0 s) :
    Keeps s0 (State.swapPll s) := by
  with_reducible unfold State.swapPll; repeat' first | assumption | apply State.set_keeps

theorem State.romStart_keeps (h : Keeps s0 s) :
    Keeps s0 (State.romStart s) := by
  with_reducible unfold State.romStart; repeat' first
    | assumption | intro _ | apply State.upd_keeps | apply State.romStep_keeps | apply forAll_keeps

theorem State.romLeave_keeps (h : Keeps s0 s) :
    Keeps s0 (State.romLeave s) := by
  with_reducible unfold State.romLeave; repeat' first
    | assumption | intro _ | apply State.upd_keeps | apply State.stopPlain_keeps | apply forAll_keeps | split

theorem State.sleepToHost_keeps (h : Keeps s0 s) :
    Keeps s0 (State.sleepToHost s) := by
  with_reducible unfold State.sleepToHost; repeat' first
    | assumption | intro _ | apply State.set_keeps | apply forAll_keeps | split

theorem State.restartFilters_keeps (h : Keeps s0 s) :
    Keeps s0 (State.restartFilters s) := by
  with_reducible unfold State.restartFilters; repeat' first
    | assumption | (extract_lets +onlyGivenNames a; clear_value a) | refine Keeps.upd rfl rfl rfl rfl rfl ?_

theorem State.fullService_keeps (h : Keeps s0 s) :
    Keeps s0 (State.fullService s) := by
  with_reducible unfold State.fullService; repeat' first
    | assumption | apply State.chit_keeps | apply State.throttleTurn_keeps | apply State.freezeAll_keeps
    | apply State.set_keeps | apply State.romLeave_keeps | apply State.put_keeps | apply State.sleepToHost_keeps
    | (extract_lets +onlyGivenNames a; first | (refine Keeps.cut (s := a) ?_ (fun _ => ?_); subst a; rotate_left; clear_value a) | clear_value a)
    | split | refine Keeps.upd rfl rfl rfl rfl rfl ?_

theorem State.afterOff_keeps (h : Keeps s0 s) : Keeps s0 (State.afterOff s) := by
  unfold State.afterOff
  extract_lets z r q
  have hr : Keeps s0 r := Keeps.filterRegs (s := s) (fun e => e.1.name.offKeeps) rfl rfl rfl (.inr rfl) rfl h
  clear_value r
  subst q
  with_reducible repeat' first | assumption | intro _ | apply State.set_keeps | apply forAll_keeps

theorem State.wakeAxis_keeps (n : Nat) (h : Keeps s0 s) :
    Keeps s0 (State.wakeAxis s n) := by
  with_reducible unfold State.wakeAxis; repeat' first
    | assumption | apply State.goLost_keeps | apply State.setAxis_keeps
    | (extract_lets +onlyGivenNames a; first | (refine Keeps.cut (s := a) ?_ (fun _ => ?_); subst a; rotate_left; clear_value a) | clear_value a)
    | split

theorem State.beginWake_keeps (h : Keeps s0 s) :
    Keeps s0 (State.beginWake s) := by
  with_reducible unfold State.beginWake; repeat' first
    | assumption | intro _ | apply State.afterOff_keeps | apply State.freezeAll_keeps | apply State.tillTo_keeps
    | apply State.powerDown_keeps | apply State.set_keeps | apply State.settle_keeps | apply State.restartFilters_keeps
    | apply State.put_keeps | apply State.serveOrders_keeps | apply State.wakeAxis_keeps | apply forAll_keeps
    | (extract_lets +onlyGivenNames a; first | (refine Keeps.cut (s := a) ?_ (fun _ => ?_); subst a; rotate_left; clear_value a) | clear_value a)
    | split | refine Keeps.upd rfl rfl rfl rfl rfl ?_

theorem State.wakeSource_keeps (hit : State → State) (h : Keeps s0 s) (hhit : ∀ y0, Keeps s0 y0 → Keeps s0 (hit y0)) :
    Keeps s0 (State.wakeSource s hit) := by
  with_reducible unfold State.wakeSource; repeat' first
    | assumption | intro _ | apply State.beginWake_keeps | apply State.wakeLatch_keeps | apply hhit | split

theorem State.pllLock_keeps (h : Keeps s0 s) :
    Keeps s0 (State.pllLock s) := by
  with_reducible unfold State.pllLock; repeat' first
    | assumption | intro _ | apply State.freezeAll_keeps | apply State.tillTo_keeps | apply State.startClock_keeps
    | apply State.set_keeps | apply State.romStep_keeps | apply forAll_keeps

theorem State.refWind_keeps (h : Keeps s0 s) :
    Keeps s0 (State.refWind s) := by
  with_reducible unfold State.refWind; repeat' first | assumption | split | refine Keeps.upd rfl rfl rfl rfl rfl ?_

theorem State.refLost_keeps (h : Keeps s0 s) :
    Keeps s0 (State.refLost s) := by
  with_reducible unfold State.refLost; repeat' first
    | assumption | intro _ | apply State.chit_keeps | apply State.goDown_keeps | apply State.jobTo_keeps
    | apply State.set_keeps | apply State.laneChit_keeps | apply State.refWind_keeps | apply State.trainEnds_keeps
    | apply forAll_keeps
    | (extract_lets +onlyGivenNames a; first | (refine Keeps.cut (s := a) ?_ (fun _ => ?_); subst a; rotate_left; clear_value a) | clear_value a)
    | split | refine Keeps.upd rfl rfl rfl rfl rfl ?_

theorem State.switchBy_keeps (by_ : Accessor) (h : Keeps s0 s) :
    Keeps s0 (State.switchBy s by_) := by
  with_reducible unfold State.switchBy; repeat' first
    | assumption | apply State.fullService_keeps | (extract_lets +onlyGivenNames a; clear_value a) | split

theorem execPowerOnReset_keeps (h : Keeps s0 s) :
    KeepsOut s0 (execPowerOnReset s) := by
  with_reducible unfold execPowerOnReset; repeat' first | assumption | apply KeepsOut.next | apply State.powerOn_keeps

theorem execDeviceReset_keeps {s0 : State} (src : ResetSrc) {s : State} (h : Keeps s0 s) :
    KeepsOut s0 (execDeviceReset src s) := by
  with_reducible unfold execDeviceReset; repeat' first
    | assumption | apply KeepsOut.next | apply State.deviceReset_keeps
    | (extract_lets +onlyGivenNames a; clear_value a) | split | refine Keeps.upd rfl rfl rfl rfl rfl ?_

theorem execHallReset_keeps {s0 : State} (x1 : Nat) {s : State} (h : Keeps s0 s) :
    KeepsOut s0 (execHallReset x1 s) := by
  with_reducible unfold execHallReset; repeat' first | assumption | apply KeepsOut.next | apply State.hallReset_keeps

theorem execStallReset_keeps {s0 : State} (x1 f : Nat) {s : State} (h : Keeps s0 s) :
    KeepsOut s0 (execStallReset x1 f s) := by
  with_reducible unfold execStallReset; repeat' first
    | assumption | apply KeepsOut.next | apply State.stallResetCmd_keeps

theorem execPorterReset_keeps {s0 : State} (x1 k : Nat) {s : State} (h : Keeps s0 s) :
    KeepsOut s0 (execPorterReset x1 k s) := by
  with_reducible unfold execPorterReset; repeat' first
    | assumption | apply KeepsOut.next | apply State.porterReset_keeps

theorem execResetRelease_keeps {s0 : State} (porst : Bool) {s : State} (h : Keeps s0 s) :
    KeepsOut s0 (execResetRelease porst s) := by
  with_reducible unfold execResetRelease; repeat' first
    | assumption | apply KeepsOut.next | (extract_lets +onlyGivenNames a; clear_value a) | split
    | refine Keeps.upd rfl rfl rfl rfl rfl ?_

theorem execBootRomStart_keeps (h : Keeps s0 s) :
    KeepsOut s0 (execBootRomStart s) := by
  with_reducible unfold execBootRomStart; repeat' first
    | assumption | apply KeepsOut.next | apply State.romStart_keeps | split

theorem execTillPllLock_keeps (h : Keeps s0 s) :
    KeepsOut s0 (execTillPllLock s) := by
  with_reducible unfold execTillPllLock; repeat' first
    | assumption | apply KeepsOut.next | apply State.pllLock_keeps | split

theorem execClockSwitch_keeps {s0 : State} (by_ : Accessor) {s : State} (h : Keeps s0 s) :
    KeepsOut s0 (execClockSwitch by_ s) := by
  with_reducible unfold execClockSwitch; repeat' first
    | assumption | apply KeepsOut.next | intro _ | apply State.switchBy_keeps | apply State.byPort_keeps

theorem execRefBack_keeps (h : Keeps s0 s) :
    KeepsOut s0 (execRefBack s) := by
  with_reducible unfold execRefBack; repeat' first
    | assumption | apply KeepsOut.next | (extract_lets +onlyGivenNames a; clear_value a)
    | refine Keeps.upd rfl rfl rfl rfl rfl ?_

theorem execHoldoverExit_keeps (h : Keeps s0 s) :
    KeepsOut s0 (execHoldoverExit s) := by
  with_reducible unfold execHoldoverExit; repeat' first
    | assumption | apply KeepsOut.next | apply State.chit_keeps | apply State.set_keeps | split

theorem execTillAlarmFire_keeps (h : Keeps s0 s) :
    KeepsOut s0 (execTillAlarmFire s) := by
  with_reducible unfold execTillAlarmFire; repeat' first
    | assumption | apply KeepsOut.next | intro _ | apply State.chit_keeps | apply State.set_keeps
    | apply State.wakeSource_keeps
    | (extract_lets +onlyGivenNames a; first | (refine Keeps.cut (s := a) ?_ (fun _ => ?_); subst a; rotate_left; clear_value a) | clear_value a)
    | split

end Sys2Proof.Machine
end

