-- ==== Sys2Proof/Laws/KeepsStallRegs.lean ====
section
/-! SUPPORT. `Keeps` of the functions of Machine/StallRegs.lean: what none of them changes. -/

namespace Sys2Proof.Machine

variable {s0 s : State}

theorem State.storeS_keeps (a : Arr) (o : Nat) (bs : List Byte) (h : Keeps s0 s) :
    Keeps s0 (State.storeS s a o bs) := by
  with_reducible unfold State.storeS; repeat' first | assumption | apply State.store_keeps | split

theorem State.dropBufs_keeps (x2 f : Nat) (p : LoopBuf → Bool) (h : Keeps s0 s) :
    Keeps s0 (State.dropBufs s x2 f p) := by
  with_reducible unfold State.dropBufs; repeat' first
    | assumption | intro _ | apply State.upd_keeps | apply forAll_keeps | split

theorem State.exchangePages_keeps (x2 f : Nat) (h : Keeps s0 s) :
    Keeps s0 (State.exchangePages s x2 f) := by
  with_reducible unfold State.exchangePages; repeat' first
    | assumption | apply State.dropBufs_keeps | apply State.put_keeps

theorem State.pageSel_keeps (x2 f : Nat) (page : Bool) (h : Keeps s0 s) :
    Keeps s0 (State.pageSel s x2 f page) := by
  with_reducible unfold State.pageSel; repeat' first
    | assumption | apply State.set_keeps | apply State.exchangePages_keeps
    | (extract_lets +onlyGivenNames a; clear_value a) | split

theorem State.imemWord_keeps (x2 f : Nat) (page off : Nat) (bs : List Byte) (h : Keeps s0 s) :
    Keeps s0 (State.imemWord s x2 f page off bs) := by
  with_reducible unfold State.imemWord; repeat' first
    | assumption | apply State.dropBufs_keeps | apply State.storeS_keeps
    | (extract_lets +onlyGivenNames a; first | (refine Keeps.cut (s := a) ?_ (fun _ => ?_); subst a; rotate_left; clear_value a) | clear_value a)
    | split

theorem State.imemWrite_keeps (x2 f : Nat) (page off : Nat) (bs : List Byte) (h : Keeps s0 s) :
    Keeps s0 (State.imemWrite s x2 f page off bs) := by
  with_reducible unfold State.imemWrite; repeat' first | assumption | apply State.imemWord_keeps | split

theorem State.winWrite_keeps (x2 f o : Nat) (bs : List Byte) (h : Keeps s0 s) :
    Keeps s0 (State.winWrite s x2 f o bs) := by
  with_reducible unfold State.winWrite; repeat' first | assumption | apply State.storeS_keeps

theorem State.invalidate_keeps (x2 f : Nat) (h : Keeps s0 s) :
    Keeps s0 (State.invalidate s x2 f) := by
  with_reducible unfold State.invalidate; repeat' first
    | assumption | apply State.dropBufs_keeps | apply State.setStall_keeps | apply State.set_keeps
    | (extract_lets +onlyGivenNames a; first | (refine Keeps.cut (s := a) ?_ (fun _ => ?_); subst a; rotate_left; clear_value a) | clear_value a)
    | refine Keeps.upd rfl rfl rfl rfl rfl ?_

theorem State.lineFill_keeps (x2 f : Nat) (o : MemOutcome) (h : Keeps s0 s) :
    Keeps s0 (State.lineFill s x2 f o) := by
  with_reducible unfold State.lineFill; repeat' first
    | assumption | intro _ | apply State.upd_keeps | apply State.usedWay_keeps | apply State.corrected_keeps
    | apply State.setStall_keeps | apply State.set_keeps | apply State.wordClean_keeps | apply State.granted_keeps
    | apply State.collided_keeps | apply State.uncorrectable_keeps | apply forAll_keeps
    | (extract_lets +onlyGivenNames a; first | (refine Keeps.cut (s := a) ?_ (fun _ => ?_); subst a; rotate_left; clear_value a) | clear_value a)
    | refine Keeps.snd ‹_› ?_ | split

theorem State.copyPair_keeps (x2 f : Nat) (h : Keeps s0 s) :
    Keeps s0 (State.copyPair s x2 f) := by
  with_reducible unfold State.copyPair; repeat' first
    | assumption | intro _ | apply State.wr_keeps | apply State.setStall_keeps | apply State.resetRegs_keeps
    | apply State.setTrader_keeps | apply forAll_keeps
    | (extract_lets +onlyGivenNames a; first | (refine Keeps.cut (s := a) ?_ (fun _ => ?_); subst a; rotate_left; clear_value a) | clear_value a)
    | refine Keeps.upd rfl rfl rfl rfl rfl ?_

theorem State.lockstepWrite_keeps (x2 v : Nat) (h : Keeps s0 s) :
    Keeps s0 (State.lockstepWrite s x2 v) := by
  with_reducible unfold State.lockstepWrite; repeat' first
    | assumption | intro _ | apply State.set_keeps | apply State.put_keeps | apply State.copyPair_keeps
    | apply forAll_keeps
    | (extract_lets +onlyGivenNames a; first | (refine Keeps.cut (s := a) ?_ (fun _ => ?_); subst a; rotate_left; clear_value a) | clear_value a)
    | split

theorem State.failRole_keeps (x2 role : Nat) (h : Keeps s0 s) :
    Keeps s0 (State.failRole s x2 role) := by
  with_reducible unfold State.failRole; repeat' first
    | assumption | apply State.settle_keeps | split | refine Keeps.upd rfl rfl rfl rfl rfl ?_

theorem State.releaseHall_keeps (x2 : Nat) (src : Field) (h : Keeps s0 s) :
    Keeps s0 (State.releaseHall s x2 src) := by
  with_reducible unfold State.releaseHall; repeat' first
    | assumption | intro _ | apply State.unhold_keeps | apply forAll_keeps | split

theorem State.hctrlWrite_keeps (x2 v : Nat) (h : Keeps s0 s) :
    Keeps s0 (State.hctrlWrite s x2 v) := by
  with_reducible unfold State.hctrlWrite; repeat' first
    | assumption | apply State.failRole_keeps | apply State.set_keeps | apply State.releaseHall_keeps
    | (extract_lets +onlyGivenNames a; first | (refine Keeps.cut (s := a) ?_ (fun _ => ?_); subst a; rotate_left; clear_value a) | clear_value a)
    | split

theorem State.winMemWrite_keeps (m : WinMem) (bs : List Byte) (h : Keeps s0 s) :
    Keeps s0 (State.winMemWrite s m bs) := by
  with_reducible unfold State.winMemWrite; repeat' first
    | assumption | apply State.store_keeps | apply State.imemWrite_keeps | apply State.granted_keeps
    | apply State.csWrite_keeps | apply State.winWrite_keeps | apply State.pageWrite_keeps | split

theorem State.winMemRead_keeps (p : Nat) (m : WinMem) (n : Nat) (o : MemOutcome) (h : Keeps s0 s) :
    Keeps s0 (State.winMemRead s p m n o).2 := by
  with_reducible unfold State.winMemRead; repeat' first
    | assumption | apply State.corrected_keeps | apply State.set_keeps | apply State.granted_keeps
    | apply State.collided_keeps | apply State.uncorrectable_keeps | apply State.count_keeps
    | (extract_lets +onlyGivenNames a; first | (refine Keeps.cut (s := a) ?_ (fun _ => ?_); subst a; rotate_left; clear_value a) | (have e : a = a := funext fun _ => rfl; clear e; subst a; beta_reduce) | clear_value a)
    | dsimp only | refine Keeps.snd ‹_› ?_ | split | refine Keeps.upd rfl rfl rfl rfl rfl ?_

theorem execPageSel_keeps {s0 : State} (by_ : Accessor) (x2 f : Nat) (page : Bool) {s : State} (h : Keeps s0 s) :
    KeepsOut s0 (execPageSel by_ x2 f page s) := by
  with_reducible unfold execPageSel; repeat' first
    | assumption | apply KeepsOut.next | intro _ | apply State.pageSel_keeps | apply State.byPort_keeps | split

theorem execInval_keeps {s0 : State} (by_ : Accessor) (x2 f : Nat) {s : State} (h : Keeps s0 s) :
    KeepsOut s0 (execInval by_ x2 f s) := by
  with_reducible unfold execInval; repeat' first
    | assumption | apply KeepsOut.next | intro _ | apply State.invalidate_keeps | apply State.byPort_keeps | split

theorem execIcacheInvalEnd_keeps {s0 : State} (x1 f : Nat) {s : State} (h : Keeps s0 s) :
    KeepsOut s0 (execIcacheInvalEnd x1 f s) := by
  with_reducible unfold execIcacheInvalEnd; repeat' first
    | assumption | apply KeepsOut.next | apply State.setStall_keeps | apply State.set_keeps
    | (extract_lets +onlyGivenNames a; clear_value a) | split

theorem execIcacheLineFill_keeps {s0 : State} (x1 f : Nat) (o : MemOutcome) {s : State} (h : Keeps s0 s) :
    KeepsOut s0 (execIcacheLineFill x1 f o s) := by
  with_reducible unfold execIcacheLineFill; repeat' first
    | assumption | apply KeepsOut.next | apply State.lineFill_keeps | apply State.settle_keeps | split

theorem execImemWrite_keeps {s0 : State} (port x2 : Nat) (f page off : Nat) (data : List Byte) {s : State}
    (h : Keeps s0 s) :
    KeepsOut s0 (execImemWrite port x2 f page off data s) := by
  with_reducible unfold execImemWrite; repeat' first
    | assumption | apply KeepsOut.next | intro _ | apply State.winMemWrite_keeps | apply State.byPort_keeps

theorem execFtLockstepWrite_keeps {s0 : State} (port x2 : Nat) (v : Word) {s : State} (h : Keeps s0 s) :
    KeepsOut s0 (execFtLockstepWrite port x2 v s) := by
  with_reducible unfold execFtLockstepWrite; repeat' first
    | assumption | apply KeepsOut.next | intro _ | apply State.lockstepWrite_keeps | apply State.byPort_keeps | split

theorem execFailRequest_keeps {s0 : State} (port x2 role : Nat) {s : State} (h : Keeps s0 s) :
    KeepsOut s0 (execFailRequest port x2 role s) := by
  with_reducible unfold execFailRequest; repeat' first
    | assumption | apply KeepsOut.next | intro _ | apply State.failRole_keeps | apply State.byPort_keeps | split

theorem execFailRelease_keeps {s0 : State} (port x2 : Nat) {s : State} (h : Keeps s0 s) :
    KeepsOut s0 (execFailRelease port x2 s) := by
  with_reducible unfold execFailRelease; repeat' first
    | assumption | apply KeepsOut.next | intro _ | apply State.byPort_keeps | apply State.releaseHall_keeps | split

theorem execWindRelease_keeps {s0 : State} (port x2 : Nat) {s : State} (h : Keeps s0 s) :
    KeepsOut s0 (execWindRelease port x2 s) := by
  with_reducible unfold execWindRelease; repeat' first
    | assumption | apply KeepsOut.next | intro _ | apply State.byPort_keeps | apply State.releaseHall_keeps | split

theorem execWindowMemoryWrite_keeps {s0 : State} (port addr : Nat) (data : List Byte) {s : State} (h : Keeps s0 s) :
    KeepsOut s0 (execWindowMemoryWrite port addr data s) := by
  with_reducible unfold execWindowMemoryWrite; repeat' first
    | assumption | apply KeepsOut.next | intro _ | apply State.winMemWrite_keeps | apply State.byPort_keeps | split

end Sys2Proof.Machine
end

