-- ==== Sys2Proof/Laws/KeepsRegMap.lean ====
section
/-! SUPPORT. `Keeps` of the functions of Machine/RegMap.lean: what none of them changes. -/

namespace Sys2Proof.Machine

variable {s0 s : State}

theorem State.idleWrite_keeps (x2 c : Nat) (r : Reg) (v : Nat) (h : Keeps s0 s) :
    Keeps s0 (State.idleWrite s x2 c r v) := by
  with_reducible unfold State.idleWrite; repeat' first
    | assumption | apply State.set_keeps | apply State.fieldWrite_keeps
    | (extract_lets +onlyGivenNames a; clear_value a) | split

theorem State.chCtrlWrite_keeps (x2 c v : Nat) (h : Keeps s0 s) :
    Keeps s0 (State.chCtrlWrite s x2 c v) := by
  with_reducible unfold State.chCtrlWrite; repeat' first
    | assumption | apply State.wr_keeps | apply State.settleCredit_keeps | apply State.set_keeps
    | apply State.cartSuspended_keeps | apply State.cartAbort_keeps | apply State.cartBegin_keeps
    | apply State.cartPause_keeps
    | (extract_lets +onlyGivenNames a; first | (refine Keeps.cut (s := a) ?_ (fun _ => ?_); subst a; rotate_left; clear_value a) | clear_value a)
    | split

theorem State.regWrite_keeps (by_ : Accessor) (r : Reg) (v : Nat) (h : Keeps s0 s) :
    Keeps s0 (State.regWrite s by_ r v) := by
  with_reducible unfold State.regWrite; repeat' first
    | assumption | intro _ | apply State.crierPort_keeps | apply State.pageSel_keeps | apply State.agentOp_keeps
    | apply State.criersStop_keeps | apply State.lnGroupWrite_keeps | apply State.pswMapWrite_keeps
    | apply State.w1c_keeps | apply State.lnCtrlWrite_keeps | apply State.upd_keeps | apply State.dropBufs_keeps
    | apply State.idleWrite_keeps | apply State.invalidate_keeps | apply State.clrIn_keeps
    | apply State.pwrResetWrite_keeps | apply State.erWrite_keeps | apply State.doorbell_keeps
    | apply State.agentRelease_keeps | apply State.brClkWrite_keeps | apply State.latchWrite_keeps
    | apply State.ctCatch_keeps | apply State.evKick_keeps | apply State.brIdataWrite_keeps
    | apply State.ringMask_keeps | apply State.setMr_keeps | apply State.ctPeriodWrite_keeps
    | apply State.ctInputWrite_keeps | apply State.set_keeps | apply State.barrowPageSel_keeps
    | apply State.fieldWrite_keeps | apply State.tmCtrlWrite_keeps | apply State.txPush_keeps
    | apply State.pinCfgShWrite_keeps | apply State.pinEvtWrite_keeps | apply State.chitAck_keeps
    | apply State.chCtrlWrite_keeps | apply State.switchBy_keeps | apply State.criersStart_keeps
    | apply State.put_keeps | apply State.eachPin_keeps | apply State.unhold_keeps | apply State.mboxWrite_keeps
    | apply State.lockstepWrite_keeps | apply State.runWrite_keeps | apply State.hselNote_keeps
    | apply State.abandon_keeps | apply State.setPin_keeps | apply State.pinCfgWrite_keeps
    | apply State.hctrlWrite_keeps | apply State.kickCriers_keeps | apply State.crCtrlWrite_keeps
    | apply State.releaseHall_keeps | apply State.orCtrlWrite_keeps | apply State.ctCompareWrite_keeps
    | apply State.grantTags_keeps | apply State.taxCtrlWrite_keeps | apply State.hold_keeps
    | apply State.brOwnWrite_keeps | apply State.crierRestart_keeps | apply State.drives_keeps
    | apply State.ctCountWrite_keeps | apply State.ctCtrlWrite_keeps | apply State.evPendSet_keeps
    | apply State.taxCmd_keeps | apply forAll_keeps
    | (extract_lets +onlyGivenNames a; first | (refine Keeps.cut (s := a) ?_ (fun _ => ?_); subst a; rotate_left; clear_value a) | clear_value a)
    | split | refine Keeps.upd rfl rfl rfl rfl rfl ?_

theorem State.readEffect_keeps (r : Reg) (h : Keeps s0 s) :
    Keeps s0 (State.readEffect s r) := by
  with_reducible unfold State.readEffect; repeat' first
    | assumption | intro _ | apply State.put_keeps | apply State.chainLatch_keeps | apply forAll_keeps
    | (extract_lets +onlyGivenNames a; first | (refine Keeps.cut (s := a) ?_ (fun _ => ?_); subst a; rotate_left; clear_value a) | clear_value a)
    | split

theorem State.corrRead_keeps (r : Reg) (h : Keeps s0 s) :
    Keeps s0 (State.corrRead s r) := by
  with_reducible unfold State.corrRead; repeat' first | assumption | split | refine Keeps.upd rfl rfl rfl rfl rfl ?_

theorem State.readReg_keeps (by_ : Accessor) (r : Reg) (h : Keeps s0 s) :
    Keeps s0 (State.readReg s by_ r).2 := by
  with_reducible unfold State.readReg; repeat' first
    | assumption | apply State.agentOp_keeps | apply State.agentAcquire_keeps | apply State.corrRead_keeps
    | apply State.readEffect_keeps | apply State.rxPop_keeps
    | (extract_lets +onlyGivenNames a; first | (refine Keeps.cut (s := a) ?_ (fun _ => ?_); subst a; rotate_left; clear_value a) | clear_value a)
    | dsimp only | refine Keeps.snd ‹_› ?_ | split

theorem State.setPort_keeps (p : Nat) (l : PortLatch) (h : Keeps s0 s) :
    Keeps s0 (State.setPort s p l) := by
  with_reducible unfold State.setPort; repeat' first | assumption | refine Keeps.upd rfl rfl rfl rfl rfl ?_

theorem State.wordWrite_keeps (p : Nat) (r : Reg) (hi : Bool) (v : Nat) (h : Keeps s0 s) :
    Keeps s0 (State.wordWrite s p r hi v) := by
  with_reducible unfold State.wordWrite; repeat' first
    | assumption | apply State.setPort_keeps | apply State.qDescWrite_keeps | apply State.wr_keeps
    | apply State.regWrite_keeps | (extract_lets +onlyGivenNames a; clear_value a) | split

theorem State.hostWrite_keeps (p a : Nat) (bs : List Byte) (h : Keeps s0 s) :
    Keeps s0 (State.hostWrite s p a bs) := by
  with_reducible unfold State.hostWrite; repeat' first | assumption | apply State.wordWrite_keeps | split

theorem State.hostRead_keeps (p a : Nat) (h : Keeps s0 s) :
    Keeps s0 (State.hostRead s p a).2 := by
  with_reducible unfold State.hostRead; repeat' first
    | assumption | apply State.setPort_keeps | apply State.readReg_keeps
    | (extract_lets +onlyGivenNames a; clear_value a) | dsimp only | refine Keeps.snd ‹_› ?_ | split

theorem State.windowRead_keeps (p a : Nat) (n added : Nat) (o : MemOutcome) (h : Keeps s0 s) :
    Keeps s0 (State.windowRead s p a n added o) := by
  with_reducible unfold State.windowRead; repeat' first
    | assumption | intro _ | apply State.hostRead_keeps | apply State.winMemRead_keeps | apply State.count_keeps
    | apply forAll_keeps
    | (extract_lets +onlyGivenNames a; first | (refine Keeps.cut (s := a) ?_ (fun _ => ?_); subst a; rotate_left; clear_value a) | clear_value a)
    | refine Keeps.snd ‹_› ?_ | split | refine Keeps.upd rfl rfl rfl rfl rfl ?_

theorem State.ioWrite1_keeps (t : TraderId) (a : Nat) (b : Byte) (h : Keeps s0 s) :
    Keeps s0 (State.ioWrite1 s t a b) := by
  with_reducible unfold State.ioWrite1; repeat' first
    | assumption | apply State.upd_keeps | apply State.wr_keeps | apply State.regWrite_keeps
    | (extract_lets +onlyGivenNames a; clear_value a) | split

theorem State.ioWrite_keeps (t : TraderId) (a : Nat) (bs : List Byte) (h : Keeps s0 s) :
    Keeps s0 (State.ioWrite s t a bs) := by
  with_reducible unfold State.ioWrite; repeat' first
    | assumption | intro _ | apply State.ioWrite1_keeps | apply forAll_keeps

theorem State.ioRead1_keeps (t : TraderId) (a : Nat) (h : Keeps s0 s) :
    Keeps s0 (State.ioRead1 s t a).2 := by
  with_reducible unfold State.ioRead1; repeat' first
    | assumption | apply State.upd_keeps | apply State.readReg_keeps | (extract_lets +onlyGivenNames a; clear_value a)
    | dsimp only | refine Keeps.snd ‹_› ?_ | split

theorem State.ioRead_keeps {s0 : State} (t : TraderId) (a n : Nat) {s : State} (h : Keeps s0 s) :
    Keeps s0 (State.ioRead s t a n).2 := by
  induction n generalizing a s with
  | zero =>
    rw [State.ioRead]
    exact h
  | succ n ih =>
    rw [State.ioRead]
    have h1 := State.ioRead1_keeps t a h
    generalize State.ioRead1 s t a = p at h1 ⊢
    obtain ⟨b, s1⟩ := p
    have h2 := ih (a + 1) h1
    dsimp only
    generalize State.ioRead s1 t (a + 1) n = q at h2 ⊢
    exact h2

end Sys2Proof.Machine
end

