-- ==== Sys2Proof/Laws/KeepsImages.lean ====
section
/-! SUPPORT. `Keeps` of the functions of Machine/Images.lean: what none of them changes. -/

namespace Sys2Proof.Machine

variable {s0 s : State}

theorem State.setHolder_keeps (r : Nat) (o : Option Nat) (h : Keeps s0 s) :
    Keeps s0 (State.setHolder s r o) := by
  with_reducible unfold State.setHolder; repeat' first | assumption | apply State.wr_keeps

theorem State.refuseClaims_keeps (job : Nat) (xs : List (Nat × Nat)) (h : Keeps s0 s) :
    Keeps s0 (State.refuseClaims s job xs) := by
  with_reducible unfold State.refuseClaims; repeat' first
    | assumption | intro _ | apply State.raiseOn_keeps | apply forAll_keeps

theorem State.watched_keeps (fs : List (Field × Ix)) (f : State → State)
    (h : Keeps s0 s) (hf : ∀ y0, Keeps s0 y0 → Keeps s0 (f y0)) :
    Keeps s0 (State.watched s fs f).1 := by
  with_reducible unfold State.watched; repeat' first
    | assumption | intro _ | apply State.set_keeps | apply hf | apply forAll_keeps
    | (extract_lets +onlyGivenNames a; first | (refine Keeps.cut (s := a) ?_ (fun _ => ?_); subst a; rotate_left; clear_value a) | clear_value a)
    | dsimp only | split

theorem writeAll_keeps {α : Type} {s0 : State} (f : α → State → State × Bool) (xs : List α) {s : State}
    (h : Keeps s0 s)
    (hf : ∀ x t, Keeps s0 t → Keeps s0 (f x t).1) : Keeps s0 (writeAll f xs s).1 := by
  induction xs generalizing s with
  | nil => exact h
  | cons x xs ih =>
    have hx := hf x s h
    unfold writeAll
    split
    · rename_i t e
      exact ih (Keeps.fst e hx)
    · rename_i t e
      exact Keeps.fst e hx

theorem State.loadReg_keeps (a v : Nat) (h : Keeps s0 s) :
    Keeps s0 (State.loadReg s a v).1 := by
  with_reducible unfold State.loadReg; repeat' first
    | assumption | intro _ | apply State.watched_keeps | apply State.hostWrite_keeps

theorem State.ramStore_keeps (x2 f o : Nat) (bs : List Byte) (h : Keeps s0 s) :
    Keeps s0 (State.ramStore s x2 f o bs) := by
  unfold State.ramStore
  extract_lets part
  have hp : ∀ a lo n t, Keeps s0 t → Keeps s0 (part a lo n t) := by
    intro a lo n t ht
    subst part
    beta_reduce
    with_reducible repeat' first
      | assumption | apply State.storeS_keeps | (extract_lets +onlyGivenNames a; clear_value a) | split
  clear_value part
  with_reducible repeat' first | assumption | intro _ | apply hp | apply forAll_keeps

theorem State.applyStall_keeps (i : Image) (x3 role f : Nat) (h : Keeps s0 s) :
    Keeps s0 (State.applyStall s i x3 role f) := by
  with_reducible unfold State.applyStall; repeat' first
    | assumption | intro _ | apply State.wr_keeps | apply State.fieldWrite_keeps | apply State.put_keeps
    | apply forAll_keeps
    | (extract_lets +onlyGivenNames a; first | (refine Keeps.cut (s := a) ?_ (fun _ => ?_); subst a; rotate_left; clear_value a) | clear_value a)
    | split

theorem State.applyBarrow_keeps (x2 b : Nat) (c : List Byte) (h : Keeps s0 s) :
    Keeps s0 (State.applyBarrow s x2 b c) := by
  with_reducible unfold State.applyBarrow; repeat' first
    | assumption | intro _ | apply State.fieldWrite_keeps | apply State.regWrite_keeps | apply forAll_keeps

theorem State.applyEntries_keeps (x2 b : Nat) (c : List Byte) (h : Keeps s0 s) :
    Keeps s0 (State.applyEntries s x2 b c) := by
  with_reducible unfold State.applyEntries; repeat' first
    | assumption | intro _ | apply State.put_keeps | apply forAll_keeps

theorem setupEntry_keeps {s0 : State} (x1 : Nat) (e : Nat × Nat) {s : State} (h : Keeps s0 s) :
    Keeps s0 (setupEntry x1 e s).1 := by
  with_reducible unfold setupEntry; repeat' first | assumption | apply State.loadReg_keeps | dsimp only | split

theorem pinsSection_keeps (x2 : Nat) (sh : Bool) (pins : List (Nat × Nat)) (h : Keeps s0 s) :
    Keeps s0 (writeAll (fun e s => s.watched [(PIN_STATUS.CFG_ERR, ix x2 e.1)]
      (fun s => if sh then s.pinCfgShWrite x2 e.1 e.2 else s.pinCfgWrite x2 e.1 e.2)) pins s).1 := by
  refine writeAll_keeps _ pins h (fun e t ht => State.watched_keeps _ _ ht (fun u hu => ?_))
  with_reducible repeat' first | assumption | apply State.pinCfgShWrite_keeps | apply State.pinCfgWrite_keeps | split

theorem mapSection_keeps (x2 : Nat) (c : List Byte) (h : Keeps s0 s) :
    Keeps s0 (writeAll (fun k s => s.watched [(PSW_STATUS.REFUSED, ix x2)] (fun s =>
        if field c (512 + k / 2) 1 / 16 ^ (k % 2) % 16 = 0xE then s
        else s.mapEntry x2 k (field c (512 + k / 2) 1 / 16 ^ (k % 2) % 16))) (List.range 16) s).1 := by
  refine writeAll_keeps _ _ h (fun e t ht => State.watched_keeps _ _ ht (fun u hu => ?_))
  with_reducible repeat' first | assumption | apply State.mapEntry_keeps | split

theorem State.placeSection_keeps (i : Image) (x : Sect) (h : Keeps s0 s) :
    Keeps s0 (State.placeSection s i x).1 := by
  unfold State.placeSection
  extract_lets +onlyGivenNames c x2 f
  clear_value c x2 f
  split
  · extract_lets +onlyGivenNames page t
    have ht : Keeps s0 t := State.storeS_keeps _ _ _ h
    clear_value t
    dsimp only
    with_reducible repeat' first | assumption | apply State.dropBufs_keeps | split
  · exact State.ramStore_keeps _ _ _ _ h
  · exact State.store_keeps _ _ _ (State.granted_keeps _ _ _ _ h)
  · extract_lets +onlyGivenNames page
    clear_value page
    split
    · exact h
    · exact forAll_keeps _ _ h (fun w t ht => State.storeNat_keeps _ _ _ _ ht)
  · extract_lets +onlyGivenNames pins s1
    have h1 : Keeps s0 s1.1 := pinsSection_keeps x2 i.shadow pins h
    clear_value s1
    split
    · exact h1
    · split
      · exact State.wr_keeps _ _ (State.wr_keeps _ _ h1)
      · exact mapSection_keeps x2 c h1
  · split
    · exact h
    · exact forAll_keeps _ _ h (fun r t ht => State.regWrite_keeps _ _ _ ht)
  · split
    · exact h
    · exact writeAll_keeps _ _ h (fun e t ht => State.loadReg_keeps _ _ ht)
  · exact writeAll_keeps _ _ h (fun e t ht => setupEntry_keeps x2 e ht)
  · exact h

theorem State.showKeep_keeps (h : Keeps s0 s) :
    Keeps s0 (State.showKeep s) := by
  with_reducible unfold State.showKeep; repeat' first
    | assumption | intro _ | apply State.put_keeps | apply forAll_keeps

theorem State.applyKeep_keeps (i : Image) (h : Keeps s0 s) :
    Keeps s0 (State.applyKeep s i) := by
  with_reducible unfold State.applyKeep; repeat' first
    | assumption | intro _ | apply State.showKeep_keeps | apply State.wr_keeps | apply State.put_keeps
    | apply forAll_keeps
    | (extract_lets +onlyGivenNames a; first | (refine Keeps.cut (s := a) ?_ (fun _ => ?_); subst a; rotate_left; clear_value a) | clear_value a)
    | split | refine Keeps.upd rfl rfl rfl rfl rfl ?_

theorem State.showImage_keeps (i : Image) (h : Keeps s0 s) :
    Keeps s0 (State.showImage s i) := by
  with_reducible unfold State.showImage; repeat' first
    | assumption | intro _ | apply State.put_keeps | apply forAll_keeps

theorem State.loadEnds_keeps (job : Nat) (st : JobState) (reason : Nat) (h : Keeps s0 s) :
    Keeps s0 (State.loadEnds s job st reason) := by
  with_reducible unfold State.loadEnds; repeat' first
    | assumption | apply State.retire_keeps | apply State.jobTo_keeps | refine Keeps.upd rfl rfl rfl rfl rfl ?_

theorem State.commitImage_keeps (i : Image) (h : Keeps s0 s) :
    Keeps s0 (State.commitImage s i) := by
  with_reducible unfold State.commitImage; repeat' first
    | assumption | intro _ | apply State.retire_keeps | apply State.updImage_keeps | apply State.refreshLive_keeps
    | apply State.applyStall_keeps | apply State.jobTo_keeps | apply State.applyEntries_keeps
    | apply State.refuseClaims_keeps | apply State.wr_keeps | apply State.set_keeps | apply State.applyBarrow_keeps
    | apply State.applyKeep_keeps | apply State.showImage_keeps | apply State.loadEnds_keeps
    | apply State.setHolder_keeps | apply forAll_keeps
    | (extract_lets +onlyGivenNames a; first | (refine Keeps.cut (s := a) ?_ (fun _ => ?_); subst a; rotate_left; clear_value a) | (have e : a = a := funext fun _ => rfl; clear e; subst a; beta_reduce) | clear_value a)
    | split

theorem State.loadPoint_keeps (job : Nat) (points : Bool) (go : State → State)
    (h : Keeps s0 s) (hgo : ∀ y0, Keeps s0 y0 → Keeps s0 (go y0)) :
    Keeps s0 (State.loadPoint s job points go) := by
  with_reducible unfold State.loadPoint; repeat' first
    | assumption | apply State.jobTo_keeps | apply State.loadEnds_keeps | apply hgo | split

theorem State.fetchSection_keeps (job : Nat) (h : Keeps s0 s) :
    Keeps s0 (State.fetchSection s job) := by
  with_reducible unfold State.fetchSection; repeat' first | assumption | apply State.fetchHost_keeps | split

theorem State.headerFetched_keeps (job len : Nat) (shadow : Bool) (bs : List Byte) (h : Keeps s0 s) :
    Keeps s0 (State.headerFetched s job len shadow bs) := by
  unfold State.headerFetched
  extract_lets +onlyGivenNames i
  clear_value i
  split
  · exact State.loadEnds_keeps job _ _ h
  · extract_lets s1
    have h1 : Keeps s0 s1 := h.upd rfl rfl rfl rfl rfl
    clear_value s1
    exact State.loadPoint_keeps job false _ (State.updJob_keeps job _ h1) (fun t ht => State.fetchSection_keeps _ ht)

theorem State.sectionFetched_keeps (i : Image) (x : Sect) (bs : List Byte) (h : Keeps s0 s) :
    Keeps s0 (State.sectionFetched s i x bs) := by
  with_reducible unfold State.sectionFetched; repeat' first
    | assumption | intro _ | apply State.updImage_keeps | apply State.fetchSection_keeps | apply State.loadEnds_keeps
    | apply State.commitImage_keeps | apply State.placeSection_keeps | apply State.loadPoint_keeps
    | (extract_lets +onlyGivenNames a; clear_value a) | refine Keeps.fst ‹_› ?_ | split

theorem State.swapLate_keeps (h : Keeps s0 s) :
    Keeps s0 (State.swapLate s) := by
  with_reducible unfold State.swapLate; repeat' first
    | assumption | intro _ | apply State.swapEnds_keeps | apply forAll_keeps

theorem State.startSwap_keeps (job loaded : Nat) (trigger axis : Nat) (dir value : Nat) (h : Keeps s0 s) :
    Keeps s0 (State.startSwap s job loaded trigger axis dir value) := by
  with_reducible unfold State.startSwap; repeat' first
    | assumption | intro _ | apply State.jobTo_keeps | apply State.wr_keeps | apply State.set_keeps
    | apply State.arm_keeps | apply State.put_keeps | apply State.swapLate_keeps | apply forAll_keeps
    | (extract_lets +onlyGivenNames a; first | (refine Keeps.cut (s := a) ?_ (fun _ => ?_); subst a; rotate_left; clear_value a) | clear_value a)
    | split | refine Keeps.upd rfl rfl rfl rfl rfl ?_

theorem State.commitSwap_keeps (w : Swap) (at_ : Nat) (h : Keeps s0 s) :
    Keeps s0 (State.commitSwap s w at_) := by
  with_reducible unfold State.commitSwap; repeat' first
    | assumption | intro _ | apply State.put_keeps | apply forAll_keeps
    | (extract_lets +onlyGivenNames a; first | (refine Keeps.cut (s := a) ?_ (fun _ => ?_); subst a; rotate_left; clear_value a) | clear_value a)
    | split | refine Keeps.upd rfl rfl rfl rfl rfl ?_

theorem State.swapMap_keeps (x2 : Nat) (h : Keeps s0 s) :
    Keeps s0 (State.swapMap s x2) := by
  with_reducible unfold State.swapMap; repeat' first
    | assumption | intro _ | apply State.wr_keeps | apply State.setStallOf_keeps | apply forAll_keeps
    | (extract_lets +onlyGivenNames a; clear_value a) | split

theorem State.handOver_keeps (i : Image) (h : Keeps s0 s) : Keeps s0 (State.handOver s i) := by
  unfold State.handOver
  extract_lets preds t u
  have ht : Keeps s0 t :=
    Keeps.filterRegs (s := s) (fun e => !(e.1.isClaim && bit e.2.toNat 31 && preds.contains (bits e.2.toNat 15 0))) rfl rfl rfl (.inl rfl) rfl h
  clear_value t
  subst u
  with_reducible repeat' first
    | assumption | intro _ | apply State.setHolder_keeps | apply State.wr_keeps | apply forAll_keeps | split

theorem State.swapInstant_keeps (w : Swap) (at_ : Nat) (h : Keeps s0 s) :
    Keeps s0 (State.swapInstant s w at_) := by
  with_reducible unfold State.swapInstant; repeat' first
    | assumption | intro _ | apply State.retire_keeps | apply State.updImage_keeps | apply State.refreshLive_keeps
    | apply State.swapTidy_keeps | apply State.updJob_keeps | apply State.handOver_keeps | apply State.wr_keeps
    | apply State.swapMap_keeps | apply State.set_keeps | apply State.put_keeps | apply State.hostWrite_keeps
    | apply State.applyKeep_keeps | apply State.showImage_keeps | apply State.setBarrow_keeps | apply forAll_keeps
    | (extract_lets +onlyGivenNames a; first | (refine Keeps.cut (s := a) ?_ (fun _ => ?_); subst a; rotate_left; clear_value a) | (have e : a = a := funext fun _ => rfl; clear e; subst a; beta_reduce) | clear_value a)
    | split | refine Keeps.upd rfl rfl rfl rfl rfl ?_

theorem State.unitSwapped_keeps (f : Swap → Swap) (h : Keeps s0 s) :
    Keeps s0 (State.unitSwapped s f) := by
  with_reducible unfold State.unitSwapped; repeat' first
    | assumption | apply State.retire_keeps | apply State.swapTidy_keeps | split
    | refine Keeps.upd rfl rfl rfl rfl rfl ?_

theorem State.swapTrader_keeps (i : Image) (role : Nat) (t : TraderId) (h : Keeps s0 s) :
    Keeps s0 (State.swapTrader s i role t) := by
  with_reducible unfold State.swapTrader; repeat' first
    | assumption | apply State.upd_keeps | apply State.put_keeps | apply State.stopTrader_keeps
    | (extract_lets +onlyGivenNames a; first | (refine Keeps.cut (s := a) ?_ (fun _ => ?_); subst a; rotate_left; clear_value a) | clear_value a)
    | split

theorem State.swapStall_keeps (i : Image) (x3 role f : Nat) (h : Keeps s0 s) :
    Keeps s0 (State.swapStall s i x3 role f) := by
  with_reducible unfold State.swapStall; repeat' first
    | assumption | intro _ | apply State.invalidate_keeps | apply State.applyStall_keeps | apply State.setStall_keeps
    | apply State.exchangePages_keeps | apply State.swapTrader_keeps | apply forAll_keeps

theorem State.swapPins_keeps (i : Image) (x3 b n : Nat) (h : Keeps s0 s) :
    Keeps s0 (State.swapPins s i x3 b n) := by
  with_reducible unfold State.swapPins; repeat' first
    | assumption | intro _ | apply State.wr_keeps | apply State.putPinCfg_keeps | apply forAll_keeps
    | (extract_lets +onlyGivenNames a; clear_value a) | split

theorem State.swapLoads_keeps (k : CrierId) (c : List Byte) (h : Keeps s0 s) :
    Keeps s0 (State.swapLoads s k c) := by
  with_reducible unfold State.swapLoads; repeat' first
    | assumption | intro _ | apply State.wr_keeps | apply State.fieldWrite_keeps | apply forAll_keeps
    | (extract_lets +onlyGivenNames a; first | (refine Keeps.cut (s := a) ?_ (fun _ => ?_); subst a; rotate_left; clear_value a) | clear_value a)
    | split

theorem State.swapBarrow_keeps (x2 b n : Nat) (c : List Byte) (h : Keeps s0 s) :
    Keeps s0 (State.swapBarrow s x2 b n c) := by
  with_reducible unfold State.swapBarrow; repeat' first
    | assumption | intro _ | apply State.ssiEdges_keeps | apply State.crierPortAt_keeps | apply State.atCycle_keeps
    | apply State.ownFrom_keeps | apply State.swapLoads_keeps | apply forAll_keeps
    | (extract_lets +onlyGivenNames a; first | (refine Keeps.cut (s := a) ?_ (fun _ => ?_); subst a; rotate_left; clear_value a) | clear_value a)
    | apply Keeps.getSome

theorem State.swapCycle_keeps (x2 b n : Nat) (h : Keeps s0 s) :
    Keeps s0 (State.swapCycle s x2 b n) := by
  with_reducible unfold State.swapCycle; repeat' first
    | assumption | apply State.swapPage_keeps | apply State.swapPins_keeps | apply State.set_keeps
    | apply State.unitSwapped_keeps | apply State.swapBarrow_keeps | apply State.setBarrow_keeps
    | (extract_lets +onlyGivenNames a; first | (refine Keeps.cut (s := a) ?_ (fun _ => ?_); subst a; rotate_left; clear_value a) | clear_value a)
    | split

theorem execImageHeaderFetched_keeps {s0 : State} (job : Nat) (bytes : List Byte) {s : State} (h : Keeps s0 s) :
    KeepsOut s0 (execImageHeaderFetched job bytes s) := by
  with_reducible unfold execImageHeaderFetched; repeat' first
    | assumption | apply KeepsOut.next | apply State.headerFetched_keeps | split

theorem execImageSectionFetched_keeps {s0 : State} (job : Nat) (bytes : List Byte) {s : State} (h : Keeps s0 s) :
    KeepsOut s0 (execImageSectionFetched job bytes s) := by
  with_reducible unfold execImageSectionFetched; repeat' first
    | assumption | apply KeepsOut.next | apply State.sectionFetched_keeps | apply State.settle_keeps | split

theorem execSwapCommit_keeps (h : Keeps s0 s) :
    KeepsOut s0 (execSwapCommit s) := by
  with_reducible unfold execSwapCommit; repeat' first
    | assumption | apply KeepsOut.next | apply State.commitSwap_keeps | split

theorem execSwapTillInstant_keeps (h : Keeps s0 s) :
    KeepsOut s0 (execSwapTillInstant s) := by
  with_reducible unfold execSwapTillInstant; repeat' first
    | assumption | apply KeepsOut.next | apply State.swapInstant_keeps | apply State.settle_keeps | split

theorem execStallSwapRotation_keeps {s0 : State} (x1 f : Nat) {s : State} (h : Keeps s0 s) :
    KeepsOut s0 (execStallSwapRotation x1 f s) := by
  with_reducible unfold execStallSwapRotation; repeat' first
    | assumption | apply KeepsOut.next | apply State.swapStall_keeps | apply State.unitSwapped_keeps
    | (extract_lets +onlyGivenNames a; clear_value a) | split

theorem execBarrowSwapCycle_keeps {s0 : State} (x1 b : Nat) {s : State} (h : Keeps s0 s) :
    KeepsOut s0 (execBarrowSwapCycle x1 b s) := by
  with_reducible unfold execBarrowSwapCycle; repeat' first
    | assumption | apply KeepsOut.next | apply State.swapCycle_keeps | apply State.swapPage_keeps
    | apply State.set_keeps | apply State.setBarrow_keeps
    | (extract_lets +onlyGivenNames a; first | (refine Keeps.cut (s := a) ?_ (fun _ => ?_); subst a; rotate_left; clear_value a) | clear_value a)
    | split

theorem execMarkAction_keeps {s0 : State} (x1 m : Nat) {s : State} (h : Keeps s0 s) :
    KeepsOut s0 (execMarkAction x1 m s) := by
  with_reducible unfold execMarkAction; repeat' first
    | assumption | apply KeepsOut.next | apply State.runEdges_keeps | apply State.swapInstant_keeps
    | apply State.settle_keeps | apply State.markAct_keeps
    | (extract_lets +onlyGivenNames a; first | (refine Keeps.cut (s := a) ?_ (fun _ => ?_); subst a; rotate_left; clear_value a) | clear_value a)
    | split

theorem execEstimatorUpdate_keeps {s0 : State} (n : Nat) {s : State} (h : Keeps s0 s) :
    KeepsOut s0 (execEstimatorUpdate n s) := by
  with_reducible unfold execEstimatorUpdate; repeat' first
    | assumption | apply KeepsOut.next | apply State.updateAxis_keeps | apply State.settle_keeps
    | apply State.swapLate_keeps | split

theorem execQuadratureEdge_keeps {s0 : State} (n : Nat) (a b : Bool) (tm : Nat) {s : State} (h : Keeps s0 s) :
    KeepsOut s0 (execQuadratureEdge n a b tm s) := by
  with_reducible unfold execQuadratureEdge; repeat' first
    | assumption | apply KeepsOut.next | apply State.settle_keeps | apply State.quadEdge_keeps | split

theorem execWindDownTimeout_keeps (h : Keeps s0 s) :
    KeepsOut s0 (execWindDownTimeout s) := by
  with_reducible unfold execWindDownTimeout; repeat' first
    | assumption | apply KeepsOut.next | apply State.jobTo_keeps | split | refine Keeps.upd rfl rfl rfl rfl rfl ?_

theorem State.pass_keeps (h : Keeps s0 s) :
    Keeps s0 (State.pass s) := by
  with_reducible unfold State.pass; repeat' first
    | assumption | intro _ | apply State.runEdges_keeps | apply State.freezeAll_keeps | apply State.idle_keeps
    | apply State.laneTick_keeps | apply forAll_keeps
    | (extract_lets +onlyGivenNames a; first | (refine Keeps.cut (s := a) ?_ (fun _ => ?_); subst a; rotate_left; clear_value a) | clear_value a)
    | split

end Sys2Proof.Machine
end

