-- ==== Sys2Proof/Laws/KeepsPower.lean ====
section
/-! SUPPORT. `Keeps` of the functions of Machine/Power.lean: what none of them changes. -/

namespace Sys2Proof.Machine

variable {s0 s : State}

theorem State.laneOff_keeps (x2 k : Nat) (h : Keeps s0 s) :
    Keeps s0 (State.laneOff s x2 k) := by
  with_reducible unfold State.laneOff; repeat' first
    | assumption | intro _ | apply State.updLane_keeps | apply State.lnPut_keeps | apply State.set_keeps
    | apply State.put_keeps | apply State.drives_keeps

theorem State.failJobs_keeps (job : Nat) (h : Keeps s0 s) :
    Keeps s0 (State.failJobs s job) := by
  with_reducible unfold State.failJobs; repeat' first
    | assumption | intro _ | apply State.jobTo_keeps | apply State.forget_keeps | apply forAll_keeps
    | (extract_lets +onlyGivenNames a; first | (refine Keeps.cut (s := a) ?_ (fun _ => ?_); subst a; rotate_left; clear_value a) | clear_value a)
    | split | refine Keeps.upd rfl rfl rfl rfl rfl ?_

theorem State.stopAll_keeps (h : Keeps s0 s) :
    Keeps s0 (State.stopAll s) := by
  with_reducible unfold State.stopAll; repeat' first
    | assumption | intro _ | apply State.criersStop_keeps | apply State.runWrite_keeps | apply State.cartAbort_keeps
    | apply State.laneOff_keeps | apply State.stopTrader_keeps | apply forAll_keeps
    | (extract_lets +onlyGivenNames a; first | (refine Keeps.cut (s := a) ?_ (fun _ => ?_); subst a; rotate_left; clear_value a) | clear_value a)
    | split

theorem State.sleepDisarm_keeps (h : Keeps s0 s) :
    Keeps s0 (State.sleepDisarm s) := by
  with_reducible unfold State.sleepDisarm; repeat' first
    | assumption | intro _ | apply State.setMark_keeps | apply State.set_keeps | apply forAll_keeps
    | (extract_lets +onlyGivenNames a; first | (refine Keeps.cut (s := a) ?_ (fun _ => ?_); subst a; rotate_left; clear_value a) | clear_value a)
    | split

theorem State.sleepHold_keeps (h : Keeps s0 s) :
    Keeps s0 (State.sleepHold s) := by
  with_reducible unfold State.sleepHold; repeat' first
    | assumption | intro _ | apply State.hold_keeps | apply State.sleepDisarm_keeps | apply forAll_keeps

theorem State.enterSleep_keeps (job target resume : Nat) (h : Keeps s0 s) :
    Keeps s0 (State.enterSleep s job target resume) := by
  with_reducible unfold State.enterSleep; repeat' first
    | assumption | apply State.jobTo_keeps | apply State.sleepHold_keeps | apply State.swapsFail_keeps
    | apply State.put_keeps | apply State.stopAll_keeps | apply State.failJobs_keeps
    | (extract_lets +onlyGivenNames a; first | (refine Keeps.cut (s := a) ?_ (fun _ => ?_); subst a; rotate_left; clear_value a) | clear_value a)
    | refine Keeps.upd rfl rfl rfl rfl rfl ?_

theorem State.startPower_keeps (job target : Nat) (resume flags : Nat) (h : Keeps s0 s) :
    Keeps s0 (State.startPower s job target resume flags) := by
  with_reducible unfold State.startPower; repeat' first
    | assumption | apply State.changeLevel_keeps | apply State.jobTo_keeps | apply State.put_keeps
    | apply State.enterSleep_keeps
    | (extract_lets +onlyGivenNames a; first | (refine Keeps.cut (s := a) ?_ (fun _ => ?_); subst a; rotate_left; clear_value a) | clear_value a)
    | split | refine Keeps.upd rfl rfl rfl rfl rfl ?_

theorem State.reachedJobs_keeps (target : Nat) (h : Keeps s0 s) :
    Keeps s0 (State.reachedJobs s target) := by
  with_reducible unfold State.reachedJobs; repeat' first
    | assumption | intro _ | apply State.jobTo_keeps | apply forAll_keeps

theorem State.sleep_keeps (target : Nat) (h : Keeps s0 s) :
    Keeps s0 (State.sleep s target) := by
  with_reducible unfold State.sleep; repeat' first
    | assumption | intro _ | apply State.beginWake_keeps | apply State.latchPads_keeps | apply State.tillTo_keeps
    | apply State.ctCatch_keeps | apply State.powerDown_keeps | apply State.put_keeps | apply State.sleepDisarm_keeps
    | apply State.reachedJobs_keeps | apply forAll_keeps
    | (extract_lets +onlyGivenNames a; first | (refine Keeps.cut (s := a) ?_ (fun _ => ?_); subst a; rotate_left; clear_value a) | clear_value a)
    | split | refine Keeps.upd rfl rfl rfl rfl rfl ?_

theorem State.wakePin_keeps (n : Nat) (level : Bool) (h : Keeps s0 s) :
    Keeps s0 (State.wakePin s n level) := by
  with_reducible unfold State.wakePin; repeat' first
    | assumption | intro _ | apply State.put_keeps | apply State.wakeSource_keeps
    | (extract_lets +onlyGivenNames a; first | (refine Keeps.cut (s := a) ?_ (fun _ => ?_); subst a; rotate_left; clear_value a) | clear_value a)
    | split | refine Keeps.upd rfl rfl rfl rfl rfl ?_

theorem State.sleepDoor_keeps (n v : Nat) (h : Keeps s0 s) :
    Keeps s0 (State.sleepDoor s n v) := by
  with_reducible unfold State.sleepDoor; repeat' first
    | assumption | intro _ | apply State.set_keeps | apply State.wakeSource_keeps
    | (extract_lets +onlyGivenNames a; first | (refine Keeps.cut (s := a) ?_ (fun _ => ?_); subst a; rotate_left; clear_value a) | clear_value a)
    | split | refine Keeps.upd rfl rfl rfl rfl rfl ?_

theorem State.sleepAccess_keeps (p a : Nat) (w : Option Word) (h : Keeps s0 s) :
    Keeps s0 (State.sleepAccess s p a w) := by
  with_reducible unfold State.sleepAccess; repeat' first
    | assumption | apply State.wordWrite_keeps | apply State.hostRead_keeps | apply State.sleepDoor_keeps
    | refine Keeps.snd ‹_› ?_ | split | refine Keeps.upd rfl rfl rfl rfl rfl ?_

theorem State.throttleOn_keeps (h : Keeps s0 s) :
    Keeps s0 (State.throttleOn s) := by
  with_reducible unfold State.throttleOn; repeat' first
    | assumption | apply State.beginThrottle_keeps | (extract_lets +onlyGivenNames a; clear_value a) | split
    | refine Keeps.upd rfl rfl rfl rfl rfl ?_

theorem State.throttleOff_keeps (h : Keeps s0 s) :
    Keeps s0 (State.throttleOff s) := by
  with_reducible unfold State.throttleOff; repeat' first
    | assumption | apply State.endThrottle_keeps | (extract_lets +onlyGivenNames a; clear_value a) | split
    | refine Keeps.upd rfl rfl rfl rfl rfl ?_

theorem State.thermalChange_keeps (old new : Nat) (which hot : Nat) (h : Keeps s0 s) :
    Keeps s0 (State.thermalChange s old new which hot) := by
  with_reducible unfold State.thermalChange; repeat' first
    | assumption | apply State.chit_keeps | apply State.throttleOff_keeps | apply State.throttleOn_keeps
    | (extract_lets +onlyGivenNames a; first | (refine Keeps.cut (s := a) ?_ (fun _ => ?_); subst a; rotate_left; clear_value a) | clear_value a)
    | split | refine Keeps.upd rfl rfl rfl rfl rfl ?_

theorem State.temperature_keeps (temps : List Nat) (h : Keeps s0 s) :
    Keeps s0 (State.temperature s temps) := by
  with_reducible unfold State.temperature; repeat' first
    | assumption | intro _ | apply State.put_keeps | apply State.thermalChange_keeps | apply forAll_keeps
    | apply foldl_keeps
    | (extract_lets +onlyGivenNames a; first | (refine Keeps.cut (s := a) ?_ (fun _ => ?_); subst a; rotate_left; clear_value a) | (have e : a = a := funext fun _ => rfl; clear e; subst a; beta_reduce) | clear_value a)
    | split

theorem State.noRef_keeps (h : Keeps s0 s) :
    Keeps s0 (State.noRef s) := by
  with_reducible unfold State.noRef; repeat' first
    | assumption | apply State.throttleTurn_keeps | apply State.jobTo_keeps | apply State.romStep_keeps
    | (extract_lets +onlyGivenNames a; clear_value a) | split | refine Keeps.upd rfl rfl rfl rfl rfl ?_

theorem execRefLost_keeps (h : Keeps s0 s) :
    KeepsOut s0 (execRefLost s) := by
  with_reducible unfold execRefLost; repeat' first
    | assumption | apply KeepsOut.next | apply State.noRef_keeps | apply State.settle_keeps | apply State.refLost_keeps
    | split

theorem execCorePllLock_keeps (h : Keeps s0 s) :
    KeepsOut s0 (execCorePllLock s) := by
  with_reducible unfold execCorePllLock; repeat' first
    | assumption | apply KeepsOut.next | apply State.swapPll_keeps | apply State.request_keeps
    | apply State.levelReached_keeps | (extract_lets +onlyGivenNames a; clear_value a) | split
    | refine Keeps.upd rfl rfl rfl rfl rfl ?_

theorem execSupplySettled_keeps (h : Keeps s0 s) :
    KeepsOut s0 (execSupplySettled s) := by
  with_reducible unfold execSupplySettled; repeat' first
    | assumption | apply KeepsOut.next | apply State.levelReached_keeps
    | (extract_lets +onlyGivenNames a; clear_value a) | split | refine Keeps.upd rfl rfl rfl rfl rfl ?_

theorem execSleepEntryComplete_keeps (h : Keeps s0 s) :
    KeepsOut s0 (execSleepEntryComplete s) := by
  with_reducible unfold execSleepEntryComplete; repeat' first
    | assumption | apply KeepsOut.next | apply State.settle_keeps | apply State.sleep_keeps | split

theorem execWakePin_keeps {s0 : State} (n : Nat) (level : Bool) {s : State} (h : Keeps s0 s) :
    KeepsOut s0 (execWakePin n level s) := by
  with_reducible unfold execWakePin; repeat' first
    | assumption | apply KeepsOut.next | apply State.settle_keeps | apply State.wakePin_keeps | split

theorem execI2cAddressMatch_keeps {s0 : State} (b : Byte) {s : State} (h : Keeps s0 s) :
    KeepsOut s0 (execI2cAddressMatch b s) := by
  with_reducible unfold execI2cAddressMatch; repeat' first
    | assumption | apply KeepsOut.next | intro _ | apply State.set_keeps | apply State.settle_keeps
    | apply State.wakeSource_keeps
    | (extract_lets +onlyGivenNames a; first | (refine Keeps.cut (s := a) ?_ (fun _ => ?_); subst a; rotate_left; clear_value a) | clear_value a)
    | split | refine Keeps.upd rfl rfl rfl rfl rfl ?_

theorem execRegisterWrite_keeps {s0 : State} (by_ : Accessor) (addr : Nat) (data : List Byte) {s : State}
    (h : Keeps s0 s) :
    KeepsOut s0 (execRegisterWrite by_ addr data s) := by
  with_reducible unfold execRegisterWrite; repeat' first
    | assumption | apply KeepsOut.next | intro _ | apply State.ioWrite_keeps | apply State.settle_keeps
    | apply State.sleepAccess_keeps | apply State.hostWrite_keeps | apply State.byPort_keeps | split

theorem execReadClear_keeps {s0 : State} (by_ : Accessor) (addr n added : Nat) (o : MemOutcome) {s : State}
    (h : Keeps s0 s) :
    KeepsOut s0 (execReadClear by_ addr n added o s) := by
  with_reducible unfold execReadClear; repeat' first
    | assumption | apply KeepsOut.next | intro _ | apply State.windowRead_keeps | apply State.sleepAccess_keeps
    | apply State.byPort_keeps | split | refine Keeps.upd rfl rfl rfl rfl rfl ?_

theorem execOrderDoorbell_keeps {s0 : State} (port n : Nat) (v : Word) {s : State} (h : Keeps s0 s) :
    KeepsOut s0 (execOrderDoorbell port n v s) := by
  with_reducible unfold execOrderDoorbell; repeat' first
    | assumption | apply KeepsOut.next | intro _ | apply State.doorbell_keeps | apply State.settle_keeps
    | apply State.sleepDoor_keeps | apply State.byPort_keeps | split

theorem execSleepAgentAccess_keeps {s0 : State} (p a : Nat) (w : Option Word) {s : State} (h : Keeps s0 s) :
    KeepsOut s0 (execSleepAgentAccess p a w s) := by
  with_reducible unfold execSleepAgentAccess; repeat' first
    | assumption | apply KeepsOut.next | apply State.settle_keeps | apply State.sleepAccess_keeps | split

theorem execTemperatureSample_keeps {s0 : State} (temps : List Nat) {s : State} (h : Keeps s0 s) :
    KeepsOut s0 (execTemperatureSample temps s) := by
  with_reducible unfold execTemperatureSample; repeat' first
    | assumption | apply KeepsOut.next | apply State.settle_keeps | apply State.temperature_keeps | split

end Sys2Proof.Machine
end

