-- ==== Sys2Proof/Laws/KeepsJobs.lean ====
section
/-! SUPPORT. `Keeps` of the functions of Machine/Jobs.lean: what none of them changes. -/

namespace Sys2Proof.Machine

variable {s0 s : State}

theorem State.orderChit_keeps (o : OrderHdr) (ty data : Nat) (h : Keeps s0 s) :
    Keeps s0 (State.orderChit s o ty data) := by
  with_reducible unfold State.orderChit; repeat' first | assumption | apply State.raiseOn_keeps

theorem State.orderRefused_keeps (o : OrderHdr) (reason code : Nat) (h : Keeps s0 s) :
    Keeps s0 (State.orderRefused s o reason code) := by
  with_reducible unfold State.orderRefused; repeat' first | assumption | apply State.orderChit_keeps

theorem State.runClaim_keeps (job : Nat) (es : List Word) (h : Keeps s0 s) :
    Keeps s0 (State.runClaim s job es) := by
  with_reducible unfold State.runClaim; repeat' first
    | assumption | intro _ | apply State.jobTo_keeps | apply State.refuseClaims_keeps | apply State.setHolder_keeps
    | apply forAll_keeps | (extract_lets +onlyGivenNames a; clear_value a) | split

theorem State.runRelease_keeps (job owner : Nat) (es : List Word) (h : Keeps s0 s) :
    Keeps s0 (State.runRelease s job owner es) := by
  with_reducible unfold State.runRelease; repeat' first
    | assumption | intro _ | apply State.jobTo_keeps | apply State.setHolder_keeps | apply forAll_keeps
    | (extract_lets +onlyGivenNames a; clear_value a) | split

theorem State.runTrain_keeps (job lane : Nat) (h : Keeps s0 s) :
    Keeps s0 (State.runTrain s job lane) := by
  with_reducible unfold State.runTrain; repeat' first
    | assumption | apply State.jobTo_keeps | apply State.leaveGroup_keeps | apply State.startTraining_keeps
    | apply State.set_keeps | apply State.trainEnds_keeps
    | (extract_lets +onlyGivenNames a; first | (refine Keeps.cut (s := a) ?_ (fun _ => ?_); subst a; rotate_left; clear_value a) | clear_value a)
    | split | refine Keeps.upd rfl rfl rfl rfl rfl ?_

theorem State.runCart_keeps (job x3 : Nat) (c flags head : Nat) (h : Keeps s0 s) :
    Keeps s0 (State.runCart s job x3 c flags head) := by
  with_reducible unfold State.runCart; repeat' first
    | assumption | apply State.wr_keeps | apply State.cartBegin_keeps
    | (extract_lets +onlyGivenNames a; first | (refine Keeps.cut (s := a) ?_ (fun _ => ?_); subst a; rotate_left; clear_value a) | clear_value a)
    | split

theorem State.runWind_keeps (job axis : Nat) (profile flags timeout : Nat) (h : Keeps s0 s) :
    Keeps s0 (State.runWind s job axis profile flags timeout) := by
  with_reducible unfold State.runWind; repeat' first
    | assumption | apply State.jobTo_keeps | apply State.startWind_keeps | split

theorem State.startJob_keeps (j : Job) (h : Keeps s0 s) :
    Keeps s0 (State.startJob s j) := by
  with_reducible unfold State.startJob; repeat' first
    | assumption | apply State.runCart_keeps | apply State.fetchHost_keeps | apply State.jobTo_keeps
    | apply State.runClaim_keeps | apply State.runTrain_keeps | apply State.runWind_keeps
    | apply State.runRelease_keeps | apply State.startSwap_keeps | apply State.startPower_keeps
    | (extract_lets +onlyGivenNames a; first | (refine Keeps.cut (s := a) ?_ (fun _ => ?_); subst a; rotate_left; clear_value a) | clear_value a)
    | split | refine Keeps.upd rfl rfl rfl rfl rfl ?_

theorem State.tryStart_keeps (n : Nat) (h : Keeps s0 s) :
    Keeps s0 (State.tryStart s n) := by
  with_reducible unfold State.tryStart; repeat' first
    | assumption | apply State.retire_keeps | apply State.startJob_keeps | split

theorem State.acceptJob_keeps (o : OrderHdr) (b : JobBody) (h : Keeps s0 s) :
    Keeps s0 (State.acceptJob s o b) := by
  with_reducible unfold State.acceptJob; repeat' first
    | assumption | apply State.jobTo_keeps | apply State.tryStart_keeps
    | (extract_lets +onlyGivenNames a; first | (refine Keeps.cut (s := a) ?_ (fun _ => ?_); subst a; rotate_left; clear_value a) | clear_value a)
    | split | refine Keeps.upd rfl rfl rfl rfl rfl ?_

theorem State.startTrader_keeps (t : TraderId) (sup clean : Bool) (pc : Option Nat) (h : Keeps s0 s) :
    Keeps s0 (State.startTrader s t sup clean pc) := by
  with_reducible unfold State.startTrader; repeat' first
    | assumption | apply State.upd_keeps | apply State.put_keeps
    | (extract_lets +onlyGivenNames a; first | (refine Keeps.cut (s := a) ?_ (fun _ => ?_); subst a; rotate_left; clear_value a) | clear_value a)
    | split

theorem State.startTraders_keeps (x2 role : Nat) (mask flags entry : Nat) (h : Keeps s0 s) :
    Keeps s0 (State.startTraders s x2 role mask flags entry) := by
  with_reducible unfold State.startTraders; repeat' first
    | assumption | intro _ | apply State.startTrader_keeps | apply forAll_keeps | split

theorem State.stopTraders_keeps (x2 role mask : Nat) (h : Keeps s0 s) :
    Keeps s0 (State.stopTraders s x2 role mask) := by
  with_reducible unfold State.stopTraders; repeat' first
    | assumption | intro _ | apply State.stopTrader_keeps | apply forAll_keeps | split

theorem State.quiesce_keeps (n x3 k : Nat) (h : Keeps s0 s) :
    Keeps s0 (State.quiesce s n x3 k) := by
  with_reducible unfold State.quiesce; repeat' first
    | assumption | intro _ | apply State.updLane_keeps | apply State.updJob_keeps | apply State.updTh_keeps
    | apply forAll_keeps
    | (extract_lets +onlyGivenNames a; first | (refine Keeps.cut (s := a) ?_ (fun _ => ?_); subst a; rotate_left; clear_value a) | clear_value a)
    | split

theorem State.unquiesce_keeps (x2 k : Nat) (entry : Bool) (h : Keeps s0 s) :
    Keeps s0 (State.unquiesce s x2 k entry) := by
  with_reducible unfold State.unquiesce; repeat' first
    | assumption | intro _ | apply State.updLane_keeps | apply State.thStart_keeps | apply State.updTh_keeps
    | apply State.thResume_keeps | apply forAll_keeps
    | (extract_lets +onlyGivenNames a; first | (refine Keeps.cut (s := a) ?_ (fun _ => ?_); subst a; rotate_left; clear_value a) | clear_value a)
    | split

theorem State.loseFrame_keeps (x2 k th : Nat) (h : Keeps s0 s) :
    Keeps s0 (State.loseFrame s x2 k th) := by
  with_reducible unfold State.loseFrame; repeat' first
    | assumption | apply State.updLane_keeps | apply State.updTh_keeps
    | (extract_lets +onlyGivenNames a; first | (refine Keeps.cut (s := a) ?_ (fun _ => ?_); subst a; rotate_left; clear_value a) | clear_value a)
    | split

theorem State.writePatch_keeps (x2 k : Nat) (b : List Byte) (h : Keeps s0 s) :
    Keeps s0 (State.writePatch s x2 k b) := by
  with_reducible unfold State.writePatch; repeat' first
    | assumption | intro _ | apply State.unquiesce_keeps | apply State.store_keeps | apply State.wr_keeps
    | apply State.put_keeps | apply forAll_keeps
    | (extract_lets +onlyGivenNames a; first | (refine Keeps.cut (s := a) ?_ (fun _ => ?_); subst a; rotate_left; clear_value a) | clear_value a)
    | split

theorem State.meanResid_keeps (c : Calib) (h : Keeps s0 s) : Keeps s0 (State.meanResid s c).2 := by
  have h' : Keeps s0 { s with freeIx := s.freeIx + 1 } := ⟨h.part, h.pending, Nat.le_succ_of_le h.free, h.mem, h.regs⟩
  unfold State.meanResid
  extract_lets t
  split
  · exact h'
  · split
    · exact h
    · exact h'

theorem State.calRecord_keeps (n axis : Nat) (h : Keeps s0 s) :
    Keeps s0 (State.calRecord s n axis).2 := by
  with_reducible unfold State.calRecord; repeat' first | assumption | apply State.meanResid_keeps

theorem State.dropCalib_keeps (n axis : Nat) (h : Keeps s0 s) :
    Keeps s0 (State.dropCalib s n axis) := by
  with_reducible unfold State.dropCalib; repeat' first
    | assumption | apply State.setAxis_keeps
    | (extract_lets +onlyGivenNames a; first | (refine Keeps.cut (s := a) ?_ (fun _ => ?_); subst a; rotate_left; clear_value a) | clear_value a)
    | split | refine Keeps.upd rfl rfl rfl rfl rfl ?_

theorem State.suspendJob_keeps (n : Nat) (h : Keeps s0 s) :
    Keeps s0 (State.suspendJob s n).2 := by
  with_reducible unfold State.suspendJob; repeat' first
    | assumption | apply State.updJob_keeps | apply State.jobTo_keeps | apply State.cartSuspended_keeps
    | apply State.cartPause_keeps
    | (extract_lets +onlyGivenNames a; first | (refine Keeps.cut (s := a) ?_ (fun _ => ?_); subst a; rotate_left; clear_value a) | clear_value a)
    | dsimp only | split

theorem State.resumeJob_keeps (n : Nat) (h : Keeps s0 s) :
    Keeps s0 (State.resumeJob s n).2 := by
  with_reducible unfold State.resumeJob; repeat' first
    | assumption | apply State.updJob_keeps | apply State.jobTo_keeps | apply State.tryStart_keeps
    | apply State.fetchSection_keeps | apply State.quiesce_keeps | apply State.cartPause_keeps
    | (extract_lets +onlyGivenNames a; first | (refine Keeps.cut (s := a) ?_ (fun _ => ?_); subst a; rotate_left; clear_value a) | clear_value a)
    | dsimp only | split

theorem State.cancelCart_keeps (x2 c : Nat) (susp : Bool) (h : Keeps s0 s) :
    Keeps s0 (State.cancelCart s x2 c susp) := by
  with_reducible unfold State.cancelCart; repeat' first
    | assumption | apply State.cartAbort_keeps | apply State.cartPause_keeps | split

theorem State.cancelWork_keeps (j : Job) (h : Keeps s0 s) :
    Keeps s0 (State.cancelWork s j).2 := by
  with_reducible unfold State.cancelWork; repeat' first
    | assumption | apply State.dropCalib_keeps | apply State.unquiesce_keeps | apply State.updJob_keeps
    | apply State.jobTo_keeps | apply State.cancelCart_keeps | apply State.forget_keeps | apply State.trainEnds_keeps
    | apply State.loadEnds_keeps | apply State.swapEnds_keeps
    | (extract_lets +onlyGivenNames a; first | (refine Keeps.cut (s := a) ?_ (fun _ => ?_); subst a; rotate_left; clear_value a) | clear_value a)
    | dsimp only | split | refine Keeps.upd rfl rfl rfl rfl rfl ?_

theorem State.cancelJob_keeps (n : Nat) (h : Keeps s0 s) :
    Keeps s0 (State.cancelJob s n).2 := by
  with_reducible unfold State.cancelJob; repeat' first
    | assumption | apply State.cancelWork_keeps | apply State.jobTo_keeps | dsimp only | refine Keeps.snd ‹_› ?_
    | split

theorem State.orderDone_keeps (o : OrderHdr) (always : Bool) (result : Nat) (h : Keeps s0 s) :
    Keeps s0 (State.orderDone s o always result) := by
  with_reducible unfold State.orderDone; repeat' first | assumption | apply State.orderChit_keeps | split

theorem State.takeOrder_keeps (o : OrderHdr) (x : Order) (h : Keeps s0 s) :
    Keeps s0 (State.takeOrder s o x) := by
  with_reducible unfold State.takeOrder; repeat' first
    | assumption | apply State.acceptJob_keeps | apply State.orderDone_keeps | apply State.suspendJob_keeps
    | apply State.cancelJob_keeps | apply State.stopTraders_keeps | apply State.startTraders_keeps
    | apply State.resumeJob_keeps | refine Keeps.snd ‹_› ?_ | split

theorem State.order_keeps (o : OrderHdr) (x : Order) (fields : Bool) (h : Keeps s0 s) :
    Keeps s0 (State.order s o x fields) := by
  with_reducible unfold State.order; repeat' first
    | assumption | apply State.orderRefused_keeps | apply State.takeOrder_keeps | split

theorem State.give_keeps (o : OrderHdr) (x : Order) (h : Keeps s0 s) :
    KeepsOut s0 (State.give s o x) := by
  with_reducible unfold State.give; repeat' first
    | assumption | apply KeepsOut.next | apply State.retire_keeps | apply State.settle_keeps | apply State.order_keeps
    | split

theorem State.fetched_keeps (n : Nat) (b : List Byte) (h : Keeps s0 s) :
    Keeps s0 (State.fetched s n b) := by
  with_reducible unfold State.fetched; repeat' first
    | assumption | apply State.orderRefused_keeps | apply State.order_keeps | apply State.put_keeps
    | (extract_lets +onlyGivenNames a; first | (refine Keeps.cut (s := a) ?_ (fun _ => ?_); subst a; rotate_left; clear_value a) | clear_value a)
    | split

theorem execOrderFetchComplete_keeps {s0 : State} (n : Nat) {s : State} (h : Keeps s0 s) :
    KeepsOut s0 (execOrderFetchComplete n s) := by
  with_reducible unfold execOrderFetchComplete; repeat' first
    | assumption | apply KeepsOut.next | apply State.retire_keeps | apply State.fetched_keeps
    | apply State.settle_keeps | apply State.serveOrders_keeps | apply State.takeAnswer_keeps | split

theorem execLoadImage_keeps {s0 : State} (o : OrderHdr) (image len flags : Nat) {s : State} (h : Keeps s0 s) :
    KeepsOut s0 (execLoadImage o image len flags s) := by
  with_reducible unfold execLoadImage; repeat' first | assumption | apply KeepsOut.next | apply State.give_keeps

theorem execSwapAt_keeps {s0 : State} (o : OrderHdr) (loaded trigger : Nat) (axis dir value : Nat) {s : State}
    (h : Keeps s0 s) :
    KeepsOut s0 (execSwapAt o loaded trigger axis dir value s) := by
  with_reducible unfold execSwapAt; repeat' first | assumption | apply KeepsOut.next | apply State.give_keeps

theorem execStartTraders_keeps {s0 : State} (o : OrderHdr) (hall stall : Nat) (mask flags entry : Nat) {s : State}
    (h : Keeps s0 s) :
    KeepsOut s0 (execStartTraders o hall stall mask flags entry s) := by
  with_reducible unfold execStartTraders; repeat' first | assumption | apply KeepsOut.next | apply State.give_keeps

theorem execStopTraders_keeps {s0 : State} (o : OrderHdr) (hall stall mask : Nat) {s : State} (h : Keeps s0 s) :
    KeepsOut s0 (execStopTraders o hall stall mask s) := by
  with_reducible unfold execStopTraders; repeat' first | assumption | apply KeepsOut.next | apply State.give_keeps

theorem execClaim_keeps {s0 : State} (o : OrderHdr) (entries : List Word) {s : State} (h : Keeps s0 s) :
    KeepsOut s0 (execClaim o entries s) := by
  with_reducible unfold execClaim; repeat' first | assumption | apply KeepsOut.next | apply State.give_keeps

theorem execClaimRelease_keeps {s0 : State} (o : OrderHdr) (owner : Nat) (entries : List Word) {s : State}
    (h : Keeps s0 s) :
    KeepsOut s0 (execClaimRelease o owner entries s) := by
  with_reducible unfold execClaimRelease; repeat' first | assumption | apply KeepsOut.next | apply State.give_keeps

theorem execClear_keeps {s0 : State} (o : OrderHdr) (area hall : Nat) (stall off len : Nat) {s : State}
    (h : Keeps s0 s) :
    KeepsOut s0 (execClear o area hall stall off len s) := by
  with_reducible unfold execClear; repeat' first | assumption | apply KeepsOut.next | apply State.give_keeps

theorem execTrainLane_keeps {s0 : State} (o : OrderHdr) (lane : Nat) {s : State} (h : Keeps s0 s) :
    KeepsOut s0 (execTrainLane o lane s) := by
  with_reducible unfold execTrainLane; repeat' first | assumption | apply KeepsOut.next | apply State.give_keeps

theorem execLoadMicrocode_keeps {s0 : State} (o : OrderHdr) (lane patch : Nat) {s : State} (h : Keeps s0 s) :
    KeepsOut s0 (execLoadMicrocode o lane patch s) := by
  with_reducible unfold execLoadMicrocode; repeat' first | assumption | apply KeepsOut.next | apply State.give_keeps

theorem execCalibrateAxis_keeps {s0 : State} (o : OrderHdr) (axis flags : Nat) (ref dur : Nat) (preset result : Nat) {s : State}
    (h : Keeps s0 s) :
    KeepsOut s0 (execCalibrateAxis o axis flags ref dur preset result s) := by
  with_reducible unfold execCalibrateAxis; repeat' first | assumption | apply KeepsOut.next | apply State.give_keeps

theorem execCartJob_keeps {s0 : State} (o : OrderHdr) (hall chan : Nat) (flags head : Nat) {s : State}
    (h : Keeps s0 s) :
    KeepsOut s0 (execCartJob o hall chan flags head s) := by
  with_reducible unfold execCartJob; repeat' first | assumption | apply KeepsOut.next | apply State.give_keeps

theorem execPowerLevel_keeps {s0 : State} (o : OrderHdr) (pl : Nat) {s : State} (h : Keeps s0 s) :
    KeepsOut s0 (execPowerLevel o pl s) := by
  with_reducible unfold execPowerLevel; repeat' first
    | assumption | apply KeepsOut.next | apply State.give_keeps | split

theorem execPowerIdle_keeps {s0 : State} (o : OrderHdr) {s : State} (h : Keeps s0 s) :
    KeepsOut s0 (execPowerIdle o s) := by
  with_reducible unfold execPowerIdle; repeat' first | assumption | apply KeepsOut.next | apply State.give_keeps

theorem execPowerNap_keeps {s0 : State} (o : OrderHdr) (resumePl flags : Nat) {s : State} (h : Keeps s0 s) :
    KeepsOut s0 (execPowerNap o resumePl flags s) := by
  with_reducible unfold execPowerNap; repeat' first | assumption | apply KeepsOut.next | apply State.give_keeps

theorem execPowerOff_keeps {s0 : State} (o : OrderHdr) (resumePl flags : Nat) {s : State} (h : Keeps s0 s) :
    KeepsOut s0 (execPowerOff o resumePl flags s) := by
  with_reducible unfold execPowerOff; repeat' first | assumption | apply KeepsOut.next | apply State.give_keeps

theorem execWindDown_keeps {s0 : State} (o : OrderHdr) (axis profile : Nat) (flags timeout : Nat) {s : State}
    (h : Keeps s0 s) :
    KeepsOut s0 (execWindDown o axis profile flags timeout s) := by
  with_reducible unfold execWindDown; repeat' first | assumption | apply KeepsOut.next | apply State.give_keeps

theorem execJobSuspend_keeps {s0 : State} (o : OrderHdr) (target : Nat) {s : State} (h : Keeps s0 s) :
    KeepsOut s0 (execJobSuspend o target s) := by
  with_reducible unfold execJobSuspend; repeat' first | assumption | apply KeepsOut.next | apply State.give_keeps

theorem execJobResume_keeps {s0 : State} (o : OrderHdr) (target : Nat) {s : State} (h : Keeps s0 s) :
    KeepsOut s0 (execJobResume o target s) := by
  with_reducible unfold execJobResume; repeat' first | assumption | apply KeepsOut.next | apply State.give_keeps

theorem execJobCancel_keeps {s0 : State} (o : OrderHdr) (target : Nat) {s : State} (h : Keeps s0 s) :
    KeepsOut s0 (execJobCancel o target s) := by
  with_reducible unfold execJobCancel; repeat' first | assumption | apply KeepsOut.next | apply State.give_keeps

theorem execJobStart_keeps {s0 : State} (job : Nat) {s : State} (h : Keeps s0 s) :
    KeepsOut s0 (execJobStart job s) := by
  with_reducible unfold execJobStart; repeat' first
    | assumption | apply KeepsOut.next | apply State.tryStart_keeps | apply State.settle_keeps

theorem execClearBlockDone_keeps {s0 : State} (job : Nat) {s : State} (h : Keeps s0 s) :
    KeepsOut s0 (execClearBlockDone job s) := by
  with_reducible unfold execClearBlockDone; repeat' first
    | assumption | apply KeepsOut.next | apply State.retire_keeps | apply State.updJob_keeps | apply State.jobTo_keeps
    | apply State.store_keeps | apply State.granted_keeps | apply State.ramStore_keeps | apply State.storeS_keeps
    | (extract_lets +onlyGivenNames a; first | (refine Keeps.cut (s := a) ?_ (fun _ => ?_); subst a; rotate_left; clear_value a) | clear_value a)
    | split

theorem execMicrocodeFetchComplete_keeps {s0 : State} (job : Nat) (bytes : List Byte) {s : State} (h : Keeps s0 s) :
    KeepsOut s0 (execMicrocodeFetchComplete job bytes s) := by
  with_reducible unfold execMicrocodeFetchComplete; repeat' first
    | assumption | apply KeepsOut.next | apply State.retire_keeps | apply State.updJob_keeps | apply State.jobTo_keeps
    | apply State.quiesce_keeps
    | (extract_lets +onlyGivenNames a; first | (refine Keeps.cut (s := a) ?_ (fun _ => ?_); subst a; rotate_left; clear_value a) | clear_value a)
    | split | refine Keeps.upd rfl rfl rfl rfl rfl ?_

theorem execMicrocodeQreqTimeout_keeps {s0 : State} (job : Nat) {s : State} (h : Keeps s0 s) :
    KeepsOut s0 (execMicrocodeQreqTimeout job s) := by
  with_reducible unfold execMicrocodeQreqTimeout; repeat' first
    | assumption | apply KeepsOut.next | intro _ | apply State.loseFrame_keeps | apply State.thStop_keeps
    | apply forAll_keeps | (extract_lets +onlyGivenNames a; clear_value a) | split

theorem execMicrocodeWriteComplete_keeps {s0 : State} (job : Nat) {s : State} (h : Keeps s0 s) :
    KeepsOut s0 (execMicrocodeWriteComplete job s) := by
  with_reducible unfold execMicrocodeWriteComplete; repeat' first
    | assumption | apply KeepsOut.next | apply State.retire_keeps | apply State.jobTo_keeps
    | apply State.writePatch_keeps
    | (extract_lets +onlyGivenNames a; first | (refine Keeps.cut (s := a) ?_ (fun _ => ?_); subst a; rotate_left; clear_value a) | clear_value a)
    | split | refine Keeps.upd rfl rfl rfl rfl rfl ?_

theorem execCalibrateEnd_keeps {s0 : State} (job : Nat) {s : State} (h : Keeps s0 s) :
    KeepsOut s0 (execCalibrateEnd job s) := by
  with_reducible unfold execCalibrateEnd; repeat' first
    | assumption | apply KeepsOut.next | apply State.retire_keeps | apply State.dropCalib_keeps
    | apply State.updJob_keeps | apply State.jobTo_keeps | apply State.calRecord_keeps | apply State.takeAnswer_keeps
    | apply State.hostReq_keeps
    | (extract_lets +onlyGivenNames a; first | (refine Keeps.cut (s := a) ?_ (fun _ => ?_); subst a; rotate_left; clear_value a) | clear_value a)
    | refine Keeps.snd ‹_› ?_ | refine Keeps.fst ‹_› ?_ | split

end Sys2Proof.Machine
end

