-- ==== Sys2Proof/Laws/KeepsFaults.lean ====
section
/-! SUPPORT. `Keeps` of the functions of Machine/Faults.lean: what none of them changes. -/

namespace Sys2Proof.Machine

variable {s0 s : State}

theorem State.scrub_keeps (x2 a : Nat) (h : Keeps s0 s) :
    Keeps s0 (State.scrub s x2 a) := by
  with_reducible unfold State.scrub; repeat' first
    | assumption | apply State.corrected_keeps | apply State.uncorrectable_keeps | split
    | refine Keeps.upd rfl rfl rfl rfl rfl ?_

theorem State.ctStop_keeps (x2 c : Nat) (h : Keeps s0 s) :
    Keeps s0 (State.ctStop s x2 c) := by
  with_reducible unfold State.ctStop; repeat' first | assumption | apply State.ctCatch_keeps | apply State.set_keeps

theorem State.parityActs_keeps (r : Reg) (f : Field) (h : Keeps s0 s) :
    Keeps s0 (State.parityActs s r f) := by
  with_reducible unfold State.parityActs; repeat' first
    | assumption | intro _ | apply State.cartHalt_keeps | apply State.criersStop_keeps | apply State.axisLoss_keeps
    | apply State.goDown_keeps | apply State.disarm_keeps | apply State.wr_keeps | apply State.ctStop_keeps
    | apply State.cartAbort_keeps | apply State.hold_keeps | apply forAll_keeps | split
    | refine Keeps.upd rfl rfl rfl rfl rfl ?_

theorem State.parity_keeps (r : Reg) (n off : Nat) (h : Keeps s0 s) :
    Keeps s0 (State.parity s r n off) := by
  with_reducible unfold State.parity; repeat' first
    | assumption | apply State.chit_keeps | apply State.hallChit_keeps | apply State.set_keeps
    | apply State.parityActs_keeps
    | (extract_lets +onlyGivenNames a; first | (refine Keeps.cut (s := a) ?_ (fun _ => ?_); subst a; rotate_left; clear_value a) | clear_value a)
    | split

theorem State.hostParity_keeps (a n : Nat) (h : Keeps s0 s) :
    Keeps s0 (State.hostParity s a n) := by
  with_reducible unfold State.hostParity; repeat' first | assumption | apply State.parity_keeps | split

theorem State.traderParity_keeps (t : TraderId) (a n : Nat) (h : Keeps s0 s) :
    Keeps s0 (State.traderParity s t a n) := by
  unfold State.traderParity
  split
  · split
    · exact State.parity_keeps _ _ _ ⟨h.part, h.pending, Nat.le_succ_of_le h.free, h.mem, h.regs⟩
    · exact h
  · exact h

theorem Memory.wfFrom_append : ∀ {xs ys : Memory} {lo hi : Nat}, Memory.wfFrom lo xs = true → (∀ c ∈ xs, c.1 < hi) → lo ≤ hi →
    Memory.wfFrom hi ys = true → Memory.wfFrom lo (xs ++ ys) = true
  | [], _, _, _, _, _, hl, hy => Memory.wfFrom_mono hl hy
  | (a, b) :: xs, ys, lo, hi, hx, hb, _, hy => by
    simp only [Memory.wfFrom, Bool.and_eq_true, decide_eq_true_eq, List.cons_append] at hx ⊢
    have ha := hb (a, b) (List.mem_cons_self ..)
    exact ⟨hx.1, Memory.wfFrom_append hx.2 (fun c hc => hb c (List.mem_cons_of_mem _ hc)) ha hy⟩

theorem Memory.wfFrom_lift : ∀ {xs : Memory} {lo lo' : Nat}, Memory.wfFrom lo xs = true → (∀ c ∈ xs, lo' ≤ c.1) →
    Memory.wfFrom lo' xs = true
  | [], _, _, _, _ => rfl
  | (a, b) :: xs, _, _, hx, hb => by
    simp only [Memory.wfFrom, Bool.and_eq_true, decide_eq_true_eq] at hx ⊢
    exact ⟨⟨hb (a, b) (List.mem_cons_self ..), hx.1.2⟩, hx.2⟩

theorem Memory.wfFrom_shift (src dst : Nat) : ∀ {xs : Memory} {lo : Nat}, Memory.wfFrom lo xs = true → src ≤ lo →
    Memory.wfFrom (lo - src + dst) (xs.map (fun c => (c.1 - src + dst, c.2))) = true
  | [], _, _, _ => rfl
  | (a, b) :: xs, lo, hx, hl => by
    simp only [Memory.wfFrom, Bool.and_eq_true, decide_eq_true_eq, List.map_cons] at hx ⊢
    refine ⟨⟨by omega, hx.1.2⟩, ?_⟩
    have := Memory.wfFrom_shift src dst hx.2 (by omega : src ≤ a + 1)
    rwa [show a - src + dst + 1 = a + 1 - src + dst by omega]

/-- Copying a block keeps the canonical form. -/
theorem Memory.wf_copyBlock {m : Memory} (src dst n : Nat) (h : m.wf = true) : (Memory.copyBlock m src dst n).wf = true := by
  unfold Memory.copyBlock Memory.wf
  rw [List.append_assoc]
  refine Memory.wfFrom_append (hi := dst) (Memory.wfFrom_filter _ h) ?_ (Nat.zero_le _) ?_
  · intro c hc
    simpa using (List.mem_filter.mp hc).2
  · refine Memory.wfFrom_append (hi := dst + n) ?_ ?_ (Nat.le_add_right _ _) ?_
    · have h1 : Memory.wfFrom src (m.filter (fun c => decide (src ≤ c.1) && decide (c.1 < src + n))) = true :=
        Memory.wfFrom_lift (Memory.wfFrom_filter _ h) (fun c hc => by
          have := (List.mem_filter.mp hc).2
          simp only [Bool.and_eq_true, decide_eq_true_eq] at this
          exact this.1)
      have := Memory.wfFrom_shift src dst h1 (Nat.le_refl _)
      simpa using this
    · intro c hc
      obtain ⟨d, hd, rfl⟩ := List.mem_map.mp hc
      have := (List.mem_filter.mp hd).2
      simp only [Bool.and_eq_true, decide_eq_true_eq] at this
      simp only
      omega
    · exact Memory.wfFrom_lift (Memory.wfFrom_filter _ h) (fun c hc => by simpa using (List.mem_filter.mp hc).2)

theorem State.copyStallMem_keeps (x2 f : Nat) (h : Keeps s0 s) : Keeps s0 (State.copyStallMem s x2 f) := by
  unfold State.copyStallMem
  extract_lets src dst within mine bad s1 s2
  have h1 : Keeps s0 s1 := iter_keeps _ _ h (fun t ht => State.corrected_keeps x2 f ht)
  clear_value s1
  have h2 : Keeps s0 s2 := ⟨h1.part, h1.pending, h1.free, fun k => Memory.wf_copyBlock _ _ _ (h1.mem k), h1.regs⟩
  clear_value s2
  exact State.put_keeps _ _ _ h2

theorem State.copyStallRegs_keeps (x2 f : Nat) (h : Keeps s0 s) :
    Keeps s0 (State.copyStallRegs s x2 f) := by
  with_reducible unfold State.copyStallRegs; repeat' first
    | assumption | intro _ | apply State.wr_keeps | apply State.set_keeps | apply State.put_keeps | apply forAll_keeps

theorem State.moveOwners_keeps (x2 f : Nat) (h : Keeps s0 s) : Keeps s0 (State.moveOwners s x2 f) := by
  unfold State.moveOwners
  extract_lets lo move
  have hm : ∀ g r t, Keeps s0 t → Keeps s0 (move g r t) := by
    intro g r t ht
    subst move
    beta_reduce
    with_reducible repeat' first
      | assumption | apply State.put_keeps | (extract_lets +onlyGivenNames a; clear_value a) | split
  clear_value move
  with_reducible repeat' first | assumption | intro _ | apply hm | apply forAll_keeps | split

theorem redo_keeps {s0 : State} (c : Instr) {s : State} (h : Keeps s0 s) : KeepsOut s0 (redo c s) := by
  cases c
  case ctCtrlWrite => exact execCtCtrlWrite_keeps _ _ _ _ h
  case ctPeriodWrite => exact execCtPeriodWrite_keeps _ _ _ _ h
  case ctCountWrite => exact execCtCountWrite_keeps _ _ _ _ h
  case ctInputWrite => exact execCtInputWrite_keeps _ _ _ _ h
  case chainRead => exact execChainRead_keeps _ _ _ h
  case taxCtrlWrite => exact execTaxCtrlWrite_keeps _ _ _ h
  case preset => exact execPreset_keeps _ _ h
  case clearLost => exact execClearLost_keeps _ _ h
  case arm => exact execArm_keeps _ _ _ _ h
  case disarm => exact execDisarm_keeps _ _ _ _ h
  case crTxfPush => exact execCrTxfPush_keeps _ _ _ h
  case crRxfPop => exact execCrRxfPop_keeps _ _ h
  case crierStart => exact execCrierStart_keeps _ _ _ _ h
  case crierStop => exact execCrierStop_keeps _ _ _ _ h
  case restart => exact execRestart_keeps _ _ h
  case flush => exact execFlush_keeps _ _ h
  case kick => exact execKick_keeps _ _ _ _ h
  case crFifoWrite => exact execCrFifoWrite_keeps _ _ _ h
  case brClkWrite => exact execBrClkWrite_keeps _ _ _ _ h
  case brIdataWrite => exact execBrIdataWrite_keeps _ _ _ _ h
  case instructionPageWrite => exact execInstructionPageWrite_keeps _ _ _ _ _ _ h
  case barrowPageSel => exact execBarrowPageSel_keeps _ _ _ _ h
  case tokenAcquire => exact execTokenAcquire_keeps _ h
  case tokenRelease => exact execTokenRelease_keeps _ _ h
  case hlAbandon => exact execHlAbandon_keeps _ _ _ h
  case queueDescriptorWrite => exact execQueueDescriptorWrite_keeps _ _ _ _ _ h
  case blRing => exact execBlRing_keeps _ _ _ h
  case dbRing => exact execDbRing_keeps _ _ h
  case evKick => exact execEvKick_keeps _ _ _ _ h
  case evPendSet => exact execEvPendSet_keeps _ _ _ h
  case erRecordWrite => exact execErRecordWrite_keeps _ _ _ _ _ h
  case lnCtrlWrite => exact execLnCtrlWrite_keeps _ _ _ _ h
  case lnGroupWrite => exact execLnGroupWrite_keeps _ _ _ _ h
  case ptMboxWrite => exact execPtMboxWrite_keeps _ _ _ _ h
  case txRun => exact execTxRun_keeps _ _ _ _ h
  case rxRun => exact execRxRun_keeps _ _ _ _ h
  case controlStoreWrite => exact execControlStoreWrite_keeps _ _ _ _ _ h
  case cartStart => exact execCartStart_keeps _ _ _ h
  case cartAbort => exact execCartAbort_keeps _ _ _ h
  case cartPause => exact execCartPause_keeps _ _ _ h
  case cartResume => exact execCartResume_keeps _ _ _ h
  case cartEngineResume => exact execCartEngineResume_keeps _ _ h
  case queueReserve => exact execQueueReserve_keeps _ h
  case queueCommit => exact execQueueCommit_keeps _ h
  case queueAbort => exact execQueueAbort_keeps _ h
  case queueTake => exact execQueueTake_keeps _ h
  case queueDone => exact execQueueDone_keeps _ h
  case queueReturn => exact execQueueReturn_keeps _ h
  case orCtrlWrite => exact execOrCtrlWrite_keeps _ _ _ h
  case chitAcknowledge => exact execChitAcknowledge_keeps _ _ _ h
  case crCtrlWrite => exact execCrCtrlWrite_keeps _ _ _ h
  case chitMaskSet => exact execChitMaskSet_keeps _ _ _ h
  case chitMaskClr => exact execChitMaskClr_keeps _ _ _ h
  case chitPendSet => exact execChitPendSet_keeps _ _ _ h
  case chitPendClr => exact execChitPendClr_keeps _ _ _ h
  case clockSwitch => exact execClockSwitch_keeps _ h
  case pageSel => exact execPageSel_keeps _ _ _ _ h
  case inval => exact execInval_keeps _ _ _ h
  case imemWrite => exact execImemWrite_keeps _ _ _ _ _ _ h
  case ftLockstepWrite => exact execFtLockstepWrite_keeps _ _ _ h
  case failRequest => exact execFailRequest_keeps _ _ _ h
  case failRelease => exact execFailRelease_keeps _ _ h
  case windRelease => exact execWindRelease_keeps _ _ h
  case windowMemoryWrite => exact execWindowMemoryWrite_keeps _ _ _ h
  case registerWrite => exact execRegisterWrite_keeps _ _ _ h
  case readClear => exact execReadClear_keeps _ _ _ _ _ h
  case orderDoorbell => exact execOrderDoorbell_keeps _ _ _ h
  case pinCfgWrite => exact execPinCfgWrite_keeps _ _ _ _ h
  case pinCfgShWrite => exact execPinCfgShWrite_keeps _ _ _ _ h
  case pinOutSet => exact execPinOutSet_keeps _ _ _ _ h
  case pinOutClr => exact execPinOutClr_keeps _ _ _ _ h
  case pinHoldSet => exact execPinHoldSet_keeps _ _ _ _ h
  case pinHoldClr => exact execPinHoldClr_keeps _ _ _ _ h
  case pinEvtWrite => exact execPinEvtWrite_keeps _ _ _ _ h
  case pswMapWrite => exact execPswMapWrite_keeps _ _ _ _ h
  all_goals exact KeepsOut.next h

theorem State.releaseHeld_keeps (h : Keeps s0 s) : Keeps s0 (State.releaseHeld s) := by
  unfold State.releaseHeld
  refine foldl_keeps _ _ (h.upd rfl rfl rfl rfl rfl) (fun t e ht => ?_)
  have hr := redo_keeps e.2.2 ht
  generalize redo e.2.2 t = o at hr ⊢
  cases o with
  | next u => exact hr u rfl
  | fault _ => exact ht
  | refused _ => exact ht

theorem execMemoryClearDone_keeps (h : Keeps s0 s) :
    KeepsOut s0 (execMemoryClearDone s) := by
  with_reducible unfold execMemoryClearDone; repeat' first
    | assumption | apply KeepsOut.next | apply State.set_keeps | apply State.settle_keeps | apply State.romStep_keeps
    | apply State.releaseHeld_keeps | split

theorem State.takeOver_keeps (x2 role : Nat) (h : Keeps s0 s) :
    Keeps s0 (State.takeOver s x2 role) := by
  with_reducible unfold State.takeOver; repeat' first
    | assumption | apply State.applyStall_keeps | apply State.noPart_keeps | apply State.exchangePages_keeps | split

theorem State.failSwitch_keeps (x2 : Nat) (o : Failover) (h : Keeps s0 s) :
    Keeps s0 (State.failSwitch s x2 o) := by
  with_reducible unfold State.failSwitch; repeat' first
    | assumption | intro _ | apply State.takeOver_keeps | apply State.copyStallRegs_keeps
    | apply State.moveOwners_keeps | apply State.hallChit_keeps | apply State.set_keeps | apply State.releaseHeld_keeps
    | apply State.put_keeps | apply State.setStallOf_keeps | apply State.failHold_keeps | apply State.stallLost_keeps
    | apply State.markFailed_keeps | apply State.copyStallMem_keeps | apply forAll_keeps
    | (extract_lets +onlyGivenNames a; first | (refine Keeps.cut (s := a) ?_ (fun _ => ?_); subst a; rotate_left; clear_value a) | clear_value a)
    | split | refine Keeps.upd rfl rfl rfl rfl rfl ?_

theorem State.restart_keeps (x2 role t : Nat) (h : Keeps s0 s) :
    Keeps s0 (State.restart s x2 role t) := by
  with_reducible unfold State.restart; repeat' first | assumption | apply State.put_keeps | apply State.setTrader_keeps

theorem State.failRelease_keeps (x2 : Nat) (o : Failover) (h : Keeps s0 s) :
    Keeps s0 (State.failRelease s x2 o) := by
  with_reducible unfold State.failRelease; repeat' first
    | assumption | intro _ | apply State.restart_keeps | apply State.unhold_keeps | apply forAll_keeps
    | (extract_lets +onlyGivenNames a; first | (refine Keeps.cut (s := a) ?_ (fun _ => ?_); subst a; rotate_left; clear_value a) | clear_value a)
    | split | refine Keeps.upd rfl rfl rfl rfl rfl ?_

theorem State.releaseAll_keeps (h : Keeps s0 s) :
    Keeps s0 (State.releaseAll s) := by
  with_reducible unfold State.releaseAll; repeat' first
    | assumption | (extract_lets +onlyGivenNames a; clear_value a) | refine Keeps.upd rfl rfl rfl rfl rfl ?_

theorem execScrubRead_keeps {s0 : State} (x1 addr : Nat) {s : State} (h : Keeps s0 s) :
    KeepsOut s0 (execScrubRead x1 addr s) := by
  with_reducible unfold execScrubRead; repeat' first
    | assumption | apply KeepsOut.next | apply State.settle_keeps | apply State.scrub_keeps | split

theorem execCfgParity_keeps {s0 : State} (t : Option TraderId) (addr n : Nat) {s : State} (h : Keeps s0 s) :
    KeepsOut s0 (execCfgParity t addr n s) := by
  with_reducible unfold execCfgParity; repeat' first
    | assumption | apply KeepsOut.next | apply State.settle_keeps | apply State.traderParity_keeps
    | apply State.hostParity_keeps | split

theorem execLockstepMismatch_keeps {s0 : State} (x1 j : Nat) {s : State} (h : Keeps s0 s) :
    KeepsOut s0 (execLockstepMismatch x1 j s) := by
  with_reducible unfold execLockstepMismatch; repeat' first
    | assumption | apply KeepsOut.next | apply State.settle_keeps | split | refine Keeps.upd rfl rfl rfl rfl rfl ?_

theorem execFailoverSwitch_keeps {s0 : State} (x1 : Nat) {s : State} (h : Keeps s0 s) :
    KeepsOut s0 (execFailoverSwitch x1 s) := by
  with_reducible unfold execFailoverSwitch; repeat' first
    | assumption | apply KeepsOut.next | apply State.settle_keeps | apply State.releaseHeld_keeps
    | apply State.failSwitch_keeps | split

theorem execFailoverRelease_keeps {s0 : State} (x1 : Nat) {s : State} (h : Keeps s0 s) :
    KeepsOut s0 (execFailoverRelease x1 s) := by
  with_reducible unfold execFailoverRelease; repeat' first
    | assumption | apply KeepsOut.next | apply State.failRelease_keeps | split

theorem execDebugHalt_keeps {s0 : State} (t : TraderId) {s : State} (h : Keeps s0 s) :
    KeepsOut s0 (execDebugHalt t s) := by
  with_reducible unfold execDebugHalt; repeat' first
    | assumption | apply KeepsOut.next | apply State.upd_keeps | apply State.settle_keeps | apply State.takeTrap_keeps
    | (extract_lets +onlyGivenNames a; first | (refine Keeps.cut (s := a) ?_ (fun _ => ?_); subst a; rotate_left; clear_value a) | clear_value a)
    | split

theorem execDebugRelease_keeps {s0 : State} (t : TraderId) {s : State} (h : Keeps s0 s) :
    KeepsOut s0 (execDebugRelease t s) := by
  with_reducible unfold execDebugRelease; repeat' first
    | assumption | apply KeepsOut.next | apply State.upd_keeps | split

theorem execDbgEnFall_keeps (h : Keeps s0 s) :
    KeepsOut s0 (execDbgEnFall s) := by
  with_reducible unfold execDbgEnFall; repeat' first
    | assumption | apply KeepsOut.next | apply State.releaseAll_keeps
    | (extract_lets +onlyGivenNames a; first | (refine Keeps.cut (s := a) ?_ (fun _ => ?_); subst a; rotate_left; clear_value a) | clear_value a)
    | refine Keeps.upd rfl rfl rfl rfl rfl ?_

theorem execDbgEnRise_keeps (h : Keeps s0 s) :
    KeepsOut s0 (execDbgEnRise s) := by
  with_reducible unfold execDbgEnRise; repeat' first
    | assumption | apply KeepsOut.next | (extract_lets +onlyGivenNames a; clear_value a)
    | refine Keeps.upd rfl rfl rfl rfl rfl ?_

theorem execTestMode_keeps {s0 : State} (on : Bool) {s : State} (h : Keeps s0 s) :
    KeepsOut s0 (execTestMode on s) := by
  with_reducible unfold execTestMode; repeat' first
    | assumption | apply KeepsOut.next | (extract_lets +onlyGivenNames a; clear_value a) | split
    | refine Keeps.upd rfl rfl rfl rfl rfl ?_

theorem execDebugBreakpoints_keeps {s0 : State} (on : Bool) {s : State} (h : Keeps s0 s) :
    KeepsOut s0 (execDebugBreakpoints on s) := by
  with_reducible unfold execDebugBreakpoints; repeat' first
    | assumption | apply KeepsOut.next | (extract_lets +onlyGivenNames a; clear_value a) | split
    | refine Keeps.upd rfl rfl rfl rfl rfl ?_

end Sys2Proof.Machine
end

