-- ==== Sys2Proof/Laws/KeepsTraderMem.lean ====
section
/-! SUPPORT. `Keeps` of the functions of Machine/TraderMem.lean: what none of them changes. -/

namespace Sys2Proof.Machine

variable {s0 s : State}

theorem State.loadAcc_keeps (t : TraderId) (x : MemAcc) (h : Keeps s0 s) :
    Keeps s0 (State.loadAcc s t x).2 := by
  with_reducible unfold State.loadAcc; repeat' first
    | assumption | apply State.corrected_keeps | apply State.granted_keeps | apply State.uncorrectable_keeps
    | apply State.hostReq_keeps
    | (extract_lets +onlyGivenNames a; first | (refine Keeps.cut (s := a) ?_ (fun _ => ?_); subst a; rotate_left; clear_value a) | clear_value a)
    | dsimp only | refine Keeps.fst ‹_› ?_ | split

theorem State.farLoad_keeps (t : TraderId) (f : MemForm) (x : Nat × Nat) (last : Bool) (h : Keeps s0 s) :
    Keeps s0 (State.farLoad s t f x last) := by
  unfold State.farLoad
  split
  rename_i a s1 e
  exact State.upd_keeps t _ (Keeps.snd e (State.loadAcc_keeps t _ h))


theorem State.farStore_keeps (t : TraderId) (f : MemForm) (v : Nat) (h : Keeps s0 s) :
    Keeps s0 (State.farStore s t f v) := by
  with_reducible unfold State.farStore; repeat' first | assumption | apply State.upd_keeps

theorem State.cpRead1_keeps (t : TraderId) (a : Nat) (h : Keeps s0 s) :
    Keeps s0 (State.cpRead1 s t a).2 := by
  with_reducible unfold State.cpRead1; repeat' first
    | assumption | apply State.freeBytes_keeps | dsimp only | refine Keeps.snd ‹_› ?_ | split

theorem State.cpRead_keeps {s0 : State} (t : TraderId) (a n : Nat) {s : State} (h : Keeps s0 s) :
    Keeps s0 (State.cpRead s t a n).2 := by
  induction n generalizing a s with
  | zero =>
    rw [State.cpRead]
    exact h
  | succ n ih =>
    rw [State.cpRead]
    have h1 := State.cpRead1_keeps t a h
    generalize State.cpRead1 s t a = p at h1 ⊢
    obtain ⟨b, s1⟩ := p
    have h2 := ih (a + 1) h1
    dsimp only
    generalize State.cpRead s1 t (a + 1) n = q at h2 ⊢
    exact h2

theorem State.cpWrite1_keeps (t : TraderId) (a : Nat) (b : Byte) (h : Keeps s0 s) :
    Keeps s0 (State.cpWrite1 s t a b) := by
  with_reducible unfold State.cpWrite1; repeat' first
    | assumption | apply State.upd_keeps | apply State.wr_keeps | (extract_lets +onlyGivenNames a; clear_value a)
    | split

theorem State.portAccess_keeps (t : TraderId) (r : AtomReq) (h : Keeps s0 s) :
    Keeps s0 (State.portAccess s t r) := by
  with_reducible unfold State.portAccess; repeat' first
    | assumption | apply State.upd_keeps | apply State.atomDone_keeps
    | (extract_lets +onlyGivenNames a; first | (refine Keeps.cut (s := a) ?_ (fun _ => ?_); subst a; rotate_left; clear_value a) | (have e : a = a := funext fun _ => rfl; clear e; subst a; beta_reduce) | clear_value a)
    | split

theorem State.loaded_keeps (t : TraderId) (w v : Nat) (h : Keeps s0 s) :
    Keeps s0 (State.loaded s t w v) := by
  with_reducible unfold State.loaded; repeat' first | assumption | apply State.upd_keeps

theorem State.nearAccess_keeps (t : TraderId) (w : Nat) (x : Nat × Nat) (k : List Byte → State → State)
    (h : Keeps s0 s) (hk : ∀ y0 y1, Keeps s0 y1 → Keeps s0 (k y0 y1)) :
    Keeps s0 (State.nearAccess s t w x k) := by
  with_reducible unfold State.nearAccess; repeat' first
    | assumption | intro _ | apply State.scRead_keeps | apply State.ioRead_keeps | apply State.ramRead_keeps
    | apply State.cpRead_keeps | apply hk | (extract_lets +onlyGivenNames a; clear_value a) | refine Keeps.snd ‹_› ?_
    | split

theorem State.nearAccesses_keeps {s0 : State} (t : TraderId) (w : Nat) (k : List Byte → State → State) (xs : List (Nat × Nat))
    (bs : List Byte) {s : State} (h : Keeps s0 s) (hk : ∀ y0 y1, Keeps s0 y1 → Keeps s0 (k y0 y1)) :
    Keeps s0 (State.nearAccesses t w k xs bs s) := by
  induction xs generalizing bs s with
  | nil => exact hk bs s h
  | cons x xs ih =>
    rw [State.nearAccesses]
    exact State.nearAccess_keeps _ _ _ _ h (fun b u hu => ih _ hu)


theorem State.loadEarly_keeps (t : TraderId) (w : Nat) (f : MemForm) (h : Keeps s0 s) :
    Keeps s0 (State.loadEarly s t w f) := by
  unfold State.loadEarly
  extract_lets x keep
  have hk : ∀ bs u, Keeps s0 u → Keeps s0 (keep bs u) := fun bs u hu => State.upd_keeps t _ hu
  clear_value keep
  with_reducible repeat' first | assumption | apply State.farLoad_keeps | apply State.nearAccess_keeps | split


theorem State.load_keeps (t : TraderId) (w : Nat) (f : MemForm) (h : Keeps s0 s) :
    Keeps s0 (State.load s t w f) := by
  unfold State.load
  extract_lets tr near
  have hn : ∀ u, Keeps s0 u → Keeps s0 (near u) := fun u hu =>
    State.nearAccesses_keeps t w _ _ _ hu (fun bs v hv => State.loaded_keeps t w _ hv)
  clear_value near
  split
  · exact State.upd_keeps t _ (State.farLoad_keeps t f _ true h)
  · split
    · split
      rename_i e
      exact State.portAccess_keeps t _ (Keeps.snd e (State.ioRead_keeps t _ _ h))
    · exact hn _ h
  · exact hn _ h


theorem State.storeMem_keeps (t : TraderId) (w : Nat) (f : MemForm) (v : Nat) (h : Keeps s0 s) :
    Keeps s0 (State.storeMem s t w f v) := by
  with_reducible unfold State.storeMem; repeat' first
    | assumption | intro _ | apply State.upd_keeps | apply State.ioWrite_keeps | apply State.cpWrite1_keeps
    | apply State.portAccess_keeps | apply State.storeS_keeps | apply State.farStore_keeps | apply forAll_keeps
    | (extract_lets +onlyGivenNames a; first | (refine Keeps.cut (s := a) ?_ (fun _ => ?_); subst a; rotate_left; clear_value a) | (have e : a = a := funext fun _ => rfl; clear e; subst a; beta_reduce) | clear_value a)
    | split

theorem State.memEarly_keeps {s0 : State} (t : TraderId) (w : Nat) {s : State} (h : Keeps s0 s) :
    Keeps s0 (State.memEarly t w s) := by
  with_reducible unfold State.memEarly; repeat' first
    | assumption | apply State.loadEarly_keeps | (extract_lets +onlyGivenNames a; clear_value a) | split

theorem State.memBody_keeps {s0 : State} (t : TraderId) (w : Nat) {s : State} (h : Keeps s0 s) :
    Keeps s0 (State.memBody t w s) := by
  with_reducible unfold State.memBody; repeat' first
    | assumption | apply State.raiseTrap_keeps | apply State.load_keeps | apply State.storeMem_keeps
    | (extract_lets +onlyGivenNames a; clear_value a) | split

theorem State.memIssue_keeps (t : TraderId) (k : Nat) (uses : Nat → List GReg) (h : Keeps s0 s) :
    KeepsOut s0 (State.memIssue s t k uses) := by
  with_reducible unfold State.memIssue; repeat' first
    | assumption | apply KeepsOut.next | intro _ | apply State.memEarly_keeps | apply State.issue_keeps
    | apply State.ownSlot_keeps | apply State.settle_keeps | apply State.unsched_keeps | apply State.memBody_keeps
    | split

theorem execLdb_keeps {s0 : State} (t : TraderId) {s : State} (h : Keeps s0 s) :
    KeepsOut s0 (execLdb t s) := by
  with_reducible unfold execLdb; repeat' first | assumption | apply KeepsOut.next | apply State.memIssue_keeps

theorem execStb_keeps {s0 : State} (t : TraderId) {s : State} (h : Keeps s0 s) :
    KeepsOut s0 (execStb t s) := by
  with_reducible unfold execStb; repeat' first | assumption | apply KeepsOut.next | apply State.memIssue_keeps

theorem execLdh_keeps {s0 : State} (t : TraderId) {s : State} (h : Keeps s0 s) :
    KeepsOut s0 (execLdh t s) := by
  with_reducible unfold execLdh; repeat' first | assumption | apply KeepsOut.next | apply State.memIssue_keeps

theorem execSth_keeps {s0 : State} (t : TraderId) {s : State} (h : Keeps s0 s) :
    KeepsOut s0 (execSth t s) := by
  with_reducible unfold execSth; repeat' first | assumption | apply KeepsOut.next | apply State.memIssue_keeps

theorem execLdt_keeps {s0 : State} (t : TraderId) {s : State} (h : Keeps s0 s) :
    KeepsOut s0 (execLdt t s) := by
  with_reducible unfold execLdt; repeat' first | assumption | apply KeepsOut.next | apply State.memIssue_keeps

theorem execStt_keeps {s0 : State} (t : TraderId) {s : State} (h : Keeps s0 s) :
    KeepsOut s0 (execStt t s) := by
  with_reducible unfold execStt; repeat' first | assumption | apply KeepsOut.next | apply State.memIssue_keeps

theorem execLdba_keeps {s0 : State} (t : TraderId) {s : State} (h : Keeps s0 s) :
    KeepsOut s0 (execLdba t s) := by
  with_reducible unfold execLdba; repeat' first | assumption | apply KeepsOut.next | apply State.memIssue_keeps

theorem execCall_keeps {s0 : State} (t : TraderId) {s : State} (h : Keeps s0 s) :
    KeepsOut s0 (execCall t s) := by
  with_reducible unfold execCall; repeat' first | assumption | apply KeepsOut.next | apply State.memIssue_keeps

theorem execBsr_keeps {s0 : State} (t : TraderId) {s : State} (h : Keeps s0 s) :
    KeepsOut s0 (execBsr t s) := by
  with_reducible unfold execBsr; repeat' first | assumption | apply KeepsOut.next | apply State.memIssue_keeps

theorem execCalli_keeps {s0 : State} (t : TraderId) {s : State} (h : Keeps s0 s) :
    KeepsOut s0 (execCalli t s) := by
  with_reducible unfold execCalli; repeat' first | assumption | apply KeepsOut.next | apply State.memIssue_keeps

theorem execRet_keeps {s0 : State} (t : TraderId) {s : State} (h : Keeps s0 s) :
    KeepsOut s0 (execRet t s) := by
  with_reducible unfold execRet; repeat' first | assumption | apply KeepsOut.next | apply State.memIssue_keeps

theorem State.blkEarly_keeps {s0 : State} (t : TraderId) (w : Nat) {s : State} (h : Keeps s0 s) :
    Keeps s0 (State.blkEarly t w s) := by
  with_reducible unfold State.blkEarly; repeat' first
    | assumption | intro _ | apply State.upd_keeps | apply State.nearAccess_keeps
    | (extract_lets +onlyGivenNames a; clear_value a) | split

theorem State.blkBody_keeps {s0 : State} (t : TraderId) (w : Nat) {s : State} (h : Keeps s0 s) :
    Keeps s0 (State.blkBody t w s) := by
  with_reducible unfold State.blkBody; repeat' first
    | assumption | apply State.endCheck_keeps | apply State.raiseTrap_keeps | apply State.storeS_keeps
    | (extract_lets +onlyGivenNames a; clear_value a) | split

theorem execBcpy_keeps {s0 : State} (t : TraderId) {s : State} (h : Keeps s0 s) :
    KeepsOut s0 (execBcpy t s) := by
  with_reducible unfold execBcpy; repeat' first
    | assumption | apply KeepsOut.next | intro _ | apply State.issue_keeps | apply State.blkEarly_keeps
    | apply State.settle_keeps | apply State.blkBody_keeps

theorem execBfill_keeps {s0 : State} (t : TraderId) {s : State} (h : Keeps s0 s) :
    KeepsOut s0 (execBfill t s) := by
  with_reducible unfold execBfill; repeat' first
    | assumption | apply KeepsOut.next | intro _ | apply State.issue_keeps | apply State.settle_keeps
    | apply State.blkBody_keeps

theorem State.sawBusy_keeps (t : TraderId) (h : Keeps s0 s) :
    Keeps s0 (State.sawBusy s t) := by
  with_reducible unfold State.sawBusy; repeat' first | assumption | apply State.orIn_keeps

theorem State.arrive_keeps (t : TraderId) (a : LoadAcc) (o : MemOutcome) (h : Keeps s0 s) :
    Keeps s0 (State.arrive s t a o).2 := by
  with_reducible unfold State.arrive; repeat' first
    | assumption | apply State.sawBusy_keeps | apply State.busError_keeps | apply State.collided_keeps
    | apply State.takeAnswer_keeps | (extract_lets +onlyGivenNames a; clear_value a) | dsimp only
    | refine Keeps.snd ‹_› ?_ | split

theorem execLoadDataArrival_keeps {s0 : State} (t : TraderId) (o : MemOutcome) {s : State} (h : Keeps s0 s) :
    KeepsOut s0 (execLoadDataArrival t o s) := by
  with_reducible unfold execLoadDataArrival; repeat' first
    | assumption | apply KeepsOut.next | intro _ | apply State.upd_keeps | apply State.idleTo_keeps
    | apply State.arrive_keeps | apply foldl_keeps
    | (extract_lets +onlyGivenNames a; first | (refine Keeps.cut (s := a) ?_ (fun _ => ?_); subst a; rotate_left; clear_value a) | (have e : a = a := funext fun _ => rfl; clear e; subst a; beta_reduce) | clear_value a)
    | refine Keeps.snd ‹_› ?_ | split

theorem State.popStore_keeps (t : TraderId) (h : Keeps s0 s) :
    Keeps s0 (State.popStore s t) := by
  with_reducible unfold State.popStore; repeat' first | assumption | apply State.upd_keeps

theorem execStoreBufferDrain_keeps {s0 : State} (t : TraderId) (o : MemOutcome) {s : State} (h : Keeps s0 s) :
    KeepsOut s0 (execStoreBufferDrain t o s) := by
  with_reducible unfold execStoreBufferDrain; repeat' first
    | assumption | apply KeepsOut.next | apply State.popStore_keeps | apply State.sawBusy_keeps | apply State.upd_keeps
    | apply State.busError_keeps | apply State.store_keeps | apply State.granted_keeps
    | apply State.uncorrectable_keeps | apply State.hostReq_keeps
    | (extract_lets +onlyGivenNames a; first | (refine Keeps.cut (s := a) ?_ (fun _ => ?_); subst a; rotate_left; clear_value a) | clear_value a)
    | refine Keeps.fst ‹_› ?_ | split

theorem execAtomicAnswerArrival_keeps {s0 : State} (t : TraderId) {s : State} (h : Keeps s0 s) :
    KeepsOut s0 (execAtomicAnswerArrival t s) := by
  with_reducible unfold execAtomicAnswerArrival; repeat' first
    | assumption | apply KeepsOut.next | apply State.upd_keeps

end Sys2Proof.Machine
end

