-- ==== Sys2Proof/WellFormed.lean ====
section
/-! DEFINITION. Which commands name units that the largest variant has (R1): a hall below 8, a stall below 9, a trader
below 16 of its stall, a barrow below 16, and so on. A command that is well formed may still name a unit that the part at
hand does not have; what it then does is the machine's. The fields of an order are checked by the order's own rules
(R324 to R333), so nothing is asked of them here. -/

namespace Sys2Proof

/-- The trader exists in the largest variant. -/
def TraderId.wf (t : TraderId) : Bool := decide (t.h < 8) && decide (t.s < 9) && decide (t.t < 16)

/-- The crier exists in the largest variant. -/
def CrierId.wf (c : CrierId) : Bool := decide (c.h < 8) && decide (c.b < 16) && decide (c.c < 4)

/-- The host port or the trader exists. -/
def Accessor.wf : Accessor → Bool
  | .host port => decide (port < 4)
  | .trader t => t.wf

/-- The caller of a token or queue operation exists. -/
def Caller.wf : Caller → Bool
  | .trader t => t.wf
  | .host h a => decide (h < 8) && decide (a < 16)
  | .porter h k th => decide (h < 8) && decide (k < 4) && decide (th < 2)
  | .cart h c _ => decide (h < 8) && decide (c < 32)

/-- The order came from an order ring and a slot of one; JOB has 16 bits and FLAGS 8. -/
def OrderHdr.wf (o : OrderHdr) : Bool := decide (o.ring < 16) && decide (o.flags < 256) && decide (o.job < 65536)

/-- The bell, mark or counter exists. -/
def DeliverySrc.wf : DeliverySrc → Bool
  | .bell n => decide (n < 32)
  | .devBell n => decide (n < 16)
  | .mark m => decide (m < 32)
  | .kick => true

/-- The command is well formed. -/
def Instr.wf (i : Instr) : Bool :=
  match i with
  | .registerWrite by_ _ _ => by_.wf
  | .readClear by_ _ n _ _ => by_.wf && decide (1 ≤ n) && decide (n ≤ 64)
  | .tillPllLock => true
  | .lfoTrimMeasure _ => true
  | .tillAlarmFire => true
  | .refLost => true
  | .refBack => true
  | .holdoverExit => true
  | .quadratureEdge n _ _ _ => decide (n < 16)
  | .estimatorUpdate n => decide (n < 16)
  | .taxCtrlWrite by_ n _ => by_.wf && decide (n < 16)
  | .preset by_ n => by_.wf && decide (n < 16)
  | .clearLost by_ n => by_.wf && decide (n < 16)
  | .arm by_ h m _ => by_.wf && decide (h < 8) && decide (m < 32)
  | .disarm by_ h m _ => by_.wf && decide (h < 8) && decide (m < 32)
  | .markAction h m => decide (h < 8) && decide (m < 32)
  | .pulseEnd h m => decide (h < 8) && decide (m < 32)
  | .counterPinEdge h c _ _ => decide (h < 8) && decide (c < 64)
  | .counterMatch h c => decide (h < 8) && decide (c < 64)
  | .counterWrap h c => decide (h < 8) && decide (c < 64)
  | .ctCtrlWrite by_ h c _ => by_.wf && decide (h < 8) && decide (c < 64)
  | .ctPeriodWrite by_ h c _ => by_.wf && decide (h < 8) && decide (c < 64)
  | .ctCountWrite by_ h c _ => by_.wf && decide (h < 8) && decide (c < 64)
  | .ctInputWrite by_ h c _ => by_.wf && decide (h < 8) && decide (c < 64)
  | .chainRead by_ h c => by_.wf && decide (h < 8) && decide (c < 64)
  | .nop t => t.wf
  | .add t => t.wf
  | .addc t => t.wf
  | .sub t => t.wf
  | .subb t => t.wf
  | .andD t => t.wf
  | .orD t => t.wf
  | .xorD t => t.wf
  | .notD t => t.wf
  | .neg t => t.wf
  | .mov t => t.wf
  | .shl t => t.wf
  | .shr t => t.wf
  | .sar t => t.wf
  | .rol t => t.wf
  | .ror t => t.wf
  | .minu t => t.wf
  | .maxu t => t.wf
  | .rev t => t.wf
  | .popc t => t.wf
  | .addi t => t.wf
  | .andi t => t.wf
  | .ori t => t.wf
  | .xori t => t.wf
  | .movi t => t.wf
  | .shi t => t.wf
  | .cmp t => t.wf
  | .cmpi t => t.wf
  | .cmpac t => t.wf
  | .cmpa t => t.wf
  | .cmpai t => t.wf
  | .pand t => t.wf
  | .por t => t.wf
  | .pxor t => t.wf
  | .pandn t => t.wf
  | .pnot t => t.wf
  | .pmov t => t.wf
  | .pset t => t.wf
  | .pclr t => t.wf
  | .pcnd t => t.wf
  | .btst t => t.wf
  | .bset t => t.wf
  | .bclr t => t.wf
  | .binv t => t.wf
  | .accAdd t => t.wf
  | .accAddc t => t.wf
  | .accSub t => t.wf
  | .accSubb t => t.wf
  | .accAddd t => t.wf
  | .adda t => t.wf
  | .addas t => t.wf
  | .fold t => t.wf
  | .accAnd t => t.wf
  | .accOr t => t.wf
  | .accXor t => t.wf
  | .accMov t => t.wf
  | .accShl t => t.wf
  | .accShr t => t.wf
  | .accSar t => t.wf
  | .insd t => t.wf
  | .insa t => t.wf
  | .extd t => t.wf
  | .exta t => t.wf
  | .extah t => t.wf
  | .aci t => t.wf
  | .acsh t => t.wf
  | .acli t => t.wf
  | .achi t => t.wf
  | .adrAdd t => t.wf
  | .adrSub t => t.wf
  | .adrAddc t => t.wf
  | .adrSubb t => t.wf
  | .adrAnd t => t.wf
  | .adrOr t => t.wf
  | .adrXor t => t.wf
  | .adrMov t => t.wf
  | .adrShl t => t.wf
  | .adrShr t => t.wf
  | .adrSar t => t.wf
  | .adrAddd t => t.wf
  | .movdl t => t.wf
  | .movdh t => t.wf
  | .movld t => t.wf
  | .movhd t => t.wf
  | .addai t => t.wf
  | .movai t => t.wf
  | .shai t => t.wf
  | .mulu t => t.wf
  | .muls t => t.wf
  | .mulua t => t.wf
  | .mulsa t => t.wf
  | .mulProductLand t => t.wf
  | .ldb t => t.wf
  | .stb t => t.wf
  | .ldh t => t.wf
  | .sth t => t.wf
  | .ldt t => t.wf
  | .stt t => t.wf
  | .ldba t => t.wf
  | .bcpy t => t.wf
  | .bfill t => t.wf
  | .jmp t => t.wf
  | .bra t => t.wf
  | .call t => t.wf
  | .bsr t => t.wf
  | .jmpi t => t.wf
  | .calli t => t.wf
  | .ret t => t.wf
  | .rete t => t.wf
  | .loop t => t.wf
  | .loopr t => t.wf
  | .wfe t => t.wf
  | .wfb t => t.wf
  | .wtu t => t.wf
  | .wtur t => t.wf
  | .wpu t => t.wf
  | .wfeEnd t => t.wf
  | .wfbEnd t => t.wf
  | .wtuEnd t => t.wf
  | .wpuEnd t => t.wf
  | .sev t => t.wf
  | .movs t => t.wf
  | .drain t => t.wf
  | .setbnk t => t.wf
  | .setbnkr t => t.wf
  | .sethbk t => t.wf
  | .sethbkr t => t.wf
  | .sethost t => t.wf
  | .trap t => t.wf
  | .stop t => t.wf
  | .brk t => t.wf
  | .sync t => t.wf
  | .snop t => t.wf
  | .fadd t => t.wf
  | .fsub t => t.wf
  | .fmul t => t.wf
  | .fmac t => t.wf
  | .fdiv t => t.wf
  | .fsqrt t => t.wf
  | .fcmp t => t.wf
  | .xadd t => t.wf
  | .xsub t => t.wf
  | .xmul t => t.wf
  | .xmac t => t.wf
  | .xdiv t => t.wf
  | .xshl t => t.wf
  | .xsar t => t.wf
  | .xcmp t => t.wf
  | .ftox t => t.wf
  | .xtof t => t.wf
  | .smov t => t.wf
  | .xabs t => t.wf
  | .xneg t => t.wf
  | .fabs t => t.wf
  | .fneg t => t.wf
  | .xclip t => t.wf
  | .fclip t => t.wf
  | .scaleResultLand t => t.wf
  | .cpxOperation t _ => t.wf
  | .cpxResultReturn t _ => t.wf
  | .loadDataArrival t _ => t.wf
  | .storeBufferDrain t _ => t.wf
  | .icacheLineFill h f _ => decide (h < 8) && decide (f < 9)
  | .inval by_ h f => by_.wf && decide (h < 8) && decide (f < 9)
  | .icacheInvalEnd h f => decide (h < 8) && decide (f < 9)
  | .pageSel by_ h f _ => by_.wf && decide (h < 8) && decide (f < 9)
  | .imemWrite port h f page _ _ => decide (port < 4) && decide (h < 8) && decide (f < 9) && decide (page < 2)
  | .eventEntry t => t.wf
  | .evKick by_ h f _ => by_.wf && decide (h < 8) && decide (f < 9)
  | .evPendSet by_ t _ => by_.wf && t.wf
  | .erRecordWrite by_ t lvl word _ => by_.wf && t.wf && decide (lvl < 4) && decide (word < 4)
  | .budgetOverrun t => t.wf
  | .crierNop c _ => c.wf
  | .shout c _ => c.wf
  | .hear c _ => c.wf
  | .setPins c _ => c.wf
  | .await c _ => c.wf
  | .crierGoto c _ => c.wf
  | .crierMove c _ => c.wf
  | .crierPush c _ => c.wf
  | .crierPull c _ => c.wf
  | .crierPace c _ => c.wf
  | .crcInit c _ => c.wf
  | .crcFeedOut c _ => c.wf
  | .crcFeedIn c _ => c.wf
  | .crcOff c _ => c.wf
  | .crcInsert c _ => c.wf
  | .crcFeedX c _ => c.wf
  | .paceTick c => c.wf
  | .crierDelivery h b src => decide (h < 8) && decide (b < 16) && src.wf
  | .crTxfPush by_ c _ => by_.wf && c.wf
  | .crRxfPop by_ c => by_.wf && c.wf
  | .crierStart by_ h b _ => by_.wf && decide (h < 8) && decide (b < 16)
  | .crierStop by_ h b _ => by_.wf && decide (h < 8) && decide (b < 16)
  | .restart by_ c => by_.wf && c.wf
  | .flush by_ c => by_.wf && c.wf
  | .kick by_ h b _ => by_.wf && decide (h < 8) && decide (b < 16)
  | .crFifoWrite by_ c _ => by_.wf && c.wf
  | .brClkWrite by_ h b _ => by_.wf && decide (h < 8) && decide (b < 16)
  | .brIdataWrite by_ h b _ => by_.wf && decide (h < 8) && decide (b < 16)
  | .instructionPageWrite port h b page w _ => decide (port < 4) && decide (h < 8) && decide (b < 16) && decide (page < 2) && decide (w < 64)
  | .barrowPageSel by_ h b _ => by_.wf && decide (h < 8) && decide (b < 16)
  | .barrowSwapCycle h b => decide (h < 8) && decide (b < 16)
  | .pinCfgWrite port h p _ => decide (port < 4) && decide (h < 8) && decide (p < 128)
  | .pinCfgShWrite port h p _ => decide (port < 4) && decide (h < 8) && decide (p < 128)
  | .pinSwitchOver h p => decide (h < 8) && decide (p < 128)
  | .pinOutSet port h k _ => decide (port < 4) && decide (h < 8) && decide (k < 4)
  | .pinOutClr port h k _ => decide (port < 4) && decide (h < 8) && decide (k < 4)
  | .pinHoldSet port h k _ => decide (port < 4) && decide (h < 8) && decide (k < 4)
  | .pinHoldClr port h k _ => decide (port < 4) && decide (h < 8) && decide (k < 4)
  | .pinEvent h p _ => decide (h < 8) && decide (p < 128)
  | .pinEvtWrite port h p _ => decide (port < 4) && decide (h < 8) && decide (p < 128)
  | .pswMapWrite port h k _ => decide (port < 4) && decide (h < 8) && decide (k < 2)
  | .lnCtrlWrite port h k _ => decide (port < 4) && decide (h < 8) && decide (k < 4)
  | .lnGroupWrite port h k _ => decide (port < 4) && decide (h < 8) && decide (k < 4)
  | .linkBlockRx h k _ => decide (h < 8) && decide (k < 4)
  | .linkBlockDue h k => decide (h < 8) && decide (k < 4)
  | .alignBlockDue h k => decide (h < 8) && decide (k < 4)
  | .axisSyncDue h k => decide (h < 8) && decide (k < 4)
  | .eplasFrameRx h k _ _ _ => decide (h < 8) && decide (k < 4)
  | .ethernetFrameRx h k _ _ _ => decide (h < 8) && decide (k < 4)
  | .axisSyncFrameRx h k _ _ => decide (h < 8) && decide (k < 4)
  | .laneUp h k => decide (h < 8) && decide (k < 4)
  | .laneTrainTimeout h k _ => decide (h < 8) && decide (k < 4)
  | .laneDown h k _ => decide (h < 8) && decide (k < 4)
  | .fecLimitExceeded h k => decide (h < 8) && decide (k < 4)
  | .linkBlockTimeout h k => decide (h < 8) && decide (k < 4)
  | .microword h k th => decide (h < 8) && decide (k < 4) && decide (th < 2)
  | .microTrapEntry h k th => decide (h < 8) && decide (k < 4) && decide (th < 2)
  | .ptMboxWrite port h k _ => decide (port < 4) && decide (h < 8) && decide (k < 4)
  | .txRun port h k _ => decide (port < 4) && decide (h < 8) && decide (k < 4)
  | .rxRun port h k _ => decide (port < 4) && decide (h < 8) && decide (k < 4)
  | .controlStoreWrite port h k _ _ => decide (port < 4) && decide (h < 8) && decide (k < 4)
  | .tokenAcquire by_ => by_.wf
  | .tokenRelease by_ _ => by_.wf
  | .hlAbandon by_ h _ => by_.wf && decide (h < 8)
  | .atomicAnswerArrival t => t.wf
  | .queueReserve by_ => by_.wf
  | .queueCommit by_ => by_.wf
  | .queueAbort by_ => by_.wf
  | .queuePush t => t.wf
  | .queueTake by_ => by_.wf
  | .queueDone by_ => by_.wf
  | .queueReturn by_ => by_.wf
  | .queuePop t => t.wf
  | .hostQueuePopReturn h q => decide (h < 8) && decide (q < 1024)
  | .queueDescriptorWrite port h q _ _ => decide (port < 4) && decide (h < 8) && decide (q < 1024)
  | .blRing by_ h _ => by_.wf && decide (h < 8)
  | .dbRing by_ _ => by_.wf
  | .cartStart port h c => decide (port < 4) && decide (h < 8) && decide (c < 32)
  | .cartAbort port h c => decide (port < 4) && decide (h < 8) && decide (c < 32)
  | .cartPause port h c => decide (port < 4) && decide (h < 8) && decide (c < 32)
  | .cartResume port h c => decide (port < 4) && decide (h < 8) && decide (c < 32)
  | .cartEngineResume port h => decide (port < 4) && decide (h < 8)
  | .cartDescriptorLoad h c _ => decide (h < 8) && decide (c < 32)
  | .cartBurstRead h c _ => decide (h < 8) && decide (c < 32)
  | .cartBurstWrite h c _ => decide (h < 8) && decide (c < 32)
  | .cartWriteAck h c => decide (h < 8) && decide (c < 32)
  | .cartQueueRetry h c => decide (h < 8) && decide (c < 32)
  | .cartStatusWriteAck h c _ => decide (h < 8) && decide (c < 32)
  | .cartHalt h _ _ _ => decide (h < 8)
  | .hostReadData _ _ => true
  | .hostWriteResponse _ => true
  | .hostErrorResponse _ _ => true
  | .orderDoorbell port n _ => decide (port < 4) && decide (n < 16)
  | .orCtrlWrite port n _ => decide (port < 4) && decide (n < 16)
  | .orderFetchComplete n => decide (n < 16)
  | .loadImage o _ _ _ => o.wf
  | .swapAt o _ _ _ _ _ => o.wf
  | .startTraders o _ _ _ _ _ => o.wf
  | .stopTraders o _ _ _ => o.wf
  | .claim o _ => o.wf
  | .claimRelease o _ _ => o.wf
  | .clear o _ _ _ _ _ => o.wf
  | .clearBlockDone job => decide (job < 65536)
  | .trainLane o _ => o.wf
  | .loadMicrocode o _ _ => o.wf
  | .microcodeFetchComplete job _ => decide (job < 65536)
  | .microcodeQreqTimeout job => decide (job < 65536)
  | .microcodeWriteComplete job => decide (job < 65536)
  | .calibrateAxis o _ _ _ _ _ _ => o.wf
  | .calibrateEnd job => decide (job < 65536)
  | .cartJob o _ _ _ _ => o.wf
  | .powerLevel o _ => o.wf
  | .powerIdle o => o.wf
  | .powerNap o _ _ => o.wf
  | .powerOff o _ _ => o.wf
  | .windDown o _ _ _ _ => o.wf
  | .jobSuspend o _ => o.wf
  | .jobResume o _ => o.wf
  | .jobCancel o _ => o.wf
  | .jobStart job => decide (job < 65536)
  | .chitWrite n => decide (n < 64)
  | .chitWriteComplete n => decide (n < 64)
  | .chitAcknowledge port n _ => decide (port < 4) && decide (n < 64)
  | .crCtrlWrite port n _ => decide (port < 4) && decide (n < 64)
  | .chitMaskSet port k _ => decide (port < 4) && decide (k < 2)
  | .chitMaskClr port k _ => decide (port < 4) && decide (k < 2)
  | .chitPendSet port k _ => decide (port < 4) && decide (k < 2)
  | .chitPendClr port k _ => decide (port < 4) && decide (k < 2)
  | .imageSectionFetched job _ => decide (job < 65536)
  | .swapCommit => true
  | .stallSwapRotation h f => decide (h < 8) && decide (f < 9)
  | .windRelease port h => decide (port < 4) && decide (h < 8)
  | .windDownTimeout => true
  | .powerOnReset => true
  | .deviceReset _ => true
  | .hallReset h => decide (h < 8)
  | .stallReset h f => decide (h < 8) && decide (f < 9)
  | .porterReset h k => decide (h < 8) && decide (k < 4)
  | .memoryClearDone => true
  | .bootRomStart => true
  | .clockSwitch by_ => by_.wf
  | .corePllLock => true
  | .supplySettled => true
  | .sleepEntryComplete => true
  | .wakePin slot _ => decide (slot < 32)
  | .i2cAddressMatch _ => true
  | .sleepAgentAccess port _ _ => decide (port < 4)
  | .temperatureSample _ => true
  | .scrubRead h _ => decide (h < 8)
  | .cfgParity _ _ _ => true
  | .lockstepMismatch h j => decide (h < 8) && decide (j < 8)
  | .ftLockstepWrite port h _ => decide (port < 4) && decide (h < 8)
  | .failRequest port h role => decide (port < 4) && decide (h < 8) && decide (role < 8)
  | .failRelease port h => decide (port < 4) && decide (h < 8)
  | .failoverSwitch h => decide (h < 8)
  | .failoverRelease h => decide (h < 8)
  | .debugHalt t => t.wf
  | .debugRelease t => t.wf
  | .dbgEnFall => true
  | .resetRelease _ => true
  | .windowMemoryWrite port _ _ => decide (port < 4)
  | .fecCodewordDecoded h k _ _ => decide (h < 8) && decide (k < 4)
  | .padLevelSample h p _ => decide (h < 8) && decide (p < 128)
  | .swapTillInstant => true
  | .dbgEnRise => true
  | .testMode _ => true
  | .debugBreakpoints _ => true
  | .activitySignalEnd h k => decide (h < 8) && decide (k < 4)
  | .imageHeaderFetched job _ => decide (job < 65536)

end Sys2Proof
end

