-- ==== Sys2Proof/Tests/Slice0.lean ====
section
/-! SUPPORT. Tests: ill-formed commands are refused, and for each statement with hypotheses a state and operands that meet
them. -/

set_option maxRecDepth 4000

open Sys2Proof Sys2Proof.Machine

theorem test_wf_refuses_1 : ([.registerWrite (.host 4) 0 [], .registerWrite (.trader ⟨0, 0, 16⟩) 0 [], .readClear (.host 4) 0 4 0 .ok, .readClear (.host 0) 0 65 0 .ok, .quadratureEdge 16 true true 0, .estimatorUpdate 16, .taxCtrlWrite (.host 4) 0 0, .taxCtrlWrite (.host 0) 16 0, .preset (.host 4) 0, .preset (.host 0) 16, .clearLost (.host 4) 0, .clearLost (.host 0) 16, .arm (.host 4) 0 0 0, .arm (.host 0) 8 0 0, .arm (.host 0) 0 32 0, .disarm (.host 4) 0 0 0, .disarm (.host 0) 8 0 0, .disarm (.host 0) 0 32 0, .markAction 8 0, .markAction 0 32, .pulseEnd 8 0, .pulseEnd 0 32, .counterPinEdge 8 0 true 0, .counterPinEdge 0 64 true 0, .counterMatch 8 0, .counterMatch 0 64, .counterWrap 8 0, .counterWrap 0 64, .ctCtrlWrite (.host 4) 0 0 0, .ctCtrlWrite (.host 0) 8 0 0, .ctCtrlWrite (.host 0) 0 64 0, .ctPeriodWrite (.host 4) 0 0 0, .ctPeriodWrite (.host 0) 8 0 0, .ctPeriodWrite (.host 0) 0 64 0, .ctCountWrite (.host 4) 0 0 0, .ctCountWrite (.host 0) 8 0 0, .ctCountWrite (.host 0) 0 64 0, .ctInputWrite (.host 4) 0 0 0, .ctInputWrite (.host 0) 8 0 0, .ctInputWrite (.host 0) 0 64 0, .chainRead (.host 4) 0 0, .chainRead (.host 0) 8 0, .chainRead (.host 0) 0 64, .nop ⟨8, 0, 0⟩, .add ⟨0, 9, 0⟩, .addc ⟨0, 0, 16⟩, .sub ⟨8, 0, 0⟩, .subb ⟨0, 9, 0⟩, .andD ⟨0, 0, 16⟩, .orD ⟨8, 0, 0⟩, .xorD ⟨0, 9, 0⟩, .notD ⟨0, 0, 16⟩, .neg ⟨8, 0, 0⟩, .mov ⟨0, 9, 0⟩, .shl ⟨0, 0, 16⟩, .shr ⟨8, 0, 0⟩, .sar ⟨0, 9, 0⟩, .rol ⟨0, 0, 16⟩, .ror ⟨8, 0, 0⟩, .minu ⟨0, 9, 0⟩, .maxu ⟨0, 0, 16⟩] : List Instr).all (fun i => !i.wf) = true := by
  decide

theorem test_wf_refuses_2 : ([.rev ⟨8, 0, 0⟩, .popc ⟨0, 9, 0⟩, .addi ⟨0, 0, 16⟩, .andi ⟨8, 0, 0⟩, .ori ⟨0, 9, 0⟩, .xori ⟨0, 0, 16⟩, .movi ⟨8, 0, 0⟩, .shi ⟨0, 9, 0⟩, .cmp ⟨0, 0, 16⟩, .cmpi ⟨8, 0, 0⟩, .cmpac ⟨0, 9, 0⟩, .cmpa ⟨0, 0, 16⟩, .cmpai ⟨8, 0, 0⟩, .pand ⟨0, 9, 0⟩, .por ⟨0, 0, 16⟩, .pxor ⟨8, 0, 0⟩, .pandn ⟨0, 9, 0⟩, .pnot ⟨0, 0, 16⟩, .pmov ⟨8, 0, 0⟩, .pset ⟨0, 9, 0⟩, .pclr ⟨0, 0, 16⟩, .pcnd ⟨8, 0, 0⟩, .btst ⟨0, 9, 0⟩, .bset ⟨0, 0, 16⟩, .bclr ⟨8, 0, 0⟩, .binv ⟨0, 9, 0⟩, .accAdd ⟨0, 0, 16⟩, .accAddc ⟨8, 0, 0⟩, .accSub ⟨0, 9, 0⟩, .accSubb ⟨0, 0, 16⟩, .accAddd ⟨8, 0, 0⟩, .adda ⟨0, 9, 0⟩, .addas ⟨0, 0, 16⟩, .fold ⟨8, 0, 0⟩, .accAnd ⟨0, 9, 0⟩, .accOr ⟨0, 0, 16⟩, .accXor ⟨8, 0, 0⟩, .accMov ⟨0, 9, 0⟩, .accShl ⟨0, 0, 16⟩, .accShr ⟨8, 0, 0⟩, .accSar ⟨0, 9, 0⟩, .insd ⟨0, 0, 16⟩, .insa ⟨8, 0, 0⟩, .extd ⟨0, 9, 0⟩, .exta ⟨0, 0, 16⟩, .extah ⟨8, 0, 0⟩, .aci ⟨0, 9, 0⟩, .acsh ⟨0, 0, 16⟩, .acli ⟨8, 0, 0⟩, .achi ⟨0, 9, 0⟩, .adrAdd ⟨0, 0, 16⟩, .adrSub ⟨8, 0, 0⟩, .adrAddc ⟨0, 9, 0⟩, .adrSubb ⟨0, 0, 16⟩, .adrAnd ⟨8, 0, 0⟩, .adrOr ⟨0, 9, 0⟩, .adrXor ⟨0, 0, 16⟩, .adrMov ⟨8, 0, 0⟩, .adrShl ⟨0, 9, 0⟩, .adrShr ⟨0, 0, 16⟩] : List Instr).all (fun i => !i.wf) = true := by
  decide

theorem test_wf_refuses_3 : ([.adrSar ⟨8, 0, 0⟩, .adrAddd ⟨0, 9, 0⟩, .movdl ⟨0, 0, 16⟩, .movdh ⟨8, 0, 0⟩, .movld ⟨0, 9, 0⟩, .movhd ⟨0, 0, 16⟩, .addai ⟨8, 0, 0⟩, .movai ⟨0, 9, 0⟩, .shai ⟨0, 0, 16⟩, .mulu ⟨8, 0, 0⟩, .muls ⟨0, 9, 0⟩, .mulua ⟨0, 0, 16⟩, .mulsa ⟨8, 0, 0⟩, .mulProductLand ⟨0, 9, 0⟩, .ldb ⟨0, 0, 16⟩, .stb ⟨8, 0, 0⟩, .ldh ⟨0, 9, 0⟩, .sth ⟨0, 0, 16⟩, .ldt ⟨8, 0, 0⟩, .stt ⟨0, 9, 0⟩, .ldba ⟨0, 0, 16⟩, .bcpy ⟨8, 0, 0⟩, .bfill ⟨0, 9, 0⟩, .jmp ⟨0, 0, 16⟩, .bra ⟨8, 0, 0⟩, .call ⟨0, 9, 0⟩, .bsr ⟨0, 0, 16⟩, .jmpi ⟨8, 0, 0⟩, .calli ⟨0, 9, 0⟩, .ret ⟨0, 0, 16⟩, .rete ⟨8, 0, 0⟩, .loop ⟨0, 9, 0⟩, .loopr ⟨0, 0, 16⟩, .wfe ⟨8, 0, 0⟩, .wfb ⟨0, 9, 0⟩, .wtu ⟨0, 0, 16⟩, .wtur ⟨8, 0, 0⟩, .wpu ⟨0, 9, 0⟩, .wfeEnd ⟨0, 0, 16⟩, .wfbEnd ⟨8, 0, 0⟩, .wtuEnd ⟨0, 9, 0⟩, .wpuEnd ⟨0, 0, 16⟩, .sev ⟨8, 0, 0⟩, .movs ⟨0, 9, 0⟩, .drain ⟨0, 0, 16⟩, .setbnk ⟨8, 0, 0⟩, .setbnkr ⟨0, 9, 0⟩, .sethbk ⟨0, 0, 16⟩, .sethbkr ⟨8, 0, 0⟩, .sethost ⟨0, 9, 0⟩, .trap ⟨0, 0, 16⟩, .stop ⟨8, 0, 0⟩, .brk ⟨0, 9, 0⟩, .sync ⟨0, 0, 16⟩, .snop ⟨8, 0, 0⟩, .fadd ⟨0, 9, 0⟩, .fsub ⟨0, 0, 16⟩, .fmul ⟨8, 0, 0⟩, .fmac ⟨0, 9, 0⟩, .fdiv ⟨0, 0, 16⟩] : List Instr).all (fun i => !i.wf) = true := by
  decide

theorem test_wf_refuses_4 : ([.fsqrt ⟨8, 0, 0⟩, .fcmp ⟨0, 9, 0⟩, .xadd ⟨0, 0, 16⟩, .xsub ⟨8, 0, 0⟩, .xmul ⟨0, 9, 0⟩, .xmac ⟨0, 0, 16⟩, .xdiv ⟨8, 0, 0⟩, .xshl ⟨0, 9, 0⟩, .xsar ⟨0, 0, 16⟩, .xcmp ⟨8, 0, 0⟩, .ftox ⟨0, 9, 0⟩, .xtof ⟨0, 0, 16⟩, .smov ⟨8, 0, 0⟩, .xabs ⟨0, 9, 0⟩, .xneg ⟨0, 0, 16⟩, .fabs ⟨8, 0, 0⟩, .fneg ⟨0, 9, 0⟩, .xclip ⟨0, 0, 16⟩, .fclip ⟨8, 0, 0⟩, .scaleResultLand ⟨0, 9, 0⟩, .cpxOperation ⟨0, 0, 16⟩ .taken, .cpxResultReturn ⟨8, 0, 0⟩ none, .loadDataArrival ⟨0, 9, 0⟩ .ok, .storeBufferDrain ⟨0, 0, 16⟩ .ok, .icacheLineFill 8 0 .ok, .icacheLineFill 0 9 .ok, .inval (.host 4) 0 0, .inval (.host 0) 8 0, .inval (.host 0) 0 9, .icacheInvalEnd 8 0, .icacheInvalEnd 0 9, .pageSel (.host 4) 0 0 true, .pageSel (.host 0) 8 0 true, .pageSel (.host 0) 0 9 true, .imemWrite 4 0 0 0 0 [], .imemWrite 0 8 0 0 0 [], .imemWrite 0 0 9 0 0 [], .imemWrite 0 0 0 2 0 [], .eventEntry ⟨0, 0, 16⟩, .evKick (.host 4) 0 0 0, .evKick (.host 0) 8 0 0, .evKick (.host 0) 0 9 0, .evPendSet (.host 4) ⟨0, 0, 0⟩ 0, .evPendSet (.host 0) ⟨0, 9, 0⟩ 0, .erRecordWrite (.host 4) ⟨0, 0, 0⟩ 0 0 0, .erRecordWrite (.host 0) ⟨8, 0, 0⟩ 0 0 0, .erRecordWrite (.host 0) ⟨0, 0, 0⟩ 4 0 0, .erRecordWrite (.host 0) ⟨0, 0, 0⟩ 0 4 0, .budgetOverrun ⟨8, 0, 0⟩, .crierNop ⟨8, 0, 0⟩ 0, .crierNop ⟨0, 16, 0⟩ 0, .crierNop ⟨0, 0, 4⟩ 0, .shout ⟨8, 0, 0⟩ 0, .hear ⟨8, 0, 0⟩ 0, .setPins ⟨8, 0, 0⟩ 0, .await ⟨8, 0, 0⟩ 0, .crierGoto ⟨8, 0, 0⟩ 0, .crierMove ⟨8, 0, 0⟩ 0, .crierPush ⟨8, 0, 0⟩ 0, .crierPull ⟨8, 0, 0⟩ 0] : List Instr).all (fun i => !i.wf) = true := by
  decide

theorem test_wf_refuses_5 : ([.crierPace ⟨8, 0, 0⟩ 0, .crcInit ⟨8, 0, 0⟩ 0, .crcFeedOut ⟨8, 0, 0⟩ 0, .crcFeedIn ⟨8, 0, 0⟩ 0, .crcOff ⟨8, 0, 0⟩ 0, .crcInsert ⟨8, 0, 0⟩ 0, .crcFeedX ⟨8, 0, 0⟩ 0, .paceTick ⟨8, 0, 0⟩, .crierDelivery 8 0 .kick, .crierDelivery 0 16 .kick, .crierDelivery 0 0 (.bell 32), .crierDelivery 0 0 (.devBell 16), .crierDelivery 0 0 (.mark 32), .crTxfPush (.host 4) ⟨0, 0, 0⟩ 0, .crTxfPush (.host 0) ⟨8, 0, 0⟩ 0, .crRxfPop (.host 4) ⟨0, 0, 0⟩, .crRxfPop (.host 0) ⟨8, 0, 0⟩, .crierStart (.host 4) 0 0 0, .crierStart (.host 0) 8 0 0, .crierStart (.host 0) 0 16 0, .crierStop (.host 4) 0 0 0, .crierStop (.host 0) 8 0 0, .crierStop (.host 0) 0 16 0, .restart (.host 4) ⟨0, 0, 0⟩, .restart (.host 0) ⟨8, 0, 0⟩, .flush (.host 4) ⟨0, 0, 0⟩, .flush (.host 0) ⟨8, 0, 0⟩, .kick (.host 4) 0 0 0, .kick (.host 0) 8 0 0, .kick (.host 0) 0 16 0, .crFifoWrite (.host 4) ⟨0, 0, 0⟩ 0, .crFifoWrite (.host 0) ⟨8, 0, 0⟩ 0, .brClkWrite (.host 4) 0 0 0, .brClkWrite (.host 0) 8 0 0, .brClkWrite (.host 0) 0 16 0, .brIdataWrite (.host 4) 0 0 0, .brIdataWrite (.host 0) 8 0 0, .brIdataWrite (.host 0) 0 16 0, .instructionPageWrite 4 0 0 0 0 0, .instructionPageWrite 0 8 0 0 0 0, .instructionPageWrite 0 0 16 0 0 0, .instructionPageWrite 0 0 0 2 0 0, .instructionPageWrite 0 0 0 0 64 0, .barrowPageSel (.host 4) 0 0 true, .barrowPageSel (.host 0) 8 0 true, .barrowPageSel (.host 0) 0 16 true, .barrowSwapCycle 8 0, .barrowSwapCycle 0 16, .pinCfgWrite 4 0 0 0, .pinCfgWrite 0 8 0 0, .pinCfgWrite 0 0 128 0, .pinCfgShWrite 4 0 0 0, .pinCfgShWrite 0 8 0 0, .pinCfgShWrite 0 0 128 0, .pinSwitchOver 8 0, .pinSwitchOver 0 128, .pinOutSet 4 0 0 0, .pinOutSet 0 8 0 0, .pinOutSet 0 0 4 0, .pinOutClr 4 0 0 0] : List Instr).all (fun i => !i.wf) = true := by
  decide

theorem test_wf_refuses_6 : ([.pinOutClr 0 8 0 0, .pinOutClr 0 0 4 0, .pinHoldSet 4 0 0 0, .pinHoldSet 0 8 0 0, .pinHoldSet 0 0 4 0, .pinHoldClr 4 0 0 0, .pinHoldClr 0 8 0 0, .pinHoldClr 0 0 4 0, .pinEvent 8 0 true, .pinEvent 0 128 true, .pinEvtWrite 4 0 0 0, .pinEvtWrite 0 8 0 0, .pinEvtWrite 0 0 128 0, .pswMapWrite 4 0 0 0, .pswMapWrite 0 8 0 0, .pswMapWrite 0 0 2 0, .lnCtrlWrite 4 0 0 0, .lnCtrlWrite 0 8 0 0, .lnCtrlWrite 0 0 4 0, .lnGroupWrite 4 0 0 0, .lnGroupWrite 0 8 0 0, .lnGroupWrite 0 0 4 0, .linkBlockRx 8 0 [], .linkBlockRx 0 4 [], .linkBlockDue 8 0, .linkBlockDue 0 4, .alignBlockDue 8 0, .alignBlockDue 0 4, .axisSyncDue 8 0, .axisSyncDue 0 4, .eplasFrameRx 8 0 [] 0 true, .eplasFrameRx 0 4 [] 0 true, .ethernetFrameRx 8 0 [] 0 true, .ethernetFrameRx 0 4 [] 0 true, .axisSyncFrameRx 8 0 [] 0, .axisSyncFrameRx 0 4 [] 0, .laneUp 8 0, .laneUp 0 4, .laneTrainTimeout 8 0 0, .laneTrainTimeout 0 4 0, .laneDown 8 0 .lossOfSignal, .laneDown 0 4 .lossOfSignal, .fecLimitExceeded 8 0, .fecLimitExceeded 0 4, .linkBlockTimeout 8 0, .linkBlockTimeout 0 4, .microword 8 0 0, .microword 0 4 0, .microword 0 0 2, .microTrapEntry 8 0 0, .microTrapEntry 0 4 0, .microTrapEntry 0 0 2, .ptMboxWrite 4 0 0 0, .ptMboxWrite 0 8 0 0, .ptMboxWrite 0 0 4 0, .txRun 4 0 0 true, .txRun 0 8 0 true, .txRun 0 0 4 true, .rxRun 4 0 0 true, .rxRun 0 8 0 true] : List Instr).all (fun i => !i.wf) = true := by
  decide

theorem test_wf_refuses_7 : ([.rxRun 0 0 4 true, .controlStoreWrite 4 0 0 0 0, .controlStoreWrite 0 8 0 0 0, .controlStoreWrite 0 0 4 0 0, .tokenAcquire (.trader ⟨0, 9, 0⟩), .tokenAcquire (.host 8 0), .tokenAcquire (.host 0 16), .tokenAcquire (.porter 8 0 0), .tokenAcquire (.porter 0 4 0), .tokenAcquire (.porter 0 0 2), .tokenAcquire (.cart 8 0 true), .tokenAcquire (.cart 0 32 true), .tokenRelease (.trader ⟨0, 9, 0⟩) true, .hlAbandon (.host 4) 0 0, .hlAbandon (.host 0) 8 0, .atomicAnswerArrival ⟨8, 0, 0⟩, .queueReserve (.trader ⟨0, 9, 0⟩), .queueCommit (.trader ⟨0, 9, 0⟩), .queueAbort (.trader ⟨0, 9, 0⟩), .queuePush ⟨0, 9, 0⟩, .queueTake (.trader ⟨0, 9, 0⟩), .queueDone (.trader ⟨0, 9, 0⟩), .queueReturn (.trader ⟨0, 9, 0⟩), .queuePop ⟨0, 0, 16⟩, .hostQueuePopReturn 8 0, .hostQueuePopReturn 0 1024, .queueDescriptorWrite 4 0 0 0 0, .queueDescriptorWrite 0 8 0 0 0, .queueDescriptorWrite 0 0 1024 0 0, .blRing (.host 4) 0 0, .blRing (.host 0) 8 0, .dbRing (.host 4) 0, .cartStart 4 0 0, .cartStart 0 8 0, .cartStart 0 0 32, .cartAbort 4 0 0, .cartAbort 0 8 0, .cartAbort 0 0 32, .cartPause 4 0 0, .cartPause 0 8 0, .cartPause 0 0 32, .cartResume 4 0 0, .cartResume 0 8 0, .cartResume 0 0 32, .cartEngineResume 4 0, .cartEngineResume 0 8, .cartDescriptorLoad 8 0 .ok, .cartDescriptorLoad 0 32 .ok, .cartBurstRead 8 0 .ok, .cartBurstRead 0 32 .ok, .cartBurstWrite 8 0 .ok, .cartBurstWrite 0 32 .ok, .cartWriteAck 8 0, .cartWriteAck 0 32, .cartQueueRetry 8 0, .cartQueueRetry 0 32, .cartStatusWriteAck 8 0 .ok, .cartStatusWriteAck 0 32 .ok, .cartHalt 8 true 0 0, .orderDoorbell 4 0 0] : List Instr).all (fun i => !i.wf) = true := by
  decide

theorem test_wf_refuses_8 : ([.orderDoorbell 0 16 0, .orCtrlWrite 4 0 0, .orCtrlWrite 0 16 0, .orderFetchComplete 16, .loadImage ⟨16, 0, 0, 0, 0⟩ 0 0 0, .loadImage ⟨0, 0, 256, 0, 0⟩ 0 0 0, .loadImage ⟨0, 0, 0, 65536, 0⟩ 0 0 0, .swapAt ⟨16, 0, 0, 0, 0⟩ 0 0 0 0 0, .startTraders ⟨16, 0, 0, 0, 0⟩ 0 0 0 0 0, .stopTraders ⟨16, 0, 0, 0, 0⟩ 0 0 0, .claim ⟨16, 0, 0, 0, 0⟩ [], .claimRelease ⟨16, 0, 0, 0, 0⟩ 0 [], .clear ⟨16, 0, 0, 0, 0⟩ 0 0 0 0 0, .clearBlockDone 65536, .trainLane ⟨16, 0, 0, 0, 0⟩ 0, .loadMicrocode ⟨16, 0, 0, 0, 0⟩ 0 0, .microcodeFetchComplete 65536 [], .microcodeQreqTimeout 65536, .microcodeWriteComplete 65536, .calibrateAxis ⟨16, 0, 0, 0, 0⟩ 0 0 0 0 0 0, .calibrateEnd 65536, .cartJob ⟨16, 0, 0, 0, 0⟩ 0 0 0 0, .powerLevel ⟨16, 0, 0, 0, 0⟩ 0, .powerIdle ⟨16, 0, 0, 0, 0⟩, .powerNap ⟨16, 0, 0, 0, 0⟩ 0 0, .powerOff ⟨16, 0, 0, 0, 0⟩ 0 0, .windDown ⟨16, 0, 0, 0, 0⟩ 0 0 0 0, .jobSuspend ⟨16, 0, 0, 0, 0⟩ 0, .jobResume ⟨16, 0, 0, 0, 0⟩ 0, .jobCancel ⟨16, 0, 0, 0, 0⟩ 0, .jobStart 65536, .chitWrite 64, .chitWriteComplete 64, .chitAcknowledge 4 0 0, .chitAcknowledge 0 64 0, .crCtrlWrite 4 0 0, .crCtrlWrite 0 64 0, .chitMaskSet 4 0 0, .chitMaskSet 0 2 0, .chitMaskClr 4 0 0, .chitMaskClr 0 2 0, .chitPendSet 4 0 0, .chitPendSet 0 2 0, .chitPendClr 4 0 0, .chitPendClr 0 2 0, .imageSectionFetched 65536 [], .stallSwapRotation 8 0, .stallSwapRotation 0 9, .windRelease 4 0, .windRelease 0 8, .hallReset 8, .stallReset 8 0, .stallReset 0 9, .porterReset 8 0, .porterReset 0 4, .clockSwitch (.host 4), .wakePin 32 true, .sleepAgentAccess 4 0 none, .scrubRead 8 0, .lockstepMismatch 8 0] : List Instr).all (fun i => !i.wf) = true := by
  decide

theorem test_wf_refuses_9 : ([.lockstepMismatch 0 8, .ftLockstepWrite 4 0 0, .ftLockstepWrite 0 8 0, .failRequest 4 0 0, .failRequest 0 8 0, .failRequest 0 0 8, .failRelease 4 0, .failRelease 0 8, .failoverSwitch 8, .failoverRelease 8, .debugHalt ⟨0, 9, 0⟩, .debugRelease ⟨0, 0, 16⟩, .windowMemoryWrite 4 0 [], .fecCodewordDecoded 8 0 (.corrected 0) true, .fecCodewordDecoded 0 4 (.corrected 0) true, .padLevelSample 8 0 true, .padLevelSample 0 128 true, .activitySignalEnd 8 0, .activitySignalEnd 0 4, .imageHeaderFetched 65536 []] : List Instr).all (fun i => !i.wf) = true := by
  decide

theorem test_wf_accepts_1 : ([.registerWrite (.host 0) 0 [], .refBack, .clearLost (.host 0) 0, .counterMatch 0 0, .chainRead (.host 0) 0 0, .andD ⟨0, 0, 0⟩, .shl ⟨0, 0, 0⟩, .maxu ⟨0, 0, 0⟩, .xori ⟨0, 0, 0⟩, .cmpa ⟨0, 0, 0⟩, .pnot ⟨0, 0, 0⟩, .bset ⟨0, 0, 0⟩, .accSubb ⟨0, 0, 0⟩, .accOr ⟨0, 0, 0⟩, .insd ⟨0, 0, 0⟩, .acsh ⟨0, 0, 0⟩, .adrSubb ⟨0, 0, 0⟩, .adrShr ⟨0, 0, 0⟩, .movhd ⟨0, 0, 0⟩, .mulua ⟨0, 0, 0⟩, .sth ⟨0, 0, 0⟩, .jmp ⟨0, 0, 0⟩, .ret ⟨0, 0, 0⟩, .wtu ⟨0, 0, 0⟩, .wpuEnd ⟨0, 0, 0⟩, .sethbk ⟨0, 0, 0⟩, .sync ⟨0, 0, 0⟩, .fdiv ⟨0, 0, 0⟩, .xmac ⟨0, 0, 0⟩, .xtof ⟨0, 0, 0⟩, .xclip ⟨0, 0, 0⟩, .storeBufferDrain ⟨0, 0, 0⟩ .ok, .eventEntry ⟨0, 0, 0⟩, .shout ⟨0, 0, 0⟩ 0, .crierPush ⟨0, 0, 0⟩ 0, .crcOff ⟨0, 0, 0⟩ 0, .crRxfPop (.host 0) ⟨0, 0, 0⟩, .crFifoWrite (.host 0) ⟨0, 0, 0⟩ 0, .pinCfgWrite 0 0 0 0, .pinHoldClr 0 0 0 0, .linkBlockRx 0 0 [], .axisSyncFrameRx 0 0 [] 0, .microword 0 0 0, .tokenAcquire (.host 0 0), .queueAbort (.host 0 0), .hostQueuePopReturn 0 0, .cartPause 0 0 0, .cartWriteAck 0 0, .hostErrorResponse 0 .fabric, .startTraders ⟨0, 0, 0, 0, 0⟩ 0 0 0 0 0, .trainLane ⟨0, 0, 0, 0, 0⟩ 0, .calibrateEnd 0, .windDown ⟨0, 0, 0, 0, 0⟩ 0 0 0 0, .chitWriteComplete 0, .chitPendClr 0 0 0, .powerOnReset, .bootRomStart, .i2cAddressMatch 0, .ftLockstepWrite 0 0 0, .debugRelease ⟨0, 0, 0⟩, .swapTillInstant] : List Instr).all Instr.wf = true := by
  decide

namespace Sys2Proof.Tests

/-! ## States of the tests -/

/-- The tile at full service with its memories cleared. -/
def full : State := (State.reset.set PWR_STATUS.FULL {} true).set PWR_STATUS.MEM_CLEAR {} true

/-- The trader of the tests. -/
def tid : TraderId := ⟨0, 0, 0⟩

/-- The tile at full service with the trader running, changed by `f`. -/
def with_ (f : Trader → Trader) : State := full.setTrader tid (f { full.trader tid with running := true })

/-- The word `w` stands at address 0 of the IMEM, where the trader runs. -/
def codeOf (s : State) (w : Nat) : State := { s with mem := Memory.writeBytes s.mem (Arr.imem 0 0 0).base (toBytes 4 w) }

/-- The trader runs the word `w`. -/
def runs (w : Nat) : State := codeOf (with_ id) w

def issuesB (s : State) (t : TraderId) (w : Nat) : Bool :=
  s.canIssue t && decide ((s.trader t).prog = none) && decide ((s.finishes t).fetch t = .word w) && decide (illegalCause w = 0) &&
    decide ((s.finishes t).fetchMark t = none) && ((s.inSlot t).trader t).guard w && decide (((s.inSlot t).trader t).loads = []) &&
    decide (((s.inSlot t).trader t).scq = [])

theorem issues_of {s : State} {t : TraderId} {w : Nat} (h : issuesB s t w = true) : s.Issues t w := by
  simp only [issuesB, Bool.and_eq_true, decide_eq_true_eq] at h
  obtain ⟨⟨⟨⟨⟨⟨⟨h1, h2⟩, h3⟩, h4⟩, h5⟩, h6⟩, h7⟩, h8⟩ := h
  exact ⟨h1, h2, h3, h4, h5, h6, h7, h8⟩

/-- Every word of a list issues, and has its key. -/
def Issuable (l : List (Nat × Nat)) : Prop := ∀ p ∈ l, (runs p.1).Issues tid p.1 ∧ keyOf p.1 = p.2

theorem issues_all {l : List (Nat × Nat)} (h : l.all (fun p => issuesB (runs p.1) tid p.1 && decide (keyOf p.1 = p.2)) = true) :
    Issuable l := by
  intro p hp
  have := List.all_eq_true.mp h p hp
  simp only [Bool.and_eq_true, decide_eq_true_eq] at this
  exact ⟨issues_of this.1, this.2⟩

/-- Words of a major opcode with the minors of a list at bit `sh`, and their keys. -/
def minors (mj sh : Nat) (l : List Nat) : List (Nat × Nat) := l.map (fun n => (mj * 2 ^ 22 + n * 2 ^ sh, key mj n))

/-- Words of major opcodes without a minor. -/
def majors (l : List Nat) : List (Nat × Nat) := l.map (fun n => (n * 2 ^ 22, key n))

/-! ## Each statement's hypotheses are met -/

theorem witness_EmptyQueuePassesTime : full.pending = [] ∧
    (∀ k ∈ Tab.keys full.lanes, full.sending k.1 k.2 = false ∧ full.laneUp k.1 k.2 = false) ∧ full.edgeActs = [] ∧
    full.till.clk ≠ .lfo ∧ ({ full with till := { full.till with clk := .lfo } } : State).till.clk = .lfo := by
  decide

theorem witness_StepKeepsInvariant : full.Inv ∧ ∃ s', step full = .next s' :=
  ⟨⟨by decide, by decide⟩, _, rfl⟩

theorem witness_DataAluOnTwoRegisters : Issuable (minors 0 8 [1, 2, 3, 4, 5, 6, 7, 11, 12, 13, 14, 15, 16, 17]) :=
  issues_all (by decide)

theorem witness_DataAluOnOneRegister : Issuable (minors 0 8 [0, 8, 9, 10, 18, 19] ++ majors [1, 2, 3, 4, 5, 6]) :=
  issues_all (by decide)

theorem witness_ComparesPredicatesAndBits : Issuable (majors [0x07, 0x08, 0x15, 0x1C, 0x1D] ++
    minors 0x0A 8 [0, 1, 2, 3, 4, 5, 6, 7, 16] ++ minors 0x0B 8 [0, 1, 2, 3]) :=
  issues_all (by decide)

theorem witness_ConditionsAgreeWithFlags : (∀ n : Nat, n = 8 ∨ n = 16 ∨ n = 24 → 2 ^ n - 1 < 2 ^ n ∧ 0 < 2 ^ n) ∧ 9 < 10 := by
  refine ⟨?_, by decide⟩
  rintro n (rfl | rfl | rfl) <;> decide

theorem witness_AccumulatorInstructions : Issuable (minors 0x10 8 (List.range 20) ++ majors [0x11, 0x12, 0x13, 0x14]) :=
  issues_all (by decide)

theorem witness_AddressInstructions : Issuable (minors 0x18 8 (List.range 16) ++ majors [0x19, 0x1A, 0x1B]) :=
  issues_all (by decide)

theorem witness_Multiplications : Issuable (minors 0x09 8 [0, 1, 2, 3]) :=
  issues_all (by decide)

theorem witness_JumpsAndLoops : Issuable (majors [0x28, 0x29, 0x2E, 0x2F] ++ minors 0x2C 16 [0]) :=
  issues_all (by decide)

theorem witness_WaitsBegin : Issuable (majors [0x30, 0x31, 0x32, 0x33, 0x34]) ∧
    (let s := codeOf (with_ (fun tr => { tr with watch := some ⟨false, 0, true⟩ })) (0x31 * 2 ^ 22)
     s.Issues tid (0x31 * 2 ^ 22) ∧ (s.at_ tid (0x31 * 2 ^ 22)).watch = some ⟨false, 0, true⟩) ∧
    (let f := (runs (0x32 * 2 ^ 22)).final tid (0x32 * 2 ^ 22)
     f.ramAt tid 0 = some (.shared 0 0, 0) ∧ f.errorIn (.shared 0 0) 0 8 = none ∧ f.faults = []) :=
  ⟨issues_all (by decide), ⟨issues_of (by decide), by decide⟩, by decide⟩

theorem witness_WaitsEnd :
    ([.wfe, .wfb, .wtu 0, .wtu 1, .wpu 0 0 (-1) 1, .wpu 0 1 1 (-1), .wpu 0 2 1 (-1)] : List Wait).all (fun x =>
      let s := with_ (fun tr => { tr with wait := x, watch := some ⟨false, 31, true⟩ })
      s.canEnd tid && decide ((s.trader tid).wait = x) && decide ((s.trader tid).watch = some ⟨false, 31, true⟩) &&
        decide ((s.trader tid).inRom = false) && decide (s.deliverable tid = none)) = true := by
  decide

theorem witness_SystemOperations : Issuable (majors [0x35] ++ minors 0x37 12 (List.range 10)) ∧
    ((runs (0x37 * 2 ^ 22)).trader tid).stores = [] ∧ (runs (0x37 * 2 ^ 22)).dbg.en = false ∧
    (let s : State := codeOf { with_ id with dbg := { en := true, breakpoints := true } } (0x37 * 2 ^ 22 + 8 * 2 ^ 12)
     s.Issues tid (0x37 * 2 ^ 22 + 8 * 2 ^ 12) ∧ s.dbg.en = true ∧ s.dbg.breakpoints = true) :=
  ⟨issues_all (by decide), by decide, by decide, issues_of (by decide), by decide⟩

/-- Reads of the special registers, and writes of those that can be written. -/
def movsWords : List Nat :=
  [0, 1, 2, 3, 4, 5, 6, 7, 8, 9, 10, 12, 13, 14, 16, 17, 18].map (fun n => 0x36 * 2 ^ 22 + n * 2 ^ 16) ++
    [1, 2, 3, 4, 8, 9, 10, 12, 13, 14, 16, 17, 18].map (fun n => 0x36 * 2 ^ 22 + n * 2 ^ 16 + 2 ^ 15)

theorem witness_MoveSpecialRegisters : Issuable (movsWords.map (fun w => (w, key 0x36))) :=
  issues_all (by decide)

theorem witness_EntryToALevel : 1 ≤ 4 ∧ 4 ≤ 4 ∧ 15 < 16 ∧ 255 < 256 ∧ 65535 < 65536 ∧ 2 ^ 32 - 1 < 2 ^ 32 ∧
    (let c : EntryCtx := ⟨65535, 7, 255, 2 ^ 32 - 1⟩; c.pc < 65536 ∧ c.lvl < 8 ∧ c.tsr < 256 ∧ c.bank < 2 ^ 32) := by
  decide

/-- The trader, changed by `f`, with a KICK pending that is enabled. -/
def kicked (f : Trader → Trader) : State := ((with_ f).put EV_PEND.PEND tid.ix 0x100).put EV_EN_SET.EN tid.ix 0x100

theorem witness_EventEntryTakes :
    (let s := kicked id
     (s.trader tid).running = true ∧ s.clocked tid = true ∧ s.faults = [] ∧ (s.trader tid).halted = false ∧ (s.trader tid).inRom = false ∧
      (s.trader tid).trap = none ∧ (s.trader tid).exiting = none ∧ (s.trader tid).entering = none ∧ (s.trader tid).wait ≠ .wfe ∧
      bit (s.get EV_PEND.PEND tid.ix) 8 = true ∧ s.enabled tid 8 = true ∧ s.cur tid < s.level tid 8) ∧
    (let s := kicked id
     ∀ i < 11, bit (s.get EV_PEND.PEND tid.ix) i = true → s.enabled tid i = true → s.cur tid < s.level tid i →
        s.level tid i < s.level tid 8 ∨ (s.level tid i = s.level tid 8 ∧ 8 ≤ i)) ∧
    ((kicked (fun tr => { tr with entering := some 1 })).trader tid).entering = some 1 ∧
    ((kicked (fun tr => { tr with wait := .wfe })).trader tid).wait = .wfe ∧
    (let tr := (with_ (fun tr => { tr with halted := true, entering := some 4 })).trader tid
     tr.halted = true ∧ tr.entering = some 4) ∧
    (let s := with_ (fun tr => { tr with trap := some ⟨15, 0, 0, 0, 7⟩ })
     (s.trader tid).trap = some ⟨15, 0, 0, 0, 7⟩ ∧ s.cur tid < s.level tid 15) ∧
    (let s := with_ id
     ∀ i < 11, bit (s.get EV_PEND.PEND tid.ix) i = true → s.enabled tid i = true → s.level tid i ≤ s.cur tid) :=
  ⟨by decide, by decide, by decide, by decide, by decide, by decide, by decide⟩

theorem witness_DoubleFault :
    (let s := full.put EV_CTRL.CUR tid.ix 4; 15 < 16 ∧ (⟨15, 0, 0, 0, 7⟩ : Trap).src = 15 ∧ s.level tid 15 ≤ s.cur tid) := by
  decide

theorem witness_ReturnFromEvent : Issuable [(0x2D * 2 ^ 22 + 2 ^ 16, key 0x2D 1)] ∧
    (let s := codeOf ((with_ id).put EV_CTRL.CUR tid.ix 4) (0x2D * 2 ^ 22 + 2 ^ 16)
     s.Issues tid (0x2D * 2 ^ 22 + 2 ^ 16) ∧ (s.final tid (0x2D * 2 ^ 22 + 2 ^ 16)).cur tid ≠ 0) ∧
    ∀ x1 : Bool, (let s := with_ (fun tr => { tr with exiting := some (1, x1) })
     (s.trader tid).exiting = some (1, x1) ∧ (s.trader tid).running = true ∧ (s.trader tid).halted = false ∧ s.clocked tid = true ∧
      s.exitEvent tid = none ∧ ∀ x, Tab.find (s.trader tid).recWas 0 = some x → x.1 ≠ s.tick) :=
  ⟨issues_all (by decide), ⟨issues_of (by decide), by decide⟩, fun x1 => ⟨rfl, rfl, rfl, by revert x1; decide, by revert x1; decide, by intro x e; cases e⟩⟩

theorem witness_LandingsAndEventRegisters :
    (let s := with_ (fun tr => { tr with mul := [(0, 1, 2)], scq := [⟨0, 3, 4, 1⟩] })
     (s.trader tid).mul = [(0, 1, 2)] ∧ (s.trader tid).scq = [⟨0, 3, 4, 1⟩] ∧ s.idleSlots tid = false ∧ 0 ≤ (s.trader tid).slot) ∧
    (let s := (with_ (fun tr => tr.setBud 0 ⟨2, some 1, 5, false⟩)).set BW_CTRL.EN tid.st true
     let b := (s.trader tid).bud (s.cur tid)
     b.limit = some 1 ∧ 1 < b.count ∧ b.fired = false ∧ s.is BW_CTRL.EN tid.st = true ∧ tid.t < 16) ∧
    full.reachesStall (.trader tid) 0 0 = true ∧ full.holdsWord (.trader tid) 0 0 = none ∧ full.reachesEvents (.host 3) tid = true ∧
    full.holdsWord (.host 3) 0 0 = none ∧ full.portOpen (accPort (.host 3)) = true ∧ full.portOpen (accPort (.trader tid)) = true ∧ 3 < 4 ∧
    (full.trader tid).moved ≠ (3 + 1, full.tick) ∧
    ((with_ (fun tr => { tr with moved := (4, full.tick) })).trader tid).moved = (3 + 1, full.tick) := by
  decide

def atLastB (s : State) (t : TraderId) (w n : Nat) : Bool :=
  issuesB s t w && decide (n = 1) || s.canIssue t && (match (s.trader t).prog with
    | some p => decide (p.word = w) && decide (p.left = 1) && decide (p.nul = false) && decide (p.first = false)
    | none => false)

theorem atLast_of {s : State} {t : TraderId} {w n : Nat} (h : atLastB s t w n = true) : s.AtLast t w n := by
  simp only [atLastB, Bool.or_eq_true, Bool.and_eq_true, decide_eq_true_eq] at h
  rcases h with ⟨h, rfl⟩ | ⟨h, hp⟩
  · exact .inl ⟨issues_of h, rfl⟩
  · split at hp
    · rename_i p e
      simp only [Bool.and_eq_true, decide_eq_true_eq] at hp
      exact .inr ⟨h, p, e, hp.1.1.1, hp.1.1.2, hp.1.2, hp.2⟩
    · exact absurd hp Bool.false_ne_true

/-- The trader, changed by `f`, has the word in progress with one slot to go. -/
def last (w : Nat) (got : List Byte) (f : Trader → Trader) : State :=
  with_ (fun tr => f { tr with prog := some { word := w, left := 1, got := got } })

/-- The access of the word meets the conditions of an access to stall memory in its last slot. -/
def StallAccess (s : State) (w n : Nat) : Prop :=
  let f := s.final tid w
  let m := (f.trader tid).memForm w
  s.AtLast tid w n ∧ (accesses m.ea m.n).length = n ∧ f.ramAt tid m.ea = some (.shared 0 0, m.ea) ∧ addrFault m.ea m.n = 0 ∧
    f.errorIn (.shared 0 0) m.ea m.n = none ∧ f.faults = []

theorem witness_LoadsFromStallMemory :
    (∀ w ∈ [0x20 * 2 ^ 22, 0x22 * 2 ^ 22, 0x26 * 2 ^ 22, 0x2D * 2 ^ 22], StallAccess (runs w) w 1) ∧
    ∀ w ∈ [0x24 * 2 ^ 22, 0x22 * 2 ^ 22 + 1, 0x2D * 2 ^ 22], ∀ got ∈ [[], [1]],
      StallAccess (last w got (fun tr => if w = 0x24 * 2 ^ 22 ∨ w = 0x2D * 2 ^ 22 then (tr.setA 0 1).setA 7 1 else tr)) w 2 := by
  refine ⟨?_, ?_⟩
  · intro w hw
    simp only [List.mem_cons, List.mem_nil_iff, or_false] at hw
    rcases hw with rfl | rfl | rfl | rfl <;> exact ⟨atLast_of (by decide), by decide⟩
  · intro w hw got hg
    simp only [List.mem_cons, List.mem_nil_iff, or_false] at hw hg
    rcases hw with rfl | rfl | rfl <;> rcases hg with rfl | rfl <;> exact ⟨atLast_of (by decide), by decide⟩

theorem witness_EffectiveAddresses : ∀ mj ∈ [0x20, 0x21, 0x22, 0x23, 0x24, 0x25, 0x26], ∀ mode < 4,
    keyOf (mj * 2 ^ 22 + mode * 2 ^ 14) = key mj ∧ (mj * 2 ^ 22 + mode * 2 ^ 14) / 2 ^ 14 % 4 = mode := by
  decide

/-- The word in its first slot, with its address registers 0 and 7 at `a`. -/
def first (w : Nat) (a : Nat) : State := codeOf (with_ (fun tr => (tr.setA 0 a).setA 7 a)) w

theorem witness_TwoSlotAccessesBegin :
    ∀ w ∈ [0x22 * 2 ^ 22, 0x24 * 2 ^ 22, 0x2D * 2 ^ 22, 0x23 * 2 ^ 22, 0x25 * 2 ^ 22, 0x2A * 2 ^ 22, 0x2B * 2 ^ 22, 0x2C * 2 ^ 22 + 2 ^ 16],
      let s := first w 3
      let f := s.final tid w
      let m := (f.trader tid).memForm w
      s.Issues tid w ∧ (accesses m.ea m.n).length = 2 ∧ addrFault m.ea m.n = 0 ∧ f.faults = [] ∧
        f.ramAt tid m.ea = some (.shared 0 0, m.ea) ∧ f.errorIn (.shared 0 0) m.ea m.n = none := by
  intro w hw
  simp only [List.mem_cons, List.mem_nil_iff, or_false] at hw
  rcases hw with rfl | rfl | rfl | rfl | rfl | rfl | rfl | rfl <;> exact ⟨issues_of (by decide), by decide⟩

theorem witness_StoresToStallMemory :
    (∀ w ∈ [0x21 * 2 ^ 22, 0x23 * 2 ^ 22, 0x2A * 2 ^ 22, 0x2B * 2 ^ 22, 0x2C * 2 ^ 22 + 2 ^ 16],
      (first w 4).Inv ∧ StallAccess (first w 4) w 1) ∧
    ∀ w ∈ [0x25 * 2 ^ 22, 0x23 * 2 ^ 22, 0x2A * 2 ^ 22, 0x2B * 2 ^ 22, 0x2C * 2 ^ 22 + 2 ^ 16],
      (last w [] (fun tr => (tr.setA 0 3).setA 7 3)).Inv ∧ StallAccess (last w [] (fun tr => (tr.setA 0 3).setA 7 3)) w 2 := by
  refine ⟨?_, ?_⟩
  · intro w hw
    simp only [List.mem_cons, List.mem_nil_iff, or_false] at hw
    rcases hw with rfl | rfl | rfl | rfl | rfl <;> exact ⟨⟨by decide, by decide⟩, atLast_of (by decide), by decide⟩
  · intro w hw
    simp only [List.mem_cons, List.mem_nil_iff, or_false] at hw
    rcases hw with rfl | rfl | rfl | rfl | rfl <;> exact ⟨⟨by decide, by decide⟩, atLast_of (by decide), by decide⟩

theorem witness_AddressFaults :
    ∀ w ∈ [0x22 * 2 ^ 22, 0x24 * 2 ^ 22, 0x2D * 2 ^ 22, 0x23 * 2 ^ 22, 0x25 * 2 ^ 22, 0x2A * 2 ^ 22, 0x2B * 2 ^ 22, 0x2C * 2 ^ 22 + 2 ^ 16],
    ∀ top ∈ [0x7FFF, 0xFFFF],
      let s := first w (if w / 2 ^ 22 ∈ [0x2A, 0x2B, 0x2C] then (top + 2) % 65536 else top)
      let f := s.final tid w
      let m := (f.trader tid).memForm w
      s.Issues tid w ∧ f.faults = [] ∧ (65536 < m.ea + m.n ∨ regionOf m.ea ≠ regionOf (m.ea + m.n - 1)) := by
  intro w hw top ht
  simp only [List.mem_cons, List.mem_nil_iff, or_false] at hw ht
  rcases hw with rfl | rfl | rfl | rfl | rfl | rfl | rfl | rfl <;> rcases ht with rfl | rfl <;> exact ⟨issues_of (by decide), by decide⟩

/-- A block move of 16 bytes with its source at 0 and its destination at 0x40. -/
def blkWord (op : Nat) : Nat := 0x27 * 2 ^ 22 + op * 2 ^ 19 + 2 ^ 11 + 15

/-- The block move in its first slot, and in progress. -/
def blk (op : Nat) (p : Option Prog) : State :=
  codeOf (with_ (fun tr => { (tr.setA (fS1 (blkWord op)) 0x40) with prog := p })) (blkWord op)

theorem witness_BlockMoves :
    (∀ op ∈ [0, 1], (blk op none).Inv ∧ (blk op none).Issues tid (blkWord op)) ∧
    (let s := blk 0 (some { word := blkWord 0, left := 2, got := [1, 2] })
     s.canIssue tid = true ∧ (s.trader tid).prog = some { word := blkWord 0, left := 2, got := (s.trader tid).got }) ∧
    (let s := blk 0 (some { word := blkWord 0, left := 1, got := List.replicate 16 5 })
     s.AtLast tid (blkWord 0) 3 ∧ ((s.final tid (blkWord 0)).trader tid).got.length = 16) ∧
    (blk 1 (some { word := blkWord 1, left := 1 })).AtLast tid (blkWord 1) 2 ∧
    (let s := blk 0 none
     let f := s.final tid (blkWord 0)
     let tr := f.trader tid
     blkIn (tr.ar (fS1 (blkWord 0))) 16 = true ∧ blkIn (tr.ar (blkSrcX (blkWord 0))) 16 = true ∧ f.faults = [] ∧
       f.ramAt tid (tr.ar (blkSrcX (blkWord 0))) = some (.shared 0 0, tr.ar (blkSrcX (blkWord 0))) ∧
       f.errorIn (.shared 0 0) (tr.ar (blkSrcX (blkWord 0))) 16 = none) := by
  refine ⟨?_, by decide, ⟨atLast_of (by decide), by decide⟩, atLast_of (by decide), by decide⟩
  intro op ho
  simp only [List.mem_cons, List.mem_nil_iff, or_false] at ho
  rcases ho with rfl | rfl <;> exact ⟨⟨by decide, by decide⟩, issues_of (by decide)⟩

theorem witness_FarLoadsAndStores :
    ∀ w ∈ [0x20 * 2 ^ 22, 0x21 * 2 ^ 22, 0x22 * 2 ^ 22, 0x23 * 2 ^ 22, 0x26 * 2 ^ 22], ∀ a ∈ [0x8000, 0xBFFE],
      let s := first w a
      let f := s.final tid w
      let m := (f.trader tid).memForm w
      s.Issues tid w ∧ 0x8000 ≤ m.ea ∧ m.ea + m.n ≤ 0xC000 ∧ (m.n = 1 ∨ (m.n = 2 ∧ m.ea % 2 = 0)) ∧ (f.trader tid).host = false ∧
        s.clearing = false ∧ f.faults = [] ∧ (f.trader tid).stores = [] ∧ f.errorIn (.hallMem 0) (m.ea - 0x8000) m.n = none := by
  intro w hw a ha
  simp only [List.mem_cons, List.mem_nil_iff, or_false] at hw ha
  rcases hw with rfl | rfl | rfl | rfl | rfl <;> rcases ha with rfl | rfl <;> exact ⟨issues_of (by decide), by decide⟩

/-- An access of a load to hall memory, with its response come or not. -/
def acc (fin : Bool) : LoadAcc := ⟨⟨0x8000, false, 0, 1, [], none⟩, [1], 0, fin⟩

theorem witness_LoadDataArrives : ∀ f1 f2 : Bool,
    let s := with_ (fun tr => { tr with loads := [⟨.d 0, [acc true] ++ acc false :: [acc f1], 0, false⟩] })
    (s.trader tid).loads = [⟨.d 0, [acc true] ++ acc false :: [acc f1], 0, false⟩] ∧ (∀ x ∈ [acc true], x.fin = true) ∧
      (acc false).fin = false ∧ (acc false).acc.req = none ∧ (acc false).err = 0 ∧ s.idleSlots tid = false ∧
      0 ≤ (s.trader tid).slot ∧ (f1 = true → ∀ y ∈ [acc f1], y.fin = true) ∧ (f1 = false → ∃ y ∈ [acc f1], y.fin = false) ∧
      (∀ x ∈ [acc true] ++ [acc f2], x.err = 0) ∧ bit (s.get EV_PEND.PEND tid.ix) 9 = false := by
  decide

theorem witness_StoresDrain :
    let e : MemAcc := ⟨0x8000, false, 0x3FFFFF, 1, [7], none⟩
    let s := with_ (fun tr => { tr with stores := [e] })
    s.Inv ∧ (s.trader tid).stores = [e] ∧ e.host = false ∧ s.errorIn (.hallMem 0) e.addr e.len ≠ some true ∧ e.data.length = e.len ∧
      tid.t < 16 ∧ bit (s.get EV_PEND.PEND tid.ix) 9 = false :=
  ⟨⟨by decide, by decide⟩, by decide⟩

theorem witness_AtomicAnswerArrives :
    let r : AtomReq := ⟨.pop 3, 5, false, 7, [], 0, true, [1], false⟩
    ((with_ (fun tr => { tr with atom := some r })).trader tid).atom = some r ∧ r.done = true := by
  decide

/-- The operations of Scale in fixed point, and those in binary32. -/
def fixedWords : List (Nat × Nat) := minors 0x38 17 [0, 8, 9, 10, 11, 12, 13, 14, 15, 0x12, 0x13, 0x14, 0x17]
def binaryWords : List (Nat × Nat) := minors 0x38 17 [1, 2, 3, 4, 5, 6, 7, 0x10, 0x11, 0x15, 0x16, 0x18]

theorem witness_ScaleFixedPoint : Issuable fixedWords ∧ ∀ p ∈ fixedWords, (runs p.1).part.scale = true ∧ (runs p.1).scSound tid :=
  ⟨issues_all (by decide), fun _ _ => ⟨rfl, fun _ _ => rfl⟩⟩

theorem witness_ScaleBinary32 : Issuable binaryWords ∧ ∀ p ∈ binaryWords, (runs p.1).part.scale = true ∧ (runs p.1).scSound tid :=
  ⟨issues_all (by decide), fun _ _ => ⟨rfl, fun _ _ => rfl⟩⟩

theorem witness_Binary32Exact :
    Issuable binaryWords ∧ (runs 0).part.scale = true ∧ (runs 0).scSound tid ∧
    (let one := 0x3F800000; let two := 0x40000000
     f32Finite one ∧ f32Finite two ∧ f32Normal one ∧ f32Normal two ∧ f32Units two = f32Units one + f32Units one ∧
       f32Units one = f32Units two - f32Units one ∧ f32Units one ≠ 0 ∧ f32Units one * 2 ^ 149 = f32Units one * f32Units one ∧
       f32Units two * 2 ^ 149 = f32Units one * 2 ^ 149 + f32Units one * f32Units one ∧
       f32Units one * f32Units one = f32Units one * 2 ^ 149 ∧ 0 < f32Units one ∧ sgn 32 1 * 2 ^ 149 = f32Units one * 2 ^ 0 ∧
       f32Units one + f32Units 0xBF800000 = 0) :=
  ⟨issues_all (by decide), rfl, fun _ _ => rfl, by unfold f32Finite f32Normal; decide⟩

theorem witness_RoundsToNearestEven : 2 ^ 24 ≤ 2 ^ 24 ∧ (-126 : Int) ≤ -150 + Nat.log2 (2 ^ 24) ∧ (102 : Int) + Nat.log2 (2 ^ 24) < 127 := by
  decide

theorem witness_Binary32SpecialValues : (Fp.nan true).isNan ∧ (Fp.nan false).isNan ∧ 6 < 7 ∧ (2 ^ 31 + 5) / 2 ^ 23 % 256 = 0 := by
  decide

theorem witness_ScaleAbsent : ∀ p ∈ fixedWords ++ binaryWords,
    let s : State := { runs p.1 with part := { (runs p.1).part with variant := .HK1024E } }
    s.Issues tid p.1 ∧ keyOf p.1 = p.2 ∧ s.part.scale = false := by
  have h : (fixedWords ++ binaryWords).all (fun p =>
      let s : State := { runs p.1 with part := { (runs p.1).part with variant := .HK1024E } }
      issuesB s tid p.1 && decide (keyOf p.1 = p.2) && !s.part.scale) = true := by decide
  intro p hp
  have := List.all_eq_true.mp h p hp
  simp only [Bool.and_eq_true, decide_eq_true_eq, Bool.not_eq_true'] at this
  exact ⟨issues_of this.1.1, this.1.2, this.2⟩

theorem witness_CoprocessorOperations :
    (∀ cp ∈ [0, 2], let s : State := { runs (0x39 * 2 ^ 22) with part := { (runs 0).part with cpTies := cp } }
      s.Issues tid (0x39 * 2 ^ 22) ∧ keyOf (0x39 * 2 ^ 22) = key 0x39 ∧ (bit s.part.cpMap 1 = true ↔ cp = 2)) ∧
    (let e : CpxOp := ⟨1, 0, 0, 0, 0, 0, true, 0, some 1⟩
     let x : CpxOp := { e with unit := 2, due := some 5 }
     let s := with_ (fun tr => { tr with cpOut := [x] ++ e :: [x], slot := 3 })
     (s.trader tid).cpOut = [x] ++ e :: [x] ∧ (∀ y ∈ [x], e.due.getD 0 < y.due.getD 0) ∧ (∀ y ∈ [x], e.due.getD 0 ≤ y.due.getD 0) ∧
       s.idleSlots tid = false ∧ e.due.getD 0 ≤ (s.trader tid).slot) := by
  refine ⟨?_, by decide⟩
  intro cp hc
  simp only [List.mem_cons, List.mem_nil_iff, or_false] at hc
  rcases hc with rfl | rfl <;> exact ⟨issues_of (by decide), by decide, by decide⟩

/-! ## Registers, resets, the till and stalls -/

theorem witness_HostRegisterWrite :
    full.portOpen 3 = true ∧ ([1, 2, 3, 4] : List Byte).length = 4 ∧ 4108 % 4 = 0 ∧
      full.hostReg 4108 = some (({} : Ix).reg .TILL_CTRL, false) ∧ full.reached (({} : Ix).reg .TILL_CTRL) = true ∧
      RegName.TILL_CTRL ∈ plainNames ∧ full.faults = [] ∧ full.heldAt 4108 = none ∧
      (RegName.CR_X.ofCrier = true ∧ RegName.CR_X ∈ plainNames ∧
        (let s : State := { full with crDid := [(⟨0, 0, 0⟩, ⟨0, []⟩)], tick := 4000, till := { full.till with clk := .pll } }
         ∀ d, Tab.find s.crDid ⟨0, 0, 0⟩ = some d → d.cycle ≠ s.cycle 0 0)) := by
  refine ⟨by decide, by decide, by decide, by decide, by decide, by decide, by decide, by decide, by decide, by decide, ?_⟩
  intro s d e
  cases e
  decide

theorem witness_WideAndNarrowRegisterWrites :
    (full.portOpen 3 = true ∧ 4120 % 4 = 0 ∧ 4124 % 4 = 0 ∧ full.hostReg 4120 = some (({} : Ix).reg .TILL_ALARM, false) ∧
      full.hostReg 4124 = some (({} : Ix).reg .TILL_ALARM, true) ∧ full.reached (({} : Ix).reg .TILL_ALARM) = true ∧ full.faults = [] ∧
      full.heldAt 4120 = none ∧ full.heldAt 4124 = none) ∧
    (tid.h < full.part.halls ∧ full.asleep = false ∧ full.faults = [] ∧ AX_SEL.AXIS ∈ [AX_SEL.AXIS, TM_SEL.MARK, CT_SEL.COUNTER]) := by
  decide

theorem witness_ReadClearsCounters :
    full.portOpen 3 = true ∧ winMem 16456 = none ∧ 16456 % 4 = 0 ∧ full.hostReg 16456 = some ((ix 0).reg .HP_ERRCNT, false) ∧
      full.reached ((ix 0).reg .HP_ERRCNT) = true ∧ full.heldAt 16456 = none := by
  decide

theorem witness_PortOrder :
    (let s : State := { full with till := { full.till with clk := .lfo } }
     s.asleep = true) ∧
    (let e : Nat × Nat × Instr := (3, 1, .bootRomStart)
     let s : State := { full with held := [(2, 0, .refBack), e] }
     s.asleep = false ∧ s.held.find? (fun e => e.1 == 3) = some e) ∧
    (State.reset.portOpen 3 = true ∧ 7 < State.reset.part.halls ∧ State.reset.clearing = true) := by
  decide

theorem witness_DeviceResets : (ResetSrc.pin = .debug → full.dbg.en = true) ∧ (ResetSrc.pin = .pin → full.power.porst = false) ∧
    (let s : State := { full with dbg := { en := true } }; ResetSrc.debug = .debug → s.dbg.en = true) ∧
    (full.tokens = [] ∧ full.power.step ≠ .asleep 6) ∧
    (({ full with power := { full.power with step := .asleep 6 } } : State).power.step = .asleep 6) ∧
    ({ full with power := { full.power with porst := true } } : State).power.porst = true ∧
    (∀ x y : Bool, x || y = true → ({ full with power := { full.power with porst := x, rst := y } } : State).power.held = true) := by
  decide

theorem witness_PartialResets : 7 < full.part.halls ∧ 8 < full.part.stalls ∧ full.failover 7 = none ∧
    4 * 7 + 3 < full.part.lanes ∧ 3 < 4 := by
  decide

/-- After reset release, before full service. -/
def early : State := { State.reset with power := { State.reset.power with porst := false, rst := false } }

/-- A write of hall memory that the clearing of the arrays has held. -/
def heldWrite : Instr := .windowMemoryWrite 5 (0x2000000 + 7 * 0x400000 + 0x3FFFC0) (List.replicate 64 5)

theorem witness_EarlyMarket :
    (early.power.held = false ∧ early.asleep = false ∧ early.held = [] ∧ early.faults = []) ∧
    (early.Inv ∧ 7 < early.part.halls ∧ winMem (0x2000000 + 7 * 0x400000 + 0x3FFFC0) = some (.hall 7 0x3FFFC0) ∧
      0x3FFFC0 + (List.replicate 64 (5 : Byte)).length ≤ 0x400000 ∧
      1 ≤ (List.replicate 64 (5 : Byte)).length ∧ (List.replicate 64 (5 : Byte)).length ≤ 64 ∧
      ({ early with held := [(5, 7, heldWrite)] } : State).held =
        [(5, 7, .windowMemoryWrite 5 (0x2000000 + 7 * 0x400000 + 0x3FFFC0) (List.replicate 64 5))]) ∧
    (early.is PWR_STATUS.FULL = false ∧ (early.trader ⟨0, 0, 0⟩).inRom = false) ∧
    (let s : State := { early with power := { early.power with romRuns := true } }
     s.portOpen 3 = true ∧ s.power.romRuns = true ∧ s.is PWR_STATUS.FULL = false ∧ s.power.left = none ∧ s.chitLoad < 4096 - 512) :=
  ⟨by decide, ⟨⟨by decide, by decide⟩, by decide⟩, by decide, by decide⟩

theorem witness_TillEvents :
    (early.till.clk = .fio ∧ early.till.refUp = true ∧ early.power.held = false ∧ early.till.base ≤ early.tick) ∧
    (let s : State := { State.reset with till := { State.reset.till with clk := .pll } }
     (s.till.clk = .pll ∧ s.till.refUp = true ∧ s.faults = [] ∧ (∀ e ∈ s.lanes, e.2.training = none) ∧ s.power.job = none ∧
       s.chitLoad < 4096 - 512) ∧ (∀ h k, s.lnState h k ≠ 2) ∧ ∀ h, s.is FT_WIND.REFCLK (ix h) = false) ∧
    (let s := full.set TILL_STATUS.HOLDOVER {} true
     s.is TILL_STATUS.HOLDOVER = true ∧ s.till.refUp = true) ∧
    (∀ a ∈ [0, 41], let s := (full.set TILL_CTRL.ALARM_EN {} true).put TILL_ALARM.VAL {} a
     s.is TILL_CTRL.ALARM_EN = true ∧ s.is TILL_CTRL.ALARM_WAKE = false ∧ (a = 0 → s.get TILL_ALARM.VAL ≤ s.tillNow) ∧
       (a = 41 → s.tillNow < s.get TILL_ALARM.VAL) ∧ s.till.alarmAt ≠ some s.tillNow) ∧
    (∀ tk ∈ [255, 256], let s : State := { full.set TILL_CTRL.TRIM_AUTO {} true with till := { full.till with clk := .pll }, tick := tk }
     s.is TILL_CTRL.TRIM_AUTO = true ∧ s.till.clk = .pll ∧ (tk = 255 → s.tick < s.till.trimFrom + 256) ∧
       (tk = 256 → s.till.trimFrom + 256 ≤ s.tick)) := by
  refine ⟨by decide, ⟨by decide, fun h k => ?_, fun h => ?_⟩, by decide, by decide, by decide⟩
  · rw [show State.lnState _ h k = bits RegName.LN_STATUS.rst 31 29 by
      simp [State.lnState, State.get, State.rd, State.reset, Tab.find, Reg.resetValue, ix, Ix.reg, LN_STATUS.STATE]]
    decide
  · rw [show State.is _ FT_WIND.REFCLK (ix h) = (bits RegName.FT_WIND.rst FT_WIND.REFCLK.hi FT_WIND.REFCLK.lo == 1) by
      simp [State.is, State.get, State.rd, State.reset, Tab.find, Reg.resetValue, ix, Ix.reg, FT_WIND.REFCLK]]
    decide

theorem witness_ImemPages :
    ∀ b : Bool, let s := if b then with_ id else full
    s.reachesStall (.trader tid) 0 0 = true ∧ s.holdsWord (.trader tid) 0 0 = none ∧ s.portOpen (accPort (.trader tid)) = true ∧ (s.stall 0 0).swapEnd ≤ s.tick ∧ s.page 0 0 < 2 ∧
      (b = false → ∀ n < 16, (s.trader ⟨0, 0, n⟩).running = false) ∧ (b = true → ¬∀ n < 16, (s.trader ⟨0, 0, n⟩).running = false) := by
  decide

/-- A stall whose cache fills the line at address 0x40, for which its trader 0 waits. -/
def filling : State :=
  (((full.set STL_ICACHE.EN (ix 0 0) true).put STL_CODE_BASE.BASE (ix 0 0) 0).setTrader tid
    { full.trader tid with running := true, pc := 0x2010, missing := true }).setStall 0 0 { full.stall 0 0 with fill := some 0x40 }

theorem witness_InstructionCache :
    (full.reachesStall (.host 0) 7 8 = true ∧ full.holdsWord (.host 0) 7 8 = none ∧ full.portOpen (accPort (.host 0)) = true) ∧
    ((full.setStall 0 0 { full.stall 0 0 with inval := true }).stall 0 0).inval = true ∧
    (let s := filling
     (s.stall 0 0).fill = some 0x40 ∧ s.errorIn (.hallMem 0) 0x40 64 = none ∧ s.clearing = false ∧
       s.is STL_ICACHE.EN (ix 0 0) = true ∧ (s.stall 0 0).inval = false ∧ s.faults = [] ∧ (s.trader tid).missing = true ∧
       0x2000 ≤ (s.trader tid).pc ∧ s.codeAddr tid (s.trader tid).pc / 64 * 64 = 0x40) ∧
    (let s : State := { filling with ecc := [(((Arr.hallMem 0).code, ((Arr.hallMem 0).base + 0x40) / 4), true)] }
     s.errorIn (.hallMem 0) 0x40 64 = some true) := by
  decide

theorem witness_WindowWrites :
    (full.Inv ∧ 7 < full.part.halls ∧ 8 < full.part.stalls ∧ full.failover 7 = none ∧ full.get FT_LOCKSTEP.PAIR (ix 7) = 0 ∧
      full.memHeld (.imem 7 8 1 0x7FFC) = false ∧ full.portOpen 5 = true ∧ 0x7FFC % 4 = 0 ∧ 0x7FFC + 4 ≤ 0x8000 ∧ ([1, 2, 3, 4] : List Byte).length = 4) ∧
    (full.portOpen 5 = true ∧ 7 < full.part.halls ∧ full.clearing = false ∧ 0x3FFFC0 + (List.replicate 64 (5 : Byte)).length ≤ 0x400000 ∧ (List.replicate 64 (5 : Byte)).length ≤ 64) :=
  ⟨⟨⟨by decide, by decide⟩, by decide⟩, by decide⟩

theorem witness_PairsAndReleases :
    (full.portOpen 0 = true ∧ 3 < 4 ∧ 7 < full.part.halls ∧ (∀ i < 4, i ≠ 3 → bit 8 i = bit (full.get FT_LOCKSTEP.PAIR (ix 7)) i) ∧ bit 8 3 = true ∧
      bit (full.get FT_LOCKSTEP.PAIR (ix 7)) 3 = false ∧
      (∀ n < 16, (full.trader ⟨7, 6, n⟩).running = false ∧ (full.trader ⟨7, 7, n⟩).running = false) ∧
      full.get FT_STALL.STATE (ix 7 6) ≠ 3 ∧ full.get FT_STALL.STATE (ix 7 7) ≠ 3) ∧
    (let s := full.set FT_ROLE.FO_EN (ix 0 7) true
     s.roleStall 0 7 = some 7 ∧ s.faults = [] ∧ s.get FT_LOCKSTEP.PAIR (ix 0) = 0 ∧ s.is FT_ROLE.FO_EN (ix 0 7) = true ∧
       s.get FT_STALL.STATE (ix 0 8) = 1 ∧ s.failover 0 = none ∧ s.part.stalls = 9 ∧ s.portOpen 0 = true ∧
       s.get FT_STALL.STATE (ix 0 7) ≠ 3 ∧ ∀ n < 16, (s.trader ⟨0, 7, n⟩).trap = none) ∧
    ∀ d ∈ full.deferred, d.1 ≠ 7 := by
  decide


/-- The tile at tick 1,000 with axis 0 enabled: `src`, the least period, and the axis as `f` leaves it. -/
def axisAt (src : Nat) (f : Axis → Axis) : State :=
  let s : State := { ((full.set TAX_CTRL.ENABLE (ix 0) true).put TAX_CTRL.K (ix 0) 6).put TAX_CTRL.SRC (ix 0) src with tick := 1000 }
  s.setAxis 0 (f { s.axis 0 with t := 900 })

theorem witness_EstimatorUpdate :
    ∀ src ∈ [1, 2, 3], let s := axisAt src (fun a => { a with meas := some (-5, 901) })
    s.updateDue 0 = true ∧ s.faults = [] ∧ s.swaps = [] ∧ s.wind = none ∧ s.jobs = [] ∧ s.get TAX_CTRL.SRC (ix 0) ∈ [1, 2, 3] ∧
      6 ≤ s.get TAX_CTRL.K (ix 0) ∧ s.get TAX_CTRL.K (ix 0) ≤ 20 ∧ (s.axis 0).notBefore = 0 ∧ (s.axis 0).meas = some (-5, 901) ∧
      s.is TAX_STATUS.LOST (ix 0) = false ∧ s.is TAX_STATUS.COASTING (ix 0) = false ∧ (s.axis 0).wakeRecover = false ∧
      (s.axis 0).presetPend = false ∧ (s.axis 0).clearPend = false ∧ (s.axis 0).calPreset = none := by
  decide

theorem witness_CommandedLostAndPresetAxes :
    (∀ src ∈ [1, 4], let s := axisAt src id
     s.updateDue 0 = true ∧ s.faults = [] ∧ s.swaps = [] ∧ s.wind = none ∧ s.jobs = [] ∧ 6 ≤ s.get TAX_CTRL.K (ix 0) ∧
      s.get TAX_CTRL.K (ix 0) ≤ 20 ∧ (s.axis 0).notBefore = 0 ∧ (s.axis 0).calPreset = none ∧ (s.axis 0).wakeRecover = false ∧
      s.get TAX_CTRL.SRC (ix 0) = src ∧ (s.axis 0).presetPend = false ∧ (s.axis 0).clearPend = false ∧
      s.is TAX_STATUS.LOST (ix 0) = false ∧ s.is TAX_STATUS.COASTING (ix 0) = false) ∧
    (let s := (axisAt 1 id).set TAX_STATUS.LOST (ix 0) true
     s.updateDue 0 = true ∧ s.is TAX_STATUS.LOST (ix 0) = true ∧ s.is TAX_STATUS.COASTING (ix 0) = false) ∧
    (let s := axisAt 1 (fun a => { a with presetPend := true, meas := some (0, 900) })
     s.updateDue 0 = true ∧ (s.axis 0).presetPend = true ∧ (s.axis 0).clearPend = false ∧ (s.axis 0).meas.isSome = true) ∧
    (let s := axisAt 1 (fun a => { a with clearPend := true, meas := some (0, 900) })
     s.updateDue 0 = true ∧ (s.axis 0).presetPend = false ∧ (s.axis 0).clearPend = true ∧ (s.axis 0).meas.isSome = true) ∧
    (let s := (axisAt 1 (fun a => { a with coast := 1 })).set TAX_STATUS.COASTING (ix 0) true
     s.updateDue 0 = true ∧ s.is TAX_STATUS.COASTING (ix 0) = true ∧ s.is TAX_STATUS.LOST (ix 0) = false ∧ (s.axis 0).coast ≤ 1) := by
  decide

theorem witness_QuadratureEdges :
    ∀ last ∈ [none, some 640, some 641], let s := ((axisAt 1 (fun a => { a with lastEdge := last })).put TAX_CTRL.COAST (ix 0) 3).set PIN_CFG.IN_EN (ix 0 0) true
    let la := s.quadInput 0 TAX_SRC.POS_A
    s.asleep = false ∧ s.get TAX_CTRL.SRC (ix 0) = 1 ∧ s.faults = [] ∧ 960 % 16 = 0 ∧ 960 + 16 * s.get TAX_SRC.QFILT (ix 0) ≤ s.tick ∧
      la = true ∧ (s.axis 0).lineA = false ∧ (s.axis 0).lineB = false ∧ s.quadInput 0 TAX_SRC.POS_B = true ∧
      (s.axis 0).lastTm = none ∧ s.get TAX_CTRL.COAST (ix 0) ≠ 0 ∧ s.is TAX_STATUS.LOST (ix 0) = false ∧
      s.is TAX_STATUS.COASTING (ix 0) = false ∧ (last = some 641 → 960 < 641 + 320) ∧ (last = some 640 → 640 + 320 ≤ 960) := by
  decide

theorem witness_AxisCommands :
    (let s := ((axisAt 1 id).set TM_STATUS.ARMED (ix 3 4) true).setMark 3 4 { (axisAt 1 id).mark 3 4 with inst := some 1064 }
     s.portOpen (accPort (.host 1)) = true ∧ s.is TAX_CTRL.ENABLE (ix 0) = true ∧ bit 0 31 = false ∧ s.is TM_STATUS.ARMED (ix 3 4) = true ∧
       (s.mark 3 4).axis = 0 ∧ (s.mark 3 4).committed = false) ∧
    full.portOpen (accPort (.trader tid)) = true ∧ full.is TAX_CTRL.ENABLE (ix 0) = false ∧ bit (2 ^ 31) 31 = true ∧
    4 * 2 ^ 28 / 2 ^ 28 % 8 = 4 := by
  decide

/-- A moving axis 0 with its target `d` ticks ahead of tick 1,000 of the axis' state at tick 900. -/
def ahead (d : Nat) : State := (axisAt 1 (fun a => { a with v := 2 ^ 30, v0 := 2 ^ 30 })).put TM_TARGET.VAL (ix 0 0) (64 * d)

theorem witness_ArmingAMark :
    (full.portOpen (accPort (.trader tid)) = true ∧ full.reachesHall (.trader tid) 0 = true ∧ bit (3 * 2 ^ 24) 30 = false ∧ full.is TM_STATUS.ARMED (ix 0 0) = false ∧ 3 * 2 ^ 24 / 2 ^ 24 % 4 = 3) ∧
    ∀ d ∈ [163, 164, 195, 196, 2 ^ 40 + 1000], let s := ahead d
    s.portOpen (accPort (.host 0)) = true ∧ s.reachesHall (.host 0) 0 = true ∧ s.is TM_STATUS.ARMED (ix 0 0) = false ∧ s.is TAX_CTRL.ENABLE (ix 0) = true ∧
      s.is TAX_STATUS.LOST (ix 0) = false ∧
      (let f := (s.axis 0).inForce s.tick
       (s.get TAX_VMIN.VAL (ix 0) : Int) < f.2.1 ∧
        0 < sgn 64 (s.rd ((ix 0 0).reg .TM_TARGET)) * 2 ^ 24 - (f.1 * 2 ^ 24 + f.2.1 * ((s.tick : Int) - f.2.2))) := by
  decide

/-- A committed arming of mark 0 of hall 0 with instant `i` and action word `act`. -/
def armed (i act : Nat) : State :=
  let s : State := { full.set TM_STATUS.ARMED (ix 0 0) true with tick := 1000 }
  s.setMark 0 0 { s.mark 0 0 with inst := some i, committed := true, action := act, cfg := 2 ^ 31, late := true, slip := true }

theorem witness_MarkActions :
    (full.portOpen (accPort (.host 3)) = true ∧ full.reachesHall (.host 3) 0 = true ∧ full.is TM_STATUS.ARMED (ix 0 0) = false) ∧
    ((armed 1064 0).is TM_STATUS.ARMED (ix 0 0) = true ∧ ((armed 1064 0).mark 0 0).imminent 1000 = false) ∧
    ((armed 1063 0).is TM_STATUS.ARMED (ix 0 0) = true ∧ ((armed 1063 0).mark 0 0).imminent (armed 1063 0).tick = true) ∧
    (∀ k < 8, let s := armed 1000 (k * 2 ^ 29)
     let mk := s.mark 0 0
     s.faults = [] ∧ s.asleep = false ∧ mk.inst = some 1000 ∧ mk.committed = true ∧ s.is TM_STATUS.ARMED (ix 0 0) = true ∧ 1000 ≤ s.tick ∧
      mk.action / 2 ^ 29 % 8 = k ∧ bit mk.action 21 = false ∧ bit mk.action 14 = false ∧ bit mk.action 28 = false ∧ bit mk.action 15 = false ∧
      mk.nextArm = none ∧ bit mk.cfg 22 = false ∧ 1000 < 2 ^ 64 ∧ mk.late = true ∧ mk.slip = true) ∧
    (let s : State := { full with till := { full.till with clk := .lfo } }
     s.asleep = true) ∧
    ∀ e ∈ [1000, 1001], let s := (armed 900 0).setMark 0 0 { (armed 900 0).mark 0 0 with pulseEnd := some e }
     (s.mark 0 0).pulseEnd = some e ∧ s.tick = 1000 := by
  decide

/-- Counter 0 of hall 0 at `v` of a period of 20 with its compare value at 10, enabled or not, at tick 40. -/
def counting (v : Nat) : State :=
  { ((((full.set CT_CTRL.ENABLE (ix 0 0) true).put CT_COUNT.VAL (ix 0 0) v).put CT_PERIOD.VAL (ix 0 0) 20).put CT_COMPARE.VAL (ix 0 0) 10).put
      CT_CTRL.CLK_SRC (ix 0 1) 3 with tick := 40 }.set CT_CTRL.ENABLE (ix 0 1) true

theorem witness_CountersCount :
    ∀ p ∈ [(0, 9), (10, 10)], let s := counting p.1
    s.is CT_CTRL.ENABLE (ix 0 0) = true ∧ s.get CT_CTRL.CLK_SRC (ix 0 0) = 0 ∧ p.1 + p.2 ≤ s.get CT_PERIOD.VAL (ix 0 0) ∧
      (s.get CT_COMPARE.VAL (ix 0 0) ≤ p.1 ∨ p.1 + p.2 < s.get CT_COMPARE.VAL (ix 0 0)) := by
  decide

/-- Counter 0 of hall 0 at `v` with MATCH_EV, WRAP_EV and BELL_EN set, and selectors 0 and 1 of trader H0.S0.T0 on its events. -/
def countingEv (v : Nat) : State :=
  let s := ((((counting v).set CT_CTRL.MATCH_EV (ix 0 0) true).set CT_CTRL.WRAP_EV (ix 0 0) true).set CT_CTRL.BELL_EN (ix 0 0) true).put
    CT_CTRL.BELL_NUM (ix 0 0) 5
  s.wr ⟨.EV_HSEL01, 0, 0, 0, 0⟩ (0x80 * 2 ^ 16 + 0x40)

/-- A match at 30 of a run-on past the period of 20, and its wrap at 2^32. -/
theorem witness_RunOn :
    ∀ e ∈ [(29, 30), (2 ^ 32 - 1, 10)], let s := (counting e.1).put CT_COMPARE.VAL (ix 0 0) e.2
    let c := s.get CT_COUNT.VAL (ix 0 0)
    let m := s.get CT_COMPARE.VAL (ix 0 0)
    let p := s.get CT_PERIOD.VAL (ix 0 0)
    p < c ∧ (e.1 = 29 → c < m ∧ m - c ≤ ctSum (s.ctEvents 0 0 s.tick)) ∧
      (e.1 ≠ 29 → m ≤ c ∧ 0 < m ∧ 2 ^ 32 - c ≤ ctSum (s.ctEvents 0 0 s.tick)) := by
  decide

theorem witness_CounterEvents :
    ∀ e ∈ [(9, 1), (20, 1)], let s := countingEv e.1
    let at_ := s.ctInstant 0 0 e.2
    e.2 ≤ ctSum (s.ctEvents 0 0 s.tick) ∧ s.heldBack 0 at_ = false ∧ (s.counter 0 0).lastMatch ≠ some at_ ∧
      (s.counter 0 0).lastWrap ≠ some at_ ∧ s.is CT_CTRL.MATCH_EV (ix 0 0) = true ∧ s.is CT_CTRL.BELL_EN (ix 0 0) = true ∧
      s.is CT_CTRL.WRAP_EV (ix 0 0) = true ∧ (⟨.EV_HSEL01, 0, 0, 0, 0⟩ : Reg) ∈ Tab.keys s.regs ∧
      bits (s.hselSeen ⟨.EV_HSEL01, 0, 0, 0, 0⟩ 0 (s.rd ⟨.EV_HSEL01, 0, 0, 0, 0⟩)) 8 0 = 0x40 ∧
      bits (s.hselSeen ⟨.EV_HSEL01, 0, 0, 0, 0⟩ 0 (s.rd ⟨.EV_HSEL01, 0, 0, 0, 0⟩)) 24 16 = 0x80 := by
  decide

theorem witness_MatchesAndWraps :
    ∀ v ∈ [9, 20], let s := counting v
    let c := s.get CT_COUNT.VAL (ix 0 0)
    let m := s.get CT_COMPARE.VAL (ix 0 0)
    let p := s.get CT_PERIOD.VAL (ix 0 0)
    0 < s.part.halls ∧ m ≤ p ∧ (v = 9 → c < m ∧ m - c ≤ ctSum (s.ctEvents 0 0 s.tick)) ∧
      (v = 20 → c ≤ p ∧ m ≤ c ∧ 0 < m ∧ p - c + 1 ≤ ctSum (s.ctEvents 0 0 s.tick)) ∧
      s.is CT_CTRL.MATCH_EV (ix 0 0) = false ∧ s.is CT_CTRL.BELL_EN (ix 0 0) = false ∧ s.is CT_CTRL.WRAP_EV (ix 0 0) = false ∧
      s.is CT_CTRL.ENABLE (ix 0 1) = true ∧ s.get CT_CTRL.CLK_SRC (ix 0 1) = 3 := by
  decide

theorem witness_CounterCommands :
    (let s := counting 9
     let u := s.ctCatch 0 0 s.tick
     s.portOpen (accPort (.host 0)) = true ∧ s.reachesHall (.host 0) 0 = true ∧ u.get CT_CTRL.CLK_SRC (ix 0 0) ≠ 3 ∧ u.get CT_CTRL.CLK_SRC (ix 0 1) = 3 ∧
      u.get CT_CTRL.CLK_SRC (ix 0 2) ≠ 3 ∧ 0 < u.get CT_COUNT.VAL (ix 0 0)) := by
  decide

theorem witness_CounterCaptures :
    ∀ level : Bool, let s := ((full.put PIN_CFG.FUNC (ix 0 0) 6).set PIN_CFG.IN_EN (ix 0 0) true).put CT_INPUT.EDGE (ix 0 0) 3
    let s := s.setCounter 0 0 { s.counter 0 0 with level := some !level }
    s.ctPin 0 0 = some 0 ∧ s.inputOn 0 0 = true ∧ 0 + 16 * s.get CT_INPUT.FILT_LEN (ix 0 0) ≤ s.tick ∧
      s.ctSettled 0 0 = some !level ∧ s.is CT_CTRL.ENABLE (ix 0 0) = false ∧ s.is CT_CTRL.CAP_EV (ix 0 0) = false ∧
      bit (s.get CT_INPUT.EDGE (ix 0 0)) (if level then 0 else 1) = true ∧ (s.counter 0 0).prescale = s.get CT_INPUT.PRESCALE (ix 0 0) := by
  decide

/-- The crier of the tests. -/
def cid : CrierId := ⟨0, 0, 0⟩

/-- The crier runs the word `w` from cycle 5 on, in a state changed by `f`. -/
def cries (w : Nat) (f : State → State := id) : State :=
  let s : State := { full.put BR_RUN_SET.RUN (ix 0 0) 1 with tick := 4000, till := { full.till with clk := .pll } }
  f { (s.setCrier cid { s.crier cid with next := 5 }) with mem := Memory.writeBytes s.mem (Arr.crierPage 0 0 0).base (toBytes 3 w) }

def criesB (s : State) (c : CrierId) (row w n : Nat) : Bool :=
  decide (s.crierSlot c = some n) && decide (s.wordAt c.h c.b n (s.brPage c.h c.b) (s.get CR_STATUS_C.PC c.ix) = w) &&
    decide (crierRow w = row) && crierLegal w &&
    decide (s.errorIn (.crierPage c.h c.b (s.brPage c.h c.b)) (4 * s.get CR_STATUS_C.PC c.ix) 3 = none) && decide (Tab.find s.crWas c = none)

theorem cries_of {s : State} {c : CrierId} {row w n : Nat} (h : criesB s c row w n = true) : s.CrierIssues c row w n := by
  simp only [criesB, Bool.and_eq_true, decide_eq_true_eq] at h
  obtain ⟨⟨⟨⟨⟨h1, h2⟩, h3⟩, h4⟩, h5⟩, h6⟩ := h
  exact ⟨h1, h2, h3, h4, h5, h6⟩

theorem witness_CrierShifts :
    (let s := cries (1 * 2 ^ 20)
     s.CrierIssues cid 1 (1 * 2 ^ 20) 5 ∧ s.is CR_SHIFT.REFILL cid.ix = false ∧ s.get CR_PINS.CUE_EN cid.ix = 0) ∧
    (let s := cries (1 * 2 ^ 20) (fun s => s.set CR_SHIFT.REFILL cid.ix true)
     s.CrierIssues cid 1 (1 * 2 ^ 20) 5 ∧ s.is CR_SHIFT.REFILL cid.ix = true ∧ s.oshLeft cid = 0 ∧ (s.crier cid).tx = []) ∧
    (let s := cries (2 * 2 ^ 20)
     s.CrierIssues cid 2 (2 * 2 ^ 20) 5 ∧ s.is CR_SHIFT.SPILL cid.ix = false) :=
  ⟨⟨cries_of (by decide), by decide⟩, ⟨cries_of (by decide), by decide⟩, ⟨cries_of (by decide), by decide⟩⟩

theorem witness_CrierSetsMovesAndJumps : ∀ r ∈ [0, 3, 5, 6], (cries (r * 2 ^ 20)).CrierIssues cid r (r * 2 ^ 20) 5 :=
  fun r h => cries_of (List.all_eq_true.mp (by decide : [0, 3, 5, 6].all (fun r => criesB (cries (r * 2 ^ 20)) cid r (r * 2 ^ 20) 5) = true) r h)

/-- FIFO contents of the crier. -/
def withFifos (tx rx : List Word) (s : State) : State := s.setCrier cid { s.crier cid with tx := tx, rx := rx }

theorem witness_CrierFifoInstructions :
    (let s := cries (7 * 2 ^ 20 + 2)
     s.CrierIssues cid 7 (7 * 2 ^ 20 + 2) 5 ∧ s.is CR_FIFO.RX_ROUTE cid.ix = false ∧ s.ishFill cid < s.spillAt cid) ∧
    (let s := cries (7 * 2 ^ 20)
     s.CrierIssues cid 7 (7 * 2 ^ 20) 5 ∧ (s.crier cid).rx.length + 1 ≤ s.rxCap cid ∧ s.ishFill cid ≤ 32) ∧
    (∀ w ∈ [7 * 2 ^ 20, 7 * 2 ^ 20 + 1], let s := cries w (withFifos [] (List.replicate 8 0))
     s.CrierIssues cid 7 w 5 ∧ ¬(s.crier cid).rx.length + 1 ≤ s.rxCap cid) ∧
    (let s := cries (8 * 2 ^ 20 + 2) (fun s => s.put CR_SCNT.OSH_LEFT cid.ix 1)
     s.CrierIssues cid 8 (8 * 2 ^ 20 + 2) 5 ∧ s.oshLeft cid ≠ 0) ∧
    (let s := cries (8 * 2 ^ 20) (withFifos [1] [])
     s.CrierIssues cid 8 (8 * 2 ^ 20) 5 ∧ (s.crier cid).tx = [1]) ∧
    (let s := cries (8 * 2 ^ 20 + 4) (withFifos [1, 2] [])
     s.CrierIssues cid 8 (8 * 2 ^ 20 + 4) 5 ∧ (s.crier cid).tx = [1, 2]) ∧
    (let s := cries (8 * 2 ^ 20)
     s.CrierIssues cid 8 (8 * 2 ^ 20) 5 ∧ (s.crier cid).tx = []) := by
  refine ⟨⟨cries_of (by decide), by decide⟩, ⟨cries_of (by decide), by decide⟩, fun w h => ⟨cries_of ?_, ?_⟩, ⟨cries_of (by decide), by decide⟩,
    ⟨cries_of (by decide), by decide⟩, ⟨cries_of (by decide), by decide⟩, ⟨cries_of (by decide), by decide⟩⟩ <;> revert w <;> decide

theorem witness_CrierPaceAndCrc :
    ∀ p ∈ [(9, 9 * 2 ^ 20 + 2 ^ 10), (9, 9 * 2 ^ 20), (9, 9 * 2 ^ 20 + 2 ^ 11), (9, 9 * 2 ^ 20 + 3 * 2 ^ 10), (0x10, 10 * 2 ^ 20),
        (0x11, 10 * 2 ^ 20 + 2 ^ 9), (0x12, 10 * 2 ^ 20 + 2 ^ 10), (0x13, 10 * 2 ^ 20 + 3 * 2 ^ 9), (0x14, 10 * 2 ^ 20 + 2 ^ 11),
        (0x15, 10 * 2 ^ 20 + 5 * 2 ^ 9)], (cries p.2).CrierIssues cid p.1 p.2 5 :=
  fun p h => cries_of (by revert p; decide)

/-- An AWAIT of a bell or of the pace tick that the crier stalls at. -/
def awaiting (w : Nat) (f : State → State) : State :=
  cries w (fun s => f (s.setCrier cid { s.crier cid with stalled := some 3, next := 4, btAt := 5 }))

theorem witness_CrierWaits :
    (∀ w ∈ [4 * 2 ^ 20, 4 * 2 ^ 20 + 2 ^ 11, 4 * 2 ^ 20 + 2 ^ 8, 4 * 2 ^ 20 + 2 ^ 9, 4 * 2 ^ 20 + 2 ^ 10],
      (cries w).CrierIssues cid 4 w 5 ∧ (cries w).crierPads 0 0 5 0 = 0) ∧
    (∀ b ∈ [5, 6], let s := cries (4 * 2 ^ 20 + 3 * 2 ^ 8) (fun s => s.setCrier cid { s.crier cid with btAt := b })
     s.CrierIssues cid 4 (4 * 2 ^ 20 + 3 * 2 ^ 8) 5 ∧ s.nextPace cid = b ∧ (s.crier cid).lastTick ≠ some 5) ∧
    (let s := awaiting (4 * 2 ^ 20 + 2 ^ 8 + 3) (fun s => { s with deliveries := [⟨0, .bell 3, 400, [0]⟩] })
     let m := s.cycleFrom 0 0 400
     s.clkRun = true ∧ s.deliveries = [⟨0, .bell 3, 400, [0]⟩] ∧ s.delivers 0 0 m = true ∧ s.crierAwaits cid 1 3 m = true ∧
      (∀ j < 4, j ≠ 0 → s.crierRuns ⟨0, 0, j⟩ = false) ∧ (∀ j < 4, Tab.find s.crWas ⟨0, 0, j⟩ = none) ∧
      crierLegal (s.wordAt 0 0 m (s.brPage 0 0) (s.get CR_STATUS_C.PC cid.ix)) = true ∧
      s.errorIn (.crierPage 0 0 (s.brPage 0 0)) (4 * s.get CR_STATUS_C.PC cid.ix) 3 = none) ∧
    (let s := awaiting (4 * 2 ^ 20 + 3 * 2 ^ 8) id
     let m := s.nextPace cid
     s.crierRuns cid = true ∧ s.clkRun = true ∧ m ≤ s.cycle 0 0 ∧ s.crierAwaits cid 3 0 m = true ∧ s.swapFirst 0 0 m = false ∧
      Tab.find s.crWas cid = none ∧ crierLegal (s.wordAt 0 0 m (s.brPage 0 0) (s.get CR_STATUS_C.PC cid.ix)) = true ∧
      s.errorIn (.crierPage 0 0 (s.brPage 0 0)) (4 * s.get CR_STATUS_C.PC cid.ix) 3 = none) := by
  refine ⟨fun w h => ⟨cries_of ?_, ?_⟩, fun b h => ⟨cries_of ?_, ?_⟩, by decide, by decide⟩ <;> first | (revert w; decide) | (revert b; decide)

theorem witness_CrierPorts :
    (full.portOpen (accPort (.host 0)) = true ∧ full.reachesBarrow (.host 0) 7 15 = true ∧ (full.crier cid).tx.length < full.txCap cid ∧ (full.crier cid).rx = []) ∧
    (let s := withFifos (List.replicate 8 1) [2, 3] full
     s.txCap cid ≤ (s.crier cid).tx.length ∧ (s.crier cid).rx = [2, 3]) ∧
    (let s := full.setStallOf 0 0 0
     s.portOpen (accPort (.trader tid)) = true ∧ s.reachesBarrow (.trader tid) 0 0 = true) ∧
    (full.get CR_FIFO.JOIN cid.ix = 0 ∧ full.crierRuns cid = false ∧ (cries 0).crierRuns cid = true ∧
      ∀ d, Tab.find full.crDid cid = some d → d.cycle ≠ full.cycle 0 0) := by
  decide

theorem witness_BarrowCommands :
    (full.Inv ∧ full.portOpen (accPort (.host 0)) = true ∧ full.portOpen 3 = true ∧ full.reachesBarrow (.host 0) 0 0 = true ∧ full.clearing = false ∧ full.crierRuns cid = false) ∧
    ((cries 0).Inv ∧ (cries 0).portOpen (accPort (.host 0)) = true ∧ (cries 0).reachesBarrow (.host 0) 0 0 = true ∧
      (cries 0).crierRuns cid = true ∧ ((cries 0).barrow 0 0).base < (cries 0).cycleStart 0 0 ((cries 0).cycle 0 0 + 1) ∧
      ((cries 0).barrow 0 0).cycle0 ≤ (cries 0).cycle 0 0) :=
  ⟨⟨⟨by decide, by decide⟩, by decide⟩, ⟨⟨by decide, by decide⟩, by decide⟩⟩

theorem witness_PinConfiguration :
    (0 < full.part.halls ∧ full.portOpen 3 = true ∧ 3 * 2 ^ 20 / 2 ^ 20 % 4 = 3 ∧ full.cfgRefused 0 (2 ^ 28) 127 = false ∧ full.swapTick 0 15 = none) ∧
    (let s : State := { full with tick := 1000, till := { full.till with clk := .pll } }
     2 ^ 28 / 2 ^ 22 ≠ s.rd ((ix 0 5).reg .PIN_CFG) / 2 ^ 22 % 2 ^ 10 ∧ s.heldPin 0 5 = false ∧ (s.pin 0 5).keep = none ∧
      (s.pin 0 5).capture = none ∧ (s.pin 0 5).elec = none ∧ 0 < s.switchStart 0 0) ∧
    (let s : State := { full.setPin 0 5 { full.pin 0 5 with switching := some 40, capture := some 40 } with tick := 40 }
     (s.pin 0 5).switching = some 40 ∧ 40 ≤ s.tick ∧ s.heldPin 0 5 = false) := by
  decide

theorem witness_PinWords :
    3 < 4 ∧ 7 < full.part.halls ∧ full.portOpen 3 = true ∧ full.deferred = [] ∧ (full.pin 7 127).latchPin = none ∧ full.heldPin 7 127 = false ∧ (full.pin 7 127).keep = none ∧
      (full.pin 7 127).capture = none := by
  decide

theorem witness_PinSamples :
    (∀ m ∈ [0, 3], let s := ((full.set PIN_CFG.IN_EN (ix 0 5) true).put PIN_EVT.MODE (ix 0 5) m).put PIN_EVT.EDGE (ix 0 5) 1
     let s : State := { s.setPin 0 5 { s.pin 0 5 with fresh := false } with tick := 16 }
     s.samples 0 5 = true ∧ s.funcNow 0 5 ≠ 6 ∧ s.funcNow 0 5 ≠ 9 ∧ s.get PIN_EVT.MODE (ix 0 5) = m ∧ s.get PIN_EVT.PRESC (ix 0 5) = 0 ∧
      (s.pin 0 5).fresh = false ∧ s.jobs = [] ∧ true ≠ s.is PIN_STATUS.FLT_LEVEL (ix 0 5) ∧
      bit (s.get PIN_EVT.EDGE (ix 0 5)) (if true then 0 else 1) = true) ∧
    0 < full.part.halls ∧ full.portOpen 3 = true := by
  decide

/-- The word of PSW_MAP0 of hall 0 that changes nothing. -/
def sameMap : Nat := ((List.range 8).map (fun i => full.stallOf 0 i * 16 ^ i)).sum

theorem witness_PinSwitch :
    (∀ p ∈ [(0, 15), (0, 14)], let new := p.2
     let v := sameMap - full.stallOf 0 p.1 + new
     0 < full.part.halls ∧ full.portOpen 3 = true ∧ full.atSwapEdge = false ∧ v < 2 ^ 32 ∧ (∀ i < 8, v / 16 ^ i % 16 = if i = p.1 then new else full.stallOf 0 (8 * 0 + i)) ∧
      new ≠ full.stallOf 0 p.1 ∧ (∀ i < 8, i ≠ p.1 → full.entryRefused 0 (8 * 0 + i) (full.stallOf 0 (8 * 0 + i)) = false) ∧
      (new = 15 → full.allStopped 0 (full.stallOf 0 p.1) = true ∧ full.allStopped 0 new = true ∧ Tab.find full.failovers 0 = none)) ∧
    (let s := full.setStallOf 0 0 9
     (∀ i < 8, (sameMap - full.stallOf 0 0 + 9) / 16 ^ i % 16 = s.stallOf 0 (8 * 0 + i)) ∧
      s.entryRefused 0 (8 * 0 + 0) (s.stallOf 0 (8 * 0 + 0)) = true) := by
  decide

/-- The trader with an operation waiting for its answer. -/
def asks (op : AtomOp) (f : State → State := id) : State :=
  f (with_ (fun tr => { tr with atom := some { op := op, addr := 0, write := false, word := 0, n := 8 } }))

theorem witness_TokenAcquisition :
    ((full.Inv ∧ callerNum (.trader tid) < 2 ^ 64 ∧ ∀ e < 256, Tab.find full.ecc (0xB, 0 * 256 + e) ≠ some true) ∧
      (asks (.acquire 5)).Inv ∧ ((asks (.acquire 5)).trader tid).nextOp = some (.live, .acquire 5) ∧
      ((asks (.acquire 5)).atomTurn tid).isSome = true ∧ (asks (.acquire 5)).hallBad 0 (8 * 5) 8 = false) ∧
    (let s := asks (.acquire 5) (fun s => { s with ecc := [((((Arr.hallMem 0).code), ((Arr.hallMem 0).base + 40) / 4), true)] })
     (s.trader tid).nextOp = some (.live, .acquire 5) ∧ (s.atomTurn tid).isSome = true ∧ s.hallBad 0 (8 * 5) 8 = true) ∧
    (full.get TK_HWORD.WORD (ix 7 15) = 0 ∧ 7 < full.part.halls ∧ full.portOpen (0x2000 + 16 * 7 + 15) = true ∧ full.clearing = false ∧ full.hallBad 7 (8 * 0) 8 = false ∧ 0x2000 + 15 < 2 ^ 64) ∧
    (full.tokWord 0 5 = 0 ∧ (full.setTokWord 0 5 0xFFFE).tokWord 0 5 = 0xFFFE ∧ (full.setTokWord 0 5 7).tokWord 0 5 = 7) ∧
    (let s := full.setToks 0 ((List.range 256).map (fun w => ⟨w + 9, 7, false⟩))
     ¬((s.toks 0).any (fun e => e.word == 5) = true ∨ (s.toks 0).length < 256)) :=
  ⟨⟨⟨⟨by decide, by decide⟩, by decide⟩, ⟨by decide, by decide⟩, by decide⟩, by decide, by decide, by decide, by decide⟩

theorem witness_TokenReleaseAndAbandon :
    (full.Inv ∧ ∀ e < 256, Tab.find full.ecc (0xB, 0 * 256 + e) ≠ some true) ∧
    (∀ force : Bool, ((asks (.release 5 force)).trader tid).nextOp = some (.live, .release 5 force) ∧
      ((asks (.release 5 force)).atomTurn tid).isSome = true) ∧
    (full.portOpen (0x2000 + 16 * 7 + 15) = true ∧ full.portOpen 3 = true ∧ full.clearing = false) ∧
    (let s := full.setToks 0 [⟨5, 0x2003, false⟩]
     (s.toks 0).find? (fun e => e.word == 5) = some ⟨5, 0x2003, false⟩ ∧ s.chitLoad < 4096 - 512) ∧
    (let s := (full.put Q_PROD.P_HOLD (ix 0 1023) 0x2003).put Q_CONS.C_HOLD (ix 0 1023) 0x2003
     s.get Q_PROD.P_HOLD (ix 0 1023) = 0x2000 + 3 ∧ s.get Q_CONS.C_HOLD (ix 0 1023) = 0x2000 + 3) ∧ 15 < 16 ∧ 7 < full.part.halls :=
  ⟨⟨⟨by decide, by decide⟩, by decide⟩, by decide, by decide, by decide, by decide, by decide, by decide⟩

/-- Hall 0 with queue 7 in hall memory: four elements of eight bytes at 64, `n` of them filled. -/
def queued (n : Nat) (f : State → State := id) : State :=
  f (((((full.put Q_BASE.BASE (ix 0 7) 64).put Q_CFG.SIZE_LOG2 (ix 0 7) 5).put Q_CFG.ELEM_LOG2 (ix 0 7) 3).set Q_CFG.VALID (ix 0 7) true).put
    Q_TAIL.TAIL (ix 0 7) n |>.put QH_SEL.QUEUE (ix 0 3) 7)

theorem witness_QueueProducers :
    (let s := queued 0
     3 < 16 ∧ 0 < s.part.halls ∧ s.portOpen (0x2000 + 16 * 0 + 3) = true ∧ s.clearing = false ∧ Tab.find s.ecc (0xA, 0 * 1024 + 7) = none ∧
      s.get QH_SEL.QUEUE (ix 0 3) = 7 ∧ s.is Q_CFG.RING_EN (ix 0 7) = false ∧ s.is Q_CFG.CHIT_EN (ix 0 7) = false ∧
      s.qValid 0 7 = true ∧ s.get Q_PROD.P_OWNER (ix 0 7) = 0 ∧ s.get Q_PROD.P_HOLD (ix 0 7) = 0 ∧ 1 ≤ s.qFree 0 7 ∧
      s.get Q_NUM.RSV_N (ix 0 7) < 65535) ∧
    (let s := queued 4
     s.qValid 0 7 = true ∧ s.get Q_PROD.P_OWNER (ix 0 7) = 0 ∧ ¬1 ≤ s.qFree 0 7) ∧
    (let s := queued 1 (fun s => s.put Q_PROD.P_HOLD (ix 0 7) 0x2003)
     s.qValid 0 7 = true ∧ s.get Q_PROD.P_OWNER (ix 0 7) = 0 ∧ s.get Q_PROD.P_HOLD (ix 0 7) = 0x2000 + 3) := by
  decide

/-- The trader waits for the request `n` of a pop from queue 7. -/
def popping (n : Nat) (f : State → State) : State :=
  queued 4 (fun s => f { s with hostPops := [⟨0, 7, .trader tid, n⟩] })

theorem witness_QueueConsumers :
    (let s := queued 4
     s.portOpen (0x2000 + 16 * 0 + 3) = true ∧ s.clearing = false ∧ Tab.find s.ecc (0xA, 0 * 1024 + 7) = none ∧
      s.get QH_SEL.QUEUE (ix 0 3) = 7 ∧ s.popHolds 0 7 = false ∧ s.qValid 0 7 = true ∧ s.get Q_CONS.C_OWNER (ix 0 7) = 0 ∧
      s.get Q_CONS.C_HOLD (ix 0 7) = 0 ∧ 1 ≤ s.qTakeable 0 7 ∧ s.get Q_NUM.TAKE_N (ix 0 7) < 65535) ∧
    (let s := queued 0
     s.popHolds 0 7 = false ∧ s.qValid 0 7 = true ∧ s.get Q_CONS.C_OWNER (ix 0 7) = 0 ∧ ¬1 ≤ s.qTakeable 0 7) ∧
    (let s := queued 1 (fun s => s.put Q_CONS.C_HOLD (ix 0 7) 0x2003)
     s.popHolds 0 7 = false ∧ s.qValid 0 7 = true ∧ s.get Q_CONS.C_HOLD (ix 0 7) = 0x2000 + 3) ∧
    (popping 9 id).popHolds 0 7 = true := by
  decide

/-- Queue 7 with the trader's operation on it. -/
def onQueue (n : Nat) (op : AtomOp) (f : State → State := id) : State :=
  queued n (fun s => f (s.setTrader tid { s.trader tid with running := true, atom := some { op := op, addr := 0, write := false, word := 0, n := 8 } }))

theorem witness_PushAndPop :
    (∀ n ∈ [3, 4], let s := onQueue n (.push 7 [1, 2, 3, 4, 5, 6, 7, 8])
     s.qValid 0 7 = true ∧ s.qElem 0 7 = 8 ∧ s.is Q_CFG.LOC (ix 0 7) = false ∧ s.is Q_CFG.RING_EN (ix 0 7) = false ∧
      s.is Q_CFG.CHIT_EN (ix 0 7) = false ∧ s.get Q_PROD.P_OWNER (ix 0 7) = 0 ∧ ([1, 2, 3, 4, 5, 6, 7, 8] : List Byte).length = 8 ∧
      Tab.find s.ecc (0xA, 0 * 1024 + 7) = none ∧ (s.trader tid).nextOp = some (.live, .push 7 [1, 2, 3, 4, 5, 6, 7, 8]) ∧
      (s.atomTurn tid).isSome = true ∧ s.get Q_NUM.RSV_N (ix 0 7) = 0 ∧
      (n = 3 → 1 ≤ s.qFree 0 7) ∧ (n = 4 → s.qFree 0 7 = 0)) ∧
    (let s := onQueue 3 (.push 7 [1, 2, 3, 4, 5, 6, 7, 8]) (fun s =>
       { s.put Q_CFG.ELEM_LOG2 (ix 0 7) 2 with ecc := [((((Arr.hallMem 0).code), ((Arr.hallMem 0).base + 64 + 12) / 4), true)] })
     s.qValid 0 7 = true ∧ s.qElem 0 7 = 4 ∧ Tab.find s.ecc (0xA, 0 * 1024 + 7) = none ∧ (s.atomTurn tid).isSome = true ∧
      s.get Q_NUM.RSV_N (ix 0 7) = 0 ∧ 1 ≤ s.qFree 0 7 ∧
      s.hallBad 0 (s.get Q_BASE.BASE (ix 0 7) + s.get Q_TAIL.TAIL (ix 0 7) % s.qCap 0 7 * 4) 4 = true) ∧
    ((onQueue 3 (.pop 7)).Inv ∧ (queued 4).Inv) ∧
    (∀ bad : Bool, let s := onQueue 1 (.pop 7) (fun s => if bad then { s with ecc := [((((Arr.hallMem 0).code), ((Arr.hallMem 0).base + 64) / 4), true)] } else s)
     s.get Q_CONS.C_OWNER (ix 0 7) = 0 ∧ (s.trader tid).nextOp = some (.live, .pop 7) ∧ (s.atomTurn tid).isSome = true ∧ s.is Q_CFG.LOC (ix 0 7) = false ∧ s.popHolds 0 7 = false ∧
      s.get Q_NUM.TAKE_N (ix 0 7) = 0 ∧ 1 ≤ s.qTakeable 0 7 ∧ s.hallBad 0 64 8 = bad) ∧
    (let s := onQueue 0 (.pop 7)
     s.popHolds 0 7 = false ∧ (s.atomTurn tid).isSome = true ∧ s.qTakeable 0 7 = 0) ∧
    (let r : HostReq := { id := 9, owner := .queue 0 7, hall := some 0, stream := 0, port := 0, addr := 0, len := 8 }
     let s := onQueue 4 (.pop 7) (fun s => { s with hostPops := [⟨0, 7, .trader tid, 9⟩], arrived := [⟨r, .data [1, 2, 3, 4, 5, 6, 7, 8]⟩] })
     (s.trader tid).nextOp = some (.live, .pop 7) ∧ s.agentWait = [] ∧ s.hostPops = [⟨0, 7, .trader tid, 9⟩] ∧
      s.answerOf 9 = some (.data [1, 2, 3, 4, 5, 6, 7, 8])) :=
  ⟨by decide, by decide, ⟨⟨by decide, by decide⟩, ⟨by decide, by decide⟩⟩, by decide, by decide, by decide⟩

theorem witness_QueueDescriptors :
    (0 < full.part.halls ∧ full.portOpen 3 = true ∧ full.clearing = false ∧ full.is Q_CFG.VALID (ix 0 7) = false ∧ (queued 1).is Q_CFG.VALID (ix 0 7) = true ∧
      (queued 1).clearing = false) ∧
    (let x := 2 ^ 31 + 4 * 2 ^ 24 + 2 * 2 ^ 20
     bit x 31 = true ∧ 4 ≤ x / 2 ^ 24 % 32 ∧ 2 ≤ x / 2 ^ 20 % 16 ∧ full.get Q_BASE.BASE (ix 0 7) % max (2 ^ 2) 8 = 0 ∧
      full.get Q_BASE.BASE (ix 0 7) + 2 ^ 4 ≤ 0x400000 ∧ full.qFilled 0 7 ≤ 2 ^ (4 - 2)) ∧
    ¬4 ≤ 2 ^ 31 / 2 ^ 24 % 32 := by
  decide

theorem witness_BellRings :
    full.portOpen (accPort (.host 3)) = true ∧ full.portOpen (accPort (.trader tid)) = true ∧ full.reachesHall (.trader tid) 0 = true ∧
      full.reachesHall (.host 3) 7 = true ∧
      ((with_ (fun tr => { tr with watch := some ⟨true, 15, false⟩ })).trader tid).watch = some ⟨true, 15, false⟩ ∧ tid.h < full.part.halls ∧
      (full.trader tid).watch = none := by
  decide

/-- Request 9 of an owner, issued to port 2. -/
def req (o : HostOwner) (write : Bool) : HostReq :=
  { id := 9, owner := o, hall := none, stream := 0x8000, port := 2, addr := 0x5000, len := 8, write := write, issued := true }

/-- The tile that waits for request 9, with job 5 fetching and a load of the trader waiting. -/
def waits (o : HostOwner) (write : Bool) : State :=
  let s := with_ (fun tr => { tr with loads := [⟨.d 0, [⟨⟨0x5000, false, 0, 8, [], some 9⟩, [], 0, false⟩], 0, false⟩] })
  { s with reqs := [req o write], hostPops := [⟨0, 7, .trader tid, 9⟩],
           jobs := [{ num := 5, ring := 0, htag := 0, fence := false, body := .claim [], state := .running, left := 8 }] }

theorem witness_HostResponses :
    (∀ o ∈ [HostOwner.order 1, .chit 1, .cart 0 0, .trader tid, .queue 0 7], let s := waits o false
     s.issued 9 = some (req o false) ∧ (List.replicate 8 (1 : Byte)).length = (req o false).len ∧ s.awaited (req o false) = true ∧
      (∀ q ∈ s.reqs, q.issued = true)) ∧
    (let s := waits (.job 5) false
     s.issued 9 = some (req (.job 5) false) ∧ ∃ j, s.job 5 = some j ∧ j.left = 8 ∧ j.body = .claim [] ∧ j.state.ended = false ∧ j.acked = false) ∧
    (∀ o ∈ [HostOwner.chit 1, .trader tid], let s := waits o true
     s.issued 9 = some (req o true) ∧ (req o true).write = true ∧ bit (s.get EV_PEND.PEND tid.ix) 9 = false) :=
  ⟨by decide, ⟨by decide, _, rfl, by decide⟩, by decide⟩

theorem witness_OrderRings :
    (∀ q ∈ full.reqs, q.post = none) ∧ (full.set WK_CTRL.DB_EN {} false).is WK_CTRL.DB_EN = false ∧ 15 < 16 ∧ full.orBusy = false ∧ full.portOpen 5 = true ∧
      (∀ n ∈ [5, 6], let s : State := { full.set WK_CTRL.DB_EN {} false with till := { full.till with clk := .lfo }, power := { full.power with step := .asleep n } }
       s.is WK_CTRL.DB_EN = false ∧ s.asleep = true ∧ s.faults = []) ∧
      full.get PWR_STATUS.STATE ≠ 2 ∧ (full.set OR_CTRL.EN (ix 15) true).is OR_CTRL.EN (ix 15) = true ∧ full.is OR_STATUS.STOPPED (ix 15) = false ∧
      full.get OR_HEAD.HEAD (ix 15) ≠ 1 % 4096 % full.orSize 15 := by
  decide

/-- A chit of ring 2. -/
def aChit (st : ChitStage) (e : Option Bool) : Chit := ⟨⟨0x40, 1, 2, 0⟩, 2, ⟨1, 2, none, 3, false, 2⟩, st, none, e⟩

theorem witness_ChitRings :
    (∀ q ∈ full.reqs, q.post = none) ∧
    (let s : State := { (full.set CR_CTRL.EN (ix 2) true).put CR_CTRL.SIZE_LOG2 (ix 2) 4 with chits := [aChit .waiting none] }
     s.nextChit 2 = some (aChit .waiting none) ∧ s.is CR_CTRL.EN (ix 2) = true ∧ s.is CR_STATUS.STOPPED (ix 2) = false ∧
      (s.get CR_WRITE.WRITE (ix 2) + 1) % s.crSize 2 ≠ s.get CR_READ.READ (ix 2) % s.crSize 2 ∧ s.asleep = false ∧ s.portOpen 5 = true ∧
      (s.chits.map (fun c => c.id)).Nodup ∧ ∀ c ∈ s.chits, c.body.ends = false) ∧
    (let s : State := { full with chits := [aChit .waiting (some true)] }
     s.nextChit 2 = some (aChit .waiting (some true)) ∧ s.asleep = false ∧ s.chitLoad < 4096 - 512) ∧
    (let s : State := { full with arrived := [⟨req (.chit 2) true, .ack⟩] }
     s.arrived = [⟨req (.chit 2) true, .ack⟩] ∧ (req (.chit 2) true).owner = .chit 2) := by
  decide

theorem witness_ChitMasks : full.portOpen 5 = true ∧ full.get CHIT_MASK_SET.MASK (ix 3) < 2 ^ 32 := by decide

/-- Lane 0 of hall 0 in a mode and a state, at a late tick, changed by `f`. -/
def laned (mode st : Nat) (f : Lane → Lane := id) : State :=
  let s : State := { (full.put LN_CTRL.MODE (ix 0 0) mode).put LN_STATUS.STATE (ix 0 0) st with tick := 4000000000 }
  s.setLane 0 0 (f (s.lane 0 0))

theorem witness_LaneWrites :
    full.portOpen 5 = true ∧ full.inLane 0 4 = false ∧ full.inLane 8 0 = false ∧
      (∀ st ∈ [0, 3], let s := laned 1 st
       s.inLane 0 0 = true ∧ s.get LN_STATUS.STATE (ix 0 0) = st ∧ (s.lane 0 0).training = none) ∧
      (laned 1 2).get LN_STATUS.STATE (ix 0 0) = 2 ∧ 9 * 2 ^ 28 / 2 ^ 28 ≤ 9 ∧ 10 * 2 ^ 28 < 2 ^ 32 := by
  decide

/-- Lanes 0 and 1 of hall 0 as members of each other, lane 0 up. -/
def paired : State := ((laned 1 2).put LN_GROUP.MEMBERS (ix 0 0) 3).put LN_GROUP.MEMBERS (ix 0 1) 3 |>.put LN_CTRL.MODE (ix 0 1) 1

theorem witness_LaneWrites_disagreement :
    paired.inLane 0 1 = true ∧ paired.get LN_STATUS.STATE (ix 0 1) = 0 ∧ paired.laneUp 0 0 = true ∧ paired.group 0 0 ≠ [0] ∧
      (paired.lane 0 0).misfit = false ∧
      (match exec (.lnGroupWrite 5 0 1 (2 * 2 ^ 24)) paired with | .next s' => s'.group 0 0 | _ => []) = [0] := by
  decide

/-- A LINK block with its CRC. -/
def linkBlk (member : Nat) : List Byte :=
  let b := toBytes 1 1 ++ [9, 2, BitVec.ofNat 8 member] ++ List.replicate 26 0
  b ++ toBytes 2 (crc16 b)

set_option maxRecDepth 20000 in
theorem witness_LinkBlocks :
    (∀ sent ∈ [4096, 20480], let s := laned 1 2 (fun l => { l with sent := sent })
     s.laneOn 0 0 = true ∧ s.eplas 0 0 = true ∧ s.laneUp 0 0 = true ∧ s.sending 0 0 = true ∧ s.posCome 0 0 = true ∧
      s.is LN_CTRL.LOOPBACK (ix 0 0) = false ∧ s.faults = [] ∧ (sent = 4096 → 4096 ≤ sent - (s.lane 0 0).linkAt ∧ sent % 20480 ≠ 0) ∧
      (sent = 20480 → sent % 20480 = 0)) ∧
    ((laned 1 2).set LN_CTRL.LOOPBACK (ix 0 0) true).is LN_CTRL.LOOPBACK (ix 0 0) = true ∧
    (laned 1 2 (fun l => { l with txFrom := 4000000000, sent := 1 })).posCome 0 0 = false ∧ (laned 1 1).lnState 0 0 = 1 ∧
    (field (List.replicate 32 (0x55 : Byte)) 0 1 ∉ [0, 1, 0x10, 0x11, 0xE0] ∧
      field (toBytes 1 1 ++ List.replicate 31 (0x55 : Byte)) 0 1 = 1 ∧
      field (toBytes 1 1 ++ List.replicate 31 (0x55 : Byte)) 30 2 ≠ crc16 ((toBytes 1 1 ++ List.replicate 31 (0x55 : Byte)).take 30)) ∧
    (∀ m ∈ [0, 3], field (linkBlk m) 0 1 = 1 ∧ field (linkBlk m) 30 2 = crc16 ((linkBlk m).take 30)) ∧
    (((laned 1 2).group 0 0).length ≤ 1 ∧ (laned 1 2).is FT_WIND.LANE_EMPTY (ix 0) = false) := by
  decide

/-- A frame of code `c` for stream 5 with LEN `n` and TILL 77. -/
def frameOf (c n : Nat) : List Byte :=
  let b := toBytes 1 c ++ toBytes 1 3 ++ toBytes 2 5 ++ toBytes 2 n ++ toBytes 2 7 ++ toBytes 8 5 ++ toBytes 8 77 ++ toBytes 2 0
  b ++ toBytes 2 (crc16 b) ++ List.replicate (4 + n) 0

/-- A receive buffer of `n` beats. -/
def rxOf (n : Nat) (l : Lane) : Lane := { l with rx := List.replicate n ⟨[], true, true, 0, false, 0, 0, none⟩ }

set_option maxRecDepth 20000 in
theorem witness_ReceivedFrames :
    (∀ n ∈ [4094, 4095], let s := (laned 1 2 (rxOf n)).set STREAM.VALID (ix 0 0 5) true
     let bs := frameOf 0x10 32
     s.laneOn 0 0 = true ∧ s.is LN_CTRL.LOOPBACK (ix 0 0) = false ∧ s.eplas 0 0 = true ∧ s.laneUp 0 0 = true ∧ field bs 0 1 = 0x10 ∧ field bs 26 2 = crc16 (bs.take 26) ∧
      field bs 4 2 ≤ 16384 ∧ s.is STREAM.VALID (ix 0 0 (field bs 2 2 % 4096)) = true ∧
      (n = 4094 → n + (32 + 32 + 31) / 32 ≤ 4096) ∧ (n = 4095 → 4096 < n + (32 + 32 + 31) / 32)) ∧
    (laned 1 2).is STREAM.VALID (ix 0 0 5) = false ∧
    (field (List.replicate 64 (0x10 : Byte)) 0 1 = 0x10 ∧ field (List.replicate 64 (0x10 : Byte)) 26 2 ≠ crc16 ((List.replicate 64 (0x10 : Byte)).take 26)) ∧
    (∀ m ∈ [3, 9], (laned m 2).ethernet 0 0 = true ∧ (laned m 2).laneUp 0 0 = true) ∧
    ((laned 6 2).get LN_CTRL.MODE (ix 0 0) = 6 ∧ 0 < 1) ∧
    ((laned 1 2 (fun l => { l with active := some 5 })).lane 0 0).active = some 5 := by
  decide

set_option maxRecDepth 20000 in
theorem witness_AxisSync :
    (let s := (laned 1 2).set LN_STATUS.IN_SERVICE (ix 0 0) true |>.set LN_SYNC_CTRL.EN (ix 0 0) true
     s.laneOn 0 0 = true ∧ s.eplas 0 0 = true ∧ s.laneUp 0 0 = true ∧ s.is LN_STATUS.IN_SERVICE (ix 0 0) = true ∧
      s.is LN_SYNC_CTRL.EN (ix 0 0) = true ∧ (s.lane 0 0).syncAt + s.syncPeriod 0 0 ≤ s.tick) ∧
    (laned 1 2).is LN_SYNC_CTRL.EN (ix 0 0) = false ∧
    (∀ ax ∈ [none, some 15], let s := laned 1 2 (fun l => { l with syncQ := [ax], sent := 5 })
     (s.lane 0 0).syncQ = [ax] ∧ (s.lane 0 0).rest = [] ∧ (s.lane 0 0).cur = none ∧ s.posCome 0 0 = true ∧ (s.lane 0 0).sent % 20480 ≠ 0 ∧
      (s.lane 0 0).sent < (s.lane 0 0).linkAt + 4096 ∧ s.is LN_CTRL.LOOPBACK (ix 0 0) = false ∧ (s.lane 0 0).loopSync = [] ∧ s.sbIn 0 0 3 = false) ∧
    (let bs := frameOf 0x11 32
     field bs 0 1 = 0x11 ∧ 5 + 64 < (laned 1 2).tick ∧ (laned 1 2).is LN_CTRL.LOOPBACK (ix 0 0) = false ∧ field bs 26 2 = crc16 (bs.take 26) ∧ field bs 4 2 ≤ 16384) ∧
    (let bs := List.replicate 64 (0x11 : Byte)
     field bs 0 1 = 0x11 ∧ ¬field bs 26 2 = crc16 (bs.take 26)) ∧
    (let bs := (frameOf 0x11 32).take 36 ++ toBytes 8 9 ++ toBytes 8 10 ++ toBytes 8 7 ++ toBytes 4 0
     let s := laned 1 2 (fun l => { l with syncSeq := some 7, syncSent := [(9, 8), (3, 7)] })
     (field bs 36 8 : Int) ≠ 0 ∧ (s.lane 0 0).seqAt 5 = some (field bs 52 2) ∧ s.get LN_SYNC_STATUS.EXCH (ix 0 0) = 0) := by
  decide

theorem witness_LaneStates :
    (∀ job ∈ [0xFFFF, 5], let s : State := { laned 1 1 (fun l => { l with training := some (3999999999, job), peerMode := some 1 }) with
        jobs := [{ num := 5, ring := 0, htag := 0, fence := false, body := .trainLane 0, state := .running }] }
     s.laneOn 0 0 = true ∧ (s.lane 0 0).training = some (3999999999, job) ∧ s.tick - 3999999999 < 3200000000 ∧ s.till.refUp = true ∧
      (s.lane 0 0).peerMode = some (s.get LN_CTRL.MODE (ix 0 0)) ∧ s.chitLoad < 4096 - 512 ∧ (s.job 5).isSome = true) ∧
    (let s := laned 1 1 (fun l => { l with training := some (800000000, 5) })
     (s.lane 0 0).training = some (800000000, 5) ∧ 3200000000 ≤ s.tick - 800000000) ∧
    ((laned 1 2).lane 0 0).training = none ∧
    (∀ b : Bool, let s := (laned 1 2 (fun l => { l with unc := [1, 2] })).set LN_CTRL.AUTO_RETRAIN (ix 0 0) b |>.put LN_CTRL.FEC_LIMIT (ix 0 0) 2
     s.laneUp 0 0 = true ∧ s.is FT_WIND.LANE_EMPTY (ix 0) = false ∧ s.faults = [] ∧ s.eplas 0 0 = true ∧
      65536 * (blockTicks (s.lnMode 0 0)).1 ≤ (s.tick - (s.lane 0 0).linkRxAt) * (blockTicks (s.lnMode 0 0)).2 ∧
      s.get LN_CTRL.FEC_LIMIT (ix 0 0) ≠ 0 ∧ s.get LN_CTRL.FEC_LIMIT (ix 0 0) ≤ (s.lane 0 0).unc.length ∧ s.is LN_CTRL.AUTO_RETRAIN (ix 0 0) = b) ∧
    (let s := laned 1 2 (fun l => { l with txFrom := 4000000000, sent := 1 })
     let s := ((s.put PIN_CFG.FUNC (ix 0 9) 8).put PIN_CFG.SEL (ix 0 9) 3).set PIN_STATUS.LEVEL (ix 0 9) true
     s.laneUp 0 0 = true ∧ s.posCome 0 0 = false ∧ (s.lane 0 0).loopSync = [] ∧ s.sbIn 0 0 3 = true) := by
  decide

/-- The receive thread of lane 0 of hall 0 runs the microword `w`. -/
def micro (w : Nat) (f : State → State := id) : State :=
  let s := (laned 1 2).put TH_STATE.STATE (ix 0 0 0) 1
  f { s with mem := Memory.writeBytes s.mem (Arr.cstore 0 0).base (toBytes 18 w) }

set_option maxRecDepth 20000 in
theorem witness_Microwords :
    (∀ w ∈ [1, 2 ^ 69, 2 ^ 75, 2 ^ 106 + 2 ^ 111 * 16 + 2 ^ 105], let s := micro w
     s.laneOn 0 0 = true ∧ s.thRuns 0 0 0 = true ∧ s.inTrap 0 0 0 = false ∧ s.get TH_TRAP.PEND (ix 0 0 0) = 0 ∧ s.microWord 0 0 0 = w ∧
      s.errorIn (.cstore 0 0) (32 * s.get TH_STATE.MPC (ix 0 0 0)) 18 = none ∧ microLegal w 0 false = decide (w ≠ 1) ∧
      (s.thread 0 0 0).next ≤ s.tick / 20 ∧ s.yields 0 0 0 = false) ∧
    (let s := micro (2 ^ 75) (fun s => (((s.put TH_STATE.STATE (ix 0 0 1) 1).set Q_CFG.VALID (ix 0 0) true).put Q_CFG.SIZE_LOG2 (ix 0 0) 8).put
        Q_CFG.ELEM_LOG2 (ix 0 0) 5)
     s.thRuns 0 0 1 = true ∧ s.inTrap 0 0 1 = false ∧ s.get TH_TRAP.PEND (ix 0 0 1) = 0 ∧ s.yields 0 0 1 = true) ∧
    (let o := ((micro 0).setThread 0 0 0 { wroteAt := 200000000, wrote := [(12, 5)] }).thread 0 0 0
     o.wroteAt = (micro 0).tick / 20 ∧ Tab.find o.wrote 12 = some 5) ∧
    (let s := (micro 0).setThread 0 0 0 { next := 400000000 }
     s.thRuns 0 0 0 = true ∧ s.tick / 20 < (s.thread 0 0 0).next) ∧
    (mLaneop (2 ^ 69) = 1 ∧ ((micro (2 ^ 69)).lane 0 0).rx = []) ∧
    (let s := micro (2 ^ 75) (fun s => { ((((s.set Q_CFG.VALID (ix 0 0) true).set Q_CFG.LOC (ix 0 0) true).put Q_CFG.SIZE_LOG2 (ix 0 0) 8).put
        Q_CFG.ELEM_LOG2 (ix 0 0) 5) with
        reqs := [{ id := 1, owner := .porter 0 0 0, hall := some 0, stream := 0, port := 0, addr := 0, len := 4065, data := List.replicate 4065 0, write := true }] })
     mLaneop (2 ^ 75) = 0 ∧ mStamp (2 ^ 75) = 0 ∧ mQop (2 ^ 75) = 1 ∧ (s.thread 0 0 0).qsel = 0 ∧
      s.portPushReason 0 0 0 0 = 0 ∧ s.is Q_CFG.LOC (ix 0 0) = true ∧ s.postRoom 0 0 = false) ∧
    (let w := 2 ^ 106 + 2 ^ 111 * 16 + 2 ^ 105
     usesBsel w = false ∧ mBmove w = 0 ∧ mCrc w = 0 ∧ mQop w = 0 ∧ mMatch w = 0 ∧ mLaneop w = 0 ∧ mLcnt w = 0 ∧ mEvt w = 0 ∧ mSrcA w ≤ 2 ∧ mSrcB w ≤ 2 ∧
      16 ≤ mDst w ∧ mSetf w = true ∧ mAlu w = 1) := by
  decide

theorem witness_PorterControl :
    ((micro 0).Inv ∧ full.Inv ∧ (micro 0).portOpen 2 = true ∧ full.portOpen 2 = true ∧ full.inLane 0 0 = true) ∧
    (let s := (micro 0).put TH_TRAP.PEND (ix 0 0 0) 128
     s.inLane 0 0 = true ∧ s.laneOn 0 0 = true ∧ s.thRuns 0 0 0 = true ∧ s.inTrap 0 0 0 = false ∧ (s.thread 0 0 0).next ≤ s.tick / 20 ∧
      microNext (s.get TH_TRAP.PEND (ix 0 0 0)) = some 7) ∧
    (∀ v ∈ [0, 1], let s := full.wr ((ix 0 0).reg .CS_VERSION) v
     s.thRuns 0 0 0 = false ∧ s.thRuns 0 0 1 = false ∧ s.rd ((ix 0 0).reg .CS_VERSION) = v ∧ s.clearing = false) ∧
    ((micro 0).thRuns 0 0 0 = true ∧ (micro 0).clearing = false) ∧
    (let s := full.setLane 0 0 { full.lane 0 0 with csWord := [(64, 1), (68, 2), (72, 3), (76, 4)] }
     Tab.find (s.lane 0 0).csWord (32 * 2) = some 1 ∧ Tab.find (s.lane 0 0).csWord (32 * 2 + 4) = some 2 ∧
      Tab.find (s.lane 0 0).csWord (32 * 2 + 8) = some 3 ∧ Tab.find (s.lane 0 0).csWord (32 * 2 + 12) = some 4 ∧ s.thRuns 0 0 0 = false ∧
      s.thRuns 0 0 1 = false) :=
  ⟨⟨⟨by decide, by decide⟩, ⟨by decide, by decide⟩, by decide⟩, by decide, by decide, by decide, by decide⟩

/-- Channel 0 of hall 0 as `a`. -/
def carted (a : Chan) : State := full.setChan 0 0 a

theorem witness_CartCommands :
    (full.cartOn 7 31 = true ∧ full.portOpen 2 = true ∧ (full.chan 7 31).act = false ∧ full.is CE_STATUS.HALT (ix 7) = false ∧ (full.chan 7 31).job = 0 ∧
      ∀ n < 32, (full.chan 0 n).act = false ∧ (full.chan 0 n).out = [] ∧ (full.chan 0 n).fins = []) ∧
    (∀ out ∈ [[], [(0, [])]], let s := carted { act := true, desc := some ⟨0, 0, 64, 0x4000, 0⟩, out := out }
     let a := s.chan 0 0
     a.act = true ∧ s.mayComplete 0 0 = false ∧ a.writing = none ∧ a.aborting = false ∧ a.ended = false ∧ a.taken = [] ∧ a.rsvd = [] ∧ a.dqHeld = false ∧ a.job = 0 ∧ s.filled 0 0 = [] ∧
      a.reading = none ∧ s.is CH_CTRL.SWB_EN (ix 0 0) = false ∧ s.chitLoad < 4096 - 512 ∧
      (out = [] → a.out.any (fun o => o.1 == a.seq) = false) ∧ (out ≠ [] → a.out.any (fun o => o.1 == a.seq) = true)) ∧
    (∀ st ∈ [2, 3, 4], let s := (carted { act := true, desc := some ⟨0, 0, 64, 0x4000, 0⟩, out := [(0, [])] }).put CH_STATUS.STATE (ix 0 0) st
     s.get CH_STATUS.STATE (ix 0 0) = st ∧ s.mayComplete 0 0 = false) ∧
    (let s := carted { act := true, desc := some ⟨0, 0, 64, 0x4000, 0⟩, rd := 64 }
     (s.chan 0 0).act = true ∧ s.mayComplete 0 0 = true) ∧
    (let s := carted { act := true, ended := true }
     s.mayComplete 0 0 = false ∧ (s.chan 0 0).ended = true ∧ s.is CH_CTRL.DQ_EN (ix 0 0) = false) ∧
    (let s := carted { act := true, begun := some (full.tick / full.hallCycle) }
     s.cartBegan (s.chan 0 0) = true ∧ s.is CE_STATUS.HALT (ix 0) = false ∧
      (carted { act := true }).cartBegan ((carted { act := true }).chan 0 0) = false) := by
  decide

/-- A register descriptor of `cnt` bytes from `src` to 0x2000 with windows for 0x100 to 0xFFF and for 0x2000 to 0x2FFF. -/
def copying (src cnt : Nat) : State :=
  let s := carted { act := true, load := some .reg }
  let s := ((s.put CH_SRC.SRC (ix 0 0) src).put CH_DST.DST (ix 0 0) 0x2000).put CH_CNT.CNT (ix 0 0) cnt
  let s := s.put CH_FLAGS.DFLAGS (ix 0 0) (7 * 2 ^ 24 + 1 * 2 ^ 20 + 2 ^ 14)
  let s := ((s.set CE_WIN_BASE.EN (ix 0 1) true).put CE_WIN_BASE.BASE (ix 0 1) 0x100).put CE_WIN_LAST.LAST (ix 0 1) 0xFFF
  ((s.set CE_WIN_BASE.EN (ix 0 7) true).put CE_WIN_BASE.BASE (ix 0 7) 0x2000).put CE_WIN_LAST.LAST (ix 0 7) 0x2FFF

theorem witness_CartDescriptors :
    ∀ p ∈ [(0x100, 0xF00), (0x100, 0xF08), (0xF8, 8), (0x100, 4), (0x100, 0)], let s := copying p.1 p.2
    let i := ix 0 0
    let a := s.chan 0 0
    s.cartOn 0 0 = true ∧ a.act = true ∧ a.aborting = false ∧ a.load = some .reg ∧ a.waitsSrc = false ∧ a.out = [] ∧ a.fins = [] ∧ a.dqHeld = false ∧
      a.job = 0 ∧ a.reading = none ∧ s.filled 0 0 = [] ∧ s.is CH_CTRL.PAUSE i = false ∧ s.is CH_CTRL.SWB_EN i = false ∧ s.get CH_NEXT.NEXT i = 0 ∧
      s.get CH_FLAGS.DFLAGS i = 7 * 2 ^ 24 + 1 * 2 ^ 20 + 2 ^ 14 ∧ s.get CH_SRC.SRC i = p.1 ∧ s.get CH_CNT.CNT i = p.2 ∧
      s.is CH_CTRL.DQ_EN i = false ∧ s.is CE_WIN_BASE.EN (ix 0 1) = true ∧ s.is CE_WIN_BASE.LOC (ix 0 1) = false ∧
      s.get CE_WIN_BASE.BASE (ix 0 1) = 0x100 ∧ s.get CE_WIN_LAST.LAST (ix 0 1) = 0xFFF ∧ s.get CE_WIN_LAST.LAST (ix 0 7) = 0x2FFF := by
  decide

theorem witness_CartBursts :
    (let s := carted { act := true, desc := some ⟨0x1F8, 0x200, 0x400, 0x4000, 0⟩, credit := 8 }
     s.cartOn 0 0 = true ∧ (s.chan 0 0).desc = some ⟨0x1F8, 0x200, 0x400, 0x4000, 0⟩ ∧ (s.chan 0 0).reading = none ∧
      s.cartNext 0 = some 0 ∧ s.errorIn (.hallMem 0) 0x1F8 8 = none ∧ s.get CH_CTRL.RATE (ix 0 0) = 0 ∧
      (s.put CH_CTRL.RATE (ix 0 0) 9).get CH_CTRL.RATE (ix 0 0) ≠ 0 ∧ (s.put CH_CTRL.RATE (ix 0 0) 9).cartNext 0 = some 0) ∧
    (full.cartNext 0 ≠ some 0 ∧ (full.chan 0 0).reading = none) ∧
    (let s := (carted { act := true, desc := some ⟨0x1F8, 0x200, 0x400, 0x4000, 0⟩ }).setFifo 0 [{ c := 0, off := 8, data := [1, 2] }]
     s.fifo 0 = [{ c := 0, off := 8, data := [1, 2] }] ∧ (s.chan 0 0).writing = none ∧ (s.chan 0 0).job = 0 ∧ 8 + ([1, 2] : List Byte).length ≠ 0x400 ∧
      (⟨0x1F8, 0x200, 0x400, 0x4000, 0⟩ : Desc).dstQ = false ∧ (⟨0x1F8, 0x200, 0x400, 0x4000, 0⟩ : Desc).dstHost = false) ∧
    (let s := carted { act := true, out := [(3, []), (4, [7])] }
     (s.chan 0 0).out = (3, []) :: [(4, [7])] ∧ (s.chan 0 0).fins = []) ∧
    (let f : Fin := ⟨3, false, 3, none, none, some ⟨1, 77, 5, 6, 7, 0, true⟩, true⟩
     ((carted { act := true, fins := [f] }).chan 0 0).fins = [f] ∧ f.wrote = true ∧ ∃ r, f.report = some r ∧ r.ends = true ∧ r.job = 0) ∧
    (∀ b : Bool, let s := queued 1 (fun s => s.setChan 0 0 { act := true, desc := some (if b then ⟨7, 0x200, 8, 4, 0⟩ else ⟨0x200, 7, 8, 8, 0⟩), waitsSrc := b, waitsDst := !b })
     let a := s.chan 0 0
     a.load = none ∧ a.aborting = false ∧ a.fins = [] ∧ s.is CH_CTRL.PAUSE (ix 0 0) = false ∧ a.taken.length < 8 / s.qElem 0 7 ∧ a.rsvd.length < 8 / s.qElem 0 7 ∧
      s.popHolds 0 7 = false ∧ s.qValid 0 7 = true ∧ s.get Q_CONS.C_OWNER (ix 0 7) = 0 ∧ s.get Q_CONS.C_HOLD (ix 0 7) = 0 ∧ 1 ≤ s.qTakeable 0 7 ∧
      s.get Q_NUM.TAKE_N (ix 0 7) < 65535 ∧ s.get Q_PROD.P_OWNER (ix 0 7) = 0 ∧ s.get Q_PROD.P_HOLD (ix 0 7) = 0 ∧ 1 ≤ s.qFree 0 7 ∧
      s.get Q_NUM.RSV_N (ix 0 7) < 65535 ∧ (⟨7, 0x200, 8, 4, 0⟩ : Desc).srcQ = true ∧ (⟨0x200, 7, 8, 8, 0⟩ : Desc).dstQ = true) ∧ full.Inv :=
  ⟨by decide, by decide, by decide, by decide, ⟨by decide, by decide, _, rfl, by decide⟩, by decide, by decide, by decide⟩

/-- `n` zero bytes, and bytes filled up with zeros to `n`. -/
def zeros (n : Nat) : List Byte := List.replicate n 0
def filled (n : Nat) (b : List Byte) : List Byte := b ++ zeros (n - b.length)

/-- An image with the sections of a list: type, hall, unit and content, each from a multiple of 64 on. -/
def imageOf (flags : Nat) (secs : List (Nat × Nat × Nat × List Byte)) : List Byte :=
  let n := secs.length
  let first := (64 + 16 * n + 63) / 64 * 64
  let offs := (secs.foldl (fun (x : Nat × List Nat) s => ((x.1 + s.2.2.2.length + 63) / 64 * 64, x.2 ++ [x.1])) (first, [])).2
  let body := (secs.zip offs).foldl (fun b so => filled so.2 b ++ so.1.2.2.2) ([] : List Byte)
  let table := (secs.zip offs).flatMap (fun so => toBytes 1 so.1.1 ++ toBytes 1 so.1.2.1 ++ toBytes 1 so.1.2.2.1 ++ [0] ++
    toBytes 4 so.2 ++ toBytes 4 so.1.2.2.2.length ++ toBytes 4 (crc32c so.1.2.2.2))
  let head := toBytes 4 0x4E594C46 ++ toBytes 2 1 ++ toBytes 2 n ++ toBytes 4 (max body.length (64 + 16 * n)) ++ [0x48, 1] ++
    toBytes 2 flags ++ zeros 8 ++ toBytes 4 64 ++ zeros 36
  head ++ table ++ body.drop (64 + 16 * n)

/-- A budget of halls, and of stalls with their supervisor masks. -/
def budget (hs : List Nat) (st : List (Nat × Nat × Nat)) : List Byte :=
  zeros 10 ++ [BitVec.ofNat 8 hs.length, BitVec.ofNat 8 st.length] ++ zeros 20 ++ hs.flatMap (fun h => toBytes 1 h ++ zeros 7) ++
    st.flatMap (fun x => toBytes 1 x.1 ++ toBytes 1 x.2.1 ++ toBytes 2 x.2.2 ++ zeros 140)

/-- A job of number 9. -/
def job9 (b : JobBody) (st : JobState := .running) : Job := { num := 9, ring := 2, htag := 5, fence := false, body := b, state := st }

/-- Job 9 at work, changed by `f`. -/
def at_work (b : JobBody) (f : Job → Job := id) (g : State → State := id) : State := g { full with jobs := [f (job9 b)] }

/-- A load of 320 bytes: hall data for hall 0 and a budget. -/
def anImage : List Byte := imageOf 0 [(4, 0, 0, toBytes 8 0x100 ++ [1, 2, 3, 4, 5, 6, 7, 8]), (0xF, 0, 0, budget [0] [])]

/-- What step 1 of that load reads: the header, the section table and the budget. -/
def firstBytes : List Byte := anImage.take 96 ++ anImage.drop 192

set_option maxRecDepth 20000 in
theorem witness_ImageLoads :
    (∀ bytes ∈ [firstBytes, firstBytes.set 0 0], let s := at_work (.loadImage 0 anImage.length 0) (fun j => { j with got := bytes })
     s.faults = [] ∧ (∀ q ∈ s.reqs, q.post = none) ∧
      (∃ j, s.job 9 = some j ∧ j.state = .running ∧ j.acked = false ∧ j.cancelPend = false ∧ j.suspPend = false ∧ j.left = 0 ∧ j.stage = 0 ∧ j.got = bytes) ∧
      (if bytes = firstBytes then s.refuseImage { job := 9, shadow := false, buf := (stepOne bytes anImage.length).1 } anImage.length = none
       else field bytes 0 4 ≠ 0x4E594C46)) ∧
    (let i : Image := { job := 9, shadow := false, buf := (stepOne firstBytes anImage.length).1 }
     let placed (i : Image) (x : Sect) (bytes : List Byte) : Image := { i with buf := placeAt i.buf x.off bytes, taken := i.taken + 1 }
     ∃ sec, i.secs[i.taken]? = some sec ∧ sec.len ≠ 0 ∧ sec.ty = 4 ∧ 8 ≤ sec.len ∧ i.job = 9 ∧ i.committed = false ∧
      (let bytes := (anImage.drop sec.off).take sec.len
       let i' := placed i sec bytes
       crc32c bytes = sec.crc ∧ bytes.length = sec.len ∧ i'.taken < i'.secs.length ∧ i'.rangeOk sec = true) ∧
      ((placed i sec (zeros sec.len)).contentOk sec = true ∧ (placed i sec (zeros sec.len)).rangeOk sec = true ∧ crc32c (zeros sec.len) ≠ sec.crc) ∧
      (placed i sec (List.replicate sec.len 255)).contentOk sec = true ∧ (placed i sec (List.replicate sec.len 255)).rangeOk sec = false) ∧
    (let buf := imageOf 0 [(3, 0, 0, zeros 16), (0xF, 0, 0, budget [0] [])]
     let i : Image := { job := 9, shadow := false, buf := (stepOne (buf.take 96 ++ buf.drop 192) buf.length).1 }
     ∃ sec, i.secs[i.taken]? = some sec ∧
      ({ i with buf := placeAt i.buf sec.off (List.replicate sec.len 255), taken := 1 } : Image).contentOk sec = false) ∧
    (let i : Image := { job := 9, shadow := false, buf := (stepOne firstBytes anImage.length).1 }
     let s := at_work (.loadImage 0 anImage.length 0) (fun j => { j with stage := 1 }) (fun s => { s with images := [i] })
     s.image 9 = some i) ∧
    (at_work (.loadImage 0 0 0)).Inv := by
  refine ⟨?_, ⟨_, rfl, by decide⟩, ⟨_, rfl, by decide⟩, by decide, ⟨by decide, by decide⟩⟩
  intro bytes h
  simp only [List.mem_cons, List.not_mem_nil, or_false] at h
  rcases h with rfl | rfl <;> exact ⟨by decide, by decide, ⟨_, rfl, by decide⟩, by decide⟩

/-- The image of job 8: stall 3 of hall 0 with its trader actions, and barrow 4. -/
def swapImage : List Byte :=
  imageOf 2 [(0xF, 0, 0, budget [0] [(0, 3, 5)]),
    (2, 0, 3, zeros 8 ++ (List.range 16).flatMap (fun t => zeros 34 ++ [BitVec.ofNat 8 (t % 2), 0] ++ toBytes 2 100 ++ zeros 2)),
    (5, 0, 4, zeros 264 ++ toBytes 4 5 ++ zeros 132)]

/-- The tile at tick 1,000 on the PLL with the swap `w` of job 9. -/
def swapping (w : Swap) (f : State → State := id) : State :=
  f { full with tick := 1000, till := { full.till with clk := .pll }, swaps := [w], jobs := [job9 (.swapAt 8 0 0 0 0)],
                images := [{ job := 8, shadow := true, buf := swapImage, taken := 3, committed := true }] }

set_option maxRecDepth 20000 in
theorem witness_SwapsAndWindDownTimeout :
    (let w : Swap := { job := 9, loaded := 8, marks := [], till := some 2024 }
     (swapping w).swaps = [w] ∧ w.switched = false ∧ w.inst = none ∧ w.till = some 2024 ∧ 2024 ≤ (swapping w).tick + 1024 ∧ 2024 < 2 ^ 64) ∧
    (let w : Swap := { job := 9, loaded := 8, marks := [], till := some 1000 }
     (swapping w).swaps = [w] ∧ 1000 ≤ (swapping w).tick ∧ 1000 < 2 ^ 64 ∧ (∃ j, (swapping w).job 9 = some j ∧ j.acked = false) ∧
      (∃ i, (swapping w).image 8 = some i ∧ ∀ x ∈ i.secs, x.ty ≠ 8) ∧ (swapping w).faults = []) ∧
    (let w : Swap := { job := 9, loaded := 8, marks := [], inst := some 968, switched := true, stalls := [(0, 3)] }
     let s := swapping w
     s.swaps = [w] ∧ (0, s.get STL_SELF.ROLE (ix 0 3)) ∈ w.stalls ∧ w.inst.getD 0 + 32 ≤ s.tick ∧ s.roleStall 0 3 = some 3 ∧
      ∃ i, s.image 8 = some i ∧ (i.sec 2 0 3).isSome = true ∧ (i.stallRec 0 3).isSome = true) ∧
    (let s := swapping { job := 9, loaded := 8, marks := [] } (fun s => s.setBarrow 0 4 { s.barrow 0 4 with selAt := some 900 })
     (s.barrow 0 4).swapAt = none ∧ (s.barrow 0 4).selAt = some 900 ∧ s.clkRun = true ∧ s.cycleStart 0 4 (s.cycleFrom 0 4 900) ≤ s.tick ∧
      ∀ k < 4, Tab.find s.crWas ⟨0, 4, k⟩ = none) ∧
    (∀ pg ∈ [false, true],
     let w : Swap := { job := 9, loaded := 8, marks := [], inst := some 868, switched := true, stalls := [(0, 3)], barrows := [(0, 4)] }
     let s := swapping w (fun s => (s.setBarrow 0 4 { s.barrow 0 4 with swapAt := some 900, swapPg := pg }).put HS_BARROW.ACTIVE (ix 0 4) 8)
     (s.barrow 0 4).swapAt = some 900 ∧ s.clkRun = true ∧ s.cycleStart 0 4 (s.cycleFrom 0 4 900) ≤ s.tick ∧ s.swaps = [w] ∧ (0, 4) ∈ w.barrows ∧ w.stalls ≠ [] ∧
      s.active (false, 0, 4) = 8 ∧ (∃ i, s.image 8 = some i ∧ (i.sec 5 0 4).isSome = true) ∧ ∀ k < 4, Tab.find s.crWas ⟨0, 4, k⟩ = none) ∧
    (let w : Wind := ⟨9, 0, none, 0, 0, 0, 5, some 1000⟩
     let s := swapping { job := 9, loaded := 8, marks := [] } (fun s => { s with wind := some w })
     s.wind = some w ∧ w.timeout = some 1000 ∧ 1000 ≤ s.tick ∧ ∃ j, s.job 9 = some j ∧ j.state.ended = false) :=
  ⟨by decide, ⟨by decide, by decide, by decide, ⟨_, rfl, by decide⟩, ⟨_, rfl, by decide⟩, by decide⟩,
    ⟨by decide, by decide, by decide, by decide, ⟨_, rfl, by decide, by decide⟩⟩, by decide,
    (fun pg h => by
      rcases List.mem_cons.mp h with rfl | h
      · exact ⟨by decide, by decide, by decide, by decide, by decide, by decide, by decide, ⟨_, rfl, by decide⟩, by decide⟩
      · obtain rfl := List.mem_singleton.mp h
        exact ⟨by decide, by decide, by decide, by decide, by decide, by decide, by decide, ⟨_, rfl, by decide⟩, by decide⟩),
    ⟨by decide, by decide, by decide, ⟨_, rfl, by decide⟩⟩⟩

/-- The power sequencer at a step, its request made at tick 0 of 16,000. -/
def stepping (st : PowerStep) (f : State → State := id) : State :=
  f { full with tick := 16000, power := { full.power with step := st } }

/-- The tile asleep in NAP. -/
def napping : State := { full with till := { full.till with clk := .lfo }, power := { full.power with step := .asleep 5 } }

theorem witness_PowerSequencing :
    (({ full with till := { full.till with refUp := false } } : State).till.refUp = false) ∧
    (let s := stepping (.raiseLock 3)
     s.till.refUp = true ∧ 3 < 4 ∧ s.power.step = .raiseLock 3 ∧ s.is PWR_STATUS.FULL = true ∧ s.power.job = none ∧ s.power.throttle = none ∧
      (s.trader ⟨0, 0, 0⟩).inRom = false) ∧
    ((stepping (.lowerLock 1)).power.step = .lowerLock 1 ∧ (stepping (.lowerLock 1)).till.refUp = true) ∧
    (∀ st ∈ [PowerStep.raiseSupply 2, .lowerSupply 1], let s := (stepping st).put PWR_VSETTLE.US {} 1
     s.power.since + max 1 (s.get PWR_VSETTLE.US) * 16000 ≤ s.tick ∧ s.power.step = st ∧ s.power.job = none ∧ s.power.throttle = none ∧
      (s.trader ⟨0, 0, 0⟩).inRom = false) ∧
    (full.power.since + max 1 (full.get PWR_VSETTLE.US) * 16000 ≤ full.tick → False) ∧
    (let s := stepping (.entering 5) (fun s => { s with power := { s.power with job := some 9 }, jobs := [job9 (.power 5 0 0)] })
     s.power.step = .entering 5 ∧ s.power.job = some 9 ∧ s.drained 9 = true ∧ s.power.woken = false ∧ (∀ k < 32, s.is WK_PIN.EN (ix k) = false) ∧
      s.till.clk ≠ .lfo ∧ s.faults = []) ∧
    (let s := ((full.set WK_PIN.EN (ix 31) true).put WK_PIN.COND (ix 31) 2).put PWR_STATUS.STATE {} 2
     full.is WK_PIN.EN (ix 31) = false ∧ s.is WK_PIN.EN (ix 31) = true ∧ s.get WK_PIN.COND (ix 31) = 2 ∧ s.asleep = false ∧
      s.get PWR_STATUS.STATE = 2 ∧ s.faults = []) ∧
    (let s := (((full.set WK_I2C.EN {} true).put WK_I2C.ADDR {} 0x22).put PWR_STATUS.STATE {} 2).set WK_PIN.EN (ix 0) true |>.put WK_I2C.SDA_PIN {} 0
     s.i2cMatches (0x44 : Byte).toNat = true ∧ s.asleep = false ∧ s.get PWR_STATUS.STATE = 2) ∧
    (let s := (((napping.set WK_I2C.EN {} true).put WK_I2C.ADDR {} 0x22).set WK_I2C.ACK_EN {} true).set WK_PIN.EN (ix 0) true |>.put WK_I2C.SDA_PIN {} 0
     s.i2cMatches (0x44 : Byte).toNat = true ∧ s.asleep = true ∧ s.power.step = .asleep 5 ∧ s.is WK_I2C.ACK_EN = true ∧ s.faults = []) ∧
    (napping.asleep = true ∧ napping.faults = [] ∧ napping.power.step = .asleep 5 ∧ napping.is WK_CTRL.DB_EN = true ∧
      (napping.set WK_CTRL.DB_EN {} false).is WK_CTRL.DB_EN = false ∧ napping.hostReg 0x8044 = none ∧
      napping.hostReg 0x8020 = some (({} : Ix).reg .WK_CTRL, false) ∧ napping.hostReg 0x5014 = some ((ix 0).reg .OR_TAIL, false)) ∧
    (let temps : List Nat := [20, 30, 40, 50, 60, 70, 20, 30, 10]
     temps.length = 9 ∧ ∀ x ∈ temps, x < 256) ∧
    (let s := ((full.set FT_THERM_CTRL.THROTTLE_EN {} true).put PWR_STATUS.PL {} 3)
     s.power.thermal < 2 ∧ s.thermalLevel 185 = 2 ∧ s.thermalLevel 100 = 0 ∧ s.inTransition = false ∧ 1 < s.get PWR_STATUS.PL) := by
  decide

/-- An order of ring 2 for job 9. -/
def order (job : Nat := 9) : OrderHdr := ⟨2, 7, 0, job, 0xABCD1234⟩

def acceptsB (s : State) (o : OrderHdr) (x : Order) : Bool :=
  decide (o.flags < 4) && x.fieldsOk &&
    (if x.isJob then decide (1 ≤ o.job) && decide (o.job < 0xFFF0) && (s.job o.job).isNone && decide (s.jobs.length < 512) else o.job == 0) &&
    !s.noUnit x && !s.asleep && s.faults.isEmpty

theorem accepts_of {s : State} {o : OrderHdr} {x : Order} (h : acceptsB s o x = true) : s.Accepts o x := by
  simp only [acceptsB, Bool.and_eq_true, decide_eq_true_eq, Bool.not_eq_true', List.isEmpty_iff] at h
  obtain ⟨⟨⟨⟨⟨h1, h2⟩, h3⟩, h4⟩, h5⟩, h6⟩ := h
  refine ⟨h1, h2, ?_, h4, h5, h6⟩
  split at h3 <;> simp_all

def startsB (s : State) (o : OrderHdr) (b : JobBody) : Bool :=
  acceptsB s o (.job b) && (s.withJob o b).startable (s.newJob o b) && !(s.withJob o b).powerBusy o.job

theorem starts_of {s : State} {o : OrderHdr} {b : JobBody} (h : startsB s o b = true) : s.Starts o b := by
  simp only [startsB, Bool.and_eq_true, Bool.not_eq_true'] at h
  exact ⟨accepts_of h.1.1, h.1.2, fun _ _ _ _ => h.2⟩

/-- A body of each kind of job. -/
def bodies : List JobBody :=
  [.loadImage 0x40000 64 0, .swapAt 8 0 0 0 0, .claim [0], .release 5 [0], .clear 0 0 0 0 64, .trainLane 0, .loadMicrocode 0 0x1000,
    .calibrate 0 0 0 1 0 0, .cartJob 0 0 0 0, .power 4 0 0, .power 5 0 0, .power 6 0 0, .windDown 0 0 0 0]

/-- A job order of every kind that must wait, as its fence demands while an older job of its ring runs. -/
def fenced : OrderHdr := { order with flags := 2 }

/-- The tile with an older job of ring 2. -/
def busy : State := { full with jobs := [{ job9 (.trainLane 1) with num := 8 }], jobSeq := 5 }

theorem witness_JobOrdersWait :
    (∀ b ∈ bodies, busy.Accepts fenced (.job b) ∧ (busy.withJob fenced b).startable (busy.newJob fenced b) = false ∧
      (busy.withJob fenced b).powerBusy fenced.job = false) ∧
    (let s : State := { full with jobs := [job9 (.trainLane 1)] }
     (order).flags < 4 ∧ (∀ b ∈ bodies, b.fieldsOk = true) ∧ 1 ≤ (order).job ∧ (order).job < 0xFFF0 ∧ (s.job 9).isSome = true ∧ s.asleep = false ∧
      s.faults = [] ∧ s.chitLoad < 4096 - 512) := by
  refine ⟨fun b h => ⟨accepts_of ?_, ?_, ?_⟩, by decide⟩ <;> revert b <;> decide

/-- The tile with a lane of a mode. -/
def moded : State := full.put LN_CTRL.MODE (ix 0 0) 1

/-- The tile with a committed image of job 8 for the halls' shadows. -/
def imaged : State :=
  { full with images := [{ job := 8, shadow := true, buf := swapImage, taken := 3, committed := true }],
              jobs := [{ job9 (.loadImage 0 0 1) .done with num := 8 }], jobSeq := 1 }

set_option maxRecDepth 20000 in
theorem witness_JobsStart :
    (full.Starts order (.claim [0x10800000]) ∧ full.holder ((0x10800000 : Word).toNat / 2 ^ 20) = none ∧ full.tied ((0x10800000 : Word).toNat / 2 ^ 20) = []) ∧
    (let s := full.setHolder 0x108 (some 77)
     s.Starts order (.claim [0x10800000]) ∧ s.Starts order (.release 77 [0x10800000]) ∧ s.holder ((0x10800000 : Word).toNat / 2 ^ 20) = some 77) ∧
    (∀ off ∈ [0x400000 - 64, 0x400000], full.Starts order (.clear 0 0 0 off 64)) ∧ full.Starts order (.clear 0 0 0 0 0) ∧
    (moded.Starts order (.trainLane 0) ∧ moded.lnMode 0 0 ≠ 0 ∧ (moded.lane 0 0).training = none ∧ moded.lnState 0 0 ≠ 2 ∧ moded.till.refUp = true) ∧
    full.Starts order (.loadImage 0x40000 64 0) ∧ full.Starts order (.loadMicrocode 0 0x1000) ∧ full.Starts order (.calibrate 0 0 0 1 0 0) ∧
    (full.Starts order (.cartJob 0 0 2 0x1000) ∧ bit 2 0 = false) ∧
    (imaged.Starts order (.swapAt 8 0 0 0 3000) ∧ (∃ x, imaged.job 8 = some x ∧ x.state = .done) ∧
      (∃ i, imaged.image 8 = some i ∧ i.committed = true ∧ i.shadow = true ∧ i.swapped = false) ∧ imaged.swaps = [] ∧
      imaged.tillNow + 2048 ≤ 3000 ∧ ∀ h < imaged.part.halls, imaged.is CLM_TM.VALID (ix h (imaged.swapMark h)) = false ∧
        imaged.is TM_STATUS.ARMED (ix h (imaged.swapMark h)) = false) := by
  refine ⟨⟨starts_of (by decide), by decide⟩, ⟨starts_of (by decide), starts_of (by decide), by decide⟩, fun off h => starts_of ?_,
    starts_of (by decide), ⟨starts_of (by decide), by decide⟩, starts_of (by decide), starts_of (by decide), starts_of (by decide),
    ⟨starts_of (by decide), by decide⟩, ⟨starts_of (by decide), ⟨_, rfl, rfl⟩, ⟨_, rfl, by decide⟩, by decide⟩⟩
  revert off; decide

theorem witness_PowerAndWindJobs :
    (∀ pl < 4, full.Starts order (.power pl 0 0)) ∧ full.Starts order (.power 4 0 0) ∧ full.Starts order (.power 5 0 0) ∧ full.Starts order (.power 6 0 0) ∧
    (full.is FT_DSTATUS.THROTTLED = false ∧ full.till.refUp = true ∧ 0 < (full.put PWR_STATUS.PL {} 1).get PWR_STATUS.PL ∧
      (full.put PWR_STATUS.PL {} 1).get PWR_STATUS.PL < 2 ∧ full.wakeEnabled = true ∧ full.wind = none ∧ full.swaps = [] ∧
      full.traders = [] ∧ full.chans = [] ∧ full.get PWR_STATUS.STATE = 0) ∧
    ((full.set WK_CTRL.DB_EN {} false).wakeEnabled = false ∧ (full.set WK_CTRL.DB_EN {} false).Starts order (.power 5 0 0)) ∧
    full.Starts order (.windDown 0 0 0 5) ∧
    (let s : State := { full with jobs := [job9 (.clear 0 0 0 64 128) .queued] }
     ∃ j, s.job 9 = some j ∧ j.state = .queued ∧ j.acked = false ∧ s.startable j = true ∧ 64 + 128 ≤ clearSize 0) := by
  refine ⟨fun pl h => starts_of ?_, starts_of (by decide), starts_of (by decide), starts_of (by decide), by decide, ⟨by decide, starts_of (by decide)⟩,
    starts_of (by decide), ⟨_, rfl, by decide⟩⟩
  revert pl; decide

/-- An order record of 64 bytes. -/
def record (code job : Nat) (body : List Byte) : List Byte :=
  filled 64 (toBytes 1 code ++ [0] ++ toBytes 2 job ++ toBytes 4 0xABCD1234 ++ zeros 8 ++ body)

/-- The record `b` has come to ring 2. -/
def fetched (b : List Byte) (f : State → State := id) : State := f { full with arrived := [⟨req (.order 2) false, .data b⟩] }

set_option maxRecDepth 20000 in
theorem witness_ImmediateOrders :
    (full.Accepts (order 0) (.start 0 3 0x21 3 0x2000) ∧ full.Accepts (order 0) (.stop 0 3 0x21) ∧ full.roleStall 0 3 = some 3 ∧
      (full.trader ⟨0, 3, 0⟩).running = false ∧ ((full.setTrader ⟨0, 3, 5⟩ { running := true }).trader ⟨0, 3, 5⟩).running = true ∧
      full.traders = []) ∧
    (full.job 20 = none ∧ full.Accepts (order 0) (.suspend 20)) ∧
    (let s : State := { full with jobs := [job9 (.clear 0 0 0 0 64) .queued] }
     s.Accepts (order 0) (.suspend 9) ∧ ∃ j, s.job 9 = some j ∧ j.acked = false ∧ j.state = .queued) ∧
    (let s : State := { full with jobs := [{ job9 (.power 4 0 0) .suspended with fromQueued := true }], power := { full.power with step := .raiseLock 1 } }
     s.Accepts (order 0) (.suspend 9) ∧ s.inTransition = true ∧ ∃ j, s.job 9 = some j ∧ j.state = .suspended ∧ j.fromQueued = true ∧ j.body = .power 4 0 0) ∧
    (let b := record 0xFF 9 []
     (fetched b).arrived = [⟨req (.order 2) false, .data b⟩] ∧ b.length = 64 ∧ field (record 0 9 []) 0 1 = 0 ∧ (record 0 9 []).length = 64) ∧
    (let b := record 6 9 (toBytes 1 0 ++ toBytes 1 0 ++ zeros 2 ++ toBytes 4 0 ++ toBytes 4 64)
     let s := fetched b (fun s => s.set CE_STATUS.HALT (ix 0) true)
     b.length = 64 ∧ (parseOrder b).isSome = true ∧ (order).slot - 7 = s.get OR_HEAD.HEAD (ix 2) ∧ (order).flags = field b 1 1 ∧ (order).job = field b 2 2 ∧
      (order).htag.toNat = field b 4 4) := by
  refine ⟨⟨accepts_of (by decide), accepts_of (by decide), by decide⟩, ⟨by decide, accepts_of (by decide)⟩, ⟨accepts_of (by decide), _, rfl, by decide⟩,
    ⟨accepts_of (by decide), by decide, _, rfl, by decide⟩, by decide, by decide⟩

/-- A patch of one word with the version 5, for the lanes of a kind that takes any. -/
def patch (ok : Bool) : List Byte :=
  let w := (List.range 32).map (fun k => BitVec.ofNat 8 (if k < 18 then k else 0))
  toBytes 2 1 ++ [1, 0] ++ toBytes 4 0x70005 ++ toBytes 2 3 ++ toBytes 2 1 ++ zeros 8 ++ toBytes 4 (crc32c w + b2n (!ok)) ++ zeros 8 ++ w

/-- A step of LOAD_MICROCODE for lane 0: its patch has come, or it waits for the threads to stop. -/
def patching (st : Nat) (p : List Byte) : State :=
  at_work (.loadMicrocode 0 0x1000) (fun j => { j with stage := st, got := p }) (fun s => { s with tick := 16000000, patches := [(9, p)] })

set_option maxRecDepth 20000 in
theorem witness_JobSteps :
    (∀ prog < 2, let s := at_work (.clear 0 0 0 64 5000) (fun j => { j with prog := prog })
     ∃ j, s.job 9 = some j ∧ j.state = .running ∧ j.acked = false ∧ j.cancelPend = false ∧ j.suspPend = false ∧ 4096 * j.prog < 5000) ∧
    (full.Inv ∧ (at_work (.clear 0 0 0 64 5000)).Inv) ∧
    (∀ ok : Bool, let s := patching 0 (patch ok)
     (∃ j, s.job 9 = some j ∧ j.stage = 0 ∧ j.left = 0 ∧ j.got = patch ok) ∧ 32 ≤ (patch ok).length ∧ s.patchOk 0 0 (patch ok) = true ∧
      decide (crc32c ((patch ok).drop 32) = field (patch ok) 20 4) = ok) ∧
    (full.patchOk 0 0 (zeros 64) = false) ∧
    (let s := patching 3 (patch true)
     (∃ j, s.job 9 = some j ∧ j.stage = 3 ∧ j.prog + 16000000 ≤ s.tick) ∧ Tab.find s.patches 9 = some (patch true) ∧ s.thRuns 0 0 0 = false ∧
      s.thRuns 0 0 1 = false ∧ field (patch true) 10 2 = 1 ∧ (patch true).length = 64 ∧ field (patch true) 3 1 = 0) ∧
    (let s := at_work (.calibrate 0 0 0 1 0 0x4000) id (fun s => { s with tick := 1024 })
     ∃ j, s.job 9 = some j ∧ j.stage = 0 ∧ j.began + 1 * 1024 ≤ s.tick) ∧
    (let s := at_work (.calibrate 0 0 0 1 0 0x4000) (fun j => { j with stage := 1 }) (fun s => { s with arrived := [⟨req (.job 9) true, .ack⟩] })
     (∃ j, s.job 9 = some j ∧ j.stage = 1) ∧ s.arrived = [⟨req (.job 9) true, .ack⟩]) := by
  refine ⟨?_, ⟨⟨by decide, by decide⟩, ⟨by decide, by decide⟩⟩, ?_, by decide, ⟨⟨_, rfl, by decide⟩, by decide⟩, ⟨_, rfl, by decide⟩, ⟨⟨_, rfl, rfl⟩, by decide⟩⟩
  · intro p h
    have : p = 0 ∨ p = 1 := by omega
    rcases this with rfl | rfl <;> exact ⟨_, rfl, by decide⟩
  · rintro (_ | _) <;> exact ⟨⟨_, rfl, by decide⟩, by decide⟩

theorem witness_ScrubAndParity :
    (∀ e ∈ [[], [((9, ((Arr.hallMem 0).base + 16) / 4), false)], [((9, ((Arr.hallMem 0).base + 16) / 4), true)]],
      let s : State := { full.set FT_HCTRL.SCRUB_EN (ix 0) true with ecc := e }
      0 < s.part.halls ∧ s.is FT_HCTRL.SCRUB_EN (ix 0) = true ∧ s.asleep = false ∧ s.faults = [] ∧
        Tab.find s.ecc (9, ((Arr.hallMem 0).base + 16) / 4) = (e.head?).map (fun x => x.2)) ∧
    (full.hostReg 2334720 = some ((ix 0 0).reg .PIN_CFG, false) ∧ (rwField ((ix 0 0).reg .PIN_CFG) (28 % 32)).isSome = true ∧ full.heldPin 0 0 = false ∧ (full.pin 0 0).keep = none ∧ (full.pin 0 0).capture = none) := by
  decide

/-- A fail-over of the stall with role 3 of hall 0, which ran every second trader. -/
def failing (sw : Bool) : State :=
  { full with tick := 16000, failovers := [(0, { role := 3, f := 3, cause := 2, at_ := 0, ran := 0x5555, switched := sw })] }

theorem witness_FailOver :
    (let s := (full.put FT_LOCKSTEP.PAIR (ix 7) 8).set FT_ROLE.FO_EN (ix 7 6) false
     7 < 8 ∧ 3 < 4 ∧ bit (s.get FT_LOCKSTEP.PAIR (ix 7)) 3 = true ∧ s.asleep = false ∧ s.faults = [] ∧ s.swaps = [] ∧ s.traders = [] ∧
      2 * 3 < s.part.stalls ∧ s.get STL_SELF.ROLE (ix 7 (2 * 3)) = 6 ∧ s.get FT_STALL.STATE (ix 7 (2 * 3)) ≠ 3 ∧ s.is FT_ROLE.FO_EN (ix 7 6) = false) ∧
    (let s := failing false
     ∃ o, Tab.find s.failovers 0 = some o ∧ o.switched = false ∧ o.spareCause = none ∧ s.swaps = [] ∧ s.ecc = [] ∧ s.faults = [] ∧ s.held = [] ∧ o.f < 8 ∧
      o.role < 8 ∧ o.cause < 8) ∧
    (failing false).Inv ∧
    (let s := (failing true).set FT_ROLE.RESTART (ix 0 3) true |>.set FT_HCTRL.HOLD_KEEP (ix 0) false
     ∃ o, Tab.find s.failovers 0 = some o ∧ o.switched = true ∧ o.spareCause = none ∧ o.at_ + 16000 ≤ s.tick ∧ s.is FT_HCTRL.HOLD_KEEP (ix 0) = false ∧
      s.get PWR_STATUS.STATE ≠ 2 ∧ s.wind = none ∧ s.is FT_ROLE.RESTART (ix 0 o.role) = true) :=
  ⟨by decide, ⟨_, rfl, by decide⟩, ⟨by decide, by decide⟩, ⟨_, rfl, by decide⟩⟩

theorem witness_DebugPort :
    (let s : State := { full with dbg := { en := true } }
     s.dbg.en = true ∧ s.inStall 7 8 = true ∧ 15 < 16 ∧ s.faults = [] ∧ (s.trader ⟨7, 8, 15⟩).trap = none) ∧
    (let s : State := { with_ (fun tr => { tr with trap := some ⟨15, 0, 0, 0, 7⟩ }) with dbg := { en := true } }
     (s.trader tid).trap = some ⟨15, 0, 0, 0, 7⟩ ∧ (s.trader tid).running = true ∧ (s.trader tid).halted = false ∧ s.cur tid < s.level tid 15) ∧
    full.dbg.en = false := by
  decide

end Sys2Proof.Tests
end

section
/-! SUPPORT. What every command and every step keeps (statements O4 and O5): each command answers a next state, and that state
stands in the relation `Keeps` to the one before it. -/

namespace Sys2Proof.Machine

variable {s0 s : State}

/-! ## Every command -/

/-- Every meaning is a `.next` of a state; POWER_LEVEL alone chooses between two answers. -/
theorem exec_answersNext (c : Instr) (s : State) : ∃ s', exec c s = .next s' := by
  cases c with
  | powerLevel o pl =>
    show ∃ s', execPowerLevel o pl s = .next s'
    unfold execPowerLevel
    split
    · exact ⟨_, rfl⟩
    · exact ⟨_, rfl⟩
  | _ => exact ⟨_, rfl⟩

/-- What no command changes, from the lemma of each meaning in the files Laws/Keeps….lean. -/
theorem exec_keeps (c : Instr) (h : Keeps s0 s) : KeepsOut s0 (exec c s) := by
  cases c with
  | registerWrite => exact execRegisterWrite_keeps _ _ _ h
  | readClear => exact execReadClear_keeps _ _ _ _ _ h
  | tillPllLock => exact execTillPllLock_keeps h
  | lfoTrimMeasure => exact execLfoTrimMeasure_keeps _ h
  | tillAlarmFire => exact execTillAlarmFire_keeps h
  | refLost => exact execRefLost_keeps h
  | refBack => exact execRefBack_keeps h
  | holdoverExit => exact execHoldoverExit_keeps h
  | quadratureEdge => exact execQuadratureEdge_keeps _ _ _ _ h
  | estimatorUpdate => exact execEstimatorUpdate_keeps _ h
  | taxCtrlWrite => exact execTaxCtrlWrite_keeps _ _ _ h
  | preset => exact execPreset_keeps _ _ h
  | clearLost => exact execClearLost_keeps _ _ h
  | arm => exact execArm_keeps _ _ _ _ h
  | disarm => exact execDisarm_keeps _ _ _ _ h
  | markAction => exact execMarkAction_keeps _ _ h
  | pulseEnd => exact execPulseEnd_keeps _ _ h
  | counterPinEdge => exact execCounterPinEdge_keeps _ _ _ _ h
  | counterMatch => exact execCounterMatch_keeps _ _ h
  | counterWrap => exact execCounterWrap_keeps _ _ h
  | ctCtrlWrite => exact execCtCtrlWrite_keeps _ _ _ _ h
  | ctPeriodWrite => exact execCtPeriodWrite_keeps _ _ _ _ h
  | ctCountWrite => exact execCtCountWrite_keeps _ _ _ _ h
  | ctInputWrite => exact execCtInputWrite_keeps _ _ _ _ h
  | chainRead => exact execChainRead_keeps _ _ _ h
  | nop => exact execNop_keeps _ h
  | add => exact execAdd_keeps _ h
  | addc => exact execAddc_keeps _ h
  | sub => exact execSub_keeps _ h
  | subb => exact execSubb_keeps _ h
  | andD => exact execAndD_keeps _ h
  | orD => exact execOrD_keeps _ h
  | xorD => exact execXorD_keeps _ h
  | notD => exact execNotD_keeps _ h
  | neg => exact execNeg_keeps _ h
  | mov => exact execMov_keeps _ h
  | shl => exact execShl_keeps _ h
  | shr => exact execShr_keeps _ h
  | sar => exact execSar_keeps _ h
  | rol => exact execRol_keeps _ h
  | ror => exact execRor_keeps _ h
  | minu => exact execMinu_keeps _ h
  | maxu => exact execMaxu_keeps _ h
  | rev => exact execRev_keeps _ h
  | popc => exact execPopc_keeps _ h
  | addi => exact execAddi_keeps _ h
  | andi => exact execAndi_keeps _ h
  | ori => exact execOri_keeps _ h
  | xori => exact execXori_keeps _ h
  | movi => exact execMovi_keeps _ h
  | shi => exact execShi_keeps _ h
  | cmp => exact execCmp_keeps _ h
  | cmpi => exact execCmpi_keeps _ h
  | cmpac => exact execCmpac_keeps _ h
  | cmpa => exact execCmpa_keeps _ h
  | cmpai => exact execCmpai_keeps _ h
  | pand => exact execPand_keeps _ h
  | por => exact execPor_keeps _ h
  | pxor => exact execPxor_keeps _ h
  | pandn => exact execPandn_keeps _ h
  | pnot => exact execPnot_keeps _ h
  | pmov => exact execPmov_keeps _ h
  | pset => exact execPset_keeps _ h
  | pclr => exact execPclr_keeps _ h
  | pcnd => exact execPcnd_keeps _ h
  | btst => exact execBtst_keeps _ h
  | bset => exact execBset_keeps _ h
  | bclr => exact execBclr_keeps _ h
  | binv => exact execBinv_keeps _ h
  | accAdd => exact execAccAdd_keeps _ h
  | accAddc => exact execAccAddc_keeps _ h
  | accSub => exact execAccSub_keeps _ h
  | accSubb => exact execAccSubb_keeps _ h
  | accAddd => exact execAccAddd_keeps _ h
  | adda => exact execAdda_keeps _ h
  | addas => exact execAddas_keeps _ h
  | fold => exact execFold_keeps _ h
  | accAnd => exact execAccAnd_keeps _ h
  | accOr => exact execAccOr_keeps _ h
  | accXor => exact execAccXor_keeps _ h
  | accMov => exact execAccMov_keeps _ h
  | accShl => exact execAccShl_keeps _ h
  | accShr => exact execAccShr_keeps _ h
  | accSar => exact execAccSar_keeps _ h
  | insd => exact execInsd_keeps _ h
  | insa => exact execInsa_keeps _ h
  | extd => exact execExtd_keeps _ h
  | exta => exact execExta_keeps _ h
  | extah => exact execExtah_keeps _ h
  | aci => exact execAci_keeps _ h
  | acsh => exact execAcsh_keeps _ h
  | acli => exact execAcli_keeps _ h
  | achi => exact execAchi_keeps _ h
  | adrAdd => exact execAdrAdd_keeps _ h
  | adrSub => exact execAdrSub_keeps _ h
  | adrAddc => exact execAdrAddc_keeps _ h
  | adrSubb => exact execAdrSubb_keeps _ h
  | adrAnd => exact execAdrAnd_keeps _ h
  | adrOr => exact execAdrOr_keeps _ h
  | adrXor => exact execAdrXor_keeps _ h
  | adrMov => exact execAdrMov_keeps _ h
  | adrShl => exact execAdrShl_keeps _ h
  | adrShr => exact execAdrShr_keeps _ h
  | adrSar => exact execAdrSar_keeps _ h
  | adrAddd => exact execAdrAddd_keeps _ h
  | movdl => exact execMovdl_keeps _ h
  | movdh => exact execMovdh_keeps _ h
  | movld => exact execMovld_keeps _ h
  | movhd => exact execMovhd_keeps _ h
  | addai => exact execAddai_keeps _ h
  | movai => exact execMovai_keeps _ h
  | shai => exact execShai_keeps _ h
  | mulu => exact execMulu_keeps _ h
  | muls => exact execMuls_keeps _ h
  | mulua => exact execMulua_keeps _ h
  | mulsa => exact execMulsa_keeps _ h
  | mulProductLand => exact execMulProductLand_keeps _ h
  | ldb => exact execLdb_keeps _ h
  | stb => exact execStb_keeps _ h
  | ldh => exact execLdh_keeps _ h
  | sth => exact execSth_keeps _ h
  | ldt => exact execLdt_keeps _ h
  | stt => exact execStt_keeps _ h
  | ldba => exact execLdba_keeps _ h
  | bcpy => exact execBcpy_keeps _ h
  | bfill => exact execBfill_keeps _ h
  | jmp => exact execJmp_keeps _ h
  | bra => exact execBra_keeps _ h
  | call => exact execCall_keeps _ h
  | bsr => exact execBsr_keeps _ h
  | jmpi => exact execJmpi_keeps _ h
  | calli => exact execCalli_keeps _ h
  | ret => exact execRet_keeps _ h
  | rete => exact execRete_keeps _ h
  | loop => exact execLoop_keeps _ h
  | loopr => exact execLoopr_keeps _ h
  | wfe => exact execWfe_keeps _ h
  | wfb => exact execWfb_keeps _ h
  | wtu => exact execWtu_keeps _ h
  | wtur => exact execWtur_keeps _ h
  | wpu => exact execWpu_keeps _ h
  | wfeEnd => exact execWfeEnd_keeps _ h
  | wfbEnd => exact execWfbEnd_keeps _ h
  | wtuEnd => exact execWtuEnd_keeps _ h
  | wpuEnd => exact execWpuEnd_keeps _ h
  | sev => exact execSev_keeps _ h
  | movs => exact execMovs_keeps _ h
  | drain => exact execDrain_keeps _ h
  | setbnk => exact execSetbnk_keeps _ h
  | setbnkr => exact execSetbnkr_keeps _ h
  | sethbk => exact execSethbk_keeps _ h
  | sethbkr => exact execSethbkr_keeps _ h
  | sethost => exact execSethost_keeps _ h
  | trap => exact execTrap_keeps _ h
  | stop => exact execStop_keeps _ h
  | brk => exact execBrk_keeps _ h
  | sync => exact execSync_keeps _ h
  | snop => exact execSnop_keeps _ h
  | fadd => exact execFadd_keeps _ h
  | fsub => exact execFsub_keeps _ h
  | fmul => exact execFmul_keeps _ h
  | fmac => exact execFmac_keeps _ h
  | fdiv => exact execFdiv_keeps _ h
  | fsqrt => exact execFsqrt_keeps _ h
  | fcmp => exact execFcmp_keeps _ h
  | xadd => exact execXadd_keeps _ h
  | xsub => exact execXsub_keeps _ h
  | xmul => exact execXmul_keeps _ h
  | xmac => exact execXmac_keeps _ h
  | xdiv => exact execXdiv_keeps _ h
  | xshl => exact execXshl_keeps _ h
  | xsar => exact execXsar_keeps _ h
  | xcmp => exact execXcmp_keeps _ h
  | ftox => exact execFtox_keeps _ h
  | xtof => exact execXtof_keeps _ h
  | smov => exact execSmov_keeps _ h
  | xabs => exact execXabs_keeps _ h
  | xneg => exact execXneg_keeps _ h
  | fabs => exact execFabs_keeps _ h
  | fneg => exact execFneg_keeps _ h
  | xclip => exact execXclip_keeps _ h
  | fclip => exact execFclip_keeps _ h
  | scaleResultLand => exact execScaleResultLand_keeps _ h
  | cpxOperation => exact execCpxOperation_keeps _ _ h
  | cpxResultReturn => exact execCpxResultReturn_keeps _ _ h
  | loadDataArrival => exact execLoadDataArrival_keeps _ _ h
  | storeBufferDrain => exact execStoreBufferDrain_keeps _ _ h
  | icacheLineFill => exact execIcacheLineFill_keeps _ _ _ h
  | inval => exact execInval_keeps _ _ _ h
  | icacheInvalEnd => exact execIcacheInvalEnd_keeps _ _ h
  | pageSel => exact execPageSel_keeps _ _ _ _ h
  | imemWrite => exact execImemWrite_keeps _ _ _ _ _ _ h
  | eventEntry => exact execEventEntry_keeps _ h
  | evKick => exact execEvKick_keeps _ _ _ _ h
  | evPendSet => exact execEvPendSet_keeps _ _ _ h
  | erRecordWrite => exact execErRecordWrite_keeps _ _ _ _ _ h
  | budgetOverrun => exact execBudgetOverrun_keeps _ h
  | crierNop => exact execCrierNop_keeps _ _ h
  | shout => exact execShout_keeps _ _ h
  | hear => exact execHear_keeps _ _ h
  | setPins => exact execSetPins_keeps _ _ h
  | await => exact execAwait_keeps _ _ h
  | crierGoto => exact execCrierGoto_keeps _ _ h
  | crierMove => exact execCrierMove_keeps _ _ h
  | crierPush => exact execCrierPush_keeps _ _ h
  | crierPull => exact execCrierPull_keeps _ _ h
  | crierPace => exact execCrierPace_keeps _ _ h
  | crcInit => exact execCrcInit_keeps _ _ h
  | crcFeedOut => exact execCrcFeedOut_keeps _ _ h
  | crcFeedIn => exact execCrcFeedIn_keeps _ _ h
  | crcOff => exact execCrcOff_keeps _ _ h
  | crcInsert => exact execCrcInsert_keeps _ _ h
  | crcFeedX => exact execCrcFeedX_keeps _ _ h
  | paceTick => exact execPaceTick_keeps _ h
  | crierDelivery => exact execCrierDelivery_keeps _ _ _ h
  | crTxfPush => exact execCrTxfPush_keeps _ _ _ h
  | crRxfPop => exact execCrRxfPop_keeps _ _ h
  | crierStart => exact execCrierStart_keeps _ _ _ _ h
  | crierStop => exact execCrierStop_keeps _ _ _ _ h
  | restart => exact execRestart_keeps _ _ h
  | flush => exact execFlush_keeps _ _ h
  | kick => exact execKick_keeps _ _ _ _ h
  | crFifoWrite => exact execCrFifoWrite_keeps _ _ _ h
  | brClkWrite => exact execBrClkWrite_keeps _ _ _ _ h
  | brIdataWrite => exact execBrIdataWrite_keeps _ _ _ _ h
  | instructionPageWrite => exact execInstructionPageWrite_keeps _ _ _ _ _ _ h
  | barrowPageSel => exact execBarrowPageSel_keeps _ _ _ _ h
  | barrowSwapCycle => exact execBarrowSwapCycle_keeps _ _ h
  | pinCfgWrite => exact execPinCfgWrite_keeps _ _ _ _ h
  | pinCfgShWrite => exact execPinCfgShWrite_keeps _ _ _ _ h
  | pinSwitchOver => exact execPinSwitchOver_keeps _ _ h
  | pinOutSet => exact execPinOutSet_keeps _ _ _ _ h
  | pinOutClr => exact execPinOutClr_keeps _ _ _ _ h
  | pinHoldSet => exact execPinHoldSet_keeps _ _ _ _ h
  | pinHoldClr => exact execPinHoldClr_keeps _ _ _ _ h
  | pinEvent => exact execPinEvent_keeps _ _ _ h
  | pinEvtWrite => exact execPinEvtWrite_keeps _ _ _ _ h
  | pswMapWrite => exact execPswMapWrite_keeps _ _ _ _ h
  | lnCtrlWrite => exact execLnCtrlWrite_keeps _ _ _ _ h
  | lnGroupWrite => exact execLnGroupWrite_keeps _ _ _ _ h
  | linkBlockRx => exact execLinkBlockRx_keeps _ _ _ h
  | linkBlockDue => exact execLinkBlockDue_keeps _ _ h
  | alignBlockDue => exact execAlignBlockDue_keeps _ _ h
  | axisSyncDue => exact execAxisSyncDue_keeps _ _ h
  | eplasFrameRx => exact execEplasFrameRx_keeps _ _ _ _ _ h
  | ethernetFrameRx => exact execEthernetFrameRx_keeps _ _ _ _ _ h
  | axisSyncFrameRx => exact execAxisSyncFrameRx_keeps _ _ _ _ h
  | laneUp => exact execLaneUp_keeps _ _ h
  | laneTrainTimeout => exact execLaneTrainTimeout_keeps _ _ _ h
  | laneDown => exact execLaneDown_keeps _ _ _ h
  | fecLimitExceeded => exact execFecLimitExceeded_keeps _ _ h
  | linkBlockTimeout => exact execLinkBlockTimeout_keeps _ _ h
  | microword => exact execMicroword_keeps _ _ _ h
  | microTrapEntry => exact execMicroTrapEntry_keeps _ _ _ h
  | ptMboxWrite => exact execPtMboxWrite_keeps _ _ _ _ h
  | txRun => exact execTxRun_keeps _ _ _ _ h
  | rxRun => exact execRxRun_keeps _ _ _ _ h
  | controlStoreWrite => exact execControlStoreWrite_keeps _ _ _ _ _ h
  | tokenAcquire => exact execTokenAcquire_keeps _ h
  | tokenRelease => exact execTokenRelease_keeps _ _ h
  | hlAbandon => exact execHlAbandon_keeps _ _ _ h
  | atomicAnswerArrival => exact execAtomicAnswerArrival_keeps _ h
  | queueReserve => exact execQueueReserve_keeps _ h
  | queueCommit => exact execQueueCommit_keeps _ h
  | queueAbort => exact execQueueAbort_keeps _ h
  | queuePush => exact execQueuePush_keeps _ h
  | queueTake => exact execQueueTake_keeps _ h
  | queueDone => exact execQueueDone_keeps _ h
  | queueReturn => exact execQueueReturn_keeps _ h
  | queuePop => exact execQueuePop_keeps _ h
  | hostQueuePopReturn => exact execHostQueuePopReturn_keeps _ _ h
  | queueDescriptorWrite => exact execQueueDescriptorWrite_keeps _ _ _ _ _ h
  | blRing => exact execBlRing_keeps _ _ _ h
  | dbRing => exact execDbRing_keeps _ _ h
  | cartStart => exact execCartStart_keeps _ _ _ h
  | cartAbort => exact execCartAbort_keeps _ _ _ h
  | cartPause => exact execCartPause_keeps _ _ _ h
  | cartResume => exact execCartResume_keeps _ _ _ h
  | cartEngineResume => exact execCartEngineResume_keeps _ _ h
  | cartDescriptorLoad => exact execCartDescriptorLoad_keeps _ _ _ h
  | cartBurstRead => exact execCartBurstRead_keeps _ _ _ h
  | cartBurstWrite => exact execCartBurstWrite_keeps _ _ _ h
  | cartWriteAck => exact execCartWriteAck_keeps _ _ h
  | cartQueueRetry => exact execCartQueueRetry_keeps _ _ h
  | cartStatusWriteAck => exact execCartStatusWriteAck_keeps _ _ _ h
  | cartHalt => exact execCartHalt_keeps _ _ _ _ h
  | hostReadData => exact execHostReadData_keeps _ _ h
  | hostWriteResponse => exact execHostWriteResponse_keeps _ h
  | hostErrorResponse => exact execHostErrorResponse_keeps _ _ h
  | orderDoorbell => exact execOrderDoorbell_keeps _ _ _ h
  | orCtrlWrite => exact execOrCtrlWrite_keeps _ _ _ h
  | orderFetchComplete => exact execOrderFetchComplete_keeps _ h
  | loadImage => exact execLoadImage_keeps _ _ _ _ h
  | swapAt => exact execSwapAt_keeps _ _ _ _ _ _ h
  | startTraders => exact execStartTraders_keeps _ _ _ _ _ _ h
  | stopTraders => exact execStopTraders_keeps _ _ _ _ h
  | claim => exact execClaim_keeps _ _ h
  | claimRelease => exact execClaimRelease_keeps _ _ _ h
  | clear => exact execClear_keeps _ _ _ _ _ _ h
  | clearBlockDone => exact execClearBlockDone_keeps _ h
  | trainLane => exact execTrainLane_keeps _ _ h
  | loadMicrocode => exact execLoadMicrocode_keeps _ _ _ h
  | microcodeFetchComplete => exact execMicrocodeFetchComplete_keeps _ _ h
  | microcodeQreqTimeout => exact execMicrocodeQreqTimeout_keeps _ h
  | microcodeWriteComplete => exact execMicrocodeWriteComplete_keeps _ h
  | calibrateAxis => exact execCalibrateAxis_keeps _ _ _ _ _ _ _ h
  | calibrateEnd => exact execCalibrateEnd_keeps _ h
  | cartJob => exact execCartJob_keeps _ _ _ _ _ h
  | powerLevel => exact execPowerLevel_keeps _ _ h
  | powerIdle => exact execPowerIdle_keeps _ h
  | powerNap => exact execPowerNap_keeps _ _ _ h
  | powerOff => exact execPowerOff_keeps _ _ _ h
  | windDown => exact execWindDown_keeps _ _ _ _ _ h
  | jobSuspend => exact execJobSuspend_keeps _ _ h
  | jobResume => exact execJobResume_keeps _ _ h
  | jobCancel => exact execJobCancel_keeps _ _ h
  | jobStart => exact execJobStart_keeps _ h
  | chitWrite => exact execChitWrite_keeps _ h
  | chitWriteComplete => exact execChitWriteComplete_keeps _ h
  | chitAcknowledge => exact execChitAcknowledge_keeps _ _ _ h
  | crCtrlWrite => exact execCrCtrlWrite_keeps _ _ _ h
  | chitMaskSet => exact execChitMaskSet_keeps _ _ _ h
  | chitMaskClr => exact execChitMaskClr_keeps _ _ _ h
  | chitPendSet => exact execChitPendSet_keeps _ _ _ h
  | chitPendClr => exact execChitPendClr_keeps _ _ _ h
  | imageSectionFetched => exact execImageSectionFetched_keeps _ _ h
  | swapCommit => exact execSwapCommit_keeps h
  | stallSwapRotation => exact execStallSwapRotation_keeps _ _ h
  | windRelease => exact execWindRelease_keeps _ _ h
  | windDownTimeout => exact execWindDownTimeout_keeps h
  | powerOnReset => exact execPowerOnReset_keeps h
  | deviceReset => exact execDeviceReset_keeps _ h
  | hallReset => exact execHallReset_keeps _ h
  | stallReset => exact execStallReset_keeps _ _ h
  | porterReset => exact execPorterReset_keeps _ _ h
  | memoryClearDone => exact execMemoryClearDone_keeps h
  | bootRomStart => exact execBootRomStart_keeps h
  | clockSwitch => exact execClockSwitch_keeps _ h
  | corePllLock => exact execCorePllLock_keeps h
  | supplySettled => exact execSupplySettled_keeps h
  | sleepEntryComplete => exact execSleepEntryComplete_keeps h
  | wakePin => exact execWakePin_keeps _ _ h
  | i2cAddressMatch => exact execI2cAddressMatch_keeps _ h
  | sleepAgentAccess => exact execSleepAgentAccess_keeps _ _ _ h
  | temperatureSample => exact execTemperatureSample_keeps _ h
  | scrubRead => exact execScrubRead_keeps _ _ h
  | cfgParity => exact execCfgParity_keeps _ _ _ h
  | lockstepMismatch => exact execLockstepMismatch_keeps _ _ h
  | ftLockstepWrite => exact execFtLockstepWrite_keeps _ _ _ h
  | failRequest => exact execFailRequest_keeps _ _ _ h
  | failRelease => exact execFailRelease_keeps _ _ h
  | failoverSwitch => exact execFailoverSwitch_keeps _ h
  | failoverRelease => exact execFailoverRelease_keeps _ h
  | debugHalt => exact execDebugHalt_keeps _ h
  | debugRelease => exact execDebugRelease_keeps _ h
  | dbgEnFall => exact execDbgEnFall_keeps h
  | resetRelease => exact execResetRelease_keeps _ h
  | windowMemoryWrite => exact execWindowMemoryWrite_keeps _ _ _ h
  | fecCodewordDecoded => exact execFecCodewordDecoded_keeps _ _ _ _ h
  | padLevelSample => exact execPadLevelSample_keeps _ _ _ h
  | swapTillInstant => exact execSwapTillInstant_keeps h
  | dbgEnRise => exact execDbgEnRise_keeps h
  | testMode => exact execTestMode_keeps _ h
  | debugBreakpoints => exact execDebugBreakpoints_keeps _ h
  | activitySignalEnd => exact execActivitySignalEnd_keeps _ _ h
  | imageHeaderFetched => exact execImageHeaderFetched_keeps _ _ h

/-! ## Every step -/

theorem Keeps.inv (h : Keeps s0 s) (hi : s0.Inv) : s.Inv := ⟨h.mem hi.mem, h.regs hi.regs⟩

/-- With the queue empty, a step is the passing of time. -/
theorem step_of_empty (e : s.pending = []) : step s = .next s.pass := by
  simp [step, e]

/-- With a command at the front of the queue, a step is its meaning on the state with the queue's rest. -/
theorem step_of_front {c : Instr} {rest : List Instr} (e : s.pending = c :: rest) :
    step s = exec c { s with pending := rest } := by
  simp [step, e]

/-- What a step keeps, told of the state with its front command taken from the queue. -/
theorem step_keeps {s' : State} (hs : step s = .next s') : Keeps { s with pending := s.pending.tail } s' := by
  cases e : s.pending with
  | nil =>
    rw [step_of_empty e] at hs
    cases hs
    have hq : { s with pending := [] } = s := by rw [← e]
    simpa [hq] using State.pass_keeps (Keeps.refl s)
  | cons c rest =>
    rw [step_of_front e] at hs
    exact exec_keeps c (Keeps.refl _) s' hs

end Sys2Proof.Machine

/-! ## The statements -/

namespace Sys2Proof.Proofs

open Sys2Proof.Machine

/-- Settles O4: a step keeps the invariant because the command that it runs, or the tick that passes, stands in the relation `Keeps`. -/
theorem stepKeepsInvariant : Obligations.StepKeepsInvariant := by
  intro s s' hi hs
  have k := step_keeps hs
  exact ⟨k.inv ⟨hi.mem, hi.regs⟩, k.part, k.pending, k.free⟩

/-- Settles O5: the totality of `exec`, command by command. -/
theorem everyCommandAnswersNext : Obligations.EveryCommandAnswersNext := exec_answersNext

end Sys2Proof.Proofs
end

section
/-! SUPPORT. Writes by the access codes of the fields (R8, R9): what one field of a register reads as after `State.fieldWrite`,
from the facts that the fields of a register do not overlap and that a write of one leaves the others. -/

namespace Sys2Proof.Machine

variable {s : State}

/-! ## The fields of a register -/

/-- The bits of two fields do not overlap. -/
def Field.Apart (f g : Field) : Prop := f.hi < g.lo ∨ g.hi < f.lo

theorem Field.Apart.symm {f g : Field} (h : f.Apart g) : g.Apart f := Or.symm h

/-- The field is one of register `n`, and its bits lie in the 64 of a register. -/
structure Field.Fits (f : Field) (n : RegName) : Prop where
  reg : f.reg = n
  ordered : f.lo ≤ f.hi
  top : f.hi < 64

/-- Every field that the tables give a register lies in it. -/
theorem RegName.fields_fit (n : RegName) : ∀ f ∈ n.fields, f.Fits n := by
  have h : ∀ f ∈ n.fields, f.reg = n ∧ f.lo ≤ f.hi ∧ f.hi < 64 := by cases n <;> decide
  exact fun f hf => ⟨(h f hf).1, (h f hf).2.1, (h f hf).2.2⟩

/-- The fields that the tables give a register do not overlap. -/
theorem RegName.fields_apart (n : RegName) : n.fields.Pairwise Field.Apart := by
  unfold Field.Apart
  cases n <;> decide

theorem Ix.reg_self (r : Reg) : (⟨r.a, r.b, r.c, r.d⟩ : Ix).reg r.name = r := rfl

/-! ## One field -/

/-- What a field reads as after a write of the word `v` to its register (R8, R9). -/
def State.fieldAfter (s : State) (f : Field) (i : Ix) (v : Nat) : Nat :=
  match f.acc with
  | .RW => bits v f.hi f.lo
  | .W1C => s.get f i &&& ((2 ^ (f.hi + 1 - f.lo) - 1) ^^^
      (bitsOff (bits v f.hi f.lo) (notedAt s.hwSet (i.reg f.reg) s.tick >>> f.lo) % 2 ^ (f.hi + 1 - f.lo)))
  | .W1S => s.get f i ||| bits v f.hi f.lo
  | _ => s.get f i

/-- The part of `State.fieldWrite` that concerns one field. -/
def State.writeField (s : State) (f : Field) (i : Ix) (v : Nat) : State :=
  match f.acc with
  | .RW => s.put f i (bits v f.hi f.lo)
  | .W1C => s.w1c f i (bits v f.hi f.lo)
  | .W1S => s.w1s f i (bits v f.hi f.lo)
  | _ => s

theorem State.fieldWrite_eq (r : Reg) (v : Nat) :
    s.fieldWrite r v = forAll r.name.fields (fun f t => t.writeField f ⟨r.a, r.b, r.c, r.d⟩ v) s := rfl

theorem State.get_lt (s : State) (f : Field) (i : Ix) : s.get f i < 2 ^ (f.hi + 1 - f.lo) := Nat.mod_lt _ (Nat.two_pow_pos _)

theorem bits_lt (x hi lo : Nat) : bits x hi lo < 2 ^ (hi + 1 - lo) := Nat.mod_lt _ (Nat.two_pow_pos _)

/-- Beside the registers a write of a field changes only what R9 keeps of its W1S bits, and it writes at most its own register. -/
theorem State.writeField_frame (f : Field) (i : Ix) (v : Nat) :
    ∃ w sw, s.writeField f i v = { s.wr (i.reg f.reg) w with swSet := sw } ∨ s.writeField f i v = s := by
  unfold State.writeField
  split
  · exact ⟨_, s.swSet, .inl rfl⟩
  · exact ⟨_, s.swSet, .inl rfl⟩
  · exact ⟨_, _, .inl rfl⟩
  · exact ⟨0, s.swSet, .inr rfl⟩

theorem State.writeField_hwSet (f : Field) (i : Ix) (v : Nat) : (s.writeField f i v).hwSet = s.hwSet := by
  obtain ⟨w, sw, e | e⟩ := s.writeField_frame f i v <;> simp [e]

theorem State.writeField_tick (f : Field) (i : Ix) (v : Nat) : (s.writeField f i v).tick = s.tick := by
  obtain ⟨w, sw, e | e⟩ := s.writeField_frame f i v <;> simp [e]

theorem State.writeField_rd_ne (f : Field) (i : Ix) (v : Nat) {q : Reg} (hq : q ≠ i.reg f.reg) :
    (s.writeField f i v).rd q = s.rd q := by
  obtain ⟨w, sw, e | e⟩ := s.writeField_frame f i v <;> rw [e]
  exact s.rd_wr_ne w hq

theorem State.writeField_noRegs (f : Field) (i : Ix) (v : Nat) : (s.writeField f i v).noRegs = s.noRegs := by
  obtain ⟨w, sw, e | e⟩ := s.writeField_frame f i v <;> rw [e]
  rfl

/-- A field reads as its access code has it after the write. -/
theorem State.get_writeField_self {f : Field} {n : RegName} (hf : f.Fits n) (i : Ix) (v : Nat) :
    (s.writeField f i v).get f i = s.fieldAfter f i v := by
  have put (x : Nat) (hx : x < 2 ^ (f.hi + 1 - f.lo)) : (s.put f i x).get f i = x := by
    rw [State.get_put_self s f i x hf.ordered hf.top, Nat.mod_eq_of_lt hx]
  unfold State.writeField State.fieldAfter
  split
  · exact put _ (bits_lt _ _ _)
  · exact put _ (Nat.lt_of_le_of_lt Nat.and_le_left (s.get_lt f i))
  · exact put _ (Nat.or_lt_two_pow (s.get_lt f i) (bits_lt _ _ _))
  · rfl

/-- A field beside it reads as before. -/
theorem State.get_writeField_apart {f g : Field} {n : RegName} (hf : f.Fits n) (hg : g.Fits n) (d : g.Apart f) (i : Ix) (v : Nat) :
    (s.writeField f i v).get g i = s.get g i := by
  have put (x : Nat) : (s.put f i x).get g i = s.get g i :=
    (State.get_put_field s i x hf.ordered hg.top d).resolve_right (by rw [hf.reg, hg.reg]; simp)
  unfold State.writeField
  split
  · exact put _
  · exact put _
  · exact put _
  · rfl

/-- What a field is about to read as does not change with a write of a field beside it. -/
theorem State.fieldAfter_writeField {f g : Field} {n : RegName} (hf : f.Fits n) (hg : g.Fits n) (d : g.Apart f) (i : Ix) (v : Nat) :
    (s.writeField f i v).fieldAfter g i v = s.fieldAfter g i v := by
  simp only [State.fieldAfter, State.get_writeField_apart hf hg d, State.writeField_hwSet, State.writeField_tick]

/-! ## All fields of a register -/

/-- A field that overlaps none of those written reads as before. -/
theorem State.get_writeFields_apart {g : Field} {n : RegName} (hg : g.Fits n) (i : Ix) (v : Nat) (fs : List Field)
    (hfs : ∀ f ∈ fs, f.Fits n) (d : ∀ f ∈ fs, g.Apart f) :
    (forAll fs (fun f t => t.writeField f i v) s).get g i = s.get g i := by
  induction fs generalizing s with
  | nil => rfl
  | cons f fs ih =>
    rw [List.forall_mem_cons] at hfs d
    exact (ih hfs.2 d.2).trans (State.get_writeField_apart hfs.1 hg d.1 i v)

/-- Each field written reads as its access code has it. -/
theorem State.get_writeFields {n : RegName} (i : Ix) (v : Nat) (fs : List Field) (hfs : ∀ f ∈ fs, f.Fits n)
    (d : fs.Pairwise Field.Apart) : ∀ g ∈ fs, (forAll fs (fun f t => t.writeField f i v) s).get g i = s.fieldAfter g i v := by
  induction fs generalizing s with
  | nil => simp
  | cons f fs ih =>
    rw [List.forall_mem_cons] at hfs
    rw [List.pairwise_cons] at d
    rw [List.forall_mem_cons]
    constructor
    · exact (State.get_writeFields_apart hfs.1 i v fs hfs.2 d.1).trans (State.get_writeField_self hfs.1 i v)
    · intro g hg
      exact (ih hfs.2 d.2 g hg).trans (State.fieldAfter_writeField hfs.1 (hfs.2 g hg) (d.1 g hg).symm i v)

/-- Another register reads as before. -/
theorem State.rd_writeFields_ne {n : RegName} (i : Ix) (v : Nat) {q : Reg} (hq : q ≠ i.reg n) (fs : List Field)
    (hfs : ∀ f ∈ fs, f.Fits n) : (forAll fs (fun f t => t.writeField f i v) s).rd q = s.rd q := by
  induction fs generalizing s with
  | nil => rfl
  | cons f fs ih =>
    rw [List.forall_mem_cons] at hfs
    exact (ih hfs.2).trans (State.writeField_rd_ne f i v (hfs.1.reg ▸ hq))

/-- Each field of a register written by its access codes reads as its code has it. -/
theorem State.get_fieldWrite {r : Reg} {f : Field} (hf : f ∈ r.name.fields) (v : Nat) :
    (s.fieldWrite r v).get f ⟨r.a, r.b, r.c, r.d⟩ = s.fieldAfter f ⟨r.a, r.b, r.c, r.d⟩ v := by
  rw [State.fieldWrite_eq]
  exact State.get_writeFields _ v _ r.name.fields_fit r.name.fields_apart f hf

/-- A write by the access codes touches no other register. -/
theorem State.rd_fieldWrite_ne {r q : Reg} (hq : q ≠ r) (v : Nat) : (s.fieldWrite r v).rd q = s.rd q := by
  rw [State.fieldWrite_eq]
  exact State.rd_writeFields_ne _ v hq _ r.name.fields_fit

/-- A write by the access codes changes nothing but registers, and what R9 keeps of W1S bits. -/
theorem State.fieldWrite_noRegs (r : Reg) (v : Nat) : (s.fieldWrite r v).noRegs = s.noRegs := by
  rw [State.fieldWrite_eq]
  generalize r.name.fields = fs
  induction fs generalizing s with
  | nil => rfl
  | cons f fs ih => exact ih.trans (State.writeField_noRegs f _ v)

/-! ## The access codes, bit by bit -/

theorem bits_eq_div (v hi lo : Nat) : bits v hi lo = v / 2 ^ lo % 2 ^ (hi + 1 - lo) := by
  rw [bits, Nat.shiftRight_eq_div_pow]

theorem testBit_bitsOff (m k i : Nat) : (bitsOff m k).testBit i = (m.testBit i && !k.testBit i) := by
  simp only [bitsOff, Nat.testBit_xor, Nat.testBit_and]
  cases m.testBit i <;> cases k.testBit i <;> rfl

theorem State.fieldAfter_RW {f : Field} (h : f.acc = .RW) (i : Ix) (v : Nat) : s.fieldAfter f i v = bits v f.hi f.lo := by
  simp [State.fieldAfter, h]

theorem State.fieldAfter_W1S {f : Field} (h : f.acc = .W1S) (i : Ix) (v : Nat) :
    s.fieldAfter f i v = s.get f i ||| bits v f.hi f.lo := by
  simp [State.fieldAfter, h]

theorem State.fieldAfter_readOnly {f : Field} (h : f.acc = .RO ∨ f.acc = .RC) (i : Ix) (v : Nat) :
    s.fieldAfter f i v = s.get f i := by
  rcases h with h | h <;> simp [State.fieldAfter, h]

/-- A bit of a W1C field stays where the word has a 0, and where the hardware has set it in this tick (R9). -/
theorem State.testBit_fieldAfter_W1C {f : Field} (h : f.acc = .W1C) (i : Ix) (v : Nat) {k : Nat} (hk : k < f.hi + 1 - f.lo) :
    (s.fieldAfter f i v).testBit k = ((s.get f i).testBit k &&
      (!(bits v f.hi f.lo).testBit k || (notedAt s.hwSet (i.reg f.reg) s.tick).testBit (f.lo + k))) := by
  simp only [State.fieldAfter, h, Nat.testBit_and, Nat.testBit_xor, Nat.testBit_two_pow_sub_one, Nat.testBit_mod_two_pow, hk,
    decide_true, Bool.true_and, testBit_bitsOff, Nat.testBit_shiftRight, Bool.true_xor, Bool.not_and, Bool.not_not]

end Sys2Proof.Machine
end

section
/-! SUPPORT. A host's write of a register without a step of its own (R8, R9, R321; statement O29): what such a write may note
beside the registers is the relation `Aside`, and the write is `State.fieldWrite` between two states that stand in it. -/

namespace Sys2Proof.Machine

variable {s s' : State}

/-! ## What a register write notes beside the registers -/

/-- The state but for its registers and for the units in which a register write leaves a note. -/
def State.rest (s : State) : State := { s.noRegs with till := {}, crWas := [], traders := [], pins := [], axes := [] }

/-- From `s` to `s'` nothing changes beside the registers but what is kept for later changes: from when a trim window runs, what
criers still see of this cycle, what pads and SSI axes carried before, and the selectors that an event of this tick still meets. -/
structure Noted (s s' : State) : Prop where
  rest : s'.rest = s.rest
  till : { s'.till with trimFrom := 0 } = { s.till with trimFrom := 0 }
  pads : s.padsNote s'
  traders : ∀ u, { s'.trader u with hselWas := (0, []) } = { s.trader u with hselWas := (0, []) }

theorem State.padsNote.refl (s : State) : s.padsNote s := ⟨fun _ _ => rfl, fun _ => rfl⟩

theorem State.padsNote.trans {a b c : State} (h : a.padsNote b) (k : b.padsNote c) : a.padsNote c :=
  ⟨fun x i => (k.1 x i).trans (h.1 x i), fun n => (k.2 n).trans (h.2 n)⟩

theorem Noted.refl (s : State) : Noted s s := ⟨rfl, rfl, .refl s, fun _ => rfl⟩

theorem Noted.trans {a b c : State} (h : Noted a b) (k : Noted b c) : Noted a c :=
  ⟨k.rest.trans h.rest, k.till.trans h.till, h.pads.trans k.pads, fun u => (k.traders u).trans (h.traders u)⟩

theorem Noted.part (h : Noted s s') : s'.part = s.part := (congrArg State.part h.rest :)

theorem Noted.tick (h : Noted s s') : s'.tick = s.tick := (congrArg State.tick h.rest :)

theorem Noted.faults (h : Noted s s') : s'.faults = s.faults := (congrArg State.faults h.rest :)

/-- A write by the access codes changes registers alone. -/
theorem State.fieldWrite_noted (r : Reg) (v : Nat) : Noted s (s.fieldWrite r v) := by
  have e := s.fieldWrite_noRegs r v
  exact
    { rest := (congrArg State.rest e :)
      till := congrArg (fun t : State => { t.till with trimFrom := 0 }) e
      pads := ⟨fun h i => congrArg (fun t : State => { t.pin h i with keep := none, capture := none, hist := [] }) e,
        fun n => congrArg (fun t : State => { t.axis n with ssiFall := none }) e⟩
      traders := fun u => congrArg (fun t : State => { t.trader u with hselWas := (0, []) }) e }

/-- The same, where no register changes either, nor what the hardware set in this tick (R9). -/
structure Aside (s s' : State) : Prop extends Noted s s' where
  regs : s'.regs = s.regs
  hwSet : s'.hwSet = s.hwSet

theorem Aside.refl (s : State) : Aside s s := ⟨.refl s, rfl, rfl⟩

theorem Aside.trans {a b c : State} (h : Aside a b) (k : Aside b c) : Aside a c :=
  ⟨h.toNoted.trans k.toNoted, k.regs.trans h.regs, k.hwSet.trans h.hwSet⟩

theorem Aside.rd (h : Aside s s') (q : Reg) : s'.rd q = s.rd q := by
  simp only [State.rd, h.regs, h.part]

theorem Aside.get (h : Aside s s') (f : Field) (i : Ix) : s'.get f i = s.get f i := by
  simp only [State.get, h.rd]

theorem Aside.fieldAfter (h : Aside s s') (f : Field) (i : Ix) (v : Nat) : s'.fieldAfter f i v = s.fieldAfter f i v := by
  simp only [State.fieldAfter, h.get, h.hwSet, h.tick]

theorem forAll_aside {α : Type} (xs : List α) (f : α → State → State) (hf : ∀ x t, Aside t (f x t)) : Aside s (forAll xs f s) := by
  unfold forAll
  induction xs generalizing s with
  | nil => exact .refl s
  | cons x xs ih => exact (hf x s).trans ih

/-! ## Pads, axes and traders -/

theorem State.setPin_aside (h i : Nat) (a : PinState)
    (ha : { a with keep := none, capture := none, hist := [] } = { s.pin h i with keep := none, capture := none, hist := [] }) :
    Aside s (s.setPin h i a) := by
  refine ⟨⟨rfl, rfl, ⟨fun x j => ?_, fun _ => rfl⟩, fun _ => rfl⟩, rfl, rfl⟩
  by_cases e : (x, j) = (h, i)
  · cases e
    rw [State.pin_self, ha]
  · rw [State.pin_ne s h i a x j e]

theorem State.setAxis_aside (n : Nat) (a : Axis) (ha : { a with ssiFall := none } = { s.axis n with ssiFall := none }) :
    Aside s (s.setAxis n a) := by
  refine ⟨⟨rfl, rfl, ⟨fun _ _ => rfl, fun m => ?_⟩, fun _ => rfl⟩, rfl, rfl⟩
  by_cases e : m = n
  · cases e
    rw [State.axis_self, ha]
  · rw [State.axis_ne s n a m e]

theorem State.setTrader_aside (t : TraderId) (a : Trader)
    (ha : { a with hselWas := (0, []) } = { s.trader t with hselWas := (0, []) }) : Aside s (s.setTrader t a) := by
  refine ⟨⟨rfl, rfl, .refl s, fun u => ?_⟩, rfl, rfl⟩
  by_cases e : u = t
  · cases e
    rw [State.trader_self, ha]
  · rw [State.trader_ne s t a u e]

theorem State.crWas_aside (s : State) (was : Tab CrierId CrierWas) : Aside s { s with crWas := was } :=
  ⟨⟨rfl, rfl, .refl s, fun _ => rfl⟩, rfl, rfl⟩

/-- A till that differs only in the start of its trim window. -/
theorem State.till_aside (a : Till) (ha : { a with trimFrom := 0 } = { s.till with trimFrom := 0 }) : Aside s { s with till := a } :=
  ⟨⟨rfl, ha, .refl s, fun _ => rfl⟩, rfl, rfl⟩

theorem State.freezePin_aside (h i t : Nat) : Aside s (s.freezePin h i t) := by
  unfold State.freezePin
  split
  · split
    · exact State.setPin_aside h i _ rfl
    · exact .refl s
  · exact .refl s

theorem State.freeze_aside (h t : Nat) : Aside s (s.freeze h t) := forAll_aside _ _ (fun _ _ => State.freezePin_aside _ _ _)

theorem State.ssiFalls_aside (old : State) (h t : Nat) : Aside s (s.ssiFalls old h t) := by
  refine forAll_aside _ _ (fun k u => ?_)
  dsimp only
  split
  · split
    · exact State.setAxis_aside k _ rfl
    · exact .refl u
  · exact .refl u

theorem State.padTurns_aside (old : State) (h t : Nat) : Aside s (s.padTurns old h t) := by
  refine forAll_aside _ _ (fun k u => ?_)
  split
  · exact .refl u
  · exact State.setPin_aside k.1 k.2 _ rfl

theorem State.hselNote_aside (r : Reg) : Aside s (s.hselNote r) := State.setTrader_aside r.trader _ rfl

/-! ## The access codes, and notes before and after -/

/-- From `s` to `s'` the register `r` is written with `v` by the access codes of its fields, and what else changes is a note. -/
structure Written (s s' : State) (r : Reg) (v : Nat) : Prop where
  field : ∀ f ∈ r.name.fields, s'.get f ⟨r.a, r.b, r.c, r.d⟩ = s.fieldAfter f ⟨r.a, r.b, r.c, r.d⟩ v
  others : s.regsBut s' [r]
  noted : Noted s s'

/-- `State.fieldWrite`, with a note before it and a note after it. -/
theorem Written.of_fieldWrite {t : State} {r : Reg} {v : Nat} (h : Aside s t) (k : Aside (t.fieldWrite r v) s') : Written s s' r v where
  field f hf := by rw [k.get, State.get_fieldWrite hf, h.fieldAfter]
  others q hq := by rw [k.rd, State.rd_fieldWrite_ne (List.ne_of_not_mem_cons hq), h.rd]
  noted := h.toNoted.trans ((State.fieldWrite_noted r v).trans k.toNoted)

/-! ## The plain registers -/

/-- The registers of a crier whose writes are accesses of a port to the crier (R192): its shift registers and their count are not. -/
def RegName.ofPort (n : RegName) : Bool := n.ofCrier && !(n matches .CR_SCNT | .CR_ISH | .CR_OSH)

theorem RegName.ofCrier_of_ofPort {n : RegName} (h : n.ofPort = true) : n.ofCrier = true := (Bool.and_eq_true_iff.mp h).1

/-- The plain registers whose write leaves no note. -/
def RegName.noteless (n : RegName) : Bool :=
  plainNames.contains n && !n.ofPort && n.hsel.isNone && !(n matches .TILL_CTRL | .LN_SB)

/-- The plain registers, by what their write notes. -/
theorem plainNames_cases : ∀ n ∈ plainNames,
    n.noteless = true ∨ n.ofPort = true ∨ n.hsel.isSome = true ∨ n = .TILL_CTRL ∨ n = .LN_SB := by
  decide

section

variable (a b c d : Nat) (by_ : Accessor) (v : Nat)

theorem State.regWrite_noteless {n : RegName} (h : n.noteless = true) :
    s.regWrite by_ ⟨n, a, b, c, d⟩ v = s.fieldWrite ⟨n, a, b, c, d⟩ v := by
  cases n <;> cases h <;> rfl

theorem State.regWrite_ofPort {n : RegName} (h : n.ofPort = true) :
    s.regWrite by_ ⟨n, a, b, c, d⟩ v = s.crierPort ⟨a, b, c⟩ (.reg ⟨n, a, b, c, d⟩ v) := by
  cases n <;> cases h <;> rfl

theorem State.regWrite_hsel {n : RegName} (h : n.hsel.isSome = true) :
    s.regWrite by_ ⟨n, a, b, c, d⟩ v = (s.hselNote ⟨n, a, b, c, d⟩).fieldWrite ⟨n, a, b, c, d⟩ v := by
  cases n <;> cases h <;> rfl

/-- The write of TILL_CTRL tells from when its trim window runs. -/
theorem State.regWrite_TILL_CTRL : ∃ from_, s.regWrite by_ ⟨.TILL_CTRL, a, b, c, d⟩ v =
    { s.fieldWrite ⟨.TILL_CTRL, a, b, c, d⟩ v with till := { s.till with trimFrom := from_ } } := ⟨_, rfl⟩

theorem State.regWrite_LN_SB : s.regWrite by_ ⟨.LN_SB, a, b, c, d⟩ v =
    s.drives a s.tick (fun u => u.fieldWrite ⟨.LN_SB, a, b, c, d⟩ v) := rfl

end

/-- The write of a plain register of a crier, at the end of a cycle in which no instruction has written registers (R192). -/
theorem State.crierOp_reg_plain {r : Reg} (h : r.name ∈ plainNames) {c : CrierId} {m : Nat}
    (hd : ∀ d, Tab.find s.crDid c = some d → d.cycle ≠ m) (v : Nat) : s.crierOp c m (.reg r v) = s.fieldWrite r v := by
  have hr : s.crierReg c m r v = s.fieldWrite r v := by
    unfold State.crierReg
    split <;> simp_all [plainNames]
  simp only [State.crierOp, hr, State.instrWins]
  split
  · next d e => simp [hd d e]
  · rfl

/-- An access of a port keeps what the crier's instructions of this cycle still see, and has its effect (R192). -/
theorem State.crierPort_eq (s : State) (c : CrierId) (op : CrierOp) :
    ∃ was, s.crierPort c op = { s with crWas := was }.crierOp c (s.cycle c.h c.b) op := ⟨_, rfl⟩

/-- A port's write of a plain register of a crier, where no instruction of this cycle has written registers (R192). -/
theorem State.crierPort_reg_plain {r : Reg} (h : r.name ∈ plainNames) {c : CrierId}
    (hd : ∀ d, Tab.find s.crDid c = some d → d.cycle ≠ s.cycle c.h c.b) (v : Nat) :
    ∃ was, s.crierPort c (.reg r v) = { s with crWas := was }.fieldWrite r v := by
  obtain ⟨was, e⟩ := s.crierPort_eq c (.reg r v)
  exact ⟨was, e.trans (State.crierOp_reg_plain (s := { s with crWas := was }) h hd v)⟩

/-- A write of a plain register sets its fields by their access codes; what else changes is a note. -/
theorem State.regWrite_written {r : Reg} (h : r.name ∈ plainNames)
    (hd : r.name.ofCrier = true → ∀ d, Tab.find s.crDid ⟨r.a, r.b, r.c⟩ = some d → d.cycle ≠ s.cycle r.a r.b)
    (by_ : Accessor) (v : Nat) : Written s (s.regWrite by_ r v) r v := by
  obtain ⟨n, a, b, c, d⟩ := r
  rcases plainNames_cases n h with hn | hn | hn | rfl | rfl
  · rw [State.regWrite_noteless a b c d by_ v hn]
    exact .of_fieldWrite (.refl s) (.refl _)
  · obtain ⟨was, e⟩ := State.crierPort_reg_plain h (hd (RegName.ofCrier_of_ofPort hn)) v
    rw [State.regWrite_ofPort a b c d by_ v hn, e]
    exact .of_fieldWrite (s.crWas_aside was) (.refl _)
  · rw [State.regWrite_hsel a b c d by_ v hn]
    exact .of_fieldWrite (State.hselNote_aside _) (.refl _)
  · obtain ⟨from_, e⟩ := State.regWrite_TILL_CTRL (s := s) a b c d by_ v
    rw [e]
    exact .of_fieldWrite (.refl s) (State.till_aside _ (State.fieldWrite_noted _ v).till.symm)
  · rw [State.regWrite_LN_SB, State.drives]
    exact .of_fieldWrite (State.freeze_aside _ _) ((State.ssiFalls_aside _ _ _).trans (State.padTurns_aside _ _ _))

/-! ## The access of a host port -/

theorem State.portOpen_iff {p : Nat} :
    s.portOpen p = true ↔ s.asleep = false ∧ s.held.find? (fun e => e.1 == p) = none := by
  simp [State.portOpen]

/-- A port that is open, at a unit that is not busy: the access has its effect (R321). -/
theorem State.byPort_open {p : Nat} (h : s.portOpen p = true) (x : Nat) (c : Instr) (f : State → State) :
    s.byPort p x c false f = f s := by
  obtain ⟨ha, hh⟩ := State.portOpen_iff.mp h
  simp [State.byPort, ha, hh]

theorem State.settle_of_noFaults (h : s.faults = []) : s.settle = s := by simp [State.settle, h]

/-- A plain register has 32 bits, is no word of a queue descriptor, and takes effect as a whole word (R23, R283). -/
theorem plainNames_word : ∀ n ∈ plainNames, n.qOff = none ∧ n.direct = false ∧ n.is64 = false := by decide

/-- A host's aligned write of 32 bits to a plain register that is present. -/
theorem State.hostWrite_plain {addr : Nat} {data : List Byte} {r : Reg} (hl : data.length = 4) (ha : addr % 4 = 0)
    (hr : s.hostReg addr = some (r, false)) (hp : s.reached r = true) (h : r.name ∈ plainNames) (p : Nat) :
    s.hostWrite p addr data = s.regWrite (.host p) r (ofBytes data) := by
  obtain ⟨hq, hd, h64⟩ := plainNames_word r.name h
  simp [State.hostWrite, State.wordWrite, hl, ha, hr, hp, hq, hd, h64]

/-- An open port's write to an address that nothing holds is the write of the register block. -/
theorem exec_registerWrite_host {p addr : Nat} (data : List Byte) (ho : s.portOpen p = true) (hh : s.heldAt addr = none) :
    exec (.registerWrite (.host p) addr data) s = .next (s.hostWrite p addr data).settle := by
  show execRegisterWrite (.host p) addr data s = _
  simp [execRegisterWrite, (State.portOpen_iff.mp ho).1, hh, State.byPort_open ho]

end Sys2Proof.Machine

namespace Sys2Proof.Proofs

open Sys2Proof.Machine

/-- Settles O29: the write is `State.fieldWrite` but for the notes of `Aside`, and each field reads as its access code has it. -/
theorem hostRegisterWrite : Obligations.HostRegisterWrite := by
  intro s p addr data r ho hl ha hr hp h hf hh hd i
  have w := State.regWrite_written h hd (.host p) (ofBytes data)
  refine ⟨_, exec_registerWrite_host data ho hh, ?_⟩
  rw [State.hostWrite_plain hl ha hr hp h p, State.settle_of_noFaults (w.noted.faults.trans hf)]
  refine ⟨fun f hfr => ?_, w.others, ?_, ?_, w.noted.pads, fun u => ?_⟩
  · have hv := bits_eq_div (ofBytes data) f.hi f.lo
    have hreg : i.reg f.reg = r := (congrArg i.reg (r.name.fields_fit f hfr).reg :)
    rw [w.field f hfr]
    dsimp only
    rw [← hv]
    refine ⟨fun e => State.fieldAfter_RW e i _, fun e k hk => ?_, fun e => State.fieldAfter_W1S e i _,
      fun e => State.fieldAfter_readOnly e i _⟩
    rw [State.testBit_fieldAfter_W1C e i _ hk, hreg]
  · exact congrArg (fun t : State =>
      { t with till := s.till, crWas := s.crWas, traders := s.traders, pins := s.pins, axes := s.axes }) w.noted.rest
  · exact congrArg (fun t : Till => { t with trimFrom := s.till.trimFrom }) w.noted.till
  · exact congrArg (fun t : Trader => { t with hselWas := (s.trader u).hselWas }) (w.noted.traders u)

end Sys2Proof.Proofs
end

section
/-! SUPPORT. The till, the axes and the marks: the state at power-on, and the states in which statements O1, O36 and O37 fail, built
from the state at power-on. -/

namespace Sys2Proof.Machine

/-- The tile at tick 100, with lane 0 of hall 0 off and an axis-sync frame that its near-end loopback received at tick 0. -/
def loopedSync : State := ({ State.reset with tick := 100 } : State).setLane 0 0 { loopSync := [([], 0)] }

/-- No lane sends or is up. -/
theorem loopedSync_quiet : ∀ k ∈ Tab.keys loopedSync.lanes, loopedSync.sending k.1 k.2 = false ∧ loopedSync.laneUp k.1 k.2 = false := by
  decide

/-- As time passes, the lane still takes the frame that has come back. -/
theorem loopedSync_taken : loopedSync.pass.lanes ≠ loopedSync.lanes := by decide

/-- Axis 0 at tick 1,000 with an update due at tick 964: enabled, quadrature, lost, with a preset pending and a measurement, moving, and with
one missing measurement as the limit of STANDSTILL. -/
def lostPreset : State :=
  let s : State := { State.reset with tick := 1000 }
  let s := ((s.set TAX_CTRL.ENABLE (ix 0) true).put TAX_CTRL.K (ix 0) 6).put TAX_CTRL.SRC (ix 0) 1
  ((s.set TAX_STATUS.LOST (ix 0) true).put TAX_LIMITS.STANDSTILL (ix 0) 1).setAxis 0
    { t := 900, v := 1, presetPend := true, meas := some (0, 900) }

/-- The update of a lost axis uses no measurement, so it counts as a missing one, and the count of one already stands the axis still. -/
theorem lostPreset_stands (s' : State) (h : exec (.estimatorUpdate 0) lostPreset = .next s') : (s'.axis 0).v = 0 := by
  cases h
  decide

/-- Mark 0 of hall 0 with its committed instant at tick 1,000, which has come, while the hall has a ring of its bell 0 to make at the clock
edge of that tick. -/
def markAndRing : State :=
  let s : State := { State.reset with tick := 1000, edgeActs := [⟨0, 1000, .bell 0⟩] }
  (s.set TM_STATUS.ARMED (ix 0 0) true).setMark 0 0 { inst := some 1000, committed := true, cfg := 2 ^ 31 }

/-- With the action of the mark the ring is made too. -/
theorem markAndRing_rings (s' : State) (h : exec (.markAction 0 0) markAndRing = .next s') : s'.edgeActs = [] := by
  cases h
  decide

end Sys2Proof.Machine

namespace Sys2Proof.Proofs

open Sys2Proof.Machine

/-- Settles O2: no register, unit or queue has an entry at power-on, so each reads as its default. -/
theorem resetState : Obligations.ResetState :=
  ⟨rfl, rfl, by decide, by decide, by decide, by decide, by decide, fun _ => rfl, fun _ => rfl, fun _ => rfl,
    rfl, rfl, rfl, rfl, rfl, rfl, rfl⟩

/-- Refutes O1: on an empty queue a lane that neither sends nor is up still takes the axis-sync frames that its near-end loopback has
received 64 ticks before, so more than the tick and pads changes (`loopedSync`). -/
theorem not_stepRunsFrontCommand : ¬ Obligations.StepRunsFrontCommand := by
  rintro ⟨-, h⟩
  obtain ⟨s', hs, -, hrest⟩ := h loopedSync rfl
  rw [step_of_empty rfl] at hs
  cases hs
  have e := (hrest loopedSync_quiet rfl).1 (by decide)
  exact loopedSync_taken (congrArg State.lanes e :)

/-- Refutes O36: a preset does not keep the velocity of a lost axis whose limit of STANDSTILL is one missing measurement (`lostPreset`). -/
theorem not_axisCommands : ¬ Obligations.AxisCommands := by
  rintro ⟨h, -⟩
  obtain ⟨-, -, preset, -⟩ := h lostPreset 0 (by decide) (by decide) rfl rfl rfl rfl (by decide) (by decide) rfl rfl rfl
  obtain ⟨s', hs, -, hv, -⟩ := preset (by decide) rfl rfl rfl
  rw [lostPreset_stands s' hs] at hv
  exact absurd hv (by decide)

/-- Refutes O37: MARK_ACTION also does what the halls still have to do at clock edges that have come, so more than marks, pads and axes
changes (`markAndRing`). -/
theorem not_marks : ¬ Obligations.Marks := by
  rintro ⟨-, -, h, -⟩
  obtain ⟨s', hs, -, -, -, -, -, -, -, -, -, -, hrest, -⟩ :=
    h markAndRing 0 0 1000 rfl rfl rfl rfl (by decide) (by decide) (by decide) (by decide) (by decide) (by decide) rfl (by decide)
      (by decide)
  have e : s'.edgeActs = markAndRing.edgeActs := (congrArg State.edgeActs hrest :)
  rw [markAndRing_rings s' hs] at e
  exact absurd e (by decide)

end Sys2Proof.Proofs
end


section
/-! SUPPORT. Registers beside one that is written, and changes of what drives pads: what they leave as it was. -/

namespace Sys2Proof.Machine

variable {s s' : State}

/-! ## Fields beside one that is set -/

/-- No bit of `g` is one of `f`: they are fields of different registers, or of different bits of one. -/
abbrev Field.Beside (g f : Field) : Prop := g.reg ≠ f.reg ∨ (f.lo ≤ f.hi ∧ g.hi < 64 ∧ (g.hi < f.lo ∨ f.hi < g.lo))

theorem Ix.reg_ne {n m : RegName} (h : n ≠ m) (i j : Ix) : i.reg n ≠ j.reg m := fun e => h (congrArg Reg.name e)

theorem State.get_put_beside {g f : Field} (h : g.Beside f) (i j : Ix) (v : Nat) : (s.put f i v).get g j = s.get g j := by
  by_cases e : j.reg g.reg = i.reg f.reg
  · have hij : j = i := by
      cases i; cases j
      simp only [Ix.reg, Reg.mk.injEq] at e
      simp [e]
    subst hij
    rcases h with h | ⟨hf, hg, d⟩
    · exact absurd e (Ix.reg_ne h _ _)
    · exact (s.get_put_field j v hf hg d).resolve_right (not_not_intro e)
  · exact s.get_put_ne v e

theorem State.get_set_beside {g f : Field} (h : g.Beside f) (i j : Ix) (b : Bool) : (s.set f i b).get g j = s.get g j := by
  simp only [State.set, State.noteHw_get, State.get_put_beside h]

theorem State.is_put_beside {g f : Field} (h : g.Beside f) (i j : Ix) (v : Nat) : (s.put f i v).is g j = s.is g j := by
  simp only [State.is, State.get_put_beside h]

theorem State.is_set_beside {g f : Field} (h : g.Beside f) (i j : Ix) (b : Bool) : (s.set f i b).is g j = s.is g j := by
  simp only [State.is, State.get_set_beside h]

theorem State.rd_put_ne {f : Field} {i : Ix} {q : Reg} (h : q ≠ i.reg f.reg) (v : Nat) : (s.put f i v).rd q = s.rd q :=
  s.rd_wr_ne _ h

theorem State.rd_set_ne {f : Field} {i : Ix} {q : Reg} (h : q ≠ i.reg f.reg) (b : Bool) : (s.set f i b).rd q = s.rd q :=
  s.rd_wr_ne _ h

theorem State.get_of_rd {r : Field} {i : Ix} (h : s'.rd (i.reg r.reg) = s.rd (i.reg r.reg)) : s'.get r i = s.get r i := by
  simp only [State.get, h]

theorem State.is_of_rd {r : Field} {i : Ix} (h : s'.rd (i.reg r.reg) = s.rd (i.reg r.reg)) : s'.is r i = s.is r i := by
  simp only [State.is, State.get_of_rd h]

/-- Setting a flag at an instant differs from setting it now in what R9 keeps of the tick alone. -/
theorem State.setAt_eq (f : Field) (i : Ix) (at_ : Nat) :
    ∃ hw, s.setAt f i at_ = { s.put f i 1 with hwSet := hw } := by
  unfold State.setAt
  split
  · exact ⟨_, rfl⟩
  · exact ⟨_, rfl⟩

theorem State.get_setAt_beside {g f : Field} (h : g.Beside f) (i j : Ix) (at_ : Nat) : (s.setAt f i at_).get g j = s.get g j := by
  obtain ⟨hw, e⟩ := s.setAt_eq f i at_
  rw [e]
  exact State.get_put_beside h i j 1

theorem State.is_setAt_self {f : Field} (i : Ix) (at_ : Nat) (h : f.hi = f.lo) (hh : f.hi < 64) : (s.setAt f i at_).is f i = true := by
  obtain ⟨hw, e⟩ := s.setAt_eq f i at_
  rw [e]
  exact s.is_set_self f i true h hh

theorem State.rd_setAt_ne {f : Field} {i : Ix} {q : Reg} (h : q ≠ i.reg f.reg) (at_ : Nat) : (s.setAt f i at_).rd q = s.rd q := by
  obtain ⟨hw, e⟩ := s.setAt_eq f i at_
  rw [e]
  exact State.rd_put_ne h 1

/-! ## Registers outside a list -/

theorem State.regsBut.refl (s : State) (rs : List Reg) : s.regsBut s rs := fun _ _ => rfl

theorem State.regsBut.trans {a b c : State} {rs : List Reg} (h : a.regsBut b rs) (k : b.regsBut c rs) : a.regsBut c rs :=
  fun r hr => (k r hr).trans (h r hr)

theorem State.regsBut.mono {rs rs' : List Reg} (h : s.regsBut s' rs) (hs : rs ⊆ rs') : s.regsBut s' rs' :=
  fun r hr => h r (fun k => hr (hs k))

theorem State.regsBut_put {rs : List Reg} (f : Field) (i : Ix) (v : Nat) (h : i.reg f.reg ∈ rs) : s.regsBut (s.put f i v) rs :=
  fun _ hr => State.rd_put_ne (ne_of_mem_of_not_mem h hr).symm v

theorem State.regsBut_set {rs : List Reg} (f : Field) (i : Ix) (b : Bool) (h : i.reg f.reg ∈ rs) : s.regsBut (s.set f i b) rs :=
  fun _ hr => State.rd_set_ne (ne_of_mem_of_not_mem h hr).symm b

theorem State.regsBut_setAt {rs : List Reg} (f : Field) (i : Ix) (at_ : Nat) (h : i.reg f.reg ∈ rs) : s.regsBut (s.setAt f i at_) rs :=
  fun _ hr => State.rd_setAt_ne (ne_of_mem_of_not_mem h hr).symm at_

theorem State.regsBut_wr {rs : List Reg} (r : Reg) (v : Nat) (h : r ∈ rs) : s.regsBut (s.wr r v) rs :=
  fun _ hr => s.rd_wr_ne v (ne_of_mem_of_not_mem h hr).symm

/-! ## What changes when a source of pads does -/

/-- From `s` to `s'` nothing changes but pads and axes. -/
def State.OnlyPads (s s' : State) : Prop := ∃ pins axes, s' = { s with pins := pins, axes := axes }

theorem State.OnlyPads.refl (s : State) : s.OnlyPads s := ⟨_, _, rfl⟩

theorem State.OnlyPads.trans {a b c : State} (h : a.OnlyPads b) (k : b.OnlyPads c) : a.OnlyPads c := by
  obtain ⟨_, _, rfl⟩ := h
  obtain ⟨_, _, rfl⟩ := k
  exact ⟨_, _, rfl⟩

theorem State.OnlyPads.rd (h : s.OnlyPads s') (q : Reg) : s'.rd q = s.rd q := by
  obtain ⟨_, _, rfl⟩ := h
  rfl

theorem forAll_onlyPads {α : Type} (xs : List α) (f : α → State → State) (hf : ∀ x (t : State), t.OnlyPads (f x t)) :
    s.OnlyPads (forAll xs f s) := by
  unfold forAll
  induction xs generalizing s with
  | nil => exact .refl s
  | cons x xs ih => exact (hf x s).trans ih

theorem State.freezePin_onlyPads (h i t : Nat) : s.OnlyPads (s.freezePin h i t) := by
  unfold State.freezePin
  split
  · split
    · exact ⟨_, _, rfl⟩
    · exact .refl s
  · exact .refl s

theorem State.freeze_onlyPads (h t : Nat) : s.OnlyPads (s.freeze h t) :=
  forAll_onlyPads _ _ (fun _ _ => State.freezePin_onlyPads _ _ _)

theorem State.ssiFalls_onlyPads (old : State) (h t : Nat) : s.OnlyPads (s.ssiFalls old h t) := by
  refine forAll_onlyPads _ _ (fun k u => ?_)
  dsimp only
  split
  · split
    · exact ⟨_, _, rfl⟩
    · exact .refl u
  · exact .refl u

theorem State.padTurns_onlyPads (old : State) (h t : Nat) : s.OnlyPads (s.padTurns old h t) := by
  refine forAll_onlyPads _ _ (fun k u => ?_)
  split
  · exact .refl u
  · exact ⟨_, _, rfl⟩

/-- A change `f` that looks at neither pads nor axes is made as without the bookkeeping of pads around it. -/
theorem State.drives_onlyPads {f : State → State} (hf : ∀ u v : State, u.OnlyPads v → (f u).OnlyPads (f v)) (h t : Nat) :
    (f s).OnlyPads (s.drives h t f) :=
  ((hf _ _ (State.freeze_onlyPads h t)).trans (State.ssiFalls_onlyPads _ h t)).trans (State.padTurns_onlyPads _ h t)

end Sys2Proof.Machine
end


section
/-! SUPPORT. The counters (R52 to R60): the next arrival by count, period and compare value, and what an arrival leaves. -/

namespace Sys2Proof.Machine

variable {s : State} {h c : Nat}

/-! ## Clock events and the next arrival -/

theorem State.ctEvents_disabled (hd : s.is CT_CTRL.ENABLE (ix h c) = false) (upto : Nat) : s.ctEvents h c upto = [] := by
  simp [State.ctEvents, hd]

/-- A tick-clocked counter has one clock event a tick (R54). -/
theorem State.ctSum_ctEvents_ticks (he : s.is CT_CTRL.ENABLE (ix h c) = true) (hs : s.get CT_CTRL.CLK_SRC (ix h c) = 0) (upto : Nat) :
    ctSum (s.ctEvents h c upto) = upto - (s.counter h c).asOf := by
  simp only [State.ctEvents, he, hs, Bool.not_true, Bool.false_eq_true, if_false]
  split
  · simp [ctSum]
  · simp only [ctSum, List.map_nil, List.sum_nil]
    omega

/-- The next arrival: a match where the compare value is met before the next wrap, and otherwise a wrap, unless the match that coincides
with the wrap has not been taken. -/
theorem State.ctNext_eq (s : State) (h c : Nat) :
    let v := s.get CT_COUNT.VAL (ix h c)
    let p := s.get CT_PERIOD.VAL (ix h c)
    let m := s.get CT_COMPARE.VAL (ix h c)
    s.ctNext h c =
      if v < m ∧ m < v + wrapDist v p then (.hit, m - v)
      else if m = 0 ∧ (s.counter h c).matched = false then (.hit, wrapDist v p)
      else (.turn, wrapDist v p) := by
  intro v p m
  have hd : s.ctNext h c = match matchDist v p m with
    | some d => if d < wrapDist v p ∨ (d = wrapDist v p ∧ !(s.counter h c).matched) then (.hit, d) else (.turn, wrapDist v p)
    | none => (.turn, wrapDist v p) := rfl
  rw [hd]
  unfold matchDist
  by_cases h1 : v < m ∧ m < v + wrapDist v p
  · have : m - v < wrapDist v p := by omega
    simp [h1, this]
  · by_cases h2 : m ≤ p
    · have h3 : m = 0 ↔ wrapDist v p + m = wrapDist v p := by omega
      simp only [h1, h2, if_false, if_true, h3]
      rcases Nat.eq_zero_or_pos m with e | e
      · simp [e]
      · have : ¬ wrapDist v p + m < wrapDist v p := by omega
        rw [if_neg (by omega)]
        simp [e.ne']
    · have : m ≠ 0 := by omega
      simp [h1, h2, this]

theorem wrapDist_pos {v p : Nat} (hv : v < 2 ^ 32) : 0 < wrapDist v p := by
  unfold wrapDist
  split <;> omega

/-- The count meets a compare value above it, unless the period ends before. -/
theorem State.ctNext_hit (hm : s.get CT_COUNT.VAL (ix h c) < s.get CT_COMPARE.VAL (ix h c))
    (hp : s.get CT_COMPARE.VAL (ix h c) ≤ s.get CT_PERIOD.VAL (ix h c) ∨ s.get CT_PERIOD.VAL (ix h c) < s.get CT_COUNT.VAL (ix h c)) :
    s.ctNext h c = (.hit, s.get CT_COMPARE.VAL (ix h c) - s.get CT_COUNT.VAL (ix h c)) := by
  have hlt : s.get CT_COMPARE.VAL (ix h c) < 2 ^ 32 := s.get_lt _ _
  rw [State.ctNext_eq, if_pos]
  refine ⟨hm, ?_⟩
  unfold wrapDist
  split <;> omega

/-- A compare value at or below the count is not met before the next wrap. -/
theorem State.ctNext_turn (hm : s.get CT_COMPARE.VAL (ix h c) ≤ s.get CT_COUNT.VAL (ix h c)) (h0 : 0 < s.get CT_COMPARE.VAL (ix h c)) :
    s.ctNext h c = (.turn, wrapDist (s.get CT_COUNT.VAL (ix h c)) (s.get CT_PERIOD.VAL (ix h c))) := by
  rw [State.ctNext_eq, if_neg (by omega), if_neg (by omega)]

theorem State.ctNext_pos (s : State) (h c : Nat) : 0 < (s.ctNext h c).2 := by
  have hv : s.get CT_COUNT.VAL (ix h c) < 2 ^ 32 := s.get_lt _ _
  rw [State.ctNext_eq]
  split
  · dsimp only
    omega
  · split
    · exact wrapDist_pos hv
    · exact wrapDist_pos hv

/-- With fewer clock events than the next arrival needs, they are counted at once. -/
theorem State.ctTo_of_lt {upto : Nat} (hn : ctSum (s.ctEvents h c upto) < (s.ctNext h c).2) :
    s.ctTo h c upto = if ctSum (s.ctEvents h c upto) = 0 then s
      else s.ctTake h c (ctSum (s.ctEvents h c upto)) (s.get CT_COUNT.VAL (ix h c) + ctSum (s.ctEvents h c upto)) := by
  have hd : s.ctDue h c upto = none := if_neg (by omega)
  simp only [State.ctTo, State.ctRun, hd]

/-- A counter that is not enabled stands. -/
theorem State.ctTo_disabled (hd : s.is CT_CTRL.ENABLE (ix h c) = false) (upto : Nat) : s.ctTo h c upto = s := by
  have h0 : ctSum (s.ctEvents h c upto) = 0 := by rw [State.ctEvents_disabled hd]; rfl
  rw [State.ctTo_of_lt (by rw [h0]; exact s.ctNext_pos h c), if_pos h0]

/-! ## Clock events counted -/

/-- The counter after `n` clock events, but for its count. -/
def State.ctTaken (s : State) (h c n : Nat) : Counter :=
  let k := s.counter h c
  if s.get CT_CTRL.CLK_SRC (ix h c) = 0 then { k with asOf := k.asOf + n } else { k with todo := dropEvents n k.todo }

theorem State.ctTake_eq (s : State) (h c n v : Nat) :
    s.ctTake h c n v = (s.setCounter h c (s.ctTaken h c n)).put CT_COUNT.VAL (ix h c) v := rfl

theorem State.ctTaken_lastMatch (s : State) (h c n : Nat) : (s.ctTaken h c n).lastMatch = (s.counter h c).lastMatch := by
  unfold State.ctTaken
  split <;> rfl

theorem State.ctTaken_lastWrap (s : State) (h c n : Nat) : (s.ctTaken h c n).lastWrap = (s.counter h c).lastWrap := by
  unfold State.ctTaken
  split <;> rfl

theorem State.ctTake_counter (s : State) (h c n v : Nat) : (s.ctTake h c n v).counter h c = s.ctTaken h c n := by
  rw [State.ctTake_eq, State.put_counter, State.counter_self]

/-! ## The output action of an arrival (R60) -/

/-- The output level after an action: none, set, clear or toggle. -/
def State.ctLevel (s : State) (h c act : Nat) : Bool :=
  if act = 1 then true else if act = 2 then false else if act = 3 then !s.is CT_CTRL.OUT_LEVEL (ix h c) else s.is CT_CTRL.OUT_LEVEL (ix h c)

theorem State.onlyPads_set {u v : State} (e : u.OnlyPads v) (f : Field) (i : Ix) (b : Bool) : (u.set f i b).OnlyPads (v.set f i b) := by
  obtain ⟨_, _, rfl⟩ := e
  exact ⟨_, _, rfl⟩

/-- An output action sets the level, or leaves everything as it was. -/
theorem State.ctOut_cases (s : State) (h c act at_ : Nat) :
    (s.ctOut h c act at_ = s ∧ s.ctLevel h c act = s.is CT_CTRL.OUT_LEVEL (ix h c)) ∨
      (s.set CT_CTRL.OUT_LEVEL (ix h c) (s.ctLevel h c act)).OnlyPads (s.ctOut h c act at_) := by
  unfold State.ctOut State.ctLevel
  split
  · exact .inr (State.drives_onlyPads (fun _ _ e => State.onlyPads_set e _ _ _) h at_)
  · exact .inr (State.drives_onlyPads (fun _ _ e => State.onlyPads_set e _ _ _) h at_)
  · refine .inr (State.drives_onlyPads (fun u v e => ?_) h at_)
    rw [show v.is CT_CTRL.OUT_LEVEL (ix h c) = u.is CT_CTRL.OUT_LEVEL (ix h c) from State.is_of_rd (e.rd _)]
    exact State.onlyPads_set e _ _ _
  · next h1 h2 h3 => exact .inl ⟨rfl, by rw [if_neg h1, if_neg h2, if_neg h3]⟩

theorem State.is_OUT_LEVEL_ctOut (s : State) (h c act at_ : Nat) :
    (s.ctOut h c act at_).is CT_CTRL.OUT_LEVEL (ix h c) = s.ctLevel h c act := by
  rcases s.ctOut_cases h c act at_ with ⟨e, hl⟩ | e
  · rw [e, hl]
  · rw [State.is_of_rd (e.rd _), State.is_set_self _ _ _ _ rfl (by decide)]

theorem State.get_ctOut {g : Field} (hg : g.Beside CT_CTRL.OUT_LEVEL) (j : Ix) (act at_ : Nat) :
    (s.ctOut h c act at_).get g j = s.get g j := by
  rcases s.ctOut_cases h c act at_ with ⟨e, -⟩ | e
  · rw [e]
  · rw [State.get_of_rd (e.rd _), State.get_set_beside hg]

theorem State.regsBut_ctOut (act at_ : Nat) : s.regsBut (s.ctOut h c act at_) [(ix h c).reg .CT_CTRL] := by
  rcases s.ctOut_cases h c act at_ with ⟨e, -⟩ | e
  · rw [e]
    exact .refl s _
  · exact fun q hq => (e.rd q).trans (State.regsBut_set _ _ _ (List.mem_singleton.mpr rfl) q hq)

/-! ## What an arrival changes -/

/-- The state but for what a counter changes beside events and bells: registers, counters, and pads and axes on them. -/
def State.sansCounters (s : State) : State := { s.noRegs with pins := [], axes := [], counters := [] }

theorem State.OnlyPads.sansCounters {u v : State} (e : u.OnlyPads v) : v.sansCounters = u.sansCounters := by
  obtain ⟨_, _, rfl⟩ := e
  rfl

theorem State.OnlyPads.counter {u v : State} (e : u.OnlyPads v) (a b : Nat) : v.counter a b = u.counter a b := by
  obtain ⟨_, _, rfl⟩ := e
  rfl

theorem State.setAt_sansCounters (f : Field) (i : Ix) (at_ : Nat) : (s.setAt f i at_).sansCounters = s.sansCounters := by
  obtain ⟨hw, e⟩ := s.setAt_eq f i at_
  rw [e]
  rfl

theorem State.setAt_counter (f : Field) (i : Ix) (at_ a b : Nat) : (s.setAt f i at_).counter a b = s.counter a b := by
  obtain ⟨hw, e⟩ := s.setAt_eq f i at_
  rw [e]
  rfl

theorem State.ctOut_sansCounters (act at_ : Nat) : (s.ctOut h c act at_).sansCounters = s.sansCounters := by
  rcases s.ctOut_cases h c act at_ with ⟨e, -⟩ | e
  · rw [e]
  · exact e.sansCounters

theorem State.ctOut_counter (act at_ a b : Nat) : (s.ctOut h c act at_).counter a b = s.counter a b := by
  rcases s.ctOut_cases h c act at_ with ⟨e, -⟩ | e
  · rw [e]
  · exact e.counter a b

/-- An arrival before its event and its ring: `n` clock events are counted up to the count `v`, the counter notes it as `f` has it, the flag
is set, and the output action `act` is taken. -/
def State.ctArrive (s : State) (h c n v : Nat) (f : Counter → Counter) (flag act : Field) (at_ : Nat) : State :=
  let s := s.ctTake h c n v
  let s := s.setCounter h c (f (s.counter h c))
  (s.setAt flag (ix h c) at_).ctOut h c (s.get act (ix h c)) at_

section

variable {flag act : Field} (n v : Nat) (f : Counter → Counter) (at_ : Nat)

theorem State.ctArrive_get_COUNT (hf : flag.reg = .CT_STATUS) :
    (s.ctArrive h c n v f flag act at_).get CT_COUNT.VAL (ix h c) = v % 2 ^ 32 := by
  have hb : CT_COUNT.VAL.Beside flag := .inl (by rw [hf]; decide)
  rw [State.ctArrive, State.get_ctOut (by decide), State.get_setAt_beside hb, State.setCounter_get, State.ctTake_eq,
    State.get_put_self _ _ _ _ (by decide) (by decide)]
  rfl

theorem State.ctArrive_is_flag (hf : flag.reg = .CT_STATUS) (h1 : flag.hi = flag.lo) (h2 : flag.hi < 64) :
    (s.ctArrive h c n v f flag act at_).is flag (ix h c) = true := by
  have hb : flag.Beside CT_CTRL.OUT_LEVEL := .inl (by rw [hf]; decide)
  simp only [State.ctArrive, State.is, State.get_ctOut hb]
  exact State.is_setAt_self _ _ h1 h2

/-- A field of CT_CTRL but OUT_LEVEL reads as before. -/
theorem State.ctArrive_get {g : Field} (hf : flag.reg = .CT_STATUS) (hg : g.reg = .CT_CTRL) (hb : g.Beside CT_CTRL.OUT_LEVEL) (j : Ix) :
    (s.ctArrive h c n v f flag act at_).get g j = s.get g j := by
  have h1 : g.Beside flag := .inl (by rw [hf, hg]; decide)
  have h2 : g.Beside CT_COUNT.VAL := .inl (by rw [hg]; decide)
  rw [State.ctArrive, State.get_ctOut hb, State.get_setAt_beside h1, State.setCounter_get, State.ctTake_eq, State.get_put_beside h2,
    State.setCounter_get]

theorem State.ctArrive_is {g : Field} (hf : flag.reg = .CT_STATUS) (hg : g.reg = .CT_CTRL) (hb : g.Beside CT_CTRL.OUT_LEVEL) (j : Ix) :
    (s.ctArrive h c n v f flag act at_).is g j = s.is g j := by
  simp only [State.is, State.ctArrive_get n v f at_ hf hg hb]

theorem State.ctArrive_level (hf : flag.reg = .CT_STATUS) (ha : act.reg = .CT_CTRL) :
    (s.ctArrive h c n v f flag act at_).is CT_CTRL.OUT_LEVEL (ix h c) = s.ctLevel h c (s.get act (ix h c)) := by
  have h1 : CT_CTRL.OUT_LEVEL.Beside flag := .inl (by rw [hf]; decide)
  have h2 : act.Beside CT_COUNT.VAL := .inl (by rw [ha]; decide)
  have h3 : CT_CTRL.OUT_LEVEL.Beside CT_COUNT.VAL := by decide
  rw [State.ctArrive, State.is_OUT_LEVEL_ctOut]
  simp only [State.ctLevel, State.is, State.get_setAt_beside h1, State.setCounter_get, State.ctTake_eq, State.get_put_beside h2,
    State.get_put_beside h3]

theorem State.ctArrive_regsBut (hf : flag.reg = .CT_STATUS) :
    s.regsBut (s.ctArrive h c n v f flag act at_) [(ix h c).reg .CT_COUNT, (ix h c).reg .CT_STATUS, (ix h c).reg .CT_CTRL] := by
  have taken : s.regsBut (s.ctTake h c n v) [(ix h c).reg .CT_COUNT, (ix h c).reg .CT_STATUS, (ix h c).reg .CT_CTRL] :=
    State.regsBut_put _ _ _ (by simp [CT_COUNT.VAL])
  refine taken.trans (State.regsBut.trans ?_ (State.regsBut_ctOut _ _ |>.mono (by simp)))
  exact State.regsBut_setAt _ _ _ (by simp [hf])

theorem State.ctArrive_sansCounters : (s.ctArrive h c n v f flag act at_).sansCounters = s.sansCounters := by
  rw [State.ctArrive, State.ctOut_sansCounters, State.setAt_sansCounters]
  rfl

theorem State.ctArrive_traders : (s.ctArrive h c n v f flag act at_).traders = s.traders :=
  (congrArg State.traders (State.ctArrive_sansCounters n v f at_) : (State.sansCounters _).traders = s.sansCounters.traders)

theorem State.ctArrive_tick : (s.ctArrive h c n v f flag act at_).tick = s.tick :=
  (congrArg State.tick (State.ctArrive_sansCounters n v f at_) : (State.sansCounters _).tick = s.sansCounters.tick)

theorem State.ctArrive_till : (s.ctArrive h c n v f flag act at_).till = s.till :=
  (congrArg State.till (State.ctArrive_sansCounters n v f at_) : (State.sansCounters _).till = s.sansCounters.till)

theorem State.ctArrive_counter : (s.ctArrive h c n v f flag act at_).counter h c = f (s.ctTaken h c n) := by
  rw [State.ctArrive, State.ctOut_counter, State.setAt_counter, State.counter_self, State.ctTake_counter]

theorem State.ctArrive_counter_ne {a b : Nat} (e : (a, b) ≠ (h, c)) :
    (s.ctArrive h c n v f flag act at_).counter a b = s.counter a b := by
  rw [State.ctArrive, State.ctOut_counter, State.setAt_counter, State.counter_ne _ _ _ _ _ _ e, State.ctTake_eq, State.put_counter,
    State.counter_ne _ _ _ _ _ _ e]

end

end Sys2Proof.Machine
end

section
/-! SUPPORT. Hall events and rings (R143, R153, R154): what becomes pending, which watches are set, and what neither touches. -/
namespace Sys2Proof.Machine

variable {s : State} {h : Nat}

/-! ## Occurrences -/

theorem bit_testBit (x n : Nat) : bit x n = x.testBit n := by
  rw [bit_eq, Nat.testBit_eq_decide_div_mod_eq, beq_eq_decide]

theorem State.bit_orIn_self (f : Field) (i : Ix) (m : Nat) (h : f.lo ≤ f.hi) (hh : f.hi < 64) {k : Nat} (hk : k < f.hi + 1 - f.lo) :
    bit ((s.orIn f i m).get f i) k = (bit (s.get f i) k || bit m k) := by
  rw [State.orIn, State.noteHw_get, State.get_put_self _ _ _ _ h hh]
  simp only [bit_testBit, Nat.testBit_mod_two_pow, Nat.testBit_or, hk, decide_true, Bool.true_and]

theorem State.rd_orIn_ne {f : Field} {i : Ix} {q : Reg} (h : q ≠ i.reg f.reg) (m : Nat) : (s.orIn f i m).rd q = s.rd q :=
  State.rd_put_ne h _

/-- What pends stays pending when a source occurs. -/
theorem State.pend_occur {t : TraderId} {j : Nat} (hj : bit (s.get EV_PEND.PEND t.ix) j = true) (t' : TraderId) (k : Nat) :
    bit ((s.occur t' k).get EV_PEND.PEND t.ix) j = true := by
  unfold State.occur
  split
  · rwa [State.orIn, State.noteHw_get, State.get_put_beside (by decide)]
  · by_cases e : t.ix.reg .EV_PEND = t'.ix.reg .EV_PEND
    · have hj11 : j < 11 := Nat.lt_of_not_le fun hle => by
        have hlt : s.get EV_PEND.PEND t.ix < 2 ^ j := lt_of_lt_of_le (s.get_lt _ _) (Nat.pow_le_pow_right (by decide) hle)
        rw [bit_testBit, Nat.testBit_lt_two_pow hlt] at hj
        cases hj
      have ht : t'.ix = t.ix := by
        cases t; cases t'
        simp only [Ix.reg, Reg.mk.injEq, TraderId.ix] at e
        simp [TraderId.ix, e]
      rw [ht, State.bit_orIn_self _ _ _ (by decide) (by decide) hj11, hj, Bool.true_or]
    · rwa [State.orIn, State.noteHw_get, State.get_of_rd (State.rd_put_ne e _)]

/-- A source that occurs pends. -/
theorem State.pend_occur_self (t : TraderId) {k : Nat} (hk : k < 11) : bit ((s.occur t k).get EV_PEND.PEND t.ix) k = true := by
  unfold State.occur
  split
  case isTrue hp => rwa [State.orIn, State.noteHw_get, State.get_put_beside (by decide)]
  case isFalse =>
    rw [State.bit_orIn_self _ _ _ (by decide) (by decide) hk, bit_testBit (2 ^ k), Nat.testBit_two_pow_self, Bool.or_true]

/-- From `s` to `s'` nothing changes but EV_PEND and EV_OVR of traders, and what pends stays pending. -/
structure State.OnlyRaises (s s' : State) : Prop where
  noRegs : s'.noRegs = s.noRegs
  rd : ∀ q : Reg, q.name ≠ .EV_PEND → q.name ≠ .EV_OVR → s'.rd q = s.rd q
  pend : ∀ (t : TraderId) (j : Nat), bit (s.get EV_PEND.PEND t.ix) j = true → bit (s'.get EV_PEND.PEND t.ix) j = true

theorem State.OnlyRaises.refl (s : State) : s.OnlyRaises s := ⟨rfl, fun _ _ _ => rfl, fun _ _ h => h⟩

theorem State.OnlyRaises.trans {a b c : State} (h : a.OnlyRaises b) (k : b.OnlyRaises c) : a.OnlyRaises c where
  noRegs := k.noRegs.trans h.noRegs
  rd q h1 h2 := (k.rd q h1 h2).trans (h.rd q h1 h2)
  pend t j hj := k.pend t j (h.pend t j hj)

theorem State.OnlyRaises.traders {s' : State} (h : s.OnlyRaises s') : s'.traders = s.traders :=
  (congrArg State.traders h.noRegs : s'.noRegs.traders = s.noRegs.traders)

theorem State.OnlyRaises.tick {s' : State} (h : s.OnlyRaises s') : s'.tick = s.tick :=
  (congrArg State.tick h.noRegs : s'.noRegs.tick = s.noRegs.tick)

theorem State.OnlyRaises.till {s' : State} (h : s.OnlyRaises s') : s'.till = s.till :=
  (congrArg State.till h.noRegs : s'.noRegs.till = s.noRegs.till)

theorem State.OnlyRaises.get {s' : State} (h : s.OnlyRaises s') {f : Field} (h1 : f.reg ≠ .EV_PEND) (h2 : f.reg ≠ .EV_OVR) (i : Ix) :
    s'.get f i = s.get f i := State.get_of_rd (h.rd _ h1 h2)

theorem State.occur_onlyRaises (s : State) (t : TraderId) (k : Nat) : s.OnlyRaises (s.occur t k) where
  noRegs := by unfold State.occur; split <;> rfl
  rd q h1 h2 := by
    unfold State.occur
    split
    · exact State.rd_orIn_ne (fun e => h2 (congrArg Reg.name e)) _
    · exact State.rd_orIn_ne (fun e => h1 (congrArg Reg.name e)) _
  pend _ _ hj := State.pend_occur hj t k

/-! ## Hall events -/

/-- The occurrence of a source of a trader where a selector `n` names the event `num`. -/
def State.occurIf (s : State) (n num : Nat) (t : TraderId) (k : Nat) : State := if n = num then s.occur t k else s

theorem State.occurIf_onlyRaises (s : State) (n num : Nat) (t : TraderId) (k : Nat) : s.OnlyRaises (s.occurIf n num t k) := by
  unfold State.occurIf
  split
  · exact s.occur_onlyRaises t k
  · exact .refl s

/-- What a hall event does at one entry of the table of registers: a selector that names it becomes pending. -/
def State.hselStep (h num : Nat) (e : Reg × BitVec 64) (s : State) : State :=
  match e.1.name.hsel with
  | none => s
  | some k =>
    if e.1.a ≠ h then s
    else
      let v := s.hselSeen e.1 k e.2.toNat
      (s.occurIf (bits v 8 0) num e.1.trader k).occurIf (bits v 24 16) num e.1.trader (k + 1)

theorem State.hallEvent_eq (s : State) (h num : Nat) : s.hallEvent h num = forAll s.regs (State.hselStep h num) s := rfl

theorem State.hselStep_onlyRaises (s : State) (h num : Nat) (e : Reg × BitVec 64) : s.OnlyRaises (State.hselStep h num e s) := by
  unfold State.hselStep
  split
  · exact .refl s
  · split
    · exact .refl s
    · exact (s.occurIf_onlyRaises _ _ _ _).trans (State.occurIf_onlyRaises _ _ _ _ _)

theorem State.forAll_onlyRaises (s : State) (h num : Nat) (es : List (Reg × BitVec 64)) : s.OnlyRaises (forAll es (State.hselStep h num) s) := by
  unfold forAll
  induction es generalizing s with
  | nil => exact .refl s
  | cons e es ih => exact (s.hselStep_onlyRaises h num e).trans (ih _)

theorem State.hallEvent_onlyRaises (s : State) (h num : Nat) : s.OnlyRaises (s.hallEvent h num) := s.forAll_onlyRaises h num s.regs

/-- What an occurrence finds of a selector register (R170) depends on the traders and the tick. -/
theorem State.hselSeen_of {s' : State} (ht : s'.traders = s.traders) (hk : s'.tick = s.tick) (r : Reg) (k v : Nat) :
    s'.hselSeen r k v = s.hselSeen r k v := by
  unfold State.hselSeen State.trader
  rw [ht, hk]

/-- Of the hall `h`, the event `num` pends by the register `r`, of which an occurrence finds `v`. -/
def State.Pends (s : State) (r : Reg) (k v num : Nat) : Prop :=
  (bits v 8 0 = num → bit (s.get EV_PEND.PEND r.trader.ix) k = true) ∧
  (bits v 24 16 = num → bit (s.get EV_PEND.PEND r.trader.ix) (k + 1) = true)

theorem State.Pends.mono {s' : State} {r : Reg} {k v num : Nat} (p : s.Pends r k v num) (e : s.OnlyRaises s') : s'.Pends r k v num :=
  ⟨fun h => e.pend _ _ (p.1 h), fun h => e.pend _ _ (p.2 h)⟩

theorem State.Pends.of_rd {s' : State} {r : Reg} {k v num : Nat} (p : s.Pends r k v num) (h : ∀ q, s'.rd q = s.rd q) : s'.Pends r k v num := by
  have e : s'.get EV_PEND.PEND r.trader.ix = s.get EV_PEND.PEND r.trader.ix := State.get_of_rd (h _)
  rwa [State.Pends, e]

theorem RegName.hsel_lt {n : RegName} {k : Nat} (h : n.hsel = some k) : k + 1 < 11 := by
  unfold RegName.hsel at h
  split at h <;> cases h <;> decide

theorem State.pends_hselStep {num k : Nat} {e : Reg × BitVec 64} (ha : e.1.a = h) (hk : e.1.name.hsel = some k) :
    (State.hselStep h num e s).Pends e.1 k (s.hselSeen e.1 k e.2.toNat) num := by
  have hlt := RegName.hsel_lt hk
  have heq : State.hselStep h num e s = (s.occurIf (bits (s.hselSeen e.1 k e.2.toNat) 8 0) num e.1.trader k).occurIf
      (bits (s.hselSeen e.1 k e.2.toNat) 24 16) num e.1.trader (k + 1) := by
    simp only [State.hselStep, hk, ha, ne_eq, not_true_eq_false, if_false]
  rw [heq]
  refine ⟨fun hn => (State.occurIf_onlyRaises _ _ _ _ _).pend _ _ ?_, fun hn => ?_⟩
  · rw [State.occurIf, if_pos hn]
    exact State.pend_occur_self _ (by omega)
  · rw [State.occurIf, if_pos hn]
    exact State.pend_occur_self _ hlt

theorem State.pends_forAll {num k : Nat} {e : Reg × BitVec 64} (ha : e.1.a = h) (hk : e.1.name.hsel = some k)
    (es : List (Reg × BitVec 64)) (he : e ∈ es) :
    (forAll es (State.hselStep h num) s).Pends e.1 k (s.hselSeen e.1 k e.2.toNat) num := by
  induction es generalizing s with
  | nil => cases he
  | cons x es ih =>
    rcases List.mem_cons.mp he with rfl | hm
    · exact (State.pends_hselStep ha hk).mono (State.forAll_onlyRaises _ h num es)
    · have step := s.hselStep_onlyRaises h num x
      have := ih (s := State.hselStep h num x s) hm
      rwa [State.hselSeen_of step.traders step.tick] at this

theorem Tab.find_map {κ α : Type} [DecidableEq κ] (t : Tab κ α) (f : κ → α → α) (k : κ) :
    Tab.find (t.map (fun e => (e.1, f e.1 e.2))) k = (Tab.find t k).map (f k) := by
  induction t with
  | nil => rfl
  | cons e t ih =>
    by_cases hk : e.1 = k
    · subst hk
      simp [Tab.find]
    · simpa [Tab.find, hk] using ih

theorem Tab.exists_of_mem_keys {κ α : Type} [DecidableEq κ] {t : Tab κ α} {k : κ} (h : k ∈ Tab.keys t) :
    ∃ v, Tab.find t k = some v ∧ (k, v) ∈ t := by
  induction t with
  | nil => cases h
  | cons e t ih =>
    by_cases hk : e.1 = k
    · exact ⟨e.2, if_pos hk, by simp [← hk]⟩
    · obtain ⟨v, hf, hm⟩ := ih ((List.mem_cons.mp h).resolve_left (fun e => hk e.symm))
      exact ⟨v, (if_neg hk).trans hf, List.mem_cons_of_mem _ hm⟩

/-- Every selector of the hall that names an event becomes pending by it. -/
theorem State.pends_hallEvent {r : Reg} {k : Nat} (hr : r ∈ Tab.keys s.regs) (ha : r.a = h) (hk : r.name.hsel = some k) (num : Nat) :
    (s.hallEvent h num).Pends r k (s.hselSeen r k (s.rd r)) num := by
  obtain ⟨v, hf, hm⟩ := Tab.exists_of_mem_keys hr
  have hv : s.rd r = v.toNat := by simp only [State.rd, hf]
  rw [hv]
  exact State.pends_forAll (e := (r, v)) ha hk _ hm

/-! ## Rings -/

/-- A trader's bell watch after a ring (R141). -/
def Trader.heard (h : Nat) (dev : Bool) (n : Nat) (t : TraderId) (a : Trader) : Trader :=
  match a.watch with
  | some w => if t.h = h ∧ w.dev = dev ∧ w.bell = n then { a with watch := some { w with isSet := true } } else a
  | none => a

theorem State.setWatches_eq (s : State) (h : Nat) (dev : Bool) (n : Nat) :
    s.setWatches h dev n = { s with traders := s.traders.map (fun e => (e.1, Trader.heard h dev n e.1 e.2)) } := by
  unfold State.setWatches
  congr 2
  funext e
  cases hw : e.2.watch with
  | none => simp only [Trader.heard, hw]
  | some w =>
    simp only [Trader.heard, hw]
    split <;> rfl

theorem Trader.heard_eq {a : Trader} {w : BellWatch} (hw : a.watch = some w) (h : Nat) (dev : Bool) (n : Nat) (t : TraderId) :
    Trader.heard h dev n t a = { a with watch := some { w with isSet := w.isSet || (t.h == h && w.dev == dev && w.bell == n) } } := by
  have hc : decide (t.h = h ∧ w.dev = dev ∧ w.bell = n) = (t.h == h && w.dev == dev && w.bell == n) := by
    simp [Bool.and_assoc, Bool.beq_eq_decide_eq]
  rw [← hc]
  simp only [Trader.heard, hw]
  split
  case isTrue hr => simp [hr]
  case isFalse hr => simp [hr, ← hw]

/-- A ring sets the watch of a trader of the hall that watches the bell. -/
theorem State.trader_setWatches {t : TraderId} {w : BellWatch} (hw : (s.trader t).watch = some w) (h : Nat) (dev : Bool) (n : Nat) :
    (s.setWatches h dev n).trader t =
      { s.trader t with watch := some { w with isSet := w.isSet || (t.h == h && w.dev == dev && w.bell == n) } } := by
  rw [← Trader.heard_eq hw, State.setWatches_eq]
  simp only [State.trader, Tab.get, Tab.find_map] at hw ⊢
  cases hf : Tab.find s.traders t with
  | none => rw [hf] at hw; cases hw
  | some a => rfl

/-- A ring is on its way to the hall's criers (R194). -/
theorem State.exists_deliver (s : State) (h : Nat) (src : DeliverySrc) (at_ : Nat) :
    ∃ d ∈ (s.deliver h src at_).deliveries, d.h = h ∧ d.src = src ∧ d.due = at_ + 32 := by
  unfold State.deliver
  split
  case isTrue hd =>
    obtain ⟨d, hm, hd⟩ := List.any_eq_true.mp hd
    simp only [Bool.and_eq_true, beq_iff_eq] at hd
    exact ⟨d, hm, hd.1.1, hd.1.2, hd.2⟩
  case isFalse => exact ⟨⟨h, src, at_ + 32, List.range 16⟩, by simp, rfl, rfl, rfl⟩

theorem State.deliver_traders (s : State) (h : Nat) (src : DeliverySrc) (at_ : Nat) : (s.deliver h src at_).traders = s.traders := by
  unfold State.deliver
  split <;> rfl

theorem State.deliver_rd (s : State) (h : Nat) (src : DeliverySrc) (at_ : Nat) (q : Reg) : (s.deliver h src at_).rd q = s.rd q := by
  unfold State.deliver
  split <;> rfl

theorem State.trader_ringHall {t : TraderId} {w : BellWatch} (hw : (s.trader t).watch = some w) (h n at_ : Nat) :
    (s.ringHall h n at_).trader t = { s.trader t with watch := some { w with isSet := w.isSet || (t.h == h && !w.dev && w.bell == n) } } := by
  have e : (s.ringHall h n at_).trader t = (s.setWatches h false n).trader t := by
    rw [State.trader, State.ringHall, State.deliver_traders, State.trader]
  rw [e, State.trader_setWatches hw, beq_false]

theorem State.ringHall_rd (s : State) (h n at_ : Nat) (q : Reg) : (s.ringHall h n at_).rd q = s.rd q := State.deliver_rd _ _ _ _ _

end Sys2Proof.Machine
end

section
/-! SUPPORT. Matches and wraps of a counter (R54 to R60): their counts, flags, outputs, events and rings. -/

namespace Sys2Proof.Machine

variable {s : State} {h c : Nat}

/-- Between a count within its period and the next compare value or the end of the period there is no arrival. -/
theorem State.lt_ctNext {n : Nat} (hp : s.get CT_COUNT.VAL (ix h c) + n ≤ s.get CT_PERIOD.VAL (ix h c))
    (hm : s.get CT_COMPARE.VAL (ix h c) ≤ s.get CT_COUNT.VAL (ix h c) ∨
      s.get CT_COUNT.VAL (ix h c) + n < s.get CT_COMPARE.VAL (ix h c)) : n < (s.ctNext h c).2 := by
  have hw : n < wrapDist (s.get CT_COUNT.VAL (ix h c)) (s.get CT_PERIOD.VAL (ix h c)) := by
    unfold wrapDist
    split <;> omega
  rw [State.ctNext_eq]
  split
  · dsimp only
    omega
  · split <;> exact hw

/-! ## Matches and wraps: an arrival, its event and its ring -/

/-- The match of a compare value above the count, before its event and its ring. -/
def State.ctMatched (s : State) (h c : Nat) : State :=
  let d := s.get CT_COMPARE.VAL (ix h c) - s.get CT_COUNT.VAL (ix h c)
  let at_ := s.ctInstant h c d
  s.ctArrive h c d (s.get CT_COMPARE.VAL (ix h c)) (fun k => { k with matched := false, lastMatch := some at_ }) CT_STATUS.MATCH CT_CTRL.CMP_OUT at_

/-- The wrap `d` clock events ahead, before its event and the clock event of the counter above. -/
def State.ctWrapped (s : State) (h c d : Nat) : State :=
  let at_ := s.ctInstant h c d
  s.ctArrive h c d 0 (fun k => { k with matched := false, lastWrap := some at_ }) CT_STATUS.WRAP CT_CTRL.WRAP_OUT at_

/-- A wrap of `c` is a clock event of the counter above in mode 3 (R54). -/
def State.ctClockAbove (s : State) (h c at_ : Nat) : State :=
  if c < 63 ∧ s.is CT_CTRL.ENABLE (ix h (c + 1)) ∧ s.get CT_CTRL.CLK_SRC (ix h (c + 1)) = 3 then
    s.setCounter h (c + 1) { s.counter h (c + 1) with todo := (s.counter h (c + 1)).todo ++ [(at_, 1)] }
  else s

theorem State.ctMatch_eq (hm : s.get CT_COUNT.VAL (ix h c) < s.get CT_COMPARE.VAL (ix h c))
    (hp : s.get CT_COMPARE.VAL (ix h c) ≤ s.get CT_PERIOD.VAL (ix h c) ∨ s.get CT_PERIOD.VAL (ix h c) < s.get CT_COUNT.VAL (ix h c)) :
    s.ctMatch h c =
      let at_ := s.ctInstant h c (s.get CT_COMPARE.VAL (ix h c) - s.get CT_COUNT.VAL (ix h c))
      let first := (s.counter h c).lastMatch != some at_
      let u := s.ctMatched h c
      let u := if first && u.is CT_CTRL.MATCH_EV (ix h c) then u.ctEvent h (0x40 + c) at_ else u
      if first && u.is CT_CTRL.BELL_EN (ix h c) then u.ctBell h (u.get CT_CTRL.BELL_NUM (ix h c)) at_ else u := by
  have hlt : s.get CT_COMPARE.VAL (ix h c) < 2 ^ 32 := s.get_lt _ _
  have ht : (s.get CT_COMPARE.VAL (ix h c) - s.get CT_COUNT.VAL (ix h c) ==
      wrapDist (s.get CT_COUNT.VAL (ix h c)) (s.get CT_PERIOD.VAL (ix h c))) = false := by
    rw [beq_eq_false_iff_ne]
    unfold wrapDist
    split <;> omega
  unfold State.ctMatch
  simp only [State.ctNext_hit hm hp, ht, Bool.false_eq_true, if_false, State.ctTake_counter, State.ctTaken_lastMatch]
  simp only [State.ctMatched, State.ctArrive, State.ctTake_counter]

theorem State.ctWrap_eq (s : State) (h c : Nat) :
    s.ctWrap h c =
      let at_ := s.ctInstant h c (s.ctNext h c).2
      let first := (s.counter h c).lastWrap != some at_
      let u := s.ctWrapped h c (s.ctNext h c).2
      (if first && u.is CT_CTRL.WRAP_EV (ix h c) then u.ctEvent h (0x80 + c) at_ else u).ctClockAbove h c at_ := by
  unfold State.ctWrap
  simp only [State.ctTake_counter, State.ctTaken_lastWrap]
  simp only [State.ctWrapped, State.ctArrive, State.ctTake_counter, State.ctClockAbove]

theorem exec_counterMatch (hh : h < s.part.halls) (hm : s.get CT_COUNT.VAL (ix h c) < s.get CT_COMPARE.VAL (ix h c))
    (hp : s.get CT_COMPARE.VAL (ix h c) ≤ s.get CT_PERIOD.VAL (ix h c) ∨ s.get CT_PERIOD.VAL (ix h c) < s.get CT_COUNT.VAL (ix h c))
    (hd : s.get CT_COMPARE.VAL (ix h c) - s.get CT_COUNT.VAL (ix h c) ≤ ctSum (s.ctEvents h c s.tick)) :
    exec (.counterMatch h c) s = .next (s.ctMatch h c) := by
  show execCounterMatch h c s = _
  rw [execCounterMatch, if_pos]
  refine ⟨by simp [State.inHall, hh], ?_⟩
  rw [State.ctDue, State.ctNext_hit hm hp, if_pos hd]

theorem exec_counterWrap (hh : h < s.part.halls) (hm : s.get CT_COMPARE.VAL (ix h c) ≤ s.get CT_COUNT.VAL (ix h c))
    (h0 : 0 < s.get CT_COMPARE.VAL (ix h c))
    (hd : wrapDist (s.get CT_COUNT.VAL (ix h c)) (s.get CT_PERIOD.VAL (ix h c)) ≤ ctSum (s.ctEvents h c s.tick)) :
    exec (.counterWrap h c) s = .next (s.ctWrap h c) := by
  show execCounterWrap h c s = _
  rw [execCounterWrap, if_pos]
  refine ⟨by simp [State.inHall, hh], ?_⟩
  rw [State.ctDue, State.ctNext_turn hm h0, if_pos hd]

/-- A match leaves CT_CTRL as it was, but for OUT_LEVEL. -/
theorem State.ctMatched_get {g : Field} (hg : g.reg = .CT_CTRL) (hb : g.Beside CT_CTRL.OUT_LEVEL) (j : Ix) :
    (s.ctMatched h c).get g j = s.get g j := by
  rw [State.ctMatched, State.ctArrive_get _ _ _ _ rfl hg hb]

theorem State.ctMatched_is {g : Field} (hg : g.reg = .CT_CTRL) (hb : g.Beside CT_CTRL.OUT_LEVEL) (j : Ix) :
    (s.ctMatched h c).is g j = s.is g j := by
  rw [State.ctMatched, State.ctArrive_is _ _ _ _ rfl hg hb]

theorem State.ctWrapped_get {g : Field} (hg : g.reg = .CT_CTRL) (hb : g.Beside CT_CTRL.OUT_LEVEL) (d : Nat) (j : Ix) :
    (s.ctWrapped h c d).get g j = s.get g j := by
  rw [State.ctWrapped, State.ctArrive_get _ _ _ _ rfl hg hb]

theorem State.ctWrapped_is {g : Field} (hg : g.reg = .CT_CTRL) (hb : g.Beside CT_CTRL.OUT_LEVEL) (d : Nat) (j : Ix) :
    (s.ctWrapped h c d).is g j = s.is g j := by
  rw [State.ctWrapped, State.ctArrive_is _ _ _ _ rfl hg hb]

/-- A counter in mode 3 above gains one clock event by a wrap. -/
theorem State.ctClockAbove_todo {u : State} (hc : c < 63) (he : u.is CT_CTRL.ENABLE (ix h (c + 1)) = true)
    (hs : u.get CT_CTRL.CLK_SRC (ix h (c + 1)) = 3) (at_ : Nat) :
    ((u.ctClockAbove h c at_).counter h (c + 1)).todo = (u.counter h (c + 1)).todo ++ [(at_, 1)] := by
  rw [State.ctClockAbove, if_pos ⟨hc, he, hs⟩, State.counter_self]

theorem State.ctClockAbove_rd (at_ : Nat) (q : Reg) : (s.ctClockAbove h c at_).rd q = s.rd q := by
  unfold State.ctClockAbove
  split <;> rfl

/-- A match without event and ring (R56, R60). -/
theorem State.matchesQuietly (hm : s.get CT_COUNT.VAL (ix h c) < s.get CT_COMPARE.VAL (ix h c))
    (hp : s.get CT_COMPARE.VAL (ix h c) ≤ s.get CT_PERIOD.VAL (ix h c) ∨ s.get CT_PERIOD.VAL (ix h c) < s.get CT_COUNT.VAL (ix h c))
    (hev : s.is CT_CTRL.MATCH_EV (ix h c) = false) (hbell : s.is CT_CTRL.BELL_EN (ix h c) = false) : s.ctMatch h c = s.ctMatched h c := by
  have he : (s.ctMatched h c).is CT_CTRL.MATCH_EV (ix h c) = false := (State.ctMatched_is rfl (by decide) _).trans hev
  have hb : (s.ctMatched h c).is CT_CTRL.BELL_EN (ix h c) = false := (State.ctMatched_is rfl (by decide) _).trans hbell
  simp only [State.ctMatch_eq hm hp, he, hb, Bool.and_false, Bool.false_eq_true, if_false]

/-- A wrap without event (R54, R60). -/
theorem State.wrapsQuietly (hev : s.is CT_CTRL.WRAP_EV (ix h c) = false) :
    s.ctWrap h c = (s.ctWrapped h c (s.ctNext h c).2).ctClockAbove h c (s.ctInstant h c (s.ctNext h c).2) := by
  have he : (s.ctWrapped h c (s.ctNext h c).2).is CT_CTRL.WRAP_EV (ix h c) = false := (State.ctWrapped_is rfl (by decide) _ _).trans hev
  simp only [State.ctWrap_eq, he, Bool.and_false, Bool.false_eq_true, if_false]

/-! ## First arrivals of a tick: the event and the ring -/

theorem Tab.mem_keys_set {κ α : Type} [DecidableEq κ] {t : Tab κ α} {k : κ} (hk : k ∈ Tab.keys t) (k' : κ) (v : α) :
    k ∈ Tab.keys (Tab.set t k' v) := by
  by_cases e : k = k'
  · exact List.mem_cons.mpr (.inl e)
  · obtain ⟨x, hx, rfl⟩ := List.mem_map.mp hk
    exact List.mem_cons_of_mem _ (List.mem_map.mpr ⟨x, List.mem_filter.mpr ⟨hx, by simpa using e⟩, rfl⟩)

theorem State.OnlyPads.regs {u v : State} (e : u.OnlyPads v) : v.regs = u.regs := by
  obtain ⟨_, _, rfl⟩ := e
  rfl

/-- A register that holds a value holds one after an arrival. -/
theorem State.ctArrive_keys {flag act : Field} {r : Reg} (hr : r ∈ Tab.keys s.regs) (n v : Nat) (f : Counter → Counter) (at_ : Nat) :
    r ∈ Tab.keys (s.ctArrive h c n v f flag act at_).regs := by
  have out : ∀ (u : State) (a : Nat), r ∈ Tab.keys u.regs → r ∈ Tab.keys (u.ctOut h c a at_).regs := by
    intro u a hu
    rcases u.ctOut_cases h c a at_ with ⟨e, -⟩ | e
    · rwa [e]
    · rw [e.regs]
      exact Tab.mem_keys_set hu _ _
  have flagged : ∀ u : State, r ∈ Tab.keys u.regs → r ∈ Tab.keys (u.setAt flag (ix h c) at_).regs := by
    intro u hu
    obtain ⟨hw, e⟩ := u.setAt_eq flag (ix h c) at_
    rw [e]
    exact Tab.mem_keys_set hu _ _
  exact out _ _ (flagged _ (Tab.mem_keys_set hr _ _))

/-- What a hall event needs of the state: an arrival keeps it. -/
theorem State.ctArrive_pends {flag act : Field} {r : Reg} {k : Nat} (hf : flag.reg = .CT_STATUS) (hr : r ∈ Tab.keys s.regs) (ha : r.a = h)
    (hk : r.name.hsel = some k) (n v : Nat) (f : Counter → Counter) (at_ num : Nat) :
    ((s.ctArrive h c n v f flag act at_).hallEvent h num).Pends r k (s.hselSeen r k (s.rd r)) num := by
  have hrd : (s.ctArrive h c n v f flag act at_).rd r = s.rd r := by
    refine State.ctArrive_regsBut n v f at_ hf r ?_
    intro hm
    simp only [List.mem_cons, List.not_mem_nil, or_false] at hm
    rcases hm with rfl | rfl | rfl <;> cases hk
  have hseen : ∀ x, (s.ctArrive h c n v f flag act at_).hselSeen r k x = s.hselSeen r k x := by
    intro x
    exact State.hselSeen_of (State.ctArrive_traders ..) (State.ctArrive_tick ..) r k x
  have := State.pends_hallEvent (State.ctArrive_keys (h := h) (c := c) (flag := flag) (act := act) hr n v f at_) ha hk num
  rwa [hseen, hrd] at this

theorem State.heldBack_of {s' : State} (ht : s'.till = s.till) (hr : ∀ q : Reg, q.name = .PIN_STATUS → s'.rd q = s.rd q) (at_ : Nat) :
    s'.heldBack h at_ = s.heldBack h at_ := by
  have hp : ∀ i, s'.heldPin h i = s.heldPin h i := fun i => by rw [State.heldPin, State.heldPin, hr _ rfl]
  simp only [State.heldBack, State.asleep, ht, hp]

/-- The state after the event of an arrival, if it raises one. -/
def State.raisedIf (s : State) (b : Bool) (h num : Nat) : State := if b then s.hallEvent h num else s

theorem State.raisedIf_onlyRaises (s : State) (b : Bool) (h num : Nat) : s.OnlyRaises (s.raisedIf b h num) := by
  unfold State.raisedIf
  split
  · exact s.hallEvent_onlyRaises h num
  · exact .refl s

/-- An arrival changes nothing that decides what waits for the release of the pad hold. -/
theorem State.ctArrive_heldBack {flag act : Field} (hf : flag.reg = .CT_STATUS) (n v : Nat) (f : Counter → Counter) (at_ x : Nat) :
    (s.ctArrive h c n v f flag act at_).heldBack h x = s.heldBack h x := by
  refine State.heldBack_of (State.ctArrive_till ..) (fun q hq => State.ctArrive_regsBut n v f at_ hf q fun hm => ?_) x
  simp only [List.mem_cons, List.not_mem_nil, or_false] at hm
  rcases hm with rfl | rfl | rfl <;> cases hq

theorem State.OnlyRaises.heldBack {s' : State} (e : s.OnlyRaises s') (x : Nat) : s'.heldBack h x = s.heldBack h x :=
  State.heldBack_of e.till (fun q hq => e.rd q (by rw [hq]; decide) (by rw [hq]; decide)) x

theorem State.ctMatched_heldBack (x : Nat) : (s.ctMatched h c).heldBack h x = s.heldBack h x := by
  rw [State.ctMatched, State.ctArrive_heldBack rfl]

theorem State.ctWrapped_heldBack (d x : Nat) : (s.ctWrapped h c d).heldBack h x = s.heldBack h x := by
  rw [State.ctWrapped, State.ctArrive_heldBack rfl]

/-- A first match in its tick, which no sleep holds back: the event MATCH_EV, and the ring BELL_EN (R60). -/
theorem State.ctMatch_first (hm : s.get CT_COUNT.VAL (ix h c) < s.get CT_COMPARE.VAL (ix h c))
    (hp : s.get CT_COMPARE.VAL (ix h c) ≤ s.get CT_PERIOD.VAL (ix h c) ∨ s.get CT_PERIOD.VAL (ix h c) < s.get CT_COUNT.VAL (ix h c))
    {at_ : Nat} (hat : s.ctInstant h c (s.get CT_COMPARE.VAL (ix h c) - s.get CT_COUNT.VAL (ix h c)) = at_)
    (hb : s.heldBack h at_ = false) (hl : (s.counter h c).lastMatch ≠ some at_) :
    s.ctMatch h c =
      let u := (s.ctMatched h c).raisedIf (s.is CT_CTRL.MATCH_EV (ix h c)) h (0x40 + c)
      if s.is CT_CTRL.BELL_EN (ix h c) then u.ringHall h (s.get CT_CTRL.BELL_NUM (ix h c)) at_ else u := by
  have hfirst : ((s.counter h c).lastMatch != some at_) = true := by simpa using hl
  have hu := (s.ctMatched h c).raisedIf_onlyRaises (s.is CT_CTRL.MATCH_EV (ix h c)) h (0x40 + c)
  have hu0 : (s.ctMatched h c).heldBack h at_ = false := (State.ctMatched_heldBack _).trans hb
  have hu1 := (hu.heldBack at_).trans hu0
  have hev : (if s.is CT_CTRL.MATCH_EV (ix h c) = true then (s.ctMatched h c).ctEvent h (0x40 + c) at_ else s.ctMatched h c) =
      (s.ctMatched h c).raisedIf (s.is CT_CTRL.MATCH_EV (ix h c)) h (0x40 + c) := by
    simp only [State.ctEvent, hu0, Bool.false_eq_true, if_false, State.raisedIf]
  have hen : ((s.ctMatched h c).raisedIf (s.is CT_CTRL.MATCH_EV (ix h c)) h (0x40 + c)).is CT_CTRL.BELL_EN (ix h c) =
      s.is CT_CTRL.BELL_EN (ix h c) := by
    rw [State.is, hu.get (by decide) (by decide), State.ctMatched_get rfl (by decide), State.is]
  have hnum : ((s.ctMatched h c).raisedIf (s.is CT_CTRL.MATCH_EV (ix h c)) h (0x40 + c)).get CT_CTRL.BELL_NUM (ix h c) =
      s.get CT_CTRL.BELL_NUM (ix h c) := by
    rw [hu.get (by decide) (by decide), State.ctMatched_get rfl (by decide)]
  simp only [State.ctMatch_eq hm hp, hat, hfirst, Bool.true_and, State.ctMatched_is (g := CT_CTRL.MATCH_EV) rfl (by decide), hev, hen, hnum,
    State.ctBell, hu1, Bool.false_eq_true, if_false]

/-- A first wrap in its tick, which no sleep holds back: the event WRAP_EV (R60). -/
theorem State.ctWrap_first {d at_ : Nat} (hd : (s.ctNext h c).2 = d) (hat : s.ctInstant h c d = at_)
    (hb : s.heldBack h at_ = false) (hl : (s.counter h c).lastWrap ≠ some at_) :
    s.ctWrap h c = ((s.ctWrapped h c d).raisedIf (s.is CT_CTRL.WRAP_EV (ix h c)) h (0x80 + c)).ctClockAbove h c at_ := by
  have hfirst : ((s.counter h c).lastWrap != some at_) = true := by simpa using hl
  have hu : (s.ctWrapped h c d).heldBack h at_ = false := (State.ctWrapped_heldBack _ _).trans hb
  simp only [State.ctWrap_eq, hd, hat, hfirst, Bool.true_and, State.ctWrapped_is (g := CT_CTRL.WRAP_EV) rfl (by decide), State.ctEvent, hu,
    Bool.false_eq_true, if_false, State.raisedIf]

/-! ## Captures (R59) -/

/-- Where neither the counter nor one below it is enabled, nothing is counted. -/
theorem State.ctCatch_disabled (hd : s.is CT_CTRL.ENABLE (ix h c) = false) (hb : ∀ k < c, s.is CT_CTRL.ENABLE (ix h k) = false) (upto : Nat) :
    s.ctCatch h c upto = s := by
  have below : s.ctBelow h c upto = s := by
    unfold State.ctBelow
    split
    · rw [State.ctTo_disabled (hb (c - 2) (by omega)), if_pos (by omega), State.ctTo_disabled (hb (c - 1) (by omega))]
    · dsimp only
      split
      · exact State.ctTo_disabled (hb (c - 1) (by omega)) _
      · rfl
  rw [State.ctCatch, below, State.ctTo_disabled hd]

/-- A counter's count and the till `tm` of an edge captured. -/
def State.ctLatched (s : State) (h c tm : Nat) : State :=
  (s.put CT_CAPTURE.VAL (ix h c) (s.get CT_COUNT.VAL (ix h c))).wr ((ix h c).reg .CT_CAP_TILL) tm

/-- A capture noted in CT_STATUS: CAP_OVR over one still marked. -/
def State.ctCapMarked (s : State) (h c : Nat) : State :=
  (if s.is CT_STATUS.CAPTURED (ix h c) then s.set CT_STATUS.CAP_OVR (ix h c) true else s).set CT_STATUS.CAPTURED (ix h c) true

theorem State.ctLatched_regsBut (tm : Nat) : s.regsBut (s.ctLatched h c tm) [(ix h c).reg .CT_CAPTURE, (ix h c).reg .CT_CAP_TILL] :=
  (State.regsBut_put _ _ _ (by simp [CT_CAPTURE.VAL])).trans (State.regsBut_wr _ _ (by simp))

theorem State.ctLatched_get_CAPTURE (tm : Nat) : (s.ctLatched h c tm).get CT_CAPTURE.VAL (ix h c) = s.get CT_COUNT.VAL (ix h c) := by
  rw [State.ctLatched, State.get_of_rd (State.rd_wr_ne _ _ (Ix.reg_ne (by decide) _ _)), State.get_put_self _ _ _ _ (by decide) (by decide)]
  exact Nat.mod_eq_of_lt (s.get_lt _ _)

theorem State.ctCapMarked_regsBut : s.regsBut (s.ctCapMarked h c) [(ix h c).reg .CT_STATUS] := by
  refine State.regsBut.trans ?_ (State.regsBut_set _ _ _ (by simp [CT_STATUS.CAPTURED]))
  split
  · exact State.regsBut_set _ _ _ (by simp [CT_STATUS.CAP_OVR])
  · exact .refl s _

theorem State.ctLatched_counter (tm a b : Nat) : (s.ctLatched h c tm).counter a b = s.counter a b := rfl

theorem State.ctCapMarked_counter (a b : Nat) : (s.ctCapMarked h c).counter a b = s.counter a b := by
  unfold State.ctCapMarked
  split <;> rfl

theorem State.ctCapMarked_is_CAP_OVR :
    (s.ctCapMarked h c).is CT_STATUS.CAP_OVR (ix h c) = (s.is CT_STATUS.CAP_OVR (ix h c) || s.is CT_STATUS.CAPTURED (ix h c)) := by
  rw [State.ctCapMarked, State.is_set_beside (by decide)]
  split
  case isTrue hc => rw [State.is_set_self _ _ _ _ rfl (by decide), hc, Bool.or_true]
  case isFalse hc => rw [Bool.eq_false_of_not_eq_true hc, Bool.or_false]

theorem State.settleLevel_is (level : Bool) (f : Field) (i : Ix) : (s.settleLevel h c level).is f i = s.is f i := State.is_of_rd rfl

theorem State.settleLevel_get (level : Bool) (f : Field) (i : Ix) : (s.settleLevel h c level).get f i = s.get f i := State.get_of_rd rfl

/-- An edge of a settled input that is captured: the counter is not enabled, nor is one below it, and no event follows. -/
theorem State.ctEdge_captures {level : Bool} {tm p : Nat} (hp : s.ctPin h c = some p) (hs : s.ctSettled h c = some !level)
    (hd : s.is CT_CTRL.ENABLE (ix h c) = false) (hb : ∀ k < c, s.is CT_CTRL.ENABLE (ix h k) = false) (hev : s.is CT_CTRL.CAP_EV (ix h c) = false)
    (he : bit (s.get CT_INPUT.EDGE (ix h c)) (if level then 0 else 1) = true)
    (hpre : (s.counter h c).prescale = s.get CT_INPUT.PRESCALE (ix h c)) :
    s.ctEdge h c level tm =
      (((s.settleLevel h c level).setCounter h c { (s.settleLevel h c level).counter h c with prescale := 0 }).ctLatched h c tm).ctCapMarked h c := by
  have hkind : (if level = true then bit (s.get CT_INPUT.EDGE (ix h c)) 0 else bit (s.get CT_INPUT.EDGE (ix h c)) 1) = true := by
    cases level <;> exact he
  have hcatch : (s.settleLevel h c level).ctCatch h c s.tick = s.settleLevel h c level :=
    State.ctCatch_disabled (by rw [State.settleLevel_is, hd]) (fun k hk => by rw [State.settleLevel_is, hb k hk]) _
  have hk : ((s.settleLevel h c level).counter h c).prescale = (s.counter h c).prescale := by rw [State.settleLevel, State.counter_self]
  have hnew : s.ctSettled h c ≠ some level := by
    rw [hs]
    cases level <;> decide
  have hmarked : ∀ u : State, u.is CT_CTRL.CAP_EV (ix h c) = false → ((u.ctLatched h c tm).ctCapMarked h c).is CT_CTRL.CAP_EV (ix h c) = false := by
    intro u hu
    refine (State.is_of_rd ?_).trans hu
    exact (State.ctCapMarked_regsBut _ (by simp [Ix.reg, CT_CTRL.CAP_EV])).trans (State.ctLatched_regsBut tm _ (by simp [Ix.reg, CT_CTRL.CAP_EV]))
  unfold State.ctEdge
  rw [if_neg (by simp [hp, hnew]), if_neg (by simp [hs])]
  simp only [State.settleLevel_get, State.settleLevel_is, hd, hkind, Bool.not_true, Bool.false_and, Bool.false_eq_true, if_false,
    show (s.settleLevel h c level).tick = s.tick from rfl, hcatch, hk, hpre, lt_irrefl]
  exact if_neg (Bool.eq_false_iff.mp (hmarked _ (by rw [State.setCounter_is, State.settleLevel_is, hev])))

end Sys2Proof.Machine
end

section
/-! The proofs of O38. -/

namespace Sys2Proof.Proofs

open Sys2Proof.Machine

theorem countersCount : Claims.CountersCount := by
  intro s h c n i at_ v p m he hs hp hm
  have hsum : ctSum (s.ctEvents h c (at_ + n)) = n := (State.ctSum_ctEvents_ticks he hs _).trans (Nat.add_sub_cancel_left ..)
  rw [State.ctTo_of_lt (hsum.symm ▸ State.lt_ctNext hp hm), hsum]
  split
  case isTrue h0 => exact ⟨by rw [h0]; rfl, .refl s _, rfl⟩
  case isFalse =>
    have hlt : v + n < 2 ^ 32 := lt_of_le_of_lt hp (s.get_lt _ _)
    refine ⟨?_, State.regsBut_put _ _ _ (List.mem_singleton.mpr rfl), rfl⟩
    rw [State.ctTake_eq, State.get_put_self _ _ _ _ (by decide) (by decide)]
    exact Nat.mod_eq_of_lt hlt

theorem matchesAndWraps : Claims.MatchesAndWraps := by
  intro s h c i v p m out hh quiet due
  refine ⟨fun hm hp hd hq => ?_, fun hm h0 hd hq => ?_⟩
  · obtain ⟨hev, hbell, -⟩ := hq
    refine ⟨_, exec_counterMatch hh hm hp hd, ?_⟩
    rw [State.matchesQuietly hm hp hev hbell]
    rw [State.ctMatched]
    refine ⟨(State.ctArrive_get_COUNT _ _ _ _ rfl).trans (Nat.mod_eq_of_lt (s.get_lt _ _)),
      State.ctArrive_is_flag _ _ _ _ rfl rfl (by decide), State.ctArrive_level _ _ _ _ rfl rfl, State.ctArrive_regsBut _ _ _ _ rfl, fun hs => ?_⟩
    rw [State.ctArrive_counter, State.ctTaken, if_pos hs]
  · obtain ⟨-, -, hev⟩ := hq
    refine ⟨_, exec_counterWrap hh hm h0 hd, ?_⟩
    have hrd : ∀ q, (s.ctWrap h c).rd q = (s.ctWrapped h c (s.ctNext h c).2).rd q := by
      intro q
      rw [State.wrapsQuietly hev, State.ctClockAbove_rd]
    rw [State.ctWrapped] at hrd
    refine ⟨(State.get_of_rd (hrd _)).trans (State.ctArrive_get_COUNT _ _ _ _ rfl),
      (State.is_of_rd (hrd _)).trans (State.ctArrive_is_flag _ _ _ _ rfl rfl (by decide)),
      (State.is_of_rd (hrd _)).trans (State.ctArrive_level _ _ _ _ rfl rfl),
      fun q hq => (hrd q).trans (State.ctArrive_regsBut _ _ _ _ rfl q hq), fun hc he hs => ?_⟩
    rw [State.wrapsQuietly hev, State.ctClockAbove_todo hc ((State.ctWrapped_is rfl (by decide) _ _).trans he)
      ((State.ctWrapped_get rfl (by decide) _ _).trans hs), State.ctWrapped, State.ctArrive_counter_ne _ _ _ _ (by simp), List.length_append]
    rfl

theorem counterEvents : Claims.CounterEvents := by
  intro s h c i v p m turn due raised hh
  refine ⟨fun hm hp hd hl => ?_, fun hm h0 hd hl => ?_⟩
  · obtain ⟨hdue, hb⟩ := hd
    refine ⟨_, exec_counterMatch hh hm hp hdue, fun hev r hr k ha hk => ?_, fun hbell => ?_⟩
    · have hpend := State.ctArrive_pends (flag := CT_STATUS.MATCH) (act := CT_CTRL.CMP_OUT) (c := c) rfl hr ha hk (m - v) m
        (fun k => { k with matched := false, lastMatch := some (s.ctInstant h c (m - v)) }) (s.ctInstant h c (m - v)) (0x40 + c)
      rw [State.ctMatch_first hm hp rfl hb hl, hev, State.raisedIf, if_pos rfl]
      refine State.Pends.of_rd hpend (fun q => ?_)
      dsimp only
      split
      · rw [State.ringHall_rd]; rfl
      · rfl
    · rw [State.ctMatch_first hm hp rfl hb hl, if_pos hbell]
      refine ⟨fun t w hw => ?_, State.exists_deliver _ _ _ _⟩
      have ht : ((s.ctMatched h c).raisedIf (s.is CT_CTRL.MATCH_EV i) h (0x40 + c)).trader t = s.trader t := by
        have he := ((s.ctMatched h c).raisedIf_onlyRaises (s.is CT_CTRL.MATCH_EV i) h (0x40 + c)).traders
        rw [State.trader, he, State.ctMatched, State.ctArrive_traders, State.trader]
      rw [← ht] at hw ⊢
      exact State.trader_ringHall hw _ _ _
  · obtain ⟨hdue, hb⟩ := hd
    have hnext : (s.ctNext h c).2 = turn := by rw [State.ctNext_turn hm h0]; rfl
    refine ⟨_, exec_counterWrap hh hm h0 hdue, fun hev r hr k ha hk => ?_⟩
    have hpend := State.ctArrive_pends (flag := CT_STATUS.WRAP) (act := CT_CTRL.WRAP_OUT) (c := c) rfl hr ha hk turn 0
      (fun k => { k with matched := false, lastWrap := some (s.ctInstant h c turn) }) (s.ctInstant h c turn) (0x80 + c)
    rw [State.ctWrap_first hnext rfl hb hl, hev, State.raisedIf, if_pos rfl]
    exact State.Pends.of_rd hpend (fun q => State.ctClockAbove_rd _ _)

theorem counterCaptures : Claims.CounterCaptures := by
  intro s h c level tm p i hh hp hin h16 hf hs hd hb hev ht he hpre
  have hex : exec (.counterPinEdge h c level tm) s = .next (s.ctEdge h c level tm) := by
    show execCounterPinEdge h c level tm s = _
    rw [execCounterPinEdge, if_pos]
    exact ⟨by simp [State.inHall, hh], by simp [State.ctFiltered, hp, hin, h16, hf, i]⟩
  refine ⟨_, hex, ?_⟩
  rw [State.ctEdge_captures hp hs hd hb hev he hpre]
  generalize hu : (s.settleLevel h c level).setCounter h c { (s.settleLevel h c level).counter h c with prescale := 0 } = u
  have hrd : ∀ q, u.rd q = s.rd q := fun q => by rw [← hu]; rfl
  have hcnt : (u.counter h c).prescale = 0 := by rw [← hu, State.counter_self]
  have hmark : (u.ctLatched h c tm).regsBut ((u.ctLatched h c tm).ctCapMarked h c) [i.reg .CT_STATUS] := State.ctCapMarked_regsBut
  have hlatch : u.regsBut (u.ctLatched h c tm) [i.reg .CT_CAPTURE, i.reg .CT_CAP_TILL] := State.ctLatched_regsBut tm
  refine ⟨?_, ?_, ?_, ?_, ?_, ?_⟩
  · rw [State.get_of_rd (hmark _ (by simp [Ix.reg, CT_CAPTURE.VAL])), State.ctLatched_get_CAPTURE, State.get_of_rd (hrd _)]
  · rw [hmark _ (by simp [Ix.reg]), State.ctLatched, State.rd_wr_self, Nat.mod_eq_of_lt ht]
  · exact State.is_set_self _ _ _ _ rfl (by decide)
  · have same : ∀ q : Reg, q.name = .CT_STATUS → (u.ctLatched h c tm).rd q = s.rd q := by
      intro q hq
      refine (hlatch q fun hm => ?_).trans (hrd q)
      simp only [List.mem_cons, List.not_mem_nil, or_false] at hm
      rcases hm with rfl | rfl <;> cases hq
    rw [State.ctCapMarked_is_CAP_OVR, State.is_of_rd (same _ rfl), State.is_of_rd (same _ rfl)]
  · rw [State.ctCapMarked_counter, State.ctLatched_counter, hcnt]
  · exact State.regsBut.trans (b := u) (fun q _ => hrd q) (State.regsBut.trans (hlatch.mono (by simp)) (hmark.mono (by simp)))

/-- Settles O38: no arrival comes before the distance that `ctNext` gives, and an arrival is `ctArrive`, which event and ring follow when it is
the first in its tick. -/
theorem countersCountAndMatch : Obligations.CountersCountAndMatch :=
  ⟨countersCount, matchesAndWraps, counterEvents, counterCaptures⟩

end Sys2Proof.Proofs
end

section
/-! SUPPORT. Counters brought up to an instant, and their writes (R53 to R58): the tick stands, and what each write leaves. -/

namespace Sys2Proof.Machine

variable {s : State} {h c : Nat}

/-! ## The tick stands -/

theorem State.ctTake_tick (n v : Nat) : (s.ctTake h c n v).tick = s.tick := rfl

theorem State.setAt_tick (f : Field) (i : Ix) (at_ : Nat) : (s.setAt f i at_).tick = s.tick :=
  (congrArg State.tick (State.setAt_sansCounters f i at_) : (State.sansCounters _).tick = s.sansCounters.tick)

theorem State.ctOut_tick (act at_ : Nat) : (s.ctOut h c act at_).tick = s.tick :=
  (congrArg State.tick (State.ctOut_sansCounters act at_) : (State.sansCounters _).tick = s.sansCounters.tick)

theorem State.defer_tick (d : Nat × Bool × Nat) : (s.defer d).tick = s.tick := by
  unfold State.defer
  split <;> rfl

theorem State.ctEvent_tick (num at_ : Nat) : (s.ctEvent h num at_).tick = s.tick := by
  unfold State.ctEvent
  split
  · exact State.defer_tick _
  · exact (s.hallEvent_onlyRaises h num).tick

theorem State.deliver_tick (src : DeliverySrc) (at_ : Nat) : (s.deliver h src at_).tick = s.tick := by
  unfold State.deliver
  split <;> rfl

theorem State.ctBell_tick (n at_ : Nat) : (s.ctBell h n at_).tick = s.tick := by
  unfold State.ctBell
  split
  · exact State.defer_tick _
  · exact State.deliver_tick _ _

theorem State.ctMatch_tick : (s.ctMatch h c).tick = s.tick := by
  simp only [State.ctMatch, apply_ite State.tick, State.ctBell_tick, State.ctEvent_tick, State.ctOut_tick, State.setAt_tick,
    State.setCounter_tick, State.ctTake_tick, ite_self]

theorem State.ctWrap_tick : (s.ctWrap h c).tick = s.tick := by
  simp only [State.ctWrap, apply_ite State.tick, State.ctEvent_tick, State.ctOut_tick, State.setAt_tick,
    State.setCounter_tick, State.ctTake_tick, ite_self]

theorem State.ctRun_tick (upto fuel : Nat) : (State.ctRun h c upto fuel s).tick = s.tick := by
  induction fuel generalizing s with
  | zero => rfl
  | succ fuel ih =>
    unfold State.ctRun
    split
    · rw [ih, State.ctMatch_tick]
    · rw [ih, State.ctWrap_tick]
    · dsimp only
      split <;> rfl

theorem State.ctTo_tick (upto : Nat) : (s.ctTo h c upto).tick = s.tick := State.ctRun_tick _ _

theorem State.ctBelow_tick (upto : Nat) : (s.ctBelow h c upto).tick = s.tick := by
  simp only [State.ctBelow, apply_ite State.tick, State.ctTo_tick, ite_self]

theorem State.ctCatch_tick (upto : Nat) : (s.ctCatch h c upto).tick = s.tick := by
  rw [State.ctCatch, State.ctTo_tick, State.ctBelow_tick]

/-! ## CT_CTRL -/

theorem bits_shl_low (x : Nat) (hx : x < 2 ^ 32) : bits x 31 7 <<< 7 = x / 128 * 128 := by
  rw [bits_eq_div, Nat.shiftLeft_eq]
  omega

/-- The word that a write of `v` leaves in CT_CTRL over `old`: a refused clock keeps its field (R58). -/
def ctCtrlWord (old v : Nat) (refused : Bool) : Nat := setBits (bits v 31 7 <<< 7) 30 28 (if refused then bits old 30 28 else bits v 30 28)

/-- A write of CT_CTRL in the registers: the word, and CFG_REFUSED of a refused clock. -/
def State.ctCtrlSet (s : State) (h c v : Nat) (refused : Bool) : State :=
  let s := s.drives h s.tick (fun s' => s'.wr ((ix h c).reg .CT_CTRL) (ctCtrlWord (s.rd ((ix h c).reg .CT_CTRL)) v refused))
  if refused then s.set CT_STATUS.CFG_REFUSED (ix h c) true else s

/-- The rest of a write of CT_CTRL is the counter's own: its record and its clock events. -/
theorem State.rd_ctCtrlWrite (s : State) (h c v : Nat) (q : Reg) :
    (s.ctCtrlWrite h c v).rd q = ((s.ctCatch h c s.tick).ctCtrlSet h c v
      (decide (3 < bits v 30 28) || (s.ctCatch h c s.tick).chainTooLong h c (bits v 30 28))).rd q := by
  have recorded : ∀ (p : Prop) [Decidable p] (w : State), (if p then w.ctRecord h c else w).rd q = w.rd q := by
    intro p _ w
    split <;> rfl
  have cleared : ∀ (p : Prop) [Decidable p] (w : State) (k : Counter), (if p then w else w.setCounter h c k).rd q = w.rd q := by
    intro p _ w k
    split <;> rfl
  unfold State.ctCtrlWrite
  exact (recorded _ _).trans (cleared _ _ _)

theorem State.onlyPads_wr {u v : State} (e : u.OnlyPads v) (r : Reg) (x : Nat) : (u.wr r x).OnlyPads (v.wr r x) := by
  obtain ⟨_, _, rfl⟩ := e
  exact ⟨_, _, rfl⟩

theorem State.rd_ctCtrlSet (s : State) (h c v : Nat) (refused : Bool) :
    (s.ctCtrlSet h c v refused).rd ((ix h c).reg .CT_CTRL) = ctCtrlWord (s.rd ((ix h c).reg .CT_CTRL)) v refused % 2 ^ 64 := by
  have hw : (s.drives h s.tick (fun s' => s'.wr ((ix h c).reg .CT_CTRL) (ctCtrlWord (s.rd ((ix h c).reg .CT_CTRL)) v refused))).rd
      ((ix h c).reg .CT_CTRL) = ctCtrlWord (s.rd ((ix h c).reg .CT_CTRL)) v refused % 2 ^ 64 :=
    ((State.drives_onlyPads (fun _ _ e => State.onlyPads_wr e _ _) h s.tick).rd _).trans (State.rd_wr_self _ _ _)
  unfold State.ctCtrlSet
  dsimp only
  split
  · rw [State.rd_set_ne (Ix.reg_ne (by decide) _ _), hw]
  · exact hw

theorem setBits_bits_self {x hi lo : Nat} (h : lo ≤ hi) : setBits x hi lo (bits x hi lo) = x := by
  apply Nat.eq_of_testBit_eq
  intro i
  rw [testBit_setBits _ _ _ _ _ h, testBit_bits]
  split
  case isTrue hi => rw [decide_eq_true (by omega), Bool.true_and, Nat.add_sub_cancel' hi.1]
  case isFalse => rfl

end Sys2Proof.Machine
end

section
/-! The proof of O39. -/

namespace Sys2Proof.Proofs

open Sys2Proof.Machine

variable {s : State} {by_ : Accessor} {h c : Nat} {v : Word}

theorem exec_ctPeriodWrite (ho : s.portOpen (accPort by_) = true) (hr : s.reachesHall by_ h = true) :
    exec (.ctPeriodWrite by_ h c v) s = .next (s.ctPeriodWrite h c v.toNat) := by
  show execCtPeriodWrite by_ h c v s = _
  rw [execCtPeriodWrite, State.byPort_open ho, if_pos hr]

theorem exec_ctCountWrite (ho : s.portOpen (accPort by_) = true) (hr : s.reachesHall by_ h = true) :
    exec (.ctCountWrite by_ h c v) s = .next (s.ctCountWrite h c v.toNat) := by
  show execCtCountWrite by_ h c v s = _
  rw [execCtCountWrite, State.byPort_open ho, if_pos hr]

theorem exec_ctInputWrite (ho : s.portOpen (accPort by_) = true) (hr : s.reachesHall by_ h = true) :
    exec (.ctInputWrite by_ h c v) s = .next (s.ctInputWrite h c v.toNat) := by
  show execCtInputWrite by_ h c v s = _
  rw [execCtInputWrite, State.byPort_open ho, if_pos hr]

theorem exec_ctCtrlWrite (ho : s.portOpen (accPort by_) = true) (hr : s.reachesHall by_ h = true) :
    exec (.ctCtrlWrite by_ h c v) s = .next (s.ctCtrlWrite h c v.toNat) := by
  show execCtCtrlWrite by_ h c v s = _
  rw [execCtCtrlWrite, State.byPort_open ho, if_pos hr]

theorem exec_chainRead (ho : s.portOpen (accPort by_) = true) (hr : s.reachesHall by_ h = true) :
    exec (.chainRead by_ h c) s = .next (s.chainLatch h c) := by
  show execChainRead by_ h c s = _
  rw [execChainRead, State.byPort_open ho, if_pos hr]

/-- A write of CT_PERIOD puts the period; a count above it has passed it (R55). -/
theorem ctPeriodWrite_leaves (s : State) (h c : Nat) (v : Word) :
    let u := s.ctCatch h c s.tick
    let s' := s.ctPeriodWrite h c v.toNat
    s'.get CT_PERIOD.VAL (ix h c) = v.toNat ∧ s'.get CT_COUNT.VAL (ix h c) = u.get CT_COUNT.VAL (ix h c) ∧
      (v.toNat < u.get CT_COUNT.VAL (ix h c) → s'.is CT_STATUS.PERIOD_PASSED (ix h c) = true) ∧
      (u.get CT_COUNT.VAL (ix h c) ≤ v.toNat → s'.is CT_STATUS.PERIOD_PASSED (ix h c) = u.is CT_STATUS.PERIOD_PASSED (ix h c)) := by
  intro u s'
  have hput : (u.put CT_PERIOD.VAL (ix h c) v.toNat).get CT_PERIOD.VAL (ix h c) = v.toNat := by
    rw [State.get_put_self _ _ _ _ (by decide) (by decide)]
    exact Nat.mod_eq_of_lt v.isLt
  have hcount : (u.put CT_PERIOD.VAL (ix h c) v.toNat).get CT_COUNT.VAL (ix h c) = u.get CT_COUNT.VAL (ix h c) :=
    State.get_put_beside (by decide) _ _ _
  have hs' : s' = if v.toNat < u.get CT_COUNT.VAL (ix h c) then
      (u.put CT_PERIOD.VAL (ix h c) v.toNat).set CT_STATUS.PERIOD_PASSED (ix h c) true else u.put CT_PERIOD.VAL (ix h c) v.toNat := by
    rw [← hcount]
    rfl
  rw [hs']
  split
  case isTrue hlt =>
    refine ⟨?_, ?_, fun _ => State.is_set_self _ _ _ _ rfl (by decide), fun hle => absurd hlt (Nat.not_lt.mpr hle)⟩
    · rw [State.get_set_beside (by decide), hput]
    · rw [State.get_set_beside (by decide), hcount]
  case isFalse hge => exact ⟨hput, hcount, fun hlt => absurd hlt hge, fun _ => State.is_put_beside (by decide) _ _ _⟩

/-- A write of CT_COUNT sets the count and drops the clock events of its tick and before (R57). -/
theorem ctCountWrite_leaves (s : State) (h c : Nat) (v : Word) :
    let s' := s.ctCountWrite h c v.toNat
    s'.get CT_COUNT.VAL (ix h c) = v.toNat ∧ (∀ e ∈ (s'.counter h c).todo, s.tick < e.1) ∧ s.tick ≤ (s'.counter h c).asOf := by
  have htick : ((s.ctBelow h c s.tick).ctTo h c (s.tick - 1)).tick = s.tick := by rw [State.ctTo_tick, State.ctBelow_tick]
  dsimp only
  unfold State.ctCountWrite
  simp only [State.put_counter, State.counter_self, htick]
  refine ⟨?_, fun e he => of_decide_eq_true (List.mem_filter.mp he).2, le_max_right _ _⟩
  rw [State.get_put_self _ _ _ _ (by decide) (by decide)]
  exact Nat.mod_eq_of_lt v.isLt

/-- A write of CT_INPUT stores the word, starts the prescale count afresh and lets the input settle anew (R59). -/
theorem ctInputWrite_leaves (s : State) (h c : Nat) (v : Word) :
    let s' := s.ctInputWrite h c v.toNat
    s'.rd ((ix h c).reg .CT_INPUT) = v.toNat / 128 * 128 ∧ (s'.counter h c).prescale = 0 ∧ (s'.counter h c).level = none := by
  have hv : v.toNat < 2 ^ 32 := v.isLt
  dsimp only
  unfold State.ctInputWrite
  simp only [State.setCounter_rd, State.counter_self, and_self, and_true]
  rw [State.rd_wr_self, bits_shl_low _ hv]
  omega

/-- A write of CT_CTRL stores the word; a clock that does not exist is refused (R53, R58). -/
theorem ctCtrlWrite_leaves (s : State) (h c : Nat) (v : Word) :
    let u := s.ctCatch h c s.tick
    let s' := s.ctCtrlWrite h c v.toNat
    (v.toNat / 2 ^ 28 % 8 < 3 → s'.rd ((ix h c).reg .CT_CTRL) = v.toNat / 128 * 128) ∧
      (4 ≤ v.toNat / 2 ^ 28 % 8 → s'.is CT_STATUS.CFG_REFUSED (ix h c) = true ∧ s'.get CT_CTRL.CLK_SRC (ix h c) = u.get CT_CTRL.CLK_SRC (ix h c)) := by
  have hv : v.toNat < 2 ^ 32 := v.isLt
  have hsrc : bits v.toNat 30 28 = v.toNat / 2 ^ 28 % 8 := bits_eq_div _ _ _
  have hword : bits (bits v.toNat 31 7 <<< 7) 30 28 = bits v.toNat 30 28 := by
    rw [bits_shl_low _ hv, bits_eq_div, bits_eq_div]
    omega
  refine ⟨fun hlt => ?_, fun hge => ?_⟩
  · have hno : (decide (3 < bits v.toNat 30 28) || (s.ctCatch h c s.tick).chainTooLong h c (bits v.toNat 30 28)) = false := by
      have h3 : (bits v.toNat 30 28 == 3) = false := by
        rw [beq_eq_false_iff_ne]
        omega
      simp only [State.chainTooLong, h3, Bool.false_and, Bool.or_false, decide_eq_false_iff_not]
      omega
    rw [State.rd_ctCtrlWrite, hno, State.rd_ctCtrlSet, ctCtrlWord, if_neg (by decide), ← hword, setBits_bits_self (by decide), bits_shl_low _ hv]
    omega
  · have hyes : (decide (3 < bits v.toNat 30 28) || (s.ctCatch h c s.tick).chainTooLong h c (bits v.toNat 30 28)) = true := by
      rw [decide_eq_true (by omega), Bool.true_or]
    have hrd := State.rd_ctCtrlWrite s h c v.toNat
    rw [hyes] at hrd
    refine ⟨(State.is_of_rd (hrd _)).trans (State.is_set_self _ _ _ _ rfl (by decide)), ?_⟩
    have hold : bits ((s.ctCatch h c s.tick).rd ((ix h c).reg .CT_CTRL)) 30 28 < 2 ^ 3 := bits_lt _ _ _
    rw [State.get, show CT_CTRL.CLK_SRC.reg = .CT_CTRL from rfl, hrd, State.rd_ctCtrlSet, bits_mod (by decide), ctCtrlWord, if_pos rfl]
    exact (bits_setBits (by decide)).trans (Nat.mod_eq_of_lt hold)

/-- A read of the lowest member of a chain of two loads the latch of the other (R58). -/
theorem chainLatch_leaves {s : State} {h c : Nat} :
    let u := s.ctCatch h c s.tick
    u.get CT_CTRL.CLK_SRC (ix h c) ≠ 3 → c + 1 < 64 → u.get CT_CTRL.CLK_SRC (ix h (c + 1)) = 3 → u.get CT_CTRL.CLK_SRC (ix h (c + 2)) ≠ 3 →
      (s.chainLatch h c).get CT_COUNT_LATCH.VAL (ix h (c + 1)) = (u.ctTo h (c + 1) s.tick).get CT_COUNT.VAL (ix h (c + 1)) := by
  intro u h0 hc h1 h2
  have htick : u.tick = s.tick := State.ctCatch_tick _
  have hup : u.runUp h 2 c = 1 := by
    rw [State.runUp, if_pos ⟨hc, h1⟩, State.runUp, if_neg (fun e => h2 e.2)]
  have hs : s.chainLatch h c = (u.ctTo h (c + 1) u.tick).put CT_COUNT_LATCH.VAL (ix h (c + 1))
      ((u.ctTo h (c + 1) u.tick).get CT_COUNT.VAL (ix h (c + 1))) := by
    unfold State.chainLatch
    dsimp only
    rw [if_neg (fun e => h0 e.1), hup]
    rfl
  rw [hs, htick, State.get_put_self _ _ _ _ (by decide) (by decide)]
  exact Nat.mod_eq_of_lt (State.get_lt _ _ _)

/-- Settles O39: each write catches the counter up first, which leaves the tick, and then puts what it writes. -/
theorem counterCommands : Obligations.CounterCommands := by
  intro s by_ h c v i u ho hr
  exact ⟨⟨_, exec_ctPeriodWrite ho hr, ctPeriodWrite_leaves s h c v⟩, ⟨_, exec_ctCountWrite ho hr, ctCountWrite_leaves s h c v⟩,
    ⟨_, exec_ctInputWrite ho hr, ctInputWrite_leaves s h c v⟩, ⟨_, exec_ctCtrlWrite ho hr, ctCtrlWrite_leaves s h c v⟩,
    fun h0 hc h1 h2 => ⟨_, exec_chainRead ho hr, chainLatch_leaves h0 hc h1 h2⟩⟩

end Sys2Proof.Proofs
end

section
/-! SUPPORT. The update of an axis from a measurement (R34, R35), and what follows from an update (R45, R53). -/

namespace Sys2Proof.Machine

variable {s : State} {n tu : Nat}

/-! ## Rounding -/

/-- `roundAway` is the nearest multiple, and of two equally near the one away from zero. -/
theorem roundAway_nearest (N : Int) {d : Nat} (hd : 0 < d) :
    2 * (roundAway N d * d - N) ≤ d ∧ 2 * (N - roundAway N d * d) ≤ d ∧
      ((2 * (roundAway N d * d - N) = d → 0 ≤ N) ∧ (2 * (N - roundAway N d * d) = d → N ≤ 0)) := by
  have near : ∀ M : Int, 2 * ((2 * M + d) / (2 * d) * d) ≤ 2 * M + d ∧ 2 * M < 2 * ((2 * M + d) / (2 * d) * d) + d := by
    intro M
    have hlo := Int.ediv_mul_le (2 * M + d) (show (2 * d : Int) ≠ 0 by omega)
    have hhi := Int.lt_ediv_add_one_mul_self (2 * M + d) (show (0 : Int) < 2 * d by omega)
    generalize (2 * M + d) / (2 * d : Int) = q at hlo hhi ⊢
    constructor <;> linarith
  unfold roundAway
  split
  case isTrue hneg =>
    have := near (-N)
    rw [Int.neg_mul]
    omega
  case isFalse hpos =>
    have := near N
    omega

/-! ## What an update leaves of the rest -/

/-- The state but for registers, marks, counters and axes. -/
def State.sansAxes (s : State) : State := { s.noRegs with marks := [], counters := [], axes := [] }

/-- From `s` to `s'` nothing changes but registers, marks and counters. -/
structure State.OnlyMarks (s s' : State) : Prop where
  rest : s'.sansAxes = s.sansAxes
  axes : s'.axes = s.axes

theorem State.OnlyMarks.refl (s : State) : s.OnlyMarks s := ⟨rfl, rfl⟩

theorem State.OnlyMarks.trans {a b c : State} (h : a.OnlyMarks b) (k : b.OnlyMarks c) : a.OnlyMarks c :=
  ⟨k.rest.trans h.rest, k.axes.trans h.axes⟩

theorem State.OnlyMarks.axis {s' : State} (h : s.OnlyMarks s') (m : Nat) : s'.axis m = s.axis m := by
  rw [State.axis, h.axes, State.axis]

theorem forAll_onlyMarks {α : Type} (xs : List α) (f : α → State → State) (hf : ∀ x (t : State), t.OnlyMarks (f x t)) :
    s.OnlyMarks (forAll xs f s) := by
  unfold forAll
  induction xs generalizing s with
  | nil => exact .refl s
  | cons x xs ih => exact (hf x s).trans ih

theorem State.set_onlyMarks (f : Field) (i : Ix) (b : Bool) : s.OnlyMarks (s.set f i b) := ⟨rfl, rfl⟩

theorem State.setMark_onlyMarks (h m : Nat) (a : Mark) : s.OnlyMarks (s.setMark h m a) := ⟨rfl, rfl⟩

theorem State.ite_onlyMarks {p : Prop} [Decidable p] {a b : State} (ha : s.OnlyMarks a) (hb : s.OnlyMarks b) :
    s.OnlyMarks (if p then a else b) := by
  split
  · exact ha
  · exact hb

/-- A mark projected, of which flags of its TM_STATUS are set. -/
theorem State.setMark_set_onlyMarks (h m : Nat) (a : Mark) (f : Field) (i : Ix) (b : Bool) : s.OnlyMarks ((s.setMark h m a).set f i b) :=
  (State.setMark_onlyMarks h m a).trans (State.set_onlyMarks f i b)

theorem State.project_onlyMarks (h m : Nat) (p v : Int) (t tr : Nat) : s.OnlyMarks (s.project h m p v t tr) := by
  unfold State.project
  refine State.ite_onlyMarks (State.setMark_onlyMarks _ _ _) ?_
  extract_lets tn pr side
  clear_value pr
  cases pr
  case behind =>
    refine State.ite_onlyMarks (State.setMark_onlyMarks _ _ _) (State.ite_onlyMarks ?_ ?_)
    · exact (State.setMark_set_onlyMarks _ _ _ _ _ _).trans (State.set_onlyMarks _ _ _)
    · refine (State.set_onlyMarks TM_STATUS.DROPPED (ix h m) true).trans ?_
      generalize advanceTarget _ _ _ _ _ _ _ _ _ = x
      refine State.ite_onlyMarks ?_ ?_
      · exact State.setMark_onlyMarks _ _ _
      · exact State.setMark_set_onlyMarks _ _ _ _ _ _
  all_goals exact State.setMark_onlyMarks _ _ _

theorem State.markUpdates_onlyMarks (p v : Int) : s.OnlyMarks (s.markUpdates n p v tu) :=
  forAll_onlyMarks _ _ (fun _ t => State.ite_onlyMarks (State.project_onlyMarks _ _ _ _ _ _) (.refl t))

theorem State.setCounter_onlyMarks (h c : Nat) (a : Counter) : s.OnlyMarks (s.setCounter h c a) := ⟨rfl, rfl⟩

theorem State.axisCounts_onlyMarks (p : Int) (at_ : Nat) : s.OnlyMarks (s.axisCounts n p at_) :=
  forAll_onlyMarks _ _ (fun _ t =>
    State.ite_onlyMarks (State.ite_onlyMarks (State.setCounter_onlyMarks _ _ _) (.refl t)) (.refl t))

/-- From `s` to `s'` nothing changes but registers, marks, counters and axis `n`. -/
structure State.OnlyAxis (n : Nat) (s s' : State) : Prop where
  rest : s'.sansAxes = s.sansAxes
  axis : ∀ m, m ≠ n → s'.axis m = s.axis m

theorem State.OnlyAxis.trans {a b c : State} (h : a.OnlyAxis n b) (k : b.OnlyAxis n c) : a.OnlyAxis n c :=
  ⟨k.rest.trans h.rest, fun m hm => (k.axis m hm).trans (h.axis m hm)⟩

theorem State.OnlyMarks.onlyAxis {s' : State} (h : s.OnlyMarks s') : s.OnlyAxis n s' := ⟨h.rest, fun m _ => h.axis m⟩

theorem State.setAxis_onlyAxis (a : Axis) : s.OnlyAxis n (s.setAxis n a) := ⟨rfl, fun m hm => s.axis_ne n a m hm⟩

theorem State.setAt_onlyMarks (f : Field) (i : Ix) (at_ : Nat) : s.OnlyMarks (s.setAt f i at_) := by
  obtain ⟨hw, e⟩ := s.setAt_eq f i at_
  rw [e]
  exact ⟨rfl, rfl⟩

section

variable {s' : State} (h : s.OnlyAxis n s')

include h

theorem State.OnlyAxis.jobs : s'.jobs = s.jobs := (congrArg State.jobs h.rest : s'.sansAxes.jobs = s.sansAxes.jobs)

theorem State.OnlyAxis.wind : s'.wind = s.wind := (congrArg State.wind h.rest : s'.sansAxes.wind = s.sansAxes.wind)

theorem State.OnlyAxis.swaps : s'.swaps = s.swaps := (congrArg State.swaps h.rest : s'.sansAxes.swaps = s.sansAxes.swaps)

theorem State.OnlyAxis.faults : s'.faults = s.faults := (congrArg State.faults h.rest : s'.sansAxes.faults = s.sansAxes.faults)

theorem State.OnlyAxis.mem : s'.mem = s.mem := (congrArg State.mem h.rest : s'.sansAxes.mem = s.sansAxes.mem)

end

/-! ## The update -/

theorem State.nextUpdate_eq (h6 : 6 ≤ s.get TAX_CTRL.K (ix n)) (h20 : s.get TAX_CTRL.K (ix n) ≤ 20) (h0 : (s.axis n).notBefore = 0) :
    s.nextUpdate n = (s.axis n).t + 2 ^ s.get TAX_CTRL.K (ix n) := by
  rw [State.nextUpdate, h0, max_eq_left h6, min_eq_left h20, Nat.max_zero]

theorem State.axisBefore_eq (hc : (s.axis n).calPreset = none) (hw : s.wind = none) : s.axisBefore n tu = s := by
  simp only [State.axisBefore, hc, hw]

/-- An axis that neither recovers nor steps. -/
structure State.Tracks (s : State) (n : Nat) : Prop where
  lost : s.is TAX_STATUS.LOST (ix n) = false
  coasting : s.is TAX_STATUS.COASTING (ix n) = false
  wake : (s.axis n).wakeRecover = false
  preset : (s.axis n).presetPend = false
  clear : (s.axis n).clearPend = false
  calib : (s.axis n).calPreset = none

theorem State.Tracks.recovers (h : s.Tracks n) : s.axisRecovers n = false := by
  simp only [State.axisRecovers, h.lost, h.wake, Bool.false_and, Bool.or_false]

theorem State.Tracks.freed (h : s.Tracks n) : s.axisFreed n = false := by
  simp only [State.axisFreed, h.recovers, h.preset, h.calib, h.clear, Option.isSome_none, Bool.or_false]

/-- A tracking axis with a measured source is updated by the estimator of R34. -/
theorem State.Tracks.axisUpd (h : s.Tracks n) (hs : s.get TAX_CTRL.SRC (ix n) ≠ 4) (h6 : 6 ≤ s.get TAX_CTRL.K (ix n))
    (h20 : s.get TAX_CTRL.K (ix n) ≤ 20) :
    s.axisUpd n tu = estimate (s.axis n).p (s.axis n).v (s.axis n).t tu (s.get TAX_GAIN.ALPHA (ix n)) (s.get TAX_GAIN.BETA (ix n))
      (s.get TAX_CTRL.K (ix n)) (s.axis n).meas := by
  simp only [State.axisUpd, hs, h.recovers, h.lost, h.coasting, h.wake, h.preset, h.calib, h.clear, max_eq_left h6, min_eq_left h20,
    if_false, Bool.false_eq_true, or_false, Option.isSome_none, Bool.or_false]

/-- The axis after an update `u` that ends no loss, STEP and its count of steps with it. -/
def State.axisMoved (s : State) (n : Nat) (u : Upd) (tu : Nat) : State :=
  let s := s.setAxis n ((s.axis n).updated u false false tu)
  if u.step || wrapS 64 u.p != u.p then (s.setAt TAX_STATUS.STEP (ix n) tu).setAxis n { s.axis n with steps := (s.axis n).steps + 1 } else s

theorem State.axisMoved_onlyAxis (s : State) (n : Nat) (u : Upd) (tu : Nat) : s.OnlyAxis n (s.axisMoved n u tu) := by
  unfold State.axisMoved
  dsimp only
  split
  · exact ((State.setAxis_onlyAxis _).trans (State.setAt_onlyMarks _ _ _).onlyAxis).trans (State.setAxis_onlyAxis _)
  · exact State.setAxis_onlyAxis _

theorem State.axisMoved_axis (s : State) (n : Nat) (u : Upd) (tu : Nat) :
    ∃ k, (s.axisMoved n u tu).axis n = { (s.axis n).updated u false false tu with steps := k } := by
  unfold State.axisMoved
  dsimp only
  split
  · exact ⟨_, by rw [State.axis_self, State.axis_self]⟩
  · exact ⟨_, State.axis_self _ _ _⟩

/-- The update of a tracking axis that used a measurement. -/
theorem State.updateAxis_tracks (h : s.Tracks n) (hw : s.wind = none) (hs : s.get TAX_CTRL.SRC (ix n) ≠ 4)
    (hu : (s.axisUpd n (s.nextUpdate n)).used.isSome = true) :
    let u := s.axisUpd n (s.nextUpdate n)
    let m := s.axisMoved n u (s.nextUpdate n)
    s.updateAxis n = (m.setAxis n { m.axis n with missed := 0, stillMissing := false }).axisAfter n (s.nextUpdate n) u := by
  simp only [State.updateAxis, State.axisBefore_eq h.calib hw, h.freed, Bool.false_and, h.lost, h.coasting, State.axisMissed, State.missing,
    hs, hu, if_true, if_false, Bool.false_eq_true]
  rfl

theorem State.observe_of_noJobs (h : s.jobs = []) (u : Upd) (r : Int) : s.observe n u r = s := by
  unfold State.observe
  split
  · rfl
  · rw [h]; rfl

theorem State.windDone_of_none (h : s.wind = none) : s.windDone n = s := by simp only [State.windDone, h]

/-- What follows from an update leaves the axes, where nothing observes them and no wind-down runs. -/
theorem State.axisAfter_onlyMarks (hj : s.jobs = []) (hw : s.wind = none) (u : Upd) : s.OnlyMarks (s.axisAfter n tu u) := by
  unfold State.axisAfter
  extract_lets vmin still seen marked counted
  have h1 : s.OnlyMarks still := State.set_onlyMarks _ _ _
  have h2 : s.OnlyMarks seen := by
    have hseen : seen = still := State.observe_of_noJobs ((State.OnlyAxis.jobs (n := n) h1.onlyAxis).trans hj) _ _
    rwa [hseen]
  have h3 : s.OnlyMarks counted := (h2.trans (State.markUpdates_onlyMarks _ _)).trans (State.axisCounts_onlyMarks _ _)
  rwa [State.windDone_of_none ((State.OnlyAxis.wind (n := n) h3.onlyAxis).trans hw)]

theorem State.swapLate_of_noSwaps (h : s.swaps = []) : s.swapLate = s := by
  unfold State.swapLate
  rw [h]
  rfl

/-- The update of a tracking axis from a measurement, to the end. -/
theorem State.exec_estimatorUpdate_tracks (hn : n < 16) (hd : s.updateDue n = true) (hf : s.faults = []) (hsw : s.swaps = [])
    (hw : s.wind = none) (hj : s.jobs = []) (h : s.Tracks n) (hs : s.get TAX_CTRL.SRC (ix n) ≠ 4)
    (hu : (s.axisUpd n (s.nextUpdate n)).used.isSome = true) :
    ∃ s' k, exec (.estimatorUpdate n) s = .next s' ∧ s.OnlyAxis n s' ∧
      s'.axis n = { (s.axis n).updated (s.axisUpd n (s.nextUpdate n)) false false (s.nextUpdate n) with
        steps := k, missed := 0, stillMissing := false } := by
  have hx : exec (.estimatorUpdate n) s = .next (s.updateAxis n).swapLate.settle := by
    show execEstimatorUpdate n s = _
    rw [execEstimatorUpdate, if_pos ⟨hn, hd⟩]
  have heq := State.updateAxis_tracks h hw hs hu
  dsimp only at heq
  generalize s.axisUpd n (s.nextUpdate n) = u at heq ⊢
  generalize s.nextUpdate n = tu at heq ⊢
  have moved := s.axisMoved_onlyAxis n u tu
  obtain ⟨k, hk⟩ := s.axisMoved_axis n u tu
  generalize s.axisMoved n u tu = m at heq moved hk
  have counted : s.OnlyAxis n (m.setAxis n { m.axis n with missed := 0, stillMissing := false }) := moved.trans (State.setAxis_onlyAxis _)
  have after := State.axisAfter_onlyMarks (n := n) (tu := tu) (counted.jobs.trans hj) (counted.wind.trans hw) u
  rw [← heq] at after
  have whole : s.OnlyAxis n (s.updateAxis n) := counted.trans after.onlyAxis
  rw [State.swapLate_of_noSwaps (whole.swaps.trans hsw), State.settle_of_noFaults (whole.faults.trans hf)] at hx
  exact ⟨_, k, hx, whole, by rw [after.axis, State.axis_self, hk]⟩

/-! ## Quadrature edges (R32, R33) -/

theorem Tab.set_set {κ α : Type} [DecidableEq κ] (t : Tab κ α) (k : κ) (v w : α) : Tab.set (Tab.set t k v) k w = Tab.set t k w := by
  simp only [Tab.set, Tab.del, List.filter_cons, decide_true, Bool.not_true, Bool.false_eq_true, if_false, List.filter_filter, Bool.and_self]

theorem State.setAxis_setAxis (s : State) (n : Nat) (a b : Axis) : (s.setAxis n a).setAxis n b = s.setAxis n b := by
  simp only [State.setAxis, Tab.set_set]

/-- A measurement not earlier than the last one is taken (R33). -/
theorem Axis.measure_eq (a : Axis) (z tm : Int) (h : ∀ l, a.lastTm = some l → l ≤ tm) :
    a.measure z tm = { a with meas := some (z, tm), lastTm := some tm } := by
  unfold Axis.measure
  split
  next l hl => rw [if_neg (Int.not_lt.mpr (h l hl))]
  next => rfl

/-- A loss of an axis that may coast: it coasts (R38). -/
theorem State.axisLoss_coasts (hl : s.is TAX_STATUS.LOST (ix n) = false) (hc : s.is TAX_STATUS.COASTING (ix n) = false)
    (h4 : s.get TAX_CTRL.SRC (ix n) ≠ 4) (h0 : s.get TAX_CTRL.COAST (ix n) ≠ 0) (at_ : Nat) (now : Bool) :
    s.axisLoss n at_ now = (s.setAxis n { s.axis n with coast := s.get TAX_CTRL.COAST (ix n) }).set TAX_STATUS.COASTING (ix n) true := by
  have h4' : (s.get TAX_CTRL.SRC (ix n) == 4) = false := beq_eq_false_iff_ne.mpr h4
  simp only [State.axisLoss, hl, hc, h4', h0, Bool.or_self, Bool.false_eq_true, if_false]

/-- An edge in error sets its flag, and the axis coasts. -/
theorem State.edgeError_coasts {f : Field} (hr : f.reg = .TAX_STATUS) (h1 : f.hi = f.lo) (h2 : f.hi < 64)
    (hfl : TAX_STATUS.LOST.Beside f) (hfc : TAX_STATUS.COASTING.Beside f) (hcf : f.Beside TAX_STATUS.COASTING)
    (hl : s.is TAX_STATUS.LOST (ix n) = false) (hc : s.is TAX_STATUS.COASTING (ix n) = false)
    (h4 : s.get TAX_CTRL.SRC (ix n) ≠ 4) (h0 : s.get TAX_CTRL.COAST (ix n) ≠ 0) (a : Axis) (tm : Nat) :
    let s' := ((s.setAxis n a).set f (ix n) true).axisLoss n tm true
    s'.is f (ix n) = true ∧ s'.is TAX_STATUS.COASTING (ix n) = true ∧ s'.faults = s.faults ∧
      s'.axis n = { a with coast := s.get TAX_CTRL.COAST (ix n) } ∧ s.regsBut s' [(ix n).reg .TAX_STATUS] := by
  have hctrl : ∀ g : Field, g.reg = .TAX_CTRL → ((s.setAxis n a).set f (ix n) true).get g (ix n) = s.get g (ix n) := fun g hg => by
    rw [State.get_set_beside (.inl (by rw [hg, hr]; decide)), State.setAxis_get]
  have hs' := State.axisLoss_coasts (s := (s.setAxis n a).set f (ix n) true) (n := n) (by rw [State.is_set_beside hfl, State.setAxis_is, hl])
    (by rw [State.is_set_beside hfc, State.setAxis_is, hc]) (by rwa [hctrl _ rfl]) (by rwa [hctrl _ rfl]) tm true
  dsimp only
  rw [hs', hctrl _ rfl]
  refine ⟨?_, State.is_set_self _ _ _ _ rfl (by decide), rfl, ?_, ?_⟩
  · rw [State.is_set_beside hcf, State.setAxis_is, State.is_set_self _ _ _ _ h1 h2]
  · rw [State.set_axis, State.axis_self, State.set_axis, State.axis_self]
  · exact State.regsBut.trans (State.regsBut_set (s := s.setAxis n a) f (ix n) true (by simp [hr])) (State.regsBut_set _ _ _ (by simp [TAX_STATUS.COASTING]))

/-- The count of a quadrature edge on line A or line B, from the levels before and after it. -/
def quadUp (la lb a b : Bool) : Bool := (la != a && la != lb) || (lb != b && la == lb)

/-- The phase of a pair of levels along 00, 10, 11, 01. -/
def quadPhase (x y : Bool) : Nat := if x then (if y then 2 else 1) else (if y then 3 else 0)

/-- A step by one phase changes one line, and counts up along the phases. -/
theorem quadPhase_step : ∀ la lb a b : Bool, (quadPhase la lb = (quadPhase a b + 1) % 4 ∨ quadPhase a b = (quadPhase la lb + 1) % 4) →
    ¬(la = a ∧ lb = b) ∧ ¬(la ≠ a ∧ lb ≠ b) ∧ quadUp la lb a b = decide (quadPhase la lb = (quadPhase a b + 1) % 4) := by
  decide

/-- An edge of both lines at once. -/
theorem State.quadEdge_both {la lb : Bool} {tm : Nat} (hs : s.get TAX_CTRL.SRC (ix n) = 1) (ha : la ≠ (s.axis n).lineA) (hb : lb ≠ (s.axis n).lineB) :
    s.quadEdge n la lb tm =
      ((s.setAxis n { s.axis n with lineA := la, lineB := lb }).set TAX_STATUS.QUAD_ERR (ix n) true).axisLoss n tm true := by
  unfold State.quadEdge
  dsimp only
  rw [if_neg (by simp [hs, ha]), if_pos ⟨ha, hb⟩]

/-- An edge closer than 320 ticks to the last one. -/
theorem State.quadEdge_close {la lb : Bool} {tm l : Nat} (hs : s.get TAX_CTRL.SRC (ix n) = 1)
    (hone : la = (s.axis n).lineA ↔ lb ≠ (s.axis n).lineB) (hl : (s.axis n).lastEdge = some l) (hlt : tm < l + 320) :
    s.quadEdge n la lb tm =
      ((s.setAxis n { s.axis n with lineA := la, lineB := lb }).set TAX_STATUS.OVERSPEED (ix n) true).axisLoss n tm true := by
  have hne : ¬(la = (s.axis n).lineA ∧ lb = (s.axis n).lineB) := fun h => hone.mp h.1 h.2
  have hnb : ¬(la ≠ (s.axis n).lineA ∧ lb ≠ (s.axis n).lineB) := fun h => h.1 (hone.mpr h.2)
  unfold State.quadEdge
  dsimp only
  rw [if_neg (by simp [hs, hne]), if_neg hnb, hl, if_pos (by simpa using hlt)]

/-- An edge that counts. -/
theorem State.quadEdge_counts {la lb : Bool} {tm : Nat} (hs : s.get TAX_CTRL.SRC (ix n) = 1)
    (hne : ¬(la = (s.axis n).lineA ∧ lb = (s.axis n).lineB)) (hnb : ¬(la ≠ (s.axis n).lineA ∧ lb ≠ (s.axis n).lineB))
    (hfar : ∀ l, (s.axis n).lastEdge = some l → l + 320 ≤ tm) (hlate : ∀ l, (s.axis n).lastTm = some l → l ≤ (tm : Int)) :
    let z := wrapS 64 ((s.axis n).z +
      if quadUp la lb (s.axis n).lineA (s.axis n).lineB = s.is TAX_CTRL.INVERT (ix n) then -(2 ^ 24) else 2 ^ 24)
    s.quadEdge n la lb tm = s.setAxis n
      { s.axis n with lineA := la, lineB := lb, z := z, meas := some (z, (tm : Int)), lastTm := some (tm : Int), lastEdge := some tm } := by
  have hup : ∀ x y : Bool, ∀ p q : Int, (if (x != y) = true then p else q) = if x = y then q else p := by
    intro x y p q
    cases x <;> cases y <;> rfl
  unfold State.quadEdge
  dsimp only
  rw [if_neg (by simp only [hs, hne]; decide), if_neg hnb]
  refine (if_neg ?_).trans ?_
  · cases hl : (s.axis n).lastEdge with
    | none => exact Bool.false_ne_true
    | some l => simpa using hfar l hl
  rw [State.setAxis_setAxis, State.setAxis_is,
    show ((la != (s.axis n).lineA && la != lb) || (lb != (s.axis n).lineB && la == lb)) = quadUp la lb (s.axis n).lineA (s.axis n).lineB from rfl,
    hup, Axis.measure_eq { s.axis n with lineA := la, lineB := lb } _ _ hlate]

end Sys2Proof.Machine
end

section
/-! The proof of O35. -/

namespace Sys2Proof.Proofs

open Sys2Proof.Machine

theorem estimatorUpdate : Claims.EstimatorUpdate := by
  intro s n z tm hn hd hf hsw hw hj i a hsrc h6 h20 hnb hm hl hc hwk hp hcl hcal tu dt r nearest k
  have track : s.Tracks n := ⟨hl, hc, hwk, hp, hcl, hcal⟩
  have hsrc4 : s.get TAX_CTRL.SRC i ≠ 4 := by
    intro e
    rw [e] at hsrc
    exact absurd hsrc (by decide)
  have htu : s.nextUpdate n = tu := State.nextUpdate_eq h6 h20 hnb
  have hupd : s.axisUpd n tu = estimate a.p a.v a.t tu (s.get TAX_GAIN.ALPHA i) (s.get TAX_GAIN.BETA i) (s.get TAX_CTRL.K i) (some (z, tm)) := by
    rw [track.axisUpd hsrc4 h6 h20, hm]
  obtain ⟨s', steps, hx, only, hax⟩ := State.exec_estimatorUpdate_tracks hn hd hf hsw hw hj track hsrc4 (by rw [htu, hupd]; rfl)
  rw [htu, hupd] at hax
  have hpos := roundAway_nearest ((a.p * 2 ^ 24 + a.v * dt) * 65536 + s.get TAX_GAIN.ALPHA i * r) (d := 2 ^ 40) (by decide)
  have hk : (65536 * 2 ^ s.get TAX_CTRL.K i : Int) = k := by norm_num [k]
  have hk' : ((65536 * 2 ^ s.get TAX_CTRL.K i : Nat) : Int) = k := by rw [← hk]; push_cast; rfl
  have hvel := roundAway_nearest (a.v * (65536 * 2 ^ s.get TAX_CTRL.K i) + s.get TAX_GAIN.BETA i * r) (d := 65536 * 2 ^ s.get TAX_CTRL.K i)
    (by positivity)
  refine ⟨s', _, roundAway (a.v * (65536 * 2 ^ s.get TAX_CTRL.K i) + s.get TAX_GAIN.BETA i * r) (65536 * 2 ^ s.get TAX_CTRL.K i), hx, hpos, ?_, ?_⟩
  · rw [hk, hk'] at hvel
    rwa [hk]
  · rw [hax]
    exact ⟨rfl, rfl, rfl, rfl, fun now hnow => if_neg (Nat.not_le.mpr hnow), fun now hnow => if_pos hnow, only.axis, only.mem⟩

/-- An edge that the filter accepts, of a tile awake. -/
theorem exec_quadratureEdge {s : State} {n tm : Nat} (hn : n < 16) (ha : s.asleep = false) (h16 : tm % 16 = 0)
    (hf : tm + 16 * s.get TAX_SRC.QFILT (ix n) ≤ s.tick) (pa pb : Bool) :
    exec (.quadratureEdge n pa pb tm) s =
      .next (s.quadEdge n (pa && s.quadInput n TAX_SRC.POS_A) (pb && s.quadInput n TAX_SRC.POS_B) tm).settle := by
  show execQuadratureEdge n pa pb tm s = _
  rw [execQuadratureEdge, if_pos]
  exact ⟨hn, by simp [State.quadFiltered, h16, hf], by simp [ha]⟩

theorem quadratureEdges : Claims.QuadratureEdges := by
  intro s n pa pb tm hn hsleep i a la lb phase hsrc hf h16 hfilt
  have hx := exec_quadratureEdge hn hsleep h16 hfilt pa pb
  have hsrc4 : s.get TAX_CTRL.SRC i ≠ 4 := by rw [hsrc]; decide
  refine ⟨fun hstep hfar hlate => ?_, fun ha hb hc0 hl hc => ?_, fun l hlast hlt hone hc0 hl hc => ?_⟩
  · obtain ⟨hne, hnb, hup⟩ := quadPhase_step la lb a.lineA a.lineB hstep
    intro up z
    have hcount := State.quadEdge_counts hsrc hne hnb hfar hlate
    rw [hup] at hcount
    rw [hx, hcount]
    exact congrArg Host.Outcome.next (State.settle_of_noFaults hf)
  · obtain ⟨hq, hco, hfa, hax, hregs⟩ := State.edgeError_coasts (f := TAX_STATUS.QUAD_ERR) rfl rfl (by decide) (by decide) (by decide) (by decide)
      hl hc hsrc4 hc0 { a with lineA := la, lineB := lb } tm
    rw [hx, State.quadEdge_both hsrc ha hb, State.settle_of_noFaults (hfa.trans hf)]
    exact ⟨_, rfl, hq, hco, by rw [hax], hregs⟩
  · obtain ⟨hq, hco, hfa, hax, hregs⟩ := State.edgeError_coasts (f := TAX_STATUS.OVERSPEED) rfl rfl (by decide) (by decide) (by decide) (by decide)
      hl hc hsrc4 hc0 { a with lineA := la, lineB := lb } tm
    rw [hx, State.quadEdge_close hsrc hone hlast hlt, State.settle_of_noFaults (hfa.trans hf)]
    exact ⟨_, rfl, hq, hco, by rw [hax], by rw [hax], by rw [hax], hregs⟩

/-- Settles O35: an update of a tracking axis rounds the estimator's exact results and keeps the old state until tu + 32; an edge counts by
the phase of the two lines, or sets its flag and lets the axis coast. -/
theorem axisMeasurements : Obligations.AxisMeasurements := ⟨estimatorUpdate, quadratureEdges⟩

end Sys2Proof.Proofs
end

section
/-! SUPPORT. The accesses of a port keep their order (R321, R377, R389): the third part of O30. -/

namespace Sys2Proof.Machine

variable {s : State} {p h : Nat} {i : Instr} {busy : Bool} {f : State → State}

/-- In NAP and OFF an access of a port changes nothing (R389). -/
theorem State.byPort_asleep (ha : s.asleep = true) : s.byPort p h i busy f = s := if_pos ha

/-- An access behind a held one of its port is held for the unit of that one (R321). -/
theorem State.byPort_behind (ha : s.asleep = false) {e : Nat × Nat × Instr} (he : s.held.find? (fun e => e.1 == p) = some e) :
    s.byPort p h i busy f = { s with held := s.held ++ [(p, e.2.1, i)] } := by
  simp [State.byPort, ha, he]

/-- An access to a busy unit is held. -/
theorem State.byPort_busy (ho : s.portOpen p = true) : s.byPort p h i true f = { s with held := s.held ++ [(p, h, i)] } := by
  obtain ⟨ha, hh⟩ := State.portOpen_iff.mp ho
  simp [State.byPort, ha, hh]

/-- The command `i` is an access of the port `p`. -/
def PortRow (p : Nat) (i : Instr) : Prop := ∀ s, ∃ h busy f, exec i s = .next (s.byPort p h i busy f)

theorem PortRow.asleep (hr : PortRow p i) (ha : s.asleep = true) : exec i s = .next s := by
  obtain ⟨h, busy, f, e⟩ := hr s
  rw [e, State.byPort_asleep ha]

theorem PortRow.behind (hr : PortRow p i) (ha : s.asleep = false) {e : Nat × Nat × Instr} (he : s.held.find? (fun e => e.1 == p) = some e) :
    exec i s = .next { s with held := s.held ++ [(p, e.2.1, i)] } := by
  obtain ⟨h, busy, f, hx⟩ := hr s
  rw [hx, State.byPort_behind ha he]

end Sys2Proof.Machine

namespace Sys2Proof.Proofs

open Sys2Proof.Machine

theorem portOrder : Claims.PortOrder := by
  intro s p h k c v page by_ arrays rows
  have isRow : ∀ r ∈ rows, PortRow p r.1 := by
    simp only [rows, arrays, by_, List.map_cons, List.map_nil, List.cons_append, List.nil_append, List.forall_mem_cons,
      List.not_mem_nil, false_imp_iff, implies_true, and_true]
    and_intros <;> exact fun _ => ⟨_, _, _, rfl⟩
  have isArray : ∀ i ∈ arrays, ∃ f, exec i s = .next (s.byPort p h i (s.inHall h && s.clearing) f) := by
    simp only [arrays, by_, List.forall_mem_cons]
    exact ⟨⟨_, rfl⟩, ⟨_, rfl⟩, ⟨_, rfl⟩, fun _ h => absurd h List.not_mem_nil⟩
  refine ⟨fun r hr ha => (isRow r hr).asleep ha, fun r hr e ha he => (isRow r hr).behind ha he, fun i hi ho hh hc => ?_⟩
  obtain ⟨f, hx⟩ := isArray i hi
  have hin : s.inHall h = true := by simpa [State.inHall] using hh
  rw [hx, hin, hc, Bool.and_self, State.byPort_busy ho]

end Sys2Proof.Proofs
end

section
/-! SUPPORT. Registers of 64 bits and of one byte: the latch of a port, and the byte of a trader (R23, R24). -/

namespace Sys2Proof.Machine

variable {s : State} {p addr : Nat} {data : List Byte} {r : Reg}

/-! ## Registers of 64 bits -/

/-- The host's registers of 64 bits that take effect by their access codes (R23). -/
def wideNames : List RegName := [.TILL_ALARM, .TAX_VCMD, .TAX_PRESET, .TR_HOSTPG, .PT_MAC]

theorem wideNames_word : ∀ n ∈ wideNames, n.qOff = none ∧ n.direct = false ∧ n.is64 = true := by decide

/-- The low word waits in the latch of the port. -/
theorem State.hostWrite_low (hl : data.length = 4) (ha : addr % 4 = 0) (hr : s.hostReg addr = some (r, false)) (hp : s.reached r = true)
    (h : r.name ∈ wideNames) : s.hostWrite p addr data = s.setPort p { s.port p with w := some (r, ofBytes data) } := by
  obtain ⟨hq, hd, h64⟩ := wideNames_word r.name h
  simp [State.hostWrite, State.wordWrite, hl, ha, hr, hp, hq, hd, h64]

/-- The high word writes both. -/
theorem State.hostWrite_high {x : Nat} (hl : data.length = 4) (ha : addr % 4 = 0) (hr : s.hostReg addr = some (r, true))
    (hp : s.reached r = true) (h : r.name ∈ wideNames) (hw : (s.port p).w = some (r, x)) :
    s.hostWrite p addr data = (s.setPort p { s.port p with w := none }).regWrite (.host p) r (ofBytes data <<< 32 + x) := by
  obtain ⟨hq, hd, h64⟩ := wideNames_word r.name h
  simp [State.hostWrite, State.wordWrite, hl, ha, hr, hp, hq, hd, hw]

/-- A write of a wide register but the alarm is one by its access codes. -/
theorem State.regWrite_wide (h : r.name ∈ wideNames) (ha : r.name ≠ .TILL_ALARM) (by_ : Accessor) (v : Nat) :
    s.regWrite by_ r v = s.fieldWrite r v := by
  obtain ⟨n, a, b, c, d⟩ := r
  simp only [wideNames, List.mem_cons, List.not_mem_nil, or_false] at h
  rcases h with rfl | rfl | rfl | rfl | rfl
  · exact absurd rfl ha
  all_goals rfl

/-- The alarm keeps the till of its write too. -/
theorem State.regWrite_alarm (h : r.name = .TILL_ALARM) (by_ : Accessor) (v : Nat) :
    s.regWrite by_ r v = { s.fieldWrite r v with till := { s.till with alarmAt := some s.tillNow } } := by
  obtain ⟨n, a, b, c, d⟩ := r
  cases h
  rfl

/-- A write of a wide register is one by its access codes, but for what an alarm keeps in the till. -/
theorem State.exists_regWrite_wide (h : r.name ∈ wideNames) (by_ : Accessor) (v : Nat) :
    ∃ t, s.regWrite by_ r v = { s.fieldWrite r v with till := t } := by
  by_cases ha : r.name = .TILL_ALARM
  · exact ⟨_, State.regWrite_alarm ha by_ v⟩
  · exact ⟨(s.fieldWrite r v).till, State.regWrite_wide h ha by_ v⟩

/-- The high word written at an open port whose latch has the low one. -/
theorem exec_registerWrite_high {x : Nat} (ho : s.portOpen p = true) (hh : s.heldAt addr = none) (hl : data.length = 4) (ha : addr % 4 = 0)
    (hr : s.hostReg addr = some (r, true)) (hp : s.reached r = true) (h : r.name ∈ wideNames) (hw : (s.port p).w = some (r, x))
    (hf : s.faults = []) :
    ∃ t, exec (.registerWrite (.host p) addr data) s =
      .next { (s.setPort p { s.port p with w := none }).fieldWrite r (ofBytes data <<< 32 + x) with till := t } := by
  obtain ⟨t, ht⟩ := State.exists_regWrite_wide (s := s.setPort p { s.port p with w := none }) h (.host p) (ofBytes data <<< 32 + x)
  have hfaults : ((s.setPort p { s.port p with w := none }).fieldWrite r (ofBytes data <<< 32 + x)).faults = s.faults :=
    (congrArg State.faults ((s.setPort p { s.port p with w := none }).fieldWrite_noRegs r (ofBytes data <<< 32 + x)) :
      (State.noRegs _).faults = (State.noRegs _).faults)
  rw [exec_registerWrite_host data ho hh, State.hostWrite_high hl ha hr hp h hw, ht]
  exact ⟨t, congrArg Host.Outcome.next (State.settle_of_noFaults (hfaults.trans hf))⟩

/-- A field that the host writes with both words. -/
theorem bits_words (x y hi lo : Nat) : bits (y <<< 32 + x) hi lo = (x + 2 ^ 32 * y) / 2 ^ lo % 2 ^ (hi + 1 - lo) := by
  rw [bits_eq_div, Nat.shiftLeft_eq, Nat.add_comm, Nat.mul_comm]

/-! ## Registers of one byte -/

/-- The selector registers of a trader. -/
def selFields : List Field := [AX_SEL.AXIS, TM_SEL.MARK, CT_SEL.COUNTER]

/-- Bytes above the lowest leave it. -/
theorem foldl_bytes_mod (g : Nat → Nat) (ks : List Nat) (h : ∀ k ∈ ks, 0 < k) (v : Nat) :
    ks.foldl (fun v k => v + g k <<< (8 * k)) v % 2 ^ 8 = v % 2 ^ 8 := by
  induction ks generalizing v with
  | nil => rfl
  | cons k ks ih =>
    have hd : 2 ^ 8 ∣ g k <<< (8 * k) := by
      have hk : 0 < k := h k List.mem_cons_self
      rw [Nat.shiftLeft_eq]
      exact Dvd.dvd.mul_left (Nat.pow_dvd_pow 2 (by omega)) _
    rw [List.foldl_cons, ih (fun k hk => h k (List.mem_cons_of_mem _ hk)), Nat.add_mod, Nat.mod_eq_zero_of_dvd hd, Nat.add_zero, Nat.mod_mod]

/-- The low byte of a register that gets byte 0. -/
theorem mergeBytes_mod (n : RegName) (present : Nat) (got : Tab Nat Byte) (b : Byte) : mergeBytes n present (Tab.set got 0 b) % 2 ^ 8 = b.toNat := by
  have hb : b.toNat < 2 ^ 8 := b.isLt
  have hr : List.range 8 = 0 :: [1, 2, 3, 4, 5, 6, 7] := rfl
  rw [mergeBytes, hr, List.foldl_cons, foldl_bytes_mod _ _ (by decide), Tab.find_set_self]
  simp only [Nat.mul_zero, Nat.shiftLeft_zero, Nat.zero_add]
  exact Nat.mod_eq_of_lt hb

/-- A trader finds a selector at its place, in one byte. -/
theorem State.ioReg_sel {f : Field} (hf : f ∈ selFields) (t : TraderId) : s.ioReg t f.reg.place.2 = some (t.ix.reg f.reg, 0) := by
  simp only [selFields, List.mem_cons, List.not_mem_nil, or_false] at hf
  rcases hf with rfl | rfl | rfl <;> rfl

/-- A selector is a plain register of one byte, stored by its access code. -/
theorem selFields_word : ∀ f ∈ selFields, f.acc = .RW ∧ f.lo = 0 ∧ f.hi < 8 ∧ f ∈ f.reg.fields ∧ f.reg.operation = false ∧ f.reg.direct = false ∧
    f.reg.bytes = 1 ∧ f.reg.ofStall = false ∧ f.reg ≠ .STL_SELF ∧ f.reg.ofLane = false ∧ f.reg ≠ .SC_STATUS := by decide

theorem State.regWrite_sel {f : Field} (hf : f ∈ selFields) (by_ : Accessor) (i : Ix) (v : Nat) :
    s.regWrite by_ (i.reg f.reg) v = s.fieldWrite (i.reg f.reg) v := by
  simp only [selFields, List.mem_cons, List.not_mem_nil, or_false] at hf
  rcases hf with rfl | rfl | rfl <;> rfl

/-- The bytes of a register that a trader has written and that have not taken effect. -/
def Trader.latched (a : Trader) (q : Reg) : Tab Nat Byte := match a.wlatch with
  | some (r, l) => if r = q then l else []
  | none => []

/-- A trader's write of a byte to a selector. -/
theorem State.ioWrite_sel {f : Field} (hf : f ∈ selFields) (t : TraderId) (hh : t.h < s.part.halls) (b : Byte) :
    s.ioWrite t f.reg.place.2 [b] = s.fieldWrite (t.ix.reg f.reg)
      (mergeBytes f.reg (s.view (.trader t) (t.ix.reg f.reg)) (Tab.set ((s.trader t).latched (t.ix.reg f.reg)) 0 b)) := by
  obtain ⟨-, -, -, -, hop, hd, hb, hst, hself, hlane, hsc⟩ := selFields_word f hf
  have hreach : s.reached (t.ix.reg f.reg) = true := by
    simp [State.reached, Reg.present, Ix.reg, TraderId.ix, hh, hst, hself, hlane, hsc]
  have hname : (t.ix.reg f.reg).name = f.reg := rfl
  show s.ioWrite1 t (f.reg.place.2 + 0) b = _
  rw [Nat.add_zero, State.ioWrite1, State.ioReg_sel hf]
  simp only [hreach, hname, hop, hd, hb, Bool.not_true, Bool.or_self, Bool.false_eq_true, if_false, if_true, State.regWrite_sel hf]
  rfl

theorem State.port_self (s : State) (p : Nat) (l : PortLatch) : (s.setPort p l).port p = l := Tab.get_set_self _ _ _ _

end Sys2Proof.Machine

namespace Sys2Proof.Proofs

open Sys2Proof.Machine

theorem wideAndNarrowRegisterWrites : Claims.WideAndNarrowRegisterWrites := by
  refine ⟨fun s p lo hi x y r ho hx hy hlo hhi hrlo hrhi hr hn hf hhl hhh => ?_, fun s t b f ha hf hsel hh => ?_⟩
  · have hlow := State.hostWrite_low (s := s) (p := p) hx hlo hrlo hr hn
    have hx1 := exec_registerWrite_host x ho hhl
    rw [hlow] at hx1
    obtain ⟨till, hx2⟩ := exec_registerWrite_high (s := s.setPort p { s.port p with w := some (r, ofBytes x) }) ho hhh hy hhi hrhi hr hn
      (x := ofBytes x) (by rw [State.port_self]) hf
    refine ⟨_, _, hx1.trans (congrArg Host.Outcome.next (State.settle_of_noFaults hf)), fun _ => rfl, hx2, fun f hfr hrw => ?_, fun q hq => ?_⟩
    · rw [← bits_words]
      exact (State.get_fieldWrite hfr _).trans (State.fieldAfter_RW hrw _ _)
    · exact State.rd_fieldWrite_ne (fun e => hq (List.mem_singleton.mpr e)) _
  · obtain ⟨hrw, hlo, hhi, hmem, -⟩ := selFields_word f hsel
    have hio := State.ioWrite_sel hsel t hh b
    have hv := mergeBytes_mod f.reg (s.view (.trader t) (t.ix.reg f.reg)) ((s.trader t).latched (t.ix.reg f.reg)) b
    generalize mergeBytes f.reg (s.view (.trader t) (t.ix.reg f.reg)) (Tab.set ((s.trader t).latched (t.ix.reg f.reg)) 0 b) = v at hio hv
    have hex : exec (.registerWrite (.trader t) f.reg.place.2 [b]) s = .next (s.fieldWrite (t.ix.reg f.reg) v).settle := by
      show execRegisterWrite (.trader t) f.reg.place.2 [b] s = _
      simp [execRegisterWrite, ha, hio]
    have hrest := s.fieldWrite_noRegs (t.ix.reg f.reg) v
    have hfaults : (s.fieldWrite (t.ix.reg f.reg) v).faults = [] :=
      (congrArg State.faults hrest : (State.noRegs _).faults = s.noRegs.faults).trans hf
    rw [State.settle_of_noFaults hfaults] at hex
    refine ⟨_, hex, ?_, fun q hq => State.rd_fieldWrite_ne (fun e => hq (List.mem_singleton.mpr e)) v, hrest⟩
    have hget := State.get_fieldWrite (s := s) (r := t.ix.reg f.reg) hmem v
    rw [State.fieldAfter_RW hrw, hlo, bits_eq_div] at hget
    refine hget.trans ?_
    rw [← hv, Nat.pow_zero, Nat.div_one, Nat.sub_zero, Nat.mod_mod_of_dvd _ (Nat.pow_dvd_pow 2 hhi)]

end Sys2Proof.Proofs
end

section
/-! SUPPORT. Reads that clear (R8, R9): the fields of a register set one after the other, each from its own value. -/

namespace Sys2Proof.Machine

variable {s : State} {p addr : Nat} {r : Reg}

/-- The RC fields `fs` of a register set, each to what `u` makes of its value. -/
def State.eachRC (s : State) (u : Field → Nat → Nat) (i : Ix) (fs : List Field) : State :=
  forAll fs (fun f t => if f.acc = .RC then t.put f i (u f (t.get f i)) else t) s

theorem State.eachRC_cons (u : Field → Nat → Nat) (i : Ix) (f : Field) (fs : List Field) :
    s.eachRC u i (f :: fs) = (if f.acc = .RC then s.put f i (u f (s.get f i)) else s).eachRC u i fs := rfl

/-- A field beside those set reads as before. -/
theorem State.get_eachRC_apart {n : RegName} {g : Field} (hg : g.Fits n) (u : Field → Nat → Nat) (i : Ix) (fs : List Field)
    (hfs : ∀ f ∈ fs, f.Fits n) (d : ∀ f ∈ fs, g.Apart f) : (s.eachRC u i fs).get g i = s.get g i := by
  induction fs generalizing s with
  | nil => rfl
  | cons f fs ih =>
    rw [List.forall_mem_cons] at hfs d
    rw [State.eachRC_cons, ih hfs.2 d.2]
    split
    · exact State.get_put_beside (.inr ⟨hfs.1.ordered, hg.top, d.1⟩) _ _ _
    · rfl

/-- Each RC field reads as it is set, truncated to the field. -/
theorem State.get_eachRC {n : RegName} (u : Field → Nat → Nat) (i : Ix) (fs : List Field) (hfs : ∀ f ∈ fs, f.Fits n)
    (d : fs.Pairwise Field.Apart) : ∀ g ∈ fs, g.acc = .RC → (s.eachRC u i fs).get g i = u g (s.get g i) % 2 ^ (g.hi + 1 - g.lo) := by
  induction fs generalizing s with
  | nil => simp
  | cons f fs ih =>
    rw [List.forall_mem_cons] at hfs
    rw [List.pairwise_cons] at d
    rw [List.forall_mem_cons]
    refine ⟨fun hrc => ?_, fun g hg hrc => ?_⟩
    · rw [State.eachRC_cons, State.get_eachRC_apart hfs.1 u i fs hfs.2 d.1, if_pos hrc, State.get_put_self _ _ _ _ hfs.1.ordered hfs.1.top]
    · have same : (if f.acc = .RC then s.put f i (u f (s.get f i)) else s).get g i = s.get g i := by
        split
        · exact State.get_put_beside (.inr ⟨hfs.1.ordered, (hfs.2 g hg).top, (d.1 g hg).symm⟩) _ _ _
        · rfl
      rw [State.eachRC_cons, ih hfs.2 d.2 g hg hrc, same]

theorem State.rd_eachRC_ne {n : RegName} (u : Field → Nat → Nat) (i : Ix) {q : Reg} (hq : q ≠ i.reg n) (fs : List Field)
    (hfs : ∀ f ∈ fs, f.Fits n) : (s.eachRC u i fs).rd q = s.rd q := by
  induction fs generalizing s with
  | nil => rfl
  | cons f fs ih =>
    rw [List.forall_mem_cons] at hfs
    rw [State.eachRC_cons, ih hfs.2]
    split
    · exact State.rd_put_ne (hfs.1.reg ▸ hq) _
    · rfl

theorem State.eachRC_noRegs (u : Field → Nat → Nat) (i : Ix) (fs : List Field) : (s.eachRC u i fs).noRegs = s.noRegs := by
  induction fs generalizing s with
  | nil => rfl
  | cons f fs ih =>
    rw [State.eachRC_cons, ih]
    split <;> rfl

/-! ## The registers that a read clears -/

/-- Every register that has RC fields. -/
def clearedNames : List RegName :=
  [.FT_CORR_DEV, .HP_ERRCNT, .HP_HMBUSY, .CR_LOST, .LN_FEC_CORR, .LN_FEC_UNCORR, .LN_RX_DROP, .PT_STAT, .HL_GRANT, .HL_CONFLICT, .CE_HMBUSY,
   .CH_DCOUNT, .FT_CORR_HM, .FT_CORR_BR, .FT_CORR_PT, .FT_CORR_CE, .FT_CORR]

theorem clearedNames_is64 : ∀ n ∈ clearedNames, n.is64 = false := by decide

/-- A read of an RC register: the value as it is held, and the RC fields cleared. -/
theorem State.readReg_cleared (h : r.name ∈ clearedNames) (q : Nat) :
    s.readReg (.host q) r = (s.rd r, (s.eachRC (fun _ _ => 0) ⟨r.a, r.b, r.c, r.d⟩ r.name.fields).corrRead r) := by
  obtain ⟨n, a, b, c, d⟩ := r
  simp only [clearedNames, List.mem_cons, List.not_mem_nil, or_false] at h
  rcases h with rfl | rfl | rfl | rfl | rfl | rfl | rfl | rfl | rfl | rfl | rfl | rfl | rfl | rfl | rfl | rfl | rfl <;> rfl

/-- The registers after a read of `r` in whose cycle `added` more are counted. -/
def State.readCleared (s : State) (r : Reg) (added : Nat) : State :=
  ((s.eachRC (fun _ _ => 0) ⟨r.a, r.b, r.c, r.d⟩ r.name.fields).corrRead r).eachRC (fun f x => satAdd (f.hi + 1 - f.lo) x added) ⟨r.a, r.b, r.c, r.d⟩
    r.name.fields

/-- A host's aligned read of 32 bits of an RC register. -/
theorem State.windowRead_cleared (hr : s.hostReg addr = some (r, false)) (hp : s.reached r = true) (ha : addr % 4 = 0)
    (h : r.name ∈ clearedNames) (hm : winMem addr = none) (added : Nat) (o : MemOutcome) :
    s.windowRead p addr 4 added o = { ({ s with readErr := false } : State).readCleared r added with
      readOut := BitVec.ofNat 32 (s.rd r % 2 ^ 32), readData := toBytes 4 (s.rd r % 2 ^ 32) } := by
  have hr' : ({ s with readErr := false } : State).hostReg addr = some (r, false) := hr
  have hp' : ({ s with readErr := false } : State).reached r = true := hp
  have hread : ({ s with readErr := false } : State).hostRead p addr =
      (s.rd r % 2 ^ 32, (({ s with readErr := false } : State).eachRC (fun _ _ => 0) ⟨r.a, r.b, r.c, r.d⟩ r.name.fields).corrRead r) := by
    simp only [State.hostRead, hr', hp', ha, State.readReg_cleared h, clearedNames_is64 _ h]
    rfl
  unfold State.windowRead
  simp only [hm, hread, hr', hp', ha]
  rfl

theorem State.corrRead_noRegs (s : State) (r : Reg) : { (s.corrRead r).noRegs with corrTold := s.corrTold } = s.noRegs := by
  unfold State.corrRead
  split <;> rfl

theorem State.corrRead_rd (s : State) (r q : Reg) : (s.corrRead r).rd q = s.rd q := by
  unfold State.corrRead
  split <;> rfl

/-- A unit whose counter is read has told nothing (R399). -/
theorem State.not_mem_corrRead {k : Nat} (hk : r.corrNum = some k) : (r.a, k) ∉ (s.corrRead r).corrTold := by
  simp [State.corrRead, hk]

theorem State.get_readCleared {f : Field} (hf : f ∈ r.name.fields) (hrc : f.acc = .RC) (added : Nat) :
    (s.readCleared r added).get f ⟨r.a, r.b, r.c, r.d⟩ = min added (2 ^ (f.hi + 1 - f.lo) - 1) := by
  have h0 : ((s.eachRC (fun _ _ => 0) ⟨r.a, r.b, r.c, r.d⟩ r.name.fields).corrRead r).get f ⟨r.a, r.b, r.c, r.d⟩ = 0 := by
    rw [State.get_of_rd (State.corrRead_rd _ _ _), State.get_eachRC _ _ _ r.name.fields_fit r.name.fields_apart f hf hrc, Nat.zero_mod]
  have hpos : 0 < 2 ^ (f.hi + 1 - f.lo) := Nat.two_pow_pos _
  rw [State.readCleared, State.get_eachRC _ _ _ r.name.fields_fit r.name.fields_apart f hf hrc, h0, satAdd, Nat.zero_add]
  exact Nat.mod_eq_of_lt (by omega)

theorem State.rd_readCleared_ne {q : Reg} (hq : q ≠ r) (added : Nat) : (s.readCleared r added).rd q = s.rd q := by
  have hq' : q ≠ (⟨r.a, r.b, r.c, r.d⟩ : Ix).reg r.name := hq
  rw [State.readCleared, State.rd_eachRC_ne _ _ hq' _ r.name.fields_fit, State.corrRead_rd, State.rd_eachRC_ne _ _ hq' _ r.name.fields_fit]

theorem State.eachRC_corrTold (s : State) (u : Field → Nat → Nat) (i : Ix) (fs : List Field) : (s.eachRC u i fs).corrTold = s.corrTold :=
  (congrArg State.corrTold (s.eachRC_noRegs u i fs) : (s.eachRC u i fs).noRegs.corrTold = s.noRegs.corrTold)

theorem State.readCleared_noRegs (s : State) (r : Reg) (added : Nat) : { (s.readCleared r added).noRegs with corrTold := s.corrTold } = s.noRegs := by
  have told := s.eachRC_corrTold (fun _ _ => 0) ⟨r.a, r.b, r.c, r.d⟩ r.name.fields
  rw [State.readCleared, State.eachRC_noRegs, ← told, State.corrRead_noRegs, State.eachRC_noRegs]

theorem State.not_mem_readCleared {k : Nat} (hk : r.corrNum = some k) (added : Nat) : (r.a, k) ∉ (s.readCleared r added).corrTold := by
  rw [State.readCleared, State.eachRC_corrTold]
  exact State.not_mem_corrRead hk

end Sys2Proof.Machine

namespace Sys2Proof.Proofs

open Sys2Proof.Machine

theorem readClearsCounters : Claims.ReadClearsCounters := by
  intro s p addr added o r ho ha hr hp hn hh hm
  have hx : ∀ n, exec (.readClear (.host p) addr n added o) s = .next (s.windowRead p addr n added o) := by
    intro n
    show execReadClear (.host p) addr n added o s = _
    simp [execReadClear, (State.portOpen_iff.mp ho).1, hh, State.byPort_open ho]
  refine ⟨fun n hn4 => ?_, _, hx 4, ?_⟩
  · rw [hx, State.windowRead, hm]
    exact congrArg Host.Outcome.next (if_pos hn4)
  · rw [State.windowRead_cleared hr hp ha hn hm]
    have hget := fun f hf hrc => State.get_readCleared (s := { s with readErr := false }) (r := r) (f := f) hf hrc added
    have hrd := fun q hq => State.rd_readCleared_ne (s := { s with readErr := false }) (r := r) (q := q) hq added
    have hrest := State.readCleared_noRegs { s with readErr := false } r added
    have htold := fun k hk => State.not_mem_readCleared (s := { s with readErr := false }) (r := r) (k := k) hk added
    generalize ({ s with readErr := false } : State).readCleared r added = u at hget hrd hrest htold ⊢
    refine ⟨rfl, ?_, ?_, hget, fun q hq => hrd q (fun e => hq (List.mem_singleton.mpr e)), ?_, htold⟩
    · exact BitVec.eq_of_toNat_eq (by simp)
    · exact (congrArg State.readErr hrest : u.readErr = false)
    · exact congrArg (fun t : State => { t with readOut := s.readOut, readData := s.readData, readErr := s.readErr }) hrest

/-- Settles O30: the latch of the port has the low word when the high one comes; a field that a read clears counts from 0; and every access of
a port is `State.byPort`. -/
theorem otherRegisterAccesses : Obligations.OtherRegisterAccesses := ⟨wideAndNarrowRegisterWrites, readClearsCounters, portOrder⟩

end Sys2Proof.Proofs
end

section
/-! SUPPORT. Accesses of a trader in their only slot (R67, R86, R113): what taking the word of an instruction leaves as it was, and that an
attempt whose access nothing holds runs `State.memBody`. -/

namespace Sys2Proof.Machine

variable {s : State} {t : TraderId} {w : Nat}

/-! ## Words taken, and slots that begin -/

theorem State.usedLine_trader (u : TraderId) : (s.usedLine t).trader u = s.trader u := by
  unfold State.usedLine
  dsimp only
  split
  · rfl
  · split <;> rfl

theorem State.took_trader_self (w : Nat) : (s.took t w).trader t = (s.trader t).took w (s.is STL_CTRL.LBUF_EN t.st) := by
  have upd : ((s.usedLine t).upd t (fun tr => tr.took w (s.is STL_CTRL.LBUF_EN t.st))).trader t =
      (s.trader t).took w (s.is STL_CTRL.LBUF_EN t.st) := by
    rw [State.upd, State.trader_self, State.usedLine_trader]
  unfold State.took
  dsimp only
  split
  · exact upd
  · exact upd

/-- Taking a word changes of its trader only what concerns the fetch. -/
theorem Trader.took_eq (tr : Trader) (w : Nat) (on : Bool) :
    ∃ b, tr.took w on = { tr with fetched := none, badFill := false, missing := false, lbuf := b } := by
  unfold Trader.took
  dsimp only
  split
  · exact ⟨_, rfl⟩
  · exact ⟨tr.lbuf, rfl⟩

/-- Taking a word changes nothing in a trader that an access reads. -/
theorem Trader.memForm_took (tr : Trader) (v : Nat) (on : Bool) (w : Nat) : (tr.took v on).memForm w = tr.memForm w := by
  obtain ⟨b, e⟩ := tr.took_eq v on
  rw [e]
  rfl

theorem State.Issues.final_eq (h : s.Issues t w) : s.final t w = (s.inSlot t).took t w := by
  simp [State.final, h.fresh]

/-- The access of an instruction that issues is the same before its word is taken and after. -/
theorem State.Issues.memForm_final (h : s.Issues t w) : ((s.final t w).trader t).memForm w = ((s.inSlot t).trader t).memForm w := by
  rw [h.final_eq, State.took_trader_self, Trader.memForm_took]

/-! ## Attempts of access instructions -/

/-- A trader that may issue waits for no answer. -/
theorem State.waitsIn_of_canIssue (h : s.canIssue t = true) (k : Nat) : s.waitsIn t k = false := by
  simp only [State.canIssue, State.awaitsAnswer, Bool.and_eq_true, Bool.not_eq_true', Bool.or_eq_false_iff] at h
  obtain ⟨-, ha, hp⟩ := h
  simp only [State.waitsIn, hp, Bool.and_false, Bool.or_false]
  rcases ho : (s.trader t).atom with _ | r
  · rfl
  · rw [ho] at ha
    simp only [Option.any_some] at ha ⊢
    rw [ha, Bool.false_and]

/-- An access instruction that issues in one slot, with nothing that holds it, has its effect there. -/
theorem State.memIssue_eq {k : Nat} (h : s.Issues t w) (hk : keyOf w = k) (uses : Nat → List GReg)
    (hh : State.memHold t w (s.inSlot t) = none) (hc : memCost w ((s.inSlot t).trader t) ≤ 1) :
    s.memIssue t k uses = .next (State.memBody t w (s.final t w)).settle := by
  rw [State.memIssue, State.waitsIn_of_canIssue h.can, Bool.and_false, if_neg Bool.false_ne_true, State.issue_eq h hk _ _ _ _ _ hh hc]

/-! ## Address faults -/

/-- The detail of the fault of an access that R67 does not allow. -/
theorem addrFault_eq {ea n : Nat} (hx : 65536 < ea + n ∨ regionOf ea ≠ regionOf (ea + n - 1)) :
    addrFault ea n = if 65536 < ea + n then 2 else 1 := by
  unfold addrFault
  by_cases h : 65536 < ea + n
  · simp [h]
  · simp [h, hx.resolve_left h]

/-- An access that R67 does not allow takes ADDR_FAULT in its first slot, and has no other effect. -/
theorem State.memIssue_addrFault {k : Nat} (h : s.Issues t w) (hf : (s.final t w).faults = []) (hk : keyOf w = k) (uses : Nat → List GReg)
    {m : MemForm} (hm : ((s.final t w).trader t).memForm w = m) (hx : 65536 < m.ea + m.n ∨ regionOf m.ea ≠ regionOf (m.ea + m.n - 1)) :
    s.memIssue t k uses = .next ((s.final t w).setTrader t { (s.final t w).trader t with
      trap := some ⟨13, if 65536 < m.ea + m.n then 2 else 1, m.ea, w, ((s.final t w).trader t).pc⟩ }) := by
  have hm' : ((s.inSlot t).trader t).memForm w = m := h.memForm_final.symm.trans hm
  have hd := addrFault_eq hx
  have h0 : addrFault m.ea m.n ≠ 0 := by rw [hd]; split <;> decide
  have hold : State.memHold t w (s.inSlot t) = none := by simp [State.memHold, hm', h0]
  have cost : memCost w ((s.inSlot t).trader t) ≤ 1 := by simp [memCost, hm', h.guard, h0]
  rw [State.memIssue_eq h hk uses hold cost]
  have body : State.memBody t w (s.final t w) = (s.final t w).raiseTrap t 13 (addrFault m.ea m.n) m.ea w ((s.final t w).trader t).pc := by
    simp [State.memBody, hm, h0]
  rw [body, hd]
  exact congrArg Host.Outcome.next (State.settle_of_noFaults hf)

end Sys2Proof.Machine

namespace Sys2Proof.Proofs

open Sys2Proof.Machine

/-- Settles O20: the fault is found in the first slot, before any part of the access is made. -/
theorem addressFaults : Obligations.AddressFaults := by
  intro s t w h hf f tr m d faults hx
  have fault {k : Nat} (hk : keyOf w = k) (uses : Nat → List GReg) : faults (s.memIssue t k uses) :=
    State.memIssue_addrFault h hf hk uses rfl hx
  exact ⟨fun hk => fault hk _, fun hk => fault hk _, fun hk => fault hk _, fun hk => fault hk _, fun hk => fault hk _,
    fun hk => fault hk _, fun hk => fault hk _, fun hk => fault hk _⟩

end Sys2Proof.Proofs
end

section
/-! SUPPORT. Accesses of the window to hall memory (R66, R86, R87): what an owned slot leaves of the registers, the key of a word and its major
opcode, and the single access of a load or a store in the window. -/

namespace Sys2Proof.Machine

variable {s : State} {t : TraderId} {w : Nat}

/-! ## Registers in an owned slot -/

theorem State.finishes_rd (q : Reg) : (s.finishes t).rd q = s.rd q := by
  have atom (s : State) : (s.finishAtom t).rd q = s.rd q := by
    unfold State.finishAtom
    split
    · split <;> rfl
    · rfl
  have pop (s : State) : (s.finishPop t).rd q = s.rd q := by
    unfold State.finishPop
    split <;> rfl
  have drain (s : State) : (s.finishDrain t).rd q = s.rd q := by
    unfold State.finishDrain
    split <;> rfl
  rw [State.finishes, drain, pop, atom]

theorem State.foldl_scClean_rd (es : List ScPend) (q : Reg) : (es.foldl (fun (s : State) e => s.scClean t e.dst) s).rd q = s.rd q := by
  induction es generalizing s with
  | nil => rfl
  | cons e es ih =>
    rw [List.foldl_cons, ih]
    unfold State.scClean
    split <;> rfl

/-- What lands in an owned slot changes no register but SC_STATUS. -/
theorem State.land_rd {q : Reg} (hq : q ≠ t.ix.reg .SC_STATUS) : (s.land t).rd q = s.rd q := by
  unfold State.land
  dsimp only
  split
  · rfl
  · exact (State.rd_wr_ne _ _ hq).trans (State.foldl_scClean_rd _ q)

theorem State.ownSlot_rd {q : Reg} (hq : q ≠ t.ix.reg .SC_STATUS) (lvl : Nat) : (s.ownSlot t lvl).rd q = s.rd q := by
  have count (s : State) : (s.countSlot t lvl).rd q = s.rd q := by
    unfold State.countSlot
    split <;> rfl
  rw [State.ownSlot, count, State.land_rd hq]
  rfl

theorem State.inSlot_rd {q : Reg} (hq : q ≠ t.ix.reg .SC_STATUS) : (s.inSlot t).rd q = s.rd q := by
  rw [State.inSlot, State.ownSlot_rd hq, State.finishes_rd]

theorem State.inSlot_clearing : (s.inSlot t).clearing = s.clearing := by
  have rd := State.inSlot_rd (s := s) (t := t) (q := ({} : Ix).reg .PWR_STATUS)
    (Ix.reg_ne (by decide) _ _)
  simp only [State.clearing, State.is, State.get]
  rw [show PWR_STATUS.MEM_CLEAR.reg = .PWR_STATUS from rfl, rd]

/-- Taking a word changes of the trader's state only its fetch. -/
theorem State.Issues.trader_final (h : s.Issues t w) : ∃ b, (s.final t w).trader t =
    { (s.inSlot t).trader t with fetched := none, badFill := false, missing := false, lbuf := b } := by
  obtain ⟨b, e⟩ := ((s.inSlot t).trader t).took_eq w ((s.inSlot t).is STL_CTRL.LBUF_EN t.st)
  exact ⟨b, by rw [h.final_eq, State.took_trader_self, e]⟩

/-! ## Keys -/

/-- The key of a word names its major opcode. -/
theorem keyOf_div (w : Nat) : keyOf w / 32 = min (fMajor w) 0x39 := by
  have h1 : fMinor w < 32 := bits_lt _ _ _
  have h2 : bits w 10 8 < 8 := bits_lt _ _ _
  have h3 : fDst w < 8 := bits_lt _ _ _
  have h4 : fS1 w < 8 := bits_lt _ _ _
  have h5 : bits w 15 12 < 16 := bits_lt _ _ _
  have h6 : fOp w < 32 := bits_lt _ _ _
  unfold keyOf key
  dsimp only
  split_ifs <;> omega

theorem fMajor_of_keyOf {w mj : Nat} (hk : keyOf w = key mj) (h : mj < 0x39) : fMajor w = mj := by
  have e := keyOf_div w
  rw [hk, key] at e
  omega

/-! ## Loads and stores under way beside the end of an access instruction -/

/-- The trader with other outstanding loads and buffered stores. -/
def Trader.withBufs (tr : Trader) (ls : List Load) (ms : List MemAcc) : Trader := { tr with loads := ls, stores := ms }

theorem Trader.withBufs_holdBody (tr : Trader) (ls : List Load) (ms : List MemAcc) :
    (tr.withBufs ls ms).holdBody = tr.holdBody.withBufs ls ms := by
  have inner : (tr.withBufs ls ms).innerFit = tr.innerFit := rfl
  have body (n : Nat) (b : LoopBuf) : (b.ls = (tr.withBufs ls ms).lsr n ∧ b.le = (tr.withBufs ls ms).ler n) =
      (b.ls = tr.lsr n ∧ b.le = tr.ler n) := rfl
  unfold Trader.holdBody
  rw [inner]
  cases tr.innerFit with
  | none => rfl
  | some n =>
    rcases hb : tr.lbuf with _ | b
    · simp only [show (tr.withBufs ls ms).lbuf = none from hb]
      rfl
    · simp only [show (tr.withBufs ls ms).lbuf = some b from hb, body]
      split <;> rfl

theorem Trader.withBufs_levelEnds (tr : Trader) (n : Nat) (ls : List Load) (ms : List MemAcc) :
    (tr.withBufs ls ms).levelEnds n = (tr.levelEnds n).withBufs ls ms := by
  have body (b : LoopBuf) : (b.ls = (tr.withBufs ls ms).lsr n ∧ b.le = (tr.withBufs ls ms).ler n) =
      (b.ls = tr.lsr n ∧ b.le = tr.ler n) := rfl
  unfold Trader.levelEnds
  rcases hb : tr.lbuf with _ | b
  · simp only [show (tr.withBufs ls ms).lbuf = none from hb]
  · simp only [show (tr.withBufs ls ms).lbuf = some b from hb, body]
    split
    · exact Trader.withBufs_holdBody { tr with lbuf := none } ls ms
    · rfl

theorem Trader.withBufs_endLevel (tr : Trader) (x n next : Nat) (done : Bool) (ls : List Load) (ms : List MemAcc) :
    (tr.withBufs ls ms).endLevel x n next done = ((tr.endLevel x n next done).1.withBufs ls ms, (tr.endLevel x n next done).2) := by
  have set (v : Nat) : (tr.withBufs ls ms).setLc n v = (tr.setLc n v).withBufs ls ms := rfl
  have lcr : (tr.withBufs ls ms).lcr n = tr.lcr n := rfl
  have ler : (tr.withBufs ls ms).ler n = tr.ler n := rfl
  have lsr : (tr.withBufs ls ms).lsr n = tr.lsr n := rfl
  unfold Trader.endLevel
  rw [set, set, lcr, ler, lsr, Trader.withBufs_levelEnds]
  split
  · rfl
  · split <;> rfl

theorem Trader.withBufs_endCheck (tr : Trader) (x : Nat) (ls : List Load) (ms : List MemAcc) :
    (tr.withBufs ls ms).endCheck x = (tr.endCheck x).withBufs ls ms := by
  simp only [Trader.endCheck, Trader.withBufs_endLevel]
  rfl

/-- What a memory instruction does to its trader beside its access does not look at the loads and stores under way. -/
theorem Trader.withBufs_afterMem (tr : Trader) (w : Nat) (ls : List Load) (ms : List MemAcc) :
    (tr.withBufs ls ms).afterMem w = (tr.afterMem w).withBufs ls ms := by
  unfold Trader.afterMem
  split
  · rfl
  · rfl
  · rfl
  · rfl
  · dsimp only
    rw [← Trader.withBufs_endCheck]
    split <;> rfl

/-- Nor does it change them. -/
theorem Trader.afterMem_bufs (tr : Trader) (w : Nat) : (tr.afterMem w).loads = tr.loads ∧ (tr.afterMem w).stores = tr.stores := by
  have e := tr.withBufs_afterMem w tr.loads tr.stores
  exact ⟨(congrArg Trader.loads e :), (congrArg Trader.stores e :)⟩

/-! ## Single accesses of the window -/

theorem State.upd_upd (s : State) (t : TraderId) (f g : Trader → Trader) : (s.upd t f).upd t g = s.upd t (fun tr => g (f tr)) := by
  simp [State.upd, State.setTrader, State.trader, Tab.set_set]

theorem State.upd_setTrader (s : State) (t : TraderId) (a : Trader) (f : Trader → Trader) : s.setTrader t (f a) = (s.setTrader t a).upd t f := by
  simp [State.upd, State.setTrader, State.trader, Tab.set_set]

/-- The access is one of the window 0x8000 to 0xBFFF, of one byte or of two that are aligned. -/
structure MemForm.InWindow (m : MemForm) : Prop where
  low : 0x8000 ≤ m.ea
  high : m.ea + m.n ≤ 0xC000
  single : m.n = 1 ∨ (m.n = 2 ∧ m.ea % 2 = 0)

theorem MemForm.InWindow.region {m : MemForm} (h : m.InWindow) : regionOf m.ea = .window := by
  have := h.low; have := h.high; have := h.single
  unfold regionOf
  rw [if_neg (by omega), if_pos (by omega)]

theorem MemForm.InWindow.noFault {m : MemForm} (h : m.InWindow) : addrFault m.ea m.n = 0 := by
  have := h.low; have := h.high; have := h.single
  have last : regionOf (m.ea + m.n - 1) = .window := by
    unfold regionOf
    rw [if_neg (by omega), if_pos (by omega)]
  unfold addrFault
  rw [if_neg (by omega), h.region, last, if_neg (by simp)]

theorem MemForm.InWindow.accesses_eq {m : MemForm} (h : m.InWindow) : accesses m.ea m.n = [(m.ea, m.n)] := by
  rcases h.single with e | ⟨e, he⟩
  · simp [accesses, e]
  · simp [accesses, e, he]

/-- An access of the window that issues with HOST = 0 while memory is not being cleared: nothing but `hold`'s own waits holds it. -/
structure State.WindowAccess (s : State) (t : TraderId) (w : Nat) (m : MemForm) : Prop where
  issues : s.Issues t w
  form : ((s.final t w).trader t).memForm w = m
  inside : m.InWindow
  near : ((s.final t w).trader t).host = false
  cleared : s.clearing = false
  quiet : (s.final t w).faults = []

section

variable {m : MemForm}

theorem State.WindowAccess.form_inSlot (h : s.WindowAccess t w m) : ((s.inSlot t).trader t).memForm w = m :=
  h.issues.memForm_final.symm.trans h.form

/-- A window access that issues runs its effect, where its store has room and its load meets no buffered store. -/
theorem State.WindowAccess.memIssue_eq {k : Nat} (h : s.WindowAccess t w m) (hk : keyOf w = k) (uses : Nat → List GReg)
    (hst : if m.store.isSome then ((s.final t w).trader t).stores.length < 4 else ((s.final t w).trader t).stores = []) :
    s.memIssue t k uses = .next (State.memBody t w (s.final t w)).settle := by
  obtain ⟨b, e⟩ := h.issues.trader_final
  have stores : ((s.inSlot t).trader t).stores = ((s.final t w).trader t).stores := by rw [e]
  have host : ((s.inSlot t).trader t).host = false := by rw [← h.near, e]
  rw [← stores] at hst
  have hold : State.memHold t w (s.inSlot t) = none := by
    unfold State.memHold
    dsimp only
    rw [h.form_inSlot, if_neg (not_not.mpr h.inside.noFault), h.inside.region, h.inside.accesses_eq, State.inSlot_clearing, h.cleared]
    rcases hm : m.store with _ | v
    · replace hst : ((s.inSlot t).trader t).stores = [] := by simpa [hm] using hst
      have free (x : MemAcc) : ((s.inSlot t).trader t).blocked x = false := by simp [Trader.blocked, Trader.youngest, hst]
      simp [Trader.partLoad, h.issues.loads, free]
    · rw [hm] at hst
      have : ¬ 4 < ((s.inSlot t).trader t).stores.length + 1 := by simp at hst; omega
      simp [this]
  have cost : memCost w ((s.inSlot t).trader t) ≤ 1 := by
    simp [memCost, h.form_inSlot, h.inside.noFault, h.inside.accesses_eq]
  exact State.memIssue_eq h.issues hk uses hold cost

/-- The access of hall memory that an access of the window is. -/
def Trader.hallAcc (tr : Trader) (m : MemForm) : MemAcc := ⟨m.ea, false, tr.hbk * 0x4000 + (m.ea - 0x8000), m.n, [], none⟩

theorem State.farAcc_hall {u : State} (hh : (u.trader t).host = false) (data : List Byte) :
    u.farAcc t m.ea m.n data = { (u.trader t).hallAcc m with data := data } := by
  simp [State.farAcc, hh, Trader.hallAcc]

/-- A store of the window enters the store buffer, and the program goes on (R87). -/
theorem State.WindowAccess.store_eq {k v : Nat} (h : s.WindowAccess t w m) (hk : keyOf w = k) (uses : Nat → List GReg) (hv : m.store = some v)
    (hst : ((s.final t w).trader t).stores.length < 4) :
    let tr := (s.final t w).trader t
    s.memIssue t k uses = .next ((s.final t w).setTrader t
      { tr.afterMem w with stores := tr.stores ++ [{ tr.hallAcc m with data := toBytes m.n v }] }) := by
  intro tr
  have body : State.memBody t w (s.final t w) = (s.final t w).setTrader t
      { tr.afterMem w with stores := tr.stores ++ [{ tr.hallAcc m with data := toBytes m.n v }] } := by
    have after := tr.withBufs_afterMem w tr.loads (tr.stores ++ [{ tr.hallAcc m with data := toBytes m.n v }])
    unfold State.memBody
    dsimp only
    rw [h.form, if_neg (not_not.mpr h.inside.noFault), hv]
    dsimp only
    unfold State.storeMem
    rw [h.inside.region]
    dsimp only
    rw [State.farStore, h.inside.accesses_eq, State.upd_upd]
    simp only [List.map_cons, List.map_nil, Nat.sub_self, State.farAcc_hall h.near, bytesFrom, Nat.mul_zero, Nat.shiftRight_zero]
    refine congrArg _ (after.trans ?_)
    rw [Trader.withBufs, ← (tr.afterMem_bufs w).1]
  rw [h.memIssue_eq hk uses (by simpa [hv] using hst), body]
  exact congrArg Host.Outcome.next (State.settle_of_noFaults h.quiet)

/-- A grant changes at most HL_GRANT of its master. -/
theorem State.exists_granted (s : State) (h m a n : Nat) : ∃ v, s.granted h m a n = s.wr ((ix h m).reg .HL_GRANT) v ∨ s.granted h m a n = s := by
  unfold State.granted
  split
  · exact ⟨0, .inr rfl⟩
  · exact ⟨_, .inl rfl⟩

theorem State.granted_trader (s : State) (h m a n : Nat) (u : TraderId) : (s.granted h m a n).trader u = s.trader u := by
  obtain ⟨v, e | e⟩ := s.exists_granted h m a n <;> rw [e]
  rfl

theorem State.granted_mem (s : State) (h m a n : Nat) : (s.granted h m a n).mem = s.mem := by
  obtain ⟨v, e | e⟩ := s.exists_granted h m a n <;> rw [e]
  rfl

theorem State.granted_ecc (s : State) (h m a n : Nat) : (s.granted h m a n).ecc = s.ecc := by
  obtain ⟨v, e | e⟩ := s.exists_granted h m a n <;> rw [e]
  rfl

theorem State.granted_faults (s : State) (h m a n : Nat) : (s.granted h m a n).faults = s.faults := by
  obtain ⟨v, e | e⟩ := s.exists_granted h m a n <;> rw [e]
  rfl

theorem State.granted_errorIn (s : State) (h m a n : Nat) (x : Arr) (o l : Nat) : (s.granted h m a n).errorIn x o l = s.errorIn x o l := by
  simp only [State.errorIn, State.granted_ecc]

theorem State.granted_bytesAt (s : State) (h m a n : Nat) (x : Arr) (o l : Nat) : (s.granted h m a n).bytesAt x o l = s.bytesAt x o l := by
  simp only [State.bytesAt, State.granted_mem]

/-- With no buffered store, an access of hall memory that meets no error reads it at once. -/
theorem State.loadAcc_hall {u : State} {x : MemAcc} (hst : (u.trader t).stores = []) (hx : x.host = false)
    (he : u.errorIn (.hallMem t.h) x.addr x.len = none) :
    u.loadAcc t x = ({ acc := x, got := u.bytesAt (.hallMem t.h) x.addr x.len }, u.granted t.h t.s x.addr x.len) := by
  simp [State.loadAcc, Trader.youngest, hst, hx, State.granted_errorIn, State.granted_bytesAt, he]

/-- The load that a trader without loads and stores under way has outstanding after a single access of hall memory. -/
def State.hallLoad (u : State) (t : TraderId) (m : MemForm) : Load :=
  let x := (u.trader t).hallAcc m
  ⟨m.dst, [⟨x, u.bytesAt (.hallMem t.h) x.addr m.n, 0, false⟩], (u.trader t).slot + 2, false⟩

theorem State.farLoad_hall {u : State} (hl : (u.trader t).loads = []) (hst : (u.trader t).stores = []) (hh : (u.trader t).host = false)
    (he : u.errorIn (.hallMem t.h) ((u.trader t).hallAcc m).addr m.n = none) :
    u.farLoad t m (m.ea, m.n) true = (u.granted t.h t.s ((u.trader t).hallAcc m).addr m.n).setTrader t
      { u.trader t with loads := [u.hallLoad t m] } := by
  have far : u.farAcc t m.ea m.n = (u.trader t).hallAcc m := State.farAcc_hall hh []
  have acc := State.loadAcc_hall (x := (u.trader t).hallAcc m) hst rfl he
  simp only [State.farLoad, far, acc, State.upd, State.granted_trader, hl, Trader.partLoad]
  rfl

/-- A load of the window reads hall memory, and is outstanding until its value can be used (R81, R86). -/
theorem State.WindowAccess.load_eq {k : Nat} (h : s.WindowAccess t w m) (hk : keyOf w = k) (uses : Nat → List GReg) (hv : m.store = none)
    (hst : ((s.final t w).trader t).stores = [])
    (he : (s.final t w).errorIn (.hallMem t.h) (((s.final t w).trader t).hallAcc m).addr m.n = none) :
    let f := s.final t w
    let tr := f.trader t
    s.memIssue t k uses = .next ((f.granted t.h t.s (tr.hallAcc m).addr m.n).setTrader t
      { tr.afterMem w with loads := tr.loads ++ [f.hallLoad t m] }) := by
  intro f tr
  have loads : tr.loads = [] := by
    obtain ⟨b, e⟩ := h.issues.trader_final
    have : tr.loads = ((s.inSlot t).trader t).loads := by rw [show tr = _ from e]
    rw [this, h.issues.loads]
  have body : State.memBody t w f = (f.granted t.h t.s (tr.hallAcc m).addr m.n).setTrader t
      { tr.afterMem w with loads := tr.loads ++ [f.hallLoad t m] } := by
    have after := tr.withBufs_afterMem w [f.hallLoad t m] tr.stores
    unfold State.memBody
    dsimp only
    rw [h.form, if_neg (not_not.mpr h.inside.noFault), hv]
    dsimp only
    unfold State.load
    rw [h.inside.region]
    dsimp only
    rw [h.inside.accesses_eq, show [(m.ea, m.n)].getLastD (m.ea, m.n) = (m.ea, m.n) from rfl, State.farLoad_hall loads hst h.near he,
      ← State.upd_setTrader]
    refine congrArg _ (after.trans ?_)
    rw [Trader.withBufs, ← (tr.afterMem_bufs w).2, loads]
    rfl
  rw [h.memIssue_eq hk uses (by simpa [hv] using hst), body]
  refine congrArg Host.Outcome.next (State.settle_of_noFaults ?_)
  exact (State.granted_faults _ _ _ _ _).trans h.quiet

end

end Sys2Proof.Machine

namespace Sys2Proof.Proofs

open Sys2Proof.Machine

theorem farLoadsAndStores : Claims.FarLoadsAndStores := by
  intro s t w h f tr m far hlo hhi hone hhost hclr hq store load
  have acc : s.WindowAccess t w m := ⟨h, rfl, ⟨hlo, hhi, hone⟩, hhost, hclr, hq⟩
  have stores {k v : Nat} (hk : keyOf w = k) (hv : m.store = some v) (uses : Nat → List GReg) (hr : tr.stores.length < 4) :
      s.memIssue t k uses = store v := acc.store_eq hk uses hv hr
  have loads {k : Nat} {dst : GReg} (hk : keyOf w = k) (hv : m.store = none) (hd : m.dst = dst) (uses : Nat → List GReg)
      (hst : tr.stores = []) (he : f.errorIn (.hallMem t.h) far.addr m.n = none) : load (s.memIssue t k uses) dst := by
    refine ⟨_, acc.load_eq hk uses hv hst he, ?_, State.granted_mem _ _ _ _ _, fun u hu => ?_⟩
    · rw [State.trader_self, ← hd]
      rfl
    · rw [State.trader_ne _ _ _ _ hu, State.granted_trader]
  refine ⟨fun hr => ⟨fun hk => stores hk ?_ _ hr, fun hk => stores hk ?_ _ hr⟩,
    fun hst he => ⟨fun hk => loads hk ?_ ?_ _ hst he, fun hk => loads hk ?_ ?_ _ hst he, fun hk => loads hk ?_ ?_ _ hst he⟩⟩ <;>
    simp [m, Trader.memForm, fMajor_of_keyOf hk (by decide)]

theorem atomicAnswerArrives : Claims.AtomicAnswerArrives := by
  intro s t r hr hd
  show Host.Outcome.next _ = _
  rw [State.upd, hr, Option.map_some, hd]

/-- Settles O22: a single access of the window is made in the slot of its instruction, and an answer arrives once it is there. -/
theorem hallAccesses : Obligations.HallAccesses := ⟨farLoadsAndStores, atomicAnswerArrives⟩

end Sys2Proof.Proofs
end

section
/-! SUPPORT. Responses of hall memory (R86, R88, R169, R266, R268): what BUS_ERR leaves, which access of a load a response answers, and how a load
with its last response lands. -/

namespace Sys2Proof.Machine

variable {s : State} {t : TraderId}

/-! ## BUS_ERR (R169) -/

/-- Before its occurrence a BUS_ERR changes at most the record of its trader: that one belongs to the error that sets the pending bit. -/
theorem State.busError_eq (s : State) (t : TraderId) (detail taddr : Nat) :
    ∃ x, s.busError t detail taddr = (s.upd t (fun tr => { tr with busErr := x })).occur t 9 ∧
      (bit (s.get EV_PEND.PEND t.ix) 9 = false → x = (detail, taddr)) ∨ s.busError t detail taddr = s.occur t 9 ∧ bit (s.get EV_PEND.PEND t.ix) 9 = true := by
  unfold State.busError
  dsimp only
  split
  case isTrue h => exact ⟨(0, 0), .inr ⟨rfl, h⟩⟩
  case isFalse h => exact ⟨(detail, taddr), .inl ⟨rfl, fun _ => rfl⟩⟩

theorem State.busError_trader_self (s : State) (t : TraderId) (detail taddr : Nat) :
    ∃ x, (s.busError t detail taddr).trader t = { s.trader t with busErr := x } ∧
      (bit (s.get EV_PEND.PEND t.ix) 9 = false → x = (detail, taddr)) := by
  obtain ⟨x, ⟨e, hx⟩ | ⟨e, hp⟩⟩ := s.busError_eq t detail taddr
  · refine ⟨x, ?_, hx⟩
    rw [e, State.trader, (State.occur_onlyRaises _ t 9).traders]
    exact State.trader_self _ _ _
  · refine ⟨(s.trader t).busErr, ?_, fun h => absurd (h.symm.trans hp) Bool.false_ne_true⟩
    rw [e, State.trader, (State.occur_onlyRaises _ t 9).traders]
    rfl

theorem State.busError_pends (s : State) (t : TraderId) (detail taddr : Nat) :
    bit ((s.busError t detail taddr).get EV_PEND.PEND t.ix) 9 = true := State.pend_occur_self t (by decide)

theorem State.busError_get (detail taddr : Nat) {f : Field} (h1 : f.reg ≠ .EV_PEND) (h2 : f.reg ≠ .EV_OVR) (i : Ix) :
    (s.busError t detail taddr).get f i = s.get f i := by
  obtain ⟨x, ⟨e, -⟩ | ⟨e, -⟩⟩ := s.busError_eq t detail taddr <;> rw [e, (State.occur_onlyRaises _ t 9).get h1 h2]
  rfl

theorem State.busError_mem (detail taddr : Nat) : (s.busError t detail taddr).mem = s.mem := by
  obtain ⟨x, ⟨e, -⟩ | ⟨e, -⟩⟩ := s.busError_eq t detail taddr <;> rw [e]
  · exact (congrArg State.mem (State.occur_onlyRaises _ t 9).noRegs :)
  · exact (congrArg State.mem (State.occur_onlyRaises s t 9).noRegs :)

/-! ## The access that a response answers -/

/-- An access of hall memory without its response, behind others that have theirs. -/
theorem State.find_canArrive {xs ys : List LoadAcc} {a : LoadAcc} (hx : ∀ x ∈ xs, x.fin = true) (ha : s.canArrive a = true) :
    (xs ++ a :: ys).find? s.canArrive = some a := by
  have none : xs.find? s.canArrive = none := List.find?_eq_none.mpr fun x h => by simp [State.canArrive, hx x h]
  rw [List.find?_append, none, List.find?_cons_of_pos ha]
  rfl

theorem mapFirst_append {α : Type} {p : α → Bool} (f : α → α) {xs ys : List α} {a : α} (hx : ∀ x ∈ xs, p x = false) (ha : p a = true) :
    mapFirst p f (xs ++ a :: ys) = xs ++ f a :: ys := by
  induction xs with
  | nil => simp [mapFirst, ha]
  | cons x xs ih =>
    rw [List.forall_mem_cons] at hx
    simp [mapFirst, hx.1, ih hx.2]

theorem State.canArrive_hall {a : LoadAcc} (hf : a.fin = false) (hr : a.acc.req = none) (hh : a.acc.host = false) : s.canArrive a = true := by
  simp [State.canArrive, hf, hr, hh]

theorem State.arrive_ok {a : LoadAcc} (hr : a.acc.req = none) (he : a.err = 0) : s.arrive t a .ok = ({ a with fin := true }, s) := by
  simp [State.arrive, hr, he, MemOutcome.busy, MemOutcome.words, State.collided]

theorem State.arrive_hallError {a : LoadAcc} (hr : a.acc.req = none) (he : a.err = 0) :
    s.arrive t a .hallError = ({ a with err := 1, fin := true }, s.busError t 1 a.acc.taddr) := by
  simp [State.arrive, hr, he]

/-! ## The one outstanding load of a trader -/

theorem Load.ready_iff (l : Load) (slot : Nat) : l.ready slot = true ↔ l.part = false ∧ (∀ a ∈ l.accs, a.fin = true) ∧ l.due ≤ slot := by
  simp [Load.ready, and_assoc]

theorem Load.value_of_sound {l : Load} (h : ∀ a ∈ l.accs, a.err = 0) : l.value = ofBytes (l.accs.flatMap (fun a => a.got)) := by
  have none : l.accs.any (fun a => a.err != 0) = false := by simpa using h
  rw [Load.value, none, if_neg Bool.false_ne_true]

theorem Load.value_of_error {l : Load} {a : LoadAcc} (ha : a ∈ l.accs) (he : a.err ≠ 0) : l.value = 0 := by
  have some : l.accs.any (fun a => a.err != 0) = true := List.any_eq_true.mpr ⟨a, ha, by simpa using he⟩
  rw [Load.value, some, if_pos rfl]

theorem Trader.landIn_busErr (tr : Trader) (x : Nat × Nat) (dst : GReg) (v : Nat) :
    ({ tr with busErr := x } : Trader).landIn dst v = { tr.landIn dst v with busErr := x } := by
  cases dst with
  | p i =>
    show ({ tr with busErr := x } : Trader).setP i (bit v 0) = { tr.setP i (bit v 0) with busErr := x }
    unfold Trader.setP
    split <;> rfl
  | _ => rfl

theorem Trader.landIn_loads (tr : Trader) (ls : List Load) (dst : GReg) (v : Nat) :
    ({ tr with loads := ls } : Trader).landIn dst v = { tr.landIn dst v with loads := ls } := by
  cases dst with
  | p i =>
    show ({ tr with loads := ls } : Trader).setP i (bit v 0) = { tr.setP i (bit v 0) with loads := ls }
    unfold Trader.setP
    split <;> rfl
  | _ => rfl

/-- A load with all its responses lands in its slot. -/
theorem Trader.landLoads_ready (tr : Trader) {ld : Load} {slot : Nat} (hr : ld.ready slot = true) :
    ({ tr with loads := [ld] } : Trader).landLoads slot = { tr.landIn ld.dst ld.value with loads := [] } := by
  simp [Trader.landLoads, hr, Trader.landIn_loads]

/-- A load that still waits stays outstanding. -/
theorem Trader.landLoads_waits (tr : Trader) {ld : Load} {slot : Nat} (hr : ld.ready slot = false) :
    ({ tr with loads := [ld] } : Trader).landLoads slot = { tr with loads := [ld] } := by
  simp [Trader.landLoads, hr]

theorem State.idleTo_of_busy (h : s.idleSlots t = false) (due : Nat) : s.idleTo t due = s := by simp [State.idleTo, h]

/-- The response to the first access without one, of a trader with one load and slots that do not pass idle. -/
theorem exec_loadDataArrival {dst : GReg} {due : Nat} {xs ys : List LoadAcc} {a a' : LoadAcc} {o : MemOutcome} {u : State}
    (hl : (s.trader t).loads = [⟨dst, xs ++ a :: ys, due, false⟩]) (hx : ∀ x ∈ xs, x.fin = true) (ha : s.canArrive a = true)
    (harr : s.arrive t a o = (a', u)) (hu : (u.trader t).loads = (s.trader t).loads) (hi : u.idleSlots t = false) :
    exec (.loadDataArrival t o) s = .next (u.setTrader t
      (({ u.trader t with loads := [⟨dst, xs ++ a' :: ys, due, false⟩] } : Trader).landLoads (u.trader t).slot)) := by
  have find := State.find_canArrive (ys := ys) hx ha
  have can : (xs ++ a :: ys).any s.canArrive = true := List.any_eq_true.mpr ⟨a, by simp, ha⟩
  have map := mapFirst_append (p := s.canArrive) (fun _ => a') (xs := xs) (ys := ys) (fun x h => by simp [State.canArrive, hx x h]) ha
  have upd :
      u.upd t (fun tr => { tr with
        loads := mapFirst (fun l => l.accs.any s.canArrive)
          (fun (l : Load) => { l with accs := mapFirst s.canArrive (fun _ => a') l.accs }) tr.loads }) =
      u.setTrader t { u.trader t with loads := [⟨dst, xs ++ a' :: ys, due, false⟩] } := by
    rw [State.upd, hu, hl]
    simp only [mapFirst, can, if_true, map]
  have idle : (u.setTrader t { u.trader t with loads := [⟨dst, xs ++ a' :: ys, due, false⟩] }).idleSlots t = false := by
    simpa [State.idleSlots, State.clocked] using hi
  show execLoadDataArrival t o s = _
  simp only [execLoadDataArrival, hl, List.find?_cons, can, Option.bind_some, find, harr, upd]
  rw [State.idleTo_of_busy idle, ← State.upd_setTrader]

/-! ## The store buffer -/

/-- A byte after bytes are written: one of theirs, or what stood there. -/
theorem Memory.read_writeBytes {m : Memory} (a x : Nat) (bs : List Byte) (h : m.wf = true) :
    Memory.read (Memory.writeBytes m a bs) x = if a ≤ x ∧ x < a + bs.length then (bs[x - a]?).getD 0 else Memory.read m x := by
  split
  case isTrue hx =>
    have hi : x - a < bs.length := by omega
    have inside := Memory.read_writeBytes_inside bs a (x - a) hi h
    rw [Nat.add_sub_cancel' hx.1] at inside
    rw [inside, List.getElem?_eq_getElem hi, Option.getD_some]
  case isFalse hx => exact Memory.read_writeBytes_outside bs a x h (by omega)

theorem State.sawBusy_bit {s : State} (ht : t.t < 16) : bit ((s.sawBusy t).get STL_STATUS.BSY t.st) t.t = true := by
  rw [State.sawBusy, State.bit_orIn_self _ _ _ (by decide) (by decide) ht, bit_testBit (2 ^ t.t), Nat.testBit_two_pow_self, Bool.or_true]

/-- The store buffer without its oldest entry, the access of hall memory granted. -/
def State.popped (s : State) (t : TraderId) (e : MemAcc) : State := (s.popStore t).granted t.h t.s e.addr e.len

section

variable {e : MemAcc} {rest : List MemAcc}

theorem State.popped_trader_self (hst : (s.trader t).stores = e :: rest) : (s.popped t e).trader t = { s.trader t with stores := rest } := by
  rw [State.popped, State.granted_trader, State.popStore, State.upd, State.trader_self, hst]
  rfl

theorem State.popped_trader_ne {u : TraderId} (hu : u ≠ t) : (s.popped t e).trader u = s.trader u := by
  rw [State.popped, State.granted_trader]
  exact State.trader_ne _ _ _ _ hu

theorem State.popped_mem : (s.popped t e).mem = s.mem := State.granted_mem _ _ _ _ _

theorem State.popped_errorIn (a : Arr) (o n : Nat) : (s.popped t e).errorIn a o n = s.errorIn a o n := State.granted_errorIn _ _ _ _ _ _ _ _

theorem State.popped_get {f : Field} (hf : f.reg ≠ .HL_GRANT) (i : Ix) : (s.popped t e).get f i = s.get f i := by
  obtain ⟨v, h | h⟩ := (s.popStore t).exists_granted t.h t.s e.addr e.len
  · rw [State.popped, h]
    exact State.get_of_rd (State.rd_wr_ne _ v (Ix.reg_ne hf _ _))
  · rw [State.popped, h]
    rfl

/-- An entry for hall memory leaves the buffer: what follows is the response's. -/
theorem exec_storeBufferDrain {o : MemOutcome} (hst : (s.trader t).stores = e :: rest) (hh : e.host = false)
    (he : s.errorIn (.hallMem t.h) e.addr e.len ≠ some true) :
    exec (.storeBufferDrain t o) s = .next (if o = .hallError then (s.popped t e).busError t 0x81 e.taddr
      else (if o.busy then (s.popped t e).sawBusy t else s.popped t e).store (.hallMem t.h) e.addr e.data) := by
  have he' : (s.popped t e).errorIn (.hallMem t.h) e.addr e.len ≠ some true := by rwa [State.popped_errorIn]
  show execStoreBufferDrain t o s = _
  simp only [execStoreBufferDrain, hst, hh, Bool.false_eq_true, if_false]
  rw [← State.popped, if_neg he']

end

end Sys2Proof.Machine

namespace Sys2Proof.Proofs

open Sys2Proof.Machine

theorem loadDataArrives : Claims.LoadDataArrives := by
  intro s t dst due xs ys a tr hl hx hf hr hh he hi got bytes
  have can := State.canArrive_hall (s := s) hf hr hh
  have ok := exec_loadDataArrival hl hx can (State.arrive_ok hr he) rfl hi
  refine ⟨fun hy hdue herr => ⟨?_, ?_⟩, ?_⟩
  · have ready : (⟨dst, got, due, false⟩ : Load).ready tr.slot = true :=
      (Load.ready_iff _ _).mpr ⟨rfl, List.forall_mem_append.mpr ⟨hx, List.forall_mem_cons.mpr ⟨rfl, hy⟩⟩, hdue⟩
    have sound : ∀ x ∈ got, x.err = 0 :=
      have ⟨hxe, hye⟩ := List.forall_mem_append.mp herr
      List.forall_mem_append.mpr ⟨hxe, List.forall_mem_cons.mpr ⟨he, hye⟩⟩
    rw [ok, Trader.landLoads_ready _ ready, Load.value_of_sound sound]
  · obtain ⟨x, ht, hx9⟩ := s.busError_trader_self t 1 a.acc.taddr
    have idle : (s.busError t 1 a.acc.taddr).idleSlots t = false := by
      rw [← hi]
      simp only [State.idleSlots, State.clocked, State.is, ht]
      rw [State.busError_get 1 _ (by decide) (by decide), State.busError_get 1 _ (by decide) (by decide)]
    have ready : (⟨dst, xs ++ { a with err := 1, fin := true } :: ys, due, false⟩ : Load).ready tr.slot = true :=
      (Load.ready_iff _ _).mpr ⟨rfl, List.forall_mem_append.mpr ⟨hx, List.forall_mem_cons.mpr ⟨rfl, hy⟩⟩, hdue⟩
    have zero : (⟨dst, xs ++ { a with err := 1, fin := true } :: ys, due, false⟩ : Load).value = 0 :=
      Load.value_of_error (a := { a with err := 1, fin := true }) (by simp) (by simp)
    have lands := Trader.landLoads_ready { tr with busErr := x } ready
    rw [zero, Trader.landIn_busErr] at lands
    refine ⟨_, exec_loadDataArrival hl hx can (State.arrive_hallError hr he) (by rw [ht]) idle, ?_⟩
    rw [ht, State.trader_self, lands]
    exact ⟨rfl, fun h9 => ⟨State.busError_pends s t 1 _, hx9 h9⟩⟩
  · rintro ⟨y, hy, hyf⟩
    have waits : (⟨dst, got, due, false⟩ : Load).ready tr.slot = false :=
      Bool.eq_false_iff.mpr fun h => by
        have fin := ((Load.ready_iff _ _).mp h).2.1 y (by simp [got, hy])
        rw [hyf] at fin
        cases fin
    rw [ok, Trader.landLoads_waits _ waits]

theorem storesDrain : Claims.StoresDrain := by
  intro s t e rest hinv tr at_ hst hh herr hlen
  refine ⟨fun o ho => ?_, _, exec_storeBufferDrain hst hh herr, ?_⟩
  · have made : o ≠ .hallError := by
      rcases ho with rfl | ⟨m, rfl⟩ <;> simp
    have after : ∃ u : State, u = (if o.busy then (s.popped t e).sawBusy t else s.popped t e) ∧ u.traders = (s.popped t e).traders ∧
        u.mem = s.mem ∧ (o ≠ .ok → t.t < 16 → bit (u.get STL_STATUS.BSY t.st) t.t = true) := by
      refine ⟨_, rfl, ?_, ?_, fun hne ht => ?_⟩
      · split <;> rfl
      · split <;> exact State.popped_mem
      · obtain ⟨m, rfl⟩ := ho.resolve_left hne
        exact State.sawBusy_bit ht
    obtain ⟨u, hu, htr, hmem, hbsy⟩ := after
    have trader (v : TraderId) : u.trader v = (s.popped t e).trader v := by rw [State.trader, htr]; rfl
    refine ⟨u.store (.hallMem t.h) e.addr e.data, ?_, ?_, fun y => ?_, hbsy, fun v hv => ?_⟩
    · rw [exec_storeBufferDrain hst hh herr, if_neg made, ← hu]
    · exact (trader t).trans (State.popped_trader_self hst)
    · rw [State.store, hmem, Memory.read_writeBytes _ _ _ hinv.mem, hlen]
    · exact (trader v).trans (State.popped_trader_ne hv)
  · rw [if_pos rfl, State.busError_mem, State.popped_mem]
    obtain ⟨x, ht, hx⟩ := (s.popped t e).busError_trader_self t 0x81 e.taddr
    rw [ht, State.popped_trader_self hst]
    rw [State.popped_get (by decide)] at hx
    exact ⟨rfl, rfl, fun h9 => ⟨State.busError_pends _ t _ _, hx h9⟩⟩

/-- Settles O23: a response answers the first access without one, and the load lands with the last; an entry that leaves the store buffer is
written unless its response is an error. -/
theorem hallResponses : Obligations.HallResponses := ⟨loadDataArrives, storesDrain⟩

end Sys2Proof.Proofs
end

section
/-! SUPPORT. Occurrences of several sources (R154, R170): which pend afterwards, and which have overrun; what lands at a slot (R91, R146), the
budget watch (R360), and writes of the event registers and records (R163, R170). -/

namespace Sys2Proof.Machine

variable {s : State} {t : TraderId}

/-! ## One occurrence -/

theorem TraderId.reg_inj {t u : TraderId} {n : RegName} (h : t.ix.reg n = u.ix.reg n) : t = u := by
  cases t; cases u
  simp only [TraderId.ix, Ix.reg, Reg.mk.injEq] at h
  simp [h]

theorem State.rd_occur_ne {q : Reg} (h1 : q ≠ t.ix.reg .EV_PEND) (h2 : q ≠ t.ix.reg .EV_OVR) (k : Nat) : (s.occur t k).rd q = s.rd q := by
  unfold State.occur
  split
  · exact State.rd_orIn_ne h2 _
  · exact State.rd_orIn_ne h1 _

/-- A bit of a field of 11 bits in which one bit is set. -/
theorem State.bit_orIn_pow (f : Field) (i : Ix) (k j : Nat) (h : f.lo = 0) (hh : f.hi = 10) (hj : j < 11) :
    bit ((s.orIn f i (2 ^ k)).get f i) j = (bit (s.get f i) j || decide (j = k)) := by
  rw [State.bit_orIn_self _ _ _ (by omega) (by omega) (by omega), bit_testBit (2 ^ k), Nat.testBit_two_pow]
  simp [eq_comm]

/-- After an occurrence there pends what pended, and the source. -/
theorem State.pend_occur_iff (t u : TraderId) (k : Nat) {i : Nat} (hi : i < 11) :
    bit ((s.occur t k).get EV_PEND.PEND u.ix) i = (bit (s.get EV_PEND.PEND u.ix) i || decide ((u, i) = (t, k))) := by
  by_cases hu : u = t
  · subst hu
    unfold State.occur
    split
    case isTrue h =>
      rw [State.orIn, State.noteHw_get, State.get_put_beside (by decide)]
      by_cases e : i = k
      · simp [e, h]
      · simp [e]
    case isFalse => rw [State.bit_orIn_pow _ _ _ _ rfl rfl hi]; simp
  · have hr : u.ix.reg .EV_PEND ≠ t.ix.reg .EV_PEND := fun e => hu (TraderId.reg_inj e)
    rw [State.get_of_rd (State.rd_occur_ne hr (Ix.reg_ne (by decide) _ _) k)]
    simp [hu]

/-- A source that pended when it occurred has overrun. -/
theorem State.ovr_occur_iff (t u : TraderId) (k : Nat) {i : Nat} (hi : i < 11) : bit ((s.occur t k).get EV_OVR.OVR u.ix) i =
    (bit (s.get EV_OVR.OVR u.ix) i || (decide ((u, i) = (t, k)) && bit (s.get EV_PEND.PEND u.ix) i)) := by
  by_cases hu : u = t
  · subst hu
    unfold State.occur
    split
    case isTrue h =>
      rw [State.bit_orIn_pow _ _ _ _ rfl rfl hi]
      by_cases e : i = k
      · simp [e, h]
      · simp [e]
    case isFalse h =>
      rw [State.orIn, State.noteHw_get, State.get_put_beside (by decide)]
      by_cases e : i = k
      · simp [e, h]
      · simp [e]
  · have hr : u.ix.reg .EV_OVR ≠ t.ix.reg .EV_OVR := fun e => hu (TraderId.reg_inj e)
    rw [State.get_of_rd (State.rd_occur_ne (Ix.reg_ne (by decide) _ _) hr k)]
    simp [hu]

/-! ## Several occurrences at once -/

/-- Every source of the list occurs. -/
def State.occurAll (s : State) (l : List (TraderId × Nat)) : State := forAll l (fun e s => s.occur e.1 e.2) s

theorem State.occurAll_cons (e : TraderId × Nat) (l : List (TraderId × Nat)) : s.occurAll (e :: l) = (s.occur e.1 e.2).occurAll l := rfl

theorem State.pend_occurAll (u : TraderId) {i : Nat} (hi : i < 11) (l : List (TraderId × Nat)) :
    bit ((s.occurAll l).get EV_PEND.PEND u.ix) i = (bit (s.get EV_PEND.PEND u.ix) i || decide ((u, i) ∈ l)) := by
  induction l generalizing s with
  | nil => simp [State.occurAll, forAll]
  | cons e l ih => rw [State.occurAll_cons, ih, State.pend_occur_iff _ _ _ hi, Bool.or_assoc]; simp

/-- Of sources that occur once each, those overrun that pended before. -/
theorem State.ovr_occurAll (u : TraderId) {i : Nat} (hi : i < 11) {l : List (TraderId × Nat)} (hl : l.Nodup) :
    bit ((s.occurAll l).get EV_OVR.OVR u.ix) i =
      (bit (s.get EV_OVR.OVR u.ix) i || (decide ((u, i) ∈ l) && bit (s.get EV_PEND.PEND u.ix) i)) := by
  induction l generalizing s with
  | nil => simp [State.occurAll, forAll]
  | cons e l ih =>
    rw [List.nodup_cons] at hl
    rw [State.occurAll_cons, ih hl.2, State.ovr_occur_iff _ _ _ hi, State.pend_occur_iff _ _ _ hi]
    by_cases he : (u, i) = e
    · subst he
      simp [hl.1]
    · simp [he]

theorem State.occurAll_noRegs (l : List (TraderId × Nat)) : (s.occurAll l).noRegs = s.noRegs := by
  induction l generalizing s with
  | nil => rfl
  | cons e l ih => rw [State.occurAll_cons, ih, (State.occur_onlyRaises s e.1 e.2).noRegs]

theorem State.rd_occurAll_ne {q : Reg} (l : List (TraderId × Nat))
    (h : ∀ e ∈ l, q ≠ e.1.ix.reg .EV_PEND ∧ q ≠ e.1.ix.reg .EV_OVR) : (s.occurAll l).rd q = s.rd q := by
  induction l generalizing s with
  | nil => rfl
  | cons e l ih =>
    rw [List.forall_mem_cons] at h
    rw [State.occurAll_cons, ih h.2, State.rd_occur_ne h.1.1 h.1.2]

theorem mem_ones {n x i : Nat} : i ∈ ones n x ↔ i < n ∧ bit x i = true := by simp [ones]

theorem ones_nodup (n x : Nat) : (ones n x).Nodup := List.nodup_range.filter _

/-- The sources that a write of EV_KICK makes pending. -/
def kicks (h n mask : Nat) : List (TraderId × Nat) := (ones 16 mask).map (fun t => (⟨h, n, t⟩, 8))

theorem State.evKick_eq (h n mask : Nat) : s.evKick h n mask = s.occurAll (kicks h n mask) := by
  rw [State.evKick, kicks, State.occurAll, forAll, forAll, List.foldl_map]

theorem kicks_nodup (h n mask : Nat) : (kicks h n mask).Nodup :=
  (ones_nodup 16 mask).map fun a b e => by simpa using e

theorem mem_kicks {h n mask i : Nat} {u : TraderId} : (u, i) ∈ kicks h n mask ↔ (i = 8 ∧ u.h = h ∧ u.s = n ∧ u.t < 16) ∧ bit mask u.t = true := by
  cases u
  simp only [kicks, List.mem_map, mem_ones, Prod.mk.injEq, TraderId.mk.injEq]
  constructor
  · rintro ⟨a, ⟨ha, hb⟩, ⟨rfl, rfl, rfl⟩, rfl⟩
    exact ⟨⟨rfl, rfl, rfl, ha⟩, hb⟩
  · rintro ⟨⟨rfl, rfl, rfl, ha⟩, hb⟩
    exact ⟨_, ⟨ha, hb⟩, ⟨rfl, rfl, rfl⟩, rfl⟩

/-- The sources of a trader that a write of EV_PEND_SET makes pending. -/
def pendsSet (t : TraderId) (mask : Nat) : List (TraderId × Nat) := (ones 11 mask).map (fun k => (t, k))

theorem State.evPendSet_eq (t : TraderId) (mask : Nat) :
    s.evPendSet t mask = (s.occurAll (pendsSet t mask)).noteSw EV_PEND.PEND t.ix (mask % 2 ^ 11) := by
  rw [State.evPendSet, pendsSet, State.occurAll, forAll, forAll, List.foldl_map]

theorem pendsSet_nodup (t : TraderId) (mask : Nat) : (pendsSet t mask).Nodup :=
  (ones_nodup 11 mask).map fun a b e => by simpa using e

theorem mem_pendsSet {mask i : Nat} (hi : i < 11) : (t, i) ∈ pendsSet t mask ↔ bit mask i = true := by
  simp [pendsSet, mem_ones, hi]

/-! ## The records of a trader (R163) -/

theorem State.recNote_eq (s : State) (t : TraderId) (n : Nat) : ∃ x, s.recNote t n = s.setTrader t { s.trader t with recWas := x } := ⟨_, rfl⟩

theorem State.recNote_trader (s : State) (t : TraderId) (n : Nat) (u : TraderId) :
    ∃ x, (s.recNote t n).trader u = { s.trader u with recWas := x } := by
  obtain ⟨x, e⟩ := s.recNote_eq t n
  rw [e]
  by_cases hu : u = t
  · exact ⟨x, by rw [hu, State.trader_self]⟩
  · exact ⟨(s.trader u).recWas, by rw [State.trader_ne _ _ _ _ hu]⟩

/-- TSR of a record after a write of its first word: S changes only for a master that may change it. -/
def State.ctxTsr (s : State) (i : Ix) (v : Nat) (sup : Bool) : Nat :=
  if sup then bits v 23 16 else bits v 23 16 % 128 + bits (s.get ER_CTX.TSR i) 7 7 * 128

/-- ER_CTX of record `n` written. -/
def State.ctxWrite (s : State) (i : Ix) (n v : Nat) (sup : Bool) : State :=
  let p := s.put ER_CTX.PC i (bits v 15 0)
  let u := p.put ER_CTX.TSR i (p.ctxTsr i v sup)
  if bits v 26 24 ≤ n then u.put ER_CTX.PLVL i (bits v 26 24) else u

section

variable {i : Ix} {n v : Nat} {sup : Bool}

theorem State.ctxWrite_PC : (s.ctxWrite i n v sup).get ER_CTX.PC i = v % 65536 := by
  have pc : bits v 15 0 % 2 ^ 16 = v % 65536 := by simp [bits]
  unfold State.ctxWrite
  dsimp only
  split
  · rw [State.get_put_beside (by decide), State.get_put_beside (by decide)]
    exact (State.get_put_self _ _ _ _ (by decide) (by decide)).trans pc
  · rw [State.get_put_beside (by decide)]
    exact (State.get_put_self _ _ _ _ (by decide) (by decide)).trans pc

theorem State.ctxWrite_TSR : (s.ctxWrite i n v sup).get ER_CTX.TSR i = s.ctxTsr i v sup % 256 := by
  have old : (s.put ER_CTX.PC i (bits v 15 0)).ctxTsr i v sup = s.ctxTsr i v sup := by
    rw [State.ctxTsr, State.get_put_beside (by decide), ← State.ctxTsr]
  unfold State.ctxWrite
  dsimp only
  rw [old]
  split
  · rw [State.get_put_beside (by decide)]
    exact State.get_put_self _ _ _ _ (by decide) (by decide)
  · exact State.get_put_self _ _ _ _ (by decide) (by decide)

theorem State.ctxWrite_PLVL : (s.ctxWrite i n v sup).get ER_CTX.PLVL i =
    if v / 2 ^ 24 % 8 ≤ n then v / 2 ^ 24 % 8 else s.get ER_CTX.PLVL i := by
  have lvl : bits v 26 24 = v / 2 ^ 24 % 8 := bits_eq_div v 26 24
  unfold State.ctxWrite
  dsimp only
  rw [lvl]
  by_cases h : v / 2 ^ 24 % 8 ≤ n
  · rw [if_pos h, if_pos h]
    exact (State.get_put_self _ _ _ _ (by decide) (by decide)).trans (Nat.mod_mod _ _)
  · rw [if_neg h, if_neg h, State.get_put_beside (by decide), State.get_put_beside (by decide)]

theorem State.ctxWrite_rd_ne {q : Reg} (hq : q ≠ i.reg .ER_CTX) : (s.ctxWrite i n v sup).rd q = s.rd q := by
  unfold State.ctxWrite
  dsimp only
  split
  · rw [State.rd_put_ne hq, State.rd_put_ne hq, State.rd_put_ne hq]
  · rw [State.rd_put_ne hq, State.rd_put_ne hq]

theorem State.ctxWrite_noRegs : (s.ctxWrite i n v sup).noRegs = s.noRegs := by
  unfold State.ctxWrite
  dsimp only
  split <;> rfl

theorem State.ctxTsr_low : s.ctxTsr i v sup % 256 % 128 = v / 65536 % 128 := by
  rw [State.ctxTsr, bits_eq_div v]
  split <;> omega

theorem State.ctxTsr_top : bit (s.ctxTsr i v sup % 256) 7 = if sup then bit v 23 else bit (s.get ER_CTX.TSR i) 7 := by
  simp only [State.ctxTsr, bit_eq, bits_eq_div]
  cases sup
  · simp only [Bool.false_eq_true, if_false]
    congr 1
    omega
  · simp only [if_true]
    congr 1
    omega

end

end Sys2Proof.Machine

/-! ## What lands at a slot (R91, R146) -/

namespace Sys2Proof.Machine

variable {s : State} {t : TraderId} {due : Nat}

theorem State.slotCome_iff :
    s.slotCome t due = true ↔ due ≤ (s.trader t).slot ∨ (s.clocked t = true ∧ due ≤ s.nextSlot t / 16) := by
  simp [State.slotCome]

theorem exec_mulProductLand {h l : Half} {rest : List (Nat × Half × Half)} (hm : (s.trader t).mul = (due, h, l) :: rest)
    (idle : s.idleSlots t = false) (come : s.slotCome t due = true) :
    exec (.mulProductLand t) s = .next (s.setTrader t { s.trader t with mrh := h, mrl := l, mul := rest }) := by
  change execMulProductLand t s = _
  rw [execMulProductLand, hm]
  simp only [State.idleTo_of_busy idle, come, if_true]
  rfl

theorem State.scClean_eq (s : State) (t : TraderId) (i : Nat) :
    s.scClean t i = { s with ecc := if i < 16 then Tab.del s.ecc (scWord t i) else s.ecc } := by
  unfold State.scClean State.wordClean
  split <;> rfl

theorem exec_scaleResultLand {e : ScPend} {rest : List ScPend} (hq : (s.trader t).scq = e :: rest) (idle : s.idleSlots t = false)
    (come : s.slotCome t e.due = true) :
    exec (.scaleResultLand t) s = .next (((s.scClean t e.dst).upd t (fun tr =>
      { ((tr.setSc e.dst e.value).scFlag (max tr.slot e.due) e.flags) with scq := rest })).wr (t.ix.reg .SC_STATUS)
        (s.rd (t.ix.reg .SC_STATUS) ||| e.flags)) := by
  change execScaleResultLand t s = _
  rw [execScaleResultLand, hq]
  simp only [State.idleTo_of_busy idle, come, if_true]
  rw [State.scClean_eq]
  rfl

theorem or_and_eq_right (x m : Nat) : (x ||| m) &&& m = m := by
  apply Nat.eq_of_testBit_eq
  intro i
  rw [Nat.testBit_and, Nat.testBit_or]
  cases x.testBit i <;> cases m.testBit i <;> rfl

/-! ## The budget watch (R360) -/

/-- The level that the budget watch finds at fault takes its marker along. -/
def State.markOver (s : State) (t : TraderId) : State :=
  s.upd t (fun tr => { (tr.setBud (s.cur t) { tr.bud (s.cur t) with fired := true }) with overMarker := (tr.bud (s.cur t)).marker })

theorem exec_budgetOverrun (past : (s.trader t).over (s.cur t) = true) (en : s.is BW_CTRL.EN t.st = true) :
    exec (.budgetOverrun t) s = .next (((s.markOver t).occur t 10).orIn BW_STATUS.OVER t.st (2 ^ t.t)) := by
  change execBudgetOverrun t s = _
  rw [execBudgetOverrun, List.find?_cons_of_pos past]
  simp only [en, if_true]
  rfl

theorem Trader.over_of_limit {tr : Trader} {lvl l : Nat} (hl : (tr.bud lvl).limit = some l) (hc : l < (tr.bud lvl).count)
    (hf : (tr.bud lvl).fired = false) : tr.over lvl = true := by simp [Trader.over, hl, hc, hf]

/-! ## Writes of the event registers -/

theorem exec_evKick {by_ : Accessor} {h n : Nat} {mask : Half} (reach : s.reachesStall by_ h n = true)
    (free : s.holdsWord by_ h n = none) (hp : s.portOpen (accPort by_) = true) :
    exec (.evKick by_ h n mask) s = .next (s.occurAll (kicks h n mask.toNat)) := by
  change (.next (State.byPort ..) : Out) = _
  rw [free, Option.isSome_none, State.byPort_open hp, if_pos reach, State.evKick_eq]

theorem exec_evPendSet {by_ : Accessor} {mask : Nat} (reach : s.reachesEvents by_ t = true)
    (free : s.holdsWord by_ t.h t.s = none) (hp : s.portOpen (accPort by_) = true) :
    exec (.evPendSet by_ t mask) s = .next ((s.occurAll (pendsSet t mask)).noteSw EV_PEND.PEND t.ix (mask % 2 ^ 11)) := by
  change (.next (State.byPort ..) : Out) = _
  rw [free, Option.isSome_none, State.byPort_open hp, if_pos reach, State.evPendSet_eq]

theorem exec_erRecordWrite {by_ : Accessor} {n word : Nat} {v : Word} (reach : s.reachesEvents by_ t = true)
    (free : s.holdsWord by_ t.h t.s = none) (hp : s.portOpen (accPort by_) = true) :
    exec (.erRecordWrite by_ t n word v) s = .next (s.erWrite by_ t n word v.toNat) := by
  change (.next (State.byPort ..) : Out) = _
  rw [free, Option.isSome_none, State.byPort_open hp, if_pos reach]

/-- Whether an accessor may change S: a host, and a trader whose S is 1. -/
def State.writesSup (s : State) : Accessor → Bool
  | .host _ => true
  | .trader q => (s.trader q).sup

theorem State.erWrite_of_moved {by_ : Accessor} {n word v : Nat} (h : 2 ≤ word ∨ (s.trader t).moved = (n + 1, s.tick)) :
    s.erWrite by_ t n word v = s := if_pos h

theorem State.recNote_writesSup (s : State) (t : TraderId) (n : Nat) (by_ : Accessor) : (s.recNote t n).writesSup by_ = s.writesSup by_ := by
  cases by_ with
  | host k => rfl
  | trader q =>
    obtain ⟨x, e⟩ := s.recNote_trader t n q
    simp only [State.writesSup, e]

theorem State.erWrite_ctx {by_ : Accessor} {n v : Nat} (h : (s.trader t).moved ≠ (n + 1, s.tick)) :
    s.erWrite by_ t n 0 v = (s.recNote t n).ctxWrite (t.lvl n) n v (s.writesSup by_) := by
  rw [← State.recNote_writesSup s t n]
  unfold State.erWrite
  rw [if_neg (by simpa using h)]
  cases by_ <;> rfl

theorem State.erWrite_bank {by_ : Accessor} {n v : Nat} (h : (s.trader t).moved ≠ (n + 1, s.tick)) :
    s.erWrite by_ t n 1 v = (s.recNote t n).wr ((t.lvl n).reg .ER_BANK) (bits v 10 0) := by
  unfold State.erWrite
  rw [if_neg (by simpa using h)]
  rfl

end Sys2Proof.Machine

namespace Sys2Proof.Proofs

open Sys2Proof.Machine

theorem budgetOverrunRaised (s : State) (t : TraderId) (l : Nat) (hl : ((s.trader t).bud (s.cur t)).limit = some l)
    (hc : l < ((s.trader t).bud (s.cur t)).count) (hf : ((s.trader t).bud (s.cur t)).fired = false)
    (en : s.is BW_CTRL.EN t.st = true) (ht : t.t < 16) :
    ∃ s', exec (.budgetOverrun t) s = .next s' ∧
      (if bit (s.get EV_PEND.PEND t.ix) 10 then bit (s'.get EV_OVR.OVR t.ix) 10 else bit (s'.get EV_PEND.PEND t.ix) 10) = true ∧
      bit (s'.get BW_STATUS.OVER t.st) t.t = true ∧
      s'.trader t = { (s.trader t).setBud (s.cur t) { (s.trader t).bud (s.cur t) with fired := true } with
        overMarker := ((s.trader t).bud (s.cur t)).marker } ∧
      (∀ u, u ≠ t → s'.trader u = s.trader u) ∧ { s'.noRegs with traders := s.traders } = s.noRegs := by
  refine ⟨_, exec_budgetOverrun (Trader.over_of_limit hl hc hf) en, ?_, ?_, ?_, fun u hu => ?_, ?_⟩
  · have same {f : Field} (hf : f.reg ≠ .BW_STATUS) : (((s.markOver t).occur t 10).orIn BW_STATUS.OVER t.st (2 ^ t.t)).get f t.ix =
        ((s.markOver t).occur t 10).get f t.ix := State.get_of_rd (State.rd_orIn_ne (Ix.reg_ne hf _ _) _)
    rw [same (f := EV_OVR.OVR) (by decide), same (f := EV_PEND.PEND) (by decide), State.pend_occur_self t (by decide),
      State.ovr_occur_iff t t 10 (by decide)]
    have : (s.markOver t).get EV_PEND.PEND t.ix = s.get EV_PEND.PEND t.ix := rfl
    rw [this]
    split
    case isTrue h => simp [h]
    case isFalse => rfl
  · rw [State.bit_orIn_self _ _ _ (by decide) (by decide) (show t.t < 16 from ht), bit_testBit (2 ^ t.t), Nat.testBit_two_pow_self, Bool.or_true]
  · rw [State.orIn_trader, State.trader, (State.occur_onlyRaises _ t 10).traders]
    exact State.trader_self _ _ _
  · rw [State.orIn_trader, State.trader, (State.occur_onlyRaises _ t 10).traders]
    exact State.trader_ne _ _ _ _ hu
  · have : ((s.markOver t).occur t 10).noRegs = (s.markOver t).noRegs := (State.occur_onlyRaises _ t 10).noRegs
    exact congrArg (fun x : State => { x with traders := s.traders }) this

theorem kicksRaised (s : State) (by_ : Accessor) (h n : Nat) (mask : Half) (reach : s.reachesStall by_ h n = true)
    (free : s.holdsWord by_ h n = none) (hp : s.portOpen (accPort by_) = true) :
    ∃ s', exec (.evKick by_ h n mask) s = .next s' ∧
    (∀ u : TraderId, ∀ i < 11, bit (s'.get EV_PEND.PEND u.ix) i =
      (bit (s.get EV_PEND.PEND u.ix) i || (decide (i = 8 ∧ u.h = h ∧ u.s = n ∧ u.t < 16) && bit mask.toNat u.t))) ∧
    (∀ u : TraderId, ∀ i < 11, bit (s'.get EV_OVR.OVR u.ix) i = (bit (s.get EV_OVR.OVR u.ix) i ||
      (decide (i = 8 ∧ u.h = h ∧ u.s = n ∧ u.t < 16) && bit mask.toNat u.t && bit (s.get EV_PEND.PEND u.ix) i))) ∧
    (∀ r : Reg, r.name ≠ .EV_PEND → r.name ≠ .EV_OVR → s'.rd r = s.rd r) ∧ s'.noRegs = s.noRegs := by
  have member (u : TraderId) (i : Nat) : decide ((u, i) ∈ kicks h n mask.toNat) =
      (decide (i = 8 ∧ u.h = h ∧ u.s = n ∧ u.t < 16) && bit mask.toNat u.t) := by
    rw [decide_eq_decide.mpr mem_kicks, Bool.decide_and, Bool.decide_eq_true]
  refine ⟨_, exec_evKick reach free hp, fun u i hi => ?_, fun u i hi => ?_, fun r h1 h2 => ?_, State.occurAll_noRegs _⟩
  · rw [State.pend_occurAll u hi, member]
  · rw [State.ovr_occurAll u hi (kicks_nodup _ _ _), member]
  · exact State.rd_occurAll_ne _ fun e _ => ⟨fun h => h1 (congrArg Reg.name h), fun h => h2 (congrArg Reg.name h)⟩

theorem pendingSet (s : State) (by_ : Accessor) (t : TraderId) (mask : Nat) (reach : s.reachesEvents by_ t = true)
    (free : s.holdsWord by_ t.h t.s = none) (hp : s.portOpen (accPort by_) = true) :
    ∃ s', exec (.evPendSet by_ t mask) s = .next s' ∧
    (∀ i < 11, bit (s'.get EV_PEND.PEND t.ix) i = (bit (s.get EV_PEND.PEND t.ix) i || bit mask i)) ∧
    (∀ i < 11, bit (s'.get EV_OVR.OVR t.ix) i =
      (bit (s.get EV_OVR.OVR t.ix) i || (bit mask i && bit (s.get EV_PEND.PEND t.ix) i))) ∧
    (∀ r : Reg, r ≠ t.ix.reg .EV_PEND → r ≠ t.ix.reg .EV_OVR → s'.rd r = s.rd r) ∧ s'.noRegs = s.noRegs := by
  have member {i : Nat} (hi : i < 11) : decide ((t, i) ∈ pendsSet t mask) = bit mask i := by simp [mem_pendsSet hi]
  refine ⟨_, exec_evPendSet reach free hp, fun i hi => ?_, fun i hi => ?_, fun r h1 h2 => ?_, State.occurAll_noRegs _⟩
  · rw [State.noteSw_get, State.pend_occurAll t hi, member hi]
  · rw [State.noteSw_get, State.ovr_occurAll t hi (pendsSet_nodup _ _), member hi]
  · rw [State.noteSw_rd]
    refine State.rd_occurAll_ne _ fun e he => ?_
    obtain ⟨k, -, rfl⟩ := List.mem_map.mp he
    exact ⟨h1, h2⟩

/-- A write of one of the first two words of a record. -/
theorem recordWritten {s : State} {by_ : Accessor} {t : TraderId} {n : Nat} (v : Nat) (hm : (s.trader t).moved ≠ (n + 1, s.tick))
    {word : Nat} (hw : word = 0 ∨ word = 1) :
    let s' := s.erWrite by_ t n word v
    (word = 0 → s'.get ER_CTX.PC (t.lvl n) = v % 65536 ∧ s'.get ER_CTX.TSR (t.lvl n) % 128 = v / 65536 % 128 ∧
      bit (s'.get ER_CTX.TSR (t.lvl n)) 7 = (if s.writesSup by_ then bit v 23 else bit (s.get ER_CTX.TSR (t.lvl n)) 7) ∧
      s'.get ER_CTX.PLVL (t.lvl n) = (if v / 2 ^ 24 % 8 ≤ n then v / 2 ^ 24 % 8 else s.get ER_CTX.PLVL (t.lvl n))) ∧
    (word = 1 → s'.rd ((t.lvl n).reg .ER_BANK) = v % 2048) ∧
    (∀ r : Reg, r ≠ (t.lvl n).reg (if word = 0 then .ER_CTX else .ER_BANK) → s'.rd r = s.rd r) ∧ s'.noRegs = (s.recNote t n).noRegs := by
  intro s'
  rcases hw with rfl | rfl
  · have e : s' = (s.recNote t n).ctxWrite (t.lvl n) n v (s.writesSup by_) := State.erWrite_ctx hm
    rw [e]
    refine ⟨fun _ => ⟨State.ctxWrite_PC, ?_, ?_, State.ctxWrite_PLVL⟩, fun h => absurd h (by decide), fun r hr => ?_, State.ctxWrite_noRegs⟩
    · rw [State.ctxWrite_TSR, State.ctxTsr_low]
    · rw [State.ctxWrite_TSR, State.ctxTsr_top]
      rfl
    · exact State.ctxWrite_rd_ne hr
  · have e : s' = (s.recNote t n).wr ((t.lvl n).reg .ER_BANK) (bits v 10 0) := State.erWrite_bank hm
    rw [e]
    refine ⟨fun h => absurd h (by decide), fun _ => ?_, fun r hr => State.rd_wr_ne _ _ hr, rfl⟩
    rw [State.rd_wr_self, bits_eq_div, Nat.pow_zero, Nat.div_one]
    exact Nat.mod_eq_of_lt (by omega)

theorem recordWrites (s : State) (by_ : Accessor) (t : TraderId) (n word : Nat) (v : Word) (reach : s.reachesEvents by_ t = true)
    (free : s.holdsWord by_ t.h t.s = none) (hp : s.portOpen (accPort by_) = true) :
    ((s.trader t).moved = (n + 1, s.tick) → exec (.erRecordWrite by_ t n word v) s = .next s) ∧
    ((s.trader t).moved ≠ (n + 1, s.tick) → ∃ s', exec (.erRecordWrite by_ t n word v) s = .next s' ∧
      (word = 0 → s'.get ER_CTX.PC (t.lvl n) = v.toNat % 65536 ∧
        s'.get ER_CTX.TSR (t.lvl n) % 128 = v.toNat / 65536 % 128 ∧
        bit (s'.get ER_CTX.TSR (t.lvl n)) 7 = (if s.writesSup by_ then bit v.toNat 23 else bit (s.get ER_CTX.TSR (t.lvl n)) 7) ∧
        s'.get ER_CTX.PLVL (t.lvl n) =
          (if v.toNat / 2 ^ 24 % 8 ≤ n then v.toNat / 2 ^ 24 % 8 else s.get ER_CTX.PLVL (t.lvl n))) ∧
      (word = 1 → s'.rd ((t.lvl n).reg .ER_BANK) = v.toNat % 2048) ∧ (2 ≤ word → s' = s) ∧
      (∀ r : Reg, r ≠ (t.lvl n).reg (if word = 0 then .ER_CTX else .ER_BANK) → s'.rd r = s.rd r) ∧
      { s'.noRegs with traders := s.traders } = s.noRegs ∧
      ∀ u, { s'.trader u with recWas := (s.trader u).recWas } = s.trader u) := by
  rw [exec_erRecordWrite reach free hp]
  refine ⟨fun hm => by rw [State.erWrite_of_moved (.inr hm)], fun hm => ⟨_, rfl, ?_⟩⟩
  by_cases hw : 2 ≤ word
  · rw [State.erWrite_of_moved (.inl hw)]
    exact ⟨by omega, by omega, fun _ => rfl, fun r _ => rfl, rfl, fun u => rfl⟩
  · obtain ⟨ctx, bank, regs, rest⟩ := recordWritten (by_ := by_) v.toNat hm (word := word) (by omega)
    refine ⟨ctx, bank, fun h => absurd h hw, regs, ?_, fun u => ?_⟩
    · rw [rest]
      rfl
    · have : (s.erWrite by_ t n word v.toNat).trader u = (s.recNote t n).trader u :=
        (congrArg (fun x : State => x.trader u) rest :)
      obtain ⟨x, e⟩ := s.recNote_trader t n u
      rw [this, e]

/-- Settles O17: each exec is one update of the trader or one list of occurrences, and the record words are those of `State.ctxWrite`. -/
theorem landingsAndEventRegisters : Obligations.LandingsAndEventRegisters := by
  refine ⟨?_, ?_, budgetOverrunRaised, kicksRaised, pendingSet, ?_⟩
  · intro s t due h l rest tr hm idle come
    exact exec_mulProductLand hm idle (State.slotCome_iff.mpr come)
  · intro s t e rest tr u hq idle come
    refine ⟨max tr.slot e.due, _, ?_, or_and_eq_right (if tr.scSet.1 = max tr.slot e.due then tr.scSet.2 else 0) e.flags⟩
    rw [exec_scaleResultLand hq idle (State.slotCome_iff.mpr come), State.scClean_eq]
    rfl
  · intro s by_ t n word v _ _ reach free hp
    exact recordWrites s by_ t n word v reach free hp

end Sys2Proof.Proofs
end

section
/-! SUPPORT. The instruction memories and the cache of a stall (R71 to R78): what a step over the traders of a stall leaves, which loop buffers
stay, the exchange of the pages, and the fill of a line. -/

namespace Sys2Proof.Machine

variable {s : State} {t : TraderId} {h f : Nat}

/-! ## One step for each trader of a list -/

/-- A state without its traders. -/
def State.sansTraders (s : State) : State := { s with traders := [] }

section

variable {s' : State}

theorem State.rd_of_sansTraders (e : s'.sansTraders = s.sansTraders) (q : Reg) : s'.rd q = s.rd q := (congrArg (fun x => x.rd q) e :)

theorem State.get_of_sansTraders (e : s'.sansTraders = s.sansTraders) (g : Field) (i : Ix) : s'.get g i = s.get g i :=
  State.get_of_rd (State.rd_of_sansTraders e _)

theorem State.mem_of_sansTraders (e : s'.sansTraders = s.sansTraders) : s'.mem = s.mem := (congrArg State.mem e :)

theorem State.stall_of_sansTraders (e : s'.sansTraders = s.sansTraders) (h f : Nat) : s'.stall h f = s.stall h f :=
  (congrArg (fun x => x.stall h f) e :)

theorem State.faults_of_sansTraders (e : s'.sansTraders = s.sansTraders) : s'.faults = s.faults := (congrArg State.faults e :)

end

/-- A step for each trader of a list, where each step changes its own trader and nothing else. -/
theorem forAll_perTrader {step : TraderId → State → State} {g : TraderId → Trader → Trader} {x : State}
    (rest : ∀ t a, (step t a).sansTraders = a.sansTraders)
    (own : ∀ t a, a.sansTraders = x → (step t a).trader t = g t (a.trader t))
    (other : ∀ t u a, u ≠ t → (step t a).trader u = a.trader u) {l : List TraderId} (hl : l.Nodup) (hs : s.sansTraders = x) :
    (forAll l step s).sansTraders = x ∧ ∀ u, (forAll l step s).trader u = if u ∈ l then g u (s.trader u) else s.trader u := by
  induction l generalizing s with
  | nil => exact ⟨hs, fun u => rfl⟩
  | cons t l ih =>
    rw [List.nodup_cons] at hl
    obtain ⟨htail, hu⟩ := ih hl.2 ((rest t s).trans hs)
    refine ⟨htail, fun u => (hu u).trans ?_⟩
    by_cases e : u = t
    · subst e
      simp [hl.1, own u s hs]
    · simp [e, other t u s e]

theorem State.upd_trader_self (t : TraderId) (f : Trader → Trader) : (s.upd t f).trader t = f (s.trader t) := State.trader_self _ _ _

theorem State.upd_trader_ne {u : TraderId} (e : u ≠ t) (f : Trader → Trader) : (s.upd t f).trader u = s.trader u := State.trader_ne _ _ _ _ e

theorem tradersOf_nodup (h f : Nat) : (tradersOf h f).Nodup := List.nodup_range.map fun a b e => by simpa using e

theorem mem_tradersOf {u : TraderId} : u ∈ tradersOf h f ↔ u.h = h ∧ u.s = f ∧ u.t < 16 := by
  cases u
  simp only [tradersOf, List.mem_map, List.mem_range, TraderId.mk.injEq]
  constructor
  · rintro ⟨a, ha, rfl, rfl, rfl⟩
    exact ⟨rfl, rfl, ha⟩
  · rintro ⟨rfl, rfl, ha⟩
    exact ⟨_, ha, rfl, rfl, rfl⟩

theorem mk_mem_tradersOf {n : Nat} (hn : n < 16) : (⟨h, f, n⟩ : TraderId) ∈ tradersOf h f := mem_tradersOf.mpr ⟨rfl, rfl, hn⟩

theorem State.allStopped_iff (hf : f ≤ 8) : s.allStopped h f = true ↔ ∀ n < 16, (s.trader ⟨h, f, n⟩).running = false := by
  simp [State.allStopped, tradersOf, Nat.not_lt.mpr hf]

theorem Part.stalls_le (p : Part) : p.stalls ≤ 9 := by
  unfold Part.stalls
  split <;> decide

theorem State.stall_le_of_reaches {by_ : Accessor} (reach : s.reachesStall by_ h f = true) : f ≤ 8 := by
  simp only [State.reachesStall, State.inStall, Bool.and_eq_true, decide_eq_true_eq] at reach
  have := s.part.stalls_le
  omega

/-! ## Loop buffers that are discarded (R74) -/

/-- A trader whose loop buffer is discarded when `p` holds of it. -/
def Trader.dropBuf (tr : Trader) (p : LoopBuf → Bool) : Trader :=
  match tr.lbuf with
  | some b => if p b then { tr with lbuf := none } else tr
  | none => tr

theorem Trader.dropBuf_lbuf {tr : Trader} {p : LoopBuf → Bool} {b : LoopBuf} (hb : (tr.dropBuf p).lbuf = some b) : p b = false := by
  unfold Trader.dropBuf at hb
  split at hb
  case h_1 c hc =>
    split at hb
    · cases hb
    · rw [hc, Option.some.injEq] at hb
      exact hb ▸ Bool.eq_false_iff.mpr ‹_›
  case h_2 hn =>
    rw [hn] at hb
    cases hb

/-- One step of `State.dropBufs`. -/
def State.dropBufOf (p : LoopBuf → Bool) (t : TraderId) (s : State) : State :=
  match (s.trader t).lbuf with
  | some b => if p b then s.upd t (fun tr => { tr with lbuf := none }) else s
  | none => s

theorem State.dropBufOf_cases (p : LoopBuf → Bool) (t : TraderId) (s : State) :
    s.dropBufOf p t = s ∧ (s.trader t).dropBuf p = s.trader t ∨
      s.dropBufOf p t = s.setTrader t ((s.trader t).dropBuf p) := by
  unfold State.dropBufOf Trader.dropBuf
  cases (s.trader t).lbuf with
  | none => exact .inl ⟨rfl, rfl⟩
  | some b =>
    cases hp : p b with
    | true => exact .inr (by simp only [hp, if_true]; rfl)
    | false => exact .inl (by simp [hp])

theorem State.dropBufs_spec (s : State) (h f : Nat) (p : LoopBuf → Bool) : (s.dropBufs h f p).sansTraders = s.sansTraders ∧
    ∀ u, (s.dropBufs h f p).trader u = if u ∈ tradersOf h f then (s.trader u).dropBuf p else s.trader u := by
  refine forAll_perTrader (step := State.dropBufOf p) (g := fun _ tr => tr.dropBuf p) (fun t a => ?_) (fun t a _ => ?_) (fun t u a e => ?_)
    (tradersOf_nodup h f) rfl <;> rcases a.dropBufOf_cases p t with ⟨e1, e2⟩ | e1 <;> rw [e1]
  · rfl
  · exact e2.symm
  · exact State.trader_self _ _ _
  · exact State.trader_ne _ _ _ _ e

theorem State.dropBufs_sansTraders (p : LoopBuf → Bool) : (s.dropBufs h f p).sansTraders = s.sansTraders := (s.dropBufs_spec h f p).1

theorem State.dropBufs_lbuf {p : LoopBuf → Bool} {n : Nat} (hn : n < 16) {b : LoopBuf}
    (hb : ((s.dropBufs h f p).trader ⟨h, f, n⟩).lbuf = some b) : p b = false := by
  rw [(s.dropBufs_spec h f p).2, if_pos (mk_mem_tradersOf hn)] at hb
  exact Trader.dropBuf_lbuf hb

/-! ## The pages (R71) -/

theorem State.get_set_page (b : Bool) : (s.set STL_CTRL.PAGE_SEL (ix h f) b).page h f = s.page h f :=
  State.get_set_beside (by decide) _ _ _

theorem State.exchangePages_page (hp : s.page h f < 2) : (s.exchangePages h f).page h f = 1 - s.page h f := by
  unfold State.exchangePages
  rw [State.page, State.get_of_sansTraders (State.dropBufs_sansTraders _), State.get_put_self _ _ _ _ (by decide) (by decide)]
  exact Nat.mod_eq_of_lt (by show _ < 2; omega)

theorem State.exchangePages_is {g : Field} (hg : g.Beside STL_STATUS.PAGE) (i : Ix) : (s.exchangePages h f).is g i = s.is g i := by
  rw [State.is, State.exchangePages, State.get_of_sansTraders (State.dropBufs_sansTraders _), State.get_put_beside hg]
  rfl

theorem State.exchangePages_regsBut : s.regsBut (s.exchangePages h f) [(ix h f).reg .STL_STATUS] := fun q hq => by
  rw [State.exchangePages, State.rd_of_sansTraders (State.dropBufs_sansTraders _)]
  exact State.regsBut_put _ _ _ (List.mem_singleton.mpr rfl) q hq

theorem State.exchangePages_mem : (s.exchangePages h f).mem = s.mem :=
  State.mem_of_sansTraders (s' := s.exchangePages h f) (s := s.put STL_STATUS.PAGE (ix h f) (1 - s.page h f)) (State.dropBufs_sansTraders _)

theorem State.exchangePages_lbuf {n : Nat} (hn : n < 16) : ((s.exchangePages h f).trader ⟨h, f, n⟩).lbuf = none :=
  Option.eq_none_iff_forall_ne_some.mpr fun _ hb => Bool.noConfusion (State.dropBufs_lbuf (p := fun _ => true) hn hb)

theorem exec_pageSel {by_ : Accessor} {page : Bool} (reach : s.reachesStall by_ h f = true) (free : s.holdsWord by_ h f = none)
    (hp : s.portOpen (accPort by_) = true) : exec (.pageSel by_ h f page) s = .next (s.pageSel h f page) := by
  change (.next (State.byPort ..) : Out) = _
  rw [free, Option.isSome_none, State.byPort_open hp, if_pos reach]

theorem State.pageSel_same {page : Bool} (late : (s.stall h f).swapEnd ≤ s.tick) (e : b2n page = s.page h f) :
    s.pageSel h f page = s.set STL_CTRL.PAGE_SEL (ix h f) page := by
  rw [State.pageSel, if_neg (Nat.not_lt.mpr late), if_pos e]

theorem State.pageSel_exchanges {page : Bool} (late : (s.stall h f).swapEnd ≤ s.tick) (e : b2n page ≠ s.page h f) (st : s.allStopped h f = true) :
    s.pageSel h f page = (s.set STL_CTRL.PAGE_SEL (ix h f) page).exchangePages h f := by
  rw [State.pageSel, if_neg (Nat.not_lt.mpr late), if_neg e, if_pos st]

theorem State.pageSel_refused {page : Bool} (late : (s.stall h f).swapEnd ≤ s.tick) (e : b2n page ≠ s.page h f) (st : ¬ s.allStopped h f = true) :
    s.pageSel h f page = s.set STL_STATUS.PAGE_REFUSED (ix h f) true := by
  rw [State.pageSel, if_neg (Nat.not_lt.mpr late), if_neg e, if_neg st]

end Sys2Proof.Machine

namespace Sys2Proof.Proofs

open Sys2Proof.Machine

theorem pagesExchange : Claims.ImemPages := by
  intro s by_ h f page reach free hp late hpage i
  refine ⟨_, exec_pageSel reach free hp, ?_⟩
  have stopped := State.allStopped_iff (s := s) (h := h) (State.stall_le_of_reaches reach)
  have ctrl : i.reg .STL_CTRL ∈ [i.reg .STL_CTRL, i.reg .STL_STATUS] := by simp
  have status : i.reg .STL_STATUS ∈ [i.reg .STL_CTRL, i.reg .STL_STATUS] := by simp
  by_cases e : b2n page = s.page h f
  · rw [State.pageSel_same late e]
    exact ⟨⟨fun _ => ⟨State.is_set_self _ _ _ _ rfl (by decide), State.get_set_page _, rfl⟩, fun n => absurd e n, fun n => absurd e n⟩, rfl,
      State.regsBut_set _ _ _ ctrl⟩
  · by_cases st : s.allStopped h f = true
    · rw [State.pageSel_exchanges late e st]
      refine ⟨⟨fun n => absurd n e, fun _ _ => ⟨?_, ?_, fun n hn => State.exchangePages_lbuf hn⟩, fun _ n => absurd (stopped.mp st) n⟩,
        State.exchangePages_mem, ?_⟩
      · rw [State.exchangePages_is (by decide)]
        exact State.is_set_self _ _ _ _ rfl (by decide)
      · rw [State.exchangePages_page (by rwa [State.get_set_page]), State.get_set_page]
        have : b2n page < 2 := by cases page <;> decide
        omega
      · exact (State.regsBut_set _ _ _ ctrl).trans (State.exchangePages_regsBut.mono fun _ hm => List.mem_singleton.mp hm ▸ status)
    · rw [State.pageSel_refused late e st]
      exact ⟨⟨fun n => absurd n e, fun _ n => absurd (stopped.mpr n) st, fun _ _ => ⟨State.is_set_self _ _ _ _ rfl (by decide),
        State.get_set_beside (by decide) _ _ _, State.is_set_beside (by decide) _ _ _, rfl⟩⟩, rfl, State.regsBut_set _ _ _ status⟩

end Sys2Proof.Proofs

/-! ## Chits change no other part of the state -/

namespace Sys2Proof.Machine

variable {s : State} {t : TraderId} {h f line : Nat}

/-- From `s` to `s'` nothing changes but the chits and their counts of lost ones. -/
structure State.OnlyChits (s s' : State) : Prop where
  rest : { s'.noRegs with chits := s.chits } = s.noRegs
  rd : ∀ q : Reg, q.name ≠ .CR_LOST → s'.rd q = s.rd q

theorem State.raiseOn_onlyChits (ring : Nat) (id : ChitId) (data till : Nat) (ends : Bool) : s.OnlyChits (s.raiseOn ring id data till ends) := by
  have lost : s.OnlyChits (s.count CR_LOST.COUNT (ix ring)) := ⟨rfl, fun q hq => State.rd_put_ne (fun e => hq (congrArg Reg.name e)) _⟩
  unfold State.raiseOn
  dsimp only
  split
  · split
    · exact lost
    · exact ⟨rfl, fun q _ => rfl⟩
  · split
    · split
      · exact lost
      · exact ⟨rfl, fun q _ => rfl⟩
    · exact ⟨rfl, fun q _ => rfl⟩

theorem State.hallChit_onlyChits (h ty low data till job key : Nat) : s.OnlyChits (s.hallChit h ty low data till job key) :=
  State.raiseOn_onlyChits _ _ _ _ _

/-- An uncorrectable error is recorded in a register and told by a chit. -/
theorem State.uncorrectable_same (s : State) (h array addr : Nat) : let s' := s.uncorrectable h array addr true
    s'.traders = s.traders ∧ s'.stalls = s.stalls ∧ s'.mem = s.mem ∧ s'.faults = s.faults := by
  have rest := (State.hallChit_onlyChits (s := s.wr ((ix h).reg .FT_UNC_ADDR) (array <<< 56 + addr % 2 ^ 52)) h 0x21 array (addr % 2 ^ 52)
    s.tick 0 0).rest
  exact ⟨(congrArg State.traders rest :), (congrArg State.stalls rest :), (congrArg State.mem rest :), (congrArg State.faults rest :)⟩

/-! ## The cache is invalidated (R78) -/

theorem exec_inval {by_ : Accessor} (reach : s.reachesStall by_ h f = true) (free : s.holdsWord by_ h f = none)
    (hp : s.portOpen (accPort by_) = true) : exec (.inval by_ h f) s = .next (s.invalidate h f) := by
  change (.next (State.byPort ..) : Out) = _
  rw [free, Option.isSome_none, State.byPort_open hp, if_pos reach]

/-- What an invalidation does before it discards loop buffers. -/
def State.emptied (s : State) (h f : Nat) : State :=
  let u := s.setStall h f { s.stall h f with lines := [], inval := true }
  State.set { u with ecc := Tab.delIf u.ecc (fun w => w.1 == 3 && w.2 / 0x100000 == h * 16 + f) } STL_ICACHE.INVAL_BUSY (ix h f) true

theorem State.invalidate_eq :
    s.invalidate h f = (s.emptied h f).dropBufs h f (fun b => decide (0x2000 ≤ b.le ∨ b.le < b.ls)) := rfl

theorem State.invalidate_sansTraders : (s.invalidate h f).sansTraders = (s.emptied h f).sansTraders := State.dropBufs_sansTraders _

theorem State.emptied_stall : (s.emptied h f).stall h f = { s.stall h f with lines := [], inval := true } := State.stall_self _ _ _ _

/-! ## A line is filled (R76, R77) -/

/-- The traders of a stall whose fetch waits for a line. -/
def State.waiters (s : State) (h f line : Nat) : List TraderId :=
  (tradersOf h f).filter (fun t =>
    (s.trader t).missing && decide (0x2000 ≤ (s.trader t).pc) && s.codeAddr t (s.trader t).pc / 64 * 64 == line)

theorem State.waiters_nodup : (s.waiters h f line).Nodup := (tradersOf_nodup h f).filter _

theorem State.mem_waiters {n : Nat} (hn : n < 16) (miss : (s.trader ⟨h, f, n⟩).missing = true) (pc : 0x2000 ≤ (s.trader ⟨h, f, n⟩).pc)
    (hl : s.codeAddr ⟨h, f, n⟩ (s.trader ⟨h, f, n⟩).pc / 64 * 64 = line) : ⟨h, f, n⟩ ∈ s.waiters h f line :=
  List.mem_filter.mpr ⟨mk_mem_tradersOf hn, by simp [miss, pc, hl]⟩

/-- The line buffer of a stall has gone, and its read of hall memory is granted. -/
def State.filling (s : State) (h f line : Nat) : State :=
  ((s.setStall h f { s.stall h f with fill := none }).set STL_STATUS.FILL (ix h f) false).granted h f line 64

/-- A trader has the word of its fetch from a line. -/
def State.fetches (bs : List Byte) (t : TraderId) (s : State) : State :=
  s.upd t (fun tr => { tr with missing := false, fetched := some (tr.pc, field bs (s.codeAddr t tr.pc % 64) 4), badFill := false })

/-- A trader has the mark of a fetch that failed. -/
def State.fetchBreaks (t : TraderId) (s : State) : State :=
  s.upd t (fun tr => { tr with missing := false, fetched := some (tr.pc, 0), badFill := true })

/-- A line stands in the cache of a stall. -/
def State.allocates (s : State) (h f line : Nat) (bs : List Byte) : State :=
  let way := (s.stall h f).victim (line / 64 % 64)
  let u := forAll (List.range 16) (fun k s => s.wordClean (icacheWord h f (line + 4 * k))) s
  let others := (s.stall h f).lines.filter (fun l => !(l.set == line / 64 % 64 && l.way == way))
  (u.setStall h f { s.stall h f with lines := ⟨line / 64 % 64, way, line, bs⟩ :: others }).usedWay h f (line / 64 % 64) way

theorem State.granted_stall (h m a n h' f' : Nat) : (s.granted h m a n).stall h' f' = s.stall h' f' := by
  unfold State.granted
  split <;> rfl

theorem State.granted_rd {q : Reg} (hq : q.name ≠ .HL_GRANT) (h m a n : Nat) : (s.granted h m a n).rd q = s.rd q := by
  unfold State.granted
  split
  · rfl
  · exact State.rd_put_ne (fun e => hq (congrArg Reg.name e)) _

theorem State.filling_stall : (s.filling h f line).stall h f = { s.stall h f with fill := none } := by
  rw [State.filling, State.granted_stall]
  exact State.stall_self _ _ _ _

theorem State.filling_trader (u : TraderId) : (s.filling h f line).trader u = s.trader u := State.granted_trader _ _ _ _ _ _

theorem State.filling_mem : (s.filling h f line).mem = s.mem := State.granted_mem _ _ _ _ _

theorem State.filling_faults : (s.filling h f line).faults = s.faults := State.granted_faults _ _ _ _ _

theorem State.filling_rd {q : Reg} (h1 : q.name ≠ .HL_GRANT) (h2 : q.name ≠ .STL_STATUS) : (s.filling h f line).rd q = s.rd q := by
  rw [State.filling, State.granted_rd h1]
  exact State.rd_set_ne (fun e => h2 (congrArg Reg.name e)) _

theorem State.filling_FILL : (s.filling h f line).is STL_STATUS.FILL (ix h f) = false := by
  rw [State.filling, State.is_of_rd (State.granted_rd (show RegName.STL_STATUS ≠ _ by decide) _ _ _ _)]
  exact State.is_set_self _ _ _ _ rfl (by decide)

theorem State.filling_errorIn (a : Arr) (o n : Nat) : (s.filling h f line).errorIn a o n = s.errorIn a o n := State.granted_errorIn _ _ _ _ _ _ _ _

theorem State.filling_bytesAt (a : Arr) (o n : Nat) : (s.filling h f line).bytesAt a o n = s.bytesAt a o n := State.granted_bytesAt _ _ _ _ _ _ _ _

theorem State.codeAddr_of_sansTraders {s' : State} (e : s'.sansTraders = s.sansTraders) (t : TraderId) (pc : Nat) :
    s'.codeAddr t pc = s.codeAddr t pc := by
  simp only [State.codeAddr, State.get_of_sansTraders e]

theorem State.fetches_spec (s : State) (bs : List Byte) {l : List TraderId} (hl : l.Nodup) :
    (forAll l (State.fetches bs) s).sansTraders = s.sansTraders ∧ ∀ u ∈ l, (forAll l (State.fetches bs) s).trader u =
      { s.trader u with missing := false, fetched := some ((s.trader u).pc, field bs (s.codeAddr u (s.trader u).pc % 64) 4), badFill := false } := by
  obtain ⟨rest, each⟩ := forAll_perTrader (s := s) (step := State.fetches bs) (g := fun t tr =>
      { tr with missing := false, fetched := some (tr.pc, field bs (s.codeAddr t tr.pc % 64) 4), badFill := false })
    (fun t a => rfl) (fun t a e => by rw [State.fetches, State.upd_trader_self, State.codeAddr_of_sansTraders e])
    (fun t u a e => State.upd_trader_ne e _) hl rfl
  exact ⟨rest, fun u hu => by rw [each, if_pos hu]⟩

theorem State.fetchBreaks_spec (s : State) {l : List TraderId} (hl : l.Nodup) :
    (forAll l State.fetchBreaks s).sansTraders = s.sansTraders ∧ ∀ u ∈ l, (forAll l State.fetchBreaks s).trader u =
      { s.trader u with missing := false, fetched := some ((s.trader u).pc, 0), badFill := true } := by
  obtain ⟨rest, each⟩ := forAll_perTrader (s := s) (step := State.fetchBreaks) (g := fun _ tr =>
      { tr with missing := false, fetched := some (tr.pc, 0), badFill := true })
    (fun t a => rfl) (fun t a e => State.upd_trader_self _ _) (fun t u a e => State.upd_trader_ne e _) hl rfl
  exact ⟨rest, fun u hu => by rw [each, if_pos hu]⟩

/-- A line that has come without an error stands in the cache where the cache takes lines. -/
def State.takesLine (s : State) (h f line : Nat) (bs : List Byte) : State :=
  if s.is STL_ICACHE.EN (ix h f) && !(s.stall h f).inval then s.allocates h f line bs else s

theorem State.takesLine_on {bs : List Byte} (en : s.is STL_ICACHE.EN (ix h f) = true) (hi : (s.stall h f).inval = false) :
    s.takesLine h f line bs = s.allocates h f line bs := if_pos (by simp [en, hi])

theorem State.lineFill_sound (hfill : (s.stall h f).fill = some line) (he : s.errorIn (.hallMem h) line 64 = none) :
    s.lineFill h f .ok = (forAll (s.waiters h f line) (State.fetches (s.bytesAt (.hallMem h) line 64)) (s.filling h f line)).takesLine h f line
      (s.bytesAt (.hallMem h) line 64) := by
  have he' := (State.filling_errorIn (s := s) (h := h) (f := f) (line := line) (.hallMem h) line 64).trans he
  have hb := State.filling_bytesAt (s := s) (h := h) (f := f) (line := line) (.hallMem h) line 64
  rw [← hb]
  unfold State.filling at he' ⊢
  unfold State.lineFill
  rw [hfill]
  dsimp only
  rw [he']
  simp only [reduceCtorEq, if_false, or_self, State.collided, MemOutcome.words, if_true]
  rfl

theorem State.lineFill_bad (hfill : (s.stall h f).fill = some line) (he : s.errorIn (.hallMem h) line 64 = some true) :
    s.lineFill h f .ok = forAll (s.waiters h f line) State.fetchBreaks ((s.filling h f line).uncorrectable h 9 line true) := by
  have he' := (State.filling_errorIn (s := s) (h := h) (f := f) (line := line) (.hallMem h) line 64).trans he
  unfold State.filling at he' ⊢
  unfold State.lineFill
  rw [hfill]
  dsimp only
  rw [he']
  simp only [Option.some.injEq, Bool.true_eq_false, if_false, if_true, true_or]
  rfl

theorem bits_one_lt (b k : Nat) : bits b k k < 2 := by
  have := bits_eq_div b k k
  rw [Nat.add_sub_cancel_left, Nat.pow_one] at this
  omega

theorem plruVictim_lt (b : Nat) : plruVictim b < 4 := by
  have := bits_one_lt b (1 + b % 2)
  unfold plruVictim
  omega

/-- A way of a set that holds no line. -/
def Stall.free (st : Stall) (set way : Nat) : Prop := ∀ l ∈ st.lines, l.set = set → l.way ≠ way

theorem Stall.free_iff {st : Stall} {set way : Nat} : (!st.lines.any (fun l => l.set == set && l.way == way)) = true ↔ st.free set way := by
  simp [Stall.free]

/-- The way of a fill is one of the four, and one without a line while there is one (R76). -/
theorem Stall.victim_spec (st : Stall) (set : Nat) : st.victim set < 4 ∧ ∀ v < 4, st.free set v → st.free set (st.victim set) := by
  unfold Stall.victim
  cases hf : (List.range 4).find? (fun w => !st.lines.any (fun l => l.set == set && l.way == w)) with
  | none =>
    refine ⟨plruVictim_lt _, fun v hv free => ?_⟩
    exact absurd (Stall.free_iff.mpr free) (List.find?_eq_none.mp hf v (List.mem_range.mpr hv))
  | some w =>
    have free := List.find?_some hf
    exact ⟨List.mem_range.mp (List.mem_of_find?_eq_some hf), fun _ _ _ => Stall.free_iff.mp free⟩

theorem forAll_wordClean {α : Type} (l : List α) (w : α → Nat × Nat) (s : State) :
    ∃ e, forAll l (fun k s => s.wordClean (w k)) s = { s with ecc := e } := by
  induction l generalizing s with
  | nil => exact ⟨s.ecc, rfl⟩
  | cons k l ih => exact ih (s.wordClean (w k))

theorem State.setStall_setStall (h f : Nat) (a b : Stall) : (s.setStall h f a).setStall h f b = s.setStall h f b := by
  simp only [State.setStall, Tab.set_set]

/-- The line that a fill brings stands before the others of the cache, less the one that its way held. -/
def Stall.withLine (st : Stall) (line : Nat) (bs : List Byte) : List ILine :=
  ⟨line / 64 % 64, st.victim (line / 64 % 64), line, bs⟩ ::
    st.lines.filter (fun l => !(l.set == line / 64 % 64 && l.way == st.victim (line / 64 % 64)))

theorem State.allocates_eq (s : State) (h f line : Nat) (bs : List Byte) : ∃ e p, s.allocates h f line bs =
    State.setStall { s with ecc := e } h f { s.stall h f with lines := (s.stall h f).withLine line bs, plru := p } := by
  obtain ⟨e, he⟩ := forAll_wordClean (List.range 16) (fun k => icacheWord h f (line + 4 * k)) s
  refine ⟨e, Tab.set (s.stall h f).plru (line / 64 % 64)
    (plruUse (Tab.get (s.stall h f).plru (line / 64 % 64) 0) ((s.stall h f).victim (line / 64 % 64))), ?_⟩
  unfold State.allocates
  dsimp only
  rw [he, State.usedWay, State.stall_self, State.setStall_setStall]
  rfl

theorem exec_icacheLineFill {o : MemOutcome} (hc : s.clearing = false) (hf : (s.lineFill h f o).faults = []) :
    exec (.icacheLineFill h f o) s = .next (s.lineFill h f o) := by
  change execIcacheLineFill h f o s = _
  rw [execIcacheLineFill, hc, if_neg Bool.false_ne_true, State.settle_of_noFaults hf]

theorem exec_icacheInvalEnd (hi : (s.stall h f).inval = true) : exec (.icacheInvalEnd h f) s =
    .next ((s.setStall h f { s.stall h f with inval := false }).set STL_ICACHE.INVAL_BUSY (ix h f) false) := by
  change execIcacheInvalEnd h f s = _
  rw [execIcacheInvalEnd, if_pos hi]

end Sys2Proof.Machine

namespace Sys2Proof.Proofs

open Sys2Proof.Machine

theorem cacheInvalidated (s : State) (by_ : Accessor) (h f : Nat) (reach : s.reachesStall by_ h f = true) (free : s.holdsWord by_ h f = none)
    (hp : s.portOpen (accPort by_) = true) : ∃ s', exec (.inval by_ h f) s = .next s' ∧ (s'.stall h f).lines = [] ∧
    (s'.stall h f).inval = true ∧ s'.is STL_ICACHE.INVAL_BUSY (ix h f) = true ∧ s.regsBut s' [(ix h f).reg .STL_ICACHE] ∧
    (∀ n < 16, ∀ b, (s'.trader ⟨h, f, n⟩).lbuf = some b → b.le < 0x2000 ∧ b.ls ≤ b.le) ∧ s'.mem = s.mem := by
  have rest := State.invalidate_sansTraders (s := s) (h := h) (f := f)
  have stall := (State.stall_of_sansTraders rest h f).trans State.emptied_stall
  refine ⟨_, exec_inval reach free hp, by rw [stall], by rw [stall], ?_, fun q hq => ?_, fun n hn b hb => ?_, (State.mem_of_sansTraders rest :)⟩
  · rw [State.is_of_rd (State.rd_of_sansTraders rest _)]
    exact State.is_set_self _ _ _ _ rfl (by decide)
  · rw [State.rd_of_sansTraders rest]
    exact State.rd_set_ne (fun e => hq (List.mem_singleton.mpr e)) _
  · rw [State.invalidate_eq] at hb
    have := State.dropBufs_lbuf hn hb
    simp only [decide_eq_false_iff_not] at this
    omega

theorem invalidationEnds (s : State) (h f : Nat) (hi : (s.stall h f).inval = true) : ∃ s', exec (.icacheInvalEnd h f) s = .next s' ∧
    s'.stall h f = { s.stall h f with inval := false } ∧ s'.is STL_ICACHE.INVAL_BUSY (ix h f) = false ∧
    s.regsBut s' [(ix h f).reg .STL_ICACHE] ∧ { s'.noRegs with stalls := s.stalls } = s.noRegs :=
  ⟨_, exec_icacheInvalEnd hi, State.stall_self _ _ _ _, State.is_set_self _ _ _ _ rfl (by decide),
    State.regsBut_set (s := s.setStall h f { s.stall h f with inval := false }) _ _ _ (List.mem_singleton.mpr rfl), rfl⟩

theorem lineFilled (s : State) (h f line : Nat) (hfill : (s.stall h f).fill = some line) (he : s.errorIn (.hallMem h) line 64 = none)
    (hc : s.clearing = false) (en : s.is STL_ICACHE.EN (ix h f) = true) (hi : (s.stall h f).inval = false) (quiet : s.faults = []) :
    ∃ s' way, exec (.icacheLineFill h f .ok) s = .next s' ∧ (s'.stall h f).fill = none ∧ s'.is STL_STATUS.FILL (ix h f) = false ∧
      way < 4 ∧ (∀ v < 4, (∀ l ∈ (s.stall h f).lines, l.set = line / 64 % 64 → l.way ≠ v) →
        ∀ l ∈ (s.stall h f).lines, l.set = line / 64 % 64 → l.way ≠ way) ∧
      (s'.stall h f).lines = ⟨line / 64 % 64, way, line, s.bytesAt (.hallMem h) line 64⟩ ::
        (s.stall h f).lines.filter (fun l => !(l.set == line / 64 % 64 && l.way == way)) ∧
      (∀ n < 16, let t : TraderId := ⟨h, f, n⟩
        let tr := s.trader t
        tr.missing = true → 0x2000 ≤ tr.pc → s.codeAddr t tr.pc / 64 * 64 = line →
        s'.trader t = { tr with badFill := false, missing := false, fetched := some (tr.pc,
          field (s.bytesAt (.hallMem h) line 64) (s.codeAddr t tr.pc % 64) 4) }) ∧ s'.mem = s.mem := by
  obtain ⟨rest, each⟩ := (s.filling h f line).fetches_spec (s.bytesAt (.hallMem h) line 64) (State.waiters_nodup (s := s) (h := h) (f := f) (line := line))
  have fills := State.lineFill_sound hfill he
  generalize forAll (s.waiters h f line) (State.fetches (s.bytesAt (.hallMem h) line 64)) (s.filling h f line) = u at rest each fills
  have stall : u.stall h f = { s.stall h f with fill := none } := (State.stall_of_sansTraders rest h f).trans State.filling_stall
  have icache : RegName.STL_ICACHE ≠ .HL_GRANT ∧ RegName.STL_ICACHE ≠ .STL_STATUS := by decide
  have enU : u.is STL_ICACHE.EN (ix h f) = true := by
    rw [State.is_of_rd (State.rd_of_sansTraders rest _), ← en]
    exact State.is_of_rd (State.filling_rd icache.1 icache.2)
  rw [State.takesLine_on enU (by rw [stall]; exact hi)] at fills
  obtain ⟨e, p, alloc⟩ := u.allocates_eq h f line (s.bytesAt (.hallMem h) line 64)
  rw [alloc] at fills
  have same : (s.lineFill h f .ok).stall h f = { u.stall h f with lines := (u.stall h f).withLine line (s.bytesAt (.hallMem h) line 64), plru := p } := by
    rw [fills]
    exact State.stall_self _ _ _ _
  obtain ⟨lt, free⟩ := (s.stall h f).victim_spec (line / 64 % 64)
  refine ⟨s.lineFill h f .ok, (s.stall h f).victim (line / 64 % 64), exec_icacheLineFill hc ?_, ?_, ?_, lt, free, ?_, ?_, ?_⟩
  · rw [fills]
    exact (State.faults_of_sansTraders rest).trans (State.filling_faults.trans quiet)
  · rw [same, stall]
  · rw [fills]
    exact (State.is_of_rd (State.rd_of_sansTraders rest _)).trans State.filling_FILL
  · rw [same, stall]
    rfl
  · intro n hn t tr miss pc hl
    have addr : (s.filling h f line).codeAddr t tr.pc = s.codeAddr t tr.pc := by
      have base : RegName.STL_CODE_BASE ≠ .HL_GRANT ∧ RegName.STL_CODE_BASE ≠ .STL_STATUS := by decide
      rw [State.codeAddr, State.get_of_rd (r := STL_CODE_BASE.BASE) (State.filling_rd (by exact base.1) (by exact base.2))]
      rfl
    have got := each t (State.mem_waiters hn miss pc hl)
    rw [State.filling_trader, addr] at got
    rw [fills]
    exact got
  · rw [fills]
    exact (State.mem_of_sansTraders rest).trans State.filling_mem

theorem badLineDropped (s : State) (h f line : Nat) (hfill : (s.stall h f).fill = some line)
    (he : s.errorIn (.hallMem h) line 64 = some true) (hc : s.clearing = false) (quiet : s.faults = []) :
    ∃ s', exec (.icacheLineFill h f .ok) s = .next s' ∧ (s'.stall h f).fill = none ∧ (s'.stall h f).lines = (s.stall h f).lines ∧
      (∀ n < 16, let tr := s.trader ⟨h, f, n⟩
        tr.missing = true → 0x2000 ≤ tr.pc → s.codeAddr ⟨h, f, n⟩ tr.pc / 64 * 64 = line →
        s'.trader ⟨h, f, n⟩ = { tr with badFill := true, missing := false, fetched := some (tr.pc, 0) }) ∧ s'.mem = s.mem := by
  obtain ⟨rest, each⟩ := ((s.filling h f line).uncorrectable h 9 line true).fetchBreaks_spec (State.waiters_nodup (s := s) (h := h) (f := f) (line := line))
  obtain ⟨traders, stalls, mem, faults⟩ := (s.filling h f line).uncorrectable_same h 9 line
  have stall : (s.lineFill h f .ok).stall h f = { s.stall h f with fill := none } := by
    rw [State.lineFill_bad hfill he, State.stall_of_sansTraders rest, State.stall, stalls]
    exact State.filling_stall
  refine ⟨s.lineFill h f .ok, exec_icacheLineFill hc ?_, by rw [stall], by rw [stall], ?_, ?_⟩
  · rw [State.lineFill_bad hfill he, State.faults_of_sansTraders rest]
    exact faults.trans (State.filling_faults.trans quiet)
  · intro n hn tr miss pc hl
    have got := each _ (State.mem_waiters hn miss pc hl)
    have tr0 : ((s.filling h f line).uncorrectable h 9 line true).trader ⟨h, f, n⟩ = tr := by
      rw [State.trader, traders]
      exact State.filling_trader _
    rw [tr0] at got
    rw [State.lineFill_bad hfill he]
    exact got
  · rw [State.lineFill_bad hfill he, State.mem_of_sansTraders rest]
    exact mem.trans State.filling_mem

/-- Settles O33: the loop buffers and the waiting fetches of a stall are one step for each of its traders, and a fill takes the way of
`Stall.victim`. -/
theorem imemPagesAndCache : Obligations.ImemPagesAndCache :=
  ⟨pagesExchange, cacheInvalidated, invalidationEnds, lineFilled, badLineDropped⟩

end Sys2Proof.Proofs
end

section
/-! SUPPORT. Host writes of the memories of the window (R72, R321): the array and the offset that take the bytes. -/

namespace Sys2Proof.Machine

variable {s : State} {p h f page off : Nat} {data : List Byte}

/-! ## IMEM (R72) -/

theorem State.mirror_imem_unpaired (hp : s.get FT_LOCKSTEP.PAIR (ix h) = 0) : s.mirror (.imem h f page) = none := by
  have : bit 0 (f / 2) = false := by rw [bit_testBit, Nat.zero_testBit]
  simp [State.mirror, hp, this]

theorem State.storeS_unpaired (hp : s.get FT_LOCKSTEP.PAIR (ix h) = 0) :
    s.storeS (.imem h f page) off data = s.store (.imem h f page) off data := by
  rw [State.storeS, State.mirror_imem_unpaired hp]

theorem State.store_read {a : Arr} (wf : s.mem.wf = true) (y : Nat) : Memory.read (s.store a off data).mem y =
    if a.base + off ≤ y ∧ y < a.base + off + data.length then (data[y - (a.base + off)]?).getD 0 else Memory.read s.mem y :=
  Memory.read_writeBytes _ _ _ wf

/-- A word written into IMEM changes traders by their loop buffers alone. -/
theorem State.imemWord_sansTraders (hp : s.get FT_LOCKSTEP.PAIR (ix h) = 0) :
    (s.imemWord h f page off data).sansTraders = (s.store (.imem h f page) off data).sansTraders := by
  rw [State.imemWord, State.storeS_unpaired hp]
  split
  · exact State.dropBufs_sansTraders _
  · rfl

theorem State.imemWord_lbuf (hpg : page = s.page h f) (hp : s.get FT_LOCKSTEP.PAIR (ix h) = 0) {n : Nat} (hn : n < 16) {b : LoopBuf}
    (hb : ((s.imemWord h f page off data).trader ⟨h, f, n⟩).lbuf = some b) : b.holds (off / 4) = false := by
  rw [State.imemWord, State.storeS_unpaired hp] at hb
  rw [if_pos (by exact hpg)] at hb
  exact State.dropBufs_lbuf hn hb

theorem exec_imemWrite (hh : h < s.part.halls) (hf : f < s.part.stalls) (free : s.memHeld (.imem h f page off) = false)
    (hp : s.portOpen p = true) (hpage : page < 2) (aligned : off % 4 = 0) (inside : off + 4 ≤ 0x8000) (len : data.length = 4) :
    exec (.imemWrite p h f page off data) s = .next (s.imemWord h f page off data) := by
  have stall : s.inStall h f = true := by simp [State.inStall, State.inHall, hh, hf]
  change (.next (State.byPort ..) : Out) = _
  rw [free, State.byPort_open hp, State.winMemWrite, stall, if_neg (by decide), State.imemWrite, if_pos ⟨len, aligned, inside, hpage⟩]

/-! ## Hall memory (R321) -/

theorem Part.halls_le (p : Part) : p.halls ≤ 8 := by
  unfold Part.halls
  split <;> decide

theorem winMem_hall (hh : h < 8) (ho : off < 0x400000) : winMem (0x2000000 + 0x400000 * h + off) = some (.hall h off) := by
  have place : (0x2000000 + 0x400000 * h + off - 0x2000000) / 0x400000 = h ∧ (0x2000000 + 0x400000 * h + off) % 0x400000 = off := by omega
  rw [winMem, if_pos (by omega), if_pos (by omega), place.1, place.2]

theorem exec_windowMemoryWrite_hall (hp : s.portOpen p = true) (hh : h < s.part.halls) (hc : s.clearing = false)
    (ho : off + data.length ≤ 0x400000) (h1 : 1 ≤ data.length) (h64 : data.length ≤ 64) :
    exec (.windowMemoryWrite p (0x2000000 + 0x400000 * h + off) data) s =
      .next ((s.granted h 15 off data.length).store (.hallMem h) off data) := by
  have place := winMem_hall (h := h) (off := off) (by have := s.part.halls_le; omega) (by omega)
  have free : (some (WinMem.hall h off)).any s.memHeld = false := by simp [State.memHeld, hc]
  change execWindowMemoryWrite _ _ _ _ = _
  rw [execWindowMemoryWrite, place, free, State.byPort_open hp]
  exact congrArg _ (if_pos ⟨hh, h1, h64, ho⟩)

end Sys2Proof.Machine

namespace Sys2Proof.Proofs

open Sys2Proof.Machine

theorem windowWrites : Claims.WindowWrites := by
  constructor
  · intro s p h f page off data hinv hh hf _ pair free hp hpage aligned inside len
    have rest := State.imemWord_sansTraders (s := s) (h := h) (f := f) (page := page) (off := off) (data := data) pair
    refine ⟨_, exec_imemWrite hh hf free hp hpage aligned inside len, fun y => ?_, fun e n hn b hb => State.imemWord_lbuf e pair hn hb,
      (congrArg State.regs rest :)⟩
    rw [State.mem_of_sansTraders rest, State.store_read hinv.mem, len]
  · intro s p o h data hinv hp hh hc ho h1 h64
    refine ⟨_, exec_windowMemoryWrite_hall hp hh hc ho h1 h64, fun y => ?_, fun q hq => ?_, ?_⟩
    · have wf : (s.granted h 15 o data.length).mem.wf = true := by
        rw [State.granted_mem]
        exact hinv.mem
      rw [State.store_read wf, State.granted_mem]
    · obtain ⟨v, e | e⟩ := s.exists_granted h 15 o data.length <;> rw [e]
      · exact State.regsBut_wr _ v (List.mem_singleton.mpr rfl) q hq
      · rfl
    · obtain ⟨v, e | e⟩ := s.exists_granted h 15 o data.length <;> rw [e] <;> rfl

end Sys2Proof.Proofs
end

section
/-! SUPPORT. Lockstep pairs (R401) and releases of holds (R373, R406): in a walk over the pairs or the pins of a hall only some steps act. -/

namespace Sys2Proof.Machine

variable {s : State} {p h : Nat}

/-! ## A walk in which one step acts -/

theorem forAll_append {α σ : Type} (xs ys : List α) (f : α → σ → σ) (s : σ) : forAll (xs ++ ys) f s = forAll ys f (forAll xs f s) :=
  List.foldl_append ..

theorem forAll_of_fixed {α σ : Type} {xs : List α} {f : α → σ → σ} {s : σ} (hx : ∀ x ∈ xs, f x s = s) : forAll xs f s = s := by
  induction xs with
  | nil => rfl
  | cons x xs ih =>
    rw [List.forall_mem_cons] at hx
    exact (congrArg (forAll xs f) hx.1).trans (ih hx.2)

/-- A walk along a list in which only `a` changes the state. -/
theorem forAll_of_one {α σ : Type} {xs : List α} {f : α → σ → σ} {s : σ} {a : α} (hn : xs.Nodup) (ha : a ∈ xs)
    (before : ∀ x ∈ xs, x ≠ a → f x s = s) (after : ∀ x ∈ xs, x ≠ a → f x (f a s) = f a s) : forAll xs f s = f a s := by
  obtain ⟨ys, zs, rfl⟩ := List.append_of_mem ha
  have hd := List.nodup_append.mp hn
  have left : ∀ y ∈ ys, y ≠ a := fun y hy => hd.2.2 y hy a (List.mem_cons_self ..)
  have right : ∀ z ∈ zs, z ≠ a := fun z hz e => (List.nodup_cons.mp hd.2.1).1 (e ▸ hz)
  rw [forAll_append, forAll_of_fixed fun y hy => before y (List.mem_append_left _ hy) (left y hy)]
  exact forAll_of_fixed (xs := zs) fun z hz => after z (List.mem_append_right _ (List.mem_cons_of_mem _ hz)) (right z hz)

/-! ## Lockstep pairs -/

theorem bit_or_two_pow (x i j : Nat) : bit (x ||| 2 ^ j) i = (bit x i || decide (j = i)) := by
  simp only [bit_testBit, Nat.testBit_or, Nat.testBit_two_pow]

theorem or_two_pow_of_clear : ∀ x < 16, ∀ j < 4, bit x j = false → (x ||| 2 ^ j) % 16 = x + 2 ^ j := by decide

/-- A pair of stalls becomes a lockstep pair: the odd stall is its checker. -/
def State.pairs (s : State) (h j : Nat) : State :=
  ((s.put FT_LOCKSTEP.PAIR (ix h) (s.get FT_LOCKSTEP.PAIR (ix h) ||| 2 ^ j)).put STL_SELF.ROLE (ix h (2 * j + 1)) 0xE).put
    FT_STALL.STATE (ix h (2 * j + 1)) 4

/-- What a write of FT_LOCKSTEP does to pair `j`. -/
def State.lockstepStep (h v j : Nat) (s : State) : State :=
  let old := s.get FT_LOCKSTEP.PAIR (ix h)
  if bit old j = bit v j then s
  else if s.allStopped h (2 * j) && s.allStopped h (2 * j + 1) then
    if bit v j then
      let s := s.put FT_LOCKSTEP.PAIR (ix h) (old ||| 2 ^ j)
      if s.get FT_STALL.STATE (ix h (2 * j + 1)) = 3 then s else (s.put STL_SELF.ROLE (ix h (2 * j + 1)) 0xE).put FT_STALL.STATE (ix h (2 * j + 1)) 4
    else
      let s := (s.put FT_LOCKSTEP.PAIR (ix h) (old &&& (15 - 2 ^ j))).copyPair h (2 * j)
      if s.get FT_STALL.STATE (ix h (2 * j + 1)) = 3 then s
      else (s.put STL_SELF.ROLE (ix h (2 * j + 1)) (2 * j + 1)).put FT_STALL.STATE (ix h (2 * j + 1)) 0
  else s.set FT_HSTATUS.LS_REFUSED (ix h) true

theorem State.lockstepWrite_eq (s : State) (h v : Nat) : s.lockstepWrite h v = forAll [0, 1, 2, 3] (State.lockstepStep h v) s := rfl

theorem State.lockstepStep_same {v j : Nat} (e : bit (s.get FT_LOCKSTEP.PAIR (ix h)) j = bit v j) : s.lockstepStep h v j = s := if_pos e

theorem State.lockstepStep_pairs {v j : Nat} (clear : bit (s.get FT_LOCKSTEP.PAIR (ix h)) j = false) (set : bit v j = true)
    (even : s.allStopped h (2 * j) = true) (odd : s.allStopped h (2 * j + 1) = true)
    (works : s.get FT_STALL.STATE (ix h (2 * j + 1)) ≠ 3) : s.lockstepStep h v j = s.pairs h j := by
  have differ : ¬ bit (s.get FT_LOCKSTEP.PAIR (ix h)) j = bit v j := by
    rw [clear, set]
    exact Bool.false_ne_true
  rw [State.lockstepStep, if_neg differ, if_pos (by rw [even, odd]; rfl), if_pos set]
  exact if_neg (by rwa [State.get_put_beside (by decide)])

theorem State.pairs_PAIR {j : Nat} (hj : j < 4) (clear : bit (s.get FT_LOCKSTEP.PAIR (ix h)) j = false) :
    (s.pairs h j).get FT_LOCKSTEP.PAIR (ix h) = s.get FT_LOCKSTEP.PAIR (ix h) + 2 ^ j := by
  rw [State.pairs, State.get_put_beside (by decide), State.get_put_beside (by decide), State.get_put_self _ _ _ _ (by decide) (by decide)]
  exact or_two_pow_of_clear _ (s.get_lt _ _) j hj clear

theorem State.pairs_bit {i j : Nat} (hi : i < 4) (hij : i ≠ j) :
    bit ((s.pairs h j).get FT_LOCKSTEP.PAIR (ix h)) i = bit (s.get FT_LOCKSTEP.PAIR (ix h)) i := by
  rw [State.pairs, State.get_put_beside (by decide), State.get_put_beside (by decide), State.get_put_self _ _ _ _ (by decide) (by decide),
    bit_testBit, Nat.testBit_mod_two_pow, ← bit_testBit, bit_or_two_pow]
  simp [hij.symm, FT_LOCKSTEP.PAIR, hi]

theorem State.pairs_ROLE (j : Nat) : (s.pairs h j).get STL_SELF.ROLE (ix h (2 * j + 1)) = 0xE := by
  rw [State.pairs, State.get_put_beside (by decide)]
  exact State.get_put_self _ _ _ _ (by decide) (by decide)

theorem State.pairs_STATE (j : Nat) : (s.pairs h j).get FT_STALL.STATE (ix h (2 * j + 1)) = 4 :=
  State.get_put_self _ _ _ _ (by decide) (by decide)

theorem State.pairs_regsBut (j : Nat) :
    s.regsBut (s.pairs h j) [(ix h).reg .FT_LOCKSTEP, (ix h (2 * j + 1)).reg .STL_SELF, (ix h (2 * j + 1)).reg .FT_STALL] :=
  ((State.regsBut_put _ _ _ (by simp [FT_LOCKSTEP.PAIR])).trans (State.regsBut_put _ _ _ (by simp [STL_SELF.ROLE]))).trans
    (State.regsBut_put _ _ _ (by simp [FT_STALL.STATE]))

theorem exec_ftLockstepWrite (v : Word) (hp : s.portOpen p = true) (hh : h < s.part.halls) :
    exec (.ftLockstepWrite p h v) s = .next (s.lockstepWrite h v.toNat) := by
  change (.next (State.byPort ..) : Out) = _
  rw [State.byPort_open hp]
  exact congrArg _ (if_pos (decide_eq_true hh))

/-- A write that sets the bit of one pair whose stalls are stopped, and no other bit. -/
theorem State.lockstepWrite_pairs {v j : Nat} (hj : j < 4) (same : ∀ i < 4, i ≠ j → bit v i = bit (s.get FT_LOCKSTEP.PAIR (ix h)) i)
    (step : s.lockstepStep h v j = s.pairs h j) : s.lockstepWrite h v = s.pairs h j := by
  have lt {i : Nat} (hi : i ∈ [0, 1, 2, 3]) : i < 4 := by
    simp only [List.mem_cons, List.mem_nil_iff, or_false] at hi
    omega
  rw [State.lockstepWrite_eq, ← step]
  refine forAll_of_one (by decide) ?_ (fun i hi hij => ?_) (fun i hi hij => ?_)
  · simp only [List.mem_cons, List.mem_nil_iff, or_false]
    omega
  · exact State.lockstepStep_same (same i (lt hi) hij).symm
  · refine State.lockstepStep_same ?_
    rw [step, State.pairs_bit (lt hi) hij]
    exact (same i (lt hi) hij).symm

/-! ## Releases (R373, R406) -/

/-- From `s` to `s'` nothing changes but pins and their status, and a hold source that is clear stays clear. -/
structure State.Releases (src : Field) (h : Nat) (s s' : State) : Prop where
  rest : { s'.noRegs with pins := s.pins } = s.noRegs
  rd : ∀ q : Reg, q.name ≠ .PIN_STATUS → s'.rd q = s.rd q
  clear : ∀ j, s.is src (ix h j) = false → s'.is src (ix h j) = false

theorem State.Releases.refl (src : Field) (h : Nat) (s : State) : s.Releases src h s := ⟨rfl, fun _ _ => rfl, fun _ hj => hj⟩

theorem State.Releases.trans {src : Field} {a b c : State} (x : a.Releases src h b) (y : b.Releases src h c) : a.Releases src h c where
  rest := (congrArg (fun u : State => { u with pins := a.pins }) y.rest :).trans x.rest
  rd q hq := (y.rd q hq).trans (x.rd q hq)
  clear j hj := y.clear j (x.clear j hj)

theorem State.Releases.deferred {src : Field} {s' : State} (x : s.Releases src h s') : s'.deferred = s.deferred := (congrArg State.deferred x.rest :)

section

variable {src : Field} {i : Nat}

theorem State.freezePin_pins (s : State) (h i t : Nat) : ∃ pins, s.freezePin h i t = { s with pins := pins } := by
  unfold State.freezePin
  split
  · split
    · exact ⟨_, rfl⟩
    · exact ⟨s.pins, rfl⟩
  · exact ⟨s.pins, rfl⟩

/-- A release clears its hold source, where it was set. -/
theorem State.release_cases (s : State) (h i : Nat) (src : Field) : s.release h i src = s ∧ s.is src (ix h i) = false ∨
    ∃ pins, s.release h i src = State.set { s with pins := pins } src (ix h i) false := by
  obtain ⟨pins, frozen⟩ := s.freezePin_pins h i s.tick
  unfold State.release
  dsimp only
  rw [frozen]
  split
  case isTrue hc => exact .inl ⟨rfl, by simpa using hc⟩
  case isFalse =>
    split
    · exact .inr ⟨pins, rfl⟩
    · exact .inr ⟨Tab.set pins (h, i) _, rfl⟩

theorem State.is_set_other {b : Bool} {j k : Ix} (hjk : j ≠ k) : (s.set src k b).is src j = s.is src j := by
  refine State.is_of_rd (State.rd_set_ne (fun e => hjk ?_) b)
  cases j; cases k
  simp only [Ix.reg, Reg.mk.injEq] at e
  simp [e]

theorem State.release_spec (hs : src.reg = .PIN_STATUS ∧ src.hi = src.lo ∧ src.hi < 64) (s : State) (h i : Nat) :
    s.Releases src h (s.release h i src) ∧ (s.release h i src).is src (ix h i) = false := by
  obtain ⟨reg, one, lt⟩ := hs
  rcases s.release_cases h i src with ⟨e, clear⟩ | ⟨pins, e⟩ <;> rw [e]
  · exact ⟨.refl src h s, clear⟩
  · have off := State.is_set_self { s with pins := pins } src (ix h i) false one lt
    refine ⟨⟨rfl, fun q hq => State.rd_set_ne (fun e => hq ((congrArg Reg.name e).trans reg)) _, fun j hj => ?_⟩, off⟩
    by_cases hji : ix h j = ix h i
    · rw [hji]
      exact off
    · rw [State.is_set_other hji]
      exact hj

theorem State.unhold_of_none (hd : ∀ d ∈ s.deferred, d.1 ≠ h) (hs : src.reg = .PIN_STATUS ∧ src.hi = src.lo ∧ src.hi < 64) (i : Nat) :
    s.unhold h i src = s.release h i src := by
  have none : (s.release h i src).deferred.any (fun d => d.1 == h) = false := by
    rw [(State.release_spec hs s h i).1.deferred, List.any_eq_false]
    exact fun d hm => by simpa using hd d hm
  rw [State.unhold]
  exact if_neg (by rw [none, Bool.false_and]; exact Bool.false_ne_true)

/-- Of the pins of a list every hold source is clear afterwards. -/
theorem State.unholds_spec (hs : src.reg = .PIN_STATUS ∧ src.hi = src.lo ∧ src.hi < 64) {l : List Nat} (hd : ∀ d ∈ s.deferred, d.1 ≠ h) :
    let s' := forAll l (fun i s => if s.is src (ix h i) then s.unhold h i src else s) s
    s.Releases src h s' ∧ ∀ i ∈ l, s'.is src (ix h i) = false := by
  induction l generalizing s with
  | nil => exact ⟨.refl src h s, fun i hi => absurd hi List.not_mem_nil⟩
  | cons i l ih =>
    obtain ⟨first, off⟩ : s.Releases src h (if s.is src (ix h i) then s.unhold h i src else s) ∧
        (if s.is src (ix h i) then s.unhold h i src else s).is src (ix h i) = false := by
      split
      case isTrue =>
        rw [State.unhold_of_none hd hs]
        exact State.release_spec hs s h i
      case isFalse hc => exact ⟨.refl src h s, by simpa using hc⟩
    obtain ⟨others, clear⟩ := ih (first.deferred ▸ hd)
    refine ⟨first.trans others, fun j hj => ?_⟩
    rcases List.mem_cons.mp hj with rfl | hj
    · exact others.clear _ off
    · exact clear j hj

theorem State.releaseHall_spec (hs : src.reg = .PIN_STATUS ∧ src.hi = src.lo ∧ src.hi < 64) (hd : ∀ d ∈ s.deferred, d.1 ≠ h) :
    s.Releases src h (s.releaseHall h src) ∧ ∀ i < 128, (s.releaseHall h src).is src (ix h i) = false := by
  obtain ⟨rest, clear⟩ := State.unholds_spec (l := List.range 128) hs hd
  exact ⟨rest, fun i hi => clear i (List.mem_range.mpr hi)⟩

end

theorem exec_failRelease (hp : s.portOpen p = true) (hh : h < s.part.halls) :
    exec (.failRelease p h) s = .next (s.releaseHall h PIN_STATUS.HOLD_FAIL) := by
  change (.next (State.byPort ..) : Out) = _
  rw [State.byPort_open hp]
  exact congrArg _ (if_pos (decide_eq_true hh))

theorem exec_windRelease (hp : s.portOpen p = true) (hh : h < s.part.halls) :
    exec (.windRelease p h) s = .next (s.releaseHall h PIN_STATUS.HOLD_WIND) := by
  change (.next (State.byPort ..) : Out) = _
  rw [State.byPort_open hp]
  exact congrArg _ (if_pos (decide_eq_true hh))

end Sys2Proof.Machine

namespace Sys2Proof.Proofs

open Sys2Proof.Machine

theorem lockstepPairs (s : State) (p h j : Nat) (v : Word) (hp : s.portOpen p = true) (hj : j < 4) (hh : h < s.part.halls)
    (same : ∀ i < 4, i ≠ j → bit v.toNat i = bit (s.get FT_LOCKSTEP.PAIR (ix h)) i) (set : bit v.toNat j = true)
    (clear : bit (s.get FT_LOCKSTEP.PAIR (ix h)) j = false)
    (stopped : ∀ n < 16, (s.trader ⟨h, 2 * j, n⟩).running = false ∧ (s.trader ⟨h, 2 * j + 1, n⟩).running = false)
    (works : s.get FT_STALL.STATE (ix h (2 * j + 1)) ≠ 3) :
    ∃ s', exec (.ftLockstepWrite p h v) s = .next s' ∧ s'.get FT_LOCKSTEP.PAIR (ix h) = s.get FT_LOCKSTEP.PAIR (ix h) + 2 ^ j ∧
      s'.get STL_SELF.ROLE (ix h (2 * j + 1)) = 0xE ∧ s'.get FT_STALL.STATE (ix h (2 * j + 1)) = 4 ∧
      s.regsBut s' [(ix h).reg .FT_LOCKSTEP, (ix h (2 * j + 1)).reg .STL_SELF, (ix h (2 * j + 1)).reg .FT_STALL] ∧
      s'.noRegs = s.noRegs := by
  have even : s.allStopped h (2 * j) = true := (State.allStopped_iff (by omega)).mpr fun n hn => (stopped n hn).1
  have odd : s.allStopped h (2 * j + 1) = true := (State.allStopped_iff (by omega)).mpr fun n hn => (stopped n hn).2
  refine ⟨s.pairs h j, ?_, State.pairs_PAIR hj clear, State.pairs_ROLE j, State.pairs_STATE j, State.pairs_regsBut j, rfl⟩
  rw [exec_ftLockstepWrite v hp hh, State.lockstepWrite_pairs hj same (State.lockstepStep_pairs clear set even odd works)]

theorem holdsReleased (s : State) (p h : Nat) (hp : s.portOpen p = true) (hh : h < s.part.halls) (hd : ∀ d ∈ s.deferred, d.1 ≠ h) :
    ∃ s' s'', exec (.failRelease p h) s = .next s' ∧ exec (.windRelease p h) s = .next s'' ∧
    (∀ i < 128, s'.is PIN_STATUS.HOLD_FAIL (ix h i) = false ∧ s''.is PIN_STATUS.HOLD_WIND (ix h i) = false) ∧
    (∀ r : Reg, r.name ≠ .PIN_STATUS → s'.rd r = s.rd r ∧ s''.rd r = s.rd r) ∧
    { s'.noRegs with pins := s.pins } = s.noRegs ∧ { s''.noRegs with pins := s.pins } = s.noRegs := by
  obtain ⟨fail, failOff⟩ := State.releaseHall_spec (src := PIN_STATUS.HOLD_FAIL) (by decide) hd
  obtain ⟨wind, windOff⟩ := State.releaseHall_spec (src := PIN_STATUS.HOLD_WIND) (by decide) hd
  exact ⟨_, _, exec_failRelease hp hh, exec_windRelease hp hh, fun i hi => ⟨failOff i hi, windOff i hi⟩,
    fun r hr => ⟨fail.rd r hr, wind.rd r hr⟩, fail.rest, wind.rest⟩

end Sys2Proof.Proofs
end

section
/-! SUPPORT. A fail-over by request (R403 to R405): what the steps of its beginning leave of the causes that wait, of the states of the stalls and
of their pairs, and of traders outside the failed stall. -/

namespace Sys2Proof.Machine

variable {s : State}

/-! ## Steps that leave causes, stall states and pairs alone -/

/-- A register that tells the state of a stall or the pairs of a hall. -/
def RegName.ofFault (n : RegName) : Bool := n == .FT_STALL || n == .FT_LOCKSTEP

/-- From `s` to `s'` no cause has been registered, the states of the stalls and their pairs are as they were, and traders outside `p` too. -/
structure State.Calm (p : TraderId → Prop) (s s' : State) : Prop where
  faults : s'.faults = s.faults
  rd : ∀ q : Reg, q.name.ofFault = true → s'.rd q = s.rd q
  others : ∀ u, ¬ p u → s'.trader u = s.trader u

namespace State.Calm

variable {p p' : TraderId → Prop} {a : State}

theorem refl (p : TraderId → Prop) (s : State) : s.Calm p s := ⟨rfl, fun _ _ => rfl, fun _ _ => rfl⟩

theorem trans {b c : State} (x : a.Calm p b) (y : b.Calm p c) : a.Calm p c :=
  ⟨y.faults.trans x.faults, fun q hq => (y.rd q hq).trans (x.rd q hq), fun u hu => (y.others u hu).trans (x.others u hu)⟩

theorem mono (c : a.Calm p s) (h : ∀ u, p u → p' u) : a.Calm p' s := ⟨c.faults, c.rd, fun u hu => c.others u fun hp => hu (h u hp)⟩

theorem get (c : a.Calm p s) {f : Field} (hf : f.reg.ofFault = true) (i : Ix) : s.get f i = a.get f i := State.get_of_rd (c.rd _ hf)

/-- Parts of the state other than registers, traders and causes may change. -/
theorem other (c : a.Calm p s) {s' : State} (hf : s'.faults = s.faults := by exact rfl)
    (hr : ∀ q, s'.rd q = s.rd q := by exact fun _ => rfl) (ht : s'.traders = s.traders := by exact rfl) :
    a.Calm p s' := c.trans ⟨hf, fun q _ => hr q, fun u _ => by rw [State.trader, State.trader, ht]⟩

theorem wr (c : a.Calm p s) {r : Reg} (hr : r.name.ofFault = false := by exact rfl) {v : Nat} : a.Calm p (s.wr r v) := c.trans
  ⟨rfl, fun q hq => State.rd_wr_ne _ _ (fun e => by rw [e, hr] at hq; cases hq), fun _ _ => rfl⟩

theorem put (c : a.Calm p s) {f : Field} (hf : f.reg.ofFault = false := by exact rfl) {i : Ix} {v : Nat} : a.Calm p (s.put f i v) := c.wr hf

theorem set (c : a.Calm p s) {f : Field} (hf : f.reg.ofFault = false := by exact rfl) {i : Ix} {b : Bool} : a.Calm p (s.set f i b) :=
  (c.put hf (i := i) (v := b2n b)).other

theorem setTrader (c : a.Calm p s) {t : TraderId} (ht : p t := by exact rfl) {tr : Trader} : a.Calm p (s.setTrader t tr) := c.trans
  ⟨rfl, fun _ _ => rfl, fun _ hu => State.trader_ne _ _ _ _ fun e => hu (e ▸ ht)⟩

theorem upd (c : a.Calm p s) {t : TraderId} (ht : p t := by exact rfl) {f : Trader → Trader} : a.Calm p (s.upd t f) := c.setTrader ht

theorem forAll (c : a.Calm p s) {α : Type} {xs : List α} {f : α → State → State} (hf : ∀ x (s : State), s.Calm p (f x s)) :
    a.Calm p (Machine.forAll xs f s) := by
  induction xs generalizing s with
  | nil => exact c
  | cons x xs ih => exact ih (c.trans (hf x s))

theorem chits (c : a.Calm p s) {s' : State} (h : s.OnlyChits s') : a.Calm p s' := c.trans
  ⟨(congrArg State.faults h.rest :), fun q hq => h.rd q fun e => absurd (e ▸ hq) (by decide),
    fun u _ => (congrArg (fun x : State => x.trader u) h.rest :)⟩

end State.Calm

/-- No trader is changed. -/
def noTrader : TraderId → Prop := fun _ => False

/-! ## Swaps and pins -/

theorem State.freeMarks_calm (s : State) (w : Swap) : s.Calm noTrader (s.freeMarks w) :=
  .forAll (.refl _ s) fun _ s => .wr (.set (.other (.refl _ s)))

theorem State.jobTo_calm (s : State) (n : Nat) (st : JobState) (reason : Nat) : s.Calm noTrader (s.jobTo n st reason) := by
  unfold State.jobTo
  split
  · exact .refl _ s
  · split
    · exact .refl _ s
    · dsimp only
      split
      · exact .other (.refl _ s)
      · exact .chits (.other (.refl _ s)) (State.raiseOn_onlyChits ..)

theorem State.swapEnds_calm (s : State) (job : Nat) (st : JobState) (reason : Nat) : s.Calm noTrader (s.swapEnds job st reason) := by
  unfold State.swapEnds
  split
  · exact .refl _ s
  case h_2 w _ =>
    have ended := (s.freeMarks_calm w).trans (State.jobTo_calm _ job st reason)
    exact .forAll (.other ended) fun h s => .put (.refl _ s)

theorem State.failSwap_calm (s : State) (h role : Nat) : s.Calm noTrader (s.failSwap h role) := by
  unfold State.failSwap
  split
  · exact .put (State.swapEnds_calm _ _ _ _)
  · exact .refl _ s

theorem State.hold_calm (s : State) (h i : Nat) {src : Field} (hs : src.reg.ofFault = false) : s.Calm noTrader (s.hold h i src) := by
  obtain ⟨pins, frozen⟩ := s.freezePin_pins h i s.tick
  unfold State.hold
  dsimp only
  split
  · exact .set (.refl _ s) hs
  · refine .set (.other (.refl _ s) ?_ (fun q => ?_) ?_) hs <;> rw [State.switchOver, frozen] <;> rfl

theorem State.failHold_calm (s : State) (h f : Nat) : s.Calm noTrader (s.failHold h f) :=
  .forAll (.refl _ s) fun _ s => .forAll (.refl _ s) fun _ s => s.hold_calm _ _ rfl

/-! ## A trader stops (R329) -/

section

variable {t : TraderId}

theorem State.takeSlot_calm (s : State) (t : TraderId) : s.Calm (· = t) (s.takeSlot t) :=
  .upd (.other (.refl _ s))

theorem State.scClean_calm (s : State) (t : TraderId) (i : Nat) : s.Calm (· = t) (s.scClean t i) := by
  rw [State.scClean_eq]
  exact .other (.refl _ s)

theorem State.land_calm (s : State) (t : TraderId) : s.Calm (· = t) (s.land t) := by
  unfold State.land
  dsimp only
  split
  · exact .setTrader (.refl _ s)
  · refine .wr (.upd (.forAll (.setTrader (.refl _ s)) fun e s => ?_))
    exact s.scClean_calm t _

theorem State.ownSlot_calm (s : State) (t : TraderId) (lvl : Nat) : s.Calm (· = t) (s.ownSlot t lvl) := by
  have landed := (s.takeSlot_calm t).trans (State.land_calm _ t)
  unfold State.ownSlot State.countSlot
  split
  · exact .upd landed
  · exact landed

theorem State.moveLevel_calm (s : State) (t : TraderId) (lvl : Nat) : s.Calm (· = t) (s.moveLevel t lvl) := by
  unfold State.moveLevel
  dsimp only
  split
  · split
    · exact .upd (.wr (.wr (.refl _ s)))
    · exact .upd (.refl _ s)
  · exact .upd (.refl _ s)

theorem State.enterE2_calm (s : State) (t : TraderId) (lvl : Nat) : s.Calm (· = t) (s.enterE2 t lvl) :=
  .upd ((s.ownSlot_calm t lvl).trans (State.moveLevel_calm _ t lvl))

theorem State.exitX1_calm (s : State) (t : TraderId) (lvl : Nat) : s.Calm (· = t) (s.exitX1 t lvl) := by
  unfold State.exitX1
  exact .upd (.put ((s.moveLevel_calm t lvl).trans (State.ownSlot_calm _ t lvl)))

theorem State.exitX2_calm (s : State) (t : TraderId) (lvl : Nat) : s.Calm (· = t) (s.exitX2 t lvl) := by
  unfold State.exitX2
  exact .upd (.upd ((s.moveLevel_calm t lvl).trans (State.ownSlot_calm _ t lvl)))

theorem State.passOn_calm (s : State) (t : TraderId) : s.Calm (· = t) (s.passOn t) := by
  unfold State.passOn
  split
  case h_1 => exact s.enterE2_calm t _
  case h_2 =>
    refine .trans ?_ (State.exitX2_calm _ t _)
    split
    · exact .refl _ s
    · exact s.exitX1_calm t _
  case h_3 => exact .refl _ s

/-- A trader without a trap stops without a double fault. -/
theorem State.stopTrader_calm (trap : (s.trader t).trap = none) : s.Calm (· = t) (s.stopTrader t) := by
  unfold State.stopTrader
  dsimp only
  rw [trap]
  split
  · exact .refl _ s
  · exact .upd (s.passOn_calm t)

theorem State.stopTraders_calm {l : List TraderId} (hl : l.Nodup) (traps : ∀ t ∈ l, (s.trader t).trap = none) :
    s.Calm (· ∈ l) (forAll l (fun t s => (s.stopTrader t).upd t (fun tr => { tr with loads := [] })) s) := by
  induction l generalizing s with
  | nil => exact .refl _ s
  | cons t l ih =>
    rw [List.nodup_cons] at hl
    rw [List.forall_mem_cons] at traps
    have first : s.Calm (· = t) ((s.stopTrader t).upd t (fun tr => { tr with loads := [] })) := .upd (State.stopTrader_calm traps.1)
    refine (first.mono fun u hu => List.mem_cons.mpr (.inl hu)).trans ((ih hl.2 fun u hu => ?_).mono fun u hu => List.mem_cons_of_mem t hu)
    rw [first.others u fun e => hl.1 (e ▸ hu)]
    exact traps.2 u hu

theorem State.haltStall_calm {h f : Nat} (traps : ∀ t ∈ tradersOf h f, (s.trader t).trap = none) :
    s.Calm (· ∈ tradersOf h f) (s.haltStall h f) := State.stopTraders_calm (tradersOf_nodup h f) traps

end

/-! ## What a stall holds is given up (R279, R376) -/

theorem State.abandon_calm (s : State) (h n : Nat) : s.Calm noTrader (s.abandon h n) := by
  unfold State.abandon
  dsimp only
  refine .chits (.forAll (.forAll (.other (.forAll (.refl _ s) fun e s => ?_)) fun q s => ?_) fun q s => ?_)
    (State.hallChit_onlyChits ..)
  · exact .other (.refl _ s)
  · exact .put (.put (.refl _ s))
  · exact .put (.put (.refl _ s))

theorem State.abandonStall_calm (s : State) (h f : Nat) : s.Calm noTrader (s.abandonStall h f) :=
  .forAll (.refl _ s) fun _ s => s.abandon_calm h _

theorem State.resetRegs_calm (s : State) {c : Reg → Bool} (hc : ∀ q : Reg, q.name.ofFault = true → c q = false) :
    s.Calm noTrader (s.resetRegs c) where
  faults := rfl
  rd q hq := by
    simp only [State.rd, State.resetRegs]
    rw [Tab.find_delIf, hc q hq]
    rfl
  others _ _ := rfl

theorem State.clearStall_calm (s : State) (h f : Nat) : s.Calm (fun _ => True) (s.clearStall h f) := by
  have kept (q : Reg) (hq : q.name.ofFault = true) : (q.name.ofStall && q.a == h && q.b == f) = false := by
    have : q.name = .FT_STALL ∨ q.name = .FT_LOCKSTEP := by simpa [RegName.ofFault] using hq
    rcases this with e | e <;> rw [e] <;> rfl
  refine .other (.forAll ((s.resetRegs_calm kept).mono fun _ _ => trivial) fun t s => ?_)
  exact .setTrader (.refl _ s) trivial

/-! ## A fail-over begins (R404) -/

section

variable {h f role code : Nat}

theorem State.outOf_unpaired (unpaired : s.get FT_LOCKSTEP.PAIR (ix h) = 0) : s.outOf h f = [f] := by
  have : bit 0 (f / 2) = false := by rw [bit_testBit, Nat.zero_testBit]
  exact if_neg (by simp [unpaired, this])

/-- A stall that stops is marked failed, with the cause. -/
def State.fails (s : State) (h f code : Nat) : State := ((s.haltStall h f).put FT_STALL.STATE (ix h f) 3).put FT_STALL.CAUSE (ix h f) code

theorem State.markFailed_unpaired (unpaired : s.get FT_LOCKSTEP.PAIR (ix h) = 0) (hf : f ≠ 8) : s.markFailed h f code =
    (s.fails h f code).put FT_DSTATUS.HALLS {} ((s.fails h f code).get FT_DSTATUS.HALLS ||| 2 ^ h) := by
  have step : forAll [f] (fun x s =>
      let s := ((s.haltStall h x).put FT_STALL.STATE (ix h x) 3).put FT_STALL.CAUSE (ix h x) code
      if x = 8 then s.set FT_HSTATUS.SPARE_USED (ix h) false else s) s = s.fails h f code := if_neg hf
  rw [State.markFailed, State.outOf_unpaired unpaired, step]

theorem State.markFailed_STATE (unpaired : s.get FT_LOCKSTEP.PAIR (ix h) = 0) (hf : f ≠ 8) :
    (s.markFailed h f code).get FT_STALL.STATE (ix h f) = 3 := by
  rw [State.markFailed_unpaired unpaired hf, State.get_put_beside (by decide), State.fails, State.get_put_beside (by decide)]
  exact State.get_put_self _ _ _ _ (by decide) (by decide)

theorem State.markFailed_CAUSE (unpaired : s.get FT_LOCKSTEP.PAIR (ix h) = 0) (hf : f ≠ 8) (hc : code < 16) :
    (s.markFailed h f code).get FT_STALL.CAUSE (ix h f) = code := by
  rw [State.markFailed_unpaired unpaired hf, State.get_put_beside (by decide), State.fails, State.get_put_self _ _ _ _ (by decide) (by decide)]
  exact Nat.mod_eq_of_lt hc

theorem State.markFailed_faults (unpaired : s.get FT_LOCKSTEP.PAIR (ix h) = 0) (hf : f ≠ 8)
    (traps : ∀ t ∈ tradersOf h f, (s.trader t).trap = none) : (s.markFailed h f code).faults = s.faults := by
  rw [State.markFailed_unpaired unpaired hf]
  exact (State.haltStall_calm traps).faults

/-- Before a stall of a fail-over is marked failed its swap fails and its pins are held; then the spare is reset and what the stall holds is
given up. -/
theorem State.beginFailover_eq (s : State) (h role f code : Nat) : ∃ u v : State, s.Calm noTrader u ∧ (u.markFailed h f code).Calm (fun _ => True) v ∧
    s.beginFailover h role f code = { v with
      failovers := Tab.set v.failovers h { role := role, f := f, cause := code, at_ := s.tick, ran := s.running h f } } := by
  refine ⟨(s.failSwap h role).failHold h f, ((State.markFailed ((s.failSwap h role).failHold h f) h f code).stallReset h 8).abandonStall h f,
    (s.failSwap_calm h role).trans (State.failHold_calm _ h f), ?_, rfl⟩
  have any {a b : State} (c : a.Calm noTrader b) : a.Calm (fun _ => True) b := c.mono fun _ _ => trivial
  exact ((any (State.abandonStall_calm _ h 8)).trans (State.clearStall_calm _ h 8)).trans (any (State.abandonStall_calm _ h f))

theorem State.beginFailover_spec (unpaired : s.get FT_LOCKSTEP.PAIR (ix h) = 0) (hf : f ≠ 8) (hc : code < 16)
    (traps : ∀ t ∈ tradersOf h f, (s.trader t).trap = none) : let s' := s.beginFailover h role f code
    s'.faults = s.faults ∧ s'.failover h = some { role := role, f := f, cause := code, at_ := s.tick, ran := s.running h f } ∧
      s'.get FT_STALL.STATE (ix h f) = 3 ∧ s'.get FT_STALL.CAUSE (ix h f) = code := by
  obtain ⟨u, v, before, after, e⟩ := s.beginFailover_eq h role f code
  have unpairedU : u.get FT_LOCKSTEP.PAIR (ix h) = 0 := (before.get rfl _).trans unpaired
  have trapsU : ∀ t ∈ tradersOf h f, (u.trader t).trap = none := fun t ht => by
    rw [before.others t id]
    exact traps t ht
  intro s'
  rw [show s' = _ from e]
  refine ⟨?_, Tab.find_set_self _ _ _, ?_, ?_⟩
  · exact after.faults.trans ((State.markFailed_faults unpairedU hf trapsU).trans before.faults)
  · exact (after.get (f := FT_STALL.STATE) rfl _).trans (State.markFailed_STATE unpairedU hf)
  · exact (after.get (f := FT_STALL.CAUSE) rfl _).trans (State.markFailed_CAUSE unpairedU hf hc)

/-! ## One cause is acted on (R407) -/

/-- The causes registered, as hall, stall and code, that start a fail-over. -/
def causesOf (fs : List FaultCause) : List (Nat × Nat × Nat) :=
  fs.filterMap (fun c => match c with | .failover h f k => some (h, f, k) | .wind _ _ => none)

/-- What acting on causes does to one stall. -/
def State.actsOn (fos : List (Nat × Nat × Nat)) (h f : Nat) (s : State) : State :=
  let ks := (fos.filter (fun x => x.1 == h && x.2.1 == f)).map (fun x => x.2.2)
  if ks.isEmpty then s else s.failCause h f (ks.foldl min 6)

theorem State.settleOnce_eq (s : State) : s.settleOnce =
    forAll s.faults (fun c u => match c with | .wind c n => u.windFault c n | .failover _ _ _ => u)
      (forAll (List.range 8) (fun h u => forAll (List.range 9) (fun f u => u.actsOn (causesOf s.faults) h f) u) { s with faults := [] }) := rfl

theorem State.actsOn_other {a : Nat × Nat × Nat} {h f : Nat} (ne : ¬(h = a.1 ∧ f = a.2.1)) : s.actsOn [a] h f = s := by
  have none : (a.1 == h && a.2.1 == f) = false := by
    rw [Bool.eq_false_iff]
    intro e
    simp only [Bool.and_eq_true, beq_iff_eq] at e
    exact ne ⟨e.1.symm, e.2.symm⟩
  simp [State.actsOn, none]

theorem State.actsOn_own {h f code : Nat} (hc : code ≤ 6) : s.actsOn [(h, f, code)] h f = s.failCause h f code := by
  simp [State.actsOn, Nat.min_eq_right hc]

theorem State.settleOnce_quiet (quiet : s.faults = []) : s.settleOnce = s := by
  have same : { s with faults := [] } = s := by rw [← quiet]
  have stall (h : Nat) (u : State) : forAll (List.range 9) (fun f u => u.actsOn (causesOf []) h f) u = u := forAll_of_fixed fun f _ => rfl
  rw [State.settleOnce_eq, quiet, same, forAll_of_fixed (xs := List.range 8) fun h _ => stall h s]
  rfl

theorem State.settleOnce_one (quiet : s.faults = []) (hh : h < 8) (hf : f < 9) (hc : code ≤ 6) :
    State.settleOnce { s with faults := [.failover h f code] } = s.failCause h f code := by
  have same : { s with faults := [] } = s := by rw [← quiet]
  have inner (s : State) : forAll (List.range 9) (fun f' s => s.actsOn [(h, f, code)] h f') s = s.failCause h f code := by
    rw [← State.actsOn_own hc]
    exact forAll_of_one List.nodup_range (List.mem_range.mpr hf) (fun x _ hx => State.actsOn_other fun e => hx e.2)
      (fun x _ hx => State.actsOn_other fun e => hx e.2)
  have outer (h' : Nat) (hne : h' ≠ h) (s : State) : forAll (List.range 9) (fun f' s => s.actsOn [(h, f, code)] h' f') s = s :=
    forAll_of_fixed fun x _ => State.actsOn_other fun e => hne e.1
  rw [State.settleOnce_eq]
  refine (?_ : forAll (List.range 8) (fun h' s => forAll (List.range 9) (fun f' s => s.actsOn [(h, f, code)] h' f') s) { s with faults := [] } = _)
  rw [same, ← inner s]
  exact forAll_of_one List.nodup_range (List.mem_range.mpr hh) (fun x _ hx => outer x hx s) (fun x _ hx => outer x hx _)

theorem iter_of_fixed {σ : Type} {f : σ → σ} {s : σ} (h : f s = s) (n : Nat) : iter n f s = s := by
  induction n with
  | zero => rfl
  | succ n ih => exact (congrArg (iter n f) h).trans ih

/-- A cause registered where none waits is acted on alone. -/
theorem State.settle_one (quiet : s.faults = []) (hh : h < 8) (hf : f < 9) (hc : code ≤ 6) (after : (s.failCause h f code).faults = []) :
    State.settle { s with faults := s.faults ++ [.failover h f code] } = s.failCause h f code := by
  rw [quiet, List.nil_append]
  refine (if_neg Bool.false_ne_true).trans ?_
  rw [iter, State.settleOnce_one quiet hh hf hc]
  exact iter_of_fixed (State.settleOnce_quiet after) 7

end

/-! ## A request of a host (R403) -/

section

variable {p h f role : Nat}

/-- A cause in a stall that has a role and may fail over begins a fail-over where the spare is free. -/
theorem State.failCause_begins (awake : s.asleep = false) (there : f < s.part.stalls) (hf : f < 8)
    (unpaired : s.get FT_LOCKSTEP.PAIR (ix h) = 0) (works : s.get FT_STALL.STATE (ix h f) ≠ 3)
    (hr : s.get STL_SELF.ROLE (ix h f) = role) (h8 : role < 8) (en : s.is FT_ROLE.FO_EN (ix h role) = true)
    (spare : s.get FT_STALL.STATE (ix h 8) = 1) (idle : s.failover h = none) : s.failCause h f 6 = s.beginFailover h role f 6 := by
  have alone : ¬(f < 8 ∧ bit (s.get FT_LOCKSTEP.PAIR (ix h)) (f / 2) = true) := by
    rw [unpaired, bit_testBit, Nat.zero_testBit]
    exact fun e => Bool.false_ne_true e.2
  have on : s.causeOn h role 6 = true := rfl
  have here : ¬(s.asleep = true ∨ s.part.stalls ≤ f) := by
    rw [awake]
    exact fun e => e.elim (fun e => Bool.false_ne_true e) fun e => absurd there (Nat.not_lt.mpr e)
  have free : ¬(s.get FT_STALL.STATE (ix h 8) ≠ 1 ∨ (none : Option Failover).isSome = true) :=
    fun e => e.elim (fun e => e spare) fun e => Bool.false_ne_true e
  unfold State.failCause
  rw [if_neg alone]
  dsimp only
  rw [hr, idle, if_neg here, if_neg works, if_neg (Nat.not_le.mpr h8), on, if_neg (by decide), if_neg (Nat.ne_of_lt hf), en, if_neg (by decide)]
  exact if_neg free

theorem State.roleStall_spec (e : s.roleStall h role = some f) :
    f < s.part.stalls ∧ s.get STL_SELF.ROLE (ix h f) = role ∧ s.get FT_STALL.STATE (ix h f) ≠ 3 := by
  have holds := List.find?_some e
  simp only [Bool.and_eq_true, beq_iff_eq, bne_iff_ne] at holds
  exact ⟨List.mem_range.mp (List.mem_of_find?_eq_some e), holds⟩

theorem exec_failRequest (hp : s.portOpen p = true) (hh : h < s.part.halls) (h8 : role < 8) (e : s.roleStall h role = some f) :
    exec (.failRequest p h role) s = .next (State.settle { s with faults := s.faults ++ [.failover h f 6] }) := by
  change (.next (State.byPort ..) : Out) = _
  rw [State.byPort_open hp, State.failRole, e]
  exact congrArg _ ((if_pos (decide_eq_true hh)).trans (if_pos h8))

end

end Sys2Proof.Machine

namespace Sys2Proof.Proofs

open Sys2Proof.Machine

theorem failoverRequested (s : State) (p h role f : Nat) (h8 : role < 8) (hh : h < s.part.halls) (hr : s.roleStall h role = some f) (hf : f < 8)
    (quiet : s.faults = []) (unpaired : s.get FT_LOCKSTEP.PAIR (ix h) = 0) (en : s.is FT_ROLE.FO_EN (ix h role) = true)
    (spare : s.get FT_STALL.STATE (ix h 8) = 1) (idle : s.failover h = none) (hp : s.portOpen p = true)
    (traps : ∀ n < 16, (s.trader ⟨h, f, n⟩).trap = none) :
    ∃ s' o, exec (.failRequest p h role) s = .next s' ∧ s'.failover h = some o ∧ o.role = role ∧ o.f = f ∧ o.cause = 6 ∧
      o.at_ = s.tick ∧ o.switched = false ∧ s'.get FT_STALL.STATE (ix h f) = 3 ∧ s'.get FT_STALL.CAUSE (ix h f) = 6 := by
  obtain ⟨there, hrole, works⟩ := State.roleStall_spec hr
  have begins := State.failCause_begins (State.portOpen_iff.mp hp).1 there hf unpaired works hrole h8 en spare idle
  have none : ∀ t ∈ tradersOf h f, (s.trader t).trap = none := fun t ht => by
    obtain ⟨rfl, rfl, lt⟩ := mem_tradersOf.mp ht
    exact traps t.t lt
  obtain ⟨calm, begun, state, cause⟩ := State.beginFailover_spec (role := role) (code := 6) unpaired (Nat.ne_of_lt hf) (by decide) none
  have after : (s.failCause h f 6).faults = [] := by
    rw [begins, calm, quiet]
  refine ⟨s.beginFailover h role f 6, _, ?_, begun, rfl, rfl, rfl, rfl, rfl, state, cause⟩
  rw [exec_failRequest hp hh h8 hr, State.settle_one quiet (by have := s.part.halls_le; omega) (by omega) (by decide) after, begins]

theorem pairsAndReleases : Claims.PairsAndReleases := by
  refine ⟨?_, ?_, holdsReleased⟩
  · intro s p h j v hp hj hh old same set clear stopped _ works
    exact lockstepPairs s p h j v hp hj hh same set clear stopped works
  · intro s p h role f h8 hh hr hf quiet unpaired en spare idle _ hp _ traps
    exact failoverRequested s p h role f h8 hh hr hf quiet unpaired en spare idle hp traps

/-- Settles O34: a window write stores its bytes and discards loop buffers at most, one step of the walk over the pairs or the pins acts at a
time, and the beginning of a fail-over registers no other cause. -/
theorem windowWritesAndPairs : Obligations.WindowWritesAndPairs := ⟨windowWrites, pairsAndReleases⟩

end Sys2Proof.Proofs
end

section
/-! SUPPORT. Conditions and flags (R117, R128, R130): what the flags of a difference tell of two numbers, and the proof of O8. -/

namespace Sys2Proof.Machine

/-! ## Signed order -/

/-- Of numbers of `n` bits, the signed order is what N and V tell of their difference. -/
theorem diffOf_signed {n a b : Nat} (h : 0 < n) (ha : a < 2 ^ n) (hb : b < 2 ^ n) :
    (decide (2 ^ (n - 1) ≤ (diffOf n a b 0).1) != (diffOf n a b 0).2.2) = decide (sgn n a < sgn n b) := by
  have e := two_pow_split h
  have ei : ((2 : Int) ^ n) = 2 * (2 ^ (n - 1) : Nat) := by exact_mod_cast congrArg (Nat.cast (R := Int)) e
  have em : ((2 : Int) ^ (n - 1)) = ((2 ^ (n - 1) : Nat) : Int) := by push_cast; rfl
  have cut : (a + 2 ^ n - b - 0) % 2 ^ n = if b ≤ a then a - b else a + 2 ^ n - b := by
    split
    · rw [Nat.sub_zero, Nat.mod_eq_sub_mod (by omega), Nat.mod_eq_of_lt (by omega)]
      omega
    · exact Nat.mod_eq_of_lt (by omega)
  simp only [diffOf, overflows, cut, sgn_eq ha, sgn_eq hb, ei, em]
  generalize 2 ^ (n - 1) = m at *
  rw [Bool.eq_iff_iff, bne_iff_ne, Ne, Bool.eq_iff_iff]
  simp only [Bool.or_eq_true, decide_eq_true_eq]
  split_ifs <;> omega

theorem diffOf_eq_zero {n a b : Nat} (ha : a < 2 ^ n) (hb : b < 2 ^ n) : (diffOf n a b 0).1 = 0 ↔ a = b := by
  simp only [diffOf, Nat.sub_zero]
  by_cases h : b ≤ a
  · rw [Nat.mod_eq_sub_mod (by omega), Nat.mod_eq_of_lt (by omega)]
    omega
  · rw [Nat.mod_eq_of_lt (by omega)]
    omega

theorem sgn_inj {n a b : Nat} (ha : a < 2 ^ n) (hb : b < 2 ^ n) : sgn n a = sgn n b ↔ a = b := by
  have e : ((2 : Int) ^ n) = ((2 ^ n : Nat) : Int) := by push_cast; rfl
  rw [sgn_eq ha, sgn_eq hb, e]
  split_ifs <;> omega

/-- The conditions on two numbers are those on the flags of their difference: Z tells equality, C the unsigned order, N and V the signed one. -/
theorem condW_eq_condFl {n a b : Nat} (h : 0 < n) (ha : a < 2 ^ n) (hb : b < 2 ^ n) (c : Nat) :
    condW n c a b = condFl c (decide ((diffOf n a b 0).1 = 0)) (decide (2 ^ (n - 1) ≤ (diffOf n a b 0).1)) (diffOf n a b 0).2.1
      (diffOf n a b 0).2.2 := by
  have signed := diffOf_signed h ha hb
  have zero : decide ((diffOf n a b 0).1 = 0) = decide (a = b) := decide_eq_decide.mpr (diffOf_eq_zero ha hb)
  have same := sgn_inj ha hb
  have signed' : (decide (2 ^ (n - 1) ≤ (diffOf n a b 0).1) == (diffOf n a b 0).2.2) = decide (sgn n b ≤ sgn n a) := by
    rw [← Bool.not_not (_ == _), ← bne, signed, ← decide_not]
    exact decide_eq_decide.mpr Int.not_lt
  have borrow : (diffOf n a b 0).2.1 = decide (a < b) := rfl
  unfold condW condFl
  rw [zero, borrow, signed, signed']
  split <;> rw [Bool.eq_iff_iff] <;> simp <;> omega

end Sys2Proof.Machine

namespace Sys2Proof.Proofs

open Sys2Proof.Machine

/-- Settles O8: Z tells equality, C the unsigned order, and N and V together the signed one, for every width. -/
theorem conditionsAgreeWithFlags : Obligations.ConditionsAgreeWithFlags := by
  intro n a b c hn ha hb _ x
  exact condW_eq_condFl (by omega) ha hb c

end Sys2Proof.Proofs
end

section
/-! SUPPORT. Bytes of the stall arrays (R65, R67, R68): parts of what a range of bytes reads as, addresses of one region, and what an
access of stall RAM or the slice reads. -/

namespace Sys2Proof.Machine

variable {s : State} {t : TraderId} {w : Nat} {a : Arr} {o n : Nat}

/-! ## Bytes and the numbers that they spell -/

theorem Memory.readBytes_add (m : Memory) (x n k : Nat) : Memory.readBytes m x (n + k) = Memory.readBytes m x n ++ Memory.readBytes m (x + n) k := by
  simp [Memory.readBytes, List.range_add, Nat.add_assoc]

@[simp] theorem State.bytesAt_length (s : State) (a : Arr) (o n : Nat) : (s.bytesAt a o n).length = n := by
  simp [State.bytesAt, Memory.readBytes]

theorem State.bytesAt_add (s : State) (a : Arr) (o n k : Nat) : s.bytesAt a o (n + k) = s.bytesAt a o n ++ s.bytesAt a (o + n) k := by
  rw [State.bytesAt, Memory.readBytes_add, Nat.add_assoc]
  rfl

theorem State.take_bytesAt (s : State) (a : Arr) (o n k : Nat) : (s.bytesAt a o n).take k = s.bytesAt a o (min k n) := by
  rcases Nat.le_total k n with h | h
  · obtain ⟨j, rfl⟩ := Nat.exists_eq_add_of_le h
    rw [State.bytesAt_add, List.take_left' (State.bytesAt_length ..), Nat.min_eq_left h]
  · rw [List.take_of_length_le (by simpa using h), Nat.min_eq_right h]

theorem State.drop_bytesAt (s : State) (a : Arr) (o : Nat) {n k : Nat} (h : k ≤ n) : (s.bytesAt a o n).drop k = s.bytesAt a (o + k) (n - k) := by
  obtain ⟨j, rfl⟩ := Nat.exists_eq_add_of_le h
  rw [State.bytesAt_add, List.drop_left' (State.bytesAt_length ..), Nat.add_sub_cancel_left]

theorem toBytes_ofBytes (bs : List Byte) : toBytes bs.length (ofBytes bs) = bs := by
  induction bs with
  | nil => rfl
  | cons b bs ih =>
    have low : BitVec.ofNat 8 (b.toNat + 256 * ofBytes bs) = b := by
      apply BitVec.eq_of_toNat_eq
      have := b.isLt
      simp only [BitVec.toNat_ofNat]
      omega
    have high : (b.toNat + 256 * ofBytes bs) / 256 = ofBytes bs := by
      have := b.isLt
      omega
    rw [List.length_cons, ofBytes, toBytes, low, high, ih]

theorem ofBytes_lt (bs : List Byte) : ofBytes bs < 256 ^ bs.length := by
  induction bs with
  | nil => exact Nat.one_pos
  | cons b bs ih =>
    have := b.isLt
    rw [ofBytes, List.length_cons, Nat.pow_succ]
    omega

theorem State.toBytes_natAt (s : State) (a : Arr) (o n : Nat) : toBytes n (s.natAt a o n) = s.bytesAt a o n := by
  have e := toBytes_ofBytes (s.bytesAt a o n)
  rwa [State.bytesAt_length] at e

/-- Bytes without an error have none in a part of them. -/
theorem State.errorIn_part {o' n' : Nat} (h : s.errorIn a o n = none) (ho : o ≤ o') (hn : o' + n' ≤ o + n) : s.errorIn a o' n' = none := by
  unfold State.errorIn at h ⊢
  dsimp only at h ⊢
  simp only [ite_eq_left_iff, reduceCtorEq, imp_false, Decidable.not_not, List.isEmpty_iff, List.filter_eq_nil_iff, Bool.and_eq_true,
    beq_iff_eq, decide_eq_true_eq] at h ⊢
  intro e he ⟨⟨code, below⟩, above⟩
  exact h e he ⟨⟨code, by omega⟩, by omega⟩

/-! ## Regions -/

theorem regionOf_ram_iff {x : Nat} : regionOf x = .ram ↔ x < 0x8000 := by
  unfold regionOf
  split_ifs <;> simp_all

theorem regionOf_slice_iff {x : Nat} : regionOf x = .slice ↔ 0xC000 ≤ x ∧ x < 0xE000 := by
  unfold regionOf
  split_ifs <;> simp <;> omega

theorem blkIn_iff {ea n : Nat} : blkIn ea n = true ↔ ea + n ≤ 0x8000 ∨ 0xC000 ≤ ea ∧ ea + n ≤ 0xE000 := by
  simp [blkIn]

theorem State.ramAt_shared {ea : Nat} (h : ea < 0x8000) : s.ramAt t ea = some (.shared t.h t.s, (s.trader t).bnk * 0x8000 + ea) := if_pos h

theorem State.ramAt_slice {ea : Nat} (h : 0xC000 ≤ ea) (h' : ea < 0xE000) : s.ramAt t ea = some (.slice t.h t.s t.t, ea - 0xC000) := by
  rw [State.ramAt, if_neg (by omega), if_pos ⟨h, h'⟩]

/-- The addresses of stall RAM and of the slice, and no others, have bytes of the stall. -/
theorem State.ramAt_cases {ea : Nat} (h : s.ramAt t ea = some (a, o)) : ea < 0x8000 ∨ 0xC000 ≤ ea ∧ ea < 0xE000 := by
  unfold State.ramAt at h
  split_ifs at h with h1 h2
  · exact .inl h1
  · exact .inr h2

/-- Bytes of a shared bank or of the slice stand in one array, one behind the other. -/
theorem State.ramAt_add {ea k : Nat} (h : s.ramAt t ea = some (a, o)) (hin : blkIn ea n = true) (hk : k < n) :
    s.ramAt t (ea + k) = some (a, o + k) := by
  rw [blkIn_iff] at hin
  rcases State.ramAt_cases h with lt | ⟨le, lt⟩
  · rw [State.ramAt_shared lt, Option.some.injEq, Prod.mk.injEq] at h
    rw [State.ramAt_shared (by omega), h.1, ← h.2, Nat.add_assoc]
  · rw [State.ramAt_slice le lt, Option.some.injEq, Prod.mk.injEq] at h
    rw [State.ramAt_slice (by omega) (by omega), h.1, ← h.2, Nat.sub_add_comm le]

theorem State.exists_ramAt (s : State) (t : TraderId) {ea : Nat} (hin : blkIn ea n = true) (hn : 0 < n) : ∃ a o, s.ramAt t ea = some (a, o) := by
  rcases blkIn_iff.mp hin with h | h
  · exact ⟨_, _, State.ramAt_shared (by omega)⟩
  · exact ⟨_, _, State.ramAt_slice h.1 (by omega)⟩

theorem State.region_of_ramAt {ea : Nat} (h : s.ramAt t ea = some (a, o)) : regionOf ea = .ram ∨ regionOf ea = .slice := by
  rw [regionOf_ram_iff, regionOf_slice_iff]
  exact State.ramAt_cases h

/-- An access of stall RAM or the slice that R67 allows lies in it whole. -/
theorem State.blkIn_of_ramAt {ea : Nat} (h : s.ramAt t ea = some (a, o)) (hf : addrFault ea n = 0) : blkIn ea n = true := by
  have last : regionOf (ea + n - 1) = regionOf ea := by
    unfold addrFault at hf
    split_ifs at hf with h1 h2
    exact (not_not.mp h2).symm
  rw [blkIn_iff]
  rcases State.region_of_ramAt h with e | e
  · have := regionOf_ram_iff.mp (last.trans e)
    omega
  · have := regionOf_slice_iff.mp (last.trans e)
    have := regionOf_slice_iff.mp e
    omega

/-- Where a trader reads its banks does not depend on the instruction in progress. -/
theorem State.ramAt_setTrader {tr : Trader} (hb : tr.bnk = (s.trader t).bnk) (ea : Nat) : (s.setTrader t tr).ramAt t ea = s.ramAt t ea := by
  rw [State.ramAt, State.trader_self, hb]
  rfl

/-! ## What an access reads -/

theorem State.nearAccess_ram {x : Nat × Nat} (k : List Byte → State → State) (hx : s.ramAt t x.1 = some (a, o))
    (he : s.errorIn a o x.2 = none) : s.nearAccess t w x k = k (s.bytesAt a o x.2) s := by
  simp only [State.nearAccess, hx, State.ramRead, he, State.toBytes_natAt]

end Sys2Proof.Machine
end

section
/-! SUPPORT. Attempts of instructions of several slots (R63, R127): an owned slot leaves the memory and the instruction in progress, and what an
attempt does in a slot before the last one. -/

namespace Sys2Proof.Machine

variable {s : State} {t : TraderId} {w k : Nat}

/-! ## The instruction in progress -/

theorem Trader.landIn_prog (tr : Trader) (dst : GReg) (v : Nat) : (tr.landIn dst v).prog = tr.prog := by
  cases dst with
  | p i =>
    show (tr.setP i (bit v 0)).prog = tr.prog
    unfold Trader.setP
    split <;> rfl
  | _ => rfl

theorem Trader.landLoads_prog (tr : Trader) (slot : Nat) : (tr.landLoads slot).prog = tr.prog :=
  List.foldlRecOn (motive := fun x : Trader => x.prog = tr.prog) _ _ rfl fun x hx l _ => (x.landIn_prog l.dst l.value).trans hx

theorem Trader.holdBody_prog (tr : Trader) : tr.holdBody.prog = tr.prog := by
  unfold Trader.holdBody
  split
  · rfl
  · split
    · split <;> rfl
    · rfl

theorem Trader.endLevel_prog (tr : Trader) (x n next : Nat) (done : Bool) : (tr.endLevel x n next done).1.prog = tr.prog := by
  have ends (tr : Trader) : (tr.levelEnds n).prog = tr.prog := by
    unfold Trader.levelEnds
    split
    · split
      · exact Trader.holdBody_prog _
      · rfl
    · rfl
  unfold Trader.endLevel
  split
  · rfl
  · split
    · rfl
    · exact ends _

@[simp] theorem Trader.endCheck_prog (tr : Trader) (x : Nat) : (tr.endCheck x).prog = tr.prog := by
  simp only [Trader.endCheck, Trader.endLevel_prog]

@[simp] theorem Trader.afterMem_prog (tr : Trader) (w : Nat) : (tr.afterMem w).prog = tr.prog := by
  unfold Trader.afterMem
  split
  · rfl
  · rfl
  · rfl
  · rfl
  · dsimp only
    rw [Trader.endCheck_prog]
    split <;> rfl

/-! ## What an owned slot leaves -/

theorem State.finishes_prog : ((s.finishes t).trader t).prog = (s.trader t).prog := by
  have atom (s : State) : ((s.finishAtom t).trader t).prog = (s.trader t).prog := by
    unfold State.finishAtom State.atomDone
    split
    · split
      · rw [State.upd, State.trader_self]
        dsimp only
        split
        · exact Trader.afterMem_prog _ _
        · exact (Trader.landIn_prog _ _ _).trans (Trader.afterMem_prog _ _)
      · rfl
    · rfl
  have pop (s : State) : ((s.finishPop t).trader t).prog = (s.trader t).prog := by
    unfold State.finishPop
    split
    · rw [State.upd, State.trader_self, Trader.landLoads_prog]
    · rfl
  have drain (s : State) : ((s.finishDrain t).trader t).prog = (s.trader t).prog := by
    unfold State.finishDrain
    split
    · rw [State.endCheck, State.upd_upd, State.upd, State.trader_self, Trader.endCheck_prog]
    · rfl
  rw [State.finishes, drain, pop, atom]

theorem State.finishes_mem : (s.finishes t).mem = s.mem := by
  have atom (s : State) : (s.finishAtom t).mem = s.mem := by
    unfold State.finishAtom
    split
    · split <;> rfl
    · rfl
  have pop (s : State) : (s.finishPop t).mem = s.mem := by
    unfold State.finishPop
    split <;> rfl
  have drain (s : State) : (s.finishDrain t).mem = s.mem := by
    unfold State.finishDrain
    split <;> rfl
  rw [State.finishes, drain, pop, atom]

/-- Scale registers that are written whole lose their error marks, and nothing else changes. -/
theorem State.foldl_scClean_eq (es : List ScPend) (s : State) : ∃ x, es.foldl (fun (s : State) e => s.scClean t e.dst) s = { s with ecc := x } := by
  induction es generalizing s with
  | nil => exact ⟨s.ecc, rfl⟩
  | cons e es ih =>
    obtain ⟨x, hx⟩ := ih (s.scClean t e.dst)
    rw [List.foldl_cons, hx, State.scClean_eq]
    exact ⟨x, rfl⟩

theorem State.land_mem : (s.land t).mem = s.mem := by
  unfold State.land
  dsimp only
  split
  · rfl
  · obtain ⟨x, hx⟩ := State.foldl_scClean_eq (t := t) ((s.trader t).scq.filter (fun e => decide (e.due ≤ (s.trader t).slot))) (s.setTrader t _)
    rw [hx]
    rfl

theorem State.land_prog : ((s.land t).trader t).prog = (s.trader t).prog := by
  have mul (es : List (Nat × Half × Half)) (tr : Trader) :
      (es.foldl (fun (x : Trader) e => { x with mrh := e.2.1, mrl := e.2.2 }) tr).prog = tr.prog :=
    List.foldlRecOn (motive := fun x : Trader => x.prog = tr.prog) _ _ rfl fun _ hx _ _ => hx
  have sc (es : List ScPend) (tr : Trader) : (es.foldl (fun (x : Trader) e => x.setSc e.dst e.value) tr).prog = tr.prog :=
    List.foldlRecOn (motive := fun x : Trader => x.prog = tr.prog) _ _ rfl fun _ hx _ _ => hx
  unfold State.land
  dsimp only
  split
  · rw [State.trader_self, Trader.landLoads_prog]
    exact (sc _ _).trans (mul _ _)
  · obtain ⟨x, hx⟩ := State.foldl_scClean_eq (t := t) ((s.trader t).scq.filter (fun e => decide (e.due ≤ (s.trader t).slot))) (s.setTrader t _)
    rw [hx, State.wr_trader, State.upd, State.trader_self, Trader.scFlag]
    refine (congrArg Trader.prog (State.trader_self s t _)).trans ?_
    rw [Trader.landLoads_prog]
    exact (sc _ _).trans (mul _ _)

theorem State.ownSlot_mem (lvl : Nat) : (s.ownSlot t lvl).mem = s.mem := by
  unfold State.ownSlot State.countSlot
  split <;> exact State.land_mem

theorem State.ownSlot_prog (lvl : Nat) : ((s.ownSlot t lvl).trader t).prog = (s.trader t).prog := by
  have taken : ((s.takeSlot t).trader t).prog = (s.trader t).prog := by
    rw [State.takeSlot, State.upd, State.trader_self]
    rfl
  unfold State.ownSlot State.countSlot
  split
  · rw [State.upd, State.trader_self]
    exact State.land_prog.trans taken
  · exact State.land_prog.trans taken

theorem State.took_mem : (s.took t w).mem = s.mem := by
  have used : (s.usedLine t).mem = s.mem := by
    unfold State.usedLine
    dsimp only
    split
    · rfl
    · split <;> rfl
  unfold State.took
  dsimp only
  split <;> exact used

theorem State.took_prog : ((s.took t w).trader t).prog = (s.trader t).prog := by
  obtain ⟨b, e⟩ := (s.trader t).took_eq w (s.is STL_CTRL.LBUF_EN t.st)
  rw [State.took_trader_self, e]

theorem State.final_mem (s : State) (t : TraderId) (w : Nat) : (s.final t w).mem = s.mem := by
  unfold State.final
  split
  · exact State.ownSlot_mem _
  · rw [State.took_mem, State.inSlot, State.ownSlot_mem, State.finishes_mem]

theorem State.final_prog (s : State) (t : TraderId) (w : Nat) : ((s.final t w).trader t).prog = (s.trader t).prog := by
  unfold State.final
  split
  · exact State.ownSlot_prog _
  · rw [State.took_prog, State.inSlot, State.ownSlot_prog, State.finishes_prog]

/-! ## Slots before the last one, and after it -/

/-- The state of an attempt with its instruction in progress as `p`. -/
def State.inProgress (u : State) (t : TraderId) (p : Prog) : State := u.setTrader t { u.trader t with prog := some p }

@[simp] theorem State.inProgress_trader_self (u : State) (t : TraderId) (p : Prog) :
    (u.inProgress t p).trader t = { u.trader t with prog := some p } := State.trader_self _ _ _

theorem State.Issues.begins_eq (h : s.Issues t w) (n : Nat) : s.begins t w n = (s.final t w).inProgress t { word := w, left := n - 1 } := by
  rw [State.begins, ← h.final_eq]
  rfl

/-- An attempt of the instruction in progress, in a slot before its last one, goes on with it. -/
theorem State.issue_on {p : Prog} (hc : s.canIssue t = true) (hp : (s.trader t).prog = some p) (hk : keyOf p.word = k) (hn : p.nul = false)
    (hf : p.first = false) (hl : 1 < p.left) (uses : Nat → List GReg) (body : Nat → State → State) (cost : Nat → Trader → Nat)
    (hold : Nat → State → Option Bool) (early : Nat → State → State) (hh : hold p.word (s.final t p.word) = none) :
    s.issue t k uses body cost hold early = early p.word ((s.final t p.word).inProgress t { p with left := p.left - 1 }) := by
  have hp' := (State.ownSlot_prog (s := s) (t := t) (s.cur t)).trans hp
  simp only [State.final, hp, Option.isSome_some, if_true] at hh ⊢
  simp [State.issue, State.issueOn, State.heldBy, hc, hp, hk, hn, hf, hh, Nat.not_le.mpr hl, State.upd, hp', State.inProgress]

/-- An instruction that leaves its trader as `tr`, but for the progress, is in progress no more after its last slot. -/
theorem State.ended_setTrader {u : State} {tr : Trader} (h : tr.prog = (s.trader t).prog) :
    s.ended t (u.setTrader t tr) = u.setTrader t { tr with prog := none } := by
  unfold State.ended
  split
  · exact (State.upd_setTrader u t tr (fun tr => { tr with prog := none })).symm
  case isFalse hp =>
    rw [Option.not_isSome_iff_eq_none, ← h] at hp
    rw [← hp]

end Sys2Proof.Machine
end

section
/-! SUPPORT. Loads from stall RAM and the slice (R65, R68, R112, R134) and the first slots of accesses of two slots (R63, R127): the access that an
instruction makes, its parts, and what its slots do. -/

namespace Sys2Proof.Machine

variable {s u : State} {t : TraderId} {w k : Nat} {a : Arr} {o : Nat} {m : MemForm}

/-! ## Keys and effective addresses (R112) -/

theorem fMajor_of_key {w mj mn : Nat} (hk : keyOf w = key mj mn) (h : mj < 0x39) (h' : mn < 32) : fMajor w = mj := by
  have e := keyOf_div w
  rw [hk, key] at e
  omega

theorem unsg_add_sgn (x y : Nat) : unsg 16 ((x : Int) + sgn 14 y) = (x + (sgn 14 y % 65536).toNat) % 65536 := by
  unfold unsg
  omega

theorem fOff_eq (w : Nat) : fOff w = w % 2 ^ 14 := bits_eq_div w 13 0 |>.trans (by rw [Nat.pow_zero, Nat.div_one])

theorem Trader.baseOff_eq (tr : Trader) (w : Nat) : tr.baseOff w = (tr.ar (fS1 w) + (sgn 14 (w % 2 ^ 14) % 65536).toNat) % 65536 := by
  rw [Trader.baseOff, fOff_eq, unsg_add_sgn]

theorem Trader.effAddr_eq (tr : Trader) (w : Nat) : tr.effAddr w =
    if fMode w = 1 then tr.ar (fS1 w) else if fMode w = 3 then 0xC000 + w % 2 ^ 14 else tr.baseOff w := by
  have lt : fMode w < 4 := bits_lt w 15 14
  have mode : fMode w = 0 ∨ fMode w = 1 ∨ fMode w = 2 ∨ fMode w = 3 := by omega
  rcases mode with e | e | e | e <;> simp [Trader.effAddr, e, fOff_eq]

/-! ## The accesses of an instruction (R68) -/

/-- The bytes that the first of two accesses from `ea` on has: an access of two bytes is aligned. -/
def firstLen (ea : Nat) : Nat := if ea % 2 = 0 then 2 else 1

theorem Trader.memForm_n (tr : Trader) (w : Nat) : (tr.memForm w).n = 1 ∨ (tr.memForm w).n = 2 ∨ (tr.memForm w).n = 3 := by
  unfold Trader.memForm
  split <;> simp

theorem accesses_eq {ea n : Nat} (h : n = 1 ∨ n = 2 ∨ n = 3) :
    accesses ea n = if n ≤ firstLen ea then [(ea, n)] else [(ea, firstLen ea), (ea + firstLen ea, n - firstLen ea)] := by
  rcases h with rfl | rfl | rfl <;> by_cases e : ea % 2 = 0 <;> simp [accesses, firstLen, e]

theorem accesses_two {ea n : Nat} (h : n = 1 ∨ n = 2 ∨ n = 3) (two : (accesses ea n).length = 2) :
    firstLen ea < n ∧ accesses ea n = [(ea, firstLen ea), (ea + firstLen ea, n - firstLen ea)] := by
  rw [accesses_eq h] at two ⊢
  split_ifs at two ⊢ with e
  · exact absurd two (by simp)
  · exact ⟨by omega, rfl⟩

/-- The instruction `w` of the state's trader makes the access `m`, which R67 allows, of bytes of an array of the stall without an error. -/
structure State.StallAccess (u : State) (t : TraderId) (w : Nat) (m : MemForm) (a : Arr) (o : Nat) : Prop where
  form : (u.trader t).memForm w = m
  at_ : u.ramAt t m.ea = some (a, o)
  inside : addrFault m.ea m.n = 0
  sound : u.errorIn a o m.n = none

theorem State.StallAccess.size (h : u.StallAccess t w m a o) : m.n = 1 ∨ m.n = 2 ∨ m.n = 3 := h.form ▸ Trader.memForm_n _ w

theorem State.StallAccess.region (h : u.StallAccess t w m a o) : regionOf m.ea = .ram ∨ regionOf m.ea = .slice := State.region_of_ramAt h.at_

/-- A part of such an access reads its bytes and leaves the state as it is. -/
theorem State.StallAccess.nearAccess (h : u.StallAccess t w m a o) {i n : Nat} (hn : 0 < n) (hi : i + n ≤ m.n) (k : List Byte → State → State) :
    u.nearAccess t w (m.ea + i, n) k = k (u.bytesAt a (o + i) n) u :=
  State.nearAccess_ram k (State.ramAt_add h.at_ (State.blkIn_of_ramAt h.at_ h.inside) (by omega))
    (State.errorIn_part h.sound (Nat.le_add_right o i) (by omega))

theorem State.StallAccess.nearAccess_first (h : u.StallAccess t w m a o) {n : Nat} (hn : 0 < n) (hi : n ≤ m.n) (k : List Byte → State → State) :
    u.nearAccess t w (m.ea, n) k = k (u.bytesAt a o n) u := h.nearAccess (i := 0) hn (by omega) k

theorem firstLen_pos (ea : Nat) : 0 < firstLen ea := by
  unfold firstLen
  split <;> decide

/-- The accesses that a load still makes read its bytes behind those that the first one may have read. -/
theorem State.StallAccess.nearAccesses_toRead (h : u.StallAccess t w m a o) {tr : Trader} (hg : tr.got = [] ∨ tr.got.length = firstLen m.ea)
    (k : List Byte → State → State) :
    State.nearAccesses t w k (tr.toRead m) tr.got u = k (tr.got ++ (u.bytesAt a o m.n).drop tr.got.length) u := by
  have pos := firstLen_pos m.ea
  have size := h.size
  unfold Trader.toRead
  rw [accesses_eq h.size]
  by_cases one : m.n ≤ firstLen m.ea
  · have whole := h.nearAccess_first (n := m.n) (by omega) (Nat.le_refl _)
    rcases hg with hg | hg
    · simp [one, hg, State.nearAccesses, whole]
    · have none : (u.bytesAt a o m.n).drop (firstLen m.ea) = [] := List.drop_eq_nil_of_le (by simpa using one)
      simp [one, hg, Nat.pos_iff_ne_zero.mp pos, State.nearAccesses, none]
  · have first := h.nearAccess_first (n := firstLen m.ea) pos (by omega)
    have second := h.nearAccess (i := firstLen m.ea) (n := m.n - firstLen m.ea) (by omega) (by omega)
    have rest : (u.bytesAt a o m.n).drop (firstLen m.ea) = u.bytesAt a (o + firstLen m.ea) (m.n - firstLen m.ea) :=
      State.drop_bytesAt u a o (by omega)
    rcases hg with hg | hg
    · have all : u.bytesAt a o (firstLen m.ea) ++ u.bytesAt a (o + firstLen m.ea) (m.n - firstLen m.ea) = u.bytesAt a o m.n := by
        rw [← State.bytesAt_add, Nat.add_sub_cancel' (by omega)]
      simp [one, hg, State.nearAccesses, first, second, all]
    · simp [one, hg, Nat.pos_iff_ne_zero.mp pos, State.nearAccesses, second, rest]

/-! ## Accesses of stall RAM and the slice -/

theorem State.inProgress_reads (u : State) (t : TraderId) (p : Prog) (bs : List Byte) :
    (u.inProgress t p).upd t (fun tr => { tr with prog := tr.prog.map fun (p : Prog) => { p with got := p.got ++ bs } }) =
      u.inProgress t { p with got := p.got ++ bs } :=
  (State.upd_setTrader u t { u.trader t with prog := some p } _).symm

/-- Nothing holds an access of the stall's own memory. -/
theorem State.memHold_near {u : State} (hr : regionOf ((u.trader t).memForm w).ea = .ram ∨ regionOf ((u.trader t).memForm w).ea = .slice) :
    State.memHold t w u = none := by
  unfold State.memHold
  rcases hr with e | e <;> simp [e]

/-- A load in its last slot brings the bytes of its access behind those that it has read. -/
theorem State.StallAccess.memBody_load (h : u.StallAccess t w m a o) (hs : m.store = none)
    (hg : (u.trader t).got = [] ∨ (u.trader t).got.length = firstLen m.ea) :
    State.memBody t w u = u.loaded t w (ofBytes ((u.trader t).got ++ (u.bytesAt a o m.n).drop (u.trader t).got.length)) := by
  unfold State.memBody
  dsimp only
  rw [h.form, if_neg (not_not.mpr h.inside), hs]
  unfold State.load
  rcases h.region with e | e <;> rw [e] <;> exact h.nearAccesses_toRead hg _

theorem State.StallAccess.inProgress (h : u.StallAccess t w m a o) (p : Prog) : (u.inProgress t p).StallAccess t w m a o where
  at_ := (State.ramAt_setTrader (tr := { u.trader t with prog := some p }) rfl m.ea).trans h.at_
  inside := h.inside
  sound := h.sound
  form := by
    rw [State.inProgress_trader_self]
    exact h.form

/-- A load in the first of two slots keeps the bytes of its first access. -/
theorem State.StallAccess.memEarly_load {p : Prog} (h : u.StallAccess t w m a o) (hs : m.store = none) (two : (accesses m.ea m.n).length = 2) :
    State.memEarly t w (u.inProgress t p) = u.inProgress t { p with got := p.got ++ (u.bytesAt a o m.n).take (firstLen m.ea) } := by
  obtain ⟨lt, e⟩ := accesses_two h.size two
  have h' := h.inProgress p
  rw [State.take_bytesAt, Nat.min_eq_left lt.le, ← State.inProgress_reads]
  unfold State.memEarly State.loadEarly
  dsimp only
  rw [h'.form, hs, e]
  rcases h.region with r | r <;> rw [r] <;> exact h'.nearAccess_first (firstLen_pos _) lt.le _

/-- A store in the first of two slots makes no access yet. -/
theorem State.memEarly_store (hs : ((u.trader t).memForm w).store.isSome = true) : State.memEarly t w u = u := by
  obtain ⟨v, hv⟩ := Option.isSome_iff_exists.mp hs
  simp [State.memEarly, hv]

/-! ## Forms of the access instructions -/

/-- Loads and stores of format M access their effective address. -/
theorem Trader.memForm_ea_of_format (tr : Trader) (lo : 0x20 ≤ fMajor w) (hi : fMajor w ≤ 0x26) : (tr.memForm w).ea = tr.effAddr w := by
  interval_cases e : fMajor w <;> simp [Trader.memForm, e]

/-- They change the base register in the modes 1 and 2, and make the end check. -/
theorem Trader.afterMem_of_format (tr : Trader) (lo : 0x20 ≤ fMajor w) (hi : fMajor w ≤ 0x26) : tr.afterMem w =
    (if fMode w = 1 ∨ fMode w = 2 then tr.setA (fS1 w) (tr.baseOff w) else tr).endCheck tr.pc := by
  have pc : (if fMode w = 1 ∨ fMode w = 2 then tr.setA (fS1 w) (tr.baseOff w) else tr).pc = tr.pc := by split <;> rfl
  interval_cases e : fMajor w <;> simp only [Trader.afterMem, e, pc]

/-! ## Attempts -/

/-- An attempt in the first slot of an access of two slots that nothing holds. -/
theorem State.StallAccess.memIssue_first (h : (s.final t w).StallAccess t w m a o) (hi : s.Issues t w) (hk : keyOf w = k) (uses : Nat → List GReg)
    (two : (accesses m.ea m.n).length = 2) :
    s.memIssue t k uses = .next (State.memEarly t w ((s.final t w).inProgress t { word := w, left := 1 })).settle := by
  have form : ((s.inSlot t).trader t).memForm w = m := hi.memForm_final.symm.trans h.form
  have hold : State.memHold t w (s.inSlot t) = none := State.memHold_near (by rw [form]; exact h.region)
  have cost : memCost w ((s.inSlot t).trader t) = 2 := by simp [memCost, form, h.inside, two]
  rw [State.memIssue, State.waitsIn_of_canIssue hi.can, Bool.and_false, if_neg Bool.false_ne_true, State.issue_first hi hk _ _ _ _ _ hold, cost,
    if_neg (by decide), hi.begins_eq]

/-- An attempt in the last slot of an access that nothing holds. -/
theorem State.StallAccess.memIssue_last (h : (s.final t w).StallAccess t w m a o) (hl : s.AtLast t w (accesses m.ea m.n).length) (hk : keyOf w = k)
    (uses : Nat → List GReg) : s.memIssue t k uses = .next (s.ended t (State.memBody t w (s.final t w))).settle := by
  rcases hl with ⟨hi, one⟩ | ⟨hc, p, hp, rfl, hleft, hn, hf⟩
  · have form : ((s.inSlot t).trader t).memForm w = m := hi.memForm_final.symm.trans h.form
    have hold : State.memHold t w (s.inSlot t) = none := State.memHold_near (by rw [form]; exact h.region)
    have cost : memCost w ((s.inSlot t).trader t) ≤ 1 := by simp [memCost, form, h.inside, one]
    rw [State.memIssue_eq hi hk uses hold cost, State.ended, hi.fresh]
    rfl
  · have hold : State.memHold t p.word (s.final t p.word) = none := State.memHold_near (by rw [h.form]; exact h.region)
    rw [State.memIssue, State.waitsIn_of_canIssue hc, Bool.and_false, if_neg Bool.false_ne_true,
      State.issue_last hc hp hk hn hf hleft.le _ _ _ _ _ hold]

/-- An attempt in the last slot of a load. -/
theorem State.StallAccess.load_last (h : (s.final t w).StallAccess t w m a o) (hl : s.AtLast t w (accesses m.ea m.n).length) (hk : keyOf w = k)
    (uses : Nat → List GReg) (hs : m.store = none) (hq : (s.final t w).faults = []) :
    let f := s.final t w
    let tr := f.trader t
    (tr.got = [] ∨ tr.got.length = firstLen m.ea) →
    s.memIssue t k uses = .next (f.setTrader t
      { (tr.afterMem w).landIn m.dst (ofBytes (tr.got ++ (f.bytesAt a o m.n).drop tr.got.length)) with prog := none }) := by
  intro f tr hg
  have prog (v : Nat) : ((tr.afterMem w).landIn m.dst v).prog = (s.trader t).prog := by
    rw [Trader.landIn_prog, Trader.afterMem_prog, State.final_prog]
  rw [h.memIssue_last hl hk uses, h.memBody_load hs hg, State.loaded, State.upd, h.form, State.ended_setTrader (prog _)]
  exact congrArg Host.Outcome.next (State.settle_of_noFaults hq)

end Sys2Proof.Machine

namespace Sys2Proof.Proofs

open Sys2Proof.Machine

theorem effectiveAddresses : Claims.EffectiveAddresses := by
  intro tr w hw base off mode
  have hm : fMode w = mode := bits_eq_div w 15 14
  obtain ⟨lo, hi⟩ : 0x20 ≤ fMajor w ∧ fMajor w ≤ 0x26 := by
    simp only [List.mem_cons, List.mem_nil_iff, or_false, key] at hw
    have := keyOf_div w
    omega
  constructor
  · rw [tr.memForm_ea_of_format lo hi, tr.effAddr_eq, hm, tr.baseOff_eq]
  · rw [tr.afterMem_of_format lo hi, hm, tr.baseOff_eq]

theorem loadsFromStallMemory : Claims.LoadsFromStallMemory := by
  intro s t w f tr m got hl hg a o hr hf he hq done v
  have acc : f.StallAccess t w m a o := ⟨rfl, hr, hf, he⟩
  have load {k : Nat} {dst : GReg} (hk : keyOf w = k) (uses : Nat → List GReg) (hs : m.store = none) (hd : m.dst = dst) :
      s.memIssue t k uses = done ((tr.afterMem w).landIn dst v) := hd ▸ acc.load_last hl hk uses hs hq hg
  refine ⟨fun hk => load (dst := .d (fDst w)) hk _ ?_ ?_, fun hk => load (dst := .a (fDst w)) hk _ ?_ ?_,
    fun hk => load (dst := .ac (fDst w)) hk _ ?_ ?_, fun hk => load (dst := .a (fDst w)) hk _ ?_ ?_,
    fun hk => (load (dst := .pc) hk _ ?_ ?_).trans ?_⟩
  case refine_11 =>
    have major : fMajor w = 0x2D := fMajor_of_keyOf hk (by decide)
    have two : m.n = 2 := by simp [m, Trader.memForm, major]
    have len : (got ++ (f.bytesAt a o m.n).drop got.length).length ≤ 2 := by
      simp only [List.length_append, List.length_drop, State.bytesAt_length, two]
      have : got.length ≤ 2 := by
        rcases hg with hg | hg <;> rw [hg]
        · exact Nat.zero_le 2
        · split <;> decide
      omega
    have small : v < 256 ^ 2 := Nat.lt_of_lt_of_le (ofBytes_lt _) (Nat.pow_le_pow_right (by decide) len)
    have after : tr.afterMem w = tr := by simp [Trader.afterMem, major]
    have cut : v % 65536 = v := Nat.mod_eq_of_lt small
    rw [after, Trader.landIn, cut]
  all_goals simp [m, Trader.memForm, fMajor_of_keyOf hk (by decide)]

theorem twoSlotAccessesBegin : Claims.TwoSlotAccessesBegin := by
  intro s t w hi f m two hf hq a o hr he first begun loads
  have acc : f.StallAccess t w m a o := ⟨rfl, hr, hf, he⟩
  have load {k : Nat} (hk : keyOf w = k) (uses : Nat → List GReg) (hs : m.store = none) : loads (s.memIssue t k uses) := by
    rw [acc.memIssue_first hi hk uses two, acc.memEarly_load hs two]
    exact congrArg Host.Outcome.next (State.settle_of_noFaults hq)
  have store {k : Nat} (hk : keyOf w = k) (uses : Nat → List GReg) (hs : m.store.isSome = true) : s.memIssue t k uses = begun [] := by
    rw [acc.memIssue_first hi hk uses two, State.memEarly_store ((congrArg (·.store.isSome) (acc.inProgress _).form).trans hs)]
    exact congrArg Host.Outcome.next (State.settle_of_noFaults hq)
  refine ⟨fun hk => load hk _ ?_, fun hk => load hk _ ?_, fun hk => load hk _ ?_, fun hk => store hk _ ?_, fun hk => store hk _ ?_,
    fun hk => store hk _ ?_, fun hk => store hk _ ?_, fun hk => store hk _ ?_⟩ <;>
    simp [m, Trader.memForm, fMajor_of_key hk (by decide) (by decide)]

/-- Settles O18: each access of stall RAM and the slice finds its bytes in one array; the first of two slots reads those of the first access, and
the last one the others. -/
theorem loadsAndTheirAddresses : Obligations.LoadsAndTheirAddresses := ⟨effectiveAddresses, loadsFromStallMemory, twoSlotAccessesBegin⟩

end Sys2Proof.Proofs
end

section
/-! SUPPORT. Block moves (R116, R135) and stores into the arrays of a stall (R65, R401): where a store is written, and what each slot of BCPY and
BFILL does. -/

namespace Sys2Proof.Machine

variable {s u : State} {t : TraderId} {w : Nat} {a : Arr} {o : Nat}

/-! ## Stores, in a lockstep pair in both stalls (R401) -/

/-- The checker's stall stands behind the even one of its pair. -/
theorem State.mirror_base {b : Arr} (h : s.mirror a = some b) : b.base = a.base + 0x80000 := by
  have copy {c d : Arr} {paired : Bool} (h : (if paired then some d else none) = some b) (e : d.base = c.base + 0x80000) :
      b.base = c.base + 0x80000 := by
    split at h
    · rw [← Option.some.inj h, e]
    · cases h
  cases a with
  | shared h' f => exact copy h (by simp only [Arr.base]; omega)
  | slice h' f n => exact copy h (by simp only [Arr.base]; omega)
  | imem h' f page => exact copy h (by simp only [Arr.base]; omega)
  | hallMem h' => cases h
  | crierPage h' c page => cases h
  | cstore h' k => cases h

/-- A byte after a store: a byte of the store in the array or in its copy, or what stood there. -/
theorem State.storeS_read {bs : List Byte} (wf : s.mem.wf = true) (hl : bs.length ≤ 0x80000) (y : Nat) :
    Memory.read (s.storeS a o bs).mem y =
      if a.base + o ≤ y ∧ y < a.base + o + bs.length then (bs[y - (a.base + o)]?).getD 0
      else if ((s.mirror a).getD a).base + o ≤ y ∧ y < ((s.mirror a).getD a).base + o + bs.length then
        (bs[y - (((s.mirror a).getD a).base + o)]?).getD 0
      else Memory.read s.mem y := by
  unfold State.storeS
  rcases hm : s.mirror a with _ | b
  · rw [Option.getD_none]
    refine (State.store_read wf y).trans ?_
    split_ifs <;> rfl
  · have base := State.mirror_base hm
    have wf' : (s.store a o bs).mem.wf = true := Memory.wf_writeBytes bs _ wf
    rw [Option.getD_some]
    dsimp only
    rw [State.store_read wf', State.store_read wf]
    by_cases ha : a.base + o ≤ y ∧ y < a.base + o + bs.length
    · have hb : ¬(b.base + o ≤ y ∧ y < b.base + o + bs.length) := by omega
      rw [if_neg hb, if_pos ha, if_pos ha]
    · rw [if_neg ha, if_neg ha]

theorem State.storeS_trader (s : State) (a : Arr) (o : Nat) (bs : List Byte) (u : TraderId) : (s.storeS a o bs).trader u = s.trader u := by
  unfold State.storeS
  split <;> rfl

theorem State.storeS_faults (s : State) (a : Arr) (o : Nat) (bs : List Byte) : (s.storeS a o bs).faults = s.faults := by
  unfold State.storeS
  split <;> rfl

/-! ## Block moves -/

theorem blkN_eq (w : Nat) : blkN w = w % 16 + 1 := by
  simp [blkN, bits_eq_div]

theorem fDst_of_key {op : Nat} (hk : keyOf w = key 0x27 op) (h : op < 32) : fDst w = op := by
  have e : keyOf w = key 0x27 (fDst w) := by simp [keyOf, fMajor_of_key hk (by decide) h]
  rw [hk, key, key] at e
  omega

/-- A block move whose blocks R116 allows. -/
structure Trader.BlkOk (tr : Trader) (w : Nat) : Prop where
  dst : blkIn (tr.ar (fS1 w)) (blkN w) = true
  src : fDst w = 0 → blkIn (tr.ar (blkSrcX w)) (blkN w) = true

theorem Trader.BlkOk.noFault {tr : Trader} (h : tr.BlkOk w) : blkFault w tr = none := by
  unfold blkFault
  dsimp only
  rw [if_neg (fun e => by simp [h.src e.1] at e), h.dst]
  rfl

theorem Trader.BlkOk.cost {tr : Trader} (h : tr.BlkOk w) : blkCost w tr = if fDst w = 0 then 1 + (blkN w + 7) / 8 else 2 := by
  simp [blkCost, h.noFault]

/-- Taking the word of a block move leaves its blocks. -/
theorem State.Issues.blkOk_inSlot (hi : s.Issues t w) (ok : ((s.final t w).trader t).BlkOk w) : ((s.inSlot t).trader t).BlkOk w := by
  obtain ⟨b, e⟩ := hi.trader_final
  rw [e] at ok
  exact ⟨ok.dst, ok.src⟩

/-- A block move begins in its first slot. -/
theorem State.issue_blkFirst {k : Nat} (hi : s.Issues t w) (hk : keyOf w = k) (ok : ((s.final t w).trader t).BlkOk w) (uses : Nat → List GReg)
    (early : Nat → State → State) : s.issue t k uses (State.blkBody t) blkCost (fun _ _ => none) early =
      early w ((s.final t w).inProgress t { word := w, left := (if fDst w = 0 then 1 + (blkN w + 7) / 8 else 2) - 1 }) := by
  have cost := (hi.blkOk_inSlot ok).cost
  have several : ¬blkCost w ((s.inSlot t).trader t) ≤ 1 := by
    rw [cost, blkN_eq]
    split <;> omega
  rw [State.issue_first hi hk _ _ _ _ _ rfl, if_neg several, hi.begins_eq, cost]

/-- A slot of BCPY before its last one reads up to eight further bytes of the source. -/
theorem State.blkEarly_eq {p : Prog} (hd : fDst w = 0) (hin : blkIn ((u.trader t).ar (blkSrcX w)) (blkN w) = true)
    (hr : u.ramAt t ((u.trader t).ar (blkSrcX w)) = some (a, o)) (he : u.errorIn a o (blkN w) = none) :
    State.blkEarly t w (u.inProgress t p) =
      u.inProgress t { p with got := p.got ++ ((u.bytesAt a o (blkN w)).drop p.got.length).take 8 } := by
  have tr := State.inProgress_trader_self u t p
  unfold State.blkEarly
  dsimp only
  rw [tr]
  have got : ({ u.trader t with prog := some p } : Trader).got = p.got := rfl
  have src : ({ u.trader t with prog := some p } : Trader).ar (blkSrcX w) = (u.trader t).ar (blkSrcX w) := rfl
  rw [got, src]
  by_cases done : blkN w ≤ p.got.length
  · rw [if_pos (.inr (by omega)), List.drop_eq_nil_of_le (by simpa using done), List.take_nil, List.append_nil]
  · have lt : p.got.length < blkN w := by omega
    have at_ := State.ramAt_add ((State.ramAt_setTrader (tr := { u.trader t with prog := some p }) rfl _).trans hr) hin lt
    have sound : (u.inProgress t p).errorIn a (o + p.got.length) (min 8 (blkN w - p.got.length)) = none :=
      State.errorIn_part he (Nat.le_add_right _ _) (by omega)
    rw [if_neg (by omega), State.drop_bytesAt _ _ _ lt.le, State.take_bytesAt, ← State.inProgress_reads]
    exact State.nearAccess_ram _ at_ sound

theorem exec_bcpy : exec (.bcpy t) s = .next (s.issue t (key 0x27) (fun w => [.a (fS1 w), .a (blkSrcX w)]) (State.blkBody t) blkCost
    (fun _ _ => none) (State.blkEarly t)).settle := rfl

theorem exec_bfill : exec (.bfill t) s = .next (s.issue t (key 0x27 1) (fun w => [.a (fS1 w), .d (blkSrcX w)]) (State.blkBody t)
    blkCost).settle := rfl

/-- The bytes that a block move writes: what BCPY has read, or the copies of BFILL. -/
def Trader.blkBytes (tr : Trader) (w : Nat) : List Byte :=
  if fDst w = 0 then tr.got else List.replicate (blkN w) (BitVec.ofNat 8 (tr.dr (blkSrcX w)))

/-- A block move in its last slot writes its bytes and goes on. -/
theorem State.blkBody_eq (ok : (u.trader t).BlkOk w) (hr : u.ramAt t ((u.trader t).ar (fS1 w)) = some (a, o)) :
    State.blkBody t w u = (u.storeS a o ((u.trader t).blkBytes w)).endCheck t := by
  simp [State.blkBody, ok.noFault, hr, Trader.blkBytes]

/-- An attempt of a block move in its last slot. -/
theorem State.issue_blkLast {k n : Nat} (hl : s.AtLast t w n) (hn : n ≠ 1) (hk : keyOf w = k) (uses : Nat → List GReg)
    (early : Nat → State → State) :
    s.issue t k uses (State.blkBody t) blkCost (fun _ _ => none) early = s.ended t (State.blkBody t w (s.final t w)) := by
  obtain ⟨hc, p, hp, rfl, hleft, hnul, hf⟩ := hl.resolve_left fun e => hn e.2
  exact State.issue_last hc hp hk hnul hf hleft.le _ _ _ _ _ rfl

/-- An instruction that makes the end check in its last slot is in progress no more. -/
theorem State.ended_endCheck {v : State} (h : v.trader t = (s.final t w).trader t) : s.ended t (v.endCheck t) =
    v.setTrader t { ((s.final t w).trader t).endCheck ((s.final t w).trader t).pc with prog := none } := by
  rw [State.endCheck, State.upd, h]
  exact State.ended_setTrader (by rw [Trader.endCheck_prog, State.final_prog])

/-- A block move that meets no fault leaves after its last slot one store, and the end check of its trader. -/
theorem State.blkLast_eq (ok : ((s.final t w).trader t).BlkOk w) (hq : (s.final t w).faults = [])
    (hr : (s.final t w).ramAt t (((s.final t w).trader t).ar (fS1 w)) = some (a, o)) :
    let tr := (s.final t w).trader t
    (s.ended t (State.blkBody t w (s.final t w))).settle =
      ((s.final t w).storeS a o (tr.blkBytes w)).setTrader t { tr.endCheck tr.pc with prog := none } := by
  rw [State.blkBody_eq ok hr, State.ended_endCheck (State.storeS_trader ..)]
  refine State.settle_of_noFaults ?_
  rw [State.setTrader_faults, State.storeS_faults, hq]

end Sys2Proof.Machine

namespace Sys2Proof.Proofs

open Sys2Proof.Machine

/-- Settles O21: each slot before the last one reads the next bytes of the source, and the last one is one store of the block. -/
theorem blockMoves : Obligations.BlockMoves := by
  intro s t w inv n f tr src dst slots moves hdst hq
  have size : blkN w = n := blkN_eq w
  have calm (p : Prog) : (f.inProgress t p).settle = f.inProgress t p := State.settle_of_noFaults hq
  have last {v : Nat → Byte} (ok : tr.BlkOk w) (len : (tr.blkBytes w).length = n) (hv : ∀ i < n, ((tr.blkBytes w)[i]?).getD 0 = v i) :
      moves (.next (s.ended t (State.blkBody t w f)).settle) v := by
    obtain ⟨d, o, hr⟩ := f.exists_ramAt t hdst (Nat.succ_pos _)
    have same := State.storeS_trader f d o (tr.blkBytes w)
    have wf : f.mem.wf = true := by rw [State.final_mem]; exact inv.mem
    rw [State.blkLast_eq ok hq hr]
    refine ⟨_, d, o, rfl, hr, fun y => ?_, State.trader_self _ _ _, fun u hu => (State.trader_ne _ _ _ _ hu).trans (same u)⟩
    refine (State.storeS_read wf (len.trans_le (by omega)) y).trans ?_
    rw [len, State.final_mem]
    split_ifs
    · exact hv _ (by omega)
    · exact hv _ (by omega)
    · rfl
  refine ⟨fun hk hsrc a o hr he => ?_, fun hk => ?_⟩
  · intro bytes on
    have op : fDst w = 0 := fDst_of_key hk (by decide)
    have ok : tr.BlkOk w := ⟨size ▸ hdst, fun _ => size ▸ hsrc⟩
    have count : slots = 1 + (n + 7) / 8 := if_pos hk
    have early (p : Prog) : State.blkEarly t w (f.inProgress t p) = f.inProgress t { p with got := p.got ++ (bytes.drop p.got.length).take 8 } := by
      have e := State.blkEarly_eq (p := p) op (ok.src op) hr (size.symm ▸ he)
      rwa [size] at e
    refine ⟨fun hi => ?_, fun hc left hl hp => ?_, fun hl hg => ?_⟩
    · rw [exec_bcpy, State.issue_blkFirst hi hk ok, early, if_pos op, size, calm, count]
      rfl
    · rw [exec_bcpy, State.issue_on hc hp hk rfl rfl hl _ _ _ _ _ rfl, early, calm]
      rfl
    · have written : tr.blkBytes w = tr.got := if_pos op
      rw [exec_bcpy, State.issue_blkLast hl (by omega) hk]
      exact last ok (by rw [written, hg]) fun i _ => by rw [written]
  · have op : fDst w = 1 := fDst_of_key hk (by decide)
    have ok : tr.BlkOk w := ⟨size ▸ hdst, fun e => absurd (op.symm.trans e) (by decide)⟩
    have count : slots = 2 := if_neg (by rw [hk]; decide)
    refine ⟨fun hi => ?_, fun hl => ?_⟩
    · rw [exec_bfill, State.issue_blkFirst hi hk ok, if_neg (by omega), calm]
      rfl
    · have written : tr.blkBytes w = List.replicate n (BitVec.ofNat 8 (tr.dr (blkSrcX w))) := (if_neg (by omega)).trans (by rw [size])
      rw [exec_bfill, State.issue_blkLast hl (by omega) hk]
      exact last (v := fun _ => BitVec.ofNat 8 (tr.dr (blkSrcX w))) ok (by rw [written, List.length_replicate]) fun i hi => by
        rw [written, List.getElem?_replicate_of_lt hi, Option.getD_some]

end Sys2Proof.Proofs
end

section
/-! SUPPORT. Arithmetic instructions that issue (R128 to R133): the result and the flags that each form of the ALU leaves, for every width. -/

namespace Sys2Proof.Machine

variable {s : State} {t : TraderId} {w k n : Nat} {tr : Trader} {x : Nat × Bool × Bool}

/-! ## Results with their flags -/

/-- The result of `n` bits and the flags C and V that `r` leaves on a trader with the flags of `tr`. -/
structure Alu.Gives (r : Alu) (n : Nat) (tr : Trader) (x : Nat × Bool × Bool) : Prop where
  lt : r.r < 2 ^ n
  eq : (r.r, r.c.getD tr.c, r.v.getD tr.v) = x

theorem addW_gives {a b cin : Nat} (h : 0 < n) (ha : a < 2 ^ n) (hb : b < 2 ^ n) (hc : cin ≤ 1) : (addW n a b cin).Gives n tr (sumOf n a b cin) := by
  rw [addW_eq h ha hb hc]
  exact ⟨Nat.mod_lt _ (Nat.two_pow_pos n), rfl⟩

theorem subW_gives {a b bin : Nat} (h : 0 < n) (ha : a < 2 ^ n) (hb : b < 2 ^ n) (hc : bin ≤ 1) : (subW n a b bin).Gives n tr (diffOf n a b bin) := by
  rw [subW_eq h ha hb hc]
  exact ⟨Nat.mod_lt _ (Nat.two_pow_pos n), rfl⟩

theorem logicW_gives {r : Nat} (hr : r < 2 ^ n) : (logicW n r).Gives n tr (tr.keepCV r) := by
  rw [logicW, Nat.mod_eq_of_lt hr]
  exact ⟨hr, rfl⟩

theorem shiftW_gives {v k : Nat} (kind : ShKind) (hn : n = 8 ∨ n = 16 ∨ n = 24) (hv : v < 2 ^ n) (hk : k ≤ n) (hr : kind = .rol ∨ kind = .ror → k < n) :
    (shiftW kind n v k).Gives n tr (tr.keepV (shiftOf kind n v k tr.c)) := by
  obtain ⟨r, c, v', lt⟩ := shiftW_eq kind tr.c hn hv hk hr
  exact ⟨r ▸ lt, by rw [r, c, v', Trader.keepV, Option.getD_none]⟩

theorem b2n_le (b : Bool) : b2n b ≤ 1 := by cases b <;> decide

/-! ## The forms of the ALU with such a result -/

section Forms

variable (h : s.Issues t w) (hk : keyOf w = k)

include h hk

theorem dOp_gives {f : Trader → Nat → Nat → Alu} (g : (f (s.at_ t w) ((s.at_ t w).dr (fS1 w)) ((s.at_ t w).dr (fS2 w))).Gives 8 (s.at_ t w) x) :
    dOp t k f s = s.leaves t w ((s.at_ t w).resD (fDst w) x) := by rw [dOp_eq h hk f g.lt, g.eq]

theorem dOp1_gives {f : Nat → Alu} (g : (f ((s.at_ t w).dr (fS1 w))).Gives 8 (s.at_ t w) x) :
    dOp1 t k f s = s.leaves t w ((s.at_ t w).resD (fDst w) x) := by rw [dOp1_eq h hk f g.lt, g.eq]

theorem dImm_gives {f : Nat → Nat → Alu} (g : (f ((s.at_ t w).dr (fS1 w)) w).Gives 8 (s.at_ t w) x) :
    dImm t k f s = s.leaves t w ((s.at_ t w).resD (fDst w) x) := by rw [dImm_eq h hk f g.lt, g.eq]

theorem accOp_gives {f : Trader → Nat → Nat → Alu} (g : (f (s.at_ t w) ((s.at_ t w).acr (fS1 w)) ((s.at_ t w).acr (fS2 w))).Gives 24 (s.at_ t w) x) :
    accOp t k f s = s.leaves t w ((s.at_ t w).resAc (fDst w) x) := by rw [accOp_eq h hk f g.lt, g.eq]

theorem cdOp_gives {f : Nat → Nat → Alu} (g : (f ((s.at_ t w).acr (fS1 w)) ((s.at_ t w).dr (fS2 w))).Gives 24 (s.at_ t w) x) :
    cdOp t k f s = s.leaves t w ((s.at_ t w).resAc (fDst w) x) := by rw [cdOp_eq h hk f g.lt, g.eq]

theorem caOp_gives {f : Nat → Nat → Alu} (g : (f ((s.at_ t w).acr (fS1 w)) ((s.at_ t w).ar (fS2 w))).Gives 24 (s.at_ t w) x) :
    caOp t k f s = s.leaves t w ((s.at_ t w).resAc (fDst w) x) := by rw [caOp_eq h hk f g.lt, g.eq]

theorem cImm_gives {f : Nat → Nat → Alu} (g : (f ((s.at_ t w).acr (fS1 w)) w).Gives 24 (s.at_ t w) x) :
    cImm t k f s = s.leaves t w ((s.at_ t w).resAc (fDst w) x) := by rw [cImm_eq h hk f g.lt, g.eq]

theorem aOp_gives {f : Trader → Nat → Nat → Alu} (g : (f (s.at_ t w) ((s.at_ t w).ar (fS1 w)) ((s.at_ t w).ar (fS2 w))).Gives 16 (s.at_ t w) x) :
    aOp t k f s = s.leaves t w ((s.at_ t w).resA (fDst w) x) := by rw [aOp_eq h hk f g.lt, g.eq]

theorem adOp_gives {f : Nat → Nat → Alu} (g : (f ((s.at_ t w).ar (fS1 w)) ((s.at_ t w).dr (fS2 w))).Gives 16 (s.at_ t w) x) :
    adOp t k f s = s.leaves t w ((s.at_ t w).resA (fDst w) x) := by rw [adOp_eq h hk f g.lt, g.eq]

theorem aImm_gives {f : Nat → Nat → Alu} (g : (f ((s.at_ t w).ar (fS1 w)) w).Gives 16 (s.at_ t w) x) :
    aImm t k f s = s.leaves t w ((s.at_ t w).resA (fDst w) x) := by rw [aImm_eq h hk f g.lt, g.eq]

end Forms

/-- Of a word that is not illegal, the attempt of an illegal word does nothing. -/
theorem State.Issues.issueIllegal (h : s.Issues t w) (p : Nat → Bool) : s.issueIllegal t p = s := by
  simp [State.issueIllegal, h.can, h.fresh, h.word, h.legal]

/-! ## Bytes, bit by bit (R129, R130) -/

theorem b2n_bit (x n : Nat) : b2n (bit x n) = x / 2 ^ n % 2 := by
  rw [bit_eq, b2n]
  split <;> simp_all

/-- The number whose bits, from the highest of eight down, are `x 0` to `x 7`. -/
def highestFirst (x : Nat → Nat) : Nat := x 0 * 128 + x 1 * 64 + x 2 * 32 + x 3 * 16 + x 4 * 8 + x 5 * 4 + x 6 * 2 + x 7

theorem highestFirst_bits {x : Nat → Nat} (two : ∀ k, x k < 2) : highestFirst x < 256 ∧ ∀ i < 8, highestFirst x / 2 ^ i % 2 = x (7 - i) := by
  have h0 := two 0
  have h1 := two 1
  have h2 := two 2
  have h3 := two 3
  have h4 := two 4
  have h5 := two 5
  have h6 := two 6
  have h7 := two 7
  unfold highestFirst
  refine ⟨by omega, fun i hi => ?_⟩
  interval_cases i <;> simp only [Nat.reducePow, Nat.reduceSub] <;> omega

/-- Bit `i` of a byte stands at `7 - i` in the byte reversed. -/
theorem revByte_bits (a : Nat) : revByte a < 256 ∧ ∀ i < 8, (revByte a).testBit i = a.testBit (7 - i) := by
  have e : revByte a = highestFirst fun k => a / 2 ^ k % 2 := by
    simp [revByte, highestFirst, List.range, List.range.loop, b2n_bit]
  obtain ⟨lt, bits⟩ := highestFirst_bits (x := fun k => a / 2 ^ k % 2) fun k => Nat.mod_lt _ (by decide)
  rw [e]
  exact ⟨lt, fun i hi => by rw [Nat.testBit_eq_decide_div_mod_eq, Nat.testBit_eq_decide_div_mod_eq, bits i hi]⟩

theorem popByte_eq (a : Nat) : popByte a = (List.range 8).countP (fun i => a.testBit i) := by
  simp [popByte, ones, List.countP_eq_length_filter, bit_testBit]

theorem popByte_lt (a : Nat) : popByte a < 2 ^ 8 :=
  Nat.lt_of_le_of_lt (List.length_filter_le _ _) (by decide)

/-! ## Single bits of a byte (R130) -/

theorem testBit_two_pow_iff (n i : Nat) : (2 ^ n).testBit i = decide (i = n) := by
  rw [Nat.testBit_two_pow, decide_eq_decide, eq_comm]

/-- A byte with bit `n` set, cleared and inverted. -/
theorem byte_bit_set {a n : Nat} (ha : a < 2 ^ 8) (hn : n < 8) :
    a ||| 2 ^ n < 256 ∧ ∀ i < 8, (a ||| 2 ^ n).testBit i = (decide (i = n) || a.testBit i) :=
  ⟨Nat.or_lt_two_pow ha (Nat.pow_lt_pow_right (by decide) hn), fun i _ => by rw [Nat.testBit_or, testBit_two_pow_iff, Bool.or_comm]⟩

theorem byte_bit_cleared {a n : Nat} (hn : n < 8) :
    a &&& (255 ^^^ 2 ^ n) < 256 ∧ ∀ i < 8, (a &&& (255 ^^^ 2 ^ n)).testBit i = (!decide (i = n) && a.testBit i) := by
  have mask : 255 ^^^ 2 ^ n < 2 ^ 8 := Nat.xor_lt_two_pow (by decide) (Nat.pow_lt_pow_right (by decide) hn)
  refine ⟨Nat.and_lt_two_pow _ mask, fun i hi => ?_⟩
  have ones : (255).testBit i = true := by
    rw [show 255 = 2 ^ 8 - 1 by rfl, Nat.testBit_two_pow_sub_one]
    exact decide_eq_true hi
  rw [Nat.testBit_and, Nat.testBit_xor, testBit_two_pow_iff, ones, Bool.true_xor, Bool.and_comm]

theorem byte_bit_inverted {a n : Nat} (ha : a < 2 ^ 8) (hn : n < 8) :
    a ^^^ 2 ^ n < 256 ∧ ∀ i < 8, (a ^^^ 2 ^ n).testBit i = xor (decide (i = n)) (a.testBit i) :=
  ⟨Nat.xor_lt_two_pow ha (Nat.pow_lt_pow_right (by decide) hn), fun i _ => by rw [Nat.testBit_xor, testBit_two_pow_iff, Bool.xor_comm]⟩

/-! ## Parts of accumulators and addresses (R131, R132) -/

theorem bits_low (x hi : Nat) : bits x hi 0 = x % 2 ^ (hi + 1) := by
  rw [bits_eq_div, Nat.pow_zero, Nat.div_one]
  rfl

theorem bits_top {x hi lo : Nat} (h : x < 2 ^ (hi + 1)) (hl : lo ≤ hi) : bits x hi lo = x / 2 ^ lo := by
  rw [bits_eq_div, Nat.mod_eq_of_lt]
  rw [Nat.div_lt_iff_lt_mul (Nat.two_pow_pos lo), ← Nat.pow_add, Nat.sub_add_cancel (by omega)]
  exact h

/-- A register takes the low bits of what is written into it. -/
theorem Trader.setD_congr (tr : Trader) (i : Nat) {v v' : Nat} (h : v % 2 ^ 8 = v' % 2 ^ 8) : tr.setD i v = tr.setD i v' := by
  rw [Trader.setD, Trader.setD, BitVec.eq_of_toNat_eq (x := BitVec.ofNat 8 v) (y := BitVec.ofNat 8 v') h]

theorem Trader.setA_congr (tr : Trader) (i : Nat) {v v' : Nat} (h : v % 2 ^ 16 = v' % 2 ^ 16) : tr.setA i v = tr.setA i v' := by
  rw [Trader.setA, Trader.setA, BitVec.eq_of_toNat_eq (x := BitVec.ofNat 16 v) (y := BitVec.ofNat 16 v') h]

theorem Trader.setAc_congr (tr : Trader) (i : Nat) {v v' : Nat} (h : v % 2 ^ 24 = v' % 2 ^ 24) : tr.setAc i v = tr.setAc i v' := by
  rw [Trader.setAc, Trader.setAc, BitVec.eq_of_toNat_eq (x := BitVec.ofNat 24 v) (y := BitVec.ofNat 24 v') h]

theorem unsg_lt (n : Nat) (i : Int) : unsg n i < 2 ^ n := by
  have pos : (0 : Int) < 2 ^ n := by positivity
  have lt := Int.emod_lt_of_pos i pos
  have nonneg := Int.emod_nonneg i pos.ne'
  unfold unsg
  zify
  rwa [Int.toNat_of_nonneg nonneg]

/-- The ones' complement sum of the halves of an accumulator (R131). -/
theorem foldAcc_eq {a : Nat} (ha : a < 2 ^ 24) :
    foldAcc a = (a % 65536 + a / 65536) % 65536 + (a % 65536 + a / 65536) / 65536 ∧ foldAcc a < 2 ^ 24 := by
  have low : bits a 15 0 = a % 65536 := bits_low a 15
  have high : bits a 23 16 = a / 65536 := bits_top ha (by decide)
  have sum : a % 65536 + a / 65536 < 2 ^ 17 := by omega
  have carry : bits (a % 65536 + a / 65536) 16 16 = (a % 65536 + a / 65536) / 65536 := bits_top sum (Nat.le_refl _)
  have rest : bits (a % 65536 + a / 65536) 15 0 = (a % 65536 + a / 65536) % 65536 := bits_low _ 15
  rw [foldAcc, low, high, rest, carry]
  exact ⟨rfl, by omega⟩

theorem setBits_eq (x hi lo v : Nat) :
    setBits x hi lo v = x / 2 ^ (hi + 1) * 2 ^ (hi + 1) + v % 2 ^ (hi + 1 - lo) * 2 ^ lo + x % 2 ^ lo := by
  simp only [setBits, Nat.shiftRight_eq_div_pow, Nat.shiftLeft_eq]

/-! ## Fields of legal words (R124) -/

theorem zero_notMem_zeroCause (v : Nat) : 0 ∉ zeroCause v := by
  unfold zeroCause
  split <;> decide

theorem zero_notMem_classCause (c : FieldClass) (v : Nat) : 0 ∉ classCause c v := by
  unfold classCause
  split
  · split <;> decide
  · split <;> decide
  · decide

theorem foldl_min_mem (c : Nat) (cs : List Nat) : cs.foldl min c ∈ c :: cs := by
  induction cs generalizing c with
  | nil => simp
  | cons d cs ih =>
    rcases List.mem_cons.mp (ih (min c d)) with e | e
    · rw [List.foldl_cons, e]
      rcases min_choice c d with e | e <;> simp [e]
    · exact List.mem_cons_of_mem _ (List.mem_cons_of_mem _ e)

/-- A word that is not illegal has no cause, where no cause has the code 0. -/
theorem majorCauses_of_legal (legal : illegalCause w = 0) (codes : 0 ∉ majorCauses w) : majorCauses w = [] := by
  unfold illegalCause at legal
  split at legal
  · cases legal
  · split at legal
    · assumption
    · next c cs e =>
      exact absurd (legal ▸ foldl_min_mem c cs) (e ▸ codes)

theorem fLvl_of_legal (legal : illegalCause w = 0) (hm : fMajor w = 0x2E ∨ fMajor w = 0x2F) : fLvl w < 3 := by
  have lt : fLvl w < 4 := bits_lt w 21 20
  have none := majorCauses_of_legal legal (by rcases hm with e | e <;> simp [majorCauses, e, zero_notMem_zeroCause])
  have : fLvl w ≠ 3 := by
    intro e
    rcases hm with hm | hm <;> simp [majorCauses, hm, e] at none
  omega

/-- The amount and the kind of a shift of an accumulator (R119). -/
theorem acsh_of_legal (legal : illegalCause w = 0) (hm : fMajor w = 0x12) : w % 32 < 24 ∧ bits w 10 8 < 3 := by
  have none := majorCauses_of_legal legal (by simp [majorCauses, hm, zero_notMem_zeroCause, zero_notMem_classCause])
  have low : bits w 4 0 = w % 32 := bits_low w 4
  simp [majorCauses, hm, low] at none
  omega
/-! ## Products (R133) -/

theorem ofNat_eq_ofInt {n : Nat} {x : Nat} {q : Int} (h : (x : Int) % 2 ^ n = q % 2 ^ n) : BitVec.ofNat n x = BitVec.ofInt n q := by
  rw [← BitVec.ofInt_natCast]
  apply BitVec.eq_of_toInt_eq
  rw [BitVec.toInt_ofInt, BitVec.toInt_ofInt, Int.bmod_def, Int.bmod_def]
  push_cast
  rw [h]

/-- The halves of a product of 32 bits, signed or not. -/
theorem product_halves {x : Nat} {q : Int} (h : (x : Int) % 2 ^ 32 = q % 2 ^ 32) :
    (BitVec.ofNat 16 (x / 65536), BitVec.ofNat 16 x) = (BitVec.ofInt 16 (q / 65536), BitVec.ofInt 16 q) := by
  rw [ofNat_eq_ofInt (q := q / 65536) (by push_cast; omega), ofNat_eq_ofInt (q := q) (by omega)]

theorem sgn_byte_abs (x : Nat) : |sgn 8 x| ≤ 128 := by
  obtain ⟨lo, hi⟩ := sgn_bounds (n := 8) (x := x) (by decide)
  exact abs_le.mpr ⟨lo, by omega⟩

/-- The upper half of a signed product of bytes holds copies of its sign. -/
theorem product_sign (x y : Nat) :
    BitVec.ofNat 16 (if sgn 8 x * sgn 8 y < 0 then 0xFFFF else 0) = BitVec.ofInt 16 (sgn 8 x * sgn 8 y / 65536) := by
  have small : |sgn 8 x * sgn 8 y| ≤ 128 * 128 := by
    rw [abs_mul]
    exact mul_le_mul (sgn_byte_abs x) (sgn_byte_abs y) (abs_nonneg _) (by decide)
  obtain ⟨lo, hi⟩ := abs_le.mp small
  apply ofNat_eq_ofInt
  split <;> push_cast <;> omega

end Sys2Proof.Machine

namespace Sys2Proof.Proofs

open Sys2Proof.Machine

theorem dataAluOnTwoRegisters : Claims.DataAluOnTwoRegisters := by
  intro s t w h tr a b res
  have ha : a < 2 ^ 8 := tr.dr_lt _
  have hb : b < 2 ^ 8 := tr.dr_lt _
  have op {k : Nat} {f : Trader → Nat → Nat → Alu} {x : Nat × Bool × Bool} (hk : keyOf w = k) (g : (f tr a b).Gives 8 tr x) :
      Host.Outcome.next (dOp t k f s) = res x := congrArg _ (dOp_gives h hk g)
  have shift (kind : ShKind) : (shiftW kind 8 a (b % 8)).Gives 8 tr (tr.keepV (shiftOf kind 8 a (b % 8) tr.c)) :=
    shiftW_gives kind (.inl rfl) ha (by omega) (fun _ => by omega)
  have smaller : min a b = if a ≤ b then a else b := Nat.min_def ..
  have larger : max a b = if a ≤ b then b else a := Nat.max_def ..
  exact ⟨fun hk => op hk (addW_gives (by decide) ha hb (by decide)), fun hk => op hk (addW_gives (by decide) ha hb (b2n_le _)),
    fun hk => op hk (subW_gives (by decide) ha hb (by decide)), fun hk => op hk (subW_gives (by decide) ha hb (b2n_le _)),
    fun hk => op hk (logicW_gives (Nat.and_lt_two_pow _ hb)), fun hk => op hk (logicW_gives (Nat.or_lt_two_pow ha hb)),
    fun hk => op hk (logicW_gives (Nat.xor_lt_two_pow ha hb)), fun hk => op hk (shift .shl), fun hk => op hk (shift .shr), fun hk => op hk (shift .sar),
    fun hk => op hk (shift .rol), fun hk => op hk (shift .ror), fun hk => op hk (smaller ▸ logicW_gives (by omega)),
    fun hk => op hk (larger ▸ logicW_gives (by omega))⟩

theorem dataAluOnOneRegister : Claims.DataAluOnOneRegister := by
  intro s t w h tr a m res
  have ha : a < 2 ^ 8 := tr.dr_lt _
  have hm : m < 2 ^ 8 := Nat.mod_lt _ (by decide)
  have op {k : Nat} {f : Nat → Alu} {x : Nat × Bool × Bool} (hk : keyOf w = k) (g : (f a).Gives 8 tr x) :
      Host.Outcome.next (dOp1 t k f s) = res x := congrArg _ (dOp1_gives h hk g)
  have imm {k : Nat} {f : Nat → Nat → Alu} {x : Nat × Bool × Bool} (hk : keyOf w = k) (g : (f a w).Gives 8 tr x) :
      Host.Outcome.next (dImm t k f s) = res x := congrArg _ (dImm_gives h hk g)
  have move {k : Nat} (hk : keyOf w = k) (uses : Nat → List GReg) (f : Nat → Trader → Trader) :
      (.next (s.simple t k uses f) : Out) = .next (s.leaves t w (f w tr)) := congrArg _ (State.simple_eq h hk uses f)
  obtain ⟨lt, bits⟩ := revByte_bits a
  refine ⟨fun hk => ?_, fun hk => op hk (logicW_gives (by omega)), fun hk => op hk (subW_gives (by decide) (by decide) ha (by decide)),
    fun hk => move hk _ _, fun hk => ⟨revByte a, op hk (logicW_gives lt), lt, bits⟩,
    fun hk => op hk (popByte_eq a ▸ logicW_gives (popByte_lt a)), fun hk => imm hk (addW_gives (by decide) ha hm (by decide)),
    fun hk => imm hk (logicW_gives (Nat.and_lt_two_pow _ hm)), fun hk => imm hk (logicW_gives (Nat.or_lt_two_pow ha hm)),
    fun hk => imm hk (logicW_gives (Nat.xor_lt_two_pow ha hm)), fun hk => move hk _ _,
    fun hk => imm hk (shiftW_gives _ (.inl rfl) ha (by omega) (fun _ => by omega))⟩
  have attempt := h.issueIllegal fun w => fMajor w != 0x36
  exact (congrArg (fun u : State => (.next (u.simple t (key 0x00 0) (fun _ => []) fun _ tr => tr) : Out)) attempt).trans (move hk _ _)

/-- Settles O6: each form of the data ALU that issues leaves the result and the flags that its operation gives. -/
theorem dataAlu : Obligations.DataAlu := ⟨dataAluOnTwoRegisters, dataAluOnOneRegister⟩

/-- Settles O7: each of these instructions writes one predicate, or one bit of a byte, and changes nothing else of its trader. -/
theorem comparesPredicatesAndBits : Obligations.ComparesPredicatesAndBits := by
  intro s t w h tr a x y n p d
  have ha : a < 2 ^ 8 := tr.dr_lt _
  have hn : n < 8 := Nat.mod_lt _ (by decide)
  have pred {k : Nat} {uses : Nat → List GReg} {f : Nat → Trader → Bool} {b : Bool} (hk : keyOf w = k) (hb : f w tr = b) :
      (.next (pOp t k uses f s) : Out) = p b := congrArg _ (hb ▸ pOp_eq h hk uses f)
  have move {k : Nat} {f : Nat → Trader → Trader} {uses : Nat → List GReg} (hk : keyOf w = k) :
      (.next (s.simple t k uses f) : Out) = .next (s.leaves t w (f w tr)) := congrArg _ (State.simple_eq h hk uses f)
  have imm : bits w 11 0 = w % 4096 := bits_low w 11
  obtain ⟨setLt, setBits⟩ := byte_bit_set ha hn
  obtain ⟨clearLt, clearBits⟩ := byte_bit_cleared (a := a) hn
  obtain ⟨invLt, invBits⟩ := byte_bit_inverted ha hn
  exact ⟨fun hk => pred hk rfl, fun hk => pred hk rfl, fun hk => pred hk rfl, fun hk => pred hk rfl, fun hk => pred hk (imm ▸ rfl),
    fun hk => pred hk rfl, fun hk => pred hk rfl, fun hk => pred hk rfl, fun hk => pred hk rfl, fun hk => pred hk rfl, fun hk => pred hk rfl,
    fun hk => pred hk rfl, fun hk => pred hk rfl, fun hk => pred hk rfl, fun hk => pred hk (bit_testBit a n),
    fun hk => ⟨_, move hk, setLt, setBits⟩, fun hk => ⟨_, move hk, clearLt, clearBits⟩, fun hk => ⟨_, move hk, invLt, invBits⟩⟩

/-- Settles O9: each form of an accumulator instruction that issues leaves the result and the flags that its operation gives. -/
theorem accumulatorInstructions : Obligations.AccumulatorInstructions := by
  intro s t w h tr a b n imm res ac half
  have ha : a < 2 ^ 24 := tr.acr_lt _
  have hb : b < 2 ^ 24 := tr.acr_lt _
  have hd : tr.dr (fS2 w) < 2 ^ 8 := tr.dr_lt _
  have hr : tr.ar (fS2 w) < 2 ^ 16 := tr.ar_lt _
  have hn : n ≤ 24 := Nat.min_le_right _ _
  have himm : imm < 2 ^ 24 := unsg_lt 24 _
  have word : fImm w = w % 65536 := bits_low w 15
  have two {k : Nat} {f : Trader → Nat → Nat → Alu} {x : Nat × Bool × Bool} (hk : keyOf w = k) (g : (f tr a b).Gives 24 tr x) :
      (.next (accOp t k f s) : Out) = res x := congrArg _ (accOp_gives h hk g)
  have data {k : Nat} {f : Nat → Nat → Alu} {x : Nat × Bool × Bool} (hk : keyOf w = k) (g : (f a (tr.dr (fS2 w))).Gives 24 tr x) :
      (.next (cdOp t k f s) : Out) = res x := congrArg _ (cdOp_gives h hk g)
  have adr {k : Nat} {f : Nat → Nat → Alu} {x : Nat × Bool × Bool} (hk : keyOf w = k) (g : (f a (tr.ar (fS2 w))).Gives 24 tr x) :
      (.next (caOp t k f s) : Out) = res x := congrArg _ (caOp_gives h hk g)
  have one {k : Nat} {f : Nat → Nat → Alu} {x : Nat × Bool × Bool} (hk : keyOf w = k) (g : (f a w).Gives 24 tr x) :
      (.next (cImm t k f s) : Out) = res x := congrArg _ (cImm_gives h hk g)
  have move {k : Nat} {f : Nat → Trader → Trader} {uses : Nat → List GReg} {tr' : Trader} (hk : keyOf w = k) (e : f w tr = tr') :
      (.next (s.simple t k uses f) : Out) = .next (s.leaves t w tr') := congrArg _ (e ▸ State.simple_eq h hk uses f)
  have shift (kind : ShKind) (hs : ¬(kind = .rol ∨ kind = .ror)) : (shiftW kind 24 a n).Gives 24 tr (tr.keepV (shiftOf kind 24 a n tr.c)) :=
    shiftW_gives kind (.inr (.inr rfl)) ha hn (fun r => absurd r hs)
  obtain ⟨folded, foldLt⟩ := foldAcc_eq ha
  refine ⟨fun hk => two hk (addW_gives (by decide) ha hb (by decide)), fun hk => two hk (addW_gives (by decide) ha hb (b2n_le _)),
    fun hk => two hk (subW_gives (by decide) ha hb (by decide)), fun hk => two hk (subW_gives (by decide) ha hb (b2n_le _)),
    fun hk => data hk (addW_gives (by decide) ha (by omega) (by decide)), fun hk => adr hk (addW_gives (by decide) ha (by omega) (by decide)),
    fun hk => adr hk (addW_gives (by decide) ha (unsg_lt 24 _) (by decide)), fun hk => one hk (folded ▸ logicW_gives foldLt),
    fun hk => two hk (logicW_gives (Nat.and_lt_two_pow _ hb)), fun hk => two hk (logicW_gives (Nat.or_lt_two_pow ha hb)),
    fun hk => two hk (logicW_gives (Nat.xor_lt_two_pow ha hb)), fun hk => move hk rfl, fun hk => data hk (shift .shl (by decide)),
    fun hk => data hk (shift .shr (by decide)), fun hk => data hk (shift .sar (by decide)), fun hk => move hk (tr.setAc_congr _ ?_),
    fun hk => move hk (tr.setAc_congr _ ?_), fun hk => move hk (tr.setD_congr _ ?_), fun hk => move hk (tr.setA_congr _ ?_),
    fun hk => move hk (tr.setA_congr _ ?_), fun hk => one hk ?_, fun hk => one hk ?_, fun hk => move hk (word ▸ rfl),
    fun hk => move hk (tr.setAc_congr _ ?_)⟩
  · show (a * 256 + _) % 2 ^ 24 = _
    omega
  · show (a * 65536 + _) % 2 ^ 24 = _
    omega
  · show a % 2 ^ 8 = _
    omega
  · show a % 2 ^ 16 = _
    omega
  · exact congrArg (· % 2 ^ 16) (bits_top ha (by decide))
  · rw [word]
    exact addW_gives (by decide) ha himm (by decide)
  · obtain ⟨amount, kind⟩ := acsh_of_legal h.legal (fMajor_of_key hk (by decide) (by decide))
    exact shiftW_gives _ (.inr (.inr rfl)) ha (by omega) (fun _ => by omega)
  · rw [setBits_eq]
    have := tr.acr_lt (fDst w)
    omega

theorem addressInstructions : Claims.AddressInstructions := by
  intro s t w h tr a b d res ad
  have ha : a < 2 ^ 16 := tr.ar_lt _
  have hb : b < 2 ^ 16 := tr.ar_lt _
  have hd : d < 2 ^ 8 := tr.dr_lt _
  have hs : tr.dr (fS1 w) < 2 ^ 8 := tr.dr_lt _
  have word : fImm w = w % 65536 := bits_low w 15
  have two {k : Nat} {f : Trader → Nat → Nat → Alu} {x : Nat × Bool × Bool} (hk : keyOf w = k) (g : (f tr a b).Gives 16 tr x) :
      (.next (aOp t k f s) : Out) = res x := congrArg _ (aOp_gives h hk g)
  have data {k : Nat} {f : Nat → Nat → Alu} {x : Nat × Bool × Bool} (hk : keyOf w = k) (g : (f a d).Gives 16 tr x) :
      (.next (adOp t k f s) : Out) = res x := congrArg _ (adOp_gives h hk g)
  have one {k : Nat} {f : Nat → Nat → Alu} {x : Nat × Bool × Bool} (hk : keyOf w = k) (g : (f a w).Gives 16 tr x) :
      (.next (aImm t k f s) : Out) = res x := congrArg _ (aImm_gives h hk g)
  have move {k : Nat} {f : Nat → Trader → Trader} {uses : Nat → List GReg} {tr' : Trader} (hk : keyOf w = k) (e : f w tr = tr') :
      (.next (s.simple t k uses f) : Out) = .next (s.leaves t w tr') := congrArg _ (e ▸ State.simple_eq h hk uses f)
  have shift (kind : ShKind) {m : Nat} (hm : m < 16) : (shiftW kind 16 a m).Gives 16 tr (tr.keepV (shiftOf kind 16 a m tr.c)) :=
    shiftW_gives kind (.inr (.inl rfl)) ha (by omega) (fun _ => hm)
  refine ⟨fun hk => two hk (addW_gives (by decide) ha hb (by decide)), fun hk => two hk (subW_gives (by decide) ha hb (by decide)),
    fun hk => two hk (addW_gives (by decide) ha hb (b2n_le _)), fun hk => two hk (subW_gives (by decide) ha hb (b2n_le _)),
    fun hk => two hk (logicW_gives (Nat.and_lt_two_pow _ hb)), fun hk => two hk (logicW_gives (Nat.or_lt_two_pow ha hb)),
    fun hk => two hk (logicW_gives (Nat.xor_lt_two_pow ha hb)), fun hk => move hk rfl, fun hk => data hk (shift .shl (Nat.mod_lt _ (by decide))),
    fun hk => data hk (shift .shr (Nat.mod_lt _ (by decide))), fun hk => data hk (shift .sar (Nat.mod_lt _ (by decide))),
    fun hk => data hk (addW_gives (by decide) ha (by omega) (by decide)), fun hk => move hk (tr.setA_congr _ ?_),
    fun hk => move hk (tr.setA_congr _ ?_), fun hk => move hk (tr.setD_congr _ ?_), fun hk => move hk (tr.setD_congr _ ?_), fun hk => one hk ?_,
    fun hk => move hk (word ▸ rfl), fun hk => one hk (shift _ (Nat.mod_lt _ (by decide)))⟩
  · rw [setBits_eq]
    omega
  · rw [setBits_eq]
    have := tr.ar_lt (fDst w)
    omega
  · show a % 2 ^ 8 = _
    omega
  · exact congrArg (· % 2 ^ 8) (bits_top ha (by decide))
  · rw [word]
    exact addW_gives (by decide) ha (Nat.mod_lt _ (by decide)) (by decide)

theorem multiplications : Claims.Multiplications := by
  intro s t w h tr lands
  have mul {k : Nat} {uses : Nat → List GReg} {f : Nat → Trader → Half × Half} {q : Int} (hk : keyOf w = k)
      (e : f w tr = (BitVec.ofInt 16 (q / 65536), BitVec.ofInt 16 q)) : (.next (mulOp t k uses f s) : Out) = lands q :=
    congrArg _ ((mulOp_eq h hk uses f).trans (by rw [e]))
  refine ⟨fun hk => mul hk ?_, fun hk => mul hk ?_, fun hk => mul hk ?_, fun hk => mul hk ?_⟩
  · have small : tr.dr (fS1 w) * tr.dr (fS2 w) < 65536 := Nat.mul_lt_mul'' (tr.dr_lt _) (tr.dr_lt _)
    rw [← Nat.cast_mul, ← product_halves rfl, Nat.div_eq_of_lt small]
    rfl
  · exact congrArg (·, BitVec.ofInt 16 _) (product_sign _ _)
  · rw [← Nat.cast_mul]
    exact product_halves rfl
  · refine product_halves ?_
    have := Int.emod_nonneg (sgn 16 (tr.ar (fS1 w)) * sgn 16 (tr.ar (fS2 w))) (show (2 ^ 32 : Int) ≠ 0 by decide)
    rw [unsg, Int.toNat_of_nonneg this]
    exact Int.emod_emod_of_dvd _ (dvd_refl _)

/-- Settles O10: each form of an address instruction leaves its result and flags, and a product is that of the operands of the issue slot. -/
theorem addressesAndProducts : Obligations.AddressesAndProducts := ⟨addressInstructions, multiplications⟩

end Sys2Proof.Proofs
end

section
/-! SUPPORT. Jumps, loops, waits, system operations and special registers (R106, R109, R136 to R145): what each attempt that issues does, and the
loop buffer beside the loop registers. -/

namespace Sys2Proof.Machine

variable {s : State} {t : TraderId} {w k : Nat}

/-! ## Attempts that issue -/

/-- An attempt of an instruction of one slot that nothing holds has its effect. -/
theorem State.Issues.issue_eq (h : s.Issues t w) (hk : keyOf w = k) (uses : Nat → List GReg) (body : Nat → State → State) :
    s.issue t k uses body = body w (s.final t w) := State.issue_eq h hk uses body _ _ _ rfl (Nat.le_refl 1)

theorem State.setTrader_setTrader (s : State) (t : TraderId) (a b : Trader) : (s.setTrader t a).setTrader t b = s.setTrader t b :=
  (State.upd_setTrader s t a fun _ => b).symm

theorem State.leaves_eq (s : State) (t : TraderId) (w : Nat) (tr : Trader) : s.leaves t w tr = (s.final t w).setTrader t (tr.endCheck tr.pc) :=
  (State.upd_setTrader _ t tr fun tr => tr.endCheck tr.pc).symm

/-- An instruction that leaves its trader as it is makes the end check. -/
theorem State.endCheck_final (s : State) (t : TraderId) (w : Nat) : (s.final t w).endCheck t = s.leaves t w (s.at_ t w) :=
  (State.leaves_eq s t w _).symm

/-- An instruction that changes its trader makes the end check after it. -/
theorem State.upd_endCheck_final (s : State) (t : TraderId) (w : Nat) (f : Trader → Trader) :
    ((s.final t w).upd t f).endCheck t = s.leaves t w (f (s.at_ t w)) := rfl

/-! ## The loop buffer beside the loop registers (R73, R74) -/

theorem Trader.holdBody_eq (tr : Trader) : ∃ b, tr.holdBody = { tr with lbuf := b } := by
  unfold Trader.holdBody
  split
  · exact ⟨_, rfl⟩
  · split
    · split
      · exact ⟨tr.lbuf, rfl⟩
      · exact ⟨_, rfl⟩
    · exact ⟨_, rfl⟩

theorem Trader.levelEnds_eq (tr : Trader) (n : Nat) : ∃ b, tr.levelEnds n = { tr with lbuf := b } := by
  unfold Trader.levelEnds
  split
  · split
    · exact Trader.holdBody_eq { tr with lbuf := none }
    · exact ⟨tr.lbuf, rfl⟩
  · exact ⟨tr.lbuf, rfl⟩

theorem Trader.startBody_eq (tr : Trader) (ls le : Nat) : ∃ b, tr.startBody ls le = { tr with lbuf := b } := by
  unfold Trader.startBody
  split
  · split
    · exact ⟨tr.lbuf, rfl⟩
    · exact Trader.holdBody_eq { tr with lbuf := none }
  · exact Trader.holdBody_eq tr

theorem Trader.loopWritten_eq (tr : Trader) (n : Nat) : ∃ b, tr.loopWritten n = { tr with lbuf := b } := by
  unfold Trader.loopWritten
  split
  · exact Trader.levelEnds_eq tr n
  · exact Trader.startBody_eq tr _ _

/-! ## The start of a loop (R106) -/

theorem half_setIfInBounds {v : Vector Half 3} {i x : Nat} (j : Nat) (hi : i < 3) :
    (((v.setIfInBounds i (BitVec.ofNat 16 x))[j]?).getD 0).toNat = if j = i then x % 65536 else ((v[j]?).getD 0).toNat := by
  rw [Vector.getElem?_setIfInBounds]
  by_cases e : i = j
  · subst e
    simp [hi]
  · simp [e, Ne.symm e]

/-- The start of a loop sets the registers of its level and PC, and beside them at most the loop buffer changes. -/
theorem startLoop_eq (w count : Nat) (tr : Trader) : ∃ b, startLoop w count tr =
    { tr with
      ls := tr.ls.setIfInBounds (fLvl w) (BitVec.ofNat 16 ((tr.pc + 1) % 65536))
      le := tr.le.setIfInBounds (fLvl w) (BitVec.ofNat 16 ((tr.pc + 1 + fBody w) % 65536))
      lc := tr.lc.setIfInBounds (fLvl w) (BitVec.ofNat 16 count)
      lbuf := b
      pc := if count = 0 then (tr.pc + 1 + fBody w + 1) % 65536 else (tr.pc + 1) % 65536 } := by
  unfold startLoop
  dsimp only
  split
  · exact ⟨_, by rw [Nat.mod_add_mod]; rfl⟩
  · obtain ⟨b, e⟩ := Trader.startBody_eq (((tr.setLs (fLvl w) ((tr.pc + 1) % 65536)).setLe (fLvl w) ((tr.pc + 1 + fBody w) % 65536)).setLc (fLvl w) count)
      ((tr.pc + 1) % 65536) ((tr.pc + 1 + fBody w) % 65536)
    exact ⟨b, by rw [e]; rfl⟩

theorem startLoop_spec (w : Nat) {count : Nat} (tr : Trader) (lvl : fLvl w < 3) (small : count < 65536) :
    let tr' := startLoop w count tr
    tr'.lsr (fLvl w) = (tr.pc + 1) % 65536 ∧ tr'.ler (fLvl w) = (tr.pc + 1 + fBody w) % 65536 ∧ tr'.lcr (fLvl w) = count ∧
      tr'.pc = (if count = 0 then (tr.pc + 1 + fBody w + 1) % 65536 else (tr.pc + 1) % 65536) ∧
      (∀ n, n ≠ fLvl w → tr'.lsr n = tr.lsr n ∧ tr'.ler n = tr.ler n ∧ tr'.lcr n = tr.lcr n) ∧
      { tr' with ls := tr.ls, le := tr.le, lc := tr.lc, pc := tr.pc, lbuf := tr.lbuf } = tr := by
  obtain ⟨b, e⟩ := startLoop_eq w count tr
  rw [e]
  refine ⟨?_, ?_, ?_, rfl, fun n hn => ⟨?_, ?_, ?_⟩, rfl⟩
  · exact (half_setIfInBounds _ lvl).trans (by rw [if_pos rfl, Nat.mod_mod])
  · exact (half_setIfInBounds _ lvl).trans (by rw [if_pos rfl, Nat.mod_mod])
  · exact (half_setIfInBounds _ lvl).trans (by rw [if_pos rfl, Nat.mod_eq_of_lt small])
  · exact (half_setIfInBounds _ lvl).trans (if_neg hn)
  · exact (half_setIfInBounds _ lvl).trans (if_neg hn)
  · exact (half_setIfInBounds _ lvl).trans (if_neg hn)

/-! ## Waits (R137 to R141) -/

/-- An instruction that waits ends in its slot, or leaves its trader waiting. -/
theorem State.beginWait_final (s : State) (t : TraderId) (w : Nat) (x : Wait) (holds : Bool) :
    (s.final t w).beginWait t x holds = if holds then (s.leaves t w { s.at_ t w with wait := .none }).syncPoint t ((s.final t w).cur t)
      else (s.final t w).setTrader t { s.at_ t w with wait := x } := rfl

theorem State.beginWait_faults (u : State) (t : TraderId) (x : Wait) (holds : Bool) : (u.beginWait t x holds).faults = u.faults := by
  unfold State.beginWait
  split <;> rfl

/-- The operand of a wait, aligned and without an error in the stall's memory. -/
theorem State.waitOperand_eq {u : State} {a : Arr} {o : Nat} (hr : u.ramAt t ((u.trader t).ar (fDst w)) = some (a, o))
    (aligned : (u.trader t).ar (fDst w) % 8 = 0) (sound : u.errorIn a o 8 = none) (quiet : u.faults = []) {f : Nat → State → State}
    (keeps : ∀ v, (f v u).faults = u.faults) : u.waitOperand t w f = f (u.natAt a o 8) u := by
  simp only [State.waitOperand, hr, aligned, if_true, State.ramRead, sound]
  exact State.settle_of_noFaults ((keeps _).trans quiet)

/-- The bell watch of a wait is the one armed for its bell, or is armed afresh (R141). -/
theorem armWatch_eq (w : Nat) (tr : Trader) : armWatch w tr =
    if tr.watch = some ⟨bit (fSel w) 5, bits (fSel w) 4 0, true⟩ then tr
    else { tr with watch := some ⟨bit (fSel w) 5, bits (fSel w) 4 0, false⟩ } := by
  unfold armWatch
  dsimp only
  rcases hw : tr.watch with _ | ⟨dev, bell, isSet⟩
  · rfl
  · by_cases e : dev = bit (fSel w) 5 ∧ bell = bits (fSel w) 4 0
    · obtain ⟨rfl, rfl⟩ := e
      cases isSet <;> simp [← hw]
    · have ne : some (⟨dev, bell, isSet⟩ : BellWatch) ≠ some ⟨bit (fSel w) 5, bits (fSel w) 4 0, true⟩ := by
        intro x
        injection x with x
        injection x with x y
        exact e ⟨x, y⟩
      rw [if_neg ne]
      exact if_neg e

/-- What WFB does in its slot. -/
def State.wfbBody (u : State) (t : TraderId) (w : Nat) : State :=
  if ((u.upd t (armWatch w)).trader t).rung then ((u.upd t (armWatch w)).upd t fun tr => { tr with watch := none }).endWait t
  else (u.upd t (armWatch w)).upd t fun tr => { tr with wait := .wfb }

theorem State.wfbBody_waits {u : State} (hw : (u.trader t).watch ≠ some ⟨bit (fSel w) 5, bits (fSel w) 4 0, true⟩) :
    u.wfbBody t w = u.setTrader t { u.trader t with watch := some ⟨bit (fSel w) 5, bits (fSel w) 4 0, false⟩, wait := .wfb } := by
  have armed : u.upd t (armWatch w) = u.setTrader t { u.trader t with watch := some ⟨bit (fSel w) 5, bits (fSel w) 4 0, false⟩ } := by
    rw [State.upd, armWatch_eq, if_neg hw]
  have unrung : ¬({ u.trader t with watch := some ⟨bit (fSel w) 5, bits (fSel w) 4 0, false⟩ } : Trader).rung = true := Bool.false_ne_true
  rw [State.wfbBody, armed, State.trader_self, if_neg unrung, ← State.upd_setTrader]

theorem State.wfbBody_ends {u : State} (hw : (u.trader t).watch = some ⟨bit (fSel w) 5, bits (fSel w) 4 0, true⟩) :
    u.wfbBody t w = (u.setTrader t { u.trader t with watch := none }).endWait t := by
  have armed : u.upd t (armWatch w) = u.setTrader t (u.trader t) := by rw [State.upd, armWatch_eq, if_pos hw]
  have rung : (u.trader t).rung = true := by rw [Trader.rung, hw]
  rw [State.wfbBody, armed, State.trader_self, if_pos rung, ← State.upd_setTrader]

/-- The end of a wait of a trader that is changed as well. -/
theorem State.endWait_setTrader (u : State) (t : TraderId) (tr : Trader) :
    (u.setTrader t tr).endWait t = ((u.setTrader t { tr with wait := .none }).endCheck t).syncPoint t (u.cur t) := by
  rw [State.endWait, ← State.upd_setTrader]
  rfl

section Exec

variable (h : s.Issues t w)

include h

theorem State.Issues.exec_wfe (hk : keyOf w = key 0x30) :
    exec (.wfe t) s = .next ((s.final t w).beginWait t .wfe ((s.final t w).get EV_PEND.PEND t.ix != 0)) := congrArg _ (h.issue_eq hk _ _)

theorem State.Issues.exec_wfb (hk : keyOf w = key 0x31) : exec (.wfb t) s = .next ((s.final t w).wfbBody t w) := congrArg _ (h.issue_eq hk _ _)

theorem State.Issues.exec_wtur (hk : keyOf w = key 0x33) :
    let till := (s.final t w).tillNow + (s.at_ t w).ar (fDst w) * 2 ^ fShift w
    exec (.wtur t) s = .next ((s.final t w).beginWait t (.wtu till) (decide (till ≤ (s.final t w).tillNow))) := by
  intro till
  have e : (s.final t w).tillNow + (s.at_ t w).ar (fDst w) <<< fShift w = till := by rw [Nat.shiftLeft_eq]
  rw [← e]
  exact congrArg _ (h.issue_eq hk _ _)

section Operand

variable {a : Arr} {o : Nat} (hr : (s.final t w).ramAt t ((s.at_ t w).ar (fDst w)) = some (a, o)) (aligned : (s.at_ t w).ar (fDst w) % 8 = 0)
  (sound : (s.final t w).errorIn a o 8 = none) (quiet : (s.final t w).faults = [])

include hr aligned sound quiet

theorem State.Issues.exec_wtu (hk : keyOf w = key 0x32) :
    let v := (s.final t w).natAt a o 8
    exec (.wtu t) s = .next ((s.final t w).beginWait t (.wtu v) (decide (v ≤ (s.final t w).tillNow))) := by
  intro v
  refine congrArg Host.Outcome.next ((h.issue_eq hk _ _).trans ?_)
  exact State.waitOperand_eq hr aligned sound quiet fun _ => State.beginWait_faults _ _ _ _

theorem State.Issues.exec_wpu (hk : keyOf w = key 0x34) :
    let target := sgn 64 ((s.final t w).natAt a o 8)
    let pos := (s.final t w).axisPos (fSel w % 16) (s.final t w).tick
    exec (.wpu t) s = .next ((s.final t w).beginWait t (.wpu (fSel w % 16) (fSel w / 16) target (pos - target).sign)
      (Machine.passed (fSel w / 16) pos target (pos - target).sign)) := by
  have low : bits (fSel w) 3 0 = fSel w % 16 := bits_low _ 3
  have high : bits (fSel w) 5 4 = fSel w / 16 := bits_top (bits_lt w 18 13) (by decide)
  rw [← low, ← high]
  intro target pos
  refine congrArg Host.Outcome.next ((h.issue_eq hk _ _).trans ?_)
  exact State.waitOperand_eq hr aligned sound quiet fun _ => State.beginWait_faults _ _ _ _

end Operand

end Exec

/-- A position that has passed its target at the issue of the wait (R139). -/
theorem passed_iff (dir : Nat) (pos target : Int) :
    passed dir pos target (pos - target).sign = true ↔ pos = target ∨ (dir = 0 ∧ target < pos) ∨ (dir = 1 ∧ pos < target) := by
  match dir with
  | 0 =>
    simp [passed]
    omega
  | 1 =>
    simp [passed]
    omega
  | dir + 2 => simp [passed]

/-- A position that has passed its target since the wait began, where `sign` was the sign of their difference (R139). -/
theorem passed_since_iff (dir : Nat) (pos target sign : Int) : passed dir pos target sign = true ↔
    (dir = 0 ∧ target ≤ pos) ∨ (dir = 1 ∧ pos ≤ target) ∨ (2 ≤ dir ∧ (pos = target ∨ (pos - target).sign ≠ sign)) := by
  match dir with
  | 0 => simp [passed]
  | 1 => simp [passed]
  | dir + 2 => simp [passed]

section Ends

variable (can : s.canEnd t = true)

include can

theorem State.exec_wfeEnd (hw : (s.trader t).wait = .wfe) (rom : (s.trader t).inRom = false) :
    exec (.wfeEnd t) s = if s.get EV_PEND.PEND t.ix = 0 then .next s else .next (s.endWait t) := by
  rw [← apply_ite Host.Outcome.next]
  refine congrArg Host.Outcome.next ?_
  rw [can, hw, rom, ← ite_not]
  simp

variable (calm : s.deliverable t = none)

include calm

theorem State.exec_wfbEnd {b : BellWatch} (hw : (s.trader t).wait = .wfb) (hb : (s.trader t).watch = some b) :
    exec (.wfbEnd t) s = if b.isSet then .next ((s.setTrader t { s.trader t with watch := none }).endWait t) else .next s := by
  have rung : (s.trader t).rung = b.isSet := by rw [Trader.rung, hb]
  rw [← apply_ite Host.Outcome.next]
  refine congrArg Host.Outcome.next ?_
  rw [can, hw, rung, calm]
  simp
  rfl

theorem State.exec_wtuEnd {v : Nat} (hw : (s.trader t).wait = .wtu v) :
    exec (.wtuEnd t) s = if v ≤ s.tillNow then .next (s.endWait t) else .next s := by
  rw [← apply_ite Host.Outcome.next]
  refine congrArg Host.Outcome.next ?_
  rw [hw, can, calm]
  simp

theorem State.exec_wpuEnd {ax dir : Nat} {target sg : Int} (hw : (s.trader t).wait = .wpu ax dir target sg) :
    exec (.wpuEnd t) s = if Machine.passed dir (s.axisPos ax s.tick) target sg then .next (s.endWait t) else .next s := by
  rw [← apply_ite Host.Outcome.next]
  refine congrArg Host.Outcome.next ?_
  rw [hw, can, calm]
  simp

end Ends

/-! ## System operations (R143 to R145) -/

/-- A trader that may issue is not in the wait of a DRAIN that goes on. -/
theorem State.drainWaits_of_canIssue (can : s.canIssue t = true) :
    (s.runsSlot t && (s.trader t).wait == .drain && !(s.trader t).drained) = false := by
  simp only [State.canIssue, State.ownsSlot, Bool.and_eq_true, Bool.or_eq_true, beq_iff_eq] at can
  obtain ⟨⟨-, none | drained⟩, -⟩ := can
  · simp [none]
  · simp [drained]

/-- A trap whose instruction counts as completed makes the end check first (R168). -/
theorem State.trapAfter_final (s : State) (t : TraderId) (w src detail v : Nat) : (s.final t w).trapAfter t src detail v =
    (s.final t w).setTrader t { (s.at_ t w).endCheck (s.at_ t w).pc with
      trap := some ⟨src, detail, 0, v, ((s.at_ t w).endCheck (s.at_ t w).pc).pc⟩ } := by
  rw [State.trapAfter, State.endCheck_final, State.leaves_eq]
  dsimp only
  rw [State.trader_self, State.raiseTrap, ← State.upd_setTrader]

/-- The budget of a marker, where 0xFF sets none (R351, R359). -/
theorem State.budgetOf_eq (u : State) (t : TraderId) (m : Nat) :
    let table := u.get (if m % 2 = 1 then BW_TABLE.HI else BW_TABLE.LO) (ix t.h t.s (m % 64 / 2))
    (if m = 255 then none else u.budgetOf t (m % 64)) = if m = 255 ∨ table = 0 then none else some table := by
  have odd : m % 64 % 2 = m % 2 := by omega
  simp only [State.budgetOf, odd]
  split_ifs <;> simp_all

section Exec

variable (h : s.Issues t w)

include h

theorem State.Issues.exec_drain (hk : keyOf w = key 0x37 0) : exec (.drain t) s =
    if (s.at_ t w).stores = [] then .next (s.leaves t w (s.at_ t w)) else .next ((s.final t w).setTrader t { s.at_ t w with wait := .drain }) := by
  have e : exec (.drain t) s = .next (if (s.at_ t w).stores.isEmpty then (s.final t w).endCheck t
      else (s.final t w).setTrader t { s.at_ t w with wait := .drain }) := by
    refine congrArg Host.Outcome.next ?_
    rw [State.drainWaits_of_canIssue h.can, if_neg Bool.false_ne_true]
    exact h.issue_eq hk _ _
  rw [e, State.endCheck_final, apply_ite Host.Outcome.next, if_congr List.isEmpty_iff rfl rfl]

theorem State.Issues.exec_sev (hk : keyOf w = key 0x35) : exec (.sev t) s =
    .next ((if bit (fSel w) 5 then (s.final t w).ringDev (fSel w % 32) (s.final t w).tick
      else (s.final t w).ringHall t.h (fSel w % 32) (s.final t w).tick).endCheck t) := by
  have low : bits (fSel w) 4 0 = fSel w % 32 := bits_low _ 4
  rw [← low]
  exact congrArg Host.Outcome.next (h.issue_eq hk _ _)

theorem State.Issues.exec_trap (hk : keyOf w = key 0x37 6) : exec (.trap t) s = .next ((s.final t w).setTrader t
    { (s.at_ t w).endCheck (s.at_ t w).pc with trap := some ⟨15, w % 256, 0, w, ((s.at_ t w).endCheck (s.at_ t w).pc).pc⟩ }) := by
  have low : bits w 7 0 = w % 256 := bits_low _ 7
  rw [← State.trapAfter_final, ← low]
  exact congrArg Host.Outcome.next (h.issue_eq hk _ _)

theorem State.Issues.exec_sync (hk : keyOf w = key 0x37 9) : exec (.sync t) s = .next (s.leaves t w ((s.at_ t w).setBud ((s.final t w).cur t)
    ⟨0, if w % 256 = 255 then none else (s.final t w).budgetOf t (w % 256 % 64), w % 256, false⟩)) := by
  have low : bits w 7 0 = w % 256 := bits_low _ 7
  rw [← low]
  exact congrArg Host.Outcome.next (h.issue_eq hk _ _)

end Exec

/-! ## Special registers (R109, R144) -/

theorem Trader.fl_eq (tr : Trader) : tr.fl = 8 * b2n tr.z + 4 * b2n tr.n + 2 * b2n tr.c + b2n tr.v := by
  rw [Trader.fl]
  omega

/-- TSR shows S, the active loop levels and FL. -/
theorem Trader.tsr_eq (tr : Trader) :
    let act (n : Nat) : Nat := if tr.lcr n = 0 then 0 else 2 ^ (4 + n)
    tr.tsr = 128 * b2n tr.sup + act 2 + act 1 + act 0 + tr.fl := by
  intro act
  have active (n : Nat) : b2n (tr.lcr n != 0) * 2 ^ (4 + n) = act n := by
    simp only [act, b2n]
    by_cases e : tr.lcr n = 0 <;> simp [e]
  rw [← active 2, ← active 1, ← active 0, Trader.tsr]
  omega

theorem Trader.setFl_eq (tr : Trader) (v : Nat) :
    tr.setFl v = { tr with z := v.testBit 3, n := v.testBit 2, c := v.testBit 1, v := v.testBit 0 } := by
  simp only [Trader.setFl, bit_testBit]

theorem State.Issues.exec_movs (h : s.Issues t w) (hk : keyOf w = key 0x36) :
    let tr := s.at_ t w
    let g := gspecReg (fGspec w)
    exec (.movs t) s = .next (s.leaves t w (if fMovsW w then tr.setSpec (fSpec w) (tr.getG g) else tr.setG g (tr.getSpec (fSpec w)))) := by
  intro tr g
  refine congrArg Host.Outcome.next ?_
  rw [h.issueIllegal]
  exact State.simple_eq h hk _ _

/-- A write of a loop register changes it, and beside it at most the loop buffer. -/
theorem Trader.setSpec_loop (tr : Trader) {n : Nat} (hn : n < 3) (v : Nat) :
    (∃ b, tr.setSpec (8 + 4 * n) v = { tr.setLs n v with lbuf := b }) ∧ (∃ b, tr.setSpec (9 + 4 * n) v = { tr.setLe n v with lbuf := b }) ∧
      ∃ b, tr.setSpec (10 + 4 * n) v = { tr.setLc n v with lbuf := b } := by
  have ls := (tr.setLs n v).loopWritten_eq n
  have le := (tr.setLe n v).loopWritten_eq n
  have lc := (tr.setLc n v).loopWritten_eq n
  interval_cases n <;> exact ⟨ls, le, lc⟩

theorem Trader.getSpec_loop (tr : Trader) {n : Nat} (hn : n < 3) :
    tr.getSpec (8 + 4 * n) = tr.lsr n ∧ tr.getSpec (9 + 4 * n) = tr.ler n ∧ tr.getSpec (10 + 4 * n) = tr.lcr n := by
  interval_cases n <;> exact ⟨rfl, rfl, rfl⟩

theorem Trader.setSpec_fl (tr : Trader) (v : Nat) : tr.setSpec 1 v = { tr.setFl v with lbuf := tr.lbuf } := rfl

theorem Trader.setSpec_tsr (tr : Trader) (v : Nat) :
    tr.setSpec 2 v = { ({ tr with sup := tr.sup && v.testBit 7 } : Trader).setFl v with lbuf := tr.lbuf } := by
  rw [← bit_testBit]
  rfl

end Sys2Proof.Machine

namespace Sys2Proof.Proofs

open Sys2Proof.Machine

/-- Settles O11: a jump sets PC alone, and the start of a loop the registers of its level and PC. -/
theorem jumpsAndLoops : Obligations.JumpsAndLoops := by
  intro s t w h tr jump loops
  have goes {k : Nat} (hk : keyOf w = k) (uses : Nat → List GReg) (pc : Nat → State → Nat) :
      (.next (s.issue t k uses fun w s => s.goto t (pc w s)) : Out) = jump (pc w (s.final t w)) := congrArg _ (h.issue_eq hk uses _)
  have starts {k : Nat} (hk : keyOf w = k) (hm : fMajor w = 0x2E ∨ fMajor w = 0x2F) (uses : Nat → List GReg) (count : Nat → Trader → Nat)
      (small : count w tr < 65536) : loops (.next (s.issue t k uses fun w s => s.upd t fun tr => startLoop w (count w tr) tr)) (count w tr) := by
    have lvl := fLvl_of_legal h.legal hm
    rw [h.issue_eq hk]
    exact ⟨startLoop w (count w tr) tr, rfl, lvl, startLoop_spec w tr lvl small⟩
  have count : fCount w < 65536 := (bits_lt w 11 0).trans (by decide)
  exact ⟨fun hk => goes hk _ _, fun hk => goes hk _ _, fun hk => goes hk _ _,
    fun hk => starts hk (.inl (fMajor_of_keyOf hk (by decide))) _ (fun w _ => fCount w) count,
    fun hk => starts hk (.inr (fMajor_of_keyOf hk (by decide))) _ (fun w tr => tr.ar (fLoopAreg w)) (tr.ar_lt _)⟩

theorem waitsBegin : Claims.WaitsBegin := by
  intro s t w h f tr ends waits watch till
  have begins (x : Wait) {holds : Bool} {p : Prop} [Decidable p] (hp : holds = true ↔ p) :
      (.next (f.beginWait t x holds) : Out) = if p then ends tr else waits tr x := by
    rw [State.beginWait_final, ← if_congr hp rfl rfl]
    cases holds <;> rfl
  refine ⟨fun hk => ?_, fun hk hw => ?_, fun hk hw => ?_, fun hk => ?_, fun a o hr aligned sound quiet => ?_⟩
  · rw [h.exec_wfe hk, begins .wfe bne_iff_ne, ite_not]
  · rw [h.exec_wfb hk, State.wfbBody_waits hw]
    rfl
  · rw [h.exec_wfb hk, State.wfbBody_ends hw, State.endWait_setTrader]
    rfl
  · exact (h.exec_wtur hk).trans (begins _ decide_eq_true_iff)
  · intro v target ax dir pos
    exact ⟨fun hk => (h.exec_wtu hr aligned sound quiet hk).trans (begins _ decide_eq_true_iff),
      fun hk => (h.exec_wpu hr aligned sound quiet hk).trans (begins _ (passed_iff _ _ _))⟩

theorem waitsEnd : Claims.WaitsEnd := by
  intro s t can tr ends
  have watched : .next ((s.setTrader t { tr with watch := none }).endWait t) = ends { tr with watch := none } := by
    rw [State.endWait_setTrader]
  refine ⟨fun hw rom => State.exec_wfeEnd can hw rom, fun calm => ⟨fun b hw hb => ?_, fun v hw => State.exec_wtuEnd can calm hw,
    fun ax dir target sg hw => ?_⟩⟩
  · rw [State.exec_wfbEnd can calm hw hb, watched]
  · rw [State.exec_wpuEnd can calm hw, if_congr (passed_since_iff _ _ _ _) rfl rfl]
    rfl

/-- Settles O12: an instruction that waits, and its end, ask the same condition; where it holds, the end check and the sync point follow. -/
theorem waits : Obligations.Waits := ⟨waitsBegin, waitsEnd⟩

/-- Settles O13: each of these operations changes one part of its trader, or rings one bell, and makes the end check. -/
theorem systemOperations : Obligations.SystemOperations := by
  intro s t w h f tr done m table
  have changes {k : Nat} {f : Nat → Trader → Trader} {uses : Nat → List GReg} {tr' : Trader} (hk : keyOf w = k) (e : f w tr = tr') :
      (.next (s.simple t k uses f) : Out) = done tr' := congrArg Host.Outcome.next (e ▸ State.simple_eq h hk uses f)
  have two : bits w 1 0 = w % 4 := bits_low w 1
  have eight : bits w 7 0 = w % 256 := bits_low w 7
  have one : bit w 0 = (w % 2 == 1) := rfl
  refine ⟨h.exec_sev, h.exec_drain, fun hk => changes hk ?_, fun hk => changes hk rfl, fun hk => changes hk ?_, fun hk => changes hk rfl,
    fun hk => changes hk rfl, h.exec_trap, fun hk => changes hk rfl, fun hk en bp => changes hk ?_, fun hk off => changes hk ?_, fun hk => ?_⟩
  · rw [two]
  · rw [eight]
  · rw [en, bp, Bool.and_self, Bool.or_true]
  · have none : (s.dbg.en && s.dbg.breakpoints) = false := by rcases off with e | e <;> simp [e]
    rw [none, Bool.or_false]
  · rw [h.exec_sync hk, State.budgetOf_eq]

/-- Settles O14: MOVS moves what the special register reads, or writes it; beside it at most the loop buffer changes. -/
theorem moveSpecialRegisters : Obligations.MoveSpecialRegisters := by
  intro s t w h hk tr g x gets puts v fl flRd act
  have get {sp n : Nat} (hs : fSpec w = sp) (e : tr.getSpec sp = n) : gets n := fun read => by
    rw [← e, ← hs]
    exact (h.exec_movs hk).trans (by rw [if_neg (by rw [read]; decide)])
  have put {sp : Nat} {tr' : Trader} (hs : fSpec w = sp) (e : ∃ b, tr.setSpec sp v = { tr' with lbuf := b }) : puts tr' := fun write => by
    obtain ⟨b, e⟩ := e
    refine ⟨b, ?_⟩
    rw [← e, ← hs]
    exact (h.exec_movs hk).trans (by rw [if_pos write])
  have flags (tr : Trader) : tr.setFl v = fl tr := tr.setFl_eq v
  have tsr : tr.getSpec 2 = 128 * b2n tr.sup + act 2 + act 1 + act 0 + flRd := tr.tsr_eq.trans (by rw [tr.fl_eq])
  refine ⟨fun hs => get hs rfl, fun hs => ⟨get hs tr.fl_eq, put hs ⟨tr.lbuf, ?_⟩⟩, fun hs => ⟨get hs tsr, put hs ⟨tr.lbuf, ?_⟩⟩,
    fun hs => ⟨get hs rfl, put hs ⟨tr.lbuf, rfl⟩⟩, fun hs => ⟨get hs rfl, put hs ⟨tr.lbuf, rfl⟩⟩, fun hs => get hs rfl, fun hs => get hs rfl,
    fun hs => get hs rfl, fun n hn => ?_⟩
  · rw [← flags, tr.setSpec_fl]
  · rw [← flags, tr.setSpec_tsr]
  · obtain ⟨ls, le, lc⟩ := tr.setSpec_loop hn v
    obtain ⟨ls', le', lc'⟩ := tr.getSpec_loop hn
    exact ⟨fun hs => ⟨get hs ls', put hs ls⟩, fun hs => ⟨get hs le', put hs le⟩, fun hs => ⟨get hs lc', put hs lc⟩⟩

end Sys2Proof.Proofs
end

section
/-! SUPPORT. Scale operations that issue (R146 to R150): the result on its way, the event of an absent coprocessor, and the fixed-point
arithmetic on integers. -/

namespace Sys2Proof.Machine

variable {s u v : State} {t : TraderId} {w k op : Nat}

/-! ## Error marks on the way to the issue slot -/

/-- The part is the same one, and no word has an error mark that it had not. -/
def State.MarksFewer (s u : State) : Prop := u.part = s.part ∧ ∀ k, Tab.find s.ecc k = none → Tab.find u.ecc k = none

theorem State.MarksFewer.of_eq (hp : u.part = s.part) (he : u.ecc = s.ecc) : s.MarksFewer u := ⟨hp, fun _ h => he ▸ h⟩

theorem State.MarksFewer.refl (s : State) : s.MarksFewer s := .of_eq rfl rfl

theorem State.MarksFewer.trans (h : s.MarksFewer u) (h' : u.MarksFewer v) : s.MarksFewer v :=
  ⟨h'.1.trans h.1, fun k hk => h'.2 k (h.2 k hk)⟩

theorem State.marksFewer_upd (s : State) (t : TraderId) (f : Trader → Trader) : s.MarksFewer (s.upd t f) := .of_eq rfl rfl

theorem State.marksFewer_wordClean (s : State) (x : Nat × Nat) : s.MarksFewer (s.wordClean x) := by
  refine ⟨rfl, fun k hk => ?_⟩
  by_cases e : k = x
  · exact e ▸ Tab.find_del_self _ _
  · exact (Tab.find_del_ne _ e).trans hk

theorem State.marksFewer_scClean (s : State) (t : TraderId) (i : Nat) : s.MarksFewer (s.scClean t i) := by
  unfold State.scClean
  split
  · exact s.marksFewer_wordClean _
  · exact .refl s

theorem State.marksFewer_finishes (s : State) (t : TraderId) : s.MarksFewer (s.finishes t) := by
  have atom (s : State) : s.MarksFewer (s.finishAtom t) := by
    unfold State.finishAtom
    split
    · split
      · exact s.marksFewer_upd t _
      · exact .refl s
    · exact .refl s
  have pop (s : State) : s.MarksFewer (s.finishPop t) := by
    unfold State.finishPop
    split
    · exact s.marksFewer_upd t _
    · exact .refl s
  have drain (s : State) : s.MarksFewer (s.finishDrain t) := by
    unfold State.finishDrain
    split
    · exact (s.marksFewer_upd t _).trans (State.marksFewer_upd _ t _)
    · exact .refl s
  exact (atom s).trans ((pop _).trans (drain _))

theorem State.marksFewer_land (s : State) (t : TraderId) : s.MarksFewer (s.land t) := by
  have cleans (es : List ScPend) (s : State) : s.MarksFewer (es.foldl (fun (s : State) e => s.scClean t e.dst) s) :=
    List.foldlRecOn (motive := fun u : State => s.MarksFewer u) es _ (.refl s) fun u hu e _ => hu.trans (u.marksFewer_scClean t e.dst)
  unfold State.land
  dsimp only
  split
  · exact .of_eq rfl rfl
  · have cleaned := fun tr => cleans ((s.trader t).scq.filter fun e => decide (e.due ≤ (s.trader t).slot)) (s.setTrader t tr)
    exact .trans (.of_eq rfl rfl) ((cleaned _).trans (.of_eq rfl rfl))

theorem State.marksFewer_ownSlot (s : State) (t : TraderId) (lvl : Nat) : s.MarksFewer (s.ownSlot t lvl) := by
  have landed : s.MarksFewer ((s.takeSlot t).land t) := .trans (.of_eq rfl rfl) (State.marksFewer_land _ t)
  unfold State.ownSlot State.countSlot
  split
  · exact landed.trans (.of_eq rfl rfl)
  · exact landed

theorem State.marksFewer_took (s : State) (t : TraderId) (w : Nat) : s.MarksFewer (s.took t w) := by
  have used : s.MarksFewer (s.usedLine t) := by
    unfold State.usedLine
    dsimp only
    split
    · exact .refl s
    · split
      · exact .of_eq rfl rfl
      · exact .refl s
  unfold State.took
  dsimp only
  split
  · exact used.trans ((State.marksFewer_upd _ t _).trans (State.marksFewer_wordClean _ _))
  · exact used.trans (State.marksFewer_upd _ t _)

theorem State.marksFewer_final (s : State) (t : TraderId) (w : Nat) : s.MarksFewer (s.final t w) := by
  unfold State.final
  split
  · exact s.marksFewer_ownSlot t _
  · exact (s.marksFewer_finishes t).trans ((State.marksFewer_ownSlot _ t _).trans (State.marksFewer_took _ t w))

/-! ## Scale operations that issue -/

theorem bits_four_lt (w lo : Nat) : bits w (lo + 3) lo < 16 := by
  have h := bits_lt w (lo + 3) lo
  rwa [show lo + 3 + 1 - lo = 4 by omega] at h

theorem scReads_lt {i : Nat} (h : i ∈ scReads op w) : i < 16 := by
  have cd : fCd w < 16 := bits_four_lt w 13
  have ca : fCa w < 16 := bits_four_lt w 9
  have cb : fCb w < 16 := bits_four_lt w 5
  unfold scReads at h
  rw [List.mem_append, List.mem_append] at h
  rcases h with (h | h) | h <;> split at h
  all_goals simp at h
  all_goals omega

/-- A Scale operation whose registers carry no error mark reads them. -/
theorem State.scRead_of_sound (sound : u.scSound t) (f : State → State) : u.scRead t (scReads op w) w f = f u := by
  have none_ : (scReads op w).filterMap (fun i => Tab.find u.ecc (scWord t i)) = [] :=
    List.filterMap_eq_nil_iff.mpr fun i hi => sound i (scReads_lt hi)
  rw [State.scRead, State.scMark, none_]
  rfl

/-- A Scale operation that issues changes its trader and makes the end check. -/
theorem State.Issues.scale_eq (h : s.Issues t w) (on : s.part.scale = true) (sound : s.scSound t) (hk : keyOf w = key 0x38 op)
    (uses : Nat → List GReg) (body : Nat → Trader → Trader) : s.scale t op uses body = s.leaves t w (body w (s.at_ t w)) := by
  obtain ⟨part, marks⟩ := s.marksFewer_final t w
  refine (h.issue_eq hk _ _).trans ?_
  rw [part, if_pos on]
  exact State.scRead_of_sound (fun i hi => marks _ (sound i hi)) _

/-- Where CP0 is absent, a Scale operation takes CP_ABSENT with number 0 (R150). -/
theorem State.Issues.scale_absent (h : s.Issues t w) (off : s.part.scale = false) (hk : keyOf w = key 0x38 op)
    (uses : Nat → List GReg) (body : Nat → Trader → Trader) : s.scale t op uses body = (s.final t w).trapAfter t 14 0 w := by
  refine (h.issue_eq hk _ _).trans ?_
  rw [(s.marksFewer_final t w).1, off]
  rfl

/-- A Scale operation with a result puts it on its way. -/
theorem State.Issues.scale_result (h : s.Issues t w) (on : s.part.scale = true) (sound : s.scSound t) (hk : keyOf w = key 0x38 op)
    (uses : Nat → List GReg) (l : Nat) (f : Nat → Trader → Nat × Nat) {r : Nat × Nat} (hr : f w (s.at_ t w) = r) :
    (.next (s.scale t op uses fun w tr => tr.scResult l (fCd w) (f w tr)) : Out) =
      .next (s.leaves t w { s.at_ t w with scq := (s.at_ t w).scq ++ [⟨(s.at_ t w).slot + l, fCd w, r.1, r.2⟩] }) := by
  rw [h.scale_eq on sound hk, hr]
  rfl

theorem Trader.setP_scResult (tr : Trader) (i : Nat) (b : Bool) (fl : Nat) :
    (tr.setP i b).scResult 1 16 (0, fl) = { tr.setP i b with scq := tr.scq ++ [⟨tr.slot + 1, 16, 0, fl⟩] } := by
  unfold Trader.setP Trader.scResult
  split <;> rfl

/-- A comparison writes its predicate, and its flags are on their way. -/
theorem State.Issues.scale_compare (h : s.Issues t w) (on : s.part.scale = true) (sound : s.scSound t) (hk : keyOf w = key 0x38 op)
    (uses : Nat → List GReg) (f : Nat → Trader → Bool × Nat) {b : Bool} {fl : Nat} (hr : f w (s.at_ t w) = (b, fl)) :
    (.next (s.scale t op uses fun w tr => (tr.setP (fCd w % 8) (f w tr).1).scResult 1 16 (0, (f w tr).2)) : Out) =
      .next (s.leaves t w { (s.at_ t w).setP (fCd w % 8) b with scq := (s.at_ t w).scq ++ [⟨(s.at_ t w).slot + 1, 16, 0, fl⟩] }) := by
  rw [h.scale_eq on sound hk, hr, Trader.setP_scResult]

theorem fXf_eq (w : Nat) : fXf w = w % 32 := bits_low w 4

theorem fCond_eq (w : Nat) : bits w 2 0 = w % 8 := bits_low w 2

/-! ## Fixed point (R148) -/

theorem xSat_eq (v : Int) (inx : Bool) : xSat v inx =
    if v < -2 ^ 31 then (0x80000000, 2) else if 2 ^ 31 ≤ v then (0x7FFFFFFF, 2) else ((v % 2 ^ 32).toNat, b2n inx) := by
  by_cases lo : v < -2 ^ 31
  · have e : satS 32 v = -2 ^ 31 := if_pos lo
    rw [xSat, e, if_neg (by omega), if_pos lo]
    rfl
  · by_cases hi : 2 ^ 31 ≤ v
    · have e : satS 32 v = 2 ^ 31 - 1 := (if_neg lo).trans (if_pos hi)
      rw [xSat, e, if_neg (by omega), if_neg lo, if_pos hi]
      rfl
    · have e : satS 32 v = v := (if_neg lo).trans (if_neg hi)
      rw [xSat, e, if_pos rfl, if_neg lo, if_neg hi, unsg]

theorem satS_eq_self (v : Int) : satS 32 v = v ↔ -2 ^ 31 ≤ v ∧ v < 2 ^ 31 := by
  unfold satS
  split
  · omega
  · split <;> omega

theorem roundAway_eq (x : Int) (d : Nat) : roundAway x d = x.sign * ((x.natAbs + d / 2) / d : Nat) := by
  have halves (m : Nat) : (2 * m + d) / (2 * d) = (m + d / 2) / d := by
    rw [← Nat.div_div_eq_div_mul, show (2 * m + d) / 2 = m + d / 2 by omega]
  rcases lt_trichotomy x 0 with neg | rfl | pos
  · obtain ⟨m, rfl⟩ : ∃ m : Nat, x = -m := ⟨x.natAbs, by omega⟩
    rw [roundAway, if_pos neg, Int.sign_eq_neg_one_of_neg neg, Int.natAbs_neg, Int.natAbs_natCast, ← halves]
    push_cast
    rw [neg_neg, neg_one_mul]
  · rcases Nat.eq_zero_or_pos d with rfl | hd
    · rfl
    · have small : (d : Int) / (2 * d) = 0 := Int.ediv_eq_zero_of_lt (by omega) (by omega)
      simpa [roundAway] using small
  · obtain ⟨m, rfl⟩ : ∃ m : Nat, x = m := ⟨x.toNat, by omega⟩
    rw [roundAway, if_neg (by omega), Int.sign_eq_one_of_pos pos, Int.natAbs_natCast, ← halves, one_mul]
    push_cast
    rfl

theorem bne_zero_eq (x : Int) : (x != 0) = decide (x ≠ 0) := by
  by_cases e : x = 0 <;> simp [e]

theorem tmod_bne_zero (x b : Int) : (Int.tmod x b != 0) = decide (b * Int.tdiv x b ≠ x) := by
  have e := Int.mul_tdiv_add_tmod x b
  rw [bne_zero_eq]
  exact decide_eq_decide.mpr (by omega)

theorem xCond_eq (c : Nat) (a b : Int) : xCond c a b = match c with
    | 0 => decide (a = b) | 1 => decide (a ≠ b) | 2 => decide (a < b) | 3 => decide (b ≤ a) | 4 => decide (a ≤ b)
    | _ => decide (b < a) := by
  unfold xCond
  split <;> simp [bne, beq_eq_decide]

end Sys2Proof.Machine

namespace Sys2Proof.Proofs

open Sys2Proof.Machine

/-- Settles O24: each operation that issues puts its result on its way, and the model's saturation, rounding and division are those of integers. -/
theorem scaleFixedPoint : Obligations.ScaleFixedPoint := by
  intro s t w h on sound tr a b d n res low sat sum prod lost cmp
  have sat_eq (v : Int) (inx : Bool) : xSat v inx = sat v inx := xSat_eq v inx
  have sum_eq (v : Int) : xSum (bit w 0) v = sum v := by
    have parity : bit w 0 = decide (w % 2 = 1) := by rw [bit_eq, Nat.pow_zero, Nat.div_one, beq_eq_decide]
    by_cases e : w % 2 = 1
    · rw [xSum, parity, decide_eq_true e, if_pos rfl, sat_eq]
      exact (if_pos e).symm
    · simp only [xSum, parity, e, satS_eq_self, decide_false, sum]
      rfl
  have prod_eq : xProd a b (fXf w) = (prod, lost) := by
    rw [xProd, roundAway_eq, fXf_eq, bne_zero_eq]
  have result {op : Nat} (hk : keyOf w = key 0x38 op) (uses : Nat → List GReg) (l : Nat) (f : Nat → Trader → Nat × Nat) {r : Nat × Nat}
      (hr : f w tr = r) : (.next (s.scale t op uses fun w tr => tr.scResult l (fCd w) (f w tr)) : Out) = res l r :=
    h.scale_result on sound hk uses l f hr
  refine ⟨fun hk => congrArg Host.Outcome.next (h.scale_eq on sound hk _ _), fun hk => result hk _ 1 _ (sum_eq _), fun hk => result hk _ 1 _ (sum_eq _),
    fun hk => result hk _ 2 _ ?_, fun hk => result hk _ 2 _ ?_, fun hk => result hk _ 8 _ ?_, fun hk => result hk _ 1 _ ?_,
    fun hk => result hk _ 1 _ ?_,
    fun hk => h.scale_compare on sound hk _ (fun w tr => (xCond (bits w 2 0) (tr.fx (fCa w)) (tr.fx (fCb w)), 0)) ?_,
    fun hk => result hk _ 1 _ rfl, fun hk => result hk _ 1 _ ?_,
    fun hk => result hk _ 1 _ (sat_eq _ _), fun hk => result hk _ 1 _ rfl⟩
  case refine_1 => exact (congrArg (fun q : Int × Bool => xSat q.1 q.2) prod_eq).trans (sat_eq _ _)
  case refine_2 => exact (congrArg (fun q : Int × Bool => xSat (d + q.1) q.2) prod_eq).trans (sat_eq _ _)
  case refine_3 =>
    change xDivF a b (fXf w) = _
    rw [xDivF, fXf_eq, tmod_bne_zero, sat_eq]
  case refine_4 =>
    change xSat (a * 2 ^ fXf w) false = _
    rw [fXf_eq, sat_eq]
  case refine_5 =>
    change (unsg 32 (a >>> fXf w), b2n (a % (2 ^ fXf w : Int) != 0)) = _
    rw [fXf_eq, Int.shiftRight_eq_div_pow, bne_zero_eq]
    rfl
  case refine_6 =>
    exact congrArg (fun c : Bool => (c, 0)) ((congrArg (fun k => xCond k a b) (fCond_eq w)).trans (xCond_eq (w % 8) a b))
  case refine_7 =>
    change xSat (a.natAbs : Int) false = _
    rw [sat_eq, show (a.natAbs : Int) = if a < 0 then -a else a by split <;> omega]

end Sys2Proof.Proofs
end

section
/-! SUPPORT. The binary32 operations of Scale that issue (R147, R149), and what they give on zeros, infinities and NaNs. -/

namespace Sys2Proof.Machine

/-! ## Zeros, infinities and NaNs (R147) -/

theorem sigInv_pair (a b : Fp) : sigInv [a, b] = 8 ↔ a = .nan true ∨ b = .nan true := by
  have mem : [a, b].contains (.nan true) = true ↔ a = .nan true ∨ b = .nan true := by
    rw [List.contains_iff_mem, List.mem_pair, eq_comm, @eq_comm _ _ b]
  rw [← mem, sigInv]
  split
  case isTrue h => exact ⟨fun _ => h, fun _ => rfl⟩
  case isFalse h => exact ⟨fun e => absurd e (by decide), fun e => absurd e h⟩

theorem Fp.isNan_iff (a : Fp) : a.isNan = true ↔ ∃ q, a = .nan q := by
  cases a <;> simp [Fp.isNan]

/-- An operation on two operands of which one is a NaN gives the one NaN, and INV for a signalling one. -/
def GivesNan (f : Fp → Fp → Nat × Nat) : Prop :=
  ∀ (q : Bool) (a : Fp), f (.nan q) a = (fpNan, sigInv [.nan q, a]) ∧ f a (.nan q) = (fpNan, sigInv [a, .nan q])

theorem GivesNan.of_isNan {f : Fp → Fp → Nat × Nat} (hf : GivesNan f) {a b : Fp} (h : a.isNan ∨ b.isNan) : f a b = (fpNan, sigInv [a, b]) := by
  rw [Fp.isNan_iff, Fp.isNan_iff] at h
  rcases h with ⟨q, rfl⟩ | ⟨q, rfl⟩
  · exact (hf q b).1
  · exact (hf q a).2

theorem fpAddF_nan : GivesNan fpAddF := fun _ a => by cases a <;> exact ⟨rfl, rfl⟩
theorem fpMulF_nan : GivesNan fpMulF := fun _ a => by cases a <;> exact ⟨rfl, rfl⟩
theorem fpDivF_nan : GivesNan fpDivF := fun _ a => by cases a <;> exact ⟨rfl, rfl⟩

/-- A NaN is not less than anything, and nothing is less than it. -/
theorem fpLt_nan {a b : Fp} (h : a.isNan ∨ b.isNan) : fpLt a b = false := by
  rw [Fp.isNan_iff, Fp.isNan_iff] at h
  rcases h with ⟨q, rfl⟩ | ⟨q, rfl⟩
  · rfl
  · cases a <;> rfl

/-- Of the comparisons with a NaN, those for not equal and for unordered hold. -/
theorem fpCond_nan {a b : Fp} (h : a.isNan ∨ b.isNan) {c : Nat} (hc : c < 7) :
    (fpCond c a b).1 = decide (c = 1 ∨ c = 6) ∧ (2 ≤ c → c ≤ 5 → (fpCond c a b).2 = 8) := by
  have un : (a.isNan || b.isNan) = true := by rwa [Bool.or_eq_true]
  have eq : fpEq a b = false := by
    rcases h with h | h <;> simp [fpEq, h]
  have lt := fpLt_nan h
  have gt := fpLt_nan h.symm
  refine ⟨?_, fun lo hi => ?_⟩
  · match c, hc with
    | 0, _ => exact eq
    | 1, _ => simp [fpCond, eq]
    | 2, _ => exact lt
    | 3, _ => simp [fpCond, un]
    | 4, _ => simp [fpCond, un]
    | 5, _ => exact gt
    | 6, _ => exact un
  · simp [fpCond, un, lo, hi]

theorem fpInf_eq (n : Bool) : fpInf n = b2n n * 2 ^ 31 + 0x7F800000 := rfl

/-- What an operand reads as, by the fields of its bits. -/
theorem Fp.ofBits_eq (x : Nat) : Fp.ofBits x =
    if x / 2 ^ 23 % 256 = 255 then (if x % 2 ^ 23 = 0 then .inf (x / 2 ^ 31 % 2 == 1) else .nan (!(x / 2 ^ 22 % 2 == 1)))
    else if x / 2 ^ 23 % 256 = 0 then .zero (x / 2 ^ 31 % 2 == 1)
    else .fin (x / 2 ^ 31 % 2 == 1) (x % 2 ^ 23 + 2 ^ 23) ((x / 2 ^ 23 % 256 : Nat) - 150) := by
  have ex : bits x 30 23 = x / 2 ^ 23 % 256 := bits_eq_div x 30 23
  have fr : bits x 22 0 = x % 2 ^ 23 := bits_low x 22
  unfold Fp.ofBits
  simp only [ex, fr, bit_eq]

end Sys2Proof.Machine

namespace Sys2Proof.Proofs

open Sys2Proof.Machine

/-- O25, the operations: each operation that issues puts the result of its function on its way. -/
theorem scaleBinary32_operations : Claims.ScaleBinary32 := by
  intro s t w h on sound tr x a b d n res cmp
  have result {op : Nat} (hk : keyOf w = key 0x38 op) (uses : Nat → List GReg) (l : Nat) (f : Nat → Trader → Nat × Nat) {r : Nat × Nat}
      (hr : f w tr = r) : (.next (s.scale t op uses fun w tr => tr.scResult l (fCd w) (f w tr)) : Out) = res l r :=
    h.scale_result on sound hk uses l f hr
  refine ⟨fun hk => result hk _ 2 _ rfl, fun hk => result hk _ 2 _ rfl, fun hk => result hk _ 2 _ rfl, fun hk => result hk _ 3 _ rfl,
    fun hk => result hk _ 8 _ rfl, fun hk => result hk _ 8 _ rfl,
    fun hk => h.scale_compare on sound hk _ (fun w tr => fpCond (bits w 2 0) (tr.fp (fCa w)) (tr.fp (fCb w))) ?_,
    fun hk => result hk _ 2 _ (congrArg (fpToX a) (fXf_eq w)), fun hk => result hk _ 2 _ (congrArg (xToFp (sgn 32 x)) (fXf_eq w)),
    fun hk => result hk _ 1 _ rfl, fun hk => result hk _ 1 _ rfl, fun hk => result hk _ 1 _ rfl⟩
  change fpCond (bits w 2 0) a b = _
  rw [fCond_eq]

/-- O25, the special values. -/
theorem scaleBinary32_specialValues : Claims.Binary32SpecialValues := by
  refine ⟨fun a b h => ?_, fun x y => ?_, fun x y m e => ⟨rfl, rfl⟩, fun a b c h hc => fpCond_nan h hc, fun x hx zero => ?_⟩
  · rw [fpAddF_nan.of_isNan h, fpMulF_nan.of_isNan h, fpDivF_nan.of_isNan h]
    exact ⟨rfl, rfl, rfl, sigInv_pair a b⟩
  · refine ⟨rfl, rfl, rfl, rfl, ?_, rfl, rfl⟩
    cases x <;> rfl
  · rw [Fp.ofBits_eq, if_neg (by omega), if_pos zero, beq_eq_decide]
    exact congrArg Fp.zero (decide_eq_decide.mpr (by omega))

/-- Settles O25: the operations that issue, and their special values. -/
theorem scaleBinary32 : Obligations.ScaleBinary32 := ⟨scaleBinary32_operations, scaleBinary32_specialValues⟩

end Sys2Proof.Proofs
end

section
/-! SUPPORT. Binary32 numbers as rationals (R147): what an operand is worth, and rounding of a number that binary32 has. -/

namespace Sys2Proof.Machine

/-! ## Operands as rationals -/

/-- The sign of a number. -/
def sgnQ (n : Bool) : ℚ := if n then -1 else 1

/-- What a finite operand is worth. -/
def Fp.val : Fp → ℚ
  | .fin n m e => sgnQ n * (m * 2 ^ e)
  | _ => 0

/-- A finite operand as it reads: a zero, or a number with a mantissa of 24 bits. -/
def Fp.Numeric : Fp → Prop
  | .zero _ => True
  | .fin _ m _ => 2 ^ 23 ≤ m ∧ m < 2 ^ 24
  | _ => False

theorem Fp.ofBits_numeric {x : Nat} (h : f32Finite x) : (Fp.ofBits x).Numeric := by
  unfold f32Finite f32Exp at h
  rw [Fp.ofBits_eq, if_neg (by omega)]
  split
  · trivial
  · exact ⟨by omega, by omega⟩

theorem Fp.ofBits_val {x : Nat} (h : f32Finite x) : (f32Units x : ℚ) = (Fp.ofBits x).val * 2 ^ 149 := by
  unfold f32Finite f32Exp at h
  rw [Fp.ofBits_eq, if_neg (by omega), f32Units, f32Exp]
  by_cases zero : x / 2 ^ 23 % 256 = 0
  · rw [if_pos zero, if_pos zero]
    simp [Fp.val]
  · rw [if_neg zero, if_neg zero, Fp.val, sgnQ]
    generalize x / 2 ^ 23 % 256 = k at *
    generalize x % 2 ^ 23 = r
    have scale : (2 : ℚ) ^ (k - 1) = 2 ^ ((k : Int) - 150) * 2 ^ 149 := by
      rw [← zpow_natCast, ← zpow_natCast, ← zpow_add₀ (by norm_num)]
      congr 1
      omega
    rw [mul_assoc, mul_assoc, ← scale]
    simp only [beq_iff_eq]
    push_cast
    split <;> ring

theorem Fp.val_ofBits {x : Nat} (h : f32Finite x) : (Fp.ofBits x).val = f32Units x / 2 ^ 149 := by
  rw [Fp.ofBits_val h, mul_div_cancel_right₀ _ (by norm_num)]

/-- The fields of a normal number. -/
theorem f32Normal.fields {z : Nat} (h : f32Normal z) : ∃ (n : Bool) (m k : Nat), Fp.ofBits z = .fin n m ((k : Int) - 150) ∧ 2 ^ 23 ≤ m ∧ m < 2 ^ 24 ∧
    1 ≤ k ∧ k < 255 ∧ z = b2n n * 2 ^ 31 + k * 2 ^ 23 + (m - 2 ^ 23) := by
  obtain ⟨lt, pos, fin⟩ := h
  unfold f32Exp at pos fin
  refine ⟨_, _, _, (Fp.ofBits_eq z).trans ((if_neg (by omega)).trans (if_neg (by omega))), by omega, by omega, pos, fin, ?_⟩
  rcases Nat.mod_two_eq_zero_or_one (z / 2 ^ 31) with e | e <;> rw [e] <;> simp only [b2n] <;> norm_num <;> omega

theorem f32Normal.finite {z : Nat} (h : f32Normal z) : f32Finite z := h.2.2

/-! ## Rounding of a number that binary32 has -/

/-- Two numbers of a mantissa and an exponent that are worth the same have their leading bits at the same place. -/
theorem log2_add_of_eq {m M : Nat} {e E : Int} (lo : 2 ^ 23 ≤ M) (hi : M < 2 ^ 24) (h : (m : ℚ) * 2 ^ e = M * 2 ^ E) :
    (Nat.log2 m : Int) + e = 23 + E := by
  have two : (0 : ℚ) < 2 := by norm_num
  have pos : 0 < m := by
    rcases Nat.eq_zero_or_pos m with rfl | h0
    · rw [Nat.cast_zero, zero_mul, eq_comm, mul_eq_zero, Nat.cast_eq_zero] at h
      rcases h with h | h
      · omega
      · exact absurd h (zpow_ne_zero _ two.ne')
    · exact h0
  have lo' : (2 : ℚ) ^ (Nat.log2 m : Int) ≤ m := by exact_mod_cast Nat.log2_self_le pos.ne'
  have hi' : (m : ℚ) < 2 ^ ((Nat.log2 m : Int) + 1) := by exact_mod_cast Nat.lt_log2_self
  have lo2 : (2 : ℚ) ^ (23 : Int) ≤ M := by exact_mod_cast lo
  have hi2 : (M : ℚ) < 2 ^ (24 : Int) := by exact_mod_cast hi
  have a : (2 : ℚ) ^ ((Nat.log2 m : Int) + e) < 2 ^ (24 + E) := by
    rw [zpow_add₀ two.ne', zpow_add₀ two.ne']
    calc _ ≤ (m : ℚ) * 2 ^ e := mul_le_mul_of_nonneg_right lo' (zpow_pos two _).le
      _ = M * 2 ^ E := h
      _ < _ := mul_lt_mul_of_pos_right hi2 (zpow_pos two _)
  have b : (2 : ℚ) ^ (23 + E) < 2 ^ ((Nat.log2 m : Int) + 1 + e) := by
    rw [zpow_add₀ two.ne' 23, zpow_add₀ two.ne' _ e]
    calc _ ≤ (M : ℚ) * 2 ^ E := mul_le_mul_of_nonneg_right lo2 (zpow_pos two _).le
      _ = m * 2 ^ e := h.symm
      _ < _ := mul_lt_mul_of_pos_right hi' (zpow_pos two _)
  rw [zpow_lt_zpow_iff_right₀ (by norm_num)] at a b
  omega

/-- Equal numbers of which the first has the smaller exponent: its mantissa is a multiple of the other's. -/
theorem mantissa_of_eq {m M : Nat} {e E : Int} (h : (m : ℚ) * 2 ^ e = M * 2 ^ E) {k : Nat} (hk : E = e + k) : m = M * 2 ^ k := by
  rw [hk, zpow_add₀ (by norm_num), zpow_natCast, mul_comm (2 ^ e : ℚ), ← mul_assoc] at h
  exact_mod_cast mul_right_cancel₀ (zpow_ne_zero e (by norm_num)) h

/-- A number that binary32 has is rounded to itself. -/
theorem fpRound_of_eq {n : Bool} {m M k : Nat} {e : Int} (lo : 2 ^ 23 ≤ M) (hi : M < 2 ^ 24) (k1 : 1 ≤ k) (k2 : k < 255)
    (h : (m : ℚ) * 2 ^ e = M * 2 ^ ((k : Int) - 150)) : fpRound n m e false = (b2n n * 2 ^ 31 + k * 2 ^ 23 + (M - 2 ^ 23), 0) := by
  have lead := log2_add_of_eq lo hi h
  have ne : m ≠ 0 := by
    rintro rfl
    rw [show Nat.log2 0 = 0 from by decide] at lead
    have e2 := mantissa_of_eq h.symm (k := (e - (k - 150)).toNat) (by omega)
    omega
  have q : (if 23 < m.log2 then m >>> (m.log2 - 23) else m <<< (23 - m.log2)) = M ∧ (if 23 < m.log2 then m % 2 ^ (m.log2 - 23) else 0) = 0 := by
    by_cases big : 23 < m.log2
    · have hm := mantissa_of_eq h (k := m.log2 - 23) (by omega)
      rw [if_pos big, if_pos big, Nat.shiftRight_eq_div_pow]
      exact ⟨Nat.div_eq_of_eq_mul_left (by positivity) hm, Nat.mod_eq_zero_of_dvd ⟨M, by rw [Nat.mul_comm]; exact hm⟩⟩
    · have hm := mantissa_of_eq h.symm (k := 23 - m.log2) (by omega)
      rw [if_neg big, if_neg big, Nat.shiftLeft_eq]
      exact ⟨hm.symm, rfl⟩
  have half : 0 < if 23 < m.log2 then 2 ^ (m.log2 - 24) else 1 := by split <;> positivity
  obtain ⟨hq, hr⟩ := q
  have up : (decide ((if 23 < m.log2 then 2 ^ (m.log2 - 24) else 1) < 0) || (decide ((if 23 < m.log2 then 2 ^ (m.log2 - 24) else 1) = 0) &&
      (false || M % 2 == 1))) = false := by
    simp [half.ne']
  unfold fpRound
  rw [if_neg ne]
  simp only [hq, hr, up, Bool.false_and, Bool.false_eq_true, if_false, show M ≠ 2 ^ 24 from hi.ne]
  rw [if_neg (by omega), if_neg (by omega), show (e + m.log2 + 0 + 127 : Int).toNat = k by omega]
  rfl

end Sys2Proof.Machine
end

section
/-! SUPPORT. The binary32 operations on finite operands (R147): where the exact result is a normal number, it is the result. -/

namespace Sys2Proof.Machine

variable {a b c : Fp} {z : Nat}

theorem mantissa_pos {m : Nat} (hm : 2 ^ 23 ≤ m) (e : Int) : (0 : ℚ) < m * 2 ^ e :=
  mul_pos (by exact_mod_cast (by omega : 0 < m)) (zpow_pos (by norm_num) e)

theorem f32Normal.val_ne_zero (hz : f32Normal z) : (Fp.ofBits z).val ≠ 0 := by
  obtain ⟨n, m, k, e, lo, -⟩ := hz.fields
  rw [e, Fp.val]
  refine mul_ne_zero ?_ (mantissa_pos lo _).ne'
  cases n <;> norm_num [sgnQ]

/-- An exact result that is a normal number is rounded to it. -/
theorem fpRound_of_val (hz : f32Normal z) {n : Bool} {m : Nat} {e : Int} (h : sgnQ n * (m * 2 ^ e) = (Fp.ofBits z).val) :
    fpRound n m e false = (z, 0) := by
  obtain ⟨n', M, k, ez, lo, hi, k1, k2, bits⟩ := hz.fields
  rw [ez, Fp.val] at h
  have pos := mantissa_pos lo ((k : Int) - 150)
  have nonneg : (0 : ℚ) ≤ m * 2 ^ e := mul_nonneg m.cast_nonneg (zpow_pos (by norm_num) e).le
  have same : n = n' ∧ (m : ℚ) * 2 ^ e = M * 2 ^ ((k : Int) - 150) := by
    cases n <;> cases n' <;> simp only [sgnQ, if_true, Bool.false_eq_true, if_false, reduceCtorEq, true_and, false_and] at h ⊢ <;> linarith
  rw [fpRound_of_eq lo hi k1 k2 same.2, same.1, ← bits]

theorem sgnQ_natAbs (v : Int) : sgnQ (decide (v < 0)) * (v.natAbs : ℚ) = v := by
  have e : ((v.natAbs : Int) : ℚ) = if v < 0 then -(v : ℚ) else v := by
    split
    case isTrue h => rw [show (v.natAbs : Int) = -v by omega, Int.cast_neg]
    case isFalse h => rw [show (v.natAbs : Int) = v by omega]
  rw [Int.cast_natCast] at e
  rw [e, sgnQ]
  by_cases h : v < 0 <;> simp [h]

theorem fpPack_of_val (hz : f32Normal z) {v e : Int} (h : v * 2 ^ e = (Fp.ofBits z).val) : fpPack v e = (z, 0) := by
  have ne : v ≠ 0 := by
    rintro rfl
    exact hz.val_ne_zero (by rw [← h, Int.cast_zero, zero_mul])
  rw [fpPack, if_neg ne]
  exact fpRound_of_val hz (by rw [← mul_assoc, sgnQ_natAbs, h])

theorem fpAt_val {n : Bool} {m : Nat} {e0 e : Int} (h : e ≤ e0) : (fpAt n m e0 e : ℚ) * 2 ^ e = sgnQ n * (m * 2 ^ e0) := by
  have scale : (2 : ℚ) ^ e0 = 2 ^ (e0 - e).toNat * 2 ^ e := by
    rw [← zpow_natCast, ← zpow_add₀ (by norm_num)]
    congr 1
    omega
  rw [scale, fpAt, sgnQ]
  push_cast
  split <;> ring

theorem fpAt_add_val (n1 n2 : Bool) (m1 m2 : Nat) (e1 e2 : Int) :
    ((fpAt n1 m1 e1 (min e1 e2) + fpAt n2 m2 e2 (min e1 e2) : Int) : ℚ) * 2 ^ min e1 e2 = (Fp.fin n1 m1 e1).val + (Fp.fin n2 m2 e2).val := by
  rw [Int.cast_add, add_mul, fpAt_val (min_le_left _ _), fpAt_val (min_le_right _ _)]
  rfl

/-! ## Sums -/

theorem fpAddF_of_val (ha : a.Numeric) (hb : b.Numeric) (hz : f32Normal z) (h : (Fp.ofBits z).val = a.val + b.val) : fpAddF a b = (z, 0) := by
  match a, b, ha, hb with
  | .zero _, .zero _, _, _ => exact absurd h (by simpa [Fp.val] using hz.val_ne_zero)
  | .zero _, .fin _ _ _, _, _ => exact fpRound_of_val hz (by rw [h]; exact (zero_add _).symm)
  | .fin _ _ _, .zero _, _, _ => exact fpRound_of_val hz (by rw [h]; exact (add_zero _).symm)
  | .fin _ _ _, .fin _ _ _, _, _ => exact fpPack_of_val hz (by rw [h, fpAt_add_val])

theorem fpAddF_cancel (ha : a.Numeric) (hb : b.Numeric) (ne : a.val ≠ 0) (h : a.val + b.val = 0) : fpAddF a b = (0, 0) := by
  match a, b, ha, hb with
  | .zero _, _, _, _ => exact absurd rfl ne
  | .fin _ _ _, .zero _, _, _ => exact absurd ((add_zero _).symm.trans h) ne
  | .fin n1 m1 e1, .fin n2 m2 e2, _, _ =>
    rw [← fpAt_add_val, mul_eq_zero, or_iff_left (zpow_ne_zero _ (by norm_num)), Int.cast_eq_zero] at h
    exact if_pos h

theorem sgnQ_not (n : Bool) : sgnQ (!n) = -sgnQ n := by
  cases n <;> norm_num [sgnQ]

theorem Fp.Numeric.negate (ha : a.Numeric) : a.negate.Numeric ∧ a.negate.val = -a.val ∧ a.isNan = false := by
  match a, ha with
  | .zero _, _ => exact ⟨trivial, neg_zero.symm, rfl⟩
  | .fin n m e, h => exact ⟨h, by rw [Fp.negate, Fp.val, Fp.val, sgnQ_not, neg_mul], rfl⟩

/-! ## Products -/

theorem sgnQ_xor (x y : Bool) : sgnQ (x != y) = sgnQ x * sgnQ y := by
  cases x <;> cases y <;> norm_num [sgnQ]

theorem product_val (n1 n2 : Bool) (m1 m2 : Nat) (e1 e2 : Int) :
    sgnQ (n1 != n2) * ((m1 * m2 : Nat) * 2 ^ (e1 + e2)) = (Fp.fin n1 m1 e1).val * (Fp.fin n2 m2 e2).val := by
  rw [Fp.val, Fp.val, sgnQ_xor, zpow_add₀ (by norm_num)]
  push_cast
  ring

theorem fpMulF_of_val (ha : a.Numeric) (hb : b.Numeric) (hz : f32Normal z) (h : (Fp.ofBits z).val = a.val * b.val) : fpMulF a b = (z, 0) := by
  match a, b, ha, hb with
  | .zero _, _, _, _ => exact absurd (h.trans (zero_mul _)) hz.val_ne_zero
  | .fin _ _ _, .zero _, _, _ => exact absurd (h.trans (mul_zero _)) hz.val_ne_zero
  | .fin _ _ _, .fin _ _ _, _, _ => exact fpRound_of_val hz (by rw [h]; exact product_val _ _ _ _ _ _)

/-- Without NaNs and infinities, a product with a zero adds a zero. -/
theorem fpMacF_zero (hc : c.Numeric) (ha : a.Numeric) (hb : b.Numeric) (x : Bool) :
    fpMacF c (.zero x) b = fpAddF c (.zero (x != b.neg)) ∧ fpMacF c a (.zero x) = fpAddF c (.zero (a.neg != x)) := by
  constructor
  · match c, b, hc, hb with
    | .zero _, .zero _, _, _ | .zero _, .fin _ _ _, _, _ | .fin _ _ _, .zero _, _, _ | .fin _ _ _, .fin _ _ _, _, _ => simp [fpMacF, Fp.isNan, Fp.neg]
  · match c, a, hc, ha with
    | .zero _, .zero _, _, _ | .zero _, .fin _ _ _, _, _ | .fin _ _ _, .zero _, _, _ | .fin _ _ _, .fin _ _ _, _, _ => simp [fpMacF, Fp.isNan, Fp.neg]

theorem fpMacF_of_val (hc : c.Numeric) (ha : a.Numeric) (hb : b.Numeric) (hz : f32Normal z)
    (h : (Fp.ofBits z).val = c.val + a.val * b.val) : fpMacF c a b = (z, 0) := by
  have plain (n : Bool) (e : a.val * b.val = 0) : fpAddF c (.zero n) = (z, 0) := fpAddF_of_val hc trivial hz (by rw [h, e]; rfl)
  match a, b, ha, hb with
  | .zero x, b, ha, hb => exact (fpMacF_zero hc ha hb x).1.trans (plain _ (zero_mul _))
  | .fin _ _ _, .zero y, ha, hb => exact (fpMacF_zero hc ha hb y).2.trans (plain _ (mul_zero _))
  | .fin n1 m1 e1, .fin n2 m2 e2, _, _ =>
    have prod := product_val n1 n2 m1 m2 e1 e2
    match c, hc with
    | .zero x, _ =>
      have e : fpMacF (.zero x) (.fin n1 m1 e1) (.fin n2 m2 e2) = fpRound (n1 != n2) (m1 * m2) (e1 + e2) false := by
        simp [fpMacF, Fp.isNan, Fp.neg]
      exact e.trans (fpRound_of_val hz (by rw [h, prod]; exact (zero_add _).symm))
    | .fin n3 m3 e3, _ =>
      have e : fpMacF (.fin n3 m3 e3) (.fin n1 m1 e1) (.fin n2 m2 e2) =
          fpPack (fpAt (n1 != n2) (m1 * m2) (e1 + e2) (min (e1 + e2) e3) + fpAt n3 m3 e3 (min (e1 + e2) e3)) (min (e1 + e2) e3) := by
        simp [fpMacF, Fp.isNan, Fp.neg]
      refine e.trans (fpPack_of_val hz ?_)
      rw [fpAt_add_val, h, ← prod, add_comm]
      rfl

/-! ## Quotients and square roots -/

theorem Fp.abs_val_fin (n : Bool) (m : Nat) (e : Int) : |(Fp.fin n m e).val| = m * 2 ^ e := by
  have nonneg : (0 : ℚ) ≤ m * 2 ^ e := mul_nonneg m.cast_nonneg (zpow_pos (by norm_num) e).le
  cases n <;> simp [Fp.val, sgnQ, abs_of_nonneg nonneg]

/-- Equal numbers of which the first has the larger mantissa: it is the other's times a power of two. -/
theorem mantissa_of_lt {m x : Nat} {e : Int} (h : (m : ℚ) = x * 2 ^ e) (lt : x < m) : m = x * 2 ^ e.toNat := by
  have pos : 0 ≤ e := by
    by_contra neg
    have small : (2 : ℚ) ^ e ≤ 1 := zpow_le_one_of_nonpos₀ (by norm_num) (by omega)
    have le : (m : ℚ) ≤ x := by
      rw [h]
      exact mul_le_of_le_one_right x.cast_nonneg small
    exact absurd (Nat.cast_le.mp le) (Nat.not_le.mpr lt)
  obtain ⟨k, rfl⟩ : ∃ k : Nat, e = k := ⟨e.toNat, by omega⟩
  rw [zpow_natCast] at h
  exact_mod_cast h

/-- A quotient that binary32 has leaves no rest: it has at most 24 bits, and the division gives at least 30. -/
theorem quotient_of_eq {m1 m2 M : Nat} {d E : Int} (lo1 : 2 ^ 23 ≤ m1) (hi2 : m2 < 2 ^ 24) (hi : M < 2 ^ 24)
    (h : (M : ℚ) * m2 * 2 ^ E = m1 * 2 ^ d) : ∃ q, m1 * 2 ^ 30 = q * m2 := by
  have e : ((m1 * 2 ^ 30 : Nat) : ℚ) = (M * m2 : Nat) * 2 ^ (E - d + 30) := by
    rw [zpow_add₀ (by norm_num), zpow_sub₀ (by norm_num)]
    push_cast
    rw [div_eq_mul_inv, ← mul_assoc, ← mul_assoc, h, mul_assoc (m1 : ℚ), mul_inv_cancel₀ (zpow_ne_zero d (by norm_num)), mul_one]
  have small : M * m2 < m1 * 2 ^ 30 := calc
    M * m2 ≤ 2 ^ 24 * 2 ^ 24 := Nat.mul_le_mul hi.le hi2.le
    _ < 2 ^ 23 * 2 ^ 30 := by norm_num
    _ ≤ m1 * 2 ^ 30 := Nat.mul_le_mul_right _ lo1
  exact ⟨M * 2 ^ (E - d + 30).toNat, (mantissa_of_lt e small).trans (by ring)⟩

theorem fpDivF_of_val (ha : a.Numeric) (hb : b.Numeric) (ne : b.val ≠ 0) (hz : f32Normal z) (h : (Fp.ofBits z).val * b.val = a.val) :
    fpDivF a b = (z, 0) := by
  match a, b, ha, hb with
  | _, .zero _, _, _ => exact absurd rfl ne
  | .zero _, .fin _ _ _, _, _ => exact absurd h (mul_ne_zero hz.val_ne_zero ne)
  | .fin n1 m1 e1, .fin n2 m2 e2, ⟨lo1, hi1⟩, ⟨lo2, hi2⟩ =>
    obtain ⟨n, M, k, ez, lo, hi, -⟩ := hz.fields
    have mag := congrArg abs h
    rw [ez, abs_mul, Fp.abs_val_fin, Fp.abs_val_fin, Fp.abs_val_fin] at mag
    obtain ⟨q, hq⟩ := quotient_of_eq (M := M) (E := k - 150 + e2) lo1 hi2 hi (by rw [← mag, zpow_add₀ (by norm_num)]; ring)
    have m2pos : 0 < m2 := by omega
    have e : fpDivF (.fin n1 m1 e1) (.fin n2 m2 e2) = fpRound (n1 != n2) q (e1 - e2 - 30) false := by
      change fpRound (n1 != n2) (m1 * 2 ^ 30 / m2) (e1 - e2 - 30) (m1 * 2 ^ 30 % m2 != 0) = _
      rw [hq, Nat.mul_div_cancel _ m2pos, Nat.mul_mod_left]
      rfl
    refine e.trans (fpRound_of_val hz (mul_right_cancel₀ ne (Eq.trans ?_ h.symm)))
    have hq' : (m1 : ℚ) * 2 ^ 30 = q * m2 := by exact_mod_cast hq
    have sq : sgnQ n2 * sgnQ n2 = 1 := by cases n2 <;> norm_num [sgnQ]
    have powers : (2 : ℚ) ^ (e1 - e2 - 30) * 2 ^ e2 * 2 ^ 30 = 2 ^ e1 := by
      rw [← zpow_natCast, ← zpow_add₀ (by norm_num), ← zpow_add₀ (by norm_num)]
      congr 1
      omega
    calc sgnQ (n1 != n2) * (q * 2 ^ (e1 - e2 - 30)) * (sgnQ n2 * (m2 * 2 ^ e2))
        = sgnQ n1 * (sgnQ n2 * sgnQ n2) * (q * m2) * (2 ^ (e1 - e2 - 30) * 2 ^ e2) := by rw [sgnQ_xor]; ring
      _ = sgnQ n1 * (m1 * (2 ^ (e1 - e2 - 30) * 2 ^ e2 * 2 ^ 30)) := by rw [sq, ← hq']; ring
      _ = sgnQ n1 * (m1 * 2 ^ e1) := by rw [powers]

/-- The bits of a root are found from the highest one down. -/
theorem isqrt_square {r : Nat} (h : r < 2 ^ 32) : isqrt (r * r) = r := by
  have bits : ∀ n ≤ 32, (List.range n).foldl
      (fun x i => if (x + 2 ^ (31 - i)) * (x + 2 ^ (31 - i)) ≤ r * r then x + 2 ^ (31 - i) else x) 0 = r - r % 2 ^ (32 - n) := by
    intro n
    induction n with
    | zero => intro _; rw [Nat.sub_zero, Nat.mod_eq_of_lt h, Nat.sub_self]; rfl
    | succ n ih =>
      intro hn
      have half : 2 ^ (32 - n) = 2 ^ (31 - n) * 2 := by rw [← Nat.pow_succ, show (31 - n).succ = 32 - n by omega]
      have le := Nat.mod_le r (2 ^ (31 - n) * 2)
      have lt := Nat.mod_lt r (Nat.two_pow_pos (31 - n))
      rw [List.range_succ, List.foldl_append, ih (by omega), List.foldl_cons, List.foldl_nil, half, show 32 - (n + 1) = 31 - n by omega]
      rw [Nat.mod_mul] at le ⊢
      split
      case isTrue fits =>
        have := Nat.mul_self_le_mul_self_iff.mp fits
        rcases Nat.mod_two_eq_zero_or_one (r / 2 ^ (31 - n)) with e | e <;> rw [e] at le this ⊢ <;> omega
      case isFalse small =>
        have := mt Nat.mul_self_le_mul_self_iff.mpr small
        rcases Nat.mod_two_eq_zero_or_one (r / 2 ^ (31 - n)) with e | e <;> rw [e] at le this ⊢ <;> omega
  have all := bits 32 le_rfl
  rwa [Nat.sub_self, Nat.pow_zero, Nat.mod_one, Nat.sub_zero] at all

/-- A number is a mantissa of at most 25 bits times an even power of two. -/
theorem fpSqrtF_even {m : Nat} {e : Int} (lo : 2 ^ 23 ≤ m) (hi : m < 2 ^ 24) : ∃ (x : Nat) (g : Int), 2 ^ 23 ≤ x ∧ x < 2 ^ 25 ∧
    (x : ℚ) * (2 ^ g * 2 ^ g) = m * 2 ^ e ∧
    fpSqrtF (.fin false m e) = fpRound false (isqrt (x * 2 ^ 34)) (g - 17) (isqrt (x * 2 ^ 34) * isqrt (x * 2 ^ 34) != x * 2 ^ 34) := by
  have two : (2 : ℚ) ≠ 0 := by norm_num
  by_cases odd : e % 2 ≠ 0
  · refine ⟨2 * m, (e - 1) / 2, by omega, by omega, ?_, ?_⟩
    · rw [← zpow_add₀ two, show e = (e - 1) / 2 + (e - 1) / 2 + 1 by omega, zpow_add_one₀ two]
      push_cast
      rw [show ((e - 1) / 2 + (e - 1) / 2 + 1 - 1) / 2 = (e - 1) / 2 by omega]
      ring
    · simp only [fpSqrtF, odd, Bool.false_eq_true, if_false, if_true, ne_eq, not_false_eq_true]
      rw [show (e - 1 - 34) / 2 = (e - 1) / 2 - 17 by omega]
  · refine ⟨m, e / 2, lo, by omega, ?_, ?_⟩
    · rw [← zpow_add₀ two, show e / 2 + e / 2 = e by omega]
    · simp only [fpSqrtF, odd, Bool.false_eq_true, if_false]
      rw [show (e - 34) / 2 = e / 2 - 17 by omega]

/-- A root that binary32 has leaves no rest: it has at most 24 bits, and 17 more are found than the operand has. -/
theorem root_of_eq {x M : Nat} {g E : Int} (lox : 2 ^ 23 ≤ x) (hix : x < 2 ^ 25) (hi : M < 2 ^ 24)
    (h : (x : ℚ) * (2 ^ g * 2 ^ g) = M * 2 ^ E * (M * 2 ^ E)) : ∃ r < 2 ^ 32, x * 2 ^ 34 = r * r ∧ (r : ℚ) * 2 ^ (g - 17) = M * 2 ^ E := by
  have two : (2 : ℚ) ≠ 0 := by norm_num
  have gpos : (2 : ℚ) ^ g ≠ 0 := zpow_ne_zero g two
  obtain ⟨j, ej⟩ : ∃ j, j = E - g + 17 := ⟨_, rfl⟩
  have scale : (2 : ℚ) ^ j * 2 ^ g = 2 ^ E * 2 ^ 17 := by
    rw [← zpow_natCast, ← zpow_add₀ two, ← zpow_add₀ two, ej]
    congr 1
    omega
  have square : ((x * 2 ^ 34 : Nat) : ℚ) = (M * M : Nat) * 2 ^ (j + j) := by
    rw [zpow_add₀ two]
    refine mul_right_cancel₀ (mul_ne_zero gpos gpos) ?_
    push_cast
    calc (x : ℚ) * 2 ^ 34 * (2 ^ g * 2 ^ g) = (x : ℚ) * (2 ^ g * 2 ^ g) * 2 ^ 34 := by ring
      _ = (M : ℚ) * M * ((2 ^ E * 2 ^ 17) * (2 ^ E * 2 ^ 17)) := by rw [h]; ring
      _ = (M : ℚ) * M * (2 ^ j * 2 ^ j) * (2 ^ g * 2 ^ g) := by rw [← scale]; ring
  have small : M * M < x * 2 ^ 34 := calc
    M * M ≤ 2 ^ 24 * 2 ^ 24 := Nat.mul_le_mul hi.le hi.le
    _ < 2 ^ 23 * 2 ^ 34 := by norm_num
    _ ≤ x * 2 ^ 34 := Nat.mul_le_mul_right _ lox
  have whole := mantissa_of_lt square small
  have jpos : 0 < j := by
    by_contra neg
    rw [show (j + j).toNat = 0 by omega, Nat.pow_zero, Nat.mul_one] at whole
    omega
  obtain ⟨i, rfl⟩ : ∃ i : Nat, j = i := ⟨j.toNat, by omega⟩
  have root : x * 2 ^ 34 = M * 2 ^ i * (M * 2 ^ i) := by
    rw [whole, show ((i : Int) + i).toNat = i + i by omega, Nat.pow_add]
    ring
  refine ⟨M * 2 ^ i, ?_, root, ?_⟩
  · rw [← Nat.mul_self_lt_mul_self_iff, ← root]
    calc x * 2 ^ 34 < 2 ^ 25 * 2 ^ 34 := Nat.mul_lt_mul_of_pos_right hix (by norm_num)
      _ < 2 ^ 32 * 2 ^ 32 := by norm_num
  · rw [show E = i + (g - 17) by omega, zpow_add₀ two, zpow_natCast]
    push_cast
    ring

theorem fpSqrtF_of_val (ha : a.Numeric) (hz : f32Normal z) (pos : 0 < (Fp.ofBits z).val) (h : (Fp.ofBits z).val * (Fp.ofBits z).val = a.val) :
    fpSqrtF a = (z, 0) := by
  match a, ha with
  | .zero _, _ => exact absurd h (mul_pos pos pos).ne'
  | .fin true m e, ⟨lo, _⟩ =>
    have neg : (Fp.fin true m e).val < 0 := by simpa [Fp.val, sgnQ] using mantissa_pos lo e
    exact absurd (h ▸ mul_pos pos pos) neg.not_gt
  | .fin false m e, ⟨lo, hi⟩ =>
    obtain ⟨n, M, k, ez, loM, hiM, -⟩ := hz.fields
    obtain ⟨x, g, lox, hix, hx, root⟩ := fpSqrtF_even (e := e) lo hi
    have mag : (Fp.ofBits z).val = M * 2 ^ ((k : Int) - 150) := by rw [← abs_of_pos pos, ez, Fp.abs_val_fin]
    have plain : (Fp.fin false m e).val = m * 2 ^ e := one_mul _
    rw [mag, plain, ← hx] at h
    obtain ⟨r, lt, square, rest⟩ := root_of_eq lox hix hiM h.symm
    rw [root, square, isqrt_square lt, bne_self_eq_false]
    exact fpRound_of_val hz (by rw [rest, mag]; exact one_mul _)

end Sys2Proof.Machine
end

section
/-! SUPPORT. Comparisons and conversions of binary32 on finite operands, and the bounds of every result (R147 to R149). -/

namespace Sys2Proof.Machine

variable {a b c : Fp} {x y z : Nat}

/-! ## Comparisons -/

theorem fpAt_lt (n1 n2 : Bool) (m1 m2 : Nat) (e1 e2 : Int) :
    fpAt n1 m1 e1 (min e1 e2) < fpAt n2 m2 e2 (min e1 e2) ↔ (Fp.fin n1 m1 e1).val < (Fp.fin n2 m2 e2).val := by
  have pos : (0 : ℚ) < 2 ^ min e1 e2 := zpow_pos (by norm_num) _
  rw [Fp.val, Fp.val, ← fpAt_val (min_le_left e1 e2), ← fpAt_val (min_le_right e1 e2), mul_lt_mul_iff_left₀ pos, Int.cast_lt]

theorem fpLt_val (ha : a.Numeric) (hb : b.Numeric) : fpLt a b = decide (a.val < b.val) := by
  have sign (n : Bool) {m : Nat} (e : Int) (h : 2 ^ 23 ≤ m) :
      (!n) = decide (0 < (Fp.fin n m e).val) ∧ n = decide ((Fp.fin n m e).val < 0) := by
    have pos := mantissa_pos h e
    cases n <;> simp [Fp.val, sgnQ, pos, pos.le]
  match a, b, ha, hb with
  | .zero _, .zero _, _, _ => exact (decide_eq_false (lt_irrefl _)).symm
  | .zero _, .fin n m e, _, ⟨lo, _⟩ => exact (sign n e lo).1
  | .fin n m e, .zero _, ⟨lo, _⟩, _ => exact (sign n e lo).2
  | .fin n1 m1 e1, .fin n2 m2 e2, _, _ => exact decide_eq_decide.mpr (fpAt_lt n1 n2 m1 m2 e1 e2)

theorem fpEq_val (ha : a.Numeric) (hb : b.Numeric) : fpEq a b = decide (a.val = b.val) := by
  rw [fpEq, ha.negate.2.2, hb.negate.2.2, fpLt_val ha hb, fpLt_val hb ha]
  rcases lt_trichotomy a.val b.val with h | h | h
  · simp [h, h.ne]
  · simp [h]
  · simp [h, h.ne']

theorem sigInv_of_numeric {xs : List Fp} (h : ∀ v ∈ xs, v.Numeric) : sigInv xs = 0 := by
  refine if_neg fun mem => ?_
  exact h _ (List.contains_iff_mem.mp mem)

theorem fpCond_val (ha : a.Numeric) (hb : b.Numeric) (k : Nat) : fpCond k a b = (match k with
    | 0 => decide (a.val = b.val) | 1 => decide (a.val ≠ b.val) | 2 => decide (a.val < b.val) | 3 => decide (b.val ≤ a.val)
    | 4 => decide (a.val ≤ b.val) | 5 => decide (b.val < a.val) | _ => false, 0) := by
  have inv : sigInv [a, b] = 0 := sigInv_of_numeric (by simp [ha, hb])
  simp only [fpCond, fpEq_val ha hb, fpLt_val ha hb, fpLt_val hb ha, ha.negate.2.2, hb.negate.2.2, inv, Bool.or_false, Bool.not_false,
    Bool.true_and, ← decide_not, not_lt, Bool.false_and, Bool.false_eq_true, if_false] <;> rfl

/-- Operands compare as their units do. -/
theorem f32Units_lt (hx : f32Finite x) (hy : f32Finite y) : (Fp.ofBits x).val < (Fp.ofBits y).val ↔ f32Units x < f32Units y := by
  have pos : (0 : ℚ) < 2 ^ 149 := by norm_num
  rw [← mul_lt_mul_iff_left₀ pos, ← Fp.ofBits_val hx, ← Fp.ofBits_val hy, Int.cast_lt]

theorem f32Units_eq (hx : f32Finite x) (hy : f32Finite y) : (Fp.ofBits x).val = (Fp.ofBits y).val ↔ f32Units x = f32Units y := by
  rw [← mul_left_inj' (show (2 : ℚ) ^ 149 ≠ 0 by norm_num), ← Fp.ofBits_val hx, ← Fp.ofBits_val hy, Int.cast_inj]

theorem f32Units_le (hx : f32Finite x) (hy : f32Finite y) : (Fp.ofBits x).val ≤ (Fp.ofBits y).val ↔ f32Units x ≤ f32Units y := by
  rw [← not_lt, f32Units_lt hy hx, not_lt]

/-! ## Fixed point and binary32 -/

theorem roundAway_mul (v : Int) {d : Nat} (hd : 0 < d) : roundAway (v * d) d = v := by
  have e : ((v * d).natAbs + d / 2) / d = v.natAbs := by
    rw [Int.natAbs_mul, Int.natAbs_natCast, Nat.mul_comm, Nat.mul_add_div hd, Nat.div_eq_of_lt (by omega), Nat.add_zero]
  rw [roundAway_eq, e, Int.sign_mul, Int.sign_natCast_of_ne_zero hd.ne', mul_one, Int.sign_mul_natAbs]

theorem xSat_of_fits {v : Int} (lo : -2 ^ 31 ≤ v) (hi : v < 2 ^ 31) : xSat v false = ((v % 2 ^ 32).toNat, 0) := by
  rw [xSat_eq, if_neg (by omega), if_neg (by omega)]
  rfl

/-- A binary32 number that is a fixed-point number is converted to it. -/
theorem fpToX_of_val (ha : a.Numeric) (n : Nat) {v : Int} (lo : -2 ^ 31 ≤ v) (hi : v < 2 ^ 31) (h : (v : ℚ) = a.val * 2 ^ n) :
    fpToX a n = ((v % 2 ^ 32).toNat, 0) := by
  match a, ha with
  | .zero _, _ =>
    have v0 : v = 0 := by exact_mod_cast h.trans (zero_mul _)
    rw [v0]
    rfl
  | .fin g m e, ⟨lom, him⟩ =>
    have signed : (v : ℚ) = (if g then -(m : Int) else m : Int) * 2 ^ (e + n) := by
      rw [h, Fp.val, zpow_add₀ (by norm_num), zpow_natCast]
      cases g <;> simp [sgnQ] <;> ring
    have mag : (if g then -(m : Int) else m : Int).natAbs = m := by cases g <;> simp
    unfold fpToX
    dsimp only
    generalize (if g then -(m : Int) else m : Int) = u at signed mag ⊢
    by_cases pos : 0 ≤ e + n
    · have e1 : v = u * 2 ^ (e + n).toNat := by
        rw [show e + n = ((e + n).toNat : Int) by omega, zpow_natCast] at signed
        exact_mod_cast signed
      have small : ¬40 < e + n := by
        intro big
        have le : m * 2 ^ 41 ≤ v.natAbs := by
          rw [e1, Int.natAbs_mul, mag, Int.natAbs_pow]
          exact Nat.mul_le_mul_left _ (Nat.pow_le_pow_right (by norm_num) (by omega))
        omega
      rw [if_pos pos, if_neg small, ← e1, xSat_of_fits lo hi]
    · have e1 : u = v * (2 ^ (-(e + n)).toNat : Nat) := by
        have inv : (2 : ℚ) ^ (e + n) * 2 ^ (-(e + n)).toNat = 1 := by
          rw [← zpow_natCast, ← zpow_add₀ (by norm_num), show e + n + ((-(e + n)).toNat : Int) = 0 by omega, zpow_zero]
        have e2 : (u : ℚ) = v * 2 ^ (-(e + n)).toNat := by rw [signed, mul_assoc, inv, mul_one]
        exact_mod_cast e2
      have near : ¬e + n < -60 := by
        intro far
        have vpos : 0 < v.natAbs := by
          rcases Nat.eq_zero_or_pos v.natAbs with z | p
          · rw [Int.natAbs_eq_zero.mp z, zero_mul] at e1
            omega
          · exact p
        have le : 1 * 2 ^ 60 ≤ m := by
          rw [← mag, e1, Int.natAbs_mul, Int.natAbs_natCast]
          exact Nat.mul_le_mul vpos (Nat.pow_le_pow_right (by norm_num) (by omega))
        omega
      have rest : (u % (2 ^ (-(e + n)).toNat : Int) != 0) = false := by
        rw [e1, Nat.cast_pow]
        simp
      rw [if_neg pos, if_neg near, rest, e1, roundAway_mul v (by positivity), xSat_of_fits lo hi]

theorem sgn_word {z : Nat} (h : z < 2 ^ 32) : (sgn 32 z % 2 ^ 32).toNat = z := by
  unfold sgn
  split <;> omega

/-! ## Operands written back -/

theorem Fp.toBits_ofBits (hx : f32Finite x) (lt : x < 2 ^ 32) : f32Units (Fp.ofBits x).toBits = f32Units x := by
  by_cases zero : f32Exp x = 0
  · have e : (Fp.ofBits x).toBits = b2n (x / 2 ^ 31 % 2 == 1) * 2 ^ 31 := by
      unfold f32Exp at zero
      rw [Fp.ofBits_eq, if_neg (by omega), if_pos zero]
      rfl
    have none_ (n : Bool) : f32Units (b2n n * 2 ^ 31) = 0 := by cases n <;> decide
    rw [e, none_, f32Units, if_pos zero]
    exact (Int.mul_zero _).symm
  · have hz : f32Normal x := ⟨lt, by omega, hx⟩
    obtain ⟨n, m, k, e, -⟩ := hz.fields
    rw [e]
    exact congrArg (fun r : Nat × Nat => f32Units r.1) (fpRound_of_val hz (by rw [e]; rfl))

/-- A clamp of finite operands gives the operand it chooses. -/
theorem fpClip_units {v lo hi : Nat} (hv : f32Finite v) (hlo : f32Finite lo) (hhi : f32Finite hi) (ltv : v < 2 ^ 32) (ltlo : lo < 2 ^ 32)
    (lthi : hi < 2 ^ 32) : let r := fpClip (Fp.ofBits v) (Fp.ofBits lo) (Fp.ofBits hi)
    f32Units r.1 = (if f32Units v < f32Units lo then f32Units lo else if f32Units hi < f32Units v then f32Units hi else f32Units v) ∧ r.2 = 0 := by
  have nv := Fp.ofBits_numeric hv
  have nlo := Fp.ofBits_numeric hlo
  have nhi := Fp.ofBits_numeric hhi
  have inv : sigInv [Fp.ofBits v, Fp.ofBits lo, Fp.ofBits hi] = 0 := sigInv_of_numeric (by simp [nv, nlo, nhi])
  simp only [fpClip, nv.negate.2.2, Bool.false_eq_true, if_false, inv, fpLt_val nv nlo, fpLt_val nhi nv, f32Units_lt hv hlo, f32Units_lt hhi hv,
    decide_eq_true_eq, and_true]
  split
  · exact Fp.toBits_ofBits hlo ltlo
  · split
    · exact Fp.toBits_ofBits hhi lthi
    · exact Fp.toBits_ofBits hv ltv

/-! ## Bounds -/

/-- A result of 32 bits with flags of four bits. -/
def FitsResult (r : Nat × Nat) : Prop := r.1 < 2 ^ 32 ∧ r.2 < 16

theorem fitsResult_ite {p : Prop} [Decidable p] {x y : Nat × Nat} (hx : FitsResult x) (hy : FitsResult y) : FitsResult (if p then x else y) := by
  split
  · exact hx
  · exact hy

theorem b2n_mul_lt (n : Bool) : b2n n * 2 ^ 31 ≤ 2 ^ 31 := by cases n <;> decide

theorem fitsResult_zero (n : Bool) : FitsResult (fpZero n, 0) := ⟨lt_of_le_of_lt (b2n_mul_lt n) (by norm_num), by norm_num⟩

theorem fitsResult_inf (n : Bool) {k : Nat} (hk : k < 16) : FitsResult (fpInf n, k) :=
  ⟨lt_of_le_of_lt (Nat.add_le_add_right (b2n_mul_lt n) _) (by norm_num), hk⟩

theorem fitsResult_inv : FitsResult (fpNan, 8) := ⟨by decide, by decide⟩

theorem fitsResult_nan (xs : List Fp) : FitsResult (fpNan, sigInv xs) := by
  refine ⟨fitsResult_inv.1, ?_⟩
  change sigInv xs < 16
  unfold sigInv
  split <;> norm_num

/-- The quotient of a rounding has 24 bits, or is 2^24 after rounding up. -/
theorem fpRound_quotient (m : Nat) : (if 23 < m.log2 then m >>> (m.log2 - 23) else m <<< (23 - m.log2)) < 2 ^ 24 := by
  have hi : m < 2 ^ (m.log2 + 1) := Nat.lt_log2_self
  split
  case isTrue big =>
    rw [Nat.shiftRight_eq_div_pow, Nat.div_lt_iff_lt_mul (Nat.two_pow_pos _), ← Nat.pow_add, show 24 + (m.log2 - 23) = m.log2 + 1 by omega]
    exact hi
  case isFalse small =>
    rw [Nat.shiftLeft_eq]
    calc m * 2 ^ (23 - m.log2) < 2 ^ (m.log2 + 1) * 2 ^ (23 - m.log2) := Nat.mul_lt_mul_of_pos_right hi (Nat.two_pow_pos _)
      _ = 2 ^ 24 := by rw [← Nat.pow_add, show m.log2 + 1 + (23 - m.log2) = 24 by omega]

theorem fitsResult_round (n : Bool) (m : Nat) (e : Int) (s : Bool) : FitsResult (fpRound n m e s) := by
  have flag (b : Bool) : b2n b < 16 := by cases b <;> decide
  have sign := b2n_mul_lt n
  unfold fpRound
  by_cases zero : m = 0
  · rw [if_pos zero]
    exact ⟨(fitsResult_zero n).1, flag s⟩
  · have hq := fpRound_quotient m
    rw [if_neg zero]
    dsimp only
    generalize (if 23 < m.log2 then m >>> (m.log2 - 23) else m <<< (23 - m.log2)) = q at hq ⊢
    generalize (decide ((if 23 < m.log2 then 2 ^ (m.log2 - 24) else 1) < if 23 < m.log2 then m % 2 ^ (m.log2 - 23) else 0) || _) = up
    have hq' : (if (up && decide (23 < m.log2)) = true then q + 1 else q) ≤ 2 ^ 24 := by split <;> omega
    generalize (if (up && decide (23 < m.log2)) = true then q + 1 else q) = q' at hq' ⊢
    have hq'' : (if q' = 2 ^ 24 then 2 ^ 23 else q') < 2 ^ 24 := by split <;> omega
    generalize (if q' = 2 ^ 24 then 2 ^ 23 else q') = q'' at hq'' ⊢
    generalize (if q' = 2 ^ 24 then 1 else 0 : Int) = one
    by_cases top : 127 < e + m.log2 + one
    · rw [if_pos top]
      exact fitsResult_inf n (by norm_num)
    · by_cases under : e + m.log2 + one < -126
      · rw [if_neg top, if_pos under]
        exact ⟨(fitsResult_zero n).1, by norm_num⟩
      · rw [if_neg top, if_neg under]
        exact ⟨by omega, flag _⟩

theorem fitsResult_pack (v e : Int) : FitsResult (fpPack v e) := fitsResult_ite (fitsResult_zero false) (fitsResult_round _ _ _ _)

theorem fitsResult_add (a b : Fp) : FitsResult (fpAddF a b) := by
  unfold fpAddF
  split
  case h_1 | h_2 => exact fitsResult_nan _
  case h_3 => exact fitsResult_ite (fitsResult_inf _ (by norm_num)) fitsResult_inv
  case h_4 | h_5 => exact fitsResult_inf _ (by norm_num)
  case h_6 => exact fitsResult_zero _
  case h_7 | h_8 => exact fitsResult_round _ _ _ _
  case h_9 => exact fitsResult_pack _ _

theorem fitsResult_mul (a b : Fp) : FitsResult (fpMulF a b) := by
  unfold fpMulF
  dsimp only
  split
  case h_1 | h_2 => exact fitsResult_nan _
  case h_3 | h_4 => exact fitsResult_inv
  case h_5 | h_6 => exact fitsResult_inf _ (by norm_num)
  case h_7 | h_8 => exact fitsResult_zero _
  case h_9 => exact fitsResult_round _ _ _ _

theorem fitsResult_mac (c a b : Fp) : FitsResult (fpMacF c a b) := by
  unfold fpMacF
  dsimp only
  refine fitsResult_ite fitsResult_inv (fitsResult_ite (fitsResult_nan _) ?_)
  split
  case h_1 =>
    split
    · exact fitsResult_inf _ (by norm_num)
    · exact fitsResult_pack _ _
    · exact fitsResult_round _ _ _ _
  case h_2 | h_3 =>
    split
    · exact fitsResult_ite (fitsResult_inf _ (by norm_num)) fitsResult_inv
    · exact fitsResult_inf _ (by norm_num)
  case h_4 => exact fitsResult_add _ _

theorem fitsResult_div (a b : Fp) : FitsResult (fpDivF a b) := by
  unfold fpDivF
  dsimp only
  split
  case h_1 | h_2 => exact fitsResult_nan _
  case h_3 | h_4 => exact fitsResult_inv
  case h_5 | h_8 => exact fitsResult_inf _ (by norm_num)
  case h_6 | h_7 => exact fitsResult_zero _
  case h_9 => exact fitsResult_round _ _ _ _

theorem fitsResult_sqrt (a : Fp) : FitsResult (fpSqrtF a) := by
  unfold fpSqrtF
  split
  case h_1 => exact fitsResult_nan _
  case h_2 => exact fitsResult_zero _
  case h_3 => exact fitsResult_ite fitsResult_inv (fitsResult_inf _ (by norm_num))
  case h_4 => exact fitsResult_ite fitsResult_inv (fitsResult_round _ _ _ _)

theorem fitsResult_xSat (v : Int) (inx : Bool) : FitsResult (xSat v inx) := by
  have flag : b2n inx < 16 := by cases inx <;> decide
  rw [xSat_eq]
  exact fitsResult_ite ⟨by norm_num, by norm_num⟩ (fitsResult_ite ⟨by norm_num, by norm_num⟩ ⟨by omega, flag⟩)

theorem fitsResult_toX (a : Fp) (n : Nat) : FitsResult (fpToX a n) := by
  have small {k : Nat} (hk : k < 16) : FitsResult (0, k) := ⟨by norm_num, hk⟩
  unfold fpToX
  split
  · exact small (by norm_num)
  · exact ⟨by dsimp only; split <;> norm_num, by norm_num⟩
  · exact small (by norm_num)
  · exact fitsResult_ite (fitsResult_ite (fitsResult_xSat _ _) (fitsResult_xSat _ _)) (fitsResult_ite (small (by norm_num)) (fitsResult_xSat _ _))

theorem Fp.toBits_lt (a : Fp) : a.toBits < 2 ^ 32 := by
  match a with
  | .nan _ => exact fitsResult_inv.1
  | .inf n => exact (fitsResult_inf n (k := 0) (by norm_num)).1
  | .zero n => exact (fitsResult_zero n).1
  | .fin n m e => exact (fitsResult_round n m e false).1

theorem fitsResult_clip (v lo hi : Fp) : FitsResult (fpClip v lo hi) := by
  unfold fpClip
  split
  · exact ⟨lo.toBits_lt, by norm_num⟩
  · exact ⟨Fp.toBits_lt _, (fitsResult_nan _).2⟩

theorem fpCond_flags (k : Nat) (a b : Fp) : (fpCond k a b).2 < 16 := by
  unfold fpCond
  dsimp only
  split
  · norm_num
  · exact (fitsResult_nan _).2

end Sys2Proof.Machine
end

section
/-! SUPPORT. The binary32 operations in units of 2^-149 (R147), and rounding to nearest even of a number of more than 24 bits. -/

namespace Sys2Proof.Machine

variable {x y v z : Nat}

/-! ## In units -/

theorem Fp.ofBits_val_ne (hx : f32Finite x) (ne : f32Units x ≠ 0) : (Fp.ofBits x).val ≠ 0 := by
  intro e
  have units := Fp.ofBits_val hx
  rw [e, zero_mul, Int.cast_eq_zero] at units
  exact ne units

theorem fpAddF_units (hx : f32Finite x) (hy : f32Finite y) (hz : f32Normal z) (h : f32Units z = f32Units x + f32Units y) :
    fpAddF (Fp.ofBits x) (Fp.ofBits y) = (z, 0) :=
  fpAddF_of_val (Fp.ofBits_numeric hx) (Fp.ofBits_numeric hy) hz (by
    rw [Fp.val_ofBits hz.finite, Fp.val_ofBits hx, Fp.val_ofBits hy, h, Int.cast_add, add_div])

theorem fpAddF_units_cancel (hx : f32Finite x) (hy : f32Finite y) (ne : f32Units x ≠ 0) (h : f32Units x + f32Units y = 0) :
    fpAddF (Fp.ofBits x) (Fp.ofBits y) = (0, 0) :=
  fpAddF_cancel (Fp.ofBits_numeric hx) (Fp.ofBits_numeric hy) (Fp.ofBits_val_ne hx ne) (by
    rw [Fp.val_ofBits hx, Fp.val_ofBits hy, ← add_div, ← Int.cast_add, h, Int.cast_zero, zero_div])

/-- The subtraction of Scale: with a NaN, the sum gives the NaN and the flag. -/
def fpSubF (a b : Fp) : Nat × Nat := if b.isNan then fpAddF a b else fpAddF a b.negate

theorem fpSubF_units (hx : f32Finite x) (hy : f32Finite y) (hz : f32Normal z) (h : f32Units z = f32Units x - f32Units y) :
    fpSubF (Fp.ofBits x) (Fp.ofBits y) = (z, 0) := by
  obtain ⟨num, neg, nan⟩ := (Fp.ofBits_numeric hy).negate
  rw [fpSubF, nan, if_neg Bool.false_ne_true]
  exact fpAddF_of_val (Fp.ofBits_numeric hx) num hz (by
    rw [neg, Fp.val_ofBits hz.finite, Fp.val_ofBits hx, Fp.val_ofBits hy, h, Int.cast_sub, sub_div, sub_eq_add_neg])

theorem fpSubF_units_cancel (hx : f32Finite x) (hy : f32Finite y) (ne : f32Units x ≠ 0) (h : f32Units x = f32Units y) :
    fpSubF (Fp.ofBits x) (Fp.ofBits y) = (0, 0) := by
  obtain ⟨num, neg, nan⟩ := (Fp.ofBits_numeric hy).negate
  rw [fpSubF, nan, if_neg Bool.false_ne_true]
  exact fpAddF_cancel (Fp.ofBits_numeric hx) num (Fp.ofBits_val_ne hx ne) (by rw [neg, (f32Units_eq hx hy).mpr h, add_neg_cancel])

theorem fitsResult_sub (a b : Fp) : FitsResult (fpSubF a b) := fitsResult_ite (fitsResult_add _ _) (fitsResult_add _ _)

theorem fpMulF_units (hx : f32Finite x) (hy : f32Finite y) (hz : f32Normal z) (h : f32Units z * 2 ^ 149 = f32Units x * f32Units y) :
    fpMulF (Fp.ofBits x) (Fp.ofBits y) = (z, 0) := by
  have hq : (f32Units z : ℚ) * 2 ^ 149 = f32Units x * f32Units y := by exact_mod_cast h
  refine fpMulF_of_val (Fp.ofBits_numeric hx) (Fp.ofBits_numeric hy) hz ?_
  rw [Fp.val_ofBits hz.finite, Fp.val_ofBits hx, Fp.val_ofBits hy, div_mul_div_comm, ← hq, mul_div_mul_right _ _ (by norm_num)]

theorem fpMacF_units (hv : f32Finite v) (hx : f32Finite x) (hy : f32Finite y) (hz : f32Normal z)
    (h : f32Units z * 2 ^ 149 = f32Units v * 2 ^ 149 + f32Units x * f32Units y) :
    fpMacF (Fp.ofBits v) (Fp.ofBits x) (Fp.ofBits y) = (z, 0) := by
  have hq : (f32Units z : ℚ) * 2 ^ 149 = f32Units v * 2 ^ 149 + f32Units x * f32Units y := by exact_mod_cast h
  refine fpMacF_of_val (Fp.ofBits_numeric hv) (Fp.ofBits_numeric hx) (Fp.ofBits_numeric hy) hz ?_
  rw [Fp.val_ofBits hz.finite, Fp.val_ofBits hv, Fp.val_ofBits hx, Fp.val_ofBits hy, div_mul_div_comm,
    ← mul_div_mul_right (f32Units v : ℚ) _ (show (2 : ℚ) ^ 149 ≠ 0 by norm_num), ← add_div, ← hq, mul_div_mul_right _ _ (by norm_num)]

theorem fpDivF_units (hx : f32Finite x) (hy : f32Finite y) (ne : f32Units y ≠ 0) (hz : f32Normal z)
    (h : f32Units z * f32Units y = f32Units x * 2 ^ 149) : fpDivF (Fp.ofBits x) (Fp.ofBits y) = (z, 0) := by
  have hq : (f32Units z : ℚ) * f32Units y = f32Units x * 2 ^ 149 := by exact_mod_cast h
  refine fpDivF_of_val (Fp.ofBits_numeric hx) (Fp.ofBits_numeric hy) (Fp.ofBits_val_ne hy ne) hz ?_
  rw [Fp.val_ofBits hz.finite, Fp.val_ofBits hx, Fp.val_ofBits hy, div_mul_div_comm, hq, mul_div_mul_right _ _ (by norm_num)]

theorem fpSqrtF_units (hx : f32Finite x) (hz : f32Normal z) (pos : 0 < f32Units z) (h : f32Units z * f32Units z = f32Units x * 2 ^ 149) :
    fpSqrtF (Fp.ofBits x) = (z, 0) := by
  have hq : (f32Units z : ℚ) * f32Units z = f32Units x * 2 ^ 149 := by exact_mod_cast h
  refine fpSqrtF_of_val (Fp.ofBits_numeric hx) hz ?_ ?_
  · rw [Fp.val_ofBits hz.finite]
    exact div_pos (Int.cast_pos.mpr pos) (by norm_num)
  · rw [Fp.val_ofBits hz.finite, Fp.val_ofBits hx, div_mul_div_comm, hq, mul_div_mul_right _ _ (by norm_num)]

theorem fpCond_units (hx : f32Finite x) (hy : f32Finite y) (k : Nat) : fpCond k (Fp.ofBits x) (Fp.ofBits y) = (match k with
    | 0 => decide (f32Units x = f32Units y) | 1 => decide (f32Units x ≠ f32Units y) | 2 => decide (f32Units x < f32Units y)
    | 3 => decide (f32Units y ≤ f32Units x) | 4 => decide (f32Units x ≤ f32Units y) | 5 => decide (f32Units y < f32Units x) | _ => false, 0) := by
  simp only [fpCond_val (Fp.ofBits_numeric hx) (Fp.ofBits_numeric hy), f32Units_lt hx hy, f32Units_lt hy hx, f32Units_le hx hy,
    f32Units_le hy hx, ne_eq, f32Units_eq hx hy] <;> rfl

theorem fpToX_units (hx : f32Finite x) (n : Nat) (lt : z < 2 ^ 32) (h : sgn 32 z * 2 ^ 149 = f32Units x * 2 ^ n) :
    fpToX (Fp.ofBits x) n = (z, 0) := by
  have hq : (sgn 32 z : ℚ) * 2 ^ 149 = f32Units x * 2 ^ n := by exact_mod_cast h
  obtain ⟨lo, hi⟩ := sgn_bounds (n := 32) (x := z) (by norm_num)
  rw [fpToX_of_val (Fp.ofBits_numeric hx) n lo hi, sgn_word lt]
  rw [Fp.val_ofBits hx, div_mul_eq_mul_div, ← hq, mul_div_cancel_right₀ _ (by norm_num)]

theorem xToFp_units (hz : f32Normal z) (i : Int) (n : Nat) (h : f32Units z * 2 ^ n = i * 2 ^ 149) : xToFp i n = (z, 0) := by
  have hq : (f32Units z : ℚ) * 2 ^ n = i * 2 ^ 149 := by exact_mod_cast h
  refine fpPack_of_val hz ?_
  rw [Fp.val_ofBits hz.finite, zpow_neg, zpow_natCast, ← div_eq_mul_inv, div_eq_div_iff (by positivity) (by norm_num), hq]

theorem scr_lt (tr : Trader) (i : Nat) : tr.scr i < 2 ^ 32 := BitVec.isLt _

/-! ## Rounding to nearest even -/

/-- What 32 bits with a sign, an exponent and a mantissa read as. -/
theorem Fp.ofBits_pack (n : Bool) {m k : Nat} (lo : 2 ^ 23 ≤ m) (hi : m < 2 ^ 24) (k1 : 1 ≤ k) (k2 : k < 255) :
    Fp.ofBits (b2n n * 2 ^ 31 + k * 2 ^ 23 + (m - 2 ^ 23)) = .fin n m ((k : Int) - 150) := by
  have fields (c : Nat) (hc : c < 2) : (c * 2 ^ 31 + k * 2 ^ 23 + (m - 2 ^ 23)) / 2 ^ 23 % 256 = k ∧
      (c * 2 ^ 31 + k * 2 ^ 23 + (m - 2 ^ 23)) % 2 ^ 23 = m - 2 ^ 23 ∧ (c * 2 ^ 31 + k * 2 ^ 23 + (m - 2 ^ 23)) / 2 ^ 31 % 2 = c := by
    refine ⟨by omega, by omega, by omega⟩
  have sign : (b2n n == 1) = n := by cases n <;> rfl
  obtain ⟨e1, e2, e3⟩ := fields (b2n n) (by cases n <;> decide)
  rw [Fp.ofBits_eq, e1, e2, e3, sign, if_neg (by omega), if_neg (by omega), show m - 2 ^ 23 + 2 ^ 23 = m by omega]

/-- The quotient of `m` by 2^s, rounded to nearest, ties to even. -/
def nearestEven (m s : Nat) : Nat :=
  m / 2 ^ s + if 2 ^ (s - 1) < m % 2 ^ s ∨ (2 ^ (s - 1) = m % 2 ^ s ∧ m / 2 ^ s % 2 = 1) then 1 else 0

theorem nearestEven_spec (m : Nat) {s : Nat} (hs : 0 < s) : let r := nearestEven m s * 2 ^ s
    2 * (m - r) ≤ 2 ^ s ∧ 2 * (r - m) ≤ 2 ^ s ∧ ((2 * (m - r) = 2 ^ s ∨ 2 * (r - m) = 2 ^ s) → nearestEven m s % 2 = 0) ∧
      (r = m ↔ m % 2 ^ s = 0) := by
  have half : 2 ^ s = 2 * 2 ^ (s - 1) := by rw [← Nat.pow_succ', show (s - 1).succ = s by omega]
  have pos := Nat.two_pow_pos (s - 1)
  have div := Nat.div_add_mod m (2 ^ s)
  have lt := Nat.mod_lt m (Nat.two_pow_pos s)
  unfold nearestEven
  dsimp only
  rw [Nat.add_mul, Nat.mul_comm (m / 2 ^ s)]
  generalize 2 ^ s * (m / 2 ^ s) = p at *
  generalize m / 2 ^ s = q at *
  generalize m % 2 ^ s = rest at *
  rw [half] at *
  generalize 2 ^ (s - 1) = u at *
  split
  case isTrue up =>
    rw [one_mul]
    exact ⟨by omega, by omega, by omega, by omega⟩
  case isFalse down =>
    rw [zero_mul]
    exact ⟨by omega, by omega, by omega, by omega⟩

theorem nearestEven_bounds {m s : Nat} (hm : m.log2 = 23 + s) : 2 ^ 23 ≤ nearestEven m s ∧ nearestEven m s ≤ 2 ^ 24 := by
  have ne : m ≠ 0 := by
    rintro rfl
    rw [show Nat.log2 0 = 0 from by decide] at hm
    omega
  have low : 2 ^ 23 ≤ m / 2 ^ s := by
    rw [Nat.le_div_iff_mul_le (Nat.two_pow_pos s), ← Nat.pow_add, ← hm]
    exact Nat.log2_self_le ne
  have high : m / 2 ^ s < 2 ^ 24 := by
    rw [Nat.div_lt_iff_lt_mul (Nat.two_pow_pos s), ← Nat.pow_add, show 24 + s = m.log2 + 1 by omega]
    exact Nat.lt_log2_self
  unfold nearestEven
  split <;> omega

/-- Rounding of a number of more than 24 bits whose result is a normal number. -/
theorem fpRound_eq_nearestEven (n : Bool) {m s : Nat} {e : Int} (hm : m.log2 = 23 + s) (hs : 0 < s) (lo : -126 ≤ e + m.log2)
    (hi : e + m.log2 < 127) : ∃ Q k : Nat, fpRound n m e false = (b2n n * 2 ^ 31 + k * 2 ^ 23 + (Q - 2 ^ 23), if m % 2 ^ s = 0 then 0 else 1) ∧
      2 ^ 23 ≤ Q ∧ Q < 2 ^ 24 ∧ 1 ≤ k ∧ k < 255 ∧
      ((Q = nearestEven m s ∧ (k : Int) - 150 = e + s) ∨ (Q = 2 ^ 23 ∧ nearestEven m s = 2 ^ 24 ∧ (k : Int) - 150 = e + s + 1)) := by
  have ne : m ≠ 0 := by
    rintro rfl
    rw [show Nat.log2 0 = 0 from by decide] at hm
    omega
  have big : 23 < m.log2 := by omega
  obtain ⟨low, high⟩ := nearestEven_bounds hm
  have quot : (if (decide (2 ^ (m.log2 - 24) < m % 2 ^ (m.log2 - 23)) || decide (2 ^ (m.log2 - 24) = m % 2 ^ (m.log2 - 23)) &&
      (false || m >>> (m.log2 - 23) % 2 == 1)) && decide (23 < m.log2) then m >>> (m.log2 - 23) + 1 else m >>> (m.log2 - 23)) = nearestEven m s := by
    rw [show m.log2 - 24 = s - 1 by omega, show m.log2 - 23 = s by omega, Nat.shiftRight_eq_div_pow, nearestEven]
    simp only [big, decide_true, Bool.and_true, Bool.false_or, Bool.or_eq_true, Bool.and_eq_true, decide_eq_true_eq, beq_iff_eq]
    split <;> rfl
  have inexact : b2n (m % 2 ^ (m.log2 - 23) != 0 || false) = if m % 2 ^ s = 0 then 0 else 1 := by
    rw [show m.log2 - 23 = s by omega, Bool.or_false, b2n]
    by_cases zero : m % 2 ^ s = 0 <;> simp [zero]
  unfold fpRound
  rw [if_neg ne]
  simp only [if_pos big, quot, inexact]
  by_cases carry : nearestEven m s = 2 ^ 24
  · rw [if_pos carry, if_pos carry, if_neg (by omega), if_neg (by omega)]
    exact ⟨2 ^ 23, _, rfl, by norm_num, by norm_num, by omega, by omega, .inr ⟨rfl, carry, by omega⟩⟩
  · rw [if_neg carry, if_neg carry, if_neg (by omega), if_neg (by omega)]
    exact ⟨nearestEven m s, _, rfl, low, by omega, by omega, by omega, .inl ⟨rfl, by omega⟩⟩

end Sys2Proof.Machine

namespace Sys2Proof.Proofs

open Sys2Proof.Machine

/-- Settles O27: the rounded mantissa is the nearest one, and where rounding up makes it 2^24 it is half of that at the next exponent. -/
theorem roundsToNearestEven : Obligations.RoundsToNearestEven := by
  intro neg m e big lo hi x
  have ne : m ≠ 0 := by omega
  obtain ⟨s, hm⟩ : ∃ s, m.log2 = 23 + s := ⟨m.log2 - 23, by have := (Nat.le_log2 ne).mpr big; omega⟩
  have hs : 0 < s := by have := (Nat.le_log2 ne).mpr big; omega
  obtain ⟨Q, k, round, loQ, hiQ, k1, k2, cases_⟩ := fpRound_eq_nearestEven neg hm hs lo hi
  obtain ⟨under, above, tie, exact_⟩ := nearestEven_spec m hs
  have unit : Nat.log2 m - 23 = s := by omega
  have value : Q * 2 ^ (((k : Int) - 150) - e).toNat = nearestEven m s * 2 ^ s ∧ (nearestEven m s % 2 = 0 → Q % 2 = 0) := by
    rcases cases_ with ⟨rfl, hk⟩ | ⟨rfl, carry, hk⟩
    · exact ⟨by rw [hk, show (e + s - e).toNat = s by omega], id⟩
    · exact ⟨by rw [hk, carry, show (e + s + 1 - e).toNat = s + 1 by omega, Nat.pow_succ]; ring, fun _ => by norm_num⟩
  refine ⟨Q, (k : Int) - 150, ?_, by omega, ?_⟩
  · change Fp.ofBits (fpRound neg m e false).1 = _
    rw [round]
    exact Fp.ofBits_pack neg loQ hiQ k1 k2
  · dsimp only
    rw [unit, value.1]
    refine ⟨under, above, fun h => value.2 (tie h), ?_⟩
    change (fpRound neg m e false).2 = _
    rw [round]
    simp only [exact_]

/-- Settles O26: each operation has a result of 32 bits, and rounding keeps an exact result that is a normal number. -/
theorem binary32Exact : Obligations.Binary32Exact := by
  intro s t w h on sound tr a b d ua ub ud n unit done exact_ cmp
  have finished {op : Nat} (hk : keyOf w = key 0x38 op) (uses : Nat → List GReg) (l : Nat) (f : Nat → Trader → Nat × Nat) {r : Nat × Nat}
      (p : Nat × Nat → Prop) (hr : f w tr = r) (fits : FitsResult r) (hp : p r) :
      done l (.next (s.scale t op uses fun w tr => tr.scResult l (fCd w) (f w tr))) p :=
    ⟨r, h.scale_result on sound hk uses l f hr, fits.1, fits.2, hp⟩
  have flag : (0 : Nat) < 16 := by norm_num
  refine ⟨fun hk => finished hk _ 2 _ _ rfl (fitsResult_add _ _) ⟨fun ha hb z hz => fpAddF_units ha hb hz, fpAddF_units_cancel⟩,
    fun hk => finished hk _ 2 _ _ rfl (fitsResult_sub _ _) ⟨fun ha hb z hz => fpSubF_units ha hb hz, fpSubF_units_cancel⟩,
    fun hk => finished hk _ 2 _ _ rfl (fitsResult_mul _ _) (fun ha hb z hz => fpMulF_units ha hb hz),
    fun hk => finished hk _ 3 _ _ rfl (fitsResult_mac _ _ _) (fun hd ha hb z hz => fpMacF_units hd ha hb hz),
    fun hk => finished hk _ 8 _ _ rfl (fitsResult_div _ _) (fun ne ha hb z hz => fpDivF_units ha hb ne hz),
    fun hk => finished hk _ 8 _ _ rfl (fitsResult_sqrt _) (fun ha z hz => fpSqrtF_units ha hz),
    fun hk => ⟨_, _, h.scale_compare on sound hk _ (fun w tr => fpCond (bits w 2 0) (tr.fp (fCa w)) (tr.fp (fCb w))) rfl, fpCond_flags _ _ _, ?_⟩,
    fun hk => finished hk _ 2 _ _ (congrArg (fpToX (Fp.ofBits a)) (fXf_eq w)) (fitsResult_toX _ _) (fun ha z lt => fpToX_units ha n lt),
    fun hk => finished hk _ 2 _ _ (congrArg (xToFp (sgn 32 a)) (fXf_eq w)) (fitsResult_pack _ _) ⟨fun z hz => xToFp_units hz _ n, fun zero => ?_⟩,
    fun hk => finished hk _ 1 _ _ rfl ⟨by dsimp only; omega, flag⟩ rfl, fun hk => finished hk _ 1 _ _ rfl ⟨Nat.mod_lt _ (by norm_num), flag⟩ rfl,
    fun hk => finished hk _ 1 _ _ rfl (fitsResult_clip _ _ _) (fun ha hb hd => fpClip_units hd ha hb (scr_lt _ _) (scr_lt _ _) (scr_lt _ _))⟩
  · intro ha hb
    change (fpCond (bits w 2 0) (Fp.ofBits a) (Fp.ofBits b)).1 = _ ∧ (fpCond (bits w 2 0) (Fp.ofBits a) (Fp.ofBits b)).2 = _
    rw [fCond_eq, fpCond_units ha hb]
    exact ⟨rfl, rfl⟩
  · rw [zero]
    rfl

end Sys2Proof.Proofs
end

section
/-! SUPPORT. Coprocessor operations (R84, R99, R123, R150, R426): what reaches a unit of the integrator, and the result that comes back first. -/

namespace Sys2Proof.Machine

variable {s : State} {t : TraderId} {w : Nat}

/-! ## Operations of CP1 to CP7 that issue -/

theorem State.took_cpLatency (s : State) (t : TraderId) (w n : Nat) : (s.took t w).cpLatency t n = s.cpLatency t n := by
  have used : (s.usedLine t).cpLatency t n = s.cpLatency t n := by
    unfold State.usedLine
    dsimp only
    split
    · rfl
    · split <;> rfl
  unfold State.took
  dsimp only
  split <;> exact used

theorem State.inSlot_part (s : State) (t : TraderId) : (s.inSlot t).part = s.part :=
  ((s.marksFewer_finishes t).trans (State.marksFewer_ownSlot _ t _)).1

/-- An operation of CP1 to CP7 whose word is fetched has its slot. -/
theorem State.Issues.exec_cpxOperation (h : s.Issues t w) (hk : keyOf w = key 0x39) (ans : CpxAnswer) :
    exec (.cpxOperation t ans) s = .next ((s.inSlot t).cpxSlot t w ans) := by
  change execCpxOperation t ans s = _
  simp only [execCpxOperation, h.can, h.fresh, h.word, h.legal, hk, State.fetchSlot, h.clean, State.inSlot, Bool.not_true, Option.isSome_none,
    Bool.or_self, Bool.false_eq_true, if_false, ne_eq, not_true_eq_false, or_self]

/-- The operation that a unit gets. -/
theorem State.Issues.cpxOp_eq (h : s.Issues t w) : (s.inSlot t).cpxOp t w =
    ⟨fMajor w - 0x38, fOp w, fCd w, fCa w, fCb w, fXf w, true, t.t,
      ((s.final t w).cpLatency t (fMajor w - 0x38)).map fun l => (s.at_ t w).slot + l⟩ := by
  obtain ⟨b, e⟩ := h.trader_final
  have slot : (s.at_ t w).slot = ((s.inSlot t).trader t).slot := by rw [State.at_, e]
  rw [slot, h.final_eq, State.took_cpLatency, State.cpxOp, h.guard]

/-! ## Results that come back -/

/-- Of the operation chosen so far and another one, the one that comes back first. -/
def earlierOp (b : Option CpxOp) (e : CpxOp) : Option CpxOp :=
  match b with
  | some x => if e.due.getD 0 < x.due.getD 0 then some e else some x
  | none => some e

theorem Trader.cpNext_foldl (tr : Trader) : tr.cpNext = tr.cpOut.foldl earlierOp none := by
  unfold Trader.cpNext
  congr 1
  funext b e
  cases b <;> rfl

/-- An operation stays chosen while none of an earlier slot follows. -/
theorem foldl_earlierOp_of_le {e : CpxOp} (ys : List CpxOp) (h : ∀ y ∈ ys, e.due.getD 0 ≤ y.due.getD 0) : ys.foldl earlierOp (some e) = some e := by
  induction ys with
  | nil => rfl
  | cons y ys ih =>
    rw [List.foldl_cons, earlierOp, if_neg (Nat.not_lt.mpr (h y List.mem_cons_self))]
    exact ih fun x hx => h x (List.mem_cons_of_mem _ hx)

/-- An operation is chosen after operations of later slots alone. -/
theorem earlierOp_foldl_of_lt {e : CpxOp} (xs : List CpxOp) (b : Option CpxOp) (hb : ∀ x, b = some x → e.due.getD 0 < x.due.getD 0)
    (h : ∀ x ∈ xs, e.due.getD 0 < x.due.getD 0) : earlierOp (xs.foldl earlierOp b) e = some e := by
  induction xs generalizing b with
  | nil =>
    match b, hb with
    | none, _ => rfl
    | some x, hb => exact if_pos (hb x rfl)
  | cons x xs ih =>
    refine ih _ (fun y hy => ?_) fun y hy => h y (List.mem_cons_of_mem _ hy)
    have hx := h x List.mem_cons_self
    unfold earlierOp at hy
    split at hy
    case h_1 z =>
      split at hy
      · exact Option.some.inj hy ▸ hx
      · exact hb y hy
    case h_2 => exact Option.some.inj hy ▸ hx

/-- The operation of the earliest declared slot, and of several the oldest, comes back next. -/
theorem Trader.cpNext_eq {tr : Trader} {xs ys : List CpxOp} {e : CpxOp} (hq : tr.cpOut = xs ++ e :: ys)
    (before : ∀ x ∈ xs, e.due.getD 0 < x.due.getD 0) (after : ∀ y ∈ ys, e.due.getD 0 ≤ y.due.getD 0) : tr.cpNext = some e := by
  rw [Trader.cpNext_foldl, hq, List.foldl_append, List.foldl_cons, earlierOp_foldl_of_lt xs none (fun _ h => nomatch h) before]
  exact foldl_earlierOp_of_le ys after

theorem exec_cpxResultReturn {xs ys : List CpxOp} {e : CpxOp} (hq : (s.trader t).cpOut = xs ++ e :: ys)
    (before : ∀ x ∈ xs, e.due.getD 0 < x.due.getD 0) (after : ∀ y ∈ ys, e.due.getD 0 ≤ y.due.getD 0) (busy : s.idleSlots t = false)
    (come : s.slotCome t (e.due.getD 0) = true) (pred : Option (Nat × Bool)) :
    exec (.cpxResultReturn t pred) s = .next (s.upd t fun tr => match pred with
      | some (i, b) => if e.guard then Trader.setP { tr with cpOut := xs ++ ys } i b else { tr with cpOut := xs ++ ys }
      | none => { tr with cpOut := xs ++ ys }) := by
  have other : e ∉ xs := fun mem => lt_irrefl _ (before e mem)
  have rest : (s.trader t).cpOut.erase e = xs ++ ys := by rw [hq, List.erase_append_right _ other, List.erase_cons_head]
  change execCpxResultReturn t pred s = _
  simp only [execCpxResultReturn, Trader.cpNext_eq hq before after, State.idleTo_of_busy busy, come, if_true, State.upd, rest] <;> rfl

end Sys2Proof.Machine

namespace Sys2Proof.Proofs

open Sys2Proof.Machine

/-- O28, CP0: where it is absent, the slot of each of its operations ends in the trap. -/
theorem coprocessors_scaleAbsent : Claims.ScaleAbsent := by
  intro s t w h off tr x hx
  have absent {op : Nat} {uses : Nat → List GReg} {body : Nat → Trader → Trader} (hk : keyOf w = key 0x38 op) :
      (.next (s.scale t op uses body) : Out) = .next ((s.final t w).setTrader t { tr with trap := some ⟨14, 0, 0, w, tr.pc⟩ }) :=
    congrArg Host.Outcome.next ((h.scale_absent off hk uses body).trans (State.trapAfter_final s t w 14 0 w))
  simp only [List.mem_cons, List.not_mem_nil, or_false] at hx
  rcases hx with rfl | rfl | rfl | rfl | rfl | rfl | rfl | rfl | rfl | rfl | rfl | rfl | rfl | rfl | rfl | rfl | rfl | rfl | rfl | rfl | rfl |
    rfl | rfl | rfl | rfl <;> exact absent

/-- O28, CP1 to CP7: what the answer of the unit makes of the slot, and the result that comes back first. -/
theorem coprocessors_operations : Claims.CoprocessorOperations := by
  refine ⟨fun s t w ans h hk => ?_, fun s t pred xs ys e => ?_⟩
  · intro n f tr tr' op
    have slot (ans : CpxAnswer) := h.exec_cpxOperation hk ans
    have part := s.inSlot_part t
    refine ⟨fun present => ⟨?_, ?_, ?_⟩, fun missing => ?_⟩
    · rw [slot, State.cpxSlot, part, if_pos present, h.cpxOp_eq]
      simp only [reduceCtorEq, if_false, false_and]
      rw [← h.final_eq]
      rfl
    · rw [slot, State.cpxSlot, part, if_pos present, h.guard]
      rfl
    · rw [slot, State.cpxSlot, part, if_pos present]
      rfl
    · rw [slot, State.cpxSlot, part, missing, h.guard, ← h.final_eq]
      exact congrArg Host.Outcome.next (State.trapAfter_final s t w 14 n w)
  · intro tr tr' hq before after busy come
    rw [exec_cpxResultReturn hq before after busy (State.slotCome_iff.mpr come)]
    refine congrArg (fun tr => Host.Outcome.next (s.setTrader t tr)) ?_
    match pred with
    | none => rfl
    | some (i, b) =>
      cases guard : e.guard
      · rfl
      · by_cases zero : i = 0 <;> simp [Trader.setP, zero, tr', tr]

/-- Settles O28: the operations of CP0 on a part without it, and those of CP1 to CP7. -/
theorem coprocessors : Obligations.Coprocessors := ⟨coprocessors_scaleAbsent, coprocessors_operations⟩

end Sys2Proof.Proofs
end

section
/-! SUPPORT. Stores and calls into stall RAM and the slice (R65, R134, R136): what their last slot leaves. -/

namespace Sys2Proof.Machine

variable {s u : State} {t : TraderId} {w k v : Nat} {a : Arr} {o : Nat}

theorem toBytes_length (n v : Nat) : (toBytes n v).length = n := by
  induction n generalizing v with
  | zero => rfl
  | succ n ih => rw [toBytes, List.length_cons, ih]

theorem toBytes_getElem? (n v : Nat) {i : Nat} (h : i < n) : (toBytes n v)[i]? = some (BitVec.ofNat 8 (v / 256 ^ i)) := by
  induction n generalizing v i with
  | zero => exact absurd h (Nat.not_lt_zero i)
  | succ n ih =>
    match i with
    | 0 => rw [toBytes, List.getElem?_cons_zero, Nat.pow_zero, Nat.div_one]
    | i + 1 => rw [toBytes, List.getElem?_cons_succ, ih _ (by omega), Nat.div_div_eq_div_mul, Nat.pow_succ']

/-- An attempt in the last slot of an access of the stall's own memory that R67 allows. -/
theorem State.memIssue_last_near (hl : s.AtLast t w (accesses (((s.final t w).trader t).memForm w).ea (((s.final t w).trader t).memForm w).n).length)
    (hr : regionOf (((s.final t w).trader t).memForm w).ea = .ram ∨ regionOf (((s.final t w).trader t).memForm w).ea = .slice)
    (inside : addrFault (((s.final t w).trader t).memForm w).ea (((s.final t w).trader t).memForm w).n = 0) (hk : keyOf w = k)
    (uses : Nat → List GReg) : s.memIssue t k uses = .next (s.ended t (State.memBody t w (s.final t w))).settle := by
  rcases hl with ⟨hi, one⟩ | ⟨hc, p, hp, rfl, hleft, hn, hf⟩
  · rw [hi.memForm_final] at hr inside one
    have cost : memCost w ((s.inSlot t).trader t) ≤ 1 := by simp [memCost, inside, one]
    rw [State.memIssue_eq hi hk uses (State.memHold_near hr) cost, State.ended, hi.fresh]
    rfl
  · rw [State.memIssue, State.waitsIn_of_canIssue hc, Bool.and_false, if_neg Bool.false_ne_true,
      State.issue_last hc hp hk hn hf hleft.le _ _ _ _ _ (State.memHold_near hr)]

/-- The effect of a store into an array of the stall. -/
theorem State.memBody_store {m : MemForm} (form : (u.trader t).memForm w = m) (hs : m.store = some v) (hr : u.ramAt t m.ea = some (a, o))
    (inside : addrFault m.ea m.n = 0) : State.memBody t w u = (u.storeS a o (toBytes m.n v)).setTrader t ((u.trader t).afterMem w) := by
  rw [← State.storeS_trader u a o (toBytes m.n v) t]
  unfold State.memBody State.storeMem
  dsimp only
  rw [form, if_neg (not_not.mpr inside), hs, hr]
  rcases State.region_of_ramAt hr with e | e <;> rw [e] <;> rfl

/-- The state after a store into an array of the stall. -/
theorem State.memIssue_store {m : MemForm} (form : ((s.final t w).trader t).memForm w = m) (hl : s.AtLast t w (accesses m.ea m.n).length)
    (hr : (s.final t w).ramAt t m.ea = some (a, o)) (inside : addrFault m.ea m.n = 0) (quiet : (s.final t w).faults = [])
    (hs : m.store = some v) (hk : keyOf w = k) (uses : Nat → List GReg) :
    s.memIssue t k uses = .next (((s.final t w).storeS a o (toBytes m.n v)).setTrader t { ((s.final t w).trader t).afterMem w with prog := none }) := by
  have prog : (((s.final t w).trader t).afterMem w).prog = (s.trader t).prog := by rw [Trader.afterMem_prog, State.final_prog]
  subst form
  rw [State.memIssue_last_near hl (State.region_of_ramAt hr) inside hk uses, State.memBody_store rfl hs hr inside, State.ended_setTrader prog]
  refine congrArg Host.Outcome.next (State.settle_of_noFaults ?_)
  exact (State.storeS_faults _ _ _ _).trans quiet

/-- A store changes the memory and its error marks alone. -/
theorem State.storeS_eq (u : State) (a : Arr) (o : Nat) (bs : List Byte) : ∃ mem ecc, u.storeS a o bs = { u with mem := mem, ecc := ecc } := by
  unfold State.storeS
  split <;> exact ⟨_, _, rfl⟩

/-- The bytes of a number stored are in its array and in its copy, and no other byte changes. -/
theorem State.storeS_number_read (wf : u.mem.wf = true) {n : Nat} (hn : n ≤ 3) (v y : Nat) :
    let b := ((u.mirror a).getD a).base
    Memory.read (u.storeS a o (toBytes n v)).mem y = if a.base + o ≤ y ∧ y < a.base + o + n then BitVec.ofNat 8 (v / 256 ^ (y - (a.base + o)))
      else if b + o ≤ y ∧ y < b + o + n then BitVec.ofNat 8 (v / 256 ^ (y - (b + o))) else Memory.read u.mem y := by
  have byte (c : Nat) (h : c ≤ y ∧ y < c + n) : ((toBytes n v)[y - c]?).getD 0 = BitVec.ofNat 8 (v / 256 ^ (y - c)) := by
    rw [toBytes_getElem? n v (by omega), Option.getD_some]
  intro b
  rw [State.storeS_read wf (by rw [toBytes_length]; omega), toBytes_length]
  split_ifs with first copy
  · exact byte _ first
  · exact byte _ copy
  · rfl

/-! ## Forms of stores and calls (R134, R136) -/

/-- The stores of format M write a D register, an A register, an accumulator. -/
theorem Trader.memForm_store (tr : Trader) (w : Nat) :
    (fMajor w = 0x21 → (tr.memForm w).n = 1 ∧ (tr.memForm w).store = some (tr.dr (fDst w))) ∧
    (fMajor w = 0x23 → (tr.memForm w).n = 2 ∧ (tr.memForm w).store = some (tr.ar (fDst w))) ∧
    (fMajor w = 0x25 → (tr.memForm w).n = 3 ∧ (tr.memForm w).store = some (tr.acr (fDst w))) := by
  refine ⟨fun e => ?_, fun e => ?_, fun e => ?_⟩ <;> simp [Trader.memForm, e]

/-- A call writes the address after it below A7. -/
theorem Trader.memForm_call (tr : Trader) (h : fMajor w = 0x2A ∨ fMajor w = 0x2B ∨ fMajor w = 0x2C) :
    (tr.memForm w).ea = (tr.ar 7 + 65534) % 65536 ∧ (tr.memForm w).n = 2 ∧ (tr.memForm w).store = some ((tr.pc + 1) % 65536) := by
  have below : unsg 16 ((tr.ar 7 : Int) - 2) = (tr.ar 7 + 65534) % 65536 := by
    unfold unsg
    omega
  rcases h with e | e | e <;> simp [Trader.memForm, e, below]

/-- A call moves A7 to its access, and goes on at its target. -/
theorem Trader.afterMem_call (tr : Trader) (w : Nat) :
    (fMajor w = 0x2A → tr.afterMem w = { tr.setA 7 (tr.memForm w).ea with pc := w % 65536 }) ∧
    (fMajor w = 0x2B → tr.afterMem w = { tr.setA 7 (tr.memForm w).ea with pc := (tr.pc + 1 + w % 65536) % 65536 }) ∧
    (fMajor w = 0x2C → tr.afterMem w = { tr.setA 7 (tr.memForm w).ea with pc := tr.ar (fDst w) }) := by
  have target : fTarget w = w % 65536 := bits_low w 15
  refine ⟨fun e => ?_, fun e => ?_, fun e => ?_⟩ <;> simp [Trader.afterMem, Trader.memForm, e, target]

end Sys2Proof.Machine

namespace Sys2Proof.Proofs

open Sys2Proof.Machine

/-- Settles O19: the last slot of a store or a call writes the bytes of its value, and beside them only its trader changes. -/
theorem storesToStallMemory : Obligations.StoresToStallMemory := by
  intro s t w inv f tr m hl a o hr inside quiet stores push
  have wf : f.mem.wf = true := (State.final_mem s t w).symm ▸ inv.mem
  have store {k n v : Nat} {tr' : Trader} (hk : keyOf w = k) (uses : Nat → List GReg) (form : m.n = n ∧ m.store = some v)
      (after : tr.afterMem w = tr') : stores (s.memIssue t k uses) n v tr' := by
    obtain ⟨hn, hs⟩ := form
    subst hn after
    have small : m.n ≤ 3 := by
      have size : m.n = 1 ∨ m.n = 2 ∨ m.n = 3 := tr.memForm_n w
      omega
    refine ⟨_, State.memIssue_store rfl hl hr inside quiet hs hk uses, State.trader_self _ _ _, fun u hu => ?_, fun y => ?_, ?_⟩
    · exact (State.trader_ne _ _ _ u hu).trans (State.storeS_trader _ _ _ _ u)
    · exact (State.storeS_number_read wf small v y).trans (by rw [State.final_mem])
    · obtain ⟨mem, ecc, e⟩ := f.storeS_eq a o (toBytes m.n v)
      change { (f.storeS a o (toBytes m.n v)).setTrader t _ with mem := f.mem, ecc := f.ecc, traders := f.traders } = f
      rw [e]
      rfl
  have major {k n : Nat} (hk : keyOf w = key k n) (lt : k < 0x39 := by decide) (hn : n < 32 := by decide) : fMajor w = k := fMajor_of_key hk lt hn
  have calls (hk : keyOf w = key 0x2A ∨ keyOf w = key 0x2B ∨ keyOf w = key 0x2C 1) : fMajor w = 0x2A ∨ fMajor w = 0x2B ∨ fMajor w = 0x2C :=
    hk.imp major (Or.imp major major)
  have pushes (h : fMajor w = 0x2A ∨ fMajor w = 0x2B ∨ fMajor w = 0x2C) := (tr.memForm_call h).2
  obtain ⟨byte, half, triple⟩ := tr.memForm_store w
  obtain ⟨absolute, relative, indirect⟩ := tr.afterMem_call w
  exact ⟨fun hk => store hk _ (byte (major hk)) rfl, fun hk => store hk _ (half (major hk)) rfl, fun hk => store hk _ (triple (major hk)) rfl,
    fun hk => (tr.memForm_call (calls hk)).1, fun hk => store hk _ (pushes (calls (.inl hk))) (absolute (major hk)),
    fun hk => store hk _ (pushes (calls (.inr (.inl hk)))) (relative (major hk)),
    fun hk => store hk _ (pushes (calls (.inr (.inr hk)))) (indirect (major hk))⟩

end Sys2Proof.Proofs
end

section
/-! SUPPORT. Rings of several bells (R141, R143, R194): which watches they set, and what goes out to the barrows. -/

namespace Sys2Proof.Machine

variable {s u v : State} {T : Nat}

/-- The source of the delivery of a device bell or a hall bell. -/
def bellSrc (dev : Bool) (n : Nat) : DeliverySrc := if dev then .devBell n else .bell n

/-- From `s` to `u` the bells that `rung` tells by hall, kind and number ring at tick `T`, and nothing else changes. -/
structure State.Rings (T : Nat) (s u : State) (rung : Nat → Bool → Nat → Bool) : Prop where
  watch : ∀ t w, (s.trader t).watch = some w → u.trader t = { s.trader t with watch := some { w with isSet := w.isSet || rung t.h w.dev w.bell } }
  deaf : ∀ t, (s.trader t).watch = none → u.trader t = s.trader t
  stay : ∀ d ∈ s.deliveries, d ∈ u.deliveries
  sent : ∀ h dev n, rung h dev n = true → ∃ d ∈ u.deliveries, d.h = h ∧ d.src = bellSrc dev n ∧ d.due = T + 32
  frame : { u with traders := s.traders, deliveries := s.deliveries } = s

theorem State.Rings.refl (T : Nat) (s : State) : s.Rings T s fun _ _ _ => false where
  watch t w hw := by rw [Bool.or_false, ← hw]
  deaf _ _ := rfl
  stay _ hd := hd
  sent _ _ _ h := absurd h Bool.false_ne_true
  frame := rfl

theorem State.Rings.trans {a b : Nat → Bool → Nat → Bool} (h : s.Rings T u a) (h' : u.Rings T v b) : s.Rings T v fun x y z => a x y z || b x y z where
  watch t w hw := by
    have e := h.watch t w hw
    rw [h'.watch t _ (congrArg Trader.watch e), e, Bool.or_assoc]
  deaf t ht := by
    have e := h.deaf t ht
    rw [h'.deaf t (by rw [e, ht]), e]
  stay d hd := h'.stay d (h.stay d hd)
  sent x y z hr := by
    rcases (Bool.or_eq_true _ _).mp hr with ha | hb
    · obtain ⟨d, hd, e⟩ := h.sent x y z ha
      exact ⟨d, h'.stay d hd, e⟩
    · exact h'.sent x y z hb
  frame := by
    have e := congrArg (fun u : State => { u with traders := s.traders, deliveries := s.deliveries }) h'.frame
    exact (e :).trans h.frame

theorem State.Rings.tick {a : Nat → Bool → Nat → Bool} (h : s.Rings T u a) : u.tick = s.tick := (congrArg State.tick h.frame :)

theorem State.Rings.part {a : Nat → Bool → Nat → Bool} (h : s.Rings T u a) : u.part = s.part := (congrArg State.part h.frame :)

/-- Rings one after another at the tick and on the part of `s`. -/
theorem State.rings_forAll {α : Type} (xs : List α) (f : α → State → State) (rung : α → Nat → Bool → Nat → Bool) {s : State}
    (step : ∀ (x : α) (u : State), u.tick = s.tick → u.part = s.part → u.Rings T (f x u) (rung x)) :
    s.Rings T (forAll xs f s) fun h dev n => xs.any fun x => rung x h dev n := by
  have all (u : State) (tick : u.tick = s.tick) (part : u.part = s.part) :
      u.Rings T (forAll xs f u) fun h dev n => xs.any fun x => rung x h dev n := by
    induction xs generalizing u with
    | nil => exact .refl T u
    | cons x xs ih =>
      have first := step x u tick part
      exact first.trans (ih (f x u) (first.tick.trans tick) (first.part.trans part))
  exact all s rfl rfl

theorem State.trader_setWatches_none {t : TraderId} (hw : (s.trader t).watch = none) (h : Nat) (dev : Bool) (n : Nat) :
    (s.setWatches h dev n).trader t = s.trader t := by
  rw [State.setWatches_eq]
  simp only [State.trader, Tab.get, Tab.find_map] at hw ⊢
  cases hf : Tab.find s.traders t with
  | none => rfl
  | some a =>
    rw [hf] at hw
    simp only [Option.map_some, Option.getD_some] at hw ⊢
    simp only [Trader.heard, hw]

/-- One bell rings in one hall. -/
theorem State.rings_one (s : State) (h : Nat) (dev : Bool) (n : Nat) : s.Rings T ((s.setWatches h dev n).deliver h (bellSrc dev n) T)
    fun x y z => x == h && y == dev && z == n := by
  have trader (t : TraderId) : ((s.setWatches h dev n).deliver h (bellSrc dev n) T).trader t = (s.setWatches h dev n).trader t := by
    rw [State.trader, State.deliver_traders, State.trader]
  refine ⟨fun t w hw => ?_, fun t ht => ?_, fun d hd => ?_, fun x y z hr => ?_, ?_⟩
  · rw [trader, State.trader_setWatches hw]
  · rw [trader, State.trader_setWatches_none ht]
  · unfold State.deliver
    split
    · exact hd
    · exact List.mem_append_left _ hd
  · simp only [Bool.and_eq_true, beq_iff_eq] at hr
    obtain ⟨⟨rfl, rfl⟩, rfl⟩ := hr
    exact State.exists_deliver _ _ _ _
  · unfold State.deliver
    split <;> rfl

theorem State.rings_ringDev (s : State) (n : Nat) : s.Rings s.tick (s.ringDev n s.tick)
    fun x y z => (List.range s.part.halls).any fun h => x == h && y == true && z == n :=
  State.rings_forAll (List.range s.part.halls) (fun h u => (u.setWatches h true n).deliver h (.devBell n) s.tick) _
    fun h u _ _ => u.rings_one h true n

theorem any_ones_beq {x w n : Nat} (hx : x < 2 ^ w) : (ones w x).any (fun k => n == k) = bit x n := by
  rw [Bool.eq_iff_iff, List.any_eq_true]
  constructor
  · rintro ⟨k, hk, e⟩
    rw [beq_iff_eq.mp e]
    exact (mem_ones.mp hk).2
  · intro hb
    refine ⟨n, mem_ones.mpr ⟨?_, hb⟩, beq_self_eq_true n⟩
    by_contra big
    rw [bit_testBit, Nat.testBit_lt_two_pow (lt_of_lt_of_le hx (Nat.pow_le_pow_right (by norm_num) (by omega)))] at hb
    exact Bool.false_ne_true hb

/-- Hall bells rung together. -/
theorem State.rings_hallMask (s : State) (h : Nat) {mask : Nat} (hm : mask < 2 ^ 32) :
    s.Rings s.tick (s.ringMask false h 32 mask) fun x y z => x == h && !y && bit mask z := by
  have all : s.Rings s.tick (s.ringMask false h 32 mask) fun x y z => (ones 32 mask).any fun n => x == h && y == false && z == n := by
    refine State.rings_forAll _ _ (fun n x y z => x == h && y == false && z == n) fun n u tick _ => ?_
    rw [← tick]
    exact u.rings_one h false n
  have e : (fun x y z => (ones 32 mask).any fun n => x == h && y == false && z == n) = fun x y z => x == h && !y && bit mask z := by
    funext x y z
    rw [← any_ones_beq hm, ← beq_false]
    cases x == h && y == false <;> simp
  exact e ▸ all

/-- Device bells rung together, in every hall. -/
theorem State.rings_devMask (s : State) {mask : Nat} (hm : mask < 2 ^ 16) :
    s.Rings s.tick (s.ringMask true 0 16 mask) fun x y z => decide (x < s.part.halls) && y && bit mask z := by
  have all : s.Rings s.tick (s.ringMask true 0 16 mask)
      fun x y z => (ones 16 mask).any fun n => (List.range s.part.halls).any fun h => x == h && y == true && z == n := by
    refine State.rings_forAll _ _ (fun n x y z => (List.range s.part.halls).any fun h => x == h && y == true && z == n) fun n u tick part => ?_
    rw [← tick, ← part]
    exact u.rings_ringDev n
  have e : (fun x y z => (ones 16 mask).any fun n => (List.range s.part.halls).any fun h => x == h && y == true && z == n) =
      fun x y z => decide (x < s.part.halls) && y && bit mask z := by
    funext x y z
    have halls (n : Nat) : ((List.range s.part.halls).any fun h => x == h && y == true && z == n) = (decide (x < s.part.halls) && y && z == n) := by
      rw [Bool.eq_iff_iff, List.any_eq_true]
      simp only [List.mem_range, Bool.and_eq_true, beq_iff_eq, decide_eq_true_eq, beq_true]
      exact ⟨fun ⟨h, lt, ⟨e, hy⟩, hn⟩ => ⟨⟨e ▸ lt, hy⟩, hn⟩, fun ⟨⟨lt, hy⟩, hn⟩ => ⟨x, lt, ⟨rfl, hy⟩, hn⟩⟩
    simp only [halls]
    rw [← any_ones_beq hm]
    cases decide (x < s.part.halls) && y <;> simp
  exact e ▸ all

end Sys2Proof.Machine

namespace Sys2Proof.Proofs

open Sys2Proof.Machine

/-- O49, bells: the bells of a mask ring one after another in one tick. -/
theorem bellsAndHostResponses_bellRings : Claims.BellRings := by
  intro s by_ h mask dmask open_
  refine ⟨fun reach => ?_, ?_⟩
  · have rings := s.rings_hallMask h mask.isLt
    refine ⟨_, ?_, fun t w hw => rings.watch t w hw, rings.deaf, fun n _ hn => ?_, rings.frame⟩
    · change (.next (State.byPort ..) : Out) = _
      rw [State.byPort_open open_, if_pos reach]
    · exact rings.sent h false n (by simp [hn])
  · have rings := s.rings_devMask dmask.isLt
    refine ⟨_, congrArg Host.Outcome.next (State.byPort_open open_ _ _ _), fun t w hw inside => ?_, rings.deaf, fun n _ hn k hk => ?_, rings.frame⟩
    · rw [rings.watch t w hw, decide_eq_true inside, Bool.true_and]
    · exact rings.sent k true n (by simp [hn, hk])

end Sys2Proof.Proofs
end

section
/-! SUPPORT. Responses of the host ports (R315, R316, R319): what a tag that becomes free changes, and what each answer leaves. -/

namespace Sys2Proof.Machine

variable {s u v : State} {r : HostReq} {id : Nat}

/-! ## Tags (R316) -/

/-- No request that waits for a tag carries the element of a push. -/
def State.NoPosts (s : State) : Prop := ∀ q ∈ s.reqs, q.issued = false → q.post = none

theorem State.NoPosts.of_reqs (hs : s.NoPosts) (h : u.reqs = s.reqs) : u.NoPosts := fun q hq => hs q (h ▸ hq)

/-- The numbers of the requests of a state, in their order. -/
def State.reqIds (s : State) : List Nat := s.reqs.map fun q => q.id

/-- From `s` to `u` nothing changes but which requests have a tag, and the turns of the masters on the ports. -/
structure State.OnlyTags (s u : State) : Prop where
  rest : { u with reqs := s.reqs, portArb := s.portArb, pathArb := s.pathArb } = s
  ids : u.reqIds = s.reqIds
  posts : s.NoPosts → u.NoPosts

theorem State.OnlyTags.refl (s : State) : s.OnlyTags s := ⟨rfl, rfl, id⟩

theorem State.OnlyTags.trans (h : s.OnlyTags u) (h' : u.OnlyTags v) : s.OnlyTags v where
  rest := by
    have e := congrArg (fun u : State => { u with reqs := s.reqs, portArb := s.portArb, pathArb := s.pathArb }) h'.rest
    exact (e :).trans h.rest
  ids := h'.ids.trans h.ids
  posts hs := h'.posts (h.posts hs)

theorem State.OnlyTags.rd (h : s.OnlyTags u) (q : Reg) : u.rd q = s.rd q := (congrArg (fun u : State => u.rd q) h.rest :)

theorem State.OnlyTags.get (h : s.OnlyTags u) (f : Field) (i : Ix) : u.get f i = s.get f i := State.get_of_rd (h.rd _)

theorem State.OnlyTags.trader (h : s.OnlyTags u) (t : TraderId) : u.trader t = s.trader t := (congrArg (fun u : State => u.trader t) h.rest :)

theorem State.OnlyTags.job (h : s.OnlyTags u) (n : Nat) : u.job n = s.job n := (congrArg (fun u : State => u.job n) h.rest :)

theorem State.issueReq_onlyTags (hp : r.post = none) : s.OnlyTags (s.issueReq r) := by
  have e : s.issueReq r = { s with reqs := s.reqs.map fun q => if q.id = r.id then { q with issued := true } else q } := by
    rw [State.issueReq, hp]
  rw [e]
  refine ⟨rfl, ?_, fun hs q hq hi => ?_⟩
  · rw [State.reqIds, State.reqIds, List.map_map]
    refine List.map_congr_left fun q _ => ?_
    dsimp only [Function.comp]
    split <;> rfl
  · obtain ⟨x, hx, rfl⟩ := List.mem_map.mp hq
    by_cases own : x.id = r.id
    · rw [if_pos own] at hi
      cases hi
    · rw [if_neg own] at hi ⊢
      exact hs x hx hi

theorem State.OnlyTags.issueReq (h : s.OnlyTags u) (hp : r.post = none) : s.OnlyTags (u.issueReq r) := h.trans (State.issueReq_onlyTags hp)

/-- A grant gives a request a tag that waits for one. -/
theorem State.grantOne_onlyTags (hs : s.NoPosts) (h : s.grantOne = some u) : s.OnlyTags u := by
  have able {q : HostReq} (hq : q ∈ s.reqs.filter s.grantable) : q.post = none := by
    obtain ⟨mem, grant⟩ := List.mem_filter.mp hq
    refine hs q mem ?_
    simp only [State.grantable, Bool.and_eq_true, Bool.not_eq_true'] at grant
    exact grant.1.1
  unfold State.grantOne at h
  dsimp only at h
  split at h
  case h_1 q _ hq => exact Option.some.inj h ▸ State.issueReq_onlyTags (able (List.mem_of_find?_eq_some hq))
  case h_2 => cases h
  case h_3 r0 _ _ _ =>
    split at h
    · cases h
    · split at h
      · cases h
      · obtain ⟨q, hq, rfl⟩ := Option.map_eq_some_iff.mp h
        have mem := List.mem_of_find?_eq_some hq
        have post := able (List.mem_filter.mp (List.mem_filter.mp mem).1).1
        refine State.OnlyTags.issueReq ?_ post
        exact ⟨rfl, rfl, id⟩

theorem State.grants_onlyTags (hs : s.NoPosts) (n : Nat) : s.OnlyTags (s.grants n) := by
  induction n generalizing s with
  | zero => exact .refl s
  | succ n ih =>
    unfold State.grants
    split
    case h_1 u hu =>
      have one := State.grantOne_onlyTags hs hu
      exact one.trans (ih (one.posts hs))
    case h_2 => exact .refl s

theorem State.grantTags_onlyTags (hs : s.NoPosts) : s.OnlyTags s.grantTags := State.grants_onlyTags hs _

/-- While every request has a tag, none is granted. -/
theorem State.grantTags_of_issued (h : ∀ q ∈ s.reqs, q.issued = true) : s.grantTags = s := by
  have none_ : s.reqs.filter (fun q => !q.issued) = [] := List.filter_eq_nil_iff.mpr fun q hq => by simp [h q hq]
  rw [State.grantTags, none_]
  rfl

/-! ## The request that is answered -/

/-- The requests but those of a number. -/
def State.without (s : State) (id : Nat) : State := { s with reqs := s.reqs.filter fun q => q.id != id }

theorem State.NoPosts.without (h : s.NoPosts) (id : Nat) : (s.without id).NoPosts := fun q hq => h q (List.mem_filter.mp hq).1

theorem State.without_ids (s : State) (id : Nat) : (s.without id).reqIds = s.reqIds.filter fun k => k != id := by
  rw [State.without, State.reqIds, State.reqIds, List.filter_map]
  rfl

theorem State.issued_id (h : s.issued id = some r) : r.id = id := by
  have p := List.find?_some h
  simp only [Bool.and_eq_true, beq_iff_eq] at p
  exact p.1

theorem State.issued_without (h : ∀ q ∈ s.reqs, q.issued = true) (id : Nat) : ∀ q ∈ (s.without id).reqs, q.issued = true :=
  fun q hq => h q (List.mem_filter.mp hq).1

/-- The answer of a request, kept for who takes it. -/
def State.keepAnswer (s : State) (r : HostReq) (x : HostResp) : State :=
  if s.awaited r then { s with arrived := s.arrived ++ [⟨r, x⟩] } else s

theorem State.respond_eq {x : HostResp} (h : ∀ bs n, x = .data bs → r.owner ≠ .job n) :
    s.respond r x = ((s.without r.id).keepAnswer r x).grantTags := by
  unfold State.respond
  dsimp only
  split
  case h_1 bs n ho => exact absurd ho (h bs n rfl)
  case h_2 => rfl

theorem State.awaited_without (s : State) (id : Nat) : (s.without id).awaited r = s.awaited r := rfl

theorem State.keepAnswer_eq (s : State) (r : HostReq) (x : HostResp) :
    s.keepAnswer r x = { s with arrived := if s.awaited r then s.arrived ++ [⟨r, x⟩] else s.arrived } := by
  unfold State.keepAnswer
  split <;> rfl

/-- An answer frees its tag and is kept for who awaits it; with no request waiting for a tag nothing else changes. -/
theorem State.respond_spec {x : HostResp} (h : ∀ bs n, x = .data bs → r.owner ≠ .job n) (hs : s.NoPosts) :
    (s.respond r x).arrived = (if s.awaited r then s.arrived ++ [⟨r, x⟩] else s.arrived) ∧
      (s.respond r x).reqIds = s.reqIds.filter (fun k => k != r.id) ∧ (∀ q, (s.respond r x).rd q = s.rd q) ∧
      ((∀ q ∈ s.reqs, q.issued = true) →
        s.respond r x = { s.without r.id with arrived := if s.awaited r then s.arrived ++ [⟨r, x⟩] else s.arrived }) := by
  have e := (State.respond_eq (s := s) h).trans (by rw [State.keepAnswer_eq])
  rw [State.awaited_without] at e
  have posts := hs.without r.id
  have tags : ({ s.without r.id with arrived := if s.awaited r then s.arrived ++ [⟨r, x⟩] else s.arrived } : State).OnlyTags (s.respond r x) :=
    e ▸ State.grantTags_onlyTags posts
  refine ⟨(congrArg State.arrived tags.rest :), tags.ids.trans (s.without_ids r.id), tags.rd, fun all => ?_⟩
  exact e.trans (State.grantTags_of_issued (State.issued_without all r.id))

/-! ## Data of a job's fetch (R20) -/

theorem find?_filter_of_find? {α : Type} {p q : α → Bool} {x : α} {l : List α} (h : l.find? p = some x) (hq : q x = true) :
    (l.filter q).find? p = some x := by
  induction l with
  | nil => cases h
  | cons a l ih =>
    by_cases pa : p a = true
    · rw [List.find?_cons_of_pos pa] at h
      rw [Option.some.inj h, List.filter_cons_of_pos hq, List.find?_cons_of_pos (Option.some.inj h ▸ pa)]
    · rw [List.find?_cons_of_neg pa] at h
      by_cases qa : q a = true
      · rw [List.filter_cons_of_pos qa, List.find?_cons_of_neg pa]
        exact ih h
      · rw [List.filter_cons_of_neg qa]
        exact ih h

theorem State.job_num {n : Nat} {j : Job} (hj : s.job n = some j) : j.num = n := beq_iff_eq.mp (List.find?_some hj :)

/-- The record of a job after a change of it. -/
theorem State.job_updJob {n : Nat} {j : Job} {f : Job → Job} (hf : ∀ k, (f k).num = k.num) (hj : s.job n = some j) :
    (s.updJob n f).job n = some (f j) := by
  have same : ((fun k : Job => k.num == n) ∘ fun k => if k.num == n then f k else k) = fun k => k.num == n := by
    funext k
    dsimp only [Function.comp]
    split
    · rw [hf]
    · rfl
  change (s.jobs.map fun k => if k.num == n then f k else k).find? (fun k => k.num == n) = _
  rw [List.find?_map, same, show s.jobs.find? (fun k => k.num == n) = some j from hj, Option.map_some]
  exact congrArg some (if_pos (beq_iff_eq.mpr (State.job_num hj)))

/-- A job that has got the bytes `got`, the last `len` of them now. -/
def Job.fed (got : List Byte) (len : Nat) (j : Job) : Job := { j with got := got, fetchAt := j.fetchAt + len, left := j.left - len }

/-- The last data that a fetch of a job waits for collect in it, and where they call for no more nothing else happens. -/
theorem State.jobFetched_last {n : Nat} {j : Job} {bs : List Byte} (hj : s.job n = some j) (left : j.left = bs.length)
    (code : ∀ lane flags, j.body ≠ .loadMicrocode lane flags)
    (image : ∀ image len flags, j.body = .loadImage image len flags → j.stage = 0 → (stepOne (j.got ++ bs) len).2 = none) :
    s.jobFetched n bs = s.updJob n (Job.fed (j.got ++ bs) bs.length) := by
  have fed : s.jobFetched n bs = (s.updJob n (Job.fed (j.got ++ bs) bs.length)).fetchMore n := by
    unfold State.jobFetched
    rw [hj]
    cases hb : j.body
    case loadMicrocode lane flags => exact absurd hb (code lane flags)
    case loadImage im len flags =>
      by_cases first : j.stage = 0
      · simp only [hb, first, left, and_self, if_true, image im len flags hb first, Option.map_none]
        rfl
      · simp only [hb, first, false_and, if_false]
        rfl
    all_goals
      simp only [hb]
      rfl
  rw [fed, State.fetchMore, State.job_updJob (f := Job.fed (j.got ++ bs) bs.length) (fun _ => rfl) hj]
  exact if_pos (by simp [Job.fed, left])

/-! ## Error responses (R319) -/

/-- The record of an error response. -/
def State.errorNoted (s : State) (r : HostReq) : State :=
  ((s.put HP_ERR_ADDR.ADDR (ix r.port) r.addr).put HP_ERR_STREAM.STREAM (ix r.port) r.stream).count HP_ERRCNT.COUNT (ix r.port)

/-- The names of the registers that hold the record. -/
def errorNames : List RegName := [.HP_ERR_ADDR, .HP_ERR_STREAM, .HP_ERRCNT]

theorem State.errorNoted_noPosts (hs : s.NoPosts) (r : HostReq) : (s.errorNoted r).NoPosts := hs

theorem errorNames_ne {n m : RegName} (h : n ∈ errorNames) (hm : m ∉ errorNames) : n ≠ m := fun e => hm (e ▸ h)

theorem State.errorNoted_get {f : Field} (h : f.reg ∉ errorNames) (i : Ix) : (s.errorNoted r).get f i = s.get f i := by
  simp only [errorNames, List.mem_cons, List.not_mem_nil, or_false, not_or] at h
  obtain ⟨addr, stream, count⟩ := h
  rw [State.errorNoted, State.count, State.get_put_beside (.inl count), State.get_put_beside (.inl stream), State.get_put_beside (.inl addr)]

/-- A state whose registers of the record are those noted holds the record. -/
theorem State.recorded_of_noted (h : ∀ q : Reg, q.name ∈ errorNames → u.rd q = (s.errorNoted r).rd q) :
    u.get HP_ERR_ADDR.ADDR (ix r.port) = r.addr % 2 ^ 52 ∧ u.get HP_ERR_STREAM.STREAM (ix r.port) = r.stream % 2 ^ 16 ∧
      u.get HP_ERRCNT.COUNT (ix r.port) = min (s.get HP_ERRCNT.COUNT (ix r.port) + 1) (2 ^ 32 - 1) := by
  have same {f : Field} (hf : f.reg ∈ errorNames) : u.get f (ix r.port) = (s.errorNoted r).get f (ix r.port) := State.get_of_rd (h _ hf)
  refine ⟨(same (by decide)).trans ?_, (same (by decide)).trans ?_, (same (by decide)).trans ?_⟩
  · rw [State.errorNoted, State.count, State.get_put_beside (by decide), State.get_put_beside (by decide), State.get_put_self _ _ _ _ (by decide) (by decide)]
    rfl
  · rw [State.errorNoted, State.count, State.get_put_beside (by decide), State.get_put_self _ _ _ _ (by decide) (by decide)]
    rfl
  · rw [State.errorNoted, State.count, State.get_put_self _ _ _ _ (by decide) (by decide), State.get_put_beside (by decide),
      State.get_put_beside (by decide)]
    exact Nat.mod_eq_of_lt (lt_of_le_of_lt (min_le_right _ _) (by decide))

/-- The request is gone after its error, and what waited for a tag may have one. -/
def State.lost (s : State) (id : Nat) : State := (s.without id).grantTags

theorem State.lost_onlyTags (hs : s.NoPosts) (id : Nat) : (s.without id).OnlyTags (s.lost id) := State.grantTags_onlyTags (hs.without id)

theorem State.lost_rd (hs : s.NoPosts) (id : Nat) (q : Reg) : (s.lost id).rd q = s.rd q := (State.lost_onlyTags hs id).rd q

theorem State.lost_ids (hs : s.NoPosts) (id : Nat) : (s.lost id).reqIds = s.reqIds.filter fun k => k != id :=
  (State.lost_onlyTags hs id).ids.trans (s.without_ids id)

theorem State.busError_reqs (s : State) (t : TraderId) (detail taddr : Nat) : (s.busError t detail taddr).reqs = s.reqs := by
  obtain ⟨x, ⟨e, -⟩ | ⟨e, -⟩⟩ := s.busError_eq t detail taddr <;> rw [e]
  · exact (congrArg State.reqs (State.occur_onlyRaises _ t 9).noRegs :)
  · exact (congrArg State.reqs (State.occur_onlyRaises s t 9).noRegs :)

theorem State.NoPosts.append (hs : s.NoPosts) (hu : u.reqs = s.reqs ++ [r]) (hr : r.post = none) : u.NoPosts := by
  intro x hx hi
  rw [hu] at hx
  rcases List.mem_append.mp hx with hx | hx
  · exact hs x hx hi
  · rw [List.mem_singleton.mp hx, hr]

theorem State.busError_rd (s : State) (t : TraderId) (detail taddr : Nat) {q : Reg} (h1 : q.name ≠ .EV_PEND) (h2 : q.name ≠ .EV_OVR) :
    (s.busError t detail taddr).rd q = s.rd q := by
  obtain ⟨x, ⟨e, -⟩ | ⟨e, -⟩⟩ := s.busError_eq t detail taddr <;> rw [e, (State.occur_onlyRaises _ t 9).rd q h1 h2]
  rfl

/-- A new request without the element of a push changes no register. -/
theorem State.hostReq_rd (hs : s.NoPosts) (owner : HostOwner) (hall : Option Nat) (stream addr len : Nat) (q : Reg) :
    (s.hostReq owner hall stream addr len).1.rd q = s.rd q := by
  exact (State.grantTags_onlyTags (hs.append rfl rfl)).rd q

theorem State.serveOrders_rd (hs : s.NoPosts) (q : Reg) : s.serveOrders.rd q = s.rd q := by
  unfold State.serveOrders
  split
  case isTrue => rfl
  case isFalse =>
    split
    case h_1 => rfl
    case h_2 n _ =>
      have turned : State.NoPosts { s with orderTurn := n } := hs
      exact State.hostReq_rd turned _ _ _ _ _ q

theorem State.raiseOn_reqs (s : State) (ring : Nat) (id : ChitId) (data till : Nat) (ends : Bool) : (s.raiseOn ring id data till ends).reqs = s.reqs :=
  (congrArg State.reqs (State.raiseOn_onlyChits (s := s) ring id data till ends).rest :)

theorem State.raiseOn_jobs (s : State) (ring : Nat) (id : ChitId) (data till : Nat) (ends : Bool) : (s.raiseOn ring id data till ends).jobs = s.jobs :=
  (congrArg State.jobs (State.raiseOn_onlyChits (s := s) ring id data till ends).rest :)

theorem State.raiseOn_get {f : Field} (h : f.reg ≠ .CR_LOST) (ring : Nat) (id : ChitId) (data till : Nat) (ends : Bool) (i : Ix) :
    (s.raiseOn ring id data till ends).get f i = s.get f i :=
  State.get_of_rd ((State.raiseOn_onlyChits (s := s) ring id data till ends).rd _ h)

/-! ## What an error response does for each requester -/

theorem State.hostError_read {t : TraderId} (k : HostErrKind) (ho : r.owner = .trader t) (hw : r.write = false) :
    s.hostError r k = (s.errorNoted r).respond r (.error k) := by
  simp only [State.hostError, ho, hw, Bool.false_eq_true, if_false]
  rfl

theorem State.hostError_write {t : TraderId} (k : HostErrKind) (ho : r.owner = .trader t) (hw : r.write = true) :
    s.hostError r k = ((s.errorNoted r).lost r.id).busError t (hostDetail true k) r.taddr := by
  simp only [State.hostError, ho, hw, if_true]
  rfl

/-- A store of a trader that fails: BUS_ERR with the trader's address, and the rest is as before. -/
theorem State.hostError_write_spec (hs : s.NoPosts) {t : TraderId} (k : HostErrKind) (ho : r.owner = .trader t) (hw : r.write = true)
    (quiet : bit (s.get EV_PEND.PEND t.ix) 9 = false) : let u := s.hostError r k
    (∀ q : Reg, q.name ∈ errorNames → u.rd q = (s.errorNoted r).rd q) ∧ bit (u.get EV_PEND.PEND t.ix) 9 = true ∧
      (u.trader t).busErr = (hostDetail true k, r.taddr) ∧ u.reqIds = s.reqIds.filter fun x => x != r.id := by
  have posts := State.errorNoted_noPosts hs r
  have pend : bit (((s.errorNoted r).lost r.id).get EV_PEND.PEND t.ix) 9 = false := by
    rw [State.get_of_rd (State.lost_rd posts r.id _), State.errorNoted_get (by decide), quiet]
  rw [State.hostError_write k ho hw]
  refine ⟨fun q hq => ?_, State.busError_pends _ _ _ _, ?_, ?_⟩
  · rw [State.busError_rd _ _ _ _ (errorNames_ne hq (by decide)) (errorNames_ne hq (by decide)), State.lost_rd posts]
  · obtain ⟨x, e, hx⟩ := ((s.errorNoted r).lost r.id).busError_trader_self t (hostDetail true k) r.taddr
    rw [e, hx pend]
  · rw [State.reqIds, State.busError_reqs]
    exact State.lost_ids posts r.id

theorem State.hostError_order {n : Nat} (k : HostErrKind) (ho : r.owner = .order n) :
    s.hostError r k = ((s.errorNoted r).lost r.id).fetchFails n r.addr := by
  simp only [State.hostError, ho]
  rfl

/-- An order ring whose fetch fails stops with its HEAD as it is. -/
theorem State.fetchFails_spec (hs : s.NoPosts) (n addr : Nat) : let u := s.fetchFails n addr
    (∀ q : Reg, q.name ∈ errorNames → u.rd q = s.rd q) ∧ u.is OR_STATUS.FETCH_ERR (ix n) = true ∧ u.is OR_STATUS.STOPPED (ix n) = true ∧
      u.get OR_HEAD.HEAD (ix n) = s.get OR_HEAD.HEAD (ix n) := by
  intro u
  let v := (s.set OR_STATUS.FETCH_ERR (ix n) true).set OR_STATUS.STOPPED (ix n) true
  have posts : (v.chit 0x04 n (addr % 2 ^ 52) v.tick).NoPosts := by
    rw [State.NoPosts, State.chit, State.raiseOn_reqs]
    exact hs
  have rd (q : Reg) (hq : q.name ≠ .CR_LOST) : u.rd q = v.rd q :=
    (State.serveOrders_rd posts q).trans ((State.raiseOn_onlyChits (s := v) _ _ _ _ _).rd q hq)
  have get {f : Field} (hf : f.reg ≠ .CR_LOST) : u.get f (ix n) = v.get f (ix n) := State.get_of_rd (rd _ hf)
  have is {f : Field} (hf : f.reg ≠ .CR_LOST) : u.is f (ix n) = v.is f (ix n) := State.is_of_rd (rd _ hf)
  refine ⟨fun q hq => ?_, ?_, ?_, ?_⟩
  · have other (f : Field) (hf : f.reg ∉ errorNames) : q ≠ (ix n).reg f.reg := fun e => errorNames_ne hq hf (congrArg Reg.name e)
    rw [rd q (errorNames_ne hq (by decide)), State.rd_set_ne (other _ (by decide)), State.rd_set_ne (other _ (by decide))]
  · rw [is (by decide), State.is_set_beside (by decide), State.is_set_self _ _ _ _ rfl (by decide)]
  · rw [is (by decide), State.is_set_self _ _ _ _ rfl (by decide)]
  · rw [get (by decide), State.get_set_beside (by decide), State.get_set_beside (by decide)]

/-- A chit ring stops after a failed write, and the chit written waits again. -/
def State.chitStops (s : State) (n id : Nat) : State :=
  let s := (s.set CR_STATUS.WRITE_ERR (ix n) true).set CR_STATUS.STOPPED (ix n) true
  { s with chits := s.chits.map fun c => if c.stage = .inFlight id then { c with stage := .waiting } else c }

theorem State.chitStops_reqs (s : State) (n id : Nat) : (s.chitStops n id).reqs = s.reqs := by
  unfold State.chitStops
  simp only [State.set, State.put, State.wr, State.noteHw]

theorem State.hostError_chit {n : Nat} (k : HostErrKind) (ho : r.owner = .chit n) :
    s.hostError r k = (((s.errorNoted r).chitStops n r.id).lost r.id).hostErr r k (some n) := by
  unfold State.hostError
  rw [ho]
  rfl

/-- A chit ring whose write fails stops with its WRITE as it is. -/
theorem State.hostError_chit_spec (hs : s.NoPosts) {n : Nat} (k : HostErrKind) (ho : r.owner = .chit n) : let u := s.hostError r k
    (∀ q : Reg, q.name ∈ errorNames → u.rd q = (s.errorNoted r).rd q) ∧ u.is CR_STATUS.WRITE_ERR (ix n) = true ∧
      u.is CR_STATUS.STOPPED (ix n) = true ∧ u.get CR_WRITE.WRITE (ix n) = s.get CR_WRITE.WRITE (ix n) := by
  rw [State.hostError_chit k ho]
  intro u
  let v := ((s.errorNoted r).set CR_STATUS.WRITE_ERR (ix n) true).set CR_STATUS.STOPPED (ix n) true
  have posts : ((s.errorNoted r).chitStops n r.id).NoPosts := (State.errorNoted_noPosts hs r).of_reqs (State.chitStops_reqs _ n r.id)
  have rd (q : Reg) (hq : q.name ≠ .CR_LOST) : u.rd q = v.rd q :=
    ((State.raiseOn_onlyChits (s := ((s.errorNoted r).chitStops n r.id).lost r.id) _ _ _ _ _).rd q hq).trans (State.lost_rd posts r.id q)
  have get {f : Field} (hf : f.reg ≠ .CR_LOST) : u.get f (ix n) = v.get f (ix n) := State.get_of_rd (rd _ hf)
  have is {f : Field} (hf : f.reg ≠ .CR_LOST) : u.is f (ix n) = v.is f (ix n) := State.is_of_rd (rd _ hf)
  refine ⟨fun q hq => ?_, ?_, ?_, ?_⟩
  · have other (f : Field) (hf : f.reg ∉ errorNames) : q ≠ (ix n).reg f.reg := fun e => errorNames_ne hq hf (congrArg Reg.name e)
    rw [rd q (errorNames_ne hq (by decide)), State.rd_set_ne (other _ (by decide)), State.rd_set_ne (other _ (by decide))]
  · rw [is (by decide), State.is_set_beside (by decide), State.is_set_self _ _ _ _ rfl (by decide)]
  · rw [is (by decide), State.is_set_self _ _ _ _ rfl (by decide)]
  · rw [get (by decide), State.get_set_beside (by decide), State.get_set_beside (by decide), State.errorNoted_get (by decide)]

/-- The images in the barrows, changed. -/
def State.withImages (s : State) (images : List Image) : State := { s with images := images }

theorem State.hostError_job {n : Nat} (k : HostErrKind) (ho : r.owner = .job n) : s.hostError r k =
    ((((s.errorNoted r).lost r.id).withImages (s.images.filter fun i => i.job != n || i.committed)).jobTo n .failed 0xF0).retire := by
  unfold State.hostError
  rw [ho]
  rfl

/-- What becomes of the records of a job `j` that fails. -/
def Job.failed (j : Job) (reason : Nat) (k : Job) : Job :=
  { k with state := .failed, reason := reason, suspPend := j.suspPend && false, cancelPend := j.cancelPend && false, began := j.began }

/-- A job that has not ended fails with a JOB chit. -/
theorem State.jobTo_failed {n : Nat} {j : Job} (hj : s.job n = some j) (on : j.state.ended = false) (reason : Nat) :
    ∃ ring data, s.jobTo n .failed reason = (s.updJob n (j.failed reason)).raiseOn ring ⟨0x03, 0, n, 0⟩ data s.tick true := by
  unfold State.jobTo
  rw [hj]
  dsimp only
  rw [if_neg (Bool.eq_false_iff.mp on)]
  exact ⟨_, _, rfl⟩

/-- A job that fails before its end stays in the job table until its chit is acknowledged. -/
theorem State.jobFails_spec {n : Nat} {j : Job} (hj : s.job n = some j) (on : j.state.ended = false) (open_ : j.acked = false) (reason : Nat) :
    let u := (s.jobTo n .failed reason).retire
    u.jobIs n .failed reason ∧ u.reqs = s.reqs ∧ ∀ q : Reg, q.name ≠ .CR_LOST → u.rd q = s.rd q := by
  obtain ⟨ring, data, e⟩ := State.jobTo_failed hj on reason
  have job : (s.updJob n (j.failed reason)).job n = some (j.failed reason j) := State.job_updJob (f := j.failed reason) (fun _ => rfl) hj
  rw [e]
  refine ⟨⟨j.failed reason j, find?_filter_of_find? ?_ (by simp [Job.failed, open_]), rfl, rfl⟩, State.raiseOn_reqs _ _ _ _ _ _,
    fun q hq => (State.raiseOn_onlyChits (s := s.updJob n (j.failed reason)) _ _ _ _ _).rd q hq⟩
  rw [State.raiseOn_jobs]
  exact job

end Sys2Proof.Machine

namespace Sys2Proof.Proofs

open Sys2Proof.Machine

/-- O49, responses: what each answer of the host ports leaves, by what it is and who waits for it. -/
theorem bellsAndHostResponses_hostResponses : Claims.HostResponses := by
  intro s id r hr posts ids left rest idle
  obtain rfl := State.issued_id hr
  have data_ {data : List Byte} (hw : r.write = false) (hl : data.length = r.len) :
      exec (.hostReadData r.id data) s = .next (s.respond r (.data data)) := by
    change execHostReadData r.id data s = _
    simp only [execHostReadData, hr, hw, hl, Bool.not_false, BEq.rfl, Bool.and_self, if_true]
  have error_ (k : HostErrKind) : exec (.hostErrorResponse r.id k) s = .next (s.hostError r k) := by
    change execHostErrorResponse r.id k s = _
    simp only [execHostErrorResponse, hr]
  refine ⟨fun data hw hl aw ho => ?_, fun data n j hw hl ho hj all code image issued => ?_, fun hw => ?_, fun kind => ?_⟩
  · obtain ⟨arrived, number, -, same⟩ := State.respond_spec (r := r) (x := .data data) (fun _ n _ => ho n) posts
    rw [if_pos aw] at arrived
    refine ⟨_, data_ hw hl, arrived, number, fun issued => ?_⟩
    rw [same issued, if_pos aw]
    rfl
  · have e : s.respond r (.data data) = ((s.without r.id).jobFetched n data).grantTags := by
      simp only [State.respond, ho]
      rfl
    have fetched := State.jobFetched_last (s := s.without r.id) hj all code image
    have tags : s.respond r (.data data) = (s.without r.id).updJob n (Job.fed (j.got ++ data) data.length) := by
      rw [e, fetched, State.grantTags_of_issued]
      exact State.issued_without issued r.id
    refine ⟨_, data_ hw hl, ?_, ?_, ?_⟩
    · rw [tags, State.job_updJob (f := Job.fed (j.got ++ data) data.length) (fun _ => rfl) (show (s.without r.id).job n = some j from hj)]
      simp [Job.fed, all]
    · rw [tags]
      rfl
    · rw [tags]
      rfl
  · obtain ⟨arrived, number, -, same⟩ := State.respond_spec (r := r) (x := .ack) (fun _ _ e => nomatch e) posts
    refine ⟨_, ?_, number, arrived, fun issued => ?_⟩
    · change execHostWriteResponse r.id s = _
      simp only [execHostWriteResponse, hr, hw, if_true]
    · rw [same issued]
      rfl
  · intro recorded
    have noted : State.NoPosts (s.errorNoted r) := posts
    have record {u : State} (h : ∀ q : Reg, q.name ∈ errorNames → u.rd q = (s.errorNoted r).rd q) : recorded u := State.recorded_of_noted h
    refine ⟨fun t ho hw aw => ?_, fun t ho hw quiet => ?_, fun n j ho hj on open_ => ?_, fun n ho => ?_, fun n ho => ?_⟩
    · obtain ⟨arrived, number, rd, -⟩ := State.respond_spec (r := r) (x := .error kind) (fun _ _ e => nomatch e) noted
      exact ⟨_, (error_ kind).trans (congrArg Host.Outcome.next (State.hostError_read kind ho hw)), record fun q _ => rd q,
        arrived.trans (if_pos aw), number⟩
    · obtain ⟨rd, pend, err, number⟩ := State.hostError_write_spec posts kind ho hw quiet
      refine ⟨_, error_ kind, record rd, pend, err.trans ?_, number⟩
      cases kind <;> rfl
    · have job : (((s.errorNoted r).lost r.id).withImages (s.images.filter fun i => i.job != n || i.committed)).job n = some j :=
        ((State.lost_onlyTags noted r.id).job n).trans hj
      obtain ⟨failed, reqs, rd⟩ := State.jobFails_spec job on open_ 0xF0
      refine ⟨_, (error_ kind).trans (congrArg Host.Outcome.next (State.hostError_job kind ho)), record fun q hq => ?_, failed, ?_⟩
      · exact (rd q (errorNames_ne hq (by decide))).trans (State.lost_rd noted r.id q)
      · have number := congrArg (List.map fun q : HostReq => q.id) reqs
        exact number.trans (State.lost_ids noted r.id)
    · have waiting : ((s.errorNoted r).lost r.id).NoPosts := (State.lost_onlyTags noted r.id).posts (noted.without r.id)
      obtain ⟨rd, err, stopped, head⟩ := State.fetchFails_spec waiting n r.addr
      refine ⟨_, (error_ kind).trans (congrArg Host.Outcome.next (State.hostError_order kind ho)), record fun q hq => ?_, err, stopped, head.trans ?_⟩
      · exact (rd q hq).trans (State.lost_rd noted r.id q)
      · exact (State.get_of_rd (State.lost_rd noted r.id _)).trans (State.errorNoted_get (by decide) _)
    · obtain ⟨rd, err, stopped, write⟩ := State.hostError_chit_spec posts kind ho
      exact ⟨_, error_ kind, record rd, err, stopped, write⟩

/-- Settles O49: the rings of bells, and the responses on the host ports. -/
theorem bellsAndHostResponses : Obligations.BellsAndHostResponses := ⟨bellsAndHostResponses_bellRings, bellsAndHostResponses_hostResponses⟩

end Sys2Proof.Proofs
end

section
/-! SUPPORT. An owned slot as one change of its trader (R62, R91, R146, R358), and what nothing that lands in it touches. -/

namespace Sys2Proof.Machine

variable {s : State} {t : TraderId}

/-! ## The trader in its owned slot -/

/-- The trader that has from `tr` what an owned slot may change, and everything else from `k`. -/
def Trader.withRest (tr k : Trader) : Trader :=
  { k with pc := tr.pc, d := tr.d, a := tr.a, ac := tr.ac, p := tr.p, mrh := tr.mrh, mrl := tr.mrl, sc := tr.sc, slot := tr.slot,
           mul := tr.mul, scq := tr.scq, scSet := tr.scSet, loads := tr.loads, budget := tr.budget }

/-- The Scale results that land in the slot at hand (R146). -/
def Trader.scDue (tr : Trader) : List ScPend := tr.scq.filter fun e => decide (e.due ≤ tr.slot)

/-- The products and the Scale results that are due have landed (R91, R146). -/
def Trader.landPipes (tr : Trader) : Trader :=
  let x := (tr.mul.filter fun e => decide (e.1 ≤ tr.slot)).foldl (fun (x : Trader) e => { x with mrh := e.2.1, mrl := e.2.2 }) tr
  { tr.scDue.foldl (fun (x : Trader) e => x.setSc e.dst e.value) x with
    mul := tr.mul.filter fun e => decide (tr.slot < e.1), scq := tr.scq.filter fun e => decide (tr.slot < e.due) }

/-- The flags of the Scale results that land in the slot at hand. -/
def Trader.scDueFlags (tr : Trader) : Nat := tr.scDue.foldl (fun a e => a ||| e.flags) 0

/-- The products, the Scale results and the loads that are due have landed. -/
def Trader.landValues (tr : Trader) : Trader := tr.landPipes.landLoads tr.slot

/-- Everything that is due has landed: the trader's part of `State.land`. -/
def Trader.landAll (tr : Trader) : Trader :=
  if tr.scDue.isEmpty then tr.landValues else tr.landValues.scFlag tr.landValues.slot tr.scDueFlags

/-- The trader in its owned slot of rotation `slot`, which the budget watch counts where it is on: the trader's part of
`State.ownSlot`. -/
def Trader.owned (tr : Trader) (slot : Nat) (on : Bool) (lvl : Nat) : Trader :=
  let x := { tr with slot := slot }.landAll
  if on then x.setBud lvl { x.bud lvl with count := (x.bud lvl).count + 1 } else x

/-- The error marks after the Scale results of a list have landed. -/
def scCleaned (t : TraderId) (ecc : Tab (Nat × Nat) Bool) (es : List ScPend) : Tab (Nat × Nat) Bool :=
  es.foldl (fun ecc e => if e.dst < 16 then Tab.del ecc (scWord t e.dst) else ecc) ecc

theorem Trader.withRest_landIn (tr k : Trader) (dst : GReg) (v : Nat) : (tr.withRest k).landIn dst v = (tr.landIn dst v).withRest k := by
  cases dst with
  | p i =>
    show (tr.withRest k).setP i (bit v 0) = (tr.setP i (bit v 0)).withRest k
    unfold Trader.setP
    split <;> rfl
  | _ => rfl

theorem Trader.withRest_landLoads (tr k : Trader) (slot : Nat) : (tr.withRest k).landLoads slot = (tr.landLoads slot).withRest k := by
  have lands := List.foldl_hom (fun x : Trader => x.withRest k) (g₁ := fun (x : Trader) (l : Load) => x.landIn l.dst l.value)
    (g₂ := fun (x : Trader) (l : Load) => x.landIn l.dst l.value) (l := tr.loads.filter fun l => l.ready slot) (init := tr)
    (fun x l => x.withRest_landIn k l.dst l.value)
  exact congrArg (fun x : Trader => { x with loads := tr.loads.filter fun l => !l.ready slot }) lands

theorem Trader.withRest_landPipes (tr k : Trader) : (tr.withRest k).landPipes = tr.landPipes.withRest k := by
  have products := List.foldl_hom (fun x : Trader => x.withRest k)
    (g₁ := fun (x : Trader) (e : Nat × Half × Half) => { x with mrh := e.2.1, mrl := e.2.2 })
    (g₂ := fun (x : Trader) (e : Nat × Half × Half) => { x with mrh := e.2.1, mrl := e.2.2 })
    (l := tr.mul.filter fun e => decide (e.1 ≤ tr.slot)) (init := tr) (fun _ _ => rfl)
  have results (x : Trader) := List.foldl_hom (fun x : Trader => x.withRest k)
    (g₁ := fun (x : Trader) (e : ScPend) => x.setSc e.dst e.value) (g₂ := fun (x : Trader) (e : ScPend) => x.setSc e.dst e.value)
    (l := tr.scDue) (init := x) (fun _ _ => rfl)
  have both := (congrArg (tr.scDue.foldl fun (x : Trader) (e : ScPend) => x.setSc e.dst e.value) products).trans (results _)
  exact congrArg (fun x : Trader => { x with mul := tr.mul.filter fun e => decide (tr.slot < e.1),
                                             scq := tr.scq.filter fun e => decide (tr.slot < e.due) }) both

theorem Trader.withRest_landValues (tr k : Trader) : (tr.withRest k).landValues = tr.landValues.withRest k := by
  rw [Trader.landValues, Trader.withRest_landPipes, Trader.withRest_landLoads]
  rfl

theorem Trader.withRest_landAll (tr k : Trader) : (tr.withRest k).landAll = tr.landAll.withRest k := by
  have due : (tr.withRest k).scDue = tr.scDue := rfl
  unfold Trader.landAll
  rw [due, Trader.withRest_landValues]
  split
  · rfl
  · rfl

/-- What an owned slot does to its trader neither looks at the rest nor changes it. -/
theorem Trader.withRest_owned (tr k : Trader) (slot : Nat) (on : Bool) (lvl : Nat) :
    (tr.withRest k).owned slot on lvl = (tr.owned slot on lvl).withRest k := by
  have landed : ({ tr.withRest k with slot := slot } : Trader).landAll = ({ tr with slot := slot } : Trader).landAll.withRest k :=
    Trader.withRest_landAll { tr with slot := slot } k
  unfold Trader.owned
  rw [landed]
  cases on <;> rfl

theorem Trader.owned_rest (tr : Trader) (slot : Nat) (on : Bool) (lvl : Nat) : tr.owned slot on lvl = (tr.owned slot on lvl).withRest tr :=
  tr.withRest_owned tr slot on lvl

/-- The level that the slot counts to matters to the budgets alone. -/
theorem Trader.owned_level (tr : Trader) (slot : Nat) (on : Bool) (lvl lvl' : Nat) :
    ∃ b, tr.owned slot on lvl = { tr.owned slot on lvl' with budget := b } := by
  cases on
  · exact ⟨_, rfl⟩
  · exact ⟨_, rfl⟩

/-- Only the load of an address that RET pops lands in PC (R136). -/
theorem Trader.landIn_pc (tr : Trader) {dst : GReg} (h : dst ≠ .pc) (v : Nat) : (tr.landIn dst v).pc = tr.pc := by
  cases dst with
  | pc => exact absurd rfl h
  | p i =>
    show (tr.setP i (bit v 0)).pc = tr.pc
    unfold Trader.setP
    split <;> rfl
  | _ => rfl

theorem Trader.landPipes_same (tr : Trader) : tr.landPipes.pc = tr.pc ∧ tr.landPipes.loads = tr.loads := by
  have products := List.foldlRecOn (motive := fun x : Trader => x.pc = tr.pc ∧ x.loads = tr.loads)
    (tr.mul.filter fun e => decide (e.1 ≤ tr.slot)) (fun (x : Trader) e => { x with mrh := e.2.1, mrl := e.2.2 }) ⟨rfl, rfl⟩ fun _ h _ _ => h
  exact List.foldlRecOn (motive := fun x : Trader => x.pc = tr.pc ∧ x.loads = tr.loads) tr.scDue
    (fun (x : Trader) e => x.setSc e.dst e.value) products fun _ h _ _ => h

/-- An owned slot leaves PC, where no popped address is on its way. -/
theorem Trader.owned_pc {tr : Trader} (h : ∀ l ∈ tr.loads, l.dst ≠ .pc) (slot : Nat) (on : Bool) (lvl : Nat) :
    (tr.owned slot on lvl).pc = tr.pc := by
  have loads {x : Trader} (hx : ∀ l ∈ x.loads, l.dst ≠ .pc) : (x.landLoads slot).pc = x.pc :=
    List.foldlRecOn (motive := fun y : Trader => y.pc = x.pc) _ _ rfl fun y hy l hl =>
      (y.landIn_pc (hx l (List.mem_of_mem_filter hl)) l.value).trans hy
  obtain ⟨pc, same⟩ := Trader.landPipes_same { tr with slot := slot }
  have landed : ({ tr with slot := slot } : Trader).landValues.pc = tr.pc := (loads (by rwa [same])).trans pc
  have all : ({ tr with slot := slot } : Trader).landAll.pc = tr.pc := by
    unfold Trader.landAll
    split
    · exact landed
    · exact landed
  cases on
  · exact all
  · exact all

/-! ## The state in an owned slot -/

/-- The state with the trader, the registers, the slots of the stalls and the error marks as given. -/
def State.slotted (s : State) (t : TraderId) (tr : Trader) (regs : Tab Reg Dword) (slots : Tab (Nat × Nat) Nat)
    (ecc : Tab (Nat × Nat) Bool) : State :=
  { s.setTrader t tr with regs := regs, stallSlot := slots, ecc := ecc }

section

variable (s : State) (t : TraderId) (a b : Trader) (r r' : Tab Reg Dword) (n n' : Tab (Nat × Nat) Nat) (c c' : Tab (Nat × Nat) Bool)

@[simp] theorem State.slotted_trader_self : (s.slotted t a r n c).trader t = a := State.trader_self s t a

@[simp] theorem State.slotted_slotted : (s.slotted t a r n c).slotted t b r' n' c' = s.slotted t b r' n' c' := by
  simp [State.slotted, State.setTrader, Tab.set_set]

theorem State.slotted_upd (f : Trader → Trader) : (s.slotted t a r n c).upd t f = s.slotted t (f a) r n c := by
  simp [State.upd, State.slotted, State.setTrader, State.trader, Tab.set_set]

theorem State.slotted_put (f : Field) (i : Ix) (v : Nat) :
    (s.slotted t a r n c).put f i v = s.slotted t a ((s.slotted t a r n c).put f i v).regs n c := rfl

end

/-- The state after the Scale results of a list have landed in registers written whole. -/
def State.scCleanAll (s : State) (t : TraderId) (es : List ScPend) : State := es.foldl (fun (s : State) e => s.scClean t e.dst) s

theorem State.scCleanAll_eq (es : List ScPend) (s : State) : s.scCleanAll t es = { s with ecc := scCleaned t s.ecc es } := by
  induction es generalizing s with
  | nil => rfl
  | cons e es ih =>
    rw [State.scCleanAll, List.foldl_cons, ← State.scCleanAll, ih, State.scClean_eq]
    rfl

theorem State.land_eq (s : State) (t : TraderId) :
    ∃ r, s.land t = s.slotted t (s.trader t).landAll r s.stallSlot (scCleaned t s.ecc (s.trader t).scDue) := by
  have land : s.land t = if (s.trader t).scDue.isEmpty then s.setTrader t (s.trader t).landValues
    else (((s.setTrader t (s.trader t).landValues).scCleanAll t (s.trader t).scDue).upd t fun tr => tr.scFlag tr.slot (s.trader t).scDueFlags).wr
      (t.ix.reg .SC_STATUS)
      (((s.setTrader t (s.trader t).landValues).scCleanAll t (s.trader t).scDue).rd (t.ix.reg .SC_STATUS) ||| (s.trader t).scDueFlags) := rfl
  rw [land, Trader.landAll]
  split
  case isTrue h =>
    rw [List.isEmpty_iff.mp h]
    exact ⟨s.regs, rfl⟩
  case isFalse h =>
    have cleaned : (s.setTrader t (s.trader t).landValues).scCleanAll t (s.trader t).scDue =
      s.slotted t (s.trader t).landValues s.regs s.stallSlot (scCleaned t s.ecc (s.trader t).scDue) := State.scCleanAll_eq _ _
    rw [cleaned, State.slotted_upd]
    exact ⟨_, rfl⟩

/-- The slots of the stall after the trader's next one. -/
def State.slotsAfter (s : State) (t : TraderId) : Tab (Nat × Nat) Nat := Tab.set s.stallSlot (t.h, t.s) (s.nextSlot t + 1)

/-- The error marks after the trader's next slot. -/
def State.marksAfter (s : State) (t : TraderId) : Tab (Nat × Nat) Bool :=
  scCleaned t s.ecc ({ s.trader t with slot := s.nextSlot t / 16 } : Trader).scDue

/-- An owned slot changes its trader, the slots of its stall, error marks, and one register. -/
theorem State.ownSlot_eq (s : State) (t : TraderId) (lvl : Nat) : ∃ r, s.ownSlot t lvl =
    s.slotted t ((s.trader t).owned (s.nextSlot t / 16) (s.is BW_CTRL.EN t.st) lvl) r (s.slotsAfter t) (s.marksAfter t) := by
  have on : ((s.takeSlot t).land t).is BW_CTRL.EN t.st = s.is BW_CTRL.EN t.st := State.is_of_rd (State.land_rd (Ix.reg_ne (by decide) _ _))
  have taken : s.takeSlot t = s.slotted t { s.trader t with slot := s.nextSlot t / 16 } s.regs (s.slotsAfter t) s.ecc := rfl
  obtain ⟨r, e⟩ := (s.takeSlot t).land_eq t
  rw [taken, State.slotted_trader_self, State.slotted_slotted, ← taken] at e
  refine ⟨r, ?_⟩
  rw [State.ownSlot, State.countSlot, on, e, State.slotted_upd]
  cases s.is BW_CTRL.EN t.st
  · rfl
  · rfl

theorem State.ownSlot_trader (s : State) (t : TraderId) (lvl : Nat) :
    (s.ownSlot t lvl).trader t = (s.trader t).owned (s.nextSlot t / 16) (s.is BW_CTRL.EN t.st) lvl := by
  obtain ⟨r, e⟩ := s.ownSlot_eq t lvl
  rw [e, State.slotted_trader_self]

/-- The trader with the level entered or exited last, and its tick, and with other budgets. -/
def Trader.stamped (tr : Trader) (x : Nat × Nat) (b : Vector Budget 5) : Trader := { tr with moved := x, budget := b }

/-- An owned slot of a trader that has just entered or exited a level: the same slot, but for the note of that and for the level it counts to. -/
theorem State.ownSlot_moved (s : State) (t : TraderId) (x : Nat × Nat) (lvl lvl' : Nat) : ∃ r b,
    let f := s.ownSlot t lvl'
    (s.setTrader t { s.trader t with moved := x }).ownSlot t lvl =
      f.slotted t ((f.trader t).stamped x b) r f.stallSlot f.ecc := by
  let m := s.setTrader t { s.trader t with moved := x }
  obtain ⟨r, em⟩ := m.ownSlot_eq t lvl
  obtain ⟨r', ef⟩ := s.ownSlot_eq t lvl'
  have mt : m.trader t = (s.trader t).withRest { s.trader t with moved := x } := State.trader_self _ _ _
  have slot : m.nextSlot t = s.nextSlot t := by rw [State.nextSlot, mt]; rfl
  have slots : m.slotsAfter t = s.slotsAfter t := by rw [State.slotsAfter, slot]; rfl
  have marks : m.marksAfter t = s.marksAfter t := by rw [State.marksAfter, slot, mt]; rfl
  obtain ⟨b, level⟩ := (s.trader t).owned_level (s.nextSlot t / 16) (s.is BW_CTRL.EN t.st) lvl lvl'
  have landed : ((s.trader t).owned (s.nextSlot t / 16) (s.is BW_CTRL.EN t.st) lvl).withRest { s.trader t with moved := x } =
      ((s.trader t).owned (s.nextSlot t / 16) (s.is BW_CTRL.EN t.st) lvl').stamped x b := by
    rw [level, Trader.owned_rest _ _ _ lvl']
    rfl
  refine ⟨r, b, em.trans ?_⟩
  rw [slot, slots, marks, mt, Trader.withRest_owned, ef, State.slotted_trader_self, State.slotted_slotted]
  exact (State.slotted_slotted s t _ _ s.regs r s.stallSlot _ s.ecc _).trans (congrArg (fun y => s.slotted t y r _ _) landed)

theorem State.ownSlot_others (s : State) (t : TraderId) (lvl : Nat) {u : TraderId} (hu : u ≠ t) : (s.ownSlot t lvl).trader u = s.trader u :=
  (s.ownSlot_calm t lvl).others u hu

theorem State.ownSlot_cur (s : State) (t : TraderId) (lvl : Nat) : (s.ownSlot t lvl).cur t = s.cur t :=
  State.get_of_rd (State.ownSlot_rd (Ix.reg_ne (by decide) _ _) lvl)

end Sys2Proof.Machine
end

section
/-! SUPPORT. The exit from a handler (R164 to R166): a stray RETE, and the slots X1 and X2. -/

namespace Sys2Proof.Machine

variable {s : State} {t : TraderId} {w lvl : Nat}

/-! ## The issue slot of RETE (R164, R166) -/

theorem State.Issues.exec_rete (h : s.Issues t w) (hk : keyOf w = key 0x2D 1) (none : (s.trader t).exiting = none) :
    exec (.rete t) s = .next (State.reteBody t w (s.final t w)) := by
  change execRete t s = _
  rw [execRete, none]
  exact congrArg Host.Outcome.next (h.issue_eq hk _ _)

/-- A trader that issues passes through no exit slot. -/
theorem State.Issues.not_exiting (h : s.Issues t w) : (s.trader t).exiting = none := by
  have can := h.can
  cases ex : (s.trader t).exiting with
  | none => rfl
  | some x => simp [State.canIssue, State.ownsSlot, State.runsSlot, Trader.passing, ex] at can

/-! ## The exit slots (R164, R170) -/

/-- No write of the record of level `lvl` has been made in this tick (R170). -/
def State.recordQuiet (s : State) (t : TraderId) (lvl : Nat) : Prop := ∀ x, Tab.find (s.trader t).recWas (lvl - 1) = some x → x.1 ≠ s.tick

theorem State.moveLevel_of_quiet (quiet : s.recordQuiet t lvl) :
    s.moveLevel t lvl = s.setTrader t { s.trader t with moved := (lvl, s.tick) } := by
  unfold State.moveLevel
  dsimp only
  split
  case h_1 k c b e => rw [if_neg (quiet _ e)]; rfl
  case h_2 => rfl

/-- What slot X1 gives back to the trader. -/
def Trader.restored (tr : Trader) (c : EntryCtx) (lvl : Nat) : Trader :=
  { tr.setTsr c.tsr with bnk := bits c.bank 1 0, hbk := bits c.bank 9 2, host := bit c.bank 10, exiting := some (lvl, true) }

theorem State.exitX1_spec (quiet : s.recordQuiet t lvl) :
    let f := s.ownSlot t lvl
    (s.exitX1 t lvl).cur t = s.get ER_CTX.PLVL (t.lvl (lvl - 1)) ∧ ∃ r b,
      s.exitX1 t lvl = f.slotted t (((f.trader t).stamped (lvl, s.tick) b).restored (s.ctxOf t lvl) lvl) r f.stallSlot f.ecc := by
  let m := s.setTrader t { s.trader t with moved := (lvl, s.tick) }
  have x1 : s.exitX1 t lvl = ((m.ownSlot t lvl).put EV_CTRL.CUR t.ix (s.ctxOf t lvl).lvl).upd t fun tr => tr.restored (s.ctxOf t lvl) lvl := by
    rw [State.exitX1, State.moveLevel_of_quiet quiet]
    rfl
  obtain ⟨r, b, e⟩ := s.ownSlot_moved t (lvl, s.tick) lvl lvl
  refine ⟨?_, ?_⟩
  · have put := (m.ownSlot t lvl).get_put_self EV_CTRL.CUR t.ix (s.ctxOf t lvl).lvl (by decide) (by decide)
    rw [x1]
    exact put.trans (Nat.mod_eq_of_lt (bits_lt _ _ _))
  · rw [x1, show m.ownSlot t lvl = _ from e, State.slotted_put, State.slotted_upd]
    exact ⟨_, b, rfl⟩

theorem State.exitX2_spec (quiet : s.recordQuiet t lvl) (lvl' : Nat) :
    let f := s.ownSlot t lvl'
    (s.exitX2 t lvl).cur t = s.cur t ∧ ∃ r b,
      s.exitX2 t lvl = f.slotted t { (f.trader t).stamped (lvl, s.tick) b with pc := s.get ER_CTX.PC (t.lvl (lvl - 1)), exiting := none }
        r f.stallSlot f.ecc := by
  let m := s.setTrader t { s.trader t with moved := (lvl, s.tick) }
  have x2 : s.exitX2 t lvl = ((m.ownSlot t lvl).upd t fun tr => { tr with pc := (s.ctxOf t lvl).pc, exiting := none }).syncPoint t (s.cur t) := by
    rw [State.exitX2, State.moveLevel_of_quiet quiet]
    rfl
  obtain ⟨r, b, e⟩ := s.ownSlot_moved t (lvl, s.tick) lvl lvl'
  refine ⟨?_, r, ?_⟩
  · rw [x2]
    exact m.ownSlot_cur t lvl
  · rw [x2, show m.ownSlot t lvl = _ from e, State.slotted_upd, State.syncPoint, State.slotted_upd]
    exact ⟨_, rfl⟩

/-- RETE in an exit slot makes it, where no event is deliverable. -/
theorem exec_rete_exit {x1 : Bool} (ex : (s.trader t).exiting = some (lvl, x1)) (run : (s.trader t).running = true) (clk : s.clocked t = true)
    (calm : s.exitEvent t = none) : exec (.rete t) s = .next (if x1 then s.exitX2 t lvl else s.exitX1 t lvl) := by
  change execRete t s = _
  simp [execRete, ex, run, clk, calm]

/-- FL as the four bits that were written to it. -/
theorem Trader.setFl_fl (tr : Trader) (v : Nat) : (tr.setFl v).fl = v % 16 := by
  simp only [Trader.fl, Trader.setFl, b2n_bit]
  omega

/-- What slot X1 restores, and PC, which it leaves. -/
theorem Trader.restored_spec (tr : Trader) (c : EntryCtx) (lvl : Nat) :
    let x := tr.restored c lvl
    x.pc = tr.pc ∧ x.fl = c.tsr % 16 ∧ x.sup = bit c.tsr 7 ∧ x.bnk = bits c.bank 1 0 ∧ x.hbk = bits c.bank 9 2 ∧
      x.host = bit c.bank 10 ∧ x.exiting = some (lvl, true) :=
  ⟨rfl, tr.setFl_fl c.tsr, rfl, rfl, rfl, rfl, rfl⟩

end Sys2Proof.Machine

namespace Sys2Proof.Proofs

open Sys2Proof.Machine

/-- O16, the issue slot of RETE. -/
theorem returnFromEvent_issues (s : State) (t : TraderId) (w : Nat) (h : s.Issues t w) (hk : keyOf w = key 0x2D 1) :
    let f := s.final t w
    let tr := s.at_ t w
    (f.cur t = 0 → exec (.rete t) s =
      .next ((f.set EV_STATUS.STRAY_RETE t.ix true).setTrader t { tr with pc := (tr.pc + 1) % 65536 })) ∧
    (f.cur t ≠ 0 → exec (.rete t) s = .next (f.setTrader t { tr with exiting := some (f.cur t, false) })) := by
  intro f tr
  rw [h.exec_rete hk h.not_exiting]
  refine ⟨fun base => ?_, fun handler => ?_⟩
  · rw [State.reteBody, if_pos base]
    rfl
  · rw [State.reteBody, if_neg handler]
    rfl

/-- The registers of a trader that no exit slot restores. -/
def unrestored (tr : Trader) := (tr.d, tr.a, tr.ac, tr.p, tr.sc, tr.ls, tr.le, tr.lc)

theorem unrestored_restored (tr : Trader) (x : Nat × Nat) (b : Vector Budget 5) (c : EntryCtx) (lvl : Nat) :
    unrestored ((tr.stamped x b).restored c lvl) = unrestored tr := rfl

theorem unrestored_exit (tr : Trader) (x : Nat × Nat) (b : Vector Budget 5) (pc : Nat) (e : Option (Nat × Bool)) :
    unrestored { tr.stamped x b with pc := pc, exiting := e } = unrestored tr := rfl

/-- O16: a state that differs from that in the owned slot in its registers and in its trader, but not in those of the trader that no exit
slot restores. -/
theorem returnFromEvent_frame {s s' : State} {t : TraderId} {a : Trader} {r : Tab Reg Dword} {lvl : Nat} {f : State} (hf : f = s.ownSlot t lvl)
    (e : s' = f.slotted t a r f.stallSlot f.ecc) (same : unrestored a = unrestored (f.trader t)) :
    (s'.trader t).d = (f.trader t).d ∧ (s'.trader t).a = (f.trader t).a ∧ (s'.trader t).ac = (f.trader t).ac ∧
      (s'.trader t).p = (f.trader t).p ∧ (s'.trader t).sc = (f.trader t).sc ∧ (s'.trader t).ls = (f.trader t).ls ∧
      (s'.trader t).le = (f.trader t).le ∧ (s'.trader t).lc = (f.trader t).lc ∧
      (∀ u, u ≠ t → s'.trader u = s.trader u) ∧ { s'.noRegs with traders := f.traders } = f.noRegs := by
  simp only [unrestored, Prod.mk.injEq] at same
  obtain ⟨d, ar, ac, p, sc, ls, le, lc⟩ := same
  have others (u : TraderId) (hu : u ≠ t) : s'.trader u = s.trader u := by
    rw [e, hf]
    exact (State.trader_ne _ _ _ _ hu).trans (s.ownSlot_others t lvl hu)
  rw [e] at others ⊢
  rw [State.slotted_trader_self]
  exact ⟨d, ar, ac, p, sc, ls, le, lc, others, rfl⟩

/-- Settles O16: the exit slots are owned slots that restore what the record holds, and an owned slot does the same whether or not the
trader has just left a level. -/
theorem returnFromEvent : Obligations.ReturnFromEvent := by
  refine ⟨returnFromEvent_issues, fun s t lvl x1 ex run _ clk calm quiet => ?_⟩
  rw [exec_rete_exit ex run clk calm]
  cases x1 with
  | false =>
    obtain ⟨cur, r, b, e⟩ := State.exitX1_spec quiet
    have frame := returnFromEvent_frame rfl e (unrestored_restored ..)
    refine ⟨s.exitX1 t lvl, rfl, fun _ => ⟨cur, ?_⟩, nofun, frame⟩
    rw [e, State.slotted_trader_self]
    exact Trader.restored_spec _ _ _
  | true =>
    obtain ⟨cur, r, b, e⟩ := State.exitX2_spec quiet (s.cur t)
    have frame := returnFromEvent_frame rfl e (unrestored_exit ..)
    refine ⟨s.exitX2 t lvl, rfl, nofun, fun _ => ?_, frame⟩
    refine ⟨?_, ?_, cur⟩
    · rw [e, State.slotted_trader_self]
    · rw [e, State.slotted_trader_self]

end Sys2Proof.Proofs
end

section
/-! SUPPORT. The entry to a level (R158, R159, R167): the record that slot E1 writes, the source that pends no more, and the trader. -/

namespace Sys2Proof.Machine

variable {s u : State} {t : TraderId} {lvl src detail addr word : Nat} {c : EntryCtx}

/-! ## Changes of one trader, registers, slots and error marks -/

/-- From `s` to `u` nothing changes but the trader, registers, the slots of stalls and error marks. -/
def State.TraderOnly (s : State) (t : TraderId) (u : State) : Prop := ∃ a r n c, u = s.slotted t a r n c

namespace State.TraderOnly

theorem trans {v : State} (h : s.TraderOnly t u) (h' : u.TraderOnly t v) : s.TraderOnly t v := by
  obtain ⟨_, _, _, _, rfl⟩ := h
  obtain ⟨a, r, n, c, rfl⟩ := h'
  exact ⟨a, r, n, c, State.slotted_slotted ..⟩

theorem others (h : s.TraderOnly t u) {v : TraderId} (hv : v ≠ t) : u.trader v = s.trader v := by
  obtain ⟨_, _, _, _, rfl⟩ := h
  exact State.trader_ne _ _ _ _ hv

theorem frame (h : s.TraderOnly t u) : { u.noRegs with traders := s.traders, stallSlot := s.stallSlot, ecc := s.ecc } = s.noRegs := by
  obtain ⟨_, _, _, _, rfl⟩ := h
  rfl

theorem faults (h : s.TraderOnly t u) : u.faults = s.faults := by
  obtain ⟨_, _, _, _, rfl⟩ := h
  rfl

theorem wr (h : s.TraderOnly t u) (q : Reg) (v : Nat) : s.TraderOnly t (u.wr q v) := by
  obtain ⟨a, r, n, c, rfl⟩ := h
  exact ⟨a, _, n, c, rfl⟩

theorem upd (h : s.TraderOnly t u) (f : Trader → Trader) : s.TraderOnly t (u.upd t f) := h.trans ⟨_, u.regs, u.stallSlot, u.ecc, rfl⟩

theorem ownSlot (h : s.TraderOnly t u) (lvl : Nat) : s.TraderOnly t (u.ownSlot t lvl) := by
  obtain ⟨r, e⟩ := u.ownSlot_eq t lvl
  exact h.trans ⟨_, r, _, _, e⟩

end State.TraderOnly

/-! ## The record of a level -/

theorem State.moveLevel_eq (s : State) (t : TraderId) (lvl : Nat) :
    ∃ r, s.moveLevel t lvl = s.slotted t ((s.trader t).stamped (lvl, s.tick) (s.trader t).budget) r s.stallSlot s.ecc := by
  unfold State.moveLevel
  dsimp only
  split
  · split
    · exact ⟨_, rfl⟩
    · exact ⟨s.regs, rfl⟩
  · exact ⟨s.regs, rfl⟩

/-- The entry or exit of a level writes no register but the record's (R170). -/
theorem State.moveLevel_rd (i : Ix) {m : RegName} (h1 : m ≠ .ER_CTX) (h2 : m ≠ .ER_BANK) : (s.moveLevel t lvl).rd (i.reg m) = s.rd (i.reg m) := by
  unfold State.moveLevel
  dsimp only
  split
  · split
    · exact (State.rd_wr_ne _ _ (Ix.reg_ne h2 _ _)).trans (State.rd_wr_ne _ _ (Ix.reg_ne h1 _ _))
    · rfl
  · rfl

/-- The record `n` written by an entry. -/
def State.recorded (s : State) (n : Ix) (src detail addr word : Nat) (c : EntryCtx) : State :=
  (((s.wr (n.reg .ER_CTX) (c.lvl <<< 24 + c.tsr <<< 16 + c.pc)).wr (n.reg .ER_BANK) c.bank).wr (n.reg .ER_CAUSE)
    (addr <<< 16 + src <<< 8 + detail)).wr (n.reg .ER_WORD) word

/-- An event source that is taken pends no more (R159). -/
def State.unpend (s : State) (t : TraderId) (src : Nat) : State := if src < 11 then s.hwClr EV_PEND.PEND t.ix (2 ^ src) else s

/-- The registers that slot E1 writes. -/
def State.entryRegs (s : State) (t : TraderId) (lvl src detail addr word : Nat) (c : EntryCtx) : State :=
  (((s.moveLevel t lvl).recorded (t.lvl (lvl - 1)) src detail addr word c).unpend t src).put EV_CTRL.CUR t.ix lvl

/-- The trader as slot E1 leaves it, but for what lands. -/
def Trader.enters (tr : Trader) (old lvl : Nat) : Trader := { tr.abandon old with trap := none, entering := some lvl, exiting := none }

theorem State.enterE1_eq : s.enterE1 t lvl src detail addr word c =
    (((s.entryRegs t lvl src detail addr word c).upd t fun tr => tr.enters (s.cur t) lvl).entryBudget t lvl).ownSlot t lvl := rfl

theorem State.enterE1_rd {q : Reg} (hq : q ≠ t.ix.reg .SC_STATUS) :
    (s.enterE1 t lvl src detail addr word c).rd q = (s.entryRegs t lvl src detail addr word c).rd q := by
  rw [State.enterE1_eq, State.ownSlot_rd hq]
  rfl

theorem State.unpend_rd {q : Reg} (hq : q ≠ t.ix.reg .EV_PEND) : (s.unpend t src).rd q = s.rd q := by
  unfold State.unpend
  split
  · exact State.rd_put_ne hq _
  · rfl

theorem State.entryRegs_rd (i : Ix) {m : RegName} (h1 : m ≠ .EV_PEND) (h2 : m ≠ .EV_CTRL) :
    (s.entryRegs t lvl src detail addr word c).rd (i.reg m) = ((s.moveLevel t lvl).recorded (t.lvl (lvl - 1)) src detail addr word c).rd (i.reg m) :=
  (State.rd_put_ne (Ix.reg_ne h2 _ _) _).trans (State.unpend_rd (Ix.reg_ne h1 _ _))

theorem State.recorded_rd_ne {n : Ix} (i : Ix) {m : RegName} (h : m ∉ [RegName.ER_CTX, .ER_BANK, .ER_CAUSE, .ER_WORD]) :
    (s.recorded n src detail addr word c).rd (i.reg m) = s.rd (i.reg m) := by
  have ne {k : RegName} (hk : k ∈ [RegName.ER_CTX, .ER_BANK, .ER_CAUSE, .ER_WORD]) : i.reg m ≠ n.reg k :=
    Ix.reg_ne (fun e : m = k => h (e ▸ hk)) i n
  rw [State.recorded, State.rd_wr_ne _ _ (ne (by decide)), State.rd_wr_ne _ _ (ne (by decide)), State.rd_wr_ne _ _ (ne (by decide)),
    State.rd_wr_ne _ _ (ne (by decide))]

/-- The four words of the record, where each part fits its field. -/
theorem State.recorded_rd {n : Ix} (hs : src < 16) (hd : detail < 256) (ha : addr < 65536) (hw : word < 2 ^ 32) (hp : c.pc < 65536)
    (hl : c.lvl < 8) (ht : c.tsr < 256) (hb : c.bank < 2 ^ 32) :
    let r := s.recorded n src detail addr word c
    r.rd (n.reg .ER_CTX) = c.lvl * 2 ^ 24 + c.tsr * 2 ^ 16 + c.pc ∧ r.rd (n.reg .ER_BANK) = c.bank ∧
      r.rd (n.reg .ER_CAUSE) = addr * 2 ^ 16 + src * 2 ^ 8 + detail ∧ r.rd (n.reg .ER_WORD) = word := by
  have ne {a b : RegName} (h : a ≠ b) : n.reg a ≠ n.reg b := Ix.reg_ne h n n
  simp only [State.recorded, Nat.shiftLeft_eq]
  refine ⟨?_, ?_, ?_, ?_⟩
  · rw [State.rd_wr_ne _ _ (ne (by decide)), State.rd_wr_ne _ _ (ne (by decide)), State.rd_wr_ne _ _ (ne (by decide)), State.rd_wr_self]
    omega
  · rw [State.rd_wr_ne _ _ (ne (by decide)), State.rd_wr_ne _ _ (ne (by decide)), State.rd_wr_self]
    omega
  · rw [State.rd_wr_ne _ _ (ne (by decide)), State.rd_wr_self]
    omega
  · rw [State.rd_wr_self]
    omega

/-- The fields of the record after slot E1 (R158, R167). -/
theorem State.enterE1_record (hs : src < 16) (hd : detail < 256) (ha : addr < 65536) (hw : word < 2 ^ 32) (hp : c.pc < 65536)
    (hl : c.lvl < 8) (ht : c.tsr < 256) (hb : c.bank < 2 ^ 32) :
    let s' := s.enterE1 t lvl src detail addr word c
    let n := t.lvl (lvl - 1)
    s'.get ER_CTX.PC n = c.pc ∧ s'.get ER_CTX.TSR n = c.tsr ∧ s'.get ER_CTX.PLVL n = c.lvl ∧ s'.rd (n.reg .ER_BANK) = c.bank ∧
      s'.get ER_CAUSE.SRC n = src ∧ s'.get ER_CAUSE.DETAIL n = detail ∧ s'.get ER_CAUSE.ADDR n = addr ∧ s'.rd (n.reg .ER_WORD) = word := by
  intro s' n
  have rd {m : RegName} (h : m ∉ [RegName.SC_STATUS, .EV_PEND, .EV_CTRL]) :
      s'.rd (n.reg m) = ((s.moveLevel t lvl).recorded n src detail addr word c).rd (n.reg m) := by
    simp only [List.mem_cons, List.not_mem_nil, or_false, not_or] at h
    exact (State.enterE1_rd (Ix.reg_ne h.1 _ _)).trans (State.entryRegs_rd n h.2.1 h.2.2)
  obtain ⟨ctx, bank, cause, wd⟩ := (s.moveLevel t lvl).recorded_rd (n := n) hs hd ha hw hp hl ht hb
  have ctx' : s'.rd (n.reg .ER_CTX) = c.lvl * 2 ^ 24 + c.tsr * 2 ^ 16 + c.pc := (rd (by decide)).trans ctx
  have cause' : s'.rd (n.reg .ER_CAUSE) = addr * 2 ^ 16 + src * 2 ^ 8 + detail := (rd (by decide)).trans cause
  have get (f : Field) {v : Nat} (e : s'.rd (n.reg f.reg) = v) : s'.get f n = v / 2 ^ f.lo % 2 ^ (f.hi + 1 - f.lo) := by
    rw [State.get, e, bits_eq_div]
  refine ⟨(get ER_CTX.PC ctx').trans ?_, (get ER_CTX.TSR ctx').trans ?_, (get ER_CTX.PLVL ctx').trans ?_, (rd (by decide)).trans bank,
    (get ER_CAUSE.SRC cause').trans ?_, (get ER_CAUSE.DETAIL cause').trans ?_, (get ER_CAUSE.ADDR cause').trans ?_, (rd (by decide)).trans wd⟩
  all_goals dsimp only [ER_CTX.PC, ER_CTX.TSR, ER_CTX.PLVL, ER_CAUSE.SRC, ER_CAUSE.DETAIL, ER_CAUSE.ADDR]; omega

/-- CUR after slot E1. -/
theorem State.enterE1_cur (h : lvl < 8) : (s.enterE1 t lvl src detail addr word c).cur t = lvl := by
  have rd : (s.enterE1 t lvl src detail addr word c).rd (t.ix.reg .EV_CTRL) = _ := State.enterE1_rd (Ix.reg_ne (by decide) _ _)
  exact (State.get_of_rd rd).trans ((State.get_put_self _ _ _ _ (by decide) (by decide)).trans (Nat.mod_eq_of_lt h))

/-! ## What pends (R9, R159) -/

/-- A bit of a field that the hardware clears stays where a W1S write of this tick has set it (R9). -/
theorem State.bit_hwClr (f : Field) (i : Ix) (m : Nat) (h : f.lo ≤ f.hi) (hh : f.hi < 64) {k : Nat} (hk : k < f.hi + 1 - f.lo) :
    bit ((s.hwClr f i m).get f i) k = (bit (s.get f i) k && (!bit m k || bit (notedAt s.swSet (i.reg f.reg) s.tick) (f.lo + k))) := by
  rw [State.hwClr, State.clrIn, State.get_put_self _ _ _ _ h hh]
  simp only [bit_testBit, Nat.testBit_mod_two_pow, Nat.testBit_and, Nat.testBit_xor, Nat.testBit_two_pow_sub_one, hk, decide_true, Bool.true_and,
    testBit_bitsOff, Nat.testBit_shiftRight, Bool.true_xor, Bool.not_and, Bool.not_not]

theorem State.enterE1_pend {i : Nat} (hi : i < 11) : bit ((s.enterE1 t lvl src detail addr word c).get EV_PEND.PEND t.ix) i =
    (bit (s.get EV_PEND.PEND t.ix) i && (decide (i ≠ src) || bit (notedAt s.swSet (t.ix.reg .EV_PEND) s.tick) i)) := by
  let r := (s.moveLevel t lvl).recorded (t.lvl (lvl - 1)) src detail addr word c
  have rd : (s.enterE1 t lvl src detail addr word c).rd (t.ix.reg .EV_PEND) = (r.unpend t src).rd (t.ix.reg .EV_PEND) :=
    (State.enterE1_rd (Ix.reg_ne (by decide) _ _)).trans (State.rd_put_ne (Ix.reg_ne (by decide) _ _) _)
  have pend : r.get EV_PEND.PEND t.ix = s.get EV_PEND.PEND t.ix :=
    State.get_of_rd ((State.recorded_rd_ne t.ix (m := .EV_PEND) (by decide)).trans (State.moveLevel_rd _ (by decide) (by decide)))
  have note : notedAt r.swSet (t.ix.reg .EV_PEND) r.tick = notedAt s.swSet (t.ix.reg .EV_PEND) s.tick := by
    obtain ⟨_, e⟩ := s.moveLevel_eq t lvl
    simp only [r, e]
    rfl
  rw [State.get_of_rd (r := EV_PEND.PEND) rd, State.unpend]
  split
  case isTrue h =>
    rw [State.bit_hwClr _ _ _ (by decide) (by decide) hi, pend, show EV_PEND.PEND.reg = .EV_PEND from rfl, note, bit_testBit (2 ^ src),
      Nat.testBit_two_pow, show EV_PEND.PEND.lo + i = i from Nat.zero_add i]
    simp [eq_comm]
  case isFalse h =>
    rw [pend, decide_eq_true (show i ≠ src by omega), Bool.true_or, Bool.and_true]

/-! ## The trader in the entry slots -/

theorem Trader.abandon_eq (tr : Trader) (old : Nat) : ∃ x y, tr.abandon old =
    { tr with prog := none, wait := .none, missing := false, atom := x, replay := y, loads := tr.loads.map fun (l : Load) =>
                if l.part || l.dst == GReg.pc then { l with dst := GReg.nowhere, part := false } else l } := by
  unfold Trader.abandon
  dsimp only
  split
  · exact ⟨_, _, rfl⟩
  · exact ⟨_, _, rfl⟩

/-- The popped address that an event abandons lands nowhere (R160). -/
theorem Trader.abandon_dst (tr : Trader) (old : Nat) : ∀ l ∈ (tr.abandon old).loads, l.dst ≠ .pc := by
  obtain ⟨x, y, e⟩ := tr.abandon_eq old
  rw [e]
  intro l hl
  obtain ⟨k, -, rfl⟩ := List.mem_map.mp hl
  split
  case isTrue => exact GReg.noConfusion
  case isFalse h =>
    intro pc
    simp [pc] at h

/-- The parts of a trader that nothing landing touches and that an entry sets or leaves. -/
def unlanded (tr : Trader) := (tr.entering, tr.exiting, tr.prog, tr.trap, tr.wait, tr.bnk, tr.hbk, tr.host, tr.tsr)

theorem unlanded_withRest (tr k : Trader) : unlanded (tr.withRest k) = unlanded k := rfl

theorem unlanded_owned (tr : Trader) (slot : Nat) (on : Bool) (lvl : Nat) : unlanded (tr.owned slot on lvl) = unlanded tr :=
  (congrArg unlanded (tr.owned_rest slot on lvl)).trans (unlanded_withRest _ _)

theorem unlanded_enters (tr : Trader) (x : Nat × Nat) (a : Vector Budget 5) (b : Budget) (old lvl : Nat) :
    unlanded (((tr.stamped x a).enters old lvl).setBud lvl b) = (some lvl, none, none, none, .none, tr.bnk, tr.hbk, tr.host, tr.tsr) := by
  obtain ⟨y, z, e⟩ := (tr.stamped x a).abandon_eq old
  rw [Trader.enters, e]
  rfl

theorem Trader.enters_pc (tr : Trader) (old lvl : Nat) : (tr.enters old lvl).pc = tr.pc := by
  obtain ⟨y, z, e⟩ := tr.abandon_eq old
  rw [Trader.enters, e]

theorem Trader.enters_dst (tr : Trader) (old lvl : Nat) (b : Budget) : ∀ l ∈ ((tr.enters old lvl).setBud lvl b).loads, l.dst ≠ .pc :=
  tr.abandon_dst old

theorem State.moveLevel_trader (s : State) (t : TraderId) (lvl : Nat) :
    (s.moveLevel t lvl).trader t = (s.trader t).stamped (lvl, s.tick) (s.trader t).budget := by
  obtain ⟨r, e⟩ := s.moveLevel_eq t lvl
  rw [e, State.slotted_trader_self]

theorem State.entryRegs_trader (s : State) (v : TraderId) :
    (s.entryRegs t lvl src detail addr word c).trader v = (s.moveLevel t lvl).trader v := by
  unfold State.entryRegs State.unpend
  split
  · simp only [State.put_trader, State.hwClr, State.clrIn_trader, State.recorded, State.wr_trader]
  · simp only [State.put_trader, State.recorded, State.wr_trader]

theorem State.entryBudget_eq (s : State) (t : TraderId) (lvl : Nat) : ∃ b, s.entryBudget t lvl = s.upd t fun tr => tr.setBud lvl b := ⟨_, rfl⟩

/-- The trader after slot E1 is that of an owned slot, with what an entry sets. -/
theorem State.enterE1_trader (s : State) (t : TraderId) (lvl src detail addr word : Nat) (c : EntryCtx) :
    ∃ b slot on, (s.enterE1 t lvl src detail addr word c).trader t =
      ((((s.trader t).stamped (lvl, s.tick) (s.trader t).budget).enters (s.cur t) lvl).setBud lvl b).owned slot on lvl := by
  obtain ⟨b, budget⟩ := ((s.entryRegs t lvl src detail addr word c).upd t fun tr => tr.enters (s.cur t) lvl).entryBudget_eq t lvl
  have slot := State.ownSlot_trader (((s.entryRegs t lvl src detail addr word c).upd t fun tr => tr.enters (s.cur t) lvl).entryBudget t lvl) t lvl
  rw [← State.enterE1_eq, budget, State.upd, State.trader_self, State.upd, State.trader_self, State.entryRegs_trader,
    State.moveLevel_trader] at slot
  exact ⟨b, _, _, slot⟩

theorem State.enterE1_pc : ((s.enterE1 t lvl src detail addr word c).trader t).pc = (s.trader t).pc := by
  obtain ⟨b, slot, on, e⟩ := s.enterE1_trader t lvl src detail addr word c
  rw [e, Trader.owned_pc (Trader.enters_dst _ _ _ _)]
  exact Trader.enters_pc _ _ lvl

theorem State.enterE1_unlanded : unlanded ((s.enterE1 t lvl src detail addr word c).trader t) =
    (some lvl, none, none, none, .none, (s.trader t).bnk, (s.trader t).hbk, (s.trader t).host, (s.trader t).tsr) := by
  obtain ⟨b, slot, on, e⟩ := s.enterE1_trader t lvl src detail addr word c
  rw [e, unlanded_owned, unlanded_enters]

theorem State.enterE1_traderOnly : s.TraderOnly t (s.enterE1 t lvl src detail addr word c) := by
  have moved : s.TraderOnly t (s.moveLevel t lvl) := by
    obtain ⟨r, e⟩ := s.moveLevel_eq t lvl
    exact ⟨_, _, _, _, e⟩
  have recorded : s.TraderOnly t ((s.moveLevel t lvl).recorded (t.lvl (lvl - 1)) src detail addr word c) :=
    (((moved.wr _ _).wr _ _).wr _ _).wr _ _
  have regs : s.TraderOnly t (s.entryRegs t lvl src detail addr word c) := by
    unfold State.entryRegs State.unpend
    split
    · exact (recorded.wr _ _).wr _ _
    · exact recorded.wr _ _
  exact ((regs.upd _).upd _).ownSlot lvl

/-! ## Slot E2 -/

theorem State.enterE2_trader (s : State) (t : TraderId) (lvl : Nat) : (s.enterE2 t lvl).trader t =
    { ((s.ownSlot t lvl).trader t).stamped (lvl, (s.ownSlot t lvl).tick) ((s.ownSlot t lvl).trader t).budget with
      pc := s.vector t lvl, entering := none } := by
  rw [State.enterE2, State.upd, State.trader_self, State.moveLevel_trader]

theorem State.enterE2_tsr : ((s.enterE2 t lvl).trader t).tsr = (s.trader t).tsr := by
  have landed := congrArg Trader.tsr ((s.trader t).owned_rest (s.nextSlot t / 16) (s.is BW_CTRL.EN t.st) lvl)
  rw [State.enterE2_trader, State.ownSlot_trader]
  exact landed

theorem State.enterE2_cur : (s.enterE2 t lvl).cur t = s.cur t :=
  (State.get_of_rd (State.moveLevel_rd t.ix (m := .EV_CTRL) (by decide) (by decide))).trans (s.ownSlot_cur t lvl)

end Sys2Proof.Machine

namespace Sys2Proof.Proofs

open Sys2Proof.Machine

/-- O15: what E1 writes is `State.entryRegs`, and each of the two is an owned slot that touches nothing else of the trader. -/
theorem eventEntries_entryToALevel : Claims.EntryToALevel := by
  intro s t lvl src detail addr word c _ hlvl hs hd ha hw hp hl ht hb s' tr n pend set e
  obtain ⟨pc, tsr, plvl, bank, esrc, edetail, eaddr, eword⟩ :=
    State.enterE1_record (s := s) (t := t) (lvl := lvl) hs hd ha hw hp hl ht hb
  have only : s.TraderOnly t s' := State.enterE1_traderOnly
  have rest : unlanded (s'.trader t) = _ := State.enterE1_unlanded
  simp only [unlanded, Prod.mk.injEq] at rest
  obtain ⟨entering, exiting, prog, trap, wait, bnk, hbk, host, flags⟩ := rest
  exact ⟨pc, tsr, plvl, bank, esrc, edetail, eaddr, eword, State.enterE1_cur (by omega), fun i hi => State.enterE1_pend hi,
    State.enterE1_pc, entering, exiting, prog, trap, wait, bnk, hbk, host, flags, fun u hu => only.others hu, only.frame,
    congrArg Trader.pc (s.enterE2_trader t lvl), congrArg Trader.entering (s.enterE2_trader t lvl), State.enterE2_tsr, State.enterE2_cur,
    fun u hu => (s.enterE2_calm t lvl).others u hu⟩

end Sys2Proof.Proofs
end

section
/-! SUPPORT. A sampling (R156, R157, R161): which event is taken, and a double fault. -/

namespace Sys2Proof.Machine

variable {s u : State} {t : TraderId} {lvl src : Nat}

/-! ## The event taken (R157) -/

/-- One step of the choice among deliverable sources: a later one is taken where its level is higher. -/
def State.better (s : State) (t : TraderId) (best : Option Nat) (src : Nat) : Option Nat :=
  match best with
  | none => some src
  | some b => if s.level t b < s.level t src then some src else best

/-- The sources that are deliverable above a level, in rising order. -/
def State.candidates (s : State) (t : TraderId) (lvl : Nat) : List Nat :=
  (List.range 11).filter fun src => bit (s.get EV_PEND.PEND t.ix) src && s.enabled t src && decide (lvl < s.level t src)

theorem State.deliverableAt_eq (s : State) (t : TraderId) (lvl : Nat) : s.deliverableAt t lvl = (s.candidates t lvl).foldl (s.better t) none := rfl

theorem State.mem_candidates {i : Nat} : i ∈ s.candidates t lvl ↔
    i < 11 ∧ bit (s.get EV_PEND.PEND t.ix) i = true ∧ s.enabled t i = true ∧ lvl < s.level t i := by
  simp [State.candidates, and_assoc]

/-- A source keeps its place before others of levels not above its own. -/
theorem State.foldl_better_some {l : List Nat} (h : ∀ i ∈ l, s.level t i ≤ s.level t src) : l.foldl (s.better t) (some src) = some src := by
  induction l with
  | nil => rfl
  | cons i l ih =>
    rw [List.forall_mem_cons] at h
    rw [List.foldl_cons, State.better, if_neg (Nat.not_lt.mpr h.1)]
    exact ih h.2

/-- A source is taken after others of levels below its own. -/
theorem State.better_of_below {l : List Nat} (h : ∀ i ∈ l, s.level t i < s.level t src) :
    s.better t (l.foldl (s.better t) none) src = some src := by
  have start : ∀ b, (none : Option Nat) = some b → s.level t b < s.level t src := nofun
  have below := List.foldlRecOn (motive := fun best : Option Nat => ∀ b, best = some b → s.level t b < s.level t src) l (s.better t)
    start fun best hbest i hi b e => by
      cases best with
      | none =>
        obtain rfl : i = b := Option.some.inj e
        exact h i hi
      | some b' =>
        rw [State.better] at e
        split at e
        · obtain rfl : i = b := Option.some.inj e
          exact h i hi
        · exact hbest b e
  cases e : l.foldl (s.better t) none with
  | none => rfl
  | some b => rw [State.better, if_pos (below b e)]

/-- Of the deliverable events the one of the highest level is taken, in a level the lowest source. -/
theorem State.deliverableAt_of_highest (mem : src ∈ s.candidates t lvl)
    (top : ∀ i ∈ s.candidates t lvl, s.level t i < s.level t src ∨ (s.level t i = s.level t src ∧ src ≤ i)) :
    s.deliverableAt t lvl = some src := by
  have sorted : (s.candidates t lvl).Pairwise (· < ·) := List.pairwise_lt_range.filter _
  obtain ⟨before, after, e⟩ := List.append_of_mem mem
  rw [e, List.pairwise_append] at sorted
  rw [State.deliverableAt_eq, e, List.foldl_append, List.foldl_cons, State.better_of_below, State.foldl_better_some]
  · intro i hi
    rcases top i (by simp [e, hi]) with h | ⟨h, -⟩
    · exact Nat.le_of_lt h
    · exact Nat.le_of_eq h
  · intro i hi
    have lower : i < src := sorted.2.2 i hi src (by simp)
    exact (top i (by simp [e, hi])).resolve_right fun h => absurd h.2 (Nat.not_le.mpr lower)

theorem State.deliverableAt_none (h : ∀ i, i ∉ s.candidates t lvl) : s.deliverableAt t lvl = none := by
  rw [State.deliverableAt_eq, List.eq_nil_iff_forall_not_mem.mpr h]
  rfl

/-! ## One sampling -/

theorem State.sample_trap {tp : Trap} (h : (s.trader t).trap = some tp) : s.sample t = s.takeTrap t tp := by
  simp [State.sample, h]

section

variable (trap : (s.trader t).trap = none) (exit : (s.trader t).exiting = none)

include trap

theorem State.sample_entering_event (en : (s.trader t).entering = some lvl) (h : s.deliverable t = some src) :
    s.sample t = s.takeEvent t src (s.ctxAt t (s.vector t lvl)) := by
  simp [State.sample, trap, en, h]

theorem State.sample_entering (en : (s.trader t).entering = some lvl) (h : s.deliverable t = none) : s.sample t = s.enterE2 t lvl := by
  simp [State.sample, trap, en, h]

include exit

theorem State.sample_event (en : (s.trader t).entering = none) (h : s.deliverable t = some src) :
    s.sample t =
      let u := if (s.trader t).wait == .wfe then s.endWait t else s
      u.takeEvent t src (u.ctxAt t (u.trader t).pc) := by
  simp [State.sample, trap, en, exit, h]

theorem State.sample_none (en : (s.trader t).entering = none) (h : s.deliverable t = none) : s.sample t = s := by
  simp [State.sample, trap, en, exit, h]

end

/-! ## The end of a wait -/

theorem Trader.endLevel_eq (tr : Trader) (x n next : Nat) (done : Bool) :
    ∃ b c, (tr.endLevel x n next done).1 = { tr with lbuf := b, lc := c } := by
  unfold Trader.endLevel
  split
  · exact ⟨tr.lbuf, tr.lc, rfl⟩
  · split
    · exact ⟨tr.lbuf, _, rfl⟩
    · obtain ⟨b, e⟩ := (tr.setLc n 0).levelEnds_eq n
      exact ⟨b, (tr.setLc n 0).lc, e⟩

/-- The cause that the trader holds for BUS_ERR and BUDGET (R167). -/
def Trader.causes (tr : Trader) : (Nat × Nat) × Nat := (tr.busErr, tr.overMarker)

theorem Trader.endLevel_causes (tr : Trader) (x n next : Nat) (done : Bool) : (tr.endLevel x n next done).1.causes = tr.causes := by
  obtain ⟨b, c, e⟩ := tr.endLevel_eq x n next done
  rw [e]
  rfl

theorem Trader.endCheck_causes (tr : Trader) (x : Nat) : (tr.endCheck x).causes = tr.causes :=
  (Trader.endLevel_causes _ x 0 _ _).trans ((Trader.endLevel_causes _ x 1 _ _).trans (tr.endLevel_causes x 2 _ _))

theorem State.endWait_causes (s : State) (t : TraderId) : ((s.endWait t).trader t).causes = (s.trader t).causes := by
  rw [State.endWait, State.syncPoint, State.endCheck, State.upd, State.trader_self, State.upd, State.trader_self, State.upd, State.trader_self]
  exact Trader.endCheck_causes _ _

/-- The end of a wait does not change the cause of a source. -/
theorem State.endWait_cause (s : State) (t : TraderId) (src : Nat) : (s.endWait t).cause t src = s.cause t src := by
  have causes := s.endWait_causes t
  simp only [Trader.causes, Prod.mk.injEq] at causes
  rw [State.cause, State.cause, causes.1, causes.2]

/-! ## The command EVENT_ENTRY -/

theorem exec_eventEntry_halted (run : (s.trader t).running = true) (clk : s.clocked t = true) (quiet : s.faults = [])
    (halt : (s.trader t).halted = true) (en : (s.trader t).entering = some lvl) : exec (.eventEntry t) s = .next (s.enterE2 t lvl) := by
  have settled := State.settle_of_noFaults ((s.enterE2_calm t lvl).faults.trans quiet)
  change execEventEntry t s = _
  simp [execEventEntry, run, clk, halt, en, settled]

theorem exec_eventEntry_sample (run : (s.trader t).running = true) (clk : s.clocked t = true) (awake : (s.trader t).halted = false)
    (rom : (s.trader t).inRom = false) (taken : s.sample t = u) (quiet : u.faults = []) : exec (.eventEntry t) s = .next u := by
  have settled := State.settle_of_noFaults quiet
  change execEventEntry t s = _
  simp [execEventEntry, run, clk, awake, rom, taken, settled]

/-! ## A double fault (R157) -/

/-- The registers and the trader of a double fault, before it is told. -/
def State.doubled (s : State) (t : TraderId) (src : Nat) : State :=
  (((s.stopPlain t).upd t fun tr => { tr with trap := none }).set EV_STATUS.DOUBLE t.ix true).put EV_STATUS.DOUBLE_SRC t.ix src

/-- Telling a double fault changes no trader, and no register but the counts of lost chits. -/
theorem State.doubleFault_doubled (s : State) (t : TraderId) (src : Nat) :
    (∀ v, (s.doubleFault t src).trader v = (s.doubled t src).trader v) ∧
    ∀ (i : Ix) {m : RegName}, m ≠ .CR_LOST → (s.doubleFault t src).rd (i.reg m) = (s.doubled t src).rd (i.reg m) := by
  have only : (s.doubled t src).OnlyChits ((s.doubled t src).hallChit t.h 0x22 (t.s <<< 4 + t.t) ((s.doubled t src).rd (t.ix.reg .EV_STATUS))
    (s.doubled t src).tick) := State.hallChit_onlyChits ..
  exact ⟨fun v => (congrArg (fun x : State => x.trader v) only.rest :), fun i _ h => only.rd _ h⟩

theorem State.doubled_trader (s : State) (t : TraderId) (src : Nat) :
    (s.doubled t src).trader t = { (s.trader t).abandon (s.cur t) with running := false, trap := none } := by
  rw [State.doubled, State.put_trader, State.set_trader, State.upd, State.trader_self, State.stopPlain, State.upd, State.trader_self]

theorem State.doubled_rd (i : Ix) {m : RegName} (h : m ≠ .EV_STATUS) : (s.doubled t src).rd (i.reg m) = s.rd (i.reg m) :=
  (State.rd_put_ne (Ix.reg_ne h _ _) _).trans (State.rd_set_ne (Ix.reg_ne h _ _) _)

end Sys2Proof.Machine

namespace Sys2Proof.Proofs

open Sys2Proof.Machine

/-- O15: a double fault stops the trader where it is. -/
theorem eventEntries_doubleFault : Claims.DoubleFault := by
  intro s t src hs s'
  obtain ⟨traders, regs⟩ := s.doubleFault_doubled t src
  have tr : s'.trader t = _ := (traders t).trans (s.doubled_trader t src)
  obtain ⟨x, y, stopped⟩ := (s.trader t).abandon_eq (s.cur t)
  have status : s'.rd (t.ix.reg .EV_STATUS) = _ := regs t.ix (by decide)
  refine ⟨by rw [tr], by rw [tr], ?_, ?_, by rw [tr, stopped], fun n => ?_, fun tp src_eq low => ?_⟩
  · rw [State.is_of_rd (r := EV_STATUS.DOUBLE) status]
    exact (State.is_put_beside (by decide) _ _ _).trans (State.is_set_self _ _ _ _ rfl (by decide))
  · rw [State.get_of_rd (r := EV_STATUS.DOUBLE_SRC) status]
    exact (State.get_put_self _ _ _ _ (by decide) (by decide)).trans (Nat.mod_eq_of_lt hs)
  · exact (regs _ (by decide)).trans (State.doubled_rd _ (by decide))
  · rw [State.takeTrap, src_eq, if_neg (Nat.not_lt.mpr low)]

/-- O15: each sampling is one case of `State.sample`. -/
theorem eventEntries_eventEntryTakes : Claims.EventEntryTakes := by
  intro s t run clk quiet
  refine ⟨fun lvl halt en => exec_eventEntry_halted run clk quiet halt en, fun awake rom => ?_⟩
  have sampled {u : State} (taken : s.sample t = u) (calm : u.faults = []) : exec (.eventEntry t) s = .next u :=
    exec_eventEntry_sample run clk awake rom taken calm
  have entered {u : State} {lvl src detail addr word : Nat} {c : EntryCtx} (hu : u.faults = []) :
      (u.enterE1 t lvl src detail addr word c).faults = [] := State.enterE1_traderOnly.faults.trans hu
  refine ⟨fun tp trap high => ?_, fun src trap exit hsrc pend en high top => ?_, fun trap exit none_ => ?_⟩
  · refine sampled ?_ (entered quiet)
    rw [State.sample_trap trap, State.takeTrap, if_pos high]
  · have taken : s.deliverable t = some src := State.deliverableAt_of_highest (State.mem_candidates.mpr ⟨hsrc, pend, en, high⟩) fun i hi => by
      obtain ⟨hi, ipend, ien, ihigh⟩ := State.mem_candidates.mp hi
      exact top i hi ipend ien ihigh
    refine ⟨fun lvl enter => ?_, fun enter wait => ?_, fun enter wait => ?_⟩
    · exact sampled (State.sample_entering_event trap enter taken) (entered quiet)
    · refine sampled ?_ (entered quiet)
      rw [State.sample_event trap exit enter taken, beq_eq_false_iff_ne.mpr wait]
      rfl
    · refine sampled ?_ (entered (u := s.endWait t) quiet)
      rw [State.sample_event trap exit enter taken, wait, ← s.endWait_cause t src]
      rfl
  · have calm : s.deliverable t = none := State.deliverableAt_none fun i hi => by
      obtain ⟨hi, pend, en, high⟩ := State.mem_candidates.mp hi
      exact absurd high (Nat.not_lt.mpr (none_ i hi pend en))
    cases en : (s.trader t).entering with
    | none => exact sampled (State.sample_none trap exit en calm) quiet
    | some lvl => exact sampled (State.sample_entering trap en calm) ((s.enterE2_calm t lvl).faults.trans quiet)

/-- Settles O15: the entry slots write the record and load the vector, a sampling takes the highest deliverable event, and a double fault stops
the trader. -/
theorem eventEntries : Obligations.EventEntries := ⟨eventEntries_entryToALevel, eventEntries_eventEntryTakes, eventEntries_doubleFault⟩

end Sys2Proof.Proofs
end

section
/-! SUPPORT. One attempt of a crier to issue (R178 to R181, R192): what the cycle leaves before and after the instruction, and that nothing
but the crier changes. -/

namespace Sys2Proof.Machine

variable {s s' s1 : State} {c : CrierId} {n w : Nat} {lv : Option Nat}

/-! ## Nothing changes but what belongs to a crier -/

theorem Tab.del_of_find_none {κ α : Type} [DecidableEq κ] {t : Tab κ α} {k : κ} (h : Tab.find t k = none) : Tab.del t k = t := by
  induction t with
  | nil => rfl
  | cons e t ih =>
    obtain ⟨a, v⟩ := e
    by_cases hk : a = k
    · simp [Tab.find, hk] at h
    · simp only [Tab.find, hk, if_false] at h
      have := ih h
      simp only [Tab.del] at this
      simp [Tab.del, hk, this]

namespace State.crierOnly

theorem refl (s : State) (c : CrierId) : s.crierOnly s c := ⟨rfl, fun _ _ => rfl, fun _ _ => rfl, fun _ _ => rfl⟩

theorem trans {a b d : State} (h : a.crierOnly b c) (k : b.crierOnly d c) : a.crierOnly d c := by
  obtain ⟨hs, hc, hp, hr⟩ := h
  obtain ⟨ks, kc, kp, kr⟩ := k
  refine ⟨?_, fun d hd => (kc d hd).trans (hc d hd), fun h i => (kp h i).trans (hp h i), fun r hr' => (kr r hr').trans (hr r hr')⟩
  exact (congrArg (fun x : State =>
    { x with criers := a.criers, crDid := a.crDid, barrows := a.barrows, pins := a.pins, axes := a.axes }) ks).trans hs

theorem crWas (h : s.crierOnly s' c) : s'.crWas = s.crWas := (congrArg State.crWas h.1 :)

theorem deliveries (h : s.crierOnly s' c) : s'.deliveries = s.deliveries := (congrArg State.deliveries h.1 :)

/-- A change of registers of the crier. -/
theorem of_regs {regs : Tab Reg Dword} {hw sw : Tab Reg (Nat × Nat)}
    (h : ∀ r : Reg, ¬(r.a = c.h ∧ r.b = c.b ∧ r.c = c.c) → ({ s with regs := regs } : State).rd r = s.rd r) :
    s.crierOnly { s with regs := regs, hwSet := hw, swSet := sw } c := ⟨rfl, fun _ _ => rfl, fun _ _ => rfl, h⟩

theorem put (f : Field) (v : Nat) : s.crierOnly (s.put f c.ix v) c :=
  of_regs fun _ hr => State.rd_put_ne (fun e => hr (by rw [e]; exact ⟨rfl, rfl, rfl⟩)) v

theorem set (f : Field) (b : Bool) : s.crierOnly (s.set f c.ix b) c :=
  of_regs fun _ hr => State.rd_put_ne (fun e => hr (by rw [e]; exact ⟨rfl, rfl, rfl⟩)) _

theorem setCrier (a : Crier) : s.crierOnly (s.setCrier c a) c :=
  ⟨rfl, fun _ hd => s.crier_ne _ _ _ hd, fun _ _ => rfl, fun _ _ => rfl⟩

theorem updC (f : Crier → Crier) : s.crierOnly (s.updC c f) c := setCrier _

theorem loadOsh (v n : Nat) : s.crierOnly (s.loadOsh c v n) c := (put _ _).trans (put _ _)

theorem loadIsh (v n : Nat) : s.crierOnly (s.loadIsh c v n) c := (put _ _).trans (put _ _)

theorem setBt (v n : Nat) : s.crierOnly (s.setBt c v n) c := (put _ _).trans (updC _)

theorem setBarrow (h b : Nat) (a : Barrow) : s.crierOnly (s.setBarrow h b a) c := ⟨rfl, fun _ _ => rfl, fun _ _ => rfl, fun _ _ => rfl⟩

theorem crDid (t : Tab CrierId CrierDid) : s.crierOnly { s with crDid := t } c := ⟨rfl, fun _ _ => rfl, fun _ _ => rfl, fun _ _ => rfl⟩

end State.crierOnly

/-! ## Pads and axes around a cycle -/

/-- From `s` to `s'` nothing changes but axes and what pads in their held cycle keep. -/
def State.PadsKept (s s' : State) : Prop :=
  s.OnlyPads s' ∧ ∀ h i, { s'.pin h i with keep := none } = { s.pin h i with keep := none }

theorem State.PadsKept.refl (s : State) : s.PadsKept s := ⟨.refl s, fun _ _ => rfl⟩

theorem State.PadsKept.trans {a b d : State} (h : a.PadsKept b) (k : b.PadsKept d) : a.PadsKept d :=
  ⟨h.1.trans k.1, fun x y => (k.2 x y).trans (h.2 x y)⟩

theorem State.PadsKept.crierOnly (h : s.PadsKept s') : s.crierOnly s' c := by
  obtain ⟨⟨_, _, rfl⟩, kept⟩ := h
  exact ⟨rfl, fun _ _ => rfl, kept, fun _ _ => rfl⟩

theorem forAll_padsKept {α : Type} (xs : List α) (f : α → State → State) (hf : ∀ x (t : State), t.PadsKept (f x t)) :
    s.PadsKept (forAll xs f s) := by
  unfold forAll
  induction xs generalizing s with
  | nil => exact .refl s
  | cons x xs ih => exact (hf x s).trans ih

theorem State.freezePin_padsKept (h i t : Nat) : s.PadsKept (s.freezePin h i t) := by
  refine ⟨State.freezePin_onlyPads h i t, fun x y => ?_⟩
  unfold State.freezePin
  split
  · split
    · by_cases e : (x, y) = (h, i)
      · obtain ⟨rfl, rfl⟩ := Prod.mk.inj e
        rw [State.pin_self]
      · rw [State.pin_ne _ _ _ _ _ _ e]
    · rfl
  · rfl

theorem State.ssiEdges_padsKept (h b n at_ : Nat) : s.PadsKept (s.ssiEdges h b n at_) := by
  refine forAll_padsKept _ _ (fun k u => ?_)
  dsimp only
  split
  · split
    · exact ⟨⟨_, _, rfl⟩, fun _ _ => rfl⟩
    · exact .refl u
  · exact .refl u

/-! ## The pace counter at the start of a cycle (R186) -/

/-- The pace ticks before a cycle change BT, and of the crier the cycle of BT and that of the last tick. -/
theorem State.paceTo_cases (s : State) (c : CrierId) (n : Nat) :
    s.paceTo c n = s ∨ ∃ v a t, s.paceTo c n = (s.put CR_PACE.BT c.ix v).setCrier c { s.crier c with btAt := a, lastTick := t } := by
  unfold State.paceTo
  dsimp only
  split
  · exact .inl rfl
  · split
    · exact .inr ⟨_, _, _, rfl⟩
    · exact .inr ⟨_, _, _, rfl⟩

/-! ## The state in which an instruction acts -/

/-- The crier in the cycle `n` in which it issues the word `w`, with what it has driven before kept (R177). -/
def Crier.inCycle (r : Crier) (n w : Nat) : Crier :=
  { r with stalled := if r.cued = some w then r.stalled else none, outAt := n,
           hist := if r.outAt < n then ((r.outAt, r.out, r.oe) :: r.hist).take 6 else r.hist }

/-- The state with the pads of the barrow kept whose held cycle has begun by the end of cycle `n`. -/
def State.crierFrozen (s : State) (c : CrierId) (n : Nat) : State :=
  forAll (List.range 8) (fun p s => s.freezePin c.h (8 * c.b + p) (s.cycleStart c.h c.b (n + 1))) s

/-- The state before the barrow has taken the pin levels. -/
def State.crierCycle (s : State) (c : CrierId) (n w : Nat) : State := ((s.crierFrozen c n).paceTo c n).updC c (Crier.inCycle · n w)

/-- The state in which the instruction of cycle `n` acts: held pads and the pace counter are those of the cycle, and the barrow has the pin
levels `lv` where the instruction reads them. -/
def State.crierAt (s : State) (c : CrierId) (n w : Nat) (lv : Option Nat) : State :=
  match lv with
  | some l => (s.crierCycle c n w).setBarrow c.h c.b
      { (s.crierCycle c n w).barrow c.h c.b with level := l, levelAt := (s.crierCycle c n w).cycleStart c.h c.b (n - 2) }
  | none => s.crierCycle c n w

/-- What an instruction finds of the crier that issues it in `s`. -/
structure State.CrierFinds (s u : State) (c : CrierId) : Prop where
  only : s.crierOnly u c
  rd : ∀ q : Reg, q ≠ c.ix.reg .CR_PACE → u.rd q = s.rd q
  period : u.get CR_PACE.PERIOD c.ix = s.get CR_PACE.PERIOD c.ix
  tx : (u.crier c).tx = (s.crier c).tx
  rx : (u.crier c).rx = (s.crier c).rx
  out : (u.crier c).out = (s.crier c).out
  oe : (u.crier c).oe = (s.crier c).oe
  ecc : u.ecc = s.ecc

namespace State.CrierFinds

theorem of_padsKept (h : s.PadsKept s') : s.CrierFinds s' c := by
  have only := h.crierOnly (c := c)
  obtain ⟨⟨_, _, rfl⟩, -⟩ := h
  exact ⟨only, fun _ _ => rfl, rfl, rfl, rfl, rfl, rfl, rfl⟩

theorem trans {u v : State} (h : s.CrierFinds u c) (k : u.CrierFinds v c) : s.CrierFinds v c where
  only := h.only.trans k.only
  rd q hq := (k.rd q hq).trans (h.rd q hq)
  period := k.period.trans h.period
  tx := k.tx.trans h.tx
  rx := k.rx.trans h.rx
  out := k.out.trans h.out
  oe := k.oe.trans h.oe
  ecc := k.ecc.trans h.ecc

theorem get {u : State} (h : s.CrierFinds u c) (f : Field) (hf : f.reg ≠ .CR_PACE) (i : Ix) : u.get f i = s.get f i :=
  State.get_of_rd (h.rd _ (Ix.reg_ne hf _ _))

theorem is {u : State} (h : s.CrierFinds u c) (f : Field) (hf : f.reg ≠ .CR_PACE) (i : Ix) : u.is f i = s.is f i :=
  State.is_of_rd (h.rd _ (Ix.reg_ne hf _ _))

theorem of_updC {f : Crier → Crier} (tx : (f (s.crier c)).tx = (s.crier c).tx) (rx : (f (s.crier c)).rx = (s.crier c).rx)
    (out : (f (s.crier c)).out = (s.crier c).out) (oe : (f (s.crier c)).oe = (s.crier c).oe) : s.CrierFinds (s.updC c f) c := by
  refine ⟨.updC f, fun _ _ => rfl, rfl, ?_, ?_, ?_, ?_, rfl⟩ <;> rw [State.updC, State.crier_self] <;> assumption

end State.CrierFinds

theorem State.paceTo_finds (s : State) (c : CrierId) (n : Nat) : s.CrierFinds (s.paceTo c n) c := by
  rcases s.paceTo_cases c n with e | ⟨v, a, t, e⟩ <;> rw [e]
  · exact .of_padsKept (.refl s)
  · refine ⟨(State.crierOnly.put _ _).trans (.setCrier _), fun q hq => ?_, ?_, ?_, ?_, ?_, ?_, rfl⟩
    · rw [State.setCrier_rd, State.rd_put_ne hq]
    · rw [State.setCrier_get, State.get_put_beside (by decide)]
    all_goals rw [State.crier_self]

theorem State.updC_inCycle_finds (s : State) (c : CrierId) (n w : Nat) : s.CrierFinds (s.updC c (Crier.inCycle · n w)) c :=
  .of_updC rfl rfl rfl rfl

theorem State.crierFrozen_padsKept (s : State) (c : CrierId) (n : Nat) : s.PadsKept (s.crierFrozen c n) :=
  forAll_padsKept _ _ fun _ _ => State.freezePin_padsKept _ _ _

theorem State.crierCycle_finds (s : State) (c : CrierId) (n w : Nat) : s.CrierFinds (s.crierCycle c n w) c :=
  (State.CrierFinds.of_padsKept (s.crierFrozen_padsKept c n)).trans
    (((s.crierFrozen c n).paceTo_finds c n).trans (State.updC_inCycle_finds _ c n w))

theorem State.crierAt_finds (s : State) (c : CrierId) (n w : Nat) (lv : Option Nat) : s.CrierFinds (s.crierAt c n w lv) c := by
  cases lv with
  | none => exact s.crierCycle_finds c n w
  | some l =>
    refine (s.crierCycle_finds c n w).trans ?_
    exact ⟨.setBarrow _ _ _, fun _ _ => rfl, rfl, rfl, rfl, rfl, rfl, rfl⟩

/-! ## The end of an attempt -/

/-- What the cycle makes of the result of an instruction that has acted in `u`. -/
def State.crierEnds (u : State) (c : CrierId) (n w pc : Nat) (res : CrRes) : State :=
  match res with
  | .done s1 => ((s1.cue c w).noteDid u c n (crierDests w (u.get CR_CRC_CFG.MODE c.ix))).crierDone c n (cDelay w) (u.crierNextPc c pc)
  | .jump s1 t => ((s1.cue c w).noteDid u c n (crierDests w (u.get CR_CRC_CFG.MODE c.ix))).crierDone c n (cDelay w) (t % 64)
  | .stall s1 code =>
    (((s1.cue c w).noteDid u c n []).put CR_STATUS_C.STATE c.ix code).updC c (fun r => { r with next := n + 1, stalled := some (r.stalled.getD n) })

theorem State.errorIn_of_ecc (e : s'.ecc = s.ecc) (a : Arr) (o l : Nat) : s'.errorIn a o l = s.errorIn a o l := by
  simp only [State.errorIn, e]

/-- A legal word that is fetched without an error is carried out. -/
theorem State.crierExec_eq (legal : crierLegal w = true)
    (clean : s.errorIn (.crierPage c.h c.b (s.brPage c.h c.b)) (4 * s.get CR_STATUS_C.PC c.ix) 3 = none) (body : State → CrRes) :
    s.crierExec c n w lv body =
      ((s.crierAt c n w lv).crierEnds c n w (s.get CR_STATUS_C.PC c.ix) (body (s.crierAt c n w lv))).ssiEdges c.h c.b n
        ((s.crierAt c n w lv).cycleStart c.h c.b (n + 1)) := by
  have quiet : (s.crierCycle c n w).errorIn (.crierPage c.h c.b (s.brPage c.h c.b)) (4 * s.get CR_STATUS_C.PC c.ix) 3 = none :=
    (State.errorIn_of_ecc (s.crierCycle_finds c n w).ecc _ _ _).trans clean
  unfold State.crierExec
  extract_lets pc page _ u
  have found : u.errorIn (.crierPage c.h c.b page) (4 * pc) 3 = none := quiet
  rw [found]
  simp only [legal, Option.isSome_none, Bool.false_eq_true, if_false, Bool.not_true]
  cases lv <;> rfl

/-! ## What the end of an attempt leaves -/

/-- What the rest of a cycle leaves of the crier once its instruction has led to `s1`; OUT is left where no cue is enabled (R180). -/
structure State.CrierLeft (s1 s' : State) (c : CrierId) : Prop where
  only : s1.crierOnly s' c
  get : ∀ f : Field, f.Beside CR_STATUS_C.PC → f.Beside CR_STATUS_C.STATE → ∀ i, s'.get f i = s1.get f i
  tx : (s'.crier c).tx = (s1.crier c).tx
  rx : (s'.crier c).rx = (s1.crier c).rx
  btAt : (s'.crier c).btAt = (s1.crier c).btAt
  oe : (s'.crier c).oe = (s1.crier c).oe
  out : s1.get CR_PINS.CUE_EN c.ix = 0 → (s'.crier c).out = (s1.crier c).out

namespace State.CrierLeft

theorem trans {a b d : State} (h : a.CrierLeft b c) (k : b.CrierLeft d c) : a.CrierLeft d c where
  only := h.only.trans k.only
  get f hp hs i := (k.get f hp hs i).trans (h.get f hp hs i)
  tx := k.tx.trans h.tx
  rx := k.rx.trans h.rx
  btAt := k.btAt.trans h.btAt
  oe := k.oe.trans h.oe
  out quiet := (k.out ((h.get _ (by decide) (by decide) _).trans quiet)).trans (h.out quiet)

theorem of_padsKept (h : s.PadsKept s') : s.CrierLeft s' c := by
  have only := h.crierOnly (c := c)
  obtain ⟨⟨_, _, rfl⟩, -⟩ := h
  exact ⟨only, fun _ _ _ _ => rfl, rfl, rfl, rfl, rfl, fun _ => rfl⟩

theorem is (h : s.CrierLeft s' c) (f : Field) (hp : f.Beside CR_STATUS_C.PC) (hs : f.Beside CR_STATUS_C.STATE) (i : Ix) : s'.is f i = s.is f i := by
  simp only [State.is, h.get f hp hs i]

theorem cx (h : s.CrierLeft s' c) : s'.cx c = s.cx c := h.get _ (by decide) (by decide) _
theorem cy (h : s.CrierLeft s' c) : s'.cy c = s.cy c := h.get _ (by decide) (by decide) _
theorem osh (h : s.CrierLeft s' c) : s'.osh c = s.osh c := h.get _ (by decide) (by decide) _
theorem ish (h : s.CrierLeft s' c) : s'.ish c = s.ish c := h.get _ (by decide) (by decide) _
theorem oshLeft (h : s.CrierLeft s' c) : s'.oshLeft c = s.oshLeft c := h.get _ (by decide) (by decide) _
theorem ishFill (h : s.CrierLeft s' c) : s'.ishFill c = s.ishFill c := h.get _ (by decide) (by decide) _
theorem crc (h : s.CrierLeft s' c) : s'.crc c = s.crc c := by
  simp only [State.crc, State.crcW, h.get CR_CRC_VAL.VAL (by decide) (by decide), h.get CR_CRC_CFG.WIDTH (by decide) (by decide)]

end State.CrierLeft

/-- One cue of a word applied to OUT. -/
def State.cueOne (s : State) (c : CrierId) (w k pos : Nat) (r : Crier) : Crier :=
  if !bit (s.get CR_PINS.CUE_EN c.ix) k then r
  else if !s.is CR_PINS.CUE_MODE c.ix then { r with out := setBits r.out pos pos (b2n (bit (cCue w) k)) }
  else if ((s.crier c).cued != some w) && bit (cCue w) k then { r with out := setBits r.out pos pos (b2n (!bit r.out pos)) }
  else r

/-- The crier `r` with some OUT, and with the one it has where no cue is enabled. -/
def State.Cued (s : State) (c : CrierId) (r r' : Crier) : Prop :=
  ∃ o, r' = { r with out := o } ∧ (s.get CR_PINS.CUE_EN c.ix = 0 → o = r.out)

theorem State.Cued.refl (s : State) (c : CrierId) (r : Crier) : s.Cued c r r := ⟨_, rfl, fun _ => rfl⟩

theorem State.Cued.trans {r1 r2 r3 : Crier} (h : s.Cued c r1 r2) (k : s.Cued c r2 r3) : s.Cued c r1 r3 := by
  obtain ⟨o, rfl, ho⟩ := h
  obtain ⟨o', rfl, ho'⟩ := k
  exact ⟨o', rfl, fun quiet => (ho' quiet).trans (ho quiet)⟩

theorem State.cueOne_cued (s : State) (c : CrierId) (w k pos : Nat) (r : Crier) : s.Cued c r (s.cueOne c w k pos r) := by
  unfold State.cueOne
  by_cases en : bit (s.get CR_PINS.CUE_EN c.ix) k = true
  · have on : s.get CR_PINS.CUE_EN c.ix ≠ 0 := fun e => by simp [e, bit] at en
    rw [en]
    simp only [Bool.not_true, Bool.false_eq_true, if_false]
    split
    · exact ⟨_, rfl, fun e => absurd e on⟩
    · split
      · exact ⟨_, rfl, fun e => absurd e on⟩
      · exact .refl s c r
  · rw [Bool.not_eq_true] at en
    rw [en]
    exact .refl s c r

theorem State.cue_eq (s : State) (c : CrierId) (w : Nat) :
    ∃ r, s.Cued c (s.crier c) r ∧ s.cue c w = s.setCrier c { r with cued := some w } :=
  ⟨_, ((s.cueOne_cued c w 0 _ _).trans (s.cueOne_cued c w 1 _ _)).trans (s.cueOne_cued c w 2 _ _), rfl⟩

theorem State.CrierLeft.of_setCrier {r : Crier} (tx : r.tx = (s.crier c).tx) (rx : r.rx = (s.crier c).rx) (btAt : r.btAt = (s.crier c).btAt)
    (oe : r.oe = (s.crier c).oe) (out : s.get CR_PINS.CUE_EN c.ix = 0 → r.out = (s.crier c).out) : s.CrierLeft (s.setCrier c r) c := by
  refine ⟨.setCrier r, fun _ _ _ _ => rfl, ?_, ?_, ?_, ?_, fun quiet => ?_⟩ <;> rw [State.crier_self]
  exacts [tx, rx, btAt, oe, out quiet]

/-- Cues, and the note of what the instruction wrote. -/
theorem State.cued_left (s1 u : State) (c : CrierId) (w n : Nat) (ds : List (RegName × Nat)) :
    s1.CrierLeft ((s1.cue c w).noteDid u c n ds) c := by
  obtain ⟨r, ⟨o, rfl, quiet⟩, e⟩ := s1.cue_eq c w
  have cued : s1.CrierLeft (s1.cue c w) c := by
    rw [e]
    exact .of_setCrier rfl rfl rfl rfl quiet
  exact cued.trans ⟨.crDid _, fun _ _ _ _ => rfl, rfl, rfl, rfl, rfl, fun _ => rfl⟩

theorem State.put_status_left {f : Field} (h : f = CR_STATUS_C.PC ∨ f = CR_STATUS_C.STATE) (v : Nat) : s.CrierLeft (s.put f c.ix v) c := by
  refine ⟨.put f v, fun g hp hs i => State.get_put_beside ?_ _ _ _, rfl, rfl, rfl, rfl, fun _ => rfl⟩
  rcases h with rfl | rfl
  · exact hp
  · exact hs

theorem State.crierDone_left (n d pc : Nat) : s.CrierLeft (s.crierDone c n d pc) c :=
  ((State.put_status_left (.inl rfl) _).trans (State.put_status_left (.inr rfl) _)).trans (.of_setCrier rfl rfl rfl rfl fun _ => rfl)

theorem State.crierDone_went (h : s.crierOnly s1 c) {pc : Nat} (hpc : pc < 64) : s.crierWent (s1.crierDone c n (cDelay w) pc) c w n pc := by
  refine ⟨?_, ?_, ?_, ?_, h.trans (State.crierDone_left _ _ _).only⟩
  · rw [State.crierDone, State.updC, State.setCrier_get, State.get_put_beside (by decide), State.get_put_self _ _ _ _ (by decide) (by decide)]
    exact Nat.mod_eq_of_lt hpc
  · rw [State.crierDone, State.updC, State.setCrier_get, State.get_put_self _ _ _ _ (by decide) (by decide)]
    rfl
  · rw [State.crierDone, State.updC, State.crier_self]
  · rw [State.crierDone, State.updC, State.crier_self]

/-- The end of a cycle in which the crier stalls. -/
def State.crierWaits (s : State) (c : CrierId) (n code : Nat) : State :=
  (s.put CR_STATUS_C.STATE c.ix code).updC c (fun r => { r with next := n + 1, stalled := some (r.stalled.getD n) })

theorem State.crierWaits_left (n code : Nat) : s.CrierLeft (s.crierWaits c n code) c :=
  (State.put_status_left (.inr rfl) _).trans (.of_setCrier rfl rfl rfl rfl fun _ => rfl)

theorem State.crierWaits_stalls (h : s.crierOnly s1 c) (hpc : s1.get CR_STATUS_C.PC c.ix = s.get CR_STATUS_C.PC c.ix) {code : Nat} (hc : code < 8) :
    s.crierStalls (s1.crierWaits c n code) c n code := by
  refine ⟨?_, ?_, ?_, ?_, h.trans (State.crierWaits_left _ _).only⟩
  · rw [State.crierWaits, State.updC, State.setCrier_get, State.get_put_beside (by decide), hpc]
  · rw [State.crierWaits, State.updC, State.setCrier_get, State.get_put_self _ _ _ _ (by decide) (by decide)]
    exact Nat.mod_eq_of_lt hc
  · rw [State.crierWaits, State.updC, State.crier_self]
  · rw [State.crierWaits, State.updC, State.crier_self, Option.isSome_some]

theorem State.crierWent.only {pc : Nat} (h : s.crierWent s' c w n pc) : s.crierOnly s' c := by
  obtain ⟨-, -, -, -, only⟩ := h
  exact only

theorem State.crierNext.only (h : s.crierNext s' c w n) : s.crierOnly s' c := State.crierWent.only h

theorem State.crierStalls.only {code : Nat} (h : s.crierStalls s' c n code) : s.crierOnly s' c := by
  obtain ⟨-, -, -, -, only⟩ := h
  exact only

theorem State.crierWent.padsKept {u : State} {pc : Nat} (h : s.crierWent u c w n pc) (k : u.PadsKept s') : s.crierWent s' c w n pc := by
  have only := h.only.trans k.crierOnly
  obtain ⟨hpc, state, next, stalled, -⟩ := h
  obtain ⟨⟨_, _, rfl⟩, -⟩ := k
  exact ⟨hpc, state, next, stalled, only⟩

theorem State.crierStalls.padsKept {u : State} {code : Nat} (h : s.crierStalls u c n code) (k : u.PadsKept s') : s.crierStalls s' c n code := by
  have only := h.only.trans k.crierOnly
  obtain ⟨hpc, state, next, stalled, -⟩ := h
  obtain ⟨⟨_, _, rfl⟩, -⟩ := k
  exact ⟨hpc, state, next, stalled, only⟩

theorem State.crierNextPc_lt (s : State) (c : CrierId) (pc : Nat) : s.crierNextPc c pc < 64 := by
  unfold State.crierNextPc
  split
  · exact s.get_lt CR_EXEC.WRAP_BASE c.ix
  · exact Nat.mod_lt _ (by decide)

theorem State.CrierFinds.crierNextPc {u : State} (h : s.CrierFinds u c) (pc : Nat) : u.crierNextPc c pc = s.crierNextPc c pc := by
  simp only [State.crierNextPc, h.get CR_EXEC.WRAP_TOP (by decide), h.get CR_EXEC.WRAP_BASE (by decide)]

/-! ## The three results of a body -/

section

variable (legal : crierLegal w = true)
  (clean : s.errorIn (.crierPage c.h c.b (s.brPage c.h c.b)) (4 * s.get CR_STATUS_C.PC c.ix) 3 = none) {body : State → CrRes}
include legal clean

theorem State.crierExec_done (hb : body (s.crierAt c n w lv) = .done s1) (ho : (s.crierAt c n w lv).crierOnly s1 c) :
    s.crierNext (s.crierExec c n w lv body) c w n ∧ s1.CrierLeft (s.crierExec c n w lv body) c := by
  have finds := s.crierAt_finds c n w lv
  have cued := s1.cued_left (s.crierAt c n w lv) c w n (crierDests w ((s.crierAt c n w lv).get CR_CRC_CFG.MODE c.ix))
  rw [State.crierExec_eq legal clean, hb, State.crierEnds, finds.crierNextPc]
  have edges := fun (u : State) => u.ssiEdges_padsKept c.h c.b n ((s.crierAt c n w lv).cycleStart c.h c.b (n + 1))
  exact ⟨(State.crierDone_went ((finds.only.trans ho).trans cued.only) (s.crierNextPc_lt _ _)).padsKept (edges _),
    (cued.trans (State.crierDone_left _ _ _)).trans (.of_padsKept (edges _))⟩

theorem State.crierExec_jump {t : Nat} (hb : body (s.crierAt c n w lv) = .jump s1 t) (ho : (s.crierAt c n w lv).crierOnly s1 c) :
    s.crierWent (s.crierExec c n w lv body) c w n (t % 64) ∧ s1.CrierLeft (s.crierExec c n w lv body) c := by
  have finds := s.crierAt_finds c n w lv
  have cued := s1.cued_left (s.crierAt c n w lv) c w n (crierDests w ((s.crierAt c n w lv).get CR_CRC_CFG.MODE c.ix))
  rw [State.crierExec_eq legal clean, hb, State.crierEnds]
  have edges := fun (u : State) => u.ssiEdges_padsKept c.h c.b n ((s.crierAt c n w lv).cycleStart c.h c.b (n + 1))
  exact ⟨(State.crierDone_went ((finds.only.trans ho).trans cued.only) (Nat.mod_lt _ (by decide))).padsKept (edges _),
    (cued.trans (State.crierDone_left _ _ _)).trans (.of_padsKept (edges _))⟩

theorem State.crierExec_stall {code : Nat} (hc : code < 8) (hb : body (s.crierAt c n w lv) = .stall s1 code)
    (ho : (s.crierAt c n w lv).crierOnly s1 c) (hpc : s1.get CR_STATUS_C.PC c.ix = s.get CR_STATUS_C.PC c.ix) :
    s.crierStalls (s.crierExec c n w lv body) c n code ∧ s1.CrierLeft (s.crierExec c n w lv body) c := by
  have finds := s.crierAt_finds c n w lv
  have cued := s1.cued_left (s.crierAt c n w lv) c w n []
  rw [State.crierExec_eq legal clean, hb, State.crierEnds]
  have edges := fun (u : State) => u.ssiEdges_padsKept c.h c.b n ((s.crierAt c n w lv).cycleStart c.h c.b (n + 1))
  exact ⟨(State.crierWaits_stalls ((finds.only.trans ho).trans cued.only) hpc hc).padsKept (edges _),
    (cued.trans (State.crierWaits_left _ _)).trans (.of_padsKept (edges _))⟩

end

/-! ## Something that a crier does, with no port access waiting (R192) -/

theorem State.crierFrom_of_none (free : Tab.find s.crWas c = none) : s.crierFrom c = (s, []) := by
  rw [State.crierFrom, free]

theorem State.atCycle_some {pick : State → Option Nat} {f : Nat → State → Option State} (free : Tab.find s.crWas c = none)
    (hp : pick s = some n) (hf : f n s = some s1) (only : s.crierOnly s1 c) : s.atCycle c pick f = s1 := by
  have same : Tab.del s1.crWas c = s1.crWas := Tab.del_of_find_none (by rw [only.crWas, free])
  simp only [State.atCycle, State.crierFrom_of_none free, State.opsDue, hp, Option.map_some, List.take_nil, List.drop_nil, forAll, List.foldl_nil,
    hf, List.isEmpty_nil, if_true, same]

theorem State.atCycle_none {pick : State → Option Nat} {f : Nat → State → Option State} (free : Tab.find s.crWas c = none)
    (hp : pick s = some n) (hf : f n s = none) : s.atCycle c pick f = s := by
  simp only [State.atCycle, State.crierFrom_of_none free, State.opsDue, hp, Option.map_some, List.take_nil, forAll, List.foldl_nil, hf]

/-! ## An attempt that issues -/

/-- The state in which the instruction of an attempt acts. -/
def State.crierActs (s : State) (c : CrierId) (w n : Nat) (pads : Byte) : State :=
  s.crierAt c n w (some (s.crierPads c.h c.b n pads))

namespace State.CrierIssues

variable {row : Nat} (h : s.CrierIssues c row w n) {pads : Byte}

include h

theorem issue_eq {body : Nat → Nat → Nat → State → CrRes}
    (only : s.crierOnly (s.crierExec c n w (some (s.crierPads c.h c.b n pads)) (body w (s.crierPads c.h c.b n pads) n)) c) :
    s.crierIssue c pads row body = s.crierExec c n w (some (s.crierPads c.h c.b n pads)) (body w (s.crierPads c.h c.b n pads) n) := by
  refine State.atCycle_some h.ports h.slot ?_ only
  simp only [State.crierTry, h.word, h.row, ne_eq, not_true_eq_false, if_false]

variable {u : State} (hu : s.crierActs c w n pads = u) {P : State → Prop} {body : Nat → Nat → Nat → State → CrRes}
include hu

/-- An instruction that completes: what holds of every state that the rest of the cycle may leave holds afterwards. -/
theorem done (hb : body w (s.crierPads c.h c.b n pads) n u = .done s1) (only : u.crierOnly s1 c) (hP : ∀ s', s1.CrierLeft s' c → P s') :
    ∃ s', (.next (s.crierIssue c pads row body) : Out) = .next s' ∧ s.crierNext s' c w n ∧ P s' := by
  subst hu
  obtain ⟨went, left⟩ := State.crierExec_done h.legal h.clean hb only
  exact ⟨_, congrArg _ (h.issue_eq went.only), went, hP _ left⟩

theorem jump {t : Nat} (hb : body w (s.crierPads c.h c.b n pads) n u = .jump s1 t) (only : u.crierOnly s1 c)
    (hP : ∀ s', s1.CrierLeft s' c → P s') :
    ∃ s', (.next (s.crierIssue c pads row body) : Out) = .next s' ∧ s.crierWent s' c w n (t % 64) ∧ P s' := by
  subst hu
  obtain ⟨went, left⟩ := State.crierExec_jump h.legal h.clean hb only
  exact ⟨_, congrArg _ (h.issue_eq went.only), went, hP _ left⟩

theorem stall {code : Nat} (hc : code < 8) (hb : body w (s.crierPads c.h c.b n pads) n u = .stall s1 code) (only : u.crierOnly s1 c)
    (hpc : s1.get CR_STATUS_C.PC c.ix = u.get CR_STATUS_C.PC c.ix) (hP : ∀ s', s1.CrierLeft s' c → P s') :
    ∃ s', (.next (s.crierIssue c pads row body) : Out) = .next s' ∧ s.crierStalls s' c n code ∧ P s' := by
  subst hu
  obtain ⟨stalls, left⟩ := State.crierExec_stall h.legal h.clean hc hb only (hpc.trans ((s.crierAt_finds c n w _).get _ (by decide) _))
  exact ⟨_, congrArg _ (h.issue_eq stalls.only), stalls, hP _ left⟩

end State.CrierIssues

end Sys2Proof.Machine
end

section
/-! SUPPORT. The values that crier instructions shift, spread over pins, gather from them and reverse (R183, R184, R187), bit by bit. -/

namespace Sys2Proof.Machine

/-- One bit of a number set. -/
theorem bit_setBits_one (x q : Nat) (b : Bool) (p : Nat) : bit (setBits x q q (b2n b)) p = if p = q then b else bit x p := by
  rw [bit_testBit, bit_testBit, testBit_setBits _ _ _ _ _ (Nat.le_refl q)]
  by_cases e : p = q
  · subst e
    cases b <;> simp [b2n]
  · have : ¬(q ≤ p ∧ p ≤ q) := by omega
    simp [e, this]

/-- A value over pin positions from a base on: each position in reach has the bit of its distance from the base. -/
theorem bit_spread {base p : Nat} (old count v : Nat) (hb : base < 8) (hp : p < 8) :
    bit (spread old base count v) p = if (p + 8 - base) % 8 < count then bit v ((p + 8 - base) % 8) else bit old p := by
  have upTo : ∀ k ≤ 8, bit ((List.range k).foldl (fun acc k => setBits acc ((base + k) % 8) ((base + k) % 8) (b2n (bit v k))) old) p =
      if (p + 8 - base) % 8 < k then bit v ((p + 8 - base) % 8) else bit old p := by
    intro k hk
    induction k with
    | zero => rfl
    | succ k ih =>
      rw [List.range_succ, List.foldl_append, List.foldl_cons, List.foldl_nil, bit_setBits_one, ih (by omega)]
      by_cases e : (p + 8 - base) % 8 = k
      · rw [if_pos (by omega), if_pos (by omega), e]
      · rw [if_neg (by omega)]
        exact if_congr (by omega) rfl rfl
  rw [spread, upTo _ (Nat.min_le_right _ _)]
  exact if_congr (by omega) rfl rfl

/-- A bit above a number that it is added to. -/
theorem testBit_add_b2n {x n : Nat} (b : Bool) (h : x < 2 ^ n) (k : Nat) :
    (x + b2n b * 2 ^ n).testBit k = if k = n then b else x.testBit k := by
  rw [Nat.add_comm, ← Nat.shiftLeft_eq, Nat.shiftLeft_add_eq_or_of_lt h, Nat.testBit_or, Nat.testBit_shiftLeft]
  rcases Nat.lt_trichotomy k n with lt | rfl | gt
  · have : ¬ n ≤ k := by omega
    simp [this, lt.ne]
  · rw [Nat.testBit_lt_two_pow h]
    cases b <;> simp [b2n]
  · obtain ⟨j, rfl⟩ : ∃ j, k = n + (j + 1) := ⟨k - n - 1, by omega⟩
    have small : b2n b < 2 ^ (j + 1) := by
      have := Nat.one_le_two_pow (n := j)
      have : b2n b < 2 := by cases b <;> decide
      rw [Nat.pow_succ]
      omega
    simp [Nat.testBit_lt_two_pow small]

/-- Levels gathered from pins: the number of `n` bits with one bit for each of them. -/
theorem gather_spec (levels base n : Nat) :
    gather levels base n < 2 ^ n ∧ ∀ k < n, bit (gather levels base n) k = bit levels ((base + k) % 8) := by
  induction n with
  | zero => exact ⟨Nat.one_pos, fun k hk => absurd hk (Nat.not_lt_zero k)⟩
  | succ n ih =>
    obtain ⟨lt, bits⟩ := ih
    have step : gather levels base (n + 1) = gather levels base n + b2n (bit levels ((base + n) % 8)) * 2 ^ n := by
      rw [gather, List.range_succ, List.foldl_append]
      rfl
    rw [step]
    refine ⟨?_, fun k hk => ?_⟩
    · have := Nat.pow_succ 2 n
      cases bit levels ((base + n) % 8) <;> simp [b2n] <;> omega
    · rw [bit_testBit, testBit_add_b2n _ lt]
      split
      next e => rw [e]
      next e => rw [← bit_testBit, bits k (by omega)]

/-- The bits of a value in reversed order. -/
theorem reverseBits_spec (v n : Nat) : reverseBits n v < 2 ^ n ∧ ∀ k < n, bit (reverseBits n v) k = bit v (n - 1 - k) := by
  induction n with
  | zero => exact ⟨Nat.one_pos, fun k hk => absurd hk (Nat.not_lt_zero k)⟩
  | succ n ih =>
    obtain ⟨lt, bits⟩ := ih
    have step : reverseBits (n + 1) v = reverseBits n v * 2 + b2n (bit v n) := by
      rw [reverseBits, List.range_succ, List.foldl_append]
      rfl
    have hb : b2n (bit v n) < 2 := by cases bit v n <;> decide
    rw [step]
    refine ⟨by have := Nat.pow_succ 2 n; omega, fun k hk => ?_⟩
    cases k with
    | zero =>
      rw [bit_eq, Nat.pow_zero, Nat.div_one, show n + 1 - 1 - 0 = n from rfl]
      cases bit v n <;> simp [b2n]
    | succ k =>
      rw [bit_testBit, Nat.testBit_succ, show (reverseBits n v * 2 + b2n (bit v n)) / 2 = reverseBits n v by omega, ← bit_testBit,
        bits k (by omega)]
      congr 1
      omega

/-- A bit fed into a CRC leaves a CRC of the width. -/
theorem crcFeed_lt (n poly crc : Nat) (b : Bool) : crcFeed n poly crc b < 2 ^ n := by
  have shifted : crc * 2 % 2 ^ n < 2 ^ n := Nat.mod_lt _ (Nat.two_pow_pos n)
  unfold crcFeed
  dsimp only
  split
  · exact Nat.xor_lt_two_pow shifted (Nat.mod_lt _ (Nat.two_pow_pos n))
  · exact shifted

theorem foldl_crcFeed_lt {n crc : Nat} (poly : Nat) (bs : List Bool) (h : crc < 2 ^ n) : bs.foldl (crcFeed n poly) crc < 2 ^ n := by
  induction bs generalizing crc with
  | nil => exact h
  | cons b bs ih => exact ih (crcFeed_lt n poly crc b)

/-- `n` bits shifted into one end of a register of 64 bits. -/
theorem shiftedIn_lt {i x n : Nat} (right : Bool) (hi : i < 2 ^ 64) (hx : x < 2 ^ n) (hn : n ≤ 64) :
    (if right then i / 2 ^ n + x * 2 ^ (64 - n) else i * 2 ^ n % 2 ^ 64 + x) < 2 ^ 64 := by
  have split : 2 ^ n * 2 ^ (64 - n) = 2 ^ 64 := by rw [← Nat.pow_add, Nat.add_sub_cancel' hn]
  cases right
  · rw [if_neg (by decide), ← split, Nat.mul_comm i, Nat.mul_mod_mul_left]
    have : i % 2 ^ (64 - n) < 2 ^ (64 - n) := Nat.mod_lt _ (Nat.two_pow_pos _)
    calc 2 ^ n * (i % 2 ^ (64 - n)) + x < 2 ^ n * (i % 2 ^ (64 - n)) + 2 ^ n := by omega
      _ = 2 ^ n * (i % 2 ^ (64 - n) + 1) := by ring
      _ ≤ 2 ^ n * 2 ^ (64 - n) := Nat.mul_le_mul_left _ this
  · rw [if_pos rfl, ← split]
    have : i / 2 ^ n < 2 ^ (64 - n) := by rw [Nat.div_lt_iff_lt_mul (Nat.two_pow_pos n), Nat.mul_comm, split]; exact hi
    calc i / 2 ^ n + x * 2 ^ (64 - n) < 2 ^ (64 - n) + x * 2 ^ (64 - n) := by omega
      _ = (x + 1) * 2 ^ (64 - n) := by ring
      _ ≤ 2 ^ n * 2 ^ (64 - n) := Nat.mul_le_mul_right _ hx

end Sys2Proof.Machine
end

section
/-! SUPPORT. The shifters, the CRC and the pins of a crier (R183 to R188): what reads the same in the cycle of an instruction, and what each of
the shared operations leaves. -/

namespace Sys2Proof.Machine

variable {s u : State} {c : CrierId}

/-! ## What an instruction reads -/

namespace State.CrierFinds

variable (h : s.CrierFinds u c)
include h

theorem cx : u.cx c = s.cx c := h.get _ (by decide) _
theorem cy : u.cy c = s.cy c := h.get _ (by decide) _
theorem osh : u.osh c = s.osh c := h.get _ (by decide) _
theorem ish : u.ish c = s.ish c := h.get _ (by decide) _
theorem oshLeft : u.oshLeft c = s.oshLeft c := h.get _ (by decide) _
theorem ishFill : u.ishFill c = s.ishFill c := h.get _ (by decide) _
theorem outRight : u.outRight c = s.outRight c := h.is _ (by decide) _
theorem inRight : u.inRight c = s.inRight c := h.is _ (by decide) _
theorem spillAt : u.spillAt c = s.spillAt c := by simp only [State.spillAt, h.get CR_SHIFT.SPILL_AT (by decide)]
theorem crcW : u.crcW c = s.crcW c := by simp only [State.crcW, h.get CR_CRC_CFG.WIDTH (by decide)]
theorem crc : u.crc c = s.crc c := by simp only [State.crc, h.crcW, h.get CR_CRC_VAL.VAL (by decide)]
theorem rxCap : u.rxCap c = s.rxCap c := by simp only [State.rxCap, h.get CR_FIFO.JOIN (by decide)]
theorem ishEntries : u.ishEntries c = s.ishEntries c := by simp only [State.ishEntries, h.ish, h.ishFill, h.inRight]
theorem pushRoom : u.pushRoom c = s.pushRoom c := by
  simp only [State.pushRoom, h.is CR_FIFO.RX_ROUTE (by decide), h.rx, h.ishEntries, h.rxCap]
theorem moveSrc (src lv : Nat) : u.moveSrc c src lv = s.moveSrc c src lv := by
  simp only [State.moveSrc, h.get CR_PINS.IN_BASE (by decide), h.cx, h.cy, h.ish, h.osh, h.inRight, h.outRight, h.crc, h.ishFill, h.oshLeft,
    h.rx, h.tx]

end State.CrierFinds

theorem State.crierActs_finds (s : State) (c : CrierId) (w n : Nat) (pads : Byte) : s.CrierFinds (s.crierActs c w n pads) c :=
  s.crierAt_finds c n w _

/-! ## The shifters -/

theorem State.loadOsh_get {f : Field} (h1 : f.Beside CR_OSH.OSH) (h2 : f.Beside CR_SCNT.OSH_LEFT) (v n : Nat) (i : Ix) :
    (s.loadOsh c v n).get f i = s.get f i := by
  rw [State.loadOsh, State.get_put_beside h2, State.get_put_beside h1]

theorem State.loadOsh_osh (v n : Nat) : (s.loadOsh c v n).osh c = v % 2 ^ 64 := by
  rw [State.loadOsh, State.osh, State.get_put_beside (by decide), State.get_put_self _ _ _ _ (by decide) (by decide)]
  rfl

theorem State.loadOsh_oshLeft (v n : Nat) : (s.loadOsh c v n).oshLeft c = n % 2 ^ 7 := by
  rw [State.loadOsh, State.oshLeft, State.get_put_self _ _ _ _ (by decide) (by decide)]
  rfl

theorem State.loadIsh_get {f : Field} (h1 : f.Beside CR_ISH.ISH) (h2 : f.Beside CR_SCNT.ISH_FILL) (v n : Nat) (i : Ix) :
    (s.loadIsh c v n).get f i = s.get f i := by
  rw [State.loadIsh, State.get_put_beside h2, State.get_put_beside h1]

theorem State.loadIsh_ish (v n : Nat) : (s.loadIsh c v n).ish c = v % 2 ^ 64 := by
  rw [State.loadIsh, State.ish, State.get_put_beside (by decide), State.get_put_self _ _ _ _ (by decide) (by decide)]
  rfl

theorem State.loadIsh_ishFill (v n : Nat) : (s.loadIsh c v n).ishFill c = n % 2 ^ 7 := by
  rw [State.loadIsh, State.ishFill, State.get_put_self _ _ _ _ (by decide) (by decide)]
  rfl

@[simp] theorem State.loadOsh_crier (v n : Nat) (d : CrierId) : (s.loadOsh c v n).crier d = s.crier d := rfl
@[simp] theorem State.loadIsh_crier (v n : Nat) (d : CrierId) : (s.loadIsh c v n).crier d = s.crier d := rfl

theorem State.osh_lt (s : State) (c : CrierId) : s.osh c < 2 ^ 64 := s.get_lt CR_OSH.OSH c.ix
theorem State.ish_lt (s : State) (c : CrierId) : s.ish c < 2 ^ 64 := s.get_lt CR_ISH.ISH c.ix
theorem State.oshLeft_lt (s : State) (c : CrierId) : s.oshLeft c < 2 ^ 7 := s.get_lt CR_SCNT.OSH_LEFT c.ix
theorem State.cx_lt (s : State) (c : CrierId) : s.cx c < 2 ^ 32 := s.get_lt CR_X.X c.ix
theorem State.cy_lt (s : State) (c : CrierId) : s.cy c < 2 ^ 32 := s.get_lt CR_Y.Y c.ix

theorem State.put_cx (v : Nat) : (s.put CR_X.X c.ix v).cx c = v % 2 ^ 32 := State.get_put_self _ _ _ _ (by decide) (by decide)
theorem State.put_cy (v : Nat) : (s.put CR_Y.Y c.ix v).cy c = v % 2 ^ 32 := State.get_put_self _ _ _ _ (by decide) (by decide)

/-! ## The CRC -/

theorem State.crcW_bounds (s : State) (c : CrierId) : 0 < s.crcW c ∧ s.crcW c ≤ 32 :=
  ⟨Nat.succ_pos _, s.get_lt CR_CRC_CFG.WIDTH c.ix⟩

theorem State.crc_lt (s : State) (c : CrierId) : s.crc c < 2 ^ s.crcW c := Nat.mod_lt _ (Nat.two_pow_pos _)

/-- The CRC register set to a value of its width. -/
theorem State.crc_put {v : Nat} (hv : v < 2 ^ s.crcW c) : (s.put CR_CRC_VAL.VAL c.ix v).crc c = v := by
  have width : (s.put CR_CRC_VAL.VAL c.ix v).crcW c = s.crcW c := by
    simp only [State.crcW, State.get_put_beside (show CR_CRC_CFG.WIDTH.Beside CR_CRC_VAL.VAL by decide)]
  have small : v < 2 ^ 32 := Nat.lt_of_lt_of_le hv (Nat.pow_le_pow_right (by decide) (s.crcW_bounds c).2)
  rw [State.crc, width, State.get_put_self _ _ _ _ (by decide) (by decide)]
  exact (congrArg (· % _) (Nat.mod_eq_of_lt small)).trans (Nat.mod_eq_of_lt hv)

theorem State.feedBits_crc (bs : List Bool) :
    (s.feedBits c bs).crc c = bs.foldl (crcFeed (s.crcW c) (s.get CR_CRC_POLY.POLY c.ix)) (s.crc c) :=
  State.crc_put (foldl_crcFeed_lt _ _ (s.crc_lt c))

theorem State.feedBits_get {f : Field} (h : f.Beside CR_CRC_VAL.VAL) (bs : List Bool) (i : Ix) : (s.feedBits c bs).get f i = s.get f i :=
  State.get_put_beside h _ _ _

/-- The state with bits fed into the CRC where a condition holds. -/
def State.feedIf (s : State) (c : CrierId) (p : Prop) [Decidable p] (bs : List Bool) : State := if p then s.feedBits c bs else s

section

variable {p : Prop} [Decidable p] (bs : List Bool)

theorem State.feedIf_get {f : Field} (h : f.Beside CR_CRC_VAL.VAL) (i : Ix) : (s.feedIf c p bs).get f i = s.get f i := by
  unfold State.feedIf
  split
  · exact State.feedBits_get h bs i
  · rfl

theorem State.feedIf_crier (d : CrierId) : (s.feedIf c p bs).crier d = s.crier d := by
  unfold State.feedIf
  split <;> rfl

theorem State.feedIf_only : s.crierOnly (s.feedIf c p bs) c := by
  unfold State.feedIf
  split
  · exact .put _ _
  · exact .refl s c

end

/-! ## The output pins -/

/-- What an instruction writes to pins: OUT for destination 0, OE for 1, from a base on. -/
def Crier.driven (r : Crier) (dst base count v : Nat) : Crier :=
  match dst with
  | 0 => { r with out := spread r.out base count v }
  | 1 => { r with oe := spread r.oe base count v }
  | _ => r

theorem Crier.driven_out (r : Crier) {base p : Nat} (dst count v : Nat) (hb : base < 8) (hp : p < 8) :
    bit (r.driven dst base count v).out p =
      if dst = 0 ∧ decide ((p + 8 - base) % 8 < count) then bit v ((p + 8 - base) % 8) else bit r.out p := by
  match dst with
  | 0 => simp only [Crier.driven, bit_spread _ _ _ hb hp, true_and, decide_eq_true_eq]
  | 1 => simp [Crier.driven]
  | n + 2 => simp [Crier.driven]

theorem Crier.driven_oe (r : Crier) {base p : Nat} (dst count v : Nat) (hb : base < 8) (hp : p < 8) :
    bit (r.driven dst base count v).oe p =
      if dst = 1 ∧ decide ((p + 8 - base) % 8 < count) then bit v ((p + 8 - base) % 8) else bit r.oe p := by
  match dst with
  | 0 => simp [Crier.driven]
  | 1 => simp only [Crier.driven, bit_spread _ _ _ hb hp, true_and, decide_eq_true_eq]
  | n + 2 => simp [Crier.driven]

end Sys2Proof.Machine
end

section
/-! SUPPORT. The crier instructions on FIFOs, pace and CRC (R186 to R188, R190): the proof of O41. -/

namespace Sys2Proof.Machine

variable {s : State} {c : CrierId}

/-! ## FIFOs -/

/-- The entries of a PUSH as words. -/
theorem State.ishEntries_words (s : State) (c : CrierId) : (s.ishEntries c).map (BitVec.ofNat 32) =
    if s.ishFill c ≤ 32 then [if s.is CR_SHIFT.IN_DIR c.ix then BitVec.ofNat 32 (s.ish c / 2 ^ 32) else BitVec.ofNat 32 (s.ish c)]
    else if s.is CR_SHIFT.IN_DIR c.ix then [BitVec.ofNat 32 (s.ish c), BitVec.ofNat 32 (s.ish c / 2 ^ 32)]
    else [BitVec.ofNat 32 (s.ish c / 2 ^ 32), BitVec.ofNat 32 (s.ish c)] := by
  have low : BitVec.ofNat 32 (s.ish c % 2 ^ 32) = BitVec.ofNat 32 (s.ish c) := by
    apply BitVec.eq_of_toNat_eq
    rw [BitVec.toNat_ofNat, BitVec.toNat_ofNat, Nat.mod_mod]
  unfold State.ishEntries State.inRight
  split
  · split <;> simp only [List.map_cons, List.map_nil, low]
  · split <;> simp only [List.map_cons, List.map_nil, low]

section

variable (route : s.is CR_FIFO.RX_ROUTE c.ix = false) (at_ : Nat)

include route in
theorem State.deliverEntries_eq (es : List Nat) :
    s.deliverEntries c es at_ = s.updC c (fun r => { r with rx := r.rx ++ es.map (BitVec.ofNat 32) }) := by
  rw [State.deliverEntries, route]
  rfl

include route in
theorem State.doPush_only : s.crierOnly (s.doPush c at_) c := by
  rw [State.doPush, State.deliverEntries_eq route]
  exact (State.crierOnly.updC _).trans (.loadIsh _ _)

include route in
theorem State.doPush_rx : ((s.doPush c at_).crier c).rx = (s.crier c).rx ++ (s.ishEntries c).map (BitVec.ofNat 32) := by
  rw [State.doPush, State.loadIsh_crier, State.deliverEntries_eq route, State.updC, State.crier_self]

theorem State.doPush_ish : (s.doPush c at_).ish c = 0 := State.loadIsh_ish 0 0

theorem State.doPush_ishFill : (s.doPush c at_).ishFill c = 0 := State.loadIsh_ishFill 0 0

end

theorem State.dropPush_only : s.crierOnly (s.dropPush c) c := (State.crierOnly.loadIsh _ _).trans (.set _ _)

theorem State.dropPush_get {f : Field} (hf : f.Beside CR_STATUS_C.RX_OVER) (i : Ix) : (s.dropPush c).get f i = (s.loadIsh c 0 0).get f i :=
  State.get_set_beside hf _ _ _

theorem State.doPull_only (n : Nat) : s.crierOnly (s.doPull c n) c := (State.crierOnly.updC _).trans (.loadOsh _ _)

theorem State.doPull_tx (n : Nat) : ((s.doPull c n).crier c).tx = (s.crier c).tx.drop n := by
  rw [State.doPull, State.loadOsh_crier, State.updC, State.crier_self]

theorem State.doPull_oshLeft (n : Nat) : (s.doPull c n).oshLeft c = 32 * n % 2 ^ 7 := State.loadOsh_oshLeft _ _

theorem State.doPull_osh_one {x : Word} {rest : List Word} (htx : (s.crier c).tx = x :: rest) :
    (s.doPull c 1).osh c = if s.is CR_SHIFT.OUT_DIR c.ix then x.toNat else x.toNat * 2 ^ 32 := by
  have hx : x.toNat < 2 ^ 32 := x.isLt
  refine (State.loadOsh_osh _ _).trans ?_
  simp only [htx, State.outRight, List.getElem?_cons_zero, Option.getD_some]
  split <;> simp <;> omega

theorem State.doPull_osh_two {x y : Word} {rest : List Word} (htx : (s.crier c).tx = x :: y :: rest) :
    (s.doPull c 2).osh c = if s.is CR_SHIFT.OUT_DIR c.ix then y.toNat * 2 ^ 32 + x.toNat else x.toNat * 2 ^ 32 + y.toNat := by
  have hx : x.toNat < 2 ^ 32 := x.isLt
  have hy : y.toNat < 2 ^ 32 := y.isLt
  refine (State.loadOsh_osh _ _).trans ?_
  simp only [htx, State.outRight, List.getElem?_cons_zero, List.getElem?_cons_succ, Option.getD_some]
  split <;> simp <;> omega

/-! ## PACE (R186) -/

theorem State.setBt_bt (v n : Nat) : (s.setBt c v n).get CR_PACE.BT c.ix = v % 65536 := by
  rw [State.setBt, State.updC, State.setCrier_get, State.get_put_self _ _ _ _ (by decide) (by decide)]
  rfl

theorem State.setBt_period (v n : Nat) : (s.setBt c v n).get CR_PACE.PERIOD c.ix = s.get CR_PACE.PERIOD c.ix := by
  rw [State.setBt, State.updC, State.setCrier_get, State.get_put_beside (by decide)]

theorem State.setBt_btAt (v n : Nat) : ((s.setBt c v n).crier c).btAt = n := by rw [State.setBt, State.updC, State.crier_self]

theorem State.put_period (v : Nat) : (s.put CR_PACE.PERIOD c.ix v).get CR_PACE.PERIOD c.ix = v % 65536 :=
  State.get_put_self _ _ _ _ (by decide) (by decide)

/-- PERIOD set to `p`, and BT to start from it in cycle `n`. -/
def State.setPeriod (s : State) (c : CrierId) (p n : Nat) : State :=
  (s.put CR_PACE.PERIOD c.ix p).setBt c ((s.put CR_PACE.PERIOD c.ix p).period c - 1) n

theorem State.setPeriod_only (p n : Nat) : s.crierOnly (s.setPeriod c p n) c := (State.crierOnly.put _ _).trans (.setBt _ _)

theorem State.setPeriod_period {p : Nat} (hp : p < 65536) (n : Nat) : (s.setPeriod c p n).get CR_PACE.PERIOD c.ix = p := by
  rw [State.setPeriod, State.setBt_period, State.put_period, Nat.mod_eq_of_lt hp]

theorem State.setPeriod_bt {p : Nat} (hp : p < 65536) (n : Nat) :
    (s.setPeriod c p n).get CR_PACE.BT c.ix = (if p = 0 then 65536 else p) - 1 := by
  rw [State.setPeriod, State.setBt_bt, State.period, State.put_period, Nat.mod_eq_of_lt hp]
  split <;> omega

/-! ## CRC (R187) -/

/-- CRC INSERT (R187): OSH holds the CRC register so that its top bit is sent first. -/
def State.crcInserted (s : State) (c : CrierId) : State :=
  s.loadOsh c (if s.outRight c then reverseBits (s.crcW c) (s.crc c) else s.crc c * 2 ^ (64 - s.crcW c)) (s.crcW c)

theorem State.crcInserted_oshLeft : (s.crcInserted c).oshLeft c = s.crcW c := by
  have := s.crcW_bounds c
  exact (State.loadOsh_oshLeft _ _).trans (Nat.mod_eq_of_lt (by omega))

theorem State.crcInserted_bit {k : Nat} (hk : k < s.crcW c) :
    bit ((s.crcInserted c).osh c) (if s.outRight c then k else 63 - k) = bit (s.crc c) (s.crcW c - 1 - k) := by
  have width := (s.crcW_bounds c).2
  rw [State.crcInserted, State.loadOsh_osh]
  cases s.outRight c
  · simp only [Bool.false_eq_true, if_false]
    rw [bit_testBit, Nat.testBit_mod_two_pow, ← Nat.shiftLeft_eq, Nat.testBit_shiftLeft, bit_testBit]
    have in64 : 63 - k < 64 := by omega
    have above : 64 - s.crcW c ≤ 63 - k := by omega
    have place : 63 - k - (64 - s.crcW c) = s.crcW c - 1 - k := by omega
    simp only [in64, above, place, decide_true, Bool.true_and]
  · obtain ⟨lt, bits⟩ := reverseBits_spec (s.crc c) (s.crcW c)
    simp only [if_true]
    rw [Nat.mod_eq_of_lt (Nat.lt_of_lt_of_le lt (Nat.pow_le_pow_right (by decide) (by omega))), bits k hk]

end Sys2Proof.Machine

namespace Sys2Proof.Proofs

open Sys2Proof.Machine

theorem crierFifoInstructions : Claims.CrierFifoInstructions := by
  intro s c w m pads hi lo right es room tx skip
  have finds := s.crierActs_finds c w m pads
  generalize hu : s.crierActs c w m pads = u at finds
  have words : (u.ishEntries c).map (BitVec.ofNat 32) = es := by rw [finds.ishEntries, s.ishEntries_words]
  have skips : (bit w 1 && decide (u.ishFill c < u.spillAt c)) = true ↔ skip := by
    rw [finds.ishFill, finds.spillAt, Bool.and_eq_true, decide_eq_true_eq]
  have keeps : (bit w 1 && u.oshLeft c != 0) = true ↔ bit w 1 = true ∧ s.oshLeft c ≠ 0 := by
    rw [finds.oshLeft, Bool.and_eq_true, bne_iff_ne]
  refine ⟨fun h route => ?_, fun h => ?_⟩
  · have rooms : u.pushRoom c = true ↔ room := by
      have len : (s.ishEntries c).length = es.length := by rw [← words, finds.ishEntries, List.length_map]
      rw [finds.pushRoom, State.pushRoom, route, Bool.false_or, decide_eq_true_eq, len]
    refine ⟨fun sk => ?_, fun sk hr => ?_, fun sk hr nowait => ?_, fun sk hr nowait => ?_⟩
    · refine h.done hu (s1 := u) (by rw [if_pos (skips.mpr sk)]) (.refl u c) fun s' left => ⟨?_, ?_⟩
      · rw [left.ish, finds.ish]
      · rw [left.rx, finds.rx]
    · have route : u.is CR_FIFO.RX_ROUTE c.ix = false := (finds.is _ (by decide) _).trans route
      refine h.done hu (s1 := u.doPush c (u.cycleStart c.h c.b m)) (by rw [if_neg (mt skips.mp sk), if_pos (rooms.mpr hr)])
        (State.doPush_only route _) fun s' left => ⟨?_, ?_, ?_⟩
      · rw [left.ish, State.doPush_ish]
      · rw [left.ishFill, State.doPush_ishFill]
      · rw [left.rx, State.doPush_rx route, words, finds.rx]
    · refine h.done hu (s1 := u.dropPush c) (by rw [if_neg (mt skips.mp sk), if_neg (mt rooms.mp hr), if_pos nowait])
        (State.dropPush_only) fun s' left => ⟨?_, ?_, ?_, ?_⟩
      · rw [left.ish]
        exact (State.dropPush_get (by decide) _).trans (State.loadIsh_ish 0 0)
      · rw [left.ishFill]
        exact (State.dropPush_get (by decide) _).trans (State.loadIsh_ishFill 0 0)
      · rw [left.rx]
        exact finds.rx
      · rw [left.is _ (by decide) (by decide)]
        exact State.is_set_self _ _ _ _ rfl (by decide)
    · refine h.stall hu (s1 := u) (by decide) (by rw [if_neg (mt skips.mp sk), if_neg (mt rooms.mp hr), nowait]; rfl)
        (.refl u c) rfl fun s' left => ?_
      rw [left.ish, finds.ish]
  · refine ⟨fun ne full => ?_, fun x rest htx one sk => ?_, fun x y rest htx two sk => ?_, fun htx nowait sk => ?_⟩
    · refine h.done hu (s1 := u) (by rw [if_pos (keeps.mpr ⟨ne, full⟩)]) (.refl u c) fun s' left => ?_
      rw [left.osh, finds.osh]
    all_goals
      have pulls : ¬(bit w 1 && u.oshLeft c != 0) = true := mt keeps.mp fun k => sk.elim (fun e => by simp [e] at k) k.2
      have fifo := finds.tx.trans htx
    · refine h.done hu (s1 := u.doPull c 1) (by simp only [if_neg pulls, one, fifo]; rfl) (State.doPull_only 1) fun s' left => ⟨?_, ?_, ?_⟩
      · rw [left.tx, State.doPull_tx, fifo, List.drop_one, List.tail_cons]
      · exact left.oshLeft.trans (State.doPull_oshLeft _)
      · rw [left.osh, State.doPull_osh_one fifo, finds.is CR_SHIFT.OUT_DIR (by decide)]
    · refine h.done hu (s1 := u.doPull c 2) (by simp only [if_neg pulls, two, fifo]; rfl) (State.doPull_only 2) fun s' left => ⟨?_, ?_, ?_⟩
      · rw [left.tx, State.doPull_tx, fifo]
        rfl
      · exact left.oshLeft.trans (State.doPull_oshLeft _)
      · rw [left.osh, State.doPull_osh_two fifo, finds.is CR_SHIFT.OUT_DIR (by decide)]
    · have empty : ¬(if bit w 2 = true then 2 else 1) ≤ (u.crier c).tx.length := by rw [fifo]; split <;> simp
      refine h.stall hu (s1 := u) (by decide) (by simp only [if_neg pulls, if_neg empty, nowait]; rfl) (.refl u c) rfl fun s' left => ?_
      rw [left.osh, finds.osh]

theorem crierPaceAndCrc : Claims.CrierPaceAndCrc := by
  intro s c w m pads imm x width mode
  have finds := s.crierActs_finds c w m pads
  generalize hu : s.crierActs c w m pads = u at finds
  refine ⟨fun h => ?_, fun h => ?_, fun h => ?_, fun h => ?_, fun h => ?_, fun h => ?_, fun h => ?_⟩
  · have hx : s.cx c % 65536 < 65536 := Nat.mod_lt _ (by decide)
    have himm : imm < 1024 := Nat.mod_lt _ (by decide)
    have imm_eq : bits w 9 0 = imm := bits_low w 9
    have field : bits w 11 10 = w / 2 ^ 10 % 4 := bits_eq_div w 11 10
    have cases4 : w / 2 ^ 10 % 4 = 0 ∨ w / 2 ^ 10 % 4 = 1 ∨ w / 2 ^ 10 % 4 = 2 ∨ w / 2 ^ 10 % 4 = 3 := by omega
    rcases cases4 with k | k | k | k
    · refine h.done hu (s1 := u.setPeriod c (s.cx c % 65536) (m + 1)) (by rw [field, k, ← finds.cx]; rfl) (State.setPeriod_only _ _)
        fun s' left => ⟨left.btAt.trans (State.setBt_btAt _ _), fun _ => ⟨?_, ?_⟩, by omega, by omega, by omega⟩
      · rw [left.get _ (by decide) (by decide), State.setPeriod_period hx]
      · rw [left.get _ (by decide) (by decide), State.setPeriod_bt hx]
    · have hp : (if imm = 0 then 1024 else imm) < 65536 := by split <;> omega
      refine h.done hu (s1 := u.setPeriod c (if imm = 0 then 1024 else imm) (m + 1)) (by rw [field, k, imm_eq]; rfl)
        (State.setPeriod_only _ _) fun s' left => ⟨left.btAt.trans (State.setBt_btAt _ _), by omega, fun _ => ⟨?_, ?_⟩, by omega, by omega⟩
      · rw [left.get _ (by decide) (by decide), State.setPeriod_period hp]
      · rw [left.get _ (by decide) (by decide), State.setPeriod_bt hp]
        split <;> simp_all
    · refine h.done hu (s1 := u.setBt c imm (m + 1)) (by rw [field, k, imm_eq]; rfl) (.setBt _ _)
        fun s' left => ⟨left.btAt.trans (State.setBt_btAt _ _), by omega, by omega, fun _ => ?_, by omega⟩
      rw [left.get _ (by decide) (by decide), State.setBt_bt]
      omega
    · refine h.done hu (s1 := u.setBt c (s.cx c % 65536) (m + 1)) (by rw [field, k, ← finds.cx]; rfl) (.setBt _ _)
        fun s' left => ⟨left.btAt.trans (State.setBt_btAt _ _), by omega, by omega, by omega, fun _ => ?_⟩
      rw [left.get _ (by decide) (by decide), State.setBt_bt, Nat.mod_mod]
  · refine h.done hu (s1 := u.put CR_CRC_VAL.VAL c.ix (s.get CR_CRC_INIT.INIT c.ix % 2 ^ width))
      (by rw [finds.get CR_CRC_INIT.INIT (by decide), finds.crcW]) (.put _ _) fun s' left => ?_
    rw [left.crc, State.crc_put (by rw [finds.crcW]; exact Nat.mod_lt _ (Nat.two_pow_pos _))]
  · exact h.done hu rfl (.put _ _) fun s' left => (left.get _ (by decide) (by decide) _).trans (State.get_put_self _ _ _ _ (by decide) (by decide))
  · exact h.done hu rfl (.put _ _) fun s' left => (left.get _ (by decide) (by decide) _).trans (State.get_put_self _ _ _ _ (by decide) (by decide))
  · exact h.done hu rfl (.put _ _) fun s' left => (left.get _ (by decide) (by decide) _).trans (State.get_put_self _ _ _ _ (by decide) (by decide))
  · refine h.done hu (s1 := u.crcInserted c) rfl (.loadOsh _ _) fun s' left => ⟨?_, fun k hk => ?_⟩
    · rw [left.oshLeft, State.crcInserted_oshLeft, finds.crcW]
    · rw [left.osh, ← finds.crc, show s.is CR_SHIFT.OUT_DIR c.ix = u.outRight c from finds.outRight.symm]
      exact (State.crcInserted_bit (by rw [finds.crcW]; exact hk)).trans (by rw [finds.crcW])
  · refine h.done hu (s1 := u.feedBits c (shiftOrder false (s.cx c) (w % 32 + 1))) (by rw [bits_low, finds.cx]; rfl) (.put _ _) fun s' left => ?_
    rw [left.crc, State.feedBits_crc, finds.crcW, finds.get CR_CRC_POLY.POLY (by decide), finds.crc, shiftOrder, ← List.map_reverse]
    rfl

/-- Settles O41: PUSH and PULL test what they skip for, then room or entries; PACE and the CRC instructions set registers of the crier. -/
theorem crierFifosPaceAndCrc : Obligations.CrierFifosPaceAndCrc := ⟨crierFifoInstructions, crierPaceAndCrc⟩

end Sys2Proof.Proofs
end

section
/-! SUPPORT. The crier instructions that shift, set, move and jump (R183 to R185): the proof of O40. -/

namespace Sys2Proof.Machine

variable {s s' s1 u : State} {c : CrierId} {n w : Nat}

/-! ## Destinations of an instruction -/

/-- A value written to pins (0), output enables (1), X (2) or Y (3). -/
def State.toDest (s : State) (c : CrierId) (dst base count v x : Nat) : State :=
  match dst with
  | 0 => s.updC c (Crier.driven · 0 base count v)
  | 1 => s.updC c (Crier.driven · 1 base count v)
  | 2 => s.put CR_X.X c.ix x
  | 3 => s.put CR_Y.Y c.ix x
  | _ => s

section

variable (dst base count v x : Nat)

theorem State.toDest_only : s.crierOnly (s.toDest c dst base count v x) c := by
  unfold State.toDest
  split
  · exact .updC _
  · exact .updC _
  · exact .put _ _
  · exact .put _ _
  · exact .refl s c

theorem State.toDest_get {f : Field} (hx : f.Beside CR_X.X) (hy : f.Beside CR_Y.Y) (i : Ix) :
    (s.toDest c dst base count v x).get f i = s.get f i := by
  unfold State.toDest
  split
  · rfl
  · rfl
  · exact State.get_put_beside hx _ _ _
  · exact State.get_put_beside hy _ _ _
  · rfl

theorem State.toDest_cx : (s.toDest c dst base count v x).cx c = if dst = 2 then x % 2 ^ 32 else s.cx c := by
  match dst with
  | 0 => rfl
  | 1 => rfl
  | 2 => exact State.put_cx x
  | 3 => exact State.get_put_beside (by decide) _ _ _
  | k + 4 => rfl

theorem State.toDest_cy : (s.toDest c dst base count v x).cy c = if dst = 3 then x % 2 ^ 32 else s.cy c := by
  match dst with
  | 0 => rfl
  | 1 => rfl
  | 2 => exact State.get_put_beside (by decide) _ _ _
  | 3 => exact State.put_cy x
  | k + 4 => rfl

theorem State.toDest_crier : (s.toDest c dst base count v x).crier c = (s.crier c).driven dst base count v := by
  match dst with
  | 0 => exact State.crier_self _ _ _
  | 1 => exact State.crier_self _ _ _
  | 2 => rfl
  | 3 => rfl
  | k + 4 => rfl

end

/-- Pins and enables after an instruction that has driven them, where no cue is enabled. -/
theorem State.CrierLeft.pins (left : s1.CrierLeft s' c) (finds : s.CrierFinds u c) {dst base count v p : Nat}
    (driven : s1.crier c = (u.crier c).driven dst base count v) (hb : base < 8) (quiet : s1.get CR_PINS.CUE_EN c.ix = 0) (hp : p < 8) :
    bit (s'.crier c).out p = (if dst = 0 ∧ decide ((p + 8 - base) % 8 < count) then bit v ((p + 8 - base) % 8) else bit (s.crier c).out p) ∧
      bit (s'.crier c).oe p = (if dst = 1 ∧ decide ((p + 8 - base) % 8 < count) then bit v ((p + 8 - base) % 8) else bit (s.crier c).oe p) := by
  rw [left.out quiet, left.oe, driven, Crier.driven_out _ _ _ _ hb hp, Crier.driven_oe _ _ _ _ hb hp, finds.out, finds.oe]
  exact ⟨rfl, rfl⟩

/-! ## SHOUT and HEAR (R183) -/

/-- The bits that SHOUT takes from OSH. -/
def State.shoutBits (s : State) (c : CrierId) (n : Nat) : Nat := if s.outRight c then s.osh c % 2 ^ n else s.osh c / 2 ^ (64 - n)

/-- SHOUT before it drives: OSH shifted, and the CRC fed with the bits that go to pins. -/
def State.shouted (s : State) (c : CrierId) (w : Nat) : State :=
  let t := s.loadOsh c (if s.outRight c then s.osh c / 2 ^ (w % 64 + 1) else s.osh c * 2 ^ (w % 64 + 1) % 2 ^ 64) (s.oshLeft c - (w % 64 + 1))
  t.feedIf c (cA w = 0 ∧ t.get CR_CRC_CFG.MODE c.ix = 1)
    (shiftOrder (t.outRight c) (s.shoutBits c (w % 64 + 1)) (min (w % 64 + 1) (min 8 (t.get CR_PINS.OUT_COUNT c.ix))))

theorem State.shout_eq (s : State) (c : CrierId) (w : Nat) :
    s.shout c w = (s.shouted c w).toDest c (cA w) ((s.shouted c w).get CR_PINS.OUT_BASE c.ix)
      (min (w % 64 + 1) ((s.shouted c w).get CR_PINS.OUT_COUNT c.ix)) (s.shoutBits c (w % 64 + 1)) (s.shoutBits c (w % 64 + 1) % 2 ^ 32) := by
  unfold State.shout State.shouted State.feedIf
  rw [bits_low]
  generalize cA w = a
  match a with
  | 0 => simp only [true_and]; rfl
  | 1 => rfl
  | 2 => rfl
  | 3 => rfl
  | k + 4 => rfl

theorem State.shouted_only : s.crierOnly (s.shouted c w) c := (State.crierOnly.loadOsh _ _).trans (State.feedIf_only _)

theorem State.shouted_get {f : Field} (h1 : f.Beside CR_OSH.OSH) (h2 : f.Beside CR_SCNT.OSH_LEFT) (h3 : f.Beside CR_CRC_VAL.VAL) (i : Ix) :
    (s.shouted c w).get f i = s.get f i := (State.feedIf_get _ h3 i).trans (State.loadOsh_get h1 h2 _ _ i)

theorem State.shouted_crier : (s.shouted c w).crier c = s.crier c := State.feedIf_crier _ c

theorem State.shouted_osh : (s.shouted c w).osh c =
    if s.outRight c then s.osh c / 2 ^ (w % 64 + 1) else s.osh c * 2 ^ (w % 64 + 1) % 2 ^ 64 := by
  refine (State.feedIf_get _ (by decide) _).trans ((State.loadOsh_osh _ _).trans (Nat.mod_eq_of_lt ?_))
  split
  · exact Nat.lt_of_le_of_lt (Nat.div_le_self _ _) (s.osh_lt c)
  · exact Nat.mod_lt _ (by decide)

theorem State.shouted_oshLeft : (s.shouted c w).oshLeft c = s.oshLeft c - (w % 64 + 1) :=
  (State.feedIf_get _ (by decide) _).trans ((State.loadOsh_oshLeft _ _).trans
    (Nat.mod_eq_of_lt (Nat.lt_of_le_of_lt (Nat.sub_le _ _) (s.oshLeft_lt c))))

/-- The bits that HEAR takes from its source. -/
def State.heardBits (s : State) (c : CrierId) (a n lv : Nat) : Nat :=
  match a with
  | 0 => gather lv (s.get CR_PINS.IN_BASE c.ix) n
  | 1 => s.cx c % 2 ^ n
  | 2 => s.cy c % 2 ^ n
  | _ => 0

theorem State.heardBits_lt (s : State) (c : CrierId) (a n lv : Nat) : s.heardBits c a n lv < 2 ^ n := by
  unfold State.heardBits
  split
  · exact (gather_spec _ _ _).1
  · exact Nat.mod_lt _ (Nat.two_pow_pos n)
  · exact Nat.mod_lt _ (Nat.two_pow_pos n)
  · exact Nat.two_pow_pos n

theorem State.hear_eq (s : State) (c : CrierId) (w lv : Nat) : ∃ p bs, ∃ _ : Decidable p,
    s.hear c w lv = (s.feedIf c p bs).loadIsh c
      (if (s.feedIf c p bs).inRight c then (s.feedIf c p bs).ish c / 2 ^ (w % 64 + 1) + s.heardBits c (cA w) (w % 64 + 1) lv * 2 ^ (64 - (w % 64 + 1))
        else (s.feedIf c p bs).ish c * 2 ^ (w % 64 + 1) % 2 ^ 64 + s.heardBits c (cA w) (w % 64 + 1) lv)
      (min ((s.feedIf c p bs).ishFill c + (w % 64 + 1)) 64) := by
  refine ⟨cA w = 0 ∧ s.get CR_CRC_CFG.MODE c.ix = 2, shiftOrder (s.inRight c) (s.heardBits c (cA w) (w % 64 + 1) lv) (w % 64 + 1), inferInstance, ?_⟩
  unfold State.hear
  rw [bits_low]
  rfl

section

variable (lv : Nat)

theorem State.hear_only : s.crierOnly (s.hear c w lv) c := by
  obtain ⟨p, bs, _, e⟩ := s.hear_eq c w lv
  rw [e]
  exact (State.feedIf_only bs).trans (.loadIsh _ _)

theorem State.hear_ish : (s.hear c w lv).ish c =
    if s.is CR_SHIFT.IN_DIR c.ix then s.ish c / 2 ^ (w % 64 + 1) + s.heardBits c (cA w) (w % 64 + 1) lv * 2 ^ (64 - (w % 64 + 1))
    else s.ish c * 2 ^ (w % 64 + 1) % 2 ^ 64 + s.heardBits c (cA w) (w % 64 + 1) lv := by
  obtain ⟨p, bs, _, e⟩ := s.hear_eq c w lv
  have hi : (s.feedIf c p bs).ish c = s.ish c := State.feedIf_get bs (by decide) _
  have hr : (s.feedIf c p bs).inRight c = s.is CR_SHIFT.IN_DIR c.ix := by
    simp only [State.inRight, State.is, State.feedIf_get (c := c) bs (show CR_SHIFT.IN_DIR.Beside CR_CRC_VAL.VAL by decide)]
  rw [e, State.loadIsh_ish, hi, hr]
  exact Nat.mod_eq_of_lt (shiftedIn_lt _ (s.ish_lt c) (s.heardBits_lt _ _ _ _) (by omega))

theorem State.hear_ishFill : (s.hear c w lv).ishFill c = min 64 (s.ishFill c + (w % 64 + 1)) := by
  obtain ⟨p, bs, _, e⟩ := s.hear_eq c w lv
  have hf : (s.feedIf c p bs).ishFill c = s.ishFill c := State.feedIf_get bs (by decide) _
  rw [e, State.loadIsh_ishFill, hf]
  omega

end

/-! ## SET, MOVE and GOTO (R184, R185) -/

theorem cOp_of_crierRow {r : Nat} (h : crierRow w = r) (h0 : r ≠ 0) (hr : r < 0xA) : cOp w = r := by
  unfold crierRow at h
  split at h
  · split at h <;> omega
  · split at h <;> omega

theorem cA_le_of_set (row : crierRow w = 3) (legal : crierLegal w = true) : cA w ≤ 3 := by
  simp only [crierLegal, cOp_of_crierRow row (by decide) (by decide), Bool.and_eq_true, decide_eq_true_eq] at legal
  exact legal.1

theorem cA_le_of_move (row : crierRow w = 6) (legal : crierLegal w = true) : cA w ≤ 6 := by
  simp only [crierLegal, cOp_of_crierRow row (by decide) (by decide), Bool.and_eq_true, decide_eq_true_eq] at legal
  exact legal.1.1

/-- The condition of a GOTO of kind `a`, on pin `b` of the levels `lv` where it names one. -/
def State.gotoTaken (s : State) (c : CrierId) (a b lv : Nat) : Bool :=
  match a with
  | 0 => true | 1 => s.cx c != 0 | 2 => s.cy c != 0 | 3 => decide (s.cx c < s.cy c) | 4 => bit lv b
  | 5 => !bit lv b | 6 => !(s.crier c).tx.isEmpty | _ => s.crc c == 0

/-- A GOTO that is taken counts X or Y down where it loops on it. -/
def State.gotoCounts (s : State) (c : CrierId) (a : Nat) : State :=
  match a with
  | 1 => s.put CR_X.X c.ix (s.cx c - 1)
  | 2 => s.put CR_Y.Y c.ix (s.cy c - 1)
  | _ => s

theorem State.gotoCounts_only (a : Nat) : s.crierOnly (s.gotoCounts c a) c := by
  unfold State.gotoCounts
  split
  · exact .put _ _
  · exact .put _ _
  · exact .refl s c

theorem State.gotoCounts_cx (a : Nat) : (s.gotoCounts c a).cx c = if a = 1 then s.cx c - 1 else s.cx c := by
  unfold State.gotoCounts
  split
  · exact (State.put_cx _).trans (Nat.mod_eq_of_lt (Nat.lt_of_le_of_lt (Nat.sub_le _ _) (s.cx_lt c)))
  · exact State.get_put_beside (by decide) _ _ _
  · next h1 _ => rw [if_neg h1]

theorem State.gotoCounts_cy (a : Nat) : (s.gotoCounts c a).cy c = if a = 2 then s.cy c - 1 else s.cy c := by
  unfold State.gotoCounts
  split
  · exact State.get_put_beside (by decide) _ _ _
  · exact (State.put_cy _).trans (Nat.mod_eq_of_lt (Nat.lt_of_le_of_lt (Nat.sub_le _ _) (s.cy_lt c)))
  · next _ h2 => rw [if_neg h2]

/-- A GOTO that is not taken loops on a counter that is 0 already. -/
theorem State.gotoTaken_counters {a b lv : Nat} (h : s.gotoTaken c a b lv = false) : (a = 1 → s.cx c = 0) ∧ (a = 2 → s.cy c = 0) := by
  constructor <;> rintro rfl <;> simpa [State.gotoTaken] using h

theorem State.CrierFinds.gotoTaken (finds : s.CrierFinds u c) (a b lv : Nat) : u.gotoTaken c a b lv = s.gotoTaken c a b lv := by
  simp only [State.gotoTaken, finds.cx, finds.cy, finds.tx, finds.crc]

/-- What a GOTO of kind `a` to `t` does. -/
def State.gotoRes (s : State) (c : CrierId) (a b lv t : Nat) : CrRes :=
  match a with
  | 0 => .jump s t
  | 1 => if s.cx c = 0 then .done s else .jump (s.put CR_X.X c.ix (s.cx c - 1)) t
  | 2 => if s.cy c = 0 then .done s else .jump (s.put CR_Y.Y c.ix (s.cy c - 1)) t
  | 3 => if s.cx c < s.cy c then .jump s t else .done s
  | 4 => if bit lv b then .jump s t else .done s
  | 5 => if bit lv b then .done s else .jump s t
  | 6 => if (s.crier c).tx.isEmpty then .done s else .jump s t
  | _ => if s.crc c = 0 then .jump s t else .done s

/-- A GOTO jumps where it is taken, and otherwise completes. -/
theorem State.gotoRes_eq (s : State) (c : CrierId) (a b lv t : Nat) :
    s.gotoRes c a b lv t = if s.gotoTaken c a b lv then .jump (s.gotoCounts c a) t else .done s := by
  unfold State.gotoRes State.gotoTaken State.gotoCounts
  split
  case h_1 => rfl
  case h_2 => by_cases e : s.cx c = 0 <;> simp [e]
  case h_3 => by_cases e : s.cy c = 0 <;> simp [e]
  case h_4 => simp
  case h_5 => rfl
  case h_6 => cases bit lv b <;> rfl
  case h_7 => cases (s.crier c).tx.isEmpty <;> rfl
  case h_8 => simp

/-- A MOVE of the value `v` to destination `a`: the pins and the scratch registers, ISH or OSH; PC is no state here. -/
def State.movedTo (s : State) (c : CrierId) (a v : Nat) : State :=
  match a with
  | 4 => s.loadIsh c (if s.inRight c then v * 2 ^ 32 else v) 32
  | 5 => s.narrowLoad c v
  | _ => s.toDest c a (s.get CR_PINS.OUT_BASE c.ix) (min 8 (s.get CR_PINS.OUT_COUNT c.ix)) v v

/-- What a MOVE of the value `v` does: to destination 6 it jumps. -/
def State.moveRes (s : State) (c : CrierId) (a v : Nat) : CrRes :=
  match a with
  | 0 => .done (s.outPins c false 8 v)
  | 1 => .done (s.outPins c true 8 v)
  | 2 => .done (s.put CR_X.X c.ix v)
  | 3 => .done (s.put CR_Y.Y c.ix v)
  | 4 => .done (s.loadIsh c (if s.inRight c then v * 2 ^ 32 else v) 32)
  | 5 => .done (s.narrowLoad c v)
  | _ => .jump s (v % 64)

theorem State.moveRes_eq (s : State) (c : CrierId) {a : Nat} (ha : a ≤ 6) (v : Nat) :
    s.moveRes c a v = if a = 6 then .jump (s.movedTo c a v) (v % 64) else .done (s.movedTo c a v) := by
  obtain rfl | rfl | rfl | rfl | rfl | rfl | rfl : a = 0 ∨ a = 1 ∨ a = 2 ∨ a = 3 ∨ a = 4 ∨ a = 5 ∨ a = 6 := by omega
  all_goals rfl

section

variable (a v : Nat)

theorem State.movedTo_only : s.crierOnly (s.movedTo c a v) c := by
  unfold State.movedTo
  split
  · exact .loadIsh _ _
  · exact .loadOsh _ _
  · exact State.toDest_only _ _ _ _ _

theorem State.movedTo_cx : (s.movedTo c a v).cx c = if a = 2 then v % 2 ^ 32 else s.cx c := by
  unfold State.movedTo
  split
  · exact State.loadIsh_get (by decide) (by decide) _ _ _
  · exact State.loadOsh_get (by decide) (by decide) _ _ _
  · exact State.toDest_cx _ _ _ _ _

theorem State.movedTo_cy : (s.movedTo c a v).cy c = if a = 3 then v % 2 ^ 32 else s.cy c := by
  unfold State.movedTo
  split
  · exact State.loadIsh_get (by decide) (by decide) _ _ _
  · exact State.loadOsh_get (by decide) (by decide) _ _ _
  · exact State.toDest_cy _ _ _ _ _

theorem State.movedTo_CUE_EN (i : Ix) : (s.movedTo c a v).get CR_PINS.CUE_EN i = s.get CR_PINS.CUE_EN i := by
  unfold State.movedTo
  split
  · exact State.loadIsh_get (by decide) (by decide) _ _ _
  · exact State.loadOsh_get (by decide) (by decide) _ _ _
  · exact State.toDest_get _ _ _ _ _ (by decide) (by decide) _

theorem State.movedTo_crier : (s.movedTo c a v).crier c =
    (s.crier c).driven a (s.get CR_PINS.OUT_BASE c.ix) (min 8 (s.get CR_PINS.OUT_COUNT c.ix)) v := by
  unfold State.movedTo
  split
  · rfl
  · rfl
  · exact State.toDest_crier _ _ _ _ _

theorem State.movedTo_ish : (s.movedTo c 4 v).ish c = if s.inRight c then v * 2 ^ 32 % 2 ^ 64 else v % 2 ^ 64 :=
  (State.loadIsh_ish _ _).trans (apply_ite (· % 2 ^ 64) _ _ _)

theorem State.movedTo_osh : (s.movedTo c 5 v).osh c = if s.outRight c then v % 2 ^ 32 else v % 2 ^ 32 * 2 ^ 32 := by
  refine (State.loadOsh_osh _ _).trans (Nat.mod_eq_of_lt ?_)
  split <;> omega

end

end Sys2Proof.Machine

namespace Sys2Proof.Proofs

open Sys2Proof.Machine

theorem crierShifts : Claims.CrierShifts := by
  intro s c w m pads n a right o v quiet pos
  have finds := s.crierActs_finds c w m pads
  generalize hu : s.crierActs c w m pads = u at finds
  have vBits : u.shoutBits c n = v := by rw [State.shoutBits, finds.osh, finds.outRight]; rfl
  refine ⟨fun h full => ?_, fun h refill left0 htx => ?_, fun h room => ?_⟩
  · have ready : ¬(u.is CR_SHIFT.REFILL c.ix && u.oshLeft c == 0) = true := by
      rw [finds.is _ (by decide), finds.oshLeft, Bool.and_eq_true, beq_iff_eq]
      exact fun e => full.elim (fun k => by simp [k] at e) (fun k => k e.2)
    have eq := u.shout_eq c w
    refine h.done hu (s1 := u.shout c w) (by rw [if_neg ready]) ?_ fun s' left => ⟨?_, ?_, ?_, ?_, fun q p hp => ?_⟩
    · rw [eq]
      exact State.shouted_only.trans (State.toDest_only _ _ _ _ _)
    · rw [left.osh, eq, State.osh, State.toDest_get _ _ _ _ _ (by decide) (by decide)]
      refine State.shouted_osh.trans ?_
      rw [finds.osh, finds.outRight]
      rfl
    · rw [left.oshLeft, eq, State.oshLeft, State.toDest_get _ _ _ _ _ (by decide) (by decide)]
      exact State.shouted_oshLeft.trans (by rw [finds.oshLeft])
    · rw [left.cx, eq, State.toDest_cx, Nat.mod_mod, vBits, State.cx, State.shouted_get (by decide) (by decide) (by decide)]
      exact if_congr Iff.rfl rfl finds.cx
    · rw [left.cy, eq, State.toDest_cy, Nat.mod_mod, vBits, State.cy, State.shouted_get (by decide) (by decide) (by decide)]
      exact if_congr Iff.rfl rfl finds.cy
    · have field {f : Field} (h1 : f.Beside CR_OSH.OSH) (h2 : f.Beside CR_SCNT.OSH_LEFT) (h3 : f.Beside CR_CRC_VAL.VAL) (hf : f.reg ≠ .CR_PACE) :
          (u.shouted c w).get f c.ix = s.get f c.ix := (State.shouted_get h1 h2 h3 _).trans (finds.get f hf _)
      have driven := (congrArg (State.crier · c) eq).trans (State.toDest_crier _ _ _ _ _)
      rw [State.shouted_crier, field (by decide) (by decide) (by decide) (by decide), field (by decide) (by decide) (by decide) (by decide), vBits] at driven
      have cue : (u.shout c w).get CR_PINS.CUE_EN c.ix = 0 := by
        rw [eq, State.toDest_get _ _ _ _ _ (by decide) (by decide), field (by decide) (by decide) (by decide) (by decide)]
        exact q
      have pins := left.pins finds driven (s.get_lt CR_PINS.OUT_BASE c.ix) cue hp
      simpa only [Nat.lt_min, Bool.decide_and] using pins
  · have starved : (u.is CR_SHIFT.REFILL c.ix && u.oshLeft c == 0) = true := by
      rw [finds.is _ (by decide), finds.oshLeft, refill, left0]
      rfl
    have none_ : (u.crier c).tx.length < if u.is CR_SHIFT.REFILL_WIDE c.ix = true then 2 else 1 := by
      rw [finds.tx, htx]
      split <;> decide
    refine h.stall hu (s1 := if (u.crier c).stalled.isSome = true then u else u.set CR_STATUS_C.TX_UNDER c.ix true) (by decide)
      (by simp only [if_pos starved, if_pos none_]) ?_ ?_ fun s' left => ?_
    · split
      · exact .refl u c
      · exact .set _ _
    · split
      · rfl
      · exact State.get_set_beside (by decide) _ _ _
    · rw [left.osh]
      refine Eq.trans ?_ finds.osh
      split
      · rfl
      · exact State.get_set_beside (by decide) _ _ _
  · have ready : ¬(u.is CR_SHIFT.SPILL c.ix && decide (u.spillAt c ≤ u.ishFill c)) = true := by
      rw [finds.is _ (by decide), finds.spillAt, finds.ishFill, Bool.and_eq_true, decide_eq_true_eq]
      exact fun e => room.elim (fun k => by simp [k] at e) (fun k => absurd e.2 (Nat.not_le.mpr k))
    have heard : u.heardBits c = s.heardBits c := by
      funext a n lv
      simp only [State.heardBits, finds.get CR_PINS.IN_BASE (by decide), finds.cx, finds.cy]
    have completes : ∃ s', exec (.hear c pads) s = .next s' ∧ s.crierNext s' c w m ∧ (u.hear c w (s.crierPads c.h c.b m pads)).CrierLeft s' c :=
      h.done hu (if_neg ready) (State.hear_only _) fun _ left => left
    obtain ⟨s', e, went, left⟩ := completes
    refine ⟨s', s.heardBits c a n (s.crierPads c.h c.b m pads), e, went, s.heardBits_lt _ _ _ _, fun k => ?_, fun k => ?_, fun k => ?_, fun k => ?_, ?_, ?_⟩
    · rw [k]
      exact (gather_spec _ _ _).2
    · rw [k]
      rfl
    · rw [k]
      rfl
    · rw [k]
      rfl
    · rw [left.ish, State.hear_ish, heard, finds.is _ (by decide), finds.ish]
    · rw [left.ishFill, State.hear_ishFill, finds.ishFill]

theorem crierSetsMovesAndJumps : Claims.CrierSetsMovesAndJumps := by
  intro s c w m pads a v t lv quiet pos pins src moved goes
  have finds := s.crierActs_finds c w m pads
  generalize hu : s.crierActs c w m pads = u at finds
  have driven {s1 s' : State} {dst base cnt x : Nat} (left : s1.CrierLeft s' c) (hb : base < 8)
      (cue : s1.get CR_PINS.CUE_EN c.ix = u.get CR_PINS.CUE_EN c.ix) (e : s1.crier c = (u.crier c).driven dst base cnt x) :
      pins s' dst base cnt x := fun q p hp =>
    left.pins finds e hb (cue.trans ((finds.get _ (by decide) _).trans q)) hp
  refine ⟨fun h => ?_, fun h => ?_, fun h => ?_, fun h => ?_⟩
  · refine h.done hu rfl (.refl u c) fun s' left => ⟨?_, ?_, ?_, ?_⟩
    · rw [left.cx, finds.cx]
    · rw [left.cy, finds.cy]
    · rw [left.osh, finds.osh]
    · rw [left.ish, finds.ish]
  · have kind : a ≤ 3 := cA_le_of_set h.row h.legal
    have hv : v % 2 ^ 32 = v := by omega
    refine h.done hu (s1 := u.toDest c a (s.get CR_PINS.SET_BASE c.ix) (s.get CR_PINS.SET_COUNT c.ix) v v) ?_ (State.toDest_only _ _ _ _ _)
      fun s' left => ⟨?_, ?_, ?_⟩
    · rw [bits_low w 7, finds.get CR_PINS.SET_BASE (by decide), finds.get CR_PINS.SET_COUNT (by decide)]
      obtain e | e | e | e : cA w = 0 ∨ cA w = 1 ∨ cA w = 2 ∨ cA w = 3 := by omega
      all_goals rw [show a = cA w from rfl, e]; rfl
    · rw [left.cx, State.toDest_cx, hv, finds.cx]
    · rw [left.cy, State.toDest_cy, hv, finds.cy]
    · exact driven left (s.get_lt CR_PINS.SET_BASE c.ix) (State.toDest_get _ _ _ _ _ (by decide) (by decide) _) (State.toDest_crier _ _ _ _ _)
  · have low : bits w 5 0 % 64 = t := by rw [bits_low w 5]; omega
    have res := u.gotoRes_eq c a (cB w) lv (bits w 5 0)
    have taken : u.gotoTaken c a (cB w) lv = goes := finds.gotoTaken _ _ _
    rw [taken] at res
    cases hg : goes
    · rw [hg, if_neg (by decide)] at res
      obtain ⟨cx0, cy0⟩ := State.gotoTaken_counters (taken.trans hg)
      refine h.done hu res (.refl u c) fun s' left => ⟨?_, ?_⟩
      · rw [left.cx, ← finds.cx]
        split
        next e => rw [cx0 e]
        next => rfl
      · rw [left.cy, ← finds.cy]
        split
        next e => rw [cy0 e]
        next => rfl
    · rw [hg, if_pos rfl] at res
      rw [if_pos rfl, ← low]
      refine h.jump hu res (State.gotoCounts_only _) fun s' left => ⟨?_, ?_⟩
      · rw [left.cx, State.gotoCounts_cx, finds.cx]
      · rw [left.cy, State.gotoCounts_cy, finds.cy]
  · have kind : a ≤ 6 := cA_le_of_move h.row h.legal
    have src_eq : u.moveSrc c (cB w) lv = src := finds.moveSrc _ _
    have res := u.moveRes_eq c kind moved
    have moves {s' : State} (left : (u.movedTo c a moved).CrierLeft s' c) :
        s'.cx c = (if a = 2 then moved % 2 ^ 32 else s.cx c) ∧ s'.cy c = (if a = 3 then moved % 2 ^ 32 else s.cy c) ∧
        (a = 4 → s'.ishFill c = 32 ∧ s'.ish c = if s.is CR_SHIFT.IN_DIR c.ix then moved * 2 ^ 32 % 2 ^ 64 else moved % 2 ^ 64) ∧
        (a = 5 → s'.oshLeft c = 32 ∧ s'.osh c = if s.is CR_SHIFT.OUT_DIR c.ix then moved % 2 ^ 32 else moved % 2 ^ 32 * 2 ^ 32) ∧
        pins s' a (s.get CR_PINS.OUT_BASE c.ix) (min 8 (s.get CR_PINS.OUT_COUNT c.ix)) moved := by
      refine ⟨?_, ?_, fun e => ⟨?_, ?_⟩, fun e => ⟨?_, ?_⟩, driven left (s.get_lt CR_PINS.OUT_BASE c.ix) (State.movedTo_CUE_EN _ _ _) ?_⟩
      · rw [left.cx, State.movedTo_cx, finds.cx]
      · rw [left.cy, State.movedTo_cy, finds.cy]
      · rw [left.ishFill, e]
        exact State.loadIsh_ishFill _ _
      · rw [left.ish, e, State.movedTo_ish, finds.inRight]
        rfl
      · rw [left.oshLeft, e]
        exact State.loadOsh_oshLeft _ _
      · rw [left.osh, e, State.movedTo_osh, finds.outRight]
        rfl
      · rw [State.movedTo_crier, finds.get CR_PINS.OUT_BASE (by decide), finds.get CR_PINS.OUT_COUNT (by decide)]
    have field : bits w 5 4 = w / 16 % 4 := bits_eq_div w 5 4
    by_cases e : a = 6
    · rw [if_pos e] at res ⊢
      rw [← Nat.mod_mod moved 64]
      exact h.jump hu (by rw [src_eq, field]; exact res) (State.movedTo_only _ _) fun s' left => moves left
    · rw [if_neg e] at res ⊢
      exact h.done hu (by rw [src_eq, field]; exact res) (State.movedTo_only _ _) fun s' left => moves left

/-- Settles O40: each instruction acts on the crier as it stands in its cycle, and the rest of the cycle leaves what it has written. -/
theorem crierShiftsAndMoves : Obligations.CrierShiftsAndMoves := ⟨crierShifts, crierSetsMovesAndJumps⟩

end Sys2Proof.Proofs
end

section
/-! SUPPORT. The waits of a crier (R186, R193, R194): the pace counter in the cycle of an instruction, and what a release leaves. -/

namespace Sys2Proof.Machine

variable {s s' u : State} {c : CrierId} {n w : Nat}

/-! ## The pace counter in a cycle -/

theorem State.crierFrozen_eq (s : State) (c : CrierId) (n : Nat) : ∃ pins axes, s.crierFrozen c n = { s with pins := pins, axes := axes } :=
  (s.crierFrozen_padsKept c n).1

/-- The next pace tick and the last one of a crier are what they were. -/
structure State.PaceKept (s u : State) (c : CrierId) : Prop where
  next : u.nextPace c = s.nextPace c
  last : (u.crier c).lastTick = (s.crier c).lastTick

/-- Before the next pace tick, the counter runs down to it. -/
theorem State.paceTo_paceKept (h : n ≤ s.nextPace c) : s.PaceKept (s.paceTo c n) c := by
  have bt : s.get CR_PACE.BT c.ix < 65536 := s.get_lt CR_PACE.BT c.ix
  unfold State.nextPace at h
  unfold State.paceTo
  dsimp only
  split
  · exact ⟨rfl, rfl⟩
  · next running =>
    have less : (s.get CR_PACE.BT c.ix - (n - (s.crier c).btAt)) % 2 ^ 16 = s.get CR_PACE.BT c.ix - (n - (s.crier c).btAt) :=
      Nat.mod_eq_of_lt (by omega)
    rw [if_pos (by omega)]
    refine ⟨?_, by rw [State.crier_self]⟩
    rw [State.nextPace, State.crier_self, State.setCrier_get, State.get_put_self _ _ _ _ (by decide) (by decide), State.nextPace]
    refine (congrArg (n + ·) less).trans ?_
    omega

/-- A counter whose value is that of a later cycle stays as it is. -/
theorem State.paceTo_late (h : n ≤ (s.crier c).btAt) : s.paceTo c n = s := by
  unfold State.paceTo
  dsimp only
  rw [if_pos (Or.inl h)]

theorem State.PaceKept.trans {a b d : State} (h : a.PaceKept b c) (k : b.PaceKept d c) : a.PaceKept d c :=
  ⟨k.next.trans h.next, k.last.trans h.last⟩

theorem State.crierFrozen_paceKept (s : State) (c : CrierId) (n : Nat) : s.PaceKept (s.crierFrozen c n) c := by
  obtain ⟨_, _, e⟩ := s.crierFrozen_eq c n
  rw [e]
  exact ⟨rfl, rfl⟩

theorem State.inCycle_paceKept (s : State) (c : CrierId) (n w : Nat) : s.PaceKept (s.updC c (Crier.inCycle · n w)) c := by
  constructor
  · rw [State.nextPace, State.updC, State.crier_self, State.setCrier_get]
    rfl
  · rw [State.updC, State.crier_self]
    rfl

theorem State.setBarrow_paceKept (s : State) (c : CrierId) (h b : Nat) (a : Barrow) : s.PaceKept (s.setBarrow h b a) c := ⟨rfl, rfl⟩

theorem State.crierActs_paceKept (pads : Byte) (h : n ≤ s.nextPace c) : s.PaceKept (s.crierActs c w n pads) c := by
  have frozen := s.crierFrozen_paceKept c n
  have paced : (s.crierFrozen c n).PaceKept ((s.crierFrozen c n).paceTo c n) c := State.paceTo_paceKept (by rw [frozen.next]; exact h)
  exact ((frozen.trans paced).trans (State.inCycle_paceKept _ c n w)).trans (State.setBarrow_paceKept _ c _ _ _)

/-- Once the counter holds the value of a later cycle, the cycle leaves it. -/
theorem State.crierCycle_late (h : n ≤ (s.crier c).btAt) :
    (s.crierCycle c n w).get CR_PACE.BT c.ix = s.get CR_PACE.BT c.ix ∧ ((s.crierCycle c n w).crier c).btAt = (s.crier c).btAt := by
  obtain ⟨pins, axes, e⟩ := s.crierFrozen_eq c n
  have late := State.paceTo_late (s := { s with pins := pins, axes := axes }) (c := c) h
  rw [State.crierCycle, e, late, State.updC, State.crier_self, State.setCrier_get]
  exact ⟨rfl, rfl⟩

/-! ## Releases (R193, R196) -/

/-- A stalled crier that is released in cycle `n` is not held up there. -/
structure State.EndsWait (s : State) (c : CrierId) (w n : Nat) : Prop where
  word : s.wordAt c.h c.b n (s.brPage c.h c.b) (s.get CR_STATUS_C.PC c.ix) = w
  legal : crierLegal w = true
  clean : s.errorIn (.crierPage c.h c.b (s.brPage c.h c.b)) (4 * s.get CR_STATUS_C.PC c.ix) 3 = none

/-- A crier that is released completes the word that it fetches. -/
theorem State.EndsWait.release (h : s.EndsWait c w n) :
    s.crierNext (s.crierRelease c n) c w n ∧ (s.crierCycle c n w).CrierLeft (s.crierRelease c n) c := by
  rw [State.crierRelease, h.word]
  exact State.crierExec_done (lv := none) h.legal h.clean rfl (.refl _ c)

/-- A crier goes on from a state in which its registers but CR_PACE are those of `s`. -/
theorem State.CrierFinds.crierNext (finds : s.CrierFinds u c) (went : u.crierNext s' c w n) : s.crierNext s' c w n := by
  obtain ⟨pc, st, next, stalled, only⟩ := went
  exact ⟨by rw [pc, finds.crierNextPc, finds.get _ (by decide)], st, next, stalled, finds.only.trans only⟩

/-- One crier of a delivery (R194). -/
def State.deliverOne (h b n k : Nat) (src : DeliverySrc) (s : State) : State :=
  s.atCycle ⟨h, b, k⟩ (fun _ => some n) (fun n s =>
    if s.crierRuns ⟨h, b, k⟩ && s.crierAwaits ⟨h, b, k⟩ (awaitOf src).1 (awaitOf src).2 n then some (s.crierRelease ⟨h, b, k⟩ n) else none)

theorem State.deliverTo_eq (s : State) (h b n mask : Nat) (src : DeliverySrc) :
    s.deliverTo h b n mask src = forAll (ones 4 mask) (fun k s => s.deliverOne h b n k src) s := rfl

theorem State.deliverOne_running {x : State} {h b k : Nat} {src : DeliverySrc} (free : Tab.find x.crWas ⟨h, b, k⟩ = none)
    (awaits : x.crierAwaits ⟨h, b, k⟩ (awaitOf src).1 (awaitOf src).2 n = true) (only : x.crierOnly (x.crierRelease ⟨h, b, k⟩ n) ⟨h, b, k⟩) :
    x.deliverOne h b n k src = x.crierRelease ⟨h, b, k⟩ n := by
  have runs : x.crierRuns ⟨h, b, k⟩ = true := by
    simp only [State.crierAwaits, Bool.and_eq_true] at awaits
    obtain ⟨⟨⟨⟨runs, -⟩, -⟩, -⟩, -⟩ := awaits
    exact runs
  refine State.atCycle_some free rfl ?_ only
  rw [runs, awaits]
  rfl

theorem State.deliverOne_stopped {x : State} {h b k : Nat} {src : DeliverySrc} (free : Tab.find x.crWas ⟨h, b, k⟩ = none)
    (stopped : x.crierRuns ⟨h, b, k⟩ = false) : x.deliverOne h b n k src = x := by
  refine State.atCycle_none free rfl ?_
  rw [stopped]
  rfl

/-- A delivery that only the crier `k` can take (R194). -/
theorem State.deliverTo_one {x y : State} {h b k : Nat} {src : DeliverySrc} (hk : k < 4) (taken : x.deliverOne h b n k src = y)
    (free : ∀ j < 4, Tab.find x.crWas ⟨h, b, j⟩ = none) (was : y.crWas = x.crWas)
    (stopped : ∀ j < 4, j ≠ k → x.crierRuns ⟨h, b, j⟩ = false ∧ y.crierRuns ⟨h, b, j⟩ = false) : x.deliverTo h b n 15 src = y := by
  rw [State.deliverTo_eq, forAll_of_one (a := k) (ones_nodup 4 15) (mem_ones.mpr ⟨hk, ?_⟩), taken]
  · intro j hj e
    have hj4 := (mem_ones.mp hj).1
    exact State.deliverOne_stopped (free j hj4) (stopped j hj4 e).1
  · intro j hj e
    have hj4 := (mem_ones.mp hj).1
    rw [taken]
    exact State.deliverOne_stopped (by rw [was]; exact free j hj4) (stopped j hj4 e).2
  · exact (by decide : ∀ k < 4, bit 15 k = true) k hk

/-! ## AWAIT (R193) -/

/-- What an AWAIT does in the cycle `n` in which it issues with the pin levels `lv`. -/
def State.awaitResult (s : State) (c : CrierId) (w lv n : Nat) : CrRes :=
  match bits w 10 8 with
  | 0 => if bit lv (bits w 2 0) = bit w 11 then .done s else .stall s 5
  | 3 => if s.nextPace c = n ∨ (s.crier c).lastTick = some n then .done s else .stall s 5
  | _ => .stall s 5

section

variable {m : Nat} {pads : Byte} (h : s.CrierIssues c 4 w m)
include h

theorem State.CrierIssues.await_completes
    (hb : (s.crierActs c w m pads).awaitResult c w (s.crierPads c.h c.b m pads) m = .done (s.crierActs c w m pads)) :
    ∃ s', exec (.await c pads) s = .next s' ∧ s.crierNext s' c w m := by
  obtain ⟨s', e, next, -⟩ := h.done (body := fun w lv n s => s.awaitResult c w lv n) (P := fun _ => True) rfl hb (.refl _ c) fun _ _ => trivial
  exact ⟨s', e, next⟩

theorem State.CrierIssues.await_stalls
    (hb : (s.crierActs c w m pads).awaitResult c w (s.crierPads c.h c.b m pads) m = .stall (s.crierActs c w m pads) 5) :
    ∃ s', exec (.await c pads) s = .next s' ∧ s.crierStalls s' c m 5 := by
  obtain ⟨s', e, stalls, -⟩ :=
    h.stall (body := fun w lv n s => s.awaitResult c w lv n) (P := fun _ => True) rfl (by decide) hb (.refl _ c) rfl fun _ _ => trivial
  exact ⟨s', e, stalls⟩

end

end Sys2Proof.Machine

namespace Sys2Proof.Proofs

open Sys2Proof.Machine

theorem awaitsInACycle (s : State) (c : CrierId) (w m : Nat) (pads : Byte) (h : s.CrierIssues c 4 w m) :
    (w / 2 ^ 8 % 8 = 0 → bit (s.crierPads c.h c.b m pads) (w % 8) = bit w 11 →
      ∃ s', exec (.await c pads) s = .next s' ∧ s.crierNext s' c w m) ∧
    (w / 2 ^ 8 % 8 = 0 → bit (s.crierPads c.h c.b m pads) (w % 8) ≠ bit w 11 →
      ∃ s', exec (.await c pads) s = .next s' ∧ s.crierStalls s' c m 5) ∧
    (w / 2 ^ 8 % 8 = 3 → s.nextPace c = m → ∃ s', exec (.await c pads) s = .next s' ∧ s.crierNext s' c w m) ∧
    (w / 2 ^ 8 % 8 = 3 → m < s.nextPace c → (s.crier c).lastTick ≠ some m →
      ∃ s', exec (.await c pads) s = .next s' ∧ s.crierStalls s' c m 5) ∧
    (w / 2 ^ 8 % 8 = 1 ∨ w / 2 ^ 8 % 8 = 2 ∨ w / 2 ^ 8 % 8 = 4 →
      ∃ s', exec (.await c pads) s = .next s' ∧ s.crierStalls s' c m 5) := by
  have field : w / 2 ^ 8 % 8 = bits w 10 8 := (bits_eq_div w 10 8).symm
  have pin : w % 8 = bits w 2 0 := (bits_low w 2).symm
  rw [field, pin]
  refine ⟨fun src level => h.await_completes ?_, fun src level => h.await_stalls ?_, fun src tick => h.await_completes ?_,
    fun src early last => h.await_stalls ?_, fun src => h.await_stalls ?_⟩ <;> unfold State.awaitResult
  · rw [src]
    exact if_pos level
  · rw [src]
    exact if_neg level
  · have kept := State.crierActs_paceKept (s := s) (c := c) (w := w) pads tick.ge
    rw [src]
    exact if_pos (.inl (kept.next.trans tick))
  · have kept := State.crierActs_paceKept (s := s) (c := c) (w := w) pads early.le
    have none : ¬((s.crierActs c w m pads).nextPace c = m ∨ ((s.crierActs c w m pads).crier c).lastTick = some m) := by
      rw [kept.next, kept.last]
      exact fun e => e.elim (fun e => by omega) last
    rw [src]
    exact if_neg none
  · rcases src with src | src | src <;> rw [src] <;> rfl

end Sys2Proof.Proofs
end

section
/-! SUPPORT. What ends a crier that waits: a delivery and a pace tick (R186, R194). -/

namespace Sys2Proof.Machine

variable {s s' : State} {c : CrierId} {n w : Nat}

/-! ## A delivery (R194) -/

theorem State.EndsWait.withDeliveries (h : s.EndsWait c w n) (ds : List Delivery) : ({ s with deliveries := ds } : State).EndsWait c w n := by
  obtain ⟨word, legal, clean⟩ := h
  exact ⟨word, legal, clean⟩

theorem State.EndsWait.crierNext (h : s.EndsWait c w n) : s.crierNext (s.crierRelease c n) c w n :=
  h.release.1

/-- A release stops and starts no crier. -/
theorem State.EndsWait.runs (h : s.EndsWait c w n) (d : CrierId) : (s.crierRelease c n).crierRuns d = s.crierRuns d := by
  have left := h.release.2
  rw [State.crierRuns, left.get _ (by decide) (by decide), (s.crierCycle_finds c n _).get _ (by decide)]
  rfl

/-- The delivery of a bell that one barrow of the hall awaits. -/
theorem State.execCrierDelivery_bell {h b due : Nat} (run : s.clkRun = true) (waits : s.deliveries = [⟨h, .bell n, due, [b]⟩])
    (ready : s.delivers h b (s.cycleFrom h b due) = true) :
    execCrierDelivery h b (.bell n) s = .next (({ s with deliveries := [] } : State).deliverTo h b (s.cycleFrom h b due) 15 (.bell n)) := by
  simp [execCrierDelivery, run, waits, ready]

/-- A crier that goes on whatever deliveries wait. -/
theorem State.crierNext.withDeliveries {ds : List Delivery} (went : ({ s with deliveries := ds } : State).crierNext s' c w n) :
    s.crierNext { s' with deliveries := s.deliveries } c w n := by
  obtain ⟨pc, st, next, stalled, same, criers, pins, regs⟩ := went
  exact ⟨pc, st, next, stalled, congrArg (fun x : State => { x with deliveries := s.deliveries }) same, criers, pins, regs⟩

/-- The only crier of its barrow that runs takes a delivery that it awaits. -/
theorem State.deliverTo_awaiting {src : DeliverySrc} (hk : c.c < 4) (h : s.EndsWait c w n)
    (awaits : s.crierAwaits c (awaitOf src).1 (awaitOf src).2 n = true) (others : ∀ j < 4, j ≠ c.c → s.crierRuns ⟨c.h, c.b, j⟩ = false)
    (free : ∀ j < 4, Tab.find s.crWas ⟨c.h, c.b, j⟩ = none) : s.deliverTo c.h c.b n 15 src = s.crierRelease c n :=
  have only := h.crierNext.only
  State.deliverTo_one hk (State.deliverOne_running (free c.c hk) awaits only) free only.crWas
    fun j hj e => ⟨others j hj e, (h.runs _).trans (others j hj e)⟩

/-! ## A pace tick (R186) -/

/-- The crier once the pace tick of cycle `n` has set its counter. -/
def State.ticked (s : State) (c : CrierId) (n : Nat) : State :=
  (s.setBt c (s.period c - 1) (n + 1)).updC c (fun r => { r with lastTick := some n })

theorem State.ticked_finds (s : State) (c : CrierId) (n : Nat) : s.CrierFinds (s.ticked c n) c := by
  have counter : s.CrierFinds (s.put CR_PACE.BT c.ix (s.period c - 1)) c :=
    ⟨.put _ _, fun q hq => State.rd_put_ne hq _, State.get_put_beside (by decide) _ _ _, rfl, rfl, rfl, rfl, rfl⟩
  exact (counter.trans (.of_updC rfl rfl rfl rfl)).trans (.of_updC rfl rfl rfl rfl)

theorem State.ticked_bt (s : State) (c : CrierId) (n : Nat) : (s.ticked c n).get CR_PACE.BT c.ix = (s.period c - 1) % 65536 := by
  rw [State.ticked, State.updC, State.setCrier_get, State.setBt, State.updC, State.setCrier_get]
  exact State.get_put_self _ _ _ _ (by decide) (by decide)

theorem State.ticked_btAt (s : State) (c : CrierId) (n : Nat) : ((s.ticked c n).crier c).btAt = n + 1 := by
  rw [State.ticked, State.updC, State.crier_self, State.setBt, State.updC, State.crier_self]

theorem State.ticked_wordAt (s : State) (c : CrierId) (n h b m page pc : Nat) : (s.ticked c n).wordAt h b m page pc = s.wordAt h b m page pc := rfl

/-- The pace tick falls in a cycle in which the crier awaits it. -/
theorem State.paceDue_of_awaits (run : s.clkRun = true) (begun : s.nextPace c ≤ s.cycle c.h c.b) (waits : s.crierAwaits c 3 0 (s.nextPace c) = true)
    (swap : s.swapFirst c.h c.b (s.nextPace c) = false) : s.paceDue c = some (s.nextPace c) := by
  unfold State.crierAwaits at waits
  simp only [Bool.and_eq_true] at waits
  obtain ⟨⟨⟨⟨runs, -⟩, -⟩, -⟩, stalls⟩ := waits
  have stalled : (s.crier c).stalled.isSome = true := by
    split at stalls
    · next e => rw [e, Option.isSome_some]
    · cases stalls
  simp [State.paceDue, runs, run, begun, stalled, swap]

end Sys2Proof.Machine

namespace Sys2Proof.Proofs

open Sys2Proof.Machine

theorem deliveryCompletesAwait (s : State) (h b k due : Nat) (d : Delivery) (run : s.clkRun = true) (hk : k < 4) :
    let c : CrierId := ⟨h, b, k⟩
    let m := s.cycleFrom h b due
    let w := s.wordAt h b m (s.brPage h b) (s.get CR_STATUS_C.PC c.ix)
    ∀ n, d = ⟨h, .bell n, due, [b]⟩ → s.deliveries = [d] → s.delivers h b m = true →
      s.crierAwaits c 1 n m = true → (∀ j < 4, j ≠ k → s.crierRuns ⟨h, b, j⟩ = false) →
      (∀ j < 4, Tab.find s.crWas ⟨h, b, j⟩ = none) → crierLegal w = true →
      s.errorIn (.crierPage h b (s.brPage h b)) (4 * s.get CR_STATUS_C.PC c.ix) 3 = none →
      ∃ s', exec (.crierDelivery h b (.bell n)) s = .next s' ∧ s.crierNext { s' with deliveries := s.deliveries } c w m ∧
        s'.deliveries = [] := by
  intro c m w n hd waits ready awaits others free legal clean
  subst hd
  have ends : s.EndsWait c w m := ⟨rfl, legal, clean⟩
  have quiet := ends.withDeliveries []
  have taken := State.deliverTo_awaiting (src := .bell n) hk quiet awaits others free
  refine ⟨_, (State.execCrierDelivery_bell run waits ready).trans (congrArg _ taken), quiet.crierNext.withDeliveries, ?_⟩
  exact quiet.crierNext.only.deliveries

theorem paceTickCompletesAwait (s : State) (c : CrierId) (_ : s.crierRuns c = true) (run : s.clkRun = true) :
    let m := s.nextPace c
    let w := s.wordAt c.h c.b m (s.brPage c.h c.b) (s.get CR_STATUS_C.PC c.ix)
    m ≤ s.cycle c.h c.b → s.crierAwaits c 3 0 m = true → s.swapFirst c.h c.b m = false → Tab.find s.crWas c = none →
    crierLegal w = true → s.errorIn (.crierPage c.h c.b (s.brPage c.h c.b)) (4 * s.get CR_STATUS_C.PC c.ix) 3 = none →
    ∃ s', exec (.paceTick c) s = .next s' ∧ s.crierNext s' c w m ∧ s'.get CR_PACE.BT c.ix = (s.period c - 1) % 65536 ∧
      (s'.crier c).btAt = m + 1 := by
  intro m w begun awaits swap free legal clean
  have finds := s.ticked_finds c m
  have page : (s.ticked c m).brPage c.h c.b = s.brPage c.h c.b := finds.get _ (by decide) _
  have pc := finds.get CR_STATUS_C.PC (by decide) c.ix
  have ends : (s.ticked c m).EndsWait c w m :=
    ⟨by rw [page, pc, State.ticked_wordAt], legal, by rw [page, pc, State.errorIn_of_ecc finds.ecc]; exact clean⟩
  obtain ⟨went, left⟩ := ends.release
  obtain ⟨bt, btAt⟩ := State.crierCycle_late (w := w) (n := m) (by rw [s.ticked_btAt c m]; exact m.le_succ)
  have next := finds.crierNext went
  have ticks : s.atCycle c (fun s => s.paceDue c)
      (fun n s => some (if s.crierAwaits c 3 0 n then (s.ticked c n).crierRelease c n else s.ticked c n)) = (s.ticked c m).crierRelease c m :=
    State.atCycle_some free (State.paceDue_of_awaits run begun awaits swap) (by rw [awaits]; rfl) next.only
  refine ⟨_, congrArg (Host.Outcome.next · : State → Out) ticks, next, ?_, ?_⟩
  · rw [left.get _ (by decide) (by decide), bt, s.ticked_bt]
  · rw [left.btAt, btAt, s.ticked_btAt]

theorem crierWaits : Claims.CrierWaits :=
  ⟨awaitsInACycle, deliveryCompletesAwait, paceTickCompletesAwait⟩

end Sys2Proof.Proofs
end

section
/-! SUPPORT. Port accesses to a crier (R189, R191, R192, R198). -/

namespace Sys2Proof.Machine

variable {s : State} {c : CrierId} {m n : Nat}

/-- No instruction of cycle `m` has written a register that a port writes in it. -/
theorem State.instrWins_of_other {s1 : State} (r : Reg) (h : ∀ d, Tab.find s.crDid c = some d → d.cycle ≠ m) : s1.instrWins s c m r = s1 := by
  unfold State.instrWins
  split
  · next d found =>
    rw [if_neg (h d found)]
    rfl
  · rfl

theorem State.crierFlush_crier (s : State) (c : CrierId) : (s.crierFlush c).crier c = { s.crier c with tx := [], rx := [] } := State.crier_self _ _ _

theorem State.crierFlush_get (s : State) (c : CrierId) (f : Field) (i : Ix) : (s.crierFlush c).get f i = s.get f i := rfl

/-! ## RESTART -/

theorem State.crierRestartAt_crier (s : State) (c : CrierId) (m : Nat) :
    (s.crierRestartAt c m).crier c = { s.crier c with stalled := none, cued := none, next := m + 1, done := m, delay := 0 } := by
  rw [State.crierRestartAt, State.updC, State.crier_self]
  split <;> rfl

theorem State.crierRestartAt_get {f : Field} (hf : f.Beside CR_STATUS_C.STATE) (i : Ix) :
    (s.crierRestartAt c m).get f i = (((s.loadIsh c 0 0).loadOsh c 0 0).put CR_STATUS_C.PC c.ix (s.get CR_EXEC.START_PC c.ix)).get f i := by
  rw [State.crierRestartAt, State.updC, State.setCrier_get]
  split
  · exact State.get_put_beside hf _ _ _
  · rfl

theorem State.crierRestartAt_pc (s : State) (c : CrierId) (m : Nat) :
    (s.crierRestartAt c m).get CR_STATUS_C.PC c.ix = s.get CR_EXEC.START_PC c.ix := by
  rw [State.crierRestartAt_get (by decide), State.get_put_self _ _ _ _ (by decide) (by decide)]
  exact Nat.mod_eq_of_lt (s.get_lt CR_EXEC.START_PC c.ix)

theorem State.crierRestartAt_osh (s : State) (c : CrierId) (m : Nat) : (s.crierRestartAt c m).osh c = 0 := by
  rw [State.osh, State.crierRestartAt_get (by decide), State.get_put_beside (by decide)]
  exact State.loadOsh_osh 0 0

theorem State.crierRestartAt_oshLeft (s : State) (c : CrierId) (m : Nat) : (s.crierRestartAt c m).oshLeft c = 0 := by
  rw [State.oshLeft, State.crierRestartAt_get (by decide), State.get_put_beside (by decide)]
  exact State.loadOsh_oshLeft 0 0

theorem State.crierRestartAt_ish (s : State) (c : CrierId) (m : Nat) : (s.crierRestartAt c m).ish c = 0 := by
  rw [State.ish, State.crierRestartAt_get (by decide), State.get_put_beside (by decide), State.loadOsh_get (by decide) (by decide)]
  exact State.loadIsh_ish 0 0

theorem State.crierRestartAt_ishFill (s : State) (c : CrierId) (m : Nat) : (s.crierRestartAt c m).ishFill c = 0 := by
  rw [State.ishFill, State.crierRestartAt_get (by decide), State.get_put_beside (by decide), State.loadOsh_get (by decide) (by decide)]
  exact State.loadIsh_ishFill 0 0

/-! ## The FIFOs (R191) -/

theorem State.crierPort_push_room {v : Word} (room : (s.crier c).tx.length < s.txCap c) :
    ∃ was, s.crierPort c (.push v) = ({ s with crWas := was } : State).updC c (fun r => { r with tx := r.tx ++ [v] }) := by
  obtain ⟨was, e⟩ := s.crierPort_eq c (.push v)
  exact ⟨was, e.trans (if_pos room)⟩

theorem State.crierPort_push_full {v : Word} (full : s.txCap c ≤ (s.crier c).tx.length) :
    ∃ was, s.crierPort c (.push v) = ({ s with crWas := was } : State).set CR_STATUS_C.TX_OVER c.ix true := by
  obtain ⟨was, e⟩ := s.crierPort_eq c (.push v)
  exact ⟨was, e.trans (if_neg (Nat.not_lt.mpr full))⟩

theorem State.rxPop_cons {x : Word} {rest : List Word} (rx : (s.crier c).rx = x :: rest) :
    ∃ was, s.rxPop c = (x, ({ s with crWas := was } : State).updC c (fun r => { r with rx := r.rx.drop 1 })) := by
  obtain ⟨was, e⟩ := s.crierPort_eq c (.pop true)
  refine ⟨was, ?_⟩
  rw [State.rxPop, rx]
  exact congrArg _ e

theorem State.rxPop_nil (rx : (s.crier c).rx = []) :
    ∃ was, s.rxPop c = (0, ({ s with crWas := was } : State).set CR_STATUS_C.RX_UNDER c.ix true) := by
  obtain ⟨was, e⟩ := s.crierPort_eq c (.pop false)
  refine ⟨was, ?_⟩
  rw [State.rxPop, rx]
  exact congrArg _ e

theorem State.crierPort_flush (s : State) (c : CrierId) :
    ∃ was, s.crierPort c .flush = ({ s with crWas := was } : State).crierFlush c := ⟨_, rfl⟩

theorem State.crierPort_restart (s : State) (c : CrierId) :
    ∃ was, s.crierPort c .restart = ({ s with crWas := was } : State).crierRestartAt c (s.cycle c.h c.b) := ⟨_, rfl⟩

/-- A write of CR_FIFO in a cycle in which no instruction has written registers (R192). -/
theorem State.crierPort_crFifo (quiet : ∀ d, Tab.find s.crDid c = some d → d.cycle ≠ s.cycle c.h c.b) (v : Nat) :
    ∃ was, s.crierPort c (.reg (c.ix.reg .CR_FIFO) v) = ({ s with crWas := was } : State).crFifo c v := by
  obtain ⟨was, e⟩ := s.crierPort_eq c (.reg (c.ix.reg .CR_FIFO) v)
  exact ⟨was, e.trans (State.instrWins_of_other _ quiet)⟩

/-- What a read of CR_RXF hands to whoever made it. -/
def State.rxHanded (s : State) (by_ : Accessor) (c : CrierId) (v : Word) : State :=
  match by_ with
  | .host _ => { s with readOut := v }
  | .trader t => s.upd t (fun tr => { tr with rlatch := some (c.ix.reg .CR_RXF, v.toNat) })

/-- The access of a port that pops the RX FIFO. -/
def rxfPopAct (by_ : Accessor) (c : CrierId) (s : State) : State :=
  if s.reachesBarrow by_ c.h c.b then (s.rxPop c).2.rxHanded by_ c (s.rxPop c).1
  else match by_ with
    | .host _ => { s with readOut := 0 }
    | .trader _ => s

theorem execCrRxfPop_act (by_ : Accessor) (c : CrierId) (s : State) :
    execCrRxfPop by_ c s = .next (s.byPort (accPort by_) c.h (.crRxfPop by_ c) false (rxfPopAct by_ c)) := by
  cases by_ <;> rfl

/-! ## CR_FIFO (R189) -/

section

variable (s) (c) (v : Nat)

theorem State.crFifo_route (h : bits v 31 30 = s.get CR_FIFO.JOIN c.ix) : (s.crFifo c v).get CR_FIFO.RX_ROUTE c.ix = v / 2 ^ 29 % 2 := by
  rw [State.crFifo, if_pos h, State.get_put_self _ _ _ _ (by decide) (by decide), bits_eq_div]
  exact Nat.mod_mod_of_dvd _ (by decide)

theorem State.crFifo_refused (h : bits v 31 30 ≠ s.get CR_FIFO.JOIN c.ix) (bad : bits v 31 30 = 3 ∨ s.crierRuns c = true) :
    s.crFifo c v = s.set CR_STATUS_C.CFG_ERR c.ix true := by
  rw [State.crFifo, if_neg h, if_pos (by simpa [or_comm] using bad)]

theorem State.crFifo_joined (h : bits v 31 30 ≠ s.get CR_FIFO.JOIN c.ix) (good : bits v 31 30 ≠ 3) (stopped : s.crierRuns c = false) :
    (s.crFifo c v).get CR_FIFO.JOIN c.ix = bits v 31 30 ∧ (s.crFifo c v).crier c = { s.crier c with tx := [], rx := [] } := by
  rw [State.crFifo, if_neg h, if_neg (by simp [good, stopped]), State.crierFlush_crier, State.crierFlush_get, State.get_put_beside (by decide),
    State.get_put_self _ _ _ _ (by decide) (by decide), bits_eq_div]
  exact ⟨Nat.mod_mod _ _, rfl⟩

end

end Sys2Proof.Machine

namespace Sys2Proof.Proofs

open Sys2Proof.Machine

section

variable {s : State} {by_ : Accessor} {c : CrierId} (opened : s.portOpen (accPort by_) = true) (reached : s.reachesBarrow by_ c.h c.b = true)
include opened reached

theorem execCrTxfPush_eq (v : Word) : exec (.crTxfPush by_ c v) s = .next (s.crierPort c (.push v)) :=
  congrArg _ ((State.byPort_open opened _ _ _).trans (if_pos reached))

theorem execFlush_eq : exec (.flush by_ c) s = .next (s.crierPort c .flush) :=
  congrArg _ ((State.byPort_open opened _ _ _).trans (if_pos reached))

theorem execRestart_eq : exec (.restart by_ c) s = .next (s.crierPort c .restart) :=
  congrArg _ ((State.byPort_open opened _ _ _).trans (if_pos reached))

theorem execCrFifoWrite_eq (v : Word) : exec (.crFifoWrite by_ c v) s = .next (s.crierPort c (.reg (c.ix.reg .CR_FIFO) v.toNat)) :=
  congrArg _ ((State.byPort_open opened _ _ _).trans (if_pos reached))

theorem execCrRxfPop_eq : exec (.crRxfPop by_ c) s = .next ((s.rxPop c).2.rxHanded by_ c (s.rxPop c).1) := by
  have act : s.byPort (accPort by_) c.h (.crRxfPop by_ c) false (rxfPopAct by_ c) = (s.rxPop c).2.rxHanded by_ c (s.rxPop c).1 := by
    rw [State.byPort_open opened]
    exact if_pos reached
  exact (execCrRxfPop_act by_ c s).trans (congrArg _ act)

end

theorem crierPorts : Claims.CrierPorts := by
  intro s by_ c v r opened reached
  refine ⟨fun room => ?_, fun full => ?_, fun p x rest e rx => ?_, fun t x rest e rx => ?_, fun p e rx => ?_, ?_, ?_, fun quiet => ?_⟩
  · obtain ⟨was, e⟩ := State.crierPort_push_room (v := v) room
    refine ⟨_, execCrTxfPush_eq opened reached v, ?_⟩
    rw [e, State.updC, State.crier_self]
    exact ⟨rfl, rfl⟩
  · obtain ⟨was, e⟩ := State.crierPort_push_full (v := v) full
    refine ⟨_, execCrTxfPush_eq opened reached v, ?_⟩
    rw [e]
    exact ⟨rfl, State.is_set_self _ _ _ _ rfl (by decide), State.regsBut_set _ _ _ (List.mem_singleton_self _)⟩
  · subst e
    obtain ⟨was, e⟩ := State.rxPop_cons rx
    refine ⟨_, execCrRxfPop_eq opened reached, ?_⟩
    rw [e]
    refine ⟨rfl, (congrArg Crier.rx (State.crier_self _ _ _)).trans ?_, rfl⟩
    exact congrArg (List.drop 1) rx
  · subst e
    obtain ⟨was, e⟩ := State.rxPop_cons rx
    refine ⟨_, execCrRxfPop_eq opened reached, ?_⟩
    rw [e]
    refine ⟨congrArg Trader.rlatch (State.upd_trader_self _ _), (congrArg Crier.rx (State.crier_self _ _ _)).trans ?_, rfl⟩
    exact congrArg (List.drop 1) rx
  · subst e
    obtain ⟨was, e⟩ := State.rxPop_nil rx
    refine ⟨_, execCrRxfPop_eq opened reached, ?_⟩
    rw [e]
    exact ⟨rfl, State.is_set_self _ _ _ _ rfl (by decide)⟩
  · obtain ⟨was, e⟩ := s.crierPort_flush c
    refine ⟨_, execFlush_eq opened reached, ?_⟩
    rw [e, State.crierFlush_crier]
    exact ⟨rfl, rfl, rfl, rfl⟩
  · obtain ⟨was, e⟩ := s.crierPort_restart c
    refine ⟨_, execRestart_eq opened reached, ?_⟩
    rw [e, State.crierRestartAt_crier]
    exact ⟨State.crierRestartAt_pc _ _ _, State.crierRestartAt_ish _ _ _, State.crierRestartAt_ishFill _ _ _, State.crierRestartAt_osh _ _ _,
      State.crierRestartAt_oshLeft _ _ _, rfl, rfl⟩
  · obtain ⟨was, e⟩ := State.crierPort_crFifo quiet v.toNat
    have join : v.toNat / 2 ^ 30 = bits v.toNat 31 30 := by
      have := v.isLt
      rw [bits_eq_div]
      omega
    refine ⟨_, execCrFifoWrite_eq opened reached v, fun same => ?_, fun other bad => ?_, fun other good stopped => ?_⟩
    · rw [e]
      exact State.crFifo_route _ _ _ (join.symm.trans same)
    · rw [e, State.crFifo_refused _ _ _ (join ▸ other) (join ▸ bad)]
      exact ⟨State.is_set_self _ _ _ _ rfl (by decide), State.get_set_beside (by decide) _ _ _⟩
    · obtain ⟨joined, flushed⟩ := State.crFifo_joined { s with crWas := was } c v.toNat (join ▸ other) (join ▸ good) stopped
      rw [e, joined, flushed]
      exact ⟨join.symm, rfl, rfl⟩

/-- Settles O42: an AWAIT ends as its source says, in the cycle at hand or by a delivery or a pace tick, and port accesses act at the end
of their cycle. -/
theorem crierWaitsAndPorts : Obligations.CrierWaitsAndPorts := ⟨crierWaits, crierPorts⟩

end Sys2Proof.Proofs
end

section
/-! SUPPORT. Start and stop of the criers of a barrow (R198). -/

namespace Sys2Proof.Machine

variable {s : State} {h b : Nat}

/-! ## What one step of a loop sets and the others leave -/

theorem forAll_view_kept {α σ β : Type} {xs : List α} {f : α → σ → σ} {view : σ → β} {s : σ}
    (other : ∀ x ∈ xs, ∀ t, view (f x t) = view t) : view (forAll xs f s) = view s := by
  unfold forAll
  induction xs generalizing s with
  | nil => rfl
  | cons x xs ih => exact (ih fun y hy => other y (List.mem_cons_of_mem _ hy)).trans (other x (List.mem_cons_self ..) s)

theorem forAll_view_once {α σ β : Type} {xs : List α} {f : α → σ → σ} {view : σ → β} {g : β → β} {s : σ} {a : α}
    (hn : xs.Nodup) (ha : a ∈ xs) (own : ∀ t, view (f a t) = g (view t)) (other : ∀ x ∈ xs, x ≠ a → ∀ t, view (f x t) = view t) :
    view (forAll xs f s) = g (view s) := by
  obtain ⟨ys, zs, rfl⟩ := List.append_of_mem ha
  obtain ⟨-, hz, hd⟩ := List.nodup_append.mp hn
  have before : view (forAll ys f s) = view s := forAll_view_kept fun y hy t =>
    other y (List.mem_append_left _ hy) (hd y hy a (List.mem_cons_self ..)) t
  have after : ∀ t, view (forAll zs f t) = view t := fun t => forAll_view_kept fun z hz' t =>
    other z (List.mem_append_right _ (List.mem_cons_of_mem _ hz')) (fun e => (List.nodup_cons.mp hz).1 (e ▸ hz')) t
  calc view (forAll (ys ++ a :: zs) f s) = view (forAll zs f (f a (forAll ys f s))) := by rw [forAll_append]; rfl
    _ = g (view s) := by rw [after, own, before]

/-! ## What a start and a stop see of a crier -/

/-- The crier cycle of a barrow hangs on the clock, on the barrow and on BR_CLK. -/
theorem State.cycle_of {u : State} (clock : u.clkTick u.tick = s.clkTick s.tick) (barrow : u.barrow h b = s.barrow h b)
    (clk : u.rd ((ix h b).reg .BR_CLK) = s.rd ((ix h b).reg .BR_CLK)) : u.cycle h b = s.cycle h b := by
  have div : u.brDiv h b = s.brDiv h b := by
    rw [State.brDiv, State.brDiv, State.get_of_rd clk, State.get_of_rd (r := BR_CLK.DIV_FRAC) clk]
  simp only [State.cycle, State.cycleAt, State.grids, clock, barrow, div]

/-- A crier of a barrow set to run or to stand still, with the RUN bits `run` and a value of STATE. -/
def State.runTo (s : State) (c : CrierId) (run code : Nat) (f : Crier → Crier) : State :=
  ((s.put BR_RUN_SET.RUN c.br run).put CR_STATUS_C.STATE c.ix code).updC c f

section

variable {c d : CrierId} {run code : Nat} {f : Crier → Crier}

theorem State.runTo_runs (hd : d.br = c.br) (hk : d.c < 4) : (s.runTo c run code f).crierRuns d = bit run d.c := by
  rw [State.crierRuns, State.runTo, State.updC, State.setCrier_get, State.get_put_beside (by decide), hd,
    State.get_put_self _ _ _ _ (by decide) (by decide)]
  rw [bit_testBit, bit_testBit, Nat.testBit_mod_two_pow, decide_eq_true (show d.c < BR_RUN_SET.RUN.hi + 1 - BR_RUN_SET.RUN.lo from hk), Bool.true_and]

theorem State.runTo_state_self (hc : code < 8) : (s.runTo c run code f).get CR_STATUS_C.STATE c.ix = code := by
  rw [State.runTo, State.updC, State.setCrier_get, State.get_put_self _ _ _ _ (by decide) (by decide)]
  exact Nat.mod_eq_of_lt hc

theorem CrierId.reg_inj {n : RegName} (h : c.ix.reg n = d.ix.reg n) : c = d := by
  cases c; cases d
  simp only [CrierId.ix, Ix.reg, Reg.mk.injEq] at h
  simp [h]

theorem State.runTo_state_ne (hd : d ≠ c) : (s.runTo c run code f).get CR_STATUS_C.STATE d.ix = s.get CR_STATUS_C.STATE d.ix := by
  have other : d.ix.reg .CR_STATUS_C ≠ c.ix.reg .CR_STATUS_C := fun e => hd (CrierId.reg_inj e)
  rw [State.runTo, State.updC, State.setCrier_get, State.get_put_ne _ _ other, State.get_put_beside (by decide)]

theorem State.runTo_crier_self : (s.runTo c run code f).crier c = f (s.crier c) := State.crier_self _ _ _

theorem State.runTo_crier_ne (hd : d ≠ c) : (s.runTo c run code f).crier d = s.crier d := State.crier_ne _ _ _ _ hd

theorem State.runTo_cycle : (s.runTo c run code f).cycle h b = s.cycle h b := by
  refine State.cycle_of rfl rfl ?_
  rw [State.runTo, State.updC, State.setCrier_rd, State.rd_put_ne (Ix.reg_ne (by decide) _ _), State.rd_put_ne (Ix.reg_ne (by decide) _ _)]

end

/-! ## Start -/

/-- What a start of a crier sees and changes of it, and the cycle in which it acts. -/
structure StartView where
  cycle : Nat
  runs : Bool
  crier : Crier
  state : Nat

def State.startView (s : State) (c : CrierId) : StartView := ⟨s.cycle c.h c.b, s.crierRuns c, s.crier c, s.get CR_STATUS_C.STATE c.ix⟩

/-- A crier that starts at the end of cycle `m`. -/
def Crier.started (r : Crier) (m : Nat) : Crier :=
  { r with next := m + 1, done := m, delay := 0, stalled := none, cued := none, btAt := m + 1, lastTick := none }

def StartView.started (v : StartView) : StartView :=
  if v.runs then v else ⟨v.cycle, true, v.crier.started v.cycle, 1⟩

section

variable {c d : CrierId}

theorem State.crierStart_eq (s : State) (c : CrierId) (m : Nat) : s.crierStart c m =
    if s.crierRuns c then s else s.runTo c (s.get BR_RUN_SET.RUN c.br ||| 2 ^ c.c) 1 (Crier.started · m) := rfl

theorem State.startView_start_self (hk : c.c < 4) : (s.crierPort c .start).startView c = (s.startView c).started := by
  obtain ⟨was, e⟩ := s.crierPort_eq c .start
  rw [e, State.crierOp, State.crierStart_eq]
  split
  · next runs =>
    exact (if_pos (c := (s.startView c).runs = true) runs).symm
  · next stands =>
    refine Eq.trans ?_ (if_neg (c := (s.startView c).runs = true) stands).symm
    rw [State.startView, State.runTo_cycle, State.runTo_runs rfl hk, State.runTo_crier_self, State.runTo_state_self (by decide), bit_or_two_pow,
      decide_eq_true rfl, Bool.or_true]
    rfl

theorem State.startView_start_other (hb : d.br = c.br) (hk : d.c < 4) (hd : d ≠ c) : (s.crierPort c .start).startView d = s.startView d := by
  have hc : c.c ≠ d.c := fun e => hd (by cases c; cases d; simp_all [CrierId.br])
  obtain ⟨was, e⟩ := s.crierPort_eq c .start
  rw [e, State.crierOp, State.crierStart_eq]
  split
  · rfl
  · rw [State.startView, State.runTo_cycle, State.runTo_runs hb hk, State.runTo_crier_ne hd, State.runTo_state_ne hd, bit_or_two_pow,
      decide_eq_false hc, Bool.or_false, ← hb]
    rfl

end

theorem State.criersStart_view (s : State) (h b mask : Nat) {k : Nat} (hk : k < 4) : (s.criersStart h b mask).startView ⟨h, b, k⟩ =
    if bit mask k then (s.startView ⟨h, b, k⟩).started else s.startView ⟨h, b, k⟩ := by
  have other : ∀ j ∈ ones 4 mask, j ≠ k → ∀ t : State, (t.crierPort ⟨h, b, j⟩ .start).startView ⟨h, b, k⟩ = t.startView ⟨h, b, k⟩ :=
    fun j _ e t => State.startView_start_other rfl hk fun e' => e (congrArg CrierId.c e').symm
  split
  · next named =>
    exact forAll_view_once (view := fun t : State => t.startView ⟨h, b, k⟩) (g := StartView.started) (ones_nodup 4 mask)
      (mem_ones.mpr ⟨hk, named⟩) (fun t => State.startView_start_self hk) other
  · next free =>
    exact forAll_view_kept (view := fun t : State => t.startView ⟨h, b, k⟩) fun j hj => other j hj fun e => free (e ▸ (mem_ones.mp hj).2)

theorem State.criersStart_runs (s : State) (h b mask : Nat) {k : Nat} (hk : k < 4) :
    bit ((s.criersStart h b mask).get BR_RUN_SET.RUN (ix h b)) k = (bit (s.get BR_RUN_SET.RUN (ix h b)) k || bit mask k) := by
  have view := s.criersStart_view h b mask hk
  have runs : ((s.startView ⟨h, b, k⟩).started).runs = true := by
    unfold StartView.started
    split
    · assumption
    · rfl
  refine (congrArg StartView.runs view).trans ?_
  cases bit mask k
  · exact (Bool.or_false _).symm
  · exact runs.trans (Bool.or_true _).symm

/-! ## Stop -/

/-- What a stop of a crier sees and changes of it: whether it runs, and STATE. -/
def State.stopView (s : State) (c : CrierId) : Bool × Nat := (s.crierRuns c, s.get CR_STATUS_C.STATE c.ix)

def stopped (v : Bool × Nat) : Bool × Nat := if v.1 then (false, 0) else v

section

variable {c d : CrierId}

theorem State.crierStopAt_eq (s : State) (c : CrierId) (n code : Nat) : s.crierStopAt c n code =
    (s.paceTo c n).runTo c (setBits ((s.paceTo c n).get BR_RUN_SET.RUN c.br) c.c c.c 0) code
      (fun r => { r with delay := 0, stalled := none, cued := none }) := rfl

theorem State.stopView_stop_self (hk : c.c < 4) : (s.crierPort c .stop).stopView c = stopped (s.stopView c) := by
  obtain ⟨was, e⟩ := s.crierPort_eq c .stop
  rw [e, State.crierOp, State.crierStopAt_eq]
  split
  · next runs =>
    refine Eq.trans ?_ (if_pos (c := (s.stopView c).1 = true) runs).symm
    rw [State.stopView, State.runTo_runs rfl hk, State.runTo_state_self (by decide)]
    exact congrArg (·, 0) ((bit_setBits_one _ c.c false c.c).trans (if_pos rfl))
  · next stands => exact (if_neg (c := (s.stopView c).1 = true) stands).symm

theorem State.stopView_stop_other (hb : d.br = c.br) (hk : d.c < 4) (hd : d ≠ c) : (s.crierPort c .stop).stopView d = s.stopView d := by
  have hc : d.c ≠ c.c := fun e => hd (by cases c; cases d; simp_all [CrierId.br])
  obtain ⟨was, e⟩ := s.crierPort_eq c .stop
  rw [e, State.crierOp, State.crierStopAt_eq]
  split
  · have paced := State.paceTo_finds { s with crWas := was } c (s.cycle c.h c.b + 1)
    have runs : bit (setBits (s.get BR_RUN_SET.RUN c.br) c.c c.c 0) d.c = bit (s.get BR_RUN_SET.RUN d.br) d.c :=
      ((bit_setBits_one _ c.c false d.c).trans (if_neg hc)).trans (by rw [hb])
    rw [State.stopView, State.runTo_runs hb hk, State.runTo_state_ne hd, paced.get _ (by decide), paced.get _ (by decide)]
    exact congrArg (·, _) runs
  · rfl

end

theorem State.criersStop_view (s : State) (h b mask : Nat) {k : Nat} (hk : k < 4) : (s.criersStop h b mask).stopView ⟨h, b, k⟩ =
    if bit mask k then stopped (s.stopView ⟨h, b, k⟩) else s.stopView ⟨h, b, k⟩ := by
  have other : ∀ j ∈ ones 4 mask, j ≠ k → ∀ t : State, (t.crierPort ⟨h, b, j⟩ .stop).stopView ⟨h, b, k⟩ = t.stopView ⟨h, b, k⟩ :=
    fun j _ e t => State.stopView_stop_other rfl hk fun e' => e (congrArg CrierId.c e').symm
  split
  · next named =>
    exact forAll_view_once (view := fun t : State => t.stopView ⟨h, b, k⟩) (g := stopped) (ones_nodup 4 mask)
      (mem_ones.mpr ⟨hk, named⟩) (fun t => State.stopView_stop_self hk) other
  · next free =>
    exact forAll_view_kept (view := fun t : State => t.stopView ⟨h, b, k⟩) fun j hj => other j hj fun e => free (e ▸ (mem_ones.mp hj).2)

theorem State.criersStop_runs (s : State) (h b mask : Nat) {k : Nat} (hk : k < 4) :
    bit ((s.criersStop h b mask).get BR_RUN_SET.RUN (ix h b)) k = (bit (s.get BR_RUN_SET.RUN (ix h b)) k && !bit mask k) := by
  have view := s.criersStop_view h b mask hk
  have stands : (stopped (s.stopView ⟨h, b, k⟩)).1 = false := by
    unfold stopped
    split
    · rfl
    · next stands => exact Bool.not_eq_true _ ▸ stands
  refine (congrArg Prod.fst view).trans ?_
  cases bit mask k
  · exact (Bool.and_true _).symm
  · exact stands.trans (Bool.and_false _).symm

end Sys2Proof.Machine

namespace Sys2Proof.Proofs

open Sys2Proof.Machine

section

variable {s : State} {by_ : Accessor} {h b : Nat} (opened : s.portOpen (accPort by_) = true) (reached : s.reachesBarrow by_ h b = true)
include opened reached

theorem execCrierStart_eq (mask : Nat) : exec (.crierStart by_ h b mask) s = .next (s.criersStart h b mask) :=
  congrArg _ ((State.byPort_open opened _ _ _).trans (if_pos reached))

theorem execCrierStop_eq (mask : Nat) : exec (.crierStop by_ h b mask) s = .next (s.criersStop h b mask) :=
  congrArg _ ((State.byPort_open opened _ _ _).trans (if_pos reached))

theorem criersStart_starts (mask : Nat) (hm : mask < 16) : ∃ s', exec (.crierStart by_ h b mask) s = .next s' ∧
    s'.get BR_RUN_SET.RUN (ix h b) = s.get BR_RUN_SET.RUN (ix h b) ||| mask ∧
    ∀ k < 4, bit mask k = true → s.crierRuns ⟨h, b, k⟩ = false →
      (s'.crier ⟨h, b, k⟩).next = s.cycle h b + 1 ∧ s'.get CR_STATUS_C.STATE (ix h b k) = 1 := by
  refine ⟨_, execCrierStart_eq opened reached mask, ?_, fun k hk named stands => ?_⟩
  · have before := s.get_lt BR_RUN_SET.RUN (ix h b)
    refine Nat.eq_of_testBit_eq fun k => ?_
    by_cases hk : k < 4
    · have runs := State.criersStart_runs s h b mask hk
      simpa only [Nat.testBit_or, bit_testBit] using runs
    · have high : 2 ^ 4 ≤ 2 ^ k := Nat.pow_le_pow_right (by decide) (Nat.not_lt.mp hk)
      have none : ∀ x < 2 ^ 4, x.testBit k = false := fun x hx => Nat.testBit_lt_two_pow (hx.trans_le high)
      rw [none _ (State.get_lt _ BR_RUN_SET.RUN _), none _ (Nat.or_lt_two_pow (n := 4) before hm)]
  · have view := s.criersStart_view h b mask hk
    rw [if_pos named, StartView.started, if_neg (by simp [State.startView, stands])] at view
    exact ⟨congrArg (fun v => v.crier.next) view, congrArg StartView.state view⟩

theorem criersStop_stops (mask : Nat) : ∃ s', exec (.crierStop by_ h b mask) s = .next s' ∧
    (∀ k < 4, bit (s'.get BR_RUN_SET.RUN (ix h b)) k = (bit (s.get BR_RUN_SET.RUN (ix h b)) k && !bit mask k)) ∧
    ∀ k < 4, bit mask k = true → s.crierRuns ⟨h, b, k⟩ = true → s'.get CR_STATUS_C.STATE (ix h b k) = 0 := by
  refine ⟨_, execCrierStop_eq opened reached mask, fun k hk => ?_, fun k hk named runs => ?_⟩
  · exact State.criersStop_runs s h b mask hk
  · have view := s.criersStop_view h b mask hk
    rw [if_pos named, stopped, if_pos (by exact runs)] at view
    exact congrArg Prod.snd view

end

end Sys2Proof.Proofs
end

section
/-! SUPPORT. Writes of a barrow: its clock, its instruction words and its page (R173, R195, R197, R201). -/

namespace Sys2Proof.Machine

variable {s : State} {h b : Nat}

/-! ## The clock (R173) -/

theorem State.brClkWrite_barrow (s : State) (h b v : Nat) : (s.brClkWrite h b v).barrow h b =
    { s.barrow h b with
      base := s.cycleStart h b (s.cycle h b + 1), cycle0 := s.cycle h b + 1,
      grids := if (s.barrow h b).base < s.cycleStart h b (s.cycle h b + 1) then
          (((s.barrow h b).base, (s.barrow h b).cycle0, s.brDiv h b) :: (s.barrow h b).grids).take 4
        else (s.barrow h b).grids } := State.barrow_self _ _ _ _

theorem State.brClkWrite_rd (s : State) (h b v : Nat) : (s.brClkWrite h b v).rd ((ix h b).reg .BR_CLK) = v % 2 ^ 64 :=
  State.rd_wr_self _ _ _

theorem State.brClkWrite_grids (v : Nat) (later : (s.barrow h b).base < s.cycleStart h b (s.cycle h b + 1)) :
    ∃ div older, (s.brClkWrite h b v).grids h b = (s.cycleStart h b (s.cycle h b + 1), s.cycle h b + 1, div) ::
      ((s.barrow h b).base, (s.barrow h b).cycle0, s.brDiv h b) :: older := by
  rw [State.grids, State.brClkWrite_barrow, if_pos later]
  exact ⟨_, _, rfl⟩

/-- A new grid begins with the next cycle: the one in progress begins by the grid that it belongs to. -/
theorem State.brClkWrite_cycleStart (v : Nat) (later : (s.barrow h b).base < s.cycleStart h b (s.cycle h b + 1))
    (begun : (s.barrow h b).cycle0 ≤ s.cycle h b) :
    (s.brClkWrite h b v).cycleStart h b (s.cycle h b) = s.cycleStart h b (s.cycle h b) := by
  obtain ⟨div, older, grids⟩ := State.brClkWrite_grids v later
  have now : s.cycleStart h b (s.cycle h b) = gridStart ((s.barrow h b).base, (s.barrow h b).cycle0, s.brDiv h b) (s.cycle h b) := by
    simp [State.cycleStart, State.grids, begun]
  rw [now, State.cycleStart, grids]
  simp [begun]

/-! ## Instruction words (R195, R201) -/

theorem State.pageWrite_get (s : State) (h b page w v : Nat) (f : Field) (i : Ix) : (s.pageWrite h b page w v).get f i = s.get f i := rfl

theorem State.pageWrite_read (wf : s.mem.wf = true) (page w v y : Nat) : let at_ := (Arr.crierPage h b page).base + 4 * w
    Memory.read (s.pageWrite h b page w v).mem y =
      if at_ ≤ y ∧ y < at_ + 4 then BitVec.ofNat 8 (v % 2 ^ 24 / 256 ^ (y - at_)) else Memory.read s.mem y := by
  intro at_
  refine (State.store_read (by exact wf) y).trans ?_
  rw [toBytes_length]
  split
  · next inside =>
    rw [toBytes_getElem? _ _ (by omega), Option.getD_some]
  · rfl

theorem State.brIdataWrite_mem (s : State) (h b v : Nat) :
    (s.brIdataWrite h b v).mem = (s.pageWrite h b (s.get BR_IADDR.PAGE (ix h b)) (s.get BR_IADDR.WORD (ix h b)) v).mem := by
  rw [State.brIdataWrite]
  split <;> rfl

theorem State.brIdataWrite_word (s : State) (h b v : Nat) : (s.brIdataWrite h b v).get BR_IADDR.WORD (ix h b) =
    if s.is BR_IADDR.AUTO_INC (ix h b) then (s.get BR_IADDR.WORD (ix h b) + 1) % 64 else s.get BR_IADDR.WORD (ix h b) := by
  rw [State.brIdataWrite]
  split
  · next inc =>
    rw [State.get_put_self _ _ _ _ (by decide) (by decide), if_pos (by exact inc)]
    exact Nat.mod_mod _ _
  · next stays => rw [if_neg (by exact stays), State.pageWrite_get]

theorem State.brIdataWrite_regsBut (s : State) (h b v : Nat) : s.regsBut (s.brIdataWrite h b v) [(ix h b).reg .BR_IADDR] := by
  rw [State.brIdataWrite]
  split
  · exact State.regsBut_put (s := s.pageWrite h b _ _ v) _ _ _ (List.mem_singleton_self _)
  · exact .refl s _

/-! ## PAGE_SEL (R197) -/

/-- The barrow after a write of PAGE_SEL. -/
def State.selected (s : State) (h b : Nat) (page : Bool) : Barrow :=
  if b2n page = s.brPage h b then { s.barrow h b with selAt := none }
  else { s.barrow h b with selAt := some (s.tick + 1), swapPg := false }

theorem State.barrowPageSel_eq (s : State) (h b : Nat) (page : Bool) : s.barrowPageSel h b page =
    ((s.set BR_CTRL.PAGE_SEL (ix h b) page).setBarrow h b (s.selected h b page)).set BR_STATUS.PAGE_PEND (ix h b)
      ((s.selected h b page).selAt.isSome || (s.selected h b page).swapPg) := by
  have same : (s.set BR_CTRL.PAGE_SEL (ix h b) page).brPage h b = s.brPage h b := State.get_set_beside (by decide) _ _ _
  rw [State.barrowPageSel, State.selected, same]
  rfl

theorem State.barrowPageSel_barrow (s : State) (h b : Nat) (page : Bool) : (s.barrowPageSel h b page).barrow h b = s.selected h b page := by
  rw [State.barrowPageSel_eq, State.set_barrow, State.barrow_self]

theorem State.barrowPageSel_pend (s : State) (h b : Nat) (page : Bool) : (s.barrowPageSel h b page).is BR_STATUS.PAGE_PEND (ix h b) =
    ((s.selected h b page).selAt.isSome || (s.selected h b page).swapPg) := by
  rw [State.barrowPageSel_eq, State.is_set_self _ _ _ _ rfl (by decide)]

theorem State.barrowPageSel_sel (s : State) (h b : Nat) (page : Bool) : (s.barrowPageSel h b page).is BR_CTRL.PAGE_SEL (ix h b) = page := by
  rw [State.barrowPageSel_eq, State.is_set_beside (by decide), State.setBarrow_is, State.is_set_self _ _ _ _ rfl (by decide)]

theorem State.barrowPageSel_brPage (s : State) (h b : Nat) (page : Bool) : (s.barrowPageSel h b page).brPage h b = s.brPage h b := by
  rw [State.brPage, State.barrowPageSel_eq, State.get_set_beside (by decide), State.setBarrow_get, State.get_set_beside (by decide), State.brPage]

end Sys2Proof.Machine

namespace Sys2Proof.Proofs

open Sys2Proof.Machine

section

variable {s : State} {by_ : Accessor} {h b : Nat} (opened : s.portOpen (accPort by_) = true) (reached : s.reachesBarrow by_ h b = true)
include opened reached

theorem execKick_eq (mask : Nat) : exec (.kick by_ h b mask) s = .next (s.kickCriers h b mask) :=
  congrArg _ ((State.byPort_open opened _ _ _).trans (if_pos reached))

theorem execBrClkWrite_eq (v : Word) : exec (.brClkWrite by_ h b v) s = .next (s.brClkWrite h b v.toNat) :=
  congrArg _ ((State.byPort_open opened _ _ _).trans (if_pos reached))

theorem execBarrowPageSel_eq (page : Bool) : exec (.barrowPageSel by_ h b page) s = .next (s.barrowPageSel h b page) :=
  congrArg _ ((State.byPort_open opened _ _ _).trans (if_pos reached))

theorem execBrIdataWrite_eq (ready : s.clearing = false) (v : Word) : exec (.brIdataWrite by_ h b v) s = .next (s.brIdataWrite h b v.toNat) := by
  have act : s.byPort (accPort by_) h (.brIdataWrite by_ h b v) (s.inHall h && s.clearing) (fun s =>
      if s.reachesBarrow by_ h b then s.brIdataWrite h b v.toNat else s) = s.brIdataWrite h b v.toNat := by
    rw [ready, Bool.and_false, State.byPort_open opened, if_pos reached]
  exact congrArg _ act

omit opened in
theorem execInstructionPageWrite_eq {p : Nat} (open_ : s.portOpen p = true) (ready : s.clearing = false) (page k : Nat) (v : Word) :
    exec (.instructionPageWrite p h b page k v) s = .next (s.pageWrite h b page k v.toNat) := by
  have present : s.inHall h = true := by
    simp only [State.reachesBarrow, Bool.and_eq_true] at reached
    obtain ⟨⟨present, -⟩, -⟩ := reached
    exact present
  have act : s.byPort p h (.instructionPageWrite p h b page k v) (s.inHall h && s.clearing) (fun s =>
      if s.inHall h then s.pageWrite h b page k v.toNat else s) = s.pageWrite h b page k v.toNat := by
    rw [ready, Bool.and_false, State.byPort_open open_, if_pos present]
  exact congrArg _ act

theorem clockWrite (v : Word) : ∃ s', exec (.brClkWrite by_ h b v) s = .next s' ∧ s'.rd ((ix h b).reg .BR_CLK) = v.toNat ∧
    { s'.barrow h b with grids := (s.barrow h b).grids } =
      { s.barrow h b with base := s.cycleStart h b (s.cycle h b + 1), cycle0 := s.cycle h b + 1 } ∧
    ((s.barrow h b).base < s.cycleStart h b (s.cycle h b + 1) → (s.barrow h b).cycle0 ≤ s.cycle h b →
      s'.cycleStart h b (s.cycle h b) = s.cycleStart h b (s.cycle h b)) ∧
    s.regsBut s' [(ix h b).reg .BR_CLK] := by
  refine ⟨_, execBrClkWrite_eq opened reached v, ?_, ?_, State.brClkWrite_cycleStart _, ?_⟩
  · rw [State.brClkWrite_rd]
    exact Nat.mod_eq_of_lt (v.isLt.trans (by decide))
  · rw [State.brClkWrite_barrow]
  · exact State.regsBut_wr (s := s.newGrid h b _ _) _ _ (List.mem_singleton_self _)

theorem pageSelected (page : Bool) : ∃ s', exec (.barrowPageSel by_ h b page) s = .next s' ∧ s'.is BR_CTRL.PAGE_SEL (ix h b) = page ∧
    s'.brPage h b = s.brPage h b ∧
    (b2n page = s.brPage h b → s'.barrow h b = { s.barrow h b with selAt := none } ∧
      s'.is BR_STATUS.PAGE_PEND (ix h b) = (s.barrow h b).swapPg) ∧
    (b2n page ≠ s.brPage h b → s'.is BR_STATUS.PAGE_PEND (ix h b) = true ∧
      s'.barrow h b = { s.barrow h b with selAt := some (s.tick + 1), swapPg := false }) := by
  refine ⟨_, execBarrowPageSel_eq opened reached page, s.barrowPageSel_sel h b page, s.barrowPageSel_brPage h b page, fun active => ?_,
    fun other => ?_⟩
  · rw [State.barrowPageSel_barrow, State.barrowPageSel_pend, State.selected, if_pos active]
    exact ⟨rfl, Bool.false_or _⟩
  · rw [State.barrowPageSel_barrow, State.barrowPageSel_pend, State.selected, if_neg other]
    exact ⟨rfl, rfl⟩

end

/-- Settles O43: the criers of a mask start or stop one after the other, each on its own, and the other writes of a barrow set its clock,
its words or its page. -/
theorem barrowCommands : Obligations.BarrowCommands := by
  intro s by_ h b v inv opened reached
  refine ⟨criersStart_starts opened reached, fun mask _ => criersStop_stops opened reached mask, execKick_eq opened reached,
    clockWrite opened reached v, fun ready => ?_, fun p page k open_ ready => ?_, pageSelected opened reached⟩
  · refine ⟨_, execBrIdataWrite_eq opened reached ready v, fun y => ?_, State.brIdataWrite_word _ _ _ _, State.brIdataWrite_regsBut _ _ _ _⟩
    rw [State.brIdataWrite_mem]
    exact State.pageWrite_read inv.mem _ _ _ y
  · exact ⟨_, execInstructionPageWrite_eq reached open_ ready page k v, State.pageWrite_read inv.mem page k v.toNat, rfl⟩

end Sys2Proof.Proofs
end
